-- ==== Sys2Proof/Word.lean ====
section
/-! DEFINITION. The word types of the Fencel 7400 and the references that name its agents. -/
namespace Sys2Proof

abbrev Byte := BitVec 8
/-- An instruction word (R243) or a 32-bit link field. -/
abbrev Word := BitVec 32
/-- The 64 data bits of a register image (R156). -/
abbrev DWord := BitVec 64

/-- A page core, named by its launch, its page set and its place in the page set (R268: PSX, PSY). -/
structure CoreRef where
  lid : Nat
  pset : Nat
  px : Nat
  py : Nat
  deriving DecidableEq, Repr

/-- An element of a plot (R253): plot column and row relative to the page set, 0 to 35, and its place: the element index, plus 256 for
each context below its own, which keeps the programs of one plot apart. -/
structure ElemRef where
  lid : Nat
  pset : Nat
  x : Nat
  y : Nat
  idx : Nat
  deriving DecidableEq, Repr

/-- A memory node of a launch (R181, R234), by its index in the image's memory-node table. -/
structure NodeRef where
  lid : Nat
  node : Nat
  deriving DecidableEq, Repr

/-- A context set of a page (R106): the forager, the array and the sort network belong to it. -/
structure PageRef where
  lid : Nat
  pset : Nat
  px : Nat
  py : Nat
  deriving DecidableEq, Repr

end Sys2Proof
end

