-- ==== Sys2Proof/Ids.lean ====
section
/-! DEFINITION. What arrives with a device event: host messages, packets, and the names of requests, filters and agents. -/
namespace Sys2Proof

/-- A host message as R35 lays it out, with the Volop port and virtual channel it arrives on. -/
structure HostMsg where
  port : Nat
  node : Nat
  vc : Nat
  pver : Nat
  zero : Nat
  tag : Nat
  body : List Byte
  deriving DecidableEq, Repr

/-- A RoCE v2 packet as R33 distinguishes them, in the Ethernet frame of R32 that brings it. -/
structure RocePacket where
  /-- The Ethernet port, the length of the frame, its VLAN tag (identifier and priority) if it bears one, and, of a priority flow control
  frame, the priority and whether it pauses it (R32). -/
  port : Nat := 0
  frame : Nat := 0
  vlan : Option (Nat × Nat) := none
  pfc : Option (Nat × Bool) := none
  icrcOk : Bool
  /-- true: Reliable Connection. -/
  rc : Bool
  qp : Nat
  /-- 0 SEND, 1 SEND with immediate, 2 RDMA WRITE, 3 RDMA WRITE with immediate, 4 RDMA READ, 5 atomic,
  6 congestion notification; nothing above is listed. -/
  op : Nat
  /-- The immediate data of SEND or RDMA WRITE with immediate. -/
  imm : Nat := 0
  key : Nat
  addr : Nat
  len : Nat
  data : List Byte
  ce : Bool
  deriving DecidableEq, Repr

/-- A memory request that a node sends over Volop VC 2 (R29): the address space and address it names, its length, and the bytes of a write. -/
structure MemReq where
  wr : Bool := false
  asid : Nat := 0
  addr : Nat := 0
  len : Nat := 0
  data : List Byte := []
  deriving DecidableEq, Repr, Inhabited

/-- A source of shard data (R44): a RoCE queue pair, remote address and key, or a Volop node and address. -/
structure ShardSource where
  roce : Bool := false
  from_ : Nat := 0
  addr : Nat := 0
  key : Nat := 0
  deriving DecidableEq, Repr, Inhabited

/-- What packages of one layer pipeline tell one another over Volop VC 3 (R82, R101, R102): a guess record, a drain report, a commit notice, and
that an entry retires. -/
inductive PipeMsg where
  | guess (gpix lane pos gen tok : Nat) (conf : BitVec 36)
  | drained (lane serial : Nat)
  | notice (lane gen : Nat)
  | retire (lane serial : Nat)
  | none
  deriving DecidableEq, Repr, Inhabited

/-- A request that can meet a cross-die time-out (R19). -/
inductive CrossReq where
  | load (c : CoreRef) (uid slot : Nat)
  | posted (c : CoreRef) (seq : Nat)
  | tile (c : CoreRef) (seq : Nat)
  | stream (c : CoreRef) (seq : Nat)
  | fence (c : CoreRef) (serial : Nat)
  | node (n : NodeRef) (elem : Nat)
  | engine (die engine : Nat)
  | remote (lid chan : Nat)
  deriving DecidableEq, Repr

/-- An access that reaches a bank (R178): a posted access of a page core, or an element of a memory node. -/
inductive BankReq where
  | core (c : CoreRef) (seq : Nat)
  | node (n : NodeRef) (elem : Nat)
  | held (line : Nat)
  deriving DecidableEq, Repr

/-- The filters of R99, and the source ports, which keep ranges under R410. -/
inductive FilterRef where
  | plot (lid pset x y : Nat)
  | chan (lid num : Nat)
  | node (n : NodeRef)
  | forager (p : PageRef) (ctx : Nat)
  | port (c : CoreRef) (n : Nat)
  deriving DecidableEq, Repr

/-- The receivers of a commit notice (R102). -/
inductive NoticeTo where
  | egress (lid chan : Nat)
  | node (n : NodeRef)
  deriving DecidableEq, Repr

/-- Who waits at a bank (R179). -/
inductive Waiter where
  | core (c : CoreRef) (uid slot kind : Nat)
  | node (n : NodeRef) (elem : Nat)
  | engine (c : CoreRef) (seq : Nat)
  deriving DecidableEq, Repr

/-- The agents that hold translations (R175): a page core, a cluster of a memory-port die, or what translates for the engines and hosts at a
die. -/
inductive TlbOwner where
  | core (c : CoreRef)
  | cluster (d k : Nat)
  | die (d : Nat)
  deriving DecidableEq, Repr

/-- An agent with a no-progress counter (R211). -/
inductive Agent where
  | elem (e : ElemRef)
  | node (n : NodeRef)
  | chan (lid num : Nat)
  | core (c : CoreRef)
  deriving DecidableEq, Repr

/-- Why a cut is made (R204, R209, R215, R373). -/
inductive CutWhy where
  | preempt
  | graft
  | stop
  | ckptCont (c : CoreRef)
  | ckptYield (c : CoreRef)
  deriving DecidableEq, Repr

end Sys2Proof
end

