-- ==== Sys2Proof/Syntax.lean ====
section
/-! DEFINITION. The instructions of the Fencel 7400: one constructor per row of the opcode table.
The first part are the 174 instruction words of R257, with the fields of their encodings; the second part are the
device events of the table, which have no instruction word and carry what arrives with them. -/
namespace Sys2Proof

/-- One constructor per row of the opcode table. -/
inductive Instr where
  /-- nop (R257) -/
  | nop (p : BitVec 2) (t : BitVec 9) (u : BitVec 9) (x : BitVec 4)
  /-- getr (R265) -/
  | getr (p : BitVec 2) (t : BitVec 9) (k : BitVec 5)
  /-- setr (R265) -/
  | setr (p : BitVec 2) (k : BitVec 5)
  /-- nullw (R265) -/
  | nullw (p : BitVec 2) (k : BitVec 5)
  /-- movi (R265) -/
  | movi (p : BitVec 2) (t : BitVec 9) (i : BitVec 13)
  /-- movk (R265) -/
  | movk (p : BitVec 2) (t : BitVec 9) (i : BitVec 13)
  /-- getc (R269) -/
  | getc (p : BitVec 2) (t : BitVec 9) (n : BitVec 8)
  /-- setc (R269) -/
  | setc (p : BitVec 2) (n : BitVec 8)
  /-- bx (R270) -/
  | bx (p : BitVec 2) (e : BitVec 3) (f : BitVec 19)
  /-- bxr (R270) -/
  | bxr (p : BitVec 2) (e : BitVec 3)
  /-- callb (R271) -/
  | callb (p : BitVec 2) (e : BitVec 3) (f : BitVec 19)
  /-- retb (R271) -/
  | retb (p : BitVec 2) (e : BitVec 3)
  /-- add (R272) -/
  | add (p : BitVec 2) (t : BitVec 9) (u : BitVec 9)
  /-- addi (R265) -/
  | addi (p : BitVec 2) (t : BitVec 9) (i : BitVec 13)
  /-- sub (R272) -/
  | sub (p : BitVec 2) (t : BitVec 9) (u : BitVec 9)
  /-- mul (R272) -/
  | mul (p : BitVec 2) (t : BitVec 9) (u : BitVec 9)
  /-- mulh[.n] (R272) -/
  | mulh (p : BitVec 2) (t : BitVec 9) (u : BitVec 9) (n : BitVec 1)
  /-- div[.n] (R273) -/
  | div (p : BitVec 2) (t : BitVec 9) (u : BitVec 9) (n : BitVec 1)
  /-- rem[.n] (R273) -/
  | rem (p : BitVec 2) (t : BitVec 9) (u : BitVec 9) (n : BitVec 1)
  /-- adds[.n] (R274) -/
  | adds (p : BitVec 2) (t : BitVec 9) (u : BitVec 9) (n : BitVec 1)
  /-- subs[.n] (R274) -/
  | subs (p : BitVec 2) (t : BitVec 9) (u : BitVec 9) (n : BitVec 1)
  /-- min[.n] (R274) -/
  | min (p : BitVec 2) (t : BitVec 9) (u : BitVec 9) (n : BitVec 1)
  /-- max[.n] (R274) -/
  | max (p : BitVec 2) (t : BitVec 9) (u : BitVec 9) (n : BitVec 1)
  /-- abs[.sat] (R274) -/
  | abs (p : BitVec 2) (t : BitVec 9) (u : BitVec 9) (s : BitVec 1)
  /-- neg[.sat] (R274) -/
  | neg (p : BitVec 2) (t : BitVec 9) (u : BitVec 9) (s : BitVec 1)
  /-- LEA (R275) -/
  | lea (p : BitVec 2) (t : BitVec 9) (u : BitVec 9) (s : BitVec 2)
  /-- lea.blk (R275) -/
  | leaBlk (p : BitVec 2) (t : BitVec 9) (u : BitVec 9)
  /-- and (R276) -/
  | andB (p : BitVec 2) (t : BitVec 9) (u : BitVec 9)
  /-- or (R276) -/
  | orB (p : BitVec 2) (t : BitVec 9) (u : BitVec 9)
  /-- xor (R276) -/
  | xorB (p : BitVec 2) (t : BitVec 9) (u : BitVec 9)
  /-- andn (R276) -/
  | andn (p : BitVec 2) (t : BitVec 9) (u : BitVec 9)
  /-- not (R276) -/
  | notB (p : BitVec 2) (t : BitVec 9) (u : BitVec 9)
  /-- shl (R277) -/
  | shl (p : BitVec 2) (t : BitVec 9) (u : BitVec 9)
  /-- shr (R277) -/
  | shr (p : BitVec 2) (t : BitVec 9) (u : BitVec 9)
  /-- shra (R277) -/
  | shra (p : BitVec 2) (t : BitVec 9) (u : BitVec 9)
  /-- rot (R277) -/
  | rot (p : BitVec 2) (t : BitVec 9) (u : BitVec 9)
  /-- clz (R278) -/
  | clz (p : BitVec 2) (t : BitVec 9) (u : BitVec 9)
  /-- popc (R278) -/
  | popc (p : BitVec 2) (t : BitVec 9) (u : BitVec 9)
  /-- bfx[.n] (R279) -/
  | bfx (p : BitVec 2) (t : BitVec 9) (u : BitVec 9) (n : BitVec 1)
  /-- bfi (R279) -/
  | bfi (p : BitVec 2) (t : BitVec 9) (u : BitVec 9)
  /-- cmp.cc[.n] (R280) -/
  | cmp (p : BitVec 2) (t : BitVec 9) (u : BitVec 9) (c : BitVec 3) (n : BitVec 1)
  /-- test[.z] (R280) -/
  | testBits (p : BitVec 2) (t : BitVec 9) (u : BitVec 9) (z : BitVec 1)
  /-- sel (R281) -/
  | sel (p : BitVec 2) (t : BitVec 9) (u : BitVec 9)
  /-- stkg (R282) -/
  | stkg (p : BitVec 2) (t : BitVec 9) (u : BitVec 9)
  /-- stks (R282) -/
  | stks (p : BitVec 2) (t : BitVec 9) (u : BitVec 9)
  /-- stkc (R282) -/
  | stkc (p : BitVec 2) (t : BitVec 9) (u : BitVec 9)
  /-- fadd (R285) -/
  | fadd (p : BitVec 2) (t : BitVec 9) (u : BitVec 9)
  /-- fsub (R285) -/
  | fsub (p : BitVec 2) (t : BitVec 9) (u : BitVec 9)
  /-- fmul (R285) -/
  | fmul (p : BitVec 2) (t : BitVec 9) (u : BitVec 9)
  /-- ffma (R285) -/
  | ffma (p : BitVec 2) (t : BitVec 9) (u : BitVec 9)
  /-- fdiv (R286) -/
  | fdiv (p : BitVec 2) (t : BitVec 9) (u : BitVec 9)
  /-- fsqrt (R286) -/
  | fsqrt (p : BitVec 2) (t : BitVec 9) (u : BitVec 9)
  /-- fmin (R287) -/
  | fmin (p : BitVec 2) (t : BitVec 9) (u : BitVec 9)
  /-- fmax (R287) -/
  | fmax (p : BitVec 2) (t : BitVec 9) (u : BitVec 9)
  /-- fabs (R287) -/
  | fabs (p : BitVec 2) (t : BitVec 9) (u : BitVec 9)
  /-- fneg (R287) -/
  | fneg (p : BitVec 2) (t : BitVec 9) (u : BitVec 9)
  /-- fcmp.cc (R288) -/
  | fcmp (p : BitVec 2) (t : BitVec 9) (u : BitVec 9) (c : BitVec 3)
  /-- fclass (R289) -/
  | fclass (p : BitVec 2) (t : BitVec 9) (u : BitVec 9)
  /-- fexp2 (R290) -/
  | fexp2 (p : BitVec 2) (t : BitVec 9) (u : BitVec 9)
  /-- flog2 (R290) -/
  | flog2 (p : BitVec 2) (t : BitVec 9) (u : BitVec 9)
  /-- frcp (R290) -/
  | frcp (p : BitVec 2) (t : BitVec 9) (u : BitVec 9)
  /-- frsq (R290) -/
  | frsq (p : BitVec 2) (t : BitVec 9) (u : BitVec 9)
  /-- ftanh (R290) -/
  | ftanh (p : BitVec 2) (t : BitVec 9) (u : BitVec 9)
  /-- cvt.f (R291) -/
  | cvt (p : BitVec 2) (t : BitVec 9) (u : BitVec 9) (f : BitVec 4)
  /-- narrow.f (R292) -/
  | narrow (p : BitVec 2) (t : BitVec 9) (u : BitVec 9) (f : BitVec 4)
  /-- final.f.m (R293) -/
  | final (p : BitVec 2) (t : BitVec 9) (f : BitVec 4) (m : BitVec 3)
  /-- scale (R294) -/
  | scale (p : BitVec 2) (t : BitVec 9) (u : BitVec 9)
  /-- mxsc.f (R295) -/
  | mxsc (p : BitVec 2) (t : BitVec 9) (u : BitVec 9) (f : BitVec 4)
  /-- dot4.o.g (R296) -/
  | dot4 (p : BitVec 2) (t : BitVec 9) (u : BitVec 9) (o : BitVec 1) (g : BitVec 2)
  /-- dot8.o.g (R296) -/
  | dot8 (p : BitVec 2) (t : BitVec 9) (u : BitVec 9) (o : BitVec 1) (g : BitVec 2)
  /-- addp.m.w (R297) -/
  | addp (p : BitVec 2) (t : BitVec 9) (u : BitVec 9) (m : BitVec 2) (w : BitVec 2)
  /-- shlp.w (R298) -/
  | shlp (p : BitVec 2) (t : BitVec 9) (u : BitVec 9) (w : BitVec 2)
  /-- shrp.k.w (R298) -/
  | shrp (p : BitVec 2) (t : BitVec 9) (u : BitVec 9) (k : BitVec 1) (w : BitVec 2)
  /-- bperm (R299) -/
  | bperm (p : BitVec 2) (t : BitVec 9) (u : BitVec 9)
  /-- sdcvt (R303) -/
  | sdcvt (p : BitVec 2) (t : BitVec 9) (u : BitVec 9)
  /-- sdadd (R302) -/
  | sdadd (p : BitVec 2) (t : BitVec 9) (u : BitVec 9)
  /-- sdmul (R302) -/
  | sdmul (p : BitVec 2) (t : BitVec 9) (u : BitVec 9)
  /-- sdcut (R304) -/
  | sdcut (p : BitVec 2) (t : BitVec 9) (u : BitVec 9)
  /-- sdcmp.cc (R305) -/
  | sdcmp (p : BitVec 2) (t : BitVec 9) (u : BitVec 9) (c : BitVec 3)
  /-- sdtowf (R306) -/
  | sdtowf (p : BitVec 2) (t : BitVec 9) (u : BitVec 9)
  /-- RNG (R307) -/
  | rng (p : BitVec 2) (t : BitVec 9) (u : BitVec 9) (w : BitVec 1)
  /-- in (R310) -/
  | inPort (p : BitVec 2) (t : BitVec 9) (n : BitVec 5) (k : BitVec 1) (s : BitVec 4)
  /-- in.cnt (R311) -/
  | inCnt (p : BitVec 2) (t : BitVec 9) (n : BitVec 5)
  /-- in.spc (R311) -/
  | inSpc (p : BitVec 2) (t : BitVec 9) (n : BitVec 5)
  /-- in.acc.sN (R311) -/
  | inAcc (p : BitVec 2) (t : BitVec 9) (k : BitVec 2) (s : BitVec 4)
  /-- in.mrk (R311) -/
  | inMrk (p : BitVec 2) (t : BitVec 9) (n : BitVec 5)
  /-- out (R310) -/
  | outPort (p : BitVec 2) (n : BitVec 8) (k : BitVec 1) (s : BitVec 4)
  /-- outm (R310) -/
  | outm (p : BitVec 2) (n : BitVec 8) (k : BitVec 1) (s : BitVec 4)
  /-- mrk (R310) -/
  | mrk (p : BitVec 2) (n : BitVec 8) (k : BitVec 1) (s : BitVec 4)
  /-- segl.r (R313) -/
  | segl (p : BitVec 2) (n : BitVec 8) (r : BitVec 2)
  /-- segn.q (R313) -/
  | segn (p : BitVec 2) (n : BitVec 8) (q : BitVec 5)
  /-- rsum.t.r (R314) -/
  | rsum (p : BitVec 2) (t : BitVec 9) (u : BitVec 9) (y : BitVec 2) (r : BitVec 2)
  /-- rmax.t.r (R314) -/
  | rmax (p : BitVec 2) (t : BitVec 9) (u : BitVec 9) (y : BitVec 2) (r : BitVec 2)
  /-- rmin.t.r (R314) -/
  | rmin (p : BitVec 2) (t : BitVec 9) (u : BitVec 9) (y : BitVec 2) (r : BitVec 2)
  /-- strm.mem.ld (R320) -/
  | strmMem (p : BitVec 2) (l : BitVec 5) (d : BitVec 1) (n : BitVec 5)
  /-- strm.tile.ld (R321) -/
  | strmTile (p : BitVec 2) (l : BitVec 5) (d : BitVec 1) (n : BitVec 5)
  /-- STRM_DRAIN (R322) -/
  | strmDrain (p : BitVec 2) (l : BitVec 5) (i : BitVec 7)
  /-- strm.acc.z.op.aK (R323) -/
  | strmAcc (p : BitVec 2) (n : BitVec 8) (z : BitVec 1) (o : BitVec 2) (k : BitVec 2)
  /-- rec.get.k (R315) -/
  | recGet (p : BitVec 2) (t : BitVec 9) (u : BitVec 9) (k : BitVec 4)
  /-- rec.set.k (R315) -/
  | recSet (p : BitVec 2) (t : BitVec 9) (u : BitVec 9) (k : BitVec 4)
  /-- rec.new.n (R315) -/
  | recNew (p : BitVec 2) (t : BitVec 9) (u : BitVec 9) (k : BitVec 4)
  /-- rec.done.k (R315) -/
  | recDone (p : BitVec 2) (t : BitVec 9) (u : BitVec 9) (k : BitVec 3)
  /-- rec.rej.k (R315) -/
  | recRej (p : BitVec 2) (t : BitVec 9) (u : BitVec 9) (k : BitVec 3)
  /-- steer[.o.q] (R316) -/
  | steer (p : BitVec 2) (t : BitVec 9) (u : BitVec 9) (o : BitVec 1) (q : BitVec 2)
  /-- merge.m (R317) -/
  | merge (p : BitVec 2) (t : BitVec 9) (u : BitVec 9) (m : BitVec 4)
  /-- omerge (R317) -/
  | omerge (p : BitVec 2) (t : BitVec 9) (u : BitVec 9)
  /-- recirc (R317) -/
  | recirc (p : BitVec 2) (t : BitVec 9) (u : BitVec 9)
  /-- ctxsw.cN (R318) -/
  | ctxsw (p : BitVec 2) (n : BitVec 8) (c : BitVec 2)
  /-- fgstage (R319) -/
  | fgstage (p : BitVec 2)
  /-- fgseed (R319) -/
  | fgseed (p : BitVec 2)
  /-- fgstat.f (R319) -/
  | fgstat (p : BitVec 2) (t : BitVec 9) (u : BitVec 9) (f : BitVec 4)
  /-- ld.t (R336) -/
  | ld (p : BitVec 2) (t : BitVec 9) (l : BitVec 5) (y : BitVec 4)
  /-- ldi.t (R336) -/
  | ldi (p : BitVec 2) (t : BitVec 9) (l : BitVec 5) (y : BitVec 4)
  /-- lda.t.s (R336) -/
  | lda (p : BitVec 2) (t : BitVec 9) (l : BitVec 5) (y : BitVec 4) (s : BitVec 3)
  /-- st.t.m (R337) -/
  | st (p : BitVec 2) (l : BitVec 5) (y : BitVec 4) (m : BitVec 3)
  /-- stl.t.m.s (R337) -/
  | stl (p : BitVec 2) (l : BitVec 5) (y : BitVec 4) (m : BitVec 3) (s : BitVec 3)
  /-- LDIMG (R338) -/
  | ldimg (p : BitVec 2) (t : BitVec 9) (l : BitVec 5) (k : BitVec 1)
  /-- STIMG (R338) -/
  | stimg (p : BitVec 2) (l : BitVec 5) (k : BitVec 1)
  /-- till (R339) -/
  | till (p : BitVec 2) (l : BitVec 5)
  /-- tillg (R339) -/
  | tillg (p : BitVec 2) (l : BitVec 5)
  /-- pres (R340) -/
  | pres (p : BitVec 2) (t : BitVec 9) (l : BitVec 5)
  /-- atom.op.w.o.sc (R342) -/
  | atom (p : BitVec 2) (t : BitVec 9) (l : BitVec 5) (o : BitVec 3) (w : BitVec 1) (a : BitVec 2) (s : BitVec 2)
  /-- fatom.add.o.sc (R343) -/
  | fatom (p : BitVec 2) (t : BitVec 9) (l : BitVec 5) (a : BitVec 2) (s : BitVec 2)
  /-- cpyl.e (R345) -/
  | cpyl (p : BitVec 2) (l : BitVec 5) (e : BitVec 3)
  /-- gath.e (R347) -/
  | gath (p : BitVec 2) (l : BitVec 5) (e : BitVec 2)
  /-- scat.e (R347) -/
  | scat (p : BitVec 2) (l : BitVec 5) (e : BitVec 2)
  /-- coll (R348) -/
  | coll (p : BitVec 2) (l : BitVec 5)
  /-- resp.e (R349) -/
  | resp (p : BitVec 2) (t : BitVec 9) (l : BitVec 5) (e : BitVec 4)
  /-- fence.s (R350) -/
  | fence (p : BitVec 2) (l : BitVec 5) (s : BitVec 3)
  /-- xfence.s (R351) -/
  | xfence (p : BitVec 2) (t : BitVec 9) (l : BitVec 5) (s : BitVec 3)
  /-- xwait (R351) -/
  | xwait (p : BitVec 2) (l : BitVec 5)
  /-- tld (R359) -/
  | tld (p : BitVec 2) (l : BitVec 5) (k : BitVec 4)
  /-- tst (R359) -/
  | tst (p : BitVec 2) (l : BitVec 5) (k : BitVec 4)
  /-- tzero (R361) -/
  | tzero (p : BitVec 2) (k : BitVec 4)
  /-- treshape (R361) -/
  | treshape (p : BitVec 2) (k : BitVec 4)
  /-- tmov (R361) -/
  | tmov (p : BitVec 2) (k : BitVec 4)
  /-- tfill (R361) -/
  | tfill (p : BitVec 2) (k : BitVec 4)
  /-- wload.t (R364) -/
  | wloadT (p : BitVec 2)
  /-- wload.w (R364) -/
  | wloadW (p : BitVec 2)
  /-- wswap (R365) -/
  | wswap (p : BitVec 2)
  /-- mma (R366) -/
  | mma (p : BitVec 2) (a : BitVec 4)
  /-- mmas (R367) -/
  | mmas (p : BitVec 2) (a : BitVec 4)
  /-- accz (R368) -/
  | accz (p : BitVec 2) (m : BitVec 4)
  /-- accd (R368) -/
  | accd (p : BitVec 2) (d : BitVec 4)
  /-- sortcfg (R369) -/
  | sortcfg (p : BitVec 2)
  /-- topk (R370) -/
  | topk (p : BitVec 2) (k : BitVec 4)
  /-- guess (R325) -/
  | guess (p : BitVec 2)
  /-- genof.in (R326) -/
  | genofIn (p : BitVec 2) (t : BitVec 9) (u : BitVec 9)
  /-- genof.prec (R326) -/
  | genofPrec (p : BitVec 2) (t : BitVec 9) (u : BitVec 9)
  /-- launchp (R330) -/
  | launchp (p : BitVec 2) (l : BitVec 5)
  /-- prune[.re|.ref] (R331) -/
  | prune (p : BitVec 2) (l : BitVec 5) (f : BitVec 1) (r : BitVec 1)
  /-- seq.open (R329) -/
  | seqOpen (p : BitVec 2) (l : BitVec 5)
  /-- seq.close (R329) -/
  | seqClose (p : BitVec 2) (l : BitVec 5)
  /-- bar.init.s (R353) -/
  | barInit (p : BitVec 2) (l : BitVec 5) (s : BitVec 3) (b : BitVec 4)
  /-- bar.arr.s (R353) -/
  | barArr (p : BitVec 2) (l : BitVec 5) (s : BitVec 3) (b : BitVec 4)
  /-- bar.wait.s (R353) -/
  | barWait (p : BitVec 2) (l : BitVec 5) (s : BitVec 3) (b : BitVec 4)
  /-- spawn (R354) -/
  | spawn (p : BitVec 2) (l : BitVec 5)
  /-- graise (R355) -/
  | graise (p : BitVec 2) (t : BitVec 9) (l : BitVec 5)
  /-- gidx.idx (R356) -/
  | gidxIdx (p : BitVec 2) (t : BitVec 9)
  /-- gidx.cnt (R356) -/
  | gidxCnt (p : BitVec 2) (t : BitVec 9)
  /-- tdone.j (R357) -/
  | tdone (p : BitVec 2) (l : BitVec 5) (j : BitVec 3)
  /-- trap (R371) -/
  | trap (p : BitVec 2) (i : BitVec 13)
  /-- eret (R372) -/
  | eret (p : BitVec 2) (e : BitVec 3)
  /-- sysc (R371) -/
  | sysc (p : BitVec 2) (i : BitVec 13)
  /-- ckpt.cont (R373) -/
  | ckptCont (p : BitVec 2) (l : BitVec 5)
  /-- ckpt.yield (R373) -/
  | ckptYield (p : BitVec 2) (l : BitVec 5)
  /-- tlbi.k.s (R374) -/
  | tlbi (p : BitVec 2) (l : BitVec 5) (k : BitVec 2) (s : BitVec 3)
  /-- brk (R371) -/
  | brk (p : BitVec 2) (i : BitVec 13)
  /-- perf.cfg (R375) -/
  | perfCfg (p : BitVec 2)
  /-- perf.rd (R375) -/
  | perfRd (p : BitVec 2) (t : BitVec 9) (u : BitVec 9)
  /-- perf.cnt (R375) -/
  | perfCnt (p : BitVec 2) (t : BitVec 9) (u : BitVec 9)
  /-- perf.clr (R375) -/
  | perfClr (p : BitVec 2)
  /-- haltd.stop (R376) -/
  | haltdStop (p : BitVec 2)
  /-- haltd.frz (R376) -/
  | haltdFrz (p : BitVec 2)
  /-- A cross-die request reaches its limit, counted in the requesting die's clock, and a time-out is raised to the requester (R19). -/
  | crossDieTimeout (req : CrossReq)
  /-- A response that arrives after its time-out was raised is discarded and counted in the requesting die's late-response counter (R19). -/
  | lateResponse (die : Nat)
  /-- The responder's link watchdog sees a response beat unaccepted for 2^20 responder cycles and reports LINK_STALL to the management cores, while it keeps holding the response (R20). -/
  | linkStall (die : Nat) (link : Nat)
  /-- The requester accepts the held response beat; the responder delivers it and records the stall as cleared (R20). -/
  | linkStallCleared (die : Nat) (link : Nat)
  /-- A Volop link trains: the firmware assigns node numbers and the versions are negotiated, and on non-overlapping ranges the link stays down with VERSION_MISMATCH (R34). -/
  | linkTraining (port : Nat) (node : Nat) (lmin : Nat) (lmax : Nat) (hmin : Nat) (hmax : Nat)
  /-- A Volop flit is received whole; its CRC, SEQ, header and VC are checked, and it is delivered by TYPE or discarded with a NAK of the last good SEQ (R30). -/
  | flitReceive (port : Nat) (flit : List Byte)
  /-- A received NAK makes the transmitter resend from its replay buffer, starting at the flit after the named SEQ (R30). -/
  | flitNak (port : Nat) (seq : Nat)
  /-- After 16 consecutive retransmissions of the same flit, the Volop port retrains, keeping its replay buffer (R30). -/
  | portRetrain (port : Nat) (ok : Bool)
  /-- A RoCE v2 packet is received and checked for ICRC, transport, key window and operation, then performed or refused with a NAK (R33). -/
  | rocePacket (pkt : RocePacket)
  /-- A LAUNCH message is checked in order against the launch-record rules; it is then accepted, queued or rejected without trace (R39). -/
  | launch (msg : HostMsg)
  /-- A PREPARE message moves load control from IDLE to LOADING and starts fetching the package's shards, or is answered BUSY when load control is not IDLE (R45). -/
  | prepare (msg : HostMsg)
  /-- The weight loader finishes fetching the own shards and checking their digests, and reports READY, or stops at the first failing shard (R45). -/
  | loaderShardsFetched (shards : List (List Byte))
  /-- A SWITCH(n) message is answered according to the load-control state, and may enter SWITCH_PENDING (R45). -/
  | switch (msg : HostMsg)
  /-- An ABORT message returns load control to IDLE and leaves the staging copy undefined (R45). -/
  | abort (msg : HostMsg)
  /-- An ATTEST message makes the device write a report signed with the device key into the host buffer, then send RESULT (R47). -/
  | attest (msg : HostMsg)
  /-- A SET_PTBASE message sets or clears the page-table base of an ASID, after checking alignment and range (R36). -/
  | setPtbase (msg : HostMsg)
  /-- A FROST_READ message makes the device write the frost map of a LID into the host buffer (R37). -/
  | frostRead (msg : HostMsg)
  /-- A DBG_SAMPLE message makes the device write the sample ring of a launch, oldest entry first, and empty the ring (R37). -/
  | dbgSample (msg : HostMsg)
  /-- A DBG_READ message makes the device write the dormant images of a stopped or frozen launch, skipping sealed page sets (R37). -/
  | dbgRead (msg : HostMsg)
  /-- A RESUME message resumes a stopped or frozen launch (R215). -/
  | resume (msg : HostMsg)
  /-- A KILL message completes a queued, running, stopped or frozen launch with status CANCELLED (R37). -/
  | kill (msg : HostMsg)
  /-- A REPLAY_ARM message arms a replay log, with its address and digest, for the coming launch of the named LID (R222). -/
  | replayArm (msg : HostMsg)
  /-- A REPLAY_READ message makes the device write the replay log of a completed launch into the host buffer (R221). -/
  | replayRead (msg : HostMsg)
  /-- An ERRLOG_READ message makes the device write the array or transfer log of a die, oldest entry first, with the overflow counter (R225). -/
  | errlogRead (msg : HostMsg)
  /-- A DUMP_READ message makes the device write the dump, from the given offset, into the host buffer (R226). -/
  | dumpRead (msg : HostMsg)
  /-- A DUMP_CLEAR message discards the held dump (R226). -/
  | dumpClear (msg : HostMsg)
  /-- The dispatcher starts the next group of a launch, loading every node counter from DEPS and putting the nodes with DEPS 0 on the ready list (R68). -/
  | groupStart (lid : Nat)
  /-- The graph sequencer serves the next ready node: it arms the node's section with TILES, or completes a join node at once (R68). -/
  | readyListServe (die : Nat)
  /-- A section reports done; its node is done, its successors' counters are decreased, and the group may be done (R68). -/
  | sectionDone (lid : Nat) (node : Nat) (group : Nat)
  /-- The graph sequencer serves a task record: it pushes ARG on vi31 and arms the section of NODE for the record's group, or faults BAD_TASK (R77). -/
  | taskRecordServe (die : Nat)
  /-- A trellis node takes an enable token with a count and starts enabling its children by KIND (R73). -/
  | trellisEnable (page : PageRef) (node : Nat) (count : Nat)
  /-- A trellis node takes a child's done token, advances its iteration, and sends done to its parent or to the graph sequencer (R73). -/
  | trellisDone (page : PageRef) (node : Nat) (child : Nat)
  /-- A launch completes: its accesses are performed, the completion record is written with release, and the launch enters the completion history (R41). -/
  | launchCompletion (lid : Nat)
  /-- An element whose firing conditions all hold consumes one token from each named input and places its results on its destinations (R79). -/
  | elementFire (el : ElemRef)
  /-- A condition token arrives at an element input; once it is on every input, the element switches context and forwards the token (R125). -/
  | conditionTokenArrival (lid : Nat) (chan : Nat)
  /-- A prune beat arrives at a filter, which installs the entry, discards dead segments and forwards the first copy on every output (R99). -/
  | pruneArrival (lid : Nat) (chan : Nat)
  /-- A drain marker arrives at a filter, which forwards it once it has arrived on every input that is not loop-closing (R99). -/
  | drainMarkerArrival (lid : Nat) (chan : Nat)
  /-- The home controller receives a sink's drain report; when all NSINK reports of a serial are in, it sends RETIRE and may issue a pending prune (R101). -/
  | drainReport (die : Nat) (serial : Nat)
  /-- A filter receives RETIRE of a serial, drops that entry and acknowledges (R101). -/
  | retire (filter : FilterRef) (serial : Nat)
  /-- A memory node finishes the prune work: it tills dead listed lines, scans the overflow interval, releases the held accesses and reports the drain (R105). -/
  | memnodePruneScan (node : NodeRef)
  /-- The home controller takes a guess record and may prune, launch or relaunch a position and commit positions (R92). -/
  | guessRecord (die : Nat)
  /-- An egress node or memory node receives a commit notice, updates CG and releases or retires what it held (R102). -/
  | commitNotice (dest : NoticeTo) (lane : Nat) (gen : Nat)
  /-- The forager decides one record per fabric cycle: it sends it to a stage by weighted lottery, or to exit or reject (R138). -/
  | foragerDecision (page : PageRef) (ctx : Nat)
  /-- An access reaches a bank and is decided by page attribute: it is performed, deferred, held, dropped or faulted (R178). -/
  | bankAccess (req : BankReq)
  /-- A TLB miss walk completes and answers every merged requester with a translation or a fault (R172). -/
  | pageWalk (owner : TlbOwner) (asid : Nat) (va : Nat)
  /-- A vertical-bus transfer fails parity and is retried alone, with later transfers of its channel held behind it (R224). -/
  | verticalParityError (die : Nat) (addr : Nat) (wr : Bool) (lane : Nat)
  /-- A control link is lost, which is a fatal error handled by dump (R226). -/
  | controlLinkLoss (die : Nat)
  /-- An engine finishes a request and emits its response once every write has been performed at the request's scope (R188). -/
  | engineResponse (die : Nat) (engine : Nat) (core : CoreRef) (latency : Nat)
  /-- The last of p collective requests arrives, and the group's reduction or gather is performed (R348). -/
  | collGroupFill (die : Nat) (core : CoreRef)
  /-- An asynchronous stream command moves its next beat between memory or tile and a port, as space or data allows (R320). -/
  | streamCommandBeat (core : CoreRef) (seq : Nat)
  /-- A page core begins a C-block at the chosen address and decodes it whole (R246). -/
  | blockBegin (core : CoreRef)
  /-- Data of a performed read arrives at the page core and is delivered to the load's targets (R247). -/
  | loadResponse (core : CoreRef) (uid : Nat) (slot : Nat)
  /-- A block whose commit conditions hold commits, performing register writes, effects, pushes and pops (R248). -/
  | blockCommit (core : CoreRef)
  /-- A fault of a committed access arrives and is latched, to be taken before the next commit (R199). -/
  | deferredFault (core : CoreRef) (code : Nat) (va : Nat) (lsid : Nat)
  /-- The configuration die queues dormancy markers at every ingress of the regions being cut (R204). -/
  | cutStart (lid : Nat) (psets : List Nat) (why : CutWhy)
  /-- A dormancy marker arrives at an element; once it is on every input, the element saves its state and forwards the marker (R204). -/
  | dormancyMarkerArrival (lid : Nat) (chan : Nat)
  /-- Every sink has reported the marker, so the cut is complete and the dormant image is stored (R204). -/
  | cutComplete (lid : Nat)
  /-- The dormant images are checked and restored; the kept ingress beats are injected first (R208). -/
  | dormantResume (lid : Nat)
  /-- A no-progress counter reaches its limit; the launch is frozen, a frost map is written and the launch completes with HANG (R211). -/
  | noProgressLimit (agent : Agent)
  /-- The consumer of CHAN takes the beat of ordinal ORD; the launch stops, freezes, or samples the beat and continues (R215). -/
  | breakpointFire (n : Nat)
  /-- A host or management write to a breakpoint register; it is refused and counted when it names a channel inside a sealed page set (R214). -/
  | dbpWrite (n : Nat) (value : BitVec 128)
  /-- A write of a guess point's threshold, which applies from the next record the controller takes (R90). -/
  | gthWrite (die : Nat) (k : Nat) (value : DWord)
  /-- A write of a lane's MAXFLM1; lowering it kills nothing, and launches wait (R91). -/
  | maxflWrite (die : Nat) (lane : Nat) (value : DWord)
  /-- A write of CLR = 1 to EHCFG clears every latency bucket of the engine (R218). -/
  | ehcfgClr (die : Nat) (engine : Nat)
  /-- A write to a register that has no behaviour of its own, following its access codes (R5). -/
  | registerWrite (pa : Nat) (value : DWord)
  /-- In each local cycle a fabric ingress port's bucket gains REFILL/1,024 of a token, capped at DEPTH, so a port stalled on an empty bucket may fire again (R23). -/
  | bucketRefill (die : Nat) (port : Nat)
  /-- The power controller stops a die's clock under debug halt, or when the die holds and answers no cross-die request, which pauses its time-out counts (R18). -/
  | dieClockStop (die : Nat)
  /-- A stopped die clock restarts, so its paused cross-die time-outs resume counting and held responses can be accepted (R18). -/
  | dieClockRestart (die : Nat)
  /-- The last filter's acknowledgement of RETIRE reaches the home controller; PRUNES decreases, pending prunes are issued and waiting launches and lane closes may proceed (R101). -/
  | retireAcknowledge (die : Nat) (serial : Nat)
  /-- A tile instruction performed after commit (TLD fill, WLOAD, MMA passes, ACCD drain, TMOV, TOPK) finishes, releasing later tile instructions that wait for it (R358). -/
  | tileInstructionCompletion (core : CoreRef)
  /-- Module power-on: the supply is checked, faults latched by a previous trip or supply fault are reported, and the boot sequence begins (R21). -/
  | powerOn
  /-- The input voltage leaves 48–54 V, so the module holds the package in reset or enters reset from operation (R21). -/
  | supplyOutOfRange
  /-- A die junction exceeds 110 °C, so the module removes package power without a dump and all state is lost (R26). -/
  | thermalTrip
  /-- Every 16,384 configuration cycles the power controller re-evaluates every bucket from measured power and temperature, and writes BKT REFILL and DEPTH (R25). -/
  | powerControllerEvaluation
  /-- Every 55 µs the rate of a throttled queue pair recovers by 1/16 of line rate (R33). -/
  | roceRateRecovery
  /-- The loader limit of configuration cycles expires, and NOT_READY is sent with the lowest unfinished shard index and reason LIMIT (R45). -/
  | loaderLimitExpiry
  /-- In each configuration cycle the dispatcher chooses the head among the eligible queued launches, by priority, host-node turn and acceptance order (R51). -/
  | dispatcherHeadChoice
  /-- The loader reads a new head's .vimg and applies the image checks in order; a failure completes the launch with LOAD_FAILED or SIGNATURE_FAILED (R55). -/
  | imageChecks
  /-- The allocator places every page set of the head image, with its memory and channel nodes, or withdraws every tentative placement (R61). -/
  | placement
  /-- Configuration words are loaded into the elements; an illegal word blocks its element and fails the launch with ILLEGAL_WORD (R59). -/
  | configLoad
  /-- The allocator starts a graft of one running page set to a new origin on the same die, so that the head can fit (R63). -/
  | graftStart
  /-- The grafted page set's image is loaded at the new origin and resumes, and the head is placed in that configuration cycle (R209). -/
  | graftResume
  /-- The dispatcher pre-empts a lower-priority launch by dormancy markers; the launch becomes dormant and returns to the queue (R64). -/
  | preemption
  /-- A cut not complete within 2^26 configuration cycles is treated as a suspected hang (R209). -/
  | cutTimeout
  /-- A supply droop faster than one evaluation interval makes the power controller stretch die clocks at once (R25). -/
  | supplyDroop
  /-- The input supply returns within 48–54 V while the module holds the package in reset (R21). -/
  | supplyInRange
  deriving DecidableEq, Repr

end Sys2Proof
end

