-- ==== Sys2Proof/WellFormed.lean ====
section
/-! DEFINITION. Well-formed instructions: no PRED 0b11 and no reserved selector value (R256, R258, R264, R284, R332, R358). -/
namespace Sys2Proof

/-- The numbers of R266 that name a control register. -/
def controlReg (n : Nat) : Bool :=
  n < 5 || n == 8 || n == 9 || (0x10 ≤ n && n ≤ 0x22) || n == 0x30 || n == 0x31 || (0x38 ≤ n && n ≤ 0x3C)
    || n == 0x40 || n == 0x48

/-- The control registers that R266 does not mark read-only. -/
def controlWritable (n : Nat) : Bool :=
  controlReg n && !(n < 5 || n == 0x30 || n == 0x31)

/-- The memory types of R335 that are not reserved. -/
def memType (t : Nat) : Bool := t ≤ 5 || t == 8 || t == 9 || t == 12 || t == 13 || t == 14

/-- The number of IMAP entries a MERGE mask names. -/
def maskCount (m : BitVec 4) : Nat :=
  (if m.getLsbD 0 then 1 else 0) + (if m.getLsbD 1 then 1 else 0) + (if m.getLsbD 2 then 1 else 0)
    + (if m.getLsbD 3 then 1 else 0)

/-- No reserved value stands in a field of the instruction. A device event has no encoding and so no reserved value. -/
def Instr.wf : Instr → Bool
  | .nop p _ _ _ => decide (p ≠ 3)
  | .getr p _ _ => decide (p ≠ 3)
  | .setr p _ => decide (p ≠ 3)
  | .nullw p _ => decide (p ≠ 3)
  | .movi p _ _ => decide (p ≠ 3)
  | .movk p _ _ => decide (p ≠ 3)
  | .getc p _ n => decide (p ≠ 3) && decide (controlReg n.toNat)
  | .setc p n => decide (p ≠ 3) && decide (controlWritable n.toNat)
  | .bx p _ _ => decide (p ≠ 3)
  | .bxr p _ => decide (p ≠ 3)
  | .callb p _ _ => decide (p ≠ 3)
  | .retb p _ => decide (p ≠ 3)
  | .add p _ _ => decide (p ≠ 3)
  | .addi p _ _ => decide (p ≠ 3)
  | .sub p _ _ => decide (p ≠ 3)
  | .mul p _ _ => decide (p ≠ 3)
  | .mulh p _ _ _ => decide (p ≠ 3)
  | .div p _ _ _ => decide (p ≠ 3)
  | .rem p _ _ _ => decide (p ≠ 3)
  | .adds p _ _ _ => decide (p ≠ 3)
  | .subs p _ _ _ => decide (p ≠ 3)
  | .min p _ _ _ => decide (p ≠ 3)
  | .max p _ _ _ => decide (p ≠ 3)
  | .abs p _ _ _ => decide (p ≠ 3)
  | .neg p _ _ _ => decide (p ≠ 3)
  | .lea p _ _ _ => decide (p ≠ 3)
  | .leaBlk p _ _ => decide (p ≠ 3)
  | .andB p _ _ => decide (p ≠ 3)
  | .orB p _ _ => decide (p ≠ 3)
  | .xorB p _ _ => decide (p ≠ 3)
  | .andn p _ _ => decide (p ≠ 3)
  | .notB p _ _ => decide (p ≠ 3)
  | .shl p _ _ => decide (p ≠ 3)
  | .shr p _ _ => decide (p ≠ 3)
  | .shra p _ _ => decide (p ≠ 3)
  | .rot p _ _ => decide (p ≠ 3)
  | .clz p _ _ => decide (p ≠ 3)
  | .popc p _ _ => decide (p ≠ 3)
  | .bfx p _ _ _ => decide (p ≠ 3)
  | .bfi p _ _ => decide (p ≠ 3)
  | .cmp p _ _ c _ => decide (p ≠ 3) && decide (c.toNat < 6)
  | .testBits p _ _ _ => decide (p ≠ 3)
  | .sel p _ _ => decide (p ≠ 3)
  | .stkg p _ _ => decide (p ≠ 3)
  | .stks p _ _ => decide (p ≠ 3)
  | .stkc p _ _ => decide (p ≠ 3)
  | .fadd p _ _ => decide (p ≠ 3)
  | .fsub p _ _ => decide (p ≠ 3)
  | .fmul p _ _ => decide (p ≠ 3)
  | .ffma p _ _ => decide (p ≠ 3)
  | .fdiv p _ _ => decide (p ≠ 3)
  | .fsqrt p _ _ => decide (p ≠ 3)
  | .fmin p _ _ => decide (p ≠ 3)
  | .fmax p _ _ => decide (p ≠ 3)
  | .fabs p _ _ => decide (p ≠ 3)
  | .fneg p _ _ => decide (p ≠ 3)
  | .fcmp p _ _ c => decide (p ≠ 3) && decide (c ≠ 7)
  | .fclass p _ _ => decide (p ≠ 3)
  | .fexp2 p _ _ => decide (p ≠ 3)
  | .flog2 p _ _ => decide (p ≠ 3)
  | .frcp p _ _ => decide (p ≠ 3)
  | .frsq p _ _ => decide (p ≠ 3)
  | .ftanh p _ _ => decide (p ≠ 3)
  | .cvt p _ _ f => decide (p ≠ 3) && decide (f.toNat ≤ 13)
  | .narrow p _ _ f => decide (p ≠ 3) && decide (f.toNat ≤ 13)
  | .final p _ f m => decide (p ≠ 3) && decide (f.toNat ≤ 13 ∧ m ≠ 7)
  | .scale p _ _ => decide (p ≠ 3)
  | .mxsc p _ _ f => decide (p ≠ 3) && decide (5 ≤ f.toNat ∧ f.toNat ≤ 7)
  | .dot4 p _ _ _ _ => decide (p ≠ 3)
  | .dot8 p _ _ _ _ => decide (p ≠ 3)
  | .addp p _ _ m w => decide (p ≠ 3) && decide (m ≠ 3 ∧ w ≠ 3)
  | .shlp p _ _ w => decide (p ≠ 3) && decide (w ≠ 3)
  | .shrp p _ _ _ w => decide (p ≠ 3) && decide (w ≠ 3)
  | .bperm p _ _ => decide (p ≠ 3)
  | .sdcvt p _ _ => decide (p ≠ 3)
  | .sdadd p _ _ => decide (p ≠ 3)
  | .sdmul p _ _ => decide (p ≠ 3)
  | .sdcut p _ _ => decide (p ≠ 3)
  | .sdcmp p _ _ c => decide (p ≠ 3) && decide (c.toNat < 6)
  | .sdtowf p _ _ => decide (p ≠ 3)
  | .rng p _ _ _ => decide (p ≠ 3)
  | .inPort p _ _ _ _ => decide (p ≠ 3)
  | .inCnt p _ _ => decide (p ≠ 3)
  | .inSpc p _ _ => decide (p ≠ 3)
  | .inAcc p _ _ _ => decide (p ≠ 3)
  | .inMrk p _ _ => decide (p ≠ 3)
  | .outPort p n _ _ => decide (p ≠ 3) && decide (n.toNat < 32)
  | .outm p n _ _ => decide (p ≠ 3) && decide (n.toNat < 32)
  | .mrk p n _ _ => decide (p ≠ 3) && decide (n.toNat < 32)
  | .segl p n _ => decide (p ≠ 3) && decide (n.toNat < 32)
  | .segn p n _ => decide (p ≠ 3) && decide (n.toNat < 32)
  | .rsum p _ _ y r => decide (p ≠ 3) && decide (y ≠ 3 ∧ r ≠ 0)
  | .rmax p _ _ y r => decide (p ≠ 3) && decide (y ≠ 3 ∧ r ≠ 0)
  | .rmin p _ _ y r => decide (p ≠ 3) && decide (y ≠ 3 ∧ r ≠ 0)
  | .strmMem p _ _ _ => decide (p ≠ 3)
  | .strmTile p _ _ _ => decide (p ≠ 3)
  | .strmDrain p _ i => decide (p ≠ 3) && decide (i.toNat < 64 ∨ i = 64)
  | .strmAcc p n _ _ _ => decide (p ≠ 3) && decide (n.toNat < 32)
  | .recGet p _ _ _ => decide (p ≠ 3)
  | .recSet p _ _ _ => decide (p ≠ 3)
  | .recNew p _ _ _ => decide (p ≠ 3)
  | .recDone p _ _ _ => decide (p ≠ 3)
  | .recRej p _ _ _ => decide (p ≠ 3)
  | .steer p _ _ _ _ => decide (p ≠ 3)
  | .merge p _ _ m => decide (p ≠ 3) && decide (2 ≤ maskCount m)
  | .omerge p _ _ => decide (p ≠ 3)
  | .recirc p _ _ => decide (p ≠ 3)
  | .ctxsw p n _ => decide (p ≠ 3) && decide (n.toNat < 32)
  | .fgstage p => decide (p ≠ 3)
  | .fgseed p => decide (p ≠ 3)
  | .fgstat p _ _ f => decide (p ≠ 3) && decide (f.toNat ≤ 4)
  | .ld p _ _ y => decide (p ≠ 3) && decide (memType y.toNat)
  | .ldi p _ _ y => decide (p ≠ 3) && decide (memType y.toNat)
  | .lda p _ _ y s => decide (p ≠ 3) && decide (memType y.toNat ∧ s.toNat < 6)
  | .st p _ y m => decide (p ≠ 3) && decide (memType y.toNat ∧ m ≠ 7 ∧ (8 ≤ y.toNat → m = 0))
  | .stl p _ y m s => decide (p ≠ 3) && decide (memType y.toNat ∧ m ≠ 7 ∧ (8 ≤ y.toNat → m = 0) ∧ s.toNat < 6)
  | .ldimg p _ _ _ => decide (p ≠ 3)
  | .stimg p _ _ => decide (p ≠ 3)
  | .till p _ => decide (p ≠ 3)
  | .tillg p _ => decide (p ≠ 3)
  | .pres p _ _ => decide (p ≠ 3)
  | .atom p _ _ o _ a s => decide (p ≠ 3) && decide (o ≠ 7 ∧ (a = 0 → s = 0))
  | .fatom p _ _ a s => decide (p ≠ 3) && decide (a = 0 → s = 0)
  | .cpyl p _ _ => decide (p ≠ 3)
  | .gath p _ _ => decide (p ≠ 3)
  | .scat p _ _ => decide (p ≠ 3)
  | .coll p _ => decide (p ≠ 3)
  | .resp p _ _ e => decide (p ≠ 3) && decide (e.toNat ≤ 12)
  | .fence p _ s => decide (p ≠ 3) && decide (s.toNat < 6)
  | .xfence p _ _ s => decide (p ≠ 3) && decide (s.toNat < 6)
  | .xwait p _ => decide (p ≠ 3)
  | .tld p _ _ => decide (p ≠ 3)
  | .tst p _ _ => decide (p ≠ 3)
  | .tzero p _ => decide (p ≠ 3)
  | .treshape p _ => decide (p ≠ 3)
  | .tmov p _ => decide (p ≠ 3)
  | .tfill p _ => decide (p ≠ 3)
  | .wloadT p => decide (p ≠ 3)
  | .wloadW p => decide (p ≠ 3)
  | .wswap p => decide (p ≠ 3)
  | .mma p _ => decide (p ≠ 3)
  | .mmas p _ => decide (p ≠ 3)
  | .accz p m => decide (p ≠ 3) && decide (m ≠ 0)
  | .accd p _ => decide (p ≠ 3)
  | .sortcfg p => decide (p ≠ 3)
  | .topk p _ => decide (p ≠ 3)
  | .guess p => decide (p ≠ 3)
  | .genofIn p _ _ => decide (p ≠ 3)
  | .genofPrec p _ _ => decide (p ≠ 3)
  | .launchp p _ => decide (p ≠ 3)
  | .prune p _ _ _ => decide (p ≠ 3)
  | .seqOpen p _ => decide (p ≠ 3)
  | .seqClose p _ => decide (p ≠ 3)
  | .barInit p _ s _ => decide (p ≠ 3) && decide (2 ≤ s.toNat ∧ s.toNat ≤ 5)
  | .barArr p _ s _ => decide (p ≠ 3) && decide (2 ≤ s.toNat ∧ s.toNat ≤ 5)
  | .barWait p _ s _ => decide (p ≠ 3) && decide (2 ≤ s.toNat ∧ s.toNat ≤ 5)
  | .spawn p _ => decide (p ≠ 3)
  | .graise p _ _ => decide (p ≠ 3)
  | .gidxIdx p _ => decide (p ≠ 3)
  | .gidxCnt p _ => decide (p ≠ 3)
  | .tdone p _ _ => decide (p ≠ 3)
  | .trap p _ => decide (p ≠ 3)
  | .eret p _ => decide (p ≠ 3)
  | .sysc p _ => decide (p ≠ 3)
  | .ckptCont p _ => decide (p ≠ 3)
  | .ckptYield p _ => decide (p ≠ 3)
  | .tlbi p _ k s => decide (p ≠ 3) && decide (k ≠ 3 ∧ (s = 3 ∨ s = 4))
  | .brk p _ => decide (p ≠ 3)
  | .perfCfg p => decide (p ≠ 3)
  | .perfRd p _ _ => decide (p ≠ 3)
  | .perfCnt p _ _ => decide (p ≠ 3)
  | .perfClr p => decide (p ≠ 3)
  | .haltdStop p => decide (p ≠ 3)
  | .haltdFrz p => decide (p ≠ 3)
  | .crossDieTimeout _ => true
  | .lateResponse _ => true
  | .linkStall _ _ => true
  | .linkStallCleared _ _ => true
  | .linkTraining _ _ _ _ _ _ => true
  | .flitReceive _ _ => true
  | .flitNak _ _ => true
  | .portRetrain _ _ => true
  | .rocePacket _ => true
  | .launch _ => true
  | .prepare _ => true
  | .loaderShardsFetched _ => true
  | .switch _ => true
  | .abort _ => true
  | .attest _ => true
  | .setPtbase _ => true
  | .frostRead _ => true
  | .dbgSample _ => true
  | .dbgRead _ => true
  | .resume _ => true
  | .kill _ => true
  | .replayArm _ => true
  | .replayRead _ => true
  | .errlogRead _ => true
  | .dumpRead _ => true
  | .dumpClear _ => true
  | .groupStart _ => true
  | .readyListServe _ => true
  | .sectionDone _ _ _ => true
  | .taskRecordServe _ => true
  | .trellisEnable _ _ _ => true
  | .trellisDone _ _ _ => true
  | .launchCompletion _ => true
  | .elementFire _ => true
  | .conditionTokenArrival _ _ => true
  | .pruneArrival _ _ => true
  | .drainMarkerArrival _ _ => true
  | .drainReport _ _ => true
  | .retire _ _ => true
  | .memnodePruneScan _ => true
  | .guessRecord _ => true
  | .commitNotice _ _ _ => true
  | .foragerDecision _ _ => true
  | .bankAccess _ => true
  | .pageWalk _ _ _ => true
  | .verticalParityError _ _ _ _ => true
  | .controlLinkLoss _ => true
  | .engineResponse _ _ _ _ => true
  | .collGroupFill _ _ => true
  | .streamCommandBeat _ _ => true
  | .blockBegin _ => true
  | .loadResponse _ _ _ => true
  | .blockCommit _ => true
  | .deferredFault _ _ _ _ => true
  | .cutStart _ _ _ => true
  | .dormancyMarkerArrival _ _ => true
  | .cutComplete _ => true
  | .dormantResume _ => true
  | .noProgressLimit _ => true
  | .breakpointFire _ => true
  | .dbpWrite _ _ => true
  | .gthWrite _ _ _ => true
  | .maxflWrite _ _ _ => true
  | .ehcfgClr _ _ => true
  | .registerWrite _ _ => true
  | .bucketRefill _ _ => true
  | .dieClockStop _ => true
  | .dieClockRestart _ => true
  | .retireAcknowledge _ _ => true
  | .tileInstructionCompletion _ => true
  | .powerOn => true
  | .supplyOutOfRange => true
  | .thermalTrip => true
  | .powerControllerEvaluation => true
  | .roceRateRecovery => true
  | .loaderLimitExpiry => true
  | .dispatcherHeadChoice => true
  | .imageChecks => true
  | .placement => true
  | .configLoad => true
  | .graftStart => true
  | .graftResume => true
  | .preemption => true
  | .cutTimeout => true
  | .supplyDroop => true
  | .supplyInRange => true

end Sys2Proof
end

