-- ==== Sys2Proof/Decode.lean ====
section
/-! DEFINITION. The decoder of instruction words (R243, R254 to R260), total, rejecting by name; the encoder after it;
and what R247, R255, R257 and R258 ask of an instruction: the positions it uses, its targets, its LSID, where it is legal. -/
namespace Sys2Proof

/-- Why a word is no instruction (R258, R260). -/
inductive DecodeError where
  /-- An opcode that R257 marks unassigned. -/
  | unassigned (opc : Nat)
  /-- A reserved field or an unlisted selector of the opcode is not zero, or an unused target is not 0x1FF. -/
  | reservedField (opc : Nat)
  /-- PRED 0b11 or a reserved selector value. -/
  | illFormed (opc : Nat)
  deriving DecidableEq, Repr

/-- Bits hi:lo of a word, `w` of them. -/
def bitsAt (w : Word) (lo n : Nat) : BitVec n := w.extractLsb' lo n

/-- The fields of a word by its opcode, the fixed bits checked; reserved values are checked after it. -/
def decodeFields (w : Word) : Except DecodeError Instr :=
  let p : BitVec 2 := bitsAt w 22 2
  let bad : Except DecodeError Instr := .error (.reservedField (bitsAt w 24 8).toNat)
  match (bitsAt w 24 8).toNat with
  | 0x00 =>
    .ok (.nop p (bitsAt w 13 9) (bitsAt w 4 9) (bitsAt w 0 4))
  | 0x01 =>
    if bitsAt w 5 8 = 0 then .ok (.getr p (bitsAt w 13 9) (bitsAt w 0 5))
    else bad
  | 0x02 =>
    if bitsAt w 13 9 = 511 ∧ bitsAt w 5 8 = 0 then .ok (.setr p (bitsAt w 0 5))
    else bad
  | 0x03 =>
    if bitsAt w 13 9 = 511 ∧ bitsAt w 5 8 = 0 then .ok (.nullw p (bitsAt w 0 5))
    else bad
  | 0x04 =>
    .ok (.movi p (bitsAt w 13 9) (bitsAt w 0 13))
  | 0x05 =>
    .ok (.movk p (bitsAt w 13 9) (bitsAt w 0 13))
  | 0x06 =>
    if bitsAt w 8 5 = 0 then .ok (.getc p (bitsAt w 13 9) (bitsAt w 0 8))
    else bad
  | 0x07 =>
    if bitsAt w 13 9 = 511 ∧ bitsAt w 8 5 = 0 then .ok (.setc p (bitsAt w 0 8))
    else bad
  | 0x08 =>
    .ok (.bx p (bitsAt w 19 3) (bitsAt w 0 19))
  | 0x09 =>
    if bitsAt w 13 9 = 511 ∧ bitsAt w 4 9 = 511 ∧ bitsAt w 3 1 = 0 then .ok (.bxr p (bitsAt w 0 3))
    else bad
  | 0x0A =>
    .ok (.callb p (bitsAt w 19 3) (bitsAt w 0 19))
  | 0x0B =>
    if bitsAt w 13 9 = 511 ∧ bitsAt w 4 9 = 511 ∧ bitsAt w 3 1 = 0 then .ok (.retb p (bitsAt w 0 3))
    else bad
  | 0x10 =>
    if bitsAt w 0 4 = 0 then .ok (.add p (bitsAt w 13 9) (bitsAt w 4 9))
    else bad
  | 0x11 =>
    .ok (.addi p (bitsAt w 13 9) (bitsAt w 0 13))
  | 0x12 =>
    if bitsAt w 0 4 = 0 then .ok (.sub p (bitsAt w 13 9) (bitsAt w 4 9))
    else bad
  | 0x13 =>
    if bitsAt w 0 4 = 0 then .ok (.mul p (bitsAt w 13 9) (bitsAt w 4 9))
    else bad
  | 0x14 =>
    if bitsAt w 1 3 = 0 then .ok (.mulh p (bitsAt w 13 9) (bitsAt w 4 9) (bitsAt w 0 1))
    else bad
  | 0x15 =>
    if bitsAt w 1 3 = 0 then .ok (.div p (bitsAt w 13 9) (bitsAt w 4 9) (bitsAt w 0 1))
    else bad
  | 0x16 =>
    if bitsAt w 1 3 = 0 then .ok (.rem p (bitsAt w 13 9) (bitsAt w 4 9) (bitsAt w 0 1))
    else bad
  | 0x17 =>
    if bitsAt w 1 3 = 0 then .ok (.adds p (bitsAt w 13 9) (bitsAt w 4 9) (bitsAt w 0 1))
    else bad
  | 0x18 =>
    if bitsAt w 1 3 = 0 then .ok (.subs p (bitsAt w 13 9) (bitsAt w 4 9) (bitsAt w 0 1))
    else bad
  | 0x19 =>
    if bitsAt w 1 3 = 0 then .ok (.min p (bitsAt w 13 9) (bitsAt w 4 9) (bitsAt w 0 1))
    else bad
  | 0x1A =>
    if bitsAt w 1 3 = 0 then .ok (.max p (bitsAt w 13 9) (bitsAt w 4 9) (bitsAt w 0 1))
    else bad
  | 0x1B =>
    if bitsAt w 1 3 = 0 then .ok (.abs p (bitsAt w 13 9) (bitsAt w 4 9) (bitsAt w 0 1))
    else bad
  | 0x1C =>
    if bitsAt w 1 3 = 0 then .ok (.neg p (bitsAt w 13 9) (bitsAt w 4 9) (bitsAt w 0 1))
    else bad
  | 0x1D =>
    if bitsAt w 2 2 = 0 then .ok (.lea p (bitsAt w 13 9) (bitsAt w 4 9) (bitsAt w 0 2))
    else if bitsAt w 0 4 = 8 then .ok (.leaBlk p (bitsAt w 13 9) (bitsAt w 4 9))
    else bad
  | 0x20 =>
    if bitsAt w 0 4 = 0 then .ok (.andB p (bitsAt w 13 9) (bitsAt w 4 9))
    else bad
  | 0x21 =>
    if bitsAt w 0 4 = 0 then .ok (.orB p (bitsAt w 13 9) (bitsAt w 4 9))
    else bad
  | 0x22 =>
    if bitsAt w 0 4 = 0 then .ok (.xorB p (bitsAt w 13 9) (bitsAt w 4 9))
    else bad
  | 0x23 =>
    if bitsAt w 0 4 = 0 then .ok (.andn p (bitsAt w 13 9) (bitsAt w 4 9))
    else bad
  | 0x24 =>
    if bitsAt w 0 4 = 0 then .ok (.notB p (bitsAt w 13 9) (bitsAt w 4 9))
    else bad
  | 0x25 =>
    if bitsAt w 0 4 = 0 then .ok (.shl p (bitsAt w 13 9) (bitsAt w 4 9))
    else bad
  | 0x26 =>
    if bitsAt w 0 4 = 0 then .ok (.shr p (bitsAt w 13 9) (bitsAt w 4 9))
    else bad
  | 0x27 =>
    if bitsAt w 0 4 = 0 then .ok (.shra p (bitsAt w 13 9) (bitsAt w 4 9))
    else bad
  | 0x28 =>
    if bitsAt w 0 4 = 0 then .ok (.rot p (bitsAt w 13 9) (bitsAt w 4 9))
    else bad
  | 0x29 =>
    if bitsAt w 0 4 = 0 then .ok (.clz p (bitsAt w 13 9) (bitsAt w 4 9))
    else if bitsAt w 0 4 = 1 then .ok (.popc p (bitsAt w 13 9) (bitsAt w 4 9))
    else bad
  | 0x2A =>
    if bitsAt w 1 3 = 0 then .ok (.bfx p (bitsAt w 13 9) (bitsAt w 4 9) (bitsAt w 0 1))
    else bad
  | 0x2B =>
    if bitsAt w 0 4 = 0 then .ok (.bfi p (bitsAt w 13 9) (bitsAt w 4 9))
    else bad
  | 0x2C =>
    .ok (.cmp p (bitsAt w 13 9) (bitsAt w 4 9) (bitsAt w 1 3) (bitsAt w 0 1))
  | 0x2D =>
    if bitsAt w 1 3 = 0 then .ok (.testBits p (bitsAt w 13 9) (bitsAt w 4 9) (bitsAt w 0 1))
    else bad
  | 0x2E =>
    if bitsAt w 0 4 = 0 then .ok (.sel p (bitsAt w 13 9) (bitsAt w 4 9))
    else bad
  | 0x2F =>
    if bitsAt w 0 4 = 0 then .ok (.stkg p (bitsAt w 13 9) (bitsAt w 4 9))
    else if bitsAt w 0 4 = 1 then .ok (.stks p (bitsAt w 13 9) (bitsAt w 4 9))
    else if bitsAt w 0 4 = 2 then .ok (.stkc p (bitsAt w 13 9) (bitsAt w 4 9))
    else bad
  | 0x30 =>
    if bitsAt w 0 4 = 0 then .ok (.fadd p (bitsAt w 13 9) (bitsAt w 4 9))
    else bad
  | 0x31 =>
    if bitsAt w 0 4 = 0 then .ok (.fsub p (bitsAt w 13 9) (bitsAt w 4 9))
    else bad
  | 0x32 =>
    if bitsAt w 0 4 = 0 then .ok (.fmul p (bitsAt w 13 9) (bitsAt w 4 9))
    else bad
  | 0x33 =>
    if bitsAt w 0 4 = 0 then .ok (.ffma p (bitsAt w 13 9) (bitsAt w 4 9))
    else bad
  | 0x34 =>
    if bitsAt w 0 4 = 0 then .ok (.fdiv p (bitsAt w 13 9) (bitsAt w 4 9))
    else bad
  | 0x35 =>
    if bitsAt w 0 4 = 0 then .ok (.fsqrt p (bitsAt w 13 9) (bitsAt w 4 9))
    else bad
  | 0x36 =>
    if bitsAt w 0 4 = 0 then .ok (.fmin p (bitsAt w 13 9) (bitsAt w 4 9))
    else bad
  | 0x37 =>
    if bitsAt w 0 4 = 0 then .ok (.fmax p (bitsAt w 13 9) (bitsAt w 4 9))
    else bad
  | 0x38 =>
    if bitsAt w 0 4 = 0 then .ok (.fabs p (bitsAt w 13 9) (bitsAt w 4 9))
    else if bitsAt w 0 4 = 1 then .ok (.fneg p (bitsAt w 13 9) (bitsAt w 4 9))
    else bad
  | 0x39 =>
    if bitsAt w 3 1 = 0 then .ok (.fcmp p (bitsAt w 13 9) (bitsAt w 4 9) (bitsAt w 0 3))
    else bad
  | 0x3A =>
    if bitsAt w 0 4 = 0 then .ok (.fclass p (bitsAt w 13 9) (bitsAt w 4 9))
    else bad
  | 0x3B =>
    if bitsAt w 0 4 = 0 then .ok (.fexp2 p (bitsAt w 13 9) (bitsAt w 4 9))
    else bad
  | 0x3C =>
    if bitsAt w 0 4 = 0 then .ok (.flog2 p (bitsAt w 13 9) (bitsAt w 4 9))
    else bad
  | 0x3D =>
    if bitsAt w 0 4 = 0 then .ok (.frcp p (bitsAt w 13 9) (bitsAt w 4 9))
    else bad
  | 0x3E =>
    if bitsAt w 0 4 = 0 then .ok (.frsq p (bitsAt w 13 9) (bitsAt w 4 9))
    else bad
  | 0x3F =>
    if bitsAt w 0 4 = 0 then .ok (.ftanh p (bitsAt w 13 9) (bitsAt w 4 9))
    else bad
  | 0x40 =>
    .ok (.cvt p (bitsAt w 13 9) (bitsAt w 4 9) (bitsAt w 0 4))
  | 0x41 =>
    .ok (.narrow p (bitsAt w 13 9) (bitsAt w 4 9) (bitsAt w 0 4))
  | 0x42 =>
    if bitsAt w 4 5 = 0 ∧ bitsAt w 3 1 = 0 then .ok (.final p (bitsAt w 13 9) (bitsAt w 9 4) (bitsAt w 0 3))
    else bad
  | 0x43 =>
    if bitsAt w 0 4 = 0 then .ok (.scale p (bitsAt w 13 9) (bitsAt w 4 9))
    else bad
  | 0x44 =>
    .ok (.mxsc p (bitsAt w 13 9) (bitsAt w 4 9) (bitsAt w 0 4))
  | 0x45 =>
    if bitsAt w 3 1 = 0 then .ok (.dot4 p (bitsAt w 13 9) (bitsAt w 4 9) (bitsAt w 2 1) (bitsAt w 0 2))
    else bad
  | 0x46 =>
    if bitsAt w 3 1 = 0 then .ok (.dot8 p (bitsAt w 13 9) (bitsAt w 4 9) (bitsAt w 2 1) (bitsAt w 0 2))
    else bad
  | 0x47 =>
    .ok (.addp p (bitsAt w 13 9) (bitsAt w 4 9) (bitsAt w 2 2) (bitsAt w 0 2))
  | 0x48 =>
    if bitsAt w 2 2 = 0 then .ok (.shlp p (bitsAt w 13 9) (bitsAt w 4 9) (bitsAt w 0 2))
    else bad
  | 0x49 =>
    if bitsAt w 3 1 = 0 then .ok (.shrp p (bitsAt w 13 9) (bitsAt w 4 9) (bitsAt w 2 1) (bitsAt w 0 2))
    else bad
  | 0x4A =>
    if bitsAt w 0 4 = 0 then .ok (.bperm p (bitsAt w 13 9) (bitsAt w 4 9))
    else bad
  | 0x50 =>
    if bitsAt w 0 4 = 0 then .ok (.sdcvt p (bitsAt w 13 9) (bitsAt w 4 9))
    else bad
  | 0x51 =>
    if bitsAt w 0 4 = 0 then .ok (.sdadd p (bitsAt w 13 9) (bitsAt w 4 9))
    else bad
  | 0x52 =>
    if bitsAt w 0 4 = 0 then .ok (.sdmul p (bitsAt w 13 9) (bitsAt w 4 9))
    else bad
  | 0x53 =>
    if bitsAt w 0 4 = 0 then .ok (.sdcut p (bitsAt w 13 9) (bitsAt w 4 9))
    else bad
  | 0x54 =>
    if bitsAt w 3 1 = 0 then .ok (.sdcmp p (bitsAt w 13 9) (bitsAt w 4 9) (bitsAt w 0 3))
    else bad
  | 0x55 =>
    if bitsAt w 0 4 = 0 then .ok (.sdtowf p (bitsAt w 13 9) (bitsAt w 4 9))
    else bad
  | 0x56 =>
    if bitsAt w 1 3 = 0 then .ok (.rng p (bitsAt w 13 9) (bitsAt w 4 9) (bitsAt w 0 1))
    else bad
  | 0x60 =>
    if bitsAt w 10 3 = 0 then .ok (.inPort p (bitsAt w 13 9) (bitsAt w 5 5) (bitsAt w 4 1) (bitsAt w 0 4))
    else if bitsAt w 10 3 = 1 ∧ bitsAt w 0 5 = 0 then .ok (.inCnt p (bitsAt w 13 9) (bitsAt w 5 5))
    else if bitsAt w 10 3 = 2 ∧ bitsAt w 0 5 = 0 then .ok (.inSpc p (bitsAt w 13 9) (bitsAt w 5 5))
    else if bitsAt w 7 6 = 24 ∧ bitsAt w 4 1 = 0 then .ok (.inAcc p (bitsAt w 13 9) (bitsAt w 5 2) (bitsAt w 0 4))
    else if bitsAt w 10 3 = 4 ∧ bitsAt w 0 5 = 0 then .ok (.inMrk p (bitsAt w 13 9) (bitsAt w 5 5))
    else bad
  | 0x61 =>
    if bitsAt w 13 9 = 511 then .ok (.outPort p (bitsAt w 5 8) (bitsAt w 4 1) (bitsAt w 0 4))
    else bad
  | 0x62 =>
    if bitsAt w 13 9 = 511 then .ok (.outm p (bitsAt w 5 8) (bitsAt w 4 1) (bitsAt w 0 4))
    else bad
  | 0x63 =>
    if bitsAt w 13 9 = 511 then .ok (.mrk p (bitsAt w 5 8) (bitsAt w 4 1) (bitsAt w 0 4))
    else bad
  | 0x64 =>
    if bitsAt w 13 9 = 511 ∧ bitsAt w 2 3 = 0 then .ok (.segl p (bitsAt w 5 8) (bitsAt w 0 2))
    else bad
  | 0x65 =>
    if bitsAt w 13 9 = 511 then .ok (.segn p (bitsAt w 5 8) (bitsAt w 0 5))
    else bad
  | 0x66 =>
    .ok (.rsum p (bitsAt w 13 9) (bitsAt w 4 9) (bitsAt w 2 2) (bitsAt w 0 2))
  | 0x67 =>
    .ok (.rmax p (bitsAt w 13 9) (bitsAt w 4 9) (bitsAt w 2 2) (bitsAt w 0 2))
  | 0x68 =>
    .ok (.rmin p (bitsAt w 13 9) (bitsAt w 4 9) (bitsAt w 2 2) (bitsAt w 0 2))
  | 0x69 =>
    if bitsAt w 13 9 = 511 ∧ bitsAt w 6 2 = 0 then .ok (.strmMem p (bitsAt w 8 5) (bitsAt w 5 1) (bitsAt w 0 5))
    else bad
  | 0x6A =>
    if bitsAt w 13 9 = 511 ∧ bitsAt w 6 2 = 0 then .ok (.strmTile p (bitsAt w 8 5) (bitsAt w 5 1) (bitsAt w 0 5))
    else bad
  | 0x6B =>
    if bitsAt w 13 9 = 511 ∧ bitsAt w 7 1 = 0 then .ok (.strmDrain p (bitsAt w 8 5) (bitsAt w 0 7))
    else bad
  | 0x6C =>
    if bitsAt w 13 9 = 511 then .ok (.strmAcc p (bitsAt w 5 8) (bitsAt w 4 1) (bitsAt w 2 2) (bitsAt w 0 2))
    else bad
  | 0x70 =>
    .ok (.recGet p (bitsAt w 13 9) (bitsAt w 4 9) (bitsAt w 0 4))
  | 0x71 =>
    .ok (.recSet p (bitsAt w 13 9) (bitsAt w 4 9) (bitsAt w 0 4))
  | 0x72 =>
    .ok (.recNew p (bitsAt w 13 9) (bitsAt w 4 9) (bitsAt w 0 4))
  | 0x73 =>
    if bitsAt w 3 1 = 0 then .ok (.recDone p (bitsAt w 13 9) (bitsAt w 4 9) (bitsAt w 0 3))
    else if bitsAt w 3 1 = 1 then .ok (.recRej p (bitsAt w 13 9) (bitsAt w 4 9) (bitsAt w 0 3))
    else bad
  | 0x74 =>
    if bitsAt w 3 1 = 0 then .ok (.steer p (bitsAt w 13 9) (bitsAt w 4 9) (bitsAt w 2 1) (bitsAt w 0 2))
    else bad
  | 0x75 =>
    .ok (.merge p (bitsAt w 13 9) (bitsAt w 4 9) (bitsAt w 0 4))
  | 0x76 =>
    if bitsAt w 0 4 = 0 then .ok (.omerge p (bitsAt w 13 9) (bitsAt w 4 9))
    else bad
  | 0x77 =>
    if bitsAt w 0 4 = 0 then .ok (.recirc p (bitsAt w 13 9) (bitsAt w 4 9))
    else bad
  | 0x78 =>
    if bitsAt w 13 9 = 511 ∧ bitsAt w 2 3 = 0 then .ok (.ctxsw p (bitsAt w 5 8) (bitsAt w 0 2))
    else bad
  | 0x79 =>
    if bitsAt w 13 9 = 511 ∧ bitsAt w 4 9 = 511 ∧ bitsAt w 0 4 = 0 then .ok (.fgstage p)
    else bad
  | 0x7A =>
    if bitsAt w 13 9 = 511 ∧ bitsAt w 4 9 = 511 ∧ bitsAt w 0 4 = 0 then .ok (.fgseed p)
    else bad
  | 0x7B =>
    .ok (.fgstat p (bitsAt w 13 9) (bitsAt w 4 9) (bitsAt w 0 4))
  | 0x80 =>
    if bitsAt w 0 4 = 0 then .ok (.ld p (bitsAt w 13 9) (bitsAt w 8 5) (bitsAt w 4 4))
    else bad
  | 0x81 =>
    if bitsAt w 0 4 = 0 then .ok (.ldi p (bitsAt w 13 9) (bitsAt w 8 5) (bitsAt w 4 4))
    else bad
  | 0x82 =>
    if bitsAt w 3 1 = 0 then .ok (.lda p (bitsAt w 13 9) (bitsAt w 8 5) (bitsAt w 4 4) (bitsAt w 0 3))
    else bad
  | 0x83 =>
    if bitsAt w 10 7 = 0 ∧ bitsAt w 0 3 = 0 then .ok (.st p (bitsAt w 17 5) (bitsAt w 6 4) (bitsAt w 3 3))
    else bad
  | 0x84 =>
    if bitsAt w 10 7 = 0 then .ok (.stl p (bitsAt w 17 5) (bitsAt w 6 4) (bitsAt w 3 3) (bitsAt w 0 3))
    else bad
  | 0x85 =>
    if bitsAt w 1 7 = 0 then .ok (.ldimg p (bitsAt w 13 9) (bitsAt w 8 5) (bitsAt w 0 1))
    else bad
  | 0x86 =>
    if bitsAt w 1 16 = 0 then .ok (.stimg p (bitsAt w 17 5) (bitsAt w 0 1))
    else bad
  | 0x87 =>
    if bitsAt w 0 17 = 0 then .ok (.till p (bitsAt w 17 5))
    else bad
  | 0x88 =>
    if bitsAt w 0 17 = 0 then .ok (.tillg p (bitsAt w 17 5))
    else bad
  | 0x89 =>
    if bitsAt w 0 8 = 0 then .ok (.pres p (bitsAt w 13 9) (bitsAt w 8 5))
    else bad
  | 0x8A =>
    .ok (.atom p (bitsAt w 13 9) (bitsAt w 8 5) (bitsAt w 5 3) (bitsAt w 4 1) (bitsAt w 2 2) (bitsAt w 0 2))
  | 0x8B =>
    if bitsAt w 4 4 = 0 then .ok (.fatom p (bitsAt w 13 9) (bitsAt w 8 5) (bitsAt w 2 2) (bitsAt w 0 2))
    else bad
  | 0x90 =>
    if bitsAt w 3 14 = 0 then .ok (.cpyl p (bitsAt w 17 5) (bitsAt w 0 3))
    else bad
  | 0x91 =>
    if bitsAt w 2 15 = 0 then .ok (.gath p (bitsAt w 17 5) (bitsAt w 0 2))
    else bad
  | 0x92 =>
    if bitsAt w 2 15 = 0 then .ok (.scat p (bitsAt w 17 5) (bitsAt w 0 2))
    else bad
  | 0x93 =>
    if bitsAt w 0 17 = 0 then .ok (.coll p (bitsAt w 17 5))
    else bad
  | 0x94 =>
    if bitsAt w 4 4 = 0 then .ok (.resp p (bitsAt w 13 9) (bitsAt w 8 5) (bitsAt w 0 4))
    else bad
  | 0x95 =>
    if bitsAt w 3 14 = 0 then .ok (.fence p (bitsAt w 17 5) (bitsAt w 0 3))
    else bad
  | 0x96 =>
    if bitsAt w 3 5 = 0 then .ok (.xfence p (bitsAt w 13 9) (bitsAt w 8 5) (bitsAt w 0 3))
    else bad
  | 0x97 =>
    if bitsAt w 0 17 = 0 then .ok (.xwait p (bitsAt w 17 5))
    else bad
  | 0xA0 =>
    if bitsAt w 13 9 = 511 ∧ bitsAt w 4 4 = 0 then .ok (.tld p (bitsAt w 8 5) (bitsAt w 0 4))
    else bad
  | 0xA1 =>
    if bitsAt w 4 13 = 0 then .ok (.tst p (bitsAt w 17 5) (bitsAt w 0 4))
    else bad
  | 0xA2 =>
    if bitsAt w 13 9 = 511 ∧ bitsAt w 4 9 = 511 then .ok (.tzero p (bitsAt w 0 4))
    else bad
  | 0xA3 =>
    if bitsAt w 13 9 = 511 ∧ bitsAt w 4 9 = 511 then .ok (.treshape p (bitsAt w 0 4))
    else bad
  | 0xA4 =>
    if bitsAt w 13 9 = 511 ∧ bitsAt w 4 9 = 511 then .ok (.tmov p (bitsAt w 0 4))
    else bad
  | 0xA5 =>
    if bitsAt w 13 9 = 511 ∧ bitsAt w 4 9 = 511 then .ok (.tfill p (bitsAt w 0 4))
    else bad
  | 0xA6 =>
    if bitsAt w 13 9 = 511 ∧ bitsAt w 4 9 = 511 ∧ bitsAt w 0 4 = 0 then .ok (.wloadT p)
    else if bitsAt w 13 9 = 511 ∧ bitsAt w 4 9 = 511 ∧ bitsAt w 0 4 = 1 then .ok (.wloadW p)
    else bad
  | 0xA7 =>
    if bitsAt w 13 9 = 511 ∧ bitsAt w 4 9 = 511 ∧ bitsAt w 0 4 = 0 then .ok (.wswap p)
    else bad
  | 0xA8 =>
    if bitsAt w 13 9 = 511 ∧ bitsAt w 4 9 = 511 then .ok (.mma p (bitsAt w 0 4))
    else bad
  | 0xA9 =>
    if bitsAt w 13 9 = 511 ∧ bitsAt w 4 9 = 511 then .ok (.mmas p (bitsAt w 0 4))
    else bad
  | 0xAA =>
    if bitsAt w 13 9 = 511 ∧ bitsAt w 4 9 = 511 then .ok (.accz p (bitsAt w 0 4))
    else bad
  | 0xAB =>
    if bitsAt w 13 9 = 511 ∧ bitsAt w 4 9 = 511 then .ok (.accd p (bitsAt w 0 4))
    else bad
  | 0xB0 =>
    if bitsAt w 13 9 = 511 ∧ bitsAt w 4 9 = 511 ∧ bitsAt w 0 4 = 0 then .ok (.sortcfg p)
    else bad
  | 0xB1 =>
    if bitsAt w 13 9 = 511 ∧ bitsAt w 4 9 = 511 then .ok (.topk p (bitsAt w 0 4))
    else bad
  | 0xC0 =>
    if bitsAt w 13 9 = 511 ∧ bitsAt w 4 9 = 511 ∧ bitsAt w 0 4 = 0 then .ok (.guess p)
    else bad
  | 0xC1 =>
    if bitsAt w 0 4 = 0 then .ok (.genofIn p (bitsAt w 13 9) (bitsAt w 4 9))
    else if bitsAt w 0 4 = 1 then .ok (.genofPrec p (bitsAt w 13 9) (bitsAt w 4 9))
    else bad
  | 0xC2 =>
    if bitsAt w 0 17 = 0 then .ok (.launchp p (bitsAt w 17 5))
    else bad
  | 0xC3 =>
    if bitsAt w 2 15 = 0 then .ok (.prune p (bitsAt w 17 5) (bitsAt w 1 1) (bitsAt w 0 1))
    else bad
  | 0xC4 =>
    if bitsAt w 0 17 = 0 then .ok (.seqOpen p (bitsAt w 17 5))
    else bad
  | 0xC5 =>
    if bitsAt w 0 17 = 0 then .ok (.seqClose p (bitsAt w 17 5))
    else bad
  | 0xD0 =>
    if bitsAt w 7 10 = 0 then .ok (.barInit p (bitsAt w 17 5) (bitsAt w 4 3) (bitsAt w 0 4))
    else bad
  | 0xD1 =>
    if bitsAt w 7 10 = 0 then .ok (.barArr p (bitsAt w 17 5) (bitsAt w 4 3) (bitsAt w 0 4))
    else bad
  | 0xD2 =>
    if bitsAt w 7 10 = 0 then .ok (.barWait p (bitsAt w 17 5) (bitsAt w 4 3) (bitsAt w 0 4))
    else bad
  | 0xD3 =>
    if bitsAt w 0 17 = 0 then .ok (.spawn p (bitsAt w 17 5))
    else bad
  | 0xD4 =>
    if bitsAt w 0 8 = 0 then .ok (.graise p (bitsAt w 13 9) (bitsAt w 8 5))
    else bad
  | 0xD5 =>
    if bitsAt w 0 13 = 0 then .ok (.gidxIdx p (bitsAt w 13 9))
    else if bitsAt w 0 13 = 1 then .ok (.gidxCnt p (bitsAt w 13 9))
    else bad
  | 0xD6 =>
    if bitsAt w 3 14 = 0 then .ok (.tdone p (bitsAt w 17 5) (bitsAt w 0 3))
    else bad
  | 0xE0 =>
    if bitsAt w 13 9 = 511 then .ok (.trap p (bitsAt w 0 13))
    else bad
  | 0xE1 =>
    if bitsAt w 13 9 = 511 ∧ bitsAt w 4 9 = 511 ∧ bitsAt w 3 1 = 0 then .ok (.eret p (bitsAt w 0 3))
    else bad
  | 0xE2 =>
    if bitsAt w 13 9 = 511 then .ok (.sysc p (bitsAt w 0 13))
    else bad
  | 0xE3 =>
    if bitsAt w 0 17 = 0 then .ok (.ckptCont p (bitsAt w 17 5))
    else if bitsAt w 0 17 = 1 then .ok (.ckptYield p (bitsAt w 17 5))
    else bad
  | 0xE4 =>
    if bitsAt w 5 12 = 0 then .ok (.tlbi p (bitsAt w 17 5) (bitsAt w 3 2) (bitsAt w 0 3))
    else bad
  | 0xE5 =>
    if bitsAt w 13 9 = 511 then .ok (.brk p (bitsAt w 0 13))
    else bad
  | 0xE6 =>
    if bitsAt w 13 9 = 511 ∧ bitsAt w 4 9 = 511 ∧ bitsAt w 0 4 = 0 then .ok (.perfCfg p)
    else if bitsAt w 0 4 = 1 then .ok (.perfRd p (bitsAt w 13 9) (bitsAt w 4 9))
    else if bitsAt w 0 4 = 2 then .ok (.perfCnt p (bitsAt w 13 9) (bitsAt w 4 9))
    else if bitsAt w 13 9 = 511 ∧ bitsAt w 4 9 = 511 ∧ bitsAt w 0 4 = 3 then .ok (.perfClr p)
    else bad
  | 0xE7 =>
    if bitsAt w 13 9 = 511 ∧ bitsAt w 4 9 = 511 ∧ bitsAt w 0 4 = 0 then .ok (.haltdStop p)
    else if bitsAt w 13 9 = 511 ∧ bitsAt w 4 9 = 511 ∧ bitsAt w 0 4 = 1 then .ok (.haltdFrz p)
    else bad
  | opc => .error (.unassigned opc)

/-- The decoder: every word is an instruction or is rejected by name. -/
def decodeWord (w : Word) : Except DecodeError Instr :=
  match decodeFields w with
  | .error e => .error e
  | .ok i => if i.wf then .ok i else .error (.illFormed (bitsAt w 24 8).toNat)

/-- The word of an instruction (R254); a device event has none. -/
def encode : Instr → Option Word
  | .nop p t u x => some (0x00#8 ++ p ++ t ++ u ++ x)
  | .getr p t k => some (0x01#8 ++ p ++ t ++ 0#8 ++ k)
  | .setr p k => some (0x02#8 ++ p ++ 511#9 ++ 0#8 ++ k)
  | .nullw p k => some (0x03#8 ++ p ++ 511#9 ++ 0#8 ++ k)
  | .movi p t i => some (0x04#8 ++ p ++ t ++ i)
  | .movk p t i => some (0x05#8 ++ p ++ t ++ i)
  | .getc p t n => some (0x06#8 ++ p ++ t ++ 0#5 ++ n)
  | .setc p n => some (0x07#8 ++ p ++ 511#9 ++ 0#5 ++ n)
  | .bx p e f => some (0x08#8 ++ p ++ e ++ f)
  | .bxr p e => some (0x09#8 ++ p ++ 511#9 ++ 511#9 ++ 0#1 ++ e)
  | .callb p e f => some (0x0A#8 ++ p ++ e ++ f)
  | .retb p e => some (0x0B#8 ++ p ++ 511#9 ++ 511#9 ++ 0#1 ++ e)
  | .add p t u => some (0x10#8 ++ p ++ t ++ u ++ 0#4)
  | .addi p t i => some (0x11#8 ++ p ++ t ++ i)
  | .sub p t u => some (0x12#8 ++ p ++ t ++ u ++ 0#4)
  | .mul p t u => some (0x13#8 ++ p ++ t ++ u ++ 0#4)
  | .mulh p t u n => some (0x14#8 ++ p ++ t ++ u ++ 0#3 ++ n)
  | .div p t u n => some (0x15#8 ++ p ++ t ++ u ++ 0#3 ++ n)
  | .rem p t u n => some (0x16#8 ++ p ++ t ++ u ++ 0#3 ++ n)
  | .adds p t u n => some (0x17#8 ++ p ++ t ++ u ++ 0#3 ++ n)
  | .subs p t u n => some (0x18#8 ++ p ++ t ++ u ++ 0#3 ++ n)
  | .min p t u n => some (0x19#8 ++ p ++ t ++ u ++ 0#3 ++ n)
  | .max p t u n => some (0x1A#8 ++ p ++ t ++ u ++ 0#3 ++ n)
  | .abs p t u s => some (0x1B#8 ++ p ++ t ++ u ++ 0#3 ++ s)
  | .neg p t u s => some (0x1C#8 ++ p ++ t ++ u ++ 0#3 ++ s)
  | .lea p t u s => some (0x1D#8 ++ p ++ t ++ u ++ 0#2 ++ s)
  | .leaBlk p t u => some (0x1D#8 ++ p ++ t ++ u ++ 8#4)
  | .andB p t u => some (0x20#8 ++ p ++ t ++ u ++ 0#4)
  | .orB p t u => some (0x21#8 ++ p ++ t ++ u ++ 0#4)
  | .xorB p t u => some (0x22#8 ++ p ++ t ++ u ++ 0#4)
  | .andn p t u => some (0x23#8 ++ p ++ t ++ u ++ 0#4)
  | .notB p t u => some (0x24#8 ++ p ++ t ++ u ++ 0#4)
  | .shl p t u => some (0x25#8 ++ p ++ t ++ u ++ 0#4)
  | .shr p t u => some (0x26#8 ++ p ++ t ++ u ++ 0#4)
  | .shra p t u => some (0x27#8 ++ p ++ t ++ u ++ 0#4)
  | .rot p t u => some (0x28#8 ++ p ++ t ++ u ++ 0#4)
  | .clz p t u => some (0x29#8 ++ p ++ t ++ u ++ 0#4)
  | .popc p t u => some (0x29#8 ++ p ++ t ++ u ++ 1#4)
  | .bfx p t u n => some (0x2A#8 ++ p ++ t ++ u ++ 0#3 ++ n)
  | .bfi p t u => some (0x2B#8 ++ p ++ t ++ u ++ 0#4)
  | .cmp p t u c n => some (0x2C#8 ++ p ++ t ++ u ++ c ++ n)
  | .testBits p t u z => some (0x2D#8 ++ p ++ t ++ u ++ 0#3 ++ z)
  | .sel p t u => some (0x2E#8 ++ p ++ t ++ u ++ 0#4)
  | .stkg p t u => some (0x2F#8 ++ p ++ t ++ u ++ 0#4)
  | .stks p t u => some (0x2F#8 ++ p ++ t ++ u ++ 1#4)
  | .stkc p t u => some (0x2F#8 ++ p ++ t ++ u ++ 2#4)
  | .fadd p t u => some (0x30#8 ++ p ++ t ++ u ++ 0#4)
  | .fsub p t u => some (0x31#8 ++ p ++ t ++ u ++ 0#4)
  | .fmul p t u => some (0x32#8 ++ p ++ t ++ u ++ 0#4)
  | .ffma p t u => some (0x33#8 ++ p ++ t ++ u ++ 0#4)
  | .fdiv p t u => some (0x34#8 ++ p ++ t ++ u ++ 0#4)
  | .fsqrt p t u => some (0x35#8 ++ p ++ t ++ u ++ 0#4)
  | .fmin p t u => some (0x36#8 ++ p ++ t ++ u ++ 0#4)
  | .fmax p t u => some (0x37#8 ++ p ++ t ++ u ++ 0#4)
  | .fabs p t u => some (0x38#8 ++ p ++ t ++ u ++ 0#4)
  | .fneg p t u => some (0x38#8 ++ p ++ t ++ u ++ 1#4)
  | .fcmp p t u c => some (0x39#8 ++ p ++ t ++ u ++ 0#1 ++ c)
  | .fclass p t u => some (0x3A#8 ++ p ++ t ++ u ++ 0#4)
  | .fexp2 p t u => some (0x3B#8 ++ p ++ t ++ u ++ 0#4)
  | .flog2 p t u => some (0x3C#8 ++ p ++ t ++ u ++ 0#4)
  | .frcp p t u => some (0x3D#8 ++ p ++ t ++ u ++ 0#4)
  | .frsq p t u => some (0x3E#8 ++ p ++ t ++ u ++ 0#4)
  | .ftanh p t u => some (0x3F#8 ++ p ++ t ++ u ++ 0#4)
  | .cvt p t u f => some (0x40#8 ++ p ++ t ++ u ++ f)
  | .narrow p t u f => some (0x41#8 ++ p ++ t ++ u ++ f)
  | .final p t f m => some (0x42#8 ++ p ++ t ++ f ++ 0#5 ++ 0#1 ++ m)
  | .scale p t u => some (0x43#8 ++ p ++ t ++ u ++ 0#4)
  | .mxsc p t u f => some (0x44#8 ++ p ++ t ++ u ++ f)
  | .dot4 p t u o g => some (0x45#8 ++ p ++ t ++ u ++ 0#1 ++ o ++ g)
  | .dot8 p t u o g => some (0x46#8 ++ p ++ t ++ u ++ 0#1 ++ o ++ g)
  | .addp p t u m w => some (0x47#8 ++ p ++ t ++ u ++ m ++ w)
  | .shlp p t u w => some (0x48#8 ++ p ++ t ++ u ++ 0#2 ++ w)
  | .shrp p t u k w => some (0x49#8 ++ p ++ t ++ u ++ 0#1 ++ k ++ w)
  | .bperm p t u => some (0x4A#8 ++ p ++ t ++ u ++ 0#4)
  | .sdcvt p t u => some (0x50#8 ++ p ++ t ++ u ++ 0#4)
  | .sdadd p t u => some (0x51#8 ++ p ++ t ++ u ++ 0#4)
  | .sdmul p t u => some (0x52#8 ++ p ++ t ++ u ++ 0#4)
  | .sdcut p t u => some (0x53#8 ++ p ++ t ++ u ++ 0#4)
  | .sdcmp p t u c => some (0x54#8 ++ p ++ t ++ u ++ 0#1 ++ c)
  | .sdtowf p t u => some (0x55#8 ++ p ++ t ++ u ++ 0#4)
  | .rng p t u w => some (0x56#8 ++ p ++ t ++ u ++ 0#3 ++ w)
  | .inPort p t n k s => some (0x60#8 ++ p ++ t ++ 0#3 ++ n ++ k ++ s)
  | .inCnt p t n => some (0x60#8 ++ p ++ t ++ 1#3 ++ n ++ 0#5)
  | .inSpc p t n => some (0x60#8 ++ p ++ t ++ 2#3 ++ n ++ 0#5)
  | .inAcc p t k s => some (0x60#8 ++ p ++ t ++ 24#6 ++ k ++ 0#1 ++ s)
  | .inMrk p t n => some (0x60#8 ++ p ++ t ++ 4#3 ++ n ++ 0#5)
  | .outPort p n k s => some (0x61#8 ++ p ++ 511#9 ++ n ++ k ++ s)
  | .outm p n k s => some (0x62#8 ++ p ++ 511#9 ++ n ++ k ++ s)
  | .mrk p n k s => some (0x63#8 ++ p ++ 511#9 ++ n ++ k ++ s)
  | .segl p n r => some (0x64#8 ++ p ++ 511#9 ++ n ++ 0#3 ++ r)
  | .segn p n q => some (0x65#8 ++ p ++ 511#9 ++ n ++ q)
  | .rsum p t u y r => some (0x66#8 ++ p ++ t ++ u ++ y ++ r)
  | .rmax p t u y r => some (0x67#8 ++ p ++ t ++ u ++ y ++ r)
  | .rmin p t u y r => some (0x68#8 ++ p ++ t ++ u ++ y ++ r)
  | .strmMem p l d n => some (0x69#8 ++ p ++ 511#9 ++ l ++ 0#2 ++ d ++ n)
  | .strmTile p l d n => some (0x6A#8 ++ p ++ 511#9 ++ l ++ 0#2 ++ d ++ n)
  | .strmDrain p l i => some (0x6B#8 ++ p ++ 511#9 ++ l ++ 0#1 ++ i)
  | .strmAcc p n z o k => some (0x6C#8 ++ p ++ 511#9 ++ n ++ z ++ o ++ k)
  | .recGet p t u k => some (0x70#8 ++ p ++ t ++ u ++ k)
  | .recSet p t u k => some (0x71#8 ++ p ++ t ++ u ++ k)
  | .recNew p t u k => some (0x72#8 ++ p ++ t ++ u ++ k)
  | .recDone p t u k => some (0x73#8 ++ p ++ t ++ u ++ 0#1 ++ k)
  | .recRej p t u k => some (0x73#8 ++ p ++ t ++ u ++ 1#1 ++ k)
  | .steer p t u o q => some (0x74#8 ++ p ++ t ++ u ++ 0#1 ++ o ++ q)
  | .merge p t u m => some (0x75#8 ++ p ++ t ++ u ++ m)
  | .omerge p t u => some (0x76#8 ++ p ++ t ++ u ++ 0#4)
  | .recirc p t u => some (0x77#8 ++ p ++ t ++ u ++ 0#4)
  | .ctxsw p n c => some (0x78#8 ++ p ++ 511#9 ++ n ++ 0#3 ++ c)
  | .fgstage p => some (0x79#8 ++ p ++ 511#9 ++ 511#9 ++ 0#4)
  | .fgseed p => some (0x7A#8 ++ p ++ 511#9 ++ 511#9 ++ 0#4)
  | .fgstat p t u f => some (0x7B#8 ++ p ++ t ++ u ++ f)
  | .ld p t l y => some (0x80#8 ++ p ++ t ++ l ++ y ++ 0#4)
  | .ldi p t l y => some (0x81#8 ++ p ++ t ++ l ++ y ++ 0#4)
  | .lda p t l y s => some (0x82#8 ++ p ++ t ++ l ++ y ++ 0#1 ++ s)
  | .st p l y m => some (0x83#8 ++ p ++ l ++ 0#7 ++ y ++ m ++ 0#3)
  | .stl p l y m s => some (0x84#8 ++ p ++ l ++ 0#7 ++ y ++ m ++ s)
  | .ldimg p t l k => some (0x85#8 ++ p ++ t ++ l ++ 0#7 ++ k)
  | .stimg p l k => some (0x86#8 ++ p ++ l ++ 0#16 ++ k)
  | .till p l => some (0x87#8 ++ p ++ l ++ 0#17)
  | .tillg p l => some (0x88#8 ++ p ++ l ++ 0#17)
  | .pres p t l => some (0x89#8 ++ p ++ t ++ l ++ 0#8)
  | .atom p t l o w a s => some (0x8A#8 ++ p ++ t ++ l ++ o ++ w ++ a ++ s)
  | .fatom p t l a s => some (0x8B#8 ++ p ++ t ++ l ++ 0#4 ++ a ++ s)
  | .cpyl p l e => some (0x90#8 ++ p ++ l ++ 0#14 ++ e)
  | .gath p l e => some (0x91#8 ++ p ++ l ++ 0#15 ++ e)
  | .scat p l e => some (0x92#8 ++ p ++ l ++ 0#15 ++ e)
  | .coll p l => some (0x93#8 ++ p ++ l ++ 0#17)
  | .resp p t l e => some (0x94#8 ++ p ++ t ++ l ++ 0#4 ++ e)
  | .fence p l s => some (0x95#8 ++ p ++ l ++ 0#14 ++ s)
  | .xfence p t l s => some (0x96#8 ++ p ++ t ++ l ++ 0#5 ++ s)
  | .xwait p l => some (0x97#8 ++ p ++ l ++ 0#17)
  | .tld p l k => some (0xA0#8 ++ p ++ 511#9 ++ l ++ 0#4 ++ k)
  | .tst p l k => some (0xA1#8 ++ p ++ l ++ 0#13 ++ k)
  | .tzero p k => some (0xA2#8 ++ p ++ 511#9 ++ 511#9 ++ k)
  | .treshape p k => some (0xA3#8 ++ p ++ 511#9 ++ 511#9 ++ k)
  | .tmov p k => some (0xA4#8 ++ p ++ 511#9 ++ 511#9 ++ k)
  | .tfill p k => some (0xA5#8 ++ p ++ 511#9 ++ 511#9 ++ k)
  | .wloadT p => some (0xA6#8 ++ p ++ 511#9 ++ 511#9 ++ 0#4)
  | .wloadW p => some (0xA6#8 ++ p ++ 511#9 ++ 511#9 ++ 1#4)
  | .wswap p => some (0xA7#8 ++ p ++ 511#9 ++ 511#9 ++ 0#4)
  | .mma p a => some (0xA8#8 ++ p ++ 511#9 ++ 511#9 ++ a)
  | .mmas p a => some (0xA9#8 ++ p ++ 511#9 ++ 511#9 ++ a)
  | .accz p m => some (0xAA#8 ++ p ++ 511#9 ++ 511#9 ++ m)
  | .accd p d => some (0xAB#8 ++ p ++ 511#9 ++ 511#9 ++ d)
  | .sortcfg p => some (0xB0#8 ++ p ++ 511#9 ++ 511#9 ++ 0#4)
  | .topk p k => some (0xB1#8 ++ p ++ 511#9 ++ 511#9 ++ k)
  | .guess p => some (0xC0#8 ++ p ++ 511#9 ++ 511#9 ++ 0#4)
  | .genofIn p t u => some (0xC1#8 ++ p ++ t ++ u ++ 0#4)
  | .genofPrec p t u => some (0xC1#8 ++ p ++ t ++ u ++ 1#4)
  | .launchp p l => some (0xC2#8 ++ p ++ l ++ 0#17)
  | .prune p l f r => some (0xC3#8 ++ p ++ l ++ 0#15 ++ f ++ r)
  | .seqOpen p l => some (0xC4#8 ++ p ++ l ++ 0#17)
  | .seqClose p l => some (0xC5#8 ++ p ++ l ++ 0#17)
  | .barInit p l s b => some (0xD0#8 ++ p ++ l ++ 0#10 ++ s ++ b)
  | .barArr p l s b => some (0xD1#8 ++ p ++ l ++ 0#10 ++ s ++ b)
  | .barWait p l s b => some (0xD2#8 ++ p ++ l ++ 0#10 ++ s ++ b)
  | .spawn p l => some (0xD3#8 ++ p ++ l ++ 0#17)
  | .graise p t l => some (0xD4#8 ++ p ++ t ++ l ++ 0#8)
  | .gidxIdx p t => some (0xD5#8 ++ p ++ t ++ 0#13)
  | .gidxCnt p t => some (0xD5#8 ++ p ++ t ++ 1#13)
  | .tdone p l j => some (0xD6#8 ++ p ++ l ++ 0#14 ++ j)
  | .trap p i => some (0xE0#8 ++ p ++ 511#9 ++ i)
  | .eret p e => some (0xE1#8 ++ p ++ 511#9 ++ 511#9 ++ 0#1 ++ e)
  | .sysc p i => some (0xE2#8 ++ p ++ 511#9 ++ i)
  | .ckptCont p l => some (0xE3#8 ++ p ++ l ++ 0#17)
  | .ckptYield p l => some (0xE3#8 ++ p ++ l ++ 1#17)
  | .tlbi p l k s => some (0xE4#8 ++ p ++ l ++ 0#12 ++ k ++ s)
  | .brk p i => some (0xE5#8 ++ p ++ 511#9 ++ i)
  | .perfCfg p => some (0xE6#8 ++ p ++ 511#9 ++ 511#9 ++ 0#4)
  | .perfRd p t u => some (0xE6#8 ++ p ++ t ++ u ++ 1#4)
  | .perfCnt p t u => some (0xE6#8 ++ p ++ t ++ u ++ 2#4)
  | .perfClr p => some (0xE6#8 ++ p ++ 511#9 ++ 511#9 ++ 3#4)
  | .haltdStop p => some (0xE7#8 ++ p ++ 511#9 ++ 511#9 ++ 0#4)
  | .haltdFrz p => some (0xE7#8 ++ p ++ 511#9 ++ 511#9 ++ 1#4)
  | .crossDieTimeout _ => none
  | .lateResponse _ => none
  | .linkStall _ _ => none
  | .linkStallCleared _ _ => none
  | .linkTraining _ _ _ _ _ _ => none
  | .flitReceive _ _ => none
  | .flitNak _ _ => none
  | .portRetrain _ _ => none
  | .rocePacket _ => none
  | .launch _ => none
  | .prepare _ => none
  | .loaderShardsFetched _ => none
  | .switch _ => none
  | .abort _ => none
  | .attest _ => none
  | .setPtbase _ => none
  | .frostRead _ => none
  | .dbgSample _ => none
  | .dbgRead _ => none
  | .resume _ => none
  | .kill _ => none
  | .replayArm _ => none
  | .replayRead _ => none
  | .errlogRead _ => none
  | .dumpRead _ => none
  | .dumpClear _ => none
  | .groupStart _ => none
  | .readyListServe _ => none
  | .sectionDone _ _ _ => none
  | .taskRecordServe _ => none
  | .trellisEnable _ _ _ => none
  | .trellisDone _ _ _ => none
  | .launchCompletion _ => none
  | .elementFire _ => none
  | .conditionTokenArrival _ _ => none
  | .pruneArrival _ _ => none
  | .drainMarkerArrival _ _ => none
  | .drainReport _ _ => none
  | .retire _ _ => none
  | .memnodePruneScan _ => none
  | .guessRecord _ => none
  | .commitNotice _ _ _ => none
  | .foragerDecision _ _ => none
  | .bankAccess _ => none
  | .pageWalk _ _ _ => none
  | .verticalParityError _ _ _ _ => none
  | .controlLinkLoss _ => none
  | .engineResponse _ _ _ _ => none
  | .collGroupFill _ _ => none
  | .streamCommandBeat _ _ => none
  | .blockBegin _ => none
  | .loadResponse _ _ _ => none
  | .blockCommit _ => none
  | .deferredFault _ _ _ _ => none
  | .cutStart _ _ _ => none
  | .dormancyMarkerArrival _ _ => none
  | .cutComplete _ => none
  | .dormantResume _ => none
  | .noProgressLimit _ => none
  | .breakpointFire _ => none
  | .dbpWrite _ _ => none
  | .gthWrite _ _ _ => none
  | .maxflWrite _ _ _ => none
  | .ehcfgClr _ _ => none
  | .registerWrite _ _ => none
  | .bucketRefill _ _ => none
  | .dieClockStop _ => none
  | .dieClockRestart _ => none
  | .retireAcknowledge _ _ => none
  | .tileInstructionCompletion _ => none
  | .powerOn => none
  | .supplyOutOfRange => none
  | .thermalTrip => none
  | .powerControllerEvaluation => none
  | .roceRateRecovery => none
  | .loaderLimitExpiry => none
  | .dispatcherHeadChoice => none
  | .imageChecks => none
  | .placement => none
  | .configLoad => none
  | .graftStart => none
  | .graftResume => none
  | .preemption => none
  | .cutTimeout => none
  | .supplyDroop => none
  | .supplyInRange => none

/-- The operand positions an instruction uses, the predicate apart: left, right, third (R247, R264). -/
def Instr.uses : Instr → List (BitVec 2)
  | .nop _ _ _ _ => []
  | .getr _ _ _ => []
  | .setr _ _ => [0]
  | .nullw _ _ => []
  | .movi _ _ _ => []
  | .movk _ _ _ => [0]
  | .getc _ _ _ => []
  | .setc _ _ => [0]
  | .bx _ _ _ => []
  | .bxr _ _ => [0]
  | .callb _ _ _ => []
  | .retb _ _ => [0]
  | .add _ _ _ => [0, 1]
  | .addi _ _ _ => [0]
  | .sub _ _ _ => [0, 1]
  | .mul _ _ _ => [0, 1]
  | .mulh _ _ _ _ => [0, 1]
  | .div _ _ _ _ => [0, 1]
  | .rem _ _ _ _ => [0, 1]
  | .adds _ _ _ _ => [0, 1]
  | .subs _ _ _ _ => [0, 1]
  | .min _ _ _ _ => [0, 1]
  | .max _ _ _ _ => [0, 1]
  | .abs _ _ _ _ => [0]
  | .neg _ _ _ _ => [0]
  | .lea _ _ _ _ => [0, 1]
  | .leaBlk _ _ _ => [0]
  | .andB _ _ _ => [0, 1]
  | .orB _ _ _ => [0, 1]
  | .xorB _ _ _ => [0, 1]
  | .andn _ _ _ => [0, 1]
  | .notB _ _ _ => [0]
  | .shl _ _ _ => [0, 1]
  | .shr _ _ _ => [0, 1]
  | .shra _ _ _ => [0, 1]
  | .rot _ _ _ => [0, 1]
  | .clz _ _ _ => [0]
  | .popc _ _ _ => [0]
  | .bfx _ _ _ _ => [0, 1]
  | .bfi _ _ _ => [0, 1, 3]
  | .cmp _ _ _ _ _ => [0, 1]
  | .testBits _ _ _ _ => [0, 1]
  | .sel _ _ _ => [0, 1, 3]
  | .stkg _ _ _ => [0]
  | .stks _ _ _ => [0]
  | .stkc _ _ _ => [0]
  | .fadd _ _ _ => [0, 1]
  | .fsub _ _ _ => [0, 1]
  | .fmul _ _ _ => [0, 1]
  | .ffma _ _ _ => [0, 1, 3]
  | .fdiv _ _ _ => [0, 1]
  | .fsqrt _ _ _ => [0]
  | .fmin _ _ _ => [0, 1]
  | .fmax _ _ _ => [0, 1]
  | .fabs _ _ _ => [0]
  | .fneg _ _ _ => [0]
  | .fcmp _ _ _ _ => [0, 1]
  | .fclass _ _ _ => [0]
  | .fexp2 _ _ _ => [0]
  | .flog2 _ _ _ => [0]
  | .frcp _ _ _ => [0]
  | .frsq _ _ _ => [0]
  | .ftanh _ _ _ => [0]
  | .cvt _ _ _ _ => [0]
  | .narrow _ _ _ _ => [0]
  | .final _ _ _ _ => [0]
  | .scale _ _ _ => [0, 1]
  | .mxsc _ _ _ _ => [0]
  | .dot4 _ _ _ _ _ => [0, 1, 3]
  | .dot8 _ _ _ _ _ => [0, 1, 3]
  | .addp _ _ _ _ _ => [0, 1]
  | .shlp _ _ _ _ => [0, 1]
  | .shrp _ _ _ _ _ => [0, 1]
  | .bperm _ _ _ => [0, 1, 3]
  | .sdcvt _ _ _ => [0, 1]
  | .sdadd _ _ _ => [0, 1]
  | .sdmul _ _ _ => [0, 1]
  | .sdcut _ _ _ => [0, 1]
  | .sdcmp _ _ _ _ => [0, 1]
  | .sdtowf _ _ _ => [0]
  | .rng _ _ _ _ => [0, 1, 3]
  | .inPort _ _ _ _ _ => []
  | .inCnt _ _ _ => []
  | .inSpc _ _ _ => []
  | .inAcc _ _ _ _ => []
  | .inMrk _ _ _ => []
  | .outPort _ _ _ _ => [0]
  | .outm _ _ _ _ => [0, 1]
  | .mrk _ _ _ _ => [0]
  | .segl _ _ _ => [0]
  | .segn _ _ _ => [0]
  | .rsum _ _ _ _ _ => [0]
  | .rmax _ _ _ _ _ => [0]
  | .rmin _ _ _ _ _ => [0]
  | .strmMem _ _ _ _ => [0, 1]
  | .strmTile _ _ _ _ => [0]
  | .strmDrain _ _ _ => [0]
  | .strmAcc _ _ _ _ _ => []
  | .recGet _ _ _ _ => [0]
  | .recSet _ _ _ _ => [0, 1]
  | .recNew _ _ _ _ => [0]
  | .recDone _ _ _ _ => [0]
  | .recRej _ _ _ _ => [0]
  | .steer _ _ _ _ _ => [0, 1]
  | .merge _ _ _ _ => []
  | .omerge _ _ _ => []
  | .recirc _ _ _ => []
  | .ctxsw _ _ _ => []
  | .fgstage _ => [0, 1]
  | .fgseed _ => [0]
  | .fgstat _ _ _ _ => [0]
  | .ld _ _ _ _ => [0]
  | .ldi _ _ _ _ => [0]
  | .lda _ _ _ _ _ => [0]
  | .st _ _ _ _ => [0, 1]
  | .stl _ _ _ _ _ => [0, 1]
  | .ldimg _ _ _ _ => [0]
  | .stimg _ _ _ => [0, 1]
  | .till _ _ => [0, 1]
  | .tillg _ _ => [0, 1]
  | .pres _ _ _ => [0]
  | .atom _ _ _ o _ _ _ => if o = 6 then [0, 1, 3] else [0, 1]
  | .fatom _ _ _ _ _ => [0, 1]
  | .cpyl _ _ _ => [0, 1, 3]
  | .gath _ _ _ => [0, 1]
  | .scat _ _ _ => [0, 1]
  | .coll _ _ => [0, 1]
  | .resp _ _ _ _ => []
  | .fence _ _ _ => []
  | .xfence _ _ _ _ => []
  | .xwait _ _ => [0]
  | .tld _ _ _ => [0, 1]
  | .tst _ _ _ => [0, 1]
  | .tzero _ _ => []
  | .treshape _ _ => [0]
  | .tmov _ _ => [0]
  | .tfill _ _ => [0, 1]
  | .wloadT _ => [0]
  | .wloadW _ => [0, 1]
  | .wswap _ => []
  | .mma _ _ => [0]
  | .mmas _ _ => [0]
  | .accz _ _ => []
  | .accd _ _ => [0]
  | .sortcfg _ => [0]
  | .topk _ _ => [0]
  | .guess _ => [0, 1, 3]
  | .genofIn _ _ _ => [0]
  | .genofPrec _ _ _ => [0, 1]
  | .launchp _ _ => [0, 1]
  | .prune _ _ _ r => if r = 1 then [0, 1] else [0]
  | .seqOpen _ _ => [0, 1]
  | .seqClose _ _ => []
  | .barInit _ _ _ _ => [0]
  | .barArr _ _ _ _ => []
  | .barWait _ _ _ _ => []
  | .spawn _ _ => [0, 1, 3]
  | .graise _ _ _ => [0]
  | .gidxIdx _ _ => []
  | .gidxCnt _ _ => []
  | .tdone _ _ _ => [0]
  | .trap _ _ => []
  | .eret _ _ => []
  | .sysc _ _ => []
  | .ckptCont _ _ => [0]
  | .ckptYield _ _ => [0]
  | .tlbi _ _ k _ => if k = 0 then [0] else []
  | .brk _ _ => []
  | .perfCfg _ => [0]
  | .perfRd _ _ _ => [0]
  | .perfCnt _ _ _ => [0]
  | .perfClr _ => [0]
  | .haltdStop _ => []
  | .haltdFrz _ => []
  | .crossDieTimeout _ => []
  | .lateResponse _ => []
  | .linkStall _ _ => []
  | .linkStallCleared _ _ => []
  | .linkTraining _ _ _ _ _ _ => []
  | .flitReceive _ _ => []
  | .flitNak _ _ => []
  | .portRetrain _ _ => []
  | .rocePacket _ => []
  | .launch _ => []
  | .prepare _ => []
  | .loaderShardsFetched _ => []
  | .switch _ => []
  | .abort _ => []
  | .attest _ => []
  | .setPtbase _ => []
  | .frostRead _ => []
  | .dbgSample _ => []
  | .dbgRead _ => []
  | .resume _ => []
  | .kill _ => []
  | .replayArm _ => []
  | .replayRead _ => []
  | .errlogRead _ => []
  | .dumpRead _ => []
  | .dumpClear _ => []
  | .groupStart _ => []
  | .readyListServe _ => []
  | .sectionDone _ _ _ => []
  | .taskRecordServe _ => []
  | .trellisEnable _ _ _ => []
  | .trellisDone _ _ _ => []
  | .launchCompletion _ => []
  | .elementFire _ => []
  | .conditionTokenArrival _ _ => []
  | .pruneArrival _ _ => []
  | .drainMarkerArrival _ _ => []
  | .drainReport _ _ => []
  | .retire _ _ => []
  | .memnodePruneScan _ => []
  | .guessRecord _ => []
  | .commitNotice _ _ _ => []
  | .foragerDecision _ _ => []
  | .bankAccess _ => []
  | .pageWalk _ _ _ => []
  | .verticalParityError _ _ _ _ => []
  | .controlLinkLoss _ => []
  | .engineResponse _ _ _ _ => []
  | .collGroupFill _ _ => []
  | .streamCommandBeat _ _ => []
  | .blockBegin _ => []
  | .loadResponse _ _ _ => []
  | .blockCommit _ => []
  | .deferredFault _ _ _ _ => []
  | .cutStart _ _ _ => []
  | .dormancyMarkerArrival _ _ => []
  | .cutComplete _ => []
  | .dormantResume _ => []
  | .noProgressLimit _ => []
  | .breakpointFire _ => []
  | .dbpWrite _ _ => []
  | .gthWrite _ _ _ => []
  | .maxflWrite _ _ _ => []
  | .ehcfgClr _ _ => []
  | .registerWrite _ _ => []
  | .bucketRefill _ _ => []
  | .dieClockStop _ => []
  | .dieClockRestart _ => []
  | .retireAcknowledge _ _ => []
  | .tileInstructionCompletion _ => []
  | .powerOn => []
  | .supplyOutOfRange => []
  | .thermalTrip => []
  | .powerControllerEvaluation => []
  | .roceRateRecovery => []
  | .loaderLimitExpiry => []
  | .dispatcherHeadChoice => []
  | .imageChecks => []
  | .placement => []
  | .configLoad => []
  | .graftStart => []
  | .graftResume => []
  | .preemption => []
  | .cutTimeout => []
  | .supplyDroop => []
  | .supplyInRange => []

/-- PRED of an instruction word (R256). -/
def Instr.pred : Instr → BitVec 2
  | .nop p _ _ _ => p
  | .getr p _ _ => p
  | .setr p _ => p
  | .nullw p _ => p
  | .movi p _ _ => p
  | .movk p _ _ => p
  | .getc p _ _ => p
  | .setc p _ => p
  | .bx p _ _ => p
  | .bxr p _ => p
  | .callb p _ _ => p
  | .retb p _ => p
  | .add p _ _ => p
  | .addi p _ _ => p
  | .sub p _ _ => p
  | .mul p _ _ => p
  | .mulh p _ _ _ => p
  | .div p _ _ _ => p
  | .rem p _ _ _ => p
  | .adds p _ _ _ => p
  | .subs p _ _ _ => p
  | .min p _ _ _ => p
  | .max p _ _ _ => p
  | .abs p _ _ _ => p
  | .neg p _ _ _ => p
  | .lea p _ _ _ => p
  | .leaBlk p _ _ => p
  | .andB p _ _ => p
  | .orB p _ _ => p
  | .xorB p _ _ => p
  | .andn p _ _ => p
  | .notB p _ _ => p
  | .shl p _ _ => p
  | .shr p _ _ => p
  | .shra p _ _ => p
  | .rot p _ _ => p
  | .clz p _ _ => p
  | .popc p _ _ => p
  | .bfx p _ _ _ => p
  | .bfi p _ _ => p
  | .cmp p _ _ _ _ => p
  | .testBits p _ _ _ => p
  | .sel p _ _ => p
  | .stkg p _ _ => p
  | .stks p _ _ => p
  | .stkc p _ _ => p
  | .fadd p _ _ => p
  | .fsub p _ _ => p
  | .fmul p _ _ => p
  | .ffma p _ _ => p
  | .fdiv p _ _ => p
  | .fsqrt p _ _ => p
  | .fmin p _ _ => p
  | .fmax p _ _ => p
  | .fabs p _ _ => p
  | .fneg p _ _ => p
  | .fcmp p _ _ _ => p
  | .fclass p _ _ => p
  | .fexp2 p _ _ => p
  | .flog2 p _ _ => p
  | .frcp p _ _ => p
  | .frsq p _ _ => p
  | .ftanh p _ _ => p
  | .cvt p _ _ _ => p
  | .narrow p _ _ _ => p
  | .final p _ _ _ => p
  | .scale p _ _ => p
  | .mxsc p _ _ _ => p
  | .dot4 p _ _ _ _ => p
  | .dot8 p _ _ _ _ => p
  | .addp p _ _ _ _ => p
  | .shlp p _ _ _ => p
  | .shrp p _ _ _ _ => p
  | .bperm p _ _ => p
  | .sdcvt p _ _ => p
  | .sdadd p _ _ => p
  | .sdmul p _ _ => p
  | .sdcut p _ _ => p
  | .sdcmp p _ _ _ => p
  | .sdtowf p _ _ => p
  | .rng p _ _ _ => p
  | .inPort p _ _ _ _ => p
  | .inCnt p _ _ => p
  | .inSpc p _ _ => p
  | .inAcc p _ _ _ => p
  | .inMrk p _ _ => p
  | .outPort p _ _ _ => p
  | .outm p _ _ _ => p
  | .mrk p _ _ _ => p
  | .segl p _ _ => p
  | .segn p _ _ => p
  | .rsum p _ _ _ _ => p
  | .rmax p _ _ _ _ => p
  | .rmin p _ _ _ _ => p
  | .strmMem p _ _ _ => p
  | .strmTile p _ _ _ => p
  | .strmDrain p _ _ => p
  | .strmAcc p _ _ _ _ => p
  | .recGet p _ _ _ => p
  | .recSet p _ _ _ => p
  | .recNew p _ _ _ => p
  | .recDone p _ _ _ => p
  | .recRej p _ _ _ => p
  | .steer p _ _ _ _ => p
  | .merge p _ _ _ => p
  | .omerge p _ _ => p
  | .recirc p _ _ => p
  | .ctxsw p _ _ => p
  | .fgstage p => p
  | .fgseed p => p
  | .fgstat p _ _ _ => p
  | .ld p _ _ _ => p
  | .ldi p _ _ _ => p
  | .lda p _ _ _ _ => p
  | .st p _ _ _ => p
  | .stl p _ _ _ _ => p
  | .ldimg p _ _ _ => p
  | .stimg p _ _ => p
  | .till p _ => p
  | .tillg p _ => p
  | .pres p _ _ => p
  | .atom p _ _ _ _ _ _ => p
  | .fatom p _ _ _ _ => p
  | .cpyl p _ _ => p
  | .gath p _ _ => p
  | .scat p _ _ => p
  | .coll p _ => p
  | .resp p _ _ _ => p
  | .fence p _ _ => p
  | .xfence p _ _ _ => p
  | .xwait p _ => p
  | .tld p _ _ => p
  | .tst p _ _ => p
  | .tzero p _ => p
  | .treshape p _ => p
  | .tmov p _ => p
  | .tfill p _ => p
  | .wloadT p => p
  | .wloadW p => p
  | .wswap p => p
  | .mma p _ => p
  | .mmas p _ => p
  | .accz p _ => p
  | .accd p _ => p
  | .sortcfg p => p
  | .topk p _ => p
  | .guess p => p
  | .genofIn p _ _ => p
  | .genofPrec p _ _ => p
  | .launchp p _ => p
  | .prune p _ _ _ => p
  | .seqOpen p _ => p
  | .seqClose p _ => p
  | .barInit p _ _ _ => p
  | .barArr p _ _ _ => p
  | .barWait p _ _ _ => p
  | .spawn p _ => p
  | .graise p _ _ => p
  | .gidxIdx p _ => p
  | .gidxCnt p _ => p
  | .tdone p _ _ => p
  | .trap p _ => p
  | .eret p _ => p
  | .sysc p _ => p
  | .ckptCont p _ => p
  | .ckptYield p _ => p
  | .tlbi p _ _ _ => p
  | .brk p _ => p
  | .perfCfg p => p
  | .perfRd p _ _ => p
  | .perfCnt p _ _ => p
  | .perfClr p => p
  | .haltdStop p => p
  | .haltdFrz p => p
  | .crossDieTimeout _ => 0
  | .lateResponse _ => 0
  | .linkStall _ _ => 0
  | .linkStallCleared _ _ => 0
  | .linkTraining _ _ _ _ _ _ => 0
  | .flitReceive _ _ => 0
  | .flitNak _ _ => 0
  | .portRetrain _ _ => 0
  | .rocePacket _ => 0
  | .launch _ => 0
  | .prepare _ => 0
  | .loaderShardsFetched _ => 0
  | .switch _ => 0
  | .abort _ => 0
  | .attest _ => 0
  | .setPtbase _ => 0
  | .frostRead _ => 0
  | .dbgSample _ => 0
  | .dbgRead _ => 0
  | .resume _ => 0
  | .kill _ => 0
  | .replayArm _ => 0
  | .replayRead _ => 0
  | .errlogRead _ => 0
  | .dumpRead _ => 0
  | .dumpClear _ => 0
  | .groupStart _ => 0
  | .readyListServe _ => 0
  | .sectionDone _ _ _ => 0
  | .taskRecordServe _ => 0
  | .trellisEnable _ _ _ => 0
  | .trellisDone _ _ _ => 0
  | .launchCompletion _ => 0
  | .elementFire _ => 0
  | .conditionTokenArrival _ _ => 0
  | .pruneArrival _ _ => 0
  | .drainMarkerArrival _ _ => 0
  | .drainReport _ _ => 0
  | .retire _ _ => 0
  | .memnodePruneScan _ => 0
  | .guessRecord _ => 0
  | .commitNotice _ _ _ => 0
  | .foragerDecision _ _ => 0
  | .bankAccess _ => 0
  | .pageWalk _ _ _ => 0
  | .verticalParityError _ _ _ _ => 0
  | .controlLinkLoss _ => 0
  | .engineResponse _ _ _ _ => 0
  | .collGroupFill _ _ => 0
  | .streamCommandBeat _ _ => 0
  | .blockBegin _ => 0
  | .loadResponse _ _ _ => 0
  | .blockCommit _ => 0
  | .deferredFault _ _ _ _ => 0
  | .cutStart _ _ _ => 0
  | .dormancyMarkerArrival _ _ => 0
  | .cutComplete _ => 0
  | .dormantResume _ => 0
  | .noProgressLimit _ => 0
  | .breakpointFire _ => 0
  | .dbpWrite _ _ => 0
  | .gthWrite _ _ _ => 0
  | .maxflWrite _ _ _ => 0
  | .ehcfgClr _ _ => 0
  | .registerWrite _ _ => 0
  | .bucketRefill _ _ => 0
  | .dieClockStop _ => 0
  | .dieClockRestart _ => 0
  | .retireAcknowledge _ _ => 0
  | .tileInstructionCompletion _ => 0
  | .powerOn => 0
  | .supplyOutOfRange => 0
  | .thermalTrip => 0
  | .powerControllerEvaluation => 0
  | .roceRateRecovery => 0
  | .loaderLimitExpiry => 0
  | .dispatcherHeadChoice => 0
  | .imageChecks => 0
  | .placement => 0
  | .configLoad => 0
  | .graftStart => 0
  | .graftResume => 0
  | .preemption => 0
  | .cutTimeout => 0
  | .supplyDroop => 0
  | .supplyInRange => 0

/-- The target fields of an instruction, 0x1FF for none (R254, R255). NOP delivers nothing, so its fields name none. -/
def Instr.targets : Instr → List (BitVec 9)
  | .nop _ _ _ _ => []
  | .getr _ t _ => [t]
  | .setr _ _ => []
  | .nullw _ _ => []
  | .movi _ t _ => [t]
  | .movk _ t _ => [t]
  | .getc _ t _ => [t]
  | .setc _ _ => []
  | .bx _ _ _ => []
  | .bxr _ _ => []
  | .callb _ _ _ => []
  | .retb _ _ => []
  | .add _ t u => [t, u]
  | .addi _ t _ => [t]
  | .sub _ t u => [t, u]
  | .mul _ t u => [t, u]
  | .mulh _ t u _ => [t, u]
  | .div _ t u _ => [t, u]
  | .rem _ t u _ => [t, u]
  | .adds _ t u _ => [t, u]
  | .subs _ t u _ => [t, u]
  | .min _ t u _ => [t, u]
  | .max _ t u _ => [t, u]
  | .abs _ t u _ => [t, u]
  | .neg _ t u _ => [t, u]
  | .lea _ t u _ => [t, u]
  | .leaBlk _ t u => [t, u]
  | .andB _ t u => [t, u]
  | .orB _ t u => [t, u]
  | .xorB _ t u => [t, u]
  | .andn _ t u => [t, u]
  | .notB _ t u => [t, u]
  | .shl _ t u => [t, u]
  | .shr _ t u => [t, u]
  | .shra _ t u => [t, u]
  | .rot _ t u => [t, u]
  | .clz _ t u => [t, u]
  | .popc _ t u => [t, u]
  | .bfx _ t u _ => [t, u]
  | .bfi _ t u => [t, u]
  | .cmp _ t u _ _ => [t, u]
  | .testBits _ t u _ => [t, u]
  | .sel _ t u => [t, u]
  | .stkg _ t u => [t, u]
  | .stks _ t u => [t, u]
  | .stkc _ t u => [t, u]
  | .fadd _ t u => [t, u]
  | .fsub _ t u => [t, u]
  | .fmul _ t u => [t, u]
  | .ffma _ t u => [t, u]
  | .fdiv _ t u => [t, u]
  | .fsqrt _ t u => [t, u]
  | .fmin _ t u => [t, u]
  | .fmax _ t u => [t, u]
  | .fabs _ t u => [t, u]
  | .fneg _ t u => [t, u]
  | .fcmp _ t u _ => [t, u]
  | .fclass _ t u => [t, u]
  | .fexp2 _ t u => [t, u]
  | .flog2 _ t u => [t, u]
  | .frcp _ t u => [t, u]
  | .frsq _ t u => [t, u]
  | .ftanh _ t u => [t, u]
  | .cvt _ t u _ => [t, u]
  | .narrow _ t u _ => [t, u]
  | .final _ t _ _ => [t]
  | .scale _ t u => [t, u]
  | .mxsc _ t u _ => [t, u]
  | .dot4 _ t u _ _ => [t, u]
  | .dot8 _ t u _ _ => [t, u]
  | .addp _ t u _ _ => [t, u]
  | .shlp _ t u _ => [t, u]
  | .shrp _ t u _ _ => [t, u]
  | .bperm _ t u => [t, u]
  | .sdcvt _ t u => [t, u]
  | .sdadd _ t u => [t, u]
  | .sdmul _ t u => [t, u]
  | .sdcut _ t u => [t, u]
  | .sdcmp _ t u _ => [t, u]
  | .sdtowf _ t u => [t, u]
  | .rng _ t u _ => [t, u]
  | .inPort _ t _ _ _ => [t]
  | .inCnt _ t _ => [t]
  | .inSpc _ t _ => [t]
  | .inAcc _ t _ _ => [t]
  | .inMrk _ t _ => [t]
  | .outPort _ _ _ _ => []
  | .outm _ _ _ _ => []
  | .mrk _ _ _ _ => []
  | .segl _ _ _ => []
  | .segn _ _ _ => []
  | .rsum _ t u _ _ => [t, u]
  | .rmax _ t u _ _ => [t, u]
  | .rmin _ t u _ _ => [t, u]
  | .strmMem _ _ _ _ => []
  | .strmTile _ _ _ _ => []
  | .strmDrain _ _ _ => []
  | .strmAcc _ _ _ _ _ => []
  | .recGet _ t u _ => [t, u]
  | .recSet _ t u _ => [t, u]
  | .recNew _ t u _ => [t, u]
  | .recDone _ t u _ => [t, u]
  | .recRej _ t u _ => [t, u]
  | .steer _ t u _ _ => [t, u]
  | .merge _ t u _ => [t, u]
  | .omerge _ t u => [t, u]
  | .recirc _ t u => [t, u]
  | .ctxsw _ _ _ => []
  | .fgstage _ => []
  | .fgseed _ => []
  | .fgstat _ t u _ => [t, u]
  | .ld _ t _ _ => [t]
  | .ldi _ t _ _ => [t]
  | .lda _ t _ _ _ => [t]
  | .st _ _ _ _ => []
  | .stl _ _ _ _ _ => []
  | .ldimg _ t _ _ => [t]
  | .stimg _ _ _ => []
  | .till _ _ => []
  | .tillg _ _ => []
  | .pres _ t _ => [t]
  | .atom _ t _ _ _ _ _ => [t]
  | .fatom _ t _ _ _ => [t]
  | .cpyl _ _ _ => []
  | .gath _ _ _ => []
  | .scat _ _ _ => []
  | .coll _ _ => []
  | .resp _ t _ _ => [t]
  | .fence _ _ _ => []
  | .xfence _ t _ _ => [t]
  | .xwait _ _ => []
  | .tld _ _ _ => []
  | .tst _ _ _ => []
  | .tzero _ _ => []
  | .treshape _ _ => []
  | .tmov _ _ => []
  | .tfill _ _ => []
  | .wloadT _ => []
  | .wloadW _ => []
  | .wswap _ => []
  | .mma _ _ => []
  | .mmas _ _ => []
  | .accz _ _ => []
  | .accd _ _ => []
  | .sortcfg _ => []
  | .topk _ _ => []
  | .guess _ => []
  | .genofIn _ t u => [t, u]
  | .genofPrec _ t u => [t, u]
  | .launchp _ _ => []
  | .prune _ _ _ _ => []
  | .seqOpen _ _ => []
  | .seqClose _ _ => []
  | .barInit _ _ _ _ => []
  | .barArr _ _ _ _ => []
  | .barWait _ _ _ _ => []
  | .spawn _ _ => []
  | .graise _ t _ => [t]
  | .gidxIdx _ t => [t]
  | .gidxCnt _ t => [t]
  | .tdone _ _ _ => []
  | .trap _ _ => []
  | .eret _ _ => []
  | .sysc _ _ => []
  | .ckptCont _ _ => []
  | .ckptYield _ _ => []
  | .tlbi _ _ _ _ => []
  | .brk _ _ => []
  | .perfCfg _ => []
  | .perfRd _ t u => [t, u]
  | .perfCnt _ t u => [t, u]
  | .perfClr _ => []
  | .haltdStop _ => []
  | .haltdFrz _ => []
  | .crossDieTimeout _ => []
  | .lateResponse _ => []
  | .linkStall _ _ => []
  | .linkStallCleared _ _ => []
  | .linkTraining _ _ _ _ _ _ => []
  | .flitReceive _ _ => []
  | .flitNak _ _ => []
  | .portRetrain _ _ => []
  | .rocePacket _ => []
  | .launch _ => []
  | .prepare _ => []
  | .loaderShardsFetched _ => []
  | .switch _ => []
  | .abort _ => []
  | .attest _ => []
  | .setPtbase _ => []
  | .frostRead _ => []
  | .dbgSample _ => []
  | .dbgRead _ => []
  | .resume _ => []
  | .kill _ => []
  | .replayArm _ => []
  | .replayRead _ => []
  | .errlogRead _ => []
  | .dumpRead _ => []
  | .dumpClear _ => []
  | .groupStart _ => []
  | .readyListServe _ => []
  | .sectionDone _ _ _ => []
  | .taskRecordServe _ => []
  | .trellisEnable _ _ _ => []
  | .trellisDone _ _ _ => []
  | .launchCompletion _ => []
  | .elementFire _ => []
  | .conditionTokenArrival _ _ => []
  | .pruneArrival _ _ => []
  | .drainMarkerArrival _ _ => []
  | .drainReport _ _ => []
  | .retire _ _ => []
  | .memnodePruneScan _ => []
  | .guessRecord _ => []
  | .commitNotice _ _ _ => []
  | .foragerDecision _ _ => []
  | .bankAccess _ => []
  | .pageWalk _ _ _ => []
  | .verticalParityError _ _ _ _ => []
  | .controlLinkLoss _ => []
  | .engineResponse _ _ _ _ => []
  | .collGroupFill _ _ => []
  | .streamCommandBeat _ _ => []
  | .blockBegin _ => []
  | .loadResponse _ _ _ => []
  | .blockCommit _ => []
  | .deferredFault _ _ _ _ => []
  | .cutStart _ _ _ => []
  | .dormancyMarkerArrival _ _ => []
  | .cutComplete _ => []
  | .dormantResume _ => []
  | .noProgressLimit _ => []
  | .breakpointFire _ => []
  | .dbpWrite _ _ => []
  | .gthWrite _ _ _ => []
  | .maxflWrite _ _ _ => []
  | .ehcfgClr _ _ => []
  | .registerWrite _ _ => []
  | .bucketRefill _ _ => []
  | .dieClockStop _ => []
  | .dieClockRestart _ => []
  | .retireAcknowledge _ _ => []
  | .tileInstructionCompletion _ => []
  | .powerOn => []
  | .supplyOutOfRange => []
  | .thermalTrip => []
  | .powerControllerEvaluation => []
  | .roceRateRecovery => []
  | .loaderLimitExpiry => []
  | .dispatcherHeadChoice => []
  | .imageChecks => []
  | .placement => []
  | .configLoad => []
  | .graftStart => []
  | .graftResume => []
  | .preemption => []
  | .cutTimeout => []
  | .supplyDroop => []
  | .supplyInRange => []

/-- The LSID of an effect: an instruction of format L or S (R249, R257). -/
def Instr.lsid : Instr → Option (BitVec 5)
  | .nop _ _ _ _ => none
  | .getr _ _ _ => none
  | .setr _ _ => none
  | .nullw _ _ => none
  | .movi _ _ _ => none
  | .movk _ _ _ => none
  | .getc _ _ _ => none
  | .setc _ _ => none
  | .bx _ _ _ => none
  | .bxr _ _ => none
  | .callb _ _ _ => none
  | .retb _ _ => none
  | .add _ _ _ => none
  | .addi _ _ _ => none
  | .sub _ _ _ => none
  | .mul _ _ _ => none
  | .mulh _ _ _ _ => none
  | .div _ _ _ _ => none
  | .rem _ _ _ _ => none
  | .adds _ _ _ _ => none
  | .subs _ _ _ _ => none
  | .min _ _ _ _ => none
  | .max _ _ _ _ => none
  | .abs _ _ _ _ => none
  | .neg _ _ _ _ => none
  | .lea _ _ _ _ => none
  | .leaBlk _ _ _ => none
  | .andB _ _ _ => none
  | .orB _ _ _ => none
  | .xorB _ _ _ => none
  | .andn _ _ _ => none
  | .notB _ _ _ => none
  | .shl _ _ _ => none
  | .shr _ _ _ => none
  | .shra _ _ _ => none
  | .rot _ _ _ => none
  | .clz _ _ _ => none
  | .popc _ _ _ => none
  | .bfx _ _ _ _ => none
  | .bfi _ _ _ => none
  | .cmp _ _ _ _ _ => none
  | .testBits _ _ _ _ => none
  | .sel _ _ _ => none
  | .stkg _ _ _ => none
  | .stks _ _ _ => none
  | .stkc _ _ _ => none
  | .fadd _ _ _ => none
  | .fsub _ _ _ => none
  | .fmul _ _ _ => none
  | .ffma _ _ _ => none
  | .fdiv _ _ _ => none
  | .fsqrt _ _ _ => none
  | .fmin _ _ _ => none
  | .fmax _ _ _ => none
  | .fabs _ _ _ => none
  | .fneg _ _ _ => none
  | .fcmp _ _ _ _ => none
  | .fclass _ _ _ => none
  | .fexp2 _ _ _ => none
  | .flog2 _ _ _ => none
  | .frcp _ _ _ => none
  | .frsq _ _ _ => none
  | .ftanh _ _ _ => none
  | .cvt _ _ _ _ => none
  | .narrow _ _ _ _ => none
  | .final _ _ _ _ => none
  | .scale _ _ _ => none
  | .mxsc _ _ _ _ => none
  | .dot4 _ _ _ _ _ => none
  | .dot8 _ _ _ _ _ => none
  | .addp _ _ _ _ _ => none
  | .shlp _ _ _ _ => none
  | .shrp _ _ _ _ _ => none
  | .bperm _ _ _ => none
  | .sdcvt _ _ _ => none
  | .sdadd _ _ _ => none
  | .sdmul _ _ _ => none
  | .sdcut _ _ _ => none
  | .sdcmp _ _ _ _ => none
  | .sdtowf _ _ _ => none
  | .rng _ _ _ _ => none
  | .inPort _ _ _ _ _ => none
  | .inCnt _ _ _ => none
  | .inSpc _ _ _ => none
  | .inAcc _ _ _ _ => none
  | .inMrk _ _ _ => none
  | .outPort _ _ _ _ => none
  | .outm _ _ _ _ => none
  | .mrk _ _ _ _ => none
  | .segl _ _ _ => none
  | .segn _ _ _ => none
  | .rsum _ _ _ _ _ => none
  | .rmax _ _ _ _ _ => none
  | .rmin _ _ _ _ _ => none
  | .strmMem _ l _ _ => some l
  | .strmTile _ l _ _ => some l
  | .strmDrain _ l _ => some l
  | .strmAcc _ _ _ _ _ => none
  | .recGet _ _ _ _ => none
  | .recSet _ _ _ _ => none
  | .recNew _ _ _ _ => none
  | .recDone _ _ _ _ => none
  | .recRej _ _ _ _ => none
  | .steer _ _ _ _ _ => none
  | .merge _ _ _ _ => none
  | .omerge _ _ _ => none
  | .recirc _ _ _ => none
  | .ctxsw _ _ _ => none
  | .fgstage _ => none
  | .fgseed _ => none
  | .fgstat _ _ _ _ => none
  | .ld _ _ l _ => some l
  | .ldi _ _ l _ => some l
  | .lda _ _ l _ _ => some l
  | .st _ l _ _ => some l
  | .stl _ l _ _ _ => some l
  | .ldimg _ _ l _ => some l
  | .stimg _ l _ => some l
  | .till _ l => some l
  | .tillg _ l => some l
  | .pres _ _ l => some l
  | .atom _ _ l _ _ _ _ => some l
  | .fatom _ _ l _ _ => some l
  | .cpyl _ l _ => some l
  | .gath _ l _ => some l
  | .scat _ l _ => some l
  | .coll _ l => some l
  | .resp _ _ l _ => some l
  | .fence _ l _ => some l
  | .xfence _ _ l _ => some l
  | .xwait _ l => some l
  | .tld _ l _ => some l
  | .tst _ l _ => some l
  | .tzero _ _ => none
  | .treshape _ _ => none
  | .tmov _ _ => none
  | .tfill _ _ => none
  | .wloadT _ => none
  | .wloadW _ => none
  | .wswap _ => none
  | .mma _ _ => none
  | .mmas _ _ => none
  | .accz _ _ => none
  | .accd _ _ => none
  | .sortcfg _ => none
  | .topk _ _ => none
  | .guess _ => none
  | .genofIn _ _ _ => none
  | .genofPrec _ _ _ => none
  | .launchp _ l => some l
  | .prune _ l _ _ => some l
  | .seqOpen _ l => some l
  | .seqClose _ l => some l
  | .barInit _ l _ _ => some l
  | .barArr _ l _ _ => some l
  | .barWait _ l _ _ => some l
  | .spawn _ l => some l
  | .graise _ _ l => some l
  | .gidxIdx _ _ => none
  | .gidxCnt _ _ => none
  | .tdone _ l _ => some l
  | .trap _ _ => none
  | .eret _ _ => none
  | .sysc _ _ => none
  | .ckptCont _ l => some l
  | .ckptYield _ l => some l
  | .tlbi _ l _ _ => some l
  | .brk _ _ => none
  | .perfCfg _ => none
  | .perfRd _ _ _ => none
  | .perfCnt _ _ _ => none
  | .perfClr _ => none
  | .haltdStop _ => none
  | .haltdFrz _ => none
  | .crossDieTimeout _ => none
  | .lateResponse _ => none
  | .linkStall _ _ => none
  | .linkStallCleared _ _ => none
  | .linkTraining _ _ _ _ _ _ => none
  | .flitReceive _ _ => none
  | .flitNak _ _ => none
  | .portRetrain _ _ => none
  | .rocePacket _ => none
  | .launch _ => none
  | .prepare _ => none
  | .loaderShardsFetched _ => none
  | .switch _ => none
  | .abort _ => none
  | .attest _ => none
  | .setPtbase _ => none
  | .frostRead _ => none
  | .dbgSample _ => none
  | .dbgRead _ => none
  | .resume _ => none
  | .kill _ => none
  | .replayArm _ => none
  | .replayRead _ => none
  | .errlogRead _ => none
  | .dumpRead _ => none
  | .dumpClear _ => none
  | .groupStart _ => none
  | .readyListServe _ => none
  | .sectionDone _ _ _ => none
  | .taskRecordServe _ => none
  | .trellisEnable _ _ _ => none
  | .trellisDone _ _ _ => none
  | .launchCompletion _ => none
  | .elementFire _ => none
  | .conditionTokenArrival _ _ => none
  | .pruneArrival _ _ => none
  | .drainMarkerArrival _ _ => none
  | .drainReport _ _ => none
  | .retire _ _ => none
  | .memnodePruneScan _ => none
  | .guessRecord _ => none
  | .commitNotice _ _ _ => none
  | .foragerDecision _ _ => none
  | .bankAccess _ => none
  | .pageWalk _ _ _ => none
  | .verticalParityError _ _ _ _ => none
  | .controlLinkLoss _ => none
  | .engineResponse _ _ _ _ => none
  | .collGroupFill _ _ => none
  | .streamCommandBeat _ _ => none
  | .blockBegin _ => none
  | .loadResponse _ _ _ => none
  | .blockCommit _ => none
  | .deferredFault _ _ _ _ => none
  | .cutStart _ _ _ => none
  | .dormancyMarkerArrival _ _ => none
  | .cutComplete _ => none
  | .dormantResume _ => none
  | .noProgressLimit _ => none
  | .breakpointFire _ => none
  | .dbpWrite _ _ => none
  | .gthWrite _ _ _ => none
  | .maxflWrite _ _ _ => none
  | .ehcfgClr _ _ => none
  | .registerWrite _ _ => none
  | .bucketRefill _ _ => none
  | .dieClockStop _ => none
  | .dieClockRestart _ => none
  | .retireAcknowledge _ _ => none
  | .tileInstructionCompletion _ => none
  | .powerOn => none
  | .supplyOutOfRange => none
  | .thermalTrip => none
  | .powerControllerEvaluation => none
  | .roceRateRecovery => none
  | .loaderLimitExpiry => none
  | .dispatcherHeadChoice => none
  | .imageChecks => none
  | .placement => none
  | .configLoad => none
  | .graftStart => none
  | .graftResume => none
  | .preemption => none
  | .cutTimeout => none
  | .supplyDroop => none
  | .supplyInRange => none

/-- The exit number of an exit instruction (R257, R270, R372). -/
def Instr.exitNo : Instr → Option (BitVec 3)
  | .nop _ _ _ _ => none
  | .getr _ _ _ => none
  | .setr _ _ => none
  | .nullw _ _ => none
  | .movi _ _ _ => none
  | .movk _ _ _ => none
  | .getc _ _ _ => none
  | .setc _ _ => none
  | .bx _ e _ => some e
  | .bxr _ e => some e
  | .callb _ e _ => some e
  | .retb _ e => some e
  | .add _ _ _ => none
  | .addi _ _ _ => none
  | .sub _ _ _ => none
  | .mul _ _ _ => none
  | .mulh _ _ _ _ => none
  | .div _ _ _ _ => none
  | .rem _ _ _ _ => none
  | .adds _ _ _ _ => none
  | .subs _ _ _ _ => none
  | .min _ _ _ _ => none
  | .max _ _ _ _ => none
  | .abs _ _ _ _ => none
  | .neg _ _ _ _ => none
  | .lea _ _ _ _ => none
  | .leaBlk _ _ _ => none
  | .andB _ _ _ => none
  | .orB _ _ _ => none
  | .xorB _ _ _ => none
  | .andn _ _ _ => none
  | .notB _ _ _ => none
  | .shl _ _ _ => none
  | .shr _ _ _ => none
  | .shra _ _ _ => none
  | .rot _ _ _ => none
  | .clz _ _ _ => none
  | .popc _ _ _ => none
  | .bfx _ _ _ _ => none
  | .bfi _ _ _ => none
  | .cmp _ _ _ _ _ => none
  | .testBits _ _ _ _ => none
  | .sel _ _ _ => none
  | .stkg _ _ _ => none
  | .stks _ _ _ => none
  | .stkc _ _ _ => none
  | .fadd _ _ _ => none
  | .fsub _ _ _ => none
  | .fmul _ _ _ => none
  | .ffma _ _ _ => none
  | .fdiv _ _ _ => none
  | .fsqrt _ _ _ => none
  | .fmin _ _ _ => none
  | .fmax _ _ _ => none
  | .fabs _ _ _ => none
  | .fneg _ _ _ => none
  | .fcmp _ _ _ _ => none
  | .fclass _ _ _ => none
  | .fexp2 _ _ _ => none
  | .flog2 _ _ _ => none
  | .frcp _ _ _ => none
  | .frsq _ _ _ => none
  | .ftanh _ _ _ => none
  | .cvt _ _ _ _ => none
  | .narrow _ _ _ _ => none
  | .final _ _ _ _ => none
  | .scale _ _ _ => none
  | .mxsc _ _ _ _ => none
  | .dot4 _ _ _ _ _ => none
  | .dot8 _ _ _ _ _ => none
  | .addp _ _ _ _ _ => none
  | .shlp _ _ _ _ => none
  | .shrp _ _ _ _ _ => none
  | .bperm _ _ _ => none
  | .sdcvt _ _ _ => none
  | .sdadd _ _ _ => none
  | .sdmul _ _ _ => none
  | .sdcut _ _ _ => none
  | .sdcmp _ _ _ _ => none
  | .sdtowf _ _ _ => none
  | .rng _ _ _ _ => none
  | .inPort _ _ _ _ _ => none
  | .inCnt _ _ _ => none
  | .inSpc _ _ _ => none
  | .inAcc _ _ _ _ => none
  | .inMrk _ _ _ => none
  | .outPort _ _ _ _ => none
  | .outm _ _ _ _ => none
  | .mrk _ _ _ _ => none
  | .segl _ _ _ => none
  | .segn _ _ _ => none
  | .rsum _ _ _ _ _ => none
  | .rmax _ _ _ _ _ => none
  | .rmin _ _ _ _ _ => none
  | .strmMem _ _ _ _ => none
  | .strmTile _ _ _ _ => none
  | .strmDrain _ _ _ => none
  | .strmAcc _ _ _ _ _ => none
  | .recGet _ _ _ _ => none
  | .recSet _ _ _ _ => none
  | .recNew _ _ _ _ => none
  | .recDone _ _ _ _ => none
  | .recRej _ _ _ _ => none
  | .steer _ _ _ _ _ => none
  | .merge _ _ _ _ => none
  | .omerge _ _ _ => none
  | .recirc _ _ _ => none
  | .ctxsw _ _ _ => none
  | .fgstage _ => none
  | .fgseed _ => none
  | .fgstat _ _ _ _ => none
  | .ld _ _ _ _ => none
  | .ldi _ _ _ _ => none
  | .lda _ _ _ _ _ => none
  | .st _ _ _ _ => none
  | .stl _ _ _ _ _ => none
  | .ldimg _ _ _ _ => none
  | .stimg _ _ _ => none
  | .till _ _ => none
  | .tillg _ _ => none
  | .pres _ _ _ => none
  | .atom _ _ _ _ _ _ _ => none
  | .fatom _ _ _ _ _ => none
  | .cpyl _ _ _ => none
  | .gath _ _ _ => none
  | .scat _ _ _ => none
  | .coll _ _ => none
  | .resp _ _ _ _ => none
  | .fence _ _ _ => none
  | .xfence _ _ _ _ => none
  | .xwait _ _ => none
  | .tld _ _ _ => none
  | .tst _ _ _ => none
  | .tzero _ _ => none
  | .treshape _ _ => none
  | .tmov _ _ => none
  | .tfill _ _ => none
  | .wloadT _ => none
  | .wloadW _ => none
  | .wswap _ => none
  | .mma _ _ => none
  | .mmas _ _ => none
  | .accz _ _ => none
  | .accd _ _ => none
  | .sortcfg _ => none
  | .topk _ _ => none
  | .guess _ => none
  | .genofIn _ _ _ => none
  | .genofPrec _ _ _ => none
  | .launchp _ _ => none
  | .prune _ _ _ _ => none
  | .seqOpen _ _ => none
  | .seqClose _ _ => none
  | .barInit _ _ _ _ => none
  | .barArr _ _ _ _ => none
  | .barWait _ _ _ _ => none
  | .spawn _ _ => none
  | .graise _ _ _ => none
  | .gidxIdx _ _ => none
  | .gidxCnt _ _ => none
  | .tdone _ _ _ => none
  | .trap _ _ => none
  | .eret _ e => some e
  | .sysc _ _ => none
  | .ckptCont _ _ => none
  | .ckptYield _ _ => none
  | .tlbi _ _ _ _ => none
  | .brk _ _ => none
  | .perfCfg _ => none
  | .perfRd _ _ _ => none
  | .perfCnt _ _ _ => none
  | .perfClr _ => none
  | .haltdStop _ => none
  | .haltdFrz _ => none
  | .crossDieTimeout _ => none
  | .lateResponse _ => none
  | .linkStall _ _ => none
  | .linkStallCleared _ _ => none
  | .linkTraining _ _ _ _ _ _ => none
  | .flitReceive _ _ => none
  | .flitNak _ _ => none
  | .portRetrain _ _ => none
  | .rocePacket _ => none
  | .launch _ => none
  | .prepare _ => none
  | .loaderShardsFetched _ => none
  | .switch _ => none
  | .abort _ => none
  | .attest _ => none
  | .setPtbase _ => none
  | .frostRead _ => none
  | .dbgSample _ => none
  | .dbgRead _ => none
  | .resume _ => none
  | .kill _ => none
  | .replayArm _ => none
  | .replayRead _ => none
  | .errlogRead _ => none
  | .dumpRead _ => none
  | .dumpClear _ => none
  | .groupStart _ => none
  | .readyListServe _ => none
  | .sectionDone _ _ _ => none
  | .taskRecordServe _ => none
  | .trellisEnable _ _ _ => none
  | .trellisDone _ _ _ => none
  | .launchCompletion _ => none
  | .elementFire _ => none
  | .conditionTokenArrival _ _ => none
  | .pruneArrival _ _ => none
  | .drainMarkerArrival _ _ => none
  | .drainReport _ _ => none
  | .retire _ _ => none
  | .memnodePruneScan _ => none
  | .guessRecord _ => none
  | .commitNotice _ _ _ => none
  | .foragerDecision _ _ => none
  | .bankAccess _ => none
  | .pageWalk _ _ _ => none
  | .verticalParityError _ _ _ _ => none
  | .controlLinkLoss _ => none
  | .engineResponse _ _ _ _ => none
  | .collGroupFill _ _ => none
  | .streamCommandBeat _ _ => none
  | .blockBegin _ => none
  | .loadResponse _ _ _ => none
  | .blockCommit _ => none
  | .deferredFault _ _ _ _ => none
  | .cutStart _ _ _ => none
  | .dormancyMarkerArrival _ _ => none
  | .cutComplete _ => none
  | .dormantResume _ => none
  | .noProgressLimit _ => none
  | .breakpointFire _ => none
  | .dbpWrite _ _ => none
  | .gthWrite _ _ _ => none
  | .maxflWrite _ _ _ => none
  | .ehcfgClr _ _ => none
  | .registerWrite _ _ => none
  | .bucketRefill _ _ => none
  | .dieClockStop _ => none
  | .dieClockRestart _ => none
  | .retireAcknowledge _ _ => none
  | .tileInstructionCompletion _ => none
  | .powerOn => none
  | .supplyOutOfRange => none
  | .thermalTrip => none
  | .powerControllerEvaluation => none
  | .roceRateRecovery => none
  | .loaderLimitExpiry => none
  | .dispatcherHeadChoice => none
  | .imageChecks => none
  | .placement => none
  | .configLoad => none
  | .graftStart => none
  | .graftResume => none
  | .preemption => none
  | .cutTimeout => none
  | .supplyDroop => none
  | .supplyInRange => none

/-- Where an opcode is legal: in C-blocks, in E-blocks (R257). -/
def Instr.blocks : Instr → Bool × Bool
  | .nop _ _ _ _ => (true, true)
  | .getr _ _ _ => (true, false)
  | .setr _ _ => (true, false)
  | .nullw _ _ => (true, false)
  | .movi _ _ _ => (true, true)
  | .movk _ _ _ => (true, true)
  | .getc _ _ _ => (true, false)
  | .setc _ _ => (true, false)
  | .bx _ _ _ => (true, false)
  | .bxr _ _ => (true, false)
  | .callb _ _ _ => (true, false)
  | .retb _ _ => (true, false)
  | .add _ _ _ => (true, true)
  | .addi _ _ _ => (true, true)
  | .sub _ _ _ => (true, true)
  | .mul _ _ _ => (true, true)
  | .mulh _ _ _ _ => (true, true)
  | .div _ _ _ _ => (true, true)
  | .rem _ _ _ _ => (true, true)
  | .adds _ _ _ _ => (true, true)
  | .subs _ _ _ _ => (true, true)
  | .min _ _ _ _ => (true, true)
  | .max _ _ _ _ => (true, true)
  | .abs _ _ _ _ => (true, true)
  | .neg _ _ _ _ => (true, true)
  | .lea _ _ _ _ => (true, true)
  | .leaBlk _ _ _ => (true, false)
  | .andB _ _ _ => (true, true)
  | .orB _ _ _ => (true, true)
  | .xorB _ _ _ => (true, true)
  | .andn _ _ _ => (true, true)
  | .notB _ _ _ => (true, true)
  | .shl _ _ _ => (true, true)
  | .shr _ _ _ => (true, true)
  | .shra _ _ _ => (true, true)
  | .rot _ _ _ => (true, true)
  | .clz _ _ _ => (true, true)
  | .popc _ _ _ => (true, true)
  | .bfx _ _ _ _ => (true, true)
  | .bfi _ _ _ => (true, true)
  | .cmp _ _ _ _ _ => (true, true)
  | .testBits _ _ _ _ => (true, true)
  | .sel _ _ _ => (true, true)
  | .stkg _ _ _ => (true, true)
  | .stks _ _ _ => (true, true)
  | .stkc _ _ _ => (true, true)
  | .fadd _ _ _ => (true, true)
  | .fsub _ _ _ => (true, true)
  | .fmul _ _ _ => (true, true)
  | .ffma _ _ _ => (true, true)
  | .fdiv _ _ _ => (true, true)
  | .fsqrt _ _ _ => (true, true)
  | .fmin _ _ _ => (true, true)
  | .fmax _ _ _ => (true, true)
  | .fabs _ _ _ => (true, true)
  | .fneg _ _ _ => (true, true)
  | .fcmp _ _ _ _ => (true, true)
  | .fclass _ _ _ => (true, true)
  | .fexp2 _ _ _ => (true, true)
  | .flog2 _ _ _ => (true, true)
  | .frcp _ _ _ => (true, true)
  | .frsq _ _ _ => (true, true)
  | .ftanh _ _ _ => (true, true)
  | .cvt _ _ _ _ => (true, true)
  | .narrow _ _ _ _ => (true, true)
  | .final _ _ _ _ => (true, true)
  | .scale _ _ _ => (true, true)
  | .mxsc _ _ _ _ => (true, true)
  | .dot4 _ _ _ _ _ => (true, true)
  | .dot8 _ _ _ _ _ => (true, true)
  | .addp _ _ _ _ _ => (true, true)
  | .shlp _ _ _ _ => (true, true)
  | .shrp _ _ _ _ _ => (true, true)
  | .bperm _ _ _ => (true, true)
  | .sdcvt _ _ _ => (false, true)
  | .sdadd _ _ _ => (false, true)
  | .sdmul _ _ _ => (false, true)
  | .sdcut _ _ _ => (false, true)
  | .sdcmp _ _ _ _ => (false, true)
  | .sdtowf _ _ _ => (false, true)
  | .rng _ _ _ _ => (true, true)
  | .inPort _ _ _ _ _ => (true, true)
  | .inCnt _ _ _ => (true, false)
  | .inSpc _ _ _ => (true, false)
  | .inAcc _ _ _ _ => (true, false)
  | .inMrk _ _ _ => (true, false)
  | .outPort _ _ _ _ => (true, true)
  | .outm _ _ _ _ => (true, true)
  | .mrk _ _ _ _ => (true, true)
  | .segl _ _ _ => (true, true)
  | .segn _ _ _ => (true, true)
  | .rsum _ _ _ _ _ => (false, true)
  | .rmax _ _ _ _ _ => (false, true)
  | .rmin _ _ _ _ _ => (false, true)
  | .strmMem _ _ _ _ => (true, false)
  | .strmTile _ _ _ _ => (true, false)
  | .strmDrain _ _ _ => (true, false)
  | .strmAcc _ _ _ _ _ => (true, false)
  | .recGet _ _ _ _ => (false, true)
  | .recSet _ _ _ _ => (false, true)
  | .recNew _ _ _ _ => (false, true)
  | .recDone _ _ _ _ => (false, true)
  | .recRej _ _ _ _ => (false, true)
  | .steer _ _ _ _ _ => (false, true)
  | .merge _ _ _ _ => (false, true)
  | .omerge _ _ _ => (false, true)
  | .recirc _ _ _ => (false, true)
  | .ctxsw _ _ _ => (true, true)
  | .fgstage _ => (true, false)
  | .fgseed _ => (true, false)
  | .fgstat _ _ _ _ => (true, false)
  | .ld _ _ _ _ => (true, false)
  | .ldi _ _ _ _ => (true, false)
  | .lda _ _ _ _ _ => (true, false)
  | .st _ _ _ _ => (true, false)
  | .stl _ _ _ _ _ => (true, false)
  | .ldimg _ _ _ _ => (true, false)
  | .stimg _ _ _ => (true, false)
  | .till _ _ => (true, false)
  | .tillg _ _ => (true, false)
  | .pres _ _ _ => (true, false)
  | .atom _ _ _ _ _ _ _ => (true, false)
  | .fatom _ _ _ _ _ => (true, false)
  | .cpyl _ _ _ => (true, false)
  | .gath _ _ _ => (true, false)
  | .scat _ _ _ => (true, false)
  | .coll _ _ => (true, false)
  | .resp _ _ _ _ => (true, false)
  | .fence _ _ _ => (true, false)
  | .xfence _ _ _ _ => (true, false)
  | .xwait _ _ => (true, false)
  | .tld _ _ _ => (true, false)
  | .tst _ _ _ => (true, false)
  | .tzero _ _ => (true, false)
  | .treshape _ _ => (true, false)
  | .tmov _ _ => (true, false)
  | .tfill _ _ => (true, false)
  | .wloadT _ => (true, false)
  | .wloadW _ => (true, false)
  | .wswap _ => (true, false)
  | .mma _ _ => (true, false)
  | .mmas _ _ => (true, false)
  | .accz _ _ => (true, false)
  | .accd _ _ => (true, false)
  | .sortcfg _ => (true, false)
  | .topk _ _ => (true, false)
  | .guess _ => (false, true)
  | .genofIn _ _ _ => (true, true)
  | .genofPrec _ _ _ => (true, true)
  | .launchp _ _ => (true, false)
  | .prune _ _ _ _ => (true, false)
  | .seqOpen _ _ => (true, false)
  | .seqClose _ _ => (true, false)
  | .barInit _ _ _ _ => (true, false)
  | .barArr _ _ _ _ => (true, false)
  | .barWait _ _ _ _ => (true, false)
  | .spawn _ _ => (true, false)
  | .graise _ _ _ => (true, false)
  | .gidxIdx _ _ => (true, false)
  | .gidxCnt _ _ => (true, false)
  | .tdone _ _ _ => (true, false)
  | .trap _ _ => (true, false)
  | .eret _ _ => (true, false)
  | .sysc _ _ => (true, false)
  | .ckptCont _ _ => (true, false)
  | .ckptYield _ _ => (true, false)
  | .tlbi _ _ _ _ => (true, false)
  | .brk _ _ => (true, false)
  | .perfCfg _ => (true, false)
  | .perfRd _ _ _ => (true, false)
  | .perfCnt _ _ _ => (true, false)
  | .perfClr _ => (true, false)
  | .haltdStop _ => (true, false)
  | .haltdFrz _ => (true, false)
  | .crossDieTimeout _ => (false, false)
  | .lateResponse _ => (false, false)
  | .linkStall _ _ => (false, false)
  | .linkStallCleared _ _ => (false, false)
  | .linkTraining _ _ _ _ _ _ => (false, false)
  | .flitReceive _ _ => (false, false)
  | .flitNak _ _ => (false, false)
  | .portRetrain _ _ => (false, false)
  | .rocePacket _ => (false, false)
  | .launch _ => (false, false)
  | .prepare _ => (false, false)
  | .loaderShardsFetched _ => (false, false)
  | .switch _ => (false, false)
  | .abort _ => (false, false)
  | .attest _ => (false, false)
  | .setPtbase _ => (false, false)
  | .frostRead _ => (false, false)
  | .dbgSample _ => (false, false)
  | .dbgRead _ => (false, false)
  | .resume _ => (false, false)
  | .kill _ => (false, false)
  | .replayArm _ => (false, false)
  | .replayRead _ => (false, false)
  | .errlogRead _ => (false, false)
  | .dumpRead _ => (false, false)
  | .dumpClear _ => (false, false)
  | .groupStart _ => (false, false)
  | .readyListServe _ => (false, false)
  | .sectionDone _ _ _ => (false, false)
  | .taskRecordServe _ => (false, false)
  | .trellisEnable _ _ _ => (false, false)
  | .trellisDone _ _ _ => (false, false)
  | .launchCompletion _ => (false, false)
  | .elementFire _ => (false, false)
  | .conditionTokenArrival _ _ => (false, false)
  | .pruneArrival _ _ => (false, false)
  | .drainMarkerArrival _ _ => (false, false)
  | .drainReport _ _ => (false, false)
  | .retire _ _ => (false, false)
  | .memnodePruneScan _ => (false, false)
  | .guessRecord _ => (false, false)
  | .commitNotice _ _ _ => (false, false)
  | .foragerDecision _ _ => (false, false)
  | .bankAccess _ => (false, false)
  | .pageWalk _ _ _ => (false, false)
  | .verticalParityError _ _ _ _ => (false, false)
  | .controlLinkLoss _ => (false, false)
  | .engineResponse _ _ _ _ => (false, false)
  | .collGroupFill _ _ => (false, false)
  | .streamCommandBeat _ _ => (false, false)
  | .blockBegin _ => (false, false)
  | .loadResponse _ _ _ => (false, false)
  | .blockCommit _ => (false, false)
  | .deferredFault _ _ _ _ => (false, false)
  | .cutStart _ _ _ => (false, false)
  | .dormancyMarkerArrival _ _ => (false, false)
  | .cutComplete _ => (false, false)
  | .dormantResume _ => (false, false)
  | .noProgressLimit _ => (false, false)
  | .breakpointFire _ => (false, false)
  | .dbpWrite _ _ => (false, false)
  | .gthWrite _ _ _ => (false, false)
  | .maxflWrite _ _ _ => (false, false)
  | .ehcfgClr _ _ => (false, false)
  | .registerWrite _ _ => (false, false)
  | .bucketRefill _ _ => (false, false)
  | .dieClockStop _ => (false, false)
  | .dieClockRestart _ => (false, false)
  | .retireAcknowledge _ _ => (false, false)
  | .tileInstructionCompletion _ => (false, false)
  | .powerOn => (false, false)
  | .supplyOutOfRange => (false, false)
  | .thermalTrip => (false, false)
  | .powerControllerEvaluation => (false, false)
  | .roceRateRecovery => (false, false)
  | .loaderLimitExpiry => (false, false)
  | .dispatcherHeadChoice => (false, false)
  | .imageChecks => (false, false)
  | .placement => (false, false)
  | .configLoad => (false, false)
  | .graftStart => (false, false)
  | .graftResume => (false, false)
  | .preemption => (false, false)
  | .cutTimeout => (false, false)
  | .supplyDroop => (false, false)
  | .supplyInRange => (false, false)

/-- The port, strand and mode bounds that R252, R259, R310 and R313 set for an instruction of an E-block. -/
def Instr.elemOk : Instr → Bool
  | .final _ _ _ m => decide (m.toNat < 6)
  | .inPort _ _ n k s => decide (n.toNat < 4 ∧ k = 0 ∧ s = 0)
  | .outPort _ n k s => decide (n.toNat < 4 ∧ k = 0 ∧ s = 0)
  | .outm _ n k s => decide (n.toNat < 4 ∧ k = 0 ∧ s = 0)
  | .mrk _ n k s => decide (n.toNat < 4 ∧ k = 0 ∧ s = 0)
  | .segl _ n _ => decide (n.toNat < 4)
  | .segn _ n q => decide (n.toNat < 4 ∧ q.toNat < 4)
  | .ctxsw _ n _ => decide (n.toNat < 4)
  | _ => true

/-- The serialising instructions (R246). -/
def Instr.serial : Instr → Bool
  | .setc _ _ => true
  | .eret _ _ => true
  | .tlbi _ _ _ _ => true
  | .ckptCont _ _ => true
  | .ckptYield _ _ => true
  | .haltdStop _ => true
  | .haltdFrz _ => true
  | _ => false

/-- The bytes of a word as the hardware stores it: little-endian (R243). -/
def wordBytes (w : Word) : List Byte :=
  [w.extractLsb' 0 8, w.extractLsb' 8 8, w.extractLsb' 16 8, w.extractLsb' 24 8]

/-- The word that four bytes hold, the first lowest (R243). -/
def wordOfBytes : List Byte → Option Word
  | [a, b, c, d] => some (d ++ c ++ b ++ a)
  | _ => none

/-- The instruction the decoder reads from the bytes of an opcode-table word; an event row has no word. -/
def decodeTableWord (nbits w : Nat) : Option Instr :=
  if nbits = 0 then none
  else match wordOfBytes (wordBytes (BitVec.ofNat 32 w)) with
    | none => none
    | some x => (decodeWord x).toOption

end Sys2Proof
end

