-- ==== Sys2Proof/Config.lean ====
section
/-! DEFINITION. What an implementation fixes and what the spec leaves open: the free values (constants without a body)
and the fused identity of the package. -/
namespace Sys2Proof.Config

/-- The place of an approximate result inside the bound R290 states for it: function number, operand (log 5). -/
opaque approx : Nat → BitVec 35 → Int

/-- A byte whose value the spec leaves undefined; the argument is a fresh counter of the state (log 6). -/
opaque freeByte : Nat → Byte

/-- A choice the spec leaves to the hardware (which pending read-ahead, which of two arrivals): fresh counter (log 6). -/
opaque freeNat : Nat → Nat

/-- SHA3-512 (R46, R207, R240): a function outside this spec (log 7). -/
opaque sha3Bits : List Byte → BitVec 512
/-- The 64 bytes of the digest. -/
def sha3 (m : List Byte) : List Byte := (List.range 64).map (fun i => (sha3Bits m).extractLsb' (8 * i) 8)

/-- ML-DSA-87 verification (R46, R240): public key, message, signature (log 7). -/
opaque mlDsaVerify : List Byte → List Byte → List Byte → Bool

/-- ML-DSA-87 signing by the device key of R46 and R49: message (log 7). -/
opaque mlDsaSignBits : List Byte → BitVec 37016
/-- The 4,627 bytes of a signature. -/
def mlDsaSign (m : List Byte) : List Byte := (List.range 4627).map (fun i => (mlDsaSignBits m).extractLsb' (8 * i) 8)

/-- The fused device identity and the firmware versions, as an attestation report carries them (R47): each of fewer than 65,536 bytes, which the spec
does not give (logs 7 and 47). -/
opaque identityLen : Fin 65536
opaque identityByte : Nat → Byte
opaque firmwareLen : Fin 65536
opaque firmwareByte : Nat → Byte
def identity : List Byte := (List.range identityLen).map identityByte
def firmware : List Byte := (List.range firmwareLen).map firmwareByte

/-- Which die-edge channel ports of a fabric die are built (R24): die, port. -/
opaque edgeBuilt : Nat → Nat → Bool

/-- The ENDRANK of a prefix that closes the remainder of a segment, by lane and generation, which R99 and R121 do not give (log 23). -/
opaque closeRank : Nat → Nat → Fin 4

/-- The Volop port to which a remote channel is pinned when its region is loaded (R31): launch, channel. -/
opaque pinnedPort : Nat → Nat → Nat

/-- The die-edge channel port by which the beats of a channel enter the fabric die of its consumer (R22, R24): launch, channel (log 85). -/
opaque edgePort : Nat → Nat → Fin 256

/-- Does a Volop port reach a node (R35)? -/
opaque reaches : Nat → Nat → Bool

/-- The two priorities for which an Ethernet port keeps flow control, and the port of a queue pair (R32, R33, log 90). -/
opaque pfcPriority : Nat → Nat → Fin 8
opaque pairPort : Nat → Fin 8

/-- The request that a payload of TYPE 3 makes, and the payloads of requests and responses that the package sends: what it carries, the byte
(R28, log 86). -/
opaque memReq : List Byte → MemReq
opaque memByte : List Byte → Nat → Byte

/-- The node whose package holds the home controller of a launch's pipeline, if that is another package, and the nodes of the other packages that
the pipeline of a launch spans (R82, log 95). -/
opaque homeNode : Nat → Option Nat
opaque pipeNodes : Nat → List Nat
/-- What a payload of VC 3 that carries no channel tokens says, and the payloads that the package sends: what it says, the byte (R82, log 95). -/
opaque pipeMsg : List Byte → PipeMsg
opaque pipeByte : PipeMsg → Nat → Byte

/-- The source that bytes 24 to 63 of a manifest entry name (R44, log 87). -/
opaque shardSource : List Byte → ShardSource

/-- The sealing keys that a firmware image lists, and the digest of the key that signs firmware, a fuse (R46). -/
opaque sealingKeysOf : List Byte → List (List Byte)
opaque fusedKeyByte : Nat → Byte
def fusedKey : List Byte := (List.range 64).map fusedKeyByte

/-- The sealed sinks that firmware marks for a channel of a sealed page set (R49): launch, page set; each is a queue pair, or a window of the
memory of a host, and the channel that alone may send to it (log 88). -/
opaque sinkCount : Nat → Nat → Nat
opaque sinkChan : Nat → Nat → Nat → Nat
opaque sinkPair : Nat → Nat → Nat → Option Nat
opaque sinkWindow : Nat → Nat → Nat → Nat × Nat × Nat

/-- The host memory that a granule of 64 KiB of the physical map stands for, where R14 maps nothing else: node and granule there (R166, log 77). -/
opaque hostGranule : Nat → Option (Nat × Nat)

/-- A byte of the memory of a host that the model holds no answer for: fresh counter, node, address (R166, log 77). -/
opaque hostByte : Nat → Nat → Nat → Byte

/-- The header of a replay log, by whether it is incomplete: its length and bytes, which the spec does not give (R221, log 98). -/
opaque logHeadLen : Nat
opaque logHeadByte : Bool → Nat → Byte
def logHead (incomplete : Bool) : List Byte := (List.range logHeadLen).map (logHeadByte incomplete)

/-- Fields of a descriptor of a dormant image that R207 does not settle (KIND, which field, number of the object: byte 2, 3, 4, 5 or 6), and what
orders the descriptors of an image: the fields of each (log 20). -/
opaque imageField : Nat → Nat → Nat → Nat
opaque imageRank : List Nat → Nat

/-- PRESENT of PMAP (R12) as the model's package is fused (log 8: on every die the six harvested pages of the example of R65, which are
(4, 0), (2, 3), (7, 3), (0, 6), (5, 7) and (8, 8)). -/
def pageMap : BitVec 81 := 0xFFEFFFBFFFFBDFFFFFEF

end Sys2Proof.Config
end

