-- ==== Sys2Proof/Machine/Flags.lean ====
section
/-! DEFINITION. The FSTAT flags (R150) and the register image (R156) that every computation passes on. -/
namespace Sys2Proof.Machine

/-- The flags an instruction asks for; they reach FSTAT when its block commits (R150, R263, R283). -/
structure Flags where
  nv : Bool := false
  ovf : Bool := false
  unf : Bool := false
  nx : Bool := false
  sat : Bool := false
  ind : Bool := false
  deriving DecidableEq, Repr

/-- No flag. -/
def Flags.none : Flags := {}

/-- Flags collect: a flag asked for by either is asked for. -/
def Flags.or (a b : Flags) : Flags :=
  { nv := a.nv || b.nv, ovf := a.ovf || b.ovf, unf := a.unf || b.unf
    nx := a.nx || b.nx, sat := a.sat || b.sat, ind := a.ind || b.ind }

/-- The flags at their FSTAT positions: IND 5, SAT 4, NX 3, UF 2, OF 1, NV 0 (R150). -/
def Flags.bits (f : Flags) : BitVec 6 :=
  BitVec.ofBool f.ind ++ BitVec.ofBool f.sat ++ BitVec.ofBool f.nx ++ BitVec.ofBool f.unf
    ++ BitVec.ofBool f.ovf ++ BitVec.ofBool f.nv

/-- A register image: 64 data bits and the sticky bit S (R156).
A lane image uses the same shape: bits 34:0 of `v` are bits 34:0 of the lane image, `s` is its bit 35. -/
structure Img where
  v : DWord := 0
  s : Bool := false
  deriving DecidableEq, Repr

/-- What a computation answers: its image and the flags it asks for. -/
structure AluRes where
  img : Img
  fl : Flags := {}
  deriving DecidableEq, Repr

/-- The operand positions of R255, in code order. -/
inductive Pos where
  | left | right | pred | third
  deriving DecidableEq, Repr

/-- The position a target field's bits 8:7 name (R255). -/
def Pos.ofCode (c : BitVec 2) : Pos :=
  if c = 0 then .left else if c = 1 then .right else if c = 2 then .pred else .third

/-- A lane value of an E-block: an image or empty, the rank beside it (R262, R308), and the format of the image:
a code of R146, 16 WF, 17 RAW (R113), 18 the header of a record or of a tagged beat (R310). -/
structure LaneV where
  val : Option Img := none
  rank : Nat := 0
  fmt : Nat := 13
  deriving DecidableEq, Repr

end Sys2Proof.Machine
end

