-- ==== Sys2Proof/Machine/Num.lean ====
section
/-! DEFINITION. The working float, the storage formats, narrowing and final rounding (R144 to R165, R285 to R295). -/
namespace Sys2Proof.Machine

/-! ### Exact dyadic numbers -/

/-- The exact value n × 2^e. -/
structure Dy where
  n : Int
  e : Int
  deriving DecidableEq, Repr

def Dy.add (a b : Dy) : Dy :=
  let e := min a.e b.e
  ⟨a.n * 2 ^ (a.e - e).toNat + b.n * 2 ^ (b.e - e).toNat, e⟩

def Dy.neg (a : Dy) : Dy := ⟨-a.n, a.e⟩

def Dy.mul (a b : Dy) : Dy := ⟨a.n * b.n, a.e + b.e⟩

/-- The sign of a − b: negative, zero or positive. -/
def Dy.cmp (a b : Dy) : Int := (a.add b.neg).n

/-- floor(n × 2^e × 2^p), the value in fixed point with p fraction bits. -/
def Dy.fixed (a : Dy) (p : Nat) : Int :=
  let k := a.e + p
  if 0 ≤ k then a.n * 2 ^ k.toNat else a.n / 2 ^ (-k).toNat

/-- One bit of a square root: keeps the largest r found so far with r² ≤ n. -/
def isqrtGo (n : Nat) : Nat → Nat → Nat
  | 0, r => r
  | k + 1, r =>
    let r' := r + 2 ^ k
    isqrtGo n k (if r' * r' ≤ n then r' else r)

/-- The integer square root. -/
def isqrt (n : Nat) : Nat := isqrtGo n (Nat.log2 n / 2 + 1) 0

/-! ### The working float -/

/-- The value of a WF image (R144); zeros keep their sign. -/
inductive Wf where
  | nan
  | inf (neg : Bool)
  | zero (neg : Bool)
  | fin (neg : Bool) (m : Nat) (e : Int)
  deriving DecidableEq, Repr

/-- The 35 data bits of a WF image: SIGN, E, F (R144). -/
def wfPack (neg : Bool) (E F : Nat) : DWord :=
  BitVec.ofNat 64 ((if neg then 2 ^ 34 else 0) + E % 1024 * 2 ^ 24 + F % 2 ^ 24)

def wfNaN : Img := ⟨wfPack false 1023 0x800000, false⟩
def wfInf (neg s : Bool) : Img := ⟨wfPack neg 1023 0, s⟩
def wfZero (neg s : Bool) : Img := ⟨wfPack neg 0 0, s⟩

/-- Reads bits 34:0 of an image as WF (R144, R283). -/
def Img.wf (a : Img) : Wf :=
  let neg := a.v.getLsbD 34
  let E : Nat := a.v.toNat / 2 ^ 24 % 1024
  let F : Nat := a.v.toNat % 2 ^ 24
  if E = 0 then .zero neg
  else if E = 1023 then (if F = 0 then .inf neg else .nan)
  else .fin neg (2 ^ 24 + F) ((E : Int) - 535)

/-- The exact value of a finite WF; infinities and NaN are met before this is asked. -/
def Wf.dy : Wf → Dy
  | .fin neg m e => ⟨if neg then -(m : Int) else m, e⟩
  | _ => ⟨0, 0⟩

def Wf.isNaN : Wf → Bool
  | .nan => true
  | _ => false

def Wf.isZero : Wf → Bool
  | .zero _ => true
  | _ => false

def Wf.isInf : Wf → Bool
  | .inf _ => true
  | _ => false

def Wf.neg : Wf → Bool
  | .nan => false
  | .inf n => n
  | .zero n => n
  | .fin n _ _ => n

/-- trunc_s of ±m × 2^e to the WF grid (R145, R151); `st` says that bits below were already lost, `os` is the OR of the
operands' S. What lies above the largest finite value is an infinity, also below 2^512 (R151, log 109). -/
def truncWf (neg : Bool) (m : Nat) (e : Int) (st os : Bool) : AluRes :=
  let L : Nat := Nat.log2 m
  let t := e + L
  if m = 0 then { img := wfZero neg (st || os) }
  else if 512 ≤ t then { img := wfInf neg true, fl := { ovf := true } }
  else if t < -510 then { img := wfZero neg true, fl := { unf := true } }
  else
    let q := if L ≤ 24 then m * 2 ^ (24 - L) else m / 2 ^ (L - 24)
    let lost := decide (24 < L ∧ q * 2 ^ (L - 24) ≠ m)
    if t = 511 ∧ q = 2 ^ 25 - 1 ∧ (st || lost) then { img := wfInf neg true, fl := { ovf := true } }
    else { img := ⟨wfPack neg (t + 511).toNat q, st || lost || os⟩ }

/-- trunc_s of an exact value to the WF grid. -/
def truncDy (x : Dy) (st os : Bool) : AluRes := truncWf (decide (x.n < 0)) x.n.natAbs x.e st os

/-- The canonical NaN without a flag (a NaN operand, R152). -/
def resNaN : AluRes := { img := wfNaN }
/-- The canonical NaN of an invalid operation, with NV (R150, R152). -/
def resInvalid : AluRes := { img := wfNaN, fl := { nv := true } }

/-- A sum narrowed once; an exact zero sum is +0 with the OR of the operands' S (R152). -/
def sumRes (x : Dy) (os : Bool) : AluRes :=
  if x.n = 0 then { img := wfZero false os } else truncDy x false os

/-- wf_add (R152). -/
def wfAdd (a b : Img) : AluRes :=
  match a.wf, b.wf with
  | .nan, _ => resNaN
  | _, .nan => resNaN
  | .inf x, .inf y => if x = y then { img := wfInf x (a.s || b.s) } else resInvalid
  | .inf x, _ => { img := wfInf x a.s }
  | _, .inf y => { img := wfInf y b.s }
  | x, y => sumRes (x.dy.add y.dy) (a.s || b.s)

/-- a with its SIGN inverted; a NaN stays the canonical NaN (R287). -/
def wfNeg (a : Img) : Img :=
  match a.wf with
  | .nan => wfNaN
  | .zero n => wfZero (!n) a.s
  | .inf n => wfInf (!n) a.s
  | .fin n _ _ => ⟨wfPack (!n) (a.v.toNat / 2 ^ 24) a.v.toNat, a.s⟩

/-- The data bits that the 7400 writes for an operand that passes on: F = 0 in a zero (R144). -/
def Img.wfBits (a : Img) : DWord :=
  match a.wf with
  | .zero n => wfPack n 0 0
  | _ => a.v &&& 0x7FFFFFFFF

/-- a with SIGN 0; a NaN stays the canonical NaN (R287). -/
def wfAbs (a : Img) : Img := if a.wf.neg then wfNeg a else if a.wf.isNaN then wfNaN else ⟨a.wfBits, a.s⟩

/-- S of an exact zero product or quotient: 0 when an operand is an exact zero (R152). -/
def zeroS (a b : Img) : Bool :=
  if (a.wf.isZero && !a.s) || (b.wf.isZero && !b.s) then false else a.s || b.s

/-- wf_mul (R152). -/
def wfMul (a b : Img) : AluRes :=
  let neg := a.wf.neg != b.wf.neg
  match a.wf, b.wf with
  | .nan, _ => resNaN
  | _, .nan => resNaN
  | .inf _, .zero _ => resInvalid
  | .zero _, .inf _ => resInvalid
  | .inf _, .inf _ => { img := wfInf neg (a.s || b.s) }
  | .inf _, _ => { img := wfInf neg a.s }
  | _, .inf _ => { img := wfInf neg b.s }
  | x, y =>
    let p := x.dy.mul y.dy
    if p.n = 0 then { img := wfZero neg (zeroS a b) } else truncDy p false (a.s || b.s)

/-- wf_fma: a × b + c with one narrowing (R152, R285). -/
def wfFma (a b c : Img) : AluRes :=
  let neg := a.wf.neg != b.wf.neg
  let ps := (a.wf.isInf && a.s) || (b.wf.isInf && b.s)
  if a.wf.isNaN || b.wf.isNaN || c.wf.isNaN then resNaN
  else if (a.wf.isInf && b.wf.isZero) || (a.wf.isZero && b.wf.isInf) then resInvalid
  else if a.wf.isInf || b.wf.isInf then
    match c.wf with
    | .inf n => if n = neg then { img := wfInf neg (ps || c.s) } else resInvalid
    | _ => { img := wfInf neg ps }
  else match c.wf with
    | .inf n => { img := wfInf n c.s }
    | w =>
      let x := (a.wf.dy.mul b.wf.dy).add w.dy
      let exactZero := (a.wf.isZero && !a.s) || (b.wf.isZero && !b.s)
      if x.n = 0 then { img := wfZero false (if exactZero && !c.s then false else a.s || b.s || c.s) }
      else truncDy x false (a.s || b.s || c.s)

/-- FDIV: wf_op of the quotient with the special results of R286. -/
def wfDiv (a b : Img) : AluRes :=
  let neg := a.wf.neg != b.wf.neg
  match a.wf, b.wf with
  | .nan, _ => resNaN
  | _, .nan => resNaN
  | .inf _, .inf _ => resInvalid
  | .zero _, .zero _ => resInvalid
  | .inf _, .zero _ => { img := wfInf neg (a.s || b.s) }
  | .inf _, _ => { img := wfInf neg a.s }
  | .zero _, .inf _ => { img := wfZero neg (if a.s then b.s else false) }
  | _, .inf _ => { img := wfZero neg b.s }
  | .zero _, _ => { img := wfZero neg (zeroS a b) }
  | _, .zero _ => { img := wfInf neg b.s }
  | .fin _ m e, .fin _ m' e' =>
    let q := m * 2 ^ 32 / m'
    truncWf neg q (e - e' - 32) (decide (q * m' ≠ m * 2 ^ 32)) (a.s || b.s)

/-- FSQRT (R285, R286). -/
def wfSqrt (a : Img) : AluRes :=
  match a.wf with
  | .nan => resNaN
  | .zero n => { img := wfZero n a.s }
  | .inf n => if n then resInvalid else { img := wfInf false a.s }
  | .fin true _ _ => resInvalid
  | .fin false m e =>
    let k : Nat := if e % 2 = 0 then 32 else 33
    let r := isqrt (m * 2 ^ k)
    truncWf false r ((e - k) / 2) (decide (r * r ≠ m * 2 ^ k)) a.s

/-- value(a) − value(b) by its sign, for operands that are no NaN; −0 equals +0 (R158). -/
def wfCmp (a b : Wf) : Int :=
  match a, b with
  | .inf x, .inf y => if x = y then 0 else if x then -1 else 1
  | .inf x, _ => if x then -1 else 1
  | _, .inf y => if y then 1 else -1
  | x, y => x.dy.cmp y.dy

/-- The order of FMIN, FMAX, RMAX and RMIN: −0 below +0 (R287, R314). -/
def wfBelow (a b : Wf) : Bool :=
  let c := wfCmp a b
  decide (c < 0) || (decide (c = 0) && a.neg && !b.neg)

def wfMin (a b : Img) : AluRes :=
  if a.wf.isNaN || b.wf.isNaN then resNaN
  else { img := ⟨(if wfBelow b.wf a.wf then b else a).wfBits, a.s || b.s⟩ }

def wfMax (a b : Img) : AluRes :=
  if a.wf.isNaN || b.wf.isNaN then resNaN
  else { img := ⟨(if wfBelow a.wf b.wf then b else a).wfBits, a.s || b.s⟩ }

/-- A predicate image: 0 or 1 with its own S; S = 1 asks for IND (R158, R280). -/
def predRes (p s : Bool) : AluRes := { img := ⟨if p then 1 else 0, s⟩, fl := { ind := s } }

/-- The relations eq, ne, lt, le, gt, ge on the sign of a difference (R280, R288). -/
def relHolds (cc : Nat) (d : Int) : Bool :=
  match cc with
  | 0 => decide (d = 0)
  | 1 => decide (d ≠ 0)
  | 2 => decide (d < 0)
  | 3 => decide (d ≤ 0)
  | 4 => decide (0 < d)
  | _ => decide (0 ≤ d)

/-- FCMP (R158, R288): code 6 is `un`. -/
def wfCompare (cc : Nat) (a b : Img) : AluRes :=
  let nan := a.wf.isNaN || b.wf.isNaN
  if cc = 6 then predRes nan false
  else if nan then predRes (cc == 1) false
  else
    let d := wfCmp a.wf b.wf
    predRes (relHolds cc d) (decide (d = 0) && (a.s || b.s))

/-- FCLASS (R289): every NaN reads with S = 0 (R144). -/
def wfClass (a : Img) : Img :=
  let bit : Nat := match a.wf with
    | .inf true => 0
    | .fin true _ _ => 1
    | .zero true => 2
    | .zero false => 3
    | .fin false _ _ => 4
    | .inf false => 5
    | .nan => 6
  ⟨BitVec.ofNat 64 (2 ^ bit + (if a.s && !a.wf.isNaN then 128 else 0)), false⟩

/-- SCALE: value(a) × 2^k; only the exponent changes (R294). -/
def wfScale (a : Img) (k : Int) (os : Bool) : AluRes :=
  match a.wf with
  | .nan => resNaN
  | .zero n => { img := wfZero n os }
  | .inf n => { img := wfInf n os }
  | .fin n m e => truncWf n m (e + k) false os

/-! ### Storage formats -/

/-- The layout of a floating storage format (R146): exponent bits, bias, fraction bits, has infinity, NaN code. -/
structure FInfo where
  ebits : Nat
  bias : Nat
  fbits : Nat
  inf : Bool
  nan : Option Nat
  /-- The code of the largest finite magnitude. -/
  top : Nat
  deriving DecidableEq, Repr

/-- The floating formats by code, 0 to 7 (R146); MX elements are read at scale 2^0. -/
def finfo (f : Nat) : FInfo :=
  match f with
  | 0 => ⟨8, 127, 7, true, some 0x7FC0, 0x7F7F⟩
  | 1 => ⟨5, 15, 10, true, some 0x7E00, 0x7BFF⟩
  | 2 => ⟨8, 127, 23, true, some 0x7FC00000, 0x7F7FFFFF⟩
  | 3 => ⟨4, 7, 3, false, some 0x7F, 0x7E⟩
  | 4 => ⟨5, 15, 2, true, some 0x7E, 0x7B⟩
  | 5 => ⟨4, 7, 3, false, some 0x7F, 0x7E⟩
  | 6 => ⟨3, 3, 2, false, none, 0x1F⟩
  | _ => ⟨2, 1, 1, false, none, 0x7⟩

/-- The width in bits of a storage format (R146). -/
def fmtWidth (f : Nat) : Nat :=
  match f with
  | 0 => 16 | 1 => 16 | 2 => 32 | 3 => 8 | 4 => 8 | 5 => 8 | 6 => 6 | 7 => 4
  | 8 => 8 | 9 => 8 | 10 => 4 | 11 => 4 | 12 => 16 | _ => 32

/-- Codes 8 to 13 are the integer formats (R146). -/
def fmtIsInt (f : Nat) : Bool := decide (8 ≤ f ∧ f ≤ 13)
/-- N8 and N4 are unsigned (R146). -/
def fmtUnsigned (f : Nat) : Bool := f == 9 || f == 11
/-- The MX formats (R146). -/
def fmtIsMx (f : Nat) : Bool := decide (5 ≤ f ∧ f ≤ 7)

def intLeast (f : Nat) : Int := if fmtUnsigned f then 0 else -(2 ^ (fmtWidth f - 1) : Int)
def intGreatest (f : Nat) : Int :=
  if fmtUnsigned f then 2 ^ fmtWidth f - 1 else 2 ^ (fmtWidth f - 1) - 1

/-- sat(y, f) of R148. -/
def satInt (y : Int) (f : Nat) : Int := min (max y (intLeast f)) (intGreatest f)

/-- The natural number of the low n bits of an integer's two's complement. -/
def bitsOf (n : Nat) (x : Int) : Nat := (x % (2 ^ n : Int)).toNat

/-- The two's complement reading of the low n bits. -/
def signedOf (n : Nat) (u : Nat) : Int :=
  let u := u % 2 ^ n
  if n ≠ 0 ∧ 2 ^ (n - 1) ≤ u then (u : Int) - 2 ^ n else u

/-- The integer a code of an integer format stands for. -/
def intOfCode (c f : Nat) : Int :=
  if fmtUnsigned f then ((c % 2 ^ fmtWidth f : Nat) : Int) else signedOf (fmtWidth f) c

/-- to_wf of R148: a code of format f, an MX element times 2^sc, with the S of its source. -/
def toWf (c f : Nat) (sc : Int) (s : Bool) : Img :=
  if fmtIsInt f then
    let x := intOfCode c f
    if x = 0 then wfZero false s else (truncDy ⟨x, 0⟩ false s).img
  else
    let I := finfo f
    let w := fmtWidth f
    let neg := c / 2 ^ (w - 1) % 2 == 1
    let E : Nat := c / 2 ^ I.fbits % 2 ^ I.ebits
    let F : Nat := c % 2 ^ I.fbits
    let mag := c % 2 ^ (w - 1)
    let ones := decide (E = 2 ^ I.ebits - 1)
    if (I.inf && ones && F != 0) || (!I.inf && I.nan == some mag) then wfNaN
    else if I.inf && ones then wfInf neg s
    else if E = 0 ∧ F = 0 then wfZero neg s
    else
      let m := if E = 0 then F else 2 ^ I.fbits + F
      let e : Int := (if E = 0 then 1 else (E : Int)) - I.bias - I.fbits + sc
      (truncWf neg m e false s).img

/-- What final_round answers: the code, the S that FINAL gives (nx of R153, and 1 where an integer target loses a NaN or an infinity, R159), the
flags. -/
structure FinalRes where
  code : Nat
  nx : Bool := false
  fl : Flags := {}
  deriving DecidableEq, Repr

/-- The code of ±(largest finite). -/
def fmtTop (f : Nat) (neg : Bool) : Nat := (finfo f).top + (if neg then 2 ^ (fmtWidth f - 1) else 0)
/-- The code of ±infinity. -/
def fmtInf (f : Nat) (neg : Bool) : Nat :=
  (2 ^ (finfo f).ebits - 1) * 2 ^ (finfo f).fbits + (if neg then 2 ^ (fmtWidth f - 1) else 0)
/-- ±NaN of a format whose only NaN is S.1111.111. -/
def fmtNaNOf (f : Nat) (neg : Bool) : Nat := 0x7F + (if neg then 2 ^ (fmtWidth f - 1) else 0)

/-- The overflow table of R154 for the floating targets. -/
def fmtOverflow (f m : Nat) (neg satf8 : Bool) : Nat :=
  let sats := decide (6 ≤ f) || (satf8 && decide (3 ≤ f ∧ f ≤ 5))
  let beyond := if (finfo f).inf then fmtInf f neg else fmtNaNOf f neg
  if sats then fmtTop f neg
  else match m with
    | 0 => beyond
    | 1 => beyond
    | 3 => if neg then fmtTop f neg else beyond
    | 4 => if neg then beyond else fmtTop f neg
    | _ => fmtTop f neg

/-- Is the code the NaN of a format without infinity (E4M3 and MXFP8)? -/
def fmtCodeNaN (f code : Nat) : Bool := (f == 3 || f == 5) && code % 128 == 127

/-- The increment of R153 by mode; `odd` is the last place of q. -/
def roundInc (m : Nat) (neg rb st odd : Bool) : Bool :=
  match m with
  | 0 => rb && (st || odd)
  | 1 => rb
  | 3 => (rb || st) && !neg
  | 4 => (rb || st) && neg
  | _ => false

/-- The bound of an integer format on one side. -/
def intBound (f : Nat) (neg : Bool) : Int := if neg then intLeast f else intGreatest f

/-- q, rb and st of |v| = m × 2^e cut at the place 2^lsb (R153). -/
def cutAt (m : Nat) (e lsb : Int) : Nat × Bool × Bool :=
  let k := e - lsb
  if 0 ≤ k then (m * 2 ^ k.toNat, false, false)
  else
    let d := (-k).toNat
    let q := m / 2 ^ d
    let rest := m % 2 ^ d
    (q, decide (2 ^ (d - 1) ≤ rest), decide (rest % 2 ^ (d - 1) ≠ 0))

/-- final_round for a finite value (zero: m = 0) into an integer format. -/
def finalInt (neg : Bool) (m : Nat) (e : Int) (s : Bool) (f mode : Nat) : FinalRes :=
  let (q, rb, st0) := cutAt m e 0
  let st := st0 || s
  let q := if roundInc mode neg rb st (q % 2 == 1) then q + 1 else q
  let q := if mode = 5 ∧ (rb || st) ∧ q % 2 = 0 then q + 1 else q
  let y : Int := if neg then -(q : Int) else q
  let r := satInt y f
  { code := bitsOf (fmtWidth f) r, nx := rb || st, fl := { nx := rb || st, sat := decide (r ≠ y) } }

/-- final_round for a finite value (zero: m = 0) into a floating format (R153). -/
def finalFloat (neg : Bool) (m : Nat) (e : Int) (s : Bool) (f mode : Nat) (satf8 : Bool) : FinalRes :=
  let I := finfo f
  let emin : Int := 1 - (I.bias : Int)
  let top : Int := if m = 0 then emin else max (e + Nat.log2 m) emin
  let lsb : Int := top - I.fbits
  let (q, rb, st0) := cutAt m e lsb
  let st := st0 || s
  let q := if roundInc mode neg rb st (q % 2 == 1) then q + 1 else q
  let q := if mode = 5 ∧ (rb || st) ∧ q % 2 = 0 then q + 1 else q
  let mag := (top - emin).toNat * 2 ^ I.fbits + q
  let sign := if neg then 2 ^ (fmtWidth f - 1) else 0
  let nx := rb || st
  if I.top < mag then
    let code := fmtOverflow f mode neg satf8
    { code := code, nx := nx && !fmtCodeNaN f code, fl := { nx := nx, ovf := true } }
  else { code := mag + sign, nx := nx, fl := { nx := nx, unf := nx && decide (mag < 2 ^ I.fbits) } }

/-- final_round of R153 and R154: mode 0 to 5, RMODE already applied. -/
def finalRound (v : Img) (f mode : Nat) (satf8 : Bool) : FinalRes :=
  match v.wf with
  | .nan =>
    if fmtIsInt f then { code := 0, nx := true, fl := { nv := true } }
    else match (finfo f).nan with
      | some c => { code := c }
      | none => { code := 0, fl := { nv := true } }
  | .inf neg =>
    if fmtIsInt f then
      { code := bitsOf (fmtWidth f) (intBound f neg), nx := true
        fl := if v.s then { nx := true, sat := true } else { nv := true, sat := true } }
    else if v.s then
      let code := fmtOverflow f mode neg satf8
      { code := code, nx := !fmtCodeNaN f code, fl := { nx := true, ovf := true } }
    else if (finfo f).inf then { code := fmtInf f neg }
    else { code := fmtOverflow f 0 neg satf8, fl := { nv := true } }
  | .zero neg => if fmtIsInt f then finalInt neg 0 0 v.s f mode else finalFloat neg 0 0 v.s f mode satf8
  | .fin neg m e => if fmtIsInt f then finalInt neg m e v.s f mode else finalFloat neg m e v.s f mode satf8

/-- NARROW: trunc_s to the grid of a storage format (R151, R292). -/
def narrowTo (v : Img) (f : Nat) : AluRes :=
  let mk (code : Nat) (s : Bool) (fl : Flags) : AluRes := ⟨⟨BitVec.ofNat 64 code, s⟩, fl⟩
  if fmtIsInt f then
    match v.wf with
    | .nan => mk 0 true { nv := true }
    | .inf neg => mk (bitsOf (fmtWidth f) (intBound f neg)) true
        (if v.s then { sat := true } else { nv := true, sat := true })
    | .zero _ => mk 0 v.s {}
    | .fin neg m e =>
      let (q, rb, st) := cutAt m e 0
      let y : Int := if neg then -(q : Int) else q
      let r := satInt y f
      mk (bitsOf (fmtWidth f) r) (v.s || rb || st || decide (r ≠ y)) { sat := decide (r ≠ y) }
  else
    let I := finfo f
    match v.wf with
    | .nan => match I.nan with
      | some c => mk c false {}
      | none => mk 0 true { nv := true }
    | .inf neg =>
      if I.inf then mk (fmtInf f neg) v.s {}
      else mk (fmtTop f neg) true (if v.s then {} else { nv := true })
    | .zero neg => mk (if neg then 2 ^ (fmtWidth f - 1) else 0) v.s {}
    | .fin neg m e =>
      let emin : Int := 1 - (I.bias : Int)
      let top : Int := max (e + Nat.log2 m) emin
      let (q, rb, st) := cutAt m e (top - I.fbits)
      let mag := (top - emin).toNat * 2 ^ I.fbits + q
      let sign := if neg then 2 ^ (fmtWidth f - 1) else 0
      if I.top < mag ∨ (mag = I.top ∧ (rb || st)) then
        mk (if I.inf then fmtInf f neg else fmtTop f neg) true {}
      else mk (mag + sign) (v.s || rb || st) {}

/-- MXSC: the E8M0 scale of a block from its largest magnitude (R295). -/
def mxScale (v : Img) (f : Nat) : Nat :=
  let emax : Int := if f = 5 then 8 else if f = 6 then 4 else 2
  let clamp (t : Int) : Nat := (min (max (t - emax + 127) 0) 254).toNat
  match v.wf with
  | .nan => 0xFF
  | .inf _ => if v.s then clamp 512 else 0xFF
  | .zero _ => 0
  | .fin _ m e => clamp (e + Nat.log2 m)

/-! ### The approximate functions (R290) -/

/-- Fraction bits of the fixed-point work below. -/
def apxBits : Nat := 80

/-- 2^f for a fraction f in [0, 1) of apxBits bits: the product of 2^(2^-j) over its one bits. -/
def exp2Go (f : Nat) : Nat → Nat → Nat → Nat
  | 0, _, acc => acc
  | k + 1, root, acc =>
    let root := isqrt (root * 2 ^ apxBits)
    let j := apxBits - 1 - (64 - (k + 1))
    exp2Go f k root (if f / 2 ^ j % 2 = 1 then acc * root / 2 ^ apxBits else acc)

/-- 2^x in fixed point for a fixed-point x, as a dyadic. -/
def exp2Fixed (x : Int) : Dy :=
  let i := x / 2 ^ apxBits
  let f := (x % 2 ^ apxBits).toNat
  ⟨(exp2Go f 64 (2 * 2 ^ apxBits) (2 ^ apxBits) : Nat), i - apxBits⟩

/-- 64 bits of log2 of x in [1, 2), by repeated squaring. -/
def log2Go : Nat → Nat → Nat → Nat
  | 0, _, acc => acc
  | k + 1, x, acc =>
    let y := x * x / 2 ^ apxBits
    if 2 * 2 ^ apxBits ≤ y then log2Go k (y / 2) (2 * acc + 1) else log2Go k y (2 * acc)

/-- log2 e with apxBits fraction bits. -/
def log2e : Nat := 1744111284760651037637903

/-- A dyadic's power of two: floor(log2 |x|). -/
def Dy.exp (x : Dy) : Int := x.e + Nat.log2 x.n.natAbs

/-- A value within 2^bound of y, at the place the free value gives, narrowed to WF (R290). -/
def nearby (fn : Nat) (a : Img) (y : Dy) (bound : Int) : AluRes :=
  let k := Config.approx fn (a.v.setWidth 35)
  let k := max (-(2 ^ 16)) (min k (2 ^ 16))
  truncDy (y.add ⟨k, bound - 16⟩) true true

/-- n ulp of y's power of two, as a power of two (n = 1 or 2). -/
def ulps (y : Dy) (lg : Int) : Int := y.exp - 24 + lg

/-- FEXP2 (R290). -/
def wfExp2 (a : Img) : AluRes :=
  match a.wf with
  | .nan => resNaN
  | .inf neg => if neg then { img := wfZero false a.s } else { img := wfInf false a.s }
  | .zero _ => { img := ⟨wfPack false 511 0, a.s⟩ }
  | .fin neg m e =>
    let x : Dy := ⟨if neg then -(m : Int) else m, e⟩
    if 0 ≤ x.cmp ⟨512, 0⟩ then { img := wfInf false true, fl := { ovf := true } }
    else if x.cmp ⟨-510, 0⟩ < 0 then { img := wfZero false true, fl := { unf := true } }
    else
      let i := x.fixed 0
      if x.cmp ⟨i, 0⟩ = 0 then truncWf false 1 i false a.s
      else
        let y := exp2Fixed (x.fixed apxBits)
        nearby 0 a y (ulps y 1)

/-- FLOG2 (R290). -/
def wfLog2 (a : Img) : AluRes :=
  match a.wf with
  | .nan => resNaN
  | .zero _ => if a.s then truncDy ⟨-510, 0⟩ false true else { img := wfInf true false }
  | .inf neg => if neg then resInvalid else { img := wfInf false a.s }
  | .fin true _ _ => resInvalid
  | .fin false m e =>
    let L : Nat := Nat.log2 m
    let t := e + L
    if m = 2 ^ L then sumRes ⟨t, 0⟩ a.s
    else
      let bits := log2Go 64 (m * 2 ^ (apxBits - L)) 0
      let y : Dy := ⟨t * 2 ^ 64 + bits, -64⟩
      if t = -1 ∨ t = 0 then nearby 1 a y (-22) else nearby 1 a y (ulps y 1)

/-- FRCP (R290). -/
def wfRcp (a : Img) : AluRes :=
  match a.wf with
  | .nan => resNaN
  | .zero n => { img := wfInf n a.s }
  | .inf n => { img := wfZero n a.s }
  | .fin n m e =>
    let L : Nat := Nat.log2 m
    if m = 2 ^ L then truncWf n 1 (-(e + L)) false a.s
    else
      let q : Int := (2 ^ (2 * apxBits) / m : Nat)
      let y : Dy := ⟨if n then -q else q, -e - 2 * apxBits⟩
      nearby 2 a y (ulps y 0)

/-- FRSQ (R290). -/
def wfRsq (a : Img) : AluRes :=
  match a.wf with
  | .nan => resNaN
  | .zero n => { img := wfInf n a.s }
  | .inf n => if n then resInvalid else { img := wfZero false a.s }
  | .fin true _ _ => resInvalid
  | .fin false m e =>
    let L : Nat := Nat.log2 m
    let t := e + L
    if m = 2 ^ L ∧ t % 2 = 0 then truncWf false 1 (-(t / 2)) false a.s
    else
      let k : Nat := if e % 2 = 0 then 0 else 1
      let r : Int := (isqrt (2 ^ (4 * apxBits) / (m * 2 ^ k)) : Nat)
      let y : Dy := ⟨r, -((e - k) / 2) - 2 * apxBits⟩
      nearby 3 a y (ulps y 0)

/-- FTANH (R290). -/
def wfTanh (a : Img) : AluRes :=
  let one (n s : Bool) : AluRes := { img := ⟨wfPack n 511 0, s⟩ }
  let edge (n : Bool) : AluRes := { img := ⟨wfPack n 510 0xFFFFFF, true⟩ }
  match a.wf with
  | .nan => resNaN
  | .zero n => { img := wfZero n a.s }
  | .inf n => if a.s then edge n else one n false
  | .fin n m e =>
    let x : Dy := ⟨m, e⟩
    if 0 ≤ x.cmp ⟨18, 0⟩ then edge n
    else
      let z := exp2Fixed (2 * (x.fixed apxBits) * log2e / 2 ^ apxBits)
      let E := (z.fixed apxBits).toNat
      let q : Int := ((E - 2 ^ apxBits) * 2 ^ apxBits / (E + 2 ^ apxBits) : Nat)
      let y : Dy := ⟨if n then -q else q, -(apxBits : Int)⟩
      if x.cmp ⟨1, 0⟩ < 0 then nearby 4 a y (-23) else nearby 4 a y (ulps y 1)

end Sys2Proof.Machine
end

