-- ==== Sys2Proof/Machine/Alu.lean ====
section
/-! DEFINITION. The pure computations of the integer, working-float and packed instructions (R261 to R299, R307).
Each takes the operation width n (64 in a C-block, 32 in an E-block lane, R261) and the images at left, right and third. -/
namespace Sys2Proof.Machine

/-- unsigned(a) at width n (R261). -/
def uval (n : Nat) (a : Img) : Nat := a.v.toNat % 2 ^ n
/-- signed(a) at width n (R261). -/
def sval (n : Nat) (a : Img) : Int := signedOf n a.v.toNat
/-- signed or unsigned, by the form's .n bit (R261). -/
def nval (u : Bool) (n : Nat) (a : Img) : Int := if u then (uval n a : Int) else sval n a
/-- wrap(x) as an image with the given S (R261). -/
def wrapImg (n : Nat) (x : Int) (s : Bool) : Img := ⟨BitVec.ofNat 64 (bitsOf n x), s⟩
/-- A wrapping result without a flag. -/
def wrapRes (n : Nat) (x : Int) (s : Bool) : AluRes := { img := wrapImg n x s }

/-! ### Registers and constants -/
/-- movi: wrap(v), S = 0 (R265). -/
def aluMovi (n : Nat) (i : BitVec 13) : AluRes := wrapRes n i.toInt false
/-- movk: wrap(a × 2^13 + v) (R265). -/
def aluMovk (n : Nat) (i : BitVec 13) (a : Img) : AluRes := wrapRes n ((uval n a : Int) * 2 ^ 13 + i.toNat) a.s
/-- addi: wrap(a + v) (R265). -/
def aluAddi (n : Nat) (i : BitVec 13) (a : Img) : AluRes := wrapRes n ((uval n a : Int) + i.toInt) a.s

/-! ### Integer arithmetic -/
def aluAdd (n : Nat) (a b : Img) : AluRes := wrapRes n ((uval n a : Int) + uval n b) (a.s || b.s)
def aluSub (n : Nat) (a b : Img) : AluRes := wrapRes n ((uval n a : Int) - uval n b) (a.s || b.s)
def aluMul (n : Nat) (a b : Img) : AluRes := wrapRes n ((uval n a : Int) * uval n b) (a.s || b.s)
/-- Bits 2n − 1:n of the exact product (R272). -/
def aluMulh (u : Bool) (n : Nat) (a b : Img) : AluRes := wrapRes n (nval u n a * nval u n b / 2 ^ n) (a.s || b.s)

/-- Quotient and remainder of R273, before wrapping. -/
def divRem (u : Bool) (n : Nat) (x y : Int) : Int × Int :=
  if y = 0 then (2 ^ n - 1, x)
  else if !u && decide (x = -(2 ^ (n - 1) : Int) ∧ y = -1) then (x, 0)
  else (x.tdiv y, x - x.tdiv y * y)

def aluDiv (u : Bool) (n : Nat) (a b : Img) : AluRes :=
  wrapRes n (divRem u n (nval u n a) (nval u n b)).1 (a.s || b.s)
def aluRem (u : Bool) (n : Nat) (a b : Img) : AluRes :=
  wrapRes n (divRem u n (nval u n a) (nval u n b)).2 (a.s || b.s)

/-- The nearest value of the n-bit range, signed or unsigned (R274). -/
def clampTo (u : Bool) (n : Nat) (t : Int) : Int :=
  if u then min (max t 0) (2 ^ n - 1) else min (max t (-(2 ^ (n - 1) : Int))) (2 ^ (n - 1) - 1)

/-- A clamping result: S and SAT when the value did not fit (R274). -/
def clampRes (u : Bool) (n : Nat) (t : Int) (s : Bool) : AluRes :=
  let r := clampTo u n t
  { img := wrapImg n r (s || decide (r ≠ t)), fl := { sat := decide (r ≠ t) } }

def aluAdds (u : Bool) (n : Nat) (a b : Img) : AluRes := clampRes u n (nval u n a + nval u n b) (a.s || b.s)
def aluSubs (u : Bool) (n : Nat) (a b : Img) : AluRes := clampRes u n (nval u n a - nval u n b) (a.s || b.s)
def aluMin (u : Bool) (n : Nat) (a b : Img) : AluRes := wrapRes n (min (nval u n a) (nval u n b)) (a.s || b.s)
def aluMax (u : Bool) (n : Nat) (a b : Img) : AluRes := wrapRes n (max (nval u n a) (nval u n b)) (a.s || b.s)
def aluAbs (sat : Bool) (n : Nat) (a : Img) : AluRes :=
  let t : Int := (sval n a).natAbs
  if sat then clampRes false n t a.s else wrapRes n t a.s
def aluNeg (sat : Bool) (n : Nat) (a : Img) : AluRes :=
  if sat then clampRes false n (-sval n a) a.s else wrapRes n (-sval n a) a.s
/-- lea.x1 to lea.x8: wrap(a + b × 2^X) (R275). -/
def aluLea (k : BitVec 2) (n : Nat) (a b : Img) : AluRes :=
  wrapRes n ((uval n a : Int) + uval n b * 2 ^ k.toNat) (a.s || b.s)
/-- lea.blk: the header address of the block + 16 × signed(a) (R275). -/
def aluLeaBlk (hdr : Nat) (a : Img) : AluRes := wrapRes 64 (hdr + 16 * sval 64 a) a.s

/-! ### Logic, shifts and bit fields -/
def aluAnd (n : Nat) (a b : Img) : AluRes := wrapRes n (a.v &&& b.v).toNat (a.s || b.s)
def aluOr (n : Nat) (a b : Img) : AluRes := wrapRes n (a.v ||| b.v).toNat (a.s || b.s)
def aluXor (n : Nat) (a b : Img) : AluRes := wrapRes n (a.v ^^^ b.v).toNat (a.s || b.s)
def aluAndn (n : Nat) (a b : Img) : AluRes := wrapRes n (a.v &&& ~~~b.v).toNat (a.s || b.s)
def aluNot (n : Nat) (a : Img) : AluRes := wrapRes n (~~~a.v).toNat a.s

/-- The value of a shift at width n by a whole amount k (R160, R277). -/
def shl (n u k : Nat) : Nat := if n ≤ k then 0 else u * 2 ^ k % 2 ^ n
def shr (n u k : Nat) : Nat := if n ≤ k then 0 else u % 2 ^ n / 2 ^ k
def shra (n u k : Nat) : Int := if n ≤ k then (if signedOf n u < 0 then -1 else 0) else signedOf n u / 2 ^ k
def rotl (n u k : Nat) : Nat := u * 2 ^ (k % n) % 2 ^ n + u % 2 ^ n / 2 ^ (n - k % n)

def aluShl (n : Nat) (a b : Img) : AluRes := wrapRes n (shl n (uval n a) (uval n b)) (a.s || b.s)
def aluShr (n : Nat) (a b : Img) : AluRes := wrapRes n (shr n (uval n a) (uval n b)) (a.s || b.s)
def aluShra (n : Nat) (a b : Img) : AluRes := wrapRes n (shra n (uval n a) (uval n b)) (a.s || b.s)
def aluRot (n : Nat) (a b : Img) : AluRes := wrapRes n (rotl n (uval n a) (uval n b)) (a.s || b.s)

/-- The number of one bits of the low n bits. -/
def popc (n u : Nat) : Nat := ((List.range n).filter (fun i => u / 2 ^ i % 2 == 1)).length

def aluClz (n : Nat) (a : Img) : AluRes :=
  let u := uval n a
  wrapRes n (if u = 0 then (n : Int) else (n - 1 - Nat.log2 u : Nat)) a.s
def aluPopc (n : Nat) (a : Img) : AluRes := wrapRes n (popc n (uval n a)) a.s

/-- pos and len of a BFX or BFI control value (R279). -/
def fieldPos (c : Img) : Nat := c.v.toNat % 256
def fieldLen (c : Img) : Nat := c.v.toNat / 256 % 256

def aluBfx (u : Bool) (n : Nat) (a b : Img) : AluRes :=
  let pos := fieldPos b
  let len := fieldLen b
  let f := uval n a / 2 ^ pos % 2 ^ len
  let r : Int := if len = 0 then 0
    else if !u && decide (pos + len ≤ n ∧ len < n) then signedOf len f else f
  wrapRes n r (a.s || b.s)

def aluBfi (n : Nat) (a b c : Img) : AluRes :=
  let pos := fieldPos c
  let len := min (fieldLen c) (n - pos)
  let u := uval n a
  let f := uval n b % 2 ^ len
  let r := if n ≤ pos then u else u - (u / 2 ^ pos % 2 ^ len) * 2 ^ pos + f * 2 ^ pos
  wrapRes n r (a.s || b.s || c.s)

/-! ### Compares, selection and the sticky bit -/
def aluCmp (cc : BitVec 3) (u : Bool) (n : Nat) (a b : Img) : AluRes :=
  let d := nval u n a - nval u n b
  predRes (relHolds cc.toNat d) (decide (d = 0) && (a.s || b.s))
def aluTest (z : Bool) (n : Nat) (a b : Img) : AluRes :=
  let r := (a.v &&& b.v).toNat % 2 ^ n
  predRes (decide (r ≠ 0) != z) (a.s || b.s)
/-- SEL (R281); the chosen operand keeps its whole image of width n, the WF bits of a lane among them. -/
def aluSel (a b c : Img) : AluRes :=
  let ch := if c.v.getLsbD 0 then a else b
  { img := ⟨ch.v, ch.s || c.s⟩ }
def aluStkg (n : Nat) (a : Img) : AluRes := wrapRes n (if a.s then 1 else 0) false
def aluStks (a : Img) : AluRes := { img := ⟨a.v, true⟩ }
def aluStkc (a : Img) : AluRes := { img := ⟨a.v, false⟩ }

/-! ### Working float -/
def aluFsub (a b : Img) : AluRes := wfAdd a (wfNeg b)
def aluFcmp (cc : BitVec 3) (a b : Img) : AluRes := wfCompare cc.toNat a b
def aluCvt (f : BitVec 4) (a : Img) : AluRes := { img := toWf a.v.toNat f.toNat 0 a.s }
def aluFinal (f : BitVec 4) (mode : Nat) (satf8 : Bool) (a : Img) : AluRes :=
  let r := finalRound a f.toNat mode satf8
  { img := ⟨BitVec.ofNat 64 r.code, r.nx⟩, fl := r.fl }
/-- scale (R294): the amount is taken whole, at the operation width. -/
def aluScale (n : Nat) (a b : Img) : AluRes := wfScale a (sval n b) (a.s || b.s)
def aluMxsc (f : BitVec 4) (a : Img) : AluRes := { img := ⟨BitVec.ofNat 64 (mxScale a f.toNat), false⟩ }

/-! ### Packed integer -/
/-- Sub-element j of w bits. -/
def sub (w j u : Nat) : Nat := u / 2 ^ (w * j) % 2 ^ w
/-- Packs sub-elements of w bits, the first lowest. -/
def pack (w : Nat) : List Nat → Nat
  | [] => 0
  | x :: xs => x % 2 ^ w + 2 ^ w * pack w xs

/-- DOT4 and DOT8 (R161, R296): w is the sub-element width, k their number. -/
def aluDot (w k : Nat) (wrap : Bool) (g : BitVec 2) (n : Nat) (a b c : Img) : AluRes :=
  let ea (j : Nat) : Int := if g = 1 ∨ g = 3 then (sub w j a.v.toNat : Int) else signedOf w (sub w j a.v.toNat)
  let eb (j : Nat) : Int := if g = 2 ∨ g = 3 then (sub w j b.v.toNat : Int) else signedOf w (sub w j b.v.toNat)
  let t := (List.range k).foldl (fun t j => t + ea j * eb j) (signedOf 32 c.v.toNat)
  let r := if wrap then signedOf 32 (bitsOf 32 t) else satInt t 13
  let hit := !wrap && decide (r ≠ t)
  { img := wrapImg n r (a.s || b.s || c.s || hit), fl := { sat := hit } }

/-- The width a packed selector names: e8, e16, e32 (R297). -/
def packWidth (w : BitVec 2) : Nat := 8 * 2 ^ w.toNat

/-- ADDP (R297): mode 0 wraps, 1 clamps signed, 2 clamps unsigned. -/
def aluAddp (m w : BitVec 2) (n : Nat) (a b : Img) : AluRes :=
  let k := packWidth w
  let one (j : Nat) : Int × Bool :=
    let x := sub k j (uval n a)
    let y := sub k j (uval n b)
    if m = 0 then ((x : Int) + y, false)
    else
      let t : Int := if m = 1 then signedOf k x + signedOf k y else (x : Int) + y
      let r := clampTo (m == 2) k t
      (r, decide (r ≠ t))
  let rs := (List.range (n / k)).map one
  let hit := rs.any (fun r => r.2)
  { img := ⟨BitVec.ofNat 64 (pack k (rs.map (fun r => bitsOf k r.1))), a.s || b.s || hit⟩, fl := { sat := hit } }

/-- SHLP, SHRP (R298): kind 0 left, 1 logical right, 2 arithmetic right. -/
def aluShp (kind : Nat) (w : BitVec 2) (n : Nat) (a b : Img) : AluRes :=
  let k := packWidth w
  let one (j : Nat) : Nat :=
    let x := sub k j (uval n a)
    let y := sub k j (uval n b)
    match kind with
    | 0 => shl k x y
    | 1 => shr k x y
    | _ => bitsOf k (shra k x y)
  { img := ⟨BitVec.ofNat 64 (pack k ((List.range (n / k)).map one)), a.s || b.s⟩ }

/-- BPERM (R299). -/
def aluBperm (n : Nat) (a b c : Img) : AluRes :=
  let h := n / 8
  let sel (i : Nat) : Nat := sub 4 i c.v.toNat
  let fromA (i : Nat) : Bool := decide (sel i < h)
  let fromB (i : Nat) : Bool := decide (h ≤ sel i ∧ sel i < 2 * h)
  let byte (i : Nat) : Nat :=
    if fromA i then sub 8 (sel i) a.v.toNat else if fromB i then sub 8 (sel i - h) b.v.toNat else 0
  let is := List.range h
  { img := ⟨BitVec.ofNat 64 (pack 8 (is.map byte)), c.s || (a.s && is.any fromA) || (b.s && is.any fromB)⟩ }

/-! ### Random numbers -/
/-- A left rotation of a 32-bit word. -/
def rotl32 (x : Word) (k : Nat) : Word := x.rotateLeft k

/-- The six rounds of R307. -/
def rngGo : Nat → Nat → Word → Word → Word → Word × Word × Word
  | 0, _, x, y, z => (x, y, z)
  | k + 1, i, x, y, z =>
    let x := rotl32 (x + y) 7 ^^^ z
    let y := rotl32 (y + z) 13 ^^^ x
    let z := (z + x) ^^^ (0x9e3779b9#32 * BitVec.ofNat 32 i)
    rngGo k (i + 1) x y z

/-- The 32-bit draw of R307 for seed, position and lane × 65536 + index. -/
def rngDraw (seed pos key : Word) : Word :=
  let (x, y, z) := rngGo 6 1 seed pos key
  x ^^^ y ^^^ z

def aluRng (wf : Bool) (a b c : Img) : AluRes :=
  let lane := c.v.toNat % 512
  let idx := c.v.toNat / 2 ^ 16 % 2 ^ 16
  let u := rngDraw (a.v.setWidth 32) (b.v.setWidth 32) (BitVec.ofNat 32 (lane * 65536 + idx))
  let s := a.s || b.s || c.s
  if wf then
    let k := u.toNat / 256
    { img := if k = 0 then wfZero false s else (truncWf false k (-24) false s).img }
  else { img := ⟨u.setWidth 64, s⟩ }

/-- precedes(a, b) on 16-bit generations (R83): (b − a) mod 2^16 lies from 1 to 2^15 − 1. -/
def precedes (a b : Nat) : Bool :=
  let d := (b + 2 ^ 16 - a % 2 ^ 16) % 2 ^ 16
  decide (0 < d ∧ d < 2 ^ 15)

end Sys2Proof.Machine
end

