-- ==== Sys2Proof/Machine/CoreState.lean ====
section
/-! DEFINITION. The state of one page core: registers, blocks in flight, tiles, ports, queues (R168 to R171, R197 to R206, R246 to R271,
R320 to R323, R344, R351, R352). -/
namespace Sys2Proof.Machine

/-- One strand of a beat (R108): V, MRK and the 36 bits EXT:PAY (bit 35 is S for a valid lane image). -/
structure Strand where
  v : Bool := false
  mrk : BitVec 2 := 0
  img : BitVec 36 := 0
  deriving DecidableEq, Repr

/-- A beat: sixteen strands (R107). -/
abbrev Beat := List Strand

/-- The identity of a segment, from its length prefix (R115). -/
structure SegId where
  lane : Nat := 0
  gen : Nat := 0
  nolane : Bool := true
  endrank : Nat := 0
  sdexp : Int := 0
  sdcnt : Nat := 0
  length : Nat := 0
  deriving DecidableEq, Repr

/-- A translated run of bytes that does not cross a 64 KiB granule: virtual and physical start and the page's attributes
(R172, R173): 0 MU, 1 WO, 2 WO with G. -/
structure Xlat where
  va : Nat
  pa : Nat
  attr : Nat
  lane : Nat
  deriving DecidableEq, Repr

/-- The bytes one access covers: its translated runs, in address order, with the length of each. -/
abbrev Span := List (Xlat × Nat)

/-- An atomic operation as ATOM and FATOM perform it at the bank port (R342, R343). -/
structure AtomOp where
  /-- 0 add, 1 min, 2 max, 3 and, 4 or, 5 xchg, 6 cas, 7 FATOM.add. -/
  op : Nat
  /-- Width in bytes, 4 or 8. -/
  width : Nat
  x : Img
  y : Img
  /-- Rounding mode of FATOM. -/
  mode : Nat := 0
  deriving DecidableEq, Repr

/-- A tile instruction, as it stands in tile issue order with its operands (R358 to R370). -/
inductive TileOp where
  | tld (k stride : Nat) (span : List Span)
  | tst (k stride : Nat) (span : List Span)
  | zero (k : Nat)
  | reshape (k : Nat) (shape : BitVec 21)
  | mov (k j : Nat) (transpose : Bool)
  | fill (k code : Nat)
  | wloadT (ctl : DWord)
  | wloadW (ctl : DWord) (span : List Span)
  | wswap
  | mma (k : Nat) (ctl : DWord)
  | mmas (k : Nat) (ctl : DWord)
  | accz (mask : BitVec 4)
  | accd (k : Nat) (ctl : DWord) (mode : Nat) (satf8 : Bool)
  | topk (k : Nat) (ctl : DWord)
  | setTsh (k : Nat) (v : DWord)
  /-- STRM.TILE: the tile operation completes when its stream command has moved all its beats; `fill`: it fills the tile
  (R321). -/
  | stream (k : Nat) (fill : Bool)
  deriving DecidableEq, Repr

/-- A tile instruction performed at a commit and not completed: its place in issue order, its LSID, the
generation of its block, its operation. -/
structure TileItem where
  seq : Nat
  lsid : Nat
  gen : Nat := 0
  op : TileOp
  deriving DecidableEq, Repr

/-- An unfinished stream command (R320, R321). -/
structure StreamCmd where
  seq : Nat
  /-- true: into a source port (`ld`); false: out of a sink port (`st`). -/
  ld : Bool
  port : Nat
  /-- The tile of STRM.TILE; none for STRM.MEM. -/
  tile : Option Nat
  /-- The tile's shape in tile issue order. -/
  shape : DWord := 0
  span : Span := []
  fmt : Nat := 0
  mode : Nat := 0
  satf8 : Bool := false
  beats : Nat
  next : Nat := 0
  lsid : Nat := 0
  gen : Nat := 0
  /-- Bytes of a word of a WO page that is not whole yet (R178, R320). -/
  buf : List (Option Byte) := []
  /-- Of a link of an MX format: for each strand the place in its block of 33 elements, and the block's scale (R147). -/
  mx : List (Nat × Nat) := List.replicate 16 (0, 127)
  deriving DecidableEq, Repr

/-- What an instruction that fired asks of its block's commit (R197, R333). -/
inductive Act where
  | setr (k : Nat) (x : Img)
  | nullr (k : Nat)
  | exit (target : Nat)
  | call (target : Nat)
  | ret (target : Nat)
  | eret
  | setc (n : Nat) (v : DWord)
  /-- One strand of the beat being built for a source port; `send` completes the beat (R312). -/
  | stage (port strand : Nat) (st : Option Strand) (send : Bool)
  /-- A whole beat for a source port: a length prefix or a condition token (R313, R318). -/
  | push (port : Nat) (b : Beat)
  | pop (port : Nat)
  | acc (port : Nat) (rst : Bool) (op k : Nat)
  | fgstage (k est : Nat)
  | fgseed (seed : Nat)
  | sortcfg (ctl : DWord)
  | perfCfg (ctl : DWord)
  | perfClr (plot : Nat)
  | haltd (freeze : Bool)
  | ctrap (code : Nat) (val : DWord)
  /-- A read whose data has been asked for or has arrived; nothing remains for commit. -/
  | read (acquire : Bool)
  /-- A read held to the first phase of commit (R334). -/
  | heldRead (kind : Nat) (va : Nat) (span : Span) (acquire : Bool)
  | store (span : Span) (bytes : List Byte) (release : Option Nat) (gen : Nat)
  | till (lines : Span) (g : Bool)
  | atom (va : Nat) (span : Span) (a : AtomOp) (order scope : Nat) (ret : Bool)
  /-- A request at an engine: 0 CPYL, 1 GATH, 2 SCAT, 3 COLL. -/
  | engine (e op va count scope : Nat)
  | resp (e : Nat)
  | fence (scope : Nat)
  | xfence (scope serial : Nat)
  | xwait (tok : Nat)
  | barInit (b scope count : Nat)
  | barArr (b scope : Nat)
  | barWait (b scope : Nat)
  | spawn (node tiles : Nat) (arg : DWord)
  | tdone (leaf n : Nat)
  | graise (k : Nat)
  | launchp (q t : Nat)
  | prune (q t : Nat) (relaunch forced : Bool)
  | seqOpen (a : Nat) (b : DWord)
  | seqClose
  | tile (op : TileOp)
  | stream (c : StreamCmd)
  | drain (port : Option (Bool × Nat)) (scope : Nat)
  | tlbi (k scope va : Nat)
  | ckpt (yield : Bool) (len : Nat) (span : Option Span)
  deriving DecidableEq, Repr

/-- An act with the slot it comes from and its LSID, 0 for an instruction that is no effect. -/
structure Done where
  slot : Nat
  lsid : Nat
  act : Act
  deriving DecidableEq, Repr

/-- A fault recorded against a block, taken when every older block has committed (R197, R250, R258). -/
structure BFault where
  code : Nat
  val : DWord
  lsid : Nat := 0
  deriving DecidableEq, Repr

/-- An operand that has arrived at a slot's position (R247, R255). -/
structure Opnd where
  slot : Nat
  pos : Pos
  img : Img
  deriving DecidableEq, Repr

/-- A C-block in flight (R244, R246 to R250, R334). -/
structure Block where
  /-- Names the block to the data still on its way to it. -/
  uid : Nat := 0
  addr : Nat := 0
  words : List Word := []
  nexit : Nat := 1
  nstore : Nat := 0
  wmask : BitVec 32 := 0
  ser : Bool := false
  ops : List Opnd := []
  fired : List Nat := []
  nulled : List Nat := []
  done : List Done := []
  flags : Flags := {}
  fault : Option BFault := none
  /-- Values as the block began (R149, R327, R356). -/
  rmode : BitVec 4 := 0
  gidx : DWord := 0
  gcount : DWord := 0
  seqReg : DWord := 0
  genReg : DWord := 0
  /-- 0 before commit, 1 once its effects are being performed, 2 in the second phase of R334. -/
  phase : Nat := 0
  /-- Effects with LSID at or below this are performed. -/
  performed : Nat := 0
  deriving DecidableEq, Repr

/-- A posted access: performed at its commit from the page core's view, not yet decided at the bank (R190 to R196). -/
inductive PostKind where
  | store (span : Span) (bytes : List Byte) (gen : Nat)
  | till (lines : Span) (g : Bool)
  | atom (span : Span) (a : AtomOp)
  deriving DecidableEq, Repr

structure Posted where
  seq : Nat
  far : Bool
  lsid : Nat
  va : Nat
  kind : PostKind
  /-- Its words stand held at the bank (R103); it is performed when they have landed. -/
  atBank : Bool := false
  /-- A release: later pushes wait for it (R380). -/
  rel : Bool := false
  deriving DecidableEq, Repr

/-- Data of a read on its way to the load's targets (LOAD_RESPONSE). -/
structure Response where
  uid : Nat
  slot : Nat
  /-- How the bytes become a register image (R335, R338, R340). -/
  kind : Nat
  bytes : List Byte
  /-- The address that was read, the die that answers, and the place in the order of arrival (R20). -/
  va : Nat := 0
  die : Nat := 16
  stamp : Nat := 0
  deriving DecidableEq, Repr

/-- An incomplete fence of XFENCE (R351): it covers the accesses with a smaller place in issue order, and the reads of its own block that
their bank had not answered when it began (R196). -/
structure Fence where
  serial : Nat
  scope : Nat
  upto : Nat
  reads : List (Nat × Nat) := []
  deriving DecidableEq, Repr

/-- An accumulator a0 to a3 (R168, R323): one WF value a strand, what it folds, the sink port that feeds it. -/
structure Accum where
  vals : List Img := List.replicate 16 {}
  /-- Strands that have folded nothing since the last reset. -/
  fresh : List Bool := List.replicate 16 true
  op : Nat := 0
  port : Option Nat := none
  /-- For each strand, the place in a block of an MX link that feeds it, and the block's scale (R147). -/
  mx : List (Nat × Nat) := List.replicate 16 (0, 127)
  deriving DecidableEq, Repr

/-- A deferred fault latched by the page core (R199). -/
structure DFault where
  code : Nat
  va : Nat
  lsid : Nat
  more : Bool := false
  deriving DecidableEq, Repr

/-- A response element of an engine (R344). -/
structure EngResp where
  status : Nat
  index : Nat
  scope : Nat
  deriving DecidableEq, Repr

/-- The state of a page core. -/
structure PageCore where
  g : Vector Img 32
  /-- The address of the next block; none: no block runs and none is chosen. -/
  nextAddr : Option Nat
  rmode : BitVec 4
  fstat : BitVec 6
  tsh : Vector DWord 16
  seqReg : DWord
  genReg : DWord
  posReg : DWord
  lseed : DWord
  ckpta : DWord
  tvec : DWord
  tcause : DWord
  tval : DWord
  epc : DWord
  sstat : DWord
  blocks : List Block
  uid : Nat
  deferred : Option DFault
  heldTrap : Option (Nat × DWord)
  retPred : List Nat
  noProgress : Nat
  /-- The tile bytes that are not zero, by offset, rising. -/
  tiles : Vector (List (Nat × Byte)) 16
  src : Vector (List Beat) 32
  sink : Vector (List Beat) 32
  /-- The segment of the last length prefix popped at a sink port (R313). -/
  sinkSeg : Vector (Option SegId) 32
  /-- The context whose link a source port feeds and a sink port is fed from (R125, R318). -/
  srcCtx : Vector Nat 32
  sinkCtx : Vector Nat 32
  accs : Vector Accum 4
  streams : List StreamCmd
  /-- Data of reads on its way to loads of blocks in flight. -/
  responses : List Response
  engResp : Vector (List EngResp) 13
  engOut : Vector Nat 13
  serial : Nat
  fences : List Fence
  /-- XWAITs in force: token, place in issue order (R351). -/
  holds : List (Nat × Nat)
  /-- PHASE at the last arrival, none: not arrived since BAR.INIT (R352). -/
  barSeen : Vector (Option Nat) 16
  posted : List Posted
  tileQ : List TileItem
  /-- The next place in issue order. -/
  opSeq : Nat
  deriving DecidableEq, Repr

/-- A page core as its launch starts it; TVEC and g31 are set by the loader (R197, R386). -/
def PageCore.reset : PageCore :=
  { g := Vector.replicate 32 {}, nextAddr := none, rmode := 0, fstat := 0, tsh := Vector.replicate 16 0
    seqReg := 0x80000000, genReg := 0, posReg := 0, lseed := 0, ckpta := 0
    tvec := 0, tcause := 0, tval := 0, epc := 0, sstat := 0
    blocks := [], uid := 0, deferred := none, heldTrap := none, retPred := [], noProgress := 0
    tiles := Vector.replicate 16 [], src := Vector.replicate 32 [], sink := Vector.replicate 32 []
    sinkSeg := Vector.replicate 32 none, srcCtx := Vector.replicate 32 0, sinkCtx := Vector.replicate 32 0, accs := Vector.replicate 4 {}
    streams := [], responses := [], engResp := Vector.replicate 13 [], engOut := Vector.replicate 13 0
    serial := 0, fences := [], holds := [], barSeen := Vector.replicate 16 none, posted := [], tileQ := [], opSeq := 0 }

end Sys2Proof.Machine
end

