-- ==== Sys2Proof/Machine/FabricState.lean ====
section
/-! DEFINITION. The state of the fabric: channels, plots, elements, trellis, foragers, arrays, memory nodes and banks
(R72 to R74, R79, R99 to R143, R177 to R188, R201 to R217, R234, R253). -/
namespace Sys2Proof.Machine

/-- A prune range with its serial, as a filter's table holds it (R99). -/
structure PruneEnt where
  lane : Nat
  lo : Nat
  hi : Nat
  serial : Nat
  deriving DecidableEq, Repr

/-- An end of a link or channel (R236, R390, R398, R402): a plot's element port, a page-core port, a memory node,
a forager port, or the far side of a remote channel. -/
inductive Endp where
  | plot (x y port : Nat)
  | core (px py port : Nat)
  | mem (node : Nat)
  | forager (px py port : Nat)
  | remote
  deriving DecidableEq, Repr

/-- A beat waiting in a channel, with the entry input it arrived on (R134) and its context bank (R126). -/
structure QBeat where
  beat : Beat
  entry : Nat := 0
  ctx : Nat := 0
  /-- This beat closes its segment (R116). -/
  closes : Bool := false
  /-- Place in the order of arrival (R123). -/
  stamp : Nat := 0
  deriving DecidableEq, Repr

/-- A configured link or channel of a launch (R113, R236) with its stream-sequencer state (R116). -/
structure Chan where
  lid : Nat
  num : Nat
  /-- 0 link, 1 channel node, 2 recirculation channel, 3 remote channel. -/
  kind : Nat
  ctx : Nat
  fmt : Nat
  scale : Int
  record : Bool
  banked : Bool
  slots : Nat
  srcPset : Nat
  /-- Sources; a return ring lists one for each stage (R402). -/
  srcs : List Endp
  dstPset : Nat
  dst : Endp
  egress : Bool := false
  exitFirst : Bool := false
  scratch : Bool := false
  rnode : Nat := 0
  rchan : Nat := 0
  /-- The Volop port a remote channel is pinned to, the beats it has sent that are not credited yet, and: its cross-die time-out has
  expired (R31). -/
  vport : Nat := 0
  owed : Nat := 0
  expired : Bool := false
  noProgress : Nat := 0
  beats : List QBeat := []
  ordinal : Nat := 0
  /-- A length prefix has been carried since load (R116). -/
  hadPrefix : Bool := false
  /-- The open segment, none between segments. -/
  seg : Option SegId := none
  /-- The current segment: of the last prefix taken by the consumer (R313). -/
  cur : Option SegId := none
  counts : List Nat := []
  used : List Bool := []
  closed : List Bool := []
  /-- The remainder of the open segment is being discarded (R99). -/
  killed : Bool := false
  /-- A loop of kind first has seen its exit for the open segment (R121). -/
  left : Bool := false
  /-- Prune serials whose drain marker has arrived here (R99). -/
  drains : List Nat := []
  /-- Prune table of a channel node, recirculation or remote channel (R99). -/
  table : List PruneEnt := []
  /-- A closing prefix for the open segment of a loop of kind first has been sent (R121). -/
  sentClose : Bool := false
  /-- Latest committed generation by lane, of an egress node (R95, R102). -/
  cg : List (Nat × Nat) := []
  /-- Segments an egress node holds until they are released, in order of arrival: identity, beats, whole (R95). -/
  held : List (SegId × List QBeat × Bool) := []
  /-- The arriving segment of an egress node is released and passes through (R95). -/
  streaming : Bool := false
  /-- The source stands stopped by a cut: beats behind the marker stay at the ingress (R204). -/
  marked : Bool := false
  /-- The marker of a cut has been taken from it: the last ordinal before the cut, and the beats that stand ahead of it as the channel contents
  (R204, R207, R215). -/
  cutAt : Option (Nat × Nat) := none
  /-- A fault has frozen it (R201), and: the place in the order of arrivals at which a slot was last freed (R217). -/
  frozen : Bool := false
  freed : Nat := 0
  deriving DecidableEq, Repr

/-- The leaky bucket of a fabric ingress port (R22, R23). -/
structure Bucket where
  level : Nat := 0x400
  frac : Nat := 0
  depth : Nat := 0x400
  refill : Nat := 0x400
  en : Bool := true
  deriving DecidableEq, Repr

/-- Code of an E-block element: header fields and words (R245). -/
structure ECode where
  ii : Nat
  imap : List (Option Nat)
  omap : List (Option Nat)
  satf8 : Bool
  words : List Word
  deriving DecidableEq, Repr

/-- The partial of one lane of a reduction instruction, of one element, which belongs to one context (R126, R253, R314). -/
structure Partial where
  slot : Nat
  lane : Nat
  any : Bool := false
  s : Bool := false
  /-- The WF partial, for type wf. -/
  wf : Img := {}
  /-- The 48-bit sum, minimum or maximum, for types i and n. -/
  sum : Int := 0
  /-- A sum that met its bound stays there. -/
  clamped : Bool := false
  deriving DecidableEq, Repr

/-- What one SD instruction keeps for one strand across the firings of a number (R300). -/
structure SdState where
  slot : Nat
  lane : Nat
  /-- Elements consumed for the number so far. -/
  firing : Nat := 0
  /-- Digits seen of the left and right operand, most significant first. -/
  da : List Int := []
  db : List Int := []
  s : Bool := false
  decided : Bool := false
  deriving DecidableEq, Repr

/-- An element of a plot (R253) with all it keeps between firings. -/
structure Elem where
  ref : ElemRef
  /-- 1 E-block, 2 array share, 3 sort-network share, 4 sequencer port. -/
  kind : Nat
  ctx : Nat
  cfg : DWord
  leaf : Nat
  code : Option ECode := none
  guess : Option Nat := none
  blocked : Bool := false
  frozen : Option Nat := none
  partials : List Partial := []
  sd : List SdState := []
  /-- Outputs that have received the forwarded prefix of the segment open on IMAP entry 0 (R309). -/
  opened : List Nat := []
  /-- A guess record of the open segment has been sent (R325). -/
  guessed : Bool := false
  /-- A join's current segment, the inputs on which its prefix has arrived and those on which it has closed (R123, R317). -/
  joinSeg : Option SegId := none
  joinIn : List Nat := []
  joinClosed : List Nat := []
  /-- Last coordinate taken in the open segment, by intersected IMAP entry (R127). -/
  coords : List (Nat × Nat) := []
  /-- Inputs on which a condition token (R125) or a dormancy marker (R204) has arrived. -/
  condIn : List Nat := []
  condCtx : Nat := 0
  dormIn : List Nat := []
  fires : Nat := 0
  noProgress : Nat := 0
  iiOn : Bool := false
  iiThr : Nat := 0
  iiArmed : Bool := false
  deriving DecidableEq, Repr

/-- A plot: context counter, prune table, ring of the initiation-interval log (R106, R125, R126, R217). -/
structure Plot where
  lid : Nat
  pset : Nat
  x : Nat
  y : Nat
  ctx : Nat
  prunes : List PruneEnt := []
  ring : List DWord := []
  /-- Elements that have fired since CTX last moved, in rotating mode (R126). -/
  turn : List Nat := []
  deriving DecidableEq, Repr

/-- A trellis node of a page (R72) with its enable token and progress (R73). -/
structure Trellis where
  page : PageRef
  node : Nat
  kind : Nat
  window : Nat
  parent : Option Nat
  /-- Children and their counts: 0 to 7 nodes, 8 to 15 leaves. -/
  kids : List (Nat × Nat)
  /-- An enable token on its way, and the done tokens of children on their way. -/
  offer : Option Nat := none
  doneIn : List Nat := []
  /-- The count of the enable token held. -/
  token : Option Nat := none
  /-- Iterations each child has finished, and iterations each child has been enabled for. -/
  finished : List Nat := []
  started : List Nat := []
  deriving DecidableEq, Repr

/-- A leaf pipeline of a page (R74). -/
structure Leaf where
  page : PageRef
  leaf : Nat
  outs : List (Nat × Nat × Nat) := []
  /-- Markers still to be emitted for the enable token held. -/
  token : Option Nat := none
  deriving DecidableEq, Repr

/-- A stage of a stage set (R132) with its statistics (R137). -/
structure Stage where
  outl : Nat
  comm : Bool
  pure_ : Bool
  cls : Nat
  rej : Nat
  inn : Nat := 0
  pass : Nat := 0
  deriving DecidableEq, Repr

/-- A forager (R132 to R143). -/
structure Forager where
  page : PageRef
  ctx : Nat
  window : Nat
  ring : Nat
  rejp : Nat
  exitp : Nat
  entry : Nat
  ordered : Bool
  stages : List Stage
  lfsr : Word
  admitted : Nat := 0
  /-- DONE bits of each record in the loop as it was sent, by stage (R135). -/
  inLoop : List (Nat × BitVec 8) := []
  seg : Option SegId := none
  segClosed : Bool := true
  /-- The segment was closed by a closing prefix, so it is a dead one (R99). -/
  killed : Bool := false
  prunes : List PruneEnt := []
  /-- Stages whose prune copy has returned, by serial (R140). -/
  returned : List (Nat × Nat) := []
  frozen : Option Nat := none
  draining : Bool := false
  deriving DecidableEq, Repr

/-- An accumulator of the array (R362): empty, float or integer, one value for each of 128 columns. -/
inductive ArrAcc where
  | empty
  | flt (cols : List Img)
  | int (cols : List Int)
  deriving DecidableEq, Repr

/-- A bank of cell weight registers: the format and the non-zero codes by (row, column, position), scales by (row, column). -/
structure Weights where
  fmt : Nat := 0
  codes : List (Nat × Nat) := []
  scales : List (Nat × Nat) := []
  deriving DecidableEq, Repr

/-- The array and the sort network of a page in one context (R129, R130, R362, R369). -/
structure ArrayUnit where
  page : PageRef
  ctx : Nat
  /-- 0 plain, 1 systolic, 2 sort. -/
  mode : Nat
  active : Weights := {}
  preload : Weights := {}
  accs : Vector ArrAcc 4 := Vector.replicate 4 .empty
  m : Nat := 9
  desc : Bool := false
  merge : Bool := false
  keep : Nat := 0
  /-- Settings that the open segment entered with. -/
  cfgNow : DWord := 9
  /-- Keys (or records) of the segment entering, with the open segment. -/
  keys : List (Img × Nat) := []
  seg : Option SegId := none
  /-- Beats of a sorted segment that have not left yet (R130, R400). -/
  out : List Beat := []
  /-- The section is armed free-running (R71) and its remaining tile count. -/
  freeRun : Option Nat := none
  deriving DecidableEq, Repr

/-- Work a memory node has taken and not finished (R182): the segment it serves, the rank of its beat, the address,
the data for a write, and what the bank has answered. -/
structure NodeOp where
  elem : Nat
  va : Nat
  rank : Nat := 0
  seg : Option SegId := none
  data : Option Img := none
  /-- 0 waiting, 1 deferred or held at the bank, 2 performed. -/
  status : Nat := 0
  result : Option Img := none
  dead : Bool := false
  /-- A prefix or control beat forwarded in its turn. -/
  beat : Option Beat := none
  /-- The channel and ordinal of the beat that asked for it, for a fault (R201). -/
  chan : Nat := 0
  ord : Nat := 0
  /-- The segment has closed: a word that is not whole is written with zero bytes (R178). -/
  flush : Bool := false
  /-- Of a write to a WO page: the words that have been written with its bytes, and how many its element touches (R178). -/
  words : List Nat := []
  parts : Nat := 1
  deriving DecidableEq, Repr

/-- A memory node of a launch (R181, R234) as placed (R62). -/
structure MemNode where
  ref : NodeRef
  pset : Nat
  die : Nat
  phys : Nat
  bt : Bool
  inv : Bool
  dir : Nat
  cls : Nat
  scope : Nat
  limit : Nat
  base : Nat
  start : Nat
  addrPat : Bool
  levels : List (Nat × Int)
  fmt : Nat
  op : Nat
  /-- The next element of the pattern. -/
  pos : Nat := 0
  /-- Input channels whose prefix has not been forwarded yet (R407). -/
  due : List Nat := []
  /-- Read-ahead of a stream node: element and code (R182). -/
  ahead : List (Nat × Nat) := []
  armed : Bool := false
  emitted : Bool := false
  ops : List NodeOp := []
  prunes : List PruneEnt := []
  cg : List (Nat × Nat) := []
  recent : List (Nat × Nat × Nat) := []
  /-- Overflow interval by lane: lowest line, highest line, newest generation (R105). -/
  overflow : List (Nat × Nat × Nat × Nat) := []
  /-- Prune work not finished, and drain markers that wait for it. -/
  scan : List Nat := []
  drains : List Nat := []
  frozen : Option Nat := none
  noProgress : Nat := 0
  /-- Inputs on which a dormancy marker has arrived, and: the node has stopped for a cut (R204). -/
  dormIn : List Nat := []
  cutting : Bool := false
  /-- The next start token does not take it back to the first element of its pattern: it goes on where a cut stopped it (R204). -/
  resumed : Bool := false
  deriving DecidableEq, Repr

/-- A load deferred on absent words of a WO page (R179). -/
structure Deferred where
  who : Waiter
  span : Span
  lane : Nat := 0
  gen : Nat := 0
  gpage : Bool := false
  /-- The bank's table is full: it waits in the bank's read queue (R179). -/
  queued : Bool := false
  deriving DecidableEq, Repr

/-- A write held at a bank until its G line is tilled (R103). -/
structure HeldWrite where
  line : Nat
  pa : Nat
  va : Nat
  bytes : List Byte
  lane : Nat
  gen : Nat
  who : Waiter
  deriving DecidableEq, Repr

/-- The side-band of a 64-byte line (R13, R177): presence of its eight words and the recorded generation. -/
structure LineSide where
  present : BitVec 8 := 0
  gen : Nat := 0
  deriving DecidableEq, Repr

/-- A TLB entry (R175): the page's virtual base and size, and the translation as it was walked. -/
structure TlbEnt where
  owner : TlbOwner
  asid : Nat
  base : Nat
  size : Nat
  pte : DWord
  deriving DecidableEq, Repr

/-- A request at an engine (R344). -/
structure EngReq where
  core : CoreRef
  die : Nat
  engine : Nat
  /-- 0 CPYL, 1 GATH, 2 SCAT, 3 COLL. -/
  op : Nat
  va : Nat
  count : Nat
  scope : Nat
  gen : Nat
  lane : Nat
  nolane : Bool
  /-- The issuer's privilege when the request was issued. -/
  sup : Bool := false
  seq : Nat
  /-- COLL: the group has been performed and this status is ready to be answered. -/
  ready : Option (Nat × Nat) := none
  /-- Entries of the transfer that are performed. -/
  next : Nat := 0
  deriving DecidableEq, Repr

/-- The profiling block of an engine (R218). -/
structure EngProf where
  die : Nat
  engine : Nat
  cfg : DWord := 0
  capture : List DWord := [0, 0, 0, 0]
  buckets : List Nat := List.replicate 32 0
  served : Nat := 0
  deriving DecidableEq, Repr

end Sys2Proof.Machine
end

