-- ==== Sys2Proof/Machine/State.lean ====
section
/-! DEFINITION. The whole state of the package (01_package.md to 10_debug_errors.md), its value after reset, and the ways a step can stop. -/
namespace Sys2Proof.Machine

/-! ### Image, launch and placement -/

/-- A page set of an image (R236, type 3). -/
structure PsetDecl where
  w : Nat
  h : Nat
  pin : Option Nat
  isSealed : Bool
  rotating : Bool
  deriving DecidableEq, Repr

/-- A graph node (R67). -/
structure GNode where
  kind : Nat
  succ : List Nat
  free : Bool
  deps : Nat
  tiles : Nat
  sect : Nat
  pset : Nat
  legal : Bool
  deriving DecidableEq, Repr

/-- A layer pipeline (R81, R236 type 11, R405). -/
structure Pipe where
  lanes : Nat
  ex : Nat
  ey : Nat
  port : Nat
  psets : List Nat
  deriving DecidableEq, Repr

/-- A section of an image as the loader reads it (R236), with its bytes. -/
structure Sect where
  type : Nat
  flags : Nat
  pset : Nat
  body : List Byte
  deriving DecidableEq, Repr

/-- An image that has been read (R235, R241). -/
structure Image where
  entry : Nat
  graph0 : Nat
  handler : Nat
  linkbase : Nat
  codeAt : Nat
  psets : List PsetDecl
  graph : List GNode
  pipes : List Pipe
  sects : List Sect
  sealedDigest : Option (List Byte)
  deriving DecidableEq, Repr

/-- A group of a launch in flight (R66, R68). -/
structure GroupRun where
  idx : Nat
  counters : List Nat
  finished : List Bool
  tasks : Nat := 0
  deriving DecidableEq, Repr

/-- Where a launch stands (R50, R54, R64, R215). -/
inductive LaunchPhase where
  | queued | loading | running | dormant | stopped | frozen
  deriving DecidableEq, Repr

/-- A fault that is to end a launch (R41, R197, R201). -/
structure EndRec where
  status : Nat
  detail : Nat
  die : Nat := 0x1F
  plotx : Nat := 0
  ploty : Nat := 0
  fchan : Nat := 0
  ford : Nat := 0
  deriving DecidableEq, Repr

/-- A task record in a task queue (R75), with the page set of its spawner, whose die serves it when it names no node. -/
structure Task where
  lid : Nat
  node : Nat
  tiles : Nat
  gidx : Nat
  arg : DWord
  pset : Nat := 0
  deriving DecidableEq, Repr

/-- A launch that is queued or running (R38 to R41, R50 to R54). -/
structure Launch where
  record : BitVec 512
  /-- The page-table base of its ASID when it was accepted (R37). -/
  base : Nat := 0
  node : Nat
  port : Nat
  tag : Nat
  stamp : Nat
  order : Nat
  phase : LaunchPhase
  placedOnce : Bool := false
  /-- It came back to the queue by pre-emption (R51). -/
  preempted : Bool := false
  image : Option Image := none
  gcount : Nat
  nextGroup : Nat := 0
  gdone : Nat := 0
  groups : List GroupRun := []
  races : Nat := 0
  startOrder : Nat := 0
  acceptedAt : Nat := 0
  ending : Option EndRec := none
  /-- The configuration cycle in which the dispatcher saw a prerequisite fail (R40). -/
  failedAt : Option Nat := none
  /-- Of a dormant launch: its entries of the ready lists and its task records (R75, R205). -/
  parkedReady : List (Nat × Nat × Nat) := []
  parkedTasks : List Task := []
  deriving DecidableEq, Repr

/-- A page set as placed (R60 to R63). -/
structure Placed where
  lid : Nat
  pset : Nat
  die : Nat
  x : Nat
  y : Nat
  w : Nat
  h : Nat
  mdie : Nat
  order : Nat
  isSealed : Bool
  rotating : Bool
  started : Bool := false
  graftedAt : Option Nat := none
  /-- Being cut or frozen: its elements fire no more (R79, R201). -/
  quiesced : Bool := false
  /-- How many older values memory had kept when the region's start token came (R186). -/
  sinceStart : Nat := 0
  /-- The start token of the region's configuration period has come (R181). -/
  periodOn : Bool := false
  deriving DecidableEq, Repr

/-- A section that is armed (R68, R69, R77). -/
structure Arming where
  lid : Nat
  group : Nat
  node : Nat
  page : PageRef
  root : Nat
  task : Bool
  /-- The section has reported done. -/
  done : Bool := false
  deriving DecidableEq, Repr

/-- A graph sequencer (R68, R75 to R77). -/
structure GraphSeq where
  ready : List (Nat × Nat × Nat) := []
  tasks : List Task := []
  /-- Page cores with a SPAWN that found the queue full, in the order in which they claim entries (R76). -/
  stalled : List CoreRef := []
  /-- The next turn goes to the task queue. -/
  taskTurn : Bool := false
  deriving DecidableEq, Repr

/-- A hardware barrier of a page set (R352). -/
structure Barrier where
  lid : Nat
  pset : Nat
  idx : Nat
  phase : Nat := 0
  arrived : Nat := 0
  count : Nat := 0
  deriving DecidableEq, Repr

/-! ### Speculation -/

/-- A launched, uncommitted position (R92, R330). -/
structure Position where
  pos : Nat
  gen : Nat
  tok : Nat
  best : Option Nat := none
  ftok : Nat := 0
  due : Bool := false
  forced : Bool := false
  deriving DecidableEq, Repr

/-- A lane of a sprout controller (R83, R91). NPOS, GNEXT, INFL, MAXFLM1, STOPTOK and SEED, whose reset value R91 gives as "—", read 0 after the
loader and before SEQ.OPEN (DESIGN CHOICE, log 3). -/
structure Lane where
  npos : Nat := 0
  gnext : Nat := 0
  infl : Nat := 0
  maxflm1 : Nat := 0
  closing : Bool := false
  isOpen : Bool := false
  stoptok : Nat := 0
  seed : Nat := 0
  positions : List Position := []
  /-- The waiting launch: position, token, forced. -/
  waiting : Option (Nat × Nat × Bool) := none
  /-- The highest position launched since the lane was opened: a launch at or below it is a relaunch (R93, log 25). -/
  hi : Option Nat := none
  /-- A pending prune range (R101). -/
  pend : Option (Nat × Nat) := none
  /-- Committed generations count as live no longer; killed ones do until their prune retires (R83). -/
  killed : List Nat := []
  forceNext : List Nat := []
  deriving DecidableEq, Repr

/-- A guess record of R86. -/
structure GuessRec where
  gpix : Nat
  lane : Nat
  pos : Nat
  gen : Nat
  tok : Nat
  conf : Img
  deriving DecidableEq, Repr

/-- A sprout controller (R89 to R101, R328). -/
structure Sprout where
  owner : Option Nat := none
  pipe : Nat := 0
  nsink : Nat := 0
  serial : Nat := 0
  gpmask : Nat := 0
  nlane : Nat := 0
  gth : List DWord := List.replicate 7 0
  lanes : List Lane := []
  /-- Prunes issued and not retired: serial, lane, range, drain reports in, RETIRE sent, filters acknowledged. -/
  prunes : List (PruneEnt × Nat × Bool) := []
  pendOrder : List Nat := []
  /-- Guess records that have arrived, as link beats of HKIND 4 (R86). -/
  records : List Beat := []
  /-- Drain reports and commit notices on their way (R101, R102). -/
  reports : List Nat := []
  notices : List (NoticeTo × Nat × Nat) := []
  lpdrop : Nat := 0
  opdrop : Nat := 0
  prdrop : Nat := 0
  deriving DecidableEq, Repr

/-! ### Package, links and host -/

/-- A die's clock, counters and power state (R17 to R20, R24, R39). -/
structure Die where
  stopped : Bool := false
  percent : Nat := 100
  cycles : Nat := 0
  limit : Nat := 2 ^ 24
  late : Nat := 0
  /-- Requests of this die that timed out and whose response has not come yet (R19). -/
  timedOut : Nat := 0
  online : Bool := true
  /-- Links with a stalled response that is recorded and not cleared (R20). -/
  stalls : List Nat := []
  arrayLog : List (List Byte) := []
  arrayOver : Nat := 0
  xferLog : List (List Byte) := []
  xferOver : Nat := 0
  /-- Vertical channels with spares used or taken offline (R16): channel, spares used, offline. -/
  vchans : List (Nat × Nat × Bool) := []
  deriving DecidableEq, Repr

/-- A Volop port (R28 to R30, R34). -/
structure VPort where
  /-- The node number the firmware gave this package at link training. -/
  node : Nat := 0
  up : Bool := false
  disabled : Bool := false
  mismatch : Bool := false
  linkVer : Nat := 0
  hostVer : Nat := 0
  sendSeq : Nat := 0
  recvSeq : Nat := 0
  replay : List (Nat × List Byte) := []
  again : Nat := 0
  againSeq : Nat := 0
  retrains : Nat := 0
  discarding : Bool := false
  discards : Nat := 0
  /-- Virtual channels without a credit, and what waits for one: channel, destination, type, payload (R29, log 89). -/
  full : List Nat := []
  waiting : List (Nat × Nat × Nat × List Byte) := []
  deriving DecidableEq, Repr

/-- A RoCE queue pair (R33): rate, 2^20 being line rate, path MTU, and the channel a sealed sink is bound to (R49). -/
structure QPair where
  qp : Nat
  rate : Nat := 2 ^ 20
  mtu : Nat := 4096
  boundTo : Option Nat := none
  deriving DecidableEq, Repr

/-- A remote key's window (R33): first virtual address and length of a window of bulk store under one ASID. -/
structure KeyWindow where
  key : Nat
  asid : Nat
  base : Nat
  len : Nat
  deriving DecidableEq, Repr

/-- What the package sends out, oldest first (R30, R33, R36, R37, R42): flits of a Volop port, what those of a host's memory write stand for
(log 86), packets of an Ethernet port, what goes to other packages of a pipeline (log 95), the token of an engine's transfer on the control network
(R188, log 99), and reports to the management cores. -/
inductive Sent where
  | flit (port : Nat) (flit : List Byte)
  | hostWrite (port node addr : Nat) (bytes : List Byte)
  | hostRead (port node addr len : Nat)
  | roceReply (port qp kind : Nat) (bytes : List Byte)
  | roceRequest (port qp op key addr len : Nat)
  | shardFetch (index : Nat)
  | pipe (port node : Nat) (m : PipeMsg)
  | transferToken (die engine : Nat) (c : CoreRef) (seq : Nat)
  | report (code : Nat) (a b c : Nat)
  deriving DecidableEq, Repr

/-- An Ethernet port (R27, R32): the priorities that flow control holds, and the packets that wait for one of them. -/
structure EthPort where
  paused : List Nat := []
  waiting : List (Nat × Sent) := []
  deriving DecidableEq, Repr

/-- An answer whose buffer writes are not acknowledged yet (R37): its message, the node that holds the buffer, and what RESULT will say. -/
structure Answer where
  msg : HostMsg
  node : Nat
  status : Nat
  bytes : Nat
  value : Nat
  deriving DecidableEq, Repr

/-- A sealed sink (R49): a queue pair or a window of a host's memory (node, first address, length), and the channel that alone sends to it. -/
structure Sink where
  lid : Nat
  pset : Nat
  chan : Nat
  pair : Option Nat := none
  window : Nat × Nat × Nat := (0, 0, 0)
  deriving DecidableEq, Repr

/-- The states of load control (R45). -/
inductive LoadPhase where
  | idle | loading | ready | notReady | switchPending
  deriving DecidableEq, Repr

/-- A shard entry of the manifest that this package loads (R44). -/
structure Shard where
  index : Nat
  len : Nat
  offset : Nat
  digest : List Byte
  source : ShardSource := {}
  fetched : Bool := false
  deriving DecidableEq, Repr

/-- Load control (R43 to R45). -/
structure LoadCtl where
  phase : LoadPhase := .idle
  tag : Nat := 0
  port : Nat := 0
  node : Nat := 0
  shards : List Shard := []
  failIdx : Nat := 0
  failWhy : Nat := 0
  n : Nat := 0
  limit : Nat := 2 ^ 34
  /-- The highest stamp of a launch that has started (R45). -/
  topStart : Option Nat := none
  deriving DecidableEq, Repr

/-! ### Cuts, debug, replay -/

/-- The saved state of one page set (R205, R207). -/
structure Dormant where
  lid : Nat
  pset : Nat
  die : Nat
  w : Nat
  h : Nat
  cores : List (CoreRef × PageCore)
  elems : List Elem
  chans : List Chan
  plots : List Plot
  trellis : List Trellis
  leaves : List Leaf
  foragers : List Forager
  arrays : List ArrayUnit
  nodes : List MemNode
  barriers : List Barrier
  armings : List Arming
  /-- Where the program's area holds the image, empty when it stands in reserved memory (R206, R373), and the digest that was written there. -/
  area : Span := []
  digest : List Byte := []
  /-- Entries whose RETIRE came while the filter was dormant (R210). -/
  retires : List (FilterRef × PruneEnt) := []
  /-- Its page cores have started (R386), and: the sprout controller of its pipeline, for the page set of layer 0 (R205). -/
  started : Bool := false
  sprouts : List Sprout := []
  deriving DecidableEq, Repr

/-- A cut in progress (R204). -/
structure Cut where
  lid : Nat
  psets : List Nat
  why : CutWhy
  /-- The area of CKPT: its runs, its length, the page set whose image goes there. -/
  area : Option (Span × Nat × Nat) := none
  deriving DecidableEq, Repr

/-- A graft in progress (R63, R209). -/
structure Graft where
  lid : Nat
  pset : Nat
  x : Nat
  y : Nat
  head : Nat
  deriving DecidableEq, Repr

/-- A replay log being recorded or replayed (R220 to R222). -/
structure Replay where
  lid : Nat
  entries : List DWord := []
  incomplete : Bool := false
  /-- Entries still to be met, when this launch replays a log. -/
  todo : Option (List DWord) := none
  /-- Blocks of the open chunk, by page core. -/
  chunks : List (CoreRef × Nat) := []
  deriving DecidableEq, Repr

/-- An IMAP entry of a firing: the beat taken from it, the beat behind that one (R301), its current segment (R313),
the format of its lanes, whether it is in record mode. -/
structure FireIn where
  beat : Option Beat := none
  next : Option Beat := none
  seg : Option SegId := none
  fmt : Nat := 13
  isRec : Bool := false
  deriving DecidableEq, Repr

/-- The link on an OMAP entry: its format and mode. -/
structure FireOut where
  used : Bool := false
  fmt : Nat := 13
  isRec : Bool := false
  deriving DecidableEq, Repr

/-- A firing in progress: the element, its code, what it took, lane operands that arrived, slots that fired,
what is placed on the outputs, and the state it carries on to the next firing. -/
structure Firing where
  elem : ElemRef
  ctx : Nat := 0
  code : ECode
  ins : List FireIn := []
  outs : List FireOut := []
  /-- The input a join chose (R317). -/
  chosen : Option Nat := none
  ops : List (Nat × Pos × List LaneV) := []
  fired : List Nat := []
  /-- Beats placed, by OMAP entry, and prefixes of SEGL, SEGN and R301. -/
  placed : List (Nat × Beat) := []
  prefixes : List (Nat × Beat) := []
  partials : List Partial := []
  sd : List SdState := []
  /-- The signed-digit state as the firing began. -/
  sd0 : List SdState := []
  /-- SDCVT has elements of its number still to deliver: the inputs are not consumed (R303). -/
  hold : Bool := false
  /-- GUESS: the element's guess point, whether a record of the segment was sent, the record sent now (R325). -/
  guessPt : Option Nat := none
  guessed : Bool := false
  guess : Option GuessRec := none
  fault : Option Nat := none
  deriving DecidableEq, Repr

/-- Whose instruction the step is about to fire (log 1): a slot of a block of a page core, or of the firing element. -/
inductive Focus where
  | idle
  | core (c : CoreRef) (blk slot : Nat)
  | elem (slot : Nat)
  deriving DecidableEq, Repr

/-- What happens next: an event of the table, or the firing of one slot (log 1). -/
inductive Agenda where
  | event (i : Instr)
  | fire (c : CoreRef) (blk slot : Nat)
  | progress (c : CoreRef)
  deriving DecidableEq, Repr

/-- The state of the Fencel 7400 package. -/
structure State where
  /-- MODEL'S OWN: what happens next, whose slot fires, the counter of free values (logs 1 and 6). -/
  agenda : List Agenda
  focus : Focus
  firing : Option Firing
  fresh : Nat
  /-- Physical memory: listed bytes, addresses rising, none equal to what an unlisted address reads as (log 4). -/
  mem : List Host.Cell
  /-- Side-band of 64-byte lines, by line number, rising, none equal to an unlisted line's. -/
  side : List (Nat × LineSide)
  deferred : List Deferred
  held : List HeldWrite
  /-- MODEL'S OWN: older values of 8-byte words, the newest first: word number and value (R186, log 33). -/
  older : List (Nat × Nat)
  /-- First-level TLBs by owner, and second-level ones by memory-port die (R175). -/
  tlb : List TlbEnt
  tlb2 : List (Nat × TlbEnt)
  ptbase : List (Nat × Nat)
  /-- Power and supply (R21, R26): powered, held in reset, latched faults. -/
  powered : Bool
  inReset : Bool
  supplyOk : Bool
  /-- The firmware image was verified and runs (R46); MODEL'S OWN: the image that the module holds, its public key and its signature. -/
  booted : Bool
  fwImage : List Byte
  fwKey : List Byte
  fwSig : List Byte
  latched : List Nat
  dies : Vector Die 17
  /-- PRESENT of PMAP of each fabric die, a fuse (R12, log 8). -/
  pmap : Vector (BitVec 81) 8
  /-- Buckets that differ from reset, by die × 4096 + port: 32 × page + source port, or 2592 + die-edge port (R24). -/
  buckets : List (Nat × Bucket)
  /-- Stale-write counters by memory-port die × 128 + node (R24). -/
  stale : List (Nat × Nat)
  ports : Vector VPort 18
  qpairs : List QPair
  /-- RoCE packets dropped and counted (R33). -/
  roceDrops : Nat
  /-- Data taken by a SEND, and immediate data: queue pair, immediate, data (R33). -/
  roceRecv : List (Nat × Option Nat × List Byte)
  eth : Vector EthPort 8
  answers : List Answer
  sinks : List Sink
  /-- MODEL'S OWN: what the memory of hosts answers (node, address, bytes), and the nodes that refuse writes. -/
  hostMem : List (Nat × Nat × List Byte)
  refusing : List Nat
  keys : List KeyWindow
  outbox : List Sent
  bord : Nat
  wsel : Bool
  load : LoadCtl
  sealingKeys : List (List Byte)
  sealRefusals : Nat
  /-- Scheduler. -/
  launches : List Launch
  head : Option Nat
  headPtr : Vector (Option Nat) 4
  history : List (Nat × Nat)
  clock : Nat
  orders : Nat
  placed : List Placed
  armings : List Arming
  seqs : Vector GraphSeq 8
  barriers : List Barrier
  trellis : List Trellis
  leaves : List Leaf
  /-- Speculation. -/
  sprouts : Vector Sprout 8
  portPrunes : List (CoreRef × Nat × PruneEnt)
  portDrops : List (CoreRef × Nat × Nat)
  /-- Fabric. MODEL'S OWN: the count of beats that have arrived, which orders arrivals (log 15). -/
  arrivals : Nat
  chans : List Chan
  plots : List Plot
  elems : List Elem
  foragers : List Forager
  arrays : List ArrayUnit
  nodes : List MemNode
  /-- Page cores, listed once they have begun; any other reads as PageCore.reset. -/
  cores : List (CoreRef × PageCore)
  engines : List EngReq
  profiles : List EngProf
  /-- Cuts, debug and errors. -/
  cuts : List Cut
  grafts : List Graft
  dormants : List Dormant
  dbp : Vector (BitVec 128) 16
  /-- Breakpoints whose beat has just been taken, with the beat (R215). -/
  bpPending : List (Nat × Beat)
  samples : List (Nat × List (List Byte))
  frost : List (Nat × List Byte)
  replays : List Replay
  armed : List (Nat × List Byte)
  dump : Option (List Byte)
  fatals : Nat
  /-- MODEL'S OWN: errors that stand in the DRAM arrays (half-line number, symbol, uncorrectable), which arise outside (R223). -/
  ecc : List (Nat × Nat × Bool)
  /-- The limit of every no-progress counter (R211). -/
  hangLimit : Nat
  deriving DecidableEq, Repr

/-- Ways the machine stops. -/
inductive Fault where
  /-- An access reached a host-memory address (R14, R166). No meaning raises it: host memory is reached over VC 2 (log 77). Safe: the model
  stops. -/
  | hostMemory (pa : Nat)
  deriving DecidableEq, Repr

/-- Ways an instruction is refused. -/
inductive Refusal where
  /-- The instruction has no meaning yet. Safe: the model stops. -/
  | notModelled (mnemonic : String)
  /-- A word instruction is asked to fire where no block in flight and no firing element holds it: `focus` names no slot.
  Raised by exec of a word instruction outside a step. Safe: the model stops. -/
  | notRunning
  /-- A word instruction is asked to fire in a kind of block in which its opcode is illegal (R257); decode keeps a run from it
  (R258, R259). Safe: the model stops. -/
  | wrongBlock
  deriving DecidableEq, Repr

/-- The package right after reset: powered off until POWER_ON is taken (R21), every table empty (logs 2, 3 and 4). -/
def State.reset : State :=
  { agenda := [], focus := .idle, firing := none, fresh := 0, mem := [], side := [], deferred := [], held := [], older := []
    tlb := [], tlb2 := [], ptbase := [], powered := false, inReset := true, supplyOk := true, booted := false, fwImage := [], fwKey := []
    fwSig := [], latched := [], dies := Vector.replicate 17 {}, pmap := Vector.replicate 8 Config.pageMap, buckets := [], stale := []
    ports := Vector.replicate 18 {}, qpairs := [], roceDrops := 0, roceRecv := [], eth := Vector.replicate 8 {}, answers := [], sinks := []
    hostMem := [], refusing := [], keys := [], outbox := [], bord := 0, wsel := false
    load := {}, sealingKeys := [], sealRefusals := 0, launches := [], head := none, headPtr := Vector.replicate 4 none
    history := [], clock := 0, orders := 0, placed := [], armings := [], seqs := Vector.replicate 8 {}, barriers := []
    trellis := [], leaves := [], sprouts := Vector.replicate 8 {}, portPrunes := [], portDrops := [], arrivals := 0, chans := []
    plots := [], elems := [], foragers := [], arrays := [], nodes := [], cores := [], engines := [], profiles := []
    cuts := [], grafts := [], dormants := [], dbp := Vector.replicate 16 0, bpPending := [], samples := [], frost := [], replays := []
    armed := [], dump := none, fatals := 0, ecc := [], hangLimit := 2 ^ 28 }

end Sys2Proof.Machine
end

