-- ==== Sys2Proof/Machine/Mem.lean ====
section
/-! DEFINITION. Physical memory and its side-band, the physical map (R14), and the registers that lie in it (R12, R24, R89 to R91, R218, R328). -/
namespace Sys2Proof.Machine

/-! ### Sparse tables in one canonical form: keys rising, no entry equal to the default -/

/-- What a key reads as. -/
def cellGet {β : Type} (d : β) (a : Nat) : List (Nat × β) → β
  | [] => d
  | (b, w) :: r => if a = b then w else cellGet d a r

/-- Writes one key; writing the default removes the entry. -/
def cellSet {β : Type} [DecidableEq β] (d : β) (a : Nat) (v : β) : List (Nat × β) → List (Nat × β)
  | [] => if v = d then [] else [(a, v)]
  | (b, w) :: r =>
    if a < b then (if v = d then (b, w) :: r else (a, v) :: (b, w) :: r)
    else if a = b then (if v = d then r else (a, v) :: r)
    else (b, w) :: cellSet d a v r

/-- The canonical form, below which the keys start. -/
def cellWfFrom {β : Type} [DecidableEq β] (d : β) (lo : Nat) : List (Nat × β) → Bool
  | [] => true
  | (b, w) :: r => decide (lo ≤ b) && decide (w ≠ d) && cellWfFrom d (b + 1) r

/-- What a byte of memory that nothing has written reads as (log 4). -/
def unlisted : Byte := 0

/-- Physical memory as State holds it. -/
abbrev Memory := List Host.Cell

/-- The canonical form of memory: addresses rising, no entry equal to what an unlisted address reads as. -/
def Memory.wf (m : Memory) : Bool := cellWfFrom unlisted 0 m

def Memory.read (m : Memory) (a : Nat) : Byte := cellGet unlisted a m
def Memory.write (m : Memory) (a : Nat) (v : Byte) : Memory := cellSet unlisted a v m

/-- Bytes from an address upwards. -/
def Memory.readN (m : Memory) (a n : Nat) : List Byte := (List.range n).map (fun i => m.read (a + i))

/-- Writes bytes from an address upwards. -/
def Memory.writeN (m : Memory) (a : Nat) : List Byte → Memory
  | [] => m
  | b :: bs => (m.write a b).writeN (a + 1) bs

/-- The number that little-endian bytes hold (R243, R335). -/
def leNat : List Byte → Nat
  | [] => 0
  | b :: bs => b.toNat + 256 * leNat bs

/-- A number in n little-endian bytes. -/
def leBytes : Nat → Nat → List Byte
  | 0, _ => []
  | n + 1, v => BitVec.ofNat 8 v :: leBytes n (v / 256)

/-! ### The physical map (R14, R43, R206) -/

inductive Region where
  | active (d : Nat) | staging (d : Nat) | bulk (m : Nat) | scratch (m : Nat)
  | registers | counters | unmapped
  /-- The memory of a host: node and address there. -/
  | host (node addr : Nat)
  deriving DecidableEq, Repr

/-- Where the physical map puts an address (R14, R43). -/
def mapOf (pa : Nat) : Region :=
  let d := pa / 0x800000000
  let o := pa % 0x800000000
  if d < 16 then
    if 0x600000000 ≤ o then .unmapped
    else if d < 8 then (if o < 0x300000000 then .active d else .staging d)
    else .bulk (d - 8)
  else if 0x8000000000 ≤ pa ∧ pa < 0x8080000000 then .scratch ((pa - 0x8000000000) / 0x10000000)
  else if 0x9000000000 ≤ pa ∧ pa < 0x9000010000 then .registers
  else if 0x9000100000 ≤ pa ∧ pa < 0x9000183000 then .counters
  else .unmapped

/-- Where a physical address lies: what R14 maps, or else the host memory that stands there (R166, log 77). -/
def regionOf (pa : Nat) : Region :=
  match mapOf pa with
  | .unmapped => match Config.hostGranule (pa / 65536) with
    | some (n, g) => .host n (g * 65536 + pa % 65536)
    | none => .unmapped
  | r => r

/-- The dump area and reserved memory of the configuration die (R206, R226). -/
def reservedMem (pa : Nat) : Bool := decide (0x7D80000000 ≤ pa ∧ pa < 0x7E00000000)

/-- Bulk store or scratchpad (R172). -/
def inStore (pa : Nat) : Bool :=
  match regionOf pa with
  | .bulk _ => true
  | .scratch _ => true
  | _ => false

/-- The die whose bank or registers a physical address names, for nearness (R192). -/
def dieOf (pa : Nat) : Nat :=
  match regionOf pa with
  | .active d => d
  | .staging d => d
  | .bulk m => m + 8
  | .scratch m => m + 8
  | _ => 16

/-- Row and column of a logic die (R8). -/
def dieRow (d : Nat) : Nat := (d % 8) / 2
def dieCol (d : Nat) : Nat :=
  let r := dieRow d
  let k := d % 8 % 2
  if d < 8 then 2 * k + r % 2 else 2 * k + (r + 1) % 2

/-- Orthogonally adjacent logic dies (R8). -/
def adjacent (a b : Nat) : Bool :=
  let dr := (dieRow a - dieRow b) + (dieRow b - dieRow a)
  let dc := (dieCol a - dieCol b) + (dieCol b - dieCol a)
  decide (a < 16 ∧ b < 16 ∧ dr + dc = 1)

/-- Near targets of a fabric die (R192). -/
def near (fd pa : Nat) : Bool :=
  match regionOf pa with
  | .active d => d == fd
  | .bulk m => adjacent fd (m + 8)
  | .scratch m => adjacent fd (m + 8)
  | _ => false

/-- PRESENT of PMAP of a fabric die (R12). -/
def State.pageMap (s : State) (d : Nat) : BitVec 81 := if h : d < 8 then s.pmap[d] else 0

/-- A page of a fabric die that is exposed (R11, R12). -/
def State.exposed (s : State) (d x y : Nat) : Bool := decide (x < 9 ∧ y < 9) && (s.pageMap d).getLsbD (9 * y + x)

/-! ### Registers in the physical map -/

def State.die (s : State) (n : Nat) : Die := if h : n < 17 then s.dies[n] else {}
def State.updDie (s : State) (n : Nat) (f : Die → Die) : State :=
  if h : n < 17 then { s with dies := s.dies.set n (f s.dies[n]) } else s

def State.bucket (s : State) (die port : Nat) : Bucket := cellGet {} (die * 4096 + port) s.buckets
def State.setBucket (s : State) (die port : Nat) (b : Bucket) : State :=
  { s with buckets := cellSet {} (die * 4096 + port) b s.buckets }

/-- BKT as R23 lays it out. -/
def Bucket.reg (b : Bucket) : Nat :=
  b.level * 2 ^ 48 + b.depth * 2 ^ 32 + b.refill * 2 ^ 16 + (if b.en then 1 else 0)

def State.sprout (s : State) (d : Nat) : Sprout := if h : d < 8 then s.sprouts[d] else {}
def State.setSprout (s : State) (d : Nat) (x : Sprout) : State :=
  if h : d < 8 then { s with sprouts := s.sprouts.set d x } else s

def Sprout.lane (sp : Sprout) (i : Nat) : Lane := sp.lanes.getD i {}

/-- SCTL (R89). -/
def Sprout.sctl (sp : Sprout) : Nat :=
  if sp.owner.isNone then 0
  else sp.prunes.length % 64 * 2 ^ 32 + sp.nsink % 256 * 2 ^ 24 + sp.serial % 256 * 2 ^ 16 + sp.gpmask % 128 * 2 ^ 9
    + sp.nlane % 128 * 4 + 1

/-- LANEA and LANEB of a lane (R91). -/
def Lane.rega (l : Lane) : Nat :=
  l.npos % 2 ^ 32 * 2 ^ 32 + l.gnext % 2 ^ 16 * 2 ^ 16 + l.infl % 32 * 2 ^ 11 + l.maxflm1 % 16 * 2 ^ 7
    + (if l.waiting.isSome then 8 else 0) + (if l.pend.isSome then 4 else 0)
    + (if l.closing then 2 else 0) + (if l.isOpen then 1 else 0)
def Lane.regb (l : Lane) : Nat := l.stoptok % 2 ^ 32 * 2 ^ 32 + l.seed % 2 ^ 32

/-- A register of a sprout controller's window (R89 to R91, R328). -/
def Sprout.read (sp : Sprout) (o : Nat) : Nat :=
  if sp.owner.isNone then 0
  else if o = 0 then sp.sctl
  else if o = 8 then sp.lpdrop % 2 ^ 16 * 2 ^ 48 + sp.opdrop % 2 ^ 16 * 2 ^ 32 + sp.prdrop % 2 ^ 16 * 2 ^ 16
  else if 0x40 ≤ o ∧ o < 0x78 then (sp.gth.getD ((o - 0x40) / 8) 0).toNat % 2 ^ 35
  else if 0x100 ≤ o ∧ o < 0x500 then
    let l := sp.lane ((o - 0x100) / 16)
    if (o - 0x100) / 16 < sp.nlane then (if o % 16 = 0 then l.rega else l.regb) else 0
  else 0

/-- The profiling block of an engine (R218). -/
def State.prof (s : State) (die e : Nat) : EngProf :=
  (s.profiles.find? (fun p => p.die == die && p.engine == e)).getD { die := die, engine := e }
def State.setProf (s : State) (p : EngProf) : State :=
  { s with profiles := p :: s.profiles.filter (fun q => !(q.die == p.die && q.engine == p.engine)) }

def EngProf.read (p : EngProf) (o : Nat) : Nat :=
  if o = 0 then p.cfg.toNat
  else if o < 0x28 then (p.capture.getD (o / 8 - 1) 0).toNat
  else if o < 0x40 then 0
  else
    let b (i : Nat) : Nat := p.buckets.getD ((o - 0x40) / 2 + i) 0 % 2 ^ 16
    b 0 + b 1 * 2 ^ 16 + b 2 * 2 ^ 32 + b 3 * 2 ^ 48

/-- The 8-byte register at a physical address of the two register windows; an address that names none reads zero (R6). -/
def regRead (s : State) (pa : Nat) : Nat :=
  if pa < 0x9000001000 then
    let d := (pa - 0x9000000000) / 16
    if d < 8 then (if pa % 16 = 0 then (s.pageMap d).toNat % 2 ^ 64 else (s.pageMap d).toNat / 2 ^ 64) else 0
  else if pa < 0x9000005000 then (s.sprout ((pa - 0x9000001000) / 0x800)).read ((pa - 0x9000001000) % 0x800)
  else if 0x9000008000 ≤ pa ∧ pa < 0x9000008100 then
    let n := (pa - 0x9000008000) / 16
    let v := if h : n < 16 then s.dbp[n] else 0
    if pa % 16 = 0 then v.toNat % 2 ^ 64 else v.toNat / 2 ^ 64
  else if 0x900000A000 ≤ pa ∧ pa < 0x900000E000 then
    let k := (pa - 0x900000A000) / 0x80
    if k % 16 < 13 then (s.prof (k / 16 + 8) (k % 16)).read ((pa - 0x900000A000) % 0x80) else 0
  else if 0x9000100000 ≤ pa ∧ pa < 0x9000180000 then
    let d := (pa - 0x9000100000) / 0x10000
    let i := (pa - 0x9000100000) % 0x10000 / 8
    if i < 2592 then (if s.exposed d (i / 32 % 9) (i / 32 / 9) then (s.bucket d i).reg else 0)
    else if i < 2592 + 256 then (if Config.edgeBuilt d (i - 2592) then (s.bucket d i).reg else 0)
    else 0
  else if 0x9000180000 ≤ pa ∧ pa < 0x9000180088 then
    let n := (pa - 0x9000180000) / 8
    (if h : n < 17 then (s.dies[n]).late else 0) % 2 ^ 64
  else if 0x9000181000 ≤ pa ∧ pa < 0x9000183000 then
    let m := (pa - 0x9000181000) / 0x400
    cellGet 0 ((m + 8) * 128 + (pa - 0x9000181000) % 0x400 / 8) s.stale % 2 ^ 64
  else 0

/-! ### Bytes of physical memory -/

/-- The place of the copy that the active view names (R43); every other address is its own place. -/
def physKey (s : State) (pa : Nat) : Nat :=
  match regionOf pa with
  | .active _ => if s.wsel then pa + 0x300000000 else pa
  | .staging _ => if s.wsel then pa - 0x300000000 else pa
  | _ => pa

/-- Where the model keeps the read-only copies of the launch records: above every physical address (R386, log 11). -/
def recordBase : Nat := 2 ^ 60

/-- A byte of the memory of a host, as it answers now; a free value where the model holds no answer (log 77). -/
def State.hostByte (s : State) (node a : Nat) : Byte :=
  match s.hostMem.find? (fun (e : Nat × Nat × List Byte) => e.1 == node && decide (e.2.1 ≤ a ∧ a < e.2.1 + e.2.2.length)) with
  | some (_, b, bs) => bs.getD (a - b) 0
  | none => Config.hostByte s.fresh node a

/-- What a physical byte reads as, register windows and host memory included. -/
def State.physByte (s : State) (pa : Nat) : Byte :=
  if recordBase ≤ pa then
    match s.launches.find? (fun l => (l.record.toNat / 2 ^ 192 % 2 ^ 32) == (pa - recordBase) / 64) with
    | some l => BitVec.ofNat 8 (l.record.toNat / 256 ^ (pa % 64))
    | none => 0
  else match regionOf pa with
  | .registers => BitVec.ofNat 8 (regRead s (pa - pa % 8) / 256 ^ (pa % 8))
  | .counters => BitVec.ofNat 8 (regRead s (pa - pa % 8) / 256 ^ (pa % 8))
  | .host n a => s.hostByte n a
  | _ => Memory.read s.mem (physKey s pa)

def State.physBytes (s : State) (pa n : Nat) : List Byte := (List.range n).map (fun i => s.physByte (pa + i))

/-- The values that the 8-byte words of a store held before it (R186, log 33). -/
def State.kept (s : State) (k n : Nat) : List (Nat × Nat) :=
  (List.range ((k + n + 7) / 8 - k / 8)).map (fun i => (k / 8 + i, leNat (Memory.readN s.mem (8 * (k / 8 + i)) 8)))

/-- Stores bytes to physical memory; the older values of the words stay readable to loads that promise invariance (R186). -/
def State.store (s : State) (pa : Nat) (bs : List Byte) : State :=
  { s with mem := Memory.writeN s.mem (physKey s pa) bs, older := s.kept (physKey s pa) bs.length ++ s.older }

/-! ### Presence and recorded generations (R177) -/

def State.line (s : State) (line : Nat) : LineSide := cellGet {} line s.side
def State.setLine (s : State) (line : Nat) (l : LineSide) : State := { s with side := cellSet {} line l s.side }

/-- Is the 8-byte word that holds this physical address present? -/
def State.present (s : State) (pa : Nat) : Bool := (s.line (pa / 64)).present.getLsbD (pa / 8 % 8)

/-- Sets the presence of one word. -/
def State.setPresent (s : State) (pa : Nat) : State :=
  let l := s.line (pa / 64)
  s.setLine (pa / 64) { l with present := l.present ||| (1 <<< (pa / 8 % 8)) }

/-- A fresh free number, and the state that has used it (log 6). -/
def State.freeNat (s : State) : Nat × State := (Config.freeNat s.fresh, { s with fresh := s.fresh + 1 })

/-- Clears the presence of a line; a word that was present then holds an undefined value (R178): free bytes (log 6). -/
def State.clearLine (s : State) (line : Nat) : State :=
  let l := s.line line
  let ws := (List.range 8).filter (fun k => l.present.getLsbD k)
  let s := s.setLine line { l with present := 0 }
  ws.foldl (fun s k =>
    { s.store (line * 64 + 8 * k) ((List.range 8).map (fun i => Config.freeByte (8 * s.fresh + i))) with
      fresh := s.fresh + 1 }) s

/-! ### Array ECC (R223, R225) -/

/-- Takes some fresh free numbers: number i, and the state that has used n of them (log 6). -/
def State.freeAt (s : State) (i : Nat) : Nat := Config.freeNat (s.fresh + i)
def State.useFree (s : State) (n : Nat) : State := { s with fresh := s.fresh + n }

/-- Adds an entry to a log of 256; a full one loses its oldest entry and counts it (R225, log 43). -/
def ringAdd (log : List (List Byte)) (lost : Nat) (e : List Byte) : List (List Byte) × Nat :=
  if log.length < 256 then (log ++ [e], lost) else (log.drop 1 ++ [e], lost + 1)

/-- The vertical channel of an address within its die's window (R15), and the layer that it belongs to: 12 channels to each, taken in order,
which R15 leaves open (DESIGN CHOICE, log 84). -/
def vchanOf (pa : Nat) : Nat := pa % 0x800000000 / 256 % 48
def layerOf (pa : Nat) : Nat := vchanOf pa / 12

/-- An entry of the array log (R225): it names the 64-byte line. -/
def arrayEntry (pa : Nat) (kind symbol cycles : Nat) : List Byte :=
  leBytes 8 (pa / 64 * 64) ++ leBytes 1 (layerOf pa) ++ leBytes 1 kind ++ leBytes 2 symbol ++ List.replicate 4 0
    ++ leBytes 8 cycles ++ List.replicate 8 0

/-- The die's cycle counter stands some cycles on (R17, log 9). -/
def State.dieTime (s : State) (d : Nat) : State :=
  (s.updDie d (fun x => { x with cycles := x.cycles + s.freeAt 0 })).useFree 1

/-- Array ECC on the half-line of an address that a whole transfer brings: a corrected symbol is written back and logged, an uncorrectable
one is logged (R223). -/
def State.eccAt (s : State) (pa : Nat) : State :=
  match s.ecc.find? (fun (e : Nat × Nat × Bool) => e.1 == pa / 32) with
  | none => s
  | some (_, sym, bad) =>
    let s := s.dieTime (dieOf pa)
    let s := s.updDie (dieOf pa) (fun x =>
      let (l, n) := ringAdd x.arrayLog x.arrayOver (arrayEntry pa (if bad then 2 else 1) sym x.cycles)
      { x with arrayLog := l, arrayOver := n })
    if bad then s else { s with ecc := s.ecc.filter (fun (e : Nat × Nat × Bool) => e.1 != pa / 32) }

/-- Errors that stand in the half-lines that an access brings, and: is one of them uncorrectable? -/
def State.eccIn (s : State) (pas : List Nat) : List (Nat × Nat × Bool) :=
  s.ecc.filter (fun (e : Nat × Nat × Bool) => pas.any (fun a => a / 32 == e.1))
def State.eccBad (s : State) (pas : List Nat) : Bool := (s.eccIn pas).any (fun (e : Nat × Nat × Bool) => e.2.2)

/-- Every error that an access meets is corrected or logged. -/
def State.eccMeet (s : State) (pas : List Nat) : State :=
  (s.eccIn pas).foldl (fun s (e : Nat × Nat × Bool) => s.eccAt (32 * e.1)) s

/-- Do the banks that a span reaches run: is no die of theirs stopped (R18)? -/
def State.banksRun (s : State) (sp : Span) : Bool := sp.all (fun r => !(s.die (dieOf r.1.pa)).stopped)

end Sys2Proof.Machine
end

