-- ==== Sys2Proof/Machine/Translate.lean ====
section
/-! DEFINITION. Translation and protection (R172 to R177, R203): page-table walks, TLB entries, the spans of an access. -/
namespace Sys2Proof.Machine

/-- The page-table base of an ASID (R174). -/
def State.ptbaseOf (s : State) (asid : Nat) : Option Nat := (s.ptbase.find? (fun e => e.1 == asid)).map (fun e => e.2)

/-- An address space: the ASID, and above it the number of the 64 KiB granule of the base that was in force at acceptance (R37). -/
def spaceOf (asid base : Nat) : Nat := asid % 2 ^ 16 + 2 ^ 16 * (base / 65536)
/-- The base of an address space. -/
def spaceBase (space : Nat) : Nat := space / 2 ^ 16 * 65536

/-- A field of an entry. -/
def pteField (e : DWord) (lo n : Nat) : Nat := e.toNat / 2 ^ lo % 2 ^ n

/-- The index bits of a level: lowest bit and width (R172). -/
def levelBits (level : Nat) : Nat × Nat :=
  match level with
  | 1 => (43, 13)
  | 2 => (30, 13)
  | 3 => (21, 9)
  | _ => (16, 5)

/-- An entry that R172 turns into a translation fault whatever its level. -/
def pteBad (e : DWord) : Bool :=
  pteField e 0 1 == 0 || pteField e 61 3 != 0 || pteField e 7 9 != 0 || pteField e 5 2 == 3
    || (pteField e 1 1 == 0 && (pteField e 5 2 != 0 || pteField e 52 9 != 0))

/-- The walk of R172 from a level on; none is a translation fault. -/
def walkFrom (s : State) (va : Nat) : Nat → Nat → Nat → Option (DWord × Nat)
  | 0, _, _ => none
  | fuel + 1, level, node =>
    let (lo, n) := levelBits level
    let e : DWord := BitVec.ofNat 64 (leNat (s.physBytes (node + 8 * (va / 2 ^ lo % 2 ^ n)) 8))
    if pteBad e then none
    else if pteField e 1 1 = 1 then
      if level = 1 ∨ pteField e 16 36 * 65536 % 2 ^ lo ≠ 0 then none else some (e, 2 ^ lo)
    else if level = 4 then none
    else
      let next := pteField e 16 36 * 65536
      if inStore next then walkFrom s va fuel (level + 1) next else none

/-- The walk of a virtual address in an address space (R172). -/
def walk (s : State) (asid va : Nat) : Option (DWord × Nat) := if spaceBase asid = 0 then none else walkFrom s va 4 1 (spaceBase asid)

/-- The memory-port die whose second-level TLB answers an owner's misses (R175). -/
def State.tlbDie (s : State) (o : TlbOwner) : Nat :=
  match o with
  | .core c => ((s.placed.find? (fun p => p.lid == c.lid && p.pset == c.pset)).map (fun p => p.mdie)).getD 8
  | .cluster d _ => d
  | .die d => d

/-- Does an entry translate an address of an address space? -/
def TlbEnt.hits (t : TlbEnt) (asid va : Nat) : Bool := t.asid == asid && decide (t.base ≤ va ∧ va < t.base + t.size)

/-- What answers a miss of the first level: the second level, or else the walk of the current tables (R175). -/
def lookup2 (s : State) (o : TlbOwner) (asid va : Nat) : Option (DWord × Nat) :=
  match s.tlb2.find? (fun e => e.1 == s.tlbDie o && e.2.hits asid va) with
  | some e => some (e.2.pte, e.2.size)
  | none => walk s asid va

/-- The translation an agent uses: the entry its first-level TLB holds, or else what answers its miss (R175, R176). -/
def lookup (s : State) (o : TlbOwner) (asid va : Nat) : Option (DWord × Nat) :=
  match s.tlb.find? (fun t => t.owner == o && t.hits asid va) with
  | some t => some (t.pte, t.size)
  | none => lookup2 s o asid va

/-- The virtual address of the read-only copy of a launch's record, near the top of every address space (R386, log 11). -/
def recordVa (lid : Nat) : Nat := 2 ^ 56 - 2 ^ 38 + 64 * (lid % 2 ^ 32)

/-- The read-only copy of its launch record, as a page core finds it: the run at an address, and the bytes left of it (R386). -/
def recordRun (o : TlbOwner) (va : Nat) : Option (Xlat × Nat) :=
  match o with
  | .core c =>
    let r := recordVa c.lid
    if r ≤ va ∧ va < r + 64 then some ({ va := va, pa := recordBase + 64 * c.lid + (va - r), attr := 0, lane := 0 }, r + 64 - va) else none
  | _ => none

/-- The bytes of one run: to the end of its 64 KiB granule, of the record's copy, or up to that copy. -/
def runLen (o : TlbOwner) (va len : Nat) : Nat :=
  let n := min len (65536 - va % 65536)
  match recordRun o va, o with
  | some (_, m), _ => min n m
  | none, .core c => if va < recordVa c.lid then min n (recordVa c.lid - va) else n
  | none, _ => n

/-- What an access is: read or write, from supervisor or user, atomic (R166, R173, R178). -/
structure AccKind where
  wr : Bool
  rd : Bool
  sup : Bool
  atomic : Bool := false
  /-- The least attribute the page must have: 1 for TILL, 2 for TILLG (R180, R339). -/
  least : Nat := 0
  deriving DecidableEq, Repr

/-- The protection cases of R173, R166, R206 and R214 for a physical address under a leaf entry. -/
def protBad (e : DWord) (k : AccKind) (pa : Nat) : Bool :=
  let attr := pteField e 5 2
  let r := regionOf pa
  (k.rd && pteField e 2 1 == 0) || (k.wr && pteField e 3 1 == 0) || (pteField e 4 1 == 1 && !k.sup)
    || reservedMem pa
    || decide (0x9000008000 ≤ pa ∧ pa < 0x9000008100)
    || (match r with
        | .unmapped => true
        | .staging _ => true
        | .active _ => k.wr
        | .registers => k.atomic
        | .counters => k.atomic
        | .host _ _ => k.atomic
        | _ => false)
    || (attr != 0 && !inStore pa)
    || decide (attr < k.least)
    || (attr == 2 && (match r with
        | .bulk _ => false
        | _ => true))

/-- A fault found by translating: its cause code of R200 and the address that failed. -/
structure XFault where
  code : Nat
  va : Nat
  deriving DecidableEq, Repr

/-- Does a physical address lie in a window of host memory that is a sealed sink (R49)? -/
def State.inSink (s : State) (pa : Nat) : Bool :=
  match regionOf pa with
  | .host n a => s.sinks.any (fun k => k.window.1 == n && decide (k.window.2.1 ≤ a ∧ a < k.window.2.1 + k.window.2.2))
  | _ => false

/-- Translates and checks one address; only its bound channel writes to a sealed sink (R49). -/
def xlate (s : State) (o : TlbOwner) (asid va : Nat) (k : AccKind) : Except XFault Xlat :=
  if 2 ^ 56 ≤ va then .error ⟨4, va⟩
  else match recordRun o va with
  | some (x, _) => if k.wr then .error ⟨5, va⟩ else .ok x
  | none => match lookup s o asid va with
    | none => .error ⟨4, va⟩
    | some (e, size) =>
      let pa := pteField e 16 36 * 65536 / size * size + va % size
      if protBad e k pa || (k.wr && s.inSink pa) then .error ⟨5, va⟩
      else .ok { va := va, pa := pa, attr := pteField e 5 2, lane := pteField e 52 9 }

/-- The translated runs of [va, va + len), granule by granule of 64 KiB; the first failing run decides (R359). -/
def spanFrom (s : State) (o : TlbOwner) (asid : Nat) (k : AccKind) : Nat → Nat → Nat → Except XFault Span
  | 0, _, _ => .ok []
  | fuel + 1, va, len =>
    if len = 0 then .ok []
    else
      let n := runLen o va len
      match xlate s o asid va k with
      | .error f => .error f
      | .ok x =>
        match spanFrom s o asid k fuel (va + n) (len - n) with
        | .error f => .error f
        | .ok r => .ok ((x, n) :: r)

def spanOf (s : State) (o : TlbOwner) (asid va len : Nat) (k : AccKind) : Except XFault Span :=
  spanFrom s o asid k (len / 65536 + 4) va len

/-- The physical byte addresses of a span, in order. -/
def spanPas : Span → List Nat
  | [] => []
  | (x, n) :: r => (List.range n).map (fun i => x.pa + i) ++ spanPas r

/-- Do two spans share an 8-byte word? -/
def spansMeet (a b : Span) : Bool :=
  a.any (fun (x, n) => b.any (fun (y, m) =>
    decide (x.pa / 8 ≤ (y.pa + m - 1) / 8 ∧ y.pa / 8 ≤ (x.pa + n - 1) / 8 ∧ 0 < n ∧ 0 < m)))

/-- The attribute of a span's pages: that of its first run; the pages of one access of at most 8 bytes are one. -/
def spanAttr : Span → Nat
  | [] => 0
  | (x, _) :: _ => x.attr
def spanLane : Span → Nat
  | [] => 0
  | (x, _) :: _ => x.lane

/-- The virtual address of a span. -/
def spanVa : Span → Nat
  | [] => 0
  | (x, _) :: _ => x.va

/-- The bytes a span reads as now. -/
def readSpan (s : State) (sp : Span) : List Byte := (spanPas sp).map s.physByte

/-- The words of a WO span that are absent (R178). -/
def spanAbsent (s : State) (sp : Span) : Bool :=
  sp.any (fun (x, n) => x.attr != 0 && (List.range n).any (fun i => !s.present (x.pa + i)))

/-- Adds an entry to a table; of a full one an entry goes, which one is free (R175, log 96). -/
def tlbAdd {α : Type} [DecidableEq α] (cap k : Nat) (mine : α → Bool) (e : α) (l : List α) : List α :=
  let m := l.filter mine
  e :: (if m.length < cap then l else match m[k % m.length]? with
    | some t => l.erase t
    | none => l)

/-- The result of a miss fills the first-level TLB of its owner, of 1,024 entries, and the second-level one behind it, of 32,768; a walk that
faults fills nothing (R175). -/
def tlbFill (s : State) (o : TlbOwner) (asid va : Nat) : State :=
  match lookup2 s o asid va with
  | none => s
  | some (e, size) =>
    let d := s.tlbDie o
    let t : TlbEnt := { owner := o, asid := asid, base := va / size * size, size := size, pte := e }
    let s' : State := { s with
      tlb := tlbAdd 1024 (s.freeAt 0) (fun u => u.owner == o) t (s.tlb.filter (fun u => !(u.owner == o && u.hits asid va)))
      tlb2 := tlbAdd 32768 (s.freeAt 1) (fun u => u.1 == d) (d, t) (s.tlb2.filter (fun u => !(u.1 == d && u.2.hits asid va))) }
    s'.useFree 2

end Sys2Proof.Machine
end

