-- ==== Sys2Proof/Machine/Ops.lean ====
section
/-! DEFINITION. The named operations over page cores, launches and placements; taking an exception (R197) and returning from one (R372). -/
namespace Sys2Proof.Machine

/-! ### Keyed lists -/

/-- Replaces the entry of a key, or adds it at the end. -/
def kset {α β : Type} [DecidableEq α] (k : α) (v : β) : List (α × β) → List (α × β)
  | [] => [(k, v)]
  | (a, b) :: r => if a = k then (k, v) :: r else (a, b) :: kset k v r

/-- What a keyed list holds for a key. -/
def kget {α β : Type} [DecidableEq α] (k : α) : List (α × β) → Option β
  | [] => none
  | (a, b) :: r => if a = k then some b else kget k r

/-- The element of a list at an index, by a function. -/
def setAt {α : Type} (l : List α) (i : Nat) (f : α → α) : List α := l.mapIdx (fun j x => if j = i then f x else x)

/-! ### Page cores -/

/-- A page core; one that has not begun reads as reset. -/
def State.core (s : State) (c : CoreRef) : PageCore := (kget c s.cores).getD PageCore.reset
def State.setCore (s : State) (c : CoreRef) (p : PageCore) : State := { s with cores := kset c p s.cores }
def State.mapCore (s : State) (c : CoreRef) (f : PageCore → PageCore) : State := s.setCore c (f (s.core c))

/-- PRIV, PPRIV and TIP of SSTAT (R198). -/
def PageCore.priv (p : PageCore) : Bool := p.sstat.getLsbD 1
def PageCore.ppriv (p : PageCore) : Bool := p.sstat.getLsbD 2
def PageCore.tip (p : PageCore) : Bool := p.sstat.getLsbD 3

/-- SSTAT from its three fields. -/
def mkSstat (tip ppriv priv : Bool) : DWord :=
  BitVec.ofNat 64 ((if tip then 8 else 0) + (if ppriv then 4 else 0) + (if priv then 2 else 0))

/-- The block of a page core at a place in flight, oldest first. -/
def PageCore.setBlock (p : PageCore) (i : Nat) (b : Block) : PageCore :=
  { p with blocks := setAt p.blocks i (fun _ => b) }

/-- The lane check of R102 and the lane commands read SEQ: NOLANE in bit 31, LANE in bits 8:0 (R324). -/
def seqNolane (v : DWord) : Bool := v.getLsbD 31
def seqLane (v : DWord) : Nat := v.toNat % 512
def genOf (v : DWord) : Nat := v.toNat % 2 ^ 16

/-! ### Launches and placements -/

/-- Fields of a launch record (R38). -/
def Launch.field (l : Launch) (lo n : Nat) : Nat := l.record.toNat / 2 ^ lo % 2 ^ n
def Launch.lid (l : Launch) : Nat := l.field 192 32
def Launch.asid (l : Launch) : Nat := l.field 32 16
def Launch.prio (l : Launch) : Nat := l.field 16 2
def Launch.aff (l : Launch) : Nat := l.field 160 16
def Launch.caddr (l : Launch) : Nat := l.field 352 56
def Launch.imageVa (l : Launch) : Nat := l.field 64 56
def Launch.entry (l : Launch) : Nat := l.field 48 16
def Launch.isReplay (l : Launch) : Bool := l.field 8 1 == 1
def Launch.strict (l : Launch) : Bool := l.field 9 1 == 1

def State.launch (s : State) (lid : Nat) : Option Launch := s.launches.find? (fun l => l.lid == lid)
def State.mapLaunch (s : State) (lid : Nat) (f : Launch → Launch) : State :=
  { s with launches := s.launches.map (fun l => if l.lid = lid then f l else l) }
def State.place (s : State) (lid pset : Nat) : Option Placed :=
  s.placed.find? (fun p => p.lid == lid && p.pset == pset)
def State.mapPlace (s : State) (lid pset : Nat) (f : Placed → Placed) : State :=
  { s with placed := s.placed.map (fun p => if p.lid = lid ∧ p.pset = pset then f p else p) }

/-- The address space of a launch: the base is the one in force when it was accepted (R37). -/
def Launch.space (l : Launch) : Nat := spaceOf l.asid l.base
def State.asidOf (s : State) (lid : Nat) : Nat := ((s.launch lid).map Launch.space).getD 0
/-- The address space in which an agent translates under an ASID. -/
def State.spaceFor (s : State) (o : TlbOwner) (asid : Nat) : Option Nat :=
  (s.launches.find? (fun l => l.asid == asid && (match o with
    | .core c => c.lid == l.lid
    | _ => true))).map Launch.space

/-- Is a launch recorded or replayed: has its record REPLAY = 1 (R220)? -/
def State.recorded (s : State) (lid : Nat) : Bool := (s.launch lid).any Launch.isReplay
def State.imageOf (s : State) (lid : Nat) : Option Image := (s.launch lid).bind (fun l => l.image)
/-- The die a page set stands on. -/
def State.dieOfPset (s : State) (lid pset : Nat) : Nat := ((s.place lid pset).map (fun p => p.die)).getD 0
/-- The memory-port die that serves a page set (R62). -/
def State.mdieOf (s : State) (lid pset : Nat) : Nat := ((s.place lid pset).map (fun p => p.mdie)).getD 8
/-- Page coordinates on the die. -/
def State.pageXY (s : State) (c : CoreRef) : Nat × Nat :=
  match s.place c.lid c.pset with
  | some p => (p.x + c.px, p.y + c.py)
  | none => (c.px, c.py)

/-- The launch is to end with a record; the first cause decides (R41, R197, R201). -/
def State.endWith (s : State) (lid : Nat) (e : EndRec) : State :=
  s.mapLaunch lid (fun l => if l.ending.isNone then { l with ending := some e } else l)

/-- A fault of an element, a memory node or a channel node, whose halt takes time to reach every region of the launch (R201). -/
def EndRec.spreads (e : EndRec) : Bool := e.status == 0x22 && decide (0x80 ≤ e.detail) && e.detail != 0x90 && e.detail != 0x91

/-- The lower die, then the lower plot row, then the lower plot column (R201). -/
def EndRec.before (a b : EndRec) : Bool :=
  decide (a.die < b.die) || (a.die == b.die && (decide (a.ploty < b.ploty) || (a.ploty == b.ploty && decide (a.plotx < b.plotx))))

/-- An element fault is reported: of several, before the halt has reached them all, the lowest place stands (R201). -/
def State.faultWith (s : State) (lid : Nat) (e : EndRec) : State :=
  s.mapLaunch lid (fun l => match l.ending with
    | none => { l with ending := some e }
    | some f => if f.spreads && e.before f then { l with ending := some e } else l)

/-- Halts every region of a launch that is to end (R201). -/
def State.haltLaunch (s : State) (lid : Nat) : State :=
  { s with placed := s.placed.map (fun p => if p.lid = lid then { p with quiesced := true } else p) }

/-- The halt sets out: which regions of the launch it has not reached yet is free (R201, log 94). -/
def State.haltSome (s : State) (lid : Nat) : State :=
  let s' : State := { s with placed := s.placed.map (fun p => if p.lid = lid ∧ s.freeAt 0 / 2 ^ p.pset % 2 = 0 then { p with quiesced := true } else p) }
  s'.useFree 1

/-- end_launch of R197: 0x22 FAULT, the cause in DETAIL, the page's lowest plot. -/
def endLaunch (s : State) (c : CoreRef) (status detail : Nat) : State :=
  let (x, y) := s.pageXY c
  s.endWith c.lid { status := status, detail := detail, die := s.dieOfPset c.lid c.pset, plotx := 4 * x, ploty := 4 * y }

/-! ### Taking an exception and returning from one -/

/-- Discards every uncommitted block: none of their effects is performed and their deferred loads are withdrawn (R197). -/
def discardBlocks (s : State) (c : CoreRef) : State :=
  let s := s.mapCore c (fun p => { p with blocks := [], responses := [] })
  { s with deferred := s.deferred.filter (fun d => match d.who with
      | .core c' _ _ _ => !decide (c' = c)
      | _ => true) }

/-- TCAUSE as R198 lays it out. -/
def mkCause (code lsid : Nat) (isDef more : Bool) : DWord :=
  BitVec.ofNat 64 ((if more then 2 ^ 31 else 0) + (if isDef then 2 ^ 30 else 0) + lsid % 32 * 2 ^ 16 + code % 2 ^ 16)

/-- The trap registers after a trap is taken: TCAUSE, TVAL, EPC and SSTAT (R197). -/
def PageCore.enterTrap (p : PageCore) (epc : Nat) (cause val : DWord) : PageCore :=
  { p with epc := BitVec.ofNat 64 epc, tcause := cause, tval := val, sstat := mkSstat true p.priv true
           nextAddr := some p.tvec.toNat }

/-- take_trap of R197: the blocks in flight are discarded; with no handler, or inside one, the launch ends;
otherwise EPC, TCAUSE, TVAL and SSTAT are written and the block at TVEC begins. -/
def takeTrap (s : State) (c : CoreRef) (epc : Nat) (code : Nat) (val : DWord) (lsid : Nat) (isDef more : Bool) : State :=
  let s := discardBlocks s c
  let p := s.core c
  if p.tvec = 0 ∨ p.tip then
    endLaunch (s.mapCore c (fun p => { p with nextAddr := none })) c 0x22 code
  else s.setCore c (p.enterTrap epc (mkCause code lsid isDef more) val)

/-- The return from a trap: PRIV := PPRIV, TIP := 0, and the block at EPC begins (R372). -/
def PageCore.leaveTrap (p : PageCore) : PageCore :=
  { p with sstat := mkSstat false p.ppriv p.ppriv, nextAddr := some p.epc.toNat }

/-- ERET at commit; a held commit trap is then taken with EPC unchanged (R371, R372). -/
def eretCore (s : State) (c : CoreRef) : State :=
  let s := s.mapCore c PageCore.leaveTrap
  let p := s.core c
  match p.heldTrap with
  | none => s
  | some (code, val) =>
    takeTrap (s.setCore c { p with heldTrap := none }) c p.epc.toNat code val 0 false false

/-! ### Blocks in flight -/

/-- The first fault of a block stands (R197). -/
def Block.fail (b : Block) (code : Nat) (val : DWord) (lsid : Nat) : Block :=
  if b.fault.isSome then b else { b with fault := some { code := code, val := val, lsid := lsid } }

/-- The word at a slot. -/
def Block.word (b : Block) (slot : Nat) : DWord := (b.words.getD slot 0).setWidth 64

/-- The value at a slot's operand position, once it has arrived. -/
def Block.operand (b : Block) (slot : Nat) (pos : Pos) : Option Img :=
  (b.ops.find? (fun o => o.slot == slot && o.pos == pos)).map (fun o => o.img)

/-- Delivers a result to the position a target field names; a second value is ILLEGAL_INSN with the receiving word (R250, R255). -/
def Block.deliver (b : Block) (t : BitVec 9) (img : Img) : Block :=
  if t = 0x1FF then b
  else
    let slot := t.toNat % 128
    let pos := Pos.ofCode (t.extractLsb' 7 2)
    if (b.operand slot pos).isSome then b.fail 1 (b.word slot) 0
    else { b with ops := b.ops ++ [{ slot := slot, pos := pos, img := img }] }

def Block.deliverAll (b : Block) (ts : List (BitVec 9)) (img : Img) : Block := ts.foldl (fun b t => b.deliver t img) b

/-- Records that a slot has fired and what it asks of the commit. -/
def Block.fire (b : Block) (slot : Nat) : Block := { b with fired := slot :: b.fired }
def Block.ask (b : Block) (slot lsid : Nat) (a : Act) : Block :=
  { b with done := b.done ++ [{ slot := slot, lsid := lsid, act := a }] }

/-- Has the slot fired or been nulled? -/
def Block.settled (b : Block) (slot : Nat) : Bool := b.fired.contains slot || b.nulled.contains slot

/-- The instruction at a slot. -/
def Block.insn (b : Block) (slot : Nat) : Option Instr :=
  match b.words[slot]? with
  | some w => (decodeWord w).toOption
  | none => none

/-- SATF8 and MODE of RMODE as the block began (R149). -/
def Block.mode (b : Block) : Nat := b.rmode.toNat % 8
def Block.satf8 (b : Block) : Bool := b.rmode.getLsbD 3

/-- Latches a deferred fault: the first stands and a second sets MORE; one that arrives inside a trap ends the launch (R199). -/
def latchFault (s : State) (c : CoreRef) (code va lsid : Nat) : State :=
  let p := s.core c
  if p.tip then endLaunch s c 0x22 code
  else match p.deferred with
    | none => s.setCore c { p with deferred := some { code := code, va := va, lsid := lsid } }
    | some d => s.setCore c { p with deferred := some { d with more := true } }

end Sys2Proof.Machine
end

