-- ==== Sys2Proof/Machine/Operands.lean ====
section
/-! DEFINITION. How an instruction fires (R247, R256, R262, R308): its operands, its predicate, where its result goes. -/
namespace Sys2Proof.Machine

/-- A firing in a C-block: the page core, the block in flight, the operands, the predicate's S. -/
structure CoreCtx where
  c : CoreRef
  pc : PageCore
  bi : Nat
  blk : Block
  slot : Nat
  a : Img
  b : Img
  x : Img
  ps : Bool

/-- A firing of one slot in an E-block: sixteen lanes of each operand, and the lanes that PRED lets fire. -/
structure ElemCtx where
  f : Firing
  slot : Nat
  a : List LaneV
  b : List LaneV
  x : List LaneV
  p : List LaneV

/-- What stands before a firing. -/
inductive Gate where
  | stop (r : Refusal)
  | wait
  | nulled (s : State)
  | core (x : CoreCtx)
  | elem (x : ElemCtx)

/-- Does PRED let a predicate's bit value fire (R256)? -/
def predFires (p : BitVec 2) (v : Img) : Bool :=
  if p = 0 then true else v.v.getLsbD 0 == (p == 1)

/-- Sixteen empty lanes. -/
def noLanes : List LaneV := List.replicate 16 {}

/-- The lanes that have arrived at a position of a slot of the firing element. -/
def Firing.operand (f : Firing) (slot : Nat) (pos : Pos) : Option (List LaneV) :=
  (f.ops.find? (fun o => o.1 == slot && o.2.1 == pos)).map (fun o => o.2.2)

/-- Puts a block back where it is in flight. -/
def CoreCtx.put (x : CoreCtx) (s : State) (b : Block) : State := s.setCore x.c (x.pc.setBlock x.bi b)

/-- The gate of R247 for an instruction with the given PRED and positions. -/
def gate (s : State) (p : BitVec 2) (uses : List Pos) : Gate :=
  match s.focus with
  | .idle => .stop .notRunning
  | .core c bi slot =>
    let pc := s.core c
    match pc.blocks[bi]? with
    | none => .stop .notRunning
    | some blk =>
      if blk.settled slot || blk.fault.isSome then .wait
      else if uses.all (fun q => (blk.operand slot q).isSome) && (p == 0 || (blk.operand slot .pred).isSome) then
        let pv := (blk.operand slot .pred).getD {}
        let x : CoreCtx :=
          { c := c, pc := pc, bi := bi, blk := blk, slot := slot
            a := (blk.operand slot .left).getD {}, b := (blk.operand slot .right).getD {}
            x := (blk.operand slot .third).getD {}, ps := p != 0 && pv.s }
        if predFires p pv then .core x
        else .nulled (x.put s { blk with nulled := slot :: blk.nulled })
      else .wait
  | .elem slot =>
    match s.firing with
    | none => .stop .notRunning
    | some f =>
      if f.fired.contains slot || f.fault.isSome then .wait
      else if uses.all (fun q => (f.operand slot q).isSome) && (p == 0 || (f.operand slot .pred).isSome) then
        .elem { f := f, slot := slot, a := (f.operand slot .left).getD noLanes, b := (f.operand slot .right).getD noLanes
                x := (f.operand slot .third).getD noLanes
                p := if p = 0 then List.replicate 16 { val := some ⟨1, false⟩ } else
                  ((f.operand slot .pred).getD noLanes).map (fun l =>
                    { l with val := l.val.map (fun v => ⟨if predFires p v then 1 else 0, v.s⟩) }) }
      else .wait

/-- Delivers lanes to a target; a second value in one firing is EB_CONFLICT (R251). -/
def Firing.deliver (f : Firing) (t : BitVec 9) (ls : List LaneV) : Firing :=
  if t = 0x1FF then f
  else
    let slot := t.toNat % 128
    let pos := Pos.ofCode (t.extractLsb' 7 2)
    if (f.operand slot pos).isSome then { f with fault := some (f.fault.getD 0x92) }
    else { f with ops := f.ops ++ [(slot, pos, ls)] }

def Firing.deliverAll (f : Firing) (ts : List (BitVec 9)) (ls : List LaneV) : Firing :=
  ts.foldl (fun f t => f.deliver t ls) f

/-- What an ALU function may read beside its operands: the width, the rounding mode and SATF8 of its block. -/
structure AluEnv where
  n : Nat
  mode : Nat := 0
  satf8 : Bool := false

/-- The highest rank of the lanes an instruction used (R308). -/
def rankMax (ls : List LaneV) : Nat := ls.foldl (fun r l => max r l.rank) 0

/-- Does the predicate let this lane fire? -/
def LaneV.fires (p : LaneV) : Bool :=
  match p.val with
  | some v => v.v == 1
  | none => false

/-- An image with a predicate's S ORed in (R158, R256); the header of a record or of a tagged beat is data and has none (R310, R315). -/
def Img.orS (v : Img) (fmt : Nat) (s : Bool) : Img := if fmt = 18 then v else ⟨v.v, v.s || s⟩

/-- One lane of a result: empty when a used lane is empty or the predicate nulls the lane (R262).
`fm` gives the format of the result's image from those of the left and right lanes and the third image. -/
def laneResult (used : List LaneV) (p : LaneV) (pr : Bool) (fm : Nat → Nat → Img → Nat) (r : Img → Img → Img → Img)
    (a b c : LaneV) : LaneV :=
  let rank := rankMax (if pr then p :: used else used)
  let va := a.val.getD {}
  let vb := b.val.getD {}
  let vc := c.val.getD {}
  let f := fm a.fmt b.fmt vc
  if p.fires && used.all (fun l => l.val.isSome) then
    { val := some ((r va vb vc).orS f (p.val.getD {}).s), rank := rank, fmt := f }
  else { val := none, rank := rank, fmt := f }

/-- The lanes among a, b, c that the given positions use. -/
def usedLanes (uses : List Pos) (a b c : LaneV) : List LaneV :=
  uses.map (fun q => match q with
    | .left => a
    | .right => b
    | .third => c
    | .pred => {})

/-- Applies a lane function to all sixteen lanes of a firing slot. -/
def ElemCtx.lanes (x : ElemCtx) (p : BitVec 2) (uses : List Pos) (fm : Nat → Nat → Img → Nat)
    (r : Img → Img → Img → Img) : List LaneV :=
  (List.range 16).map (fun i =>
    let a := x.a.getD i {}
    let b := x.b.getD i {}
    let c := x.x.getD i {}
    laneResult (usedLanes uses a b c) (x.p.getD i {}) (p != 0) fm r a b c)

/-- The lanes of an operand as a predicated instruction that places or keeps them sees them: a nulled lane is empty,
ranks and S of the predicate are taken in (R256, R262, R308). -/
def ElemCtx.masked (x : ElemCtx) (p : BitVec 2) (a : List LaneV) : List LaneV :=
  (List.range 16).map (fun i =>
    let l := a.getD i {}
    let q := x.p.getD i {}
    { val := if q.fires then l.val.map (fun v => v.orS l.fmt (q.val.getD {}).s) else none
      rank := if p = 0 then l.rank else max l.rank q.rank, fmt := l.fmt })

/-- The slot of the firing element has fired: its lanes go to its targets. -/
def ElemCtx.finish (x : ElemCtx) (s : State) (ts : List (BitVec 9)) (ls : List LaneV) : State :=
  { s with firing := some ({ x.f with fired := x.slot :: x.f.fired }.deliverAll ts ls) }

/-- The slot of the firing element has fired and changes what the firing holds. -/
def ElemCtx.mark (x : ElemCtx) (s : State) (g : Firing → Firing) : State :=
  { s with firing := some (g { x.f with fired := x.slot :: x.f.fired }) }

/-- The slot of a block has fired: its flags wait for commit, its result goes to its targets with the predicate's S (R256). -/
def CoreCtx.finish (x : CoreCtx) (s : State) (ts : List (BitVec 9)) (r : AluRes) : State :=
  x.put s (({ x.blk.fire x.slot with flags := x.blk.flags.or r.fl }).deliverAll ts ⟨r.img.v, r.img.s || x.ps⟩)

/-- The environment of a C-block and of an element. -/
def CoreCtx.env (x : CoreCtx) : AluEnv := { n := 64, mode := x.blk.mode, satf8 := x.blk.satf8 }
def ElemCtx.env (x : ElemCtx) : AluEnv := { n := 32, satf8 := x.f.code.satf8 }

/-- The formats of results: an integer of 32 bits, a WF value, a storage code, the left operand's (R156, R261, R283). -/
def fmInt : Nat → Nat → Img → Nat := fun _ _ _ => 13
def fmWf : Nat → Nat → Img → Nat := fun _ _ _ => 16
def fmCode (f : BitVec 4) : Nat → Nat → Img → Nat := fun _ _ _ => f.toNat
def fmLeft : Nat → Nat → Img → Nat := fun a _ _ => a
/-- SEL: the chosen operand's (R281). -/
def fmSel : Nat → Nat → Img → Nat := fun a b c => if c.v.getLsbD 0 then a else b

/-- The firing of an instruction that only computes: once at 64 bits in a C-block, lane by lane at 32 bits in an E-block
(R247, R261, R262). -/
def execAlu (s : State) (p : BitVec 2) (ts : List (BitVec 9)) (uses : List Pos) (fm : Nat → Nat → Img → Nat)
    (f : AluEnv → Img → Img → Img → AluRes) : Host.Outcome State Fault Refusal :=
  match gate s p uses with
  | .stop r => .refused r
  | .wait => .next s
  | .nulled s' => .next s'
  | .core x => .next (x.finish s ts (f x.env x.a x.b x.x))
  | .elem x => .next (x.finish s ts (x.lanes p uses fm (fun a b c => (f x.env a b c).img)))

/-- The firing of an instruction of C-blocks only (R257). -/
def execCore (s : State) (p : BitVec 2) (uses : List Pos) (f : CoreCtx → State) : Host.Outcome State Fault Refusal :=
  match gate s p uses with
  | .stop r => .refused r
  | .wait => .next s
  | .nulled s' => .next s'
  | .core x => .next (f x)
  | .elem _ => .refused .wrongBlock

/-- The firing of an instruction of E-blocks only (R257). -/
def execElem (s : State) (p : BitVec 2) (uses : List Pos) (f : ElemCtx → State) : Host.Outcome State Fault Refusal :=
  match gate s p uses with
  | .stop r => .refused r
  | .wait => .next s
  | .nulled s' => .next s'
  | .core _ => .refused .wrongBlock
  | .elem x => .next (f x)

/-- The firing of an instruction with a meaning of its own in each kind of block (R257). -/
def execBoth (s : State) (p : BitVec 2) (uses : List Pos) (f : CoreCtx → State) (g : ElemCtx → State) :
    Host.Outcome State Fault Refusal :=
  match gate s p uses with
  | .stop r => .refused r
  | .wait => .next s
  | .nulled s' => .next s'
  | .core x => .next (f x)
  | .elem x => .next (g x)

/-- A slot that fires and delivers an image in a C-block. -/
def CoreCtx.give (x : CoreCtx) (s : State) (t : BitVec 9) (img : Img) : State := x.finish s [t] { img := img }

/-- A slot that fires and asks something of the commit. -/
def CoreCtx.ask (x : CoreCtx) (s : State) (lsid : Nat) (a : Act) : State :=
  x.put s ((x.blk.fire x.slot).ask x.slot lsid a)

/-- A slot that fires with flags, which wait for commit, and asks something of the commit. -/
def CoreCtx.askWith (x : CoreCtx) (s : State) (lsid : Nat) (fl : Flags) (a : Act) : State :=
  x.put s ({ x.blk.fire x.slot with flags := x.blk.flags.or fl }.ask x.slot lsid a)

/-- A slot fires, asks something of the commit, and delivers a value at once. -/
def CoreCtx.askGive (x : CoreCtx) (s : State) (lsid : Nat) (a : Act) (t : BitVec 9) (img : Img) : State :=
  x.put s (((x.blk.fire x.slot).ask x.slot lsid a).deliver t ⟨img.v, img.s || x.ps⟩)

/-- A slot whose firing is found to fault: the fault is recorded against the block (R197, R333). -/
def CoreCtx.fail (x : CoreCtx) (s : State) (code : Nat) (val : DWord) (lsid : Nat) : State :=
  x.put s (x.blk.fail code val lsid)

/-- ILLEGAL_INSN with the instruction's own word. -/
def CoreCtx.illegal (x : CoreCtx) (s : State) (lsid : Nat) : State := x.fail s 1 (x.blk.word x.slot) lsid

end Sys2Proof.Machine
end

