-- ==== Sys2Proof/Machine/Shape.lean ====
section
/-! DEFINITION. The shape of a tile register and where its elements stand (R147, R169). -/
namespace Sys2Proof.Machine

/-- Fields of a TSH register (R169). -/
def tshRows (v : DWord) : Nat := v.toNat % 128 + 1
def tshCols (v : DWord) : Nat := v.toNat / 2 ^ 8 % 256 + 1
def tshType (v : DWord) : Nat := v.toNat / 2 ^ 16 % 32
def tshSeq (v : DWord) : Nat := v.toNat / 2 ^ 48

/-- Bytes of the elements of a row, and with them the scale bytes of an MX row (R169). -/
def rowElemBytes (v : DWord) : Nat := (tshCols v * fmtWidth (tshType v) + 7) / 8
def rowBytes (v : DWord) : Nat := rowElemBytes v + (if fmtIsMx (tshType v) then tshCols v / 32 else 0)

/-- The multiple that the column count of a format must be (R169). -/
def colMultiple (f : Nat) : Nat :=
  if fmtIsMx f then 32 else if fmtWidth f = 4 then 2 else 1

/-- A legal shape (R169). -/
def shapeOk (v : DWord) : Bool :=
  decide (tshType v ≤ 13) && tshCols v % colMultiple (tshType v) == 0 && decide (tshRows v * rowBytes v ≤ 16384)

/-- The value with FSEQ raised by one and the shape given (R170, R171). -/
def tshNext (old shape : DWord) : DWord :=
  BitVec.ofNat 64 ((tshSeq old + 1) % 2 ^ 16 * 2 ^ 48 + shape.toNat % 2 ^ 21)

end Sys2Proof.Machine
end

