-- ==== Sys2Proof/Machine/TileData.lean ====
section
/-! DEFINITION. Tile registers as data: elements, shapes after each tile instruction, the shadow of R358, passes of the array
(R146, R147, R162, R169 to R171, R361 to R370). -/
namespace Sys2Proof.Machine

/-! ### Bytes and elements -/

/-- The bytes of one tile register that are not zero, by offset. -/
abbrev Tile := List (Nat × Byte)

def PageCore.tile (p : PageCore) (k : Nat) : Tile := if h : k < 16 then p.tiles[k] else []
def PageCore.setTile (p : PageCore) (k : Nat) (t : Tile) : PageCore :=
  if h : k < 16 then { p with tiles := p.tiles.set k t } else p
def PageCore.tshOf (p : PageCore) (k : Nat) : DWord := if h : k < 16 then p.tsh[k] else 0

def Tile.byte (t : Tile) (o : Nat) : Byte := cellGet 0 o t
def Tile.setByte (t : Tile) (o : Nat) (b : Byte) : Tile := cellSet 0 o b t

/-- Writes bytes from an offset upwards. -/
def Tile.setBytes (t : Tile) (o : Nat) : List Byte → Tile
  | [] => t
  | b :: bs => Tile.setBytes (t.setByte o b) (o + 1) bs

/-- The bit at which element (i, j) starts (R147, R169). -/
def elemBit (v : DWord) (i j : Nat) : Nat := 8 * (i * rowBytes v) + j * fmtWidth (tshType v)

/-- The code of element (i, j). -/
def Tile.code (t : Tile) (v : DWord) (i j : Nat) : Nat :=
  let o := elemBit v i j
  leNat ((List.range 5).map (fun k => t.byte (o / 8 + k))) / 2 ^ (o % 8) % 2 ^ fmtWidth (tshType v)

/-- Writes the code of element (i, j). -/
def Tile.setCode (t : Tile) (v : DWord) (i j code : Nat) : Tile :=
  let o := elemBit v i j
  let w := fmtWidth (tshType v)
  let old := leNat ((List.range 5).map (fun k => t.byte (o / 8 + k)))
  let cleared := old - old / 2 ^ (o % 8) % 2 ^ w * 2 ^ (o % 8)
  t.setBytes (o / 8) (leBytes 5 (cleared + code % 2 ^ w * 2 ^ (o % 8)))

/-- The E8M0 scale of the block that holds element (i, j); 127 outside MX formats (R147, R362). -/
def Tile.scale (t : Tile) (v : DWord) (i j : Nat) : Nat :=
  if fmtIsMx (tshType v) then (t.byte (i * rowBytes v + rowElemBytes v + j / 32)).toNat else 127

/-- The WF value of a code under a scale: scale 0xFF is NaN (R147). -/
def scaledWf (code f scale : Nat) : Img :=
  if scale = 0xFF then wfNaN else toWf code f ((scale : Int) - 127) false

/-- The cells (i, j) of a shape, row by row. -/
def cellsOf (v : DWord) : List (Nat × Nat) :=
  (List.range (tshRows v)).flatMap (fun i => (List.range (tshCols v)).map (fun j => (i, j)))

/-- The code of TFILL (R361), of ST and of STRM: final_round for a floating format, sat for an integer one. -/
def fillCode (a : Img) (f mode : Nat) (satf8 : Bool) : Nat :=
  if fmtIsInt f then bitsOf (fmtWidth f) (satInt (if fmtUnsigned f then (a.v.toNat : Int) else a.v.toInt) f)
  else (finalRound a f mode satf8).code

/-- Every element of the shape takes one code (R361). -/
def Tile.fill (t : Tile) (v : DWord) (code : Nat) : Tile :=
  (cellsOf v).foldl (fun t (c : Nat × Nat) => t.setCode v c.1 c.2 code) t

/-- The shape of a transposed tile (R361). -/
def transposeShape (v : DWord) : DWord :=
  BitVec.ofNat 64 (tshType v * 2 ^ 16 + (tshRows v - 1) * 2 ^ 8 + (tshCols v - 1) % 128)

/-- The transpose of a tile: zero in every byte that holds no element. -/
def Tile.transpose (t : Tile) (v : DWord) : Tile :=
  (cellsOf v).foldl (fun r (c : Nat × Nat) => Tile.setCode r (transposeShape v) c.2 c.1 (t.code v c.1 c.2)) []

/-! ### Formats of the array (R362) -/

/-- Class (true: integer) and packing factor of a format that may enter the array. -/
def packOf (f : Nat) : Option (Bool × Nat) :=
  match f with
  | 0 => some (false, 1)
  | 3 => some (false, 2)
  | 4 => some (false, 2)
  | 5 => some (false, 2)
  | 6 => some (false, 2)
  | 7 => some (false, 4)
  | 8 => some (true, 2)
  | 9 => some (true, 2)
  | 10 => some (true, 4)
  | 11 => some (true, 4)
  | _ => none

/-- Fields of the control operand of MMA and MMAS (R366). -/
def mmaQ (ctl : DWord) : Nat := ctl.toNat % 4
def mmaZ (ctl : DWord) : Bool := ctl.getLsbD 2
def mmaTA (ctl : DWord) : Nat := ctl.toNat / 2 ^ 4 % 16
def mmaTW (ctl : DWord) : Nat := ctl.toNat / 2 ^ 8 % 16

/-! ### The shadow (R358) -/

/-- What tile instructions leave behind for the checks of later ones: shapes, accumulator classes (0 empty, 1 float,
2 integer), active and preload weight formats. -/
structure Shadow where
  tsh : Vector DWord 16
  acc : Vector Nat 4
  act : Nat
  pre : Nat
  deriving DecidableEq, Repr

def Shadow.shape (h : Shadow) (k : Nat) : DWord := if hk : k < 16 then h.tsh[k] else 0

/-- A shape register with FSEQ advanced. -/
def tshSet (t : Vector DWord 16) (k : Nat) (shape : DWord) : Vector DWord 16 :=
  if h : k < 16 then t.set k (tshNext t[k] shape) else t
def tshBump (t : Vector DWord 16) (k : Nat) : Vector DWord 16 :=
  if h : k < 16 then t.set k (tshNext t[k] t[k]) else t

/-- The shape registers after one tile instruction (R170, R171, R361). -/
def tshAfter (t : Vector DWord 16) (op : TileOp) : Vector DWord 16 :=
  match op with
  | .tld k _ _ => tshBump t k
  | .zero k => tshBump t k
  | .reshape k shape => tshSet t k (shape.setWidth 64)
  | .mov k j tr =>
    let v := if h : j < 16 then t[j] else 0
    tshSet t k (if tr then transposeShape v else v)
  | .fill k _ => tshBump t k
  | .accd k _ _ _ => tshBump t k
  | .topk _ ctl =>
    let t := tshBump t (ctl.toNat % 16)
    if ctl.getLsbD 8 then tshBump t (ctl.toNat / 16 % 16) else t
  | .setTsh k v => tshSet t k v
  | .stream k fill => if fill then tshBump t k else t
  | _ => t

/-- The shadow after one tile instruction. -/
def Shadow.after (h : Shadow) (op : TileOp) : Shadow :=
  let t := tshAfter h.tsh op
  let setAcc (a : Vector Nat 4) (q c : Nat) : Vector Nat 4 := if hq : q < 4 then a.set q c else a
  let pass (k : Nat) (ctl : DWord) : Vector Nat 4 :=
    let v := h.shape k
    let c := match packOf (tshType v) with
      | some (true, _) => 2
      | _ => 1
    (List.range (tshRows v)).foldl (fun a i => setAcc a (mmaQ ctl + i) c) h.acc
  match op with
  | .wloadT ctl => { h with pre := tshType (h.shape (ctl.toNat % 16)) }
  | .wloadW ctl _ => { h with pre := ctl.toNat % 16 }
  | .wswap => { h with act := h.pre, pre := h.act }
  | .mma k ctl => { h with acc := pass k ctl }
  | .mmas k ctl => { h with acc := pass k ctl }
  | .accz m => { h with acc := (List.range 4).foldl (fun a q => if m.getLsbD q then setAcc a q 0 else a) h.acc }
  | .accd _ ctl _ _ => { h with tsh := t, acc := if ctl.getLsbD 15 then setAcc h.acc (ctl.toNat % 4) 0 else h.acc }
  | _ => { h with tsh := t }

/-- The shape registers as every committed block leaves them, whatever is still in tile issue order (R266, R358). -/
def PageCore.tshLeft (p : PageCore) : Vector DWord 16 := p.tileQ.foldl (fun t i => tshAfter t i.op) p.tsh

/-- The context that a page runs: the counter of its plots (R125, R126). -/
def State.pageCtx (s : State) (g : PageRef) : Nat :=
  ((s.plots.find? (fun q => q.lid == g.lid && q.pset == g.pset && q.x / 4 == g.px && q.y / 4 == g.py)).map
    (fun q => q.ctx)).getD 0

def pageOf (c : CoreRef) : PageRef := { lid := c.lid, pset := c.pset, px := c.px, py := c.py }

/-- The array or sort network of a page in its active context (R129, R130). -/
def State.arrayOf (s : State) (g : PageRef) : Option ArrayUnit :=
  s.arrays.find? (fun a => decide (a.page = g) && a.ctx == s.pageCtx g)

def ArrAcc.cls : ArrAcc → Nat
  | .empty => 0
  | .flt _ => 1
  | .int _ => 2

/-- The tile instruction that a performed act is, if it is one. -/
def Act.tileOp : Act → Option TileOp
  | .tile op => some op
  | .setc n v => if 0x10 ≤ n ∧ n < 0x20 then some (.setTsh (n - 0x10) v) else none
  | .stream c => match c.tile with
    | some k => some (.stream k (!c.ld))
    | none => none
  | _ => none

/-- The shadow before a slot of a block in flight. -/
def CoreCtx.shadow (x : CoreCtx) (s : State) : Shadow :=
  let a := s.arrayOf (pageOf x.c)
  let h0 : Shadow :=
    { tsh := x.pc.tsh, acc := (a.map (fun a => a.accs.map ArrAcc.cls)).getD (Vector.replicate 4 0)
      act := (a.map (fun a => a.active.fmt)).getD 0, pre := (a.map (fun a => a.preload.fmt)).getD 0 }
  let h1 := x.pc.tileQ.foldl (fun h i => h.after i.op) h0
  let ops (b : Block) (bound : Nat) : List TileOp :=
    (List.range bound).flatMap (fun j => if b.phase ≠ 0 then [] else
      b.done.filterMap (fun d => if d.slot = j then d.act.tileOp else none))
  let h2 := (x.pc.blocks.take x.bi).foldl (fun h b => (ops b 128).foldl Shadow.after h) h1
  (ops x.blk x.slot).foldl Shadow.after h2

/-- The tile instructions (R358). -/
def isTileInsn : Instr → Bool
  | .tld _ _ _ => true
  | .tst _ _ _ => true
  | .tzero _ _ => true
  | .treshape _ _ => true
  | .tmov _ _ => true
  | .tfill _ _ => true
  | .wloadT _ => true
  | .wloadW _ => true
  | .wswap _ => true
  | .mma _ _ => true
  | .mmas _ _ => true
  | .accz _ _ => true
  | .accd _ _ => true
  | .topk _ _ => true
  | .strmTile _ _ _ _ => true
  | .setc _ n => decide (0x10 ≤ n.toNat ∧ n.toNat < 0x20)
  | _ => false

/-- Has every tile instruction of a block below a slot fired or been nulled? -/
def Block.tilesSettled (b : Block) (bound : Nat) : Bool :=
  (List.range (min bound b.words.length)).all (fun j =>
    match b.insn j with
    | some i => !isTileInsn i || b.settled j
    | none => true)

/-- Is the shadow known at this slot (R358)? -/
def CoreCtx.tileReady (x : CoreCtx) : Bool :=
  (x.pc.blocks.take x.bi).all (fun b => b.tilesSettled 128) && x.blk.tilesSettled x.slot

/-! ### Passes of the array (R162, R366, R367) -/

/-- An exact value that may be no number or infinite. -/
inductive Exact where
  | nan
  | inf (neg : Bool)
  | num (x : Dy)
  deriving DecidableEq, Repr

def Img.exact (a : Img) : Exact :=
  match a.wf with
  | .nan => .nan
  | .inf n => .inf n
  | w => .num w.dy

/-- The exact product; infinity times zero is no number. -/
def Exact.mul : Exact → Exact → Exact
  | .nan, _ => .nan
  | _, .nan => .nan
  | .inf a, .inf b => .inf (a != b)
  | .inf a, .num y => if y.n = 0 then .nan else .inf (a != decide (y.n < 0))
  | .num x, .inf b => if x.n = 0 then .nan else .inf (b != decide (x.n < 0))
  | .num x, .num y => .num (x.mul y)

/-- The exact sum; infinities of unlike sign are no number. -/
def Exact.add : Exact → Exact → Exact
  | .nan, _ => .nan
  | _, .nan => .nan
  | .inf a, .inf b => if a = b then .inf a else .nan
  | .inf a, _ => .inf a
  | _, .inf b => .inf b
  | .num x, .num y => .num (x.add y)

/-- next(x, y) of R366 for the float class: a WF sum and an exact group sum. -/
def nextFlt (s : Img) (g : Exact) : Img :=
  match s.wf, g with
  | .nan, _ => wfNaN
  | _, .nan => wfNaN
  | .inf a, .inf b => if a = b then wfInf a s.s else wfNaN
  | .inf a, _ => wfInf a s.s
  | _, .inf b => wfInf b false
  | w, .num y => (sumRes (w.dy.add y) s.s).img

/-- The clamp to the 48-bit signed range. -/
def clamp48 (x : Int) : Int := min (max x (-(2 ^ 47))) (2 ^ 47 - 1)

/-- The weight code and scale of a cell (R362): position u of array row q, column j. -/
def Weights.code (w : Weights) (q j u : Nat) : Nat := cellGet 0 ((q * 128 + j) * 4 + u) w.codes
def Weights.scale (w : Weights) (q j : Nat) : Nat := cellGet 127 (q * 128 + j) w.scales

/-- An activation tile with its shape. -/
structure TileView where
  t : Tile
  v : DWord

/-- The group sum of one array row for one column: the activation's columns start at `col`, float class. -/
def groupFlt (a : TileView) (w : Weights) (p i q col j : Nat) : Exact :=
  (List.range p).foldl (fun g u =>
    let x := (scaledWf (a.t.code a.v i (col + u)) (tshType a.v) (a.t.scale a.v i (col + u))).exact
    let y := (scaledWf (w.code q j u) w.fmt (w.scale q j)).exact
    g.add (x.mul y)) (.num ⟨0, 0⟩)

/-- The same for the integer class. -/
def groupInt (a : TileView) (w : Weights) (p i q col j : Nat) : Int :=
  (List.range p).foldl (fun g u =>
    g + intOfCode (a.t.code a.v i (col + u)) (tshType a.v) * intOfCode (w.code q j u) w.fmt) 0

/-- One pass: row i of the activation into an accumulator. `rows` lists the array rows that take part, in ascending order, each
with the first activation column that feeds it. -/
def passRow (a : TileView) (w : Weights) (i : Nat) (rows : List (Nat × Nat)) (acc : ArrAcc) : ArrAcc :=
  match packOf (tshType a.v) with
  | none => acc
  | some (true, p) =>
    let sums := (List.range 128).map (fun j =>
      rows.foldl (fun s (r : Nat × Nat) => clamp48 (s + groupInt a w p i r.1 r.2 j)) (0 : Int))
    match acc with
    | .int cs => .int ((cs.zip sums).map (fun (e : Int × Int) => clamp48 (e.1 + e.2)))
    | _ => .int sums
  | some (false, p) =>
    let sums := (List.range 128).map (fun j =>
      rows.foldl (fun s (r : Nat × Nat) => nextFlt s (groupFlt a w p i r.1 r.2 j)) (wfZero false false))
    match acc with
    | .flt cs => .flt ((cs.zip sums).map (fun (e : Img × Img) => (wfAdd e.1 e.2).img))
    | _ => .flt sums

/-- The array rows of MMA (R366). -/
def mmaRows (v : DWord) : List (Nat × Nat) :=
  match packOf (tshType v) with
  | none => []
  | some (_, p) => (List.range ((tshCols v + p - 1) / p)).map (fun q => (q, p * q))

/-- The entries of a coordinate list up to its first break (R367). -/
def coordsFrom : Option Nat → List Nat → List Nat
  | _, [] => []
  | prev, x :: r =>
    if x = 0xFFFFFFFF ∨ prev.any (fun y => decide (x ≤ y)) then [] else x :: coordsFrom (some x) r

/-- The array rows of MMAS (R367): the matched blocks of sixteen rows, in ascending coordinate. -/
def mmasRows (v : DWord) (ta tw : List Nat) : List (Nat × Nat) :=
  match packOf (tshType v) with
  | none => []
  | some (_, p) =>
    let ca := coordsFrom none ta
    (coordsFrom none tw).zipIdx.flatMap (fun (e : Nat × Nat) =>
      match ca.findIdx? (fun y => y == e.1) with
      | none => []
      | some i => (List.range 16).map (fun r => (16 * e.2 + r, (16 * i + r) * p)))

/-- The codes of a one-row tile. -/
def Tile.row (t : Tile) (v : DWord) (i : Nat) : List Nat := (List.range (tshCols v)).map (fun j => t.code v i j)

/-- The code ACCD writes for a column (R368). -/
def drainCode (acc : ArrAcc) (j f mode : Nat) (satf8 : Bool) : Nat :=
  match acc with
  | .empty => 0
  | .flt cs => (finalRound (cs.getD j {}) f mode satf8).code
  | .int cs =>
    let y := satInt (cs.getD j 0) 13
    if fmtIsInt f then bitsOf (fmtWidth f) (satInt y f)
    else (finalRound (toWf (bitsOf 32 y) 13 0 false) f mode satf8).code

/-! ### Keys (R130, R370) -/

/-- Does key a leave before key b? Least or greatest first, NaNs last (R130). -/
def keyBefore (desc : Bool) (a b : Wf) : Bool :=
  if a.isNaN then false
  else if b.isNaN then true
  else if desc then decide (0 < wfCmp a b) else decide (wfCmp a b < 0)

/-- Puts a candidate into a sorted list, behind every candidate that it does not precede. -/
def insertKey (desc : Bool) (k : Wf × Int × Nat) : List (Wf × Int × Nat) → List (Wf × Int × Nat)
  | [] => [k]
  | h :: r =>
    if keyBefore desc k.1 h.1 || (!keyBefore desc h.1 k.1 && (decide (k.2.1 < h.2.1) || (k.2.1 == h.2.1 && decide (k.2.2 < h.2.2))))
    then k :: h :: r else h :: insertKey desc k r

/-- Candidates (key, index, column) in order. -/
def sortKeys (desc : Bool) (l : List (Wf × Int × Nat)) : List (Wf × Int × Nat) :=
  l.foldl (fun r k => insertKey desc k r) []

/-- Fields of TOPK's control operand (R370). -/
def topkD (ctl : DWord) : Nat := ctl.toNat % 16
def topkV (ctl : DWord) : Nat := ctl.toNat / 2 ^ 4 % 16
def topkVE (ctl : DWord) : Bool := ctl.getLsbD 8
def topkDir (ctl : DWord) : Bool := ctl.getLsbD 9
def topkIX (ctl : DWord) : Bool := ctl.getLsbD 10
def topkIT (ctl : DWord) : Nat := ctl.toNat / 2 ^ 12 % 16
def topkK (ctl : DWord) : Nat := ctl.toNat / 2 ^ 16 % 512 + 1

/-- The candidates of row i in order: key, index, column. Indices of IT are I32 numbers. -/
def topkRow (k : TileView) (it : Option TileView) (desc : Bool) (i : Nat) : List (Wf × Int × Nat) :=
  sortKeys desc ((List.range (tshCols k.v)).map (fun c =>
    ((toWf (k.t.code k.v i c) (tshType k.v) 0 false).wf,
      match it with
      | some x => intOfCode (x.t.code x.v i c) 13
      | none => (c : Int), c)))

end Sys2Proof.Machine
end

