-- ==== Sys2Proof/Machine/Control.lean ====
section
/-! DEFINITION. Registers, constants, control registers and the exits of a block (R265 to R271). -/
namespace Sys2Proof.Machine

/-! ### Values a page core reads -/

/-- The register that an act of commit gives a value (SETR) or passes on (NULLW), with the value. -/
def Act.naming : Act → Option (Nat × Option Img)
  | .setr k x => some (k, some x)
  | .nullr k => some (k, none)
  | _ => none
/-- The register that an act names. -/
def Act.named (a : Act) : Option Nat := a.naming.map Prod.fst

/-- Is the act an exit of its block? -/
def Act.exits : Act → Bool
  | .exit _ => true
  | .call _ => true
  | .ret _ => true
  | .eret => true
  | _ => false

/-- What an older block in flight says of a register: none, it does not name it; some none, the value is not produced yet. -/
def Block.regOut (b : Block) (k : Nat) : Option (Option (Option Img)) :=
  if !b.wmask.getLsbD k then none
  else some ((b.done.find? (fun d => d.act.named == some k)).bind (fun d => d.act.naming.map Prod.snd))

/-- The value of a register as seen by a block with the given older blocks, youngest first (R247). -/
def regSeen (committed : Img) (k : Nat) : List Block → Option Img
  | [] => some committed
  | b :: older =>
    match b.regOut k with
    | none => regSeen committed k older
    | some none => none
    | some (some (some x)) => some x
    | some (some none) => regSeen committed k older

def PageCore.reg (p : PageCore) (k : Nat) : Img := if h : k < 32 then p.g[k] else {}

/-- GETR's value for a block at a place in flight. -/
def PageCore.getr (p : PageCore) (bi k : Nat) : Option Img := regSeen (p.reg k) k (p.blocks.take bi).reverse

/-- DIE_ID of a die (R10). -/
def dieId (d : Nat) : Nat :=
  if d < 16 then d / 8 * 2 ^ 14 + dieRow d * 2 ^ 12 + dieCol d * 2 ^ 10 + d else 2 * 2 ^ 14 + d

/-- CORE of a page at (x, y) of a fabric die (R267). -/
def coreNum (s : State) (d x y : Nat) : Nat :=
  75 * d + ((List.range (9 * y + x)).filter (fun i => s.exposed d (i % 9) (i / 9))).length

/-- GIDX of a page core (R69): of the sections rooted on its page, else of its page set. -/
def gidxOf (s : State) (c : CoreRef) : Nat :=
  let mine := s.armings.filter (fun a => a.lid == c.lid && a.page.pset == c.pset)
  let here := mine.filter (fun a => a.page.px == c.px && a.page.py == c.py)
  match (if here.isEmpty then mine else here).map (fun a => a.group) with
  | [] => 0xFFFFFFFF
  | g :: gs => gs.foldl min g

/-- GCOUNT of a launch (R70). -/
def gcountOf (s : State) (lid : Nat) : Nat := ((s.launch lid).map (fun l => l.gcount)).getD 0

/-- The number of a TSH register. -/
def isTsh (n : Nat) : Bool := decide (0x10 ≤ n ∧ n < 0x20)

/-- What GETC delivers for a control register (R266). -/
def readControl (s : State) (c : CoreRef) (n : Nat) : DWord :=
  let p := s.core c
  let d := s.dieOfPset c.lid c.pset
  let (x, y) := s.pageXY c
  match n with
  | 0x00 => BitVec.ofNat 64 (coreNum s d x y)
  | 0x01 => BitVec.ofNat 64 (c.pset % 2 ^ 16 * 2 ^ 16 + c.py * 2 ^ 12 + c.px * 2 ^ 8 + y * 16 + x)
  | 0x02 => BitVec.ofNat 64 (dieId d)
  | 0x03 => BitVec.ofNat 64 (gidxOf s c)
  | 0x04 => BitVec.ofNat 64 (gcountOf s c.lid)
  | 0x08 => p.rmode.setWidth 64
  | 0x09 => p.fstat.setWidth 64
  | 0x20 => p.seqReg
  | 0x21 => p.genReg
  | 0x22 => p.posReg
  | 0x30 => BitVec.ofNat 64 (s.asidOf c.lid % 2 ^ 16)
  | 0x31 => BitVec.ofNat 64 (spaceBase (s.asidOf c.lid))
  | 0x38 => p.tvec
  | 0x39 => p.tcause
  | 0x3A => p.tval
  | 0x3B => p.epc
  | 0x3C => p.sstat
  | 0x40 => p.ckpta
  | 0x48 => p.lseed
  | _ => if h : 0x10 ≤ n ∧ n < 0x20 then p.tshLeft[n - 0x10]'(by omega) else 0

/-- The trap registers, which only PRIV = 1 reaches (R198). -/
def supervisorReg (n : Nat) : Bool := decide (0x38 ≤ n ∧ n ≤ 0x3C)

/-- The reserved bits of a writable control register: a one there is an illegal value (R269). -/
def reservedBits (n : Nat) : Nat :=
  match n with
  | 0x08 => 2 ^ 64 - 2 ^ 4
  | 0x09 => 2 ^ 64 - 2 ^ 6
  | 0x20 => 2 ^ 64 - 2 ^ 32 + (2 ^ 31 - 2 ^ 9)
  | 0x21 => 2 ^ 64 - 2 ^ 16
  | 0x22 => 2 ^ 64 - 2 ^ 32
  | 0x38 => 2 ^ 64 - 2 ^ 56 + 15
  | 0x39 => 2 ^ 64 - 2 ^ 32 + (2 ^ 30 - 2 ^ 21)
  | 0x3A => 0
  | 0x3B => 2 ^ 64 - 2 ^ 56 + 15
  | 0x3C => 2 ^ 64 - 2 ^ 4 + 1
  | 0x40 => 2 ^ 64 - 2 ^ 56 + 62
  | 0x48 => 2 ^ 64 - 2 ^ 32
  | _ => 2 ^ 48 - 2 ^ 21 + 2 ^ 7

/-- Does SETC take this value (R169, R269)? -/
def controlValueOk (n : Nat) (v : DWord) : Bool :=
  v &&& BitVec.ofNat 64 (reservedBits n) == 0 && (!isTsh n || shapeOk v)

/-- The write of SETC at commit (R266, R269); a TSH register is written in tile issue order (R170). -/
def PageCore.writeControl (p : PageCore) (n : Nat) (v : DWord) : PageCore :=
  match n with
  | 0x08 => { p with rmode := v.extractLsb' 3 1 ++ (if 6 ≤ v.toNat % 8 then p.rmode.setWidth 3 else v.setWidth 3) }
  | 0x09 => { p with fstat := p.fstat &&& ~~~(v.setWidth 6) }
  | 0x20 => { p with seqReg := v }
  | 0x21 => { p with genReg := v }
  | 0x22 => { p with posReg := v }
  | 0x38 => { p with tvec := v }
  | 0x39 => { p with tcause := v }
  | 0x3A => { p with tval := v }
  | 0x3B => { p with epc := v }
  | 0x3C => { p with sstat := mkSstat (v.getLsbD 3) (v.getLsbD 2) p.priv }
  | 0x40 => { p with ckpta := v }
  | 0x48 => { p with lseed := v }
  | _ => p

/-! ### Conflicts of R250 -/

/-- Has the block already a SETR or NULLW of this register? -/
def Block.named (b : Block) (k : Nat) : Bool := b.done.any (fun d => d.act.named == some k)

/-- Has an exit of the block fired? -/
def Block.exited (b : Block) : Bool := b.done.any (fun d => d.act.exits)

/-- A register receives its value or is passed on; a second one is ILLEGAL_INSN (R250). -/
def CoreCtx.name (x : CoreCtx) (s : State) (k : Nat) (a : Act) : State :=
  if x.blk.named k then x.illegal s 0 else x.ask s 0 a

/-- An exit fires; a second one is ILLEGAL_INSN (R250). -/
def CoreCtx.leave (x : CoreCtx) (s : State) (a : Act) : State :=
  if x.blk.exited then x.illegal s 0 else x.ask s 0 a

/-- BXR and RETB check their address at firing (R270). -/
def CoreCtx.leaveTo (x : CoreCtx) (s : State) (a : Act) : State :=
  if x.a.v.toNat % 16 ≠ 0 then x.fail s 3 x.a.v 0
  else if 2 ^ 56 ≤ x.a.v.toNat then x.fail s 4 x.a.v 0
  else x.leave s a

/-- The block that BX and CALLB name (R254, R270). -/
def Block.branchTo (b : Block) (off : BitVec 19) : Nat := (((b.addr : Int) + 16 * off.toInt) % 2 ^ 56).toNat

/-! ### The instructions -/

/-- NOP (R257): it fires and does nothing. -/
def execNop (p : BitVec 2) (_t _u : BitVec 9) (_x : BitVec 4) (s : State) : Host.Outcome State Fault Refusal :=
  execAlu s p [] [] fmInt (fun _ _ _ _ => { img := {} })

/-- GETR (R247, R265). -/
def execGetr (p : BitVec 2) (t : BitVec 9) (k : BitVec 5) (s : State) : Host.Outcome State Fault Refusal :=
  execCore s p [] (fun x =>
    match x.pc.getr x.bi k.toNat with
    | some v => x.give s t v
    | none => s)

/-- SETR (R265): the value carries the predicate's S (R256). -/
def execSetr (p : BitVec 2) (k : BitVec 5) (s : State) : Host.Outcome State Fault Refusal :=
  execCore s p [.left] (fun x => x.name s k.toNat (.setr k.toNat ⟨x.a.v, x.a.s || x.ps⟩))

/-- NULLW (R265). -/
def execNullw (p : BitVec 2) (k : BitVec 5) (s : State) : Host.Outcome State Fault Refusal :=
  execCore s p [] (fun x => x.name s k.toNat (.nullr k.toNat))

def execMovi (p : BitVec 2) (t : BitVec 9) (i : BitVec 13) (s : State) : Host.Outcome State Fault Refusal :=
  execAlu s p [t] [] fmInt (fun e _ _ _ => aluMovi e.n i)

def execMovk (p : BitVec 2) (t : BitVec 9) (i : BitVec 13) (s : State) : Host.Outcome State Fault Refusal :=
  execAlu s p [t] [.left] fmInt (fun e a _ _ => aluMovk e.n i a)

def execAddi (p : BitVec 2) (t : BitVec 9) (i : BitVec 13) (s : State) : Host.Outcome State Fault Refusal :=
  execAlu s p [t] [.left] fmInt (fun e a _ _ => aluAddi e.n i a)

/-- GETC (R269): fires only once every older block has committed. -/
def execGetc (p : BitVec 2) (t : BitVec 9) (n : BitVec 8) (s : State) : Host.Outcome State Fault Refusal :=
  execCore s p [] (fun x =>
    if x.bi ≠ 0 then s
    else if supervisorReg n.toNat && !x.pc.priv then x.fail s 2 (x.blk.word x.slot) 0
    else x.give s t ⟨readControl s x.c n.toNat, false⟩)

/-- SETC (R269): checked at firing, written at commit. -/
def execSetc (p : BitVec 2) (n : BitVec 8) (s : State) : Host.Outcome State Fault Refusal :=
  execCore s p [.left] (fun x =>
    if isTsh n.toNat && !x.tileReady then s
    else if supervisorReg n.toNat && !x.pc.priv then x.fail s 2 (x.blk.word x.slot) 0
    else if controlValueOk n.toNat x.a.v then x.ask s 0 (.setc n.toNat x.a.v)
    else x.illegal s 0)

/-- BX (R270). -/
def execBx (p : BitVec 2) (_e : BitVec 3) (f : BitVec 19) (s : State) : Host.Outcome State Fault Refusal :=
  execCore s p [] (fun x => x.leave s (.exit (x.blk.branchTo f)))

/-- BXR (R270). -/
def execBxr (p : BitVec 2) (_e : BitVec 3) (s : State) : Host.Outcome State Fault Refusal :=
  execCore s p [.left] (fun x => x.leaveTo s (.exit x.a.v.toNat))

/-- CALLB (R270, R271). -/
def execCallb (p : BitVec 2) (_e : BitVec 3) (f : BitVec 19) (s : State) : Host.Outcome State Fault Refusal :=
  execCore s p [] (fun x => x.leave s (.call (x.blk.branchTo f)))

/-- RETB (R270, R271). -/
def execRetb (p : BitVec 2) (_e : BitVec 3) (s : State) : Host.Outcome State Fault Refusal :=
  execCore s p [.left] (fun x => x.leaveTo s (.ret x.a.v.toNat))

end Sys2Proof.Machine
end

