-- ==== Sys2Proof/Machine/Strands.lean ====
section
/-! DEFINITION. Strands, beats, prefixes, control beats and records (R108 to R118), lane and register images (R156), and the router's
conversion (R114). -/
namespace Sys2Proof.Machine

/-! ### Strands and images -/

/-- The 36-bit lane image of an image: S in bit 35 (R156). -/
def Img.bits36 (a : Img) : BitVec 36 := BitVec.ofBool a.s ++ a.v.setWidth 35
/-- The image that 36 bits hold. -/
def imgOf36 (b : BitVec 36) : Img := ⟨(b.setWidth 35).setWidth 64, b.getLsbD 35⟩

def Strand.image (t : Strand) : Img := imgOf36 t.img
/-- Payload bits of a strand. -/
def Strand.pay (t : Strand) : Nat := t.img.toNat % 2 ^ 32

/-- A valid strand, an empty strand with a rank, a header strand. -/
def strandV (rank : Nat) (a : Img) : Strand := { v := true, mrk := BitVec.ofNat 2 rank, img := a.bits36 }
def strandM (rank : Nat) : Strand := { v := false, mrk := BitVec.ofNat 2 rank, img := 0 }
def strandH (x : Nat) : Strand := { img := BitVec.ofNat 36 x }

/-- Strand i of a beat. -/
def bstrand (b : Beat) (i : Nat) : Strand := b.getD i {}

/-- A beat from its first strands, the others empty. -/
def beatOf (ts : List Strand) : Beat := (List.range 16).map (fun i => ts.getD i {})

/-! ### Kinds of beats (R109, R110) -/

/-- HKIND of a beat; 0 for a data beat. -/
def hkind (b : Beat) : Nat := if (bstrand b 0).v then 0 else (bstrand b 0).img.toNat / 2 ^ 32

/-- KIND of a control beat. -/
def ckind (b : Beat) : Nat := (bstrand b 1).pay / 2 ^ 24

/-- Does the beat carry nothing at all: no element and no marker on any strand? -/
def beatEmpty (b : Beat) : Bool := b.all (fun t => !t.v && t.mrk == 0)

/-- A length prefix (R115). -/
def mkPrefix (g : SegId) : Beat :=
  beatOf [strandH (2 * 2 ^ 32 + g.endrank % 4), strandH (g.length % 2 ^ 32)
    , strandH ((if g.nolane then 2 ^ 31 else 0) + g.lane % 512 * 2 ^ 16 + g.gen % 2 ^ 16)
    , strandH (bitsOf 16 g.sdexp * 2 ^ 16 + g.sdcnt % 128)]

/-- The prefix of LENGTH 0 that stands for the remainder of a segment (R99, R121): it carries the segment's lane and generation; its
ENDRANK is a free value, and it opens no SD segment, so the fields of one are zero (R115, log 23). -/
def closePrefix (g : SegId) : Beat :=
  mkPrefix { lane := g.lane, gen := g.gen, nolane := g.nolane, endrank := (Config.closeRank g.lane g.gen).val }

/-- The segment that a length prefix opens (R115). -/
def prefixOf (b : Beat) : SegId :=
  let s1 := (bstrand b 1).pay
  let s2 := (bstrand b 2).pay
  let s3 := (bstrand b 3).pay
  { length := s1, endrank := (bstrand b 0).pay % 4, nolane := s2 / 2 ^ 31 == 1, lane := s2 / 2 ^ 16 % 512
    gen := s2 % 2 ^ 16, sdexp := signedOf 16 (s3 / 2 ^ 16), sdcnt := s3 % 128 }

/-- LENGTH of a segment closed by et. -/
def lengthEt : Nat := 0xFFFFFFFF

/-- Same LANE, GEN and NOLANE (R123). -/
def SegId.same (a b : SegId) : Bool := a.lane == b.lane && a.gen == b.gen && a.nolane == b.nolane

/-- A control beat of a kind, with strand 1 bits 23:0 and strand 2 (R110). -/
def mkControl (kind lo s2 : Nat) : Beat :=
  beatOf [strandH (3 * 2 ^ 32), strandH (kind * 2 ^ 24 + lo), strandH s2]

def mkPruneBeat (serial lane lo hi : Nat) : Beat := mkControl 1 (serial % 256 * 2 ^ 16 + lane % 512) (hi % 2 ^ 16 * 2 ^ 16 + lo % 2 ^ 16)
def mkDrainBeat (serial lane : Nat) : Beat := mkControl 2 (serial % 256 * 2 ^ 16 + lane % 512) 0
def mkDormBeat : Beat := mkControl 3 0 0
def mkCondBeat (ctx : Nat) : Beat := mkControl 4 (ctx % 4 * 2 ^ 16) 0
def mkDeadBeat (lane gen : Nat) : Beat := mkControl 5 (lane % 512) (gen % 2 ^ 16)

/-- SERIAL, LANE, LO and HI of a prune or drain marker; the context of a condition token. -/
def beatSerial (b : Beat) : Nat := (bstrand b 1).pay / 2 ^ 16 % 256
def beatLane (b : Beat) : Nat := (bstrand b 1).pay % 512
def beatLo (b : Beat) : Nat := (bstrand b 2).pay % 2 ^ 16
def beatHi (b : Beat) : Nat := (bstrand b 2).pay / 2 ^ 16
def beatCtx (b : Beat) : Nat := (bstrand b 1).pay / 2 ^ 16 % 4

/-! ### Records (R111) -/

/-- Fields of a record header image. -/
def hdrNval (h : Img) : Nat := h.v.toNat / 2 ^ 12 % 16
def hdrDone (h : Img) : Nat := h.v.toNat / 2 ^ 24 % 256
def hdrRej (h : Img) : Bool := h.v.getLsbD 11

/-- Is this image a record header, HKIND 1 in bits 35:32? -/
def isHeader (h : Img) : Bool := h.bits36.toNat / 2 ^ 32 == 1

/-- A record header. -/
def mkHeader (done genl nval : Nat) (rej : Bool) (user : Nat) : Img :=
  ⟨BitVec.ofNat 64 (2 ^ 32 + done % 256 * 2 ^ 24 + genl % 256 * 2 ^ 16 + nval % 16 * 2 ^ 12 + (if rej then 2 ^ 11 else 0)
    + user % 8 * 2 ^ 8), false⟩

/-- A record beat from its header, its rank and its values. -/
def mkRecord (h : Img) (rank : Nat) (vals : List Img) : Beat :=
  beatOf ({ v := false, mrk := BitVec.ofNat 2 rank, img := h.bits36 }
    :: (List.range (hdrNval h)).map (fun i => strandV 0 (vals.getD i {})))

/-- The marker rank of a beat's record, or of its strand. -/
def beatRank (b : Beat) : Nat := (bstrand b 0).mrk.toNat

/-! ### Conversion (R114, R156) -/

/-- The lane image of a code of a storage format: integers extended to 32 bits (R156). -/
def codeLane (f code : Nat) (s : Bool) : Img :=
  if fmtIsInt f then ⟨BitVec.ofNat 64 (bitsOf 32 (intOfCode code f)), s⟩
  else ⟨BitVec.ofNat 64 (code % 2 ^ fmtWidth f), s⟩

/-- Formats between which a conversion is inserted: those of R114. -/
def convertible (f : Nat) : Bool := f ≤ 4 || (8 ≤ f && f ≤ 13) || f == 16

/-- The WF value of a lane image of a format, times 2^k (R114). -/
def laneWf (x : Img) (f : Nat) (k : Int) : Img :=
  let v := if f = 16 then x else toWf x.v.toNat f 0 x.s
  if k = 0 then v else (wfScale v k v.s).img

/-- The WF value of an element of an MX block that travels on a strand, under the scale that the block began with (R147, R148). -/
def mxWf (x : Img) (f scale : Nat) : Img := if scale = 0xFF then wfNaN else toWf x.v.toNat f ((scale : Int) - 127) x.s

/-- A lane of a link of an MX format at a place in its block of 33: the first is the scale and no element, the others are elements under it; and
the place and scale that follow (R147, log 97). -/
def mxLane (t : Strand) (f : Nat) (p : Nat × Nat) : Option Img × (Nat × Nat) :=
  if !t.v then (none, p)
  else if p.1 = 0 then (none, (1, t.image.v.toNat % 256))
  else (some (mxWf t.image f p.2), ((p.1 + 1) % 33, p.2))

/-- The values of the valid strands of a beat of a link, after to_wf, and the places in MX blocks that follow (R147, R148). -/
def linkVals (b : Beat) (f : Nat) (mx : List (Nat × Nat)) : List (Option Img) × List (Nat × Nat) :=
  let l := (List.range 16).map (fun i =>
    let t := bstrand b i
    let p := mx.getD i (0, 127)
    if fmtIsMx f then mxLane t f p else (if t.v then some (if f = 16 then t.image else laneWf t.image f 0) else none, p))
  (l.map (fun e => e.1), l.map (fun e => e.2))

/-- The router's conversion of one element (R114). -/
def convertLane (x : Img) (src dst : Nat) (k : Int) : Img :=
  if (src = dst ∧ k = 0) ∨ !convertible src ∨ !convertible dst then x
  else
    let v := laneWf x src k
    if dst = 16 then v
    else
      let r := (narrowTo v dst).img
      codeLane dst r.v.toNat r.s

/-- A lane placed on a link of a format: codes and integers take the link's lane image first (R114, R261). -/
def placeLane (x : Img) (src dst : Nat) : Img :=
  if src = dst ∧ fmtIsInt src then codeLane src x.v.toNat x.s else convertLane x src dst 0

/-- The lane image a register image gives on a link of a format (R156, R408). -/
def regToLane (a : Img) (f : Nat) : Img :=
  if f = 16 ∨ f = 17 then ⟨a.v &&& 0x7FFFFFFFF, a.s⟩
  else if fmtIsInt f then
    let v := signedOf 64 a.v.toNat
    let r := satInt v f
    ⟨BitVec.ofNat 64 (bitsOf 32 r), a.s || decide (r ≠ v)⟩
  else ⟨BitVec.ofNat 64 (a.v.toNat % 2 ^ fmtWidth f), a.s⟩

/-- Does a register saturate on a link of a format (R156, R159)? -/
def regSaturates (a : Img) (f : Nat) : Bool := fmtIsInt f && decide (satInt (signedOf 64 a.v.toNat) f ≠ signedOf 64 a.v.toNat)

/-- The register image that IN delivers for a strand (R156, R311, R404, R408). -/
def laneToReg (t : Strand) (header : Bool) (f : Nat) : Img :=
  if header then ⟨t.img.setWidth 64, false⟩
  else if !t.v then {}
  else if fmtIsInt f then
    ⟨if fmtUnsigned f then BitVec.ofNat 64 t.pay else BitVec.ofNat 64 (bitsOf 64 (signedOf 32 t.pay)), t.image.s⟩
  else t.image

/-- Converts the elements of a beat that arrives at an element input; header beats are never converted (R114). -/
def convertBeat (b : Beat) (src dst : Nat) (k : Int) : Beat :=
  if hkind b ≠ 0 then b
  else b.map (fun t => if t.v then { t with img := (convertLane t.image src dst k).bits36 } else t)

/-! ### Reductions (R118, R314, R323) -/

/-- The start value of a WF reduction: 0 sum, 1 maximum, 2 minimum. -/
def wfStart (kind : Nat) : Img := match kind with
  | 0 => wfZero false false
  | 1 => wfInf true false
  | _ => wfInf false false

/-- Folds one WF element. -/
def wfFold (kind : Nat) (v x : Img) : Img := match kind with
  | 0 => (wfAdd v x).img
  | 1 => (wfMax v x).img
  | _ => (wfMin v x).img

end Sys2Proof.Machine
end

