-- ==== Sys2Proof/Machine/SignedDigit.lean ====
section
/-! DEFINITION. The code of a firing element as a graph, and the signed-digit instructions (R163, R164, R300 to R306). -/
namespace Sys2Proof.Machine

/-! ### Where an operand comes from -/

def Firing.inp (f : Firing) (i : Nat) : FireIn := f.ins.getD i {}
def Firing.outp (f : Firing) (i : Nat) : FireOut := f.outs.getD i {}

/-- The instruction at a slot of an element's code. -/
def ECode.insn (k : ECode) (slot : Nat) : Option Instr :=
  match k.words[slot]? with
  | some w => (decodeWord w).toOption
  | none => none

/-- The code of a position in a target field (R255). -/
def Pos.code : Pos → Nat
  | .left => 0
  | .right => 1
  | .pred => 2
  | .third => 3

/-- The slot that delivers to a position, and its instruction. -/
def ECode.producer (k : ECode) (slot : Nat) (pos : Pos) : Option (Nat × Instr) :=
  (List.range k.words.length).findSome? (fun q =>
    match k.insn q with
    | some i => if i.targets.any (fun t => t.toNat == pos.code * 128 + slot) then some (q, i) else none
    | none => none)

/-- Does a record arrive at a position: from a record-mode input, through record instructions and STEER (R316)? -/
def Firing.recAt (f : Firing) : Nat → Nat → Pos → Bool
  | 0, _, _ => false
  | fuel + 1, slot, pos =>
    match f.code.producer slot pos with
    | none => false
    | some (q, i) =>
      match i with
      | .inPort _ _ n _ _ => (f.inp n.toNat).isRec
      | .merge _ _ _ _ => (f.inp (f.chosen.getD 0)).isRec
      | .omerge _ _ _ => (f.inp (f.chosen.getD 0)).isRec
      | .recirc _ _ _ => (f.inp (f.chosen.getD 0)).isRec
      | .recNew _ _ _ _ => true
      | .recGet _ _ _ _ => false
      | _ => f.recAt fuel q .left

/-! ### Digits (R163) -/

/-- The digit at place j (0 to 15) of an element; none for a digit coded 0b10. -/
def sdDigit (x : Img) (j : Nat) : Option Int :=
  match x.v.toNat / 2 ^ (30 - 2 * j) % 4 with
  | 0 => some 0
  | 1 => some 1
  | 3 => some (-1)
  | _ => none

/-- The sixteen digits of an element, most significant first. -/
def sdDigits (x : Img) : List Int := (List.range 16).map (fun j => (sdDigit x j).getD 0)
def sdBad (x : Img) : Bool := (List.range 16).any (fun j => (sdDigit x j).isNone)

/-- An element from up to sixteen digits. -/
def sdElem (ds : List Int) (s : Bool) : Img :=
  ⟨BitVec.ofNat 64 ((List.range 16).foldl (fun u j =>
    let d := ds.getD j 0
    u + (if d = 0 then 0 else if 0 < d then 1 else 3) * 2 ^ (30 - 2 * j)) 0), s⟩

/-- Elements that carry n digits. -/
def sdLen (n : Nat) : Nat := (n + 15) / 16

/-- sd_value(d, e, k) × 2^(k − e): the integer of the first k digits, k at least 0. -/
def sdInt (ds : List Int) (k : Nat) : Int := (List.range k).foldl (fun v i => 2 * v + ds.getD i 0) 0
/-- sd_value(d, e, k), 0 for a count of zero or fewer digits (R163, R302). -/
def sdValue (ds : List Int) (e : Int) (k : Int) : Dy := ⟨sdInt ds k.toNat, if 0 < k then e - k else 0⟩

/-- x times 2^k. -/
def Dy.scale (x : Dy) (k : Int) : Dy := ⟨x.n, x.e + k⟩

/-- target(k) of SDADD, before the factor 2^−e; written for e_a ≥ e_b with the operands exchanged otherwise (R302). -/
def sdAddTarget (da db : List Int) (ea eb : Int) (k : Nat) : Dy :=
  let e := max ea eb + 1
  if eb ≤ ea then (sdValue da ea k).add (sdValue db eb (k - e + 1 + eb))
  else (sdValue db eb k).add (sdValue da ea (k - e + 1 + ea))

def sdMulTarget (da db : List Int) (ea eb : Int) (k : Nat) : Dy := (sdValue da ea k).mul (sdValue db eb k)

/-- The online selection of R302: `left` digits still to choose, digit i next, z so far; `target` already times 2^−e. -/
def sdSelect (target : Nat → Dy) (delta n : Nat) : Nat → Nat → Dy → List Int
  | 0, _, _ => []
  | left + 1, i, z =>
    let k := min (i + delta) n
    let v := ((target k).add z.neg).scale i
    let d : Int := if 0 ≤ v.cmp ⟨1, -1⟩ then 1 else if v.cmp ⟨-1, -1⟩ ≤ 0 then -1 else 0
    d :: sdSelect target delta n left (i + 1) (z.add ⟨d, -(i : Int)⟩)

/-- The digits of SDCVT for a WF value (R303), and S. -/
def sdOfWf (a : Img) (e : Int) (n : Nat) : List Int × Bool :=
  let bits (neg : Bool) (m : Nat) : List Int :=
    (List.range n).map (fun i => if m / 2 ^ (n - 1 - i) % 2 = 1 then (if neg then -1 else 1) else 0)
  match a.wf with
  | .nan => (List.replicate n 0, true)
  | .inf neg => (bits neg (2 ^ n - 1), true)
  | .zero neg => (bits neg 0, a.s)
  | .fin neg m k =>
    let x : Dy := ⟨m, k⟩
    if 0 ≤ x.cmp ⟨1, e⟩ then (bits neg (2 ^ n - 1), true)
    else
      let (q, rb, st) := cutAt m k (e - n)
      (bits neg q, a.s || rb || st)

/-- Exponent, digit count and segment of an SD operand. -/
structure SdInfo where
  e : Int
  n : Nat
  seg : SegId := {}
  deriving DecidableEq, Repr

/-- The number that a join delivers: of the segment open on an input (R163, R317). -/
def Firing.joinInfo (f : Firing) (q : Nat) : SdInfo :=
  let g := (f.inp q).seg.getD {}
  ⟨g.sdexp, g.sdcnt, g⟩

/-- The exponent and count of the number at a position (R300, R302 to R304): from the prefix of the input that feeds it,
through the SD instructions on the way. -/
def Firing.sdInfo (f : Firing) : Nat → Nat → Pos → SdInfo
  | 0, _, _ => ⟨0, 0, {}⟩
  | fuel + 1, slot, pos =>
    match f.code.producer slot pos with
    | none => ⟨0, 0, {}⟩
    | some (q, i) =>
      let ctl : Nat := match (f.operand q .right).bind (fun ls => ls.findSome? (fun l => l.val)) with
        | some v => v.v.toNat
        | none => 0
      match i with
      | .inPort _ _ p _ _ =>
        let g := (f.inp p.toNat).seg.getD {}
        ⟨g.sdexp, g.sdcnt, g⟩
      | .merge _ _ _ _ => f.joinInfo (f.chosen.getD 0)
      | .omerge _ _ _ => f.joinInfo (f.chosen.getD 0)
      | .recirc _ _ _ => f.joinInfo 0
      | .sdcvt _ _ _ =>
        let n := ctl / 2 ^ 16 % 128
        ⟨signedOf 16 ctl, n, { (f.sdInfo fuel q .left).seg with length := sdLen n, sdcnt := n }⟩
      | .sdadd _ _ _ =>
        let a := f.sdInfo fuel q .left
        let b := f.sdInfo fuel q .right
        ⟨max a.e b.e + 1, min a.n b.n, a.seg⟩
      | .sdmul _ _ _ =>
        let a := f.sdInfo fuel q .left
        let b := f.sdInfo fuel q .right
        ⟨a.e + b.e, min a.n b.n, a.seg⟩
      | .sdcut _ _ _ =>
        let a := f.sdInfo fuel q .left
        ⟨a.e, min a.n (ctl % 128), a.seg⟩
      | _ => f.sdInfo fuel q .left

/-- What an SD instruction keeps for a strand (R300). -/
def Firing.sdOf (f : Firing) (slot lane : Nat) : SdState :=
  (f.sd.find? (fun t => t.slot == slot && t.lane == lane)).getD { slot := slot, lane := lane }

/-- The digits of a beat's strand; none where it holds no element. -/
def strandDigits (b : Option Beat) (lane : Nat) : List Int :=
  match b with
  | some t => if (bstrand t lane).v then sdDigits (bstrand t lane).image else []
  | none => []

/-- The value in a lane of an operand that has arrived. -/
def Firing.laneImg (f : Firing) (slot : Nat) (pos : Pos) (lane : Nat) : Img :=
  ((((f.operand slot pos).getD noLanes).getD lane {}).val).getD {}

/-- The digits of element j + 1 that are already visible at a position: of the beat behind the one consumed (R301), what the
producing SD instruction makes of it, or what SEL, by the arm it has chosen for element j (log 83), STKS, STKC or a join passes on. -/
def Firing.sdAhead (f : Firing) (lane : Nat) : Nat → Nat → Pos → List Int
  | 0, _, _ => []
  | fuel + 1, slot, pos =>
    match f.code.producer slot pos with
    | none => []
    | some (q, i) =>
      let st := f.sdOf q lane
      let a := st.da ++ f.sdAhead lane fuel q .left
      let b := st.db ++ f.sdAhead lane fuel q .right
      let ia := f.sdInfo 32 q .left
      let ib := f.sdInfo 32 q .right
      let n := min ia.n ib.n
      match i with
      | .inPort _ _ p _ _ => strandDigits (f.inp p.toNat).next lane
      | .merge _ _ _ _ => strandDigits (f.inp (f.chosen.getD 0)).next lane
      | .omerge _ _ _ => strandDigits (f.inp (f.chosen.getD 0)).next lane
      | .recirc _ _ _ => strandDigits (f.inp (f.chosen.getD 0)).next lane
      | .sel _ _ _ => if (f.laneImg q .third lane).v.getLsbD 0 then f.sdAhead lane fuel q .left else f.sdAhead lane fuel q .right
      | .stks _ _ _ => f.sdAhead lane fuel q .left
      | .stkc _ _ _ => f.sdAhead lane fuel q .left
      | .sdcvt _ _ _ =>
        let ctl := (f.laneImg q .right lane).v.toNat
        if st.firing = 0 then []
        else (sdOfWf (f.laneImg q .left lane) (signedOf 16 ctl) (ctl / 2 ^ 16 % 128)).1.drop (16 * st.firing)
      | .sdadd _ _ _ =>
        (sdSelect (fun k => (sdAddTarget a b ia.e ib.e k).scale (-(max ia.e ib.e + 1))) 2 n n 1 ⟨0, 0⟩).drop st.da.length
      | .sdmul _ _ _ =>
        (sdSelect (fun k => (sdMulTarget a b ia.e ib.e k).scale (-(ia.e + ib.e))) 3 n n 1 ⟨0, 0⟩).drop st.da.length
      | .sdcut _ _ _ => f.sdAhead lane fuel q .left
      | _ => []

/-! ### Firing an SD instruction -/

/-- One lane of an SD instruction: the state it keeps, the lane it delivers. -/
structure SdLane where
  st : SdState
  out : Option Img := none
  fault : Option Nat := none

/-- Takes element j of the operands into a strand's state. -/
def SdState.take (t : SdState) (a b : Option Img) : SdState :=
  { t with firing := t.firing + 1
           da := t.da ++ (a.map sdDigits).getD [], db := t.db ++ (b.map sdDigits).getD []
           s := t.s || (a.map (fun v => v.s)).getD false || (b.map (fun v => v.s)).getD false }

/-- The state after the last element of a number: nothing is kept. -/
def SdState.endOf (t : SdState) (len : Nat) : SdState :=
  if len ≤ t.firing then { slot := t.slot, lane := t.lane } else t

/-- The SD faults of R163 and R300 that a pair of operands raises. -/
def sdFault (a b : SdInfo) (xs : List (Option Img)) : Option Nat :=
  if xs.any (fun x => (x.map sdBad).getD false) then some 0x86
  else if a.seg.length ≠ sdLen a.seg.sdcnt || b.seg.length ≠ sdLen b.seg.sdcnt || a.seg.length ≠ b.seg.length then some 0x87
  else none

/-- Fires an SD instruction on every lane: a lane that fires updates its strand; a fault freezes the element. -/
def ElemCtx.sd (x : ElemCtx) (s : State) (p : BitVec 2) (ts : List (BitVec 9)) (uses : List Pos) (fm : Nat)
    (g : Nat → SdState → Img → Img → SdLane) : State :=
  let lanes : List (SdLane × LaneV) := (List.range 16).map (fun i =>
    let a := x.a.getD i {}
    let b := x.b.getD i {}
    let pl := x.p.getD i {}
    let used := usedLanes uses a b {}
    let rank := rankMax (if p = 0 then used else pl :: used)
    let st := x.f.sdOf x.slot i
    if pl.fires && used.all (fun l => l.val.isSome) then
      let r := g i st (a.val.getD {}) (b.val.getD {})
      (r, ({ val := r.out.map (fun v => v.orS fm (pl.val.getD {}).s), rank := rank, fmt := fm } : LaneV))
    else ({ st := st }, { val := none, rank := rank, fmt := fm }))
  let f : Firing := { x.f with
    fired := x.slot :: x.f.fired
    sd := lanes.map (fun (l : SdLane × LaneV) => l.1.st) ++ x.f.sd.filter (fun (t : SdState) => t.slot != x.slot)
    fault := match x.f.fault with
      | some c => some c
      | none => lanes.findSome? (fun (l : SdLane × LaneV) => l.1.fault) }
  { s with firing := some (f.deliverAll ts (lanes.map (fun (l : SdLane × LaneV) => l.2))) }

/-- The result element of SDADD or SDMUL in this firing. -/
def sdOnline (x : ElemCtx) (i : Nat) (t : SdState) (a b : Img) (e : Int) (delta : Nat)
    (target : List Int → List Int → Int → Int → Nat → Dy) : SdLane :=
  let ia := x.f.sdInfo 32 x.slot .left
  let ib := x.f.sdInfo 32 x.slot .right
  let n := min ia.n ib.n
  let t' := t.take (some a) (some b)
  let da := t'.da ++ x.f.sdAhead i 32 x.slot .left
  let db := t'.db ++ x.f.sdAhead i 32 x.slot .right
  let ds := sdSelect (fun k => (target da db ia.e ib.e k).scale (-e)) delta n (min n (16 * t'.firing)) 1 ⟨0, 0⟩
  let out := if n ≤ 16 * t.firing then none else some (sdElem (ds.drop (16 * t.firing)) t'.s)
  { st := t'.endOf ia.seg.length, out := out
    fault := match sdFault ia ib [some a, some b] with
      | some c => some c
      | none => if e < -32768 ∨ 32767 < e then some 0x88 else none }

/-- SDADD (R302). -/
def execSdadd (p : BitVec 2) (t u : BitVec 9) (s : State) : Host.Outcome State Fault Refusal :=
  execElem s p [.left, .right] (fun x => x.sd s p [t, u] [.left, .right] 14 (fun i st a b =>
    sdOnline x i st a b (max (x.f.sdInfo 32 x.slot .left).e (x.f.sdInfo 32 x.slot .right).e + 1) 2 sdAddTarget))

/-- SDMUL (R302). -/
def execSdmul (p : BitVec 2) (t u : BitVec 9) (s : State) : Host.Outcome State Fault Refusal :=
  execElem s p [.left, .right] (fun x => x.sd s p [t, u] [.left, .right] 14 (fun i st a b =>
    sdOnline x i st a b ((x.f.sdInfo 32 x.slot .left).e + (x.f.sdInfo 32 x.slot .right).e) 3 sdMulTarget))

/-- Is the control operand the same on every valid strand? -/
def sdEqual (b : List LaneV) (mask : Nat) : Bool :=
  match b.filterMap (fun l => l.val) with
  | [] => true
  | v :: vs => vs.all (fun w => w.v.toNat % mask == v.v.toNat % mask)

/-- The control of SDCVT: exponent and digit count (R303). -/
def sdcvtCtl (x : ElemCtx) : Nat := ((x.b.findSome? (fun (l : LaneV) => l.val)).getD {}).v.toNat
def sdcvtCount (x : ElemCtx) : Nat := sdcvtCtl x / 2 ^ 16 % 128

/-- One lane of SDCVT (R303). -/
def sdConvert (x : ElemCtx) (st : SdState) (a : Img) : SdLane :=
  let n := sdcvtCount x
  let st' := st.take none none
  let (ds, sk) := sdOfWf a (signedOf 16 (sdcvtCtl x)) n
  { st := st'.endOf (sdLen n), out := some (sdElem (ds.drop (16 * st.firing)) sk)
    fault := if !sdEqual x.b (2 ^ 23) || n = 0 || 64 < n then some 0x87 else none }

/-- Has an SD instruction a number begun and not ended on some strand? -/
def Firing.midNumber (f : Firing) (slot : Nat) : Bool := f.sd.any (fun t => t.slot == slot && t.firing != 0)

/-- SDCVT (R303): k firings on one set of input beats, which the k-th consumes; a firing that takes no value on any strand holds none. -/
def execSdcvt (p : BitVec 2) (t u : BitVec 9) (s : State) : Host.Outcome State Fault Refusal :=
  execElem s p [.left, .right] (fun x =>
    let s' := x.sd s p [t, u] [.left, .right] 14 (fun _ st a _ => sdConvert x st a)
    { s' with firing := s'.firing.map (fun f => { f with hold := f.hold || f.midNumber x.slot }) })

/-- One lane of SDCUT (R304). -/
def sdCutLane (x : ElemCtx) (st : SdState) (a b : Img) : SdLane :=
  let ia := x.f.sdInfo 32 x.slot .left
  let first := (List.range 16).all (fun i => (x.f.sdOf x.slot i).firing == 0)
  let k : Nat := if st.firing = 0 then b.v.toNat % 128 else (st.db.getD 0 0).toNat
  let st' := { st.take (some a) none with db := [(k : Int)] }
  let j := st'.firing
  let ds := (List.range 16).map (fun i => if 16 * st.firing + i < k then (sdDigits a).getD i 0 else 0)
  let out := if ia.n ≤ k then some ⟨a.v, st'.s⟩
    else if j ≤ sdLen k then some (sdElem ds (st'.s || j == sdLen k)) else none
  { st := st'.endOf ia.seg.length, out := out
    fault := match sdFault ia ia [some a] with
      | some c => some c
      | none => if first && (!sdEqual x.b 128 || k = 0 || 64 < k) then some 0x87 else none }

/-- SDCUT (R304). -/
def execSdcut (p : BitVec 2) (t u : BitVec 9) (s : State) : Host.Outcome State Fault Refusal :=
  execElem s p [.left, .right] (fun x => x.sd s p [t, u] [.left, .right] 14 (fun _ st a b => sdCutLane x st a b))

/-- One lane of SDCMP (R305). -/
def sdCompare (x : ElemCtx) (cc : BitVec 3) (st : SdState) (a b : Img) : SdLane :=
  let ia := x.f.sdInfo 32 x.slot .left
  let ib := x.f.sdInfo 32 x.slot .right
  let st' := st.take (some a) (some b)
  let n := max ia.n ib.n
  let m := min (16 * st'.firing) n
  let d := (sdValue st'.da ia.e m).add (sdValue st'.db ib.e m).neg
  let mag : Dy := ⟨d.n.natAbs, d.e⟩
  let early := decide (m < n) && decide (0 ≤ mag.cmp ⟨1, ia.e - m + 1⟩)
  let last := decide (n ≤ 16 * st'.firing)
  let pr := relHolds cc.toNat d.n
  let out := if st.decided then none
    else if early then some (predRes pr false).img
    else if last then some (predRes pr (st'.s && decide (mag.cmp ⟨1, ia.e - n + 1⟩ < 0))).img
    else none
  { st := ({ st' with decided := st.decided || early }).endOf ia.seg.length, out := out
    fault := match sdFault ia ib [some a, some b] with
      | some c => some c
      | none => if ia.e ≠ ib.e then some 0x89 else none }

/-- SDCMP (R305). -/
def execSdcmp (p : BitVec 2) (t u : BitVec 9) (cc : BitVec 3) (s : State) : Host.Outcome State Fault Refusal :=
  execElem s p [.left, .right] (fun x => x.sd s p [t, u] [.left, .right] 13 (fun _ st a b => sdCompare x cc st a b))

/-- One lane of SDTOWF (R306). -/
def sdToWf (x : ElemCtx) (st : SdState) (a : Img) : SdLane :=
  let ia := x.f.sdInfo 32 x.slot .left
  let st' := st.take (some a) none
  { st := st'.endOf ia.seg.length, fault := sdFault ia ia [some a]
    out := if ia.n ≤ 16 * st'.firing then some (truncDy (sdValue st'.da ia.e ia.n) false st'.s).img else none }

/-- SDTOWF (R306). -/
def execSdtowf (p : BitVec 2) (t u : BitVec 9) (s : State) : Host.Outcome State Fault Refusal :=
  execElem s p [.left] (fun x => x.sd s p [t, u] [.left] 16 (fun _ st a _ => sdToWf x st a))

end Sys2Proof.Machine
end

