-- ==== Sys2Proof/Machine/Ports.lean ====
section
/-! DEFINITION. Ports, markers, segments, reductions, records, branches and joins, contexts (R308 to R318). -/
namespace Sys2Proof.Machine

/-! ### Links of page-core ports -/

/-- The link that leaves a source port (R390). -/
def State.viLink (s : State) (c : CoreRef) (n : Nat) : Option Chan :=
  let ls := s.chans.filter (fun h => h.lid == c.lid && h.srcPset == c.pset && h.srcs.contains (.core c.px c.py n))
  let ctx := if h : n < 32 then (s.core c).srcCtx[n] else 0
  (ls.find? (fun h => h.ctx == ctx)).or ls.head?

/-- The link that ends at a sink port (R390). -/
def State.voLink (s : State) (c : CoreRef) (n : Nat) : Option Chan :=
  let ls := s.chans.filter (fun h => h.lid == c.lid && h.dstPset == c.pset && decide (h.dst = .core c.px c.py n))
  let ctx := if h : n < 32 then (s.core c).sinkCtx[n] else 0
  (ls.find? (fun h => h.ctx == ctx)).or ls.head?

/-- Format of the link at a port; a port without a link passes raw images. -/
def fmtOf (h : Option Chan) : Nat := (h.map (fun h => h.fmt)).getD 17

def PageCore.sinkQ (p : PageCore) (n : Nat) : List Beat := if h : n < 32 then p.sink[n] else []
def PageCore.srcQ (p : PageCore) (n : Nat) : List Beat := if h : n < 32 then p.src[n] else []

/-! ### Which beat an IN reads (R249, R311) -/

/-- Is this a popping IN on sink port n? -/
def popsPort (n : Nat) (i : Instr) : Bool :=
  match i with
  | .inPort _ _ m k _ => m.toNat == n && k == 1
  | _ => false

/-- Does this instruction push a beat into source port n? -/
def pushesPort (n : Nat) (i : Instr) : Bool :=
  match i with
  | .outPort _ m k _ => m.toNat == n && k == 1
  | .outm _ m k _ => m.toNat == n && k == 1
  | .mrk _ m k _ => m.toNat == n && k == 1
  | .segl _ m _ => m.toNat == n
  | .segn _ m _ => m.toNat == n
  | .ctxsw _ m _ => m.toNat == n
  | _ => false

/-- The instructions of a block below a slot that meet a test: how many fired or are sure to fire, and whether one is undecided. -/
def Block.countBelow (b : Block) (slot : Nat) (test : Instr → Bool) : Nat × Bool :=
  (List.range (min slot b.words.length)).foldl (fun acc j =>
    match b.insn j with
    | some i =>
      if !test i then acc
      else if b.fired.contains j then (acc.1 + 1, acc.2)
      else if b.nulled.contains j then acc
      else if i.pred = 0 then (acc.1 + 1, acc.2)
      else (acc.1, true)
    | none => acc) (0, false)

/-- The same over the older blocks in flight and the earlier slots. -/
def CoreCtx.countBelow (x : CoreCtx) (test : Instr → Bool) : Nat × Bool :=
  let older := (x.pc.blocks.take x.bi).foldl (fun (acc : Nat × Bool) b =>
    let r := b.countBelow 128 test
    (acc.1 + r.1, acc.2 || r.2)) (0, false)
  let r := x.blk.countBelow x.slot test
  (older.1 + r.1, older.2 || r.2)

/-- The beat of sink port n that the next popping IN in slot order reads, once it is decided and has arrived. -/
def CoreCtx.beatAt (x : CoreCtx) (n : Nat) : Option Beat :=
  let (k, open_) := x.countBelow (popsPort n)
  if open_ then none else (x.pc.sinkQ n)[k]?

/-- Is strand i of this beat a header strand (R311)? -/
def headerStrand (b : Beat) (i : Nat) : Bool :=
  let k := hkind b
  k == 2 || k == 3 || k == 4 || (k != 0 && i == 0)

/-- in.mrk (R311). -/
def mrkImage (b : Beat) : Nat :=
  (List.range 16).foldl (fun u i => u + (bstrand b i).mrk.toNat * 2 ^ (2 * i) + (if (bstrand b i).v then 2 ^ (32 + i) else 0)) 0
    + hkind b * 2 ^ 48

/-! ### Beats of an element -/

/-- The lanes IN delivers for a beat (R308, R310). -/
def lanesOf (b : Beat) (fmt : Nat) : List LaneV :=
  let k := hkind b
  (List.range 16).map (fun i =>
    let t := bstrand b i
    if i = 0 ∧ (k = 1 ∨ k = 5) then { val := some t.image, rank := t.mrk.toNat, fmt := 18 }
    else if t.v then { val := some t.image, rank := t.mrk.toNat, fmt := fmt }
    else { val := none, rank := t.mrk.toNat, fmt := fmt })

/-- The lanes of the beat on an IMAP entry. -/
def Firing.lanesIn (f : Firing) (i : Nat) : List LaneV :=
  match (f.inp i).beat with
  | some b => lanesOf b (f.inp i).fmt
  | none => noLanes

/-- Places a beat on an output; a second one is EB_CONFLICT, an empty one takes no slot (R251, R308). -/
def Firing.place (f : Firing) (q : Nat) (b : Beat) : Firing :=
  if beatEmpty b && hkind b == 0 then f
  else if f.placed.any (fun t => t.1 == q) then { f with fault := some (f.fault.getD 0x92) }
  else { f with placed := f.placed ++ [(q, b)] }

/-- Places a length prefix on an output (R309, R313). -/
def Firing.placePrefix (f : Firing) (q : Nat) (g : SegId) : Firing :=
  if f.prefixes.any (fun t => t.1 == q) then { f with fault := some (f.fault.getD 0x92) }
  else { f with prefixes := f.prefixes ++ [(q, mkPrefix g)] }

def Firing.bad (f : Firing) (code : Nat) : Firing := { f with fault := some (f.fault.getD code) }

/-- The beat that lanes make on an output; none is BAD_BEAT (R308, R310). -/
def outBeat (o : FireOut) (ls : List LaneV) : Option Beat :=
  let l (i : Nat) : LaneV := ls.getD i {}
  if o.isRec then
    match (l 0).val with
    | some h =>
      if isHeader h then some (mkRecord h (l 0).rank ((ls.drop 1).map (fun v => v.val.getD {}))) else none
    | none =>
      if ls.all (fun v => v.val.isNone) then some (beatOf [strandM (rankMax ls)]) else none
  else some ((List.range 16).map (fun i =>
    match (l i).val with
    | some v => strandV (l i).rank (placeLane v (l i).fmt o.fmt)
    | none => strandM (l i).rank))

/-- Does this slot make an SD result of its own (R301)? -/
def sdProducer (i : Instr) : Bool :=
  match i with
  | .sdcvt _ _ _ => true
  | .sdadd _ _ _ => true
  | .sdmul _ _ _ => true
  | .sdcut _ _ _ => true
  | _ => false

/-- The SD instruction whose result stands at a position, through SEL, STKS and STKC. -/
def ECode.sdSource (k : ECode) : Nat → Nat → Pos → Option Nat
  | 0, _, _ => none
  | fuel + 1, slot, pos =>
    match k.producer slot pos with
    | none => none
    | some (q, i) =>
      if sdProducer i then some q
      else match i with
        | .sel _ _ _ => (k.sdSource fuel q .left).or (k.sdSource fuel q .right)
        | .stks _ _ _ => k.sdSource fuel q .left
        | .stkc _ _ _ => k.sdSource fuel q .left
        | _ => none

/-- The prefix that R301 places ahead of the first element of an SD result on a link of format SD. -/
def Firing.sdPrefix (f : Firing) (slot q : Nat) : Option SegId :=
  if (f.outp q).fmt ≠ 14 then none
  else match f.code.sdSource 32 slot .left with
  | some j =>
    if f.sd0.all (fun t => !(t.slot == j && t.firing != 0)) then
      let info := f.sdInfo 32 slot .left
      some { info.seg with length := sdLen info.n, sdexp := info.e, sdcnt := info.n }
    else none
  | none => none

/-- OUT and OUTM of an element. -/
def ElemCtx.out (x : ElemCtx) (s : State) (q : Nat) (ls : List LaneV) : State :=
  x.mark s (fun f =>
    match outBeat (f.outp q) ls with
    | none => f.bad 0x80
    | some b =>
      let f := if beatEmpty b && hkind b == 0 then f else match f.sdPrefix x.slot q with
        | some g => f.placePrefix q g
        | none => f
      f.place q b)

/-! ### IN, OUT, OUTM, MRK (R310 to R312) -/

/-- IN. -/
def execInPort (p : BitVec 2) (t : BitVec 9) (n : BitVec 5) (k : BitVec 1) (j : BitVec 4) (s : State) :
    Host.Outcome State Fault Refusal :=
  execBoth s p []
    (fun x => match x.beatAt n.toNat with
      | none => s
      | some b =>
        let img := laneToReg (bstrand b j.toNat) (headerStrand b j.toNat) (fmtOf (s.voLink x.c n.toNat))
        if k = 1 then x.askGive s 0 (.pop n.toNat) t img else x.give s t img)
    (fun x => x.finish s [t] (x.masked p (x.f.lanesIn n.toNat)))

/-- in.cnt: beats waiting, less those claimed. -/
def execInCnt (p : BitVec 2) (t : BitVec 9) (n : BitVec 5) (s : State) : Host.Outcome State Fault Refusal :=
  execCore s p [] (fun x =>
    x.give s t ⟨BitVec.ofNat 64 ((x.pc.sinkQ n.toNat).length - (x.countBelow (popsPort n.toNat)).1), false⟩)

/-- in.spc: free entries, less those to be pushed. -/
def execInSpc (p : BitVec 2) (t : BitVec 9) (n : BitVec 5) (s : State) : Host.Outcome State Fault Refusal :=
  execCore s p [] (fun x =>
    x.give s t ⟨BitVec.ofNat 64 (16 - (x.pc.srcQ n.toNat).length - (x.countBelow (pushesPort n.toNat)).1), false⟩)

/-- in.acc: a strand of an accumulator (R311, R323). -/
def execInAcc (p : BitVec 2) (t : BitVec 9) (k : BitVec 2) (j : BitVec 4) (s : State) : Host.Outcome State Fault Refusal :=
  execCore s p [] (fun x => x.give s t ((x.pc.accs[k.toNat]).vals.getD j.toNat {}))

/-- in.mrk: ranks, validity and kind of the next beat. -/
def execInMrk (p : BitVec 2) (t : BitVec 9) (n : BitVec 5) (s : State) : Host.Outcome State Fault Refusal :=
  execCore s p [] (fun x => match x.beatAt n.toNat with
    | none => s
    | some b => x.give s t ⟨BitVec.ofNat 64 (mrkImage b), false⟩)

/-- The strand a register makes on the link of a source port (R312, R408). -/
def CoreCtx.strandFor (x : CoreCtx) (s : State) (n j : Nat) (a : Img) (rank : Nat) : Strand :=
  let h := s.viLink x.c n
  if j = 0 ∧ (h.map (fun h => h.record)).getD false then
    { v := false, mrk := BitVec.ofNat 2 rank, img := a.v.setWidth 36 }
  else strandV rank (regToLane ⟨a.v, a.s || x.ps⟩ (fmtOf h))

/-- The flags of OUT and OUTM: SAT where the register saturates (R150, R156, R159); a record's header is taken as it is. -/
def CoreCtx.strandFlags (x : CoreCtx) (s : State) (n j : Nat) (a : Img) : Flags :=
  let h := s.viLink x.c n
  { sat := !(j == 0 && (h.map (fun h => h.record)).getD false) && regSaturates a (fmtOf h) }

/-- OUT. -/
def execOutPort (p : BitVec 2) (n : BitVec 8) (k : BitVec 1) (j : BitVec 4) (s : State) : Host.Outcome State Fault Refusal :=
  execBoth s p [.left]
    (fun x => x.askWith s 0 (x.strandFlags s n.toNat j.toNat x.a)
      (.stage n.toNat j.toNat (some (x.strandFor s n.toNat j.toNat x.a 0)) (k == 1)))
    (fun x => x.out s n.toNat (x.masked p x.a))

/-- OUTM: each rank raised to bits 1:0 of b; an empty lane of b raises nothing (DEDUCED, log 110). -/
def execOutm (p : BitVec 2) (n : BitVec 8) (k : BitVec 1) (j : BitVec 4) (s : State) : Host.Outcome State Fault Refusal :=
  execBoth s p [.left, .right]
    (fun x => x.askWith s 0 (x.strandFlags s n.toNat j.toNat x.a)
      (.stage n.toNat j.toNat (some (x.strandFor s n.toNat j.toNat x.a (x.b.v.toNat % 4))) (k == 1)))
    (fun x =>
      let ls := x.masked p x.a
      x.out s n.toNat ((List.range 16).map (fun i =>
        let l := ls.getD i {}
        match (x.b.getD i {}).val with
        | some v => { l with rank := max l.rank (v.v.toNat % 4) }
        | none => l)))

/-- MRK: standalone markers of rank bits 1:0 of a. -/
def execMrk (p : BitVec 2) (n : BitVec 8) (k : BitVec 1) (j : BitVec 4) (s : State) : Host.Outcome State Fault Refusal :=
  execBoth s p [.left]
    (fun x => x.ask s 0 (.stage n.toNat j.toNat
      (if x.a.v.toNat % 4 = 0 then none else some (strandM (x.a.v.toNat % 4))) (k == 1)))
    (fun x => x.mark s (fun f => f.place n.toNat ((x.masked p x.a).map (fun l =>
      match l.val with
      | some v => strandM (v.v.toNat % 4)
      | none => {}))))

/-! ### Segments (R313) -/

/-- LENGTH of an element's prefix: the lowest nonempty lane. -/
def lowestLane (ls : List LaneV) : Option Img := ls.findSome? (fun l => l.val)

/-- SEGL. -/
def execSegl (p : BitVec 2) (n : BitVec 8) (r : BitVec 2) (s : State) : Host.Outcome State Fault Refusal :=
  execBoth s p [.left]
    (fun x => x.ask s 0 (.push n.toNat (mkPrefix
      { length := x.a.v.toNat % 2 ^ 32, endrank := r.toNat, nolane := seqNolane x.blk.seqReg, lane := seqLane x.blk.seqReg
        gen := genOf x.blk.genReg })))
    (fun x => x.mark s (fun f => match lowestLane (x.masked p x.a) with
      | none => f
      | some v => f.placePrefix n.toNat { length := v.v.toNat % 2 ^ 32, endrank := r.toNat }))

/-- The current segment of a sink port before a slot: of the last prefix that a popping IN before it took (R313). -/
def CoreCtx.sinkSegment (x : CoreCtx) (n : Nat) : Option (Option SegId) :=
  let (k, open_) := x.countBelow (popsPort n)
  let q := x.pc.sinkQ n
  if open_ ∨ q.length < k then none
  else match ((q.take k).filter (fun b => hkind b == 2)).getLast? with
    | some b => some (some (prefixOf b))
    | none => some (if h : n < 32 then x.pc.sinkSeg[n] else none)

/-- The prefix that SEGN makes of a current segment. -/
def segnPrefix (g : Option SegId) (len : Nat) : SegId :=
  match g with
  | some g => { length := len, lane := g.lane, gen := g.gen, nolane := g.nolane, endrank := g.endrank }
  | none => { length := len }

/-- SEGN. -/
def execSegn (p : BitVec 2) (n : BitVec 8) (q : BitVec 5) (s : State) : Host.Outcome State Fault Refusal :=
  execBoth s p [.left]
    (fun x => match x.sinkSegment q.toNat with
      | none => s
      | some g => x.ask s 0 (.push n.toNat (mkPrefix (segnPrefix g (x.a.v.toNat % 2 ^ 32)))))
    (fun x => x.mark s (fun f => match lowestLane (x.masked p x.a) with
      | none => f
      | some v => f.placePrefix n.toNat (segnPrefix (f.inp q.toNat).seg (v.v.toNat % 2 ^ 32))))

/-! ### Reductions (R314) -/

/-- The value of an integer reduction's partial before anything is folded (R118, R314). -/
def intStart (kind : Nat) (uns : Bool) : Int :=
  match kind with
  | 0 => 0
  | 1 => if uns then 0 else -(2 ^ 31 : Int)
  | _ => if uns then 2 ^ 32 - 1 else 2 ^ 31 - 1

/-- A partial with nothing folded. -/
def Partial.start (slot lane kind : Nat) (uns : Bool) : Partial :=
  { slot := slot, lane := lane, wf := wfStart kind, sum := intStart kind uns }

/-- Folds one element into a partial: type 0 wf, 1 signed, 2 unsigned. -/
def Partial.fold (t : Partial) (kind type : Nat) (a : Img) : Partial :=
  if type = 0 then { t with any := true, wf := wfFold kind t.wf a }
  else
    let x : Int := if type = 1 then signedOf 32 a.v.toNat else ((a.v.toNat % 2 ^ 32 : Nat) : Int)
    let lo : Int := if type = 1 then -(2 ^ 47 : Int) else 0
    let hi : Int := if type = 1 then 2 ^ 47 - 1 else 2 ^ 48 - 1
    match kind with
    | 0 =>
      if t.clamped then { t with any := true, s := t.s || a.s }
      else
        let y := t.sum + x
        let z := min (max y lo) hi
        { t with any := true, sum := z, clamped := decide (z ≠ y), s := t.s || a.s || decide (z ≠ y) }
    | 1 => { t with any := true, sum := max t.sum x, s := t.s || a.s }
    | _ => { t with any := true, sum := min t.sum x, s := t.s || a.s }

/-- What a partial emits: integer sums saturate once (R314). -/
def Partial.emit (t : Partial) (type : Nat) : Img :=
  if type = 0 then t.wf
  else
    let r : Int := if type = 1 then min (max t.sum (-(2 ^ 31 : Int))) (2 ^ 31 - 1) else min (max t.sum 0) (2 ^ 32 - 1)
    ⟨BitVec.ofNat 64 (bitsOf 32 r), t.s || decide (r ≠ t.sum)⟩

/-- A reduction instruction on the sixteen lanes. -/
def ElemCtx.reduce (x : ElemCtx) (s : State) (p : BitVec 2) (ts : List (BitVec 9)) (kind type r : Nat) : State :=
  let lanes : List (Partial × LaneV) := (List.range 16).map (fun i =>
    let a := x.a.getD i {}
    let pl := x.p.getD i {}
    let fm := if type = 0 then 16 else 13
    let old := (x.f.partials.find? (fun t => t.slot == x.slot && t.lane == i)).getD (Partial.start x.slot i kind (type == 2))
    if !pl.fires then (old, { val := none, rank := max a.rank pl.rank, fmt := fm })
    else
      let new := match a.val with
        | some v => old.fold kind type v
        | none => old
      let rank := if p = 0 then a.rank else max a.rank pl.rank
      if r ≤ a.rank then
        (Partial.start x.slot i kind (type == 2)
        , { val := some ((new.emit type).orS fm (pl.val.getD {}).s), rank := rank, fmt := fm })
      else (new, { val := none, rank := 0, fmt := fm }))
  let f : Firing := { x.f with
    fired := x.slot :: x.f.fired
    partials := lanes.map (fun (l : Partial × LaneV) => l.1) ++ x.f.partials.filter (fun (t : Partial) => t.slot != x.slot) }
  { s with firing := some (f.deliverAll ts (lanes.map (fun (l : Partial × LaneV) => l.2))) }

/-- RSUM. -/
def execRsum (p : BitVec 2) (t u : BitVec 9) (y r : BitVec 2) (s : State) : Host.Outcome State Fault Refusal :=
  execElem s p [.left] (fun x => x.reduce s p [t, u] 0 y.toNat r.toNat)

/-- RMAX. -/
def execRmax (p : BitVec 2) (t u : BitVec 9) (y r : BitVec 2) (s : State) : Host.Outcome State Fault Refusal :=
  execElem s p [.left] (fun x => x.reduce s p [t, u] 1 y.toNat r.toNat)

/-- RMIN. -/
def execRmin (p : BitVec 2) (t u : BitVec 9) (y r : BitVec 2) (s : State) : Host.Outcome State Fault Refusal :=
  execElem s p [.left] (fun x => x.reduce s p [t, u] 2 y.toNat r.toNat)

/-! ### Records (R315) -/

/-- A record instruction: a beat of empty lanes passes empty; lane 0 must be a record header (log 13). -/
def ElemCtx.record (x : ElemCtx) (s : State) (p : BitVec 2) (ts : List (BitVec 9))
    (g : List LaneV → Img → List LaneV) : State :=
  let a := x.a
  if a.all (fun l => l.val.isNone) then x.finish s ts (x.masked p a)
  else match (a.getD 0 {}).val with
    | some h => if isHeader h then x.finish s ts (x.masked p (g a h)) else x.mark s (fun f => f.bad 0x80)
    | none => x.mark s (fun f => f.bad 0x80)

/-- The record with another header; its S is 0. -/
def withHeader (a : List LaneV) (h : Img) : List LaneV := setAt a 0 (fun l => { l with val := some ⟨h.v, false⟩, fmt := 18 })

/-- REC.GET. -/
def execRecGet (p : BitVec 2) (t u : BitVec 9) (k : BitVec 4) (s : State) : Host.Outcome State Fault Refusal :=
  execElem s p [.left] (fun x => x.record s p [t, u] (fun a _ => List.replicate 16 (a.getD k.toNat {})))

/-- REC.SET. -/
def execRecSet (p : BitVec 2) (t u : BitVec 9) (k : BitVec 4) (s : State) : Host.Outcome State Fault Refusal :=
  execElem s p [.left, .right] (fun x => x.record s p [t, u] (fun a h =>
    if k = 0 then
      match (x.b.getD 0 {}).val with
      | some v => withHeader a (mkHeader (hdrDone h) (h.v.toNat / 2 ^ 16) (hdrNval h) (hdrRej h) (v.v.toNat % 8))
      | none => setAt a 0 (fun l => { l with val := none })
    else
      let h' := mkHeader (hdrDone h) (h.v.toNat / 2 ^ 16) (max (hdrNval h) k.toNat) (hdrRej h) (h.v.toNat / 2 ^ 8)
      setAt (withHeader a h') k.toNat (fun _ => x.b.getD k.toNat {})))

/-- REC.NEW; a beat of empty lanes makes no record (log 13). -/
def execRecNew (p : BitVec 2) (t u : BitVec 9) (n : BitVec 4) (s : State) : Host.Outcome State Fault Refusal :=
  execElem s p [.left] (fun x =>
    if x.a.all (fun l => l.val.isNone) then x.finish s [t, u] (x.masked p x.a)
    else
      let gen := (((x.f.inp 0).seg.map (fun g => g.gen)).getD 0)
      let ls := (List.range 16).map (fun i =>
        if i = 0 then { val := some (mkHeader 0 gen n.toNat false 0), rank := rankMax x.a, fmt := 18 }
        else if i ≤ n.toNat then x.a.getD i {} else { val := some {} })
      x.finish s [t, u] (x.masked p ls))

/-- REC.DONE. -/
def execRecDone (p : BitVec 2) (t u : BitVec 9) (k : BitVec 3) (s : State) : Host.Outcome State Fault Refusal :=
  execElem s p [.left] (fun x => x.record s p [t, u] (fun a h =>
    withHeader a ⟨h.v ||| BitVec.ofNat 64 (2 ^ (24 + k.toNat)), false⟩))

/-- REC.REJ. -/
def execRecRej (p : BitVec 2) (t u : BitVec 9) (_k : BitVec 3) (s : State) : Host.Outcome State Fault Refusal :=
  execElem s p [.left] (fun x => x.record s p [t, u] (fun a h =>
    withHeader a ⟨h.v ||| BitVec.ofNat 64 (2 ^ 11), false⟩))

/-! ### Branches and joins (R316, R317) -/

/-- One lane of STEER: to arm 1, to arm 0, and on the order output. -/
def steerLane (a b : LaneV) (rank : Nat) : LaneV × LaneV × Option Bool :=
  let e : LaneV := { val := none, rank := rank, fmt := a.fmt }
  match a.val, b.val with
  | some v, some w =>
    let l : LaneV := { val := some (v.orS a.fmt w.s), rank := rank, fmt := a.fmt }
    if w.v.getLsbD 0 then (l, e, some true) else (e, l, some false)
  | _, _ => (e, e, none)

/-- STEER on all lanes: a whole record follows the lowest nonempty lane of b. -/
def steerLanes (isRecord : Bool) (a b : List LaneV) : List (LaneV × LaneV × Option Bool) :=
  if isRecord then
    let d := (List.range 16).find? (fun i => (b.getD i {}).val.isSome)
    let w : LaneV := match d with
      | some i => b.getD i {}
      | none => {}
    (List.range 16).map (fun i =>
      let l := a.getD i {}
      let r := steerLane l w l.rank
      (r.1, r.2.1, if d = some i then w.val.map (fun v => v.v.getLsbD 0) else none))
  else (List.range 16).map (fun i =>
    let l := a.getD i {}
    let w := b.getD i {}
    steerLane l w (max l.rank w.rank))

/-- STEER. -/
def execSteer (p : BitVec 2) (t u : BitVec 9) (o : BitVec 1) (q : BitVec 2) (s : State) : Host.Outcome State Fault Refusal :=
  execElem s p [.left, .right] (fun x =>
    let a := x.masked p x.a
    let b := x.b
    let isRecord := x.f.recAt 32 x.slot .left && (match (a.getD 0 {}).val with
      | some h => isHeader h
      | none => false)
    let r := steerLanes isRecord a b
    x.mark s (fun f =>
      let f := (f.deliver t (r.map (fun e => e.1))).deliver u (r.map (fun e => e.2.1))
      if o = 1 then
        match outBeat (f.outp q.toNat) (r.map (fun e =>
          ({ val := e.2.2.map (fun v => ⟨if v then 1 else 0, false⟩) } : LaneV))) with
        | some bt => f.place q.toNat bt
        | none => f.bad 0x80
      else f))

/-- A join delivers the lanes of the beat it chose (R317). -/
def ElemCtx.join (x : ElemCtx) (s : State) (p : BitVec 2) (ts : List (BitVec 9)) : State :=
  x.finish s ts (x.masked p (x.f.lanesIn (x.f.chosen.getD 0)))

/-- MERGE. -/
def execMerge (p : BitVec 2) (t u : BitVec 9) (_m : BitVec 4) (s : State) : Host.Outcome State Fault Refusal :=
  execElem s p [] (fun x => x.join s p [t, u])

/-- OMERGE. -/
def execOmerge (p : BitVec 2) (t u : BitVec 9) (s : State) : Host.Outcome State Fault Refusal :=
  execElem s p [] (fun x => x.join s p [t, u])

/-- RECIRC. -/
def execRecirc (p : BitVec 2) (t u : BitVec 9) (s : State) : Host.Outcome State Fault Refusal :=
  execElem s p [] (fun x => x.join s p [t, u])

/-! ### Contexts (R318) -/

/-- CTXSW. -/
def execCtxsw (p : BitVec 2) (n : BitVec 8) (c : BitVec 2) (s : State) : Host.Outcome State Fault Refusal :=
  execBoth s p []
    (fun x => x.ask s 0 (.push n.toNat (mkCondBeat c.toNat)))
    (fun x => x.mark s (fun f => if x.p.any (fun l => l.fires) then f.place n.toNat (mkCondBeat c.toNat) else f))

end Sys2Proof.Machine
end

