-- ==== Sys2Proof/Machine/Volop.lean ====
section
/-! DEFINITION. The Volop fabric: flits, their CRC, the replay buffer, host messages and replies (R28 to R31, R34 to R37). -/
namespace Sys2Proof.Machine

/-! ### Ports -/

def State.port (s : State) (n : Nat) : VPort := if h : n < 18 then s.ports[n] else {}
def State.updPort (s : State) (n : Nat) (f : VPort → VPort) : State :=
  if h : n < 18 then { s with ports := s.ports.set n (f s.ports[n]) } else s

/-- The package runs: powered, out of reset, its firmware verified (R21, R46). -/
def State.live (s : State) : Bool := s.powered && !s.inReset && s.booted

def State.send (s : State) (x : Sent) : State := { s with outbox := s.outbox ++ [x] }

/-- The edge memory-port die that carries a Volop port, and the one that carries an Ethernet port (R27). -/
def portDie (n : Nat) : Nat := [8, 9, 10, 13, 14, 15].getD (n / 3) 8
def ethDie (n : Nat) : Nat := [8, 9, 14, 15].getD (n / 2) 8

/-- The node numbers this package has on its ports (R34). -/
def State.ownNodes (s : State) : List Nat := ((List.range 18).filter (fun n => (s.port n).up)).map (fun n => (s.port n).node)

/-! ### CRC-32 of IEEE 802.3 (R28) -/

/-- One bit step of the reflected register. -/
def crcBit (c : Word) : Word := if c.getLsbD 0 then (c >>> 1) ^^^ 0xEDB88320 else c >>> 1
/-- One byte. -/
def crcByte (c : Word) (b : Byte) : Word := (List.range 8).foldl (fun c _ => crcBit c) (c ^^^ b.setWidth 32)
def crc32 (bs : List Byte) : Nat := (bs.foldl crcByte 0xFFFFFFFF ^^^ 0xFFFFFFFF).toNat

/-! ### Flits (R28) -/

/-- The header of a flit. -/
structure FlitHead where
  src : Nat
  dst : Nat
  len : Nat
  nak : Bool
  ack : Nat
  seq : Nat
  vc : Nat
  type : Nat
  reserved : Nat
  deriving DecidableEq, Repr

/-- Reads the header of bytes 0 to 11. -/
def flitHead (bs : List Byte) : FlitHead :=
  let h := leNat (bs.take 12)
  { src := h / 2 ^ 56 % 2 ^ 16, dst := h / 2 ^ 40 % 2 ^ 16, len := h / 2 ^ 32 % 2 ^ 8, nak := h / 2 ^ 31 % 2 == 1
    ack := h / 2 ^ 19 % 2 ^ 12, seq := h / 2 ^ 7 % 2 ^ 12, vc := h / 2 ^ 4 % 8, type := h % 16, reserved := h / 2 ^ 72 % 2 ^ 24 }

/-- Is a flit whole: 256 bytes, its CRC right, nothing in the reserved field, LEN at most 240 (R28)? -/
def flitWhole (bs : List Byte) : Bool :=
  decide (bs.length = 256) && leNat (bs.drop 252) == crc32 (bs.take 252) && (flitHead bs).reserved == 0
    && decide ((flitHead bs).len ≤ 240)

/-- Lays out a flit. -/
def mkFlit (h : FlitHead) (payload : List Byte) : List Byte :=
  let head := h.src % 2 ^ 16 * 2 ^ 56 + h.dst % 2 ^ 16 * 2 ^ 40 + h.len % 2 ^ 8 * 2 ^ 32 + (if h.nak then 2 ^ 31 else 0)
    + h.ack % 2 ^ 12 * 2 ^ 19 + h.seq % 2 ^ 12 * 2 ^ 7 + h.vc % 8 * 2 ^ 4 + h.type % 16
  let body := leBytes 12 head ++ (payload ++ List.replicate 240 0).take 240
  body ++ leBytes 4 (crc32 body)

/-- Puts a flit on a port: it takes the next SEQ of the port, acknowledges what has arrived, and keeps a place in the replay buffer of the last
512 (R28, R30). A NAK names the last good flit. -/
def State.putFlit (s : State) (port dst vc type : Nat) (nak : Bool) (payload : List Byte) : State :=
  let p := s.port port
  let f := mkFlit { src := p.node, dst := dst, len := payload.length, nak := nak, ack := (p.recvSeq + 2 ^ 12 - 1) % 2 ^ 12
                    seq := p.sendSeq, vc := vc, type := type, reserved := 0 } payload
  let all := p.replay ++ [(p.sendSeq, f)]
  (s.updPort port (fun p => { p with sendSeq := (p.sendSeq + 1) % 2 ^ 12, replay := all.drop (all.length - 512) })).send (.flit port f)

/-- Sends a flit on a virtual channel. One without a credit waits, and holds back no other channel; whether this flit took the last credit of
its channel is free (R29, log 89). -/
def State.sendFlit (s : State) (port dst vc type : Nat) (payload : List Byte) : State :=
  if (s.port port).full.contains vc then
    s.updPort port (fun p => { p with waiting := p.waiting ++ [(vc, dst, type, payload)] })
  else
    let t := s.putFlit port dst vc type false payload
    if s.freeAt 0 % 2 = 1 then (t.updPort port (fun p => { p with full := vc :: p.full })).useFree 1 else t.useFree 1

/-- Credits come back with what a port receives, for channels that are free (log 89): what waits on them leaves in order. -/
def State.credits (s : State) (port : Nat) : State :=
  let p := s.port port
  let still := p.full.filter (fun vc => s.freeAt 0 / 2 ^ vc % 2 = 1)
  let go := p.waiting.filter (fun (w : Nat × Nat × Nat × List Byte) => !still.contains w.1)
  let s' := (s.updPort port (fun p => { p with
    full := still, waiting := p.waiting.filter (fun (w : Nat × Nat × Nat × List Byte) => still.contains w.1) })).useFree 1
  go.foldl (fun s (w : Nat × Nat × Nat × List Byte) => s.sendFlit port w.2.1 w.1 w.2.2.1 w.2.2.2) s'

/-! ### Requests to the memory of hosts (R28, R29, R37, R166) -/

/-- A port that is up and reaches a node: one that is preferred, or else the lowest (R35). -/
def State.portTo (s : State) (first : Option Nat) (node : Nat) : Option Nat :=
  match first.filter (fun n => (s.port n).up) with
  | some n => some n
  | none => (List.range 18).find? (fun n => (s.port n).up && Config.reaches n node)

/-- The flits of a request or response: how many there are is free, and so are their payloads, whose layout the spec does not give (log 86). -/
def State.memFlits (s : State) (port node vc type : Nat) (bytes : List Byte) : State :=
  let n := 1 + s.freeAt 0 % (bytes.length + 1)
  (List.range n).foldl (fun s k => s.sendFlit port node vc type ((List.range 240).map (fun i => Config.memByte bytes (240 * k + i))))
    (s.useFree 1)

/-- Writes bytes to the memory of a node over VC 2. -/
def State.hostStore (s : State) (first : Option Nat) (node addr : Nat) (bytes : List Byte) : State :=
  match s.portTo first node with
  | some p => (s.send (.hostWrite p node addr bytes)).memFlits p node 2 3 bytes
  | none => s

/-- Asks the memory of a node for bytes over VC 2. -/
def State.hostAsk (s : State) (node addr len : Nat) : State :=
  match s.portTo none node with
  | some p => (s.send (.hostRead p node addr len)).memFlits p node 2 3 []
  | none => s

/-- Requests to the hosts whose memory a span reaches. -/
def State.askSpan (s : State) (sp : Span) : State :=
  sp.foldl (fun s (e : Xlat × Nat) => match regionOf e.1.pa with
    | .host n a => s.hostAsk n a e.2
    | _ => s) s

/-- Tells the package at a node something about a pipeline, over VC 3 (R82, log 95). -/
def State.tellPipe (s : State) (node : Nat) (m : PipeMsg) : State :=
  match s.portTo none node with
  | some p => (s.send (.pipe p node m)).sendFlit p node 3 1 ((List.range 240).map (Config.pipeByte m))
  | none => s

/-! ### Beats on a remote channel (R31) -/

/-- A strand in 39 bits: payload, extension, valid, marker rank. -/
def strandBits (t : Strand) : Nat := t.img.toNat + (if t.v then 2 ^ 36 else 0) + t.mrk.toNat * 2 ^ 37
def bitsStrand (n : Nat) : Strand := { v := n / 2 ^ 36 % 2 == 1, mrk := BitVec.ofNat 2 (n / 2 ^ 37), img := BitVec.ofNat 36 n }

/-- A beat in 78 bytes, strand 0 first, and back. -/
def beat78 (b : Beat) : List Byte :=
  leBytes 78 ((List.range 16).foldl (fun n i => n + strandBits (b.getD i {}) * 2 ^ (39 * i)) 0)
def ofBeat78 (bs : List Byte) : Beat := (List.range 16).map (fun i => bitsStrand (leNat (bs.take 78) / 2 ^ (39 * i) % 2 ^ 39))

/-- The payload of a remote-channel flit: channel header and up to three beats. -/
def remotePayload (chan : Nat) (bs : List Beat) : List Byte :=
  leBytes 6 (chan % 2 ^ 16 + bs.length % 4 * 2 ^ 16) ++ bs.flatMap beat78

/-- The beats that leave a remote channel now: while its port is up, those that wait go in flits of up to three (R31). -/
def remoteGo (port node chan : Nat) : Nat → List Beat → State → State
  | 0, _, s => s
  | _, [], s => s
  | fuel + 1, b :: bs, s => remoteGo port node chan fuel ((b :: bs).drop 3) (s.sendFlit port node 3 2 (remotePayload chan ((b :: bs).take 3)))

/-! ### Host messages (R35 to R37) -/

/-- Bytes of a message's body as a number. -/
def HostMsgField (m : HostMsg) (o n : Nat) : Nat := leNat ((m.body.drop o).take n)

/-- Sends a message to a node, from the port that a message came by or, when it is down, from another that reaches the node; with none there is
no way out (R35, log 91). -/
def State.tell (s : State) (port node vc code tag : Nat) (body : List Byte) : State :=
  match s.portTo (some port) node with
  | some p => s.sendFlit p node vc 1 (leBytes 2 code ++ leBytes 1 (s.port p).hostVer ++ [0] ++ leBytes 4 tag ++ body)
  | none => s

/-- Replies to a message: to its SRC, on its virtual channel, with its TAG (R35). -/
def State.reply (s : State) (m : HostMsg) (code : Nat) (body : List Byte) : State := s.tell m.port m.node m.vc code m.tag body

/-- RESULT (R36, R37). -/
def State.result (s : State) (m : HostMsg) (status bytes value : Nat) : State :=
  s.reply m 0x80 (leBytes 2 status ++ [0, 0] ++ leBytes 4 bytes ++ leBytes 8 value)

/-- Does a body keep its layout: long enough, and zero where the layout says so (R35)? -/
def layoutOk (m : HostMsg) (len : Nat) (zeros : List (Nat × Nat)) : Bool :=
  decide (len ≤ m.body.length) && m.zero == 0 && zeros.all (fun (o, n) => ((m.body.drop o).take n).all (fun b => b == 0))

/-- What the package makes of a message before its own meaning: none when a message is taken (R29, R34, R35). A port without a common version
refuses every message. -/
def State.refuse (s : State) (m : HostMsg) (vc len : Nat) (zeros : List (Nat × Nat)) : Option State :=
  if !s.live || !(s.port m.port).up then some s
  else if (s.port m.port).hostVer = 0 then some (s.result m 7 0 0)
  else if !layoutOk m len zeros then some (s.result m 6 0 0)
  else if m.pver ≠ (s.port m.port).hostVer then some (s.result m 7 0 0)
  else if m.vc ≠ vc then some (s.updPort m.port (fun p => { p with discards := p.discards + 1 }))
  else none

/-- Takes a message: refused under R35, or given its meaning. -/
def State.hear (s : State) (m : HostMsg) (vc len : Nat) (zeros : List (Nat × Nat)) (f : State → State) : State :=
  match s.refuse m vc len zeros with
  | some s => s
  | none => f s

/-- The zero fields of a buffer of R37 that begins at an offset. -/
def bufZeros (o : Nat) : List (Nat × Nat) := [(o + 2, 6), (o + 20, 4)]

/-- Writes an answer into the buffer at an offset of the body; RESULT follows once the last write is acknowledged. An answer that does not fit
is not written, and a node that refuses a write may have taken a part (R37, log 42). -/
def State.answerInto (s : State) (m : HostMsg) (o : Nat) (bytes : List Byte) (value : Nat) : State :=
  let node := HostMsgField m o 2
  let addr := HostMsgField m (o + 8) 8
  if HostMsgField m (o + 16) 4 < bytes.length then s.result m 1 bytes.length value
  else if s.refusing.contains node then
    let n := s.freeAt 0 % (bytes.length + 1)
    let s := (s.useFree 1).hostStore (some m.port) node addr (bytes.take n)
    { s with answers := s.answers ++ [{ msg := m, node := node, status := 8, bytes := n, value := value }] }
  else
    let s := s.hostStore (some m.port) node addr bytes
    { s with answers := s.answers ++ [{ msg := m, node := node, status := 0, bytes := bytes.length, value := value }] }

/-- A node has acknowledged the last write of the oldest answer that it holds: RESULT leaves (R37). -/
def State.acked (s : State) (node : Nat) : State :=
  match s.answers.find? (fun a => a.node == node) with
  | some a => ({ s with answers := s.answers.erase a } : State).result a.msg a.status a.bytes a.value
  | none => s

/-- What the memory of a host answers to a read; none where nothing answers. -/
def State.hostRead (s : State) (node addr len : Nat) : Option (List Byte) :=
  (s.hostMem.find? (fun (e : Nat × Nat × List Byte) => e.1 == node && e.2.1 == addr && decide (len ≤ e.2.2.length))).map
    (fun e => e.2.2.take len)

end Sys2Proof.Machine
end

