-- ==== Sys2Proof/Machine/Access.lean ====
section
/-! DEFINITION. The accesses of a page core (R190 to R196, R249, R332 to R334): checks at firing, what stands before an access in issue
order, what a read returns. -/
namespace Sys2Proof.Machine

/-! ### Prune ranges (R83, R99) -/

/-- dead_in of R83. -/
def deadIn (g lo hi : Nat) : Bool := decide ((g + 2 ^ 16 - lo % 2 ^ 16) % 2 ^ 16 < (hi + 2 ^ 16 - lo % 2 ^ 16) % 2 ^ 16)

/-- Is this lane and generation dead in a prune table? -/
def deadBy (t : List PruneEnt) (lane gen : Nat) : Bool := t.any (fun e => e.lane == lane && deadIn gen e.lo e.hi)

/-- The prune table of the memory-node cluster that serves a page set (R102, R339): of its memory nodes together (log 14). -/
def State.clusterTable (s : State) (lid pset : Nat) : List PruneEnt :=
  (s.nodes.filter (fun n => n.ref.lid == lid && n.pset == pset)).flatMap (fun n => n.prunes)

def State.coreDead (s : State) (c : CoreRef) (lane gen : Nat) : Bool := deadBy (s.clusterTable c.lid c.pset) lane gen

/-! ### Checks at firing (R332, R333) -/

/-- Translates and checks an access of a page core; a G page asks for the lane of SEQ (R102, R332). -/
def coreSpan (s : State) (c : CoreRef) (seq : DWord) (va len align : Nat) (k : AccKind) (gcheck : Bool) : Except XFault Span :=
  if va % align ≠ 0 then .error ⟨3, va⟩
  else match spanOf s (.core c) (s.asidOf c.lid) va len k with
    | .error f => .error f
    | .ok sp =>
      match sp.find? (fun r => gcheck && r.1.attr == 2 && (seqNolane seq || seqLane seq != r.1.lane)) with
      | some r => .error ⟨5, r.1.va⟩
      | none => .ok sp

/-- Reads, writes and atomics of a page core under its privilege. -/
def CoreCtx.rd (x : CoreCtx) : AccKind := { wr := false, rd := true, sup := x.pc.priv }
def CoreCtx.wr (x : CoreCtx) : AccKind := { wr := true, rd := false, sup := x.pc.priv }
def CoreCtx.rmw (x : CoreCtx) : AccKind := { wr := true, rd := true, sup := x.pc.priv, atomic := true }

/-- The check of an access whose failure is recorded against the block. -/
def CoreCtx.checked (x : CoreCtx) (s : State) (lsid va len align : Nat) (k : AccKind) (gcheck : Bool) (f : Span → State) : State :=
  match coreSpan s x.c x.blk.seqReg va len align k gcheck with
  | .error e => x.fail s e.code (BitVec.ofNat 64 e.va) lsid
  | .ok sp => f sp

/-! ### Dependence (R334) -/

/-- The slots that targets of a slot name. -/
def Block.feeds (b : Block) (j : Nat) : List Nat :=
  match b.insn j with
  | some i => (i.targets.filter (fun t => t != 0x1FF)).map (fun t => t.toNat % 128)
  | none => []

/-- Closes a set of slots under targets. -/
def Block.closure (b : Block) : Nat → List Nat → List Nat
  | 0, l => l
  | fuel + 1, l =>
    let n := (l.flatMap b.feeds).filter (fun j => !l.contains j)
    if n.isEmpty then l else b.closure fuel (n.eraseDups ++ l)

/-- Does a slot depend on another through a chain of targets? -/
def Block.depends (b : Block) (on j : Nat) : Bool := (b.closure b.words.length (b.feeds on)).contains j

/-! ### What stands earlier in issue order -/

/-- Do two lists of translated runs share an 8-byte word? -/
def overlap (a b : Span) : Bool := spansMeet a b

/-- Does a span touch one of the register windows (R6)? Its reads return the register and no store on its way to it: a store there
can be discarded or take only some bits (log 21). -/
def spanReg (sp : Span) : Bool :=
  sp.any (fun (r : Xlat × Nat) => match regionOf r.1.pa with
    | .registers => true
    | .counters => true
    | _ => false)

/-- The memory that a tile instruction touches. -/
def TileOp.span : TileOp → Span
  | .tld _ _ rows => rows.flatten
  | .tst _ _ rows => rows.flatten
  | .wloadW _ rows => rows.flatten
  | _ => []

/-- Does a tile instruction access memory? -/
def TileOp.touches : TileOp → Bool
  | .tld _ _ _ => true
  | .tst _ _ _ => true
  | .wloadW _ _ => true
  | _ => false

/-- The memory a posted access writes. -/
def PostKind.span : PostKind → Span
  | .store sp _ _ => sp
  | .till sp _ => sp
  | .atom sp _ => sp

/-! ### Scopes (R183) -/

/-- May an agent of a scope, other than the issuing page core, see an access of these words: in scopes plot and page the memory nodes that
serve the page set, where their declared range holds a word; in scope pset also the other page cores and the engine requests of the page
set; in the wider ones some agent always (R183, R194, R195, log 39). No words: any access. -/
def State.watched (s : State) (c : CoreRef) (scope : Nat) (sp : Option Span) : Bool :=
  let meets (n : MemNode) : Bool := match sp with
    | none => true
    | some rs => rs.any (fun r => decide (r.1.va ≤ n.limit ∧ n.base < r.1.va + r.2))
  let nodes := s.nodes.any (fun n => n.ref.lid == c.lid && n.pset == c.pset && meets n)
  let others := (s.place c.lid c.pset).any (fun p => decide (1 < p.w * p.h)) || s.engines.any (fun r => r.core.lid == c.lid && r.core.pset == c.pset)
  decide (3 ≤ scope) || nodes || (scope == 2 && others)

/-- Is this a load whose data has not been read yet: does it stand deferred at its bank? -/
def State.unread (s : State) (c : CoreRef) (uid slot : Nat) : Bool :=
  s.deferred.any (fun d => match d.who with
    | .core c' u j _ => decide (c' = c) && u == uid && j == slot
    | _ => false)

/-- Is a fence of XFENCE incomplete: is an access that it covers not performed (R196, R351)? -/
def State.fenceOpen (s : State) (c : CoreRef) (f : Fence) : Bool :=
  let p := s.core c
  p.posted.any (fun q => decide (q.seq < f.upto) && s.watched c f.scope (some q.kind.span))
    || p.tileQ.any (fun t => decide (t.seq < f.upto) && t.op.touches && s.watched c f.scope (some t.op.span))
    || f.reads.any (fun (r : Nat × Nat) => s.unread c r.1 r.2)

/-- Do XWAITs in force hold later accesses (R351)? -/
def State.heldAt (s : State) (c : CoreRef) (seq : Nat) : Bool :=
  (s.core c).holds.any (fun (t : Nat × Nat) => decide (t.2 < seq)
    && (s.core c).fences.any (fun f => s.fenceOpen c f && (f.serial == t.1 || precedes f.serial t.1)))
def State.heldNow (s : State) (c : CoreRef) : Bool := s.heldAt c ((s.core c).opSeq + 32)

/-! ### Lines of G pages (R103, R105) -/

/-- Is a line of these words one at which a write of the lane stands held? -/
def State.lineHeld (s : State) (lane : Nat) (sp : Span) : Bool :=
  s.held.any (fun w => w.lane == lane && sp.any (fun r => decide (r.1.pa / 64 ≤ w.line ∧ w.line ≤ (r.1.pa + r.2 - 1) / 64)))

/-- Has the cluster that serves a page set prune work of a lane that is not finished? -/
def State.scanning (s : State) (lid pset lane : Nat) : Bool :=
  s.nodes.any (fun n => n.ref.lid == lid && n.pset == pset && n.prunes.any (fun e => e.lane == lane && n.scan.contains e.serial))

/-- Must an access of a G page wait: behind a held write of its lane, or for the end of a scan of its lane? -/
def State.gWaits (s : State) (lid pset : Nat) (sp : Span) : Bool :=
  spanAttr sp == 2 && (s.lineHeld (spanLane sp) sp || s.scanning lid pset (spanLane sp))

/-- The same for each run of an access of many words, and: is one held only for the end of a scan? -/
def State.gFree (s : State) (lid pset : Nat) (sp : Span) : Bool := sp.all (fun r => !s.gWaits lid pset [r])
def State.gScanned (s : State) (lid pset : Nat) (sp : Span) : Bool := sp.all (fun r => r.1.attr != 2 || !s.scanning lid pset r.1.lane)

/-- The first address of a span in whose half-line an uncorrectable error stands. -/
def State.badVa (s : State) (sp : Span) : Nat :=
  ((sp.flatMap (fun r => (List.range r.2).map (fun i => (r.1.va + i, r.1.pa + i)))).find? (fun (e : Nat × Nat) => s.eccBad [e.2])).map
    (fun e => e.1) |>.getD (spanVa sp)

/-- Entry i of a copy-command list: source, destination, length, flags (R345). -/
def State.virtBytes (s : State) (o : TlbOwner) (asid va n : Nat) (sup : Bool) : Except XFault (List Byte) :=
  match spanOf s o asid va n { wr := false, rd := true, sup := sup } with
  | .error f => .error f
  | .ok sp => if s.eccBad (spanPas sp) then .error ⟨0x0C, s.badVa sp⟩ else .ok (readSpan s sp)

/-- The errors that reading such bytes meets are corrected or logged, and the memory of a host is asked for its part (R166, R223). -/
def State.virtMeet (s : State) (o : TlbOwner) (asid va n : Nat) (sup : Bool) : State :=
  match spanOf s o asid va n { wr := false, rd := true, sup := sup } with
  | .error _ => s
  | .ok sp => (s.eccMeet (spanPas sp)).askSpan sp

/-- The moves of an engine request as its list or descriptor stands now: source, destination, length (R345 to R348). -/
def State.engMoves (s : State) (r : EngReq) : List (Nat × Nat × Nat) :=
  let asid := s.asidOf r.core.lid
  let rd (va n : Nat) : List Byte := ((s.virtBytes (.die r.die) asid va n r.sup).toOption).getD []
  if r.op = 0 then
    (List.range r.count).map (fun i =>
      let b := rd (r.va + 32 * i) 32
      (leNat (b.take 8), leNat ((b.drop 8).take 8), leNat ((b.drop 16).take 4)))
  else
    let b := rd r.va 32
    let w (o n : Nat) : Nat := leNat ((b.drop o).take n)
    if r.op = 3 then
      let size := if w 21 1 % 16 < 2 then 2 else 4
      [(w 0 8, w 8 8, w 16 4 * size * (if w 20 1 = 3 then w 22 1 else 1))]
    else
      (List.range (w 24 4)).map (fun i =>
        let ix := leNat (rd (w 8 8 + 4 * i) 4)
        let t := w 0 8 + (if w 30 1 = 1 then ix * w 28 2 else ix)
        let p := w 16 8 + i * w 28 2
        if r.op = 1 then (t, p, w 28 2) else (p, t, w 28 2))

/-- Does a transfer of an engine request touch these words: its destination, or its source when `reads` asks (R344)? -/
def State.engMeets (s : State) (r : EngReq) (sp : Span) (reads : Bool) : Bool :=
  let asid := s.asidOf r.core.lid
  let at_ (va n : Nat) (k : AccKind) : Span := ((spanOf s (.die r.die) asid va n k).toOption).getD []
  (s.engMoves r).any (fun (a, b, n) =>
    overlap sp (at_ b n { wr := true, rd := false, sup := r.sup })
      || (reads && overlap sp (at_ a n { wr := false, rd := true, sup := r.sup })))

/-- Is some access of this page core to a common word still on its way, committed before place `seq` in issue order?
Stores are left out when `own` lets the access see them (R193, R249), and writes that the bank already holds when the access is to
the side-band: a till decides them again, and PRES does not wait (R103, R339, R340). -/
def State.pendingMeets (s : State) (c : CoreRef) (seq : Nat) (sp : Span) (writes own side : Bool) : Bool :=
  let p := s.core c
  p.posted.any (fun q => decide (q.seq < seq) && overlap sp q.kind.span && !(side && q.atBank) && !(own && (match q.kind with
      | .store sp' _ _ => spanAttr sp' == 0 && !spanReg sp'
      | _ => false)))
    || p.tileQ.any (fun t => decide (t.seq < seq) && overlap sp t.op.span)
    || p.streams.any (fun t => decide (t.seq < seq) && (!t.ld || writes) && overlap sp t.span)
    || s.engines.any (fun r => decide (r.core = c) && decide (r.seq < seq) && s.engMeets r sp writes)

/-- May a read be performed now, is it held to its block's commit, or must it wait (R193, R195, R249, R334)? -/
inductive Turn where
  | go | hold | wait
  deriving DecidableEq, Repr

def Turn.join (a b : Turn) : Turn :=
  if a = .wait ∨ b = .wait then .wait else if a = .hold ∨ b = .hold then .hold else .go

/-- What an act that is not performed yet asks of a later read of these words; `see` says that the read returns the data of a store
before it is performed (a load does, PRES does not: the side-band is the bank's). -/
def Act.before (s : State) (x : CoreCtx) (a : Act) (lsid : Nat) (see : Bool) (sp : Span) : Turn :=
  let h (b : Bool) : Turn := if b then .hold else .go
  match a with
  | .fence _ => .hold
  | .xwait _ => .hold
  | .barWait _ _ => .hold
  | .drain _ _ => .hold
  | .tlbi _ _ _ => .hold
  | .atom _ asp _ order scope _ => h ((order % 2 == 1 && s.watched x.c scope (some asp)) || overlap sp asp)
  | .heldRead _ _ asp acq => h (acq || overlap sp asp)
  | .store ssp _ _ _ => h ((!see || spanReg ssp) && overlap sp ssp)
  | .till asp _ => h (overlap sp asp)
  | .tile op => h (overlap sp op.span)
  | .stream t => h (!t.ld && overlap sp t.span)
  | .engine e op va n scope =>
    h (s.engMeets { core := x.c, die := s.mdieOf x.c.lid x.c.pset, engine := e, op := op, va := va, count := n, scope := scope
                    gen := 0, lane := 0, nolane := true, sup := x.pc.priv, seq := lsid } sp false)
  | _ => .go

/-- Is a slot that has not fired a plain load of other words than these: its address has arrived, and R193 lets the accesses be performed in any
order? -/
def CoreCtx.elsewhere (x : CoreCtx) (s : State) (b : Block) (j : Nat) (sp : Span) : Bool :=
  let far : Bool := match b.operand j .left with
    | none => false
    | some a => match spanOf s (.core x.c) (s.asidOf x.c.lid) a.v.toNat 16 x.rd with
      | .error _ => true
      | .ok r => !overlap r sp
  match b.insn j with
  | some (.ld _ _ _ _) => far
  | some (.ldi _ _ _ _) => far
  | some (.ldimg _ _ _ _) => far
  | _ => false

/-- What the effects of one block with LSID below a bound ask of a later read. -/
def CoreCtx.blockTurn (x : CoreCtx) (s : State) (b : Block) (bound : Nat) (own see : Bool) (sp : Span) : Turn :=
  (List.range b.words.length).foldl (fun t j =>
    match b.insn j with
    | none => t
    | some i =>
      match i.lsid with
      | none => t
      | some l =>
        if bound ≤ l.toNat || (b.phase != 0 && decide (l.toNat ≤ b.performed)) || b.nulled.contains j then t
        else if !b.fired.contains j then
          if (own && b.depends x.slot j) || x.elsewhere s b j sp then t else .wait
        else
          (b.done.filter (fun d => d.slot == j)).foldl (fun t d =>
            let r := match d.act with
              | .read acq => if acq && s.unread x.c b.uid j then Turn.wait else .go
              | a => a.before s x l.toNat see sp
            t.join (if own || r != .hold then r else .wait)) t) .go

/-- What everything earlier in issue order asks of a read by the effect with this LSID. -/
def CoreCtx.turn (x : CoreCtx) (s : State) (lsid : Nat) (see : Bool) (sp : Span) : Turn :=
  let older := (x.pc.blocks.take x.bi).foldl (fun t b => t.join (x.blockTurn s b 32 false see sp)) Turn.go
  let t := older.join (x.blockTurn s x.blk lsid true see sp)
  if s.heldNow x.c || s.pendingMeets x.c x.pc.opSeq sp false see (!see) || !s.banksRun sp then .wait else t

/-- The stores of a page core that a read sees before they are performed: posted, of older blocks in flight, and of lower LSID
(R249), in issue order. -/
def CoreCtx.ownStores (x : CoreCtx) (lsid : Nat) : List (Span × List Byte) :=
  let posted := x.pc.posted.filterMap (fun q => match q.kind with
    | .store sp bs _ => some (sp, bs)
    | _ => none)
  let ofBlock (b : Block) (bound : Nat) : List (Span × List Byte) :=
    (List.range bound).flatMap (fun l =>
      if b.phase != 0 && decide (l ≤ b.performed) then []
      else b.done.filterMap (fun d => match d.act with
        | .store sp bs _ _ => if d.lsid = l then some (sp, bs) else none
        | _ => none))
  posted ++ (x.pc.blocks.take x.bi).flatMap (fun b => ofBlock b 32) ++ ofBlock x.blk lsid

/-- The latest byte that a list of stores gives a physical address. -/
def storedByte (ws : List (Span × List Byte)) (pa : Nat) : Option Byte :=
  ws.foldl (fun r w => match ((spanPas w.1).zip w.2).find? (fun e => e.1 == pa) with
    | some e => some e.2
    | none => r) none

/-- The bytes a read returns; none when a word of a WO page is absent (R178). -/
def readOver (s : State) (ws : List (Span × List Byte)) (sp : Span) : Option (List Byte) :=
  sp.foldr (fun r acc =>
    let (x, n) := r
    (List.range n).foldr (fun i acc =>
      match acc with
      | none => none
      | some bs =>
        let pa := x.pa + i
        let own := if spanReg [(x, n)] then none else storedByte ws pa
        if x.attr = 0 then some (own.getD (s.physByte pa) :: bs)
        else if s.present pa then some (s.physByte pa :: bs)
        else own.map (fun b => b :: bs)) acc) (some [])

/-! ### Reads -/

/-- How the bytes of a read become a register image: a type of R335, 16 LDIMG.reg, 17 LDIMG.lane, 18 a plain 64-bit value,
19 a dead read (R104). -/
def loadImage (kind : Nat) (bs : List Byte) : Img :=
  let v := leNat bs
  match kind with
  | 8 => ⟨BitVec.ofNat 64 (bitsOf 64 (signedOf 8 v)), false⟩
  | 9 => ⟨BitVec.ofNat 64 (v % 2 ^ 8), false⟩
  | 12 => ⟨BitVec.ofNat 64 (bitsOf 64 (signedOf 16 v)), false⟩
  | 13 => ⟨BitVec.ofNat 64 (bitsOf 64 (signedOf 32 v)), false⟩
  | 14 => ⟨BitVec.ofNat 64 v, false⟩
  | 16 => ⟨BitVec.ofNat 64 v, v / 2 ^ 64 % 2 == 1⟩
  | 17 => ⟨BitVec.ofNat 64 (v % 2 ^ 35), v / 2 ^ 35 % 2 == 1⟩
  | 18 => ⟨BitVec.ofNat 64 v, false⟩
  | 19 => ⟨0, true⟩
  | f => toWf v f 0 false

/-- The side-band of a line as PRES delivers it (R340). -/
def presValue (s : State) (x : Xlat) : Nat :=
  if x.attr = 0 then 2 ^ 31
  else
    let l := s.line (x.pa / 64)
    (if x.attr = 2 then l.gen % 2 ^ 16 * 2 ^ 8 else 0) + l.present.toNat

/-- The die whose bank answers for a span. -/
def spanDie : Span → Nat
  | [] => 16
  | (x, _) :: _ => dieOf x.pa

/-- Data of a read sets out for the page core (R20). -/
def State.respond (s : State) (c : CoreRef) (uid slot kind : Nat) (bs : List Byte) (sp : Span) : State :=
  let r : Response := { uid := uid, slot := slot, kind := kind, bytes := bs, va := spanVa sp, die := spanDie sp, stamp := s.arrivals }
  ({ s with arrivals := s.arrivals + 1 } : State).mapCore c (fun p => { p with responses := p.responses ++ [r] })

/-- An uncorrectable error in the data of a read is recorded against its block; where the read was held to the commit it is a deferred fault
and the read delivers 0 with S = 1 (R200, R223, R334). -/
def State.readError (s : State) (c : CoreRef) (uid slot : Nat) (sp : Span) : State :=
  let lsid (b : Block) : Nat := (((b.insn slot).bind (fun i => i.lsid)).map (fun l => l.toNat)).getD 0
  match (s.core c).blocks.find? (fun b => b.uid == uid && b.phase != 0) with
  | some b => latchFault (s.respond c uid slot 19 [] sp) c 0x0C (spanVa sp) (lsid b)
  | none => s.mapCore c (fun p => { p with blocks := p.blocks.map (fun b =>
      if b.uid = uid then b.fail 0x0C (BitVec.ofNat 64 (spanVa sp)) (lsid b) else b) })

/-- The values that a word has held since its region's start token, the newest first (R186). -/
def State.olderOf (s : State) (lid pset word : Nat) : List Nat :=
  let since := ((s.place lid pset).map (fun p => p.sinceStart)).getD 0
  (s.older.take (s.older.length - since)).filterMap (fun (e : Nat × Nat) => if e.1 = word then some e.2 else none)

/-- What a load that promises invariance returns for bytes of one word of an MU page: what they hold, or one of their older values, a free
choice (R186, log 33). -/
def State.invariant (s : State) (lid pset : Nat) (sp : Span) (bs : List Byte) : List Byte :=
  match sp with
  | (x, n) :: _ =>
    let old := s.olderOf lid pset (physKey s x.pa / 8)
    let k := s.freeAt 0 % (old.length + 1)
    if k = 0 ∨ x.attr ≠ 0 then bs
    else (List.range n).map (fun i => BitVec.ofNat 8 (old.getD (k - 1) 0 / 256 ^ (x.pa % 8 + i)))
  | [] => bs

/-- A load waits at its bank until its words are present; where the bank's table of 1,024 is full, in the bank's read queue (R179). -/
def State.defer (s : State) (who : Waiter) (sp : Span) (gen : Nat) : State :=
  let bank (r : Span) : Nat × Nat := (spanDie r, vchanOf ((r.head?.map (fun e => e.1.pa)).getD 0))
  let full := decide (1024 ≤ s.deferred.countP (fun d => !d.queued && bank d.span == bank sp))
  { s with deferred := s.deferred ++ [{ who := who, span := sp, lane := spanLane sp, gen := gen, gpage := spanAttr sp == 2, queued := full }] }

/-- Performs a read whose turn has come: its data is on its way, or it is deferred at the bank (R179, R336). A kind from 32 on is that of a load
that promises invariance, which the bank serves while the launch is recorded (R220). -/
def performRead (s : State) (c : CoreRef) (uid slot kind gen : Nat) (ws : List (Span × List Byte)) (sp : Span) : State :=
  if kind = 18 then
    match sp with
    | [] => s
    | (x, _) :: _ => s.respond c uid slot 18 (leBytes 8 (presValue s x)) sp
  else if spanAttr sp = 2 ∧ s.coreDead c (spanLane sp) gen then s.respond c uid slot 19 [] sp
  else if s.eccBad (spanPas sp) then (s.eccMeet (spanPas sp)).readError c uid slot sp
  else if s.gWaits c.lid c.pset sp then s.defer (.core c uid slot (kind % 32)) sp gen
  else match readOver s ws sp with
    | some bs =>
      let s' := (s.eccMeet (spanPas sp)).askSpan sp
      if kind < 32 ∨ s.recorded c.lid then s'.respond c uid slot (kind % 32) bs sp
      else (s'.useFree 1).respond c uid slot (kind % 32) (s'.invariant c.lid c.pset sp bs) sp
    | none => s.defer (.core c uid slot (kind % 32)) sp gen

/-- A reading effect fires (R333, R334, R336). -/
def CoreCtx.read (x : CoreCtx) (s : State) (lsid kind va : Nat) (sp : Span) (acquire : Bool) : State :=
  match x.turn s lsid (kind != 18) sp with
  | .wait => s
  | .hold => x.ask s lsid (.heldRead kind va sp acquire)
  | .go => performRead (x.ask s lsid (.read acquire)) x.c x.blk.uid x.slot kind (genOf x.blk.genReg) (x.ownStores lsid) sp

end Sys2Proof.Machine
end

