-- ==== Sys2Proof/Machine/Memory.lean ====
section
/-! DEFINITION. Loads, stores, images, presence and atomics (R332 to R343). -/
namespace Sys2Proof.Machine

/-- Bytes of a type of R335. -/
def typeBytes (y : Nat) : Nat :=
  match y with
  | 0 => 2
  | 1 => 2
  | 2 => 4
  | 12 => 2
  | 13 => 4
  | 14 => 8
  | _ => 1

/-- A slot fires, asks something of the commit and asks for flags. -/
def CoreCtx.askFlags (x : CoreCtx) (s : State) (lsid : Nat) (a : Act) (fl : Flags) : State :=
  x.put s (({ x.blk.fire x.slot with flags := x.blk.flags.or fl }).ask x.slot lsid a)

/-! ### Loads (R335, R336) -/

/-- A load of a type of R335 from the address of operand a. -/
def CoreCtx.load (x : CoreCtx) (s : State) (lsid y : Nat) (acquire : Bool) : State :=
  let n := typeBytes y
  x.checked s lsid x.a.v.toNat n n x.rd true (fun sp => x.read s lsid y x.a.v.toNat sp acquire)

/-- LD (R336). -/
def execLd (p : BitVec 2) (_t : BitVec 9) (l : BitVec 5) (y : BitVec 4) (s : State) : Host.Outcome State Fault Refusal :=
  execCore s p [.left] (fun x => x.load s l.toNat y.toNat false)

/-- LDI (R186, R336): on an MU page any value that the location has held since the region's start token, elsewhere as LD. -/
def execLdi (p : BitVec 2) (_t : BitVec 9) (l : BitVec 5) (y : BitVec 4) (s : State) : Host.Outcome State Fault Refusal :=
  execCore s p [.left] (fun x =>
    let n := typeBytes y.toNat
    x.checked s l.toNat x.a.v.toNat n n x.rd true (fun sp =>
      x.read s l.toNat (if spanAttr sp = 0 ∧ !spanReg sp then 32 + y.toNat else y.toNat) x.a.v.toNat sp false))

/-- LDA (R195, R336): an acquire at its scope. -/
def execLda (p : BitVec 2) (_t : BitVec 9) (l : BitVec 5) (y : BitVec 4) (c : BitVec 3) (s : State) :
    Host.Outcome State Fault Refusal :=
  execCore s p [.left] (fun x => x.load s l.toNat y.toNat (s.watched x.c c.toNat none))

/-! ### Stores (R337) -/

/-- The code a store writes and the flags it asks for. -/
def storeCode (b : Img) (y m mode : Nat) (satf8 : Bool) : FinalRes :=
  if y ≤ 5 then finalRound b y (if m = 6 then mode else m) satf8
  else if y = 14 then { code := b.v.toNat }
  else
    let v : Int := if fmtUnsigned y then (b.v.toNat : Int) else b.v.toInt
    let r := satInt v y
    { code := bitsOf (fmtWidth y) r, fl := { sat := decide (r ≠ v) } }

/-- ST and STL: one element of a type of R335. -/
def CoreCtx.storeElem (x : CoreCtx) (s : State) (lsid y m : Nat) (release : Option Nat) : State :=
  let n := typeBytes y
  x.checked s lsid x.a.v.toNat n n x.wr true (fun sp =>
    if spanAttr sp ≠ 0 ∧ y ≠ 14 then x.fail s 6 x.a.v lsid
    else
      let r := storeCode x.b y m x.blk.mode x.blk.satf8
      x.askFlags s lsid (.store sp (leBytes n r.code) release (genOf x.blk.genReg)) r.fl)

/-- ST (R337). -/
def execSt (p : BitVec 2) (l : BitVec 5) (y : BitVec 4) (m : BitVec 3) (s : State) : Host.Outcome State Fault Refusal :=
  execCore s p [.left, .right] (fun x => x.storeElem s l.toNat y.toNat m.toNat none)

/-- STL (R195, R337): a release. -/
def execStl (p : BitVec 2) (l : BitVec 5) (y : BitVec 4) (m : BitVec 3) (c : BitVec 3) (s : State) :
    Host.Outcome State Fault Refusal :=
  execCore s p [.left, .right] (fun x => x.storeElem s l.toNat y.toNat m.toNat (some c.toNat))

/-! ### Images (R338) -/

/-- LDIMG (R338): 0 reg, 1 lane. -/
def execLdimg (p : BitVec 2) (_t : BitVec 9) (l : BitVec 5) (k : BitVec 1) (s : State) : Host.Outcome State Fault Refusal :=
  execCore s p [.left] (fun x =>
    let va := x.a.v.toNat
    if k = 0 then x.checked s l.toNat va 16 16 x.rd true (fun sp => x.read s l.toNat 16 va sp false)
    else x.checked s l.toNat va 5 8 x.rd true (fun sp => x.read s l.toNat 17 va sp false))

/-- STIMG (R338). -/
def execStimg (p : BitVec 2) (l : BitVec 5) (k : BitVec 1) (s : State) : Host.Outcome State Fault Refusal :=
  execCore s p [.left, .right] (fun x =>
    let va := x.a.v.toNat
    let g := genOf x.blk.genReg
    let bit (n : Nat) : Nat := if x.b.s then 2 ^ n else 0
    if k = 0 then
      x.checked s l.toNat va 16 16 x.wr true (fun sp =>
        x.ask s l.toNat (.store sp (leBytes 16 (x.b.v.toNat + bit 64)) none g))
    else
      x.checked s l.toNat va 5 8 x.wr true (fun sp =>
        if spanAttr sp ≠ 0 then x.fail s 6 x.a.v l.toNat
        else x.ask s l.toNat (.store sp (leBytes 5 (x.b.v.toNat % 2 ^ 35 + bit 35)) none g)))

/-! ### Presence (R339, R340) -/

/-- TILL and TILLG: every line translates, allows writes and lies on a page of the right kind. -/
def CoreCtx.tillLines (x : CoreCtx) (s : State) (lsid : Nat) (g : Bool) : State :=
  x.checked s lsid x.a.v.toNat (64 * (x.b.v.toNat % 2 ^ 32)) 64 { x.wr with least := if g then 2 else 1 } false
    (fun sp => x.ask s lsid (.till sp g))

/-- TILL (R339). -/
def execTill (p : BitVec 2) (l : BitVec 5) (s : State) : Host.Outcome State Fault Refusal :=
  execCore s p [.left, .right] (fun x => x.tillLines s l.toNat false)

/-- TILLG (R339). -/
def execTillg (p : BitVec 2) (l : BitVec 5) (s : State) : Host.Outcome State Fault Refusal :=
  execCore s p [.left, .right] (fun x => x.tillLines s l.toNat true)

/-- PRES (R340): a read of the line's eight words that never waits for presence. -/
def execPres (p : BitVec 2) (_t : BitVec 9) (l : BitVec 5) (s : State) : Host.Outcome State Fault Refusal :=
  execCore s p [.left] (fun x =>
    let va := x.a.v.toNat / 64 * 64
    match coreSpan s x.c x.blk.seqReg x.a.v.toNat 1 1 x.rd false with
    | .error e => x.fail s e.code (BitVec.ofNat 64 e.va) l.toNat
    | .ok _ => x.checked s l.toNat va 64 64 x.rd false (fun sp => x.read s l.toNat 18 va sp false))

/-! ### Atomics (R341 to R343) -/

/-- The common part of ATOM and FATOM: an MU word of the bulk store or a scratchpad. -/
def CoreCtx.atomic (x : CoreCtx) (s : State) (lsid : Nat) (t : BitVec 9) (order scope : Nat) (a : AtomOp) : State :=
  let va := x.a.v.toNat
  x.checked s lsid va a.width a.width x.rmw true (fun sp =>
    if sp.any (fun r => r.1.attr != 0 || !inStore r.1.pa) then x.fail s 5 x.a.v lsid
    else x.ask s lsid (.atom va sp a order scope (t != 0x1FF)))

/-- The new value of the word under ATOM (R342), at a width of n bits. -/
def atomNew (op n : Nat) (old x y : Nat) : Nat :=
  let o := old % 2 ^ n
  let u := x % 2 ^ n
  match op with
  | 0 => (o + u) % 2 ^ n
  | 1 => if signedOf n u < signedOf n o then u else o
  | 2 => if signedOf n o < signedOf n u then u else o
  | 3 => Nat.land o u
  | 4 => Nat.lor o u
  | 5 => u
  | _ => if o = y % 2 ^ n then u else o

/-- Performs an atomic operation on the word it finds: the new word, the value delivered, the flags (R342, R343). -/
def AtomOp.apply (a : AtomOp) (old : Nat) : Nat × Img × Flags :=
  let n := 8 * a.width
  if a.op = 7 then
    let w := toWf old 2 0 false
    let r := wfAdd w a.x
    let q := finalRound r.img 2 a.mode false
    (q.code, w, r.fl.or q.fl)
  else (atomNew a.op n old a.x.v.toNat a.y.v.toNat, ⟨BitVec.ofNat 64 (bitsOf 64 (signedOf n old)), false⟩, {})

/-- ATOM (R342): a returning effect when T0 names a target (R333, R334). -/
def execAtom (p : BitVec 2) (t : BitVec 9) (l : BitVec 5) (o : BitVec 3) (w : BitVec 1) (a : BitVec 2) (sc : BitVec 2)
    (s : State) : Host.Outcome State Fault Refusal :=
  execCore s p (if o = 6 then [.left, .right, .third] else [.left, .right]) (fun x =>
    x.atomic s l.toNat t a.toNat (sc.toNat + 2) { op := o.toNat, width := if w = 0 then 4 else 8, x := x.b, y := x.x })

/-- FATOM (R343). -/
def execFatom (p : BitVec 2) (t : BitVec 9) (l : BitVec 5) (a : BitVec 2) (sc : BitVec 2) (s : State) :
    Host.Outcome State Fault Refusal :=
  execCore s p [.left, .right] (fun x =>
    x.atomic s l.toNat t a.toNat (sc.toNat + 2) { op := 7, width := 4, x := x.b, y := {}, mode := x.blk.mode })

end Sys2Proof.Machine
end

