-- ==== Sys2Proof/Machine/Tasks.lean ====
section
/-! DEFINITION. Engine requests, fences, barriers, tasks and groups (R344 to R357). -/
namespace Sys2Proof.Machine

/-! ### Engine requests (R345, R347, R348) -/

/-- The checks of a request at firing: scope, alignment of the list or descriptor, its first line. -/
def CoreCtx.request (x : CoreCtx) (s : State) (lsid e op count scope : Nat) : State :=
  let va := x.a.v.toNat
  if count = 0 ∨ 6 ≤ scope then x.illegal s lsid
  else if va % 32 ≠ 0 then x.fail s 3 x.a.v lsid
  else x.checked s lsid va 32 1 x.rd false (fun _ => x.ask s lsid (.engine e op va count scope))

/-- CPYL (R345): list, entry count, scope. -/
def execCpyl (p : BitVec 2) (l : BitVec 5) (e : BitVec 3) (s : State) : Host.Outcome State Fault Refusal :=
  execCore s p [.left, .right, .third] (fun x =>
    x.request s l.toNat e.toNat 0 (x.b.v.toNat % 2 ^ 16) (x.x.v.toNat % 8))

/-- GATH (R347). -/
def execGath (p : BitVec 2) (l : BitVec 5) (e : BitVec 2) (s : State) : Host.Outcome State Fault Refusal :=
  execCore s p [.left, .right] (fun x => x.request s l.toNat (e.toNat + 8) 1 1 (x.b.v.toNat % 8))

/-- SCAT (R347). -/
def execScat (p : BitVec 2) (l : BitVec 5) (e : BitVec 2) (s : State) : Host.Outcome State Fault Refusal :=
  execCore s p [.left, .right] (fun x => x.request s l.toNat (e.toNat + 8) 2 1 (x.b.v.toNat % 8))

/-- COLL (R348). -/
def execColl (p : BitVec 2) (l : BitVec 5) (s : State) : Host.Outcome State Fault Refusal :=
  execCore s p [.left, .right] (fun x => x.request s l.toNat 12 3 1 (x.b.v.toNat % 8))

/-- A response element (R344). -/
def EngResp.image (r : EngResp) : Img := ⟨BitVec.ofNat 64 (r.index % 2 ^ 32 * 2 ^ 32 + r.status % 2 ^ 16), false⟩

/-- Waiting responses of an engine at a page core. -/
def PageCore.responsesOf (p : PageCore) (e : Nat) : List EngResp := if h : e < 13 then p.engResp[e] else []

/-- Is this a RESP of engine e? -/
def isResp (e : Nat) (i : Instr) : Bool :=
  match i with
  | .resp _ _ _ k => k.toNat == e
  | _ => false

/-- RESP (R349): the response whose place the RESPs in flight give it; an acquire. -/
def execResp (p : BitVec 2) (t : BitVec 9) (l : BitVec 5) (e : BitVec 4) (s : State) : Host.Outcome State Fault Refusal :=
  execCore s p [] (fun x =>
    let (k, undecided) := x.countBelow (isResp e.toNat)
    if undecided then s
    else match x.turn s l.toNat true [] with
      | .wait => s
      | .hold => x.ask s l.toNat (.heldRead 20 e.toNat [] true)
      | .go =>
        match (x.pc.responsesOf e.toNat)[k]? with
        | none => s
        | some r => x.askGive s l.toNat (.resp e.toNat) t r.image)

/-! ### Fences (R350, R351) -/

/-- FENCE (R350). -/
def execFence (p : BitVec 2) (l : BitVec 5) (c : BitVec 3) (s : State) : Host.Outcome State Fault Refusal :=
  execCore s p [] (fun x => x.ask s l.toNat (.fence c.toNat))

/-- The XFENCEs of a block with LSID below a bound: how many fired, and whether one is unsettled. -/
def Block.xfences (b : Block) (bound : Nat) : Nat × Bool :=
  (List.range b.words.length).foldl (fun acc j =>
    match b.insn j with
    | some (.xfence _ _ l _) =>
      if bound ≤ l.toNat || (b.phase != 0 && decide (l.toNat ≤ b.performed)) || b.nulled.contains j then acc
      else if b.fired.contains j then (acc.1 + 1, acc.2)
      else (acc.1, true)
    | _ => acc) (0, false)

/-- The same over the older blocks in flight and the firing block. -/
def CoreCtx.xfences (x : CoreCtx) (bound : Nat) : Nat × Bool :=
  let older := (x.pc.blocks.take x.bi).foldl (fun (acc : Nat × Bool) b =>
    let r := b.xfences 32
    (acc.1 + r.1, acc.2 || r.2)) (0, false)
  let r := x.blk.xfences bound
  (older.1 + r.1, older.2 || r.2)

/-- XFENCE (R351): delivers the serial that it receives at commit. -/
def execXfence (p : BitVec 2) (t : BitVec 9) (l : BitVec 5) (c : BitVec 3) (s : State) : Host.Outcome State Fault Refusal :=
  execCore s p [] (fun x =>
    let (n, unsettled) := x.xfences l.toNat
    let serial := (x.pc.serial + n) % 2 ^ 16
    if unsettled || decide (16 ≤ n + (x.pc.fences.filter (s.fenceOpen x.c)).length) then s
    else x.askGive s l.toNat (.xfence c.toNat serial) t ⟨BitVec.ofNat 64 serial, false⟩)

/-- XWAIT (R351). -/
def execXwait (p : BitVec 2) (l : BitVec 5) (s : State) : Host.Outcome State Fault Refusal :=
  execCore s p [.left] (fun x => x.ask s l.toNat (.xwait (x.a.v.toNat % 2 ^ 16)))

/-! ### Barriers (R353) -/

/-- BAR.INIT (R353). -/
def execBarInit (p : BitVec 2) (l : BitVec 5) (c : BitVec 3) (b : BitVec 4) (s : State) : Host.Outcome State Fault Refusal :=
  execCore s p [.left] (fun x =>
    let n := x.a.v.toNat % 2 ^ 16
    if n = 0 then x.illegal s l.toNat else x.ask s l.toNat (.barInit b.toNat c.toNat n))

/-- BAR.ARR (R353). -/
def execBarArr (p : BitVec 2) (l : BitVec 5) (c : BitVec 3) (b : BitVec 4) (s : State) : Host.Outcome State Fault Refusal :=
  execCore s p [] (fun x => x.ask s l.toNat (.barArr b.toNat c.toNat))

/-- BAR.WAIT (R353). -/
def execBarWait (p : BitVec 2) (l : BitVec 5) (c : BitVec 3) (b : BitVec 4) (s : State) : Host.Outcome State Fault Refusal :=
  execCore s p [] (fun x => x.ask s l.toNat (.barWait b.toNat c.toNat))

/-! ### Tasks and groups (R354 to R357) -/

/-- SPAWN (R354). -/
def execSpawn (p : BitVec 2) (l : BitVec 5) (s : State) : Host.Outcome State Fault Refusal :=
  execCore s p [.left, .right, .third] (fun x =>
    let tiles := x.b.v.toNat % 2 ^ 32
    if tiles = 0 ∨ x.blk.gidx = 0xFFFFFFFF then x.illegal s l.toNat
    else x.ask s l.toNat (.spawn (x.a.v.toNat % 2 ^ 32) tiles x.x.v))

/-- GRAISE (R355): a returning effect. -/
def execGraise (p : BitVec 2) (_t : BitVec 9) (l : BitVec 5) (s : State) : Host.Outcome State Fault Refusal :=
  execCore s p [.left] (fun x => x.ask s l.toNat (.graise (x.a.v.toNat % 2 ^ 32)))

/-- GIDX.idx (R356). -/
def execGidxIdx (p : BitVec 2) (t : BitVec 9) (s : State) : Host.Outcome State Fault Refusal :=
  execCore s p [] (fun x => x.give s t ⟨x.blk.gidx, false⟩)

/-- GIDX.cnt (R356). -/
def execGidxCnt (p : BitVec 2) (t : BitVec 9) (s : State) : Host.Outcome State Fault Refusal :=
  execCore s p [] (fun x => x.give s t ⟨x.blk.gcount, false⟩)

/-- TDONE (R357). -/
def execTdone (p : BitVec 2) (l : BitVec 5) (j : BitVec 3) (s : State) : Host.Outcome State Fault Refusal :=
  execCore s p [.left] (fun x => x.ask s l.toNat (.tdone j.toNat (x.a.v.toNat % 2 ^ 12)))

end Sys2Proof.Machine
end

