-- ==== Sys2Proof/Machine/Tiles.lean ====
section
/-! DEFINITION. The tile, matrix and sorting instructions as they fire (R358 to R370). -/
namespace Sys2Proof.Machine

/-- A tile instruction fires once every earlier one has; a failed check is ILLEGAL_INSN (R358). -/
def CoreCtx.tileOp (x : CoreCtx) (s : State) (lsid : Nat) (check : Shadow → Bool) (op : Shadow → TileOp) : State :=
  if !x.tileReady then s
  else
    let h := x.shadow s
    if check h then x.ask s lsid (.tile (op h)) else x.illegal s lsid

/-! ### Tiles and memory (R359) -/

/-- The alignment of a tile's rows in memory. -/
def rowAlign (f : Nat) : Nat := if fmtIsMx f then 1 else max 1 (fmtWidth f / 8)

/-- The translated rows of a tile in memory, or the first fault. -/
def rowSpans (s : State) (x : CoreCtx) (k : AccKind) (len stride : Nat) : Nat → Nat → Except XFault (List Span)
  | 0, _ => .ok []
  | n + 1, va =>
    match coreSpan s x.c x.blk.seqReg va len 1 k true with
    | .error f => .error f
    | .ok sp =>
      match rowSpans s x k len stride n (va + stride) with
      | .error f => .error f
      | .ok r => .ok (sp :: r)

/-- The checks of TLD and TST, and the rows they move. -/
def CoreCtx.moveTile (x : CoreCtx) (s : State) (lsid : Nat) (v : DWord) (wr : Bool)
    (op : Nat → List Span → TileOp) : State :=
  let va := x.a.v.toNat
  let stride := x.b.v.toNat % 2 ^ 32
  let len := rowBytes v
  let al := rowAlign (tshType v)
  if va % al ≠ 0 ∨ stride % al ≠ 0 ∨ (stride ≠ 0 ∧ stride < len) then x.fail s 3 x.a.v lsid
  else
    let step := if stride = 0 then len else stride
    match rowSpans s x (if wr then x.wr else x.rd) len step (tshRows v) va with
    | .error f => x.fail s f.code (BitVec.ofNat 64 f.va) lsid
    | .ok rows =>
      if wr && rows.any (fun sp => sp.any (fun r => r.1.attr != 0))
          && decide (va % 8 ≠ 0 ∨ stride % 8 ≠ 0 ∨ len % 8 ≠ 0) then x.fail s 6 x.a.v lsid
      else x.ask s lsid (.tile (op step rows))

/-- TLD (R359). -/
def execTld (p : BitVec 2) (l : BitVec 5) (k : BitVec 4) (s : State) : Host.Outcome State Fault Refusal :=
  execCore s p [.left, .right] (fun x =>
    if !x.tileReady then s
    else x.moveTile s l.toNat ((x.shadow s).shape k.toNat) false (.tld k.toNat))

/-- TST (R359). -/
def execTst (p : BitVec 2) (l : BitVec 5) (k : BitVec 4) (s : State) : Host.Outcome State Fault Refusal :=
  execCore s p [.left, .right] (fun x =>
    if !x.tileReady then s
    else x.moveTile s l.toNat ((x.shadow s).shape k.toNat) true (.tst k.toNat))

/-! ### Tile registers (R361) -/

/-- TZERO (R361). -/
def execTzero (p : BitVec 2) (k : BitVec 4) (s : State) : Host.Outcome State Fault Refusal :=
  execCore s p [] (fun x => x.tileOp s 0 (fun _ => true) (fun _ => .zero k.toNat))

/-- TRESHAPE (R361). -/
def execTreshape (p : BitVec 2) (k : BitVec 4) (s : State) : Host.Outcome State Fault Refusal :=
  execCore s p [.left] (fun x =>
    let v := x.a.v.extractLsb' 0 21
    x.tileOp s 0 (fun _ => shapeOk (v.setWidth 64)) (fun _ => .reshape k.toNat v))

/-- May a shape be transposed (R361)? -/
def transposable (v : DWord) : Bool :=
  !fmtIsMx (tshType v) && decide (8 ≤ fmtWidth (tshType v)) && decide (tshCols v ≤ 128)

/-- TMOV (R361). -/
def execTmov (p : BitVec 2) (k : BitVec 4) (s : State) : Host.Outcome State Fault Refusal :=
  execCore s p [.left] (fun x =>
    let j := x.a.v.toNat % 16
    let tr := x.a.v.getLsbD 4
    x.tileOp s 0 (fun h => !tr || transposable (h.shape j)) (fun _ => .mov k.toNat j tr))

/-- The rounding mode a field names in a C-block (R149). -/
def CoreCtx.roundMode (x : CoreCtx) (m : Nat) : Nat := if m = 6 then x.blk.mode else m

/-- TFILL (R361). -/
def execTfill (p : BitVec 2) (k : BitVec 4) (s : State) : Host.Outcome State Fault Refusal :=
  execCore s p [.left, .right] (fun x =>
    let m := x.b.v.toNat % 8
    x.tileOp s 0 (fun h => !fmtIsMx (tshType (h.shape k.toNat)) && m != 7)
      (fun h => .fill k.toNat (fillCode x.a (tshType (h.shape k.toNat)) (x.roundMode m) x.blk.satf8)))

/-! ### The array (R363 to R368) -/

/-- Is the page's active context in systolic mode (R363)? -/
def CoreCtx.systolic (x : CoreCtx) (s : State) : Bool :=
  ((s.arrayOf (pageOf x.c)).map (fun a => a.mode == 1)).getD false

/-- The checks of WLOAD: format, K count, J count against the array (R364). -/
def wloadOk (ctl : DWord) (f jn kn : Nat) : Bool :=
  match packOf f with
  | none => false
  | some (_, p) =>
    kn % p == 0 && decide (ctl.toNat / 2 ^ 16 % 128 + kn / p ≤ 128) && decide (ctl.toNat / 2 ^ 8 % 128 + jn ≤ 128)

/-- WLOAD from a tile (R364). -/
def execWloadT (p : BitVec 2) (s : State) : Host.Outcome State Fault Refusal :=
  execCore s p [.left] (fun x =>
    let j := x.a.v.toNat % 16
    x.tileOp s 0 (fun h => x.systolic s && wloadOk x.a.v (tshType (h.shape j)) (tshRows (h.shape j)) (tshCols (h.shape j)))
      (fun _ => .wloadT x.a.v))

/-- The shape of the tile image that WLOAD reads from the weight store (R364): KM1 + 1 columns, JM1 + 1 rows. -/
def wloadCounts (ctl : DWord) : Nat × Nat × Nat :=
  (ctl.toNat % 16, ctl.toNat / 2 ^ 24 % 128 + 1, ctl.toNat / 2 ^ 32 % 512 + 1)

/-- Bytes of a row of the image: packed elements, then scales (R364). -/
def imageRow (f kn : Nat) : Nat := (kn * fmtWidth f + 7) / 8 + (if fmtIsMx f then kn / 32 else 0)

/-- WLOAD from the weight store (R364). -/
def execWloadW (p : BitVec 2) (s : State) : Host.Outcome State Fault Refusal :=
  execCore s p [.left, .right] (fun x =>
    let (f, jn, kn) := wloadCounts x.a.v
    let va := x.b.v.toNat
    let len := imageRow f kn
    if !x.tileReady then s
    else if !(x.systolic s && wloadOk x.a.v f jn kn && va % rowAlign f == 0) then x.illegal s 0
    else match rowSpans s x x.rd len len jn va with
      | .error e => x.fail s e.code (BitVec.ofNat 64 e.va) 0
      | .ok rows =>
        match rows.flatten.find? (fun r => match regionOf r.1.pa with
            | .active _ => false
            | _ => true) with
        | some r => x.fail s 5 (BitVec.ofNat 64 r.1.va) 0
        | none => x.ask s 0 (.tile (.wloadW x.a.v rows)))

/-- WSWAP (R365). -/
def execWswap (p : BitVec 2) (s : State) : Host.Outcome State Fault Refusal :=
  execCore s p [] (fun x => x.tileOp s 0 (fun _ => x.systolic s) (fun _ => .wswap))

/-- The checks of MMA (R366). -/
def mmaOk (h : Shadow) (k : Nat) (ctl : DWord) : Bool :=
  let v := h.shape k
  let q := mmaQ ctl
  match packOf (tshType v), packOf h.act with
  | some (ca, p), some (cw, p') =>
    ca == cw && p == p' && tshCols v % p == 0 && decide (tshCols v ≤ 128 * p) && decide (q + tshRows v ≤ 4)
      && (mmaZ ctl || (List.range (tshRows v)).all (fun i =>
        let c := (h.acc.toList.getD (q + i) 0)
        c == 0 || c == (if ca then 2 else 1)))
  | _, _ => false

/-- The further checks of MMAS (R367). -/
def mmasOk (h : Shadow) (k : Nat) (ctl : DWord) : Bool :=
  let v := h.shape k
  let ta := h.shape (mmaTA ctl)
  let tw := h.shape (mmaTW ctl)
  match packOf (tshType v) with
  | none => false
  | some (_, p) =>
    tshType ta == 13 && tshRows ta == 1 && tshType tw == 13 && tshRows tw == 1 && tshCols tw == 8
      && tshCols v == tshCols ta * (16 * p)

/-- MMA (R366). -/
def execMma (p : BitVec 2) (k : BitVec 4) (s : State) : Host.Outcome State Fault Refusal :=
  execCore s p [.left] (fun x =>
    x.tileOp s 0 (fun h => x.systolic s && mmaOk h k.toNat x.a.v) (fun _ => .mma k.toNat x.a.v))

/-- MMAS (R367). -/
def execMmas (p : BitVec 2) (k : BitVec 4) (s : State) : Host.Outcome State Fault Refusal :=
  execCore s p [.left] (fun x =>
    x.tileOp s 0 (fun h => x.systolic s && mmaOk h k.toNat x.a.v && mmasOk h k.toNat x.a.v)
      (fun _ => .mmas k.toNat x.a.v))

/-- ACCZ (R368). -/
def execAccz (p : BitVec 2) (m : BitVec 4) (s : State) : Host.Outcome State Fault Refusal :=
  execCore s p [] (fun x => x.tileOp s 0 (fun _ => x.systolic s) (fun _ => .accz m))

/-- ACCD (R368). -/
def execAccd (p : BitVec 2) (d : BitVec 4) (s : State) : Host.Outcome State Fault Refusal :=
  execCore s p [.left] (fun x =>
    let m := x.a.v.toNat / 2 ^ 4 % 8
    let row := x.a.v.toNat / 2 ^ 8 % 128
    x.tileOp s 0 (fun h =>
        let v := h.shape d.toNat
        let f := tshType v
        x.systolic s && (decide (f ≤ 4) || decide (8 ≤ f ∧ f ≤ 13)) && m != 7
          && decide (tshCols v ≤ 128) && decide (row < tshRows v))
      (fun _ => .accd d.toNat x.a.v (x.roundMode m) x.blk.satf8))

/-! ### Sorting (R369, R370) -/

/-- SORTCFG (R369). -/
def execSortcfg (p : BitVec 2) (s : State) : Host.Outcome State Fault Refusal :=
  execCore s p [.left] (fun x =>
    let m := x.a.v.toNat % 16
    let keep := x.a.v.toNat / 2 ^ 8 % 2 ^ 10
    let ok := ((s.arrayOf (pageOf x.c)).map (fun a => a.mode == 2)).getD false
    if ok && decide (1 ≤ m ∧ m ≤ 9 ∧ keep ≤ 2 ^ m) then x.ask s 0 (.sortcfg x.a.v) else x.illegal s 0)

/-- The checks of TOPK (R370). -/
def topkOk (h : Shadow) (k : Nat) (ctl : DWord) : Bool :=
  let kv := h.shape k
  let dv := h.shape (topkD ctl)
  let vv := h.shape (topkV ctl)
  let iv := h.shape (topkIT ctl)
  let n := topkK ctl
  let named := [topkD ctl, k] ++ (if topkVE ctl then [topkV ctl] else []) ++ (if topkIX ctl then [topkIT ctl] else [])
  !fmtIsMx (tshType kv) && decide (n ≤ tshCols kv)
    && (tshType dv == 13 || (!topkIX ctl && tshType dv == 12))
    && decide (tshRows kv ≤ tshRows dv) && decide (n ≤ tshCols dv)
    && (!topkVE ctl || (tshType vv == tshType kv && decide (tshRows kv ≤ tshRows vv) && decide (n ≤ tshCols vv)))
    && (!topkIX ctl || (tshType iv == 13 && tshRows iv == tshRows kv && tshCols iv == tshCols kv))
    && named.eraseDups.length == named.length

/-- TOPK (R370). -/
def execTopk (p : BitVec 2) (k : BitVec 4) (s : State) : Host.Outcome State Fault Refusal :=
  execCore s p [.left] (fun x => x.tileOp s 0 (fun h => topkOk h k.toNat x.a.v) (fun _ => .topk k.toNat x.a.v))

end Sys2Proof.Machine
end

