-- ==== Sys2Proof/Machine/Stream.lean ====
section
/-! DEFINITION. Stream commands, accumulators, the forager's registers, guesses and the lane commands (R319 to R331). -/
namespace Sys2Proof.Machine

/-! ### Stream commands (R320 to R323) -/

/-- Formats that STRM.MEM takes (R320). -/
def streamFmt (f : Nat) : Bool := decide (f ≤ 4) || decide (8 ≤ f ∧ f ≤ 13)

/-- STRM.MEM (R320): 0 ld, 1 st. -/
def execStrmMem (p : BitVec 2) (l : BitVec 5) (d : BitVec 1) (n : BitVec 5) (s : State) : Host.Outcome State Fault Refusal :=
  execCore s p [.left, .right] (fun x =>
    let beats := x.b.v.toNat % 2 ^ 32
    let f := x.b.v.toNat / 2 ^ 32 % 16
    let m := x.b.v.toNat / 2 ^ 36 % 8
    if !streamFmt f || m == 7 then x.illegal s l.toNat
    else
      x.checked s l.toNat x.a.v.toNat (2 * fmtWidth f * beats) (max 1 (fmtWidth f / 8)) (if d = 0 then x.rd else x.wr) true
        (fun sp => x.ask s l.toNat (.stream
          { seq := 0, ld := d == 0, port := n.toNat, tile := none, span := sp, fmt := f, mode := x.roundMode m
            satf8 := x.blk.satf8, beats := beats, lsid := l.toNat, gen := genOf x.blk.genReg })))

/-- Beats that carry a tile through a port (R321). -/
def tileBeats (v : DWord) : Nat := tshRows v * ((tshCols v + 15) / 16)

/-- STRM.TILE (R321): an effect and a tile instruction. -/
def execStrmTile (p : BitVec 2) (l : BitVec 5) (d : BitVec 1) (n : BitVec 5) (s : State) : Host.Outcome State Fault Refusal :=
  execCore s p [.left] (fun x =>
    let k := x.a.v.toNat % 16
    let m := x.a.v.toNat / 2 ^ 4 % 8
    if !x.tileReady then s
    else
      let v := (x.shadow s).shape k
      if fmtIsMx (tshType v) || m == 7 then x.illegal s l.toNat
      else x.ask s l.toNat (.stream
        { seq := 0, ld := d == 0, port := n.toNat, tile := some k, shape := v, fmt := tshType v, mode := x.roundMode m
          satf8 := x.blk.satf8, beats := tileBeats v, lsid := l.toNat, gen := genOf x.blk.genReg }))

/-- STRM.DRAIN (R322): bit 6 names every port, bit 5 the direction. -/
def execStrmDrain (p : BitVec 2) (l : BitVec 5) (i : BitVec 7) (s : State) : Host.Outcome State Fault Refusal :=
  execCore s p [.left] (fun x =>
    let scope := x.a.v.toNat % 8
    if 6 ≤ scope then x.illegal s l.toNat
    else x.ask s l.toNat (.drain (if i.getLsbD 6 then none else some (!i.getLsbD 5, i.toNat % 32)) scope))

/-- STRM.ACC (R323). -/
def execStrmAcc (p : BitVec 2) (n : BitVec 8) (z : BitVec 1) (o : BitVec 2) (k : BitVec 2) (s : State) :
    Host.Outcome State Fault Refusal :=
  execCore s p [] (fun x => x.ask s 0 (.acc n.toNat (z == 1) o.toNat k.toNat))

/-! ### The forager's registers (R319) -/

/-- The stage set of the page's active context. -/
def State.foragerOf (s : State) (g : PageRef) : Option Forager :=
  s.foragers.find? (fun f => decide (f.page = g) && f.ctx == s.pageCtx g)

/-- FGSTAGE (R319). -/
def execFgstage (p : BitVec 2) (s : State) : Host.Outcome State Fault Refusal :=
  execCore s p [.left, .right] (fun x => x.ask s 0 (.fgstage (x.a.v.toNat % 8) (x.b.v.toNat % 256)))

/-- FGSEED (R319). -/
def execFgseed (p : BitVec 2) (s : State) : Host.Outcome State Fault Refusal :=
  execCore s p [.left] (fun x => x.ask s 0 (.fgseed (x.a.v.toNat % 2 ^ 32)))

/-- The value FGSTAT delivers: 0 rej, 1 in, 2 pass, 3 lfsr, 4 win. -/
def Forager.stat (g : Forager) (f k : Nat) : Nat :=
  let ofStage (h : Stage → Nat) : Nat := ((g.stages[k]?).map h).getD 0
  match f with
  | 0 => ofStage (fun t => t.rej)
  | 1 => ofStage (fun t => t.inn)
  | 2 => ofStage (fun t => t.pass)
  | 3 => g.lfsr.toNat
  | _ => g.admitted

/-- FGSTAT (R319): fires only once every older block has committed. -/
def execFgstat (p : BitVec 2) (t _u : BitVec 9) (f : BitVec 4) (s : State) : Host.Outcome State Fault Refusal :=
  execCore s p [.left] (fun x =>
    if x.bi ≠ 0 then s
    else x.give s t ⟨BitVec.ofNat 64 (((s.foragerOf (pageOf x.c)).map
      (fun g => g.stat f.toNat (x.a.v.toNat % 8))).getD 0), false⟩)

/-! ### Guesses and generations (R325, R326) -/

/-- The lowest lane in which every operand of a guess is present. -/
def guessLane (a b c p : List LaneV) : Option (Img × Img × Img) :=
  (List.range 16).findSome? (fun i =>
    match (a.getD i {}).val, (b.getD i {}).val, (c.getD i {}).val with
    | some u, some v, some w => if (p.getD i {}).fires then some (u, v, w) else none
    | _, _, _ => none)

/-- GUESS (R325): the first guess of a segment that belongs to a lane. -/
def execGuess (p : BitVec 2) (s : State) : Host.Outcome State Fault Refusal :=
  execElem s p [.left, .right, .third] (fun x => x.mark s (fun f =>
    match f.guessPt, (f.inp 0).seg, guessLane x.a x.b x.x x.p with
    | some k, some g, some (tok, conf, pos) =>
      if g.nolane || f.guessed then f
      else { f with
        guessed := true
        guess := some { gpix := k, lane := g.lane, pos := pos.v.toNat % 2 ^ 32, gen := g.gen
                        tok := tok.v.toNat % 2 ^ 32, conf := conf } }
    | _, _, _ => f))

/-- The result of GENOF.in: bit 30 alone when there is no segment. -/
def genofImage (g : Option SegId) : Img :=
  match g with
  | none => ⟨2 ^ 30, false⟩
  | some g => ⟨BitVec.ofNat 64 (g.gen % 2 ^ 16 + g.lane % 512 * 2 ^ 16 + (if g.nolane then 2 ^ 31 else 0)), false⟩

/-- The segment of the beat that the next popping IN on a sink port will read; none when that is undecided (R326). -/
def CoreCtx.nextSegment (x : CoreCtx) (n : Nat) : Option (Option SegId) :=
  let (k, undecided) := x.countBelow (popsPort n)
  if undecided then none
  else match (x.pc.sinkQ n)[k]? with
    | none => some none
    | some b => if hkind b = 2 then some (some (prefixOf b)) else x.sinkSegment n

/-- GENOF.in (R326). -/
def execGenofIn (p : BitVec 2) (t u : BitVec 9) (s : State) : Host.Outcome State Fault Refusal :=
  execBoth s p [.left]
    (fun x =>
      if 32 ≤ x.a.v.toNat then x.finish s [t, u] { img := genofImage none }
      else match x.nextSegment x.a.v.toNat with
        | none => s
        | some g => x.finish s [t, u] { img := genofImage g })
    (fun x => x.finish s [t, u] (x.lanes p [.left] fmInt (fun a _ _ =>
      genofImage (if a.v.toNat % 2 ^ 32 < 4 then (x.f.inp (a.v.toNat % 2 ^ 32)).seg else none))))

/-- GENOF.prec (R83, R326). -/
def execGenofPrec (p : BitVec 2) (t u : BitVec 9) (s : State) : Host.Outcome State Fault Refusal :=
  execAlu s p [t, u] [.left, .right] fmInt (fun _ a b _ =>
    { img := ⟨if precedes (genOf a.v) (genOf b.v) then 1 else 0, a.s || b.s⟩ })

/-! ### The lane commands (R327 to R331) -/

/-- Does a package lane belong to a pipeline of this launch (R82, R327)? -/
def State.ownsLane (s : State) (lid lane : Nat) : Bool :=
  let sp := s.sprout (lane / 64)
  sp.owner == some lid && decide (lane % 64 < sp.nlane)

/-- The lane check of R327, then the command. -/
def CoreCtx.laneAsk (x : CoreCtx) (s : State) (lsid : Nat) (a : Act) : State :=
  let q := x.blk.seqReg
  if seqNolane q || !s.ownsLane x.c.lid (seqLane q) then x.fail s 5 q lsid else x.ask s lsid a

/-- LAUNCHP (R330). -/
def execLaunchp (p : BitVec 2) (l : BitVec 5) (s : State) : Host.Outcome State Fault Refusal :=
  execCore s p [.left, .right] (fun x =>
    x.laneAsk s l.toNat (.launchp (x.a.v.toNat % 2 ^ 32) (x.b.v.toNat % 2 ^ 32)))

/-- PRUNE (R331): b is used only by the relaunching forms. -/
def execPrune (p : BitVec 2) (l : BitVec 5) (f : BitVec 1) (r : BitVec 1) (s : State) : Host.Outcome State Fault Refusal :=
  execCore s p (if r = 1 then [.left, .right] else [.left]) (fun x =>
    x.laneAsk s l.toNat (.prune (x.a.v.toNat % 2 ^ 32) (x.b.v.toNat % 2 ^ 32) (r == 1) (f == 1)))

/-- SEQ.OPEN (R329). -/
def execSeqOpen (p : BitVec 2) (l : BitVec 5) (s : State) : Host.Outcome State Fault Refusal :=
  execCore s p [.left, .right] (fun x => x.laneAsk s l.toNat (.seqOpen (x.a.v.toNat % 2 ^ 32) x.b.v))

/-- SEQ.CLOSE (R329). -/
def execSeqClose (p : BitVec 2) (l : BitVec 5) (s : State) : Host.Outcome State Fault Refusal :=
  execCore s p [] (fun x => x.laneAsk s l.toNat .seqClose)

end Sys2Proof.Machine
end

