-- ==== Sys2Proof/Machine/System.lean ====
section
/-! DEFINITION. Traps from the program, checkpoints, translation, profiling and halts (R371 to R376). -/
namespace Sys2Proof.Machine

/-! ### Commit traps and the return (R371, R372) -/

/-- TRAP (R371). -/
def execTrap (p : BitVec 2) (i : BitVec 13) (s : State) : Host.Outcome State Fault Refusal :=
  execCore s p [] (fun x => x.ask s 0 (.ctrap 0x0B (i.setWidth 64)))

/-- SYSC (R371). -/
def execSysc (p : BitVec 2) (i : BitVec 13) (s : State) : Host.Outcome State Fault Refusal :=
  execCore s p [] (fun x => x.ask s 0 (.ctrap 0x09 (i.setWidth 64)))

/-- BRK (R371). -/
def execBrk (p : BitVec 2) (i : BitVec 13) (s : State) : Host.Outcome State Fault Refusal :=
  execCore s p [] (fun x => x.ask s 0 (.ctrap 0x0A (i.setWidth 64)))

/-- ERET (R372): an exit that needs PRIV = 1. -/
def execEret (p : BitVec 2) (_e : BitVec 3) (s : State) : Host.Outcome State Fault Refusal :=
  execCore s p [] (fun x => if !x.pc.priv then x.fail s 2 (x.blk.word x.slot) 0 else x.leave s .eret)

/-! ### Checkpoints (R373) -/

/-- The checks of CKPT at firing. -/
def CoreCtx.checkpoint (x : CoreCtx) (s : State) (lsid : Nat) (yield : Bool) : State :=
  let n := x.a.v.toNat
  if n < 128 then x.illegal s lsid
  else if x.pc.ckpta.getLsbD 0 then
    x.checked s lsid (x.pc.ckpta.toNat / 64 * 64) n 1 x.wr true (fun sp => x.ask s lsid (.ckpt yield n (some sp)))
  else x.ask s lsid (.ckpt yield n none)

/-- CKPT.cont (R373). -/
def execCkptCont (p : BitVec 2) (l : BitVec 5) (s : State) : Host.Outcome State Fault Refusal :=
  execCore s p [.left] (fun x => x.checkpoint s l.toNat false)

/-- CKPT.yield (R373). -/
def execCkptYield (p : BitVec 2) (l : BitVec 5) (s : State) : Host.Outcome State Fault Refusal :=
  execCore s p [.left] (fun x => x.checkpoint s l.toNat true)

/-! ### Translations (R374) -/

/-- TLBI (R374): needs PRIV = 1; the address is used by kind va only. -/
def execTlbi (p : BitVec 2) (l : BitVec 5) (k : BitVec 2) (c : BitVec 3) (s : State) : Host.Outcome State Fault Refusal :=
  execCore s p (if k = 0 then [.left] else []) (fun x =>
    if !x.pc.priv then x.fail s 2 (x.blk.word x.slot) l.toNat
    else x.ask s l.toNat (.tlbi k.toNat c.toNat x.a.v.toNat))

/-! ### The initiation-interval logs (R375) -/

/-- Plot n of the page of a page core. -/
def State.plotOf (s : State) (c : CoreRef) (n : Nat) : Option Plot :=
  s.plots.find? (fun q => q.lid == c.lid && q.pset == c.pset && q.x == 4 * c.px + n % 4 && q.y == 4 * c.py + n / 4)

/-- PERF.cfg (R375). -/
def execPerfCfg (p : BitVec 2) (s : State) : Host.Outcome State Fault Refusal :=
  execCore s p [.left] (fun x => x.ask s 0 (.perfCfg x.a.v))

/-- PERF.rd (R375): fires only once every older block has committed. -/
def execPerfRd (p : BitVec 2) (t _u : BitVec 9) (s : State) : Host.Outcome State Fault Refusal :=
  execCore s p [.left] (fun x =>
    if x.bi ≠ 0 then s
    else
      let ring := ((s.plotOf x.c (x.a.v.toNat % 16)).map (fun q => q.ring)).getD []
      x.give s t ⟨ring.getD (x.a.v.toNat / 16 % 64) 0, false⟩)

/-- PERF.cnt (R375). -/
def execPerfCnt (p : BitVec 2) (t _u : BitVec 9) (s : State) : Host.Outcome State Fault Refusal :=
  execCore s p [.left] (fun x =>
    if x.bi ≠ 0 then s
    else
      let ring := ((s.plotOf x.c (x.a.v.toNat % 16)).map (fun q => q.ring)).getD []
      x.give s t ⟨BitVec.ofNat 64 ring.length, false⟩)

/-- PERF.clr (R375). -/
def execPerfClr (p : BitVec 2) (s : State) : Host.Outcome State Fault Refusal :=
  execCore s p [.left] (fun x => x.ask s 0 (.perfClr (x.a.v.toNat % 16)))

/-! ### Halts (R376) -/

/-- HALTD.stop (R376). -/
def execHaltdStop (p : BitVec 2) (s : State) : Host.Outcome State Fault Refusal :=
  execCore s p [] (fun x => x.ask s 0 (.haltd false))

/-- HALTD.frz (R376). -/
def execHaltdFrz (p : BitVec 2) (s : State) : Host.Outcome State Fault Refusal :=
  execCore s p [] (fun x => x.ask s 0 (.haltd true))

end Sys2Proof.Machine
end

