-- ==== Sys2Proof/Machine/Fabric.lean ====
section
/-! DEFINITION. Links, channels and the stream sequencer: how a beat arrives, what a filter discards, where slots are free
(R99, R107 to R122, R168, R201, R323). -/
namespace Sys2Proof.Machine

/-! ### Element faults (R201) -/

/-- An element fault: the launch ends with FAULT and the record names the element and the beat (R201). -/
def State.elemFault (s : State) (lid pset x y code fchan ford : Nat) : State :=
  let (die, px, py) := match s.place lid pset with
    | some p => (p.die, 4 * p.x + x, 4 * p.y + y)
    | none => (0, x, y)
  (s.faultWith lid { status := 0x22, detail := code, die := die, plotx := px, ploty := py, fchan := fchan, ford := ford }).haltSome lid

/-- The fault of a memory node or channel node names its die and plot (0, 0) (R201). -/
def State.nodeFault (s : State) (lid die code fchan ford : Nat) : State :=
  (s.faultWith lid { status := 0x22, detail := code, die := die, fchan := fchan, ford := ford }).haltSome lid

/-- Is a launch to end, or ended? Nothing of it starts any more. -/
def State.ended (s : State) (lid : Nat) : Bool :=
  match s.launch lid with
  | some l => l.ending.isSome
  | none => true

/-! ### Fatal errors (R39, R226) -/

/-- Does a launch use a die: do its page sets or their memory nodes stand on it (R226)? -/
def State.usesDie (s : State) (lid d : Nat) : Bool := s.placed.any (fun p => p.lid == lid && (p.die == d || p.mdie == d))

/-- A fatal error of a die: the dump is taken unless one is held, the die goes offline, launches that use it end with DATA_ERROR and the
others go on (R39, R226, log 44). -/
def State.fatal (s : State) (d : Nat) : State :=
  let s := s.send (.report 9 d 0 0)
  let s := match s.dump with
    | some _ => { s with fatals := s.fatals + 1 }
    | none =>
      let bytes := (List.range (s.freeAt 0 % 0x80000000)).map (fun i => Config.freeByte (2 ^ 40 * s.fresh + i))
      { (s.store (if d = 15 then 0x7500000000 else 0x7D00000000) bytes).useFree 1 with dump := some bytes }
  let s := s.updDie d (fun x => { x with online := false })
  (s.launches.filter (fun l => s.usesDie l.lid d)).foldl (fun s l =>
    (s.endWith l.lid { status := 0x22, detail := 0x8F, die := d }).haltLaunch l.lid) s

/-- Something is read back from reserved memory. Whether it meets an uncorrectable error that stands there is free, since the spec does not
place what is kept; if it does, that is a fatal error (R226, log 93). -/
def State.reservedRead (s : State) : State :=
  match s.ecc.find? (fun (e : Nat × Nat × Bool) => reservedMem (32 * e.1) && e.2.2) with
  | none => s
  | some e => if s.freeAt 0 % 2 = 1 then ((s.useFree 1).eccAt (32 * e.1)).fatal 15 else s.useFree 1

/-! ### The pipeline of a controller (R81, R82) -/

/-- The image's description of the pipeline that a controller owns. -/
def State.pipeOf (s : State) (d : Nat) : Option (Nat × Pipe) :=
  let sp := s.sprout d
  match sp.owner with
  | none => none
  | some lid => match ((s.imageOf lid).map (fun i => i.pipes)).getD [] with
    | [] => none
    | ps => (ps[sp.pipe]?).map (fun p => (lid, p))

/-- Does a page set belong to the pipeline of a package lane's controller? -/
def State.inPipe (s : State) (lane lid pset : Nat) : Bool :=
  (s.pipeOf (lane / 64)).any (fun (e : Nat × Pipe) => e.1 == lid && e.2.psets.contains pset)

/-! ### Finding channels -/

def State.chanAt (s : State) (i : Nat) : Chan :=
  s.chans.getD i { lid := 0, num := 0, kind := 0, ctx := 0, fmt := 17, scale := 0, record := false, banked := false, slots := 0
                   srcPset := 0, srcs := [], dstPset := 0, dst := .remote }
def State.updChan (s : State) (i : Nat) (f : Chan → Chan) : State := { s with chans := setAt s.chans i f }

/-- The channels that meet a test, by place. -/
def State.chanIdx (s : State) (test : Chan → Bool) : List Nat :=
  (s.chans.zipIdx.filter (fun (e : Chan × Nat) => test e.1)).map (fun e => e.2)

/-- The channel of a launch with this number (R213). -/
def State.chanNo (s : State) (lid num : Nat) : Option Nat := (s.chanIdx (fun h => h.lid == lid && h.num == num)).head?

/-- The channel into an element port of a plot in a context, and the channels out of one. -/
def State.intoPort (s : State) (lid pset x y port ctx : Nat) : Option Nat :=
  (s.chanIdx (fun h => h.lid == lid && h.dstPset == pset && decide (h.dst = .plot x y port) && h.ctx == ctx)).head?
def State.outOfPort (s : State) (lid pset x y port ctx : Nat) : List Nat :=
  s.chanIdx (fun h => h.lid == lid && h.srcPset == pset && h.srcs.contains (.plot x y port) && h.ctx == ctx)

/-! ### Prune tables (R99) -/

def State.plotAt (s : State) (lid pset x y : Nat) : Option Plot :=
  s.plots.find? (fun q => q.lid == lid && q.pset == pset && q.x == x && q.y == y)
def State.updPlot (s : State) (lid pset x y : Nat) (f : Plot → Plot) : State :=
  { s with plots := s.plots.map (fun q => if q.lid = lid ∧ q.pset = pset ∧ q.x = x ∧ q.y = y then f q else q) }
def State.nodeAt (s : State) (r : NodeRef) : Option MemNode := s.nodes.find? (fun n => decide (n.ref = r))
def State.updNode (s : State) (r : NodeRef) (f : MemNode → MemNode) : State :=
  { s with nodes := s.nodes.map (fun n => if n.ref = r then f n else n) }

/-- The prune entries of the filters at the end of a channel: its own table and that of its consumer. -/
def State.filterOf (s : State) (h : Chan) : List PruneEnt :=
  h.table ++ (match h.dst with
    | .plot x y _ => ((s.plotAt h.lid h.dstPset x y).map (fun q => q.prunes)).getD []
    | .mem n => ((s.nodeAt ⟨h.lid, n⟩).map (fun n => n.prunes)).getD []
    | .forager px py _ =>
      ((s.foragers.find? (fun g => decide (g.page = { lid := h.lid, pset := h.dstPset, px := px, py := py }) && g.ctx == h.ctx)).map
        (fun g => g.prunes)).getD []
    | _ => [])

/-- Is a segment dead in a table? A segment of no lane never is (R115). -/
def segDead (t : List PruneEnt) (g : SegId) : Bool := !g.nolane && deadBy t g.lane g.gen

/-! ### The stream sequencer (R116, R117) -/

/-- A standalone marker that comes after the last element of its strand is merged into it, while it still waits: the highest rank stands (R117).
The list is read from its end to the segment's prefix. -/
def mergeRev (i r : Nat) : List QBeat → List QBeat
  | [] => []
  | q :: rest =>
    if hkind q.beat = 2 then q :: rest
    else if (bstrand q.beat i).v || (i == 0 && (hkind q.beat == 1 || hkind q.beat == 5)) then
      { q with beat := setAt q.beat i (fun t => { t with mrk := BitVec.ofNat 2 (max r t.mrk.toNat) }) } :: rest
    else q :: mergeRev i r rest
def Chan.mergeMark (h : Chan) (i r : Nat) : Chan := { h with beats := (mergeRev i r h.beats.reverse).reverse }

/-- Sets the rank of a strand. -/
def setRank (b : Beat) (i r : Nat) : Beat := setAt b i (fun t => { t with mrk := BitVec.ofNat 2 r })

/-- A standalone marker on one strand, and on every strand. -/
def markerOn (i r : Nat) : Beat := (List.range 16).map (fun j => if j = i then strandM r else {})
def markerAll (r : Nat) : Beat := List.replicate 16 (strandM r)
/-- The standalone marker that closes a forwarded segment: on the one strand that counts in record mode, else on every strand (R116,
log 26). -/
def closingMarker (isRecord : Bool) : Beat := if isRecord then markerOn 0 3 else markerAll 3

/-- One strand of a beat inside an open segment: the fault, or the counters and the strand that leaves. -/
def seqStrand (h : Chan) (g : SegId) (b : Beat) (i : Nat) (counted : Bool) : Except Nat (Chan × Beat) :=
  let t := bstrand b i
  let shut := h.closed.getD i false
  if counted then
    if shut then .error 0x81
    else
      let h := { h with used := setAt h.used i (fun _ => true) }
      if g.length = lengthEt then
        .ok (if t.mrk = 3 then { h with closed := setAt h.closed i (fun _ => true) } else h, b)
      else
        let n := h.counts.getD i 0 - 1
        let h := { h with counts := setAt h.counts i (fun _ => n) }
        if n = 0 then .ok ({ h with closed := setAt h.closed i (fun _ => true) }, setRank b i (max t.mrk.toNat g.endrank))
        else .ok (h, b)
  else if t.mrk = 0 then .ok (h, b)
  else if shut then .ok (h.mergeMark i t.mrk.toNat, setRank b i 0)
  else
    let h := { h with used := setAt h.used i (fun _ => true) }
    .ok (if g.length = lengthEt ∧ t.mrk = 3 then { h with closed := setAt h.closed i (fun _ => true) } else h, b)

/-- The strands of a beat inside an open segment. -/
def seqStrands (h : Chan) (g : SegId) (b : Beat) (counts : Nat → Bool) : List Nat → Except Nat (Chan × Beat)
  | [] => .ok (h, b)
  | i :: r =>
    match seqStrand h g b i (counts i) with
    | .error e => .error e
    | .ok (h, b) => seqStrands h g b counts r

/-- Has the open segment closed: some strand is used and every used one is closed? -/
def segDone (h : Chan) : Bool :=
  h.used.any (fun u => u) && (h.used.zip h.closed).all (fun (e : Bool × Bool) => !e.1 || e.2)

/-- Is the channel the entry link of a forager, which refuses what is no record (R143)? -/
def Chan.foragerEntry (h : Chan) : Bool := match h.dst with
  | .forager _ _ port => port == 0
  | _ => false

/-- What the sequencer makes of a data beat, record or tagged beat. A segment closed by et that has used no strand closes when rank 3 arrives on
any (R116). -/
def seqData (h : Chan) (b : Beat) : Except Nat (Chan × List (Beat × Bool)) :=
  let k := hkind b
  if !h.hadPrefix then .ok (h, [(b, false)])
  else
    let counts (i : Nat) : Bool := if h.record then i == 0 && k != 0 else (bstrand b i).v
    match h.seg with
    | none =>
      if h.foragerEntry && (k == 5 || (k == 0 && b.any (fun t => t.v))) then .error 0x80
      else if (List.range 16).any counts then .error 0x81
      else .ok ((List.range 16).foldl (fun h i => if (bstrand b i).mrk = 0 then h else h.mergeMark i (bstrand b i).mrk.toNat) h, [])
    | some g =>
      match seqStrands h g b counts (if h.record then [0] else List.range 16) with
      | .error e => .error e
      | .ok (h, b) =>
        let done := segDone h || (h.record && g.length == lengthEt && !h.used.any (fun u => u) && b.any (fun t => t.mrk == 3))
        let kept := if h.killed || beatEmpty b && hkind b == 0 then [] else [(b, done)]
        .ok (if done then { h with seg := none, killed := false } else h, kept)

/-- What the sequencer makes of a length prefix (R99, R116). A segment that a prune has killed is closed already: its closing prefix has
left in place of the remainder, and the next prefix finds no open segment (log 24). -/
def seqPrefix (h : Chan) (dead : SegId → Bool) (b : Beat) : Except Nat (Chan × List (Beat × Bool)) :=
  let g := prefixOf b
  if g.length = 0 then
    match h.seg.filter (fun o => !h.killed || o.lane == g.lane && o.gen == g.gen) with
    | some o =>
      if o.lane = g.lane ∧ o.gen = g.gen then
        .ok ({ h with seg := none, killed := false, hadPrefix := true }, if h.killed then [] else [(b, true)])
      else .error 0x82
    | none =>
      if dead g then .ok ({ h with seg := none, killed := false, hadPrefix := true }, [])
      else .ok ({ h with seg := none, killed := false, hadPrefix := true }, (b, false) :: (if g.endrank = 0 then [] else [(markerAll g.endrank, true)]))
  else if h.seg.isSome && !h.killed then .error 0x82
  else
    .ok ({ h with seg := some g, hadPrefix := true, counts := List.replicate 16 g.length, used := List.replicate 16 false
                  closed := List.replicate 16 false, killed := dead g }, if dead g then [] else [(b, false)])

/-- The stream sequencer: a beat arrives on a channel; the fault, or what goes into the slots with each beat that closes a segment
(R104, R109, R112, R116). -/
def seqBeat (h : Chan) (dead : SegId → Bool) (b : Beat) : Except Nat (Chan × List (Beat × Bool)) :=
  match hkind b with
  | 2 => seqPrefix h dead b
  | 3 =>
    match ckind b with
    | 1 => .ok (h, [(b, false)])
    | 2 => .ok (h, [(b, false)])
    | 3 => .ok (h, [(b, false)])
    | 4 => if h.banked then .error 0x80 else .ok (h, [(b, false)])
    | 5 => .ok (h, [])
    | _ => .error 0x80
  | 0 => seqData h b
  | 1 => if h.record then seqData h b else .error 0x80
  | 5 => if h.record then seqData h b else .error 0x80
  | _ => .error 0x80

/-- Does a channel pass a stream sequencer? Plots, memory nodes and foragers hold one for each input; a page core's sink port and the end
of a remote channel hold none, so that they raise no fault of R116 and change no rank (log 22). -/
def Chan.sequenced (h : Chan) : Bool := match h.dst with
  | .core _ _ _ => false
  | .remote => false
  | _ => true

/-- Which control beats pass where there is no sequencer: no filter lets a dead null response pass, and none but the four that a sink acts on
reaches a sink port, whose queue no control beat enters (R104, R311, log 22). -/
def Chan.passesControl (h : Chan) (kind : Nat) : Bool :=
  kind != 5 && (match h.dst with
    | .core _ _ _ => decide (1 ≤ kind ∧ kind ≤ 4)
    | _ => true)

/-- A beat arrives on a channel without a sequencer: it passes as it is; where the channel filters, its segments are followed so that
dead ones can be dropped (R99). -/
def seqLoose (h : Chan) (dead : SegId → Bool) (b : Beat) : Chan × List (Beat × Bool) :=
  match hkind b with
  | 3 => (h, if h.passesControl (ckind b) then [(b, false)] else [])
  | 2 =>
    let g := prefixOf b
    if g.length = 0 then
      ({ h with seg := none, killed := false, hadPrefix := true }, if h.killed || dead g then [] else [(b, true)])
    else
      ({ h with seg := some g, hadPrefix := true, counts := List.replicate 16 g.length, used := List.replicate 16 false
                closed := List.replicate 16 false, killed := dead g }, if dead g then [] else [(b, false)])
  | _ => match h.seg with
    | none => (h, [(b, false)])
    | some g =>
      let counts (i : Nat) : Bool := if h.record then i == 0 && hkind b != 0 else (bstrand b i).v
      match seqStrands h g b counts (if h.record then [0] else List.range 16) with
      | .error _ => (h, if h.killed then [] else [(b, false)])
      | .ok (h', _) =>
        let done := segDone h'
        (if done then { h' with seg := none, killed := false } else h', if h'.killed then [] else [(b, done)])

/-! ### Slots (R119, R126) -/

/-- Entries of a plot's buffer pool that its links draw from the shared permits, and how many permits there are. -/
def State.permits (s : State) (lid pset x y : Nat) : Nat × Nat :=
  let ls := s.chans.filter (fun h => h.lid == lid && h.kind == 0 && h.dstPset == pset && decide (1 ≤ h.slots) && (match h.dst with
    | .plot a b _ => a == x && b == y
    | _ => false))
  (ls.foldl (fun n h => n + (h.beats.length - 1)) 0, 2048 - ls.length)

/-- Beats of a context's bank that wait on a channel. -/
def Chan.load (h : Chan) (ctx : Nat) : Nat :=
  if h.banked then (h.beats.filter (fun q => q.ctx == ctx)).length
  else h.held.foldl (fun n (e : SegId × List QBeat × Bool) => n + e.2.1.length) h.beats.length

/-- The slots a channel offers one bank. -/
def Chan.bankSlots (h : Chan) : Nat := if h.banked then h.slots / 4 else h.slots

/-- Element inputs and outputs of a plot that an element names. -/
def Elem.inPorts (e : Elem) : List Nat :=
  if e.kind = 3 then [14] else ((e.code.map (fun c => c.imap)).getD []).filterMap id
def Elem.outPorts (e : Elem) : List Nat :=
  if e.kind = 3 then [15] else ((e.code.map (fun c => c.omap)).getD []).filterMap id

/-- Has a dormancy marker stopped the consumer of a channel? What arrives on a link ahead of this input's marker is its channel contents, which no slot
count limits (R204). A channel node keeps its slots (R209), but where the region that feeds it is cut too, what queues behind its marker is kept
for the resumed run without a limit, since that region's own marker stands behind it (DEDUCED, log 66). -/
def State.recording (s : State) (i : Nat) : Bool :=
  let h := s.chanAt i
  (h.kind != 0 && h.cutAt.isSome && s.cuts.any (fun c => c.lid == h.lid && c.psets.contains h.srcPset)) || h.kind == 0 && (match h.dst with
    | .plot x y port => s.elems.any (fun e => e.ref.lid == h.lid && e.ref.pset == h.dstPset && e.ref.x == x && e.ref.y == y && e.ctx == h.ctx
        && e.inPorts.contains port && !e.dormIn.isEmpty)
    | .mem m => s.nodes.any (fun n => n.ref.lid == h.lid && n.ref.node == m && !n.dormIn.isEmpty)
    | _ => false)

/-! ### Links of no slots (R57, R120, log 16) -/

/-- The element whose input a channel ends at, and those that feed a channel. -/
def State.consumer (s : State) (h : Chan) : Option Elem :=
  match h.dst with
  | .plot x y port => s.elems.find? (fun e => e.ref.lid == h.lid && e.ref.pset == h.dstPset && e.ref.x == x && e.ref.y == y
      && e.ctx == h.ctx && e.inPorts.contains port)
  | _ => none
def State.producers (s : State) (h : Chan) : List Elem :=
  s.elems.filter (fun e => e.ref.lid == h.lid && e.ref.pset == h.srcPset && e.ctx == h.ctx
    && e.outPorts.any (fun p => h.srcs.contains (.plot e.ref.x e.ref.y p)))

/-- A link of no slots. -/
def Chan.isZero (h : Chan) : Bool := h.kind == 0 && h.slots == 0

/-- The channels at the inputs of an element. -/
def State.inChans (s : State) (e : Elem) : List Nat :=
  e.inPorts.filterMap (fun p => s.intoPort e.ref.lid e.ref.pset e.ref.x e.ref.y p e.ctx)

/-- Waits a beat on a channel that can fire its consumer? -/
def Chan.dataWaits (h : Chan) : Bool := ((h.beats.dropWhile (fun q => hkind q.beat == 2)).head?).any (fun q => hkind q.beat != 3)

/-- Opcodes of the joins that are in a block: MERGE 0x75, OMERGE 0x76, RECIRC 0x77 (R317). -/
def Elem.hasOpcode (e : Elem) (o : Nat) : Bool := e.code.any (fun c => c.words.any (fun w => w.toNat / 2 ^ 24 == o))

/-- Is the consumer of an element's beats in the state in which it may fire: live, its leaf enabled, its context active? -/
def State.stands (s : State) (e : Elem) : Bool :=
  !e.blocked && e.frozen.isNone && e.dormIn.isEmpty && e.condIn.isEmpty
    && (s.plotAt e.ref.lid e.ref.pset e.ref.x e.ref.y).any (fun q => q.ctx == e.ctx)
    && s.leaves.any (fun l => decide (l.page = { lid := e.ref.lid, pset := e.ref.pset, px := e.ref.x / 4, py := e.ref.y / 4 })
        && l.leaf == e.leaf && l.token.isSome)

/-- Could an element fire with a beat on one input, its other inputs being what they are? An input of another link of no slots counts when an element
that feeds it has all its own beats; a join takes the beat when no other input holds one that it passes first. -/
def State.mates (s : State) (e : Elem) (i : Nat) : Bool :=
  let others := (s.inChans e).filter (fun j => j != i)
  let waits (j : Nat) : Bool := (s.chanAt j).dataWaits
  if e.hasOpcode 0x76 then true
  else if e.hasOpcode 0x75 || e.hasOpcode 0x77 then others.all (fun j => !waits j)
  else others.all (fun j => waits j || ((s.chanAt j).isZero && ((s.producers (s.chanAt j)).isEmpty
    || (s.producers (s.chanAt j)).any (fun p => s.stands p && (s.inChans p).all (fun k => waits k || (s.chanAt k).isZero)))))

/-- May a beat enter a link of no slots: does its consumer fire, and take it, in the same fabric cycle (R120)? -/
def State.zeroReady (s : State) : Nat → Nat → Bool
  | 0, _ => false
  | fuel + 1, i =>
    let h := s.chanAt i
    h.beats.isEmpty && (match h.dst with
      | .core px py port => decide (((s.core { lid := h.lid, pset := h.dstPset, px := px, py := py }).sinkQ port).length < 16)
      | .plot _ _ _ => match s.consumer h with
        | none => true
        | some e =>
          s.stands e && s.mates e i && e.outPorts.all (fun p => (s.outOfPort e.ref.lid e.ref.pset e.ref.x e.ref.y p e.ctx).all (fun j =>
            let o := s.chanAt j
            if o.isZero then s.zeroReady fuel j else decide (o.load e.ctx < o.bankSlots)))
      | _ => true)

/-- Has a channel room for n more beats (R119, R120, R126)? -/
def State.room (s : State) (i n ctx : Nat) : Bool :=
  let h := s.chanAt i
  !h.frozen && (s.recording i || (if h.isZero then s.zeroReady 6 i else decide (h.load ctx + n ≤ h.bankSlots) &&
    (match h.kind, h.dst with
    | 0, .plot x y _ =>
      let (used, total) := s.permits h.lid h.dstPset x y
      decide (used + (if h.beats.isEmpty then n - 1 else n) ≤ total)
    | _, _ => true)))

/-- Room for a prefix or a control beat, which fires no consumer: a link of no slots hands it over at once (R120, R309). -/
def State.ctlRoom (s : State) (i ctx : Nat) : Bool :=
  if (s.chanAt i).isZero then !(s.chanAt i).frozen && (s.chanAt i).beats.isEmpty else s.room i 1 ctx

/-! ### Die-edge channel ports (R22, R80) -/

/-- The die-edge channel port by which a channel enters the fabric die of its consumer, if it does: channel nodes, rings and remote channels
stand on memory-port dies, links do not (log 85). -/
def State.edgeOf (s : State) (h : Chan) : Option (Nat × Nat) :=
  if h.kind = 0 then none
  else match h.dst with
    | .mem _ => none
    | .remote => none
    | _ => some (s.dieOfPset h.lid h.dstPset, 2592 + (Config.edgePort h.lid h.num).val)

/-- Does a port hold a whole token, and is it open (R22, R23)? -/
def Bucket.ready (b : Bucket) : Bool := decide (1 ≤ b.level) && b.en

/-- May a channel's first beat enter the fabric: its die-edge port has a token, and the die that holds it runs (R18, R22)? -/
def State.mayEnter (s : State) (h : Chan) : Bool :=
  match s.edgeOf h with
  | none => true
  | some (d, p) => (s.bucket d p).ready && !(s.die (s.mdieOf h.lid h.dstPset)).stopped

/-- The beat that stands first on a channel, for its consumer: none while the channel is frozen, its port has no token, or the marker of a cut has
been taken from it, behind which beats belong to the resumed run (R204, R210). -/
def State.first (s : State) (i : Nat) : Option QBeat :=
  let h := s.chanAt i
  if h.frozen || h.cutAt.isSome || !s.mayEnter h then none else h.beats.head?

/-- A beat that enters the fabric costs its port one token, whatever it carries (R22). -/
def State.charge (s : State) (h : Chan) : State :=
  match s.edgeOf h with
  | none => s
  | some (d, p) => s.setBucket d p { s.bucket d p with level := (s.bucket d p).level - 1 }

/-- Does a beat wait on a channel only for its bucket (R80)? -/
def State.throttled (s : State) (h : Chan) : Bool :=
  !h.beats.isEmpty && (match s.edgeOf h with
    | some (d, p) => !(s.bucket d p).ready
    | none => false)

/-! ### Taking a beat (R213, R215) -/

/-- Fields of a breakpoint register (R214). -/
def dbpLid (v : BitVec 128) : Nat := v.toNat / 2 ^ 96
def dbpChan (v : BitVec 128) : Nat := v.toNat / 2 ^ 80 % 2 ^ 16
def dbpAct (v : BitVec 128) : Nat := v.toNat / 2 ^ 77 % 8
def dbpOrd (v : BitVec 128) : Nat := v.toNat % 2 ^ 64

/-- The breakpoints that name this beat of this channel. -/
def State.bpHits (s : State) (lid num ord : Nat) : List Nat :=
  (List.range 16).filter (fun n => if h : n < 16 then
    let v := s.dbp[n]
    dbpAct v != 0 && dbpLid v == lid && dbpChan v == num && dbpOrd v == ord else false)

/-- The consumer end of a channel takes the beat at a place in its slots: the ordinal advances, a prefix becomes the current segment,
and breakpoints that name the beat are due. -/
def State.takeAt (s : State) (i k : Nat) : State :=
  let h := s.chanAt i
  match h.beats[k]? with
  | none => s
  | some q =>
    let ord := h.ordinal + 1
    let s := s.updChan i (fun h => { h with
      beats := h.beats.eraseIdx k, ordinal := ord, noProgress := 0, freed := s.arrivals, cur := if hkind q.beat = 2 then some (prefixOf q.beat) else h.cur })
    let s := s.charge h
    { s with bpPending := s.bpPending ++ (s.bpHits h.lid h.num ord).map (fun n => (n, q.beat)) }

/-- Takes the first beat. -/
def State.take (s : State) (i : Nat) : State := s.takeAt i 0

/-! ### Sink ports and accumulators (R168, R323) -/

/-- Folds a data beat into an accumulator. -/
def Accum.foldBeat (a : Accum) (b : Beat) (fmt : Nat) : Accum :=
  let (vs, mx) := linkVals b fmt a.mx
  { a with
    vals := a.vals.zipIdx.map (fun (e : Img × Nat) => match vs.getD e.2 none with
      | some v => wfFold (a.op - 1) e.1 v
      | none => e.1)
    fresh := a.fresh.zipIdx.map (fun (e : Bool × Nat) => e.1 && (vs.getD e.2 none).isNone), mx := mx }

/-- A beat reaches a sink port: an accumulator that is fed from it takes a data beat, the queue takes any other. -/
def PageCore.sinkTake (p : PageCore) (port : Nat) (b : Beat) (fmt : Nat) : PageCore :=
  match (List.range 4).find? (fun k => if h : k < 4 then p.accs[k].port == some port && p.accs[k].op != 0 && hkind b == 0 else false) with
  | some k => if h : k < 4 then { p with accs := p.accs.set k (p.accs[k].foldBeat b fmt) } else p
  | none => if h : port < 32 then { p with sink := p.sink.set port (p.sink[port] ++ [b]) } else p

/-- Moves beats from a channel into the sink port it ends at, while the queue has room and no control beat stands first. -/
def fillSink (s : State) (i : Nat) : Nat → State
  | 0 => s
  | fuel + 1 =>
    let h := s.chanAt i
    match h.dst, s.first i with
    | .core px py port, some q =>
      let c : CoreRef := { lid := h.lid, pset := h.dstPset, px := px, py := py }
      let mine := (s.voLink c port).any (fun l => l.num == h.num) || (s.place h.lid h.dstPset).any (fun p => p.rotating)
      if hkind q.beat = 3 ∨ 16 ≤ ((s.core c).sinkQ port).length ∨ !mine then s
      else
        fillSink ((s.take i).mapCore c (fun p => p.sinkTake port q.beat h.fmt)) i fuel
    | _, _ => s

/-- Fills a sink port from every channel that ends at it. -/
def State.refillSink (s : State) (c : CoreRef) (port : Nat) : State :=
  (s.chanIdx (fun h => h.lid == c.lid && h.dstPset == c.pset && decide (h.dst = .core c.px c.py port))).foldl
    (fun s i => fillSink s i 16) s

/-- The beats that wait in an outbound remote channel leave while its pinned port is up and the receiving node has credited slots: as many as
the channel declares; a port that is disabled holds them (R31). -/
def State.sendRemote (s : State) (i : Nat) : State :=
  let h := s.chanAt i
  let n := min h.beats.length (h.slots - h.owed)
  if h.kind = 3 ∧ h.dst = .remote ∧ (s.port h.vport).up then
    remoteGo h.vport h.rnode h.rchan n ((h.beats.take n).map (fun q => q.beat)) (s.updChan i (fun h => { h with
      beats := h.beats.drop n, ordinal := h.ordinal + n, owed := h.owed + n }))
  else s

/-! ### Egress nodes (R95) -/

/-- Does an egress node release this segment? -/
def Chan.releases (h : Chan) (g : SegId) : Bool :=
  g.nolane || h.cg.any (fun (e : Nat × Nat) => e.1 == g.lane && (e.2 == g.gen || precedes g.gen e.2))

/-- Moves released segments into the slots, in order of arrival; none passes while the arriving segment streams through. -/
def Chan.release (h : Chan) : Chan :=
  if h.streaming then h
  else
    let out := h.held.filter (fun (e : SegId × List QBeat × Bool) => h.releases e.1)
    { h with
      beats := h.beats ++ out.flatMap (fun (e : SegId × List QBeat × Bool) => e.2.1)
      held := h.held.filter (fun (e : SegId × List QBeat × Bool) => !h.releases e.1)
      streaming := out.any (fun (e : SegId × List QBeat × Bool) => !e.2.2) }

/-- Puts one beat into the last group of held segments. -/
def appendHeld (q : QBeat) : List (SegId × List QBeat × Bool) → List (SegId × List QBeat × Bool)
  | [] => []
  | [(g, qs, _)] => [(g, qs ++ [q], q.closes)]
  | e :: r => e :: appendHeld q r

/-- Is the group that came last still open? -/
def Chan.heldOpen (h : Chan) : Bool := h.held.getLast?.any (fun (e : SegId × List QBeat × Bool) => !e.2.2)

/-- A beat that has passed the sequencer enters an egress node. A prefix opens a group, whole already when no beat follows it: an empty segment of
ENDRANK 0, or one that closes where no segment is open. -/
def Chan.egressTake (h : Chan) (q : QBeat) : Chan :=
  let g := prefixOf q.beat
  if hkind q.beat = 3 ∨ !h.hadPrefix then { h with beats := h.beats ++ [q] }
  else if hkind q.beat = 2 ∧ !q.closes then
    { h with held := h.held ++ [(g, [q], g.length == 0 && g.endrank == 0)] }.release
  else if h.streaming then { h with beats := h.beats ++ [q], streaming := !q.closes }.release
  else if h.heldOpen then { h with held := appendHeld q h.held }.release
  else if hkind q.beat = 2 then { h with held := h.held ++ [(g, [q], true)] }.release
  else { h with beats := h.beats ++ [q] }

/-! ### Arrival of a beat -/

/-- The consumer's plot of a channel, for the record of a fault. -/
def Chan.faultPlot (h : Chan) : Nat × Nat :=
  match h.dst with
  | .plot x y _ => (x, y)
  | .core px py _ => (4 * px, 4 * py)
  | .forager px py _ => (4 * px, 4 * py)
  | _ => (0, 0)

/-- A fault that a beat causes on a channel: the channel freezes; an outbound remote channel's fault names the edge die of the port that it is
pinned to (R31, R62, R201). -/
def State.chanFault (s : State) (i code ord : Nat) : State :=
  let h := s.chanAt i
  let s := s.updChan i (fun h => { h with frozen := true })
  match h.dst with
  | .mem n => s.nodeFault h.lid (((s.nodeAt ⟨h.lid, n⟩).map (fun n => n.die)).getD 0) code h.num ord
  | .remote => s.nodeFault h.lid (portDie h.vport) code h.num ord
  | _ => s.elemFault h.lid h.dstPset h.faultPlot.1 h.faultPlot.2 code h.num ord

/-! ### Discarding dead segments (R99) -/

/-- Walks the waiting beats of a channel, dropping those of dead segments. `cur`: the segment the next beat belongs to, whether it is
dead, and whether its prefix has left already, so that a closing prefix takes the place of its remainder. -/
def purgeGo (dead : SegId → Bool) : Option SegId → Bool → Bool → List QBeat → List QBeat
  | _, _, _, [] => []
  | cur, isDead, passed, q :: r =>
    match hkind q.beat with
    | 3 => q :: purgeGo dead cur isDead passed r
    | 2 =>
      let g := prefixOf q.beat
      if q.closes then (if isDead && !passed then [] else [q]) ++ purgeGo dead cur isDead false r
      else if dead g then purgeGo dead (some g) true false r else q :: purgeGo dead (some g) false false r
    | _ =>
      if isDead then
        let rest := purgeGo dead cur isDead false r
        match cur with
        | some g => if passed then { q with beat := closePrefix g, closes := true } :: rest else rest
        | none => rest
      else q :: purgeGo dead cur isDead passed r

/-- A filter's newest entry discards the dead segments on a channel: those in its slots, and the remainder of an open one. -/
def Chan.purge (h : Chan) (dead : SegId → Bool) : Chan :=
  let passed := h.cur.any dead && (match h.seg, h.cur with
    | some g, some c => g.same c && !h.killed
    | none, some _ => true
    | _, none => false)
  let beats := purgeGo dead h.cur passed passed h.beats
  let openDead := h.seg.any dead && !h.killed
  let closing := openDead && passed && !(beats.any (fun q => hkind q.beat == 2 && (prefixOf q.beat).length == 0))
  { h with
    beats := if closing then beats ++ (match h.cur with
      | some g => [{ beat := closePrefix g, closes := true }]
      | none => []) else beats
    held := h.held.filter (fun (e : SegId × List QBeat × Bool) => !dead e.1)
    streaming := h.streaming && !openDead
    killed := h.killed || openDead }

/-! ### Arrival of a beat on a channel -/

/-- Is the channel a stage set's return ring, which installs no entry (R99)? -/
def Chan.isReturn (h : Chan) : Bool :=
  h.kind == 2 && (match h.dst with
    | .forager _ _ _ => true
    | _ => false)

/-- A prune enters a channel node, ring or remote channel: none when it is a copy; else the entry is installed and dead segments go (R99). -/
def Chan.takePrune (h : Chan) (b : Beat) : Option Chan :=
  if h.kind = 0 ∨ h.isReturn then some h
  else if h.table.any (fun e => e.serial == beatSerial b && e.lane == beatLane b) then none
  else
    let t := h.table ++ [{ lane := beatLane b, lo := beatLo b, hi := beatHi b, serial := beatSerial b }]
    some ({ h with table := t }.purge (segDead t))

/-- A sink of a page set reports a drain marker to the home controller, when the page set belongs to its pipeline; to a controller of another
package the report goes over Volop (R82, R101). -/
def State.reportDrain (s : State) (lid pset lane serial : Nat) : State :=
  if !s.inPipe lane lid pset then
    match Config.homeNode lid with
    | some n => s.tellPipe n (.drained lane serial)
    | none => s
  else
    let sp := s.sprout (lane / 64)
    s.setSprout (lane / 64) { sp with reports := sp.reports ++ [serial] }

/-- The events that bring a beat from a link of no slots to its consumer in the same cycle; ahead of the consumer's firing, those of the elements whose
links of no slots end at the same consumer and are empty (R57, R120, log 16). -/
def State.handOvers (s : State) (h : Chan) (b : Beat) : List Instr :=
  if !h.isZero then []
  else if hkind b = 3 then (match ckind b with
    | 1 => [.pruneArrival h.lid h.num]
    | 2 => [.drainMarkerArrival h.lid h.num]
    | 3 => [.dormancyMarkerArrival h.lid h.num]
    | 4 => [.conditionTokenArrival h.lid h.num]
    | _ => [])
  else match h.dst with
    | .plot _ _ _ => match s.consumer h with
      | none => []
      | some e =>
        let peers := (((s.inChans e).map s.chanAt).filter (fun o => o.isZero && o.beats.isEmpty)).flatMap s.producers
        if hkind b = 2 || e.hasOpcode 0x75 || e.hasOpcode 0x76 || e.hasOpcode 0x77 then [.elementFire e.ref]
        else peers.map (fun p => .elementFire p.ref) ++ [.elementFire e.ref]
    | .mem m => [.bankAccess (.node ⟨h.lid, m⟩ 0)]
    | .forager px py _ => [.foragerDecision { lid := h.lid, pset := h.dstPset, px := px, py := py } h.ctx]
    | _ => []
def State.handOver (s : State) (h : Chan) (b : Beat) : State :=
  { s with agenda := (s.handOvers h b).map .event ++ s.agenda }

/-- A beat arrives on a channel: it passes the stream sequencer and the filters, and takes its slots. -/
def State.push (s : State) (i : Nat) (b : Beat) (ctx : Nat := 0) (entry : Nat := 0) : State :=
  let h := s.chanAt i
  let isPrune := hkind b == 3 && ckind b == 1
  if h.expired then s.chanFault i 0x8E (h.ordinal + h.beats.length + 1) else
  match if isPrune then h.takePrune b else some h with
  | none => s
  | some h =>
  let s := if h.egress ∧ hkind b = 3 ∧ ckind b = 2 then s.reportDrain h.lid h.srcPset (beatLane b) (beatSerial b) else s
  match (if h.sequenced then seqBeat h (segDead (s.filterOf h)) b else .ok (seqLoose h (segDead (s.filterOf h)) b)) with
  | .error code => s.chanFault i code (h.ordinal + h.beats.length + 1)
  | .ok (h, out) =>
    let qs := out.zipIdx.map (fun (e : (Beat × Bool) × Nat) =>
      ({ beat := e.1.1, entry := entry, ctx := ctx, closes := e.1.2, stamp := s.arrivals + e.2 } : QBeat))
    let h := if h.egress then qs.foldl Chan.egressTake h else { h with beats := h.beats ++ qs }
    let s := { s.updChan i (fun _ => h) with arrivals := s.arrivals + qs.length }
    ((fillSink s i 16).sendRemote i).handOver h b

/-- Pushes one beat on each of several channels, each in the bank of its context; a ring notes which of its inputs brings it (R134). -/
def State.pushAll (s : State) (is : List Nat) (b : Beat) (from_ : List Endp := []) : State :=
  is.foldl (fun s i => s.push i b (s.chanAt i).ctx ((s.chanAt i).srcs.findIdx (fun d => from_.contains d))) s

end Sys2Proof.Machine
end

