-- ==== Sys2Proof/Machine/SproutCtl.lean ====
section
/-! DEFINITION. The sprout controller: launching, pruning, committing positions, and the commands of R329 to R331
(R81 to R101, R405, R410). -/
namespace Sys2Proof.Machine

/-! ### The pipeline of a controller -/

/-- The page cores of a page set. -/
def State.coresOf (s : State) (lid pset : Nat) : List CoreRef :=
  match s.place lid pset with
  | some p => (List.range p.h).flatMap (fun y => (List.range p.w).map (fun x => { lid := lid, pset := pset, px := x, py := y }))
  | none => []

/-- The source ports of a pipeline's regions from which a link leaves: its ingresses (R81). -/
def State.ingresses (s : State) (d : Nat) : List (CoreRef × Nat) :=
  match s.pipeOf d with
  | none => []
  | some (lid, p) => p.psets.flatMap (fun ps => (s.coresOf lid ps).flatMap (fun c =>
      ((List.range 32).filter (fun n => (s.viLink c n).isSome)).map (fun n => (c, n))))

/-- Queues beats that hardware places at a source port, behind every beat already queued. -/
def PageCore.queueSrc (p : PageCore) (n : Nat) (bs : List Beat) : PageCore :=
  if h : n < 32 then { p with src := p.src.set n (p.src[n] ++ bs) } else p

/-- A source port receives a prune: it keeps the range until RETIRE, and drops its page core's beats while SEQ and GEN name a dead
generation (R99, R410). -/
def State.portPrune (s : State) (c : CoreRef) (n : Nat) (e : PruneEnt) : State :=
  let p := s.core c
  let g := genOf p.genReg
  let dead := !seqNolane p.seqReg && seqLane p.seqReg == e.lane && deadIn g e.lo e.hi
  { s with
    portPrunes := s.portPrunes ++ [(c, n, e)]
    portDrops := if dead then s.portDrops ++ [(c, n, g)] else s.portDrops }

/-- The generations of a prune's entry that are counted live until it retires (R83). -/
def Sprout.updLane (sp : Sprout) (i : Nat) (f : Lane → Lane) : Sprout := { sp with lanes := setAt sp.lanes i f }

/-- Queues a prune beat and its drain marker at ingresses, behind every beat already queued there (R98). -/
def State.queuePair (s : State) (e : PruneEnt) (is : List (CoreRef × Nat)) : State :=
  is.foldl (fun s (c, n) =>
    (s.mapCore c (fun p => p.queueSrc n [mkPruneBeat e.serial e.lane e.lo e.hi, mkDrainBeat e.serial e.lane])).portPrune c n e) s

/-- Issues a prune: a serial, an entry of PRUNES, and the pair at every ingress (R98). -/
def State.issuePrune (s : State) (d lane lo hi : Nat) : State :=
  let sp := s.sprout d
  let e : PruneEnt := { lane := lane, lo := lo, hi := hi, serial := sp.serial }
  let s := s.setSprout d { sp with serial := (sp.serial + 1) % 256, prunes := sp.prunes ++ [(e, 0, false)] }
  s.queuePair e (s.ingresses d)

/-- On a package that is not the home of a launch's pipeline, the first filter that a prune reaches in-band relays the pair to every ingress of
the pipeline there (R98). -/
def State.relayPrune (s : State) (lid : Nat) (e : PruneEnt) : State :=
  if (Config.homeNode lid).isNone || s.portPrunes.any (fun (d : CoreRef × Nat × PruneEnt) => d.1.lid == lid && decide (d.2.2 = e)) then s
  else
    let psets := (((s.imageOf lid).map (fun m => m.pipes)).getD []).flatMap (fun p => p.psets)
    s.queuePair e (psets.flatMap (fun ps => (s.coresOf lid ps).flatMap (fun c =>
      ((List.range 32).filter (fun n => (s.viLink c n).isSome)).map (fun n => (c, n)))))

/-! ### The helper steps of R93 -/

/-- Positions in the order 0, 1, 2 … relative to NPOS. -/
def Lane.find (l : Lane) (q : Nat) : Option Position := l.positions.find? (fun p => p.pos == q)
/-- The highest launched position, or NPOS − 1 (R330); kept as a number that may be NPOS − 1 = −1. -/
def Lane.high (l : Lane) : Int := l.positions.foldl (fun h p => max h (p.pos : Int)) ((l.npos : Int) - 1)
def Lane.maxfl (l : Lane) : Nat := l.maxflm1 % 16 + 1
/-- Live generations: launched and uncommitted, or killed by a prune that has not retired (R83). -/
def Lane.liveCount (l : Lane) : Nat := l.positions.length + l.killed.length
/-- May a further position be launched (R84, R93)? -/
def Lane.canLaunch (l : Lane) : Bool := decide (l.infl < l.maxfl ∧ l.liveCount < 1024) && l.pend.isNone

/-- prune(l, lo, hi): kills at once, and issues the prune or leaves it pending (R93, R101). -/
def State.doPrune (s : State) (d i lo hi : Nat) : State :=
  let sp := s.sprout d
  let l := sp.lane i
  let dead := l.positions.filter (fun p => deadIn p.gen lo hi)
  let l := { l with
    positions := l.positions.filter (fun p => !deadIn p.gen lo hi)
    infl := l.infl - dead.length, killed := l.killed ++ dead.map (fun p => p.gen)
    waiting := match l.waiting with
      | some w => if dead.any (fun p => decide (p.pos < w.1)) then none else some w
      | none => none }
  let pend := l.pend.isSome || decide (32 ≤ sp.prunes.length)
  let l := if pend then
      { l with pend := some ((l.pend.map (fun p => (if precedes lo p.1 then lo else p.1, l.gnext))).getD (lo, hi)) } else l
  let sp := { sp.updLane i (fun _ => l) with
    pendOrder := if pend && !sp.pendOrder.contains i then sp.pendOrder ++ [i] else sp.pendOrder }
  let s := s.setSprout d sp
  if pend then s else s.issuePrune d (64 * d + i) lo hi

/-- The launch segment (R93, R405): a prefix of length 1 and one record. -/
def launchSegment (lane gen q t : Nat) (re : Bool) : List Beat :=
  [ mkPrefix { lane := lane, gen := gen, nolane := false, endrank := 3, length := 1 }
  , mkRecord (mkHeader 0 gen 3 false 0) 0
      [⟨BitVec.ofNat 64 q, false⟩, ⟨BitVec.ofNat 64 t, false⟩, ⟨if re then 1 else 0, false⟩] ]

/-- launch(l, q, t) (R93): a new instance, its launch segment queued at the layer-0 ingress. -/
def State.launchPos (s : State) (d i q t : Nat) (forced : Bool) : State :=
  let sp := s.sprout d
  let l := sp.lane i
  let p : Position := { pos := q, gen := l.gnext, tok := t, forced := forced }
  let s := s.setSprout d (sp.updLane i (fun l =>
    { l with gnext := (l.gnext + 1) % 2 ^ 16, infl := l.infl + 1, positions := l.positions ++ [p]
             hi := some (max q (l.hi.getD q))
             waiting := if l.waiting.any (fun w => w.1 == q) then none else l.waiting }))
  match s.pipeOf d with
  | some (lid, pp) =>
    let c : CoreRef := { lid := lid, pset := pp.psets.headD 0, px := pp.ex, py := pp.ey }
    s.mapCore c (fun k => k.queueSrc pp.port (launchSegment (64 * d + i) l.gnext q t (l.hi.any (fun h => decide (q ≤ h)))))
  | none => s

/-- The token that ends a lane: STOPTOK, unless it is the value for none (R91). -/
def Lane.stops (l : Lane) (t : Nat) : Bool := t == l.stoptok && l.stoptok != 0xFFFFFFFF

/-- want(l, q, t) (R93). -/
def State.want (s : State) (d i q t : Nat) (forced : Bool) : State :=
  let sp := s.sprout d
  let l := sp.lane i
  if l.closing || l.stops t || q == 0 then s
  else if l.canLaunch then s.launchPos d i q t forced
  else s.setSprout d (sp.updLane i (fun l => { l with waiting := some (q, t, forced) }))

/-- Retries the waiting launch of a lane (R93). -/
def State.retry (s : State) (d i : Nat) : State :=
  let l := (s.sprout d).lane i
  match l.waiting with
  | some (q, t, forced) => if l.canLaunch && !l.closing then s.launchPos d i q t forced else s
  | none => s

/-- Closes a lane that has nothing left in flight (R96). -/
def State.tryClose (s : State) (d i : Nat) : State :=
  let sp := s.sprout d
  let l := sp.lane i
  if l.closing && l.infl == 0 && l.pend.isNone && sp.prunes.all (fun p => p.1.lane != 64 * d + i) then
    s.setSprout d (sp.updLane i (fun l => { l with isOpen := false, closing := false }))
  else s

/-- Those that receive commit notices: egress nodes and memory nodes of the pipeline (R102). -/
def State.noticeTo (s : State) (d : Nat) : List NoticeTo :=
  match s.pipeOf d with
  | none => []
  | some (lid, p) =>
    (s.chans.filter (fun h => h.lid == lid && h.egress && p.psets.contains h.srcPset)).map (fun h => .egress lid h.num)
      ++ (s.nodes.filter (fun n => n.ref.lid == lid && p.psets.contains n.pset)).map (fun n => .node n.ref)

/-- try_commit(l) (R93, R96): commits positions in order while the oldest one is due. A lane that becomes CLOSING has no further launch, so its waiting
one goes (R91, log 25). -/
def State.tryCommit (s : State) (d i : Nat) : Nat → State
  | 0 => s
  | fuel + 1 =>
    let sp := s.sprout d
    let l := sp.lane i
    match l.find l.npos with
    | none => s
    | some p =>
      if !p.due then s
      else
        let npos := (l.npos + 1) % 2 ^ 32
        let stop := l.stops p.ftok
        let s := s.setSprout d { sp.updLane i (fun l =>
            { l with positions := l.positions.filter (fun q => q.pos != p.pos), infl := l.infl - 1, npos := npos
                     closing := l.closing || stop || p.pos == 0xFFFFFFFF
                     waiting := if stop || p.pos == 0xFFFFFFFF then none else l.waiting }) with
          notices := sp.notices ++ (s.noticeTo d).map (fun n => (n, 64 * d + i, p.gen)) }
        let s := (((s.sprout d).owner.map Config.pipeNodes).getD []).foldl (fun s n => s.tellPipe n (.notice (64 * d + i) p.gen)) s
        let l := (s.sprout d).lane i
        let s := match l.find npos with
          | some q => if stop then s.doPrune d i q.gen l.gnext else s
          | none => s
        s.tryCommit d i fuel

/-- What follows any change of a lane: the waiting launch is retried, and a finished lane closes. -/
def State.settle (s : State) (d i : Nat) : State := (s.retry d i).tryClose d i

/-! ### Guess records (R90, R92) -/

/-- Does a confidence meet a threshold (R90)? -/
def meets (conf : Img) (thr : DWord) : Bool :=
  let c := conf.wf
  let t := (⟨thr, false⟩ : Img).wf
  !c.isNaN && !t.isNaN && !(t.isInf && !t.neg) && decide (0 ≤ wfCmp c t)

/-- A guess record as one link beat (R86). -/
def GuessRec.beat (r : GuessRec) : Beat :=
  beatOf [strandH (4 * 2 ^ 32), strandH (r.gpix % 8 * 2 ^ 9 + r.lane % 2 ^ 9), strandH (r.pos % 2 ^ 32), strandH (r.gen % 2 ^ 16), strandH (r.tok % 2 ^ 32),
    { img := r.conf.bits36 }]

/-- The record that a beat of HKIND 4 carries; what its reserved fields hold is ignored. -/
def guessOf (b : Beat) : GuessRec :=
  { gpix := (bstrand b 1).pay / 2 ^ 9 % 8, lane := (bstrand b 1).pay % 2 ^ 9, pos := (bstrand b 2).pay % 2 ^ 32, gen := (bstrand b 3).pay % 2 ^ 16
    tok := (bstrand b 4).pay % 2 ^ 32, conf := (bstrand b 5).image }

/-- Of records that arrive in one cycle: the higher guess index first, then the lower lane, then the lower position (R94). -/
def GuessRec.ahead (a b : GuessRec) : Bool :=
  decide (b.gpix < a.gpix) || (a.gpix == b.gpix && (decide (a.lane < b.lane) || (a.lane == b.lane && decide (a.pos < b.pos))))

/-- The place of the record that the controller takes next: of those that arrived first, in one cycle, how many being free (R94, log 100). -/
def State.nextGuess (s : State) (l : List Beat) : Nat :=
  let same := s.freeAt 0 % max 1 l.length + 1
  (List.range (min same l.length)).foldl (fun m k => if (guessOf (l.getD k [])).ahead (guessOf (l.getD m [])) then k else m) 0

/-- The controller takes a guess record (R92). -/
def State.takeRecord (s : State) (d : Nat) (r : GuessRec) : State :=
  let sp := s.sprout d
  let i := r.lane % 64
  let l := sp.lane i
  match l.find r.pos with
  | none => s
  | some p =>
    if !l.isOpen || r.lane / 64 != d || decide (r.pos < l.npos) || p.gen != r.gen || p.best.any (fun b => decide (r.gpix ≤ b)) then s
    else
      let ok := r.gpix == 7 || meets r.conf (sp.gth.getD r.gpix 0)
      let s := s.setSprout d (sp.updLane i (fun l => { l with positions := l.positions.map (fun q =>
        if q.pos = r.pos then
          { q with best := some r.gpix, due := q.due || r.gpix == 7, ftok := if r.gpix = 7 then r.tok else q.ftok }
        else q) }))
      let q := (r.pos + 1) % 2 ^ 32
      let l := (s.sprout d).lane i
      let s := match l.find q with
        | some n =>
          if n.forced || n.tok == r.tok then s
          else
            let s := s.doPrune d i n.gen l.gnext
            if ok then s.want d i q r.tok false else s
        | none => if ok then s.want d i q r.tok false else s
      (s.tryCommit d i 32).settle d i

/-! ### Commands (R329 to R331) -/

/-- A counter of SERR, which saturates. -/
def satCount (n : Nat) : Nat := min (n + 1) 0xFFFF

/-- SEQ.OPEN (R329). -/
def State.seqOpen (s : State) (lane a : Nat) (b : DWord) (seed : Nat) : State :=
  let d := lane / 64
  let i := lane % 64
  let sp := s.sprout d
  let l := sp.lane i
  if l.isOpen || l.closing then s.setSprout d { sp with opdrop := satCount sp.opdrop }
  else s.setSprout d (sp.updLane i (fun l =>
    { l with npos := a, maxflm1 := b.toNat % 16, stoptok := b.toNat / 2 ^ 32, seed := seed, positions := [], waiting := none, hi := none
             infl := 0, isOpen := true }))

/-- SEQ.CLOSE (R96, R329). -/
def State.seqClose (s : State) (lane : Nat) : State :=
  let d := lane / 64
  let i := lane % 64
  let sp := s.sprout d
  if (sp.lane i).isOpen then
    (s.setSprout d (sp.updLane i (fun l => { l with closing := true, waiting := none }))).settle d i
  else s

/-- LAUNCHP of a launched position with another token prunes it first (R330); the launch may then still have to wait. -/
def State.launchPrune (s : State) (lane q t : Nat) : State :=
  let l := (s.sprout (lane / 64)).lane (lane % 64)
  if !l.isOpen || l.closing || decide (q < l.npos) then s
  else match l.find q with
    | some p => if p.tok = t then s else s.doPrune (lane / 64) (lane % 64) p.gen l.gnext
    | none => s

/-- LAUNCHP (R330); none: the launch is held back, and its block waits. -/
def State.launchp (s : State) (lane q t : Nat) : Option State :=
  let d := lane / 64
  let i := lane % 64
  let s := s.launchPrune lane q t
  let sp := s.sprout d
  let l := sp.lane i
  if !l.isOpen || l.closing || decide (q < l.npos ∨ l.high + 1 < (q : Int)) then some (s.setSprout d { sp with lpdrop := satCount sp.lpdrop })
  else if (q : Int) = l.high + 1 then (if l.canLaunch then some (s.launchPos d i q t true) else none)
  else some (s.setSprout d (sp.updLane i (fun l =>
    { l with positions := l.positions.map (fun p => if p.pos = q then { p with forced := true } else p) })))

/-- PRUNE (R331). -/
def State.pruneCmd (s : State) (lane q0 t : Nat) (relaunch forced : Bool) : State :=
  let d := lane / 64
  let i := lane % 64
  let sp := s.sprout d
  let l := sp.lane i
  let q := max q0 l.npos
  if !l.isOpen || decide (l.high + 1 < (q : Int)) then s.setSprout d { sp with prdrop := satCount sp.prdrop }
  else
    let s := s.setSprout d (sp.updLane i (fun l =>
      { l with waiting := match l.waiting with
          | some w => if q ≤ w.1 then none else some w
          | none => none }))
    let s := match l.find q with
      | some p => s.doPrune d i p.gen l.gnext
      | none => s
    let s := if relaunch then s.want d i q t forced else s
    s.settle d i

/-! ### Retirement (R101) -/

/-- Issues pending prunes, in the order in which their lanes became pending, while entries are free. -/
def State.issuePending (s : State) (d : Nat) : Nat → State
  | 0 => s
  | fuel + 1 =>
    let sp := s.sprout d
    if 32 ≤ sp.prunes.length then s
    else match sp.pendOrder with
      | [] => s
      | i :: rest =>
        let l := sp.lane i
        let s := s.setSprout d { sp.updLane i (fun l => { l with pend := none }) with pendOrder := rest }
        let s := match l.pend with
          | some (lo, hi) => s.issuePrune d (64 * d + i) lo hi
          | none => s
        (s.settle d i).issuePending d fuel

end Sys2Proof.Machine
end

