-- ==== Sys2Proof/Machine/Bank.lean ====
section
/-! DEFINITION. What a bank does with an access that reaches it: stores, tills, atomics, presence, generations, deferred loads, held
writes, and writes to registers (R5, R89 to R91, R103 to R105, R177 to R180, R187, R218). -/
namespace Sys2Proof.Machine

/-! ### Registers that a write reaches (R5, R6, R90, R91, R218) -/

/-- A write of a guess point's threshold; bit 35 is not kept (R90). -/
def State.writeGth (s : State) (d k : Nat) (v : DWord) : State :=
  let sp := s.sprout d
  if sp.owner.isNone then s
  else s.setSprout d { sp with gth := setAt sp.gth k (fun _ => BitVec.ofNat 64 (v.toNat % 2 ^ 35)) }

/-- A write of MAXFLM1; launches wait, nothing is killed, and the waiting launch is tried again at once (R91, R93, DESIGN CHOICE, log 25). One to a
lane that the pipeline does not declare does nothing (DESIGN CHOICE, log 27). -/
def State.writeMaxfl (s : State) (d i : Nat) (v : DWord) : State :=
  let sp := s.sprout d
  if sp.owner.isNone || decide (sp.nlane ≤ i) then s
  else (s.setSprout d (sp.updLane i (fun l => { l with maxflm1 := v.toNat / 2 ^ 7 % 16 }))).settle d i

/-- A write of EHCFG: EN, STOP and PCT are kept, CAPV clears by one, CLR clears every bucket (R218). -/
def EngProf.writeCfg (p : EngProf) (v : DWord) : EngProf :=
  let keep : Nat := v.toNat % 2 + v.toNat / 4 % 2 * 4 + v.toNat / 2 ^ 24 % 256 * 2 ^ 24
  let capv : Nat := if v.getLsbD 32 then 0 else p.cfg.toNat / 2 ^ 32 % 2 * 2 ^ 32
  { p with cfg := BitVec.ofNat 64 (keep + capv), buckets := if v.getLsbD 1 then List.replicate 32 0 else p.buckets }

/-- An aligned 8-byte write to a register of the two windows, following its access codes; a register that no one writes keeps its
value (R5, R6, R24, R89). -/
def State.regWrite (s : State) (pa : Nat) (v : DWord) : State :=
  if 0x9000001000 ≤ pa ∧ pa < 0x9000005000 then
    let d := (pa - 0x9000001000) / 0x800
    let o := (pa - 0x9000001000) % 0x800
    if 0x40 ≤ o ∧ o < 0x78 then s.writeGth d ((o - 0x40) / 8) v
    else if 0x100 ≤ o ∧ o < 0x500 ∧ o % 16 = 0 then s.writeMaxfl d ((o - 0x100) / 16) v
    else s
  else if 0x900000A000 ≤ pa ∧ pa < 0x900000E000 then
    let k := (pa - 0x900000A000) / 0x80
    if k % 16 < 13 ∧ (pa - 0x900000A000) % 0x80 = 0 then s.setProf ((s.prof (k / 16 + 8) (k % 16)).writeCfg v) else s
  else s

/-- A page core's store to a register window: only a naturally aligned 8-byte store writes, and a controller only takes one from the
launch that owns its pipeline (R89). -/
def State.coreRegWrite (s : State) (lid pa : Nat) (bs : List Byte) : State :=
  let d := (pa - 0x9000001000) / 0x800
  let mine := decide (pa < 0x9000001000 ∨ 0x9000005000 ≤ pa) || (s.sprout d).owner == some lid
  if bs.length = 8 ∧ pa % 8 = 0 ∧ mine then s.regWrite pa (BitVec.ofNat 64 (leNat bs)) else s

/-! ### Deferred loads (R179) -/

/-- The launch and page set for which a waiter accesses memory. -/
def State.waiterSet (s : State) : Waiter → Nat × Nat
  | .core c _ _ _ => (c.lid, c.pset)
  | .node r _ => (r.lid, ((s.nodeAt r).map (fun n => n.pset)).getD 0)
  | .engine c _ => (c.lid, c.pset)

/-- May a deferred read be answered: it stands in the bank's table, every word is present, and nothing of its lane is held before it
(R103, R105, R179)? -/
def State.answerable (s : State) (f : Deferred) : Bool :=
  let (lid, pset) := s.waiterSet f.who
  !f.queued && f.span.all (fun (x, n) => (List.range n).all (fun i => x.attr == 0 || s.present (x.pa + i)))
    && !(f.gpage && s.gWaits lid pset f.span)

/-- A memory node freezes on the beat that asked for one of its accesses (R201). -/
def State.freezeAccess (s : State) (r : NodeRef) (elem code : Nat) : State :=
  match s.nodeAt r with
  | none => s
  | some n =>
    let (chan, ord) := ((n.ops.find? (fun o => o.elem == elem && o.beat.isNone)).map (fun o => (o.chan, o.ord))).getD (0, 0)
    (s.updNode r (fun n => { n with frozen := some code })).nodeFault r.lid n.die code chan ord

/-- Gives a waiter its data. -/
def State.answer (s : State) (w : Waiter) (kind : Option Nat) (sp : Span) (bs : List Byte) (dead : Bool) : State :=
  match w with
  | .core c uid slot k => s.respond c uid slot (kind.getD k) bs sp
  | .node r e => s.updNode r (fun n => { n with ops := n.ops.map (fun o =>
      if o.elem = e then
        { o with status := 2, dead := dead, result := some ⟨BitVec.ofNat 64 (leNat bs), false⟩ }
      else o) })
  | .engine _ _ => s

/-- Answers one deferred read; an uncorrectable error in its data is reported by its requester (R200, R201, R223). -/
def State.answerOne (s : State) (f : Deferred) : State :=
  let s' := s.eccMeet (spanPas f.span)
  if !s.eccBad (spanPas f.span) then s'.answer f.who none f.span (readSpan s f.span) false
  else match f.who with
    | .core c uid slot _ => s'.readError c uid slot f.span
    | .node r e => s'.freezeAccess r e 0x8F
    | .engine _ _ => s'

/-- The bank of a span's first word: die and vertical channel. -/
def spanBank (sp : Span) : Nat × Nat := (spanDie sp, vchanOf ((sp.head?.map (fun r => r.1.pa)).getD 0))

/-- A bank whose table is not full takes the load that has waited longest in its read queue (R179). -/
def State.letQueued (s : State) : List Deferred → List Deferred → List Deferred
  | _, [] => []
  | seen, f :: r =>
    let taken (l : List Deferred) : Nat := l.countP (fun d => !d.queued && spanBank d.span == spanBank f.span)
    let g := if f.queued && decide (taken seen + taken r < 1024) then { f with queued := false } else f
    g :: s.letQueued (seen ++ [g]) r

/-- Answers every deferred read whose words have all become present, and lets queued ones into the tables (R179). -/
def State.answerRounds (s : State) : Nat → State
  | 0 => s
  | fuel + 1 =>
    let ready := s.deferred.filter s.answerable
    if ready.isEmpty then s
    else
      let rest := s.deferred.filter (fun f => !s.answerable f)
      (ready.foldl State.answerOne { s with deferred := s.letQueued [] rest }).answerRounds fuel
def State.answerDeferred (s : State) : State := s.answerRounds (s.deferred.length + 1)

/-- Answers the deferred reads of a dead generation of a lane (R104). -/
def State.answerDead (s : State) (lane : Nat) (dead : Nat → Bool) (mine : Waiter → Bool) : State :=
  let hit (f : Deferred) : Bool := f.gpage && f.lane == lane && dead f.gen && mine f.who
  (s.deferred.filter hit).foldl (fun s f => s.answer f.who (some 19) f.span [] true)
    { s with deferred := s.deferred.filter (fun f => !hit f) }

/-! ### Writes of whole words (R103, R178) -/

/-- What became of a write at a bank. -/
inductive Landed where
  | done | second | held | dropped
  deriving DecidableEq, Repr

/-- Writes 8 bytes of an absent word and sets its presence. -/
def State.fillWord (s : State) (pa : Nat) (bs : List Byte) : State := (s.store pa bs).setPresent pa

/-- A write of generation g of whole words of one G line (R103); `dead` is the cluster's prune table. -/
def State.writeG (s : State) (pa va : Nat) (bs : List Byte) (lane g : Nat) (dead : Bool) (who : Waiter) : State × Landed :=
  let k := pa / 64
  let l := s.line k
  if dead then (s, .dropped)
  else if s.held.any (fun w => w.line == k && w.lane == lane) then
    ({ s with held := s.held ++ [{ line := k, pa := pa, va := va, bytes := bs, lane := lane, gen := g, who := who }] }, .held)
  else if l.present = 0 then ((s.setLine k { l with gen := g }).fillWord pa bs, .done)
  else if l.gen = g then (if s.present pa then (s, .second) else (s.fillWord pa bs, .done))
  else if precedes l.gen g ∨ (g + 2 ^ 16 - l.gen) % 2 ^ 16 = 32768 then
    ({ s with held := s.held ++ [{ line := k, pa := pa, va := va, bytes := bs, lane := lane, gen := g, who := who }] }, .held)
  else (s, .dropped)

/-- The stale-write counter of the memory node that serves an access (R24, R103). -/
def State.countStale (s : State) (die phys : Nat) : State :=
  let k := die * 128 + phys
  { s with stale := cellSet 0 k (cellGet 0 k s.stale + 1) s.stale }

/-- Is a landed write one that R103 counts as stale: dropped, and not because its generation is dead? -/
def staleDrop (r : Landed) (dead : Bool) : Bool := r == .dropped && !dead

/-- The TLB that a memory node translates with: that of its cluster of eight (R175). -/
def MemNode.tlb (n : MemNode) : TlbOwner := .cluster n.die (n.phys / 8)

/-- The memory node that stands for a page set's cluster: its first one (log 14). -/
def State.clusterNode (s : State) (lid pset : Nat) : Option MemNode :=
  s.nodes.find? (fun n => n.ref.lid == lid && n.pset == pset)

/-- Notes a write to a G line whose generation is not committed in the recent-write list, or widens the overflow interval (R105). -/
def MemNode.note (n : MemNode) (lane va g : Nat) : MemNode :=
  let line := va / 64
  if n.cg.any (fun (e : Nat × Nat) => e.1 == lane && (e.2 == g || precedes g e.2)) then n
  else if n.recent.contains (lane, line, g) then n
  else if n.recent.length < 1024 then { n with recent := n.recent ++ [(lane, line, g)] }
  else match n.overflow.find? (fun (e : Nat × Nat × Nat × Nat) => e.1 == lane) with
    | none => { n with overflow := n.overflow ++ [(lane, line, line, g)] }
    | some (_, lo, hi, g0) => { n with overflow := n.overflow.map (fun (e : Nat × Nat × Nat × Nat) =>
        if e.1 = lane then (lane, min lo line, max hi line, if precedes g0 g then g else g0) else e) }

/-- Who writes: a page core's launch, page set and table, or a memory node. -/
structure Writer where
  lid : Nat
  pset : Nat
  node : Option NodeRef := none
  who : Waiter
  deriving DecidableEq, Repr

def State.writerTable (s : State) (w : Writer) : List PruneEnt :=
  match w.node with
  | some r => ((s.nodeAt r).map (fun n => n.prunes)).getD []
  | none => s.clusterTable w.lid w.pset

def State.writerNode (s : State) (w : Writer) : Option MemNode :=
  match w.node with
  | some r => s.nodeAt r
  | none => s.clusterNode w.lid w.pset

/-- A write of one whole word of a WO page (R103, R178). -/
def State.writeWord (s : State) (w : Writer) (x : Xlat) (gen o : Nat) (word : List Byte) : State × Landed :=
  let (pa, va) := (x.pa + o, x.va + o)
  if x.attr = 1 then (if s.present pa then (s, .second) else (s.fillWord pa word, .done))
  else
    let dead := deadBy (s.writerTable w) x.lane gen
    let (s, r) := s.writeG pa va word x.lane gen dead w.who
    match s.writerNode w with
    | some n =>
      if staleDrop r dead then (s.countStale n.die n.phys, r)
      else if r = .done then (s.updNode n.ref (fun n => n.note x.lane va gen), r)
      else (s, r)
    | none => (s, r)

/-- Whole words of a WO page, in order; the address of the first SECOND_WRITE is reported, and whether a word is held. -/
def State.writeWords (s : State) (w : Writer) (x : Xlat) (gen : Nat) (bs : List Byte) : State × Option Nat × Bool :=
  (List.range ((bs.length + 7) / 8)).foldl (fun (acc : State × Option Nat × Bool) i =>
    let (s, r) := acc.1.writeWord w x gen (8 * i) ((bs.drop (8 * i)).take 8)
    (s, if acc.2.1.isNone && r == .second then some (x.va + 8 * i) else acc.2.1, acc.2.2 || r == .held)) (s, none, false)

/-- A write that reaches memory: plain bytes on an MU page, a register window, or whole words of a WO page. Answers the virtual address
of a SECOND_WRITE, and whether a word is held. -/
def State.writeSpan (s : State) (w : Writer) (gen : Nat) : Span → List Byte → State × Option Nat × Bool
  | [], _ => (s.answerDeferred, none, false)
  | (x, n) :: r, bs =>
    let mine := bs.take n
    let (s, f, h) :=
      if x.attr ≠ 0 then s.writeWords w x gen mine
      else match regionOf x.pa with
        | .registers => (s.coreRegWrite w.lid x.pa mine, none, false)
        | .counters => (s, none, false)
        | .host n a => (s.hostStore none n a mine, none, false)
        | _ => (s.store x.pa mine, none, false)
    let (s, f', h') := State.writeSpan s w gen r (bs.drop n)
    (s, f.or f', h || h')

/-! ### Tills (R178, R180, R339, R381) -/

/-- Decides the held writes of a line again, in order (R103). -/
def State.retryHeld (s : State) (line : Nat) : State :=
  let mine := s.held.filter (fun w => w.line == line && !(s.die (dieOf (64 * line))).stopped)
  mine.foldl (fun s w =>
    let (lid, pset, node) : Nat × Nat × Option NodeRef := match w.who with
      | .core c _ _ _ => (c.lid, c.pset, none)
      | .node r _ => (r.lid, ((s.nodeAt r).map (fun n => n.pset)).getD 0, some r)
      | .engine c _ => (c.lid, c.pset, none)
    let wr : Writer := { lid := lid, pset := pset, node := node, who := w.who }
    let (s, second, held) := s.writeWords wr { va := w.va, pa := w.pa, attr := 2, lane := w.lane } w.gen w.bytes
    match w.who with
    | .core c seq lsid _ =>
      let s := if held || s.held.any (fun v => decide (v.who = w.who)) then s
        else s.mapCore c (fun p => { p with posted := p.posted.filter (fun q => q.seq != seq || !q.atBank) })
      if second.isSome then latchFault s c 7 w.va lsid else s
    | .node r e =>
      if held then s
      else
        let s := s.updNode r (fun n => { n with ops := n.ops.map (fun o =>
          if o.elem = e then { o with status := if o.words.length < o.parts then 0 else 2 } else o) })
        if second.isSome then s.freezeAccess r e 0x8D else s
    | .engine c seq =>
      if second.isSome then
        { s with engines := s.engines.map (fun r =>
          if r.core = c ∧ r.seq = seq ∧ r.ready.isNone then { r with ready := some (7, r.next - 1) } else r) }
      else s) { s with held := s.held.filter (fun w => w.line != line) }

/-- Tills one line: presence is cleared, held writes are decided again, and reads they answer are answered. -/
def State.tillLine (s : State) (line : Nat) : State := ((s.clearLine line).retryHeld line).answerDeferred

/-- The lines of a span: physical line numbers. -/
def spanLines (sp : Span) : List (Nat × Xlat) :=
  sp.flatMap (fun (x, n) => (List.range ((n + 63) / 64)).map (fun i =>
    ((x.pa + 64 * i) / 64, { x with va := x.va + 64 * i, pa := x.pa + 64 * i })))

/-- TILL and TILLG of a page core at the bank: TILLG only where the recorded generation is dead (R339). -/
def State.tillSpan (s : State) (c : CoreRef) (sp : Span) (g : Bool) : State :=
  (spanLines sp).foldl (fun s (e : Nat × Xlat) =>
    if g && !s.coreDead c e.2.lane (s.line e.1).gen then s else s.tillLine e.1) s

/-! ### Atomics at the bank port (R187) -/

/-- One indivisible read and write of an aligned word. -/
def State.atomicAt (s : State) (pa : Nat) (a : AtomOp) : State × Img × Flags :=
  let old := leNat (s.physBytes pa a.width)
  let (new, v, fl) := a.apply old
  (s.store pa (leBytes a.width new), v, fl)

end Sys2Proof.Machine
end

