-- ==== Sys2Proof/Machine/Replay.lean ====
section
/-! DEFINITION. Recording and replaying a launch (R220 to R222). -/
namespace Sys2Proof.Machine

def State.replayOf (s : State) (lid : Nat) : Option Replay := s.replays.find? (fun r => r.lid == lid)
def State.updReplay (s : State) (lid : Nat) (f : Replay → Replay) : State :=
  { s with replays := s.replays.map (fun r => if r.lid = lid then f r else r) }

/-- An entry of the log (R221). -/
def replayEntry (kind die page elem value : Nat) : DWord :=
  BitVec.ofNat 64 (kind * 2 ^ 60 + die % 32 * 2 ^ 55 + page % 128 * 2 ^ 48 + elem % 256 * 2 ^ 40 + value % 2 ^ 32)

def entryKind (e : DWord) : Nat := e.toNat / 2 ^ 60
/-- The agent of an entry: die, page and element. -/
def entryWho (e : DWord) : Nat := e.toNat / 2 ^ 40 % 2 ^ 20
def entryValue (e : DWord) : Nat := e.toNat % 2 ^ 32

/-- Entries that 256 MiB hold. -/
def replayLimit : Nat := 2 ^ 25

/-- Changes the first entry equal to one. -/
def updFirst (e v : DWord) : List DWord → List DWord
  | [] => []
  | f :: r => if f = e then v :: r else f :: updFirst e v r

/-- Adds an entry; a full log is incomplete from then on (R221). -/
def Replay.add (r : Replay) (e : DWord) : Replay :=
  if r.entries.length < replayLimit then { r with entries := r.entries ++ [e] } else { r with incomplete := true }

/-- The launch departs from the log it replays (R222). -/
def State.diverged (s : State) (lid : Nat) : State := (s.endWith lid { status := 0x22, detail := 0x91 }).haltLaunch lid

/-- The agent field of a page core, or of an element of its page. -/
def State.agentOf (s : State) (c : CoreRef) (elem : Nat) : Nat :=
  let (x, y) := s.pageXY c
  s.dieOfPset c.lid c.pset % 32 * 2 ^ 15 + (9 * y + x) % 128 * 2 ^ 8 + elem % 256

/-- The first entry of a kind that is still to be met. -/
def Replay.due (r : Replay) (kind : Nat) (test : DWord → Bool) : Option DWord :=
  (r.todo.getD []).find? (fun e => entryKind e == kind && test e)

/-! ### Chunks -/

/-- Does a block's act end a chunk (R220)? -/
def Act.endsChunk : Act → Bool
  | .read _ => true
  | .heldRead _ _ _ _ => true
  | .store _ _ _ _ => true
  | .atom _ _ _ _ _ _ => true
  | .engine _ _ _ _ _ => true
  | .stage _ _ _ send => send
  | .push _ _ => true
  | .pop _ => true
  | .spawn _ _ _ => true
  | .graise _ => true
  | .tile op => op.touches
  | .stream _ => true
  | _ => false

/-- May a page core commit now: a launch that replays commits only the chunk that is due (R222)? Blocks after a page core's last logged chunk belong
to a chunk that the log does not hold, since it had not ended. -/
def State.chunkDue (s : State) (c : CoreRef) : Bool :=
  match s.replayOf c.lid with
  | some r =>
    let me := s.agentOf c 0xFF
    !r.todo.isSome || (r.due 1 (fun e => entryWho e == me)).isNone || (r.due 1 (fun _ => true)).any (fun e => entryWho e == me)
  | none => true

/-- Notes the commit of a block: the open chunk grows, and ends with a block that acts outside or with its 256th (R220). -/
def State.noteCommit (s : State) (c : CoreRef) (b : Block) : State :=
  match s.replayOf c.lid with
  | none => s
  | some r =>
    let n := (kget c r.chunks).getD 0 + 1
    let ended := b.done.any (fun d => d.act.endsChunk) || n == 256
    let r := { r with chunks := kset c (if ended then 0 else n) r.chunks }
    match r.todo with
    | none =>
      let who := s.agentOf c 0xFF
      s.updReplay c.lid (fun _ => if ended then r.add (BitVec.ofNat 64 (2 ^ 60 + who * 2 ^ 40 + n)) else r)
    | some todo =>
      match r.due 1 (fun e => entryWho e == s.agentOf c 0xFF) with
      | none => if ended then s.diverged c.lid else s.updReplay c.lid (fun _ => r)
      | some e =>
        let s := s.updReplay c.lid (fun _ => if ended then { r with todo := some (todo.erase e) } else r)
        if (ended && n != entryValue e) || (!ended && decide (entryValue e ≤ n)) then s.diverged c.lid else s

/-! ### Choices of MERGE, updates at banks -/

/-- The input that a replayed MERGE must take next, if the log says one. -/
def State.mergeDue (s : State) (c : CoreRef) (elem : Nat) : Option Nat :=
  (s.replayOf c.lid).bind (fun r => (r.due 2 (fun e => entryWho e == s.agentOf c elem)).map (fun e => entryValue e % 16))

/-- Notes that a MERGE passed a beat of an input (R220): runs of one input are one entry. -/
def State.noteMerge (s : State) (c : CoreRef) (elem input : Nat) : State :=
  match s.replayOf c.lid with
  | none => s
  | some r =>
    let who := s.agentOf c elem
    match r.todo with
    | none =>
      match r.entries.reverse.find? (fun e => entryKind e == 2 && entryWho e == who) with
      | some e =>
        if entryValue e % 16 = input ∧ entryValue e / 16 + 1 < 2 ^ 28 then
          s.updReplay c.lid (fun r => { r with entries := (updFirst e (e + 16) r.entries.reverse).reverse })
        else s.updReplay c.lid (fun r => r.add (BitVec.ofNat 64 (2 * 2 ^ 60 + who * 2 ^ 40 + 16 + input)))
      | none => s.updReplay c.lid (fun r => r.add (BitVec.ofNat 64 (2 * 2 ^ 60 + who * 2 ^ 40 + 16 + input)))
    | some todo =>
      match r.due 2 (fun e => entryWho e == who) with
      | none => s.diverged c.lid
      | some e =>
        if entryValue e % 16 ≠ input then s.diverged c.lid
        else s.updReplay c.lid (fun r => { r with
          todo := some (if entryValue e / 16 ≤ 1 then todo.erase e else updFirst e (e - 16) todo) })

/-- The value field of a bank-port update: bank, memory-port die, count (R221). -/
def bankField (pa count : Nat) : Nat :=
  vchanOf pa * 2 ^ 26 + (dieOf pa - 8) % 16 * 2 ^ 22 + count % 2 ^ 22

/-- Notes an update at a bank's port by an agent: a run of one agent at one bank is one entry, with its count (R220, R221, R222). -/
def State.noteUpdate (s : State) (lid who pa : Nat) : State :=
  match s.replayOf lid with
  | none => s
  | some r =>
    match r.todo with
    | none =>
      let new (r : Replay) : Replay := r.add (BitVec.ofNat 64 (3 * 2 ^ 60 + who * 2 ^ 40 + bankField pa 1))
      match r.entries.reverse.find? (fun e => entryKind e == 3 && entryValue e / 2 ^ 22 == bankField pa 0 / 2 ^ 22) with
      | some e =>
        if entryWho e = who ∧ entryValue e % 2 ^ 22 + 1 < 2 ^ 22 then
          s.updReplay lid (fun r => { r with entries := (updFirst e (e + 1) r.entries.reverse).reverse })
        else s.updReplay lid new
      | none => s.updReplay lid new
    | some todo =>
      match r.due 3 (fun e => entryValue e / 2 ^ 22 == bankField pa 0 / 2 ^ 22) with
      | none => s.diverged lid
      | some e =>
        if entryWho e ≠ who then s.diverged lid
        else s.updReplay lid (fun r => { r with
          todo := some (if entryValue e % 2 ^ 22 ≤ 1 then todo.erase e else updFirst e (e - 1) todo) })

/-- May an agent's update be performed now at the bank of an address (R222)? -/
def State.updateDue (s : State) (lid who pa : Nat) : Bool :=
  match s.replayOf lid with
  | none => true
  | some r => if r.todo.isSome then
      (match r.due 3 (fun e => entryValue e / 2 ^ 22 == bankField pa 0 / 2 ^ 22) with
        | some e => entryWho e == who
        | none => true) else true

end Sys2Proof.Machine
end

