-- ==== Sys2Proof/Machine/Cuts.lean ====
section
/-! DEFINITION. Dormancy cuts: markers at the ingresses, what stops where, images, and how a region runs again (R204 to R210, R215, R373,
R394, R395). -/
namespace Sys2Proof.Machine

/-! ### Ports of elements (R245, R253, R397) -/

/-- The channel that ends at an input of an element, and those that leave one of its outputs. -/
def State.elemIn (s : State) (e : Elem) (port : Nat) : Option Nat :=
  s.intoPort e.ref.lid e.ref.pset e.ref.x e.ref.y port e.ctx
def State.elemOut (s : State) (e : Elem) (port : Nat) : List Nat :=
  s.outOfPort e.ref.lid e.ref.pset e.ref.x e.ref.y port e.ctx

def State.elemAt (s : State) (r : ElemRef) : Option Elem := s.elems.find? (fun e => decide (e.ref = r))
def State.updElem (s : State) (r : ElemRef) (f : Elem → Elem) : State :=
  { s with elems := s.elems.map (fun e => if e.ref = r then f e else e) }

/-- A loop-closing input is fed by a ring (R122, R317, R402). -/
def Chan.loops (h : Chan) : Bool := h.kind == 2

/-- The inputs of an element that are not loop-closing. -/
def State.mainPorts (s : State) (e : Elem) : List Nat :=
  e.inPorts.filter (fun p => match s.elemIn e p with
    | some i => !(s.chanAt i).loops
    | none => false)

/-! ### Which regions are cut -/

def State.cutOf (s : State) (lid pset : Nat) : Option Cut := s.cuts.find? (fun c => c.lid == lid && c.psets.contains pset)
def State.isCut (s : State) (lid pset : Nat) : Bool := (s.cutOf lid pset).isSome

/-- Is a launch to end by a fault whose halt is still on its way through its regions (R201)? -/
def State.spreading (s : State) (lid : Nat) : Bool := (s.launch lid).any (fun l => l.ending.any EndRec.spreads)

/-- May anything of a region run: it is placed, not frozen, its die runs, and its launch is not to end, or the halt of a fault has not reached the
region yet (R18, R79, R201)? -/
def State.runs (s : State) (lid pset : Nat) : Bool :=
  (match s.place lid pset with
    | some p => !p.quiesced && !(s.die p.die).stopped
    | none => false) && (!s.ended lid || s.spreading lid)

/-- Does the hardware of a region move: it is neither frozen nor on a die whose clock is stopped (R18, R201)? -/
def State.moves (s : State) (lid pset : Nat) : Bool := !(s.place lid pset).any (fun p => p.quiesced || (s.die p.die).stopped)

/-- May the consumer of a channel take a control beat: its region and its die run (R18)? -/
def State.takes (s : State) (h : Chan) : Bool :=
  match h.dst with
  | .remote => true
  | .mem n => s.moves h.lid h.dstPset && !(s.nodeAt ⟨h.lid, n⟩).any (fun m => (s.die m.die).stopped)
  | _ => s.moves h.lid h.dstPset

/-- Has an element saved its state (R204)? -/
def State.elemStopped (s : State) (e : Elem) : Bool :=
  s.isCut e.ref.lid e.ref.pset && (s.mainPorts e).all (fun p => e.dormIn.contains p)

/-- Forwards a dormancy marker on the links among these channels; a channel node, ring or remote channel reports it (R204). -/
def State.forwardDorm (s : State) (outs : List Nat) : State :=
  (outs.filter (fun i => (s.chanAt i).kind == 0)).foldl (fun s i =>
    (s.updChan i (fun h => { h with beats := h.beats ++ [{ beat := mkDormBeat }] })).handOver (s.chanAt i) mkDormBeat) s

/-! ### The page core at a cut -/

/-- A page core that is cut discards every block whose commit has not begun; the oldest of them runs again (R204, R205). -/
def State.stopCore (s : State) (c : CoreRef) : State :=
  let p := s.core c
  let keep := p.blocks.takeWhile (fun b => b.phase != 0)
  let gone := p.blocks.drop keep.length
  let uids := gone.map (fun b => b.uid)
  let s := s.setCore c { p with
    blocks := keep, nextAddr := match gone.head? with
      | some b => some b.addr
      | none => p.nextAddr
    responses := p.responses.filter (fun r => !uids.contains r.uid) }
  { s with deferred := s.deferred.filter (fun d => match d.who with
      | .core c' u _ _ => !(decide (c' = c) && uids.contains u)
      | _ => true) }

/-- Does this source port still owe its dormancy marker: its core is cut, nothing commits, no earlier stream command feeds it (R394)? -/
def State.owesMarker (s : State) (c : CoreRef) (n : Nat) : Bool :=
  let p := s.core c
  s.isCut c.lid c.pset && p.blocks.isEmpty && !p.streams.any (fun t => t.ld && t.port == n)
    && !(p.srcQ n).any (fun b => hkind b == 3 && ckind b == 3)
    && (match s.viLink c n with
        | some h => !h.marked
        | none => false)

/-- Queues the dormancy markers that are due at a page core's source ports. -/
def State.queueMarkers (s : State) (c : CoreRef) : State :=
  (List.range 32).foldl (fun s n =>
    if s.owesMarker c n then s.mapCore c (fun p => p.queueSrc n [mkDormBeat]) else s) s

/-! ### Memory nodes at a cut -/

/-- The channels into and out of a memory node. -/
def State.nodeIns (s : State) (r : NodeRef) : List Nat := s.chanIdx (fun h => h.lid == r.lid && decide (h.dst = .mem r.node))
def State.nodeOuts (s : State) (r : NodeRef) : List Nat := s.chanIdx (fun h => h.lid == r.lid && h.srcs.contains (.mem r.node))

/-- Has a memory node finished what it began: what has not left stands behind a load that is deferred, and no write is held at a bank (R204)? -/
def State.nodeIdle (s : State) (n : MemNode) : Bool :=
  (match n.ops.head? with
    | some o => o.status == 1
    | none => true)
    && !s.held.any (fun w => match w.who with
        | .node r _ => decide (r = n.ref)
        | _ => false)

/-- An operation as its node keeps it at a cut: a load that is deferred is issued again, and a stream node reads again what it has read behind
one (R182, R204). -/
def NodeOp.atCut (n : MemNode) (o : NodeOp) : NodeOp :=
  if o.status = 1 then { o with status := 0 }
  else if n.cls = 0 ∧ n.dir = 0 ∧ o.beat.isNone ∧ !o.dead then { o with status := 0, result := none }
  else o

/-- A memory node stops: its deferred loads are withdrawn and kept for reissue, what it read ahead is discarded, its configuration period ends,
and the marker leaves on its outputs. A node without an input goes on in its pattern when the region runs again (R181, R182, R204, R411). -/
def State.stopNode (s : State) (r : NodeRef) : State :=
  let source := (s.nodeIns r).isEmpty
  let s := s.updNode r (fun n => { n with
    cutting := true, armed := source && n.armed && !n.emitted, resumed := !source, ahead := [], ops := n.ops.map (NodeOp.atCut n) })
  let s := { s with deferred := s.deferred.filter (fun d => match d.who with
      | .node r' _ => !decide (r' = r)
      | _ => true) }
  s.forwardDorm (s.nodeOuts r)

/-- A memory node without an input that is cut stops once it has finished (R204, R411). -/
def State.tryStopNode (s : State) (r : NodeRef) : State :=
  match s.nodeAt r with
  | some n =>
    if s.isCut r.lid n.pset && !n.cutting && (s.nodeIns r).isEmpty && s.nodeIdle n then s.stopNode r else s
  | none => s

/-! ### Starting a cut (R204) -/

/-- Which of two cuts that meet prevails (R216, R373). -/
def cutRank : CutWhy → Nat
  | .ckptCont _ => 0
  | .graft => 1
  | .ckptYield _ => 2
  | .preempt => 3
  | .stop => 4

/-- The markers of one region: inbound channel nodes, page cores, memory nodes and elements without an input. -/
def State.beginCut (s : State) (lid pset : Nat) : State :=
  let inbound := s.chanIdx (fun h => h.lid == lid && h.dstPset == pset && (h.kind == 1 || h.kind == 3) && decide (h.dst ≠ .remote))
  let s := inbound.foldl (fun s i => s.updChan i (fun h => { h with beats := h.beats ++ [{ beat := mkDormBeat }] })) s
  let s := s.mapPlace lid pset (fun p => { p with periodOn := false })
  let s := (s.coresOf lid pset).foldl (fun s c => (s.stopCore c).queueMarkers c) s
  let s := ((s.nodes.filter (fun n => n.ref.lid == lid && n.pset == pset)).map (fun n => n.ref)).foldl (fun s r => s.tryStopNode r) s
  (s.elems.filter (fun e => e.ref.lid == lid && e.ref.pset == pset && (s.mainPorts e).isEmpty)).foldl (fun s e =>
    s.forwardDorm (e.outPorts.flatMap (s.elemOut e))) s

/-- Starts a cut of page sets of a launch, or joins the cut in progress of one of them. -/
def State.startCut (s : State) (lid : Nat) (psets : List Nat) (why : CutWhy) (area : Option (Span × Nat × Nat)) : State :=
  match s.cuts.find? (fun c => c.lid == lid && c.psets.any (fun p => psets.contains p)) with
  | some c =>
    let new := psets.filter (fun p => !c.psets.contains p)
    let c' := { c with
      psets := c.psets ++ new, why := if cutRank c.why ≤ cutRank why then why else c.why, area := c.area.or area }
    let s := { s with cuts := s.cuts.map (fun d => if d = c then c' else d) }
    new.foldl (fun s p => s.beginCut lid p) s
  | none =>
    let s := { s with cuts := s.cuts ++ [{ lid := lid, psets := psets, why := why, area := area }] }
    psets.foldl (fun s p => s.beginCut lid p) s

/-- Every page set of a launch. -/
def State.psetsOf (s : State) (lid : Nat) : List Nat := (s.placed.filter (fun p => p.lid == lid)).map (fun p => p.pset)

/-- CUT_START (R204). -/
def execCutStart (lid : Nat) (psets : List Nat) (why : CutWhy) (s : State) : Host.Outcome State Fault Refusal :=
  .next (s.startCut lid (psets.filter (fun p => (s.psetsOf lid).contains p)) why none)

/-! ### Arrival of a dormancy marker (R204) -/

/-- The place of the first dormancy marker on a channel. -/
def Chan.dormPlace (h : Chan) : Option Nat := h.beats.findIdx? (fun q => hkind q.beat == 3 && ckind q.beat == 3)

/-- The forager of a channel that ends at one. -/
def State.foragerAt (s : State) (h : Chan) : Option Forager :=
  match h.dst with
  | .forager px py _ => s.foragers.find? (fun g =>
      decide (g.page = { lid := h.lid, pset := h.dstPset, px := px, py := py }) && g.ctx == h.ctx)
  | _ => none

def State.updForager (s : State) (p : PageRef) (ctx : Nat) (f : Forager → Forager) : State :=
  { s with foragers := s.foragers.map (fun g => if g.page = p ∧ g.ctx = ctx then f g else g) }

/-- The channels that leave a forager. -/
def State.foragerOuts (s : State) (g : Forager) : List Nat :=
  s.chanIdx (fun h => h.lid == g.page.lid && h.srcPset == g.page.pset && h.ctx == g.ctx && h.srcs.any (fun e => match e with
    | .forager px py _ => px == g.page.px && py == g.page.py
    | _ => false))

/-- The output ends of a forager (R402). -/
def Forager.outEnds (g : Forager) : List Endp :=
  ([1, 2] ++ (List.range g.stages.length).map (fun k => 8 + k)).map (fun p => .forager g.page.px g.page.py p)

/-- Has a forager still a copy of a prune out among its stages, or control beats in its return ring (R140, R141)? -/
def State.foragerOwes (s : State) (g : Forager) : Bool :=
  g.prunes.any (fun e => !(List.range g.stages.length).all (fun k => g.returned.contains (e.serial, k)))
    || s.chans.any (fun h => h.lid == g.page.lid && h.dstPset == g.page.pset && h.ctx == g.ctx && decide (h.dst = .forager g.page.px g.page.py 3)
        && !h.beats.isEmpty)

/-- Takes the dormancy marker at a place of a channel, and notes the last ordinal before it and the beats that stay ahead of it. -/
def State.takeDorm (s : State) (i k : Nat) : State :=
  (s.updChan i (fun h => { h with cutAt := some (h.ordinal, k) })).takeAt i k

/-- A dormancy marker arrives at the consumer of a channel, which costs a token where it enters the fabric. Beats that stand ahead of it on an
input of an element that has stopped on another input stay there: they are that input's channel contents. -/
def State.dormArrive (s : State) (i : Nat) : State :=
  let h := s.chanAt i
  match h.dormPlace with
  | none => s
  | some k =>
    if h.cutAt.isSome || !s.mayEnter h || !s.takes h then s else
    match h.dst with
    | .plot _ _ port =>
      match s.consumer h with
      | none => s.takeDorm i k
      | some e =>
        if k ≠ 0 ∧ e.dormIn.isEmpty then s
        else
          let s := (s.takeDorm i k).updElem e.ref (fun e => { e with dormIn := e.dormIn ++ [port] })
          if (s.mainPorts e).all (fun p => p == port || e.dormIn.contains p) then
            s.forwardDorm (e.outPorts.flatMap (s.elemOut e)) else s
    | .mem m =>
      let r : NodeRef := ⟨h.lid, m⟩
      match s.nodeAt r with
      | none => s.takeDorm i k
      | some n =>
        let last := (s.nodeIns r).all (fun j => j == i || n.dormIn.contains j)
        if k ≠ 0 ∧ n.dormIn.isEmpty then s
        else if last && !s.nodeIdle n then s
        else
          let s := (s.takeDorm i k).updNode r (fun n => { n with dormIn := n.dormIn ++ [i] })
          if last then s.stopNode r else s
    | .forager _ _ _ =>
      match s.foragerAt h with
      | none => s.takeDorm i k
      | some g =>
        if k ≠ 0 then s
        else
          let s := s.updForager g.page g.ctx (fun g => { g with draining := true })
          if !g.inLoop.isEmpty || s.foragerOwes g then s
          else (s.takeDorm i k).forwardDorm (s.foragerOuts g)
    | _ => s.takeDorm i k

/-- DORMANCY_MARKER_ARRIVAL (R204). -/
def execDormancyMarkerArrival (lid chan : Nat) (s : State) : Host.Outcome State Fault Refusal :=
  match s.chanNo lid chan with
  | some i => .next (s.dormArrive i)
  | none => .next s

/-! ### The dormant image (R205, R207, R373) -/

/-- The header of an image of length L: bytes 0 to 63. -/
def imageHead (lid pset w h die : Nat) (isSealed : Bool) (ver sections len : Nat) : List Byte :=
  leBytes 2 ver ++ leBytes 2 pset ++ leBytes 4 lid ++ leBytes 1 w ++ leBytes 1 h ++ leBytes 1 die
    ++ leBytes 1 (if isSealed then 1 else 0) ++ leBytes 4 sections ++ leBytes 8 len ++ List.replicate 40 0

/-- A section of an image (R207): KIND, plot column and row, index, context, channel or port number, and its data. -/
structure DormSect where
  kind : Nat
  x : Nat
  y : Nat
  idx : Nat := 0
  ctx : Nat := 0
  chan : Nat := 0
  data : List Byte
  deriving DecidableEq, Repr

/-- The 16 bytes of a descriptor. -/
def DormSect.descriptor (d : DormSect) : List Byte :=
  leBytes 2 d.kind ++ leBytes 1 d.x ++ leBytes 1 d.y ++ leBytes 1 d.idx ++ leBytes 1 d.ctx ++ leBytes 2 d.chan ++ leBytes 4 d.data.length
    ++ List.replicate 4 0

/-- Sections of a page, node or launch: R207 does not say which plot they name. -/
def pageSect (kind obj idx ctx chan : Nat) (data : List Byte) : DormSect :=
  { kind := kind, x := Config.imageField kind 2 obj, y := Config.imageField kind 3 obj, idx := idx, ctx := ctx, chan := chan, data := data }

/-- A register in memory: 16 bytes, the value, then S in bit 64 (R338). -/
def Img.bytes16 (x : Img) : List Byte := leBytes 8 x.v.toNat ++ leBytes 8 (if x.s then 1 else 0)

/-- Section 8: g0 to g31, then the control registers in the order of R205, the trap registers by number (log 20). -/
def coreRegBytes (s : State) (c : CoreRef) : List Byte :=
  (s.core c).g.toList.flatMap Img.bytes16
    ++ ([0x08, 0x09] ++ (List.range 16).map (fun k => 0x10 + k) ++ [0x20, 0x21, 0x22, 0x40, 0x48, 0x38, 0x39, 0x3A, 0x3B, 0x3C]).flatMap
        (fun n => leBytes 8 (readControl s c n).toNat)

/-- The used bytes of a tile: its rows, each with its scales (R169, R205). -/
def PageCore.tileBytes (p : PageCore) (k : Nat) : List Byte :=
  (List.range (tshRows (p.tshOf k) * rowBytes (p.tshOf k))).map (p.tile k).byte

/-- Where the consumer of a channel stands: an element's plot, or what R207 leaves open. -/
def State.chanSect (s : State) (h : Chan) (kind : Nat) (beats : List Beat) : DormSect :=
  let data := beats.flatMap beat78
  match h.dst with
  | .plot x y _ => { kind := kind, x := x, y := y, idx := ((s.consumer h).map (fun e => e.ref.idx % 256)).getD 0, ctx := h.ctx, chan := h.num, data := data }
  | _ => pageSect kind h.num (Config.imageField kind 4 h.num) h.ctx h.num data

/-- The sections whose layout R207 gives: what an input held ahead of its marker, what waits behind it (R204), and of each page core its
registers, its tiles and the queues of its ports. -/
def State.knownSections (s : State) (lid pset : Nat) : List DormSect :=
  (s.chans.filter (fun h => h.lid == lid && h.dstPset == pset && !h.loops)).flatMap (fun h =>
    let k := (h.cutAt.map (fun c => c.2)).getD h.beats.length
    [s.chanSect h 2 ((h.beats.take k).map (fun q => q.beat)), s.chanSect h 3 ((h.beats.drop k).map (fun q => q.beat))])
  ++ (s.cores.filter (fun (c : CoreRef × PageCore) => c.1.lid == lid && c.1.pset == pset)).flatMap (fun (c, p) =>
    let obj := c.py * 9 + c.px
    let field (kind f : Nat) : Nat := Config.imageField kind f obj
    pageSect 8 obj (field 8 4) (field 8 5) (field 8 6) (coreRegBytes s c)
    :: (List.range 16).map (fun k => pageSect 9 obj k (field 9 5) (field 9 6) (p.tileBytes k))
    ++ (List.range 32).flatMap (fun n =>
      [pageSect 10 obj (field 10 4) (if h : n < 32 then p.sinkCtx[n] else 0) n ((p.sinkQ n).flatMap beat78),
       pageSect 3 obj (field 3 4) (if h : n < 32 then p.srcCtx[n] else 0) n
        (((if h : n < 32 then p.src[n] else []).filter (fun b => !(hkind b == 3 && ckind b == 3))).flatMap beat78)]))

/-- An element as it is loaded: what it was given, and nothing of what it has done. -/
def Elem.loaded (e : Elem) : Elem :=
  { ref := e.ref, kind := e.kind, ctx := e.ctx, cfg := e.cfg, leaf := e.leaf, code := e.code, guess := e.guess }
/-- Has an element its load state, with the array or sort network of its page where it is a share of one (R207)? -/
def State.elemFresh (s : State) (e : Elem) : Bool :=
  decide ({ e with dormIn := [], fires := 0, noProgress := 0, iiOn := false, iiThr := 0, iiArmed := false } = e.loaded)
    && (e.kind == 1 || e.kind == 4 || s.arrays.all (fun a => !(a.page.lid == e.ref.lid && a.page.pset == e.ref.pset && a.page.px == e.ref.x / 4
        && a.page.py == e.ref.y / 4 && a.ctx == e.ctx) || decide (a = { page := a.page, ctx := a.ctx, mode := a.mode })))
/-- Has a memory node nothing to keep: no work, nothing in its list or intervals, its pattern at the first element? -/
def MemNode.blank (n : MemNode) : Bool :=
  n.ops.isEmpty && n.recent.isEmpty && n.overflow.isEmpty && n.cg.isEmpty && n.due.isEmpty && n.pos == 0
/-- Does a page core keep something for one of sections 14 to 17? -/
def PageCore.keeps (p : PageCore) : Nat → Bool
  | 14 => p.accs.toList.any (fun a => decide (a ≠ {}))
  | 15 => !p.streams.isEmpty
  | 16 => p.engResp.toList.any (fun l => !l.isEmpty) || p.engOut.toList.any (fun n => n != 0)
  | _ => p.serial != 0 || p.barSeen.toList.any (fun b => b.isSome)
/-- Is the cut of a page set one of its whole launch? -/
def State.cutWhole (s : State) (lid pset : Nat) : Bool :=
  s.cuts.any (fun c => c.lid == lid && c.psets.contains pset && (s.placed.filter (fun p => p.lid == lid)).all (fun p => c.psets.contains p.pset))
/-- The page set that holds layer 0 of a pipeline (R81). -/
def State.homeSet (s : State) (lid pipe : Nat) : Option Nat := ((s.imageOf lid).bind (fun m => m.pipes[pipe]?)).bind (fun p => p.psets.head?)

/-- The sections whose data R207 does not lay out, with no data yet, where they are not empty: elements, segment counters, trellis counters, prune
tables, foragers, memory nodes, rings, the rest of each page core, and what a page set and a launch have once. -/
def State.openSections (s : State) (lid pset : Nat) : List DormSect :=
  let page (g : PageRef) : Bool := g.lid == lid && g.pset == pset
  let field (kind f obj : Nat) : Nat := Config.imageField kind f obj
  let chans := s.chans.filter (fun h => h.lid == lid && h.dstPset == pset)
  let foragers := s.foragers.filter (fun g => page g.page)
  let nodes := s.nodes.filter (fun n => n.ref.lid == lid && n.pset == pset)
  let plots := s.plots.filter (fun q => q.lid == lid && q.pset == pset)
  let rotating := (s.place lid pset).any (fun p => p.rotating)
  let ofForager (kind : Nat) (g : Forager) : DormSect :=
    pageSect kind (g.page.py * 9 + g.page.px) (field kind 4 (g.page.py * 9 + g.page.px)) g.ctx (field kind 6 g.ctx) []
  let ofNode (kind : Nat) (n : MemNode) : DormSect := pageSect kind n.ref.node n.ref.node (field kind 5 n.ref.node) (field kind 6 n.ref.node) []
  (s.elems.filter (fun e => e.ref.lid == lid && e.ref.pset == pset && !s.elemFresh e)).map (fun e =>
    { kind := 1, x := e.ref.x, y := e.ref.y, idx := e.ref.idx % 256, ctx := e.ctx, chan := field 1 6 e.ref.idx, data := [] })
  ++ (chans.filter (fun h => h.loops && !h.beats.isEmpty)).map (fun h => s.chanSect h 2 [])
  ++ (chans.filter (fun h => h.hadPrefix)).map (fun h => s.chanSect h 4 [])
  ++ (plots.filter (fun q => q.ctx != (if rotating then 3 else 0))).map (fun q =>
    { kind := 4, x := q.x, y := q.y, idx := field 4 4 q.x, ctx := q.ctx, chan := field 4 6 q.x, data := [] })
  ++ (s.trellis.filter (fun t => page t.page && (t.offer.isSome || t.token.isSome || !t.doneIn.isEmpty))).map (fun t =>
    pageSect 5 (t.page.py * 9 + t.page.px) t.node (field 5 5 t.node) (field 5 6 t.node) [])
  ++ (s.leaves.filter (fun t => page t.page && t.token.isSome)).map (fun t =>
    pageSect 5 (t.page.py * 9 + t.page.px) (8 + t.leaf) (field 5 5 t.leaf) (field 5 6 t.leaf) [])
  ++ (plots.filter (fun q => !q.prunes.isEmpty)).map (fun q =>
    { kind := 6, x := q.x, y := q.y, idx := field 6 4 q.x, ctx := q.ctx, chan := field 6 6 q.x, data := [] })
  ++ (chans.filter (fun h => !h.table.isEmpty)).map (fun h => s.chanSect h 6 [])
  ++ (foragers.filter (fun g => !g.prunes.isEmpty)).map (ofForager 6) ++ (nodes.filter (fun n => !n.prunes.isEmpty)).map (ofNode 6)
  ++ foragers.map (ofForager 7) ++ (nodes.filter (fun n => !n.blank)).map (ofNode 11)
  ++ (s.cores.filter (fun (c : CoreRef × PageCore) => c.1.lid == lid && c.1.pset == pset)).flatMap (fun (c : CoreRef × PageCore) =>
    ([14, 15, 16, 17].filter c.2.keeps).map (fun k => let obj := c.1.py * 9 + c.1.px; pageSect k obj (field k 4 obj) (field k 5 obj) (field k 6 obj) []))
  ++ ((if s.cutWhole lid pset && s.homeSet lid 0 == some pset then [13] else [])
      ++ (if s.cutWhole lid pset && (s.homeSet lid 0).getD 0 == pset then [12] else [])
      ++ (if s.barriers.any (fun b => b.lid == lid && b.pset == pset) then [18] else [])).map
    (fun k => pageSect k 0 (field k 4 0) (field k 5 0) (field k 6 0) [])

/-- Section n of those is given bytes that are free: 72 for a forager, for any other as many as a free value says, one at least (R141, log 20). -/
def openData (at_ n : Nat) (d : DormSect) : DormSect :=
  let len := if d.kind = 7 then 72 else 1 + Config.freeNat (at_ + n) % 2 ^ 20
  { d with data := (List.range len).map (fun i => Config.freeByte (2 ^ 40 * (at_ + n) + i)) }

/-- The order of descriptors, which R207 does not give. -/
def DormSect.rank (d : DormSect) : Nat := Config.imageRank [d.kind, d.x, d.y, d.idx, d.ctx, d.chan]
def sectInsert (d : DormSect) : List DormSect → List DormSect
  | [] => [d]
  | e :: r => if d.rank ≤ e.rank then d :: e :: r else e :: sectInsert d r

/-- The sections of an image: those that hold something. -/
def State.imageSections (s : State) (p : Placed) : List DormSect :=
  ((s.knownSections p.lid p.pset ++ (s.openSections p.lid p.pset).zipIdx.map (fun (e : DormSect × Nat) => openData s.fresh e.2 e.1)).filter
    (fun (d : DormSect) => !d.data.isEmpty)).foldr sectInsert []

/-- Section data one after the other, each at a multiple of 16; the bytes between them are free. -/
def sectData (at_ : Nat) : List DormSect → List Byte
  | [] => []
  | [d] => d.data
  | d :: r => d.data
    ++ (List.range ((16 - d.data.length % 16) % 16)).map (fun i => Config.freeByte (2 ^ 40 * at_ + 2 ^ 30 + 16 * r.length + i))
    ++ sectData at_ r

/-- An image: header, digest, descriptors, data (R207). -/
def imageBytes (s : State) (p : Placed) (ver : Nat) (whole : Bool) : List Byte :=
  let ds := s.imageSections p
  let rest := ds.flatMap DormSect.descriptor ++ sectData s.fresh ds
  let head := imageHead p.lid p.pset p.w p.h p.die p.isSealed ver ds.length (128 + rest.length)
  let rest := if whole then rest else []
  head ++ Config.sha3 (head ++ rest) ++ rest

/-- How many free values an image takes. -/
def State.imageFree (s : State) (p : Placed) : Nat := (s.openSections p.lid p.pset).length + 1

/-- Writes the image of a page set to CKPT's area; the runs it fills when it fits, and its digest (R373). -/
def State.writeImage (s : State) (a : Span × Nat × Nat) : State × Span × List Byte :=
  let (sp, n, pset) := a
  match s.placed.find? (fun p => p.pset == pset && s.cuts.any (fun c => c.lid == p.lid && c.psets.contains pset && c.area == some a)) with
  | none => (s, [], [])
  | some p =>
    if p.isSealed then (s, [], [])
    else
      let image := imageBytes s p 1 true
      let fits := decide (image.length ≤ n)
      let bytes := if fits then image else imageBytes s p 0 false
      let w : Writer := { lid := p.lid, pset := pset, who := .core ⟨p.lid, pset, 0, 0⟩ 0 0 0 }
      let s := ((s.useFree (s.imageFree p)).writeSpan w 0 sp (bytes.take n)).1
      (s, if fits then sp else [], (image.drop 64).take 64)

/-- Does an image that stands in memory hold its version and digest (R208)? -/
def State.imageHolds (s : State) (sp : Span) : Bool :=
  let b := readSpan s sp
  let len := leNat ((b.drop 16).take 8)
  sp.isEmpty || (decide (leNat (b.take 2) = 1)
    && decide (Config.sha3 (b.take 64 ++ (b.take len).drop 128) = (b.drop 64).take 64))

/-- Takes the state of one region out of the machine (R205). -/
def State.saveRegion (s : State) (lid pset : Nat) (area : Span) (digest : List Byte) : State :=
  let mine (l p : Nat) : Bool := l == lid && p == pset
  let page (g : PageRef) : Bool := mine g.lid g.pset
  let pl := s.place lid pset
  let d : Dormant :=
    { lid := lid, pset := pset, die := (pl.map (fun p => p.die)).getD 0, w := (pl.map (fun p => p.w)).getD 0
      h := (pl.map (fun p => p.h)).getD 0, area := area, digest := digest, started := pl.any (fun p => p.started)
      sprouts := s.sprouts.toList.filter (fun c => c.owner == some lid && (s.homeSet lid c.pipe) == some pset)
      cores := s.cores.filter (fun (c : CoreRef × PageCore) => mine c.1.lid c.1.pset)
      elems := s.elems.filter (fun e => mine e.ref.lid e.ref.pset), chans := s.chans.filter (fun h => mine h.lid h.dstPset)
      plots := s.plots.filter (fun q => mine q.lid q.pset), trellis := s.trellis.filter (fun t => page t.page)
      leaves := s.leaves.filter (fun t => page t.page), foragers := s.foragers.filter (fun g => page g.page)
      arrays := s.arrays.filter (fun a => page a.page), nodes := s.nodes.filter (fun n => mine n.ref.lid n.pset)
      barriers := s.barriers.filter (fun b => mine b.lid b.pset), armings := s.armings.filter (fun a => page a.page) }
  { s with
    dormants := s.dormants ++ [d]
    cores := s.cores.filter (fun (c : CoreRef × PageCore) => !mine c.1.lid c.1.pset)
    elems := s.elems.filter (fun e => !mine e.ref.lid e.ref.pset), chans := s.chans.filter (fun h => !mine h.lid h.dstPset)
    plots := s.plots.filter (fun q => !mine q.lid q.pset), trellis := s.trellis.filter (fun t => !page t.page)
    leaves := s.leaves.filter (fun t => !page t.page), foragers := s.foragers.filter (fun g => !page g.page)
    arrays := s.arrays.filter (fun a => !page a.page), nodes := s.nodes.filter (fun n => !mine n.ref.lid n.pset)
    barriers := s.barriers.filter (fun b => !mine b.lid b.pset), armings := s.armings.filter (fun a => !page a.page)
    sprouts := s.sprouts.map (fun c => if c.owner = some lid ∧ s.homeSet lid c.pipe = some pset then {} else c)
    placed := s.placed.filter (fun p => !mine p.lid p.pset) }

/-- A saved region as it runs again: its markers are gone, and the first interval of an element is not measured (R204, R217). -/
def wakeElem (e : Elem) : Elem := { e with dormIn := [], iiArmed := false }
def wakeChan (h : Chan) : Chan := { h with marked := false, cutAt := none }
def wakeNode (n : MemNode) : MemNode := { n with dormIn := [], cutting := false }
def wakeForager (g : Forager) : Forager := { g with draining := false }

/-! ### Entries that retire (R101, R210) -/

/-- A source port drops its range; its page core's beats go on being dropped while SEQ and GEN name a dead generation (R99). -/
def State.retirePort (s : State) (c : CoreRef) (n : Nat) (gone : PruneEnt → Bool) : State :=
  let hit (d : CoreRef × Nat × PruneEnt) : Bool := decide (d.1 = c) && d.2.1 == n && gone d.2.2
  let p := s.core c
  let g := genOf p.genReg
  let dead := (s.portPrunes.filter hit).any (fun (d : CoreRef × Nat × PruneEnt) =>
    !seqNolane p.seqReg && seqLane p.seqReg == d.2.2.lane && deadIn g d.2.2.lo d.2.2.hi)
  { s with
    portPrunes := s.portPrunes.filter (fun d => !hit d)
    portDrops := if dead && !s.portDrops.contains (c, n, g) then s.portDrops ++ [(c, n, g)] else s.portDrops }

/-- A filter drops entries. -/
def State.dropEntries (s : State) (f : FilterRef) (gone : PruneEnt → Bool) : State :=
  let rest (t : List PruneEnt) : List PruneEnt := t.filter (fun e => !gone e)
  match f with
  | .plot lid pset x y => s.updPlot lid pset x y (fun q => { q with prunes := rest q.prunes })
  | .chan lid num => match s.chanNo lid num with
    | some i => s.updChan i (fun h => { h with table := rest h.table })
    | none => s
  | .node r => s.updNode r (fun n => { n with prunes := rest n.prunes })
  | .forager p ctx => s.updForager p ctx (fun g =>
      { g with prunes := rest g.prunes, returned := g.returned.filter (fun (r : Nat × Nat) => (rest g.prunes).any (fun e => e.serial == r.1)) })
  | .port c n => s.retirePort c n gone

/-- Does a dormant region hold a filter? -/
def Dormant.holds (d : Dormant) : FilterRef → Bool
  | .plot lid pset _ _ => d.lid == lid && d.pset == pset
  | .chan lid num => d.lid == lid && d.chans.any (fun h => h.num == num)
  | .node r => d.nodes.any (fun n => decide (n.ref = r))
  | .forager p _ => d.lid == p.lid && d.pset == p.pset
  | .port c _ => d.lid == c.lid && d.pset == c.pset

/-- Puts the state of a saved region back; what retired while it was dormant goes before anything of it fires (R205, R208, R210). -/
def State.restoreRegion (s : State) (d : Dormant) : State :=
  let s : State := { s with
    dormants := s.dormants.filter (fun e => !(e.lid == d.lid && e.pset == d.pset))
    cores := s.cores ++ d.cores, elems := s.elems ++ d.elems.map wakeElem, chans := s.chans ++ d.chans.map wakeChan
    plots := s.plots ++ d.plots, trellis := s.trellis ++ d.trellis, leaves := s.leaves ++ d.leaves
    foragers := s.foragers ++ d.foragers.map wakeForager, arrays := s.arrays ++ d.arrays
    nodes := s.nodes ++ d.nodes.map wakeNode, barriers := s.barriers ++ d.barriers, armings := s.armings ++ d.armings }
  d.retires.foldl (fun s (r : FilterRef × PruneEnt) => s.dropEntries r.1 (fun e => decide (e = r.2))) s

/-- A region that was cut where it stands runs on (R209, R215, R373). -/
def State.wakeRegion (s : State) (lid pset : Nat) : State :=
  { s.mapPlace lid pset (fun p => { p with quiesced := false }) with
    elems := s.elems.map (fun e => if e.ref.lid = lid ∧ e.ref.pset = pset then wakeElem e else e)
    chans := s.chans.map (fun h => if h.lid = lid ∧ (h.srcPset = pset ∨ h.dstPset = pset) then wakeChan h else h)
    nodes := s.nodes.map (fun n => if n.ref.lid = lid ∧ n.pset = pset then wakeNode n else n)
    foragers := s.foragers.map (fun g => if g.page.lid = lid ∧ g.page.pset = pset then wakeForager g else g) }

/-! ### Completion (R204, R385) -/

/-- Has a page core nothing on its way: what its committed blocks asked for is performed, its markers are injected? -/
def State.coreQuiet (s : State) (c : CoreRef) : Bool :=
  let p := s.core c
  p.blocks.isEmpty && p.posted.isEmpty && p.tileQ.isEmpty && p.streams.all (fun t => !t.ld) && !s.engines.any (fun r => decide (r.core = c))
    && (List.range 32).all (fun n => match s.viLink c n with
      | some h => h.marked
      | none => true)

/-- Have the markers of a cut reached every sink? -/
def State.cutDone (s : State) (c : Cut) : Bool :=
  c.psets.all (fun p =>
    (s.coresOf c.lid p).all s.coreQuiet
      && (s.elems.filter (fun e => e.ref.lid == c.lid && e.ref.pset == p)).all s.elemStopped
      && (s.chans.filter (fun h => h.lid == c.lid && h.dstPset == p)).all (fun h => h.dormPlace.isNone)
      && (s.nodes.filter (fun n => n.ref.lid == c.lid && n.pset == p)).all (fun n => n.cutting)
      && (s.foragers.filter (fun g => g.page.lid == c.lid && g.page.pset == p)).all (fun g => g.draining && g.inLoop.isEmpty))
    && (match s.firing with
        | some f => !(f.elem.lid == c.lid && c.psets.contains f.elem.pset)
        | none => true)

/-- The stop report: for each channel, the last ordinal before the cut (R215). -/
def State.stopReport (s : State) (lid : Nat) : State :=
  { s with outbox := s.outbox ++ (s.chans.filter (fun h => h.lid == lid)).map (fun h =>
      .report 1 lid h.num ((h.cutAt.map (fun c => c.1)).getD h.ordinal)) }

/-- A launch that becomes dormant takes its entries of the ready lists and its task records with it (R75, R205). -/
def State.parkSeqs (s : State) (lid : Nat) : State :=
  let s' := s.mapLaunch lid (fun l => { l with
    parkedReady := s.seqs.toList.flatMap (fun q => q.ready.filter (fun e => e.1 == lid))
    parkedTasks := s.seqs.toList.flatMap (fun q => q.tasks.filter (fun t => t.lid == lid)) })
  { s' with seqs := s.seqs.map (fun q => { q with
      ready := q.ready.filter (fun e => e.1 != lid), tasks := q.tasks.filter (fun t => t.lid != lid)
      stalled := q.stalled.filter (fun c => c.lid != lid) }) }

/-- What follows a cut that is complete, by its cause. -/
def State.finishCut (s : State) (c : Cut) : State :=
  let (s, sp, digest) := match c.area with
    | some a => s.writeImage a
    | none => (s, [], [])
  let s := { s with cuts := s.cuts.filter (fun d => decide (d ≠ c)) }
  match c.why with
  | .ckptCont _ => c.psets.foldl (fun s p => s.wakeRegion c.lid p) s
  | .graft => c.psets.foldl (fun s p => s.mapPlace c.lid p (fun q => { q with quiesced := true })) s
  | .stop =>
    let s := (s.stopReport c.lid).mapLaunch c.lid (fun l => { l with phase := .stopped })
    c.psets.foldl (fun s p => s.mapPlace c.lid p (fun q => { q with quiesced := true })) s
  | _ =>
    let own := (c.area.map (fun a => a.2.2))
    let s := c.psets.foldl (fun s p => s.saveRegion c.lid p (if own = some p then sp else []) (if own = some p then digest else [])) s
    let s := (s.parkSeqs c.lid).mapLaunch c.lid (fun l => { l with phase := .dormant, preempted := decide (c.why = .preempt) })
    { s with head := if s.head = some c.lid then none else s.head, grafts := s.grafts.filter (fun g => g.lid != c.lid) }

/-- Freezes every region of a launch; it stays placed until RESUME or KILL (R215). -/
def State.freezeLaunch (s : State) (lid : Nat) : State :=
  (s.haltLaunch lid).mapLaunch lid (fun l => { l with phase := .frozen })

/-- CUT_COMPLETE (R204, R209, R215, R373). -/
def execCutComplete (lid : Nat) (s : State) : Host.Outcome State Fault Refusal :=
  match s.cuts.find? (fun c => c.lid == lid && s.cutDone c && !s.ended lid) with
  | some c => .next (s.finishCut c)
  | none => .next s

end Sys2Proof.Machine
end

