-- ==== Sys2Proof/Machine/Async.lean ====
section
/-! DEFINITION. What goes on after a commit: posted accesses at the banks, tile instructions, stream commands, source ports
(R22, R23, R170, R171, R175, R320, R321, R358 to R370, R393, R410). -/
namespace Sys2Proof.Machine

/-! ### Posted accesses (R178 to R187, R193) -/

/-- The writer that a page core is at a bank. -/
def coreWriter (c : CoreRef) (seq lsid kind : Nat) : Writer := { lid := c.lid, pset := c.pset, who := .core c seq lsid kind }

/-- May a posted access be performed: nothing earlier in issue order touches its words, no XWAIT holds it (R193, R351)? -/
def State.postedFree (s : State) (c : CoreRef) (q : Posted) : Bool :=
  (match q.kind with
    | .atom ((x, _) :: _) _ => s.updateDue c.lid (s.agentOf c 0xFF) x.pa
    | _ => true) && !q.atBank && !s.heldAt c q.seq && s.banksRun q.kind.span && s.gScanned c.lid c.pset q.kind.span
    && !s.pendingMeets c q.seq q.kind.span true false (match q.kind with
      | .till _ _ => true
      | _ => false)

/-- Performs a posted access at the bank. -/
def State.performPosted (s : State) (c : CoreRef) (q : Posted) : State :=
  let drop (s : State) : State := s.mapCore c (fun p => { p with posted := p.posted.filter (fun r => r.seq != q.seq) })
  if s.eccBad (spanPas q.kind.span) then latchFault (drop (s.eccMeet (spanPas q.kind.span))) c 0x0C q.va q.lsid
  else match q.kind with
  | .store sp bs gen =>
    let (s, second, held) := s.writeSpan (coreWriter c q.seq q.lsid 1) gen sp bs
    let s := if held then
        s.mapCore c (fun p => { p with posted := p.posted.map (fun r => if r.seq = q.seq then { r with atBank := true } else r) })
      else drop s
    match second with
    | some va => latchFault s c 7 va q.lsid
    | none => s
  | .till lines g => drop (s.tillSpan c lines g)
  | .atom sp a =>
    match sp with
    | [] => drop s
    | (x, _) :: _ => drop (((s.noteUpdate c.lid (s.agentOf c 0xFF) x.pa).atomicAt x.pa a).1)

/-- The posted access of a page core with a place in issue order. -/
def State.postedAt (s : State) (c : CoreRef) (seq : Nat) : Option Posted := (s.core c).posted.find? (fun q => q.seq == seq)

/-- A posted access reaches its bank. -/
def State.corePosted (s : State) (c : CoreRef) (seq : Nat) : State :=
  match s.postedAt c seq with
  | some q => if s.postedFree c q then s.performPosted c q else s
  | none => s

/-! ### Translations (R172, R175, R203) -/

/-- PAGE_WALK: a walk completes and its result is kept; one that faults keeps nothing. -/
def execPageWalk (owner : TlbOwner) (asid va : Nat) (s : State) : Host.Outcome State Fault Refusal :=
  match s.spaceFor owner asid with
  | some a => .next (tlbFill s owner a va)
  | none => .next s

/-! ### Source ports (R22, R23, R99, R410) -/

/-- Does a source port drop what its page core pushes now (R99, R410)? -/
def State.portDropping (s : State) (c : CoreRef) (n : Nat) : Bool :=
  let p := s.core c
  let g := genOf p.genReg
  s.portDrops.any (fun (d : CoreRef × Nat × Nat) => decide (d = (c, n, g)))
    || s.portPrunes.any (fun (d : CoreRef × Nat × PruneEnt) =>
        decide (d.1 = c) && d.2.1 == n && !seqNolane p.seqReg && seqLane p.seqReg == d.2.2.lane && deadIn g d.2.2.lo d.2.2.hi)

/-- A page core pushes beats into one of its source ports. -/
def State.pushSrc (s : State) (c : CoreRef) (n : Nat) (bs : List Beat) : State :=
  if s.portDropping c n then s else s.mapCore c (fun p => p.queueSrc n bs)

/-- One local cycle of a bucket (R23). -/
def Bucket.gain (b : Bucket) : Bucket :=
  let t := b.frac + b.refill
  let l := b.level + t / 1024
  if b.depth ≤ l then { b with level := b.depth, frac := 0 } else { b with level := l, frac := t % 1024 }

/-- The page core whose source port is a fabric ingress port of a die: port 32 × page + v (R24). -/
def State.corePort (s : State) (die port : Nat) : Option (CoreRef × Nat) :=
  let x := port / 32 % 9
  let y := port / 32 / 9
  (s.placed.find? (fun p => p.die == die && decide (p.x ≤ x ∧ x < p.x + p.w ∧ p.y ≤ y ∧ y < p.y + p.h))).map (fun p =>
    ({ lid := p.lid, pset := p.pset, px := x - p.x, py := y - p.y }, port % 32))

/-- The fabric ingress port of a source port. -/
def State.portOf (s : State) (c : CoreRef) (n : Nat) : Nat × Nat :=
  let (x, y) := s.pageXY c
  (s.dieOfPset c.lid c.pset, 32 * (9 * y + x) + n)

/-- A source port injects its first beat: its bucket holds a whole token, its link has a free slot, no marker has gone. Where it feeds a channel
node its dormancy marker goes no further: the channel node is a sink of the cut and reports it (R22, R79, R204). -/
def State.inject (s : State) (c : CoreRef) (n : Nat) : State :=
  let (die, port) := s.portOf c n
  let b := s.bucket die port
  match (s.core c).srcQ n, (s.viLink c n).bind (fun h => s.chanNo h.lid h.num) with
  | bt :: rest, some i =>
    let h := s.chanAt i
    let dorm := decide (hkind bt = 3 ∧ ckind bt = 3)
    let reported := dorm && h.kind != 0
    if 1 ≤ b.level && b.en && !h.marked && (reported || s.room i 1 h.ctx) && s.runs c.lid c.pset then
      let s := s.setBucket die port { b with level := b.level - 1 }
      let s := s.mapCore c (fun p => if hn : n < 32 then { p with src := p.src.set n rest } else p)
      let s := if dorm then s.updChan i (fun h => { h with marked := true }) else s
      let s := if reported then s else s.push i bt h.ctx (h.srcs.findIdx (fun d => decide (d = .core c.px c.py n)))
      if hkind bt = 3 ∧ ckind bt = 4 then
        s.mapCore c (fun p => if hn : n < 32 then { p with srcCtx := p.srcCtx.set n (beatCtx bt) } else p)
      else s
    else s
  | _, _ => s

/-- BUCKET_REFILL (R22, R23): one local cycle of a fabric ingress port. -/
def execBucketRefill (die port : Nat) (s : State) : Host.Outcome State Fault Refusal :=
  let s := s.setBucket die port (s.bucket die port).gain
  match s.corePort die port with
  | some (c, n) => .next (s.inject c n)
  | none => .next s

/-! ### Tile instructions (R358 to R370) -/

/-- What a tile instruction reads or changes: tiles 0 to 15, accumulators 16 to 19, active and preload weights 20 and 21. -/
def TileOp.names : TileOp → List Nat
  | .tld k _ _ => [k]
  | .tst k _ _ => [k]
  | .zero k => [k]
  | .reshape k _ => [k]
  | .mov k j _ => [k, j]
  | .fill k _ => [k]
  | .wloadT ctl => [ctl.toNat % 16, 21]
  | .wloadW _ _ => [21]
  | .wswap => [20, 21]
  | .mma k _ => [k, 16, 17, 18, 19, 20]
  | .mmas k ctl => [k, mmaTA ctl, mmaTW ctl, 16, 17, 18, 19, 20]
  | .accz m => ((List.range 4).filter (fun q => m.getLsbD q)).map (fun q => 16 + q)
  | .accd k ctl _ _ => [k, 16 + ctl.toNat % 4]
  | .topk k ctl => [k, topkD ctl, topkV ctl, topkIT ctl]
  | .setTsh k _ => [k]
  | .stream k _ => [k]

/-- Does a tile instruction use the array (R363)? -/
def TileOp.onArray (op : TileOp) : Bool := op.names.any (fun n => decide (16 ≤ n))

/-- May a tile instruction in the queue run: nothing earlier names what it names or touches its words, its block has performed what stands
before it, no XWAIT and no free-running section holds it (R71, R193, R351, R358, R363)? -/
def State.tileFree (s : State) (c : CoreRef) (t : TileItem) (earlier : List TileItem) : Bool :=
  let p := s.core c
  let mayStart := decide (t.seq < p.opSeq) || t.lsid == 0 || p.blocks.head?.any (fun b => decide (t.lsid ≤ b.performed))
  mayStart && s.moves c.lid c.pset && earlier.all (fun e => e.op.names.all (fun n => !t.op.names.contains n) && !overlap e.op.span t.op.span)
    && !(t.op.touches && s.heldAt c t.seq) && s.banksRun t.op.span
    && (match t.op with
      | .tst _ _ _ => s.gScanned c.lid c.pset t.op.span
      | _ => s.gFree c.lid c.pset t.op.span)
    && !p.posted.any (fun q => decide (q.seq < t.seq) && overlap q.kind.span t.op.span)
    && !p.streams.any (fun q => decide (q.seq < t.seq) && overlap q.span t.op.span)
    && !s.engines.any (fun r => decide (r.core = c) && decide (r.seq < t.seq) && s.engMeets r t.op.span true)
    && !(t.op.onArray && (s.arrayOf (pageOf c)).any (fun a => a.freeRun.isSome))

/-- The bytes of a row in memory: none while a word is absent, zeros for a dead read (R104, R360). -/
def State.rowData (s : State) (c : CoreRef) (gen : Nat) (sp : Span) : Option (List Byte) :=
  if spanAttr sp = 2 ∧ s.coreDead c (spanLane sp) gen then some ((spanPas sp).map (fun _ => 0))
  else if spanAbsent s sp then none
  else some (readSpan s sp)

/-- All rows, once all their words are present. -/
def State.rowsData (s : State) (c : CoreRef) (gen : Nat) : List Span → Option (List (List Byte))
  | [] => some []
  | sp :: r =>
    match s.rowData c gen sp, s.rowsData c gen r with
    | some b, some bs => some (b :: bs)
    | _, _ => none

/-- Rows that meet an uncorrectable error: their bytes are free, and the fault is deferred (R199, R223). Other rows keep their bytes. -/
def State.rowErrors (s : State) (c : CoreRef) (t : TileItem) (rows : List Span) (bs : List (List Byte)) : State × List (List Byte) :=
  let live (sp : Span) : Bool := !(spanAttr sp == 2 && s.coreDead c (spanLane sp) t.gen)
  let bad (sp : Span) : Bool := live sp && s.eccBad (spanPas sp)
  let all := (rows.filter live).flatten
  let s' := ((s.eccMeet (spanPas all)).askSpan all)
  match rows.find? bad with
  | none => (s', bs)
  | some sp => (latchFault (s'.useFree 1) c 0x0C (s.badVa sp) t.lsid,
      bs.zipIdx.map (fun (e : List Byte × Nat) =>
        if bad (rows.getD e.2 []) then (List.range e.1.length).map (fun i => Config.freeByte (2 ^ 40 * s.fresh + 2 ^ 16 * e.2 + i)) else e.1))

/-- A tile from its rows, each row L bytes from the one before; every other byte is zero (R359). -/
def tileOfRows (len : Nat) (rows : List (List Byte)) : Tile :=
  rows.zipIdx.foldl (fun t (e : List Byte × Nat) => Tile.setBytes t (e.2 * len) e.1) []

/-- The rows of a tile as TST writes them. -/
def Tile.rowBytesAt (t : Tile) (len i : Nat) : List Byte := (List.range len).map (fun k => t.byte (i * len + k))

/-- The code of element (j, k) of an image in which rows stand `len` bytes apart. -/
def Tile.codeAt (t : Tile) (f len j k : Nat) : Nat :=
  let o := 8 * (j * len) + k * fmtWidth f
  leNat ((List.range 5).map (fun i => t.byte (o / 8 + i))) / 2 ^ (o % 8) % 2 ^ fmtWidth f

/-- Preload registers from an image of jn rows and kn elements (R364). The image holds no scale for MX elements beyond the last whole block
of a row: theirs is free (log 82). -/
def loadWeights (ctl : DWord) (t : Tile) (f len jn kn at_ : Nat) : Weights :=
  let p := ((packOf f).map (fun e => e.2)).getD 1
  let jorg := ctl.toNat / 2 ^ 8 % 128
  let korg := ctl.toNat / 2 ^ 16 % 128
  let eb := (kn * fmtWidth f + 7) / 8
  (List.range jn).foldl (fun (w : Weights) j =>
    (List.range kn).foldl (fun (w : Weights) k =>
      let cell := (korg + k / p) * 128 + (jorg + j)
      { w with
        codes := cellSet 0 (cell * 4 + k % p) (t.codeAt f len j k) w.codes
        scales := if fmtIsMx f then cellSet 127 cell
            (if k / 32 < kn / 32 then t.byte (j * len + eb + k / 32) else Config.freeByte (2 ^ 40 * at_ + 512 * j + k / 32)).toNat w.scales
          else w.scales }) w)
    { fmt := f }

/-- Empties accumulators (R366, R368). -/
def emptyAccs (accs : Vector ArrAcc 4) (qs : List Nat) : Vector ArrAcc 4 :=
  qs.foldl (fun a q => if h : q < 4 then a.set q .empty else a) accs

/-- The passes of MMA and MMAS: row i into accumulator Q + i (R366, R367). -/
def runPasses (a : TileView) (w : Weights) (ctl : DWord) (rows : List (Nat × Nat)) (accs : Vector ArrAcc 4) : Vector ArrAcc 4 :=
  let n := tshRows a.v
  let accs := if mmaZ ctl then emptyAccs accs ((List.range n).map (fun i => mmaQ ctl + i)) else accs
  (List.range n).foldl (fun acc i =>
    if h : mmaQ ctl + i < 4 then acc.set (mmaQ ctl + i) (passRow a w i rows acc[mmaQ ctl + i]) else acc) accs

/-- Row `row` of a tile takes the codes of an accumulator (R368). -/
def drainRow (t : Tile) (v : DWord) (row : Nat) (acc : ArrAcc) (mode : Nat) (satf8 : Bool) : Tile :=
  (List.range (tshCols v)).foldl (fun t j => t.setCode v row j (drainCode acc j (tshType v) mode satf8)) t

/-- TOPK on tiles (R370). -/
def PageCore.topk (p : PageCore) (k : Nat) (ctl : DWord) : PageCore :=
  let kv : TileView := ⟨p.tile k, p.tshOf k⟩
  let it : Option TileView := if topkIX ctl then some ⟨p.tile (topkIT ctl), p.tshOf (topkIT ctl)⟩ else none
  let d := topkD ctl
  let v := topkV ctl
  let dv := p.tshOf d
  (List.range (tshRows kv.v)).foldl (fun p i =>
    ((topkRow kv it (!topkDir ctl) i).take (topkK ctl)).zipIdx.foldl (fun p (e : (Wf × Int × Nat) × Nat) =>
      let p := p.setTile d ((p.tile d).setCode dv i e.2 (bitsOf (fmtWidth (tshType dv)) e.1.2.1))
      if topkVE ctl then p.setTile v ((p.tile v).setCode (p.tshOf v) i e.2 (kv.t.code kv.v i e.1.2.2)) else p) p) p

def State.updArray (s : State) (g : PageRef) (ctx : Nat) (f : ArrayUnit → ArrayUnit) : State :=
  { s with arrays := s.arrays.map (fun a => if a.page = g ∧ a.ctx = ctx then f a else a) }

/-- A tile instruction on the array of a page core's page. -/
def State.onArray (s : State) (c : CoreRef) (f : ArrayUnit → ArrayUnit) : State :=
  s.updArray (pageOf c) (s.pageCtx (pageOf c)) f

/-- Writes the rows of a tile (R360); a held word keeps the store outstanding, and a row that meets an uncorrectable error is not written (R199). -/
def State.storeRows (s : State) (c : CoreRef) (t : TileItem) (rows : List (Span × List Byte)) : State :=
  let bad (e : Span × List Byte) : Bool := s.eccBad (spanPas e.1)
  let s := match rows.find? bad with
    | some e => latchFault (s.eccMeet (spanPas e.1)) c 0x0C (s.badVa e.1) t.lsid
    | none => s
  let (s, second, held) := (rows.filter (fun e => !bad e)).foldl (fun (acc : State × Option Nat × Bool) (e : Span × List Byte) =>
    let (s, f, h) := acc.1.writeSpan (coreWriter c t.seq t.lsid 1) t.gen e.1 e.2
    (s, acc.2.1.or f, acc.2.2 || h)) (s, none, false)
  let s := if held then
      s.mapCore c (fun p => { p with posted := p.posted ++ [{ seq := t.seq, far := false, lsid := t.lsid, va := 0
                                                              kind := .store [] [] t.gen, atBank := true }] })
    else s
  match second with
  | some va => latchFault s c 7 va t.lsid
  | none => s

/-- The effect of a tile instruction; none while it waits for data (R358 to R370). -/
def State.tileEffect (s : State) (c : CoreRef) (t : TileItem) : Option State :=
  let p := s.core c
  let arr := s.arrayOf (pageOf c)
  match t.op with
  | .tld k _ rows => (s.rowsData c t.gen rows).map (fun bs =>
      let (s, bs) := s.rowErrors c t rows bs
      s.mapCore c (fun p => p.setTile k (tileOfRows (rowBytes (p.tshOf k)) bs)))
  | .tst k _ rows =>
    let len := rowBytes (p.tshOf k)
    some (s.storeRows c t (rows.zipIdx.map (fun (e : Span × Nat) => (e.1, (p.tile k).rowBytesAt len e.2))))
  | .zero k => some (s.mapCore c (fun p => p.setTile k []))
  | .reshape _ _ => some s
  | .mov k j tr => some (s.mapCore c (fun p => p.setTile k (if tr then (p.tile j).transpose (p.tshOf j) else p.tile j)))
  | .fill k code => some (s.mapCore c (fun p => p.setTile k ((p.tile k).fill (p.tshOf k) code)))
  | .wloadT ctl =>
    let v := p.tshOf (ctl.toNat % 16)
    some (s.onArray c (fun a => { a with
      preload := loadWeights ctl (p.tile (ctl.toNat % 16)) (tshType v) (rowBytes v) (tshRows v) (tshCols v) s.fresh }))
  | .wloadW ctl rows =>
    let (f, jn, kn) := wloadCounts ctl
    (s.rowsData c t.gen rows).map (fun bs =>
      let (s, bs) := s.rowErrors c t rows bs
      (if fmtIsMx f && kn % 32 != 0 then s.useFree 1 else s).onArray c (fun a => { a with
        preload := loadWeights ctl (tileOfRows (imageRow f kn) bs) f (imageRow f kn) jn kn s.fresh }))
  | .wswap => some (s.onArray c (fun a => { a with active := a.preload, preload := a.active }))
  | .mma k ctl =>
    let v : TileView := ⟨p.tile k, p.tshOf k⟩
    some (s.onArray c (fun a => { a with accs := runPasses v a.active ctl (mmaRows v.v) a.accs }))
  | .mmas k ctl =>
    let v : TileView := ⟨p.tile k, p.tshOf k⟩
    let row (j : Nat) : List Nat := (p.tile j).row (p.tshOf j) 0
    some (s.onArray c (fun a => { a with accs := runPasses v a.active ctl (mmasRows v.v (row (mmaTA ctl)) (row (mmaTW ctl))) a.accs }))
  | .accz m => some (s.onArray c (fun a => { a with accs := emptyAccs a.accs ((List.range 4).filter (fun q => m.getLsbD q)) }))
  | .accd k ctl mode satf8 =>
    let q := ctl.toNat % 4
    let acc : ArrAcc := match arr with
      | some a => if h : q < 4 then a.accs[q] else .empty
      | none => .empty
    let s := s.mapCore c (fun p => p.setTile k (drainRow (p.tile k) (p.tshOf k) (ctl.toNat / 2 ^ 8 % 128) acc mode satf8))
    some (if ctl.getLsbD 15 then s.onArray c (fun a => { a with accs := emptyAccs a.accs [q] }) else s)
  | .topk k ctl => some (s.mapCore c (fun p => p.topk k ctl))
  | .setTsh k _ => some (s.mapCore c (fun p => p.setTile k []))
  | .stream _ _ => if p.streams.any (fun q => q.seq == t.seq) then none else some s

/-- A tile instruction completes: its effect, the shapes it leaves, and it stands in the queue no more. -/
def State.completeTile (s : State) (c : CoreRef) (t : TileItem) : Option State :=
  (s.tileEffect c t).map (fun s => s.mapCore c (fun p =>
    { p with tsh := tshAfter p.tsh t.op, tileQ := p.tileQ.filter (fun u => decide (u ≠ t)) }))

/-- The first tile instruction of a page core that may run and has its data. -/
def State.nextTile (s : State) (c : CoreRef) : List TileItem → List TileItem → Option State
  | _, [] => none
  | earlier, t :: r =>
    match if s.tileFree c t earlier then s.completeTile c t else none with
    | some s => some s
    | none => s.nextTile c (earlier ++ [t]) r

/-- TILE_INSTRUCTION_COMPLETION (R358). -/
def execTileInstructionCompletion (core : CoreRef) (s : State) : Host.Outcome State Fault Refusal :=
  .next ((s.nextTile core [] (s.core core).tileQ).getD s)

/-! ### Stream commands (R320, R321, R393) -/

/-- Bytes [off, off + len) of a span. -/
def sliceSpan : Span → Nat → Nat → Span
  | [], _, _ => []
  | (x, n) :: r, off, len =>
    if len = 0 then []
    else if n ≤ off then sliceSpan r (off - n) len
    else
      let m := min len (n - off)
      ({ x with va := x.va + off, pa := x.pa + off }, m) :: sliceSpan r 0 (len - m)

/-- Element i of 16 in the bytes of a beat. -/
def beatCode (bs : List Byte) (f i : Nat) : Nat :=
  let o := i * fmtWidth f
  leNat ((bs.drop (o / 8)).take 5) / 2 ^ (o % 8) % 2 ^ fmtWidth f

/-- The code that a value of a link becomes in memory or a tile (R320, R321). -/
def streamCode (v : Img) (f mode : Nat) (satf8 : Bool) : Nat := (finalRound v f mode satf8).code

/-- Nibbles of a byte: the new value where given, else the old one's. -/
def mergeByte (old : Byte) (lo hi : Option Nat) : Byte :=
  BitVec.ofNat 8 (lo.getD (old.toNat % 16) % 16 + hi.getD (old.toNat / 16) % 16 * 16)

/-- The bytes of a beat that valid strands give, for whole bytes of an element; none where memory keeps its byte. -/
def beatBytes (vs : List (Option Img)) (f mode : Nat) (satf8 : Bool) : List (Option Byte) :=
  vs.flatMap (fun v => match v with
    | some v => (leBytes (fmtWidth f / 8) (streamCode v f mode satf8)).map some
    | none => List.replicate (fmtWidth f / 8) none)

/-- The codes of a beat, strand by strand. -/
def beatCodes (vs : List (Option Img)) (f mode : Nat) (satf8 : Bool) : List (Option Nat) :=
  vs.map (fun v => v.map (fun v => streamCode v f mode satf8))

/-- The eight bytes of a beat of a 4-bit format, over what memory holds. -/
def nibbleBytes (cs : List (Option Nat)) (old : List Byte) : List (Option Byte) :=
  (List.range 8).map (fun k =>
    let lo := cs.getD (2 * k) none
    let hi := cs.getD (2 * k + 1) none
    if lo.isNone && hi.isNone then none else some (mergeByte (old.getD k 0) lo hi))

/-- Writes the bytes that are given, one by one, to MU pages. -/
def State.storeSome (s : State) (w : Writer) (gen : Nat) (sp : Span) (bs : List (Option Byte)) : State :=
  (bs.zipIdx).foldl (fun s (e : Option Byte × Nat) => match e.1 with
    | some v => (s.writeSpan w gen (sliceSpan sp e.2 1) [v]).1
    | none => s) s

/-- Whole words out of a list of bytes that starts at a word boundary: each word with its bytes, missing ones zero; a word with no byte is
left out (R178, R320). -/
def wordsOf : Nat → Nat → List (Option Byte) → List (Nat × List Byte)
  | 0, _, _ => []
  | fuel + 1, o, bs =>
    if bs.length < 8 then []
    else
      let w := bs.take 8
      let rest := wordsOf fuel (o + 8) (bs.drop 8)
      if w.all (fun b => b.isNone) then rest else (o, w.map (fun b => b.getD 0)) :: rest

/-- The run that holds the word at an offset from the word boundary below the span's start. -/
def wordRun (sp : Span) (pre o : Nat) : Option Xlat :=
  match sliceSpan sp (o - pre) 1 with
  | (x, _) :: _ => some { x with va := x.va / 8 * 8, pa := x.pa / 8 * 8 }
  | [] => none

/-- Coalesced words of a stream command on a WO page; the address of a SECOND_WRITE. -/
def State.storeWords (s : State) (w : Writer) (gen : Nat) (sp : Span) (pre : Nat) (ws : List (Nat × List Byte)) : State × Option Nat :=
  ws.foldl (fun (acc : State × Option Nat) (e : Nat × List Byte) =>
    match wordRun sp pre e.1 with
    | some x =>
      let (s, f, _) := acc.1.writeSpan w gen [(x, 8)] e.2
      (s, acc.2.or f)
    | none => acc) (s, none)

/-- A command that has moved its last beat is done (R320). -/
def State.streamDone (s : State) (c : CoreRef) (seq : Nat) : State :=
  (s.mapCore c (fun p => { p with streams := p.streams.filter (fun t => t.seq != seq) })).queueMarkers c

/-- The command stands at its next beat. -/
def State.streamStep (s : State) (c : CoreRef) (t : StreamCmd) (buf : List (Option Byte)) (mx : List (Nat × Nat) := t.mx) : State :=
  if t.next + 1 < t.beats then
    s.mapCore c (fun p => { p with streams := p.streams.map (fun u =>
      if u.seq = t.seq then { u with next := t.next + 1, buf := buf, mx := mx } else u) })
  else s.streamDone c t.seq

/-- The beat that a `ld` command pushes next, once its data is there, and the state that has read it; data with an uncorrectable error is free, and
its fault deferred (R199, R320, R321). -/
def State.streamBeatOut (s : State) (c : CoreRef) (t : StreamCmd) : Option (State × Beat) :=
  match t.tile with
  | some k =>
    let v := t.shape
    let per := (tshCols v + 15) / 16
    let row := t.next / per
    let col := t.next % per * 16
    some (s, (List.range 16).map (fun i =>
      let j := col + i
      if j < tshCols v then
        let rank := if j + 1 = tshCols v then (if row + 1 = tshRows v then 3 else 1) else 0
        strandV rank (codeLane (tshType v) (((s.core c).tile k).code v row j) false)
      else {}))
  | none =>
    let n := 2 * fmtWidth t.fmt
    let sp := sliceSpan t.span (t.next * n) n
    let lanes (bs : List Byte) : Beat := (List.range 16).map (fun i => strandV 0 (codeLane t.fmt (beatCode bs t.fmt i) false))
    if spanAttr sp = 2 ∧ s.coreDead c (spanLane sp) t.gen then some (s, (List.range 16).map (fun _ => strandV 0 (codeLane t.fmt 0 true)))
    else if spanAbsent s sp then none
    else if s.eccBad (spanPas sp) then
      some (latchFault ((s.eccMeet (spanPas sp)).useFree 1) c 0x0C (s.badVa sp) t.lsid,
        lanes ((List.range n).map (fun i => Config.freeByte (2 ^ 40 * s.fresh + i))))
    else some ((s.eccMeet (spanPas sp)).askSpan sp, lanes (readSpan s sp))

/-- The first data beat of a sink queue and what is left, with the prefixes ahead of it popped. -/
def popData : List Beat → Option SegId → Option (Beat × List Beat) × List Beat × Option SegId
  | [], g => (none, [], g)
  | b :: r, g => if hkind b = 2 then popData r (some (prefixOf b)) else (some (b, r), b :: r, g)

/-- Writes what a `st` command gives for a beat in whole words of a WO page; the state, the bytes that are left, a SECOND_WRITE (R178, R320). -/
def State.streamWords (s : State) (c : CoreRef) (t : StreamCmd) (bs : List (Option Byte)) : State × List (Option Byte) × Option Nat :=
  let n := 2 * fmtWidth t.fmt
  let pre := (t.span.head?.map (fun r => r.1.va % 8)).getD 0
  let all := (if t.next = 0 then List.replicate pre none else t.buf) ++ bs
  let all := if t.next + 1 < t.beats then all else all ++ List.replicate ((8 - all.length % 8) % 8) none
  let start := (if t.next = 0 then 0 else pre + t.next * n - t.buf.length)
  let (s, second) := s.storeWords (coreWriter c t.seq t.lsid 1) t.gen t.span pre (wordsOf (all.length / 8 + 1) start all)
  (s, all.drop (all.length / 8 * 8), second)

/-- A `st` command takes a data beat and writes it; one that meets an uncorrectable error writes nothing and its fault is deferred (R199, R320,
R321). -/
def State.streamTake (s : State) (c : CoreRef) (t : StreamCmd) (b : Beat) : State :=
  let (vs, mx) := linkVals b (fmtOf (s.voLink c t.port)) t.mx
  match t.tile with
  | some k =>
    let v := t.shape
    let per := (tshCols v + 15) / 16
    let row := t.next / per
    let col := t.next % per * 16
    let cs := beatCodes vs (tshType v) t.mode t.satf8
    let s := s.mapCore c (fun p => p.setTile k ((List.range 16).foldl (fun u i =>
      if col + i < tshCols v then u.setCode v row (col + i) ((cs.getD i none).getD 0) else u) (p.tile k)))
    s.streamStep c t [] mx
  | none =>
    let n := 2 * fmtWidth t.fmt
    let sp := sliceSpan t.span (t.next * n) n
    let mu := spanAttr t.span == 0
    let bs := if fmtWidth t.fmt = 4 then nibbleBytes (beatCodes vs t.fmt t.mode t.satf8) (if mu then readSpan s sp else List.replicate 8 0)
      else beatBytes vs t.fmt t.mode t.satf8
    let bad := s.eccBad (spanPas sp)
    let s := s.eccMeet (spanPas sp)
    if bad then latchFault (s.streamStep c t [] mx) c 0x0C (s.badVa sp) t.lsid
    else if mu then (s.storeSome (coreWriter c t.seq t.lsid 1) t.gen sp bs).streamStep c t [] mx
    else
      let (s, buf, second) := s.streamWords c t bs
      let s := s.streamStep c t buf mx
      match second with
      | some va => latchFault s c 7 va t.lsid
      | none => s

/-- May a stream command move a beat: no earlier command or earlier tile instruction stands before it, no XWAIT holds it? -/
def State.streamFree (s : State) (c : CoreRef) (t : StreamCmd) : Bool :=
  let p := s.core c
  !s.heldAt c t.seq && s.banksRun t.span && (if t.ld then s.gFree c.lid c.pset t.span else s.gScanned c.lid c.pset t.span)
      && !p.streams.any (fun u => decide (u.seq < t.seq) && u.ld == t.ld && u.port == t.port)
    && !p.tileQ.any (fun u => decide (u.seq < t.seq) && overlap u.op.span t.span)
    && !(p.tileQ.takeWhile (fun u => u.seq != t.seq || u.lsid == 0)).any (fun u => t.tile.any (fun k => u.op.names.contains k))
    && !p.posted.any (fun q => decide (q.seq < t.seq) && overlap q.kind.span t.span)
    && !p.streams.any (fun u => decide (u.seq < t.seq) && (!u.ld || !t.ld) && overlap u.span t.span)
    && !s.engines.any (fun r => decide (r.core = c) && decide (r.seq < t.seq) && s.engMeets r t.span (!t.ld))

/-- The next beat of a stream command. -/
def State.streamBeat (s : State) (c : CoreRef) (seq : Nat) : State :=
  match (s.core c).streams.find? (fun t => t.seq == seq) with
  | none => s
  | some t =>
    if !s.streamFree c t || !s.moves c.lid c.pset then s
    else if t.ld then
      if 16 ≤ ((s.core c).srcQ t.port).length then s
      else match s.streamBeatOut c t with
        | some (s, b) => (s.pushSrc c t.port [b]).streamStep c t []
        | none => s
    else match popData ((s.core c).sinkQ t.port) none with
      | (r, q, g) =>
        let s := s.mapCore c (fun p => if h : t.port < 32 then
          { p with sink := p.sink.set t.port (match r with
              | some (_, rest) => rest
              | none => q)
                   sinkSeg := if g.isSome then p.sinkSeg.set t.port g else p.sinkSeg } else p)
        let s := s.refillSink c t.port
        match r with
        | some (b, _) => s.streamTake c t b
        | none => s

/-- STREAM_COMMAND_BEAT (R320). -/
def execStreamCommandBeat (core : CoreRef) (seq : Nat) (s : State) : Host.Outcome State Fault Refusal :=
  .next (s.streamBeat core seq)

end Sys2Proof.Machine
end

