-- ==== Sys2Proof/Machine/Engines.lean ====
section
/-! DEFINITION. The engines: copy lists, gather and scatter, collectives, their responses and their profiling
(R188, R218, R219, R344 to R348). -/
namespace Sys2Proof.Machine

/-! ### One move of an engine -/

/-- One move: source, destination, length, generation and lane of a write that carries them. -/
structure Move where
  src : Nat
  dst : Nat
  len : Nat
  g : Option (Nat × Nat) := none
  deriving DecidableEq, Repr

/-- What became of a move: done, waiting for absent words, or stopped with a status. -/
inductive Moved where
  | done (s : State)
  | wait
  | stop (s : State) (status : Nat)

/-- The writer that an engine request is. -/
def engWriter (r : EngReq) : Writer := { lid := r.core.lid, pset := r.core.pset, who := .engine r.core r.seq }

/-- The faults of a destination before any byte moves (R346). -/
def dstFault (sp : Span) (m : Move) : Option Nat :=
  if sp.any (fun e => e.1.attr != 0) && decide (m.dst % 8 ≠ 0 ∨ m.len % 8 ≠ 0) then some 6
  else match m.g with
    | none => if sp.any (fun e => e.1.attr == 2) then some 5 else none
    | some (_, lane) => if sp.all (fun e => e.1.attr == 2 && e.1.lane == lane) then none else some 5

/-- The faults of a source on a G page: the lane of the request must be the page's (R102). -/
def srcFault (r : EngReq) (sp : Span) : Option Nat :=
  if sp.any (fun e => e.1.attr == 2 && (r.nolane || r.lane != e.1.lane)) then some 5 else none

/-- Bytes in ascending order, piece by piece: each piece is read as memory then stands (R346). The first SECOND_WRITE stops. -/
def copyPieces (w : Writer) (gen : Nat) (src dst : Span) (dead : Bool) : List (Nat × Nat) → State → State × Bool
  | [], s => (s, false)
  | (o, n) :: r, s =>
    let bs := if dead then (List.range n).map (fun i => Config.freeByte (2 ^ 32 * s.fresh + o + i)) else readSpan s (sliceSpan src o n)
    let (s, second, _) := s.writeSpan w gen (sliceSpan dst o n) bs
    if second.isSome then (s, true) else copyPieces w gen src dst dead r s

/-- The pieces of a move: single bytes to MU pages, whole words to WO pages. -/
def piecesOf (len : Nat) (words : Bool) : List (Nat × Nat) :=
  if words then (List.range (len / 8)).map (fun i => (8 * i, 8)) else (List.range len).map (fun i => (i, 1))

/-- Performs one move of a request (R346, R347). What a dead read of a G page moves the spec does not state (R104): free bytes (DESIGN CHOICE, log 6). -/
def State.engMove (s : State) (r : EngReq) (m : Move) : Moved :=
  let asid := s.asidOf r.core.lid
  match spanOf s (.die r.die) asid m.src m.len { wr := false, rd := true, sup := r.sup }
      , spanOf s (.die r.die) asid m.dst m.len { wr := true, rd := false, sup := r.sup } with
  | .error f, _ => .stop s f.code
  | _, .error f => .stop s f.code
  | .ok src, .ok dst =>
    match (dstFault dst m).or (srcFault r src) with
    | some code => .stop s code
    | none =>
      let dead := spanAttr src == 2 && s.coreDead r.core (spanLane src) r.gen
      let (lid, pset) := (r.core.lid, r.core.pset)
      if !s.banksRun src || !s.banksRun dst || !s.gScanned lid pset dst then .wait
      else if !dead && (spanAbsent s src || !s.gFree lid pset src) then .wait
      else if (!dead && s.eccBad (spanPas src)) || s.eccBad (spanPas dst) then
        .stop ((s.eccMeet (if dead then [] else spanPas src)).eccMeet (spanPas dst)) 0x0C
      else
        let s := if dead then s else (s.eccMeet (spanPas src)).askSpan src
        let s := s.eccMeet (spanPas dst)
        let (s, second) := copyPieces (engWriter r) ((m.g.map (fun g => g.1)).getD r.gen) src dst dead
          (piecesOf m.len (spanAttr dst != 0)) s
        let s := { s with fresh := s.fresh + 1 }
        if second then .stop s 7 else .done s

/-! ### Lists and descriptors -/

/-- Entry i of a copy-command list: the move, or the status that stops the list (R345, R346). -/
def State.cpylEntry (s : State) (r : EngReq) (i : Nat) : Except Nat (Option Move) :=
  match s.virtBytes (.die r.die) (s.asidOf r.core.lid) (r.va + 32 * i) 32 r.sup with
  | .error f => .error f.code
  | .ok b =>
    let w (o n : Nat) : Nat := leNat ((b.drop o).take n)
    if 2 ^ 56 ≤ w 0 8 ∨ 2 ^ 56 ≤ w 8 8 ∨ 2 ≤ w 20 2 ∨ 2 ^ 9 ≤ w 24 2 ∨ w 26 6 ≠ 0 then .error 0x101
    else if w 16 4 = 0 then .ok none
    else .ok (some { src := w 0 8, dst := w 8 8, len := w 16 4, g := if w 20 2 = 1 then some (w 22 2, w 24 2) else none })

/-- A gather or scatter descriptor: table, indices, packed array, count, element size, scaling; none: malformed (R347). -/
structure GathDesc where
  table : Nat
  index : Nat
  packed : Nat
  n : Nat
  z : Nat
  scaled : Bool
  deriving DecidableEq, Repr

def gathDesc (b : List Byte) : Option GathDesc :=
  let w (o n : Nat) : Nat := leNat ((b.drop o).take n)
  if w 24 4 = 0 ∨ 2 ^ 24 < w 24 4 ∨ w 28 2 = 0 ∨ 4096 < w 28 2 ∨ 2 ≤ w 30 1 ∨ w 31 1 ≠ 0 then none
  else some { table := w 0 8, index := w 8 8, packed := w 16 8, n := w 24 4, z := w 28 2, scaled := w 30 1 == 1 }

/-- The place in the table of element i, or the fault of reading its index. -/
def State.gathAt (s : State) (r : EngReq) (d : GathDesc) (i : Nat) : Except Nat Nat :=
  match s.virtBytes (.die r.die) (s.asidOf r.core.lid) (d.index + 4 * i) 4 r.sup with
  | .error f => .error f.code
  | .ok b => .ok (d.table + (if d.scaled then leNat b * d.z else leNat b))

/-- How many moves a request has, and its next one: none, nothing to move; an error stops the request with a status and an index. -/
def State.engNext (s : State) (r : EngReq) : Except (Nat × Nat) (Nat × Option Move) :=
  if r.op = 0 then
    match s.cpylEntry r r.next with
    | .error code => .error (code, r.next)
    | .ok m => .ok (r.count, m)
  else
    match s.virtBytes (.die r.die) (s.asidOf r.core.lid) r.va 32 r.sup with
    | .error f => .error (f.code, 0xFFFFFFFE)
    | .ok b => match gathDesc b with
      | none => .error (0x101, 0xFFFFFFFE)
      | some d => match s.gathAt r d r.next with
        | .error code => .error (code, r.next)
        | .ok t =>
          let p := d.packed + r.next * d.z
          .ok (d.n, some (if r.op = 1 then { src := t, dst := p, len := d.z } else { src := p, dst := t, len := d.z }))

/-! ### Performing a request -/

/-- Does an earlier access of the page core to words that the request reads or writes stand before it (R193, R344)? -/
def State.engBlocked (s : State) (r : EngReq) : Bool :=
  let p := s.core r.core
  let asid := s.asidOf r.core.lid
  let list := ((spanOf s (.die r.die) asid r.va (if r.op = 0 then 32 * r.count else 32) { wr := false, rd := true, sup := r.sup }).toOption).getD []
  let meets (sp : Span) : Bool := overlap list sp || s.engMeets r sp true
  p.posted.any (fun q => decide (q.seq < r.seq) && meets q.kind.span)
    || p.tileQ.any (fun t => decide (t.seq < r.seq) && meets t.op.span)
    || p.streams.any (fun t => decide (t.seq < r.seq) && meets t.span)
    || s.engines.any (fun e => decide (e.core = r.core) && decide (e.seq < r.seq) && (s.engMoves r).any (fun (a, b, n) =>
        s.engMeets e (((spanOf s (.die r.die) asid b n { wr := true, rd := false, sup := r.sup }).toOption).getD []) true
          || s.engMeets e (((spanOf s (.die r.die) asid a n { wr := false, rd := true, sup := r.sup }).toOption).getD []) false))

def State.updEng (s : State) (r : EngReq) (f : EngReq → EngReq) : State :=
  { s with engines := s.engines.map (fun e => if e.core = r.core ∧ e.seq = r.seq then f e else e) }

/-- What reading its list entry, or its descriptor and the index it is at, meets. -/
def State.engListMeet (s : State) (r : EngReq) : State :=
  let o : TlbOwner := .die r.die
  let asid := s.asidOf r.core.lid
  if r.op = 0 then s.virtMeet o asid (r.va + 32 * r.next) 32 r.sup
  else
    let s := s.virtMeet o asid r.va 32 r.sup
    match (s.virtBytes o asid r.va 32 r.sup).toOption.bind gathDesc with
    | some d => if r.op = 3 then s else s.virtMeet o asid (d.index + 4 * r.next) 4 r.sup
    | none => s

/-- Performs entries or elements of a request, in order, as far as their data is there; `ready` holds the status once it is over. -/
def State.engRun (s : State) (core : CoreRef) (seq : Nat) : Nat → State
  | 0 => s
  | fuel + 1 =>
    match s.engines.find? (fun e => decide (e.core = core) && e.seq == seq) with
    | none => s
    | some r =>
      if r.ready.isSome then s
      else
        let next := s.engNext r
        let s := s.engListMeet r
        match next with
        | .error (code, i) => s.updEng r (fun e => { e with ready := some (code, i) })
        | .ok (n, m) =>
          let step (s : State) : State :=
            (s.updEng r (fun e => { e with
              next := r.next + 1, ready := if r.next + 1 = n then some (0, 0xFFFFFFFF) else none })).engRun core seq fuel
          match m with
          | none => step s
          | some m => match s.engMove r m with
            | .done s => step s
            | .wait => s
            | .stop s code => s.updEng r (fun e => { e with ready := some (code, r.next) })

/-! ### Profiling (R218, R219) -/

/-- The bucket of a latency. -/
def bucketOf (latency : Nat) : Nat := if latency = 0 then 0 else min latency.log2 31

/-- The smallest bucket whose cumulative count reaches a bound. -/
def percentile (bs : List Nat) (bound : Nat) : Nat :=
  ((List.range 32).find? (fun b => decide (bound ≤ ((bs.take (b + 1)).foldl (· + ·) 0)))).getD 31

/-- Does the trigger fire on this latency? -/
def EngProf.fires (p : EngProf) (latency : Nat) : Bool :=
  let pct := p.cfg.toNat / 2 ^ 24 % 256
  let n := p.buckets.foldl (· + ·) 0
  pct != 0 && decide (256 ≤ n) && !p.cfg.getLsbD 32 && decide (2 ^ (percentile p.buckets ((pct * n + 255) / 256) + 1) ≤ latency)

/-- The profiling block after a response: the trigger first, then the count. -/
def EngProf.after (p : EngProf) (lid stream latency : Nat) : EngProf :=
  let fired := p.fires latency
  let p := { p with served := p.served + 1 }
  let p := if fired then
      { p with cfg := p.cfg ||| (1#64 <<< 32)
               capture := [BitVec.ofNat 64 lid, BitVec.ofNat 64 stream, BitVec.ofNat 64 p.served, BitVec.ofNat 64 latency] }
    else p
  if p.cfg.getLsbD 0 then { p with buckets := setAt p.buckets (bucketOf latency) (fun n => min (n + 1) 0xFFFF) } else p

/-! ### Responses (R188, R344) -/

/-- The oldest request of a page core at an engine. -/
def State.engHead (s : State) (die engine : Nat) (core : CoreRef) : Option EngReq :=
  s.engines.find? (fun r => r.die == die && r.engine == engine && decide (r.core = core))

/-- The response of a finished request is emitted, and the token of its transfer on the control network: every write has landed (R188, log 99). -/
def State.engAnswer (s : State) (r : EngReq) (status index latency : Nat) : State :=
  let s := { s with engines := s.engines.filter (fun e => !(decide (e.core = r.core) && e.seq == r.seq)) }
  let s := if status = 0 then s.send (.transferToken r.die r.engine r.core r.seq) else s
  let s := s.mapCore r.core (fun p => if h : r.engine < 13 then
      { p with engResp := p.engResp.set r.engine (p.engResp[r.engine] ++ [{ status := status, index := index, scope := r.scope }])
               engOut := p.engOut.set r.engine (p.engOut[r.engine] - 1) } else p)
  let (x, y) := s.pageXY r.core
  let prof := s.prof r.die r.engine
  let s := s.setProf (prof.after r.core.lid (coreNum s (s.dieOfPset r.core.lid r.core.pset) x y) latency)
  if prof.fires latency && prof.cfg.getLsbD 2 then s.startCut r.core.lid (s.psetsOf r.core.lid) .stop none else s

/-- An engine works on the oldest request of a page core and answers it when it is over. -/
def State.engServe (s : State) (die engine : Nat) (core : CoreRef) (latency : Nat) : State :=
  match s.engHead die engine core with
  | none => s
  | some r =>
    let s := if r.op = 3 ∨ (s.die die).stopped ∨ s.engBlocked r then s else s.engRun core r.seq 0x1000001
    match s.engHead die engine core with
    | none => s
    | some r => match r.ready with
      | some (status, index) =>
        if (s.die die).stopped || s.held.any (fun w => decide (w.who = .engine core r.seq)) then s else s.engAnswer r status index latency
      | none => s

/-- ENGINE_RESPONSE (R188, R344). -/
def execEngineResponse (die engine : Nat) (core : CoreRef) (latency : Nat) (s : State) : Host.Outcome State Fault Refusal :=
  .next (s.engServe die engine core latency)

/-! ### Collectives (R348) -/

/-- A collective descriptor; none: malformed. -/
structure CollDesc where
  src : Nat
  dst : Nat
  n : Nat
  op : Nat
  fmt : Nat
  mode : Nat
  p : Nat
  rank : Nat
  group : Nat
  deriving DecidableEq, Repr

def collDesc (b : List Byte) : Option CollDesc :=
  let w (o n : Nat) : Nat := leNat ((b.drop o).take n)
  let f := w 21 1 % 16
  if w 16 4 = 0 ∨ 2 ^ 24 < w 16 4 ∨ 3 < w 20 1 ∨ (2 < f ∧ f ≠ 13) ∨ 96 ≤ w 21 1 ∨ w 22 1 < 2 ∨ 64 < w 22 1 ∨ w 22 1 ≤ w 23 1 ∨ w 28 4 ≠ 0
  then none
  else some { src := w 0 8, dst := w 8 8, n := w 16 4, op := w 20 1, fmt := f, mode := w 21 1 / 16, p := w 22 1, rank := w 23 1
              group := w 24 4 }

def CollDesc.size (d : CollDesc) : Nat := if d.fmt < 2 then 2 else 4

/-- The descriptor of a waiting collective request. -/
def State.collOf (s : State) (r : EngReq) : Except (Nat × Nat) CollDesc :=
  match s.virtBytes (.die r.die) (s.asidOf r.core.lid) r.va 32 r.sup with
  | .error f => .error (f.code, 0xFFFFFFFE)
  | .ok b => match collDesc b with
    | none => .error (0x101, 0xFFFFFFFE)
    | some d => .ok d

/-- The requests of a launch that wait in a group, each the oldest unanswered one of its page core. -/
def State.collGroup (s : State) (lid group : Nat) : List (EngReq × CollDesc) :=
  let waiting := s.engines.filter (fun r => r.op == 3 && r.core.lid == lid && r.ready.isNone)
  let first := waiting.filter (fun r => !waiting.any (fun e => decide (e.core = r.core) && decide (e.seq < r.seq)))
  first.filterMap (fun r => match s.collOf r with
    | .ok d => if d.group = group then some (r, d) else none
    | .error _ => none)

/-- A permutation of a list, chosen by free numbers (log 6). -/
def permute {α : Type} (seed : Nat) : Nat → List α → List α
  | 0, l => l
  | fuel + 1, l =>
    let k := Config.freeNat (seed + fuel) % l.length
    match l[k]? with
    | some x => x :: permute seed fuel (l.eraseIdx k)
    | none => l

/-- The code of a reduction of codes (R348): sum in the order given, or the maximum or minimum as RMAX and RMIN compare. -/
def collCode (op fmt mode : Nat) (codes : List Nat) : Nat :=
  match codes.map (fun c => toWf c fmt 0 false) with
  | [] => 0
  | x :: r => (finalRound (r.foldl (fun a b => wfFold op a b) x) fmt mode false).code

/-- The bytes of a source, or the status and index of the element that cannot be read. -/
def State.collSource (s : State) (r : EngReq) (d : CollDesc) : Except (Nat × Nat) Span :=
  match spanOf s (.die r.die) (s.asidOf r.core.lid) d.src (d.n * d.size) { wr := false, rd := true, sup := r.sup } with
  | .error f => .error (f.code, (f.va - d.src) / d.size)
  | .ok sp => match srcFault r sp with
    | some code => .error (code, 0)
    | none => if s.eccBad (spanPas sp) then .error (0x0C, (s.badVa sp - d.src) / d.size) else .ok sp

/-- What reading the sources of a group meets. -/
def State.collMeet (s : State) (g : List (EngReq × CollDesc)) : State :=
  g.foldl (fun s (e : EngReq × CollDesc) =>
    s.virtMeet (.die e.1.die) (s.asidOf e.1.core.lid) e.2.src (e.2.n * e.2.size) e.1.sup) s

/-- Writes a result to a participant's destination: its status and index. -/
def State.collWrite (s : State) (r : EngReq) (d : CollDesc) (bs : List Byte) : State :=
  let fin (s : State) (st : Nat × Nat) : State := s.updEng r (fun e => { e with ready := some st })
  match spanOf s (.die r.die) (s.asidOf r.core.lid) d.dst bs.length { wr := true, rd := false, sup := r.sup } with
  | .error f => fin s (f.code, (f.va - d.dst) / d.size)
  | .ok sp => match dstFault sp { src := d.src, dst := d.dst, len := bs.length } with
    | some code => fin s (code, 0)
    | none =>
      let bad := s.eccBad (spanPas sp)
      let s := s.eccMeet (spanPas sp)
      if bad then fin s (0x0C, (s.badVa sp - d.dst) / d.size) else
      let (s, second, _) := s.writeSpan (engWriter r) r.gen sp bs
      match second with
      | some va => fin s (7, (va - d.dst) / d.size)
      | none => fin s (0, 0xFFFFFFFF)

/-- Performs a group that is full. -/
def State.collRun (s : State) (replay : Bool) (g : List (EngReq × CollDesc)) : State :=
  match g with
  | [] => s
  | (_, d0) :: _ =>
    let same := g.all (fun (e : EngReq × CollDesc) => e.2.n == d0.n && e.2.op == d0.op && e.2.fmt == d0.fmt && e.2.p == d0.p)
    let ranks := g.map (fun (e : EngReq × CollDesc) => e.2.rank)
    if !same || decide (ranks.eraseDups.length ≠ ranks.length) then
      g.foldl (fun s (e : EngReq × CollDesc) => s.updEng e.1 (fun r => { r with ready := some (0x100, 0xFFFFFFFF) })) s
    else
      let size := d0.size
      let ordered := (List.range d0.p).filterMap (fun k => g.find? (fun (e : EngReq × CollDesc) => e.2.rank == k))
      let srcs := ordered.map (fun (e : EngReq × CollDesc) => (e, s.collSource e.1 e.2))
      let data : List (List Byte) := srcs.zipIdx.map (fun e => match e.1.2 with
        | .ok sp => readSpan s sp
        | .error _ => (List.range (d0.n * size)).map (fun i => Config.freeByte (2 ^ 40 * s.fresh + 2 ^ 32 * e.2 + i)))
      let elem (b : List Byte) (i : Nat) : Nat := leNat ((b.drop (i * size)).take size)
      let out (mode : Nat) : List Byte :=
        if d0.op = 3 then data.flatten
        else (List.range d0.n).flatMap (fun i =>
          let cs := data.map (fun b => elem b i)
          leBytes size (collCode d0.op d0.fmt mode
            (if replay || d0.op != 0 then cs else permute (2 ^ 40 * s.fresh + 64 * i) cs.length cs)))
      srcs.foldl (fun s e => match e.2 with
        | .error st => s.updEng e.1.1 (fun r => { r with ready := some st })
        | .ok _ => s.collWrite e.1.1 e.1.2 (out e.1.2.mode)) (State.collMeet { s with fresh := s.fresh + 1 } g)

/-- The group of a page core's oldest waiting collective request, when it is full: its first p members. -/
def State.collServe (s : State) (die : Nat) (core : CoreRef) : State :=
  match (s.engines.filter (fun r => r.die == die && r.op == 3 && decide (r.core = core) && r.ready.isNone)).head? with
  | none => s
  | some r => match s.collOf r with
    | .error st => if s.engBlocked r then s else (s.engListMeet r).updEng r (fun e => { e with ready := some st })
    | .ok d =>
      let s := s.engListMeet r
      let g := (s.collGroup core.lid d.group).take d.p
      let absent := g.any (fun (e : EngReq × CollDesc) => match s.collSource e.1 e.2 with
        | .ok sp => spanAbsent s sp || !s.banksRun sp || !s.gFree e.1.core.lid e.1.core.pset sp
        | .error _ => false)
      if g.length < d.p ∨ (s.die die).stopped ∨ absent ∨ g.any (fun (e : EngReq × CollDesc) => s.engBlocked e.1) then s
      else s.collRun (s.recorded core.lid) g

/-- COLL_GROUP_FILL (R348). -/
def execCollGroupFill (die : Nat) (core : CoreRef) (s : State) : Host.Outcome State Fault Refusal :=
  .next (s.collServe die core)

end Sys2Proof.Machine
end

