-- ==== Sys2Proof/Machine/Trellis.lean ====
section
/-! DEFINITION. The trellis, leaf pipelines and graph sequencers (R66 to R78). -/
namespace Sys2Proof.Machine

/-! ### Trellis nodes (R72, R73) -/

def State.trellisAt (s : State) (g : PageRef) (n : Nat) : Option Trellis := s.trellis.find? (fun t => decide (t.page = g) && t.node == n)
def State.updTrellis (s : State) (g : PageRef) (n : Nat) (f : Trellis → Trellis) : State :=
  { s with trellis := s.trellis.map (fun t => if t.page = g ∧ t.node = n then f t else t) }
def State.leafAt (s : State) (g : PageRef) (n : Nat) : Option Leaf := s.leaves.find? (fun l => decide (l.page = g) && l.leaf == n)
def State.updLeaf (s : State) (g : PageRef) (n : Nat) (f : Leaf → Leaf) : State :=
  { s with leaves := s.leaves.map (fun l => if l.page = g ∧ l.leaf = n then f l else l) }

/-- Iterations a node runs for the token it holds: one for STREAM. -/
def Trellis.total (t : Trellis) : Nat := if t.kind = 2 then 1 else t.token.getD 0

/-- Child k of a node: 0 to 7 a node, 8 to 15 a leaf. -/
def Trellis.kid (t : Trellis) (k : Nat) : Option Nat := (t.kids[k]?).map (fun e => e.1)

/-- The entry of the table for which a child is at work. -/
def Trellis.kidOf (t : Trellis) (child : Nat) : Option Nat :=
  (List.range t.kids.length).find? (fun k => t.kid k == some child && decide (t.finished.getD k 0 < t.started.getD k 0))

/-- May child k of a node be enabled for its next iteration: no entry that names it is at work (R73)? -/
def Trellis.mayEnable (t : Trellis) (k : Nat) : Bool :=
  let i := t.started.getD k 0
  let fin (j : Nat) : Nat := t.finished.getD j 0
  let last := t.kids.length - 1
  t.token.isSome && decide (i < t.total)
    && (List.range t.kids.length).all (fun j => t.kid j != t.kid k || fin j == t.started.getD j 0) &&
    (match t.kind with
      | 0 => if k = 0 then decide (fin last = i) else decide (fin (k - 1) = i + 1)
      | 1 => if k = 0 then decide (i < fin last + t.window) else decide (i < fin (k - 1))
      | _ => true)

/-- Has every child reported done for the last iteration? -/
def Trellis.complete (t : Trellis) : Bool := t.token.isSome && (List.range t.kids.length).all (fun k => t.finished.getD k 0 == t.total)

/-- Does a child hold no enable token (R73)? -/
def State.kidFree (s : State) (t : Trellis) (k : Nat) : Bool :=
  match t.kid k with
  | none => false
  | some c =>
    if c < 8 then !(s.trellisAt t.page c).any (fun u => u.token.isSome || u.offer.isSome) else !(s.leafAt t.page (c - 8)).any (fun l => l.token.isSome)

/-- Gives a child its enable token; CNT 0 passes on the node's own count (R72). -/
def State.enableChild (s : State) (t : Trellis) (k : Nat) : State :=
  match t.kids[k]? with
  | none => s
  | some (child, cnt) =>
    let n := if cnt = 0 then t.token.getD 0 else cnt
    let s := s.updTrellis t.page t.node (fun t => { t with started := setAt t.started k (fun i => i + 1) })
    if child < 8 then s.updTrellis t.page child (fun c => { c with offer := some n })
    else s.updLeaf t.page (child - 8) (fun l => { l with token := some n })

/-- Enables every child that may be, in table order. -/
def State.enableAll (s : State) (g : PageRef) (n : Nat) : State :=
  match s.trellisAt g n with
  | none => s
  | some t0 => (List.range t0.kids.length).foldl (fun s k =>
      match s.trellisAt g n with
      | some t => if t.mayEnable k && s.kidFree t k then s.enableChild t k else s
      | none => s) s

/-- Enables what waited for a child that another node of the page had at work. -/
def State.enablePage (s : State) (g : PageRef) : State := (List.range 8).foldl (fun s n => s.enableAll g n) s

/-- The section of a root is done (R68, R73). -/
def State.sectionOver (s : State) (g : PageRef) (root : Nat) : State :=
  { s with armings := s.armings.map (fun a => if a.page = g ∧ a.root = root then { a with done := true } else a) }

/-- A node whose last iteration is over gives its done token to its parent, or its section is done. -/
def State.finishNode (s : State) (g : PageRef) (n : Nat) : State :=
  match s.trellisAt g n with
  | none => s
  | some t =>
    if !t.complete then s.enableAll g n
    else
      let s := s.updTrellis g n (fun t => { t with token := none })
      match t.parent with
      | some p => s.updTrellis g p (fun u => { u with doneIn := u.doneIn ++ [n] })
      | none => s.sectionOver g n

/-- The first enable token of a configuration period is the start token of the region's memory nodes; one that a cut stopped goes on in its
pattern (R181, R204, R411). What memory has held before it no load that promises invariance returns any more (R186). -/
def State.startToken (s : State) (g : PageRef) : State :=
  let s : State := { s with nodes := s.nodes.map (fun n =>
      if n.ref.lid = g.lid ∧ n.pset = g.pset ∧ !n.armed then
        { n with armed := true, pos := if n.resumed then n.pos else 0, emitted := false, resumed := false } else n) }
  s.mapPlace g.lid g.pset (fun p => if p.periodOn then p else { p with periodOn := true, sinceStart := s.older.length })

/-- A node takes the enable token on its way to it; a done token that has arrived is taken first (R73). With no iteration to
run it is done at once. -/
def State.takeEnable (s : State) (g : PageRef) (n count : Nat) : State :=
  match s.trellisAt g n with
  | none => s
  | some t =>
    if s.runs g.lid g.pset ∧ t.offer = some count ∧ t.token.isNone ∧ t.doneIn.isEmpty then
      ((s.startToken g).updTrellis g n (fun t => { t with
        offer := none, token := some count, started := t.kids.map (fun _ => 0), finished := t.kids.map (fun _ => 0) })).finishNode g n
    else s

/-- TRELLIS_ENABLE (R73). -/
def execTrellisEnable (page : PageRef) (node count : Nat) (s : State) : Host.Outcome State Fault Refusal :=
  .next (s.takeEnable page node count)

/-- A node takes a done token of a child. -/
def State.takeDone (s : State) (g : PageRef) (n child : Nat) : State :=
  match s.trellisAt g n with
  | none => s
  | some t =>
    match if s.runs g.lid g.pset && t.doneIn.contains child then t.kidOf child else none with
    | none => s
    | some k => ((s.updTrellis g n (fun t => { t with
        doneIn := t.doneIn.erase child, finished := setAt t.finished k (fun i => i + 1) })).finishNode g n).enablePage g

/-- TRELLIS_DONE (R73). -/
def execTrellisDone (page : PageRef) (node child : Nat) (s : State) : Host.Outcome State Fault Refusal :=
  .next (s.takeDone page node child)

/-! ### Leaf pipelines (R74, R357) -/

/-- A leaf advances by n end-of-tensor markers; with the last one its done token leaves. -/
def State.leafAdvance (s : State) (g : PageRef) (leaf n : Nat) : State :=
  match (s.leafAt g leaf).bind (fun l => l.token) with
  | none => s
  | some r =>
    if n < r then s.updLeaf g leaf (fun l => { l with token := some (r - n) })
    else
      let s := s.updLeaf g leaf (fun l => { l with token := none })
      match s.trellis.find? (fun t => decide (t.page = g) && t.token.isSome && (List.range t.kids.length).any (fun k =>
          ((t.kids[k]?).map (fun e => e.1)) == some (leaf + 8) && decide (t.finished.getD k 0 < t.started.getD k 0))) with
      | some t => s.updTrellis g t.node (fun t => { t with doneIn := t.doneIn ++ [leaf + 8] })
      | none => s

/-! ### Groups (R66 to R69) -/

def State.seqAt (s : State) (d : Nat) : GraphSeq := if h : d < 8 then s.seqs[d] else {}
def State.setSeq (s : State) (d : Nat) (q : GraphSeq) : State := if h : d < 8 then { s with seqs := s.seqs.set d q } else s

/-- A graph node of a launch, and the die whose sequencer holds it. -/
def State.gnode (s : State) (lid node : Nat) : Option GNode := (s.imageOf lid).bind (fun i => i.graph[node]?)
def State.gnodeDie (s : State) (lid node : Nat) : Nat := ((s.gnode lid node).map (fun g => s.dieOfPset lid g.pset)).getD 0

/-- The die whose queue a task record goes into: that of its node, or, where it names none, its spawner's (R75). -/
def State.taskDie (s : State) (t : Task) : Nat :=
  if (s.gnode t.lid t.node).isSome then s.gnodeDie t.lid t.node else s.dieOfPset t.lid t.pset

/-- A node joins the end of its die's ready list. -/
def State.makeReady (s : State) (lid group node : Nat) : State :=
  let d := s.gnodeDie lid node
  let q := s.seqAt d
  s.setSeq d { q with ready := q.ready ++ [(lid, group, node)] }

def State.updGroup (s : State) (lid group : Nat) (f : GroupRun → GroupRun) : State :=
  s.mapLaunch lid (fun l => { l with groups := l.groups.map (fun g => if g.idx = group then f g else g) })
def State.groupAt (s : State) (lid group : Nat) : Option GroupRun :=
  (s.launch lid).bind (fun l => l.groups.find? (fun g => g.idx == group))

/-- Is a launch placed and running? -/
def State.launchRuns (s : State) (lid : Nat) : Bool :=
  match s.launch lid with
  | some l => l.phase == .running && l.ending.isNone
  | none => false

/-- Is a GRAISE of a block that is being committed not performed yet (R78)? -/
def State.raising (s : State) (lid : Nat) : Bool :=
  s.cores.any (fun (e : CoreRef × PageCore) => e.1.lid == lid && e.2.blocks.any (fun b => b.phase != 0 && b.done.any (fun d => (match d.act with
    | .graise _ => true
    | _ => false) && decide (b.performed < d.lsid))))

/-- A launch is done when every group is, and no raise of its own is being committed (R66, R78). -/
def State.closeLaunch (s : State) (lid : Nat) : State :=
  match s.launch lid with
  | some l => if l.groups.isEmpty && decide (l.gcount ≤ l.nextGroup) && !s.raising lid then s.endWith lid { status := 0, detail := 0 } else s
  | none => s

/-- A group is done when every node of it and every task spawned in it is (R66). -/
def State.closeGroup (s : State) (lid group : Nat) : State :=
  match s.groupAt lid group with
  | none => s
  | some g =>
    if g.finished.all (fun b => b) && g.tasks == 0 then
      (s.mapLaunch lid (fun l => { l with gdone := l.gdone + 1, groups := l.groups.filter (fun r => r.idx != group) })).closeLaunch lid
    else s

/-- The next group of a launch starts: at most two are in flight. Its nodes without predecessors join their dies' ready lists in ascending index
(DESIGN CHOICE, log 100), and a graph without nodes is done at once (R66, R68). -/
def State.startGroup (s : State) (lid : Nat) : State :=
  match s.launch lid with
  | none => s
  | some l =>
    if !s.launchRuns lid || decide (l.gcount ≤ l.nextGroup) || decide (2 ≤ l.groups.length) then s
    else
      let nodes := (l.image.map (fun i => i.graph)).getD []
      let g := l.nextGroup
      let s := s.mapLaunch lid (fun l => { l with
        nextGroup := g + 1, groups := l.groups ++ [{ idx := g, counters := nodes.map (fun n => n.deps), finished := nodes.map (fun _ => false) }] })
      ((nodes.zipIdx.filter (fun (e : GNode × Nat) => e.1.deps == 0)).foldl (fun s (e : GNode × Nat) => s.makeReady lid g e.2) s).closeGroup lid g

/-- GROUP_START (R66, R68). -/
def execGroupStart (lid : Nat) (s : State) : Host.Outcome State Fault Refusal := .next (s.startGroup lid)

/-- A node of a group is done: the counters of its successors fall, in order (R68). -/
def State.nodeDone (s : State) (lid group node : Nat) : State :=
  let s := s.updGroup lid group (fun g => { g with finished := setAt g.finished node (fun _ => true) })
  let s := (((s.gnode lid node).map (fun g => g.succ)).getD []).foldl (fun s n =>
    let s := s.updGroup lid group (fun g => { g with counters := setAt g.counters n (fun c => c - 1) })
    if ((s.groupAt lid group).map (fun g => g.counters.getD n 1)) = some 0 then s.makeReady lid group n else s) s
  s.closeGroup lid group

/-- The page and root of a section node: page index × 8 + node index (R67). -/
def State.sectOf (s : State) (lid : Nat) (g : GNode) : PageRef × Nat :=
  let w := ((s.place lid g.pset).map (fun p => p.w)).getD 1
  ({ lid := lid, pset := g.pset, px := g.sect / 8 % w, py := g.sect / 8 / w }, g.sect % 8)

/-- Is the section of a node armed? -/
def State.isArmed (s : State) (lid : Nat) (g : GNode) : Bool :=
  let (page, root) := s.sectOf lid g
  s.armings.any (fun a => decide (a.page = page) && a.root == root)

/-- A page core as it starts: at the first block of the code section, TVEC from the image, g31 at the copy of the record (R197, R386). -/
def PageCore.start (k : PageCore) (m : Image) (lid : Nat) : PageCore :=
  { k with nextAddr := some m.codeAt, tvec := BitVec.ofNat 64 m.handler, g := k.g.set 31 ⟨BitVec.ofNat 64 (recordVa lid), false⟩ }

/-- The first arming of a section of a page set starts its page cores (R386). -/
def State.startCores (s : State) (lid pset : Nat) : State :=
  match s.place lid pset, s.imageOf lid with
  | some p, some m =>
    if p.started then s
    else ((s.coresOf lid pset).foldl (fun s c => s.mapCore c (fun k => k.start m lid)) s).mapPlace lid pset (fun p => { p with started := true })
  | _, _ => s

/-- The leaves below a trellis node of a page. -/
def State.leavesUnder (s : State) (g : PageRef) : Nat → Nat → List Nat
  | 0, _ => []
  | fuel + 1, n => (((s.trellisAt g n).map (fun t => t.kids)).getD []).flatMap (fun k =>
      if k.1 < 8 then s.leavesUnder g fuel k.1 else [k.1 - 8])

/-- Is an array share of a section's leaves in a context of its page? -/
def State.sectionArray (s : State) (g : PageRef) (root ctx : Nat) : Bool :=
  s.elems.any (fun e => e.kind == 2 && e.ref.lid == g.lid && e.ref.pset == g.pset && e.ref.x / 4 == g.px && e.ref.y / 4 == g.py && e.ctx == ctx
    && (s.leavesUnder g 8 root).contains e.leaf)

/-- Arms a section: its root is offered the count; a free-running one sets the arrays of its leaves running (R68, R71). -/
def State.arm (s : State) (lid group node tiles : Nat) (g : GNode) (task : Bool) : State :=
  let (page, root) := s.sectOf lid g
  let s := { s with armings := s.armings ++ [({ lid := lid, group := group, node := node, page := page, root := root, task := task } : Arming)] }
  let s := (s.startCores lid g.pset).updTrellis page root (fun t => { t with offer := some tiles })
  if g.free then
    { s with arrays := s.arrays.map (fun a =>
        if a.page = page ∧ a.mode = 1 ∧ s.sectionArray page root a.ctx then { a with freeRun := some tiles } else a) }
  else s

/-- Has every arming of a section for a group been done: each node of the graph that names it (R69)? -/
def State.sectionPast (s : State) (lid : Nat) (g : GNode) (r : GroupRun) : Bool :=
  (((s.imageOf lid).map (fun m => m.graph)).getD []).zipIdx.all (fun (e : GNode × Nat) =>
    !(e.1.kind == 1 && e.1.tiles != 0 && e.1.pset == g.pset && e.1.sect == g.sect) || r.finished.getD e.2 true)

/-- May this entry of a ready list be served: not while its section is armed, nor before the section's armings for the group ahead are done (R69)? -/
def State.readyNow (s : State) (e : Nat × Nat × Nat) : Bool :=
  let (lid, group, node) := e
  s.launchRuns lid && (match s.gnode lid node with
    | none => false
    | some g =>
      g.kind != 1 || g.tiles == 0 || (!s.isArmed lid g
        && !((s.launch lid).map (fun l => l.groups.any (fun r => decide (r.idx < group) && !s.sectionPast lid g r))).getD false))

/-- Can this task record be served: its section is not armed, or it is a bad one (R77)? -/
def State.taskNow (s : State) (t : Task) : Bool :=
  s.launchRuns t.lid && (match s.gnode t.lid t.node with
    | none => true
    | some g => g.kind != 1 || !s.isArmed t.lid g)

/-- The graph sequencer serves its ready list; with work in both queues it takes them in turn (R68, R77). -/
def State.serveReady (s : State) (d : Nat) : State :=
  let q := s.seqAt d
  if (s.die d).stopped || (q.taskTurn && q.tasks.any s.taskNow) then s
  else match q.ready.find? s.readyNow with
    | none => s
    | some (lid, group, node) =>
      let s := s.setSeq d { q with ready := q.ready.erase (lid, group, node), taskTurn := true }
      match s.gnode lid node with
      | none => s
      | some g => if g.kind = 1 ∧ g.tiles ≠ 0 then s.arm lid group node g.tiles g false else s.nodeDone lid group node

/-- READY_LIST_SERVE (R68). -/
def execReadyListServe (die : Nat) (s : State) : Host.Outcome State Fault Refusal := .next (s.serveReady die)

/-- The beat that carries ARG (R77). -/
def argBeat (arg : DWord) : Beat :=
  (List.range 16).map (fun i =>
    if i = 0 then { v := true, mrk := 0, img := (arg.extractLsb' 0 32).setWidth 36 }
    else if i = 1 then { v := true, mrk := 0, img := (arg.extractLsb' 32 32).setWidth 36 }
    else {})

/-- The graph sequencer serves its task queue (R77). -/
def State.serveTask (s : State) (d : Nat) : State :=
  let q := s.seqAt d
  if (s.die d).stopped || (!q.taskTurn && q.ready.any s.readyNow) then s
  else match q.tasks.find? s.taskNow with
    | none => s
    | some t =>
      let s := s.setSeq d { q with tasks := q.tasks.erase t, taskTurn := false }
      match (s.gnode t.lid t.node).filter (fun g => g.kind == 1) with
      | none => s.nodeFault t.lid d 0x93 0 0
      | some g =>
        let (page, _) := s.sectOf t.lid g
        let c : CoreRef := { lid := page.lid, pset := page.pset, px := page.px, py := page.py }
        let s := if (s.viLink c 31).isSome then s.mapCore c (fun p => p.queueSrc 31 [argBeat t.arg]) else s
        s.arm t.lid t.gidx t.node t.tiles g true

/-- TASK_RECORD_SERVE (R77). -/
def execTaskRecordServe (die : Nat) (s : State) : Host.Outcome State Fault Refusal := .next (s.serveTask die)

/-- A section that has reported done (R68, R71, R77). -/
def State.sectionDone (s : State) (lid node group : Nat) : State :=
  match s.armings.find? (fun a => a.lid == lid && a.node == node && a.group == group && a.done) with
  | none => s
  | some a =>
    let s := { s with armings := s.armings.erase a }
    if a.task then (s.updGroup lid group (fun g => { g with tasks := g.tasks - 1 })).closeGroup lid group
    else s.nodeDone lid group node

/-- SECTION_DONE (R68). -/
def execSectionDone (lid node group : Nat) (s : State) : Host.Outcome State Fault Refusal := .next (s.sectionDone lid node group)

end Sys2Proof.Machine
end

