-- ==== Sys2Proof/Machine/Blocks.lean ====
section
/-! DEFINITION. C-blocks: the fetch and decode of a block, its begin, and the arrival of a load's data (R243, R244, R246, R247, R255 to R258,
R333, R334). -/
namespace Sys2Proof.Machine

/-! ### Fields of the header (R244) -/

def hdrKind (h : Nat) : Nat := h % 16
def hdrCount (h : Nat) : Nat := h / 2 ^ 4 % 128 + 1
def hdrSer (h : Nat) : Bool := h / 2 ^ 11 % 2 == 1
def hdrWmask (h : Nat) : Nat := h / 2 ^ 16 % 2 ^ 32
def hdrNstore (h : Nat) : Nat := h / 2 ^ 48 % 256
def hdrNexit (h : Nat) : Nat := h / 2 ^ 56 % 256

/-! ### Fetch -/

/-- What a fetch of a block gives: words that have not all arrived, a fault, or the header and the words. -/
inductive Fetched where
  | wait
  | bad (code : Nat) (va : Nat)
  | got (header : Nat) (words : List Word)
  deriving DecidableEq, Repr

/-- The words of little-endian bytes. -/
def wordsOfBytes : Nat → List Byte → List Word
  | 0, _ => []
  | n + 1, bs => ((wordOfBytes (bs.take 4)).getD 0) :: wordsOfBytes n (bs.drop 4)

/-- The code bytes at a virtual address, as a page core fetches them; an uncorrectable error in them is DATA_ERROR (R173, R200, R223). -/
def fetchBytes (s : State) (c : CoreRef) (va n : Nat) : Except XFault (Option (List Byte)) :=
  match spanOf s (.core c) (s.asidOf c.lid) va n { wr := false, rd := true, sup := (s.core c).priv } with
  | .error f => .error f
  | .ok sp =>
    if spanAbsent s sp || !s.banksRun sp then .ok none
    else if s.eccBad (spanPas sp) then .error ⟨0x0C, s.badVa sp⟩
    else .ok (some (readSpan s sp))

/-- What the fetch of a block of n words meets (R166, R223). -/
def State.fetchMeet (s : State) (c : CoreRef) (va n : Nat) : State :=
  s.virtMeet (.core c) (s.asidOf c.lid) va (16 + 4 * n) (s.core c).priv

/-- Fetches the header and the words of a block. -/
def fetchBlock (s : State) (c : CoreRef) (va : Nat) : Fetched :=
  match fetchBytes s c va 16 with
  | .error f => .bad f.code f.va
  | .ok none => .wait
  | .ok (some hb) =>
    let h := leNat hb
    if hdrKind h ≠ 1 then .got h []
    else match fetchBytes s c (va + 16) (4 * hdrCount h) with
      | .error f => .bad f.code f.va
      | .ok none => .wait
      | .ok (some bs) => .got h (wordsOfBytes (hdrCount h) bs)

/-! ### Decode (R255, R257, R258, R334) -/

/-- Opcodes of formats L and S, the effects, and those of the exits (R257). -/
def effectOpcode (o : Nat) : Bool :=
  decide (0x69 ≤ o ∧ o ≤ 0x6B) || decide (0x80 ≤ o ∧ o ≤ 0x8B) || decide (0x90 ≤ o ∧ o ≤ 0x97) || o == 0xA0 || o == 0xA1
    || decide (0xC2 ≤ o ∧ o ≤ 0xC5) || decide (0xD0 ≤ o ∧ o ≤ 0xD4) || o == 0xD6 || o == 0xE3 || o == 0xE4
def exitOpcode (o : Nat) : Bool := decide (0x08 ≤ o ∧ o ≤ 0x0B) || o == 0xE1

def wordOpcode (w : Word) : Nat := w.toNat / 2 ^ 24

/-- Does a word set or pass on register k? -/
def wordNames (w : Word) (k : Nat) : Bool := (wordOpcode w == 2 || wordOpcode w == 3) && w.toNat % 2 ^ 13 == k

/-- The header cases of R258. -/
def headerBad (h : Nat) (ws : List Word) : Bool :=
  hdrKind h != 1 || h / 2 ^ 12 % 16 != 0 || h / 2 ^ 64 != 0 || hdrNexit h == 0 || decide (8 < hdrNexit h) || decide (31 < hdrNstore h)
    || ws.countP (fun w => effectOpcode (wordOpcode w)) != hdrNstore h
    || ws.countP (fun w => exitOpcode (wordOpcode w)) != hdrNexit h
    || (List.range 32).any (fun k => (hdrWmask h).testBit k && !ws.any (fun w => wordNames w k))

/-- Does an instruction use an operand position (R247)? -/
def usesPos (i : Instr) (q : Nat) : Bool :=
  (i.uses.any (fun u => u.toNat == q)) || (q == 2 && i.pred != 0)

/-- Is a target of the instruction in a slot legal (R255)? A target in a slot that does not decode is judged with that slot. -/
def targetOk (is : List (Option Instr)) (slot : Nat) (t : BitVec 9) : Bool :=
  t == 0x1FF || (let j := t.toNat % 128
    decide (j < is.length) && j != slot && (match is.getD j none with
      | some i => usesPos i (t.toNat / 128)
      | none => true))

/-- Is an operand position of a slot named by a target of the block? -/
def posNamed (is : List (Option Instr)) (slot q : Nat) : Bool :=
  is.any (fun i => match i with
    | some i => i.targets.any (fun t => t != 0x1FF && t.toNat == q * 128 + slot)
    | none => false)

/-- The beat that a kept IN reads must be popped by a later IN of the block, a staged strand must be sent by a later write (R311, R312). -/
def portPaired (i : Instr) (later : List (Option Instr)) : Bool :=
  let any (f : Instr → Bool) : Bool := later.any (fun j => match j with
    | some j => f j
    | none => false)
  let sends (n : Nat) : Bool := any (fun j => match j with
    | .outPort _ m k _ => m.toNat == n && k == 1
    | .outm _ m k _ => m.toNat == n && k == 1
    | .mrk _ m k _ => m.toNat == n && k == 1
    | _ => false)
  match i with
  | .inPort _ _ n k _ => k == 1 || any (popsPort n.toNat)
  | .outPort _ n k _ => k == 1 || sends n.toNat
  | .outm _ n k _ => k == 1 || sends n.toNat
  | .mrk _ n k _ => k == 1 || sends n.toNat
  | _ => true

/-- The register that SETR or NULLW names. -/
def setsReg : Instr → Option Nat
  | .setr _ k => some k.toNat
  | .nullw _ k => some k.toNat
  | _ => none

/-- Is this one of the atomics or GRAISE, which return a value at commit (R333)? -/
def returns : Instr → Bool
  | .atom _ _ _ _ _ _ _ => true
  | .fatom _ _ _ _ _ => true
  | .graise _ _ _ => true
  | _ => false

/-- Reading effects, and those that hold them to commit (R333, R334). -/
def reads : Instr → Bool
  | .ld _ _ _ _ => true
  | .ldi _ _ _ _ => true
  | .lda _ _ _ _ _ => true
  | .ldimg _ _ _ _ => true
  | .pres _ _ _ => true
  | .resp _ _ _ _ => true
  | _ => false
def holdsReads : Instr → Bool
  | .fence _ _ _ => true
  | .xwait _ _ => true
  | .barWait _ _ _ _ => true
  | _ => false

/-- The LSID of an effect, 0 for any other instruction. -/
def lsidOf (i : Instr) : Nat := (i.lsid.map (fun l => l.toNat)).getD 0

/-- The slots whose value comes in the first phase of commit (R334). -/
def returningSlots (is : List (Option Instr)) : List Nat :=
  let bound := is.foldl (fun b i => match i with
    | some i => if holdsReads i then min b (lsidOf i) else b
    | none => b) 32
  (List.range is.length).filter (fun j => match is.getD j none with
    | some i => returns i || (reads i && decide (bound < lsidOf i))
    | none => false)

/-- The slots that depend on one of them (R334). -/
def Block.dependents (b : Block) (on : List Nat) : List Nat := b.closure (b.words.length + 1) (on.flatMap b.feeds)

/-- What may not depend on a returning effect (R334). -/
def notDependent : Instr → Bool
  | .setc _ _ => true
  | .eret _ _ => true
  | .bxr _ _ => true
  | .retb _ _ => true
  | i => i.lsid.isSome

/-- The checks of one instruction of a block (R258, R311, R312, R334). -/
def insnBad (h : Nat) (is : List (Option Instr)) (late : List Nat) (slot : Nat) : Bool :=
  match is.getD slot none with
  | none => true
  | some i =>
    let earlier := is.take slot
    let before (f : Instr → Bool) : Bool := earlier.any (fun j => match j with
      | some j => f j
      | none => false)
    !i.blocks.1 || !i.targets.all (targetOk is slot)
      || (List.range 4).any (fun q => usesPos i q && !posNamed is slot q)
      || (slot == 127 && usesPos i 3)
      || (match setsReg i with
        | some k => !(hdrWmask h).testBit k
        | none => false)
      || (match i.lsid with
        | some l => l == 0 || decide (hdrNstore h < l.toNat) || before (fun j => j.lsid == some l)
        | none => false)
      || (match i.exitNo with
        | some e => decide (hdrNexit h ≤ e.toNat) || before (fun j => j.exitNo == some e)
        | none => false)
      || (i.serial && !hdrSer h) || !portPaired i (is.drop (slot + 1))
      || (late.contains slot && notDependent i)

/-- Decodes a whole block: none, or TVAL of its first fault (R258). -/
def decodeFault (h : Nat) (ws : List Word) : Option DWord :=
  if headerBad h ws then some (BitVec.ofNat 64 h)
  else
    let is := ws.map (fun w => (decodeWord w).toOption)
    let b : Block := { words := ws }
    let late := b.dependents (returningSlots is)
    ((List.range ws.length).find? (insnBad h is late)).map (fun j => (ws.getD j 0).setWidth 64)

/-! ### Begin (R246) -/

/-- Where the exit that has fired leads. -/
def Block.exitTo (b : Block) : Option Nat := b.done.findSome? (fun d => match d.act with
  | .exit t => some t
  | .call t => some t
  | .ret t => some t
  | _ => none)

/-- The address at which the next block begins, once it is known (R246). -/
def PageCore.beginAt (p : PageCore) : Option Nat :=
  match p.blocks.getLast? with
  | none => p.nextAddr
  | some b => if b.ser || b.fault.isSome then none else b.exitTo

/-- A block as it begins. -/
def newBlock (s : State) (c : CoreRef) (addr h : Nat) (ws : List Word) (fault : Option BFault) : Block :=
  let p := s.core c
  { uid := p.uid, addr := addr, words := ws, nexit := hdrNexit h, nstore := hdrNstore h, wmask := BitVec.ofNat 32 (hdrWmask h)
    ser := hdrSer h, fault := fault, rmode := p.rmode, gidx := BitVec.ofNat 64 (gidxOf s c)
    gcount := BitVec.ofNat 64 (gcountOf s c.lid), seqReg := p.seqReg, genReg := p.genReg }

/-- Adds a block to those in flight. -/
def State.addBlock (s : State) (c : CoreRef) (b : Block) : State :=
  s.mapCore c (fun p => { p with blocks := p.blocks ++ [b], uid := p.uid + 1, nextAddr := none })

/-- A page core begins its next block: at most four are in flight, a serialising one begins alone (R246). -/
def State.beginBlock (s : State) (c : CoreRef) : State :=
  let p := s.core c
  if !s.runs c.lid c.pset || s.isCut c.lid c.pset || decide (4 ≤ p.blocks.length) then s
  else match p.beginAt with
    | none => s
    | some a =>
      match fetchBlock s c a with
      | .wait => s
      | .bad code va => (s.fetchMeet c a 0).addBlock c (newBlock s c a 0 [] (some { code := code, val := BitVec.ofNat 64 va }))
      | .got h ws =>
        if hdrSer h && hdrKind h == 1 && !p.blocks.isEmpty then s
        else (s.fetchMeet c a ws.length).addBlock c (newBlock s c a h ws ((decodeFault h ws).map (fun v => { code := 1, val := v })))

/-- BLOCK_BEGIN (R246, R258). -/
def execBlockBegin (core : CoreRef) (s : State) : Host.Outcome State Fault Refusal := .next (s.beginBlock core)

/-! ### Data of a load (R247, R336) -/

/-- A value of a slot goes to the slot's targets, with its predicate's S. -/
def Block.result (b : Block) (slot : Nat) (img : Img) : Block :=
  match b.insn slot with
  | some i => b.deliverAll i.targets ⟨img.v, img.s || (i.pred != 0 && ((b.operand slot .pred).getD {}).s)⟩
  | none => b

/-- Does a page core accept data from a die: its own die runs, and no stalled response of that die stands before it (R18, R20)? -/
def State.accepts (s : State) (c : CoreRef) (die : Nat) : Bool :=
  let d := s.dieOfPset c.lid c.pset
  !(s.die d).stopped && !(s.die die).stalls.contains d

/-- The data of a performed read arrives and is delivered; that of a discarded block is dropped. -/
def State.loadArrives (s : State) (c : CoreRef) (uid slot : Nat) : State :=
  match (s.core c).responses.find? (fun r => r.uid == uid && r.slot == slot) with
  | none => s
  | some r => if !s.accepts c r.die then s else s.mapCore c (fun p => { p with
      responses := p.responses.erase r
      blocks := p.blocks.map (fun b => if b.uid = uid then b.result slot (loadImage r.kind r.bytes) else b) })

/-- LOAD_RESPONSE (R247). -/
def execLoadResponse (core : CoreRef) (uid slot : Nat) (s : State) : Host.Outcome State Fault Refusal :=
  .next (s.loadArrives core uid slot)

end Sys2Proof.Machine
end

