-- ==== Sys2Proof/Machine/Commit.lean ====
section
/-! DEFINITION. The commit of a C-block: its conditions, its effects in LSID order, its second phase, and what becomes visible at the end
(R194 to R199, R248, R249, R269 to R271, R312, R319 to R323, R327, R333, R334, R344, R350 to R357, R371 to R376, R380 to R385). -/
namespace Sys2Proof.Machine

/-! ### The block that commits -/

def State.mapHead (s : State) (c : CoreRef) (f : Block → Block) : State :=
  s.mapCore c (fun p => match p.blocks with
    | [] => p
    | b :: r => { p with blocks := f b :: r })

/-- Is a data item of this block still on its way? -/
def State.awaits (s : State) (c : CoreRef) (uid : Nat) : Bool :=
  (s.core c).responses.any (fun r => r.uid == uid) || s.deferred.any (fun d => match d.who with
    | .core c' u _ _ => decide (c' = c) && u == uid
    | _ => false)

/-! ### Conditions (R248, R334) -/

/-- The slots of which a value comes only in the first phase, and those that depend on them. -/
def Block.returning (b : Block) : List Nat := b.done.filterMap (fun d => match d.act with
  | .atom _ _ _ _ _ ret => if ret then some d.slot else none
  | .graise _ => some d.slot
  | .heldRead _ _ _ _ => some d.slot
  | _ => none)
def Block.late (b : Block) : List Nat := b.dependents b.returning

/-- The positions a slot needs that hold no value yet. -/
def Block.missing (b : Block) (j : Nat) : List Nat :=
  match b.insn j with
  | some i => (List.range 4).filter (fun q => usesPos i q && (b.operand j (Pos.ofCode (BitVec.ofNat 2 q))).isNone)
  | none => []

/-- Slots that may still fire: nothing is missing, or what is missing comes from one that may. -/
def Block.mayFire (b : Block) : Nat → List Nat → List Nat
  | 0, l => l
  | fuel + 1, l =>
    let feeders (j q : Nat) : Bool := l.any (fun k => match b.insn k with
      | some i => i.targets.any (fun t => t != 0x1FF && t.toNat == q * 128 + j)
      | none => false)
    let more := (List.range b.words.length).filter (fun j =>
      !l.contains j && !b.settled j && (b.missing j).all (fun q => feeders j q))
    if more.isEmpty then l else b.mayFire fuel (more ++ l)

/-- Does a commit condition hold but for slots that are excepted (log 30)? -/
def Block.holds (b : Block) (exc : List Nat) : Bool :=
  let names (k : Nat) : Bool := exc.any (fun j => ((b.insn j).bind setsReg) == some k)
  (List.range 32).all (fun k => !b.wmask.getLsbD k || b.named k || names k)
    && (List.range b.words.length).all (fun j => match b.insn j with
      | some i => i.lsid.isNone || b.settled j
      | none => true)
    && (b.exited || exc.any (fun j => ((b.insn j).bind (fun i => i.exitNo)).isSome))
    && ((b.mayFire (b.words.length + 1) []).all (fun j => exc.contains j))

/-- Beats that a block pushes into a source port. -/
def Block.pushes (b : Block) (n : Nat) : Nat := b.done.countP (fun d => match d.act with
  | .stage p _ _ send => p == n && send
  | .push p _ => p == n
  | _ => false)
def Block.pushesAny (b : Block) : Bool := (List.range 32).any (fun n => b.pushes n != 0)

/-- Have the source ports room, behind every earlier stream command (R312, R393)? -/
def Block.roomFor (b : Block) (p : PageCore) : Bool :=
  (List.range 32).all (fun n => b.pushes n == 0
    || (decide ((p.srcQ n).length + b.pushes n ≤ 16)
      && !p.streams.any (fun t => t.ld && t.port == n && decide (t.seq ≤ p.opSeq))))

/-- At most 32 requests are outstanding at an engine (R344). -/
def Block.enginesFor (b : Block) (p : PageCore) : Bool :=
  (List.range 13).all (fun e =>
    let n := b.done.countP (fun d => match d.act with
      | .engine e' _ _ _ _ => e' == e
      | _ => false)
    n == 0 || decide ((if h : e < 13 then p.engOut[e] else 0) + n ≤ 32))

/-! ### What stands earlier (R194, R195) -/

/-- Are all accesses before a place in issue order performed with respect to a scope, far ones included? -/
def State.allDone (s : State) (c : CoreRef) (scope uid seq : Nat) : Bool :=
  let p := s.core c
  p.posted.all (fun q => decide (seq ≤ q.seq) || !s.watched c scope (some q.kind.span))
    && p.tileQ.all (fun t => !t.op.touches || decide (seq ≤ t.seq) || !s.watched c scope (some t.op.span)) && !s.awaits c uid

/-- Are all but far stores and far atomics? -/
def State.nearDone (s : State) (c : CoreRef) (scope uid seq : Nat) : Bool :=
  let p := s.core c
  p.posted.all (fun q => q.far || decide (seq ≤ q.seq) || !s.watched c scope (some q.kind.span))
    && p.tileQ.all (fun t => !t.op.touches || decide (seq ≤ t.seq) || !s.watched c scope (some t.op.span)) && !s.awaits c uid

/-- Does a span lie far from its page core (R192)? -/
def State.isFar (s : State) (c : CoreRef) (sp : Span) : Bool :=
  sp.any (fun r => !near (s.dieOfPset c.lid c.pset) r.1.pa)

/-- Posts an access. -/
def State.post (s : State) (c : CoreRef) (q : Posted) : State := s.mapCore c (fun p => { p with posted := p.posted ++ [q] })

/-! ### Barriers (R352, R353) -/

def State.barrier (s : State) (c : CoreRef) (k : Nat) : Barrier :=
  (s.barriers.find? (fun b => b.lid == c.lid && b.pset == c.pset && b.idx == k)).getD { lid := c.lid, pset := c.pset, idx := k }
def State.setBarrier (s : State) (b : Barrier) : State :=
  { s with barriers := s.barriers.filter (fun d => !(d.lid == b.lid && d.pset == b.pset && d.idx == b.idx)) ++ [b] }

def PageCore.seen (p : PageCore) (k : Nat) : Option Nat := if h : k < 16 then p.barSeen[k] else none
def PageCore.setSeen (p : PageCore) (k : Nat) (v : Option Nat) : PageCore :=
  if h : k < 16 then { p with barSeen := p.barSeen.set k v } else p

/-- BAR.INIT at the sequencer. -/
def State.barInit (s : State) (c : CoreRef) (k n : Nat) : State :=
  let s := s.setBarrier { s.barrier c k with count := n, arrived := 0 }
  { s with cores := s.cores.map (fun (e : CoreRef × PageCore) =>
      if e.1.lid = c.lid ∧ e.1.pset = c.pset then (e.1, e.2.setSeen k none) else e) }

/-- BAR.ARR at the sequencer. -/
def State.barArr (s : State) (c : CoreRef) (k : Nat) : State :=
  let b := s.barrier c k
  if b.count = 0 then s
  else
    let s := s.mapCore c (fun p => p.setSeen k (some b.phase))
    if b.arrived + 1 = b.count then s.setBarrier { b with phase := (b.phase + 1) % 2 ^ 16, arrived := 0 }
    else s.setBarrier { b with arrived := b.arrived + 1 }

/-- Does BAR.WAIT complete? -/
def State.barPassed (s : State) (c : CoreRef) (k : Nat) : Bool :=
  let b := s.barrier c k
  b.count == 0 || (match (s.core c).seen k with
    | some ph => ph != b.phase
    | none => true)

/-! ### TLBI (R176, R374) -/

/-- The agents within the scope of a TLBI: 3 die, 4 pkg. -/
def State.tlbScope (s : State) (c : CoreRef) (scope : Nat) (o : TlbOwner) : Bool :=
  let d := s.dieOfPset c.lid c.pset
  let serves (m : Nat) : Bool := adjacent d m || s.placed.any (fun p => p.die == d && p.mdie == m)
  scope == 4 || (match o with
    | .core e => s.dieOfPset e.lid e.pset == d
    | .cluster m _ => serves m
    | .die m => serves m)

/-- Does a TLBI cover this entry? -/
def State.tlbCovers (s : State) (c : CoreRef) (k va : Nat) (t : TlbEnt) : Bool :=
  k == 2 || (t.asid % 2 ^ 16 == s.asidOf c.lid % 2 ^ 16 && (k == 1 || decide (t.base ≤ va ∧ va < t.base + t.size)))

/-- The virtual ranges of a TLBI va: the granule of the address, and every page held for it. -/
def State.tlbRanges (s : State) (c : CoreRef) (k va : Nat) : List (Nat × Nat) :=
  if k = 0 then (va / 65536 * 65536, 65536)
    :: ((s.tlb ++ s.tlb2.map (fun e => e.2)).filter (s.tlbCovers c k va)).map (fun t => (t.base, t.size))
  else [(0, 2 ^ 56)]

/-- Does a TLBI of its own block stand before an effect? What is issued after one is translated again once it has completed. -/
def Block.behindTlbi (b : Block) (lsid : Nat) : Bool := b.done.any (fun d => decide (d.lsid < lsid) && (match d.act with
  | .tlbi _ _ _ => true
  | _ => false))

/-- The words an act has translated. -/
def Act.span : Act → Span
  | .store sp _ _ _ => sp
  | .till sp _ => sp
  | .atom _ sp _ _ _ _ => sp
  | .heldRead _ _ sp _ => sp
  | .tile op => op.span
  | .stream t => t.span
  | _ => []

/-- Spans of accesses of a page core that were translated and are not performed. -/
def State.openSpans (s : State) (c : CoreRef) : List Span :=
  let p := s.core c
  let behind (t : TileItem) : Bool := p.blocks.head?.any (fun b => b.phase == 1 && decide (p.opSeq ≤ t.seq) && b.behindTlbi t.lsid)
  p.posted.map (fun q => q.kind.span) ++ (p.tileQ.filter (fun t => !behind t)).map (fun t => t.op.span) ++ p.streams.map (fun t => t.span)
    ++ p.blocks.flatMap (fun b => (b.done.filter (fun d => (b.phase == 0 || (b.phase == 1 && decide (b.performed < d.lsid)))
        && !b.behindTlbi d.lsid)).map (fun d => d.act.span))

/-- For whom a bank holds a read or a write that was translated: its launch and the TLB that it used. -/
def State.waiterOwner (s : State) : Waiter → Nat × TlbOwner
  | .core c _ _ _ => (c.lid, .core c)
  | .node r _ => (r.lid, ((s.nodeAt r).map MemNode.tlb).getD (.die 8))
  | .engine c _ => (c.lid, .die (s.mdieOf c.lid c.pset))

/-- May a TLBI complete: is every access that used a covered translation performed, those of page cores and those that stand at the banks? -/
def State.tlbQuiet (s : State) (c : CoreRef) (k scope va : Nat) : Bool :=
  let rs := s.tlbRanges c k va
  let past (lid : Nat) (o : TlbOwner) : Bool := !s.tlbScope c scope o || (k != 2 && s.asidOf lid % 2 ^ 16 != s.asidOf c.lid % 2 ^ 16)
  let clear (a n : Nat) : Bool := rs.all (fun (x : Nat × Nat) => decide (a + n ≤ x.1 ∨ x.1 + x.2 ≤ a))
  s.cores.all (fun (e : CoreRef × PageCore) =>
      past e.1.lid (.core e.1) || (s.openSpans e.1).all (fun sp => sp.all (fun r => clear r.1.va r.2)))
    && s.deferred.all (fun d => past (s.waiterOwner d.who).1 (s.waiterOwner d.who).2 || d.span.all (fun r => clear r.1.va r.2))
    && s.held.all (fun w => past (s.waiterOwner w.who).1 (s.waiterOwner w.who).2 || clear w.va w.bytes.length)

/-- The covered entries are dropped, of first-level and of second-level TLBs. -/
def State.tlbDrop (s : State) (c : CoreRef) (k scope va : Nat) : State :=
  { s with
    tlb := s.tlb.filter (fun t => !(s.tlbScope c scope t.owner && s.tlbCovers c k va t))
    tlb2 := s.tlb2.filter (fun e => !(s.tlbScope c scope (.die e.1) && s.tlbCovers c k va e.2)) }

/-- Translates runs again. -/
def State.respan (s : State) (c : CoreRef) (k : AccKind) (sp : Span) : Except XFault Span :=
  sp.foldr (fun r acc => match spanOf s (.core c) (s.asidOf c.lid) r.1.va r.2 k, acc with
    | .error f, _ => .error f
    | .ok a, .ok rest => .ok (a ++ rest)
    | .ok _, .error f => .error f) (.ok [])

/-- An effect that stands behind a TLBI of its block is translated again; one that then faults touches nothing, a read delivers 0 with S = 1, and
its fault is deferred (R176, R199, log 54). -/
def Act.again (s : State) (c : CoreRef) (a : Act) : Act × Option XFault :=
  let k : AccKind := { wr := false, rd := false, sup := (s.core c).priv }
  let by_ (k : AccKind) (f : Span → Act) (none_ : Act) : Act × Option XFault := match s.respan c k a.span with
    | .ok sp => (f sp, none)
    | .error e => (none_, some e)
  match a with
  | .store _ bs rel g => by_ { k with wr := true } (fun sp => .store sp bs rel g) (.store [] [] rel g)
  | .till _ g => by_ { k with wr := true, least := if g then 2 else 1 } (fun sp => .till sp g) (.till [] g)
  | .atom va _ o order scope gives => by_ { k with wr := true, rd := true, atomic := true } (fun sp => .atom va sp o order scope gives)
      (.atom va [] o order scope gives)
  | .heldRead kind va _ acq => by_ { k with rd := true } (fun sp => .heldRead kind va sp acq) (.heldRead 19 va [] acq)
  | .stream t => by_ { k with wr := !t.ld, rd := t.ld } (fun sp => .stream { t with span := sp }) (.stream { t with beats := 0, span := [] })
  | a => (a, none)

/-- The same for the rows of a tile instruction. -/
def TileOp.again (s : State) (c : CoreRef) (op : TileOp) : TileOp × Option XFault :=
  let rows (wr : Bool) (f : List Span → TileOp) (l : List Span) : TileOp × Option XFault :=
    match l.foldr (fun sp (acc : Except XFault (List Span)) =>
        match s.respan c { wr := wr, rd := !wr, sup := (s.core c).priv } sp, acc with
        | .ok a, .ok r => .ok (a :: r)
        | .error e, _ => .error e
        | _, .error e => .error e) (.ok []) with
    | .ok r => (f r, none)
    | .error e => (f [], some e)
  match op with
  | .tld k st l => rows false (.tld k st) l
  | .tst k st l => rows true (.tst k st) l
  | .wloadW ctl l => rows false (.wloadW ctl) l
  | op => (op, none)

/-- A TLBI completes: its entries go, and the effects of its block that stand behind it are translated again. -/
def State.finishTlbi (s : State) (c : CoreRef) (k scope va lsid : Nat) : State :=
  let s := s.tlbDrop c k scope va
  let p := s.core c
  let late (l q : Nat) : Bool := decide (lsid < l) && decide (p.opSeq ≤ q)
  let faults := (p.blocks.head?.map (fun b => b.done.filterMap (fun d =>
      if lsid < d.lsid then (d.act.again s c).2.map (fun f => (d.lsid, f)) else none))).getD []
    ++ p.tileQ.filterMap (fun t => if late t.lsid t.seq then (t.op.again s c).2.map (fun f => (t.lsid, f)) else none)
  let s := s.mapHead c (fun b => { b with done := b.done.map (fun d => if lsid < d.lsid then { d with act := (d.act.again s c).1 } else d) })
  let s := s.mapCore c (fun p => { p with tileQ := p.tileQ.map (fun t => if late t.lsid t.seq then { t with op := (t.op.again s c).1 } else t) })
  faults.foldl (fun s (e : Nat × XFault) => latchFault s c e.2.code e.2.va e.1) s

/-! ### Effects (R197, R333) -/

/-- The record of a SPAWN. -/
def spawnTask (c : CoreRef) (gidx node tiles : Nat) (arg : DWord) : Task :=
  { lid := c.lid, node := node, tiles := tiles, gidx := gidx, arg := arg, pset := c.pset }

/-- The page core whose SPAWN claims the next entry of a task queue, of those that stall there and run (R76). -/
def State.nextSpawner (s : State) (q : GraphSeq) : Option CoreRef := q.stalled.find? (fun e => s.runs e.lid e.pset)

/-- SPAWN's record enters the queue of its node's die; none while the queue is full or another SPAWN claims the entry (R75, R76, R354). -/
def State.spawn (s : State) (c : CoreRef) (t : Task) : Option State :=
  let d := s.taskDie t
  let q := s.seqAt d
  if 1024 ≤ q.tasks.length || (s.nextSpawner q).any (fun e => decide (e ≠ c)) then none
  else some ((s.setSeq d { q with tasks := q.tasks ++ [t], stalled := q.stalled.erase c }).updGroup c.lid t.gidx
    (fun g => { g with tasks := g.tasks + 1 }))

/-- Does a page core stand before another in the order of plot row, plot column (R76)? -/
def State.coreBefore (s : State) (a b : CoreRef) : Bool :=
  let (x, y) := s.pageXY a
  let (u, v) := s.pageXY b
  decide (y < v) || (y == v && decide (x < u))

/-- A SPAWN that stalls joins those that do, at the end; how many of the last ones stalled in its own cycle of the target die, among which the plot
decides, is free (R76, log 100). -/
def State.stallSpawn (s : State) (c : CoreRef) (t : Task) : State :=
  let d := s.taskDie t
  let q := s.seqAt d
  if q.stalled.contains c then s
  else
    let same := s.freeAt 0 % (q.stalled.length + 1)
    let late := ((q.stalled.reverse.take same).takeWhile (fun e => s.coreBefore c e)).length
    let k := q.stalled.length - late
    (s.setSeq d { q with stalled := q.stalled.take k ++ c :: q.stalled.drop k }).useFree 1

/-- GRAISE at the dispatcher: the new state and the value delivered (R78, R355). -/
def State.graise (s : State) (lid k : Nat) : State × DWord :=
  let n := gcountOf s lid
  if 2 ^ 32 ≤ n + k then (s, BitVec.allOnes 64)
  else (s.mapLaunch lid (fun l => { l with gcount := n + k }), BitVec.ofNat 64 n)

/-- The bytes a held read sees: memory under the page core's own posted stores. -/
def State.heldRead (s : State) (c : CoreRef) (b : Block) (slot kind : Nat) (sp : Span) : State :=
  let ws := (s.core c).posted.filterMap (fun q => match q.kind with
    | .store sp bs _ => some (sp, bs)
    | _ => none)
  performRead s c b.uid slot kind (genOf b.genReg) ws sp

/-- A store at commit: posted, or, a release, performed once everything before it is (R195, R337). -/
def State.commitStore (s : State) (c : CoreRef) (b : Block) (lsid seq : Nat) (sp : Span) (bs : List Byte) (release : Option Nat)
    (gen : Nat) : Option State :=
  let q : Posted := { seq := seq, far := s.isFar c sp, lsid := lsid, va := (sp.head?.map (fun r => r.1.va)).getD 0
                      kind := .store sp bs gen, rel := release.isSome }
  match release with
  | some scope => if s.allDone c scope b.uid seq && s.postedFree c q then some ((s.post c q).performPosted c q) else none
  | none => some (s.post c q)

/-- An atomic at commit: one that returns, acquires or sets flags is performed there, any other is posted (R341 to R343). One that meets an
uncorrectable error leaves its word, delivers a free value, and its fault is deferred (R199, R223). -/
def State.commitAtom (s : State) (c : CoreRef) (b : Block) (lsid slot seq va : Nat) (sp : Span) (a : AtomOp) (order scope : Nat) (ret : Bool) :
    Option State :=
  let q : Posted := { seq := seq, far := s.isFar c sp, lsid := lsid, va := va, kind := .atom sp a }
  if 2 ≤ order && !s.allDone c scope b.uid seq then none
  else if ret || order % 2 == 1 || 2 ≤ order || a.op == 7 then
    if !s.postedFree c q then none
    else match sp with
      | [] => some (if ret then s.mapHead c (fun b => b.result slot ⟨0, true⟩) else s)
      | (x, _) :: _ =>
        if s.eccBad (spanPas sp) then
          some (latchFault (((s.eccMeet (spanPas sp)).useFree 2).mapHead c (fun b =>
            if ret then b.result slot ⟨BitVec.ofNat 64 (s.freeAt 0), s.freeAt 1 % 2 == 1⟩ else b)) c 0x0C va lsid)
        else
          let (s, v, fl) := (((s.eccMeet (spanPas sp)).noteUpdate c.lid (s.agentOf c 0xFF) x.pa)).atomicAt x.pa a
          some (s.mapHead c (fun b => { (if ret then b.result slot v else b) with flags := b.flags.or fl }))
  else some (s.post c q)

/-- The reads of a block with a lower LSID that their banks have not answered (R196). -/
def State.earlierReads (s : State) (c : CoreRef) (b : Block) (lsid : Nat) : List (Nat × Nat) :=
  ((List.range b.words.length).filter (fun j => s.unread c b.uid j && (b.insn j).any (fun i => decide (lsidOf i < lsid)))).map (fun j => (b.uid, j))

/-- Performs one effect of the committing block; none while it must wait. -/
def State.performAct (s : State) (c : CoreRef) (b : Block) (d : Done) : Option State :=
  let p := s.core c
  let seq := p.opSeq + d.lsid
  let lane := seqLane b.seqReg
  let held := s.heldAt c seq
  match d.act with
  | .heldRead kind va sp _ =>
    if held then none
    else if kind = 20 then
      match p.responsesOf va with
      | [] => none
      | r :: rest => some ((s.mapCore c (fun p => if h : va < 13 then { p with engResp := p.engResp.set va rest } else p)).mapHead c
          (fun b => b.result d.slot r.image))
    else if s.pendingMeets c seq sp false (kind != 18) (kind == 18) || !s.banksRun sp then none
    else some (s.heldRead c b d.slot kind sp)
  | .store sp bs release gen => s.commitStore c b d.lsid seq sp bs release gen
  | .till lines g =>
    some (s.post c { seq := seq, far := s.isFar c lines, lsid := d.lsid, va := (lines.head?.map (fun r => r.1.va)).getD 0
                     kind := .till lines g })
  | .atom va sp a order scope ret => s.commitAtom c b d.lsid d.slot seq va sp a order scope ret
  | .engine e op va count scope =>
    if held then none
    else
      let s := s.mapCore c (fun p => if h : e < 13 then { p with engOut := p.engOut.set e (p.engOut[e] + 1) } else p)
      some { s with engines := s.engines ++ [{
        core := c, die := s.mdieOf c.lid c.pset, engine := e, op := op, va := va, count := count, scope := scope
        gen := genOf b.genReg, lane := lane, nolane := seqNolane b.seqReg, sup := p.priv, seq := seq }] }
  | .resp e => some (s.mapCore c (fun p => if h : e < 13 then { p with engResp := p.engResp.set e p.engResp[e].tail } else p))
  | .fence scope => if held || !s.nearDone c scope b.uid seq then none else some s
  | .xfence scope serial => some (s.mapCore c (fun p => { p with
      serial := (serial + 1) % 2 ^ 16, fences := p.fences ++ [{ serial := serial, scope := scope, upto := seq, reads := s.earlierReads c b d.lsid }] }))
  | .xwait tok => some (s.mapCore c (fun p => { p with holds := p.holds ++ [(tok, seq)] }))
  | .barInit k _ n => if held then none else some (s.barInit c k n)
  | .barArr k scope => if held || !s.allDone c scope b.uid seq then none else some (s.barArr c k)
  | .barWait k _ => if held || !s.barPassed c k then none else some s
  | .spawn node tiles arg => s.spawn c (spawnTask c b.gidx.toNat node tiles arg)
  | .tdone leaf n => some (if n = 0 then s else s.leafAdvance (pageOf c) leaf n)
  | .graise k =>
    let (s, v) := s.graise c.lid k
    some (s.mapHead c (fun b => b.result d.slot ⟨v, false⟩))
  | .launchp q t => s.launchp lane q t
  | .prune q t relaunch forced => some (s.pruneCmd lane q t relaunch forced)
  | .seqOpen a v => some (s.seqOpen lane a v p.lseed.toNat)
  | .seqClose => some (s.seqClose lane)
  | .stream t => some (if t.beats = 0 then s else s.mapCore c (fun p => { p with streams := p.streams ++ [{ t with seq := seq }] }))
  | .drain port _ =>
    let waits := p.streams.any (fun t => decide (t.seq < seq) && (match port with
        | some (ld, n) => t.ld == ld && t.port == n
        | none => true))
      || s.held.any (fun w => match w.who with
        | .core c' q _ _ => decide (c' = c) && decide (q < seq)
        | _ => false)
    if waits then none else some s
  | .tlbi k scope va => if s.tlbQuiet c k scope va then some (s.finishTlbi c k scope va d.lsid) else none
  | _ => some s

/-- What an effect that has to wait does at once: a LAUNCHP prunes the position that it is to launch again (R330), a SPAWN takes its place among
those that stall (R76). -/
def State.heldAct (s : State) (c : CoreRef) (b : Block) : Option Done → State
  | some ⟨_, _, .launchp q t⟩ => s.launchPrune (seqLane b.seqReg) q t
  | some ⟨_, _, .spawn node tiles arg⟩ => s.stallSpawn c (spawnTask c b.gidx.toNat node tiles arg)
  | _ => s

/-- Is an act a GRAISE, which keeps its launch from being done while it is committed (R78)? -/
def Act.raises : Act → Bool
  | .graise _ => true
  | _ => false

/-- Performs the effects of the committing block in LSID order, as far as they go. -/
def State.performEffects (s : State) (c : CoreRef) : Nat → State
  | 0 => s
  | fuel + 1 =>
    match (s.core c).blocks with
    | [] => s
    | b :: _ =>
      if b.phase ≠ 1 then s
      else if b.nstore ≤ b.performed then s.mapHead c (fun b => { b with phase := 2 })
      else
        let l := b.performed + 1
        let act := b.done.find? (fun d => d.lsid == l)
        let r := match act with
          | some d => s.performAct c b d
          | none => some s
        match r with
        | none => s.heldAct c b act
        | some s =>
          let s := s.mapHead c (fun b => { b with performed := l })
          (if act.any (fun d => d.act.raises) then s.closeLaunch c.lid else s).performEffects c fuel

/-- The first phase begins: the tile instructions take their places in tile issue order (R334, R358). -/
def State.startCommit (s : State) (c : CoreRef) : State :=
  s.mapCore c (fun p => match p.blocks with
    | [] => p
    | b :: r =>
      let mine := (List.range b.words.length).flatMap (fun j => b.done.filterMap (fun d =>
        if d.slot = j then d.act.tileOp.map (fun op =>
          ({ seq := p.opSeq + d.lsid, lsid := d.lsid, gen := genOf b.genReg, op := op } : TileItem)) else none))
      { p with blocks := { b with phase := 1 } :: r, tileQ := p.tileQ ++ mine })

/-! ### What becomes visible at the end of a commit -/

/-- The acts of a block in slot order. -/
def Block.acts (b : Block) : List Act :=
  (List.range b.words.length).flatMap (fun j => (b.done.filter (fun d => d.slot == j)).map (fun d => d.act))

/-- A register takes its value (R265). -/
def PageCore.setReg (p : PageCore) (k : Nat) (x : Img) : PageCore := if h : k < 32 then { p with g := p.g.set k x } else p

/-- STRM.ACC (R323). -/
def PageCore.feedAcc (p : PageCore) (port : Nat) (rst : Bool) (op k : Nat) : PageCore :=
  let accs := p.accs.map (fun a => if a.port = some port ∧ op ≠ 0 then { a with op := 0, port := none } else a)
  if h : k < 4 then
    let a := p.accs[k]
    let a := if rst then { a with vals := List.replicate 16 (wfStart (op - 1)), fresh := List.replicate 16 true } else a
    { p with accs := accs.set k { a with op := op, port := if op = 0 then none else some port } }
  else p

/-- What an act changes in its own page core: registers, control registers, accumulators, the return predictor. -/
def PageCore.visible (p : PageCore) (b : Block) : Act → PageCore
  | .setr k x => p.setReg k x
  | .setc n v => p.writeControl n v
  | .acc port rst op k => p.feedAcc port rst op k
  | .call _ => { p with retPred := ((b.addr + 16 + (4 * b.words.length + 15) / 16 * 16) :: p.retPred).take 16 }
  | .ret _ => { p with retPred := p.retPred.tail }
  | _ => p

/-- A write of GEN that gives another value ends the dropping for the old one (R99). -/
def State.genWritten (s : State) (c : CoreRef) (v : DWord) : State :=
  { s with portDrops := s.portDrops.filter (fun (d : CoreRef × Nat × Nat) => decide (d.1 ≠ c) || d.2.2 == genOf v) }

/-- A beat is popped from a sink port (R311, R313); beats that waited for room move up. -/
def State.popSink (s : State) (c : CoreRef) (n : Nat) : State :=
  let s := s.mapCore c (fun p => if h : n < 32 then
    (match p.sink[n] with
      | [] => p
      | b :: r => { p with
          sink := p.sink.set n r, sinkSeg := if hkind b = 2 then p.sinkSeg.set n (some (prefixOf b)) else p.sinkSeg }) else p)
  s.refillSink c n

/-- The forager and the array of the page (R319, R369). -/
def Forager.setRej (g : Forager) (k est : Nat) : Forager := { g with stages := setAt g.stages k (fun t => { t with rej := est }) }
def Forager.seed (g : Forager) (v : Nat) : Forager := { g with lfsr := if v = 0 then 1 else BitVec.ofNat 32 v }
def ArrayUnit.sortcfg (a : ArrayUnit) (ctl : DWord) : ArrayUnit :=
  { a with m := ctl.toNat % 16, desc := ctl.getLsbD 4, merge := ctl.getLsbD 5, keep := ctl.toNat / 2 ^ 8 % 1024 }

/-- PERF.cfg (R217, R375). -/
def State.perfCfg (s : State) (c : CoreRef) (ctl : DWord) : State :=
  let n := ctl.toNat % 16
  let e := ctl.toNat / 2 ^ 4 % 256
  { s with elems := s.elems.map (fun el =>
      if el.ref.lid = c.lid ∧ el.ref.pset = c.pset ∧ el.ref.x = 4 * c.px + n % 4 ∧ el.ref.y = 4 * c.py + n / 4 ∧ el.kind = 1
          ∧ (e = 0xFF ∨ e = el.ref.idx % 256) then
        { el with iiOn := ctl.getLsbD 12, iiThr := ctl.toNat / 2 ^ 16 % 2 ^ 16, iiArmed := false }
      else el) }

/-- What an act changes outside its page core's registers. -/
def State.outside (s : State) (c : CoreRef) : Act → State
  | .setc n v => if n = 0x21 then s.genWritten c v else s
  | .pop n => s.popSink c n
  | .fgstage k est => s.updForager (pageOf c) (s.pageCtx (pageOf c)) (fun g => g.setRej k est)
  | .fgseed v => s.updForager (pageOf c) (s.pageCtx (pageOf c)) (fun g => g.seed v)
  | .sortcfg ctl => s.onArray c (fun a => a.sortcfg ctl)
  | .perfCfg ctl => s.perfCfg c ctl
  | .perfClr n => s.updPlot c.lid c.pset (4 * c.px + n % 4) (4 * c.py + n / 4) (fun q => { q with ring := [] })
  | _ => s

/-- Beats being built, by port: strand by strand (R312). -/
abbrev Staged := List (Nat × List (Nat × Strand))

/-- The beat of the staged strands of a port. -/
def stagedBeat (t : Staged) (n : Nat) : Beat :=
  let ss := (kget n t).getD []
  (List.range 16).map (fun i => (kget i ss).getD {})

/-- One staged write or push of a block, in slot order. -/
def pushAct (c : CoreRef) (acc : State × Staged) : Act → State × Staged
  | .stage n j st send =>
    let t := match st with
      | some v => kset n (kset j v ((kget n acc.2).getD [])) acc.2
      | none => acc.2
    if send then (acc.1.pushSrc c n [stagedBeat t n], t.filter (fun (e : Nat × List (Nat × Strand)) => e.1 != n)) else (acc.1, t)
  | .push n b => (acc.1.pushSrc c n [b], acc.2)
  | _ => acc

/-- Fences that have completed, and the XWAITs that they no longer hold, are forgotten (R351). -/
def State.pruneFences (s : State) (c : CoreRef) : State :=
  let fs := (s.core c).fences.filter (s.fenceOpen c)
  s.mapCore c (fun p => { p with
    fences := fs, holds := p.holds.filter (fun (t : Nat × Nat) => fs.any (fun f => f.serial == t.1 || precedes f.serial t.1)) })

/-- The commit trap of a block: that of its lowest slot (R371). -/
def Block.trapOf (b : Block) : Option (Nat × DWord) := b.acts.findSome? (fun a => match a with
  | .ctrap code v => some (code, v)
  | _ => none)

/-- Takes a commit trap; a deferred fault that is due goes first and holds it (R371). -/
def State.commitTrap (s : State) (c : CoreRef) (epc code : Nat) (v : DWord) : State :=
  let p := s.core c
  match p.deferred with
  | some d =>
    takeTrap (s.setCore c { p with deferred := none, heldTrap := some (code, v) }) c epc d.code (BitVec.ofNat 64 d.va) d.lsid true d.more
  | none => takeTrap s c epc code v 0 false false

/-- What follows the exit of a committed block: the return from a trap, a commit trap (R371, R372). A commit trap of a block that
returns is taken after a held one, which it then waits for. -/
def State.afterExit (s : State) (c : CoreRef) (b : Block) : State :=
  let ret := b.acts.contains .eret
  match b.trapOf with
  | none => if ret then eretCore s c else s
  | some (code, v) =>
    if !ret then s.commitTrap c ((b.exitTo).getD 0) code v
    else
      let p := s.core c
      if p.heldTrap.isSome then (eretCore s c).mapCore c (fun p => { p with heldTrap := some (code, v) })
      else (eretCore s c).commitTrap c p.epc.toNat code v

/-- CKPT and HALTD take effect with the commit (R373, R376). -/
def State.commitCut (s : State) (c : CoreRef) : Act → State
  | .ckpt yield n sp =>
    let area := sp.map (fun r => (r, n, c.pset))
    if yield then s.startCut c.lid (s.psetsOf c.lid) (.ckptYield c) area else s.startCut c.lid [c.pset] (.ckptCont c) area
  | .haltd freeze =>
    let (x, y) := s.pageXY c
    let s := { s with outbox := s.outbox ++ [Sent.report 2 (coreNum s (s.dieOfPset c.lid c.pset) x y) c.lid 0] }
    if freeze then s.freezeLaunch c.lid else s.startCut c.lid (s.psetsOf c.lid) .stop none
  | _ => s

/-- Where the next block begins, once this one has committed. -/
def PageCore.afterCommit (p : PageCore) (b : Block) : PageCore :=
  { p with blocks := p.blocks.tail, opSeq := p.opSeq + 32, nextAddr := if p.blocks.tail.isEmpty then b.exitTo else p.nextAddr }

/-- The end of a commit (R197, R248). -/
def State.finishCommit (s : State) (c : CoreRef) (b : Block) : State :=
  let s := s.mapCore c (fun p =>
    let p := b.acts.foldl (fun p a => p.visible b a) p
    { p with fstat := p.fstat ||| b.flags.bits, noProgress := 0 })
  let s := b.acts.foldl (fun s a => s.outside c a) s
  let s := (b.acts.foldl (pushAct c) (s, ([] : Staged))).1
  let s := s.noteCommit c b
  let s := (s.mapCore c (fun p => p.afterCommit b)).pruneFences c
  let s := s.afterExit c b
  let s := b.acts.foldl (fun s a => s.commitCut c a) s
  if s.isCut c.lid c.pset then (s.stopCore c).queueMarkers c else s

/-- May the commit end: the second phase is over, and what it pushes may be pushed (R312, R334, R380)? -/
def State.mayFinish (s : State) (c : CoreRef) (b : Block) : Bool :=
  let p := s.core c
  b.phase == 2 && b.holds [] && !s.awaits c b.uid
    && (!b.pushesAny || (b.roomFor p && !s.heldNow c && !p.posted.any (fun q => q.rel)))

/-- The second half of a commit: effects as far as they go, then its end; a fault in it ends the launch (R334). -/
def State.goOn (s : State) (c : CoreRef) : State :=
  let s := s.performEffects c 40
  match (s.core c).blocks with
  | [] => s
  | b :: _ =>
    if b.fault.isSome then endLaunch s c 0x22 1
    else if s.mayFinish c b then s.finishCommit c b
    else s

/-- May the oldest block of a page core begin its commit (R248, R312, R334, R344)? -/
def State.mayCommit (s : State) (c : CoreRef) (b : Block) : Bool :=
  b.holds b.late && !s.awaits c b.uid && b.roomFor (s.core c) && b.enginesFor (s.core c)

/-- The oldest block of a page core commits, or its fault is taken (R197, R199, R248). -/
def State.commitBlock (s : State) (c : CoreRef) : State :=
  let p := s.core c
  match p.blocks with
  | [] => s
  | b :: _ =>
    if b.phase ≠ 0 then
      (if (s.place c.lid c.pset).any (fun q => !q.quiesced && !(s.die q.die).stopped) then s.goOn c else s)
    else if !s.runs c.lid c.pset || s.isCut c.lid c.pset || !s.chunkDue c then s
    else match p.deferred with
      | some d => takeTrap (s.setCore c { p with deferred := none }) c b.addr d.code (BitVec.ofNat 64 d.va) d.lsid true d.more
      | none =>
        match b.fault with
        | some f => takeTrap s c b.addr f.code f.val f.lsid false false
        | none => if s.mayCommit c b then (s.startCommit c).goOn c else s

/-- BLOCK_COMMIT (R248). -/
def execBlockCommit (core : CoreRef) (s : State) : Host.Outcome State Fault Refusal := .next (s.commitBlock core)

/-- DEFERRED_FAULT (R199): a fault of a committed access, a SECOND_WRITE, a time-out or a data error, arrives and is latched. -/
def execDeferredFault (core : CoreRef) (code va lsid : Nat) (s : State) : Host.Outcome State Fault Refusal :=
  .next (if (code = 7 ∨ code = 8 ∨ code = 0x0C) ∧ (s.place core.lid core.pset).isSome then latchFault s core code va lsid else s)

end Sys2Proof.Machine
end

