-- ==== Sys2Proof/Machine/Nodes.lean ====
section
/-! DEFINITION. Memory nodes, what reaches a bank, prune work, commit notices (R102 to R105, R128, R178 to R187, R234, R403, R407, R411). -/
namespace Sys2Proof.Machine

/-! ### The address generator -/

/-- Bytes of one element. -/
def MemNode.bytes (n : MemNode) : Nat := (min (fmtWidth n.fmt) 35 + 7) / 8
/-- Is every access one indivisible read and write (R182, R403)? -/
def MemNode.updates (n : MemNode) : Bool := n.cls == 2 || n.dir == 2
def MemNode.size (n : MemNode) : Nat := if n.updates then 4 else n.bytes

/-- The address of an element of an affine pattern (R234). -/
def patternAddr : List (Nat × Int) → Nat → Int
  | [], _ => 0
  | (n, st) :: r, e => (((e % n : Nat) : Int) * st) + patternAddr r (e / n)
def MemNode.total (n : MemNode) : Nat := n.levels.foldl (fun t (l : Nat × Int) => t * l.1) 1
def MemNode.addr (n : MemNode) (e : Nat) : Int := (n.start : Int) + patternAddr n.levels (e % max 1 n.total)

/-- Does an access lie in the declared range (R185, R234)? -/
def MemNode.inRange (n : MemNode) (va : Int) (len : Nat) : Bool := decide ((n.base : Int) ≤ va ∧ va + len ≤ (n.limit : Int) + 1)

/-- A node that raises a fault freezes (R201). -/
def State.freezeNode (s : State) (n : MemNode) (code chan ord : Nat) : State :=
  (s.updNode n.ref (fun n => { n with frozen := some code })).nodeFault n.ref.lid n.die code chan ord

/-- May a node act: its region and its own die run, it is not frozen and has not stopped for a cut (R18)? -/
def State.nodeLive (s : State) (n : MemNode) : Bool :=
  s.runs n.ref.lid n.pset && !(s.die n.die).stopped && n.frozen.isNone && !n.cutting

/-- Does a node read as the stream class allows: ahead of its token and in any order? Not while its launch is recorded (R182, R220). -/
def State.streams (s : State) (n : MemNode) : Bool := n.cls == 0 && n.dir == 0 && !s.recorded n.ref.lid

/-! ### Taking beats (R234, R403, R407) -/

/-- The elements of a beat: strand and rank; of a write every done token carries the beat's rank (R184). -/
def nodeItems (addrPat done : Bool) (b : Beat) : List (Strand × Nat) :=
  let top := b.foldl (fun r t => max r t.mrk.toNat) 0
  if addrPat then [(bstrand b 2, top)]
  else
    let ts : List Strand := if hkind b = 1 then (List.range (hdrNval (bstrand b 0).image)).map (fun i => bstrand b (i + 1))
      else b.filter (fun t => t.v)
    ts.zipIdx.map (fun (e : Strand × Nat) => (e.1, if done || e.2 + 1 = ts.length then top else 0))

/-- The code of an element in the node's format (R114). -/
def nodeCode (h : Chan) (f : Nat) (t : Strand) : Nat :=
  (convertLane t.image h.fmt f h.scale).v.toNat % 2 ^ min (fmtWidth f) 35

/-- The operand of an access: an ordered update takes strand 2 as it stands, other nodes convert (R182, R403). -/
def MemNode.operand (n : MemNode) (h : Chan) (t : Strand) : Img :=
  if n.cls = 2 then ⟨BitVec.ofNat 64 t.pay, false⟩ else ⟨BitVec.ofNat 64 (nodeCode h n.fmt t), false⟩

/-- The prefix that a node forwards (R309, R407). -/
def forwardedPrefix (g : SegId) : Beat := mkPrefix { g with length := lengthEt, sdexp := 0, sdcnt := 0 }

/-- Queues one access; the forwarded prefix goes ahead of a segment's first one. -/
def MemNode.queueOp (n : MemNode) (h : Chan) (va rank : Nat) (data : Option Img) : MemNode :=
  let due := n.due.contains h.num
  let key := if n.addrPat then va else n.pos
  let pre : List NodeOp := match due, h.cur with
    | true, some g => [{ elem := n.pos, va := 0, status := 2, beat := some (forwardedPrefix g) }]
    | _, _ => []
  { n with
    pos := n.pos + 1, due := if due then n.due.erase h.num else n.due
    ops := n.ops ++ pre ++ [{ elem := n.pos, va := va, rank := rank, seg := h.cur, data := data, chan := h.num, ord := h.ordinal
                              status := if (kget key n.ahead).isSome then 2 else 0
                              result := (kget key n.ahead).map (fun c => ⟨BitVec.ofNat 64 c, false⟩)
                              parts := (va % 8 + n.bytes - 1) / 8 + 1 }]
    ahead := n.ahead.filter (fun (a : Nat × Nat) => a.1 != key) }

/-- Takes the elements of a beat, one access each; the first one outside the range faults (R185). -/
def State.queueItems (s : State) (r : NodeRef) (h : Chan) (b : Beat) : List (Strand × Nat) → State
  | [] => s
  | (t, rank) :: rest =>
    match s.nodeAt r with
    | none => s
    | some n =>
      let va : Int := if n.addrPat then ((bstrand b 1).pay : Int) else n.addr n.pos
      if !n.inRange va n.size then s.freezeNode n 0x8A h.num h.ordinal
      else (s.updNode r (fun n => n.queueOp h va.toNat rank (if n.dir = 0 then none else some (n.operand h t)))).queueItems r h b rest

/-- A standalone marker passes a read node in its turn. -/
def MemNode.queueMarker (n : MemNode) (h : Chan) (b : Beat) : MemNode :=
  if n.dir = 0 ∧ !beatEmpty b then { n with ops := n.ops ++ [{ elem := n.pos, va := 0, seg := h.cur, status := 2, beat := some b }] } else n

/-- A node takes a prefix: a closing one drops what it has not performed of the segment (R99, R407). -/
def MemNode.takePrefix (n : MemNode) (h : Chan) (closes : Bool) (g : SegId) : MemNode :=
  if closes then
    let sent := !n.due.contains h.num
    { n with
      due := n.due.erase h.num
      ops := (n.ops.map (fun o => if o.beat.isNone && o.status == 0 && o.chan == h.num && o.seg.any (fun c => c.same g) then
            { o with status := 2, dead := true } else o))
          ++ (if sent then [{ elem := n.pos, va := 0, status := 2, beat := some (closePrefix g) }] else []) }
  else { n with due := if n.due.contains h.num then n.due else n.due ++ [h.num] }

/-- The segment closes on an input: words left part-way are written (R178). -/
def MemNode.flushSegment (n : MemNode) (num : Nat) : MemNode :=
  { n with ops := n.ops.map (fun o => if o.chan == num && o.beat.isNone then { o with flush := true } else o) }

/-- The node takes the beat at the head of channel i. -/
def State.nodeTake (s : State) (n : MemNode) (i : Nat) (q : QBeat) : State :=
  let s := s.take i
  let h := s.chanAt i
  if hkind q.beat = 2 then s.updNode n.ref (fun n => n.takePrefix h q.closes (prefixOf q.beat))
  else
    let items := nodeItems n.addrPat (n.dir == 1) q.beat
    let s := if (if n.addrPat then (bstrand q.beat 1).v else !items.isEmpty) then s.queueItems n.ref h q.beat items
      else s.updNode n.ref (fun n => n.queueMarker h q.beat)
    if q.closes then s.updNode n.ref (fun n => n.flushSegment h.num) else s

/-- The input that the node takes from next: the beat that arrived first, among those that a prune does not hold (R105). -/
def State.nodeHead (s : State) (n : MemNode) : Option (Nat × QBeat) :=
  let heldLane (g : Option SegId) : Bool := g.any (fun g => !g.nolane && n.prunes.any (fun e => e.lane == g.lane && n.scan.contains e.serial))
  let heads := (s.nodeIns n.ref).filterMap (fun i => (s.first i).bind (fun q =>
    if hkind q.beat = 3 ∨ n.dormIn.contains i ∨ heldLane (s.chanAt i).cur then none else some (i, q)))
  match heads with
  | [] => none
  | a :: r => some (r.foldl (fun (m e : Nat × QBeat) => if e.2.stamp < m.2.stamp then e else m) a)

/-- Takes what stands on the inputs. -/
def State.nodeInputs (s : State) (r : NodeRef) : Nat → State
  | 0 => s
  | fuel + 1 =>
    match s.nodeAt r with
    | none => s
    | some n =>
      if !s.nodeLive n || n.bt then s
      else match s.nodeHead n with
        | some (i, q) => (s.nodeTake n i q).nodeInputs r fuel
        | none => s

/-! ### Nodes without an input (R128, R398, R411) -/

def noLaneSeg (len : Nat) : SegId := { nolane := true, length := len, endrank := 3 }

/-- The next element of an affine pattern that runs once in a configuration period; a node that is cut begins none (R204, R411). -/
def State.nodeSource (s : State) (n : MemNode) : State :=
  if !n.armed || n.emitted || n.dir != 0 || n.addrPat || s.isCut n.ref.lid n.pset || !(s.nodeIns n.ref).isEmpty || decide (64 ≤ n.ops.length) then s
  else
    let va := n.addr n.pos
    if !n.inRange va n.size then s.freezeNode n 0x8A 0 0
    else
      let last := decide (n.total ≤ n.pos + 1)
      let pre : List NodeOp := if n.pos = 0 then
        [{ elem := 0, va := 0, status := 2, beat := some (mkPrefix (noLaneSeg (min n.total lengthEt))) }] else []
      s.updNode n.ref (fun n => { n with
        pos := n.pos + 1, emitted := last
        ops := n.ops ++ pre ++ [{ elem := n.pos, va := va.toNat, rank := if lengthEt ≤ n.total ∧ last then 3 else 0 }] })

/-- A tagged beat of a block table. -/
def tagBeat (c : Nat) : Beat := beatOf [strandH (5 * 2 ^ 32 + c % 2 ^ 32)]

/-- The words of a block table: its translated run, none while a word is absent. -/
def State.tableWords (s : State) (n : MemNode) (k : Nat) : Except Nat (Option (List Nat)) :=
  if !n.inRange n.start (4 * k) then .error 0x8A
  else match spanOf s n.tlb (s.asidOf n.ref.lid) n.start (4 * k) { wr := false, rd := true, sup := false } with
    | .error f => .error (if f.code = 4 then 0x8B else 0x8C)
    | .ok sp =>
      if spanAttr sp = 2 then .error 0x8C
      else if spanAbsent s sp || !s.banksRun sp then .ok none
      else if s.eccBad (spanPas sp) then .error 0x8F
      else
        let bs := readSpan s sp
        .ok (some ((List.range k).map (fun i => leNat ((bs.drop (4 * i)).take 4))))

/-- A block-table reader emits its table. How many blocks a word 0 above 65,535 stands for is not stated: it is free (R128, log 82). -/
def State.nodeTable (s : State) (n : MemNode) : State :=
  if !n.armed || n.emitted || s.isCut n.ref.lid n.pset then s
  else match s.tableWords n 1 with
    | .error code => s.freezeNode n code 0 0
    | .ok none => s
    | .ok (some w) =>
      let big := decide (2 ^ 16 ≤ w.headD 0)
      match s.tableWords n ((if big then s.freeAt 0 else w.headD 0) % 2 ^ 16 + 1) with
      | .error code => s.freezeNode n code 0 0
      | .ok none => s
      | .ok (some ws) =>
        let beats := mkPrefix (noLaneSeg (ws.length - 1)) :: ws.tail.map tagBeat
        ((if big then s.useFree 1 else s).virtMeet n.tlb (s.asidOf n.ref.lid) n.start (4 * ws.length) false).updNode n.ref (fun n => { n with
          emitted := true, ops := n.ops ++ beats.map (fun b => ({ elem := 0, va := 0, status := 2, beat := some b } : NodeOp)) })

/-! ### Performing an access (R178 to R187) -/

/-- The writer that a memory node's access is. -/
def nodeWriter (n : MemNode) (e : Nat) : Writer := { lid := n.ref.lid, pset := n.pset, node := some n.ref, who := .node n.ref e }

def State.updOp (s : State) (r : NodeRef) (e : Nat) (f : NodeOp → NodeOp) : State :=
  s.updNode r (fun n => { n with ops := n.ops.map (fun o => if o.elem = e ∧ o.beat.isNone then f o else o) })

/-- Do two accesses of a node touch one 8-byte word? -/
def opsMeet (n : MemNode) (a b : NodeOp) : Bool :=
  decide (a.va / 8 ≤ (b.va + n.size - 1) / 8 ∧ b.va / 8 ≤ (a.va + n.size - 1) / 8)

/-- May an access be performed now: every earlier one of the node to its word has been, no prune holds its lane? -/
def State.opFree (s : State) (n : MemNode) (o : NodeOp) : Bool :=
  (s.streams n || (n.ops.takeWhile (fun p => p.elem != o.elem || p.beat.isSome)).all (fun p =>
    p.beat.isSome || p.status == 2 || !opsMeet n p o))
    && !o.seg.any (fun g => !g.nolane && n.prunes.any (fun e => e.lane == g.lane && n.scan.contains e.serial))

/-- What stops an access of a G page: its lane (R102). -/
def opLaneBad (o : NodeOp) (sp : Span) : Bool :=
  spanAttr sp == 2 && !(o.seg.any (fun g => !g.nolane && g.lane == spanLane sp))

def NodeOp.gen (o : NodeOp) : Nat := (o.seg.map (fun g => g.gen)).getD 0

/-- A read reaches its bank; one that promises invariance returns any value that its word has held (R186). -/
def State.nodeRead (s : State) (n : MemNode) (o : NodeOp) (sp : Span) : State :=
  let g := spanAttr sp == 2
  if g && deadBy n.prunes (spanLane sp) o.gen then s.updOp n.ref o.elem (fun o => { o with status := 2, dead := true })
  else if spanAbsent s sp || (g && s.held.any (fun w => w.lane == spanLane sp && sp.any (fun r => r.1.pa / 64 == w.line))) then
    { s.updOp n.ref o.elem (fun o => { o with status := 1 }) with
      deferred := s.deferred ++ [{ who := .node n.ref o.elem, span := sp, lane := spanLane sp, gen := o.gen, gpage := g }] }
  else if s.eccBad (spanPas sp) then (s.eccMeet (spanPas sp)).freezeNode n 0x8F o.chan o.ord
  else
    let bs := readSpan s sp
    let old := n.inv && !s.recorded n.ref.lid
    let v := leNat (if old then s.invariant n.ref.lid n.pset sp bs else bs)
    (((if old then s.useFree 1 else s).eccMeet (spanPas sp)).askSpan sp).updOp n.ref o.elem (fun o =>
      { o with status := 2, result := some ⟨BitVec.ofNat 64 v, false⟩ })

/-- Writes bytes for one access, or for those that share a word; `done` says what becomes of each. The first SECOND_WRITE, or an uncorrectable error,
freezes the node (R201). -/
def State.nodeStore (s : State) (n : MemNode) (o : NodeOp) (sp : Span) (bs : List Byte) (all : List Nat) (done : NodeOp → NodeOp) : State :=
  let s' := s.eccMeet (spanPas sp)
  if s.eccBad (spanPas sp) then s'.freezeNode n 0x8F o.chan o.ord
  else
    let (s, second, held) := s'.writeSpan (nodeWriter n o.elem) o.gen sp bs
    let s := all.foldl (fun s e => s.updOp n.ref e done) s
    let s := if held then s.updOp n.ref o.elem (fun o => { o with status := 1 }) else s
    if second.isSome then s.freezeNode n 0x8D o.chan o.ord else s

/-- The accesses that coalesce into a word of a WO page, and the word's bytes where they give them (R178). -/
def wordOps (n : MemNode) (o : NodeOp) (w : Nat) : List NodeOp :=
  n.ops.filter (fun p => p.beat.isNone && p.status == 0 && decide (p.seg = o.seg) && !p.words.contains w
    && decide (p.va / 8 ≤ w ∧ w ≤ (p.va + n.bytes - 1) / 8))
def wordByte (n : MemNode) (os : List NodeOp) (w : Nat) (i : Nat) : Option Byte :=
  (os.reverse.find? (fun p => decide (p.va ≤ 8 * w + i ∧ 8 * w + i < p.va + n.bytes))).map (fun p =>
    BitVec.ofNat 8 ((p.data.getD {}).v.toNat / 256 ^ (8 * w + i - p.va)))

/-- The translated run of a word that a span touches. -/
def wordSpan (sp : Span) (w : Nat) : Option Xlat :=
  (sp.find? (fun r => decide (r.1.va / 8 ≤ w ∧ w ≤ (r.1.va + r.2 - 1) / 8))).map (fun r =>
    { r.1 with va := 8 * w, pa := r.1.pa / 8 * 8 + 8 * (w - r.1.va / 8) })

/-- One word of a WO page is written, once it is whole or its segment has closed. -/
def State.nodeWord (s : State) (r : NodeRef) (elem : Nat) (sp : Span) (w : Nat) : State :=
  match (s.nodeAt r).bind (fun n => (n.ops.find? (fun o => o.elem == elem && o.beat.isNone)).map (fun o => (n, o))), wordSpan sp w with
  | some (n, o), some x =>
    let os := wordOps n o w
    let bs := (List.range 8).map (wordByte n os w)
    if o.status = 0 ∧ !o.words.contains w ∧ n.frozen.isNone ∧ (bs.all (fun b => b.isSome) || os.any (fun p => p.flush)) then
      s.nodeStore n o [(x, 8)] (bs.map (fun b => b.getD 0)) (os.map (fun p => p.elem)) (fun p =>
        { p with words := w :: p.words, status := if p.words.length + 1 < p.parts then 0 else 2 })
    else s
  | _, _ => s

/-- A write reaches its bank: on a WO page word by word. -/
def State.nodeWrite (s : State) (n : MemNode) (o : NodeOp) (sp : Span) : State :=
  if spanAttr sp = 0 then s.nodeStore n o sp (leBytes n.bytes (o.data.getD {}).v.toNat) [o.elem] (fun o => { o with status := 2 })
  else (List.range o.parts).foldl (fun s k => s.nodeWord n.ref o.elem sp (o.va / 8 + k)) s

/-- An update at the bank's port (R187, R403). -/
def State.nodeUpdate (s : State) (n : MemNode) (o : NodeOp) (sp : Span) : State :=
  let who := n.die % 32 * 2 ^ 15 + n.ref.node % 256
  match sp with
  | (x, _) :: _ =>
    if !s.updateDue n.ref.lid who x.pa then s
    else if s.eccBad (spanPas sp) then (s.eccMeet (spanPas sp)).freezeNode n 0x8F o.chan o.ord
    else
      let (s, v, _) := ((s.eccMeet (spanPas sp)).noteUpdate n.ref.lid who x.pa).atomicAt x.pa { op := n.op, width := 4, x := o.data.getD {}, y := {} }
      s.updOp n.ref o.elem (fun o => { o with status := 2, result := some v })
  | [] => s

/-- Performs the access of an element. -/
def State.performOp (s : State) (n : MemNode) (o : NodeOp) : State :=
  let k : AccKind := { wr := n.dir != 0, rd := n.dir != 1, sup := false, atomic := n.updates }
  match spanOf s n.tlb (s.asidOf n.ref.lid) o.va n.size k with
  | .error f => s.freezeNode n (if f.code = 4 then 0x8B else 0x8C) o.chan o.ord
  | .ok sp =>
    if !s.banksRun sp then s
    else if (n.updates && spanAttr sp != 0) || opLaneBad o sp then s.freezeNode n 0x8C o.chan o.ord
    else if n.updates then s.nodeUpdate n o sp
    else if n.dir = 0 then s.nodeRead n o sp
    else s.nodeWrite n o sp

/-- A stream node reads ahead of its token: an element of an affine pattern, or an address of its range; data with an uncorrectable error is not kept
(R182, R223). -/
def State.readAhead (s : State) (n : MemNode) (e : Nat) : State :=
  let va : Int := if n.addrPat then (e : Int) else n.addr e
  if !s.streams n || !n.armed || s.isCut n.ref.lid n.pset || (!n.addrPat && decide (e < n.pos)) || !n.inRange va n.size then s
  else match spanOf s n.tlb (s.asidOf n.ref.lid) va.toNat n.size { wr := false, rd := true, sup := false } with
    | .error _ => s
    | .ok sp =>
      if spanAttr sp = 2 ∨ spanAbsent s sp ∨ !s.banksRun sp then s
      else if s.eccBad (spanPas sp) then s.eccMeet (spanPas sp)
      else ((s.eccMeet (spanPas sp)).askSpan sp).updNode n.ref (fun n => { n with ahead := kset e (leNat (readSpan s sp)) n.ahead })

/-! ### Results in element order -/

/-- The beat that a performed access places on an output (R184, R403, R407). -/
def nodeBeat (n : MemNode) (h : Chan) (o : NodeOp) : Option Beat :=
  match o.beat with
  | some b => some b
  | none =>
    if o.dead then (match n.dir, o.seg with
      | 0, some g => some (mkDeadBeat g.lane g.gen)
      | _, _ => none)
    else
      let code := (o.result.getD {}).v.toNat
      let v : Img := if n.dir = 1 then {} else if n.updates then ⟨BitVec.ofNat 64 (code % 2 ^ 32), false⟩
        else placeLane (codeLane n.fmt (code % 2 ^ min (fmtWidth n.fmt) 35) false) n.fmt h.fmt
      some (if h.record then mkRecord (mkHeader 0 0 1 false 0) o.rank [v] else beatOf [{}, strandV o.rank v])

/-- Sends the results that stand first, while the outputs have room. -/
def State.nodeEmit (s : State) (r : NodeRef) : Nat → State
  | 0 => s
  | fuel + 1 =>
    match s.nodeAt r with
    | none => s
    | some n => match n.ops with
      | [] => s
      | o :: rest =>
        let outs := s.nodeOuts r
        if o.status ≠ 2 ∨ !outs.all (fun i => s.room i 1 (s.chanAt i).ctx) then s
        else
          let s := s.updNode r (fun n => { n with ops := rest, noProgress := 0 })
          let s := outs.foldl (fun s i => match nodeBeat n (s.chanAt i) o with
            | some b => s.push i b (s.chanAt i).ctx
            | none => s) s
          s.nodeEmit r fuel

/-- A memory node acts: what stands on its inputs is taken, the access of an element is performed, and results leave. -/
def State.nodeStep (s : State) (r : NodeRef) (e : Nat) : State :=
  match s.nodeAt r with
  | none => s
  | some n0 =>
    let s := if !s.nodeLive n0 then s
      else
        let s := s.nodeInputs r 64
        let s := match s.nodeAt r with
          | some n => if n.bt then s.nodeTable n else s.nodeSource n
          | none => s
        match s.nodeAt r with
        | none => s
        | some n =>
          if !s.nodeLive n then s
          else match n.ops.find? (fun o => o.elem == e && o.beat.isNone) with
            | some o => if o.status = 0 ∧ s.opFree n o then s.performOp n o else s
            | none => s.readAhead n e
    (s.nodeEmit r 64).tryStopNode r

/-- BANK_ACCESS (R178): an access of a page core or of a memory node reaches its bank, or a held line is decided again. -/
def execBankAccess (req : BankReq) (s : State) : Host.Outcome State Fault Refusal :=
  match req with
  | .core c seq => .next (s.corePosted c seq)
  | .node n e => .next (s.nodeStep n e)
  | .held line => .next (s.retryHeld line)

/-! ### Prunes at a memory node (R99, R105) -/

/-- A prune arrives at a node: its entry is installed, what is dead and has not left is answered dead, and its work waits. -/
def State.pruneNode (s : State) (n : MemNode) (b : Beat) : State :=
  let e : PruneEnt := { lane := beatLane b, lo := beatLo b, hi := beatHi b, serial := beatSerial b }
  let dead := segDead [e]
  let s := s.updNode n.ref (fun n => { n with
    prunes := n.prunes ++ [e], scan := n.scan ++ [e.serial]
    ops := n.ops.map (fun o => if o.beat.isNone && o.status != 1 && o.seg.any dead then { o with status := 2, dead := true } else o) })
  let s := (s.nodeIns n.ref).foldl (fun s i => s.updChan i (fun h => h.purge dead)) s
  (s.nodeOuts n.ref).foldl (fun s i => s.push i b (s.chanAt i).ctx) s

/-- Does an access belong to the cluster of a node: its own, or a page core's that it serves? -/
def servedBy (n : MemNode) (w : Waiter) : Bool :=
  match w with
  | .node r _ => decide (r = n.ref)
  | .core c _ _ _ => c.lid == n.ref.lid && c.pset == n.pset
  | .engine c _ => c.lid == n.ref.lid && c.pset == n.pset

/-- Tills a virtual line as TILLG does: only on a G page of the lane whose recorded generation is dead. -/
def State.tillVirtual (s : State) (n : MemNode) (e : PruneEnt) (line : Nat) : State :=
  match xlate s n.tlb (s.asidOf n.ref.lid) (64 * line) { wr := false, rd := false, sup := true } with
  | .error _ => s
  | .ok x =>
    if x.attr = 2 ∧ x.lane = e.lane ∧ deadIn (s.line (x.pa / 64)).gen e.lo e.hi then s.tillLine (x.pa / 64) else s

/-- The held writes of dead generations of the lane are dropped (R105). -/
def State.dropLate (s : State) (n : MemNode) (e : PruneEnt) : State :=
  let hit (w : HeldWrite) : Bool := w.lane == e.lane && deadIn w.gen e.lo e.hi && servedBy n w.who
  let gone := s.held.filter hit
  let s := { s with held := s.held.filter (fun w => !hit w) }
  gone.foldl (fun s w => match w.who with
    | .core c seq _ _ => if s.held.any (fun v => decide (v.who = w.who)) then s
        else s.mapCore c (fun p => { p with posted := p.posted.filter (fun q => q.seq != seq || !q.atBank) })
    | .node r el => s.updOp r el (fun o => { o with status := 2, dead := true })
    | .engine _ _ => s) s

/-- The prune work of one entry (R105). -/
def State.pruneWork (s : State) (n : MemNode) (e : PruneEnt) : State :=
  let s := (s.dropLate n e).answerDead e.lane (fun g => deadIn g e.lo e.hi) (servedBy n)
  let listed := n.recent.filter (fun (w : Nat × Nat × Nat) => w.1 == e.lane && deadIn w.2.2 e.lo e.hi)
  let s := listed.foldl (fun s (w : Nat × Nat × Nat) => s.tillVirtual n e w.2.1) s
  let s := (n.overflow.filter (fun (o : Nat × Nat × Nat × Nat) => o.1 == e.lane)).foldl (fun s (o : Nat × Nat × Nat × Nat) =>
    (List.range (o.2.2.1 + 1 - o.2.1)).foldl (fun s k => s.tillVirtual n e (o.2.1 + k)) s) s
  s.updNode n.ref (fun n => { n with
    recent := n.recent.filter (fun (w : Nat × Nat × Nat) => !(w.1 == e.lane && deadIn w.2.2 e.lo e.hi)), scan := n.scan.erase e.serial })

/-- The prune work of a node is finished: accesses go on, and the drains that waited for it are reported. -/
def State.finishScan (s : State) (r : NodeRef) : State :=
  match s.nodeAt r with
  | none => s
  | some n =>
    if (s.die n.die).stopped then s else
    let s := (n.prunes.filter (fun e => n.scan.contains e.serial)).foldl (fun s e => s.pruneWork n e) s
    let s := n.drains.foldl (fun s d => match n.prunes.find? (fun e => e.serial == d) with
      | some e => s.reportDrain r.lid n.pset e.lane d
      | none => s) s
    s.updNode r (fun n => { n with drains := [], scan := [] })

/-- MEMNODE_PRUNE_SCAN (R105). -/
def execMemnodePruneScan (node : NodeRef) (s : State) : Host.Outcome State Fault Refusal := .next (s.finishScan node)

/-- A drain marker has arrived on every input of a node: it leaves in its turn, and is reported once the prune work is done (R99, R101). -/
def State.drainNode (s : State) (n : MemNode) (b : Beat) : State :=
  let s := s.updNode n.ref (fun n => { n with ops := n.ops ++ [{ elem := n.pos, va := 0, status := 2, beat := some b }] })
  let s := if n.scan.contains (beatSerial b) then s.updNode n.ref (fun n => { n with drains := n.drains ++ [beatSerial b] })
    else s.reportDrain n.ref.lid n.pset (beatLane b) (beatSerial b)
  s.nodeEmit n.ref 64

/-! ### Commit notices (R102, R105) -/

/-- Has the latest committed generation reached this one? -/
def reached (cg g : Nat) : Bool := cg == g || precedes g cg

/-- A node takes a commit notice: committed writes leave the recent-write list, a reached overflow interval clears. -/
def MemNode.commit (n : MemNode) (lane gen : Nat) : MemNode :=
  { n with
    cg := kset lane gen n.cg, recent := n.recent.filter (fun (w : Nat × Nat × Nat) => !(w.1 == lane && reached gen w.2.2))
    overflow := n.overflow.filter (fun (o : Nat × Nat × Nat × Nat) => !(o.1 == lane && reached gen o.2.2.2)) }

/-- What a receiver does with a commit notice: an egress node may release segments. -/
def State.applyNotice (s : State) (lane gen : Nat) : NoticeTo → State
  | .egress lid num => match s.chanNo lid num with
    | some i => (fillSink (s.updChan i (fun h => { h with cg := kset lane gen h.cg }.release)) i 16).sendRemote i
    | none => s
  | .node r => s.updNode r (fun n => n.commit lane gen)

/-- Takes a commit notice, in order, from those on their way. -/
def State.takeNotice (s : State) (dest : NoticeTo) (lane gen : Nat) : State :=
  let sp := s.sprout (lane / 64)
  match sp.notices.find? (fun (n : NoticeTo × Nat × Nat) => decide (n.1 = dest) && n.2.1 == lane) with
  | none => s
  | some n =>
    if n.2.2 ≠ gen then s
    else (s.setSprout (lane / 64) { sp with notices := sp.notices.erase n }).applyNotice lane gen dest

/-- COMMIT_NOTICE (R102). -/
def execCommitNotice (dest : NoticeTo) (lane gen : Nat) (s : State) : Host.Outcome State Fault Refusal :=
  .next (s.takeNotice dest lane gen)

end Sys2Proof.Machine
end

