-- ==== Sys2Proof/Machine/Foragers.lean ====
section
/-! DEFINITION. The forager: its loop, its statistics, its lottery (R132 to R143, R402). -/
namespace Sys2Proof.Machine

def State.foragerFor (s : State) (p : PageRef) (ctx : Nat) : Option Forager := s.foragers.find? (fun g => decide (g.page = p) && g.ctx == ctx)

/-- The channels of a forager port (R402): 0 entry and 3 ring in; 1 exit, 2 reject, 8 + k stage k out. -/
def State.fgIn (s : State) (g : Forager) (port : Nat) : Option Nat :=
  (s.chanIdx (fun h => h.lid == g.page.lid && h.dstPset == g.page.pset && h.ctx == g.ctx
    && decide (h.dst = .forager g.page.px g.page.py port))).head?
def State.fgOut (s : State) (g : Forager) (port : Nat) : List Nat :=
  s.chanIdx (fun h => h.lid == g.page.lid && h.srcPset == g.page.pset && h.ctx == g.ctx
    && h.srcs.contains (.forager g.page.px g.page.py port))

def State.fgRoom (s : State) (g : Forager) (port : Nat) : Bool := (s.fgOut g port).all (fun i => s.room i 1 g.ctx)
def State.fgSend (s : State) (g : Forager) (port : Nat) (b : Beat) : State :=
  s.pushAll (s.fgOut g port) b [.forager g.page.px g.page.py port]

def State.updFg (s : State) (g : Forager) (f : Forager → Forager) : State := s.updForager g.page g.ctx f

/-! ### Eligibility and the draw (R133, R138) -/

def stageDone (done : Nat) (k : Nat) : Bool := done.testBit k

/-- Is a stage eligible for a record with these done-bits (R133)? -/
def Forager.eligible (g : Forager) (done k : Nat) : Bool :=
  match g.stages[k]? with
  | none => false
  | some t =>
    !stageDone done k && (t.pure_ || (g.stages.zipIdx.all (fun (e : Stage × Nat) =>
      stageDone done e.2 || (!e.1.pure_ && decide (t.cls ≤ e.1.cls)
        && (e.1.cls != t.cls || decide (k ≤ e.2) || (e.1.comm && t.comm))))))

/-- One step of the LFSR. -/
def lfsrStep (v : Word) : Word := if v.getLsbD 0 then (v >>> 1) ^^^ 0x80200003 else v >>> 1

/-- The weight of a stage. -/
def State.fgWeight (s : State) (g : Forager) (k : Nat) : Nat :=
  match s.fgOut g (8 + k) with
  | i :: _ => if s.room i 1 g.ctx then ((g.stages[k]?).map (fun t => t.rej)).getD 0 * ((s.chanAt i).slots - (s.chanAt i).load g.ctx) else 0
  | [] => 0

/-- The lowest stage at which the running sum of weights passes x. -/
def drawStage (x : Nat) : Nat → List (Nat × Nat) → Option Nat
  | _, [] => none
  | sum, (k, w) :: r => if x < sum + w then some k else drawStage x (sum + w) r

/-- The stage that a record goes to, and the LFSR after the draw; none: it waits (R138). -/
def State.fgChoose (s : State) (g : Forager) (done : Nat) : Option (Nat × Word) :=
  let el := (List.range g.stages.length).filter (g.eligible done)
  let ws := el.map (fun k => (k, s.fgWeight g k))
  let total := ws.foldl (fun t (w : Nat × Nat) => t + w.2) 0
  if total = 0 then
    (el.find? (fun k => s.fgRoom g (8 + k) && !(s.fgOut g (8 + k)).isEmpty)).map (fun k => (k, g.lfsr))
  else
    let l := lfsrStep g.lfsr
    (drawStage (l.toNat * total / 2 ^ 32) 0 ws).map (fun k => (k, l))

/-! ### Statistics (R137) -/

/-- The estimates at a window's boundary. -/
def Stage.boundary (t : Stage) : Stage :=
  { t with rej := if 0 < t.inn then min 255 (256 * (t.inn - t.pass) / t.inn) else t.rej, inn := 0, pass := 0 }

/-- A record is admitted; the W-th one ends the window. -/
def Forager.letIn (g : Forager) : Forager :=
  if g.admitted + 1 = g.window then { g with admitted := 0, stages := g.stages.map Stage.boundary }
  else { g with admitted := g.admitted + 1 }

/-- A record has returned from a stage. -/
def Forager.count (g : Forager) (k : Nat) (passed : Bool) : Forager :=
  { g with stages := setAt g.stages k (fun t => { t with inn := t.inn + 1, pass := if passed then t.pass + 1 else t.pass }) }

/-! ### Prunes (R140) -/

/-- Is a prune of the segment's lane out among the stages? -/
def Forager.pruning (g : Forager) (seg : Option SegId) : Bool :=
  seg.any (fun c => !c.nolane && g.prunes.any (fun e => e.lane == c.lane
    && !(List.range g.stages.length).all (fun k => g.returned.contains (e.serial, k))))

/-! ### Decisions (R134 to R136) -/

/-- A record with its header changed, and its marker cleared: also in one that is not admitted, of which R136 says nothing (DESIGN CHOICE, log 102). -/
def withDone (b : Beat) (done : Nat) (rej : Bool) : Beat :=
  let h := (bstrand b 0).image
  setAt b 0 (fun _ => ({ v := false, mrk := 0, img := (mkHeader done (h.v.toNat / 2 ^ 16) (hdrNval h) rej (h.v.toNat / 2 ^ 8)).bits36 } : Strand))

/-- All declared done-bits. -/
def Forager.allDone (g : Forager) : Nat := 2 ^ g.stages.length - 1

/-- The forager freezes on the beat at the head of channel i (R143). -/
def State.fgFault (s : State) (g : Forager) (i code : Nat) : State :=
  let h := s.chanAt i
  (s.updFg g (fun g => { g with frozen := some code })).elemFault g.page.lid g.page.pset (4 * g.page.px) (4 * g.page.py) code h.num
    (h.ordinal + 1)

/-- Is a beat neither a record nor markers alone nor a prefix nor a control beat (R143)? -/
def fgBad (b : Beat) : Bool := hkind b == 4 || hkind b == 5 || (hkind b == 0 && b.any (fun t => t.v))

/-- Sends a record on: to the exit when every declared bit is set, else to a stage; none while it must wait. -/
def State.fgRoute (s : State) (g : Forager) (b : Beat) (done : Nat) (stageOk : Bool) : Option State :=
  if done &&& g.allDone = g.allDone then
    if s.fgRoom g 1 then some (s.fgSend g 1 (withDone b done false)) else none
  else if !stageOk then none
  else match s.fgChoose g done with
    | none => none
    | some (k, l) =>
      some ((s.updFg g (fun g => { g with lfsr := l, inLoop := g.inLoop ++ [(k, BitVec.ofNat 8 done)] })).fgSend g (8 + k) (withDone b done false))

/-- The forager decides the head of its ring; none: it keeps its place. The spec does not say which sent record a returned one is compared with: any
that was sent to its stage with the same other DONE bits (R135, DESIGN CHOICE, log 102). -/
def State.fgRing (s : State) (g : Forager) : Option State :=
  match s.fgIn g 3 with
  | none => none
  | some i => match s.first i with
    | none => none
    | some q =>
      let b := q.beat
      let k := q.entry
      if hkind b = 3 then none
      else if fgBad b then some (s.fgFault g i 0x80)
      else if hkind b ≠ 1 then some (s.take i)
      else
        let h := (bstrand b 0).image
        let bit := 2 ^ k
        match g.stages[k]?, g.inLoop.find? (fun (e : Nat × BitVec 8) => e.1 == k && (e.2.toNat ||| bit) == (hdrDone h ||| bit)) with
        | some _, some ent =>
          let g' : Forager := { g with inLoop := g.inLoop.erase ent }
          if g.seg.any (segDead g.prunes) then some ((s.take i).updFg g (fun g => { g with inLoop := g.inLoop.erase ent }))
          else if hdrRej h then
            if s.fgRoom g 2 then
              some (((s.take i).updFg g (fun _ => g'.count k false)).fgSend g 2 (withDone b (hdrDone h) true))
            else none
          else
            let g' := g'.count k true
            match ((s.take i).updFg g (fun _ => g')).fgRoute g' b (hdrDone h ||| bit) (!g.pruning g.seg) with
            | some s => some s
            | none => none
        | _, _ => some (s.fgFault g i 0x85)

/-- Slots of the return ring. -/
def State.ringSlots (s : State) (g : Forager) : Nat := ((s.fgIn g 3).map (fun i => (s.chanAt i).slots)).getD 0

/-- The forager decides the head of its entry link; none: it keeps its place. A record that enters with every declared bit set goes to the exit and is
not counted as admitted, which the spec leaves open (R135, R137, DESIGN CHOICE, log 102). An empty segment of ENDRANK 0 closes with its prefix
(R116, R136). -/
def State.fgEntry (s : State) (g : Forager) : Option State :=
  match s.fgIn g 0 with
  | none => none
  | some i => match s.first i with
    | none => none
    | some q =>
      let b := q.beat
      let shut (s : State) : State := if q.closes then s.updFg g (fun g => { g with segClosed := true }) else s
      if hkind b = 3 then none
      else if fgBad b then some (s.fgFault g i 0x80)
      else if hkind b = 2 then
        if q.closes then some ((s.take i).updFg g (fun g => { g with segClosed := true, killed := true }))
        else if g.seg.isSome ∨ !g.inLoop.isEmpty ∨ !s.fgRoom g 1 ∨ !s.fgRoom g 2 then none
        else
          let c := prefixOf b
          let p := forwardedPrefix c
          let s := (s.take i).updFg g (fun g => { g with seg := some c, segClosed := c.length == 0 && c.endrank == 0, killed := false })
          some ((s.fgSend g 1 p).fgSend g 2 p)
      else if hkind b ≠ 1 then some (shut (s.take i))
      else
        let h := (bstrand b 0).image
        if hdrRej h then
          if s.fgRoom g 2 then some (shut ((s.take i).fgSend g 2 (withDone b (hdrDone h) true))) else none
        else if g.allDone < hdrDone h then some (s.fgFault g i 0x84)
        else if hdrDone h = g.allDone then
          if s.fgRoom g 1 then some (shut ((s.take i).fgSend g 1 (withDone b (hdrDone h) false))) else none
        else if g.draining ∨ g.pruning g.seg ∨ s.ringSlots g ≤ g.inLoop.length ∨ (g.ordered ∧ !g.inLoop.isEmpty) then none
        else match (s.take i).fgRoute g b (hdrDone h) true with
          | some s => some (shut (s.updFg g Forager.letIn))
          | none => none

/-- A segment that has closed at the entry ends on both ports once the loop is empty (R136): et, or the closing prefix of a dead one. -/
def State.fgClose (s : State) (g : Forager) : Option State :=
  match g.seg with
  | some c =>
    if g.segClosed ∧ g.inLoop.isEmpty ∧ s.fgRoom g 1 ∧ s.fgRoom g 2 then
      let b (port : Nat) : Beat := if g.killed then closePrefix c
        else closingMarker ((s.fgOut g port).any (fun i => (s.chanAt i).record))
      some (((s.updFg g (fun g => { g with seg := none, killed := false })).fgSend g 1 (b 1)).fgSend g 2 (b 2))
    else none
  | none => none

/-- May a forager act: its region runs, its context is the page's, it is not frozen? -/
def State.fgLive (s : State) (g : Forager) : Bool := s.runs g.page.lid g.page.pset && g.frozen.isNone && s.pageCtx g.page == g.ctx

/-- One fabric cycle of a forager: at most one decision, the ring before the entry (R134). -/
def State.fgDecide (s : State) (p : PageRef) (ctx : Nat) : State :=
  match s.foragerFor p ctx with
  | none => s
  | some g =>
    if !s.fgLive g then s
    else (((s.fgClose g).or (s.fgRing g)).or (s.fgEntry g)).getD s

/-- FORAGER_DECISION (R138). -/
def execForagerDecision (page : PageRef) (ctx : Nat) (s : State) : Host.Outcome State Fault Refusal := .next (s.fgDecide page ctx)

end Sys2Proof.Machine
end

