-- ==== Sys2Proof/Machine/Elements.lean ====
section
/-! DEFINITION. The firing of an element: what it waits for, what it takes, what it places (R79, R116 to R127, R217, R251, R301, R308,
R309, R316, R317). -/
namespace Sys2Proof.Machine

/-! ### Names of an element -/

def elemPage (r : ElemRef) : PageRef := { lid := r.lid, pset := r.pset, px := r.x / 4, py := r.y / 4 }
def elemCore (r : ElemRef) : CoreRef := { lid := r.lid, pset := r.pset, px := r.x / 4, py := r.y / 4 }

/-- The element input of an IMAP entry, the element output of an OMAP entry (R245). -/
def Elem.inPort (e : Elem) (k : Nat) : Option Nat := e.code.bind (fun c => (c.imap[k]?).join)
def Elem.outPort (e : Elem) (q : Nat) : Option Nat := e.code.bind (fun c => (c.omap[q]?).join)
def Elem.entries (e : Elem) : List Nat := (List.range 4).filter (fun k => (e.inPort k).isSome)
def Elem.exits (e : Elem) : List Nat := (List.range 4).filter (fun q => (e.outPort q).isSome)

/-- The channel of an IMAP entry, and those of an OMAP entry. -/
def State.entryChan (s : State) (e : Elem) (k : Nat) : Option Nat := (e.inPort k).bind (s.elemIn e)
def State.exitChans (s : State) (e : Elem) (q : Nat) : List Nat := ((e.outPort q).map (s.elemOut e)).getD []

/-- Does a condition token stand on this entry (R125)? -/
def Elem.held (e : Elem) (k : Nat) : Bool := (e.inPort k).any (fun p => e.condIn.contains p)

/-- The first beat of an entry, whatever it is. -/
def State.headOf (s : State) (e : Elem) (k : Nat) : Option QBeat :=
  if e.held k then none else (s.entryChan e k).bind s.first

/-- The first beat of an entry when it can fire the element: no prefix, no control beat (R309). -/
def State.dataAt (s : State) (e : Elem) (k : Nat) : Option QBeat :=
  (s.headOf e k).filter (fun q => hkind q.beat != 2 && hkind q.beat != 3)

/-- The instructions of an element's block. -/
def ECode.insns (c : ECode) : List Instr := (List.range c.words.length).filterMap c.insn
def Elem.insns (e : Elem) : List Instr := (e.code.map (fun c => c.insns)).getD []

/-- The kinds of join (R317). -/
inductive JoinKind where
  | merge (mask : Nat) | omerge | recirc
  deriving DecidableEq, Repr

def Elem.join (e : Elem) : Option JoinKind := e.insns.findSome? (fun i => match i with
  | .merge _ _ _ m => some (.merge m.toNat)
  | .omerge _ _ _ => some .omerge
  | .recirc _ _ _ => some .recirc
  | _ => none)

/-- The inputs over which a join counts prefixes and closings. -/
def JoinKind.arms (j : JoinKind) : List Nat :=
  match j with
  | .merge m => (List.range 4).filter (fun k => m.testBit k)
  | .omerge => [0, 1]
  | .recirc => [0]

def Elem.hasSteer (e : Elem) : Bool := e.insns.any (fun i => match i with
  | .steer _ _ _ _ _ => true
  | _ => false)

/-- The order output of a STEER (R316). -/
def Elem.orderExit (e : Elem) : Option Nat := e.insns.findSome? (fun i => match i with
  | .steer _ _ _ o q => if o = 1 then some q.toNat else none
  | _ => none)

/-- The ring of kind first that a channel leads into, through the elements on its way (R121). -/
def State.ringFrom (s : State) : Nat → Nat → Option Nat
  | 0, _ => none
  | fuel + 1, i =>
    if (s.chanAt i).kind = 2 then (if (s.chanAt i).exitFirst then some i else none)
    else match s.consumer (s.chanAt i) with
      | none => none
      | some e => (e.outPorts.flatMap (s.elemOut e)).findSome? (s.ringFrom fuel)

/-- The ring of kind first that the continue arm of this element's STEER leads into, and that arm (R121). -/
def State.firstArm (s : State) (e : Elem) : Option (Nat × Nat) :=
  if e.hasSteer && s.chans.any (fun h => h.lid == e.ref.lid && h.kind == 2 && h.exitFirst) then
    (e.exits.filter (fun q => e.orderExit != some q)).findSome? (fun q => ((s.exitChans e q).findSome? (s.ringFrom 16)).map (fun i => (q, i)))
  else none
def State.firstRing (s : State) (e : Elem) : Option Nat := (s.firstArm e).map (fun a => a.2)

/-- Has a loop of kind first seen its exit for the open segment? -/
def State.loopLeft (s : State) (e : Elem) : Bool := (s.firstRing e).any (fun i => (s.chanAt i).left)

/-! ### Emission (R74, R308) -/

def hasRank3 (b : Beat) : Bool := hkind b != 2 && hkind b != 3 && b.any (fun t => t.mrk == 3)

/-- An element output sends a beat; a rank-3 marker on a declared output of a leaf advances it, one for a beat. -/
def State.emit (s : State) (e : Elem) (port : Nat) (b : Beat) : State :=
  let s := (s.elemOut e port).foldl (fun s i =>
    s.push i b e.ctx ((s.chanAt i).srcs.findIdx (fun d => decide (d = .plot e.ref.x e.ref.y port)))) s
  if !hasRank3 b then s
  else match s.leaves.find? (fun l => decide (l.page = elemPage e.ref) && l.outs.contains (e.ref.x, e.ref.y, port)) with
    | some l => s.leafAdvance l.page l.leaf 1
    | none => s

def State.emitOn (s : State) (e : Elem) (q : Nat) (b : Beat) : State :=
  match e.outPort q with
  | some p => s.emit e p b
  | none => s

/-- Have the channels of an output room for n beats? -/
def State.exitRoom (s : State) (e : Elem) (q n : Nat) : Bool := (s.exitChans e q).all (fun i => s.room i n e.ctx)

/-- Have they room for a prefix or a control beat? -/
def State.prefixRoom (s : State) (e : Elem) (q : Nat) : Bool := (s.exitChans e q).all (fun i => s.ctlRoom i e.ctx)

/-! ### Prefixes that reach an element (R309) -/

/-- A new segment on an entry. -/
def Elem.newSegment (e : Elem) (k : Nat) : Elem :=
  { e with
    coords := if e.coords.any (fun c => c.1 == k) || (e.cfg.toNat.testBit (44 + k)) then kset k 0 e.coords else e.coords
    opened := if k = 0 then [] else e.opened, guessed := if k = 0 then false else e.guessed }

/-- A closing prefix resets what the element holds for the segment. -/
def Elem.resetSegment (e : Elem) (k : Nat) : Elem :=
  { e with
    partials := [], sd := [], coords := e.coords.filter (fun (c : Nat × Nat) => c.1 != k)
    opened := if k = 0 then [] else e.opened, guessed := if k = 0 then false else e.guessed }

/-- The outputs on which a segment of this lane and generation stands open. -/
def State.openExits (s : State) (e : Elem) (g : SegId) : List Nat :=
  e.exits.filter (fun q => (s.exitChans e q).any (fun i => (s.chanAt i).seg.any (fun o => o.lane == g.lane && o.gen == g.gen)))

/-- A closing prefix leaves on every output whose segment it closes; none while one of them has no room. A loop of kind first that has
seen its exit sends the rank-3 marker on the exit arm in its place (R121, R123). -/
def State.forwardClose (s : State) (e : Elem) (g : SegId) : Option State :=
  let qs := s.openExits e g
  if !qs.all (s.prefixRoom e) then none
  else if s.loopLeft e then
    let s := match s.firstRing e with
      | some i => s.updChan i (fun h => { h with left := false, sentClose := false })
      | none => s
    some (qs.foldl (fun s q => s.emitOn e q (closingMarker ((s.exitChans e q).any (fun i => (s.chanAt i).record)))) s)
  else some (qs.foldl (fun s q => s.emitOn e q (mkPrefix { g with length := 0 })) s)

/-- Inputs with coordinate intersection (R127). -/
def Elem.ix (e : Elem) : List Nat := (List.range 4).filter (fun k => e.cfg.toNat.testBit (44 + k))

/-- An entry that discards the rest of its segment. -/
def ixDropping : Nat := 2 ^ 33

/-- The coordinates once some entries have closed their segment: the others discard what is left of theirs (R127). -/
def ixClosed (ix closers : List Nat) (coords : List (Nat × Nat)) : List (Nat × Nat) :=
  (coords.filter (fun (e : Nat × Nat) => !closers.contains e.1)).map (fun (e : Nat × Nat) => if ix.contains e.1 then (e.1, ixDropping) else e)

/-- The arms of a STEER: every output but that of its order (R123, R316). -/
def Elem.steerArms (e : Elem) : List Nat := if e.hasSteer then e.exits.filter (fun q => e.orderExit != some q) else []

/-- An element that is no join takes a prefix; a STEER sends it to both arms at once, and a closing one on an intersected input ends the segment on the
others (R123, R127, R309). -/
def State.takePrefix (s : State) (e : Elem) (k i : Nat) (q : QBeat) : Option State :=
  if !q.closes then
    let arms := if k = 0 then e.steerArms else []
    if !arms.all (s.prefixRoom e) then none
    else
      let s := (s.take i).updElem e.ref (fun e => { e.newSegment k with opened := if k = 0 then arms else e.opened })
      some (arms.foldl (fun s a => s.emitOn e a (mkPrefix { prefixOf q.beat with length := lengthEt, sdexp := 0, sdcnt := 0 })) s)
  else
    let s' := if k = 0 then s.forwardClose e (prefixOf q.beat) else some s
    s'.map (fun s => (s.take i).updElem e.ref (fun e => { e.resetSegment k with
      coords := if e.ix.contains k then ixClosed e.ix [k] e.coords else (e.resetSegment k).coords }))

/-! ### Joins (R123, R317) -/

/-- The segment that becomes current at a join: the one whose prefix arrived first, ties to the lowest entry. -/
def State.firstPrefix (s : State) (e : Elem) (arms : List Nat) : Option SegId :=
  (arms.foldl (fun (m : Option QBeat) k => match m, (s.headOf e k).filter (fun q => hkind q.beat == 2 && !q.closes) with
    | some a, some b => if b.stamp < a.stamp then some b else some a
    | none, b => b
    | a, none => a) none).map (fun q => prefixOf q.beat)

/-- MERGE or OMERGE takes a prefix at an arm. -/
def State.joinPrefix (s : State) (e : Elem) (arms : List Nat) (k i : Nat) (q : QBeat) : Option State :=
  let g := prefixOf q.beat
  if !arms.contains k then some (s.take i)
  else if q.closes then
    if e.joinSeg.isSome ∧ e.joinIn.contains k ∧ !e.joinClosed.contains k then
      if arms.all (fun a => a == k || e.joinClosed.contains a) then
        (s.forwardClose e g).map (fun s => (s.take i).updElem e.ref (fun e =>
          { e.resetSegment 0 with joinSeg := none, joinIn := [], joinClosed := [] }))
      else some ((s.take i).updElem e.ref (fun e => { e with joinClosed := e.joinClosed ++ [k] }))
    else some (s.take i)
  else match e.joinSeg with
    | none => match s.firstPrefix e arms with
      | some c =>
        if c.same g then
          some ((s.take i).updElem e.ref (fun e => { e.newSegment 0 with joinSeg := some g, joinIn := [k], joinClosed := [] }))
        else none
      | none => none
    | some c =>
      if c.same g && !e.joinIn.contains k then some ((s.take i).updElem e.ref (fun e => { e with joinIn := e.joinIn ++ [k] }))
      else none

/-- A standalone rank-3 marker. -/
def isStandalone3 (b : Beat) : Bool := hkind b == 0 && b.all (fun t => !t.v) && b.any (fun t => t.mrk == 3)

/-- Is the ring of a RECIRC of kind first? -/
def State.recircFirst (s : State) (e : Elem) : Bool := (s.entryChan e 1).any (fun i => (s.chanAt i).exitFirst)

/-- RECIRC takes a prefix, or a standalone rank 3 that has come round. -/
def State.recircTake (s : State) (e : Elem) (k i : Nat) (q : QBeat) : Option State :=
  let isPrefix := hkind q.beat == 2
  let ended (s : State) : State := (s.take i).updElem e.ref (fun e => { e with joinSeg := none })
  if k = 1 then
    if isPrefix && q.closes && s.recircFirst e then (s.forwardClose e (prefixOf q.beat)).map ended
    else if isPrefix && !q.closes then some (s.take i)
    else if isPrefix || isStandalone3 q.beat then some (ended s)
    else none
  else if !isPrefix then none
  else if q.closes then
    (s.forwardClose e (prefixOf q.beat)).map (fun s => (ended s).updElem e.ref (fun e => e.resetSegment 0))
  else if s.recircFirst e && e.joinSeg.isSome then none
  else some ((s.take i).updElem e.ref (fun e => { e.newSegment 0 with joinSeg := some (prefixOf q.beat) }))

/-- An element takes the prefix at the head of an entry, when there is one that it may take. -/
def State.absorbAt (s : State) (r : ElemRef) (k : Nat) : Option State :=
  match s.elemAt r with
  | none => none
  | some e => match s.entryChan e k, s.headOf e k with
    | some i, some q => match e.join with
      | some .recirc => s.recircTake e k i q
      | some j => if hkind q.beat = 2 then s.joinPrefix e j.arms k i q else none
      | none => if hkind q.beat = 2 then s.takePrefix e k i q else none
    | _, _ => none

/-! ### Intersection (R127) -/

/-- The coordinates after entries took their beats: `took` gives entry, coordinate, and whether the beat closed its segment. -/
def ixTook (ix : List Nat) (coords : List (Nat × Nat)) (took : List (Nat × Nat × Bool)) : List (Nat × Nat) :=
  let closers := (took.filter (fun (t : Nat × Nat × Bool) => t.2.2)).map (fun t => t.1)
  let c := took.foldl (fun c (t : Nat × Nat × Bool) => kset t.1 (t.2.1 + 1) c) coords
  if closers.isEmpty then c else ixClosed ix closers c

def beatCoord (b : Beat) : Nat := (bstrand b 0).pay

/-- An element is frozen by a fault; the beat named stands at the head of an entry, or has just been taken from it. -/
def State.freezeElem (s : State) (e : Elem) (code : Nat) (entry : Option Nat) : State :=
  let s := s.updElem e.ref (fun e => { e with frozen := some code })
  let (num, ord) := match entry.bind (s.entryChan e) with
    | some i => ((s.chanAt i).num, (s.chanAt i).ordinal + 1)
    | none => (0, 0)
  s.elemFault e.ref.lid e.ref.pset e.ref.x e.ref.y code num ord

/-- One step of the intersection unit; none when every head stands ready or one is missing. -/
def State.ixStep (s : State) (r : ElemRef) : Option State :=
  match s.elemAt r with
  | none => none
  | some e =>
    let heads := e.ix.filterMap (fun k => (s.dataAt e k).map (fun q => (k, q)))
    let last (k : Nat) : Nat := (kget k e.coords).getD 0
    let drop (k : Nat) (coords : List (Nat × Nat)) : State :=
      match s.entryChan e k with
      | some i => (s.take i).updElem r (fun e => { e with coords := coords })
      | none => s
    let bad (q : QBeat) (k : Nat) : Option Nat :=
      if hkind q.beat = 5 then (if beatCoord q.beat < last k ∨ beatCoord q.beat = 0xFFFFFFFF then some 0x83 else none)
      else if q.beat.any (fun t => t.v) || hkind q.beat != 0 then some 0x80 else none
    match heads.find? (fun (h : Nat × QBeat) => last h.1 == ixDropping) with
    | some (k, q) => some (drop k (if q.closes then e.coords.filter (fun (c : Nat × Nat) => c.1 != k) else e.coords))
    | none => match heads.find? (fun (h : Nat × QBeat) => (bad h.2 h.1).isSome) with
      | some (k, q) => some (s.freezeElem e ((bad q k).getD 0) (some k))
      | none => match heads.find? (fun (h : Nat × QBeat) => hkind h.2.beat == 0) with
        | some (k, q) => some (drop k (ixTook e.ix e.coords [(k, last k - 1, q.closes)]))
        | none =>
          let top := heads.foldl (fun m (h : Nat × QBeat) => max m (beatCoord h.2.beat)) 0
          match heads.find? (fun (h : Nat × QBeat) => decide (beatCoord h.2.beat < top)) with
          | some (k, q) => some (drop k (ixTook e.ix e.coords [(k, beatCoord q.beat, q.closes)]))
          | none => none

/-! ### What is taken -/

/-- Takes prefixes, and discards what intersection discards, until nothing changes. -/
def State.absorb (s : State) (r : ElemRef) : Nat → State
  | 0 => s
  | fuel + 1 =>
    match ((List.range 4).findSome? (s.absorbAt r)).or (s.ixStep r) with
    | some s => s.absorb r fuel
    | none => s

/-- The entries that feed an operand position of an SD instruction. -/
def ECode.sdFeeds (c : ECode) : Nat → Nat → Pos → List Nat
  | 0, _, _ => []
  | fuel + 1, slot, pos =>
    match c.producer slot pos with
    | none => []
    | some (q, i) => match i with
      | .inPort _ _ p _ _ => [p.toNat]
      | .sdadd _ _ _ => c.sdFeeds fuel q .left ++ c.sdFeeds fuel q .right
      | .sdmul _ _ _ => c.sdFeeds fuel q .left ++ c.sdFeeds fuel q .right
      | _ => c.sdFeeds fuel q .left

/-- Entries whose next beat SDADD or SDMUL must see (R301). -/
def ECode.sdAheadEntries (c : ECode) : List Nat :=
  (List.range c.words.length).flatMap (fun j => match c.insn j with
    | some (.sdadd _ _ _) => c.sdFeeds 32 j .left ++ c.sdFeeds 32 j .right
    | some (.sdmul _ _ _) => c.sdFeeds 32 j .left ++ c.sdFeeds 32 j .right
    | _ => [])

/-- The beat behind the head of an entry, past control beats. -/
def State.behind (s : State) (e : Elem) (k : Nat) : Option Beat :=
  (s.entryChan e k).bind (fun i => (((s.chanAt i).beats.drop 1).find? (fun q => hkind q.beat != 3)).bind (fun q =>
    if hkind q.beat = 0 then some q.beat else none))

/-- May a join pass the head of an arm: its segment's prefix has arrived everywhere, or its channel carries no segments? -/
def State.armData (s : State) (e : Elem) (arms : List Nat) (k : Nat) : Option QBeat :=
  let free := (s.entryChan e k).any (fun i => (s.chanAt i).cur.isNone)
  if free || (e.joinSeg.isSome && arms.all (fun a => e.joinIn.contains a) && !e.joinClosed.contains k) then s.dataAt e k else none

/-- The arm that the next order element names: that of its lowest valid strand. -/
def orderArm (b : Beat) : Option Nat := (b.find? (fun t => t.v)).map (fun t => t.pay % 2)

/-- The entries a firing takes its beats from, and the one a join chooses; none while an input is missing. -/
def State.pick (s : State) (e : Elem) : Option (List Nat × Option Nat) :=
  match e.join with
  | none =>
    let heads := e.entries.map (fun k => s.dataAt e k)
    let coords := e.ix.filterMap (fun k => (s.dataAt e k).map (fun q => beatCoord q.beat))
    let ahead := ((e.code.map ECode.sdAheadEntries).getD []).all (fun k =>
      (s.dataAt e k).any (fun q => q.closes) || (s.behind e k).isSome)
    if heads.all Option.isSome && ahead && (match coords with
        | c :: r => r.all (fun d => d == c)
        | [] => true) then some (e.entries, none) else none
  | some .recirc =>
    if (s.dataAt e 1).isSome then some ([1], some 1) else if (s.dataAt e 0).isSome then some ([0], some 0) else none
  | some .omerge => (s.dataAt e 2).bind (fun o => (orderArm o.beat).bind (fun a =>
      if (s.armData e [0, 1] a).isSome then some ([2, a], some a) else none))
  | some (.merge m) =>
    let arms := JoinKind.arms (.merge m)
    let ready := arms.filterMap (fun k => (s.armData e arms k).map (fun q => (k, q)))
    let ready := match s.mergeDue (elemCore e.ref) e.ref.idx with
      | some k => ready.filter (fun (h : Nat × QBeat) => h.1 == k)
      | none => ready
    match ready with
    | [] => none
    | h :: r =>
      let b := r.foldl (fun (m h : Nat × QBeat) => if h.2.stamp < m.2.stamp then h else m) h
      some ([b.1], some b.1)

/-- The segment that stands on IMAP entry 0, of a join its current one (R309, R317). -/
def State.elemSeg (s : State) (e : Elem) : Option SegId :=
  match e.join with
  | some .omerge => e.joinSeg
  | some (.merge _) => e.joinSeg
  | _ => (s.entryChan e 0).bind (fun i => (s.chanAt i).cur)

/-- Does this block place a prefix of its own on an output: SEGL, SEGN, or on a link of format SD (R301, R313)? -/
def State.ownPrefix (s : State) (e : Elem) (q : Nat) : Bool :=
  e.insns.any (fun i => match i with
    | .segl _ n _ => n.toNat == q
    | .segn _ n _ => n.toNat == q
    | _ => false)
    || ((s.exitChans e q).any (fun i => (s.chanAt i).fmt == 14) && e.sd.all (fun t => t.firing == 0))

/-- Slots that an output must have free (R79, R309). -/
def State.exitNeeds (s : State) (e : Elem) (q : Nat) : Nat :=
  if ((s.elemSeg e).isSome && !e.opened.contains q && e.orderExit != some q) || s.ownPrefix e q then 2 else 1

def State.exitsFree (s : State) (e : Elem) : Bool := e.exits.all (fun q => s.exitRoom e q (s.exitNeeds e q))

/-! ### Conditions but for the context (R79) -/

/-- Is an element live: not blocked, frozen or stopped by a cut, its region running, its leaf enabled? -/
def State.elemLive (s : State) (e : Elem) : Bool :=
  s.runs e.ref.lid e.ref.pset && !e.blocked && e.frozen.isNone && e.dormIn.isEmpty && !s.elemStopped e
    && ((s.leafAt (elemPage e.ref) e.leaf).bind (fun l => l.token)).isSome

/-- The array unit of an element's page in its context. -/
def State.unitOf (s : State) (e : Elem) : Option ArrayUnit := s.arrays.find? (fun a => decide (a.page = elemPage e.ref) && a.ctx == e.ctx)

/-- May an element fire but for its context: an E-block, a share of a free-running array, or the sort network (R71, R79, R130)? -/
def State.able (s : State) (r : ElemRef) : Bool :=
  match s.elemAt r with
  | some e =>
    s.elemLive e && (match e.kind with
      | 1 => (match (s.absorb r 64).elemAt r with
        | some e' => e'.frozen.isNone && ((s.absorb r 64).pick e').isSome && (s.absorb r 64).exitsFree e'
        | none => false)
      | 2 => (s.unitOf e).any (fun a => a.freeRun.isSome)
      | 3 => (s.unitOf e).any (fun a =>
          if a.out.isEmpty then !e.condIn.contains 14 && ((s.elemIn e 14).bind s.first).any (fun q => hkind q.beat != 3)
          else (s.elemOut e 15).all (fun i => s.room i 1 e.ctx))
      | _ => false)
  | none => false

/-! ### Contexts (R125, R126) -/

def State.isRotating (s : State) (lid pset : Nat) : Bool := (s.place lid pset).any (fun p => p.rotating)

/-- The first context after the current one, cyclically and the current one last, in which an element of the plot can fire. -/
def State.nextCtx (s : State) (q : Plot) : Option Nat :=
  ([1, 2, 3, 4].map (fun d => (q.ctx + d) % 4)).find? (fun c => s.elems.any (fun e =>
    e.ref.lid == q.lid && e.ref.pset == q.pset && e.ref.x == q.x && e.ref.y == q.y && e.ctx == c && s.able e.ref))

/-- Is the element's context the active one? In rotating mode: either CTX moves to it now, or it stands there and this element has not
fired since CTX moved. -/
def State.ctxTurn (s : State) (e : Elem) : Bool :=
  match s.plotAt e.ref.lid e.ref.pset e.ref.x e.ref.y with
  | none => false
  | some q =>
    if s.isRotating e.ref.lid e.ref.pset then
      (e.ctx == q.ctx && !q.turn.isEmpty && !q.turn.contains e.ref.idx) || s.nextCtx q == some e.ctx
    else e.ctx == q.ctx

/-- CTX and the elements that have fired since it moved. -/
def State.noteTurn (s : State) (e : Elem) : State :=
  if !s.isRotating e.ref.lid e.ref.pset then s
  else s.updPlot e.ref.lid e.ref.pset e.ref.x e.ref.y (fun q =>
    if e.ctx = q.ctx ∧ !q.turn.isEmpty ∧ !q.turn.contains e.ref.idx then { q with turn := q.turn ++ [e.ref.idx] }
    else { q with ctx := e.ctx, turn := [e.ref.idx] })

/-! ### Starting a firing -/

/-- The format of an element's input (R114, R253). -/
def Elem.ifmt (e : Elem) (k linkFmt : Nat) : Nat :=
  let f := e.cfg.toNat / 2 ^ (21 + 5 * k) % 32
  if f = 31 then linkFmt else f

/-- Rank 3 lowered to 2 on every strand (R123). -/
def lowerRank (b : Beat) : Beat := b.map (fun t => if t.mrk = 3 then { t with mrk := 2 } else t)

/-- The element or marker that closes a segment on the last input of a join leaves with rank 3 (R123). -/
def raiseRank (b : Beat) : Beat :=
  if hkind b = 1 ∨ hkind b = 5 then setRank b 0 3 else b.map (fun t => if t.v || t.mrk != 0 then { t with mrk := 3 } else t)

/-- What a firing sees on an entry. -/
def State.fireIn (s : State) (e : Elem) (took : List Nat) (chosen : Option Nat) (k : Nat) : FireIn :=
  match s.entryChan e k with
  | none => {}
  | some i =>
    let h := s.chanAt i
    let f := e.ifmt k h.fmt
    let joined (q : QBeat) : Beat := match e.join with
      | some j =>
        if j == .recirc || e.joinSeg.isNone || chosen != some k then q.beat
        else if !(j.arms.all (fun a => a == k || e.joinClosed.contains a)) then lowerRank q.beat
        else if q.closes then raiseRank q.beat else q.beat
      | none => q.beat
    let conv (b : Beat) : Beat := convertBeat b h.fmt f h.scale
    { beat := if took.contains k then (s.dataAt e k).map (fun q => conv (joined q)) else none
      next := (s.behind e k).map conv, seg := if k = 0 then s.elemSeg e else h.cur, fmt := f, isRec := h.record }

def State.fireOut (s : State) (e : Elem) (q : Nat) : FireOut :=
  match s.exitChans e q with
  | i :: _ => { used := true, fmt := (s.chanAt i).fmt, isRec := (s.chanAt i).record }
  | [] => { used := (e.outPort q).isSome }

/-- A firing begins: its operands are what stands on its inputs. -/
def State.startFiring (s : State) (e : Elem) (code : ECode) (took : List Nat) (chosen : Option Nat) : State :=
  let f : Firing :=
    { elem := e.ref, ctx := e.ctx, code := code, ins := (List.range 4).map (s.fireIn e took chosen), outs := (List.range 4).map (s.fireOut e)
      chosen := chosen, partials := e.partials, sd := e.sd, sd0 := e.sd, guessPt := e.guess, guessed := e.guessed }
  { s with firing := some f }

/-! ### Taking the beats of a firing -/

/-- The beats of a firing are consumed. -/
def State.consume (s : State) (e : Elem) (took : List Nat) : State :=
  let heads := took.filterMap (fun k => (s.dataAt e k).map (fun q => (k, q)))
  let s := took.foldl (fun s k => match s.entryChan e k with
    | some i => s.take i
    | none => s) s
  let ixs := (heads.filter (fun (h : Nat × QBeat) => e.ix.contains h.1)).map (fun (h : Nat × QBeat) => (h.1, beatCoord h.2.beat, h.2.closes))
  let arms := (e.join.map JoinKind.arms).getD []
  let closed := (heads.filter (fun (h : Nat × QBeat) => h.2.closes && arms.contains h.1)).map (fun h => h.1)
  s.updElem e.ref (fun e =>
    let e := if ixs.isEmpty then e else { e with coords := ixTook e.ix e.coords ixs }
    match e.join with
    | none => e
    | some .recirc => e
    | some _ =>
      let all := e.joinClosed ++ closed
      if e.joinSeg.isSome ∧ arms.all (fun a => all.contains a) then { e with joinSeg := none, joinIn := [], joinClosed := [] }
      else { e with joinClosed := all })

/-- A loop of kind first that has seen its exit discards a later beat; the first one sends the closing prefix into the ring (R121). -/
def State.discardLoop (s : State) (e : Elem) (took : List Nat) : State :=
  match s.firstArm e with
  | none => s
  | some (q, i) =>
    if (s.chanAt i).sentClose then s.consume e took
    else if !s.prefixRoom e q then s
    else match s.elemSeg e with
      | some g => ((s.consume e took).emitOn e q (closePrefix g)).updChan i (fun h => { h with sentClose := true })
      | none => s.consume e took

/-! ### The end of a firing -/

/-- What an arm of a STEER receives when the segment closes: the closing element as it is placed, or else et (R123). -/
def State.armClose (s : State) (e : Elem) (q : Nat) (b : Option Beat) : Beat :=
  let et := closingMarker ((s.exitChans e q).any (fun i => (s.chanAt i).record))
  match b with
  | some b =>
    if hkind b != 0 || b.any (fun t => t.v) then b
    else if b.any (fun t => t.mrk != 0) then b.map (fun t => if t.mrk = 0 then t else { t with mrk := 3 }) else et
  | none => et

/-- What an output sends: its own prefix, or the forwarded one, then its beat. -/
def State.placeOn (s : State) (f : Firing) (e : Elem) (seg : Option SegId) (closes : Bool) (q : Nat) : State :=
  let beat := if closes && e.steerArms.contains q then some (s.armClose e q (kget q f.placed)) else kget q f.placed
  let own := kget q f.prefixes
  let cond := beat.any (fun b => hkind b == 3)
  let fwd : Option Beat := match own, beat, seg with
    | some p, _, _ => some p
    | none, some _, some g =>
      if e.opened.contains q || e.orderExit == some q || cond then none
      else some (mkPrefix { g with length := lengthEt, sdexp := 0, sdcnt := 0 })
    | _, _, _ => none
  let s := match fwd with
    | some p => (s.emitOn e q p).updElem e.ref (fun e => { e with opened := if e.opened.contains q then e.opened else e.opened ++ [q] })
    | none => s
  match beat with
  | some b => s.emitOn e q b
  | none => s

/-- An exit of a loop of kind first: something has been placed on an arm that does not lead into the ring (R121). -/
def State.noteExit (s : State) (f : Firing) (e : Elem) : State :=
  match s.firstArm e with
  | none => s
  | some (arm, i) =>
    if f.placed.any (fun (p : Nat × Beat) => e.orderExit != some p.1 && p.1 != arm
        && (p.2.any (fun t => t.v) || hkind p.2 == 1)) then
      s.updChan i (fun h => { h with left := true })
    else s

/-- The blamed port of a firing: the input or output that became ready last, in the order of arrivals; of several, an input before an output, then the
lowest number. Whether it is an output, and its number (R217). -/
def State.blamed (s : State) (e : Elem) (took : List Nat) : Bool × Nat :=
  let ins := took.filterMap (fun k => match e.inPort k, s.dataAt e k with
    | some p, some q => some (q.stamp, false, p)
    | _, _ => none)
  let outs := e.outPorts.map (fun p => (((s.elemOut e p).map (fun i => (s.chanAt i).freed)).foldl max 0, true, p))
  let later (m c : Nat × Bool × Nat) : Nat × Bool × Nat :=
    if m.1 < c.1 || (m.1 == c.1 && m.2.1 == c.2.1 && decide (c.2.2 < m.2.2)) then c else m
  match ins ++ outs with
  | [] => (false, 0)
  | a :: r => (r.foldl later a).2

/-- An entry of the initiation-interval log: the interval that has passed is free (R217, log 9). -/
def State.noteInterval (s : State) (e : Elem) (ii : Nat) (blame : Bool × Nat) : State :=
  if !e.iiOn || ii == 0 then s
  else if !e.iiArmed then s.updElem e.ref (fun e => { e with iiArmed := true })
  else
    let excess : Int := (Config.freeNat s.fresh : Int) - ii
    let s := { s with fresh := s.fresh + 1 }
    if excess < e.iiThr then s
    else
      let d : DWord := BitVec.ofNat 64 (min excess.toNat 0xFFFF * 2 ^ 48 + e.ref.idx % 256 * 2 ^ 40 + blame.2 % 256 * 2 ^ 32
        + (if blame.1 then 2 ^ 31 else 0) + (e.fires + 1) % 2 ^ 31)
      s.updPlot e.ref.lid e.ref.pset e.ref.x e.ref.y (fun q => { q with ring := (q.ring ++ [d]).drop (q.ring.length - 63) })

/-- A guess record leaves for the controller of its lane, over Volop where that is one of another package (R82, R86, R92, R325). -/
def State.sendGuess (s : State) (e : ElemRef) (g : Option GuessRec) : State :=
  match g with
  | none => s
  | some r =>
    if !s.inPipe r.lane e.lid e.pset then
      match Config.homeNode e.lid with
      | some n => s.tellPipe n (.guess r.gpix r.lane r.pos r.gen r.tok r.conf.bits36)
      | none => s
    else
      let sp := s.sprout (r.lane / 64)
      s.setSprout (r.lane / 64) { sp with records := sp.records ++ [r.beat] }

/-- Everything a firing leaves behind. -/
def State.completeFiring (s : State) (f : Firing) (e : Elem) : State :=
  let seg := s.elemSeg e
  let took := ((s.pick e).map (fun p => p.1)).getD []
  let closes := !f.hold && took.contains 0 && (s.dataAt e 0).any (fun q => q.closes)
  let blame := s.blamed e took
  let s := if f.hold then s else s.consume e took
  let s := s.updElem e.ref (fun e =>
    { e with partials := f.partials, sd := f.sd, guessed := f.guessed, fires := e.fires + 1, noProgress := 0 })
  let s := (List.range 4).foldl (fun s q => s.placeOn f e seg closes q) s
  let s := (s.noteExit f e).sendGuess e.ref f.guess
  let s := match e.join, f.chosen with
    | some (.merge _), some k => s.noteMerge (elemCore e.ref) e.ref.idx k
    | _, _ => s
  s.noteInterval e f.code.ii blame

/-- The first slot of the firing element that has not fired and has its operands; none once the firing has faulted. -/
def Firing.ready (f : Firing) : Option Nat :=
  if f.fault.isSome then none else (List.range f.code.words.length).find? (fun j => !f.fired.contains j && (match f.code.insn j with
    | some i => (List.range 4).all (fun q => !usesPos i q || (f.operand j (Pos.ofCode (BitVec.ofNat 2 q))).isSome)
    | none => false))

/-- The end of the firing in progress: a fault freezes the element, a firing that can never end stands still and no later one overtakes it, any other
completes. Its beats are consumed in every case (R251). -/
def State.finishFiring (s : State) : State :=
  match s.firing with
  | none => s
  | some f =>
    let s := { s with firing := none }
    match s.elemAt f.elem with
    | none => s
    | some e => match f.fault with
      | some code => (s.freezeElem e code (f.chosen.or e.entries.getLast?)).consume e (((s.pick e).map (fun p => p.1)).getD [])
      | none =>
        if f.fired.length < f.code.words.length then
          (s.consume e (((s.pick e).map (fun p => p.1)).getD [])).updElem e.ref (fun e => { e with blocked := true })
        else s.completeFiring f e

/-- An element fires, when all its conditions hold (R79, R251): what it takes is decided, and its firing begins. -/
def State.fireElement (s : State) (r : ElemRef) : State :=
  if s.firing.isSome then s
  else match s.elemAt r with
  | none => s
  | some e0 =>
    if e0.kind ≠ 1 ∨ !s.elemLive e0 ∨ !s.ctxTurn e0 then s
    else
      let s := s.absorb r 64
      match s.elemAt r with
      | none => s
      | some e => match e.code, s.pick e with
        | some code, some (took, chosen) =>
          if e.frozen.isSome then s
          else if s.loopLeft e then s.discardLoop e took
          else if s.exitsFree e then (s.noteTurn e).startFiring e code took chosen
          else s
        | _, _ => s

end Sys2Proof.Machine
end

