-- ==== Sys2Proof/Machine/Sorting.lean ====
section
/-! DEFINITION. The sort network and the free-running array as elements of a plot (R71, R129, R130, R369, R397, R400), and ELEMENT_FIRE. -/
namespace Sys2Proof.Machine

/-! ### Sorting one segment -/

/-- The settings that SORTCFG has left: M, DIR, MERGE, KEEP (R369). -/
def ArrayUnit.settings (a : ArrayUnit) : DWord :=
  BitVec.ofNat 64 (a.m % 16 + (if a.desc then 16 else 0) + (if a.merge then 32 else 0) + a.keep % 1024 * 256)

def cfgM (c : DWord) : Nat := c.toNat % 16
def cfgDesc (c : DWord) : Bool := c.getLsbD 4
def cfgMerge (c : DWord) : Bool := c.getLsbD 5
def cfgKeep (c : DWord) : Nat := c.toNat / 2 ^ 8 % 1024

/-- A key with its index, or padding, which sorts after every NaN. -/
abbrev SortCell := Option (Img × Nat)

/-- Does cell a leave before cell b: by value, then by index (R130)? -/
def cellBefore (desc : Bool) (a b : SortCell) : Bool :=
  match a, b with
  | none, _ => false
  | some _, none => true
  | some (x, i), some (y, j) =>
    keyBefore desc x.wf y.wf || (!keyBefore desc y.wf x.wf && decide (i < j))

/-- One compare-and-exchange stage at a distance. -/
def mergeStage (desc : Bool) (l : List SortCell) (d : Nat) : List SortCell :=
  (List.range l.length).map (fun i =>
    let a := l.getD i none
    if i / d % 2 = 0 then
      let b := l.getD (i + d) none
      if cellBefore desc b a then b else a
    else
      let b := l.getD (i - d) none
      if cellBefore desc a b then b else a)

/-- The final bitonic merge of two runs of 2^(M − 1) cells, the second one reversed (R369). -/
def bitonicMerge (desc : Bool) (m : Nat) (keys : List (Img × Nat)) : List (Img × Nat) :=
  let half := 2 ^ (m - 1)
  let run (l : List (Img × Nat)) : List SortCell := (List.range half).map (fun i => l[i]?)
  let cells := run (keys.take half) ++ (run (keys.drop half)).reverse
  (((List.range m).map (fun t => 2 ^ (m - 1 - t))).foldl (mergeStage desc) cells).filterMap id

/-- The keys of a segment in the order in which they leave. -/
def sortSegment (c : DWord) (keys : List (Img × Nat)) : List (Img × Nat) :=
  if cfgMerge c then bitonicMerge (cfgDesc c) (cfgM c) keys
  else (sortKeys (cfgDesc c) (keys.zipIdx.map (fun (e : (Img × Nat) × Nat) => (e.1.1.wf, (e.1.2 : Int), e.2)))).map (fun k =>
    keys.getD k.2.2 ({}, 0))

/-- The beats of a sorted segment: its prefix and one record for each key; the last carries rank 3 (R130, R400). -/
def sortedBeats (c : DWord) (g : SegId) (keys : List (Img × Nat)) : List Beat :=
  let ks := sortSegment c keys
  let n := if cfgKeep c = 0 then ks.length else min (cfgKeep c) ks.length
  mkPrefix { g with length := n, endrank := 3, sdexp := 0, sdcnt := 0 } ::
    ((ks.take n).zipIdx.map (fun (e : (Img × Nat) × Nat) =>
      mkRecord (mkHeader 0 g.gen 2 false 0) (if e.2 + 1 = n then 3 else 0) [e.1.1, ⟨BitVec.ofNat 64 e.1.2, false⟩]))

/-! ### The network's two ports -/

/-- The keys that a beat brings; none: a beat the network does not accept. -/
def beatKeys (c : DWord) (h : Chan) (have_ : Nat) (b : Beat) : Option (List (Img × Nat)) :=
  if cfgMerge c then
    if hkind b = 1 then some [((bstrand b 1).image, (bstrand b 2).pay)]
    else if b.any (fun t => t.v) || hkind b != 0 then none else some []
  else if hkind b ≠ 0 then none
  else some ((b.filter (fun t => t.v)).zipIdx.map (fun (e : Strand × Nat) => (convertLane e.1.image h.fmt 16 h.scale, have_ + e.2)))

/-- The network sends its next beat, when the output has room. -/
def State.sortSend (s : State) (e : Elem) (a : ArrayUnit) : State :=
  match a.out with
  | [] => s
  | b :: r =>
    if (s.elemOut e 15).all (fun i => s.room i 1 e.ctx) then
      (s.updArray a.page a.ctx (fun a => { a with out := r })).emit e 15 b |>.updElem e.ref (fun e => { e with fires := e.fires + 1, noProgress := 0 })
    else s

/-- The network freezes on the beat at its input. -/
def State.sortFault (s : State) (e : Elem) (i code : Nat) : State :=
  let h := s.chanAt i
  (s.updElem e.ref (fun e => { e with frozen := some code })).elemFault e.ref.lid e.ref.pset e.ref.x e.ref.y code h.num (h.ordinal + 1)

/-- The network takes the beat at the head of its input. -/
def State.sortTake (s : State) (e : Elem) (a : ArrayUnit) (i : Nat) (q : QBeat) : State :=
  let upd (s : State) (f : ArrayUnit → ArrayUnit) : State := s.updArray a.page a.ctx f
  if hkind q.beat = 3 then s
  else if hkind q.beat = 2 then
    if q.closes then upd (s.take i) (fun a => { a with keys := [], seg := none })
    else upd (s.take i) (fun a => { a with keys := [], seg := some (prefixOf q.beat), cfgNow := a.settings })
  else match beatKeys a.cfgNow (s.chanAt i) a.keys.length q.beat with
    | none => s.sortFault e i 0x80
    | some ks =>
      let keys := a.keys ++ ks
      if 2 ^ cfgM a.cfgNow < keys.length then s.sortFault e i 0x81
      else if q.closes then
        upd (s.take i) (fun a => { a with keys := [], seg := none, out := sortedBeats a.cfgNow (a.seg.getD {}) keys })
      else upd (s.take i) (fun a => { a with keys := keys })

/-- The sort network acts: what is sorted leaves before more is taken. -/
def State.fireSort (s : State) (e : Elem) : State :=
  if !s.able e.ref || !s.ctxTurn e then s
  else match s.unitOf e with
    | none => s
    | some a =>
      let s := s.noteTurn e
      if !a.out.isEmpty then s.sortSend e a
      else match s.elemIn e 14 with
        | none => s
        | some i => match s.first i with
          | some q => s.sortTake e a i q
          | none => s

/-! ### The free-running array (R71) -/

/-- The trellis nodes below a node, itself included. -/
def State.nodesUnder (s : State) (g : PageRef) : Nat → Nat → List Nat
  | 0, _ => []
  | fuel + 1, n => n :: (((s.trellisAt g n).map (fun t => t.kids)).getD []).flatMap (fun k => if k.1 < 8 then s.nodesUnder g fuel k.1 else [])

/-- A free-running section is over: the trellis nodes and the leaves below its root hold no token any more. -/
def State.endFree (s : State) (g : PageRef) (ctx : Nat) : State :=
  let free := s.armings.filter (fun a => decide (a.page = g) && ((s.gnode a.lid a.node).any (fun n => n.free)) && s.sectionArray g a.root ctx)
  free.foldl (fun s a =>
    let leaves := s.leavesUnder g 8 a.root
    let s := (s.nodesUnder g 8 a.root).foldl (fun s n => s.updTrellis g n (fun t => { t with token := none, offer := none, doneIn := [] })) s
    let s := leaves.foldl (fun s l => s.updLeaf g l (fun l => { l with token := none })) s
    s.sectionOver g a.root) s

/-- A share of the array acts for a free-running section: whether it has completed a tile now, and, once the count is 0, whether the last accumulator
has drained, is free, since the spec gives no cycle count (R71, log 101). -/
def State.fireArray (s : State) (e : Elem) : State :=
  let g := elemPage e.ref
  if !s.able e.ref || !s.ctxTurn e then s
  else match (s.unitOf e).bind (fun a => a.freeRun) with
    | none => s
    | some n =>
      let done := s.freeAt 0 % 2 == 0
      let s := ((s.noteTurn e).useFree 1).updElem e.ref (fun e => { e with fires := e.fires + 1, noProgress := 0 })
      if !done then s
      else if n = 0 then (s.updArray g e.ctx (fun a => { a with freeRun := none })).endFree g e.ctx
      else s.updArray g e.ctx (fun a => { a with freeRun := some (n - 1) })

/-! ### ELEMENT_FIRE -/

/-- An element fires by its kind (R79, R253). -/
def State.fireAny (s : State) (r : ElemRef) : State :=
  match s.elemAt r with
  | none => s
  | some e => match e.kind with
    | 1 => s.fireElement r
    | 2 => s.fireArray e
    | 3 => s.fireSort e
    | _ => s

/-- ELEMENT_FIRE (R79). -/
def execElementFire (el : ElemRef) (s : State) : Host.Outcome State Fault Refusal := .next (s.fireAny el)

end Sys2Proof.Machine
end

