-- ==== Sys2Proof/Machine/Filters.lean ====
section
/-! DEFINITION. Control beats at their consumers: condition tokens, prunes, drain markers; and what the home controller makes of reports
(R90 to R92, R99 to R102, R122, R125, R140, R141). -/
namespace Sys2Proof.Machine

/-- Is this a control beat of a kind? -/
def isControl (b : Beat) (kind : Nat) : Bool := hkind b == 3 && ckind b == kind

/-! ### Condition tokens (R125) -/

/-- Channels that leave an element. -/
def State.elemOuts (s : State) (e : Elem) : List Nat := e.outPorts.flatMap (s.elemOut e)

/-- The output ends of an element. -/
def Elem.outEnds (e : Elem) : List Endp := e.outPorts.map (fun p => .plot e.ref.x e.ref.y p)

/-- Does an element hold the condition token on every input? -/
def State.condFull (s : State) (e : Elem) : Bool := (s.mainPorts e).all (fun p => e.condIn.contains p)

/-- Elements of a plot in a context that have an input. -/
def State.plotElems (s : State) (q : Plot) (ctx : Nat) : List Elem :=
  s.elems.filter (fun e => e.ref.lid == q.lid && e.ref.pset == q.pset && e.ref.x == q.x && e.ref.y == q.y && e.ctx == ctx
    && !(s.mainPorts e).isEmpty)

/-- The settings of a sort network at the start of a configuration period (R369). -/
def ArrayUnit.newPeriod (a : ArrayUnit) : ArrayUnit :=
  if a.mode = 2 then { a with m := 9, desc := false, merge := false, keep := 0 } else a

/-- Every plot of a region stands in a context: a new configuration period begins (R181, R369). -/
def State.regionSwitched (s : State) (lid pset ctx : Nat) : State :=
  if (s.plots.filter (fun q => q.lid == lid && q.pset == pset)).all (fun q => q.ctx == ctx) then
    { s with
      placed := s.placed.map (fun p => if p.lid = lid ∧ p.pset = pset then { p with periodOn := false } else p)
      nodes := s.nodes.map (fun n => if n.ref.lid = lid ∧ n.pset = pset then { n with armed := false, resumed := false } else n)
      arrays := s.arrays.map (fun a => if a.page.lid = lid ∧ a.page.pset = pset ∧ a.ctx = ctx then a.newPeriod else a) }
  else s

/-- A plot whose elements of the current context all hold the token moves to the target; so do the region's plots that have nothing
configured in it. A token that names the current context changes nothing: it is passed on (R125). -/
def State.trySwitch (s : State) (q : Plot) (target : Nat) : State :=
  if !(s.plotElems q q.ctx).all s.condFull then s
  else
    let empty := s.plots.filter (fun r => r.lid == q.lid && r.pset == q.pset && r.ctx == q.ctx && (s.plotElems r q.ctx).isEmpty)
    let moves (x y : Nat) : Bool := (x == q.x && y == q.y) || empty.any (fun r => r.x == x && r.y == y)
    let s : State := { s with
      plots := s.plots.map (fun r => if r.lid = q.lid ∧ r.pset = q.pset ∧ moves r.x r.y then { r with ctx := target } else r)
      elems := s.elems.map (fun e =>
        if e.ref.lid = q.lid ∧ e.ref.pset = q.pset ∧ e.ref.x = q.x ∧ e.ref.y = q.y then
          { e with condIn := [], iiArmed := false } else e) }
    s.regionSwitched q.lid q.pset target

/-- The token reaches an input of an element. -/
def State.condElem (s : State) (i : Nat) (h : Chan) (e : Elem) (port : Nat) (b : Beat) : State :=
  if h.loops then s.take i
  else if e.condIn.contains port then s
  else
    let last := (s.mainPorts e).all (fun p => p == port || e.condIn.contains p)
    if last && !(s.elemOuts e).all (fun j => s.ctlRoom j e.ctx) then s
    else
      let s := (s.take i).updElem e.ref (fun e => { e with condIn := e.condIn ++ [port], condCtx := beatCtx b })
      if !last then s
      else
        let s := s.pushAll (s.elemOuts e) b e.outEnds
        match s.plotAt e.ref.lid e.ref.pset e.ref.x e.ref.y with
        | some q => if q.ctx = beatCtx b then s.updElem e.ref (fun e => { e with condIn := [] }) else s.trySwitch q (beatCtx b)
        | none => s

/-- The token reaches a memory node: it leaves in its turn once it stands on every input. -/
def State.condNode (s : State) (n : MemNode) (b : Beat) : State :=
  let ins := s.nodeIns n.ref
  if ins.all (fun i => (s.first i).any (fun q => isControl q.beat 4)) then
    let s := ins.foldl (fun s i => s.take i) s
    (s.updNode n.ref (fun n => { n with ops := n.ops ++ [{ elem := n.pos, va := 0, status := 2, beat := some b }] })).nodeEmit n.ref 64
  else s

/-- A condition token stands at the head of a channel. -/
def State.condArrive (s : State) (i : Nat) : State :=
  let h := s.chanAt i
  match s.first i with
  | none => s
  | some q =>
    let b := q.beat
    if !isControl b 4 || !s.takes h then s
    else if s.isRotating h.lid h.dstPset then s.chanFault i 0x80 (h.ordinal + 1)
    else match h.dst with
      | .plot _ _ port => match s.consumer h with
        | some e => s.condElem i h e port b
        | none => s.take i
      | .mem m => match s.nodeAt ⟨h.lid, m⟩ with
        | some n => s.condNode n b
        | none => s.take i
      | .forager _ _ port => match s.foragerAt h with
        | some g =>
          if port ≠ 0 then s.take i
          else if !g.inLoop.isEmpty ∨ !(s.foragerOuts g).all (fun j => s.ctlRoom j g.ctx) then s
          else (s.take i).pushAll (s.foragerOuts g) b g.outEnds
        | none => s.take i
      | .core px py port =>
        let c : CoreRef := { lid := h.lid, pset := h.dstPset, px := px, py := py }
        if !((s.core c).sinkQ port).isEmpty then s
        else
          let s := (s.take i).mapCore c (fun p => if hp : port < 32 then { p with sinkCtx := p.sinkCtx.set port (beatCtx b) } else p)
          s.refillSink c port
      | .remote => s

/-- CONDITION_TOKEN_ARRIVAL (R125). -/
def execConditionTokenArrival (lid chan : Nat) (s : State) : Host.Outcome State Fault Refusal :=
  match s.chanNo lid chan with
  | some i => .next (s.condArrive i)
  | none => .next s

/-! ### Prunes (R99, R140) -/

def beatPrune (b : Beat) : PruneEnt := { lane := beatLane b, lo := beatLo b, hi := beatHi b, serial := beatSerial b }

/-- Does a table hold the entry of a prune beat already? -/
def hasPrune (t : List PruneEnt) (b : Beat) : Bool := t.any (fun e => e.serial == beatSerial b && e.lane == beatLane b)

/-- Discards the dead segments on some channels. -/
def State.purgeAll (s : State) (is : List Nat) (dead : SegId → Bool) : State :=
  is.foldl (fun s i => s.updChan i (fun h => h.purge dead)) s

/-- The channels that end at a plot. -/
def State.intoPlot (s : State) (q : Plot) : List Nat :=
  s.chanIdx (fun h => h.lid == q.lid && h.dstPset == q.pset && (match h.dst with
    | .plot x y _ => x == q.x && y == q.y
    | _ => false))

/-- The first copy of a prune at a plot's stream sequencer: installed, dead segments discarded, forwarded on every output of every context, since one
table serves them all (R99, R100). -/
def State.prunePlot (s : State) (q : Plot) (b : Beat) : State :=
  let s := s.updPlot q.lid q.pset q.x q.y (fun q => { q with prunes := q.prunes ++ [beatPrune b] })
  let s := s.purgeAll (s.intoPlot q) (segDead [beatPrune b])
  let es := s.elems.filter (fun e => e.ref.lid == q.lid && e.ref.pset == q.pset && e.ref.x == q.x && e.ref.y == q.y)
  s.pushAll (es.flatMap s.elemOuts) b (es.flatMap Elem.outEnds)

/-- The first copy of a prune at a forager. -/
def State.pruneForager (s : State) (g : Forager) (i : Nat) (b : Beat) : State :=
  let s := s.updFg g (fun g => { g with prunes := g.prunes ++ [beatPrune b] })
  (s.purgeAll [i] (segDead [beatPrune b])).pushAll (s.foragerOuts g) b g.outEnds

/-- A prune beat arrives at the filter at the end of a channel; a copy is absorbed. One behind the marker of a cut belongs to the resumed run (R210); one
that returns to a forager is taken in its turn, so that no dead record stands before it (R140). -/
def State.pruneArrive (s : State) (i : Nat) : State :=
  let h := s.chanAt i
  let returns : Bool := match h.dst with
    | .forager _ _ port => port != 0
    | _ => false
  match h.beats.findIdx? (fun q => isControl q.beat 1) with
  | none => s
  | some k =>
    if h.frozen || h.cutAt.isSome || h.dormPlace.any (fun d => decide (d < k)) || (returns && k != 0) || !s.mayEnter h || !s.takes h then s else
    let q := h.beats.getD k { beat := [] }
    let b := q.beat
    let s := if h.dst = .remote then s else s.takeAt i k
    match h.dst with
    | .plot x y _ => match s.plotAt h.lid h.dstPset x y with
      | some p => if hasPrune p.prunes b then s else s.prunePlot p b
      | none => s
    | .mem m => match s.nodeAt ⟨h.lid, m⟩ with
      | some n => if hasPrune n.prunes b then s else s.pruneNode n b
      | none => s
    | .forager _ _ port => match s.foragerAt h with
      | some g =>
        if port ≠ 0 then s.updFg g (fun g => { g with returned := g.returned ++ [(beatSerial b, q.entry)] })
        else if hasPrune g.prunes b then s else s.pruneForager g i b
      | none => s
    | _ => s

/-- PRUNE_ARRIVAL (R99). -/
def execPruneArrival (lid chan : Nat) (s : State) : Host.Outcome State Fault Refusal :=
  match s.chanNo lid chan with
  | some i => .next (s.pruneArrive i)
  | none => .next s

/-! ### Drain markers (R99, R101) -/

/-- Has a marker arrived on all of these channels? -/
def State.drainedOn (s : State) (is : List Nat) (serial : Nat) : Bool := is.all (fun i => (s.chanAt i).drains.contains serial)
def State.noteDrain (s : State) (i serial : Nat) : State := s.updChan i (fun h => { h with drains := h.drains ++ [serial] })
def State.clearDrain (s : State) (is : List Nat) (serial : Nat) : State :=
  is.foldl (fun s i => s.updChan i (fun h => { h with drains := h.drains.erase serial })) s

/-- The channels of the inputs of an element that are not loop-closing. -/
def State.mainChans (s : State) (e : Elem) : List Nat := (s.mainPorts e).filterMap (s.elemIn e)

/-- A drain marker at an input of an element; it never goes round a loop, and a guess point reports it. -/
def State.drainElem (s : State) (i : Nat) (h : Chan) (e : Elem) (b : Beat) : State :=
  let serial := beatSerial b
  if h.loops then s.take i
  else
    let ins := s.mainChans e
    let outs := (s.elemOuts e).filter (fun j => (s.chanAt j).kind != 2)
    let last := s.drainedOn (ins.filter (fun j => j != i)) serial
    if last && !outs.all (fun j => s.ctlRoom j e.ctx) then s
    else if !last then (s.take i).noteDrain i serial
    else
      let s := (((s.take i).clearDrain ins serial)).pushAll outs b e.outEnds
      if e.guess.isSome then s.reportDrain e.ref.lid e.ref.pset (beatLane b) serial else s

/-- A drain marker stands at the head of a channel. -/
def State.drainArrive (s : State) (i : Nat) : State :=
  let h := s.chanAt i
  match s.first i with
  | none => s
  | some q =>
    let b := q.beat
    if !isControl b 2 || !s.takes h then s
    else match h.dst with
      | .plot _ _ _ => match s.consumer h with
        | some e => s.drainElem i h e b
        | none => s.take i
      | .mem m => match s.nodeAt ⟨h.lid, m⟩ with
        | some n =>
          let ins := s.nodeIns n.ref
          if s.drainedOn (ins.filter (fun j => j != i)) (beatSerial b) then
            ((s.take i).clearDrain ins (beatSerial b)).drainNode n b
          else (s.take i).noteDrain i (beatSerial b)
        | none => s.take i
      | .forager _ _ port => match s.foragerAt h with
        | some g =>
          if port ≠ 0 then s.take i
          else if (List.range g.stages.length).all (fun k => g.returned.contains (beatSerial b, k)) && s.fgRoom g 1 && s.fgRoom g 2 then
            ((s.take i).fgSend g 1 b).fgSend g 2 b
          else s
        | none => s.take i
      | .core px py port =>
        let c : CoreRef := { lid := h.lid, pset := h.dstPset, px := px, py := py }
        let ins := s.chanIdx (fun o => o.lid == h.lid && o.dstPset == h.dstPset && decide (o.dst = h.dst))
        if !((s.core c).sinkQ port).isEmpty then s
        else if s.drainedOn (ins.filter (fun j => j != i)) (beatSerial b) then
          (((s.take i).clearDrain ins (beatSerial b)).reportDrain c.lid c.pset (beatLane b) (beatSerial b)).refillSink c port
        else ((s.take i).noteDrain i (beatSerial b)).refillSink c port
      | .remote => s

/-- DRAIN_MARKER_ARRIVAL (R99). -/
def execDrainMarkerArrival (lid chan : Nat) (s : State) : Host.Outcome State Fault Refusal :=
  match s.chanNo lid chan with
  | some i => .next (s.drainArrive i)
  | none => .next s

/-! ### Reports and retirement (R101) -/

/-- A drain report arrives; with the last one RETIRE is sent, over Volop to the filters of other packages (R82). -/
def State.takeReport (s : State) (d serial : Nat) : State :=
  let sp := s.sprout d
  if !sp.reports.contains serial then s
  else
    let last := sp.prunes.filter (fun (p : PruneEnt × Nat × Bool) => p.1.serial == serial && !p.2.2 && decide (sp.nsink ≤ p.2.1 + 1))
    let s := s.setSprout d { sp with
      reports := sp.reports.erase serial
      prunes := sp.prunes.map (fun (p : PruneEnt × Nat × Bool) =>
        if p.1.serial = serial then (p.1, p.2.1 + 1, p.2.2 || decide (sp.nsink ≤ p.2.1 + 1)) else p) }
    last.foldl (fun s (p : PruneEnt × Nat × Bool) =>
      ((sp.owner.map Config.pipeNodes).getD []).foldl (fun s n => s.tellPipe n (.retire p.1.lane serial)) s) s

/-- DRAIN_REPORT (R101). -/
def execDrainReport (die serial : Nat) (s : State) : Host.Outcome State Fault Refusal := .next (s.takeReport die serial)

/-- Has RETIRE of an entry been sent? -/
def State.retiring (s : State) (e : PruneEnt) : Bool :=
  (s.sprout (e.lane / 64)).prunes.any (fun (p : PruneEnt × Nat × Bool) => decide (p.1 = e) && p.2.2)

/-- Does a dormant region hold an entry? -/
def Dormant.holdsEntry (d : Dormant) (e : PruneEnt) : Bool :=
  d.plots.any (fun q => q.prunes.contains e) || d.chans.any (fun h => h.table.contains e) || d.nodes.any (fun n => n.prunes.contains e)
    || d.foragers.any (fun g => g.prunes.contains e)

/-- The filters of some launches that stand in the machine, and those of a dormant region. -/
def State.filters (s : State) (mine : Nat → Bool) : List FilterRef :=
  (s.plots.filter (fun q => mine q.lid)).map (fun q => .plot q.lid q.pset q.x q.y)
    ++ (s.chans.filter (fun h => mine h.lid && h.kind != 0)).map (fun h => .chan h.lid h.num)
    ++ (s.nodes.filter (fun n => mine n.ref.lid)).map (fun n => .node n.ref)
    ++ (s.foragers.filter (fun g => mine g.page.lid)).map (fun g => .forager g.page g.ctx)
    ++ (s.portPrunes.filter (fun p => mine p.1.lid)).map (fun p => .port p.1 p.2.1)
def Dormant.filters (d : Dormant) : List FilterRef :=
  d.plots.map (fun q => .plot q.lid q.pset q.x q.y) ++ (d.chans.filter (fun h => h.kind != 0)).map (fun h => .chan h.lid h.num)
    ++ d.nodes.map (fun n => .node n.ref) ++ d.foragers.map (fun g => .forager g.page g.ctx)

/-- RETIRE from the home controller of another package: every filter here drops the entry, a dormant one when its region runs again (R82,
R101, R210). -/
def State.retireFrom (s : State) (mine : Nat → Bool) (lane serial : Nat) : State :=
  let gone (e : PruneEnt) : Bool := e.serial == serial && e.lane == lane
  let s : State := { s with dormants := s.dormants.map (fun d => if mine d.lid then
    { d with retires := d.retires ++ d.filters.flatMap (fun f =>
        ((d.plots.flatMap (fun q => q.prunes) ++ d.chans.flatMap (fun h => h.table) ++ d.nodes.flatMap (fun n => n.prunes)
          ++ d.foragers.flatMap (fun g => g.prunes)).filter gone).eraseDups.map (fun e => (f, e))) } else d) }
  (s.filters mine).foldl (fun s f => s.dropEntries f gone) s

/-- A filter receives RETIRE of a serial and drops that entry; a dormant one drops it when its region runs again (R101, R210). -/
def State.retireAt (s : State) (f : FilterRef) (serial : Nat) : State :=
  if s.dormants.any (fun d => d.holds f) then
    { s with dormants := s.dormants.map (fun d => if d.holds f then
        { d with retires := d.retires ++ ((s.sprouts.toList.flatMap (fun c => c.prunes)).filter (fun p => p.1.serial == serial && p.2.2)).map (fun p => (f, p.1)) }
      else d) }
  else s.dropEntries f (fun e => e.serial == serial && s.retiring e)

/-- RETIRE (R101). -/
def execRetire (filter : FilterRef) (serial : Nat) (s : State) : Host.Outcome State Fault Refusal := .next (s.retireAt filter serial)

/-- Does any filter still hold an entry, a dormant one included (R210)? -/
def State.entryHeld (s : State) (e : PruneEnt) : Bool :=
  let here (t : List PruneEnt) : Bool := t.contains e
  s.plots.any (fun q => here q.prunes) || s.chans.any (fun h => here h.table) || s.nodes.any (fun n => here n.prunes)
    || s.foragers.any (fun g => here g.prunes) || s.portPrunes.any (fun (d : CoreRef × Nat × PruneEnt) => decide (d.2.2 = e))
    || s.dormants.any (fun d => d.holdsEntry e)

/-- The last acknowledgement arrives: the entry is free, pending prunes are issued, the lane may launch or close. -/
def State.acknowledged (s : State) (d serial : Nat) : State :=
  let sp := s.sprout d
  match sp.prunes.find? (fun (p : PruneEnt × Nat × Bool) => p.1.serial == serial && p.2.2) with
  | none => s
  | some p =>
    if s.entryHeld p.1 then s
    else
      let e := p.1
      let s := s.setSprout d (({ sp with prunes := sp.prunes.erase p } : Sprout).updLane (e.lane % 64) (fun l =>
        { l with killed := l.killed.filter (fun g => !deadIn g e.lo e.hi) }))
      (s.issuePending d 64).settle d (e.lane % 64)

/-- RETIRE_ACKNOWLEDGE (R101). -/
def execRetireAcknowledge (die serial : Nat) (s : State) : Host.Outcome State Fault Refusal := .next (s.acknowledged die serial)

/-! ### The controller's other events -/

/-- The controller takes the next guess record (R92, R94). -/
def State.nextRecord (s : State) (d : Nat) : State :=
  let sp := s.sprout d
  let k := s.nextGuess sp.records
  match sp.records[k]? with
  | none => s
  | some b => if (s.die d).stopped then s else ((s.setSprout d { sp with records := sp.records.eraseIdx k }).useFree 1).takeRecord d (guessOf b)

/-- GUESS_RECORD (R92). -/
def execGuessRecord (die : Nat) (s : State) : Host.Outcome State Fault Refusal := .next (s.nextRecord die)

/-- GTH_WRITE (R90). -/
def execGthWrite (die k : Nat) (value : DWord) (s : State) : Host.Outcome State Fault Refusal := .next (s.writeGth die k value)

/-- MAXFL_WRITE (R91). -/
def execMaxflWrite (die lane : Nat) (value : DWord) (s : State) : Host.Outcome State Fault Refusal := .next (s.writeMaxfl die lane value)

end Sys2Proof.Machine
end

