-- ==== Sys2Proof/Machine/Package.lean ====
section
/-! DEFINITION. Power, clocks, cross-die time-outs, Volop ports and flits, RoCE packets (R17 to R34, R46). -/
namespace Sys2Proof.Machine

/-! ### Power and supply (R21, R25, R26, R46) -/

/-- Does the security root pass the firmware image: is its key the fused one, and its signature over the image's digest right (R46)? -/
def State.verifies (s : State) : Bool :=
  decide (Config.sha3 s.fwKey = Config.fusedKey) && Config.mlDsaVerify s.fwKey (Config.sha3 s.fwImage) s.fwSig

/-- The limit that firmware sets for cross-die time-outs: the default, or some number from 2^16 to 2^30 (R19, log 6). -/
def State.limitSet (s : State) : Nat :=
  if s.freeAt 0 = 0 then 2 ^ 24 else 2 ^ 16 + s.freeAt 0 % (2 ^ 30 - 2 ^ 16 + 1)

/-- Out of reset: the security root verifies the firmware, which brings its sealing keys and sets the time-out limits, and the boot sequence
begins; a failure is reported over Volop VC 0 (R19, R21, R46). -/
def State.boot (s : State) : State :=
  if s.verifies then
    ({ s with inReset := false, booted := true, sealingKeys := Config.sealingKeysOf s.fwImage
              dies := s.dies.map (fun d => { d with limit := s.limitSet }) } : State).useFree 1
  else ({ s with inReset := false, booted := false } : State).send (.report 8 0 0 0)

/-- The package with all its state lost; what has been sent is sent, and what arrives from outside goes on (R21, R26, log 40). -/
def State.lost (s : State) : State :=
  { State.reset with
    agenda := s.agenda, fresh := s.fresh, hostMem := s.hostMem, refusing := s.refusing, fwImage := s.fwImage, fwKey := s.fwKey
    fwSig := s.fwSig, pmap := s.pmap, supplyOk := s.supplyOk, latched := s.latched, outbox := s.outbox }

/-- Module power-on, also of a module that a supply fault holds in reset (R21). -/
def State.powerUp (s : State) : State :=
  if s.powered ∧ !s.inReset then s
  else
    let s := s.latched.foldl (fun s c => s.send (.report 3 c 0 0)) { s with powered := true, latched := [] }
    if s.supplyOk then s.boot else { s with latched := [1] }

/-- POWER_ON (R21). -/
def execPowerOn (s : State) : Host.Outcome State Fault Refusal := .next s.powerUp

/-- The input leaves 48 to 54 V: the package is held in reset, or enters it from operation (R21). -/
def State.supplyLost (s : State) : State :=
  if s.powered ∧ !s.inReset then { s.lost with powered := true, supplyOk := false, latched := s.latched ++ [1] }
  else { s with supplyOk := false }

/-- SUPPLY_OUT_OF_RANGE (R21). -/
def execSupplyOutOfRange (s : State) : Host.Outcome State Fault Refusal := .next s.supplyLost

/-- The input is back within its range: a package held in reset leaves it (R21). -/
def State.supplyBack (s : State) : State :=
  let s := { s with supplyOk := true }
  if s.powered ∧ s.inReset then s.boot else s

/-- SUPPLY_IN_RANGE (R21). -/
def execSupplyInRange (s : State) : Host.Outcome State Fault Refusal := .next s.supplyBack

/-- A die junction exceeds 110 °C: power is removed without a dump and the trip is latched (R26). -/
def State.trip (s : State) : State := if s.powered then { s.lost with latched := s.latched ++ [2] } else s

/-- THERMAL_TRIP (R26). -/
def execThermalTrip (s : State) : Host.Outcome State Fault Refusal := .next s.trip

/-- The power controller stretches die clocks: each to some frequency between 50% and 100% of nominal (R18, R25, log 6). -/
def State.stretch (s : State) : State :=
  { s with dies := Vector.ofFn (fun (i : Fin 17) => { s.dies[i] with percent := 50 + s.freeAt i % 51 }) }.useFree 17

/-- A bucket as the power controller rewrites it: it may close the port or open it, REFILL is 0 only on a closed one, and LEVEL never stands
above DEPTH (R23, R25). -/
def Bucket.rewrite (b : Bucket) (shut refill depth : Nat) : Bucket :=
  let d := 1 + depth % 65535
  let en := shut % 2 == 0
  { b with en := en, refill := if en then 1 + refill % 1024 else refill % 1025, depth := d, level := min b.level d }

/-- A fabric ingress port of a die that exists: a source port of an exposed page, or a die-edge port that is built (R22, R24). -/
def State.portBuilt (s : State) (d i : Nat) : Bool :=
  if i < 2592 then s.exposed d (i / 32 % 9) (i / 32 / 9) else decide (i < 2848) && Config.edgeBuilt d (i - 2592)

/-- The power controller re-evaluates every bucket from measured power and temperature: free values within their ranges (R25, log 6). -/
def State.evaluate (s : State) : State :=
  let keys := (List.range 8).flatMap (fun d => ((List.range 2848).filter (s.portBuilt d)).map (fun i => (d, i)))
  let new := keys.map (fun (k : Nat × Nat) =>
    let n := 3 * (k.1 * 4096 + k.2)
    (k.1 * 4096 + k.2, (s.bucket k.1 k.2).rewrite (s.freeAt n) (s.freeAt (n + 1)) (s.freeAt (n + 2))))
  { s with buckets := new.filter (fun (e : Nat × Bucket) => e.2 != ({} : Bucket)) }.useFree 98304

/-- POWER_CONTROLLER_EVALUATION (R18, R25). -/
def execPowerControllerEvaluation (s : State) : Host.Outcome State Fault Refusal :=
  .next (if s.live then s.evaluate.stretch else s)

/-- SUPPLY_DROOP (R25). -/
def execSupplyDroop (s : State) : Host.Outcome State Fault Refusal := .next (if s.live then s.stretch else s)

/-! ### Clocks (R18) -/

/-- The die of a page core. -/
def State.coreDie (s : State) (c : CoreRef) : Nat := s.dieOfPset c.lid c.pset

/-- Does a span reach a die, or one other than a die? -/
def spanOn (d : Nat) (sp : Span) : Bool := sp.any (fun r => dieOf r.1.pa == d)
def spanOff (d : Nat) (sp : Span) : Bool := sp.any (fun r => dieOf r.1.pa != d)

/-- The spans that the transfers of an engine request reach, and: is some bank of a die among them? -/
def State.engSpans (s : State) (r : EngReq) : List Span :=
  let at_ (va n : Nat) (k : AccKind) : Span := ((spanOf s (.die r.die) (s.asidOf r.core.lid) va n k).toOption).getD []
  (s.engMoves r).flatMap (fun (a, b, n) =>
    [at_ a n { wr := false, rd := true, sup := r.sup }, at_ b n { wr := true, rd := false, sup := r.sup }])
def State.engReaches (s : State) (r : EngReq) (d : Nat) : Bool := (s.engSpans r).any (spanOn d)

/-- Does a die hold no outstanding cross-die request and answer none, responses that its banks still owe to page cores of other dies
included (R18)? -/
def State.dieIdle (s : State) (d : Nat) : Bool :=
  s.cores.all (fun (e : CoreRef × PageCore) =>
    let p := e.2
    let mine := s.coreDie e.1 == d
    !(mine && (!p.posted.isEmpty || !p.responses.isEmpty || !p.streams.isEmpty || p.tileQ.any (fun t => t.op.touches)))
      && !p.responses.any (fun r => r.die == d) && !p.posted.any (fun q => spanOn d q.kind.span) && !p.streams.any (fun t => spanOn d t.span)
      && !p.tileQ.any (fun t => spanOn d t.op.span))
    && s.deferred.all (fun f => !spanOn d f.span && (match f.who with
      | .core c _ _ _ => s.coreDie c != d
      | .node r _ => ((s.nodeAt r).map (fun n => n.die)) != some d
      | .engine _ _ => true))
    && s.engines.all (fun r => r.die != d && s.coreDie r.core != d && !s.engReaches r d) && s.nodes.all (fun n => n.die != d || n.ops.isEmpty)

/-- Is a die under debug halt: does a region of a stopped or frozen launch stand on it (R18, R215)? -/
def State.debugHalt (s : State) (d : Nat) : Bool :=
  s.placed.any (fun p => (p.die == d || p.mdie == d) && (match s.launch p.lid with
    | some l => l.phase == .stopped || l.phase == .frozen
    | none => false))

/-- DIE_CLOCK_STOP (R18). -/
def execDieClockStop (die : Nat) (s : State) : Host.Outcome State Fault Refusal :=
  .next (if s.live && (s.debugHalt die || s.dieIdle die) then s.updDie die (fun d => { d with stopped := true }) else s)

/-- DIE_CLOCK_RESTART (R18). -/
def execDieClockRestart (die : Nat) (s : State) : Host.Outcome State Fault Refusal :=
  .next (s.updDie die (fun d => { d with stopped := false }))

/-! ### Cross-die time-outs (R19, R20, R31) -/

/-- A request of a die has waited for its limit of the die's cycles: its response will be late (R17, R19). -/
def State.lateOwed (s : State) (d : Nat) : State :=
  s.updDie d (fun x => { x with timedOut := x.timedOut + 1, cycles := max x.cycles x.limit })

/-- A time-out of a load: the fault is recorded against its block (R200, R336). -/
def State.loadTimeout (s : State) (c : CoreRef) (uid slot va : Nat) : State :=
  let s := { s with deferred := s.deferred.filter (fun f => match f.who with
    | .core c' u j _ => !(decide (c' = c) && u == uid && j == slot)
    | _ => true) }
  (s.mapCore c (fun p => { p with
    responses := p.responses.filter (fun r => !(r.uid == uid && r.slot == slot))
    blocks := p.blocks.map (fun b => if b.uid = uid then
      b.fail 8 (BitVec.ofNat 64 va) (((b.insn slot).map lsidOf).getD 0) else b) })).lateOwed (s.coreDie c)

/-- The address of a load whose data a page core still waits for, at a bank of another die or on its way. -/
def State.loadAwaited (s : State) (c : CoreRef) (uid slot : Nat) : Option Nat :=
  match s.deferred.find? (fun f => (match f.who with
      | .core c' u j _ => decide (c' = c) && u == uid && j == slot
      | _ => false) && spanOff (s.coreDie c) f.span) with
  | some f => some (spanVa f.span)
  | none => ((s.core c).responses.find? (fun r => r.uid == uid && r.slot == slot && r.die != s.coreDie c)).map (fun r => r.va)

/-- A tile instruction that times out: a failed TLD leaves its tile undefined (R359, log 6). -/
def State.tileTimeout (s : State) (c : CoreRef) (t : TileItem) : State :=
  let s' := s.mapCore c (fun p =>
    let p := { p with tileQ := p.tileQ.filter (fun u => decide (u ≠ t)) }
    match t.op with
    | .tld k _ _ => p.setTile k (Tile.setBytes [] 0 ((List.range 16384).map (fun i => Config.freeByte (2 ^ 40 * s.fresh + i))))
    | _ => p)
  s'.useFree 1

/-- Does a fence of a page core wait for an access that crosses dies (R19)? The address of the first. -/
def State.fenceCrosses (s : State) (c : CoreRef) (f : Fence) : Option Nat :=
  match (s.core c).posted.find? (fun q => decide (q.seq < f.upto) && spanOff (s.coreDie c) q.kind.span) with
  | some q => some q.va
  | none => match (s.core c).tileQ.find? (fun t => decide (t.seq < f.upto) && t.op.touches && spanOff (s.coreDie c) t.op.span) with
    | some t => some (spanVa t.op.span)
    | none => f.reads.findSome? (fun (r : Nat × Nat) => s.loadAwaited c r.1 r.2)

/-- The words that an element of a memory node reaches. -/
def State.opSpan (s : State) (n : MemNode) (o : NodeOp) : Span :=
  ((spanOf s n.tlb (s.asidOf n.ref.lid) o.va n.size { wr := n.dir != 0, rd := n.dir != 1, sup := false }).toOption).getD []

/-- A cross-die request times out (R19): one that another die is to answer; the count of a stopped die pauses. -/
def State.crossTimeout (s : State) (r : CrossReq) : State :=
  let d : Nat := match r with
    | .load c _ _ => s.coreDie c
    | .posted c _ => s.coreDie c
    | .tile c _ => s.coreDie c
    | .stream c _ => s.coreDie c
    | .fence c _ => s.coreDie c
    | .node n _ => ((s.nodeAt n).map (fun n => n.die)).getD 16
    | .engine die _ => die
    | .remote lid chan => ((s.chanNo lid chan).map (fun i => portDie (s.chanAt i).vport)).getD 16
  if (s.die d).stopped then s
  else match r with
  | .load c uid slot =>
    match s.loadAwaited c uid slot with
    | some va => s.loadTimeout c uid slot va
    | none => s
  | .posted c seq =>
    match (s.postedAt c seq).filter (fun q => spanOff d q.kind.span) with
    | some q =>
      let s' := if s.freeAt 0 % 2 = 1 then s.performPosted c q
        else s.mapCore c (fun p => { p with posted := p.posted.filter (fun r => r.seq != seq) })
      latchFault ((s'.useFree 1).lateOwed d) c 8 q.va q.lsid
    | none => s
  | .tile c seq =>
    match (s.core c).tileQ.find? (fun t => t.seq == seq && t.op.touches && spanOff d t.op.span) with
    | some t => latchFault ((s.tileTimeout c t).lateOwed d) c 8 (spanVa t.op.span) t.lsid
    | none => s
  | .stream c seq =>
    match (s.core c).streams.find? (fun t => t.seq == seq && t.tile.isNone && spanOff d t.span) with
    | some t => latchFault ((s.streamDone c seq).lateOwed d) c 8 (spanVa t.span) t.lsid
    | none => s
  | .fence c serial =>
    match ((s.core c).fences.find? (fun f => f.serial == serial)).bind (s.fenceCrosses c) with
    | some va => latchFault (s.lateOwed d) c 8 va 0
    | none => s
  | .node n elem =>
    match s.nodeAt n with
    | some m =>
      match m.ops.find? (fun o => o.elem == elem && o.status != 2 && spanOff d (s.opSpan m o)) with
      | some o => (s.lateOwed d).nodeFault n.lid d 0x8E o.chan o.ord
      | none => s
    | none => s
  | .engine die e =>
    match s.engines.find? (fun r => r.die == die && r.engine == e) with
    | some r => if (s.engSpans r).any (spanOff d) then (s.lateOwed d).engAnswer r 8 r.next 0 else s
    | none => s
  | .remote lid chan =>
    match s.chanNo lid chan with
    | some i =>
      let h := s.chanAt i
      if h.kind = 3 ∧ h.dst = .remote ∧ !(s.port h.vport).up ∧ !h.beats.isEmpty then s.updChan i (fun h => { h with expired := true }) else s
    | none => s

/-- CROSS_DIE_TIMEOUT (R19, R31). -/
def execCrossDieTimeout (req : CrossReq) (s : State) : Host.Outcome State Fault Refusal := .next (s.crossTimeout req)

/-- LATE_RESPONSE (R19): a response that comes after its time-out is discarded and counted. -/
def execLateResponse (die : Nat) (s : State) : Host.Outcome State Fault Refusal :=
  .next (if (s.die die).timedOut = 0 then s
    else s.updDie die (fun d => { d with timedOut := d.timedOut - 1, late := d.late + 1 }))

/-- The oldest response that a die has ready for the page cores of another: the page core and the response (R20). -/
def State.oldestWaiting (s : State) (die req : Nat) : Option (CoreRef × Response) :=
  (s.cores.filter (fun (e : CoreRef × PageCore) => s.coreDie e.1 == req)).foldl (fun (m : Option (CoreRef × Response)) e =>
    (e.2.responses.filter (fun r => r.die == die)).foldl (fun m r => match m with
      | some (c, q) => if r.stamp < q.stamp then some (e.1, r) else some (c, q)
      | none => some (e.1, r)) m) none

/-- LINK_STALL (R20): the responder holds its response, with all that waits behind it, and reports the link, which bears the number of the
requesting die (log 92), and the oldest waiting request. -/
def State.stall (s : State) (die link : Nat) : State :=
  match s.oldestWaiting die link with
  | some (_, r) =>
    if (s.die die).stalls.contains link then s
    else (s.updDie die (fun d => { d with stalls := d.stalls ++ [link] })).send (.report 6 die link r.va)
  | none => s
def execLinkStall (die link : Nat) (s : State) : Host.Outcome State Fault Refusal := .next (s.stall die link)

/-- LINK_STALL_CLEARED (R20): the clock of the requester runs and it accepts the beat; the oldest response is delivered. -/
def State.stallOver (s : State) (die link : Nat) : State :=
  if !(s.die die).stalls.contains link || (s.die link).stopped then s
  else
    let s := (s.updDie die (fun d => { d with stalls := d.stalls.filter (fun l => l != link) })).send (.report 7 die link 0)
    match s.oldestWaiting die link with
    | some (c, r) => s.loadArrives c r.uid r.slot
    | none => s
def execLinkStallCleared (die link : Nat) (s : State) : Host.Outcome State Fault Refusal := .next (s.stallOver die link)

/-! ### Volop ports (R28 to R31, R34) -/

/-- The highest version in two ranges, if they meet (R34). -/
def versionOf (lo hi lo' hi' : Nat) : Option Nat := if max lo lo' ≤ min hi hi' then some (min hi hi') else none

/-- Link training: the node number is assigned and versions are negotiated; a link that is up keeps its versions (R34). -/
def State.train (s : State) (port node lmin lmax hmin hmax : Nat) : State :=
  if !s.live || decide (18 ≤ port) || (s.port port).up || (s.port port).disabled then s
  else match versionOf lmin lmax 1 2 with
    | none => (s.updPort port (fun p => { p with node := node, mismatch := true })).send (.report 4 port 0 0)
    | some v => s.updPort port (fun p => { p with
        node := node, up := true, mismatch := false, linkVer := v, hostVer := (versionOf hmin hmax 1 3).getD 0 })

/-- LINK_TRAINING (R34). -/
def execLinkTraining (port node lmin lmax hmin hmax : Nat) (s : State) : Host.Outcome State Fault Refusal :=
  .next (s.train port node lmin lmax hmin hmax)

/-- Resends the flits of the replay buffer after a SEQ (R30). -/
def State.resend (s : State) (port seq : Nat) : State :=
  let p := s.port port
  let after := match p.replay.findIdx? (fun (e : Nat × List Byte) => e.1 == seq) with
    | some k => p.replay.drop (k + 1)
    | none => p.replay
  match after with
  | [] => s
  | (first, _) :: _ =>
    let s := s.updPort port (fun p => { p with again := if p.againSeq = first then p.again + 1 else 1, againSeq := first })
    after.foldl (fun s (e : Nat × List Byte) => s.send (.flit port e.2)) s

/-- A received NAK: the transmitter resends after the SEQ it names, until a retrain is due (R30). -/
def State.nakTaken (s : State) (port seq : Nat) : State :=
  if (s.port port).up ∧ (s.port port).again < 16 then s.resend port seq else s

/-- FLIT_NAK (R30). -/
def execFlitNak (port seq : Nat) (s : State) : Host.Outcome State Fault Refusal := .next (s.nakTaken port seq)

/-- A retrain after 16 retransmissions of one flit: resending resumes from the replay buffer; the third failure disables the port (R30). -/
def State.retrain (s : State) (port : Nat) (ok : Bool) : State :=
  let p := s.port port
  if p.again < 16 ∨ p.disabled then s
  else if ok then
    (s.updPort port (fun p => { p with again := 0, retrains := 0 })).resend port ((p.againSeq + 2 ^ 12 - 1) % 2 ^ 12)
  else if p.retrains + 1 < 3 then s.updPort port (fun p => { p with retrains := p.retrains + 1 })
  else (s.updPort port (fun p => { p with retrains := 3, up := false, disabled := true })).send (.report 5 port 0 0)

/-- PORT_RETRAIN (R30). -/
def execPortRetrain (port : Nat) (ok : Bool) (s : State) : Host.Outcome State Fault Refusal := .next (s.retrain port ok)

/-- The message of a flit (R35), and the event its CODE stands for (R36). -/
def flitMsg (port : Nat) (f : List Byte) : HostMsg :=
  let h := flitHead f
  let b := (f.drop 12).take h.len
  { port := port, node := h.src, vc := h.vc, pver := leNat ((b.drop 2).take 1), zero := leNat ((b.drop 3).take 1)
    tag := leNat ((b.drop 4).take 4), body := b.drop 8 }
/-- The CODE of a flit's message: none stands in a payload that ends before the body (R35). -/
def flitCode (f : List Byte) : Nat := if (flitHead f).len < 8 then 0 else leNat ((f.drop 12).take 2)
def msgEvent (code : Nat) (m : HostMsg) : Option Instr :=
  match code with
  | 0x0101 => some (.launch m)
  | 0x0001 => some (.prepare m)
  | 0x0002 => some (.switch m)
  | 0x0003 => some (.abort m)
  | 0x0010 => some (.attest m)
  | 0x0011 => some (.setPtbase m)
  | 0x0020 => some (.frostRead m)
  | 0x0021 => some (.dbgSample m)
  | 0x0022 => some (.dbgRead m)
  | 0x0023 => some (.resume m)
  | 0x0024 => some (.kill m)
  | 0x0025 => some (.replayArm m)
  | 0x0026 => some (.replayRead m)
  | 0x0027 => some (.errlogRead m)
  | 0x0028 => some (.dumpRead m)
  | 0x0029 => some (.dumpClear m)
  | _ => none

/-- A beat reaches an inbound remote channel; a prune is relayed to the ingresses of its pipeline here (R31, R98). -/
def State.remoteBeat (s : State) (i : Nat) (b : Beat) : State :=
  let s' := s.push i b
  if isControl b 1 then s'.relayPrune (s.chanAt i).lid (beatPrune b) else s'

/-- What another package of a pipeline says over VC 3 (R82, log 95): guess records and drain reports reach the home controller, commit notices and
RETIRE what this package has of a pipeline whose home is there. -/
def State.pipeIn (s : State) (src : Nat) (m : PipeMsg) : State :=
  let mine (lid : Nat) : Bool := Config.homeNode lid == some src
  match m with
  | .guess gpix lane pos gen tok conf =>
    let r : GuessRec := { gpix := gpix, lane := lane, pos := pos, gen := gen, tok := tok, conf := ({ img := conf } : Strand).image }
    let sp := s.sprout (lane / 64)
    if sp.owner.isSome then s.setSprout (lane / 64) { sp with records := sp.records ++ [r.beat] } else s
  | .drained lane serial =>
    let sp := s.sprout (lane / 64)
    if sp.owner.isSome then s.setSprout (lane / 64) { sp with reports := sp.reports ++ [serial] } else s
  | .notice lane gen =>
    ((s.chans.filter (fun h => mine h.lid && h.egress)).map (fun h => NoticeTo.egress h.lid h.num)
      ++ (s.nodes.filter (fun n => mine n.ref.lid)).map (fun n => NoticeTo.node n.ref)).foldl (fun s d => s.applyNotice lane gen d) s
  | .retire lane serial => s.retireFrom mine lane serial
  | .none => s

/-- The beats of a remote-channel flit reach the inbound channel that bears its number (R31). -/
def State.remoteIn (s : State) (src : Nat) (p : List Byte) : State :=
  let n := leNat (p.take 2)
  let k := leNat ((p.drop 2).take 1) % 4
  match (s.chanIdx (fun h => h.kind == 3 && h.srcs == [.remote] && h.rchan == n && h.rnode == src)).head? with
  | none => s
  | some i => (List.range k).foldl (fun s j => s.remoteBeat i (ofBeat78 ((p.drop (6 + 78 * j)).take 78))) s

/-- The store of an agent outside the page cores: on a WO page only whole absent words take it (R178), and none where an uncorrectable error
stands (log 49); none where it is refused. -/
def State.outerStore (s : State) (sp : Span) (bs : List Byte) : Option State :=
  if s.eccBad (spanPas sp) || sp.any (fun (x, n) =>
      x.attr != 0 && (x.pa % 8 != 0 || n % 8 != 0 || (List.range n).any (fun i => s.present (x.pa + i)))) then none
  else
    let r := sp.foldl (fun (a : State × List Byte) (e : Xlat × Nat) =>
      let t := match regionOf e.1.pa with
        | .host n h => a.1.hostStore none n h (a.2.take e.2)
        | _ => a.1.store e.1.pa (a.2.take e.2)
      (if e.1.attr = 0 then t else (List.range (e.2 / 8)).foldl (fun t i => t.setPresent (e.1.pa + 8 * i)) t, a.2.drop e.2)) (s.eccMeet (spanPas sp), bs)
    some r.1.answerDeferred

/-- The remote channels pinned to a port have some of their beats credited: how many is free, all of them where the number is 0 (R31, log 89);
what waits then leaves. -/
def State.remoteCredits (s : State) (port : Nat) : State :=
  (s.chanIdx (fun h => h.kind == 3 && decide (h.dst = .remote) && h.vport == port && h.owed != 0)).foldl (fun s i =>
    ((s.updChan i (fun h => { h with owed := s.freeAt 0 % (h.owed + 1) })).useFree 1).sendRemote i) s

/-- A memory request of a host (R29, log 86): it reads or writes bulk store and scratchpads through the tables of the address space it names, and
is answered. One that names the state of a sealed page set returns zero, is refused and counted (R48). -/
def State.memRequest (s : State) (port src : Nat) (r : MemReq) : State :=
  let space := spaceOf r.asid ((s.ptbaseOf r.asid).getD 0)
  let o : TlbOwner := .die 16
  let answer (s : State) (bs : List Byte) : State := s.memFlits port src 2 4 bs
  match walk s space r.addr with
  | none => answer s []
  | some (e, size) =>
    let pa := pteField e 16 36 * 65536 / size * size + r.addr % size
    if reservedMem pa then
      if s.placed.any (fun p => p.isSealed) then answer { s with sealRefusals := s.sealRefusals + 1 } (List.replicate r.len 0) else answer s []
    else match spanOf s o space r.addr r.len { wr := r.wr, rd := !r.wr, sup := true } with
      | .error _ => answer s []
      | .ok sp =>
        let met := s.eccMeet (spanPas sp)
        if r.wr then answer ((s.outerStore sp (r.data.take r.len)).getD met) []
        else answer met (if s.eccBad (spanPas sp) then [] else readSpan s sp)

/-- A flit received in order is delivered by TYPE; one on a reserved virtual channel is discarded and counted (R28, R29). -/
def State.deliverFlit (s : State) (port : Nat) (f : List Byte) : State :=
  let h := flitHead f
  if 5 ≤ h.vc then s.updPort port (fun p => { p with discards := p.discards + 1 })
  else if h.vc = 3 ∧ h.type ≠ 2 then s.pipeIn h.src (Config.pipeMsg ((f.drop 12).take h.len))
  else if h.type = 1 then
    let m := flitMsg port f
    match msgEvent (flitCode f) m with
    | some i => { s with agenda := .event i :: s.agenda }
    | none => s.result m (if (s.port port).hostVer = 0 then 7 else 6) 0 0
  else if h.type = 2 then (if h.vc = 3 then s.remoteIn h.src ((f.drop 12).take h.len) else s)
  else if h.type = 3 then (if h.vc = 2 then s.memRequest port h.src (Config.memReq ((f.drop 12).take h.len)) else s)
  else if h.type = 4 ∧ h.vc = 2 then s.acked h.src
  else s

/-- The NAK of a port: a flit that names the last good SEQ (R28, R30). -/
def State.sendNak (s : State) (port dst : Nat) : State := s.putFlit port dst 0 0 true []

/-- A flit arrives: an error, or a SEQ that is not due, discards it and every later one, and NAK names the last good SEQ. While flits are being
discarded, an error in one of them is answered again, since it may be the one that was sent again; a SEQ that is not due is not (R30). -/
def State.receive (s : State) (port : Nat) (f : List Byte) : State :=
  let p := s.port port
  if !p.up || (s.die (portDie port)).stopped then s
  else if !flitWhole f || (flitHead f).seq != p.recvSeq then
    if p.discarding && flitWhole f then s
    else (s.updPort port (fun p => { p with discarding := true })).sendNak port (flitHead f).src
  else
    let s := s.updPort port (fun p => { p with recvSeq := (p.recvSeq + 1) % 2 ^ 12, discarding := false })
    let s := if (flitHead f).nak then s.nakTaken port (flitHead f).ack else s
    ((s.credits port).remoteCredits port).deliverFlit port f

/-- FLIT_RECEIVE (R30). -/
def execFlitReceive (port : Nat) (flit : List Byte) (s : State) : Host.Outcome State Fault Refusal := .next (s.receive port flit)

/-! ### RoCE v2 (R33) -/

/-- The queue pair of a number. -/
def State.qpair (s : State) (n : Nat) : QPair := (s.qpairs.find? (fun q => q.qp == n)).getD { qp := n }
def State.setQpair (s : State) (q : QPair) : State := { s with qpairs := q :: s.qpairs.filter (fun r => r.qp != q.qp) }

/-- The bytes that an access through a key reaches: inside the key's window and translated under its ASID (R33). -/
def State.keySpan (s : State) (k : RocePacket) (wr : Bool) : Option Span :=
  match s.keys.find? (fun w => w.key == k.key && decide (w.base ≤ k.addr ∧ k.addr + k.len ≤ w.base + w.len)) with
  | none => none
  | some w =>
    let sp := (spanOf s (.die 16) (spaceOf w.asid ((s.ptbaseOf w.asid).getD 0)) k.addr k.len { wr := wr, rd := !wr, sup := true }).toOption
    sp.filter (fun sp => sp.all (fun r => match regionOf r.1.pa with
      | .bulk _ => true
      | _ => false))

/-- The priority of the frame of a packet (R32). -/
def frameClass (k : RocePacket) : Nat := ((k.vlan.map (fun v => v.2)).getD 0) % 8

def State.ethPort (s : State) (n : Nat) : EthPort := if h : n < 8 then s.eth[n] else {}
def State.updEth (s : State) (n : Nat) (f : EthPort → EthPort) : State :=
  if h : n < 8 then { s with eth := s.eth.set n (f s.eth[n]) } else s

/-- Sends a packet by an Ethernet port, unless its priority is paused there: then it waits (R32). -/
def State.sendEth (s : State) (port prio : Nat) (x : Sent) : State :=
  if (s.ethPort port).paused.contains prio then s.updEth port (fun e => { e with waiting := e.waiting ++ [(prio, x)] }) else s.send x

/-- A priority flow control frame: it holds a priority for which the port keeps flow control, or lets it go (R32, log 90). -/
def State.pause (s : State) (port prio : Nat) (on : Bool) : State :=
  if prio ≠ Config.pfcPriority port 0 ∧ prio ≠ Config.pfcPriority port 1 then s
  else if on then s.updEth port (fun e => { e with paused := prio :: e.paused.filter (fun q => q != prio) })
  else
    let go := (s.ethPort port).waiting.filter (fun (w : Nat × Sent) => w.1 == prio)
    let s := s.updEth port (fun e => { e with
      paused := e.paused.filter (fun q => q != prio), waiting := e.waiting.filter (fun (w : Nat × Sent) => w.1 != prio) })
    go.foldl (fun s (w : Nat × Sent) => s.send w.2) s

/-- Answers a packet: 0 done, 1 data of a read, 2 NAK invalid request, 3 NAK remote access error, 4 congestion notification. -/
def State.roceAnswer (s : State) (k : RocePacket) (kind : Nat) (bs : List Byte) : State := s.sendEth k.port (frameClass k) (.roceReply k.port k.qp kind bs)

/-- Data cut into packets of the path MTU; no data is one packet. -/
def mtuCut (mtu : Nat) : Nat → List Byte → List (List Byte)
  | 0, bs => [bs]
  | fuel + 1, bs => if bs.length ≤ mtu then [bs] else bs.take mtu :: mtuCut mtu fuel (bs.drop mtu)

/-- Is an operation listed in R33: sends, writes and reads, with or without immediate data, and notifications? -/
def roceListed (op : Nat) : Bool := decide (op ≤ 4) || op == 6

/-- What a packet asks for: sends are taken, writes and reads are done through their key's window, atomics and all that is not listed are refused,
and so is a read whose data would leave by a queue pair that is a sealed sink (R49, log 59). -/
def State.rocePerform (s : State) (k : RocePacket) : State :=
  let q := s.qpair k.qp
  let imm : Option Nat := if k.op = 1 ∨ k.op = 3 then some k.imm else none
  if !roceListed k.op || decide (q.mtu < k.data.length) then s.roceAnswer k 2 []
  else if k.op = 4 ∧ q.boundTo.isSome then s.roceAnswer k 3 []
  else if k.op = 6 then s.setQpair { q with rate := q.rate / 2 }
  else if k.op < 2 then ({ s with roceRecv := s.roceRecv ++ [(k.qp, imm, k.data)] } : State).roceAnswer k 0 []
  else match s.keySpan k (k.op != 4) with
    | none => s.roceAnswer k 3 []
    | some sp =>
      let met := s.eccMeet (spanPas sp)
      if k.op = 4 then
        if s.eccBad (spanPas sp) then met.roceAnswer k 3 []
        else (mtuCut q.mtu (k.len / q.mtu + 1) (readSpan s sp)).foldl (fun s bs => s.roceAnswer k 1 bs) met
      else match s.outerStore sp (k.data.take k.len) with
        | some s => ({ s with roceRecv := if imm.isSome then s.roceRecv ++ [(k.qp, imm, [])] else s.roceRecv } : State).roceAnswer k 0 []
        | none => met.roceAnswer k 3 []

/-- Queue pairs of the package (R33). -/
def qpairCount : Nat := 8192

/-- A frame reaches an Ethernet port. One that is too long does not arrive; flow control holds a priority; a bad ICRC is dropped silently; another
transport, or a queue pair that the package does not have, is dropped and counted; a CE mark is answered (R32, R33, log 90). -/
def State.roce (s : State) (k : RocePacket) : State :=
  if !s.live || decide (8 ≤ k.port) || (s.die (ethDie k.port)).stopped || decide (9216 < k.frame) then s
  else match k.pfc with
  | some (prio, on) => s.pause k.port prio on
  | none =>
    if !k.icrcOk then s
    else if !k.rc || decide (qpairCount ≤ k.qp) then { s with roceDrops := s.roceDrops + 1 }
    else
      let s := if k.ce then s.roceAnswer k 4 [] else s
      s.rocePerform k

/-- ROCE_PACKET (R33). -/
def execRocePacket (pkt : RocePacket) (s : State) : Host.Outcome State Fault Refusal := .next (s.roce pkt)

/-- ROCE_RATE_RECOVERY (R33): a throttled queue pair recovers by 1/16 of line rate. -/
def execRoceRateRecovery (s : State) : Host.Outcome State Fault Refusal :=
  .next { s with qpairs := s.qpairs.map (fun q => { q with rate := min (2 ^ 20) (q.rate + 2 ^ 16) }) }

end Sys2Proof.Machine
end

