-- ==== Sys2Proof/Machine/Debug.lean ====
section
/-! DEFINITION. Suspected hangs and the frost map, breakpoints, memory errors, fatal errors, registers (R5, R16, R211 to R226). -/
namespace Sys2Proof.Machine

/-! ### The frost map (R211, R212) -/

/-- A blocked port: die, plot row and column, and its entry of 32 bytes. -/
structure FrostEntry where
  die : Nat
  row : Nat
  col : Nat
  bytes : List Byte
  deriving DecidableEq, Repr

/-- An entry as R212 lays it out; inside a sealed page set only its place shows. -/
def frostEntry (die col row : Nat) (isSealed : Bool) (idx kind wait num ord va count : Nat) : FrostEntry :=
  { die := die, row := row, col := col
    bytes := if isSealed then leBytes 1 die ++ leBytes 1 col ++ leBytes 1 row ++ [0, 5] ++ List.replicate 27 0
      else leBytes 1 die ++ leBytes 1 col ++ leBytes 1 row ++ leBytes 1 idx ++ leBytes 1 kind ++ leBytes 1 wait ++ leBytes 2 num
        ++ leBytes 8 ord ++ leBytes 8 va ++ leBytes 4 count ++ List.replicate 4 0 }

/-- Order of die, plot row, plot column. -/
def frostBefore (a b : FrostEntry) : Bool :=
  decide (a.die < b.die) || (a.die == b.die && (decide (a.row < b.row) || (a.row == b.row && decide (a.col ≤ b.col))))
def frostInsert (a : FrostEntry) : List FrostEntry → List FrostEntry
  | [] => [a]
  | b :: r => if frostBefore a b then a :: b :: r else b :: frostInsert a r
def frostSort (l : List FrostEntry) : List FrostEntry := l.foldr frostInsert []

/-- Number and ordinal of a channel. -/
def State.chanPair (s : State) (i : Nat) : Nat × Nat := ((s.chanAt i).num, (s.chanAt i).ordinal)

/-- A no-progress count as the map shows it: what the model keeps, or, while its cycles are not counted, a free value (log 9). -/
def State.frostCount (s : State) (n k : Nat) : Nat := if n = 0 then s.freeAt k % s.hangLimit else n

/-- Why a channel has no room: it has no free slot, or its plot no permit (R119, R212). -/
def State.roomWait (s : State) (i ctx : Nat) : Nat := if (s.chanAt i).load ctx < (s.chanAt i).bankSlots then 3 else 2

/-- The blocked ports of an element: it holds a valid input, and waits for another input, for a slot or for a permit. -/
def State.frostElem (s : State) (e : Elem) : List FrostEntry :=
  match s.place e.ref.lid e.ref.pset with
  | none => []
  | some p =>
    let mk (kind wait : Nat) (c : Nat × Nat) : FrostEntry :=
      frostEntry p.die (4 * p.x + e.ref.x) (4 * p.y + e.ref.y) p.isSealed e.ref.idx kind wait c.1 c.2 0 (s.frostCount e.noProgress e.ref.idx)
    if e.blocked then [mk 0 7 (0, 0)]
    else if !e.entries.any (fun k => (s.dataAt e k).isSome) then []
    else
      (e.entries.filter (fun k => (s.dataAt e k).isNone)).map (fun k => mk 0 1 (((s.entryChan e k).map s.chanPair).getD (0, 0)))
        ++ (e.exits.filter (fun q => !s.exitRoom e q 1)).flatMap (fun q =>
          ((s.exitChans e q).filter (fun i => !s.room i 1 e.ctx)).map (fun i =>
            mk 1 (s.roomWait i e.ctx) (s.chanPair i)))

/-- The blocked ports of a memory node: accesses that are deferred or held, an input that is empty while another holds a beat, and outputs without a
slot for a result that is due. -/
def State.frostNode (s : State) (n : MemNode) : List FrostEntry :=
  let mk (kind wait num ord va : Nat) : FrostEntry :=
    frostEntry n.die 0 0 ((s.place n.ref.lid n.pset).any (fun p => p.isSealed)) n.phys kind wait num ord va (s.frostCount n.noProgress n.phys)
  let ins := s.nodeIns n.ref
  let due : Bool := n.ops.head?.any (fun o => o.status == 2)
  (n.ops.filter (fun o => o.status == 1)).map (fun o =>
      mk 2 (if s.held.any (fun w => decide (w.who = .node n.ref o.elem)) then 5 else 4) o.chan o.ord o.va)
    ++ (if ins.any (fun i => (s.first i).isSome) then ins.filter (fun i => (s.chanAt i).beats.isEmpty) else []).map (fun i =>
      mk 0 1 (s.chanPair i).1 (s.chanPair i).2 0)
    ++ (if due then (s.nodeOuts n.ref).filter (fun i => !s.room i 1 (s.chanAt i).ctx) else []).map (fun i =>
      mk 1 (s.roomWait i (s.chanAt i).ctx) (s.chanPair i).1 (s.chanPair i).2 0)

/-- The blocked output of a channel node: a beat that its consumer does not take, or a segment that it holds until it is released. One that
waits only for its bucket is not blocked (R80, log 104). -/
def State.frostChan (s : State) (i : Nat) : List FrostEntry :=
  let h := s.chanAt i
  let isSealed := (s.place h.lid h.srcPset).any (fun p => p.isSealed) || (s.place h.lid h.dstPset).any (fun p => p.isSealed)
  let mk (wait : Nat) : FrostEntry := frostEntry (s.mdieOf h.lid h.dstPset) 0 0 isSealed 0xFF 1 wait h.num h.ordinal 0 (s.frostCount h.noProgress (i % 256))
  if h.kind = 0 ∨ s.throttled h then []
  else (if h.beats.isEmpty then [] else [mk 2]) ++ (if h.held.isEmpty then [] else [mk 7])

/-- The blocked ports of a forager that holds a record: outputs without a slot, or else its return ring, which is empty (log 104). -/
def State.frostForager (s : State) (g : Forager) : List FrostEntry :=
  match s.place g.page.lid g.page.pset with
  | none => []
  | some p =>
    let mk (kind wait : Nat) (c : Nat × Nat) : FrostEntry :=
      frostEntry p.die (4 * (p.x + g.page.px)) (4 * (p.y + g.page.py)) p.isSealed 0xFF kind wait c.1 c.2 0 (s.frostCount 0 256)
    let holds (port : Nat) : Bool := (s.fgIn g port).any (fun i => (s.first i).isSome)
    let full := (s.foragerOuts g).filter (fun i => !s.room i 1 g.ctx)
    if g.frozen.isSome || !(holds 0 || holds 3 || !g.inLoop.isEmpty) then []
    else full.map (fun i => mk 1 (s.roomWait i g.ctx) (s.chanPair i))
      ++ (if full.isEmpty && !holds 3 then ((s.fgIn g 3).map s.chanPair).toList.map (mk 0 1) else [])

/-- Does a source port wait only for its bucket: its link would take the beat that stands first (R80)? -/
def State.portWaits (s : State) (c : CoreRef) (n : Nat) : Bool :=
  let (die, port) := s.portOf c n
  !((s.core c).srcQ n).isEmpty && !(s.bucket die port).ready && (match (s.viLink c n).bind (fun h => s.chanNo h.lid h.num) with
    | some i => !(s.chanAt i).marked && s.room i 1 (s.chanAt i).ctx
    | none => false)

/-- Source ports with a beat that their link cannot take. -/
def State.frostSources (s : State) (c : CoreRef) : List (Nat × Nat) :=
  (List.range 32).filterMap (fun n => if ((s.core c).srcQ n).isEmpty then none
    else ((s.viLink c n).bind (fun h => s.chanNo h.lid h.num)).bind (fun i =>
      if (s.chanAt i).marked || s.room i 1 (s.chanAt i).ctx then none else some (n, i)))

/-- The sink ports at which the oldest block waits: an IN of it has not fired and the queue is empty. -/
def State.frostSinks (s : State) (c : CoreRef) : List (Nat × Chan) :=
  match (s.core c).blocks.head? with
  | none => []
  | some b => ((List.range 32).filter (fun n => ((s.core c).sinkQ n).isEmpty && (List.range b.words.length).any (fun j =>
      !b.settled j && (b.missing j).isEmpty && (b.insn j).any (popsPort n)))).filterMap (fun n => (s.voLink c n).map (fun h => (n, h)))

/-- The blocked ports of a page core: accesses, a SPAWN whose queue is full, its waiting block, source ports and sink ports. -/
def State.frostCore (s : State) (c : CoreRef) : List FrostEntry :=
  let p := s.core c
  let (x, y) := s.pageXY c
  let isSealed := (s.place c.lid c.pset).any (fun p => p.isSealed)
  let mk (kind wait va : Nat) (ch : Nat × Nat := (0, 0)) : FrostEntry :=
    frostEntry (s.coreDie c) (4 * x) (4 * y) isSealed 0xFF kind wait ch.1 ch.2 va (s.frostCount p.noProgress 256)
  (s.deferred.filter (fun f => match f.who with
      | .core c' _ _ _ => decide (c' = c)
      | _ => false)).map (fun f => mk 2 4 (spanVa f.span))
    ++ (p.posted.filter (fun q => q.atBank)).map (fun q => mk 2 5 q.va)
    ++ (if p.blocks.isEmpty then [] else [if s.seqs.toList.any (fun q => q.stalled.contains c) then mk 3 6 0 else mk 4 7 0])
    ++ (s.frostSources c).map (fun (e : Nat × Nat) => mk 1 (s.roomWait e.2 (s.chanAt e.2).ctx) 0 (s.chanPair e.2))
    ++ (s.frostSinks c).map (fun (e : Nat × Chan) => mk 0 1 0 (e.2.num, e.2.ordinal))

/-- The frost map of a launch (R212). -/
def State.frostMap (s : State) (lid die : Nat) : List Byte :=
  let es := frostSort ((s.elems.filter (fun e => e.ref.lid == lid)).flatMap s.frostElem
    ++ (s.nodes.filter (fun n => n.ref.lid == lid)).flatMap s.frostNode
    ++ (s.chanIdx (fun h => h.lid == lid)).flatMap s.frostChan
    ++ (s.foragers.filter (fun g => g.page.lid == lid)).flatMap s.frostForager
    ++ (s.cores.filter (fun (e : CoreRef × PageCore) => e.1.lid == lid)).flatMap (fun (e : CoreRef × PageCore) => s.frostCore e.1))
  leBytes 4 lid ++ leBytes 4 es.length ++ leBytes 1 die ++ List.replicate 55 0 ++ es.flatMap (fun e => e.bytes)

/-- A suspected hang: every region freezes, the frost map is kept with those of the last four such launches, the launch ends with HANG;
a fault that is already reported decides and no map is written (R211). -/
def State.hang (s : State) (lid die plotx ploty : Nat) : State :=
  if s.ended lid then s
  else
    let s := { s.useFree 257 with frost := ((lid, s.frostMap lid die) :: s.frost).take 4 }
    (s.endWith lid { status := 0x22, detail := 0x90, die := die, plotx := plotx, ploty := ploty }).haltLaunch lid

/-- Do the agents of a region count: it runs, and no cut quiesces it (R211)? -/
def State.counts (s : State) (lid pset : Nat) : Bool := s.runs lid pset && !s.isCut lid pset

/-- Does a page core hold an input, a stalled access, a deferred load or a stalled SPAWN? -/
def PageCore.holding (p : PageCore) : Bool :=
  !p.blocks.isEmpty || !p.posted.isEmpty || !p.tileQ.isEmpty || !p.streams.isEmpty || p.sink.toList.any (fun q => !q.isEmpty)
    || p.src.toList.any (fun q => !q.isEmpty)

/-- Where an agent reports from: launch, die, plot; none when it holds nothing, does not run, or has a port that waits only for its bucket (R80,
R211). -/
def State.agentPlace (s : State) (a : Agent) : Option (Nat × Nat × Nat × Nat) :=
  match a with
  | .elem r => match s.elemAt r, s.place r.lid r.pset with
    | some e, some p => if s.counts r.lid r.pset && e.entries.any (fun k => (s.dataAt e k).isSome)
        && !(s.inChans e).any (fun i => s.throttled (s.chanAt i)) then
        some (r.lid, p.die, 4 * p.x + r.x, 4 * p.y + r.y) else none
    | _, _ => none
  | .node r => match s.nodeAt r with
    | some n => if s.counts r.lid n.pset && (!n.ops.isEmpty || (s.nodeIns r).any (fun i => !(s.chanAt i).beats.isEmpty)) then
        some (r.lid, n.die, 0, 0) else none
    | none => none
  | .chan lid num => match s.chanNo lid num with
    | some i =>
      let h := s.chanAt i
      if h.kind ≠ 0 && s.counts lid h.dstPset && !s.throttled h && (!h.beats.isEmpty || !h.held.isEmpty) then some (lid, s.mdieOf lid h.dstPset, 0, 0) else none
    | none => none
  | .core c =>
    let p := s.core c
    let (x, y) := s.pageXY c
    if s.counts c.lid c.pset && p.holding && !(List.range 32).any (s.portWaits c) then some (c.lid, s.coreDie c, 4 * x, 4 * y) else none

/-- An agent's counter stands at its limit. -/
def State.countOut (s : State) (a : Agent) : State :=
  match a with
  | .elem r => s.updElem r (fun e => { e with noProgress := s.hangLimit })
  | .node r => s.updNode r (fun n => { n with noProgress := s.hangLimit })
  | .chan lid num => match s.chanNo lid num with
    | some i => s.updChan i (fun h => { h with noProgress := s.hangLimit })
    | none => s
  | .core c => s.mapCore c (fun p => { p with noProgress := s.hangLimit })

/-- NO_PROGRESS_LIMIT (R211). -/
def execNoProgressLimit (agent : Agent) (s : State) : Host.Outcome State Fault Refusal :=
  match s.agentPlace agent with
  | some (lid, die, x, y) => .next ((s.countOut agent).hang lid die x y)
  | none => .next s

/-- The first region of a cut that has not stopped. -/
def State.cutLate (s : State) (c : Cut) : Nat × Nat × Nat :=
  match s.elems.find? (fun e => e.ref.lid == c.lid && c.psets.contains e.ref.pset && !s.elemStopped e) with
  | some e => match s.place e.ref.lid e.ref.pset with
    | some p => (p.die, 4 * p.x + e.ref.x, 4 * p.y + e.ref.y)
    | none => (0, 0, 0)
  | none => (s.dieOfPset c.lid (c.psets.headD 0), 0, 0)

/-- CUT_TIMEOUT (R209): the oldest cut that is not complete is treated as a suspected hang. -/
def execCutTimeout (s : State) : Host.Outcome State Fault Refusal :=
  match s.cuts.find? (fun c => !s.cutDone c) with
  | some c =>
    let (die, x, y) := s.cutLate c
    .next ({ s with cuts := s.cuts.filter (fun d => decide (d ≠ c)) }.hang c.lid die x y)
  | none => .next s

/-! ### Breakpoints (R214 to R216) -/

/-- Is a channel of a launch inside a sealed page set, as its image declares it, wherever it stands saved or placed (R48, R214)? -/
def State.sealedChan (s : State) (lid num : Nat) : Bool :=
  let isSealed (p : Nat) : Bool := (((s.imageOf lid).bind (fun m => m.psets[p]?)).map (fun q => q.isSealed)).getD false
    || (s.place lid p).any (fun q => q.isSealed)
  (s.chans ++ s.dormants.flatMap (fun d => d.chans)).any (fun h => h.lid == lid && h.num == num && (isSealed h.srcPset || isSealed h.dstPset))

/-- A breakpoint register as a write leaves it: HIT clears by one, reserved bits stay zero (R5, R214). -/
def dbpWritten (old v : BitVec 128) : BitVec 128 :=
  let keep : Nat := v.toNat / 2 ^ 77 * 2 ^ 77 + v.toNat % 2 ^ 64
  let hit : Nat := if v.getLsbD 76 then 0 else if old.getLsbD 76 then 2 ^ 76 else 0
  BitVec.ofNat 128 (keep + hit)

/-- A write to a breakpoint register; one that names a channel inside a sealed page set is refused and counted (R48, R214). -/
def State.writeDbp (s : State) (n : Nat) (v : BitVec 128) : State :=
  if s.sealedChan (dbpLid v) (dbpChan v) then { s with sealRefusals := s.sealRefusals + 1 }
  else if h : n < 16 then { s with dbp := s.dbp.set n (dbpWritten s.dbp[n] v) } else s

/-- DBP_WRITE (R214). -/
def execDbpWrite (n : Nat) (value : BitVec 128) (s : State) : Host.Outcome State Fault Refusal := .next (s.writeDbp n value)

def State.dbpAt (s : State) (n : Nat) : BitVec 128 := if h : n < 16 then s.dbp[n] else 0
def State.setHit (s : State) (n : Nat) : State := if h : n < 16 then { s with dbp := s.dbp.set n (s.dbp[n] ||| (1 <<< 76)) } else s

/-- A beat goes to the launch's sample ring of 256 entries (R215). -/
def State.sample (s : State) (lid : Nat) (b : Beat) : State :=
  let all := (kget lid s.samples).getD [] ++ [beat78 b]
  { s with samples := kset lid (all.drop (all.length - 256)) s.samples }

/-- Is a cut for pre-emption or a graft of a launch in progress, which serves as its stop (R216)? -/
def State.cutStops (s : State) (lid : Nat) : Bool := s.cuts.any (fun c => c.lid == lid && (decide (c.why = .preempt) || decide (c.why = .graft)))

/-- The breakpoints of one launch that have met their beats fire together: each sets HIT, ACT 3 samples, and the strongest of ACT 1 and 2
stops or freezes the launch, unless a fault decides. One that names a channel inside a sealed page set does not fire: it was written before the
launch was loaded, and is refused and counted when it meets its beat (R48, R215, R216). -/
def State.fireBreak (s : State) (lid : Nat) : State :=
  let all := s.bpPending.filter (fun (e : Nat × Beat) => dbpLid (s.dbpAt e.1) == lid)
  let shut (e : Nat × Beat) : Bool := s.sealedChan lid (dbpChan (s.dbpAt e.1))
  let mine := all.filter (fun e => !shut e)
  let s : State := { s with sealRefusals := s.sealRefusals + all.countP shut }
  let acts := mine.map (fun (e : Nat × Beat) => dbpAct (s.dbpAt e.1))
  let s := { s with bpPending := s.bpPending.filter (fun (e : Nat × Beat) => dbpLid (s.dbpAt e.1) != lid) }
  let s := mine.foldl (fun s (e : Nat × Beat) =>
    let s := if dbpAct (s.dbpAt e.1) = 3 then s.sample lid e.2 else s
    s.setHit e.1) s
  if s.ended lid then s
  else if acts.contains 1 || (acts.contains 2 && s.cutStops lid) then s.startCut lid (s.psetsOf lid) .stop none
  else if acts.contains 2 then s.freezeLaunch lid
  else s

/-- BREAKPOINT_FIRE (R215). -/
def execBreakpointFire (n : Nat) (s : State) : Host.Outcome State Fault Refusal :=
  .next (if s.bpPending.any (fun (e : Nat × Beat) => e.1 == n) then s.fireBreak (dbpLid (s.dbpAt n)) else s)

/-! ### Registers (R5, R218) -/

/-- EHCFG_CLR (R218): a write of CLR = 1 clears every latency bucket of the engine. -/
def execEhcfgClr (die engine : Nat) (s : State) : Host.Outcome State Fault Refusal :=
  .next (if 8 ≤ die ∧ die < 16 ∧ engine < 13 then s.setProf { s.prof die engine with buckets := List.replicate 32 0 } else s)

/-- REGISTER_WRITE (R5): a write follows the access codes of the register's fields. -/
def execRegisterWrite (pa : Nat) (value : DWord) (s : State) : Host.Outcome State Fault Refusal := .next (s.regWrite pa value)

/-! ### Memory errors (R16, R223 to R226) -/

/-- An entry of the transfer log (R225). -/
def xferEntry (pa chan : Nat) (wr : Bool) (attempts outcome lane spare cycles : Nat) : List Byte :=
  leBytes 8 pa ++ leBytes 1 chan ++ [if wr then 1 else 0] ++ leBytes 2 attempts ++ leBytes 1 outcome ++ leBytes 2 lane ++ leBytes 1 spare
    ++ leBytes 8 cycles ++ List.replicate 8 0

/-- The spares a vertical channel has used, and whether it is offline (R16). -/
def Die.vchan (x : Die) (ch : Nat) : Nat × Bool := ((x.vchans.find? (fun v => v.1 == ch)).map (fun v => v.2)).getD (0, false)
def Die.setVchan (x : Die) (ch spares : Nat) (off : Bool) : Die :=
  { x with vchans := (ch, spares, off) :: x.vchans.filter (fun v => v.1 != ch) }

/-- A transfer's entry joins the log of its die; its channel's spares and whether it is offline follow. -/
def State.noteXfer (s : State) (d pa : Nat) (wr : Bool) (attempts outcome lane spares : Nat) : State :=
  s.updDie d (fun x =>
    let (l, k) := ringAdd x.xferLog x.xferOver (xferEntry pa (vchanOf pa) wr attempts outcome (if outcome = 2 then lane else 0)
      (if outcome = 2 then spares else 0) x.cycles)
    let x := { x with xferLog := l, xferOver := k }
    if outcome = 1 then x else x.setVchan (vchanOf pa) (if outcome = 2 then spares + 1 else spares) (outcome == 3))

/-- An attempt and its three retries have failed: a spare takes the place of the failing lane and the transfer is tried again with a fresh
allowance, which may fail as well; with no spare left the channel goes offline, which the second part says. At which attempt it succeeds is
free (R16, R224, logs 6 and 105). -/
def laneFails (d pa : Nat) (wr : Bool) (lane : Nat) : Nat → State → State × Bool
  | 0, s => (s, false)
  | fuel + 1, s =>
    let spares := ((s.die d).vchan (vchanOf pa)).1
    if 2 ≤ spares then (s.noteXfer d pa wr 4 3 lane spares, true)
    else
      let k := 1 + s.freeAt 0 % 5
      let s := (s.useFree 1).noteXfer d pa wr (min 8 (4 + k)) 2 lane spares
      if k ≤ 4 then (s, false) else laneFails d pa wr lane fuel s

/-- A transfer fails parity: it is tried again alone, and succeeds at one of three retries or not (R16, R224, log 6). An offline channel is fatal, as
is an uncorrectable error in reserved memory (R226). -/
def State.parity (s : State) (d pa : Nat) (wr : Bool) (lane : Nat) : State :=
  let (spares, off) := (s.die d).vchan (vchanOf pa)
  if decide (16 ≤ d) || decide (pa / 0x800000000 ≠ d) || decide (0x600000000 ≤ pa % 0x800000000) || off then s
  else
    let n := 2 + s.freeAt 0 % 4
    let s := (s.useFree 1).dieTime d
    let (s, gone) := if n ≤ 4 then (s.noteXfer d pa wr n 1 lane spares, false) else laneFails d pa wr lane 3 s
    if gone then s.fatal d
    else if reservedMem pa && s.eccBad [pa] then (s.eccAt pa).fatal d else s.eccAt pa

/-- VERTICAL_PARITY_ERROR (R224). -/
def execVerticalParityError (die addr : Nat) (wr : Bool) (lane : Nat) (s : State) : Host.Outcome State Fault Refusal :=
  .next (s.parity die addr wr lane)

/-- CONTROL_LINK_LOSS (R226). -/
def execControlLinkLoss (die : Nat) (s : State) : Host.Outcome State Fault Refusal := .next (s.fatal die)

end Sys2Proof.Machine
end

