-- ==== Sys2Proof/Machine/Image.lean ====
section
/-! DEFINITION. The image: its header, sections and tables, and the loader's checks 0x0001 to 0x0009 (R46, R48, R55 to R58, R67, R113,
R126, R132, R233 to R241, R253, R301, R317, R325, R386, R391, R398, R402, R405, R406). -/
namespace Sys2Proof.Machine

/-! ### Records in bytes -/

def fieldAt (b : List Byte) (o n : Nat) : Nat := leNat ((b.drop o).take n)
def zeroAt (b : List Byte) (o n : Nat) : Bool := ((b.drop o).take n).all (fun x => x == 0)

/-- A body cut into records of n bytes. -/
def records (n : Nat) : Nat → List Byte → List (List Byte)
  | 0, _ => []
  | fuel + 1, bs => if bs.isEmpty then [] else bs.take n :: records n fuel (bs.drop n)
def recordsOf (n : Nat) (bs : List Byte) : List (List Byte) := records n bs.length bs

/-- A signed number of 8 bits (R113) and of 32 bits (R234). -/
def signed8 (n : Nat) : Int := if n % 256 < 128 then (n % 256 : Nat) else (n % 256 : Nat) - 256
def signed32 (n : Nat) : Int := if n % 2 ^ 32 < 2 ^ 31 then (n % 2 ^ 32 : Nat) else (n % 2 ^ 32 : Nat) - 2 ^ 32

/-! ### Sections (R236, R240) -/

/-- Why the loading of an image fails (R55). -/
inductive LoadFail where
  | check (code : Nat)
  | signature
  | race (a b : Nat)
  deriving DecidableEq, Repr

/-- An entry of the section table. -/
structure SectHdr where
  type : Nat
  flags : Nat
  pset : Nat
  off : Nat
  size : Nat
  align : Nat
  clean : Bool
  deriving DecidableEq, Repr

def sectHdr (b : List Byte) : SectHdr :=
  { type := fieldAt b 0 2, flags := fieldAt b 2 2, pset := fieldAt b 4 4, off := fieldAt b 8 8, size := fieldAt b 16 8
    align := fieldAt b 24 1, clean := zeroAt b 25 7 }

def SectHdr.optional (h : SectHdr) : Bool := h.flags % 2 == 1
def SectHdr.filled (h : SectHdr) : Bool := h.flags / 4 % 2 == 1

/-- The section types that a format version defines (R240). -/
def typeKnown (v t : Nat) : Bool :=
  decide (1 ≤ t ∧ t ≤ 9) || decide (12 ≤ t ∧ t ≤ 15) || (v == 2 && (t == 10 || t == 11 || t == 16 || t == 17))

/-- Is the header that of an image at a version in common (R235, R240)? The version it is read at. -/
def imageVersion (b : List Byte) : Option Nat :=
  if fieldAt b 0 4 = 0x00464F56 ∧ fieldAt b 6 1 = 3 ∧ fieldAt b 7 1 = 2 then versionOf (fieldAt b 5 1) (fieldAt b 4 1) 1 2 else none

/-- An entry that breaks R236. -/
def SectHdr.bad (h : SectHdr) (npset : Nat) : Bool :=
  decide (8 ≤ h.flags) || decide (16 < h.align) || h.off % 2 ^ h.align != 0 || !h.clean
    || (h.pset != 0xFFFFFFFF && decide (npset ≤ h.pset))

/-! ### Declarations in the sections (R236) -/

/-- A link, channel node, ring or remote channel: number, kind, context, descriptor, extension word, ends. -/
structure LinkDecl where
  num : Nat
  kind : Nat
  ctx : Nat
  desc : Nat
  ext : Nat
  srcPset : Nat
  srcs : List Endp
  dstPset : Nat
  dst : Endp
  deriving DecidableEq, Repr

/-- An end as R236, R390, R398 and R402 encode it. -/
def endpOf (pset x y port : Nat) : Endp :=
  if x = 0xE0 then .mem y
  else if pset = 0xFFFF then .remote
  else if 0xF0 ≤ x then .core (x - 0xF0) (y - 0xF0) port
  else if 0xD0 ≤ x then .forager (x - 0xD0) (y - 0xD0) port
  else .plot x y port

def LinkDecl.fmt (l : LinkDecl) : Nat := l.desc / 2 ^ 27 % 32
def LinkDecl.scale (l : LinkDecl) : Int := signed8 (l.desc / 2 ^ 19)
def LinkDecl.descSlots (l : LinkDecl) : Nat := l.desc / 2 ^ 12 % 128
def LinkDecl.isRec (l : LinkDecl) : Bool := l.desc / 2 ^ 11 % 2 == 1
def LinkDecl.isBanked (l : LinkDecl) : Bool := l.desc / 2 ^ 10 % 2 == 1
/-- The slot count: of the descriptor for a link, of the extension word for the other kinds. -/
def LinkDecl.slots (l : LinkDecl) : Nat :=
  match l.kind with
  | 0 => l.descSlots
  | 1 => l.ext % 2 ^ 13
  | 2 => l.ext % 2 ^ 17
  | _ => l.ext / 2 ^ 32 % 2 ^ 16
def LinkDecl.egress (l : LinkDecl) : Bool :=
  (l.kind == 1 && l.ext / 2 ^ 13 % 2 == 1) || (l.kind == 3 && l.ext / 2 ^ 48 % 2 == 1)
def LinkDecl.first (l : LinkDecl) : Bool := l.kind == 2 && l.ext / 2 ^ 17 % 2 == 1
def LinkDecl.scratch (l : LinkDecl) : Bool := l.kind == 2 && l.ext / 2 ^ 18 % 2 == 1

/-- Does an extension word keep its layout? -/
def LinkDecl.extOk (l : LinkDecl) : Bool :=
  match l.kind with
  | 0 => true
  | 1 => decide (l.ext / 2 ^ 14 = 0 ∧ l.slots ≤ 4096)
  | 2 => decide (l.ext / 2 ^ 19 = 0 ∧ l.slots ≤ 65536)
  | _ => decide (l.ext / 2 ^ 49 = 0 ∧ l.slots ≤ 4096)

/-- One entry of a link section, without its number. -/
def linkDecl (b : List Byte) (ext : Nat) : LinkDecl :=
  { num := 0, kind := fieldAt b 4 1, ctx := fieldAt b 5 1, desc := fieldAt b 0 4, ext := ext
    srcPset := fieldAt b 6 2, srcs := [endpOf (fieldAt b 6 2) (fieldAt b 8 1) (fieldAt b 9 1) (fieldAt b 10 1)]
    dstPset := fieldAt b 11 2, dst := endpOf (fieldAt b 11 2) (fieldAt b 13 1) (fieldAt b 14 1) (fieldAt b 15 1) }

/-- The entries of a link section; none where the body ends inside one, or a kind is none of 0 to 3. -/
def linkDecls : Nat → List Byte → Option (List LinkDecl)
  | 0, _ => none
  | fuel + 1, bs =>
    if bs.isEmpty then some []
    else if bs.length < 16 ∨ 3 < fieldAt bs 4 1 then none
    else if fieldAt bs 4 1 = 0 then (linkDecls fuel (bs.drop 16)).map (fun r => linkDecl bs 0 :: r)
    else if bs.length < 24 then none
    else (linkDecls fuel (bs.drop 24)).map (fun r => linkDecl bs (fieldAt bs 16 8) :: r)

/-- A return ring of several sources stands as consecutive entries that differ in their source only (R402, log 17). -/
def sameRing (a b : LinkDecl) : Bool :=
  a.kind == 2 && decide ({ a with srcPset := b.srcPset, srcs := b.srcs } = b) && (match a.dst with
    | .forager _ _ _ => true
    | _ => false)
def joinRings : List LinkDecl → List LinkDecl
  | [] => []
  | a :: r => match joinRings r with
    | b :: t => if sameRing a { b with srcs := b.srcs.drop (b.srcs.length - 1) } then { b with srcPset := a.srcPset, srcs := a.srcs ++ b.srcs } :: t
      else a :: b :: t
    | [] => [a]

/-- A memory node (R181, R234, R403). -/
structure NodeDecl where
  pset : Nat
  desc : Nat
  start : Nat
  addrPat : Nat
  levels : Nat
  fmt : Nat
  op : Nat
  pairs : List (Nat × Int)
  clean : Bool
  deriving DecidableEq, Repr

def nodeDecl (pset : Nat) (b : List Byte) : NodeDecl :=
  { pset := pset, desc := fieldAt b 0 16, start := fieldAt b 16 8, addrPat := fieldAt b 24 1, levels := fieldAt b 25 1
    fmt := fieldAt b 26 1, op := fieldAt b 27 1
    pairs := (List.range 4).map (fun i => (fieldAt b (32 + 8 * i) 4, signed32 (fieldAt b (36 + 8 * i) 4)))
    clean := zeroAt b 28 4 && zeroAt b 64 16 && decide (b.length = 80) }

def NodeDecl.base (n : NodeDecl) : Nat := n.desc % 2 ^ 56
def NodeDecl.limit (n : NodeDecl) : Nat := n.desc / 2 ^ 56 % 2 ^ 56
def NodeDecl.scope (n : NodeDecl) : Nat := n.desc / 2 ^ 113 % 8
def NodeDecl.cls (n : NodeDecl) : Nat := n.desc / 2 ^ 116 % 4
def NodeDecl.dir (n : NodeDecl) : Nat := n.desc / 2 ^ 118 % 4
def NodeDecl.inv (n : NodeDecl) : Bool := n.desc / 2 ^ 120 % 2 == 1
def NodeDecl.bt (n : NodeDecl) : Bool := n.desc / 2 ^ 121 % 2 == 1

/-- A plot program (R236, R253). -/
structure PlotDecl where
  pset : Nat
  x : Nat
  y : Nat
  ctx : Nat
  code : List Byte
  words : List Nat
  deriving DecidableEq, Repr

/-- The plot programs of a section; none where one does not end within it. -/
def plotDecls (pset : Nat) : Nat → List Byte → Option (List PlotDecl)
  | 0, _ => none
  | fuel + 1, bs =>
    if bs.isEmpty then some []
    else
      let nc := fieldAt bs 4 4
      let nw := fieldAt bs 8 4
      if bs.length < 16 + nc + 8 * nw || !zeroAt bs 3 1 || !zeroAt bs 12 4 then none
      else (plotDecls pset fuel (bs.drop (16 + nc + 8 * nw))).map (fun r =>
        { pset := pset, x := fieldAt bs 0 1, y := fieldAt bs 1 1, ctx := fieldAt bs 2 1, code := (bs.drop 16).take nc
          words := (List.range nw).map (fun i => fieldAt bs (16 + nc + 8 * i) 8) } :: r)

/-- A trellis node, a guess point, a stage set, a leaf, an array mode. -/
structure TrellisDecl where
  pset : Nat
  px : Nat
  py : Nat
  node : Nat
  word : Nat
  table : List Nat
  clean : Bool
  deriving DecidableEq, Repr
structure GuessDecl where
  pset : Nat
  k : Nat
  x : Nat
  y : Nat
  elem : Nat
  thr : Nat
  deriving DecidableEq, Repr
structure StageDecl where
  pset : Nat
  px : Nat
  py : Nat
  ctx : Nat
  cfg : Nat
  seed : Nat
  stages : List Nat
  deriving DecidableEq, Repr
structure LeafDecl where
  pset : Nat
  px : Nat
  py : Nat
  leaf : Nat
  outs : List (Nat × Nat × Nat)
  clean : Bool
  deriving DecidableEq, Repr
structure ArrayDecl where
  pset : Nat
  px : Nat
  py : Nat
  ctx : Nat
  mode : Nat
  clean : Bool
  deriving DecidableEq, Repr

def trellisDecl (pset : Nat) (b : List Byte) : TrellisDecl :=
  { pset := pset, px := fieldAt b 0 1, py := fieldAt b 1 1, node := fieldAt b 2 1, word := fieldAt b 8 8
    table := (List.range 16).map (fun i => fieldAt b (16 + 2 * i) 2), clean := zeroAt b 3 5 && decide (b.length = 48) }
def guessDecl (pset : Nat) (b : List Byte) : GuessDecl :=
  { pset := pset, k := fieldAt b 0 1, x := fieldAt b 1 1, y := fieldAt b 2 1, elem := fieldAt b 3 1, thr := fieldAt b 8 8 }
def stageDecl (pset : Nat) (b : List Byte) : StageDecl :=
  { pset := pset, px := fieldAt b 0 1, py := fieldAt b 1 1, ctx := fieldAt b 2 1, cfg := fieldAt b 16 8, seed := fieldAt b 24 8
    stages := (List.range 8).map (fun i => fieldAt b (32 + 8 * i) 8) }
def leafDecl (pset : Nat) (b : List Byte) : LeafDecl :=
  { pset := pset, px := fieldAt b 0 1, py := fieldAt b 1 1, leaf := fieldAt b 2 1
    outs := (List.range (fieldAt b 3 1)).map (fun i => (fieldAt b (8 + 3 * i) 1, fieldAt b (9 + 3 * i) 1, fieldAt b (10 + 3 * i) 1))
    clean := zeroAt b 4 4 && decide (1 ≤ fieldAt b 3 1 ∧ fieldAt b 3 1 ≤ 8 ∧ b.length = 32)
      && zeroAt b (8 + 3 * fieldAt b 3 1) (24 - 3 * fieldAt b 3 1) }
def arrayDecl (pset : Nat) (b : List Byte) : ArrayDecl :=
  { pset := pset, px := fieldAt b 0 1, py := fieldAt b 1 1, ctx := fieldAt b 2 1, mode := fieldAt b 3 1
    clean := zeroAt b 4 4 && decide (b.length = 8) }

/-- A page set (R236, type 3), a pipeline (type 11), a graph node (R67). -/
def psetDecl (b : List Byte) : PsetDecl :=
  { w := fieldAt b 4 1, h := fieldAt b 5 1, pin := if fieldAt b 6 1 = 0xFF then none else some (fieldAt b 6 1)
    isSealed := fieldAt b 7 1 % 2 == 1, rotating := fieldAt b 7 1 / 2 % 2 == 1 }
def pipeDecl (b : List Byte) : Pipe :=
  { lanes := fieldAt b 0 1, ex := fieldAt b 2 1, ey := fieldAt b 3 1, port := fieldAt b 4 1
    psets := (List.range (fieldAt b 1 1)).map (fun i => fieldAt b (16 + 2 * i) 2) }

/-- The pipelines of a section, which follow one another. -/
def pipeDecls : Nat → List Byte → List Pipe
  | 0, _ => []
  | fuel + 1, bs => if bs.length < 16 then [] else pipeDecl bs :: pipeDecls fuel (bs.drop (16 + 2 * fieldAt bs 1 1))

/-- A graph node of R67; `legal` says that its record keeps the reserved fields, KIND, NSUCC and the unused successors. -/
def gnodeDecl (b : List Byte) : GNode :=
  let kind := fieldAt b 0 1 % 16
  let ns := fieldAt b 0 1 / 16
  let succ := (List.range 8).map (fun i => fieldAt b (32 + 4 * i) 4)
  { kind := kind, succ := succ.take ns, free := fieldAt b 12 1 % 2 == 1, deps := fieldAt b 10 2, tiles := fieldAt b 6 4
    sect := fieldAt b 4 2, pset := fieldAt b 2 2
    legal := (kind == 1 || kind == 2) && decide (ns ≤ 8) && zeroAt b 1 1 && fieldAt b 12 1 / 2 == 0 && zeroAt b 13 19
      && (succ.drop ns).all (fun n => n == 0) && decide (b.length = 64) }

/-! ### The tables of an image -/

/-- The sections of a type, in order. -/
def Image.of (m : Image) (t : Nat) : List Sect := m.sects.filter (fun e => e.type == t)

def Image.nodes (m : Image) : List NodeDecl := (m.of 6).flatMap (fun e => (recordsOf 80 e.body).map (nodeDecl e.pset))
def Image.plots (m : Image) : List PlotDecl := (m.of 4).flatMap (fun e => (plotDecls e.pset (e.body.length + 1) e.body).getD [])
def Image.trellis (m : Image) : List TrellisDecl := (m.of 7).flatMap (fun e => (recordsOf 48 e.body).map (trellisDecl e.pset))
def Image.guesses (m : Image) : List GuessDecl := (m.of 9).flatMap (fun e => (recordsOf 16 e.body).map (guessDecl e.pset))
def Image.stagesets (m : Image) : List StageDecl := (m.of 10).flatMap (fun e => (recordsOf 96 e.body).map (stageDecl e.pset))
def Image.leafs (m : Image) : List LeafDecl := (m.of 16).flatMap (fun e => (recordsOf 32 e.body).map (leafDecl e.pset))
def Image.arrays (m : Image) : List ArrayDecl := (m.of 17).flatMap (fun e => (recordsOf 8 e.body).map (arrayDecl e.pset))

/-- The page set that the end of a link belongs to: that of its memory node, or of the other side of a remote channel. -/
def homeOf (nodes : List NodeDecl) (pset other : Nat) (e : Endp) : Nat :=
  match e with
  | .mem n => (nodes[n]?.map (fun d => d.pset)).getD other
  | .remote => other
  | _ => pset

/-- The links and channels with their numbers, from 1 in link-section order (R241). -/
def Image.links (m : Image) : List LinkDecl :=
  let all := joinRings ((m.of 5).flatMap (fun e => (linkDecls (e.body.length + 1) e.body).getD []))
  all.zipIdx.map (fun (e : LinkDecl × Nat) =>
    let l := e.1
    let a := match l.srcs.head? with
      | some x => homeOf m.nodes l.srcPset l.dstPset x
      | none => l.srcPset
    { l with num := e.2 + 1, srcPset := a, dstPset := homeOf m.nodes l.dstPset a l.dst })

/-! ### E-blocks of a plot program (R245, R253) -/

/-- The header and the words of the E-block at an offset in 16-byte units. -/
def eblockAt (code : List Byte) (off : Nat) : Option (Nat × List Word) :=
  let h := fieldAt code (16 * off) 16
  let n := h / 2 ^ 4 % 128 + 1
  if 16 * off + 16 + 4 * n ≤ code.length then some (h, wordsOfBytes n ((code.drop (16 * off + 16)).take (4 * n))) else none

/-- Fields of an element configuration word (R253). -/
def cfgKind (w : Nat) : Nat := w / 2 ^ 60
def cfgCtx (w : Nat) : Nat := w / 2 ^ 58 % 4
def cfgOff (w : Nat) : Nat := w / 2 ^ 48 % 1024
def cfgIfmt (w k : Nat) : Nat := w / 2 ^ (21 + 5 * k) % 32

/-- A map of an E-block header: its four entries, none for 0xFF. -/
def mapAt (h lo : Nat) : List (Option Nat) :=
  (List.range 4).map (fun i => let v := h / 2 ^ (lo + 8 * i) % 256; if v = 0xFF then none else some v)

/-- The code of an E-block. -/
def ecodeOf (h : Nat) (ws : List Word) : ECode :=
  { ii := h / 2 ^ 80 % 2 ^ 16, imap := mapAt h 16, omap := mapAt h 48, satf8 := h / 2 ^ 11 % 2 == 1, words := ws }

/-- The code that an element configuration word names. -/
def PlotDecl.ecode (p : PlotDecl) (w : Nat) : Option ECode :=
  if cfgKind w = 1 then (eblockAt p.code (cfgOff w)).map (fun e => ecodeOf e.1 e.2) else none

/-- The elements that an image declares: program, index, word. -/
def Image.elems (m : Image) : List (PlotDecl × Nat × Nat) :=
  m.plots.flatMap (fun p => p.words.zipIdx.map (fun (e : Nat × Nat) => (p, e.2, e.1)))

/-- The element at a port of a plot in a context, with the format its word gives the input (R114, R397). -/
def Image.portElem (m : Image) (pset x y ctx port : Nat) (input : Bool) : Option (PlotDecl × Nat × Nat × Nat) :=
  m.elems.findSome? (fun (e : PlotDecl × Nat × Nat) =>
    let p := e.1
    let w := e.2.2
    if p.pset ≠ pset ∨ p.x ≠ x ∨ p.y ≠ y ∨ cfgCtx w ≠ ctx then none
    else if cfgKind w = 3 then (if port = (if input then 14 else 15) then some (p, e.2.1, w, 16) else none)
    else match p.ecode w with
      | none => none
      | some c =>
        ((if input then c.imap else c.omap).findIdx? (fun q => q == some port)).map (fun k => (p, e.2.1, w, cfgIfmt w k)))

/-! ### The link graph (R56) -/

/-- Its vertices: elements, channel nodes, memory nodes. -/
inductive Vtx where
  | elem (pset x y ctx idx : Nat)
  | chan (num : Nat)
  | node (n : Nat)
  deriving DecidableEq, Repr

def Image.vtx (m : Image) (pset ctx : Nat) (input : Bool) (e : Endp) : Option Vtx :=
  match e with
  | .plot x y port => (m.portElem pset x y ctx port input).map (fun r => .elem pset x y ctx r.2.1)
  | .mem n => some (.node n)
  | _ => none

/-- The edges of one link or channel; a channel node is a vertex of its own. -/
def Image.edgesOf (m : Image) (l : LinkDecl) : List (Vtx × Vtx) :=
  let us := l.srcs.filterMap (m.vtx l.srcPset l.ctx false)
  let vs := (m.vtx l.dstPset l.ctx true l.dst).toList
  if l.kind = 1 ∨ l.kind = 3 then us.map (fun u => (u, Vtx.chan l.num)) ++ vs.map (fun v => (Vtx.chan l.num, v))
  else us.flatMap (fun u => vs.map (fun v => (u, v)))

def Image.edges (m : Image) (rings : Bool) : List (Vtx × Vtx) :=
  (m.links.filter (fun l => rings || l.kind != 2)).flatMap m.edgesOf

/-- Takes away, again and again, the edges that start where none ends; what stays holds a cycle. -/
def trimEdges : Nat → List (Vtx × Vtx) → List (Vtx × Vtx)
  | 0, es => es
  | fuel + 1, es => trimEdges fuel (es.filter (fun e => es.any (fun f => f.2 == e.1)))
def cyclic (es : List (Vtx × Vtx)) : Bool := !(trimEdges es.length es).isEmpty

/-- The vertices reached from some. -/
def reachGo (es : List (Vtx × Vtx)) : Nat → List Vtx → List Vtx
  | 0, vs => vs
  | fuel + 1, vs =>
    let new := (es.filter (fun e => vs.contains e.1 && !vs.contains e.2)).map (fun e => e.2)
    if new.isEmpty then vs else reachGo es fuel (vs ++ new.eraseDups)
def reach (es : List (Vtx × Vtx)) (v : Vtx) : List Vtx :=
  reachGo es (es.length + 1) (((es.filter (fun e => e.1 == v)).map (fun e => e.2)).eraseDups)

/-- Do more than four zero-slot links follow one another (R57)? -/
def Image.zeroChain (m : Image) : Bool :=
  let zs := m.links.filter (fun l => l.kind == 0 && l.slots == 0)
  let next (ls : List LinkDecl) : List LinkDecl := zs.filter (fun b => ls.any (fun a =>
    (m.vtx a.dstPset a.ctx true a.dst).isSome && b.srcs.any (fun e => m.vtx b.srcPset b.ctx false e == m.vtx a.dstPset a.ctx true a.dst)))
  !(next (next (next (next zs)))).isEmpty

/-! ### Check 0x0003 IMAGE_FORMAT -/

/-- The formats between which conversion is inserted (R114). -/
def convFmt (f : Nat) : Bool := decide (f ≤ 4) || decide (8 ≤ f ∧ f ≤ 13) || f == 16

/-- Is a page of a page set, or a plot, out of range? -/
def Image.pageOut (m : Image) (pset px py : Nat) : Bool :=
  match m.psets[pset]? with
  | some p => decide (p.w ≤ px ∨ p.h ≤ py)
  | none => true
def Image.plotOut (m : Image) (pset x y : Nat) : Bool := m.pageOut pset (x / 4) (y / 4)
def Image.endOut (m : Image) (pset : Nat) (e : Endp) : Bool :=
  match e with
  | .plot x y port => m.plotOut pset x y || decide (16 ≤ port)
  | .core px py port => m.pageOut pset px py || decide (32 ≤ port)
  | .forager px py _ => m.pageOut pset px py
  | .mem n => decide (m.nodes.length ≤ n)
  | .remote => false

/-- A section of pipelines that ends inside one, or whose zero bytes are not zero (R236, type 11). -/
def pipesBad : Nat → List Byte → Bool
  | 0, _ => false
  | fuel + 1, bs => !bs.isEmpty && (decide (bs.length < 16 + 2 * fieldAt bs 1 1) || !zeroAt bs 5 11 || pipesBad fuel (bs.drop (16 + 2 * fieldAt bs 1 1)))

/-- Do all records of the sections of a type keep a test? -/
def Image.allRecords (m : Image) (type n : Nat) (ok : List Byte → Bool) : Bool :=
  (m.of type).all (fun e => (recordsOf n e.body).all (fun b => b.length == n && ok b))

/-- Records that are not whole, or whose zero bytes or bits are not zero (R236). -/
def Image.recordBad (m : Image) : Bool :=
  !m.allRecords 3 16 (fun b => decide (fieldAt b 7 1 < 4) && zeroAt b 10 6) || !m.allRecords 9 16 (fun b => zeroAt b 4 4)
    || !m.allRecords 10 96 (fun _ => true) || !m.allRecords 13 24 (fun _ => true) || (m.of 11).any (fun e => pipesBad (e.body.length + 1) e.body)

/-- Only a remote entry has a remote side, and it has one (R236). -/
def LinkDecl.sidesBad (l : LinkDecl) : Bool :=
  let out := decide (l.dst = .remote)
  let inb := l.srcs.contains .remote
  if l.kind = 3 then out == inb else out || inb

/-- References that are out of range, and tables that are malformed. The graph table of an image without graph nodes is named by GRAPH0 = 0
(log 103). -/
def Image.rangeBad (m : Image) : Bool :=
  let np := m.psets.length
  decide (np ≤ m.entry) || decide (max 1 m.graph.length ≤ m.graph0) || m.recordBad
    || m.psets.any (fun p => p.w == 0 || p.h == 0 || (match p.pin with
      | some d => decide (8 ≤ d)
      | none => false))
    || m.graph.any (fun g => decide (np ≤ g.pset))
    || m.pipes.any (fun p => p.psets.isEmpty || p.psets.any (fun q => decide (np ≤ q)) || decide (p.lanes = 0 ∨ 64 < p.lanes ∨ 32 ≤ p.port)
      || m.pageOut (p.psets.headD 0) p.ex p.ey)
    || m.nodes.any (fun n => decide (np ≤ n.pset) || !n.clean)
    || (m.of 5).any (fun e => (linkDecls (e.body.length + 1) e.body).isNone)
    || (m.of 4).any (fun e => (plotDecls e.pset (e.body.length + 1) e.body).isNone)
    || m.links.any (fun l => !l.extOk || l.sidesBad || l.srcs.any (m.endOut l.srcPset) || m.endOut l.dstPset l.dst)
    || m.plots.any (fun p => m.plotOut p.pset p.x p.y || decide (255 < p.words.length))
    || m.trellis.any (fun t => m.pageOut t.pset t.px t.py || !t.clean) || m.guesses.any (fun g => m.plotOut g.pset g.x g.y || decide (8 ≤ g.k))
    || m.stagesets.any (fun t => m.pageOut t.pset t.px t.py)
    || m.leafs.any (fun t => m.pageOut t.pset t.px t.py || !t.clean
      || t.outs.any (fun (o : Nat × Nat × Nat) => o.1 / 4 != t.px || o.2.1 / 4 != t.py || decide (16 ≤ o.2.2)))
    || m.arrays.any (fun a => m.pageOut a.pset a.px a.py || !a.clean || !(a.mode == 1 || a.mode == 2))

/-- A used entry of a trellis table that names a node the page does not declare (R72). -/
def Image.trellisBad (m : Image) : Bool :=
  m.trellis.any (fun t => (t.table.take (t.word / 2 ^ 54 % 16 + 1)).any (fun e => decide (e / 2 ^ 12 < 8)
    && !m.trellis.any (fun u => u.pset == t.pset && u.px == t.px && u.py == t.py && u.node == e / 2 ^ 12)))

/-- A pairing of link and input formats that R114 does not convert. -/
def Image.convBad (m : Image) : Bool :=
  m.links.any (fun l => match l.dst with
    | .plot x y port => match m.portElem l.dstPset x y l.ctx port true with
      | some (_, _, _, f) =>
        let f := if f = 31 then l.fmt else f
        !(f == 15 || decide (18 ≤ f)) && (f != l.fmt || l.scale != 0) && !(convFmt f && convFmt l.fmt)
      | none => false
    | _ => false)

/-- Rotating regions and banks (R126, R391). -/
def Image.bankBad (m : Image) : Bool :=
  let rot (p : Nat) : Bool := (m.psets[p]?.map (fun p => p.rotating)).getD false
  m.links.any (fun l =>
    (l.isBanked && (l.kind != 0 || l.srcPset != l.dstPset || !rot l.srcPset || l.slots % 4 != 0 || decide (l.slots < 4 ∨ 64 < l.slots)))
      || (l.kind == 0 && (rot l.srcPset || rot l.dstPset) && !l.isBanked))
    || m.links.any (fun a => m.links.any (fun b => a.ctx != b.ctx
      && ((rot a.srcPset && a.srcPset == b.srcPset && a.srcs.any (fun e => b.srcs.contains e && (match e with
          | .core _ _ _ => true
          | _ => false)))
        || (rot a.dstPset && a.dstPset == b.dstPset && decide (a.dst = b.dst) && (match a.dst with
          | .core _ _ _ => true
          | _ => false)))))

/-- Stage sets whose links are not record links, whose ring lacks an entry for a stage, or whose stage links have no slot (R132). -/
def Image.stageBad (m : Image) : Bool :=
  let link (n : Nat) : Option LinkDecl := m.links.find? (fun l => l.num == n)
  m.stagesets.any (fun t =>
    let n := t.cfg % 8 + 1
    let isRec (k : Nat) : Bool := ((link k).map (fun l => l.isRec)).getD false
    !isRec (t.cfg / 2 ^ 4 % 256) || !isRec (t.cfg / 2 ^ 12 % 256) || !isRec (t.cfg / 2 ^ 20 % 256)
      || (t.stages.take n).any (fun w => !isRec (w / 2 ^ 24 % 256) || (((link (w / 2 ^ 24 % 256)).map (fun l => l.slots)).getD 0) == 0)
      || (match link (t.cfg / 2 ^ 28 % 256) with
        | some l => l.kind != 2 || l.srcs.length != n
        | none => true))

/-- Is this word a join instruction, an IN, a GUESS, a MERGE or OMERGE (R257)? -/
def isJoinWord (w : Word) : Bool := wordOpcode w == 0x75 || wordOpcode w == 0x76 || wordOpcode w == 0x77

/-- Joins with an IN or a second join (R317), a GUESS outside a guess point (R325), an SD input of one slot (R301). -/
def Image.blockBad (m : Image) : Bool :=
  m.elems.any (fun (e : PlotDecl × Nat × Nat) => match e.1.ecode e.2.2 with
    | none => false
    | some c =>
      let joins := c.words.countP isJoinWord
      (decide (1 ≤ joins) && (decide (2 ≤ joins) || c.words.any (fun w => wordOpcode w == 0x60)))
        || (c.words.any (fun w => wordOpcode w == 0xC0)
          && !m.guesses.any (fun g => g.pset == e.1.pset && g.x == e.1.x && g.y == e.1.y && g.elem == e.2.1))
        || c.sdAheadEntries.any (fun k => match (c.imap[k]?).join with
          | some port => m.links.any (fun l => l.dstPset == e.1.pset && decide (l.dst = .plot e.1.x e.1.y port)
              && l.ctx == cfgCtx e.2.2 && decide (l.slots < 2))
          | none => false))

/-- A loop of kind first whose cycle contains a MERGE or OMERGE (R121). -/
def Image.firstBad (m : Image) : Bool :=
  let es := m.edges false
  (m.links.filter (fun l => l.first)).any (fun l =>
    match m.vtx l.dstPset l.ctx true l.dst with
    | none => false
    | some v =>
      let us := l.srcs.filterMap (m.vtx l.srcPset l.ctx false)
      (v :: reach es v).any (fun x => us.any (fun u => x == u || (reach es x).contains u) && (match x with
        | .elem p a b c i => m.elems.any (fun (e : PlotDecl × Nat × Nat) => e.1.pset == p && e.1.x == a && e.1.y == b && e.2.1 == i
            && cfgCtx e.2.2 == c && ((e.1.ecode e.2.2).map (fun k => k.words.any (fun w => wordOpcode w == 0x75 || wordOpcode w == 0x76))).getD false)
        | _ => false)))

/-- Guess points of a pipeline: distinct indices, exactly one of index 7, which stands at the final layer, so in the
last page set (R85); egress nodes whose source lies outside it (R406). -/
def Image.pipeBad (m : Image) : Bool :=
  m.pipes.any (fun p =>
    let ks := (m.guesses.filter (fun g => p.psets.contains g.pset)).map (fun g => g.k)
    ks.count 7 != 1 || m.guesses.any (fun g => g.k == 7 && p.psets.contains g.pset && p.psets.getLast? != some g.pset)
        || (List.range 7).any (fun k => decide (2 ≤ ks.count k)))
    || m.links.any (fun l => l.egress && !m.pipes.any (fun p => p.psets.contains l.srcPset))

def Image.formatBad (m : Image) : Bool :=
  m.rangeBad || m.trellisBad || m.convBad || m.bankBad || m.stageBad || m.blockBad || m.firstBad || m.pipeBad

/-! ### Checks 0x0004 to 0x0009 -/

/-- The sinks of a pipeline (R81). -/
def Image.sinks (m : Image) (p : Pipe) : Nat :=
  (m.nodes.countP (fun n => p.psets.contains n.pset)) + (m.guesses.countP (fun g => p.psets.contains g.pset))
    + (m.links.countP (fun l => l.egress && p.psets.contains l.srcPset))
    + ((m.links.filter (fun l => p.psets.contains l.dstPset && (match l.dst with
        | .core _ _ _ => true
        | _ => false))).map (fun l => (l.dstPset, l.dst))).eraseDups.length

/-- The graph nodes of a page set (R61). -/
def Image.graphOf (m : Image) (pset : Nat) : Nat := m.graph.countP (fun g => g.pset == pset)

/-- Check 0x0004 RESOURCE (R55, R81, R119, R143). -/
def Image.resourceBad (m : Image) : Bool :=
  m.psets.any (fun p => decide (9 < p.w ∨ 9 < p.h))
    || m.trellis.any (fun t => decide (8 ≤ t.node)) || m.leafs.any (fun t => decide (8 ≤ t.leaf))
    || m.trellis.any (fun t => decide (8 < m.trellis.countP (fun u => u.pset == t.pset && u.px == t.px && u.py == t.py)))
    || m.plots.any (fun p => decide (4 ≤ p.ctx)) || m.links.any (fun l => decide (4 ≤ l.ctx)) || m.arrays.any (fun a => decide (4 ≤ a.ctx))
    || m.stagesets.any (fun t => decide (4 ≤ t.ctx)
      || decide (1 < m.stagesets.countP (fun u => u.pset == t.pset && u.px == t.px && u.py == t.py && u.ctx == t.ctx)))
    || (List.range m.psets.length).any (fun p => decide (16384 < m.graphOf p))
    || (List.range 8).any (fun d => decide (16384 < m.graph.countP (fun g => ((m.psets[g.pset]?).bind (fun p => p.pin)) == some d)))
    || m.links.any (fun l => match l.dst with
      | .plot x y _ => decide (2048 < m.links.countP (fun k => k.kind == 0 && decide (1 ≤ k.slots) && k.dstPset == l.dstPset && (match k.dst with
          | .plot a b _ => a == x && b == y
          | _ => false)))
      | _ => false)
    || m.pipes.any (fun p => decide (255 < m.sinks p))

/-- Check 0x0008 GRAPH (R67). -/
def Image.graphBad (m : Image) : Bool :=
  m.graph.zipIdx.any (fun (e : GNode × Nat) =>
    let g := e.1
    let w := ((m.psets[g.pset]?).map (fun p => p.w)).getD 1
    !g.legal || g.succ.any (fun n => decide (m.graph.length ≤ n)) || g.deps != m.graph.countP (fun h => h.succ.contains e.2)
      || (g.kind == 1 && !m.trellis.any (fun t => t.pset == g.pset && t.py * w + t.px == g.sect / 8 && t.node == g.sect % 8
        && t.word / 2 ^ 50 % 2 == 1)))

/-- The race pairs of R58, in ascending order of the lower index and then of the higher. -/
def Image.races (m : Image) : List (Nat × Nat) :=
  let es := m.edges true
  let ns := m.nodes.zipIdx
  let reads (n : NodeDecl) : Bool := n.dir == 0 || n.inv
  let orders (a : Nat) (b : NodeDecl) (j : Nat) : Bool := (reach es (.node a)).contains (.node j) && !(b.cls == 0 && b.dir == 0)
  ns.flatMap (fun (x : NodeDecl × Nat) => (ns.filter (fun (y : NodeDecl × Nat) =>
    decide (x.2 < y.2) && decide (x.1.base ≤ y.1.limit ∧ y.1.base ≤ x.1.limit) && !(reads x.1 && reads y.1)
      && !orders x.2 y.1 y.2 && !orders y.2 x.1 x.2)).map (fun (y : NodeDecl × Nat) => (x.2, y.2)))

/-- Checks 0x0004 to 0x0009, in order; the race pairs that are left when none fails. -/
def Image.checks (m : Image) (strict : Bool) : Except LoadFail Nat :=
  if m.resourceBad then .error (.check 4)
  else if m.links.any (fun l => l.kind != 0 && l.slots == 0) then .error (.check 5)
  else if cyclic (m.edges false) then .error (.check 6)
  else if m.zeroChain then .error (.check 7)
  else if m.graphBad then .error (.check 8)
  else match m.races with
    | (a, b) :: r => if strict then .error (.race a b) else .ok (min (r.length + 1) 0xFFFF)
    | [] => .ok 0

/-! ### Reading an image (R48, R235, R239 to R241) -/

/-- Bytes of an image under its launch's address space. -/
def State.imageRead (s : State) (l : Launch) (off n : Nat) : Except LoadFail (List Byte) :=
  match s.virtBytes (.die 16) l.space (l.imageVa + off) n true with
  | .error _ => .error (.check 1)
  | .ok b => .ok b

/-- The bodies of the sections the loader reads: configuration, tables, symbols and the signature; code and data stay in place (R241). -/
def State.readSects (s : State) (l : Launch) (v : Nat) : List SectHdr → Except LoadFail (List Sect)
  | [] => .ok []
  | h :: r =>
    if !typeKnown v h.type || decide (h.type ≤ 2) || h.type == 14 then s.readSects l v r
    else match if h.filled then .ok (List.replicate h.size 0) else s.imageRead l h.off h.size with
      | .error e => .error e
      | .ok b => match s.readSects l v r with
        | .error e => .error e
        | .ok t => .ok ({ type := h.type, flags := h.flags, pset := h.pset, body := b } :: t)

/-- The header fields and section entries that break R235, R236 and R241. -/
def headerBad235 (b : List Byte) (hs : List SectHdr) (v npset imageVa : Nat) : Bool :=
  decide (2 ≤ fieldAt b 12 4) || !zeroAt b 48 16 || fieldAt b 40 8 != imageVa || hs.any (fun h => h.bad npset)
    || hs.any (fun h => !typeKnown v h.type && !h.optional) || hs.any (fun h => h.type == 12)

/-- An undefined symbol (R238, R241). -/
def symbolBad (es : List Sect) : Bool :=
  (es.filter (fun e => e.type == 13)).any (fun e => (recordsOf 24 e.body).any (fun b => fieldAt b 5 1 == 2))

/-- The whole file of an image that bears a signature; a fault met in reading it is check 0x0001 (R55, R239, R241). -/
def State.readFile (s : State) (l : Launch) (b : List Byte) (hs : List SectHdr) : Except LoadFail (List Byte) :=
  if hs.any (fun h => h.type == 15) then
    s.imageRead l 0 (hs.foldl (fun n h => if h.filled then n else max n (h.off + h.size)) (max 64 (fieldAt b 16 8 + 32 * hs.length)))
  else .ok []

/-- Does the signature of an image with a sealed page set verify (R48, R239)? The file's digest, if so. -/
def State.sealCheck (s : State) (file : List Byte) (hs : List SectHdr) (es : List Sect) : Option (List Byte) :=
  match es.find? (fun e => e.type == 15), hs.find? (fun h => h.type == 15) with
  | some e, some h =>
    let blank := file.take h.off ++ List.replicate h.size 0 ++ file.drop (h.off + h.size)
    let digest := (e.body.drop 72).take 64
    match s.sealingKeys.find? (fun k => Config.sha3 k == (e.body.drop 8).take 64) with
    | some k =>
      if fieldAt e.body 0 2 = 1 ∧ zeroAt e.body 2 2 ∧ fieldAt e.body 4 4 = 4627 ∧ Config.sha3 blank = digest
          ∧ Config.mlDsaVerify k digest ((e.body.drop 136).take 4627) then some digest else none
    | none => none
  | _, _ => none

/-- Reads an image and applies checks 0x0001 to 0x0009; the image and the number of race pairs (R55, R240, R241). -/
def State.readImage (s : State) (l : Launch) : Except LoadFail (Image × Nat) :=
  match s.imageRead l 0 64 with
  | .error e => .error e
  | .ok b => match imageVersion b with
    | none => .error (.check 2)
    | some v => match s.imageRead l (fieldAt b 16 8) (32 * fieldAt b 8 4) with
      | .error e => .error e
      | .ok t =>
        let hs := (recordsOf 32 t).map sectHdr
        match s.readSects l v hs with
        | .error e => .error e
        | .ok es =>
          let of (k : Nat) : List Byte := (es.filter (fun e => e.type == k)).flatMap (fun e => e.body)
          let m : Image :=
            { entry := l.entry, graph0 := fieldAt b 28 4, handler := fieldAt b 32 8, linkbase := fieldAt b 40 8
              codeAt := fieldAt b 40 8 + 0x100, psets := (recordsOf 16 (of 3)).map psetDecl, graph := (recordsOf 64 (of 8)).map gnodeDecl
              pipes := pipeDecls ((of 11).length + 1) (of 11), sects := es, sealedDigest := none }
          let isSealed := m.psets.any (fun p => p.isSealed)
          match if isSealed then s.readFile l b hs else .ok [] with
          | .error e => .error e
          | .ok file =>
            if headerBad235 b hs v m.psets.length l.imageVa || decide (m.psets.length ≤ fieldAt b 24 4) || symbolBad es || m.formatBad then
              .error (.check 3)
            else
              let digest := if isSealed then s.sealCheck file hs es else none
              if isSealed && digest.isNone then .error .signature
              else match m.checks l.strict with
                | .error e => .error e
                | .ok n => .ok ({ m with sealedDigest := digest }, n)

/-- The errors that reading an image meets are corrected or logged: its header, its section table, and the sections that the loader reads
(R223, log 49). -/
def State.imageMeet (s : State) (l : Launch) : State :=
  let meet (s : State) (off n : Nat) : State := s.virtMeet (.die 16) l.space (l.imageVa + off) n true
  match s.imageRead l 0 64 with
  | .error _ => meet s 0 64
  | .ok b =>
    let hs := match s.imageRead l (fieldAt b 16 8) (32 * fieldAt b 8 4) with
      | .error _ => []
      | .ok t => (recordsOf 32 t).map sectHdr
    (hs.filter (fun h => !h.filled && decide (3 ≤ h.type) && h.type != 14)).foldl (fun s h => meet s h.off h.size)
      (meet (meet s 0 64) (fieldAt b 16 8) (32 * fieldAt b 8 4))

end Sys2Proof.Machine
end

