-- ==== Sys2Proof/Machine/Alloc.lean ====
section
/-! DEFINITION. The dispatcher's choice of the head, the image checks, the page allocator, grafts and pre-emption (R39, R40, R45, R50 to R55,
R60 to R65, R81, R209, R216). -/
namespace Sys2Proof.Machine

/-! ### Eligible launches and the head (R50 to R52) -/

def Launch.npre (l : Launch) : Nat := l.field 18 3
def Launch.pre (l : Launch) (i : Nat) : Nat := l.field (224 + 32 * i) 32

/-- Does a launch wait in the queue? -/
def Launch.waits (l : Launch) : Bool := (l.phase == .queued || l.phase == .dormant) && l.ending.isNone

/-- Every prerequisite is satisfied: a failed one ends the launch, so none of those named is still queued or running (R40). -/
def State.preOk (s : State) (l : Launch) : Bool :=
  (List.range l.npre).all (fun i => !s.launches.any (fun m => m.lid == l.pre i && decide (m.order < l.order)))

/-- Held back by a pending weight switch (R45). -/
def State.switchHolds (s : State) (l : Launch) : Bool := s.load.phase == .switchPending && decide (s.load.n ≤ l.stamp) && !l.placedOnce

def State.eligible (s : State) (l : Launch) : Bool := l.waits && s.preOk l && !s.switchHolds l
def State.eligibleAt (s : State) (p : Nat) : List Launch := s.launches.filter (fun l => s.eligible l && l.prio == p)

/-- The highest priority that has an eligible launch. -/
def State.topPrio (s : State) : Option Nat := [3, 2, 1, 0].find? (fun p => !(s.eligibleAt p).isEmpty)

/-- The launch accepted first. -/
def oldest : List Launch → Option Launch
  | [] => none
  | l :: r => match oldest r with
    | some m => if m.order < l.order then some m else some l
    | none => some l

/-- The lowest number above the pointer, or the lowest of all (R51). -/
def nextNode (ptr : Option Nat) (ns : List Nat) : Option Nat :=
  let low (ms : List Nat) : Option Nat := ms.foldl (fun (m : Option Nat) n => some (match m with
    | some k => min k n
    | none => n)) none
  match ptr with
  | none => low ns
  | some p => (low (ns.filter (fun n => decide (p < n)))).or (low ns)

def State.headLaunch (s : State) : Option Launch := s.head.bind s.launch

/-- A head stays head while it is loaded, or waits for its placement and no higher priority has an eligible launch (R52). -/
def State.keepsHead (s : State) : Bool :=
  match s.headLaunch with
  | none => false
  | some l => l.phase == .loading || (s.eligible l && (match s.topPrio with
      | some p => decide (p ≤ l.prio)
      | none => true))

def State.ptrAt (s : State) (p : Nat) : Option Nat := if h : p < 4 then s.headPtr[p] else none
def State.setPtr (s : State) (p n : Nat) : State := if h : p < 4 then { s with headPtr := s.headPtr.set p (some n) } else s

/-- The dispatcher's choice (R51). -/
def State.chooseHead (s : State) : State :=
  if s.keepsHead then s
  else match s.topPrio with
    | none => { s with head := none }
    | some p =>
      let es := s.eligibleAt p
      match oldest (es.filter (fun l => l.preempted)) with
      | some l => { s with head := some l.lid }
      | none => match nextNode (s.ptrAt p) (es.map (fun l => l.node)) with
        | none => { s with head := none }
        | some n => { s.setPtr p n with head := (oldest (es.filter (fun l => l.node == n))).map Launch.lid }

/-- DISPATCHER_HEAD_CHOICE (R51): one configuration cycle. -/
def execDispatcherHeadChoice (s : State) : Host.Outcome State Fault Refusal :=
  .next (if s.live then { s with clock := s.clock + 1 }.chooseHead else s)

/-! ### What stands placed (R60 to R62, R81) -/

/-- The page sets that stand placed, with their images. -/
abbrev Yard := List (Placed × Image)

def State.yard (s : State) : Yard := s.placed.filterMap (fun p => (s.imageOf p.lid).map (fun m => (p, m)))

/-- Memory nodes, channel SRAM of its channel nodes, and that of its remote channel nodes, which a page set needs. -/
def Image.needNodes (m : Image) (p : Nat) : Nat := m.nodes.countP (fun n => n.pset == p)
def Image.needSram (m : Image) (p : Nat) : Nat :=
  ((m.links.filter (fun l => l.kind == 1 && l.dstPset == p)).map (fun l => 96 * l.slots)).foldl (fun a b => a + b) 0
def Image.needRemote (m : Image) (lid p : Nat) : List (Nat × Nat) :=
  (m.links.filter (fun l => l.kind == 3 && l.dstPset == p)).map (fun l => (portDie (Config.pinnedPort lid l.num % 18), 96 * l.slots))

def sumAt (d : Nat) (l : List (Nat × Nat)) : Nat := l.foldl (fun n (e : Nat × Nat) => if e.1 = d then n + e.2 else n) 0
/-- Pipelines whose layer 0 a page set holds. -/
def Image.entries (m : Image) (p : Nat) : Nat := m.pipes.countP (fun q => q.psets.head? == some p)

/-- Graph nodes on a fabric die; memory nodes and bytes of channel SRAM on a memory-port die; pipelines that a fabric die's controller owns. -/
def Yard.graphOn (y : Yard) (d : Nat) : Nat := sumAt d (y.map (fun (e : Placed × Image) => (e.1.die, e.2.graphOf e.1.pset)))
def Yard.nodesOn (y : Yard) (k : Nat) : Nat := sumAt k (y.map (fun (e : Placed × Image) => (e.1.mdie, e.2.needNodes e.1.pset)))
def Yard.sramOn (y : Yard) (k : Nat) : Nat :=
  sumAt k (y.flatMap (fun (e : Placed × Image) => (e.1.mdie, e.2.needSram e.1.pset) :: e.2.needRemote e.1.lid e.1.pset))
def Yard.ownersOn (y : Yard) (d : Nat) : Nat := sumAt d (y.map (fun (e : Placed × Image) => (e.1.die, e.2.entries e.1.pset)))

/-- Is a rectangle of pages inside the die, exposed, and free (R60)? -/
def Yard.free (y : Yard) (s : State) (d x y0 w h : Nat) : Bool :=
  decide (x + w ≤ 9 ∧ y0 + h ≤ 9) && (List.range h).all (fun j => (List.range w).all (fun i => s.exposed d (x + i) (y0 + j)))
    && y.all (fun (e : Placed × Image) =>
      let p := e.1
      p.die != d || decide (p.x + p.w ≤ x ∨ x + w ≤ p.x ∨ p.y + p.h ≤ y0 ∨ y0 + h ≤ p.y))

/-- Origins in the order in which they are scanned (R60). -/
def origins : List (Nat × Nat) := (List.range 9).flatMap (fun y => (List.range 9).map (fun x => (x, y)))

/-- The memory-port die that serves a page set on fabric die d: the lowest adjacent one that has room, if the dies of its remote
channel nodes have it too (R62). -/
def Yard.memDie (y : Yard) (online : Nat → Bool) (m : Image) (lid p d : Nat) : Option Nat :=
  let far := m.needRemote lid p
  let used (k : Nat) : Nat := y.sramOn k + sumAt k far
  if far.all (fun (e : Nat × Nat) => decide (used e.1 ≤ 2 ^ 22)) then
    (List.range 16).find? (fun k => decide (8 ≤ k) && online k && adjacent d k && decide (y.nodesOn k + m.needNodes p ≤ 128)
      && decide (used k + m.needSram p ≤ 2 ^ 22))
  else none

/-- A page set on a fabric die: its first origin, if the die yields a place (R60 to R62, R81). -/
def Yard.placeOn (y : Yard) (s : State) (m : Image) (lid p order d : Nat) (q : PsetDecl) : Option Placed :=
  if 16384 < y.graphOn d + m.graphOf p then none
  else if 0 < m.entries p ∧ 1 < y.ownersOn d + m.entries p then none
  else match origins.find? (fun o => y.free s d o.1 o.2 q.w q.h), y.memDie (fun k => (s.die k).online) m lid p d with
    | some o, some k => some
        { lid := lid, pset := p, die := d, x := o.1, y := o.2, w := q.w, h := q.h, mdie := k, order := order
          isSealed := q.isSealed, rotating := q.rotating }
    | _, _ => none

/-- Dies that a page set may stand on: those of AFF, or its pin among them, online, and with no graft in progress (R39, R61, R63). -/
def State.diesFor (s : State) (l : Launch) (q : PsetDecl) (busy : List Nat) : List Nat :=
  (List.range 8).filter (fun d => l.aff.testBit d && (s.die d).online && !busy.contains d && (match q.pin with
    | some k => k == d
    | none => true))

/-- The page sets of an image in ascending index, each on the first die that yields a place; all or none (R61). -/
def State.placeFrom (s : State) (l : Launch) (m : Image) (busy : List Nat) : List (PsetDecl × Nat) → Yard → Option (List Placed)
  | [], _ => some []
  | (q, p) :: r, y =>
    match (s.diesFor l q busy).findSome? (fun d => y.placeOn s m l.lid p s.orders d q) with
    | none => none
    | some e => (s.placeFrom l m busy r (y ++ [(e, m)])).map (fun t => e :: t)

def State.busyDies (s : State) : List Nat := s.grafts.map (fun g => s.dieOfPset g.lid g.pset)
def State.placeAll (s : State) (y : Yard) (l : Launch) (m : Image) (busy : List Nat) : Option (List Placed) :=
  s.placeFrom l m busy m.psets.zipIdx y

/-- Check 0x000A: some page set fits on no eligible die even when that die is empty (R55). -/
def State.noFit (s : State) (l : Launch) (m : Image) : Bool :=
  m.psets.zipIdx.any (fun (e : PsetDecl × Nat) => (s.placeFrom l m [] [e] []).isNone)

/-! ### Image checks (R55) -/

/-- The loading of a launch fails: it completes at that point (R54). -/
def State.failLoad (s : State) (lid : Nat) (e : EndRec) : State :=
  { s.endWith lid e with head := if s.head = some lid then none else s.head }

/-- The loader checks the image of a head that has not been checked yet. -/
def State.checkHead (s : State) : State :=
  match s.headLaunch with
  | none => s
  | some l =>
    if l.image.isSome || !l.waits then s
    else
      let met := s.imageMeet l
      match s.readImage l with
      | .error (.check c) => met.failLoad l.lid { status := 0x21, detail := c }
      | .error .signature => met.failLoad l.lid { status := 0x24, detail := 0 }
      | .error (.race a b) => met.failLoad l.lid { status := 0x21, detail := 9, fchan := a, ford := b }
      | .ok (m, n) =>
        if s.noFit l m then met.failLoad l.lid { status := 0x21, detail := 0x0A }
        else met.mapLaunch l.lid (fun l => { l with image := some m, races := n })

/-- IMAGE_CHECKS (R55). -/
def execImageChecks (s : State) : Host.Outcome State Fault Refusal := .next s.checkHead

/-! ### Placement (R61) -/

/-- The head that waits for a place, with its image; one that a pending weight switch holds back is not started (R45). -/
def State.placing (s : State) : Option (Launch × Image) :=
  match s.headLaunch with
  | some l => if l.waits && !s.switchHolds l then l.image.map (fun m => (l, m)) else none
  | none => none

/-- Places the head, every page set of it or none. -/
def State.placeHead (s : State) : State :=
  match s.placing with
  | none => s
  | some (l, m) => match s.placeAll s.yard l m s.busyDies with
    | none => s
    | some ps =>
      let was (p : Placed) : Bool := s.dormants.any (fun d => d.lid == l.lid && d.pset == p.pset && d.started)
      ({ s with
          placed := s.placed ++ ps.map (fun p => { p with started := was p, sinceStart := s.older.length }), orders := s.orders + 1
          load := { s.load with topStart := some (max l.stamp (s.load.topStart.getD 0)) } } : State).mapLaunch l.lid
        (fun l => { l with phase := .loading, placedOnce := true, preempted := false })

/-- PLACEMENT (R61). -/
def execPlacement (s : State) : Host.Outcome State Fault Refusal := .next s.placeHead

/-! ### Grafts (R63, R209) -/

/-- The youngest placement first; of page sets of one launch, which were placed together, the lower index (R63, DESIGN CHOICE, log 100). -/
def youngInsert (p : Placed) : List Placed → List Placed
  | [] => [p]
  | q :: r => if q.order ≤ p.order then p :: q :: r else q :: youngInsert p r
def youngest (l : List Placed) : List Placed := l.foldr youngInsert []

/-- The page sets that a graft may move for a head. -/
def State.movable (s : State) (l : Launch) : List Placed :=
  youngest (s.placed.filter (fun p => l.aff.testBit p.die && !s.busyDies.contains p.die && !s.isCut p.lid p.pset && !p.quiesced
    && (match p.graftedAt with
      | some t => decide (t + 2 ^ 24 ≤ s.clock)
      | none => true)
    && (match s.launch p.lid with
      | some k => k.phase == .running && k.ending.isNone && decide (k.prio ≤ l.prio)
      | none => false)))

/-- A page set at another origin of its die, with the memory-port die that serves it there (R62, R63). -/
def State.movedTo (s : State) (p : Placed) (o : Nat × Nat) : Option Placed :=
  match s.imageOf p.lid with
  | none => none
  | some m =>
    let rest : Yard := s.yard.filter (fun (e : Placed × Image) => !(e.1.lid == p.lid && e.1.pset == p.pset))
    (rest.memDie (fun k => (s.die k).online) m p.lid p.pset p.die).map (fun k => { p with x := o.1, y := o.2, mdie := k })

/-- The placements with one page set moved. -/
def State.yardWith (s : State) (q : Placed) : Yard :=
  s.yard.map (fun (e : Placed × Image) => if e.1.lid = q.lid ∧ e.1.pset = q.pset then (q, e.2) else e)

/-- The first page set and origin after which the whole head can be placed (R63). -/
def State.graftPlan (s : State) (l : Launch) (m : Image) : Option Placed :=
  (s.movable l).findSome? (fun p =>
    (origins.filter (fun o => s.yard.free s p.die o.1 o.2 p.w p.h)).findSome? (fun o => match s.movedTo p o with
      | none => none
      | some q => if (s.placeAll (s.yardWith q) l m s.busyDies).isSome then some q else none))

/-- May a graft be sought: the head fits nowhere, and none has been started for it? -/
def State.seeksGraft (s : State) (l : Launch) (m : Image) : Bool :=
  (s.placeAll s.yard l m s.busyDies).isNone && !s.grafts.any (fun g => g.head == l.lid)

def State.startGraft (s : State) : State :=
  match s.placing with
  | none => s
  | some (l, m) =>
    if !s.seeksGraft l m then s
    else match s.graftPlan l m with
      | none => s
      | some q =>
        let g : Graft := { lid := q.lid, pset := q.pset, x := q.x, y := q.y, head := l.lid }
        ({ s with grafts := s.grafts ++ [g] } : State).startCut q.lid [q.pset] .graft none

/-- GRAFT_START (R63). -/
def execGraftStart (s : State) : Host.Outcome State Fault Refusal := .next s.startGraft

/-- The free physical nodes of a memory-port die, lowest first (R62). -/
def State.freeNodes (s : State) (k : Nat) : List Nat := (List.range 128).filter (fun j => !s.nodes.any (fun n => n.die == k && n.phys == j))

/-- Gives the memory nodes of a page set their places on a die, in ascending table index (R62). -/
def State.seatNodes (s : State) (lid pset k : Nat) : State :=
  let mine (n : MemNode) : Bool := n.ref.lid == lid && n.pset == pset
  let free := ({ s with nodes := s.nodes.filter (fun n => !mine n) } : State).freeNodes k
  let rank (n : MemNode) : Nat := s.nodes.countP (fun o => mine o && decide (o.ref.node < n.ref.node))
  { s with nodes := s.nodes.map (fun (n : MemNode) => if mine n then { n with die := k, phys := free.getD (rank n) 0 } else n) }

/-- A graft whose page set stands copied resumes it at its new origin, and the head that waits for it is placed (R209). -/
def State.resumeGraft (s : State) : State :=
  match s.grafts.find? (fun g => !s.isCut g.lid g.pset && s.launchRuns g.lid) with
  | none => s
  | some g =>
    match s.place g.lid g.pset with
    | none => { s with grafts := s.grafts.filter (fun h => decide (h ≠ g)) }
    | some p =>
      let s := s.reservedRead
      if s.ended g.lid then s else
      let k : Nat := ((s.movedTo p (g.x, g.y)).map (fun q => q.mdie)).getD p.mdie
      let s : State := s.mapPlace g.lid g.pset (fun p => { p with x := g.x, y := g.y, mdie := k, graftedAt := some s.clock })
      let s := (({ s with grafts := s.grafts.filter (fun h => decide (h ≠ g)) } : State).seatNodes g.lid g.pset k).wakeRegion g.lid g.pset
      if s.head = some g.head then s.placeHead else s

/-- GRAFT_RESUME (R209). -/
def execGraftResume (s : State) : Host.Outcome State Fault Refusal := .next s.resumeGraft

/-! ### Pre-emption (R64) -/

/-- Is a launch to be pre-empted before another: lower priority, then started more recently? -/
def Launch.victimBefore (a b : Launch) : Bool := decide (a.prio < b.prio ∨ (a.prio = b.prio ∧ b.startOrder < a.startOrder))
def firstVictim : List Launch → Option Launch
  | [] => none
  | l :: r => match firstVictim r with
    | some m => if m.victimBefore l then some m else some l
    | none => some l

/-- Launches of lower priority that run on the dies that the head's AFF names. -/
def State.victims (s : State) (l : Launch) : List Launch :=
  s.launches.filter (fun k => k.phase == .running && k.ending.isNone && decide (k.prio < l.prio)
    && s.placed.any (fun p => p.lid == k.lid && l.aff.testBit p.die))

/-- Pre-empts one launch, when no graft lets the head fit and no pre-emption is in progress. -/
def State.preempt (s : State) : State :=
  match s.placing with
  | none => s
  | some (l, m) =>
    if !s.seeksGraft l m || (s.graftPlan l m).isSome || s.cuts.any (fun c => decide (c.why = .preempt)) then s
    else match firstVictim (s.victims l) with
      | none => s
      | some k => s.startCut k.lid (s.psetsOf k.lid) .preempt none

/-- PREEMPTION (R64). -/
def execPreemption (s : State) : Host.Outcome State Fault Refusal := .next s.preempt

end Sys2Proof.Machine
end

