-- ==== Sys2Proof/Machine/Loader.lean ====
section
/-! DEFINITION. The configuration loader: which words are illegal, what a placed image becomes, and how a dormant launch runs again (R54, R59,
R71 to R74, R81, R85, R89, R90, R113, R126, R132, R181, R202, R205, R208, R210, R245, R252, R253, R255, R259, R403). -/
namespace Sys2Proof.Machine

/-! ### Illegal words (R59, R259) -/

/-- A port of an E-block that names an unused map entry (R252). -/
def unusedPort (c : ECode) : Instr → Bool
  | .inPort _ _ n _ _ => ((c.imap[n.toNat]?).join).isNone
  | .outPort _ n _ _ => ((c.omap[n.toNat]?).join).isNone
  | .outm _ n _ _ => ((c.omap[n.toNat]?).join).isNone
  | .mrk _ n _ _ => ((c.omap[n.toNat]?).join).isNone
  | .segl _ n _ => ((c.omap[n.toNat]?).join).isNone
  | .segn _ n _ => ((c.omap[n.toNat]?).join).isNone
  | .ctxsw _ n _ => ((c.omap[n.toNat]?).join).isNone
  | _ => false

/-- An instruction of an E-block that R255, R257 or R259 makes illegal. -/
def elemInsnBad (c : ECode) (is : List (Option Instr)) (slot : Nat) : Bool :=
  match is.getD slot none with
  | none => true
  | some i =>
    !i.blocks.2 || !i.elemOk || !i.targets.all (targetOk is slot) || unusedPort c i
      || (List.range 4).any (fun q => usesPos i q && !posNamed is slot q)

/-- A map of an E-block that names a port from 16 to 254, or one port twice (R245). -/
def mapBad (m : List (Option Nat)) : Bool :=
  let ps := m.filterMap id
  ps.any (fun p => decide (16 ≤ p)) || decide (ps.eraseDups.length ≠ ps.length)

/-- An E-block that is illegal (R245, R259). -/
def eblockBad (h : Nat) (ws : List Word) : Bool :=
  let c := ecodeOf h ws
  let is := ws.map (fun w => (decodeWord w).toOption)
  h % 16 != 2 || decide (32 ≤ h / 2 ^ 4 % 128) || h / 2 ^ 12 % 16 != 0 || h / 2 ^ 96 != 0 || mapBad c.imap || mapBad c.omap
    || (List.range ws.length).any (elemInsnBad c is)

/-- The formats that an IFMT field may hold (R253). -/
def ifmtOk (f : Nat) : Bool := decide (f ≤ 14) || f == 16 || f == 17 || f == 31

/-- An element configuration word that is illegal (R253, R259). -/
def PlotDecl.wordBad (p : PlotDecl) (w : Nat) : Bool :=
  let ix := (List.range 4).filter (fun k => w.testBit (44 + k))
  decide (5 ≤ cfgKind w) || w % 2 ^ 21 != 0 ||
    (if cfgKind w = 1 then
      match eblockAt p.code (cfgOff w) with
      | none => true
      | some (h, ws) =>
        let used (k : Nat) : Bool := (((ecodeOf h ws).imap[k]?).join).isSome
        eblockBad h ws || ix.length == 1 || !ix.all used
          || (List.range 4).any (fun k => if used k then !ifmtOk (cfgIfmt w k) else cfgIfmt w k != 31)
    else cfgOff w != 0 || !ix.isEmpty || (List.range 4).any (fun k => cfgIfmt w k != 31))

/-- A link descriptor that is illegal (R113). -/
def LinkDecl.bad (l : LinkDecl) : Bool :=
  l.fmt == 15 || decide (18 ≤ l.fmt) || decide (64 < l.descSlots) || l.desc % 2 ^ 10 != 0 || (l.kind != 0 && l.descSlots != 0)

/-- A memory-node descriptor or pattern that is illegal (R181, R234, R403). -/
def NodeDecl.bad (n : NodeDecl) : Bool :=
  let upd := n.cls == 2 || (n.cls == 1 && n.dir == 2)
  n.desc / 2 ^ 122 != 0 || n.desc / 2 ^ 112 % 2 != 0 || n.dir == 3 || n.cls == 3 || decide (6 ≤ n.scope) || decide (n.limit < n.base)
    || (n.cls == 2 && n.dir == 0) || (n.cls == 0 && n.dir == 2) || ((n.inv || n.bt) && n.dir != 0)
    || decide (5 < n.op) || (n.op != 0 && !upd) || (upd && n.fmt != 13) || decide (14 < n.fmt ∧ n.fmt ≠ 16 ∧ n.fmt ≠ 17) || decide (1 < n.addrPat)
    || (n.addrPat == 0 && (decide (n.levels = 0 ∨ 4 < n.levels) || (n.pairs.take n.levels).any (fun e => e.1 == 0)))

/-- A trellis word or table that is illegal (R72). -/
def TrellisDecl.bad (t : TrellisDecl) : Bool :=
  let kind := t.word / 2 ^ 62
  decide (kind = 3 ∨ t.word % 2 ^ 50 ≠ 0 ∨ (kind ≠ 1 ∧ t.word / 2 ^ 58 % 16 ≠ 0))
    || (t.table.drop (t.word / 2 ^ 54 % 16 + 1)).any (fun e => e != 0)

/-- Words of a stage set that are illegal (R132). -/
def StageDecl.bad (t : StageDecl) : Bool :=
  let n := t.cfg % 8 + 1
  decide (t.cfg / 2 ^ 48 ≠ 0 ∨ t.cfg / 2 ^ 36 % 2 ^ 12 < 3 ∨ t.seed / 2 ^ 32 ≠ 0)
    || (t.stages.take n).any (fun w => decide (w / 2 ^ 32 ≠ 0 ∨ w / 2 ^ 16 % 256 ≠ 0 ∨ w / 2 ^ 4 % 16 ≠ 0 ∨ (w / 4 % 2 = 1 ∧ w % 4 ≠ 0)))
    || (t.stages.drop n).any (fun w => w != 0)

/-- Where a word is rejected: die, plot row, plot column. -/
abbrev Blame := Nat × Nat × Nat

/-- A plot of a page set on its die; the lowest plot of a page; the place of a memory node or channel node (R59, R201). -/
def State.plotBlame (s : State) (lid pset x y : Nat) : Blame :=
  match s.place lid pset with
  | some p => (p.die, 4 * p.y + y, 4 * p.x + x)
  | none => (0, 0, 0)
def State.nodeBlame (s : State) (lid pset : Nat) : Blame := (s.mdieOf lid pset, 0, 0)

/-- The element whose routing table holds a link: its source, or its consumer when nothing of the package sends it. -/
def State.linkBlame (s : State) (lid : Nat) (l : LinkDecl) : Blame :=
  match l.srcs.head?, l.dst with
  | some (.plot x y _), _ => s.plotBlame lid l.srcPset x y
  | some (.core x y _), _ => s.plotBlame lid l.srcPset (4 * x) (4 * y)
  | some (.forager x y _), _ => s.plotBlame lid l.srcPset (4 * x) (4 * y)
  | some (.mem _), _ => s.nodeBlame lid l.srcPset
  | _, _ => s.nodeBlame lid l.dstPset

def blameLt (a b : Blame) : Bool := decide (a.1 < b.1 ∨ (a.1 = b.1 ∧ (a.2.1 < b.2.1 ∨ (a.2.1 = b.2.1 ∧ a.2.2 < b.2.2))))

/-- The rejected word on the lowest die, then plot row, then plot column (R59). -/
def State.rejected (s : State) (lid : Nat) (m : Image) : Option Blame :=
  let all : List Blame :=
    (m.elems.filter (fun (e : PlotDecl × Nat × Nat) => e.1.wordBad e.2.2)).map (fun (e : PlotDecl × Nat × Nat) =>
        s.plotBlame lid e.1.pset e.1.x e.1.y)
      ++ (m.links.filter LinkDecl.bad).map (s.linkBlame lid)
      ++ (m.nodes.filter NodeDecl.bad).map (fun n => s.nodeBlame lid n.pset)
      ++ (m.trellis.filter TrellisDecl.bad).map (fun t => s.plotBlame lid t.pset (4 * t.px) (4 * t.py))
      ++ (m.stagesets.filter StageDecl.bad).map (fun t => s.plotBlame lid t.pset (4 * t.px) (4 * t.py))
  all.foldl (fun (b : Option Blame) a => some (match b with
    | some b => if blameLt a b then a else b
    | none => a)) none

/-! ### What an image becomes (R241) -/

/-- A link or channel. -/
def LinkDecl.toChan (lid : Nat) (l : LinkDecl) : Chan :=
  { lid := lid, num := l.num, kind := l.kind, ctx := l.ctx, fmt := l.fmt, scale := l.scale, record := l.isRec, banked := l.isBanked
    slots := l.slots, srcPset := l.srcPset, srcs := l.srcs, dstPset := l.dstPset, dst := l.dst, egress := l.egress, exitFirst := l.first
    scratch := l.scratch, rnode := if l.kind = 3 then l.ext % 2 ^ 16 else 0, rchan := if l.kind = 3 then l.ext / 2 ^ 16 % 2 ^ 16 else 0
    vport := Config.pinnedPort lid l.num % 18 }

/-- An element; its place adds 256 for each context below its own, so that the programs of one plot stay apart. -/
def Image.toElem (m : Image) (lid : Nat) (e : PlotDecl × Nat × Nat) : Elem :=
  let (p, k, w) := e
  { ref := { lid := lid, pset := p.pset, x := p.x, y := p.y, idx := k + 256 * cfgCtx w }, kind := cfgKind w, ctx := cfgCtx w
    cfg := BitVec.ofNat 64 w, leaf := w / 2 ^ 41 % 8, code := p.ecode w
    guess := (m.guesses.find? (fun g => g.pset == p.pset && g.x == p.x && g.y == p.y && g.elem == k)).map (fun g => g.k) }

/-- A memory node; its die and physical place follow (R62). -/
def NodeDecl.toNode (lid k : Nat) (n : NodeDecl) : MemNode :=
  { ref := ⟨lid, k⟩, pset := n.pset, die := 0, phys := 0, bt := n.bt, inv := n.inv, dir := n.dir, cls := n.cls, scope := n.scope
    limit := n.limit, base := n.base, start := n.start, addrPat := n.addrPat == 1, levels := n.pairs.take n.levels, fmt := n.fmt, op := n.op }

/-- A trellis node. -/
def TrellisDecl.toTrellis (lid : Nat) (t : TrellisDecl) : Trellis :=
  { page := ⟨lid, t.pset, t.px, t.py⟩, node := t.node, kind := t.word / 2 ^ 62, window := t.word / 2 ^ 58 % 16 + 1
    parent := if t.word / 2 ^ 50 % 2 = 1 then none else some (t.word / 2 ^ 51 % 8)
    kids := (t.table.take (t.word / 2 ^ 54 % 16 + 1)).map (fun e => (e / 2 ^ 12, e % 2 ^ 12)) }

/-- A forager with its stage set (R132). -/
def StageDecl.toForager (lid : Nat) (ordered : Bool) (t : StageDecl) : Forager :=
  { page := ⟨lid, t.pset, t.px, t.py⟩, ctx := t.ctx, window := t.cfg / 2 ^ 36 % 2 ^ 12 + 1, ring := t.cfg / 2 ^ 28 % 256
    rejp := t.cfg / 2 ^ 20 % 256, exitp := t.cfg / 2 ^ 12 % 256, entry := t.cfg / 2 ^ 4 % 256, ordered := ordered
    stages := (t.stages.take (t.cfg % 8 + 1)).map (fun w => { outl := w / 2 ^ 24 % 256, comm := w / 8 % 2 == 1, pure_ := w / 4 % 2 == 1
                                                              cls := w % 4, rej := w / 2 ^ 8 % 256 })
    lfsr := if t.seed % 2 ^ 32 = 0 then 1 else BitVec.ofNat 32 t.seed }

/-- The pages of a page set. -/
def PsetDecl.pages (q : PsetDecl) (lid p : Nat) : List PageRef :=
  (List.range q.h).flatMap (fun y => (List.range q.w).map (fun x => ⟨lid, p, x, y⟩))

/-- The plots of a page; the context counter of a rotating region begins at 3, that of a selected one at 0 (R126, log 10). -/
def plotsOfPage (g : PageRef) (rotating : Bool) : List Plot :=
  (List.range 16).map (fun i => { lid := g.lid, pset := g.pset, x := 4 * g.px + i % 4, y := 4 * g.py + i / 4, ctx := if rotating then 3 else 0 })

/-- The eight leaf pipelines of a page, with the outputs that the image declares (R74). -/
def Image.leavesOf (m : Image) (g : PageRef) : List Leaf :=
  (List.range 8).map (fun j =>
    { page := g, leaf := j
      outs := ((m.leafs.find? (fun t => t.pset == g.pset && t.px == g.px && t.py == g.py && t.leaf == j)).map (fun t => t.outs)).getD [] })

/-- The array of a page in each context, with its mode bit (R129, R130, R397). Each context has weight registers of its own, which R129 leaves
open (DESIGN CHOICE, log 107). -/
def Image.arraysOf (m : Image) (g : PageRef) : List ArrayUnit :=
  (List.range 4).map (fun c =>
    { page := g, ctx := c
      mode := ((m.arrays.find? (fun a => a.pset == g.pset && a.px == g.px && a.py == g.py && a.ctx == c)).map (fun a => a.mode)).getD 0 })

/-- The sprout controller of a pipeline as it is loaded (R81, R83, R89, R90); the threshold of a guess point that the image does not declare
is 0 (log 27). -/
def Image.sproutOf (m : Image) (lid i : Nat) (p : Pipe) : Sprout :=
  let mine := m.guesses.filter (fun g => p.psets.contains g.pset && decide (g.k < 7))
  { owner := some lid, pipe := i, nsink := m.sinks p, nlane := p.lanes, lanes := List.replicate p.lanes {}
    gpmask := ((List.range 7).filter (fun k => mine.any (fun g => g.k == k))).foldl (fun a k => a + 2 ^ k) 0
    gth := (List.range 7).map (fun k => BitVec.ofNat 64 (((mine.find? (fun g => g.k == k)).map (fun g => g.thr % 2 ^ 35)).getD 0)) }

/-- A launch begins to run: it leaves the queue. -/
def State.begins (s : State) (lid : Nat) : State :=
  ({ s with orders := s.orders + 1, head := if s.head = some lid then none else s.head } : State).mapLaunch lid
    (fun l => { l with phase := .running, startOrder := s.orders })

/-- The sealed sinks that firmware marks for the exit channels of a launch's sealed page sets, as they are loaded (R49, log 88). -/
def State.markSinks (s : State) (lid : Nat) (m : Image) : State :=
  let new : List Sink := ((List.range m.psets.length).filter (fun p => ((m.psets[p]?).map (fun q => q.isSealed)).getD false)).flatMap (fun p =>
    ((List.range (Config.sinkCount lid p)).map (fun k => ({ lid := lid, pset := p, chan := Config.sinkChan lid p k
                                                            pair := Config.sinkPair lid p k, window := Config.sinkWindow lid p k } : Sink))).filter
      (fun k => m.links.any (fun l => l.num == k.chan && l.egress && l.srcPset == p)))
  new.foldl (fun s k => match k.pair with
    | some q => s.setQpair { s.qpair q with boundTo := some k.chan }
    | none => s) { s with sinks := s.sinks ++ new }

/-- Loads every table of an image. -/
def State.loadImage (s : State) (l : Launch) (m : Image) : State :=
  let lid := l.lid
  let pages := m.psets.zipIdx.flatMap (fun (e : PsetDecl × Nat) => (e.1.pages lid e.2).map (fun g => (g, e.1.rotating)))
  let s : State := { s with
    chans := s.chans ++ m.links.map (LinkDecl.toChan lid)
    plots := s.plots ++ pages.flatMap (fun (e : PageRef × Bool) => plotsOfPage e.1 e.2)
    elems := s.elems ++ m.elems.map (m.toElem lid)
    trellis := s.trellis ++ m.trellis.map (TrellisDecl.toTrellis lid)
    leaves := s.leaves ++ pages.flatMap (fun (e : PageRef × Bool) => m.leavesOf e.1)
    foragers := s.foragers ++ m.stagesets.map (StageDecl.toForager lid l.isReplay)
    arrays := s.arrays ++ pages.flatMap (fun (e : PageRef × Bool) => m.arraysOf e.1) }
  let s := (List.range m.psets.length).foldl (fun s p =>
    let new := (m.nodes.zipIdx.filter (fun (e : NodeDecl × Nat) => e.1.pset == p)).map (fun (e : NodeDecl × Nat) => e.1.toNode lid e.2)
    ({ s with nodes := s.nodes ++ new } : State).seatNodes lid p (s.mdieOf lid p)) s
  m.pipes.zipIdx.foldl (fun s (e : Pipe × Nat) => s.setSprout (s.dieOfPset lid (e.1.psets.headD 0)) (m.sproutOf lid e.2 e.1)) s

/-- Has a launch page sets that stand saved? -/
def State.isDormant (s : State) (lid : Nat) : Bool := s.dormants.any (fun d => d.lid == lid)

/-- Frees the pages of a launch. -/
def State.unplace (s : State) (lid : Nat) : State := { s with placed := s.placed.filter (fun p => p.lid != lid) }

/-- Loads the configuration words of the launch that has just been placed, or fails with ILLEGAL_WORD (R59). -/
def State.configure (s : State) : State :=
  match s.headLaunch with
  | none => s
  | some l =>
    if l.phase != .loading || l.ending.isSome || s.isDormant l.lid then s
    else match l.image with
      | none => s
      | some m => match s.rejected l.lid m with
        | some (die, row, col) =>
          (s.failLoad l.lid { status := 0x21, detail := 0x0B, die := die, plotx := col, ploty := row }).unplace l.lid
        | none => ((s.loadImage l m).markSinks l.lid m).begins l.lid

/-- CONFIG_LOAD (R59). -/
def execConfigLoad (s : State) : Host.Outcome State Fault Refusal := .next s.configure

/-! ### Resuming a dormant launch (R205, R208, R210) -/

/-- The entries of a launch in the ready lists and its task records go back, in the order in which they stood, each to the die where its node or
its spawner stands now (R75, R205). -/
def State.reseatSeqs (s : State) (lid : Nat) : State :=
  match s.launch lid with
  | none => s
  | some l =>
    let s := s.mapLaunch lid (fun l => { l with parkedReady := [], parkedTasks := [] })
    let s := l.parkedReady.foldl (fun s (e : Nat × Nat × Nat) => s.makeReady e.1 e.2.1 e.2.2) s
    l.parkedTasks.foldl (fun s t =>
      let d := s.taskDie t
      s.setSeq d { s.seqAt d with tasks := (s.seqAt d).tasks ++ [t] }) s

/-- Puts one saved region back, on the die where its page set now stands. -/
def State.reopen (s : State) (d : Dormant) : State :=
  let s := (s.restoreRegion d).seatNodes d.lid d.pset (s.mdieOf d.lid d.pset)
  d.sprouts.foldl (fun s c => s.setSprout (s.dieOfPset d.lid d.pset) c) s

/-- Does a program's area hold another image than the one that was written, whole in itself (R202)? -/
def State.forged (s : State) (d : Dormant) : Bool := !d.area.isEmpty && decide (((readSpan s d.area).drop 64).take 64 ≠ d.digest)

/-- A dormant launch that has been placed runs again; an image that does not hold its version and digest fails it (R208). Whether one that a
program has replaced holds an illegal word is free, since R207 does not lay out what it would hold; if it does, the launch fails (R202, log 20). -/
def State.resumeDormant (s : State) (lid : Nat) : State :=
  match s.launch lid with
  | none => s
  | some l =>
    let ds := s.dormants.filter (fun d => d.lid == lid)
    if l.phase != .loading || l.ending.isSome || ds.isEmpty then s
    else
      let s := if ds.any (fun d => d.area.isEmpty) then s.reservedRead else s
      if s.ended lid then s
      else if !ds.all (fun d => s.imageHolds d.area) then (s.failLoad lid { status := 0x21, detail := 0x0C }).unplace lid
      else if ds.any s.forged && s.freeAt 0 % 2 == 1 then
        ((s.useFree 1).failLoad lid { status := 0x21, detail := 0x0B, die := ((ds.find? s.forged).map (fun d => s.dieOfPset lid d.pset)).getD 0 }).unplace lid
      else ((ds.foldl (fun s d => s.reopen d) (s.useFree 1)).reseatSeqs lid).begins lid

/-- DORMANT_RESUME (R208). -/
def execDormantResume (lid : Nat) (s : State) : Host.Outcome State Fault Refusal := .next (s.resumeDormant lid)

end Sys2Proof.Machine
end

