-- ==== Sys2Proof/Machine/Complete.lean ====
section
/-! DEFINITION. The completion of a launch: its record, what it frees, its dependents; and load control (R39 to R45, R54, R65, R388). -/
namespace Sys2Proof.Machine

/-! ### The weight switch (R45) -/

/-- What load control keeps when it comes to rest. -/
def LoadCtl.rest (l : LoadCtl) : LoadCtl := { limit := l.limit, topStart := l.topStart }

/-- WSEL flips once no launch stamped below n is queued or running. -/
def State.tryFlip (s : State) : State :=
  if s.load.phase == .switchPending && s.launches.all (fun l => decide (s.load.n ≤ l.stamp)) then
    { s.tell s.load.port s.load.node 0 0x85 s.load.tag (leBytes 8 s.load.n) with wsel := !s.wsel, load := s.load.rest }
  else s

/-! ### The completion record (R41, R42) -/

/-- The record of a launch. -/
def completionRecord (l : Launch) (e : EndRec) (now : Nat) : List Byte :=
  let detail := if e.status = 0 then l.races else e.detail
  leBytes 8 (e.status % 256 + 256 + detail % 2 ^ 16 * 2 ^ 16 + l.lid % 2 ^ 32 * 2 ^ 32) ++ leBytes 8 (now - l.acceptedAt)
    ++ leBytes 8 (l.gdone % 2 ^ 32 + e.die % 2 ^ 8 * 2 ^ 32 + e.plotx % 64 * 2 ^ 40 + e.ploty % 64 * 2 ^ 46) ++ leBytes 8 e.ford
    ++ leBytes 2 e.fchan ++ List.replicate 30 0

/-- Writes the record at CADDR, or sends COMPLETION_LOST to the node that sent the launch; so it is too where CADDR lies on a WO page whose words are
present, of which R42 says nothing (DESIGN CHOICE, log 106). -/
def State.writeRecord (s : State) (l : Launch) (e : EndRec) : State :=
  let lost := s.tell l.port l.node 1 0x182 l.tag
    (leBytes 4 l.lid ++ leBytes 1 e.status ++ [0] ++ leBytes 2 (if e.status = 0 then l.races else e.detail))
  match spanOf s (.die 16) l.space l.caddr 64 { wr := true, rd := false, sup := true } with
  | .error _ => lost
  | .ok sp => (s.outerStore sp (completionRecord l e s.clock)).getD (lost.eccMeet (spanPas sp))

/-! ### Completion (R40, R201, R388) -/

/-- Are the accesses of a launch performed? One that ends by a fault leaves behind what stands held at a bank or waits for beats. -/
def State.accessesDone (s : State) (lid status : Nat) : Bool :=
  (s.cores.filter (fun (e : CoreRef × PageCore) => e.1.lid == lid)).all (fun (e : CoreRef × PageCore) =>
      e.2.posted.all (fun q => status != 0 && q.atBank)
        && (status != 0 || (e.2.tileQ.all (fun t => !t.op.touches) && e.2.streams.all (fun t => t.tile.isSome))))
    && s.engines.all (fun r => r.core.lid != lid)

/-- Whose launch a waiter belongs to. -/
def waiterLid : Waiter → Nat
  | .core c _ _ _ => c.lid
  | .node r _ => r.lid
  | .engine c _ => c.lid

/-- Everything that a launch holds is freed. -/
def State.teardown (s : State) (lid : Nat) : State :=
  { s with
    launches := s.launches.filter (fun l => l.lid != lid), head := if s.head = some lid then none else s.head
    placed := s.placed.filter (fun p => p.lid != lid), armings := s.armings.filter (fun a => a.lid != lid)
    seqs := s.seqs.map (fun q => { q with
      ready := q.ready.filter (fun e => e.1 != lid), tasks := q.tasks.filter (fun t => t.lid != lid)
      stalled := q.stalled.filter (fun c => c.lid != lid) })
    sinks := s.sinks.filter (fun k => k.lid != lid)
    qpairs := s.qpairs.map (fun q => if s.sinks.any (fun k => k.lid == lid && k.pair == some q.qp) then { q with boundTo := none } else q)
    barriers := s.barriers.filter (fun b => b.lid != lid), trellis := s.trellis.filter (fun t => t.page.lid != lid)
    leaves := s.leaves.filter (fun t => t.page.lid != lid), sprouts := s.sprouts.map (fun c => if c.owner = some lid then {} else c)
    portPrunes := s.portPrunes.filter (fun (e : CoreRef × Nat × PruneEnt) => e.1.lid != lid)
    portDrops := s.portDrops.filter (fun (e : CoreRef × Nat × Nat) => e.1.lid != lid)
    chans := s.chans.filter (fun h => h.lid != lid), plots := s.plots.filter (fun q => q.lid != lid)
    elems := s.elems.filter (fun e => e.ref.lid != lid), foragers := s.foragers.filter (fun g => g.page.lid != lid)
    arrays := s.arrays.filter (fun a => a.page.lid != lid), nodes := s.nodes.filter (fun n => n.ref.lid != lid)
    cores := s.cores.filter (fun (e : CoreRef × PageCore) => e.1.lid != lid)
    cuts := s.cuts.filter (fun c => c.lid != lid), grafts := s.grafts.filter (fun g => g.lid != lid)
    dormants := s.dormants.filter (fun d => d.lid != lid)
    deferred := s.deferred.filter (fun f => waiterLid f.who != lid), held := s.held.filter (fun w => waiterLid w.who != lid)
    bpPending := s.bpPending.filter (fun (e : Nat × Beat) => dbpLid (s.dbpAt e.1) != lid)
    firing := s.firing.filter (fun f => f.elem.lid != lid)
    tlb := s.tlb.filter (fun t => match t.owner with
      | .core c => c.lid != lid
      | _ => true)
    focus := match s.focus with
      | .core c b k => if c.lid = lid then .idle else .core c b k
      | .elem k => if s.firing.any (fun f => f.elem.lid == lid) then .idle else .elem k
      | .idle => .idle }

/-- The index of the prerequisite of a launch that bears a LID, among the fields it uses. -/
def Launch.preIdx (l : Launch) (lid : Nat) : Option Nat := (List.range l.npre).find? (fun i => l.pre i == lid)

/-- A launch that is to end because its prerequisite i is seen to fail in a configuration cycle: of those seen in one cycle, the lowest
index stands (R40). -/
def Launch.preFails (l : Launch) (i now : Nat) : Launch :=
  match l.ending with
  | none => { l with ending := some { status := 0x20, detail := i }, failedAt := some now }
  | some e => if l.failedAt = some now ∧ e.status = 0x20 ∧ i < e.detail then { l with ending := some { e with detail := i } } else l

/-- The launches that named a launch which did not complete with status 0 never run (R40). -/
def State.failDependents (s : State) (lid order : Nat) : State :=
  { s with launches := s.launches.map (fun l => match l.preIdx lid with
      | some i => if order < l.order then l.preFails i s.clock else l
      | none => l) }

/-- The completion history of 4,096 entries (R39). -/
def State.noteDone (s : State) (lid status : Nat) : State :=
  let h := s.history ++ [(lid, status)]
  { s with history := h.drop (h.length - 4096) }

/-- A launch that is to end, and whose accesses are performed, completes. -/
def State.complete (s : State) (lid : Nat) : State :=
  match s.launch lid with
  | none => s
  | some l => match l.ending with
    | none => s
    | some e =>
      if !s.accessesDone lid e.status then s
      else
        let s := ((s.writeRecord l e).teardown lid).noteDone lid e.status
        (if e.status = 0 then s else s.failDependents lid l.order).tryFlip

/-- LAUNCH_COMPLETION (R41). -/
def execLaunchCompletion (lid : Nat) (s : State) : Host.Outcome State Fault Refusal := .next (s.complete lid)

/-! ### Load control (R43 to R45) -/

/-- NOT_READY to the node that sent the PREPARE. -/
def State.notReady (s : State) (idx why : Nat) : State :=
  { s.tell s.load.port s.load.node 0 0x82 s.load.tag (leBytes 4 idx ++ leBytes 1 why ++ [0, 0, 0]) with
    load := { s.load with phase := .notReady, failIdx := idx, failWhy := why } }

/-- A shard's entry of the manifest. -/
def shardOf (b : List Byte) : Shard :=
  { index := fieldAt b 0 4, len := fieldAt b 8 8, offset := fieldAt b 16 8 * 65536, digest := (b.drop 64).take 64
    source := Config.shardSource ((b.drop 24).take 40) }

/-- Fetches a shard from its source: a RDMA READ on a queue pair, or a request to a node over VC 4 (R29, R33, R44). -/
def State.fetchShard (s : State) (e : Shard) : State :=
  let s := s.send (.shardFetch e.index)
  if e.source.roce then
    let p := (Config.pairPort e.source.from_).val
    s.sendEth p 0 (.roceRequest p e.source.from_ 4 e.source.key e.source.addr e.len)
  else match s.portTo none e.source.from_ with
    | some p => s.memFlits p e.source.from_ 4 3 []
    | none => s

/-- The shards that this package loads; none where the manifest breaks its layout, or a shard does not fit the weight store (R44). -/
def manifestShards (own : List Nat) (b : List Byte) : Option (List Shard) :=
  let es := recordsOf 128 (b.drop 64)
  let mine := es.filter (fun e => own.contains (fieldAt e 4 2))
  if fieldAt b 0 2 = 1 ∧ zeroAt b 2 2 ∧ zeroAt b 16 48 ∧ b.length = 64 + 128 * fieldAt b 4 4 ∧ es.all (fun e => zeroAt e 6 2)
      ∧ (es.map (fun e => fieldAt e 0 4)).eraseDups.length = es.length
      ∧ mine.all (fun e => decide (fieldAt e 16 8 * 65536 + fieldAt e 8 8 ≤ 8 * 0x300000000)) then
    some (mine.map shardOf)
  else none

/-- Starts loading from the manifest that a PREPARE names. -/
def State.prepare (s : State) (m : HostMsg) : State :=
  if s.load.phase != .idle then s.reply m 0x88 []
  else
    let s := { s with load := { s.load with phase := .loading, tag := m.tag, port := m.port, node := m.node, shards := [] } }
    match (s.hostRead (HostMsgField m 0 2) (HostMsgField m 8 8) (HostMsgField m 16 8)).bind (fun b =>
        if Config.sha3 b = (m.body.drop 24).take 64 then manifestShards s.ownNodes b else none) with
    | none => s.notReady 0xFFFFFFFF 3
    | some es => es.foldl State.fetchShard { s with load := { s.load with shards := es } }

/-- PREPARE (R45). -/
def execPrepare (msg : HostMsg) (s : State) : Host.Outcome State Fault Refusal :=
  .next (s.hear msg 0 88 [(2, 6)] (fun s => s.prepare msg))

/-- Writes bytes at an offset of the package's staging view: 12 GiB in each die (R43, R44). -/
def State.stageBytes (s : State) (off : Nat) (bs : List Byte) : State :=
  (List.range 8).foldl (fun s d =>
    let lo := d * 0x300000000
    let a := max off lo
    let n := min (off + bs.length) (lo + 0x300000000) - a
    s.store (d * 0x800000000 + 0x300000000 + (a - lo)) ((bs.drop (a - off)).take n)) s

/-- Takes the fetched shards in order; the first whose length or digest does not match stops the loader. -/
def State.takeShards (s : State) : List (Shard × List Byte) → State
  | [] =>
    if s.load.shards.all (fun e => e.fetched) then
      { s.tell s.load.port s.load.node 0 0x81 s.load.tag [] with load := { s.load with phase := .ready } }
    else s
  | (e, b) :: r =>
    if b.length ≠ e.len ∨ Config.sha3 b ≠ e.digest then s.notReady e.index 1
    else
      let s := s.stageBytes e.offset b
      State.takeShards { s with load := { s.load with shards := s.load.shards.map (fun f =>
        if f.index = e.index then { f with fetched := true } else f) } } r

/-- LOADER_SHARDS_FETCHED (R45): the bytes of shards that are not fetched yet, in the order of the manifest. -/
def execLoaderShardsFetched (shards : List (List Byte)) (s : State) : Host.Outcome State Fault Refusal :=
  .next (if s.load.phase == .loading then s.takeShards ((s.load.shards.filter (fun e => !e.fetched)).zip shards) else s)

/-- LOADER_LIMIT_EXPIRY (R45). -/
def execLoaderLimitExpiry (s : State) : Host.Outcome State Fault Refusal :=
  .next (if s.load.phase == .loading then
    s.notReady (((s.load.shards.filter (fun e => !e.fetched)).map (fun e => e.index)).foldl min 0xFFFFFFFF) 2 else s)

/-- A SWITCH(n) in the state of load control. -/
def State.switchTo (s : State) (m : HostMsg) (n : Nat) : State :=
  match s.load.phase with
  | .idle => s.reply m 0x87 []
  | .loading => s.reply m 0x89 []
  | .notReady => s.reply m 0x82 (leBytes 4 s.load.failIdx ++ leBytes 1 s.load.failWhy ++ [0, 0, 0])
  | .switchPending => s.reply m 0x88 []
  | .ready =>
    if s.load.topStart.any (fun t => decide (n ≤ t)) then s.reply m 0x84 (leBytes 8 n)
    else
      ({ s.reply m 0x83 (leBytes 8 n) with
        load := { s.load with phase := .switchPending, n := n, tag := m.tag, port := m.port, node := m.node } } : State).tryFlip

/-- SWITCH (R45). -/
def execSwitch (msg : HostMsg) (s : State) : Host.Outcome State Fault Refusal :=
  .next (s.hear msg 0 8 [] (fun s => s.switchTo msg (HostMsgField msg 0 8)))

/-- Is a byte of the weight store in the copy that the staging view maps (R43)? -/
def State.inStaging (s : State) (a : Nat) : Bool :=
  match regionOf a with
  | .active _ => s.wsel
  | .staging _ => !s.wsel
  | _ => false

/-- The staging copy's contents are undefined: its listed bytes become free values (R45, log 46). -/
def State.dropStaging (s : State) : State :=
  let as := (s.mem.map (fun c => c.1)).filter s.inStaging
  let mem := as.zipIdx.foldl (fun m (e : Nat × Nat) => Memory.write m e.1 (Config.freeByte (2 ^ 40 * s.fresh + e.2))) s.mem
  { s with mem := mem, fresh := s.fresh + 1 }

/-- An ABORT in the state of load control. -/
def State.abortLoad (s : State) (m : HostMsg) : State :=
  if s.load.phase == .idle then s.reply m 0x87 []
  else ({ s.reply m 0x86 [] with load := s.load.rest } : State).dropStaging

/-- ABORT (R45). -/
def execAbort (msg : HostMsg) (s : State) : Host.Outcome State Fault Refusal := .next (s.hear msg 0 0 [] (fun s => s.abortLoad msg))

end Sys2Proof.Machine
end

