-- ==== Sys2Proof/Machine/Float.lean ====
section
/-! DEFINITION. The working-float and conversion instructions (R283 to R295). -/
namespace Sys2Proof.Machine

/-- FADD (R285). -/
def execFadd (p : BitVec 2) (t u : BitVec 9) (s : State) : Host.Outcome State Fault Refusal :=
  execAlu s p [t, u] [.left, .right] fmWf (fun _ a b _ => wfAdd a b)

/-- FSUB (R285). -/
def execFsub (p : BitVec 2) (t u : BitVec 9) (s : State) : Host.Outcome State Fault Refusal :=
  execAlu s p [t, u] [.left, .right] fmWf (fun _ a b _ => aluFsub a b)

/-- FMUL (R285). -/
def execFmul (p : BitVec 2) (t u : BitVec 9) (s : State) : Host.Outcome State Fault Refusal :=
  execAlu s p [t, u] [.left, .right] fmWf (fun _ a b _ => wfMul a b)

/-- FFMA (R285). -/
def execFfma (p : BitVec 2) (t u : BitVec 9) (s : State) : Host.Outcome State Fault Refusal :=
  execAlu s p [t, u] [.left, .right, .third] fmWf (fun _ a b c => wfFma a b c)

/-- FDIV (R285, R286). -/
def execFdiv (p : BitVec 2) (t u : BitVec 9) (s : State) : Host.Outcome State Fault Refusal :=
  execAlu s p [t, u] [.left, .right] fmWf (fun _ a b _ => wfDiv a b)

/-- FSQRT (R285, R286). -/
def execFsqrt (p : BitVec 2) (t u : BitVec 9) (s : State) : Host.Outcome State Fault Refusal :=
  execAlu s p [t, u] [.left] fmWf (fun _ a _ _ => wfSqrt a)

/-- FMIN (R287). -/
def execFmin (p : BitVec 2) (t u : BitVec 9) (s : State) : Host.Outcome State Fault Refusal :=
  execAlu s p [t, u] [.left, .right] fmWf (fun _ a b _ => wfMin a b)

/-- FMAX (R287). -/
def execFmax (p : BitVec 2) (t u : BitVec 9) (s : State) : Host.Outcome State Fault Refusal :=
  execAlu s p [t, u] [.left, .right] fmWf (fun _ a b _ => wfMax a b)

/-- FABS (R287). -/
def execFabs (p : BitVec 2) (t u : BitVec 9) (s : State) : Host.Outcome State Fault Refusal :=
  execAlu s p [t, u] [.left] fmWf (fun _ a _ _ => { img := wfAbs a })

/-- FNEG (R287). -/
def execFneg (p : BitVec 2) (t u : BitVec 9) (s : State) : Host.Outcome State Fault Refusal :=
  execAlu s p [t, u] [.left] fmWf (fun _ a _ _ => { img := wfNeg a })

/-- FCMP (R288). -/
def execFcmp (p : BitVec 2) (t u : BitVec 9) (cc : BitVec 3) (s : State) : Host.Outcome State Fault Refusal :=
  execAlu s p [t, u] [.left, .right] fmInt (fun _ a b _ => aluFcmp cc a b)

/-- FCLASS (R289). -/
def execFclass (p : BitVec 2) (t u : BitVec 9) (s : State) : Host.Outcome State Fault Refusal :=
  execAlu s p [t, u] [.left] fmInt (fun _ a _ _ => { img := wfClass a })

/-- FEXP2 (R290); the value inside the bound is free (log 5). -/
def execFexp2 (p : BitVec 2) (t u : BitVec 9) (s : State) : Host.Outcome State Fault Refusal :=
  execAlu s p [t, u] [.left] fmWf (fun _ a _ _ => wfExp2 a)

/-- FLOG2 (R290); the value inside the bound is free (log 5). -/
def execFlog2 (p : BitVec 2) (t u : BitVec 9) (s : State) : Host.Outcome State Fault Refusal :=
  execAlu s p [t, u] [.left] fmWf (fun _ a _ _ => wfLog2 a)

/-- FRCP (R290); the value inside the bound is free (log 5). -/
def execFrcp (p : BitVec 2) (t u : BitVec 9) (s : State) : Host.Outcome State Fault Refusal :=
  execAlu s p [t, u] [.left] fmWf (fun _ a _ _ => wfRcp a)

/-- FRSQ (R290); the value inside the bound is free (log 5). -/
def execFrsq (p : BitVec 2) (t u : BitVec 9) (s : State) : Host.Outcome State Fault Refusal :=
  execAlu s p [t, u] [.left] fmWf (fun _ a _ _ => wfRsq a)

/-- FTANH (R290); the value inside the bound is free (log 5). -/
def execFtanh (p : BitVec 2) (t u : BitVec 9) (s : State) : Host.Outcome State Fault Refusal :=
  execAlu s p [t, u] [.left] fmWf (fun _ a _ _ => wfTanh a)

/-- CVT (R291). -/
def execCvt (p : BitVec 2) (t u : BitVec 9) (f : BitVec 4) (s : State) : Host.Outcome State Fault Refusal :=
  execAlu s p [t, u] [.left] fmWf (fun _ a _ _ => aluCvt f a)

/-- NARROW (R292). -/
def execNarrow (p : BitVec 2) (t u : BitVec 9) (f : BitVec 4) (s : State) : Host.Outcome State Fault Refusal :=
  execAlu s p [t, u] [.left] (fmCode f) (fun _ a _ _ => narrowTo a f.toNat)

/-- FINAL (R293); mode 6 is RMODE as the block began (R149). -/
def execFinal (p : BitVec 2) (t : BitVec 9) (f : BitVec 4) (m : BitVec 3) (s : State) : Host.Outcome State Fault Refusal :=
  execAlu s p [t] [.left] (fmCode f) (fun e a _ _ => aluFinal f (if m = 6 then e.mode else m.toNat) e.satf8 a)

/-- SCALE (R294). -/
def execScale (p : BitVec 2) (t u : BitVec 9) (s : State) : Host.Outcome State Fault Refusal :=
  execAlu s p [t, u] [.left, .right] fmWf (fun e a b _ => aluScale e.n a b)

/-- MXSC (R295). -/
def execMxsc (p : BitVec 2) (t u : BitVec 9) (f : BitVec 4) (s : State) : Host.Outcome State Fault Refusal :=
  execAlu s p [t, u] [.left] fmInt (fun _ a _ _ => aluMxsc f a)

end Sys2Proof.Machine
end

