-- ==== Sys2Proof/Machine/Host.lean ====
section
/-! DEFINITION. The host's messages: launches, page tables, debug, replay and logs (R35 to R40, R47, R48, R53, R207, R211, R215, R221 to R226). -/
namespace Sys2Proof.Machine

/-! ### LAUNCH (R38, R39, R53) -/

/-- Why a launch is rejected: the first check of R39 that fails. -/
def State.rejects (s : State) (l : Launch) : Option Nat :=
  if l.field 0 8 ≠ 2 then some 0x11
  else if l.field 480 32 ≠ 0 ∨ l.field 408 8 ≠ 0 ∨ l.field 176 16 ≠ 0 ∨ l.field 120 8 ≠ 0 ∨ l.field 21 11 ≠ 0 ∨ l.field 11 5 ≠ 0
      ∨ 4 < l.npre ∨ l.field 128 32 = 0 ∨ l.imageVa % 4096 ≠ 0 ∨ l.caddr % 64 ≠ 0 then some 0x10
  else if !(List.range 8).any (fun d => l.aff.testBit d && (s.die d).online) then some 0x12
  else if (s.ptbaseOf l.asid).isNone then some 0x16
  else if s.launches.any (fun k => k.lid == l.lid) || s.history.any (fun (e : Nat × Nat) => e.1 == l.lid) then some 0x13
  else if !(List.range l.npre).all (fun i => s.launches.any (fun k => k.lid == l.pre i) || s.history.any (fun (e : Nat × Nat) => e.1 == l.pre i)) then
    some 0x14
  else if 1024 ≤ s.launches.countP (fun k => !k.placedOnce) then some 0x15
  else none

/-- LAUNCH_REPLY. -/
def State.launchReply (s : State) (m : HostMsg) (lid status : Nat) : State :=
  s.reply m 0x181 (leBytes 4 lid ++ leBytes 1 status ++ [0, 0, 0])

/-- The lowest prerequisite that has already completed with another status than 0 (R40, R53). -/
def State.failedPre (s : State) (l : Launch) : Option Nat :=
  (List.range l.npre).find? (fun i => !s.launches.any (fun k => k.lid == l.pre i)
    && s.history.any (fun (e : Nat × Nat) => e.1 == l.pre i && e.2 != 0))

/-- A launch that is replayed takes the log armed for it; every launch with REPLAY = 1 is recorded (R220, R222). -/
def State.openLog (s : State) (l : Launch) : State :=
  if !l.isReplay then s
  else
    let log := (kget l.lid s.armed).map (fun b => (recordsOf 8 (b.drop Config.logHeadLen)).map (fun e => (BitVec.ofNat 64 (leNat e) : DWord)))
    { s with
      replays := s.replays.filter (fun r => r.lid != l.lid) ++ [{ lid := l.lid, todo := log }]
      armed := s.armed.filter (fun (e : Nat × List Byte) => e.1 != l.lid) }

/-- Accepts a launch: it is stamped, queued, and may become head in this configuration cycle (R39, R43). -/
def State.accept (s : State) (m : HostMsg) (l : Launch) : State :=
  let bord := if l.field 10 1 = 1 then s.bord + 1 else s.bord
  let l : Launch := { l with
    base := (s.ptbaseOf l.asid).getD 0, stamp := bord, order := s.orders, acceptedAt := s.clock
    ending := (s.failedPre l).map (fun i => { status := 0x20, detail := i }), failedAt := (s.failedPre l).map (fun _ => s.clock) }
  let s := ({ s with bord := bord, orders := s.orders + 1, launches := s.launches ++ [l] } : State).openLog l
  let s := s.chooseHead
  s.launchReply m l.lid (if s.head = some l.lid then 0 else 1)

/-- A LAUNCH message. -/
def State.launchMsg (s : State) (m : HostMsg) : State :=
  let r : BitVec 512 := BitVec.ofNat 512 (leNat (m.body.take 64))
  let l : Launch := { record := r, node := m.node, port := m.port, tag := m.tag, stamp := 0, order := 0, phase := .queued
                      gcount := r.toNat / 2 ^ 128 % 2 ^ 32 }
  match s.rejects l with
  | some c => s.launchReply m l.lid c
  | none => s.accept m l

/-- LAUNCH (R39). -/
def execLaunch (msg : HostMsg) (s : State) : Host.Outcome State Fault Refusal := .next (s.hear msg 1 64 [] (fun s => s.launchMsg msg))

/-! ### Page-table bases and attestation (R36, R37, R47) -/

/-- A SET_PTBASE message: 0 clears the base. -/
def State.setBase (s : State) (m : HostMsg) : State :=
  let asid := HostMsgField m 0 2
  let b := HostMsgField m 8 8
  if b = 0 then { s.result m 0 0 0 with ptbase := s.ptbase.filter (fun (e : Nat × Nat) => e.1 != asid) }
  else if b % 65536 ≠ 0 ∨ !inStore b then s.result m 9 0 0
  else { s.result m 0 0 0 with ptbase := kset asid b s.ptbase }

/-- SET_PTBASE (R36). -/
def execSetPtbase (msg : HostMsg) (s : State) : Host.Outcome State Fault Refusal :=
  .next (s.hear msg 0 16 [(2, 6)] (fun s => s.setBase msg))

/-- The states of R45 by number. -/
def LoadPhase.code : LoadPhase → Nat
  | .idle => 0
  | .loading => 1
  | .ready => 2
  | .notReady => 3
  | .switchPending => 4

/-- The report of R47, whose layout the spec does not give (log 47), with its signature. -/
def State.attestReport (s : State) (nonce : List Byte) : List Byte :=
  let sealedNow := (s.launches.filter (fun l => s.placed.any (fun p => p.lid == l.lid))).flatMap (fun l =>
    ((l.image.bind (fun i => i.sealedDigest)).getD []))
  let body := nonce ++ Config.identity ++ Config.firmware ++ sealedNow ++ leBytes 1 s.load.phase.code
  body ++ Config.mlDsaSign body

/-- ATTEST (R47). -/
def execAttest (msg : HostMsg) (s : State) : Host.Outcome State Fault Refusal :=
  .next (s.hear msg 0 56 (bufZeros 32) (fun s => s.answerInto msg 32 (s.attestReport (msg.body.take 32)) 0))

/-! ### Reading what is held (R37, R207, R211, R215, R221, R225, R226) -/

/-- Answers with what is held for the LID of a message, or UNKNOWN_LID. -/
def State.answerHeld (s : State) (m : HostMsg) (held : Option (List Byte)) : State :=
  match held with
  | none => s.result m 2 0 0
  | some b => s.reservedRead.answerInto m 8 b 0

/-- FROST_READ (R37, R211). -/
def execFrostRead (msg : HostMsg) (s : State) : Host.Outcome State Fault Refusal :=
  .next (s.hear msg 0 32 ((4, 4) :: bufZeros 8) (fun s => s.answerHeld msg (kget (HostMsgField msg 0 4) s.frost)))

/-- The sample ring of a launch, which is emptied once it has been written. -/
def State.sampleRead (s : State) (m : HostMsg) : State :=
  let lid := HostMsgField m 0 4
  match kget lid s.samples with
  | none => s.result m 2 0 0
  | some es =>
    let t := s.reservedRead.answerInto m 8 (es.flatMap (fun e => e)) 0
    if HostMsgField m 24 4 < (es.flatMap (fun e => e)).length ∨ s.refusing.contains (HostMsgField m 8 2) then t
    else { t with samples := kset lid [] t.samples }

/-- DBG_SAMPLE (R37, R215). -/
def execDbgSample (msg : HostMsg) (s : State) : Host.Outcome State Fault Refusal :=
  .next (s.hear msg 0 32 ((4, 4) :: bufZeros 8) (fun s => s.sampleRead msg))

/-- The images of some page sets, one after the other, with what is free in them (log 20). -/
def debugImages : List Placed → State → List Byte × State
  | [], s => ([], s)
  | p :: r, s =>
    let b := imageBytes s p 1 true
    let (t, s) := debugImages r (s.useFree (s.imageFree p))
    (b ++ t, s)

/-- Page sets in ascending index. -/
def indexInsert (p : Placed) : List Placed → List Placed
  | [] => [p]
  | q :: r => if p.pset ≤ q.pset then p :: q :: r else q :: indexInsert p r

/-- The dormant images of a stopped or frozen launch; each sealed page set is refused, and the refusal counted (R48). -/
def State.debugRead (s : State) (m : HostMsg) : State :=
  match s.launch (HostMsgField m 0 4) with
  | none => s.result m 2 0 0
  | some l =>
    if !(l.phase == .stopped || l.phase == .frozen) then s.result m 5 0 0
    else
      let named := (s.placed.filter (fun p => p.lid == l.lid && (HostMsgField m 4 2 == 0xFFFF || p.pset == HostMsgField m 4 2))).foldr indexInsert []
      let shown := named.filter (fun p => !p.isSealed)
      let s : State := { s with sealRefusals := s.sealRefusals + (named.length - shown.length) }
      if !named.isEmpty && shown.isEmpty then s.result m 3 0 0
      else
        let (b, s) := debugImages shown s
        s.answerInto m 8 b (named.length - shown.length)

/-- DBG_READ (R37, R207). -/
def execDbgRead (msg : HostMsg) (s : State) : Host.Outcome State Fault Refusal :=
  .next (s.hear msg 0 32 ((6, 2) :: bufZeros 8) (fun s => s.debugRead msg))

/-- A stopped or frozen launch runs on; a page set that is being grafted waits for its new origin (R215, R216). -/
def State.resumeMsg (s : State) (m : HostMsg) : State :=
  match s.launch (HostMsgField m 0 4) with
  | none => s.result m 2 0 0
  | some l =>
    if !(l.phase == .stopped || l.phase == .frozen) then s.result m 5 0 0
    else
      let s := (s.result m 0 0 0).mapLaunch l.lid (fun l => { l with phase := .running })
      ((s.psetsOf l.lid).filter (fun p => !s.grafts.any (fun g => g.lid == l.lid && g.pset == p))).foldl (fun s p => s.wakeRegion l.lid p) s

/-- RESUME (R215). -/
def execResume (msg : HostMsg) (s : State) : Host.Outcome State Fault Refusal := .next (s.hear msg 0 4 [] (fun s => s.resumeMsg msg))

/-- A launch is cancelled: it completes with 0x23 (R37, R215). -/
def State.killMsg (s : State) (m : HostMsg) : State :=
  let lid := HostMsgField m 0 4
  match s.launch lid with
  | none => s.result m 2 0 0
  | some _ => ((s.result m 0 0 0).endWith lid { status := 0x23, detail := 0 }).haltLaunch lid

/-- KILL (R37, R215). -/
def execKill (msg : HostMsg) (s : State) : Host.Outcome State Fault Refusal := .next (s.hear msg 0 4 [] (fun s => s.killMsg msg))

/-- Is a log marked incomplete (R221)? -/
def logPartial (b : List Byte) : Bool :=
  decide (b.take Config.logHeadLen = Config.logHead true ∧ Config.logHead true ≠ Config.logHead false)

/-- Arms a log; the answer to one that cannot be read, whose digest differs, or that is incomplete and so cannot be replayed is not stated: a free
status (R221, R222, log 48). -/
def State.armLog (s : State) (m : HostMsg) : State :=
  match (s.hostRead (HostMsgField m 4 2) (HostMsgField m 8 8) (HostMsgField m 16 8)).filter (fun b =>
      decide (Config.sha3 b = (m.body.drop 24).take 64) && !logPartial b) with
  | some b => { s.result m 0 0 0 with armed := kset (HostMsgField m 0 4) b s.armed }
  | none => (s.useFree 1).result m (s.freeAt 0 % 2 ^ 16) 0 0

/-- REPLAY_ARM (R222). -/
def execReplayArm (msg : HostMsg) (s : State) : Host.Outcome State Fault Refusal :=
  .next (s.hear msg 0 88 [(6, 2)] (fun s => s.armLog msg))

/-- The log of a launch that has completed (R221). -/
def State.logOf (s : State) (lid : Nat) : Option (List Byte) :=
  if (s.launch lid).isSome then none
  else (s.replayOf lid).map (fun r => Config.logHead r.incomplete ++ r.entries.flatMap (fun e => leBytes 8 e.toNat))

/-- REPLAY_READ (R221). -/
def execReplayRead (msg : HostMsg) (s : State) : Host.Outcome State Fault Refusal :=
  .next (s.hear msg 0 32 ((4, 4) :: bufZeros 8) (fun s => s.answerHeld msg (s.logOf (HostMsgField msg 0 4))))

/-- A log of a logic die, oldest entry first, with its overflow counter (R225). -/
def State.errlog (s : State) (m : HostMsg) : State :=
  let d := HostMsgField m 0 1
  let k := HostMsgField m 1 1
  if 16 ≤ d ∨ 2 ≤ k then s.result m 9 0 0
  else if k = 0 then s.answerInto m 8 ((s.die d).arrayLog.flatMap (fun e => e)) (s.die d).arrayOver
  else s.answerInto m 8 ((s.die d).xferLog.flatMap (fun e => e)) (s.die d).xferOver

/-- ERRLOG_READ (R225). -/
def execErrlogRead (msg : HostMsg) (s : State) : Host.Outcome State Fault Refusal :=
  .next (s.hear msg 0 32 ((2, 6) :: bufZeros 8) (fun s => s.errlog msg))

/-- The dump from an offset, as far as the buffer holds (R226). -/
def State.dumpPart (s : State) (m : HostMsg) : State :=
  match s.dump with
  | none => s.result m 4 0 0
  | some b =>
    let o := HostMsgField m 0 8
    if b.length < o then s.result m 4 0 0 else s.answerInto m 8 ((b.drop o).take (HostMsgField m 24 4)) 0

/-- DUMP_READ (R226). -/
def execDumpRead (msg : HostMsg) (s : State) : Host.Outcome State Fault Refusal :=
  .next (s.hear msg 0 32 (bufZeros 8) (fun s => s.dumpPart msg))

/-- DUMP_CLEAR (R226): discards the dump that is held. -/
def execDumpClear (msg : HostMsg) (s : State) : Host.Outcome State Fault Refusal :=
  .next (s.hear msg 0 0 [] (fun s => match s.dump with
    | none => s.result msg 4 0 0
    | some _ => { s.result msg 0 0 0 with dump := none }))

end Sys2Proof.Machine
end

