-- ==== Sys2Proof/Machine/Integer.lean ====
section
/-! DEFINITION. The integer, logic, shift, compare and sticky-bit instructions (R272 to R282). -/
namespace Sys2Proof.Machine

/-- ADD (R272). -/
def execAdd (p : BitVec 2) (t u : BitVec 9) (s : State) : Host.Outcome State Fault Refusal :=
  execAlu s p [t, u] [.left, .right] fmInt (fun e a b _ => aluAdd e.n a b)

/-- SUB (R272). -/
def execSub (p : BitVec 2) (t u : BitVec 9) (s : State) : Host.Outcome State Fault Refusal :=
  execAlu s p [t, u] [.left, .right] fmInt (fun e a b _ => aluSub e.n a b)

/-- MUL (R272). -/
def execMul (p : BitVec 2) (t u : BitVec 9) (s : State) : Host.Outcome State Fault Refusal :=
  execAlu s p [t, u] [.left, .right] fmInt (fun e a b _ => aluMul e.n a b)

/-- MULH and its unsigned form (R272). -/
def execMulh (p : BitVec 2) (t u : BitVec 9) (nn : BitVec 1) (s : State) : Host.Outcome State Fault Refusal :=
  execAlu s p [t, u] [.left, .right] fmInt (fun e a b _ => aluMulh (nn == 1) e.n a b)

/-- DIV and its unsigned form (R273). -/
def execDiv (p : BitVec 2) (t u : BitVec 9) (nn : BitVec 1) (s : State) : Host.Outcome State Fault Refusal :=
  execAlu s p [t, u] [.left, .right] fmInt (fun e a b _ => aluDiv (nn == 1) e.n a b)

/-- REM and its unsigned form (R273). -/
def execRem (p : BitVec 2) (t u : BitVec 9) (nn : BitVec 1) (s : State) : Host.Outcome State Fault Refusal :=
  execAlu s p [t, u] [.left, .right] fmInt (fun e a b _ => aluRem (nn == 1) e.n a b)

/-- ADDS and its unsigned form (R274). -/
def execAdds (p : BitVec 2) (t u : BitVec 9) (nn : BitVec 1) (s : State) : Host.Outcome State Fault Refusal :=
  execAlu s p [t, u] [.left, .right] fmInt (fun e a b _ => aluAdds (nn == 1) e.n a b)

/-- SUBS and its unsigned form (R274). -/
def execSubs (p : BitVec 2) (t u : BitVec 9) (nn : BitVec 1) (s : State) : Host.Outcome State Fault Refusal :=
  execAlu s p [t, u] [.left, .right] fmInt (fun e a b _ => aluSubs (nn == 1) e.n a b)

/-- MIN and its unsigned form (R274). -/
def execMin (p : BitVec 2) (t u : BitVec 9) (nn : BitVec 1) (s : State) : Host.Outcome State Fault Refusal :=
  execAlu s p [t, u] [.left, .right] fmInt (fun e a b _ => aluMin (nn == 1) e.n a b)

/-- MAX and its unsigned form (R274). -/
def execMax (p : BitVec 2) (t u : BitVec 9) (nn : BitVec 1) (s : State) : Host.Outcome State Fault Refusal :=
  execAlu s p [t, u] [.left, .right] fmInt (fun e a b _ => aluMax (nn == 1) e.n a b)

/-- ABS, wrapping or clamping (R274). -/
def execAbs (p : BitVec 2) (t u : BitVec 9) (k : BitVec 1) (s : State) : Host.Outcome State Fault Refusal :=
  execAlu s p [t, u] [.left] fmInt (fun e a _ _ => aluAbs (k == 1) e.n a)

/-- NEG, wrapping or clamping (R274). -/
def execNeg (p : BitVec 2) (t u : BitVec 9) (k : BitVec 1) (s : State) : Host.Outcome State Fault Refusal :=
  execAlu s p [t, u] [.left] fmInt (fun e a _ _ => aluNeg (k == 1) e.n a)

/-- LEA (R275). -/
def execLea (p : BitVec 2) (t u : BitVec 9) (k : BitVec 2) (s : State) : Host.Outcome State Fault Refusal :=
  execAlu s p [t, u] [.left, .right] fmInt (fun e a b _ => aluLea k e.n a b)

/-- AND (R276). -/
def execAndB (p : BitVec 2) (t u : BitVec 9) (s : State) : Host.Outcome State Fault Refusal :=
  execAlu s p [t, u] [.left, .right] fmInt (fun e a b _ => aluAnd e.n a b)

/-- OR (R276). -/
def execOrB (p : BitVec 2) (t u : BitVec 9) (s : State) : Host.Outcome State Fault Refusal :=
  execAlu s p [t, u] [.left, .right] fmInt (fun e a b _ => aluOr e.n a b)

/-- XOR (R276). -/
def execXorB (p : BitVec 2) (t u : BitVec 9) (s : State) : Host.Outcome State Fault Refusal :=
  execAlu s p [t, u] [.left, .right] fmInt (fun e a b _ => aluXor e.n a b)

/-- ANDN (R276). -/
def execAndn (p : BitVec 2) (t u : BitVec 9) (s : State) : Host.Outcome State Fault Refusal :=
  execAlu s p [t, u] [.left, .right] fmInt (fun e a b _ => aluAndn e.n a b)

/-- NOT (R276). -/
def execNotB (p : BitVec 2) (t u : BitVec 9) (s : State) : Host.Outcome State Fault Refusal :=
  execAlu s p [t, u] [.left] fmInt (fun e a _ _ => aluNot e.n a)

/-- SHL (R277). -/
def execShl (p : BitVec 2) (t u : BitVec 9) (s : State) : Host.Outcome State Fault Refusal :=
  execAlu s p [t, u] [.left, .right] fmInt (fun e a b _ => aluShl e.n a b)

/-- SHR (R277). -/
def execShr (p : BitVec 2) (t u : BitVec 9) (s : State) : Host.Outcome State Fault Refusal :=
  execAlu s p [t, u] [.left, .right] fmInt (fun e a b _ => aluShr e.n a b)

/-- SHRA (R277). -/
def execShra (p : BitVec 2) (t u : BitVec 9) (s : State) : Host.Outcome State Fault Refusal :=
  execAlu s p [t, u] [.left, .right] fmInt (fun e a b _ => aluShra e.n a b)

/-- ROT (R277). -/
def execRot (p : BitVec 2) (t u : BitVec 9) (s : State) : Host.Outcome State Fault Refusal :=
  execAlu s p [t, u] [.left, .right] fmInt (fun e a b _ => aluRot e.n a b)

/-- CLZ (R278). -/
def execClz (p : BitVec 2) (t u : BitVec 9) (s : State) : Host.Outcome State Fault Refusal :=
  execAlu s p [t, u] [.left] fmInt (fun e a _ _ => aluClz e.n a)

/-- POPC (R278). -/
def execPopc (p : BitVec 2) (t u : BitVec 9) (s : State) : Host.Outcome State Fault Refusal :=
  execAlu s p [t, u] [.left] fmInt (fun e a _ _ => aluPopc e.n a)

/-- BFX (R279). -/
def execBfx (p : BitVec 2) (t u : BitVec 9) (nn : BitVec 1) (s : State) : Host.Outcome State Fault Refusal :=
  execAlu s p [t, u] [.left, .right] fmInt (fun e a b _ => aluBfx (nn == 1) e.n a b)

/-- BFI (R279). -/
def execBfi (p : BitVec 2) (t u : BitVec 9) (s : State) : Host.Outcome State Fault Refusal :=
  execAlu s p [t, u] [.left, .right, .third] fmInt (fun e a b c => aluBfi e.n a b c)

/-- CMP (R280). -/
def execCmp (p : BitVec 2) (t u : BitVec 9) (cc : BitVec 3) (nn : BitVec 1) (s : State) : Host.Outcome State Fault Refusal :=
  execAlu s p [t, u] [.left, .right] fmInt (fun e a b _ => aluCmp cc (nn == 1) e.n a b)

/-- TEST (R280). -/
def execTestBits (p : BitVec 2) (t u : BitVec 9) (z : BitVec 1) (s : State) : Host.Outcome State Fault Refusal :=
  execAlu s p [t, u] [.left, .right] fmInt (fun e a b _ => aluTest (z == 1) e.n a b)

/-- SEL (R281). -/
def execSel (p : BitVec 2) (t u : BitVec 9) (s : State) : Host.Outcome State Fault Refusal :=
  execAlu s p [t, u] [.left, .right, .third] fmSel (fun _ a b c => aluSel a b c)

/-- STKG (R282). -/
def execStkg (p : BitVec 2) (t u : BitVec 9) (s : State) : Host.Outcome State Fault Refusal :=
  execAlu s p [t, u] [.left] fmInt (fun e a _ _ => aluStkg e.n a)

/-- STKS (R282). -/
def execStks (p : BitVec 2) (t u : BitVec 9) (s : State) : Host.Outcome State Fault Refusal :=
  execAlu s p [t, u] [.left] fmLeft (fun _ a _ _ => aluStks a)

/-- STKC (R282). -/
def execStkc (p : BitVec 2) (t u : BitVec 9) (s : State) : Host.Outcome State Fault Refusal :=
  execAlu s p [t, u] [.left] fmLeft (fun _ a _ _ => aluStkc a)

/-- LEA in its block-relative form, of C-blocks only (R257, R275). -/
def execLeaBlk (p : BitVec 2) (t u : BitVec 9) (s : State) : Host.Outcome State Fault Refusal :=
  execCore s p [.left] (fun x => x.finish s [t, u] (aluLeaBlk x.blk.addr x.a))

end Sys2Proof.Machine
end

