-- ==== Sys2Proof/Machine/Packed.lean ====
section
/-! DEFINITION. The packed integer instructions and random numbers (R296 to R299, R307). -/
namespace Sys2Proof.Machine

/-- DOT4 (R296). -/
def execDot4 (p : BitVec 2) (t u : BitVec 9) (o : BitVec 1) (g : BitVec 2) (s : State) : Host.Outcome State Fault Refusal :=
  execAlu s p [t, u] [.left, .right, .third] fmInt (fun e a b c => aluDot 8 4 (o == 1) g e.n a b c)

/-- DOT8 (R296). -/
def execDot8 (p : BitVec 2) (t u : BitVec 9) (o : BitVec 1) (g : BitVec 2) (s : State) : Host.Outcome State Fault Refusal :=
  execAlu s p [t, u] [.left, .right, .third] fmInt (fun e a b c => aluDot 4 8 (o == 1) g e.n a b c)

/-- ADDP (R297). -/
def execAddp (p : BitVec 2) (t u : BitVec 9) (m : BitVec 2) (w : BitVec 2) (s : State) : Host.Outcome State Fault Refusal :=
  execAlu s p [t, u] [.left, .right] fmInt (fun e a b _ => aluAddp m w e.n a b)

/-- SHLP (R298). -/
def execShlp (p : BitVec 2) (t u : BitVec 9) (w : BitVec 2) (s : State) : Host.Outcome State Fault Refusal :=
  execAlu s p [t, u] [.left, .right] fmInt (fun e a b _ => aluShp 0 w e.n a b)

/-- SHRP (R298). -/
def execShrp (p : BitVec 2) (t u : BitVec 9) (k : BitVec 1) (w : BitVec 2) (s : State) : Host.Outcome State Fault Refusal :=
  execAlu s p [t, u] [.left, .right] fmInt (fun e a b _ => aluShp (if k = 1 then 2 else 1) w e.n a b)

/-- BPERM (R299). -/
def execBperm (p : BitVec 2) (t u : BitVec 9) (s : State) : Host.Outcome State Fault Refusal :=
  execAlu s p [t, u] [.left, .right, .third] fmInt (fun e a b c => aluBperm e.n a b c)

/-- RNG (R307). -/
def execRng (p : BitVec 2) (t u : BitVec 9) (w : BitVec 1) (s : State) : Host.Outcome State Fault Refusal :=
  execAlu s p [t, u] [.left, .right, .third] (if w = 1 then fmWf else fmInt) (fun _ a b c => aluRng (w == 1) a b c)

end Sys2Proof.Machine
end

