-- ==== Sys2Proof/Machine/Dispatch.lean ====
section
/-! DEFINITION. One arm per instruction: the meaning of each. -/
namespace Sys2Proof.Machine

def exec (i : Instr) (s : State) : Host.Outcome State Fault Refusal :=
  match i with
  | .nop p t u x => Sys2Proof.Machine.execNop p t u x s
  | .getr p t k => Sys2Proof.Machine.execGetr p t k s
  | .setr p k => Sys2Proof.Machine.execSetr p k s
  | .nullw p k => Sys2Proof.Machine.execNullw p k s
  | .movi p t v => Sys2Proof.Machine.execMovi p t v s
  | .movk p t v => Sys2Proof.Machine.execMovk p t v s
  | .getc p t n => Sys2Proof.Machine.execGetc p t n s
  | .setc p n => Sys2Proof.Machine.execSetc p n s
  | .bx p e f => Sys2Proof.Machine.execBx p e f s
  | .bxr p e => Sys2Proof.Machine.execBxr p e s
  | .callb p e f => Sys2Proof.Machine.execCallb p e f s
  | .retb p e => Sys2Proof.Machine.execRetb p e s
  | .add p t u => Sys2Proof.Machine.execAdd p t u s
  | .addi p t v => Sys2Proof.Machine.execAddi p t v s
  | .sub p t u => Sys2Proof.Machine.execSub p t u s
  | .mul p t u => Sys2Proof.Machine.execMul p t u s
  | .mulh p t u n => Sys2Proof.Machine.execMulh p t u n s
  | .div p t u n => Sys2Proof.Machine.execDiv p t u n s
  | .rem p t u n => Sys2Proof.Machine.execRem p t u n s
  | .adds p t u n => Sys2Proof.Machine.execAdds p t u n s
  | .subs p t u n => Sys2Proof.Machine.execSubs p t u n s
  | .min p t u n => Sys2Proof.Machine.execMin p t u n s
  | .max p t u n => Sys2Proof.Machine.execMax p t u n s
  | .abs p t u sc => Sys2Proof.Machine.execAbs p t u sc s
  | .neg p t u sc => Sys2Proof.Machine.execNeg p t u sc s
  | .lea p t u sc => Sys2Proof.Machine.execLea p t u sc s
  | .leaBlk p t u => Sys2Proof.Machine.execLeaBlk p t u s
  | .andB p t u => Sys2Proof.Machine.execAndB p t u s
  | .orB p t u => Sys2Proof.Machine.execOrB p t u s
  | .xorB p t u => Sys2Proof.Machine.execXorB p t u s
  | .andn p t u => Sys2Proof.Machine.execAndn p t u s
  | .notB p t u => Sys2Proof.Machine.execNotB p t u s
  | .shl p t u => Sys2Proof.Machine.execShl p t u s
  | .shr p t u => Sys2Proof.Machine.execShr p t u s
  | .shra p t u => Sys2Proof.Machine.execShra p t u s
  | .rot p t u => Sys2Proof.Machine.execRot p t u s
  | .clz p t u => Sys2Proof.Machine.execClz p t u s
  | .popc p t u => Sys2Proof.Machine.execPopc p t u s
  | .bfx p t u n => Sys2Proof.Machine.execBfx p t u n s
  | .bfi p t u => Sys2Proof.Machine.execBfi p t u s
  | .cmp p t u c n => Sys2Proof.Machine.execCmp p t u c n s
  | .testBits p t u z => Sys2Proof.Machine.execTestBits p t u z s
  | .sel p t u => Sys2Proof.Machine.execSel p t u s
  | .stkg p t u => Sys2Proof.Machine.execStkg p t u s
  | .stks p t u => Sys2Proof.Machine.execStks p t u s
  | .stkc p t u => Sys2Proof.Machine.execStkc p t u s
  | .fadd p t u => Sys2Proof.Machine.execFadd p t u s
  | .fsub p t u => Sys2Proof.Machine.execFsub p t u s
  | .fmul p t u => Sys2Proof.Machine.execFmul p t u s
  | .ffma p t u => Sys2Proof.Machine.execFfma p t u s
  | .fdiv p t u => Sys2Proof.Machine.execFdiv p t u s
  | .fsqrt p t u => Sys2Proof.Machine.execFsqrt p t u s
  | .fmin p t u => Sys2Proof.Machine.execFmin p t u s
  | .fmax p t u => Sys2Proof.Machine.execFmax p t u s
  | .fabs p t u => Sys2Proof.Machine.execFabs p t u s
  | .fneg p t u => Sys2Proof.Machine.execFneg p t u s
  | .fcmp p t u c => Sys2Proof.Machine.execFcmp p t u c s
  | .fclass p t u => Sys2Proof.Machine.execFclass p t u s
  | .fexp2 p t u => Sys2Proof.Machine.execFexp2 p t u s
  | .flog2 p t u => Sys2Proof.Machine.execFlog2 p t u s
  | .frcp p t u => Sys2Proof.Machine.execFrcp p t u s
  | .frsq p t u => Sys2Proof.Machine.execFrsq p t u s
  | .ftanh p t u => Sys2Proof.Machine.execFtanh p t u s
  | .cvt p t u f => Sys2Proof.Machine.execCvt p t u f s
  | .narrow p t u f => Sys2Proof.Machine.execNarrow p t u f s
  | .final p t f m => Sys2Proof.Machine.execFinal p t f m s
  | .scale p t u => Sys2Proof.Machine.execScale p t u s
  | .mxsc p t u f => Sys2Proof.Machine.execMxsc p t u f s
  | .dot4 p t u o g => Sys2Proof.Machine.execDot4 p t u o g s
  | .dot8 p t u o g => Sys2Proof.Machine.execDot8 p t u o g s
  | .addp p t u m w => Sys2Proof.Machine.execAddp p t u m w s
  | .shlp p t u w => Sys2Proof.Machine.execShlp p t u w s
  | .shrp p t u k w => Sys2Proof.Machine.execShrp p t u k w s
  | .bperm p t u => Sys2Proof.Machine.execBperm p t u s
  | .sdcvt p t u => Sys2Proof.Machine.execSdcvt p t u s
  | .sdadd p t u => Sys2Proof.Machine.execSdadd p t u s
  | .sdmul p t u => Sys2Proof.Machine.execSdmul p t u s
  | .sdcut p t u => Sys2Proof.Machine.execSdcut p t u s
  | .sdcmp p t u c => Sys2Proof.Machine.execSdcmp p t u c s
  | .sdtowf p t u => Sys2Proof.Machine.execSdtowf p t u s
  | .rng p t u w => Sys2Proof.Machine.execRng p t u w s
  | .inPort p t n k sc => Sys2Proof.Machine.execInPort p t n k sc s
  | .inCnt p t n => Sys2Proof.Machine.execInCnt p t n s
  | .inSpc p t n => Sys2Proof.Machine.execInSpc p t n s
  | .inAcc p t k sc => Sys2Proof.Machine.execInAcc p t k sc s
  | .inMrk p t n => Sys2Proof.Machine.execInMrk p t n s
  | .outPort p n k sc => Sys2Proof.Machine.execOutPort p n k sc s
  | .outm p n k sc => Sys2Proof.Machine.execOutm p n k sc s
  | .mrk p n k sc => Sys2Proof.Machine.execMrk p n k sc s
  | .segl p n r => Sys2Proof.Machine.execSegl p n r s
  | .segn p n q => Sys2Proof.Machine.execSegn p n q s
  | .rsum p t u y r => Sys2Proof.Machine.execRsum p t u y r s
  | .rmax p t u y r => Sys2Proof.Machine.execRmax p t u y r s
  | .rmin p t u y r => Sys2Proof.Machine.execRmin p t u y r s
  | .strmMem p l d n => Sys2Proof.Machine.execStrmMem p l d n s
  | .strmTile p l d n => Sys2Proof.Machine.execStrmTile p l d n s
  | .strmDrain p l v => Sys2Proof.Machine.execStrmDrain p l v s
  | .strmAcc p n z o k => Sys2Proof.Machine.execStrmAcc p n z o k s
  | .recGet p t u k => Sys2Proof.Machine.execRecGet p t u k s
  | .recSet p t u k => Sys2Proof.Machine.execRecSet p t u k s
  | .recNew p t u k => Sys2Proof.Machine.execRecNew p t u k s
  | .recDone p t u k => Sys2Proof.Machine.execRecDone p t u k s
  | .recRej p t u k => Sys2Proof.Machine.execRecRej p t u k s
  | .steer p t u o q => Sys2Proof.Machine.execSteer p t u o q s
  | .merge p t u m => Sys2Proof.Machine.execMerge p t u m s
  | .omerge p t u => Sys2Proof.Machine.execOmerge p t u s
  | .recirc p t u => Sys2Proof.Machine.execRecirc p t u s
  | .ctxsw p n c => Sys2Proof.Machine.execCtxsw p n c s
  | .fgstage p => Sys2Proof.Machine.execFgstage p s
  | .fgseed p => Sys2Proof.Machine.execFgseed p s
  | .fgstat p t u f => Sys2Proof.Machine.execFgstat p t u f s
  | .ld p t l y => Sys2Proof.Machine.execLd p t l y s
  | .ldi p t l y => Sys2Proof.Machine.execLdi p t l y s
  | .lda p t l y sc => Sys2Proof.Machine.execLda p t l y sc s
  | .st p l y m => Sys2Proof.Machine.execSt p l y m s
  | .stl p l y m sc => Sys2Proof.Machine.execStl p l y m sc s
  | .ldimg p t l k => Sys2Proof.Machine.execLdimg p t l k s
  | .stimg p l k => Sys2Proof.Machine.execStimg p l k s
  | .till p l => Sys2Proof.Machine.execTill p l s
  | .tillg p l => Sys2Proof.Machine.execTillg p l s
  | .pres p t l => Sys2Proof.Machine.execPres p t l s
  | .atom p t l o w a sc => Sys2Proof.Machine.execAtom p t l o w a sc s
  | .fatom p t l a sc => Sys2Proof.Machine.execFatom p t l a sc s
  | .cpyl p l e => Sys2Proof.Machine.execCpyl p l e s
  | .gath p l e => Sys2Proof.Machine.execGath p l e s
  | .scat p l e => Sys2Proof.Machine.execScat p l e s
  | .coll p l => Sys2Proof.Machine.execColl p l s
  | .resp p t l e => Sys2Proof.Machine.execResp p t l e s
  | .fence p l sc => Sys2Proof.Machine.execFence p l sc s
  | .xfence p t l sc => Sys2Proof.Machine.execXfence p t l sc s
  | .xwait p l => Sys2Proof.Machine.execXwait p l s
  | .tld p l k => Sys2Proof.Machine.execTld p l k s
  | .tst p l k => Sys2Proof.Machine.execTst p l k s
  | .tzero p k => Sys2Proof.Machine.execTzero p k s
  | .treshape p k => Sys2Proof.Machine.execTreshape p k s
  | .tmov p k => Sys2Proof.Machine.execTmov p k s
  | .tfill p k => Sys2Proof.Machine.execTfill p k s
  | .wloadT p => Sys2Proof.Machine.execWloadT p s
  | .wloadW p => Sys2Proof.Machine.execWloadW p s
  | .wswap p => Sys2Proof.Machine.execWswap p s
  | .mma p a => Sys2Proof.Machine.execMma p a s
  | .mmas p a => Sys2Proof.Machine.execMmas p a s
  | .accz p m => Sys2Proof.Machine.execAccz p m s
  | .accd p d => Sys2Proof.Machine.execAccd p d s
  | .sortcfg p => Sys2Proof.Machine.execSortcfg p s
  | .topk p k => Sys2Proof.Machine.execTopk p k s
  | .guess p => Sys2Proof.Machine.execGuess p s
  | .genofIn p t u => Sys2Proof.Machine.execGenofIn p t u s
  | .genofPrec p t u => Sys2Proof.Machine.execGenofPrec p t u s
  | .launchp p l => Sys2Proof.Machine.execLaunchp p l s
  | .prune p l f r => Sys2Proof.Machine.execPrune p l f r s
  | .seqOpen p l => Sys2Proof.Machine.execSeqOpen p l s
  | .seqClose p l => Sys2Proof.Machine.execSeqClose p l s
  | .barInit p l sc b => Sys2Proof.Machine.execBarInit p l sc b s
  | .barArr p l sc b => Sys2Proof.Machine.execBarArr p l sc b s
  | .barWait p l sc b => Sys2Proof.Machine.execBarWait p l sc b s
  | .spawn p l => Sys2Proof.Machine.execSpawn p l s
  | .graise p t l => Sys2Proof.Machine.execGraise p t l s
  | .gidxIdx p t => Sys2Proof.Machine.execGidxIdx p t s
  | .gidxCnt p t => Sys2Proof.Machine.execGidxCnt p t s
  | .tdone p l j => Sys2Proof.Machine.execTdone p l j s
  | .trap p v => Sys2Proof.Machine.execTrap p v s
  | .eret p e => Sys2Proof.Machine.execEret p e s
  | .sysc p v => Sys2Proof.Machine.execSysc p v s
  | .ckptCont p l => Sys2Proof.Machine.execCkptCont p l s
  | .ckptYield p l => Sys2Proof.Machine.execCkptYield p l s
  | .tlbi p l k sc => Sys2Proof.Machine.execTlbi p l k sc s
  | .brk p v => Sys2Proof.Machine.execBrk p v s
  | .perfCfg p => Sys2Proof.Machine.execPerfCfg p s
  | .perfRd p t u => Sys2Proof.Machine.execPerfRd p t u s
  | .perfCnt p t u => Sys2Proof.Machine.execPerfCnt p t u s
  | .perfClr p => Sys2Proof.Machine.execPerfClr p s
  | .haltdStop p => Sys2Proof.Machine.execHaltdStop p s
  | .haltdFrz p => Sys2Proof.Machine.execHaltdFrz p s
  | .crossDieTimeout req => Sys2Proof.Machine.execCrossDieTimeout req s
  | .lateResponse die => Sys2Proof.Machine.execLateResponse die s
  | .linkStall die link => Sys2Proof.Machine.execLinkStall die link s
  | .linkStallCleared die link => Sys2Proof.Machine.execLinkStallCleared die link s
  | .linkTraining port node lmin lmax hmin hmax => Sys2Proof.Machine.execLinkTraining port node lmin lmax hmin hmax s
  | .flitReceive port flit => Sys2Proof.Machine.execFlitReceive port flit s
  | .flitNak port seq => Sys2Proof.Machine.execFlitNak port seq s
  | .portRetrain port ok => Sys2Proof.Machine.execPortRetrain port ok s
  | .rocePacket pkt => Sys2Proof.Machine.execRocePacket pkt s
  | .launch msg => Sys2Proof.Machine.execLaunch msg s
  | .prepare msg => Sys2Proof.Machine.execPrepare msg s
  | .loaderShardsFetched shards => Sys2Proof.Machine.execLoaderShardsFetched shards s
  | .switch msg => Sys2Proof.Machine.execSwitch msg s
  | .abort msg => Sys2Proof.Machine.execAbort msg s
  | .attest msg => Sys2Proof.Machine.execAttest msg s
  | .setPtbase msg => Sys2Proof.Machine.execSetPtbase msg s
  | .frostRead msg => Sys2Proof.Machine.execFrostRead msg s
  | .dbgSample msg => Sys2Proof.Machine.execDbgSample msg s
  | .dbgRead msg => Sys2Proof.Machine.execDbgRead msg s
  | .resume msg => Sys2Proof.Machine.execResume msg s
  | .kill msg => Sys2Proof.Machine.execKill msg s
  | .replayArm msg => Sys2Proof.Machine.execReplayArm msg s
  | .replayRead msg => Sys2Proof.Machine.execReplayRead msg s
  | .errlogRead msg => Sys2Proof.Machine.execErrlogRead msg s
  | .dumpRead msg => Sys2Proof.Machine.execDumpRead msg s
  | .dumpClear msg => Sys2Proof.Machine.execDumpClear msg s
  | .groupStart lid => Sys2Proof.Machine.execGroupStart lid s
  | .readyListServe die => Sys2Proof.Machine.execReadyListServe die s
  | .sectionDone lid node group => Sys2Proof.Machine.execSectionDone lid node group s
  | .taskRecordServe die => Sys2Proof.Machine.execTaskRecordServe die s
  | .trellisEnable page node count => Sys2Proof.Machine.execTrellisEnable page node count s
  | .trellisDone page node child => Sys2Proof.Machine.execTrellisDone page node child s
  | .launchCompletion lid => Sys2Proof.Machine.execLaunchCompletion lid s
  | .elementFire el => Sys2Proof.Machine.execElementFire el s
  | .conditionTokenArrival lid chan => Sys2Proof.Machine.execConditionTokenArrival lid chan s
  | .pruneArrival lid chan => Sys2Proof.Machine.execPruneArrival lid chan s
  | .drainMarkerArrival lid chan => Sys2Proof.Machine.execDrainMarkerArrival lid chan s
  | .drainReport die serial => Sys2Proof.Machine.execDrainReport die serial s
  | .retire filter serial => Sys2Proof.Machine.execRetire filter serial s
  | .memnodePruneScan node => Sys2Proof.Machine.execMemnodePruneScan node s
  | .guessRecord die => Sys2Proof.Machine.execGuessRecord die s
  | .commitNotice dest lane gen => Sys2Proof.Machine.execCommitNotice dest lane gen s
  | .foragerDecision page ctx => Sys2Proof.Machine.execForagerDecision page ctx s
  | .bankAccess req => Sys2Proof.Machine.execBankAccess req s
  | .pageWalk owner asid va => Sys2Proof.Machine.execPageWalk owner asid va s
  | .verticalParityError die addr wr lane => Sys2Proof.Machine.execVerticalParityError die addr wr lane s
  | .controlLinkLoss die => Sys2Proof.Machine.execControlLinkLoss die s
  | .engineResponse die engine core latency => Sys2Proof.Machine.execEngineResponse die engine core latency s
  | .collGroupFill die core => Sys2Proof.Machine.execCollGroupFill die core s
  | .streamCommandBeat core seq => Sys2Proof.Machine.execStreamCommandBeat core seq s
  | .blockBegin core => Sys2Proof.Machine.execBlockBegin core s
  | .loadResponse core uid slot => Sys2Proof.Machine.execLoadResponse core uid slot s
  | .blockCommit core => Sys2Proof.Machine.execBlockCommit core s
  | .deferredFault core code va lsid => Sys2Proof.Machine.execDeferredFault core code va lsid s
  | .cutStart lid psets why => Sys2Proof.Machine.execCutStart lid psets why s
  | .dormancyMarkerArrival lid chan => Sys2Proof.Machine.execDormancyMarkerArrival lid chan s
  | .cutComplete lid => Sys2Proof.Machine.execCutComplete lid s
  | .dormantResume lid => Sys2Proof.Machine.execDormantResume lid s
  | .noProgressLimit agent => Sys2Proof.Machine.execNoProgressLimit agent s
  | .breakpointFire n => Sys2Proof.Machine.execBreakpointFire n s
  | .dbpWrite n value => Sys2Proof.Machine.execDbpWrite n value s
  | .gthWrite die k value => Sys2Proof.Machine.execGthWrite die k value s
  | .maxflWrite die lane value => Sys2Proof.Machine.execMaxflWrite die lane value s
  | .ehcfgClr die engine => Sys2Proof.Machine.execEhcfgClr die engine s
  | .registerWrite pa value => Sys2Proof.Machine.execRegisterWrite pa value s
  | .bucketRefill die port => Sys2Proof.Machine.execBucketRefill die port s
  | .dieClockStop die => Sys2Proof.Machine.execDieClockStop die s
  | .dieClockRestart die => Sys2Proof.Machine.execDieClockRestart die s
  | .retireAcknowledge die serial => Sys2Proof.Machine.execRetireAcknowledge die serial s
  | .tileInstructionCompletion core => Sys2Proof.Machine.execTileInstructionCompletion core s
  | .powerOn => Sys2Proof.Machine.execPowerOn s
  | .supplyOutOfRange => Sys2Proof.Machine.execSupplyOutOfRange s
  | .thermalTrip => Sys2Proof.Machine.execThermalTrip s
  | .powerControllerEvaluation => Sys2Proof.Machine.execPowerControllerEvaluation s
  | .roceRateRecovery => Sys2Proof.Machine.execRoceRateRecovery s
  | .loaderLimitExpiry => Sys2Proof.Machine.execLoaderLimitExpiry s
  | .dispatcherHeadChoice => Sys2Proof.Machine.execDispatcherHeadChoice s
  | .imageChecks => Sys2Proof.Machine.execImageChecks s
  | .placement => Sys2Proof.Machine.execPlacement s
  | .configLoad => Sys2Proof.Machine.execConfigLoad s
  | .graftStart => Sys2Proof.Machine.execGraftStart s
  | .graftResume => Sys2Proof.Machine.execGraftResume s
  | .preemption => Sys2Proof.Machine.execPreemption s
  | .cutTimeout => Sys2Proof.Machine.execCutTimeout s
  | .supplyDroop => Sys2Proof.Machine.execSupplyDroop s
  | .supplyInRange => Sys2Proof.Machine.execSupplyInRange s

end Sys2Proof.Machine
end

