-- ==== Sys2Proof/Machine/Run.lean ====
section
/-! DEFINITION. What the next step does (log 1): the slot of a firing in progress, the head of the agenda, or the progress of a page core. -/
namespace Sys2Proof.Machine

/-! ### Slots of C-blocks (R247) -/

/-- Has a slot of a block everything its gate asks for? -/
def Block.readySlot (b : Block) (slot : Nat) : Bool :=
  !b.settled slot && b.fault.isNone && (b.insn slot).isSome && (b.missing slot).isEmpty

/-- Ready slots of the blocks in flight, oldest block first, as (block, slot). -/
def readySlots : Nat → List Block → List (Nat × Nat)
  | _, [] => []
  | bi, b :: r => ((List.range b.words.length).filter b.readySlot).map (fun j => (bi, j)) ++ readySlots (bi + 1) r

/-- The next ready slot after the one that fired last, so that one that waits holds back no other. -/
def State.nextSlot (s : State) (c : CoreRef) : Option (Nat × Nat) :=
  let l := readySlots 0 (s.core c).blocks
  match s.focus with
  | .core c' bi j => if c' = c then l.find? (fun (t : Nat × Nat) => decide (bi < t.1 ∨ (t.1 = bi ∧ j < t.2))) else l.head?
  | _ => l.head?

/-- Do the page cores of a region stand still: stopped, frozen, or their launch is to end (R79, R201)? -/
def State.still (s : State) (c : CoreRef) : Bool :=
  !s.moves c.lid c.pset || (s.launch c.lid).any (fun l => l.ending.isSome)

/-- The instruction at a slot of a block in flight. -/
def State.insnAt (s : State) (c : CoreRef) (bi slot : Nat) : Option Instr :=
  ((s.core c).blocks[bi]?).bind (fun b => b.insn slot)

/-- The state in which a slot of a page core fires, and its instruction; no firing where the region stands still. -/
def State.fireAt (s : State) (c : CoreRef) (bi slot : Nat) : State × Option Instr :=
  if s.still c then ({ s with focus := .idle }, none) else ({ s with focus := .core c bi slot }, s.insnAt c bi slot)

/-! ### Progress of a page core when the agenda names nothing else -/

/-- The first of these states that differs from the present one. -/
def State.firstChange (s : State) : List (Unit → State) → State
  | [] => s
  | f :: r => if f () = s then s.firstChange r else f ()

/-- What a page core does beside firing: data arrives, posted accesses and tile instructions are performed, blocks commit and begin. -/
def State.housekeep (s : State) (c : CoreRef) : State :=
  let p := s.core c
  s.firstChange (
    (p.responses.map (fun r => fun (_ : Unit) => s.loadArrives c r.uid r.slot))
    ++ (p.posted.map (fun q => fun (_ : Unit) => s.corePosted c q.seq))
    ++ [fun _ => (s.nextTile c [] p.tileQ).getD s, fun _ => s.commitBlock c, fun _ => s.beginBlock c])

/-- The progress of a page core: its next ready slot fires, or it does what else it can. -/
def State.progress (s : State) (c : CoreRef) : State × Option Instr :=
  match s.nextSlot c with
  | some (bi, j) => s.fireAt c bi j
  | none => ({ s.housekeep c with focus := .idle }, none)

/-- The page core that goes on when the agenda is empty: the last one that fired, else the first. -/
def State.defaultCore (s : State) : Option CoreRef :=
  match s.focus with
  | .core c _ _ => some c
  | _ => s.cores.head?.map (fun e => e.1)

/-! ### The choice -/

/-- The Volop port of a launch message, and of a flit that brings one. -/
def launchPort : Agenda → Option Nat
  | .event (.launch m) => some m.port
  | .event (.flitReceive port f) => if (flitHead f).type = 1 ∧ flitCode f = 0x0101 then some port else none
  | _ => none

/-- The place of the first launch message of the lowest port among those that stand first in the agenda: nothing of another configuration cycle
stands between them, and the dispatcher takes them in ascending port number (R53). -/
def firstLaunch (l : List Agenda) : Nat :=
  let ps := (l.map launchPort).takeWhile Option.isSome
  (List.range ps.length).foldl (fun m k => match ps.getD k none, ps.getD m none with
    | some a, some b => if a < b then k else m
    | _, _ => m) 0

/-- The agenda in the order in which it is taken. -/
def inPortOrder (l : List Agenda) : List Agenda :=
  match l[firstLaunch l]? with
  | some e => e :: l.eraseIdx (firstLaunch l)
  | none => l

/-- What the next step does: the state in which its instruction is executed, and the instruction; none when the step executes none. -/
def State.choose (s : State) : State × Option Instr :=
  match s.firing with
  | some f => match f.ready with
    | some j => ({ s with focus := .elem j }, f.code.insn j)
    | none => ({ s.finishFiring with focus := .idle }, none)
  | none => match inPortOrder s.agenda with
    | .event i :: r => ({ s with agenda := r, focus := .idle }, some i)
    | .fire c bi j :: r => ({ s with agenda := r }).fireAt c bi j
    | .progress c :: r => ({ s with agenda := r }).progress c
    | [] => match s.defaultCore with
      | some c => s.progress c
      | none => (s, none)

/-! ### One word placed where the next step fires it (log 2) -/

/-- The page core in which a placed word runs. -/
def State.placeCore (s : State) : CoreRef :=
  match s.focus with
  | .core c _ _ => c
  | _ => { lid := 0, pset := 0, px := 0, py := 0 }

/-- The predicate value that lets an instruction fire. -/
def passPred (i : Option Instr) : Img := match i with
  | some i => if i.pred = 1 then ⟨1, false⟩ else {}
  | none => {}

/-- A block that holds one word with every operand of zero and a predicate that lets it fire. -/
def oneWordBlock (w : Word) (i : Option Instr) : Block :=
  { words := [w], ops := [⟨0, .left, {}⟩, ⟨0, .right, {}⟩, ⟨0, .pred, passPred i⟩, ⟨0, .third, {}⟩] }

/-- The same in an element. -/
def oneWordFiring (w : Word) (i : Option Instr) : Firing :=
  let zeros : List LaneV := List.replicate 16 { val := some {} }
  { elem := { lid := 0, pset := 0, x := 0, y := 0, idx := 0 }
    code := { ii := 0, imap := [some 0, none, none, none], omap := [some 1, none, none, none], satf8 := false, words := [w] }
    ops := [(0, .left, zeros), (0, .right, zeros), (0, .pred, List.replicate 16 { val := some (passPred i) }), (0, .third, zeros)] }

/-- Is a word an instruction of E-blocks only (R257)? -/
def elementWord (i : Option Instr) : Bool := match i with
  | some i => !i.blocks.1
  | none => false

end Sys2Proof.Machine
end

