-- ==== Sys2Proof/Machine/Step.lean ====
section
/-! DEFINITION. One step of the package (log 1), and the placing of one word where the next step runs it (log 2). -/
namespace Sys2Proof.Machine

/-- One step: what `State.choose` names is executed; a step that executes no instruction goes on to the state it names. -/
def step (s : State) : Host.Outcome State Fault Refusal :=
  match s.choose with
  | (s', some i) => exec i s'
  | (s', none) => .next s'

/-- s with the instruction word w as the one word of a block in flight, or of a firing for an instruction of E-blocks only, and its
firing as what happens next. -/
def State.withFetchWord (s : State) (nbits w : Nat) : State :=
  let i := decodeTableWord nbits w
  if elementWord i then { s with agenda := [], firing := some (oneWordFiring (BitVec.ofNat 32 w) i) }
  else { s.mapCore s.placeCore (fun p => { p with blocks := [oneWordBlock (BitVec.ofNat 32 w) i] }) with
    agenda := [.fire s.placeCore 0 0], firing := none }

end Sys2Proof.Machine
end

