-- ==== Sys2Proof/Safety.lean ====
section
/-! DEFINITION. The terms in which statements speak: a slot that may fire, what an instruction computes in each kind of block, what a step keeps,
a run that goes on. -/
namespace Sys2Proof.Machine

/-! ### Slots of C-blocks (R247) -/

/-- A slot of a block in flight is the one that fires: it has not fired or been nulled, and its block holds no fault. -/
structure CoreSlot (s : State) (c : CoreRef) (bi slot : Nat) (b : Block) : Prop where
  focus : s.focus = .core c bi slot
  block : (s.core c).blocks[bi]? = some b
  unsettled : b.settled slot = false
  sound : b.fault = none

/-- The predicate of an instruction lets the slot fire, and ps is the S that it adds to a result (R256). -/
def Block.lets (b : Block) (slot : Nat) (p : BitVec 2) (ps : Bool) : Prop :=
  (p = 0 ∧ ps = false) ∨ (p ≠ 0 ∧ ∃ v, b.operand slot .pred = some v ∧ v.v.getLsbD 0 = (p == 1) ∧ ps = v.s)

/-- The operands that an instruction uses have arrived: a at left, b at right, x at third (R255). -/
def Block.holdsOps (b : Block) (slot : Nat) (uses : List Pos) (l r t : Img) : Prop :=
  (.left ∈ uses → b.operand slot .left = some l) ∧ (.right ∈ uses → b.operand slot .right = some r)
    ∧ (.third ∈ uses → b.operand slot .third = some t)

/-- The state with one block in flight replaced. -/
def State.putBlock (s : State) (c : CoreRef) (bi : Nat) (b : Block) : State := s.setCore c ((s.core c).setBlock bi b)

/-- A block one of whose slots has fired with a result: the result goes to the targets, the flags wait for commit (R150, R247). -/
def Block.computed (b : Block) (slot : Nat) (ts : List (BitVec 9)) (img : Img) (fl : Flags) : Block :=
  ({ b.fire slot with flags := b.flags.or fl }).deliverAll ts img

/-- A block one of whose slots has fired and asks something of the commit (R197, R333). -/
def Block.asks (b : Block) (slot lsid : Nat) (a : Act) : Block := (b.fire slot).ask slot lsid a

/-! ### Slots of E-blocks (R251, R262) -/

/-- A slot of the firing element is the one that fires. -/
structure ElemSlot (s : State) (f : Firing) (slot : Nat) : Prop where
  focus : s.focus = .elem slot
  firing : s.firing = some f
  unfired : f.fired.contains slot = false
  sound : f.fault = none

/-- Every operand that an instruction waits for has arrived at a slot of the element. -/
def Firing.arrived (f : Firing) (slot : Nat) (p : BitVec 2) (uses : List Pos) : Prop :=
  (p = 0 ∨ (f.operand slot .pred).isSome) ∧ ∀ q ∈ uses, (f.operand slot q).isSome

/-- Lane i of what has arrived at a position. -/
def Firing.lane (f : Firing) (slot : Nat) (q : Pos) (i : Nat) : LaneV := ((f.operand slot q).getD noLanes).getD i {}

/-- The predicate lets lane i fire and adds ps as S (R256). -/
def Firing.lets (f : Firing) (slot : Nat) (p : BitVec 2) (i : Nat) (ps : Bool) : Prop :=
  (p = 0 ∧ ps = false) ∨ (p ≠ 0 ∧ ∃ v, (f.lane slot .pred i).val = some v ∧ v.v.getLsbD 0 = (p == 1) ∧ ps = v.s)

/-- The firing after a slot has fired: lanes go to its targets. -/
def Firing.computed (f : Firing) (slot : Nat) (ts : List (BitVec 9)) (ls : List LaneV) : Firing :=
  ({ f with fired := slot :: f.fired }).deliverAll ts ls

/-- The lanes whose ranks a result takes in: those of the operands used, and the predicate's (R308). -/
def Firing.rankOf (f : Firing) (slot : Nat) (p : BitVec 2) (uses : List Pos) (i : Nat) : Nat :=
  ((if p = 0 then uses else .pred :: uses).map (fun q => (f.lane slot q i).rank)).foldl max 0

/-- The context of a firing of an E-block. -/
def elemCtxOf (f : Firing) (slot : Nat) (p : BitVec 2) : ElemCtx :=
  { f := f, slot := slot, a := (f.operand slot .left).getD noLanes, b := (f.operand slot .right).getD noLanes
    x := (f.operand slot .third).getD noLanes
    p := if p = 0 then List.replicate 16 { val := some ⟨1, false⟩ } else
      ((f.operand slot .pred).getD noLanes).map (fun l =>
        { l with val := l.val.map (fun v => ⟨if predFires p v then 1 else 0, v.s⟩) }) }

/-! ### What an instruction computes -/

/-- In a C-block: whenever it may fire, it fires, delivers its result with the predicate's S, asks for its flags, and changes nothing else. -/
def ComputesInCore (i : Instr) (p : BitVec 2) (ts : List (BitVec 9)) (uses : List Pos) (r : Block → Img → Img → Img → Img × Flags) : Prop :=
  ∀ (s : State) (c : CoreRef) (bi slot : Nat) (blk : Block) (ps : Bool) (a b x : Img),
    CoreSlot s c bi slot blk → blk.lets slot p ps → blk.holdsOps slot uses a b x →
    exec i s = .next (s.putBlock c bi
      (blk.computed slot ts ⟨(r blk a b x).1.v, (r blk a b x).1.s || ps⟩ (r blk a b x).2))

/-- In an E-block: whenever its operands have arrived, it fires and delivers sixteen lanes; a lane holds its result where the predicate lets
it and every lane used holds a value, and is empty otherwise; its rank is the highest of those used. -/
def ComputesInElemOf (i : Instr) (p : BitVec 2) (ts : List (BitVec 9)) (uses : List Pos) (r : Firing → Img → Img → Img → Img) : Prop :=
  ∀ (s : State) (f : Firing) (slot : Nat), ElemSlot s f slot → f.arrived slot p uses →
    ∃ ls : List LaneV, exec i s = .next { s with firing := some (f.computed slot ts ls) } ∧ ls.length = 16 ∧
      ∀ k < 16,
        (ls.getD k {}).rank = f.rankOf slot p uses k
        ∧ (∀ ps, f.lets slot p k ps → (∀ q ∈ uses, (f.lane slot q k).val.isSome) →
            ((ls.getD k {}).val.map Img.v = some (r f ((f.lane slot .left k).val.getD {}) ((f.lane slot .right k).val.getD {})
              ((f.lane slot .third k).val.getD {})).v)
            ∧ ((ls.getD k {}).fmt ≠ 18 → (ls.getD k {}).val.map Img.s =
                some ((r f ((f.lane slot .left k).val.getD {}) ((f.lane slot .right k).val.getD {}) ((f.lane slot .third k).val.getD {})).s || ps)))
        ∧ (((∀ ps, ¬ f.lets slot p k ps) ∨ ∃ q ∈ uses, (f.lane slot q k).val = none) → (ls.getD k {}).val = none)

/-- The same for a result that depends on the operands alone. -/
def ComputesInElem (i : Instr) (p : BitVec 2) (ts : List (BitVec 9)) (uses : List Pos) (r : Img → Img → Img → Img) : Prop :=
  ComputesInElemOf i p ts uses (fun _ => r)

/-- Sixteen lanes as a predicated instruction passes them on: a lane that the predicate lets keeps its value, with the predicate's S unless
it is a raw image; any other is empty; the predicate's rank is taken in (R256, R262, R308). -/
def Firing.passes (f : Firing) (slot : Nat) (p : BitVec 2) (src ls : List LaneV) : Prop :=
  ls.length = 16 ∧ ∀ k < 16,
    (∀ ps, f.lets slot p k ps → (ls.getD k {}).val = (src.getD k {}).val.map (fun v => if (src.getD k {}).fmt = 18 then v else ⟨v.v, v.s || ps⟩))
    ∧ ((∀ ps, ¬ f.lets slot p k ps) → (ls.getD k {}).val = none)
    ∧ (ls.getD k {}).rank = (if p = 0 then (src.getD k {}).rank else max (src.getD k {}).rank (f.lane slot .pred k).rank)
    ∧ (ls.getD k {}).fmt = (src.getD k {}).fmt

/-- In an E-block: whenever its operands have arrived, the instruction fires, and what the firing holds afterwards is `next` of the firing with
the slot fired and of some sixteen lanes that pass the lanes `src`. -/
def PassesInElem (i : Instr) (p : BitVec 2) (uses : List Pos) (ok : Firing → Nat → Prop) (src : Firing → Nat → List LaneV)
    (next : Firing → Nat → List LaneV → Firing) : Prop :=
  ∀ (s : State) (f : Firing) (slot : Nat), ElemSlot s f slot → f.arrived slot p uses → ok f slot →
    ∃ ls : List LaneV, f.passes slot p (src f slot) ls ∧ exec i s = .next { s with firing := some (next { f with fired := slot :: f.fired } slot ls) }

/-- The lanes that have arrived at a position. -/
def Firing.lanesAt (f : Firing) (slot : Nat) (q : Pos) : List LaneV := (f.operand slot q).getD noLanes

/-- In an E-block: whenever its operands have arrived and `ok` holds, the instruction fires, and what the firing holds afterwards is `next` of the
firing with the slot fired. -/
def FiresInElem (i : Instr) (p : BitVec 2) (uses : List Pos) (ok : Firing → Nat → Prop) (next : Firing → Nat → Firing) : Prop :=
  ∀ (s : State) (f : Firing) (slot : Nat), ElemSlot s f slot → f.arrived slot p uses → ok f slot →
    exec i s = .next { s with firing := some (next { f with fired := slot :: f.fired } slot) }

/-- The element faults: the first fault of a firing stands (R201). -/
def Firing.faults (f : Firing) (code : Nat) : Firing := { f with fault := some (f.fault.getD code) }

/-- An SD instruction in an E-block: every lane whose operands and predicate let it takes the step `g` of its strand's state, delivers what the
step gives, and freezes the element when the step faults; every other lane keeps its state and is empty (R300). -/
def StepsSd (i : Instr) (p : BitVec 2) (ts : List (BitVec 9)) (uses : List Pos) (g : ElemCtx → Nat → SdState → Img → Img → SdLane) : Prop :=
  ∀ (s : State) (f : Firing) (slot : Nat), ElemSlot s f slot → f.arrived slot p uses →
    ∃ (f' : Firing) (ls : List LaneV), exec i s = .next { s with firing := some (f'.deliverAll ts ls) }
      ∧ f'.fired = slot :: f.fired ∧ f'.ops = f.ops ∧ ls.length = 16 ∧
      ∀ k < 16,
        (∀ ps, f.lets slot p k ps → (∀ q ∈ uses, (f.lane slot q k).val.isSome) →
          (let r := g (elemCtxOf f slot p) k (f.sdOf slot k) ((f.lane slot .left k).val.getD {}) ((f.lane slot .right k).val.getD {})
           f'.sdOf slot k = r.st ∧ (ls.getD k {}).val = r.out.map (fun v => ⟨v.v, v.s || ps⟩) ∧ (r.fault.isSome → f'.fault.isSome)))
        ∧ (((∀ ps, ¬ f.lets slot p k ps) ∨ ∃ q ∈ uses, (f.lane slot q k).val = none) →
            f'.sdOf slot k = f.sdOf slot k ∧ (ls.getD k {}).val = none)

/-- sd_value of R163: the first k digits, digit i weighing 2^(e − i). -/
def sdVal (ds : List Int) (e : Int) (k : Nat) : ℚ := ∑ i ∈ Finset.range k, (ds.getD i 0 : ℚ) * 2 ^ (e - 1 - i : ℤ)
/-- Every entry is a digit of R163. -/
def isDigits (ds : List Int) : Prop := ∀ d ∈ ds, d = 0 ∨ d = 1 ∨ d = -1

/-- The same computation in both kinds of block: at width 64 in a C-block, at width 32 in each lane of an E-block (R261, R262). -/
def Computes (i : Instr) (p : BitVec 2) (ts : List (BitVec 9)) (uses : List Pos) (r : Nat → Img → Img → Img → Img × Flags) : Prop :=
  ComputesInCore i p ts uses (fun _ => r 64) ∧ ComputesInElem i p ts uses (fun a b x => (r 32 a b x).1)

/-! ### What an instruction asks of its block's commit -/

/-- What a firing of a C-block works on: its core, block and slot, the operands that have arrived (a at left, b at right, x at third), the S
of its predicate. -/
def firingCtx (s : State) (c : CoreRef) (bi slot : Nat) (b : Block) (p : BitVec 2) : CoreCtx :=
  { c := c, pc := s.core c, bi := bi, blk := b, slot := slot
    a := (b.operand slot .left).getD {}, b := (b.operand slot .right).getD {}
    x := (b.operand slot .third).getD {}, ps := p != 0 && ((b.operand slot .pred).getD {}).s }

/-- Every operand that an instruction uses has arrived at a slot of a block. -/
def Block.arrived (b : Block) (slot : Nat) (uses : List Pos) : Prop := ∀ q ∈ uses, (b.operand slot q).isSome

/-- In a C-block: whenever the instruction may fire and `ok` holds, the next state is `next`. -/
def FiresInCore (i : Instr) (p : BitVec 2) (uses : List Pos) (ok : State → CoreCtx → Prop) (next : State → CoreCtx → State) : Prop :=
  ∀ (s : State) (c : CoreRef) (bi slot : Nat) (blk : Block) (ps : Bool),
    CoreSlot s c bi slot blk → blk.lets slot p ps → blk.arrived slot uses → ok s (firingCtx s c bi slot blk p) →
    exec i s = .next (next s (firingCtx s c bi slot blk p))

/-- It fires, asks an act of its block's commit, and changes nothing else (R197, R333). -/
def AsksInCore (i : Instr) (p : BitVec 2) (uses : List Pos) (lsid : Nat) (ok : State → CoreCtx → Prop) (act : State → CoreCtx → Act) : Prop :=
  FiresInCore i p uses ok (fun s x => s.putBlock x.c x.bi (x.blk.asks x.slot lsid (act s x)))

/-- It fires and delivers an image with the predicate's S, and changes nothing else. -/
def GivesInCore (i : Instr) (p : BitVec 2) (uses : List Pos) (ts : List (BitVec 9)) (ok : State → CoreCtx → Prop) (img : State → CoreCtx → Img) :
    Prop :=
  FiresInCore i p uses ok (fun s x => s.putBlock x.c x.bi (x.blk.computed x.slot ts ⟨(img s x).v, (img s x).s || x.ps⟩ {}))

/-- It fires, asks an act of its block's commit, and delivers an image with the predicate's S at once. -/
def AsksGivesInCore (i : Instr) (p : BitVec 2) (uses : List Pos) (lsid : Nat) (t : BitVec 9) (ok : State → CoreCtx → Prop)
    (act : State → CoreCtx → Act) (img : State → CoreCtx → Img) : Prop :=
  FiresInCore i p uses ok (fun s x => s.putBlock x.c x.bi ((x.blk.asks x.slot lsid (act s x)).deliver t ⟨(img s x).v, (img s x).s || x.ps⟩))

/-- It does not fire yet: nothing changes. -/
def WaitsInCore (i : Instr) (p : BitVec 2) (uses : List Pos) (ok : State → CoreCtx → Prop) : Prop :=
  FiresInCore i p uses ok (fun s _ => s)

/-- It is found to fault: the fault is recorded against its block and nothing else changes (R197, R333). -/
def FailsInCore (i : Instr) (p : BitVec 2) (uses : List Pos) (lsid : Nat) (ok : State → CoreCtx → Prop) (fault : State → CoreCtx → Nat × DWord) :
    Prop :=
  FiresInCore i p uses ok (fun s x => s.putBlock x.c x.bi (x.blk.fail (fault s x).1 (fault s x).2 lsid))

/-- What the block at a place in flight sees in register k: the value of the youngest older block whose WMASK names it, once its SETR has
fired; that block's own view when its NULLW has; nothing while neither has (none); the committed value when no older block names it (R247). -/
inductive Sees (p : PageCore) (k : Nat) : Nat → Option Img → Prop
  | committed : Sees p k 0 (some (p.reg k))
  | passes {n : Nat} {b : Block} {v : Option Img} : p.blocks[n]? = some b → b.wmask.getLsbD k = false → Sees p k n v → Sees p k (n + 1) v
  | written {n : Nat} {b : Block} {x : Img} : p.blocks[n]? = some b → b.wmask.getLsbD k = true →
      (∃ d ∈ b.done, d.act = .setr k x) → (∀ d ∈ b.done, d.act.named = some k → d.act = .setr k x) → Sees p k (n + 1) (some x)
  | kept {n : Nat} {b : Block} {v : Option Img} : p.blocks[n]? = some b → b.wmask.getLsbD k = true →
      (∃ d ∈ b.done, d.act = .nullr k) → (∀ d ∈ b.done, d.act.named = some k → d.act = .nullr k) → Sees p k n v → Sees p k (n + 1) v
  | pending {n : Nat} {b : Block} : p.blocks[n]? = some b → b.wmask.getLsbD k = true → (∀ d ∈ b.done, d.act.named ≠ some k) →
      Sees p k (n + 1) none

/-- No condition. -/
def always : State → CoreCtx → Prop := fun _ _ => True

/-! ### The low n bits of an image (R261) -/

/-- The value of an operand at width n. -/
def Img.at (a : Img) (n : Nat) : BitVec n := a.v.setWidth n
/-- A result of width n. -/
def ofBits {n : Nat} (x : BitVec n) (s : Bool) : Img := ⟨x.setWidth 64, s⟩
/-- A result of width n without a flag. -/
def plain {n : Nat} (x : BitVec n) (s : Bool) : Img × Flags := (ofBits x s, {})

/-- The exact value of an operand at width n: two's complement, or a natural number for a form marked .n (R261). -/
def Img.int (a : Img) (u : Bool) (n : Nat) : Int := if u then ((a.at n).toNat : Int) else (a.at n).toInt
/-- The bound of the n-bit range nearest to a value outside it; a value inside it stays (R274). -/
def nearest (u : Bool) (n : Nat) (t : Int) : Int :=
  let lo : Int := if u then 0 else -(2 ^ (n - 1))
  let hi : Int := if u then 2 ^ n - 1 else 2 ^ (n - 1) - 1
  if t < lo then lo else if hi < t then hi else t
/-- A clamping result: S and SAT say that the value did not fit (R274). -/
def clamped (u : Bool) (n : Nat) (t : Int) (s : Bool) : Img × Flags :=
  (ofBits (BitVec.ofInt n (nearest u n t)) (s || decide (nearest u n t ≠ t)), { sat := decide (nearest u n t ≠ t) })
/-- A predicate: 0 or 1 with its own S, which asks for IND (R280). -/
def predicate (p s : Bool) : Img × Flags := (⟨if p then 1 else 0, s⟩, { ind := s })

/-- Sub-element j of w bits of an operand (R297). -/
def Img.elt (a : Img) (w j : Nat) : BitVec w := a.v.extractLsb' (w * j) w
/-- A value of width n whose sub-element j of w bits is f j. -/
def packed (n w : Nat) (f : Nat → BitVec w) : BitVec n := (List.range (n / w)).foldl (fun r j => r ||| ((f j).setWidth n <<< (w * j))) 0

/-! ### Exact values of the working float (R144, R145, R151) -/

/-- The exact value of a working float; 0 for one that is not finite. -/
def Wf.rat (w : Wf) : ℚ := match w with
  | .fin neg m e => (if neg then -1 else 1) * m * 2 ^ e
  | _ => 0
/-- Finite, zeros included. -/
def Wf.finite (w : Wf) : Bool := !w.isNaN && !w.isInf
/-- r is trunc_s of a nonzero exact x to the working-float grid, with the S of the operands taken in (R145, R151, R152): beyond the largest
finite value an infinity with OF, below the least one a zero with UF, otherwise x truncated toward zero to 25 significant bits; S says what was lost. -/
def Truncates (x : ℚ) (os : Bool) (r : AluRes) : Prop :=
  ((2 ^ 25 - 1) * 2 ^ (487 : ℤ) < |x| → r.img.wf = .inf (decide (x < 0)) ∧ r.img.s = true ∧ r.fl = { ovf := true })
  ∧ (|x| < 2 ^ (-510 : ℤ) → r.img.wf = .zero (decide (x < 0)) ∧ r.img.s = true ∧ r.fl = { unf := true })
  ∧ (2 ^ (-510 : ℤ) ≤ |x| → |x| ≤ (2 ^ 25 - 1) * 2 ^ (487 : ℤ) → r.fl = {} ∧ ∃ (m : ℕ) (e : ℤ), r.img.wf = .fin (decide (x < 0)) m e ∧ 2 ^ 24 ≤ m ∧ m < 2 ^ 25
      ∧ (m : ℚ) * 2 ^ e ≤ |x| ∧ |x| < (m + 1) * 2 ^ e ∧ r.img.s = (os || decide ((m : ℚ) * 2 ^ e ≠ |x|)))

/-- The whole number to which a rounding mode takes v (R149, R153): 0 nearest, ties to even; 1 nearest, ties away from zero; 2 toward zero;
3 up; 4 down; 5 to odd. -/
def roundsTo (mode : Nat) (v : ℚ) (y : ℤ) : Prop :=
  match mode with
  | 0 => |v - y| ≤ 1 / 2 ∧ (|v - y| = 1 / 2 → Even y)
  | 1 => |v - y| ≤ 1 / 2 ∧ (|v - y| = 1 / 2 → |v| < |(y : ℚ)|)
  | 2 => y = if 0 ≤ v then ⌊v⌋ else ⌈v⌉
  | 3 => y = ⌈v⌉
  | 4 => y = ⌊v⌋
  | _ => |v - y| < 1 ∧ (v ≠ y → Odd y)

/-! ### A run that goes on -/

/-- The machine takes a step: no fault and no refusal. -/
def State.Goes (s : State) : Prop := ∃ t, step s = .next t

/-- Is this a device event of the opcode table, a row without an encoding? -/
def isEvent (i : Instr) : Bool := (encode i).isNone

/-! ### What every step keeps -/

/-- What R149, R198 and R246 say of a page core at all times: RMODE holds one of the rounding modes 0 to 5, the bits of SSTAT but TIP, PPRIV
and PRIV are 0, and at most four blocks are in flight. -/
def legalOf (rmode : BitVec 4) (sstat : DWord) (n : Nat) : Prop := rmode.toNat % 8 < 6 ∧ sstat &&& ~~~14 = 0 ∧ n ≤ 4
def PageCore.legal (p : PageCore) : Prop := legalOf p.rmode p.sstat p.blocks.length
/-- Every page core is legal, those of dormant regions included, and the sparse tables of the state have their one canonical form. -/
def soundOf (mem : Memory) (side : List (Nat × LineSide)) (buckets : List (Nat × Bucket)) (stale : List (Nat × Nat))
    (cores : List (CoreRef × PageCore)) (dormants : List Dormant) : Prop :=
  (∀ e ∈ cores, e.2.legal) ∧ (∀ d ∈ dormants, ∀ e ∈ d.cores, e.2.legal) ∧
  Memory.wf mem ∧ cellWfFrom {} 0 side ∧ cellWfFrom {} 0 buckets ∧ cellWfFrom 0 0 stale
def State.sound (s : State) : Prop := soundOf s.mem s.side s.buckets s.stale s.cores s.dormants

/-! ### Power (R19, R21, R46) -/

/-- An event that brings the package out of reset, in the state it makes of s: firmware whose key is the fused one and whose signature over its digest
is right boots, with its sealing keys and the limit it sets on every die; any other is reported, and the package does not run. -/
def Boots (i : Instr) (s u : State) : Prop :=
  (Config.sha3 s.fwKey = Config.fusedKey ∧ Config.mlDsaVerify s.fwKey (Config.sha3 s.fwImage) s.fwSig →
    ∃ l, 2 ^ 16 ≤ l ∧ l ≤ 2 ^ 30 ∧ exec i s = .next { u with
      inReset := false, booted := true, sealingKeys := Config.sealingKeysOf u.fwImage, dies := u.dies.map (fun d => { d with limit := l })
      fresh := u.fresh + 1 })
  ∧ (¬ (Config.sha3 s.fwKey = Config.fusedKey ∧ Config.mlDsaVerify s.fwKey (Config.sha3 s.fwImage) s.fwSig) →
    exec i s = .next { u with inReset := false, booted := false, outbox := u.outbox ++ [.report 8 0 0 0] })

/-! ### Messages of hosts (R29, R35 to R37) -/

/-- A message is taken: the package runs, its port is up, its layout, version and virtual channel are right. -/
structure Heard (s : State) (m : HostMsg) (vc len : ℕ) (zeros : List (ℕ × ℕ)) : Prop where
  live : s.live = true
  up : (s.port m.port).up = true
  layout : layoutOk m len zeros = true
  version : (s.port m.port).hostVer ≠ 0 ∧ m.pver = (s.port m.port).hostVer
  chan : m.vc = vc

/-- Events that are messages of a host, with their virtual channel, the bytes their bodies need, and the bytes that must be zero (R36, R37). -/
def isMessage (m : HostMsg) (i : Instr) (vc len : ℕ) (zeros : List (ℕ × ℕ)) : Prop :=
  (i, vc, len, zeros) ∈
    [(.launch m, 1, 64, []), (.prepare m, 0, 88, [(2, 6)]), (.switch m, 0, 8, []), (.abort m, 0, 0, []), (.setPtbase m, 0, 16, [(2, 6)]),
     (.attest m, 0, 56, [(34, 6), (52, 4)]), (.frostRead m, 0, 32, [(4, 4), (10, 6), (28, 4)]), (.dbgSample m, 0, 32, [(4, 4), (10, 6), (28, 4)]),
     (.dbgRead m, 0, 32, [(6, 2), (10, 6), (28, 4)]), (.resume m, 0, 4, []), (.kill m, 0, 4, []), (.replayArm m, 0, 88, [(6, 2)]),
     (.replayRead m, 0, 32, [(4, 4), (10, 6), (28, 4)]), (.errlogRead m, 0, 32, [(2, 6), (10, 6), (28, 4)]),
     (.dumpRead m, 0, 32, [(10, 6), (28, 4)]), (.dumpClear m, 0, 0, [])]

/-- The state after an answer has been sent to the buffer that a message names at an offset of its body: RESULT follows when the last write is
acknowledged (R37). -/
def State.answered (s : State) (m : HostMsg) (o : ℕ) (bytes : List Byte) (value : ℕ) : State :=
  let t := s.hostStore (some m.port) (HostMsgField m o 2) (HostMsgField m (o + 8) 8) bytes
  { t with answers := t.answers ++ [{ msg := m, node := HostMsgField m o 2, status := 0, bytes := bytes.length, value := value }] }

/-- An answer may be written: it fits the buffer and the node takes it (R37). -/
def State.takesAnswer (s : State) (m : HostMsg) (o : ℕ) (bytes : List Byte) : Prop :=
  bytes.length ≤ HostMsgField m (o + 16) 4 ∧ HostMsgField m o 2 ∉ s.refusing

end Sys2Proof.Machine
end

