-- ==== Sys2Proof/Certificates/Slice0/Obligations.lean ====
section
/-! DEFINITION. The statements for the provers. -/
open Sys2Proof Sys2Proof.Machine

/-! ### Integer instructions in both kinds of block -/

/-- R265, R272: MOVI, MOVK and ADDI at the width of their block; ADD, SUB and MUL wrap, MULH delivers the upper half of the exact product; S is the OR
of the operands' S, and no flag is asked for. -/
def Obligations.ConstantsAndArithmetic : Prop :=
  (∀ (p : BitVec 2) (t : BitVec 9) (i : BitVec 13),
    Computes (.movi p t i) p [t] [] (fun n _ _ _ => plain (i.signExtend n) false)
    ∧ Computes (.movk p t i) p [t] [.left] (fun n a _ _ => plain ((a.at n <<< 13) + i.setWidth n) a.s)
    ∧ Computes (.addi p t i) p [t] [.left] (fun n a _ _ => plain (a.at n + i.signExtend n) a.s))
  ∧ (∀ (p : BitVec 2) (t u : BitVec 9) (k : BitVec 1),
    Computes (.add p t u) p [t, u] [.left, .right] (fun n a b _ => plain (a.at n + b.at n) (a.s || b.s))
    ∧ Computes (.sub p t u) p [t, u] [.left, .right] (fun n a b _ => plain (a.at n - b.at n) (a.s || b.s))
    ∧ Computes (.mul p t u) p [t, u] [.left, .right] (fun n a b _ => plain (a.at n * b.at n) (a.s || b.s))
    ∧ Computes (.mulh p t u k) p [t, u] [.left, .right] (fun n a b _ =>
        plain (BitVec.ofInt n (a.int (k == 1) n * b.int (k == 1) n / 2 ^ n)) (a.s || b.s)))
/-- R273: DIV and REM truncate toward zero; division by zero gives all ones and the dividend, and the signed overflow its dividend and 0. -/
def Obligations.Division : Prop :=
  ∀ (p : BitVec 2) (t u : BitVec 9),
    Computes (.div p t u 0) p [t, u] [.left, .right] (fun n a b _ =>
        plain (if b.at n = 0 then BitVec.allOnes n else (a.at n).sdiv (b.at n)) (a.s || b.s))
    ∧ Computes (.div p t u 1) p [t, u] [.left, .right] (fun n a b _ =>
        plain (if b.at n = 0 then BitVec.allOnes n else a.at n / b.at n) (a.s || b.s))
    ∧ Computes (.rem p t u 0) p [t, u] [.left, .right] (fun n a b _ =>
        plain (if b.at n = 0 then a.at n else (a.at n).srem (b.at n)) (a.s || b.s))
    ∧ Computes (.rem p t u 1) p [t, u] [.left, .right] (fun n a b _ =>
        plain (if b.at n = 0 then a.at n else a.at n % b.at n) (a.s || b.s))

/-- R274: ADDS and SUBS clamp, MIN and MAX choose, ABS and NEG wrap or clamp; a clamped result carries S and asks for SAT. -/
def Obligations.SaturatingArithmetic : Prop :=
  ∀ (p : BitVec 2) (t u : BitVec 9) (k : BitVec 1),
    Computes (.adds p t u k) p [t, u] [.left, .right] (fun n a b _ =>
        clamped (k == 1) n (a.int (k == 1) n + b.int (k == 1) n) (a.s || b.s))
    ∧ Computes (.subs p t u k) p [t, u] [.left, .right] (fun n a b _ =>
        clamped (k == 1) n (a.int (k == 1) n - b.int (k == 1) n) (a.s || b.s))
    ∧ Computes (.min p t u k) p [t, u] [.left, .right] (fun n a b _ =>
        plain (if b.int (k == 1) n < a.int (k == 1) n then b.at n else a.at n) (a.s || b.s))
    ∧ Computes (.max p t u k) p [t, u] [.left, .right] (fun n a b _ =>
        plain (if a.int (k == 1) n < b.int (k == 1) n then b.at n else a.at n) (a.s || b.s))
    ∧ Computes (.abs p t u 0) p [t, u] [.left] (fun n a _ _ => plain (if (a.at n).msb then -(a.at n) else a.at n) a.s)
    ∧ Computes (.neg p t u 0) p [t, u] [.left] (fun n a _ _ => plain (-(a.at n)) a.s)
    ∧ Computes (.abs p t u 1) p [t, u] [.left] (fun n a _ _ => clamped false n ((a.at n).toInt.natAbs : Int) a.s)
    ∧ Computes (.neg p t u 1) p [t, u] [.left] (fun n a _ _ => clamped false n (-(a.at n).toInt) a.s)

/-- R275 to R279: LEA, the logic instructions and the shifts, whose amount is the whole operand; CLZ, POPC, BFX and BFI, whose control value names the
field by pos in bits 7:0 and len in bits 15:8. -/
def Obligations.LogicAndBits : Prop :=
  (∀ (p : BitVec 2) (t u : BitVec 9) (k : BitVec 2),
    Computes (.lea p t u k) p [t, u] [.left, .right] (fun n a b _ => plain (a.at n + (b.at n <<< k.toNat)) (a.s || b.s))
    ∧ ComputesInCore (.leaBlk p t u) p [t, u] [.left] (fun blk a _ _ => plain (BitVec.ofNat 64 blk.addr + (a.v <<< 4)) a.s)
    ∧ Computes (.andB p t u) p [t, u] [.left, .right] (fun n a b _ => plain (a.at n &&& b.at n) (a.s || b.s))
    ∧ Computes (.orB p t u) p [t, u] [.left, .right] (fun n a b _ => plain (a.at n ||| b.at n) (a.s || b.s))
    ∧ Computes (.xorB p t u) p [t, u] [.left, .right] (fun n a b _ => plain (a.at n ^^^ b.at n) (a.s || b.s))
    ∧ Computes (.andn p t u) p [t, u] [.left, .right] (fun n a b _ => plain (a.at n &&& ~~~ b.at n) (a.s || b.s))
    ∧ Computes (.notB p t u) p [t, u] [.left] (fun n a _ _ => plain (~~~ a.at n) a.s)
    ∧ Computes (.shl p t u) p [t, u] [.left, .right] (fun n a b _ => plain (a.at n <<< b.at n) (a.s || b.s))
    ∧ Computes (.shr p t u) p [t, u] [.left, .right] (fun n a b _ => plain (a.at n >>> b.at n) (a.s || b.s))
    ∧ Computes (.shra p t u) p [t, u] [.left, .right] (fun n a b _ => plain ((a.at n).sshiftRight' (b.at n)) (a.s || b.s))
    ∧ Computes (.rot p t u) p [t, u] [.left, .right] (fun n a b _ => plain ((a.at n).rotateLeft (b.at n).toNat) (a.s || b.s)))
  ∧ (∀ (p : BitVec 2) (t u : BitVec 9),
    Computes (.clz p t u) p [t, u] [.left] (fun n a _ _ => 
        plain (BitVec.ofNat n (if a.at n = 0 then n else n - 1 - (a.at n).toNat.log2)) a.s)
    ∧ Computes (.popc p t u) p [t, u] [.left] (fun n a _ _ =>
        plain (BitVec.ofNat n ((List.range n).countP (fun i => (a.at n).getLsbD i))) a.s)
    ∧ Computes (.bfx p t u 1) p [t, u] [.left, .right] (fun n a b _ =>
        plain (((a.at n >>> (b.v.toNat % 256)).setWidth (b.v.toNat / 256 % 256)).setWidth n) (a.s || b.s))
    ∧ Computes (.bfx p t u 0) p [t, u] [.left, .right] (fun n a b _ =>
        plain (if b.v.toNat % 256 + b.v.toNat / 256 % 256 ≤ n
          then ((a.at n >>> (b.v.toNat % 256)).setWidth (b.v.toNat / 256 % 256)).signExtend n
          else ((a.at n >>> (b.v.toNat % 256)).setWidth (b.v.toNat / 256 % 256)).setWidth n) (a.s || b.s))
    ∧ Computes (.bfi p t u) p [t, u] [.left, .right, .third] (fun n a b c =>
        let m : BitVec n := (BitVec.allOnes n <<< (c.v.toNat % 256)) &&& ~~~ (BitVec.allOnes n <<< (c.v.toNat % 256 + c.v.toNat / 256 % 256))
        plain ((a.at n &&& ~~~ m) ||| ((b.at n <<< (c.v.toNat % 256)) &&& m)) (a.s || b.s || c.s)))
/-- R280 to R282, R326: CMP, TEST, SEL, the sticky-bit instructions, and GENOF.prec with the order of R83 on 16-bit generations. -/
def Obligations.ComparesAndSelection : Prop :=
  ∀ (p : BitVec 2) (t u : BitVec 9) (k : BitVec 1),
    (let d (n : Nat) (a b : Img) : Int := a.int (k == 1) n - b.int (k == 1) n
     let s (n : Nat) (a b : Img) : Bool := decide (a.at n = b.at n) && (a.s || b.s)
     Computes (.cmp p t u 0 k) p [t, u] [.left, .right] (fun n a b _ => predicate (decide (d n a b = 0)) (s n a b))
     ∧ Computes (.cmp p t u 1 k) p [t, u] [.left, .right] (fun n a b _ => predicate (decide (d n a b ≠ 0)) (s n a b))
     ∧ Computes (.cmp p t u 2 k) p [t, u] [.left, .right] (fun n a b _ => predicate (decide (d n a b < 0)) (s n a b))
     ∧ Computes (.cmp p t u 3 k) p [t, u] [.left, .right] (fun n a b _ => predicate (decide (d n a b ≤ 0)) (s n a b))
     ∧ Computes (.cmp p t u 4 k) p [t, u] [.left, .right] (fun n a b _ => predicate (decide (0 < d n a b)) (s n a b))
     ∧ Computes (.cmp p t u 5 k) p [t, u] [.left, .right] (fun n a b _ => predicate (decide (0 ≤ d n a b)) (s n a b)))
    ∧ Computes (.testBits p t u 0) p [t, u] [.left, .right] (fun n a b _ => predicate (decide (a.at n &&& b.at n ≠ 0)) (a.s || b.s))
    ∧ Computes (.testBits p t u 1) p [t, u] [.left, .right] (fun n a b _ => predicate (decide (a.at n &&& b.at n = 0)) (a.s || b.s))
    ∧ Computes (.sel p t u) p [t, u] [.left, .right, .third] (fun _ a b c =>
        (if c.v.getLsbD 0 then ⟨a.v, a.s || c.s⟩ else ⟨b.v, b.s || c.s⟩, {}))
    ∧ Computes (.stkg p t u) p [t, u] [.left] (fun _ a _ _ => (⟨if a.s then 1 else 0, false⟩, {}))
    ∧ Computes (.stks p t u) p [t, u] [.left] (fun _ a _ _ => (⟨a.v, true⟩, {}))
    ∧ Computes (.stkc p t u) p [t, u] [.left] (fun _ a _ _ => (⟨a.v, false⟩, {}))
    ∧ Computes (.genofPrec p t u) p [t, u] [.left, .right] (fun _ a b _ =>
        (⟨if 0 < (b.at 16 - a.at 16).toInt then 1 else 0, a.s || b.s⟩, {}))

/-! ### Working float, conversions and packed integers in both kinds of block -/

/-- R285 to R289: what the working-float instructions deliver and the flags they ask for, by the functions of R152, R158, R286 and R289. -/
def Obligations.WorkingFloatInstructions : Prop :=
  ∀ (p : BitVec 2) (t u : BitVec 9) (c : BitVec 3),
    Computes (.fadd p t u) p [t, u] [.left, .right] (fun _ a b _ => ((wfAdd a b).img, (wfAdd a b).fl))
    ∧ Computes (.fsub p t u) p [t, u] [.left, .right] (fun _ a b _ => ((wfAdd a (wfNeg b)).img, (wfAdd a (wfNeg b)).fl))
    ∧ Computes (.fmul p t u) p [t, u] [.left, .right] (fun _ a b _ => ((wfMul a b).img, (wfMul a b).fl))
    ∧ Computes (.ffma p t u) p [t, u] [.left, .right, .third] (fun _ a b x => ((wfFma a b x).img, (wfFma a b x).fl))
    ∧ Computes (.fdiv p t u) p [t, u] [.left, .right] (fun _ a b _ => ((wfDiv a b).img, (wfDiv a b).fl))
    ∧ Computes (.fsqrt p t u) p [t, u] [.left] (fun _ a _ _ => ((wfSqrt a).img, (wfSqrt a).fl))
    ∧ Computes (.fmin p t u) p [t, u] [.left, .right] (fun _ a b _ => ((wfMin a b).img, {}))
    ∧ Computes (.fmax p t u) p [t, u] [.left, .right] (fun _ a b _ => ((wfMax a b).img, {}))
    ∧ Computes (.fabs p t u) p [t, u] [.left] (fun _ a _ _ => (wfAbs a, {}))
    ∧ Computes (.fneg p t u) p [t, u] [.left] (fun _ a _ _ => (wfNeg a, {}))
    ∧ Computes (.fcmp p t u c) p [t, u] [.left, .right] (fun _ a b _ =>
        predicate (if c = 6 then a.wf.isNaN || b.wf.isNaN
            else if a.wf.isNaN || b.wf.isNaN then c == 1 else relHolds c.toNat (wfCmp a.wf b.wf))
          (c != 6 && !a.wf.isNaN && !b.wf.isNaN && decide (wfCmp a.wf b.wf = 0) && (a.s || b.s)))
    ∧ Computes (.fclass p t u) p [t, u] [.left] (fun _ a _ _ => (wfClass a, {}))

/-- R145, R151, R152: sums, products, fused products and quotients of finite operands are the exact value, narrowed once by truncation; an
exact zero sum is +0 with the OR of the operands' S. Between the largest finite value and 2^512 R151 is followed (log 109). -/
def Obligations.WorkingFloatTruncates : Prop :=
  ∀ a b c : Img, a.wf.finite → b.wf.finite → c.wf.finite →
    (a.wf.rat + b.wf.rat ≠ 0 → Truncates (a.wf.rat + b.wf.rat) (a.s || b.s) (wfAdd a b))
    ∧ (a.wf.rat + b.wf.rat = 0 → (wfAdd a b).img.wf = .zero false ∧ (wfAdd a b).img.s = (a.s || b.s) ∧ (wfAdd a b).fl = {})
    ∧ (a.wf.rat * b.wf.rat ≠ 0 → Truncates (a.wf.rat * b.wf.rat) (a.s || b.s) (wfMul a b))
    ∧ (a.wf.rat * b.wf.rat + c.wf.rat ≠ 0 → Truncates (a.wf.rat * b.wf.rat + c.wf.rat) (a.s || b.s || c.s) (wfFma a b c))
    ∧ (a.wf.rat ≠ 0 → b.wf.rat ≠ 0 → Truncates (a.wf.rat / b.wf.rat) (a.s || b.s) (wfDiv a b))

/-- R145, R152, R286, R287: a NaN operand gives the canonical NaN without a flag, an invalid operation the canonical NaN with NV; an infinite
result takes the S of the operands that make it infinite. -/
def Obligations.WorkingFloatSpecialCases : Prop :=
  (∀ a b c : Img, a.wf = .nan ∨ b.wf = .nan → wfAdd a b = ⟨wfNaN, {}⟩ ∧ wfMul a b = ⟨wfNaN, {}⟩ ∧ wfDiv a b = ⟨wfNaN, {}⟩
    ∧ wfFma a b c = ⟨wfNaN, {}⟩ ∧ wfMin a b = ⟨wfNaN, {}⟩ ∧ wfMax a b = ⟨wfNaN, {}⟩)
  ∧ (∀ (a b : Img) (x : Bool), a.wf = .inf x → b.wf = .inf (!x) → wfAdd a b = ⟨wfNaN, { nv := true }⟩)
  ∧ (∀ (a b : Img) (x : Bool), a.wf = .inf x → b.wf = .inf x → wfAdd a b = ⟨wfInf x (a.s || b.s), {}⟩)
  ∧ (∀ (a b : Img) (x : Bool), a.wf = .inf x → b.wf.finite → wfAdd a b = ⟨wfInf x a.s, {}⟩ ∧ wfAdd b a = ⟨wfInf x a.s, {}⟩)
  ∧ (∀ (a b : Img) (x y : Bool), a.wf = .inf x → b.wf = .zero y → wfMul a b = ⟨wfNaN, { nv := true }⟩ ∧ wfMul b a = ⟨wfNaN, { nv := true }⟩
      ∧ wfDiv a b = ⟨wfInf (x != y) (a.s || b.s), {}⟩)
  ∧ (∀ (a b : Img) (x y : Bool), a.wf = .inf x → b.wf = .inf y → wfMul a b = ⟨wfInf (x != y) (a.s || b.s), {}⟩
      ∧ wfDiv a b = ⟨wfNaN, { nv := true }⟩)
  ∧ (∀ (a b : Img) (x y : Bool), a.wf = .zero x → b.wf = .zero y → wfDiv a b = ⟨wfNaN, { nv := true }⟩)
  ∧ (∀ (a b : Img) (x y : Bool) (m : Nat) (e : Int), a.wf = .fin x m e → b.wf = .zero y → wfDiv a b = ⟨wfInf (x != y) b.s, {}⟩)
  ∧ (∀ (a : Img) (m : Nat) (e : Int), a.wf = .fin true m e ∨ a.wf = .inf true → wfSqrt a = ⟨wfNaN, { nv := true }⟩)
  ∧ (∀ (a : Img) (x : Bool), a.wf = .zero x → wfSqrt a = ⟨wfZero x a.s, {}⟩)
  ∧ (∀ a : Img, a.wf = .inf false → wfSqrt a = ⟨wfInf false a.s, {}⟩)

/-- R290: what the approximate functions deliver, and their results that the table lists as exact: 2^a of a whole number, log2, 1 ÷ a and
1 ÷ √a of powers of two. The value inside the bound is the model's free value (log 5), of which nothing is said here. -/
def Obligations.ApproximateFunctions : Prop :=
  (∀ (p : BitVec 2) (t u : BitVec 9),
    Computes (.fexp2 p t u) p [t, u] [.left] (fun _ a _ _ => ((wfExp2 a).img, (wfExp2 a).fl))
    ∧ Computes (.flog2 p t u) p [t, u] [.left] (fun _ a _ _ => ((wfLog2 a).img, (wfLog2 a).fl))
    ∧ Computes (.frcp p t u) p [t, u] [.left] (fun _ a _ _ => ((wfRcp a).img, (wfRcp a).fl))
    ∧ Computes (.frsq p t u) p [t, u] [.left] (fun _ a _ _ => ((wfRsq a).img, (wfRsq a).fl))
    ∧ Computes (.ftanh p t u) p [t, u] [.left] (fun _ a _ _ => ((wfTanh a).img, (wfTanh a).fl)))
  ∧ (∀ (a : Img) (k : ℤ), a.wf.finite → a.wf.rat = k → -510 ≤ k → k ≤ 511 →
      (wfExp2 a).img.wf.rat = 2 ^ k ∧ (wfExp2 a).img.s = a.s ∧ (wfExp2 a).fl = {})
  ∧ (∀ (a : Img) (k : ℤ), a.wf.rat = 2 ^ k → (wfLog2 a).img.wf.rat = k ∧ (wfLog2 a).img.s = a.s ∧ (wfLog2 a).fl = {})
  ∧ (∀ (a : Img) (k : ℤ), a.wf.rat = 2 ^ k → k ≤ 510 → (wfRcp a).img.wf.rat = 2 ^ (-k) ∧ (wfRcp a).img.s = a.s ∧ (wfRcp a).fl = {})
  ∧ (∀ (a : Img) (k : ℤ), a.wf.rat = 2 ^ (2 * k) → (wfRsq a).img.wf.rat = 2 ^ (-k) ∧ (wfRsq a).img.s = a.s ∧ (wfRsq a).fl = {})

/-- R291 to R295: CVT, NARROW, FINAL, SCALE and MXSC; FINAL takes mode 6 and SATF8 from RMODE as its block began, in an E-block SATF8 from the
header. -/
def Obligations.Conversions : Prop :=
  ∀ (p : BitVec 2) (t u : BitVec 9) (f : BitVec 4) (m : BitVec 3),
    Computes (.cvt p t u f) p [t, u] [.left] (fun _ a _ _ => (toWf a.v.toNat f.toNat 0 a.s, {}))
    ∧ Computes (.narrow p t u f) p [t, u] [.left] (fun _ a _ _ => ((narrowTo a f.toNat).img, (narrowTo a f.toNat).fl))
    ∧ ComputesInCore (.final p t f m) p [t] [.left] (fun blk a _ _ =>
        let r := finalRound a f.toNat (if m = 6 then (blk.rmode.setWidth 3).toNat else m.toNat) (blk.rmode.getLsbD 3)
        (⟨BitVec.ofNat 64 r.code, r.nx⟩, r.fl))
    ∧ (m ≠ 6 → ComputesInElemOf (.final p t f m) p [t] [.left] (fun g a _ _ =>
        ⟨BitVec.ofNat 64 (finalRound a f.toNat m.toNat g.code.satf8).code, (finalRound a f.toNat m.toNat g.code.satf8).nx⟩))
    ∧ Computes (.scale p t u) p [t, u] [.left, .right] (fun n a b _ =>
        ((wfScale a (b.at n).toInt (a.s || b.s)).img, (wfScale a (b.at n).toInt (a.s || b.s)).fl))
    ∧ Computes (.mxsc p t u f) p [t, u] [.left] (fun _ a _ _ => (⟨BitVec.ofNat 64 (mxScale a f.toNat), false⟩, {}))

/-- R153, R154 for an integer format: a finite exact value goes to the whole number that the mode names, saturated to the format; nx and NX
say that it was inexact, SAT that it was saturated. -/
def Obligations.FinalRoundsToIntegers : Prop :=
  ∀ (v : Img) (f mode : Nat) (satf8 : Bool), v.wf.finite → v.s = false → 8 ≤ f → f ≤ 13 → mode ≤ 5 →
    ∃ y : ℤ, roundsTo mode v.wf.rat y ∧
      (finalRound v f mode satf8).code = bitsOf (fmtWidth f) (nearest (fmtUnsigned f) (fmtWidth f) y)
      ∧ (finalRound v f mode satf8).nx = decide ((y : ℚ) ≠ v.wf.rat)
      ∧ (finalRound v f mode satf8).fl = { nx := decide ((y : ℚ) ≠ v.wf.rat), sat := decide (nearest (fmtUnsigned f) (fmtWidth f) y ≠ y) }

/-- R296 to R299, R307: the packed instructions and RNG, sub-element by sub-element. -/
def Obligations.PackedInstructions : Prop :=
  ∀ (p : BitVec 2) (t u : BitVec 9) (g : BitVec 2),
    (let sum (w k : Nat) (a b c : Img) : ℤ := (c.at 32).toInt + ∑ j ∈ Finset.range k,
        (if g.getLsbD 0 then ((a.elt w j).toNat : ℤ) else (a.elt w j).toInt) * (if g.getLsbD 1 then ((b.elt w j).toNat : ℤ) else (b.elt w j).toInt)
     let sat (n : Nat) (x : ℤ) (s : Bool) : Img × Flags :=
       (ofBits (BitVec.ofInt n (nearest false 32 x)) (s || decide (nearest false 32 x ≠ x)), { sat := decide (nearest false 32 x ≠ x) })
     Computes (.dot4 p t u 0 g) p [t, u] [.left, .right, .third] (fun n a b c => sat n (sum 8 4 a b c) (a.s || b.s || c.s))
     ∧ Computes (.dot8 p t u 0 g) p [t, u] [.left, .right, .third] (fun n a b c => sat n (sum 4 8 a b c) (a.s || b.s || c.s))
     ∧ Computes (.dot4 p t u 1 g) p [t, u] [.left, .right, .third] (fun n a b c =>
         plain ((BitVec.ofInt 32 (sum 8 4 a b c)).signExtend n) (a.s || b.s || c.s))
     ∧ Computes (.dot8 p t u 1 g) p [t, u] [.left, .right, .third] (fun n a b c =>
         plain ((BitVec.ofInt 32 (sum 4 8 a b c)).signExtend n) (a.s || b.s || c.s)))
    ∧ (∀ w : BitVec 2, w ≠ 3 →
      (let k := 8 * 2 ^ w.toNat
       let clamp (s : Bool) (n : Nat) (a b : Img) : Img × Flags :=
         let x (j : Nat) : ℤ := if s then (a.elt k j).toInt + (b.elt k j).toInt else (a.elt k j).toNat + (b.elt k j).toNat
         let hit := (List.range (n / k)).any (fun j => nearest (!s) k (x j) != x j)
         (ofBits (packed n k (fun j => BitVec.ofInt k (nearest (!s) k (x j)))) (a.s || b.s || hit), { sat := hit })
       Computes (.addp p t u 0 w) p [t, u] [.left, .right] (fun n a b _ => plain (packed n k (fun j => a.elt k j + b.elt k j)) (a.s || b.s))
       ∧ Computes (.addp p t u 1 w) p [t, u] [.left, .right] (fun n a b _ => clamp true n a b)
       ∧ Computes (.addp p t u 2 w) p [t, u] [.left, .right] (fun n a b _ => clamp false n a b)
       ∧ Computes (.shlp p t u w) p [t, u] [.left, .right] (fun n a b _ => plain (packed n k (fun j => a.elt k j <<< b.elt k j)) (a.s || b.s))
       ∧ Computes (.shrp p t u 0 w) p [t, u] [.left, .right] (fun n a b _ => plain (packed n k (fun j => a.elt k j >>> b.elt k j)) (a.s || b.s))
       ∧ Computes (.shrp p t u 1 w) p [t, u] [.left, .right] (fun n a b _ =>
           plain (packed n k (fun j => (a.elt k j).sshiftRight' (b.elt k j))) (a.s || b.s))))
    ∧ Computes (.bperm p t u) p [t, u] [.left, .right, .third] (fun n a b c =>
        let h := n / 8
        let v (i : Nat) : Nat := (c.elt 4 i).toNat
        plain (packed n 8 (fun i => if v i < h then a.elt 8 (v i) else if v i < 2 * h then b.elt 8 (v i - h) else 0))
          (c.s || (a.s && (List.range h).any (fun i => decide (v i < h))) || (b.s && (List.range h).any (fun i => decide (h ≤ v i ∧ v i < 2 * h)))))
    ∧ Computes (.rng p t u 0) p [t, u] [.left, .right, .third] (fun _ a b c =>
        plain (rngDraw (a.at 32) (b.at 32) ((c.at 9).setWidth 32 <<< 16 ||| (c.v.extractLsb' 16 16).setWidth 32)) (a.s || b.s || c.s))
    ∧ (∀ a b c : Img, (aluRng true a b c).img.wf.rat =
        ((rngDraw (a.at 32) (b.at 32) ((c.at 9).setWidth 32 <<< 16 ||| (c.v.extractLsb' 16 16).setWidth 32)).toNat / 256 : ℕ) / 2 ^ 24
        ∧ (aluRng true a b c).img.s = (a.s || b.s || c.s) ∧ (aluRng true a b c).fl = {})
    ∧ Computes (.rng p t u 1) p [t, u] [.left, .right, .third] (fun _ a b c => ((aluRng true a b c).img, {}))

/-! ### Registers, control registers, exits and traps -/

/-- R247, R250, R265: NOP does nothing; SETR and NULLW give a register its value or pass it on, at commit, and a second naming is
ILLEGAL_INSN; GETR delivers what the youngest older block in flight that names the register gave it, waits for it, and reads the committed
value when none names it. -/
def Obligations.RegisterInstructions : Prop :=
  ∀ (p : BitVec 2) (t u : BitVec 9) (y : BitVec 4) (k : BitVec 5),
    ComputesInCore (.nop p t u y) p [] [] (fun _ _ _ _ => ({}, {}))
    ∧ AsksInCore (.setr p k) p [.left] 0 (fun _ x => ∀ d ∈ x.blk.done, d.act.named ≠ some k.toNat)
        (fun _ x => .setr k.toNat ⟨x.a.v, x.a.s || x.ps⟩)
    ∧ AsksInCore (.nullw p k) p [] 0 (fun _ x => ∀ d ∈ x.blk.done, d.act.named ≠ some k.toNat) (fun _ _ => .nullr k.toNat)
    ∧ FailsInCore (.setr p k) p [.left] 0 (fun _ x => ∃ d ∈ x.blk.done, d.act.named = some k.toNat) (fun _ x => (1, x.blk.word x.slot))
    ∧ FailsInCore (.nullw p k) p [] 0 (fun _ x => ∃ d ∈ x.blk.done, d.act.named = some k.toNat) (fun _ x => (1, x.blk.word x.slot))
    ∧ (∀ v : Img, GivesInCore (.getr p t k) p [] [t] (fun _ x => Sees x.pc k.toNat x.bi (some v)) (fun _ _ => v))
    ∧ FiresInCore (.getr p t k) p [] (fun _ x => Sees x.pc k.toNat x.bi none) (fun s _ => s)

/-- R266, R269: GETC reads a register once every older block has committed; the trap registers need PRIV = 1; a SETC with a reserved bit set
or an illegal shape is ILLEGAL_INSN, and otherwise the value is kept for commit. -/
def Obligations.ControlRegisterInstructions : Prop :=
  ∀ (p : BitVec 2) (t : BitVec 9) (n : BitVec 8),
    FiresInCore (.getc p t n) p [] (fun _ x => x.bi ≠ 0) (fun s _ => s)
    ∧ FailsInCore (.getc p t n) p [] 0 (fun _ x => x.bi = 0 ∧ 0x38 ≤ n ∧ n ≤ 0x3C ∧ x.pc.sstat.getLsbD 1 = false)
        (fun _ x => (2, x.blk.word x.slot))
    ∧ FailsInCore (.setc p n) p [.left] 0 (fun _ x => 0x38 ≤ n ∧ n ≤ 0x3C ∧ x.pc.sstat.getLsbD 1 = false)
        (fun _ x => (2, x.blk.word x.slot))
    ∧ FailsInCore (.setc p n) p [.left] 0
        (fun _ x => (isTsh n.toNat → x.tileReady) ∧ (0x38 ≤ n → n ≤ 0x3C → x.pc.sstat.getLsbD 1) ∧ ¬ controlValueOk n.toNat x.a.v)
        (fun _ x => (1, x.blk.word x.slot))
    ∧ AsksInCore (.setc p n) p [.left] 0
        (fun _ x => (isTsh n.toNat → x.tileReady) ∧ (0x38 ≤ n → n ≤ 0x3C → x.pc.sstat.getLsbD 1) ∧ controlValueOk n.toNat x.a.v)
        (fun _ x => .setc n.toNat x.a.v)
    ∧ (∀ (m : BitVec 8) (v : PageCore → DWord), (m, v) ∈
        [(0x08, fun q => q.rmode.setWidth 64), (0x09, fun q => q.fstat.setWidth 64), (0x20, PageCore.seqReg), (0x21, PageCore.genReg),
          (0x22, PageCore.posReg), (0x40, PageCore.ckpta), (0x48, PageCore.lseed)] →
        GivesInCore (.getc p t m) p [] [t] (fun _ x => x.bi = 0) (fun _ x => ⟨v x.pc, false⟩))
    ∧ (∀ (m : BitVec 8) (v : PageCore → DWord), (m, v) ∈
        [(0x38, PageCore.tvec), (0x39, PageCore.tcause), (0x3A, PageCore.tval), (0x3B, PageCore.epc), (0x3C, PageCore.sstat)] →
        GivesInCore (.getc p t m) p [] [t] (fun _ x => x.bi = 0 ∧ x.pc.sstat.getLsbD 1) (fun _ x => ⟨v x.pc, false⟩))
    ∧ (∀ m : BitVec 8, 0x10 ≤ m → m < 0x20 →
        GivesInCore (.getc p t m) p [] [t] (fun _ x => x.bi = 0) (fun _ x => ⟨x.pc.tsh.getD (m.toNat - 16) 0, false⟩))
    ∧ (∀ m : BitVec 8, m ∈ [0x00, 0x01, 0x02, 0x03, 0x04, 0x30, 0x31] →
        GivesInCore (.getc p t m) p [] [t] (fun _ x => x.bi = 0) (fun s x => ⟨readControl s x.c m.toNat, false⟩))

/-- R254, R270, R271, R372: an exit keeps its target for commit; BXR and RETB check theirs at firing, MISALIGNED before TRANSLATION; ERET needs
PRIV = 1; a second exit is ILLEGAL_INSN. -/
def Obligations.BlockExits : Prop :=
  ∀ (p : BitVec 2) (e : BitVec 3) (f : BitVec 19),
    (let first (x : CoreCtx) : Prop := ∀ d ∈ x.blk.done, d.act.exits = false
     let later (x : CoreCtx) : Prop := ∃ d ∈ x.blk.done, d.act.exits
     let ok (x : CoreCtx) : Prop := 16 ∣ x.a.v.toNat ∧ x.a.v.toNat < 2 ^ 56
     let priv (x : CoreCtx) : Prop := x.pc.sstat.getLsbD 1 = true
     let dest (x : CoreCtx) : ℕ := ((x.blk.addr + 16 * f.toInt) % 2 ^ 56).toNat
     let word (_ : State) (x : CoreCtx) : ℕ × DWord := (1, x.blk.word x.slot)
     AsksInCore (.bx p e f) p [] 0 (fun _ x => first x) (fun _ x => .exit (dest x))
     ∧ AsksInCore (.callb p e f) p [] 0 (fun _ x => first x) (fun _ x => .call (dest x))
     ∧ AsksInCore (.bxr p e) p [.left] 0 (fun _ x => first x ∧ ok x) (fun _ x => .exit x.a.v.toNat)
     ∧ AsksInCore (.retb p e) p [.left] 0 (fun _ x => first x ∧ ok x) (fun _ x => .ret x.a.v.toNat)
     ∧ AsksInCore (.eret p e) p [] 0 (fun _ x => first x ∧ priv x) (fun _ _ => .eret)
     ∧ FailsInCore (.bx p e f) p [] 0 (fun _ x => later x) word
     ∧ FailsInCore (.callb p e f) p [] 0 (fun _ x => later x) word
     ∧ (∀ i ∈ [Instr.bxr p e, .retb p e],
          FailsInCore i p [.left] 0 (fun _ x => later x ∧ ok x) word
          ∧ FailsInCore i p [.left] 0 (fun _ x => ¬ 16 ∣ x.a.v.toNat) (fun _ x => (3, x.a.v))
          ∧ FailsInCore i p [.left] 0 (fun _ x => 16 ∣ x.a.v.toNat ∧ 2 ^ 56 ≤ x.a.v.toNat) (fun _ x => (4, x.a.v)))
     ∧ FailsInCore (.eret p e) p [] 0 (fun _ x => later x ∧ priv x) word
     ∧ FailsInCore (.eret p e) p [] 0 (fun _ x => ¬ priv x) (fun _ x => (2, x.blk.word x.slot)))

/-- R371, R373 to R376: the commit traps with their causes and values, CKPT, TLBI, PERF and HALTD. -/
def Obligations.SystemInstructions : Prop :=
  ∀ (p : BitVec 2) (t u : BitVec 9) (v : BitVec 13) (l : BitVec 5) (k : BitVec 2) (c : BitVec 3),
    AsksInCore (.trap p v) p [] 0 always (fun _ _ => .ctrap 0x0B (v.setWidth 64))
    ∧ AsksInCore (.sysc p v) p [] 0 always (fun _ _ => .ctrap 0x09 (v.setWidth 64))
    ∧ AsksInCore (.brk p v) p [] 0 always (fun _ _ => .ctrap 0x0A (v.setWidth 64))
    ∧ AsksInCore (.haltdStop p) p [] 0 always (fun _ _ => .haltd false)
    ∧ AsksInCore (.haltdFrz p) p [] 0 always (fun _ _ => .haltd true)
    ∧ (∀ y : Bool × Instr, y ∈ [(false, .ckptCont p l), (true, .ckptYield p l)] →
        FailsInCore y.2 p [.left] l.toNat (fun _ x => x.a.v.toNat < 128) (fun _ x => (1, x.blk.word x.slot))
        ∧ AsksInCore y.2 p [.left] l.toNat (fun _ x => 128 ≤ x.a.v.toNat ∧ x.pc.ckpta.getLsbD 0 = false)
            (fun _ x => .ckpt y.1 x.a.v.toNat none))
    ∧ FailsInCore (.tlbi p l k c) p (if k = 0 then [.left] else []) l.toNat (fun _ x => x.pc.sstat.getLsbD 1 = false)
        (fun _ x => (2, x.blk.word x.slot))
    ∧ AsksInCore (.tlbi p l k c) p (if k = 0 then [.left] else []) l.toNat (fun _ x => x.pc.sstat.getLsbD 1)
        (fun _ x => .tlbi k.toNat c.toNat x.a.v.toNat)
    ∧ AsksInCore (.perfCfg p) p [.left] 0 always (fun _ x => .perfCfg x.a.v)
    ∧ AsksInCore (.perfClr p) p [.left] 0 always (fun _ x => .perfClr (x.a.v.toNat % 16))
    ∧ (∀ i ∈ [Instr.perfRd p t u, .perfCnt p t u], FiresInCore i p [.left] (fun _ x => x.bi ≠ 0) (fun s _ => s))
    ∧ (∀ q : Plot,
        GivesInCore (.perfCnt p t u) p [.left] [t] (fun s x => x.bi = 0 ∧ s.plotOf x.c (x.a.v.toNat % 16) = some q)
          (fun _ _ => ⟨BitVec.ofNat 64 q.ring.length, false⟩)
        ∧ GivesInCore (.perfRd p t u) p [.left] [t]
            (fun s x => x.bi = 0 ∧ s.plotOf x.c (x.a.v.toNat % 16) = some q)
            (fun _ x => ⟨q.ring.getD (x.a.v.toNat / 16 % 64) 0, false⟩))

/-! ### Loads, stores, presence and atomics -/

/-- R183, R186, R333 to R336, R338: a load checks its address when it fires, waits its turn in issue order or is held to commit; from an MU page it
reads the bytes that memory and the core's own earlier stores give, which are then on their way to its targets; LDI there may also read an older
value of the word, a free choice (log 33). An LDA is an acquire where an agent of its scope may see it (log 39). -/
def Obligations.LoadsRead : Prop :=
  ∀ (p : BitVec 2) (t : BitVec 9) (l : BitVec 5) (y : BitVec 4) (c : BitVec 3) (i : Instr) (kind n align : ℕ) (acq : State → CoreCtx → Bool),
    (i, kind, n, align, acq) ∈ [(Instr.ld p t l y, y.toNat, typeBytes y.toNat, typeBytes y.toNat, fun _ _ => false),
      (.ldi p t l y, y.toNat, typeBytes y.toNat, typeBytes y.toNat, fun _ _ => false),
      (.lda p t l y c, y.toNat, typeBytes y.toNat, typeBytes y.toNat, fun s x => s.watched x.c c.toNat none),
      (.ldimg p t l 0, 16, 16, 16, fun _ _ => false), (.ldimg p t l 1, 17, 5, 8, fun _ _ => false)] →
    FailsInCore i p [.left] l.toNat (fun _ x => ¬ align ∣ x.a.v.toNat) (fun _ x => (3, x.a.v))
    ∧ (∀ e : XFault, FailsInCore i p [.left] l.toNat
        (fun s x => coreSpan s x.c x.blk.seqReg x.a.v.toNat n align x.rd true = .error e) (fun _ _ => (e.code, BitVec.ofNat 64 e.va)))
    ∧ (∀ sp : Span,
        (let old : Prop := i = .ldi p t l y ∧ spanAttr sp = 0 ∧ spanReg sp = false
         let reads (turn : Turn) (s : State) (x : CoreCtx) : Prop :=
           coreSpan s x.c x.blk.seqReg x.a.v.toNat n align x.rd true = .ok sp ∧ x.turn s l.toNat true sp = turn
         let quiet (bs : List Byte) (s : State) (x : CoreCtx) : Prop := reads .go s x ∧ spanAttr sp = 0 ∧ s.eccIn (spanPas sp) = []
           ∧ (∀ r ∈ sp, ∀ k a, regionOf r.1.pa ≠ .host k a) ∧ readOver s (x.ownStores l.toNat) sp = some bs
         let sends (s : State) (x : CoreCtx) (bs : List Byte) : State :=
           (({ s with arrivals := s.arrivals + 1 } : State).putBlock x.c x.bi (x.blk.asks x.slot l.toNat (.read (acq s x)))).mapCore x.c (fun q => { q with
             responses := q.responses ++ [{ uid := x.blk.uid, slot := x.slot, kind := kind, bytes := bs, va := spanVa sp, die := spanDie sp,
                                            stamp := s.arrivals }] })
         FiresInCore i p [.left] (reads .wait) (fun s _ => s)
         ∧ (¬ old → AsksInCore i p [.left] l.toNat (reads .hold) (fun s x => .heldRead kind x.a.v.toNat sp (acq s x)))
         ∧ (old → AsksInCore i p [.left] l.toNat (reads .hold) (fun s x => .heldRead (32 + kind) x.a.v.toNat sp (acq s x)))
         ∧ (∀ bs : List Byte, ¬ old → FiresInCore i p [.left] (quiet bs) (fun s x => sends s x bs))
         ∧ (∀ bs : List Byte, old → FiresInCore i p [.left] (fun s x => quiet bs s x ∧ s.recorded x.c.lid) (fun s x => sends s x bs))
         ∧ (∀ (bs : List Byte) (r : Xlat) (m : ℕ) (rest : Span), old → sp = (r, m) :: rest →
             FiresInCore i p [.left] (fun s x => quiet bs s x ∧ s.recorded x.c.lid = false) (fun s x =>
               let values := s.olderOf x.c.lid x.c.pset (physKey s r.pa / 8)
               let k := s.freeAt 0 % (values.length + 1)
               sends (s.useFree 1) x (if k = 0 then bs else
                 (List.range m).map (fun j => BitVec.ofNat 8 (values.getD (k - 1) 0 / 256 ^ (r.pa % 8 + j))))))))

/-- R335, R338, R340: how the bytes that a load has read become a register image. -/
def Obligations.LoadTypes : Prop :=
  ∀ bs : List Byte,
    loadImage 8 bs = ⟨(BitVec.ofNat 8 (leNat bs)).signExtend 64, false⟩
    ∧ loadImage 9 bs = ⟨(BitVec.ofNat 8 (leNat bs)).setWidth 64, false⟩
    ∧ loadImage 12 bs = ⟨(BitVec.ofNat 16 (leNat bs)).signExtend 64, false⟩
    ∧ loadImage 13 bs = ⟨(BitVec.ofNat 32 (leNat bs)).signExtend 64, false⟩
    ∧ loadImage 14 bs = ⟨BitVec.ofNat 64 (leNat bs), false⟩
    ∧ loadImage 16 bs = ⟨BitVec.ofNat 64 (leNat bs), (leNat bs).testBit 64⟩
    ∧ loadImage 17 bs = ⟨(BitVec.ofNat 35 (leNat bs)).setWidth 64, (leNat bs).testBit 35⟩
    ∧ (∀ f ≤ 5, loadImage f bs = toWf (leNat bs) f 0 false ∧ (loadImage f bs).s = false)

/-- R144, R146, R147, R335: to_wf of a finite nonzero code of BF16, FP16, FP32, FP8 E4M3 or E5M2 is the code's exact value: with `m` mantissa
bits, `k` exponent bits and bias `d`, (1.mantissa) × 2^(exponent − d), and (0.mantissa) × 2^(1 − d) where the exponent field is zero. -/
def Obligations.StoredFloatsWidenExactly : Prop :=
  ∀ (f k m d : ℕ) (code : ℕ) (s : Bool), (f, k, m, d) ∈ [(0, 8, 7, 127), (1, 5, 10, 15), (2, 8, 23, 127), (3, 4, 3, 7), (4, 5, 2, 15)] →
    code < 2 ^ (1 + k + m) → (toWf code f 0 s).wf.finite → (toWf code f 0 s).s = s
      ∧ (let man : ℚ := ((code % 2 ^ m : ℕ) : ℚ) / 2 ^ m
         let e : ℕ := code / 2 ^ m % 2 ^ k
         let sign : ℚ := if code / 2 ^ (k + m) = 1 then -1 else 1
         (toWf code f 0 s).wf.rat = sign * (if e = 0 then man * 2 ^ (1 - d : ℤ) else (1 + man) * 2 ^ (e - d : ℤ)))

/-- R337, R338: a store checks its address when it fires, keeps its bytes for commit and asks for the flags of the rounding or clamping; a
narrow store to a WO page is WO_PARTIAL. -/
def Obligations.StoresAsk : Prop :=
  ∀ (p : BitVec 2) (l : BitVec 5) (y : BitVec 4) (m c : BitVec 3) (k : BitVec 1),
    (let code (x : CoreCtx) : FinalRes :=
       if y.toNat ≤ 5 then finalRound x.b y.toNat (if m = 6 then x.blk.rmode.toNat % 8 else m.toNat) (x.blk.rmode.getLsbD 3)
       else if y = 14 then { code := x.b.v.toNat }
       else
         let v : ℤ := if y = 9 then x.b.v.toNat else x.b.v.toInt
         { code := bitsOf (8 * typeBytes y.toNat) (nearest (y == 9) (8 * typeBytes y.toNat) v)
           fl := { sat := decide (nearest (y == 9) (8 * typeBytes y.toNat) v ≠ v) } }
     ∀ (i : Instr) (rel : Option ℕ), (i, rel) ∈ [(Instr.st p l y m, none), (.stl p l y m c, some c.toNat)] →
       y ∈ [(0 : BitVec 4), 1, 2, 3, 4, 5, 8, 9, 12, 13, 14] → ∀ sp : Span,
       FailsInCore i p [.left, .right] l.toNat (fun _ x => ¬ typeBytes y.toNat ∣ x.a.v.toNat) (fun _ x => (3, x.a.v))
       ∧ FailsInCore i p [.left, .right] l.toNat
           (fun s x => coreSpan s x.c x.blk.seqReg x.a.v.toNat (typeBytes y.toNat) (typeBytes y.toNat) x.wr true = .ok sp ∧ spanAttr sp ≠ 0 ∧ y ≠ 14)
           (fun _ x => (6, x.a.v))
       ∧ FiresInCore i p [.left, .right]
           (fun s x => coreSpan s x.c x.blk.seqReg x.a.v.toNat (typeBytes y.toNat) (typeBytes y.toNat) x.wr true = .ok sp
             ∧ (spanAttr sp = 0 ∨ y = 14))
           (fun s x => s.putBlock x.c x.bi (({ x.blk.fire x.slot with flags := x.blk.flags.or (code x).fl }).ask x.slot l.toNat
             (.store sp (leBytes (typeBytes y.toNat) (code x).code) rel (x.blk.genReg.toNat % 2 ^ 16)))))
    ∧ (∀ sp : Span,
       AsksInCore (.stimg p l 0) p [.left, .right] l.toNat
         (fun s x => coreSpan s x.c x.blk.seqReg x.a.v.toNat 16 16 x.wr true = .ok sp)
         (fun _ x => .store sp (leBytes 16 (x.b.v.toNat + if x.b.s then 2 ^ 64 else 0)) none (x.blk.genReg.toNat % 2 ^ 16))
       ∧ AsksInCore (.stimg p l 1) p [.left, .right] l.toNat
         (fun s x => coreSpan s x.c x.blk.seqReg x.a.v.toNat 5 8 x.wr true = .ok sp ∧ spanAttr sp = 0)
         (fun _ x => .store sp (leBytes 5 (x.b.v.toNat % 2 ^ 35 + if x.b.s then 2 ^ 35 else 0)) none (x.blk.genReg.toNat % 2 ^ 16))
       ∧ FailsInCore (.stimg p l 1) p [.left, .right] l.toNat
         (fun s x => coreSpan s x.c x.blk.seqReg x.a.v.toNat 5 8 x.wr true = .ok sp ∧ spanAttr sp ≠ 0) (fun _ x => (6, x.a.v)))
    ∧ FailsInCore (.stimg p l k) p [.left, .right] l.toNat (fun _ x => ¬ (if k = 0 then 16 else 8) ∣ x.a.v.toNat) (fun _ x => (3, x.a.v))

/-- R339, R340: TILL and TILLG check every line and keep them for commit; PRES reads the line's side-band without waiting for presence. -/
def Obligations.PresenceInstructions : Prop :=
  ∀ (p : BitVec 2) (t : BitVec 9) (l : BitVec 5) (sp sp' : Span) (e : XFault),
    (let lines (s : State) (x : CoreCtx) (least : ℕ) : Except XFault Span :=
       coreSpan s x.c x.blk.seqReg x.a.v.toNat (64 * (x.b.v.toNat % 2 ^ 32)) 64 { x.wr with least := least } false
     ∀ (i : Instr) (g : Bool), (i, g) ∈ [(Instr.till p l, false), (.tillg p l, true)] →
       FailsInCore i p [.left, .right] l.toNat (fun _ x => ¬ 64 ∣ x.a.v.toNat) (fun _ x => (3, x.a.v))
       ∧ FailsInCore i p [.left, .right] l.toNat (fun s x => lines s x (if g then 2 else 1) = .error e) (fun _ _ => (e.code, BitVec.ofNat 64 e.va))
       ∧ AsksInCore i p [.left, .right] l.toNat (fun s x => lines s x (if g then 2 else 1) = .ok sp) (fun _ _ => .till sp g))
    ∧ (let ok (s : State) (x : CoreCtx) : Prop := coreSpan s x.c x.blk.seqReg x.a.v.toNat 1 1 x.rd false = .ok sp'
         ∧ coreSpan s x.c x.blk.seqReg (x.a.v.toNat / 64 * 64) 64 64 x.rd false = .ok sp
       FiresInCore (.pres p t l) p [.left] (fun s x => ok s x ∧ x.turn s l.toNat false sp = .wait) (fun s _ => s)
       ∧ AsksInCore (.pres p t l) p [.left] l.toNat (fun s x => ok s x ∧ x.turn s l.toNat false sp = .hold)
           (fun _ x => .heldRead 18 (x.a.v.toNat / 64 * 64) sp false)
       ∧ (∀ (r : Xlat) (n : ℕ) (rest : Span), sp = (r, n) :: rest → FiresInCore (.pres p t l) p [.left]
           (fun s x => ok s x ∧ x.turn s l.toNat false sp = .go)
           (fun s x => (({ s with arrivals := s.arrivals + 1 } : State).putBlock x.c x.bi
               (x.blk.asks x.slot l.toNat (.read false))).mapCore x.c (fun q => { q with
             responses := q.responses ++ [{ uid := x.blk.uid, slot := x.slot, kind := 18, va := r.va, die := dieOf r.pa, stamp := s.arrivals
                                            bytes := leBytes 8 (if r.attr = 0 then 2 ^ 31 else
                                              (if r.attr = 2 then (s.line (r.pa / 64)).gen % 2 ^ 16 * 2 ^ 8 else 0)
                                                + (s.line (r.pa / 64)).present.toNat) }] }))))

/-- R341 to R343: ATOM and FATOM need an aligned MU word of the bulk store or a scratchpad and are performed at commit. -/
def Obligations.AtomicsAsk : Prop :=
  ∀ (p : BitVec 2) (t : BitVec 9) (l : BitVec 5) (o : BitVec 3) (w : BitVec 1) (a sc : BitVec 2) (sp : Span),
    (let n : ℕ := if w = 0 then 4 else 8
     let uses : List Pos := if o = 6 then [.left, .right, .third] else [.left, .right]
     let ok (n : ℕ) (s : State) (x : CoreCtx) : Prop := coreSpan s x.c x.blk.seqReg x.a.v.toNat n n x.rmw true = .ok sp
     AsksInCore (.atom p t l o w a sc) p uses l.toNat (fun s x => ok n s x ∧ ∀ r ∈ sp, r.1.attr = 0 ∧ inStore r.1.pa)
       (fun _ x => .atom x.a.v.toNat sp { op := o.toNat, width := n, x := x.b, y := x.x } a.toNat (sc.toNat + 2) (t != 0x1FF))
     ∧ FailsInCore (.atom p t l o w a sc) p uses l.toNat (fun s x => ok n s x ∧ ∃ r ∈ sp, ¬ (r.1.attr = 0 ∧ inStore r.1.pa)) (fun _ x => (5, x.a.v))
     ∧ FailsInCore (.atom p t l o w a sc) p uses l.toNat (fun _ x => ¬ n ∣ x.a.v.toNat) (fun _ x => (3, x.a.v))
     ∧ AsksInCore (.fatom p t l a sc) p [.left, .right] l.toNat (fun s x => ok 4 s x ∧ ∀ r ∈ sp, r.1.attr = 0 ∧ inStore r.1.pa)
       (fun _ x => .atom x.a.v.toNat sp { op := 7, width := 4, x := x.b, y := {}, mode := x.blk.rmode.toNat % 8 } a.toNat (sc.toNat + 2) (t != 0x1FF))
     ∧ FailsInCore (.fatom p t l a sc) p [.left, .right] l.toNat (fun s x => ok 4 s x ∧ ∃ r ∈ sp, ¬ (r.1.attr = 0 ∧ inStore r.1.pa))
       (fun _ x => (5, x.a.v))
     ∧ FailsInCore (.fatom p t l a sc) p [.left, .right] l.toNat (fun _ x => ¬ 4 ∣ x.a.v.toNat) (fun _ x => (3, x.a.v)))

/-- R342, R343: the new word of an atomic operation, the value it delivers (sign-extended, S = 0) and the flags it sets. -/
def Obligations.AtomicOperations : Prop :=
  ∀ (n : ℕ) (x y : Img) (old : ℕ) (mode : ℕ), n = 4 ∨ n = 8 →
    (let b : BitVec (8 * n) := BitVec.ofNat (8 * n) old
     let new (op : ℕ) : BitVec (8 * n) := match op with
       | 0 => b + x.at (8 * n)
       | 1 => if (x.at (8 * n)).toInt < b.toInt then x.at (8 * n) else b
       | 2 => if b.toInt < (x.at (8 * n)).toInt then x.at (8 * n) else b
       | 3 => b &&& x.at (8 * n)
       | 4 => b ||| x.at (8 * n)
       | 5 => x.at (8 * n)
       | _ => if b = y.at (8 * n) then x.at (8 * n) else b
     (∀ op < 7, ({ op := op, width := n, x := x, y := y } : AtomOp).apply old = ((new op).toNat, ⟨b.signExtend 64, false⟩, {}))
     ∧ (let r := wfAdd (toWf old 2 0 false) x
        let q := finalRound r.img 2 mode false
        ({ op := 7, width := 4, x := x, y := y, mode := mode } : AtomOp).apply old = (q.code, toWf old 2 0 false, r.fl.or q.fl)))

/-! ### Engines, fences, barriers, tasks and lane commands -/

/-- R344, R345, R347, R348, R350 to R357: an engine request with count 0 or a reserved scope is ILLEGAL_INSN, a list or descriptor that is not 32-byte
aligned MISALIGNED; otherwise it is kept for commit. RESP takes the next response of its engine, or waits. Fences, barriers, tasks and groups, as they
fire: XFENCE delivers the serial it will receive and waits while sixteen fences are open; a barrier of no arrivals, a task of no tiles and a SPAWN
outside a group are ILLEGAL_INSN. -/
def Obligations.EngineAndOrderingInstructions : Prop :=
  ((∀ (p : BitVec 2) (l : BitVec 5) (e : BitVec 3) (g : BitVec 2) (i : Instr) (uses : List Pos) (unit op : ℕ) (count scope : CoreCtx → ℕ),
    (i, uses, unit, op, count, scope) ∈
      [(Instr.cpyl p l e, [.left, .right, .third], e.toNat, 0, fun x => x.b.v.toNat % 2 ^ 16, fun x => x.x.v.toNat % 8),
       (.gath p l g, [.left, .right], g.toNat + 8, 1, fun _ => 1, fun x => x.b.v.toNat % 8),
       (.scat p l g, [.left, .right], g.toNat + 8, 2, fun _ => 1, fun x => x.b.v.toNat % 8),
       (.coll p l, [.left, .right], 12, 3, fun _ => 1, fun x => x.b.v.toNat % 8)] →
    FailsInCore i p uses l.toNat (fun _ x => count x = 0 ∨ 6 ≤ scope x) (fun _ x => (1, x.blk.word x.slot))
    ∧ FailsInCore i p uses l.toNat (fun _ x => count x ≠ 0 ∧ scope x < 6 ∧ ¬ 32 ∣ x.a.v.toNat) (fun _ x => (3, x.a.v))
    ∧ (∀ sp : Span, AsksInCore i p uses l.toNat
        (fun s x => count x ≠ 0 ∧ scope x < 6 ∧ 32 ∣ x.a.v.toNat ∧ coreSpan s x.c x.blk.seqReg x.a.v.toNat 32 1 x.rd false = .ok sp)
        (fun _ x => .engine unit op x.a.v.toNat (count x) (scope x))))
  ∧ (∀ (p : BitVec 2) (t : BitVec 9) (l : BitVec 5) (e : BitVec 4) (k : ℕ),
    WaitsInCore (.resp p t l e) p [] (fun s x => x.countBelow (isResp e.toNat) = (k, false) ∧ x.turn s l.toNat true [] = .go
      ∧ (x.pc.responsesOf e.toNat)[k]? = none)
    ∧ (∀ r : EngResp, AsksGivesInCore (.resp p t l e) p [] l.toNat t
        (fun s x => x.countBelow (isResp e.toNat) = (k, false) ∧ x.turn s l.toNat true [] = .go ∧ (x.pc.responsesOf e.toNat)[k]? = some r)
        (fun _ _ => .resp e.toNat) (fun _ _ => ⟨BitVec.ofNat 64 (r.index % 2 ^ 32 * 2 ^ 32 + r.status % 2 ^ 16), false⟩))))
  ∧ (∀ (p : BitVec 2) (t : BitVec 9) (l : BitVec 5) (c j : BitVec 3) (b : BitVec 4),
    AsksInCore (.fence p l c) p [] l.toNat always (fun _ _ => .fence c.toNat)
    ∧ (∀ n : ℕ, AsksGivesInCore (.xfence p t l c) p [] l.toNat t
        (fun s x => x.xfences l.toNat = (n, false) ∧ n + (x.pc.fences.filter (s.fenceOpen x.c)).length < 16)
        (fun _ x => .xfence c.toNat ((x.pc.serial + n) % 2 ^ 16)) (fun _ x => ⟨BitVec.ofNat 64 ((x.pc.serial + n) % 2 ^ 16), false⟩))
    ∧ WaitsInCore (.xfence p t l c) p []
        (fun s x => (x.xfences l.toNat).2 ∨ 16 ≤ (x.xfences l.toNat).1 + (x.pc.fences.filter (s.fenceOpen x.c)).length)
    ∧ AsksInCore (.xwait p l) p [.left] l.toNat always (fun _ x => .xwait (x.a.v.toNat % 2 ^ 16))
    ∧ AsksInCore (.barInit p l c b) p [.left] l.toNat (fun _ x => x.a.v.toNat % 2 ^ 16 ≠ 0)
        (fun _ x => .barInit b.toNat c.toNat (x.a.v.toNat % 2 ^ 16))
    ∧ FailsInCore (.barInit p l c b) p [.left] l.toNat (fun _ x => x.a.v.toNat % 2 ^ 16 = 0) (fun _ x => (1, x.blk.word x.slot))
    ∧ AsksInCore (.barArr p l c b) p [] l.toNat always (fun _ _ => .barArr b.toNat c.toNat)
    ∧ AsksInCore (.barWait p l c b) p [] l.toNat always (fun _ _ => .barWait b.toNat c.toNat)
    ∧ AsksInCore (.spawn p l) p [.left, .right, .third] l.toNat (fun _ x => x.b.v.toNat % 2 ^ 32 ≠ 0 ∧ x.blk.gidx ≠ 0xFFFFFFFF)
        (fun _ x => .spawn (x.a.v.toNat % 2 ^ 32) (x.b.v.toNat % 2 ^ 32) x.x.v)
    ∧ FailsInCore (.spawn p l) p [.left, .right, .third] l.toNat (fun _ x => x.b.v.toNat % 2 ^ 32 = 0 ∨ x.blk.gidx = 0xFFFFFFFF)
        (fun _ x => (1, x.blk.word x.slot))
    ∧ AsksInCore (.tdone p l j) p [.left] l.toNat always (fun _ x => .tdone j.toNat (x.a.v.toNat % 2 ^ 12))
    ∧ AsksInCore (.graise p t l) p [.left] l.toNat always (fun _ x => .graise (x.a.v.toNat % 2 ^ 32))
    ∧ GivesInCore (.gidxIdx p t) p [] [t] always (fun _ x => ⟨x.blk.gidx, false⟩)
    ∧ GivesInCore (.gidxCnt p t) p [] [t] always (fun _ x => ⟨x.blk.gcount, false⟩))
/-- R327, R329 to R331: a lane command needs SEQ to name a lane of a pipeline of its launch, or the block faults with PROTECTION and SEQ; it is
then kept for commit. PRUNE uses its second operand in the relaunching forms only. -/
def Obligations.LaneCommands : Prop :=
  ∀ (p : BitVec 2) (l : BitVec 5) (f r : BitVec 1) (i : Instr) (uses : List Pos) (a : CoreCtx → Act),
    (i, uses, a) ∈
      [(Instr.launchp p l, [.left, .right], fun x => .launchp (x.a.v.toNat % 2 ^ 32) (x.b.v.toNat % 2 ^ 32)),
       (.prune p l f r, if r = 1 then [.left, .right] else [.left],
          fun x => .prune (x.a.v.toNat % 2 ^ 32) (x.b.v.toNat % 2 ^ 32) (r == 1) (f == 1)),
       (.seqOpen p l, [.left, .right], fun x => .seqOpen (x.a.v.toNat % 2 ^ 32) x.b.v), (.seqClose p l, [], fun _ => .seqClose)] →
    AsksInCore i p uses l.toNat
      (fun s x => x.blk.seqReg.getLsbD 31 = false ∧ (s.sprout (x.blk.seqReg.toNat % 512 / 64)).owner = some x.c.lid
        ∧ x.blk.seqReg.toNat % 64 < (s.sprout (x.blk.seqReg.toNat % 512 / 64)).nlane) (fun _ x => a x)
    ∧ FailsInCore i p uses l.toNat
      (fun s x => ¬ (x.blk.seqReg.getLsbD 31 = false ∧ (s.sprout (x.blk.seqReg.toNat % 512 / 64)).owner = some x.c.lid
        ∧ x.blk.seqReg.toNat % 64 < (s.sprout (x.blk.seqReg.toNat % 512 / 64)).nlane)) (fun _ x => (5, x.blk.seqReg))

/-! ### Ports and streams of a page core -/

/-- R249, R311, R326: the port reads of a C-block. `k` popping INs on the port stand earlier and all are decided; IN delivers a strand of the
beat behind them and, when it pops, claims it; it waits for a beat that has not arrived. -/
def Obligations.PortReads : Prop :=
  ∀ (p : BitVec 2) (t u : BitVec 9) (n : BitVec 5) (j : BitVec 4) (a : BitVec 2) (k : ℕ),
    (let before (x : CoreCtx) : Prop := x.countBelow (popsPort n.toNat) = (k, false)
     WaitsInCore (.inMrk p t n) p [] (fun _ x => before x ∧ (x.pc.sinkQ n.toNat)[k]? = none)
     ∧ (∀ pop : BitVec 1, WaitsInCore (.inPort p t n pop j) p [] (fun _ x => before x ∧ (x.pc.sinkQ n.toNat)[k]? = none))
     ∧ (∀ b : Beat,
       (let image (s : State) (x : CoreCtx) : Img :=
          laneToReg (bstrand b j.toNat) (headerStrand b j.toNat) (fmtOf (s.voLink x.c n.toNat))
        GivesInCore (.inPort p t n 0 j) p [] [t] (fun _ x => before x ∧ (x.pc.sinkQ n.toNat)[k]? = some b) image
        ∧ AsksGivesInCore (.inPort p t n 1 j) p [] 0 t (fun _ x => before x ∧ (x.pc.sinkQ n.toNat)[k]? = some b) (fun _ _ => .pop n.toNat) image)
       ∧ GivesInCore (.inMrk p t n) p [] [t] (fun _ x => before x ∧ (x.pc.sinkQ n.toNat)[k]? = some b)
           (fun _ _ => ⟨BitVec.ofNat 64 (mrkImage b), false⟩))
     ∧ GivesInCore (.inCnt p t n) p [] [t] (fun _ x => before x) (fun _ x => ⟨BitVec.ofNat 64 ((x.pc.sinkQ n.toNat).length - k), false⟩))
    ∧ GivesInCore (.inSpc p t n) p [] [t] (fun _ x => x.countBelow (pushesPort n.toNat) = (k, false))
        (fun _ x => ⟨BitVec.ofNat 64 (16 - (x.pc.srcQ n.toNat).length - k), false⟩)
    ∧ GivesInCore (.inAcc p t a j) p [] [t] always (fun _ x => (x.pc.accs[a.toNat]).vals.getD j.toNat {})
    ∧ (∀ g : Option SegId, FiresInCore (.genofIn p t u) p [.left] (fun _ x => x.a.v.toNat < 32 ∧ x.nextSegment x.a.v.toNat = some g)
        (fun s x => s.putBlock x.c x.bi (x.blk.computed x.slot [t, u] ⟨(genofImage g).v, (genofImage g).s || x.ps⟩ {})))
    ∧ FiresInCore (.genofIn p t u) p [.left] (fun _ x => 32 ≤ x.a.v.toNat)
        (fun s x => s.putBlock x.c x.bi (x.blk.computed x.slot [t, u] ⟨2 ^ 30, x.ps⟩ {}))

/-- R150, R156, R159, R312, R313, R318: the port writes of a C-block, kept for commit: a strand of the beat being built, which asks for SAT where
the register saturates in the link's integer format, standalone markers, prefixes with the identity of SEQ and GEN or of a sink's current segment,
condition tokens. -/
def Obligations.PortWrites : Prop :=
  ∀ (p : BitVec 2) (n : BitVec 8) (k : BitVec 1) (j : BitVec 4) (r c : BitVec 2) (q : BitVec 5),
    (let sat (s : State) (x : CoreCtx) : Flags :=
       let link := s.viLink x.c n.toNat
       let f := fmtOf link
       let v := x.a.v.toInt
       { sat := decide (f ∈ [8, 9, 10, 11, 12, 13] ∧ nearest (fmtUnsigned f) (fmtWidth f) v ≠ v ∧ ¬ (j = 0 ∧ link.any Chan.record)) }
     let sends (s : State) (x : CoreCtx) (t : Strand) : State := s.putBlock x.c x.bi
       (({ x.blk.fire x.slot with flags := x.blk.flags.or (sat s x) }).ask x.slot 0 (.stage n.toNat j.toNat (some t) (k == 1)))
     FiresInCore (.outPort p n k j) p [.left] always (fun s x => sends s x (x.strandFor s n.toNat j.toNat x.a 0))
     ∧ FiresInCore (.outm p n k j) p [.left, .right] always
         (fun s x => sends s x (x.strandFor s n.toNat j.toNat x.a (x.b.v.toNat % 4))))
    ∧ AsksInCore (.mrk p n k j) p [.left] 0 always
        (fun _ x => .stage n.toNat j.toNat (if x.a.v.toNat % 4 = 0 then none else some (strandM (x.a.v.toNat % 4))) (k == 1))
    ∧ AsksInCore (.segl p n r) p [.left] 0 always
        (fun _ x => .push n.toNat (mkPrefix { length := x.a.v.toNat % 2 ^ 32, endrank := r.toNat, nolane := x.blk.seqReg.getLsbD 31,
                                              lane := x.blk.seqReg.toNat % 512, gen := x.blk.genReg.toNat % 2 ^ 16 }))
    ∧ (∀ g : SegId, AsksInCore (.segn p n q) p [.left] 0 (fun _ x => x.sinkSegment q.toNat = some (some g))
        (fun _ x => .push n.toNat (mkPrefix { length := x.a.v.toNat % 2 ^ 32, lane := g.lane, gen := g.gen, nolane := g.nolane,
                                              endrank := g.endrank })))
    ∧ AsksInCore (.segn p n q) p [.left] 0 (fun _ x => x.sinkSegment q.toNat = some none)
        (fun _ x => .push n.toNat (mkPrefix { length := x.a.v.toNat % 2 ^ 32 }))
    ∧ WaitsInCore (.segn p n q) p [.left] (fun _ x => x.sinkSegment q.toNat = none)
    ∧ AsksInCore (.ctxsw p n c) p [] 0 always (fun _ _ => .push n.toNat (mkCondBeat c.toNat))

/-- R319 to R323, R358, R361, R363 to R370: the stream commands, their checks and what they keep for commit, and the forager's registers; a tile
instruction fires once every earlier one has, in tile issue order; a failed check is ILLEGAL_INSN; it is then kept for commit with the operands it
fired with. -/
def Obligations.StreamAndTileInstructions : Prop :=
  (∀ (p : BitVec 2) (l : BitVec 5) (d : BitVec 1) (n : BitVec 5) (i : BitVec 7) (m : BitVec 8) (z : BitVec 1) (o k : BitVec 2)
    (t u : BitVec 9) (f : BitVec 4),
    (let fmt (x : CoreCtx) : ℕ := x.b.v.toNat / 2 ^ 32 % 16
     let mode (x : CoreCtx) : ℕ := x.b.v.toNat / 2 ^ 36 % 8
     let ok (x : CoreCtx) : Prop := fmt x ∈ [0, 1, 2, 3, 4, 8, 9, 10, 11, 12, 13] ∧ mode x ≠ 7
     FailsInCore (.strmMem p l d n) p [.left, .right] l.toNat (fun _ x => ¬ ok x) (fun _ x => (1, x.blk.word x.slot))
     ∧ (∀ sp : Span, AsksInCore (.strmMem p l d n) p [.left, .right] l.toNat
         (fun s x => ok x ∧ coreSpan s x.c x.blk.seqReg x.a.v.toNat (2 * fmtWidth (fmt x) * (x.b.v.toNat % 2 ^ 32)) (max 1 (fmtWidth (fmt x) / 8))
           (if d = 0 then x.rd else x.wr) true = .ok sp)
         (fun _ x => .stream { seq := 0, ld := d == 0, port := n.toNat, tile := none, span := sp, fmt := fmt x,
                               mode := if mode x = 6 then x.blk.rmode.toNat % 8 else mode x, satf8 := x.blk.rmode.getLsbD 3,
                               beats := x.b.v.toNat % 2 ^ 32, lsid := l.toNat, gen := x.blk.genReg.toNat % 2 ^ 16 })))
    ∧ (let mode (x : CoreCtx) : ℕ := x.a.v.toNat / 16 % 8
       let shape (s : State) (x : CoreCtx) : DWord := (x.shadow s).shape (x.a.v.toNat % 16)
       let ok (s : State) (x : CoreCtx) : Prop := fmtIsMx (tshType (shape s x)) = false ∧ mode x ≠ 7
       WaitsInCore (.strmTile p l d n) p [.left] (fun _ x => x.tileReady = false)
       ∧ FailsInCore (.strmTile p l d n) p [.left] l.toNat (fun s x => x.tileReady ∧ ¬ ok s x) (fun _ x => (1, x.blk.word x.slot))
       ∧ AsksInCore (.strmTile p l d n) p [.left] l.toNat (fun s x => x.tileReady ∧ ok s x)
         (fun s x => .stream { seq := 0, ld := d == 0, port := n.toNat, tile := some (x.a.v.toNat % 16), shape := shape s x, fmt := tshType (shape s x),
                               mode := if mode x = 6 then x.blk.rmode.toNat % 8 else mode x, satf8 := x.blk.rmode.getLsbD 3,
                               beats := tshRows (shape s x) * ((tshCols (shape s x) + 15) / 16), lsid := l.toNat,
                               gen := x.blk.genReg.toNat % 2 ^ 16 }))
    ∧ FailsInCore (.strmDrain p l i) p [.left] l.toNat (fun _ x => 6 ≤ x.a.v.toNat % 8) (fun _ x => (1, x.blk.word x.slot))
    ∧ AsksInCore (.strmDrain p l i) p [.left] l.toNat (fun _ x => x.a.v.toNat % 8 < 6)
        (fun _ x => .drain (if i.getLsbD 6 then none else some (!i.getLsbD 5, i.toNat % 32)) (x.a.v.toNat % 8))
    ∧ AsksInCore (.strmAcc p m z o k) p [] 0 always (fun _ _ => .acc m.toNat (z == 1) o.toNat k.toNat)
    ∧ AsksInCore (.fgstage p) p [.left, .right] 0 always (fun _ x => .fgstage (x.a.v.toNat % 8) (x.b.v.toNat % 256))
    ∧ AsksInCore (.fgseed p) p [.left] 0 always (fun _ x => .fgseed (x.a.v.toNat % 2 ^ 32))
    ∧ WaitsInCore (.fgstat p t u f) p [.left] (fun _ x => x.bi ≠ 0)
    ∧ (∀ g : Forager, GivesInCore (.fgstat p t u f) p [.left] [t] (fun s x => x.bi = 0 ∧ s.foragerOf (pageOf x.c) = some g)
        (fun _ x => ⟨BitVec.ofNat 64 (g.stat f.toNat (x.a.v.toNat % 8)), false⟩)))
  ∧ (∀ (p : BitVec 2) (k : BitVec 4) (i : Instr) (uses : List Pos) (ok : State → CoreCtx → Prop) (op : State → CoreCtx → TileOp),
    (i, uses, ok, op) ∈
      [(Instr.tzero p k, [], always, fun _ _ => .zero k.toNat),
       (.treshape p k, [.left], fun _ x => shapeOk ((x.a.v.extractLsb' 0 21).setWidth 64), fun _ x => .reshape k.toNat (x.a.v.extractLsb' 0 21)),
       (.tmov p k, [.left], fun s x => x.a.v.getLsbD 4 → transposable ((x.shadow s).shape (x.a.v.toNat % 16)),
         fun _ x => .mov k.toNat (x.a.v.toNat % 16) (x.a.v.getLsbD 4)),
       (.tfill p k, [.left, .right], fun s x => fmtIsMx (tshType ((x.shadow s).shape k.toNat)) = false ∧ x.b.v.toNat % 8 ≠ 7,
         fun s x => .fill k.toNat (fillCode x.a (tshType ((x.shadow s).shape k.toNat)) (x.roundMode (x.b.v.toNat % 8)) (x.blk.rmode.getLsbD 3))),
       (.wloadT p, [.left], fun s x => x.systolic s ∧ (let v := (x.shadow s).shape (x.a.v.toNat % 16)
          wloadOk x.a.v (tshType v) (tshRows v) (tshCols v)), fun _ x => .wloadT x.a.v),
       (.wswap p, [], fun s x => x.systolic s, fun _ _ => .wswap),
       (.mma p k, [.left], fun s x => x.systolic s ∧ mmaOk (x.shadow s) k.toNat x.a.v, fun _ x => .mma k.toNat x.a.v),
       (.mmas p k, [.left], fun s x => x.systolic s ∧ mmaOk (x.shadow s) k.toNat x.a.v ∧ mmasOk (x.shadow s) k.toNat x.a.v,
         fun _ x => .mmas k.toNat x.a.v),
       (.accz p k, [], fun s x => x.systolic s, fun _ _ => .accz k),
       (.accd p k, [.left], fun s x => x.systolic s ∧ (let v := (x.shadow s).shape k.toNat
          tshType v ∈ [0, 1, 2, 3, 4, 8, 9, 10, 11, 12, 13] ∧ x.a.v.toNat / 16 % 8 ≠ 7 ∧ tshCols v ≤ 128 ∧ x.a.v.toNat / 256 % 128 < tshRows v),
         fun _ x => .accd k.toNat x.a.v (x.roundMode (x.a.v.toNat / 16 % 8)) (x.blk.rmode.getLsbD 3)),
       (.topk p k, [.left], fun s x => topkOk (x.shadow s) k.toNat x.a.v, fun _ x => .topk k.toNat x.a.v)] →
    WaitsInCore i p uses (fun _ x => x.tileReady = false)
    ∧ FailsInCore i p uses 0 (fun s x => x.tileReady ∧ ¬ ok s x) (fun _ x => (1, x.blk.word x.slot))
    ∧ AsksInCore i p uses 0 (fun s x => x.tileReady ∧ ok s x) (fun s x => .tile (op s x)))
/-! ### Tiles, matrix and sorting -/

/-- R359, R364, R369: tiles and memory, weights from the weight store, the sort network's settings. A stride of zero means rows that follow
one another; rows of a WO page need whole words. -/
def Obligations.TilesAndMemory : Prop :=
  ∀ (p : BitVec 2) (l : BitVec 5) (k : BitVec 4) (rows : List Span) (e : XFault),
    (∀ (i : Instr) (wr : Bool) (op : ℕ → List Span → TileOp), (i, wr, op) ∈ [(Instr.tld p l k, false, .tld k.toNat), (.tst p l k, true, .tst k.toNat)] →
      (let v (s : State) (x : CoreCtx) : DWord := (x.shadow s).shape k.toNat
       let stride (x : CoreCtx) : ℕ := x.b.v.toNat % 2 ^ 32
       let step (s : State) (x : CoreCtx) : ℕ := if stride x = 0 then rowBytes (v s x) else stride x
       let bad (s : State) (x : CoreCtx) : Prop := ¬ rowAlign (tshType (v s x)) ∣ x.a.v.toNat ∨ ¬ rowAlign (tshType (v s x)) ∣ stride x
         ∨ (stride x ≠ 0 ∧ stride x < rowBytes (v s x))
       let read (s : State) (x : CoreCtx) : Except XFault (List Span) :=
         rowSpans s x (if wr then x.wr else x.rd) (rowBytes (v s x)) (step s x) (tshRows (v s x)) x.a.v.toNat
       let part (s : State) (x : CoreCtx) : Prop := wr = true ∧ (∃ sp ∈ rows, ∃ r ∈ sp, r.1.attr ≠ 0)
         ∧ ¬ (8 ∣ x.a.v.toNat ∧ 8 ∣ stride x ∧ 8 ∣ rowBytes (v s x))
       WaitsInCore i p [.left, .right] (fun _ x => x.tileReady = false)
       ∧ FailsInCore i p [.left, .right] l.toNat (fun s x => x.tileReady ∧ bad s x) (fun _ x => (3, x.a.v))
       ∧ FailsInCore i p [.left, .right] l.toNat (fun s x => x.tileReady ∧ ¬ bad s x ∧ read s x = .error e)
           (fun _ _ => (e.code, BitVec.ofNat 64 e.va))
       ∧ FailsInCore i p [.left, .right] l.toNat (fun s x => x.tileReady ∧ ¬ bad s x ∧ read s x = .ok rows ∧ part s x) (fun _ x => (6, x.a.v))
       ∧ AsksInCore i p [.left, .right] l.toNat (fun s x => x.tileReady ∧ ¬ bad s x ∧ read s x = .ok rows ∧ ¬ part s x)
           (fun s x => .tile (op (step s x) rows))))
    ∧ (let f (x : CoreCtx) : ℕ := x.a.v.toNat % 16
       let jn (x : CoreCtx) : ℕ := x.a.v.toNat / 2 ^ 24 % 128 + 1
       let kn (x : CoreCtx) : ℕ := x.a.v.toNat / 2 ^ 32 % 512 + 1
       let ok (s : State) (x : CoreCtx) : Prop := x.systolic s ∧ wloadOk x.a.v (f x) (jn x) (kn x) ∧ rowAlign (f x) ∣ x.b.v.toNat
       let read (s : State) (x : CoreCtx) : Except XFault (List Span) :=
         rowSpans s x x.rd (imageRow (f x) (kn x)) (imageRow (f x) (kn x)) (jn x) x.b.v.toNat
       WaitsInCore (.wloadW p) p [.left, .right] (fun _ x => x.tileReady = false)
       ∧ FailsInCore (.wloadW p) p [.left, .right] 0 (fun s x => x.tileReady ∧ ¬ ok s x) (fun _ x => (1, x.blk.word x.slot))
       ∧ FailsInCore (.wloadW p) p [.left, .right] 0 (fun s x => x.tileReady ∧ ok s x ∧ read s x = .error e) (fun _ _ => (e.code, BitVec.ofNat 64 e.va))
       ∧ AsksInCore (.wloadW p) p [.left, .right] 0
           (fun s x => x.tileReady ∧ ok s x ∧ read s x = .ok rows ∧ ∀ sp ∈ rows, ∀ r ∈ sp, ∃ d, regionOf r.1.pa = .active d)
           (fun _ x => .tile (.wloadW x.a.v rows)))
    ∧ (let ok (s : State) (x : CoreCtx) : Prop := (∃ a, s.arrayOf (pageOf x.c) = some a ∧ a.mode = 2)
         ∧ 1 ≤ x.a.v.toNat % 16 ∧ x.a.v.toNat % 16 ≤ 9 ∧ x.a.v.toNat / 256 % 1024 ≤ 2 ^ (x.a.v.toNat % 16)
       AsksInCore (.sortcfg p) p [.left] 0 ok (fun _ x => .sortcfg x.a.v)
       ∧ FailsInCore (.sortcfg p) p [.left] 0 (fun s x => ¬ ok s x) (fun _ x => (1, x.blk.word x.slot)))

/-! ### Ports, records, joins and reductions of an element -/

/-- R308 to R313, R317, R318: the port instructions of an E-block. IN and the joins deliver the lanes of a beat; OUT and OUTM place the beat that
their lanes make, or fault with BAD_BEAT where a record output gets no record; MRK places standalone markers; SEGL and SEGN place a prefix; CTXSW
places a condition token where a lane fires. -/
def Obligations.ElementPorts : Prop :=
  ∀ (p : BitVec 2) (t u : BitVec 9) (n q : BitVec 5) (m : BitVec 8) (k : BitVec 1) (j : BitVec 4) (r c : BitVec 2),
    (let left (f : Firing) (slot : ℕ) : List LaneV := f.lanesAt slot .left
     let put (f : Firing) (slot : ℕ) (ls : List LaneV) : Firing := match outBeat (f.outp m.toNat) ls with
       | none => f.faults 0x80
       | some b => (if beatEmpty b ∧ hkind b = 0 then f else match f.sdPrefix slot m.toNat with
           | some g => f.placePrefix m.toNat g
           | none => f).place m.toNat b
     let length (ls : List LaneV) : Option ℕ := (ls.findSome? LaneV.val).map (fun v => v.v.toNat % 2 ^ 32)
     PassesInElem (.inPort p t n k j) p [] (fun _ _ => True) (fun f _ => f.lanesIn n.toNat) (fun f _ ls => f.deliver t ls)
     ∧ (∀ i ∈ [Instr.merge p t u j, .omerge p t u, .recirc p t u],
         PassesInElem i p [] (fun _ _ => True) (fun f _ => f.lanesIn (f.chosen.getD 0)) (fun f _ ls => (f.deliver t ls).deliver u ls))
     ∧ PassesInElem (.outPort p m k j) p [.left] (fun _ _ => True) left put
     ∧ PassesInElem (.outm p m k j) p [.left, .right] (fun _ _ => True) left (fun f slot ls =>
         put f slot ((List.range 16).map (fun i => match (f.lane slot .right i).val with
           | some v => { (ls.getD i {}) with rank := max (ls.getD i {}).rank (v.v.toNat % 4) }
           | none => ls.getD i {})))
     ∧ PassesInElem (.mrk p m k j) p [.left] (fun _ _ => True) left (fun f _ ls => f.place m.toNat (ls.map (fun l => match l.val with
         | some v => strandM (v.v.toNat % 4)
         | none => {})))
     ∧ PassesInElem (.segl p m r) p [.left] (fun _ _ => True) left (fun f _ ls => match length ls with
         | none => f
         | some n => f.placePrefix m.toNat { length := n, endrank := r.toNat })
     ∧ PassesInElem (.segn p m q) p [.left] (fun _ _ => True) left (fun f _ ls => match length ls, (f.inp q.toNat).seg with
         | none, _ => f
         | some n, none => f.placePrefix m.toNat { length := n }
         | some n, some g => f.placePrefix m.toNat { length := n, lane := g.lane, gen := g.gen, nolane := g.nolane, endrank := g.endrank })
     ∧ FiresInElem (.ctxsw p m c) p [] (fun f slot => ∃ i < 16, ∃ ps, f.lets slot p i ps) (fun f _ => f.place m.toNat (mkCondBeat c.toNat))
     ∧ FiresInElem (.ctxsw p m c) p [] (fun f slot => (f.lanesAt slot .pred).length = 16 ∧ ∀ i < 16, ∀ ps, ¬ f.lets slot p i ps) (fun f _ => f)
     ∧ ComputesInElemOf (.genofIn p t u) p [t, u] [.left] (fun f a _ _ =>
         if a.v.toNat % 2 ^ 32 < 4 then genofImage (f.inp (a.v.toNat % 2 ^ 32)).seg else ⟨2 ^ 30, false⟩))

/-- R251, R308, R310, R311, R313: what the lanes of an OUT make on an output, and what placing does: an empty beat takes no slot, a second beat or
prefix on one output is EB_CONFLICT; what IN delivers for a strand of a beat in an element and in a C-block, and the fields of a length prefix and of
in.mrk. -/
def Obligations.BeatsPlacedAndRead : Prop :=
  ((∀ (o : FireOut) (ls : List LaneV), o.isRec = false → ∃ b, outBeat o ls = some b ∧ b.length = 16 ∧ ∀ i < 16,
      (∀ v, (ls.getD i {}).val = some v → bstrand b i = strandV (ls.getD i {}).rank (placeLane v (ls.getD i {}).fmt o.fmt))
      ∧ ((ls.getD i {}).val = none → bstrand b i = strandM (ls.getD i {}).rank))
  ∧ (∀ (o : FireOut) (ls : List LaneV) (h : Img), o.isRec → (ls.getD 0 {}).val = some h →
      (isHeader h = false → outBeat o ls = none)
      ∧ (isHeader h → ∃ b, outBeat o ls = some b ∧ (bstrand b 0).v = false ∧ (bstrand b 0).img = h.bits36
          ∧ (bstrand b 0).mrk = BitVec.ofNat 2 (ls.getD 0 {}).rank
          ∧ ∀ i, 1 ≤ i → i ≤ hdrNval h → bstrand b i = strandV 0 ((ls.getD i {}).val.getD {})))
  ∧ (∀ (f : Firing) (q : ℕ) (b : Beat) (g : SegId),
      ((beatEmpty b ∧ hkind b = 0) → f.place q b = f)
      ∧ (¬ (beatEmpty b ∧ hkind b = 0) → (∀ t ∈ f.placed, t.1 ≠ q) → f.place q b = { f with placed := f.placed ++ [(q, b)] })
      ∧ (¬ (beatEmpty b ∧ hkind b = 0) → (∃ t ∈ f.placed, t.1 = q) → f.place q b = f.faults 0x92)
      ∧ ((∀ t ∈ f.prefixes, t.1 ≠ q) → f.placePrefix q g = { f with prefixes := f.prefixes ++ [(q, mkPrefix g)] })
      ∧ ((∃ t ∈ f.prefixes, t.1 = q) → f.placePrefix q g = f.faults 0x92)))
  ∧ ((∀ (b : Beat) (fmt : ℕ), (lanesOf b fmt).length = 16 ∧ ∀ i < 16,
      (let l := (lanesOf b fmt).getD i {}
       l.rank = (bstrand b i).mrk.toNat
       ∧ ((bstrand b i).v → (i = 0 → hkind b ≠ 1 ∧ hkind b ≠ 5) → l.val = some (imgOf36 (bstrand b i).img) ∧ l.fmt = fmt)
       ∧ (i = 0 → hkind b = 1 ∨ hkind b = 5 → l.val = some (imgOf36 (bstrand b 0).img) ∧ l.fmt = 18)
       ∧ ((bstrand b i).v = false → ¬ (i = 0 ∧ (hkind b = 1 ∨ hkind b = 5)) → l.val = none)))
  ∧ (∀ g : SegId, g.lane < 512 → g.gen < 2 ^ 16 → g.endrank < 4 → g.length < 2 ^ 32 → -2 ^ 15 ≤ g.sdexp → g.sdexp < 2 ^ 15 → g.sdcnt < 128 →
      hkind (mkPrefix g) = 2 ∧ prefixOf (mkPrefix g) = g)
  ∧ (∀ (t : Strand) (f : ℕ),
      laneToReg t true f = ⟨t.img.setWidth 64, false⟩
      ∧ (t.v → ∀ g ∈ [8, 10, 12, 13], laneToReg t false g = ⟨(t.img.setWidth 32).signExtend 64, t.img.getLsbD 35⟩)
      ∧ (t.v → ∀ g ∈ [9, 11], laneToReg t false g = ⟨(t.img.setWidth 32).setWidth 64, t.img.getLsbD 35⟩)
      ∧ (t.v → ∀ g ∈ [0, 1, 2, 3, 4, 16, 17], laneToReg t false g = ⟨(t.img.setWidth 35).setWidth 64, t.img.getLsbD 35⟩)
      ∧ (t.v = false → laneToReg t false f = ⟨0, false⟩))
  ∧ (∀ (b : Beat) (i : ℕ), i < 16 → hkind b < 16 →
      mrkImage b / 2 ^ (2 * i) % 4 = (bstrand b i).mrk.toNat ∧ (mrkImage b).testBit (32 + i) = (bstrand b i).v ∧ mrkImage b / 2 ^ 48 % 16 = hkind b))
/-- R111, R315: the record instructions. A beat of empty lanes passes empty (a reading of the model's, log 13); any other beat needs a record
header in lane 0, or the element faults with BAD_BEAT. -/
def Obligations.RecordInstructions : Prop :=
  ∀ (p : BitVec 2) (t u : BitVec 9) (k : BitVec 4) (d : BitVec 3),
    (let lane (f : Firing) (slot i : ℕ) : LaneV := f.lane slot .left i
     let empty (f : Firing) (slot : ℕ) : Prop := ∀ l ∈ f.lanesAt slot .left, l.val = none
     let header (f : Firing) (slot : ℕ) : Prop := ∃ h, (lane f slot 0).val = some h ∧ isHeader h
     let all (g : ℕ → LaneV) : List LaneV := (List.range 16).map g
     let head (f : Firing) (slot : ℕ) (g : Img → DWord) (i : ℕ) : LaneV := if i = 0 then
       { (lane f slot 0) with val := some ⟨g ((lane f slot 0).val.getD {}), false⟩, fmt := 18 } else lane f slot i
     let go (f : Firing) (_ : ℕ) (ls : List LaneV) : Firing := (f.deliver t ls).deliver u ls
     let full (f : Firing) (slot : ℕ) : Prop := (f.lanesAt slot .left).length = 16
     (∀ x : Instr × List Pos, x ∈ [(.recGet p t u k, [.left]), (.recSet p t u k, [.left, .right]), (.recDone p t u d, [.left]), (.recRej p t u d, [.left])] →
        PassesInElem x.1 p x.2 empty (fun f slot => f.lanesAt slot .left) go
        ∧ FiresInElem x.1 p x.2 (fun f slot => ¬ empty f slot ∧ ¬ header f slot) (fun f _ => f.faults 0x80))
     ∧ PassesInElem (.recGet p t u k) p [.left] header (fun f slot => all (fun _ => lane f slot k.toNat)) go
     ∧ PassesInElem (.recDone p t u d) p [.left] (fun f slot => header f slot ∧ full f slot)
         (fun f slot => all (head f slot (fun h => h.v ||| BitVec.ofNat 64 (2 ^ (24 + d.toNat))))) go
     ∧ PassesInElem (.recRej p t u d) p [.left] (fun f slot => header f slot ∧ full f slot)
         (fun f slot => all (head f slot (fun h => h.v ||| BitVec.ofNat 64 (2 ^ 11)))) go
     ∧ PassesInElem (.recSet p t u k) p [.left, .right] (fun f slot => header f slot ∧ full f slot ∧ k ≠ 0)
         (fun f slot => all (fun i => if i = k.toNat then f.lane slot .right i else head f slot (fun h => (mkHeader (hdrDone h) (h.v.toNat / 2 ^ 16)
           (max (hdrNval h) k.toNat) (hdrRej h) (h.v.toNat / 2 ^ 8)).v) i)) go
     ∧ (∀ v : Img, PassesInElem (.recSet p t u 0) p [.left, .right]
         (fun f slot => header f slot ∧ full f slot ∧ (f.lane slot .right 0).val = some v)
         (fun f slot => all (head f slot (fun h => (mkHeader (hdrDone h) (h.v.toNat / 2 ^ 16) (hdrNval h) (hdrRej h) (v.v.toNat % 8)).v))) go)
     ∧ PassesInElem (.recNew p t u k) p [.left] empty (fun f slot => f.lanesAt slot .left) go
     ∧ PassesInElem (.recNew p t u k) p [.left] (fun f slot => ¬ empty f slot)
         (fun f slot => all (fun i => if i = 0 then
             { val := some (mkHeader 0 (((f.inp 0).seg.map SegId.gen).getD 0) k.toNat false 0), rank := rankMax (f.lanesAt slot .left), fmt := 18 }
           else if i ≤ k.toNat then lane f slot i else { val := some {} })) go
     ∧ (∀ (done genl nval user : ℕ) (rej : Bool), done < 256 → genl < 256 → nval < 16 → user < 8 →
         (let h := mkHeader done genl nval rej user
          isHeader h ∧ h.s = false ∧ hdrDone h = done ∧ h.v.toNat / 2 ^ 16 % 256 = genl ∧ hdrNval h = nval ∧ hdrRej h = rej
            ∧ h.v.toNat / 2 ^ 8 % 8 = user)))

/-- R314: a reduction. A lane folds its element into its partial; where the lane's rank reaches r it emits the partial and starts again,
otherwise it delivers an empty lane of rank 0. Integer sums are held in 48 bits, stay at a bound they meet, and saturate once when they leave. -/
def Obligations.Reductions : Prop :=
  ∀ (p : BitVec 2) (t u : BitVec 9) (y r : BitVec 2),
    (∀ x : Instr × ℕ, x ∈ [(.rsum p t u y r, 0), (.rmax p t u y r, 1), (.rmin p t u y r, 2)] →
      ∀ (s : State) (f : Firing) (slot : ℕ), ElemSlot s f slot → f.arrived slot p [.left] →
        ∃ (f' : Firing) (ls : List LaneV), exec x.1 s = .next { s with firing := some (f'.deliverAll [t, u] ls) }
          ∧ f'.fired = slot :: f.fired ∧ f'.ops = f.ops ∧ ls.length = 16 ∧ ∀ k < 16, ∀ ps, f.lets slot p k ps →
            (let at_ (g : Firing) : Partial := (g.partials.find? (fun q => q.slot == slot && q.lane == k)).getD
               (Partial.start slot k x.2 (y.toNat == 2))
             let new : Partial := match (f.lane slot .left k).val with
               | some v => (at_ f).fold x.2 y.toNat v
               | none => at_ f
             (r.toNat ≤ (f.lane slot .left k).rank →
               (at_ f').any = false ∧ (at_ f').wf = wfStart x.2 ∧ (at_ f').s = false
               ∧ (ls.getD k {}).val = some ⟨(new.emit y.toNat).v, (new.emit y.toNat).s || ps⟩)
             ∧ ((f.lane slot .left k).rank < r.toNat → at_ f' = new ∧ ls.getD k {} = { val := none, rank := 0, fmt := if y = 0 then 16 else 13 })))
    ∧ (∀ (q : Partial) (a : Img),
        (q.fold 0 0 a).wf = (wfAdd q.wf a).img ∧ (q.fold 1 0 a).wf = (wfMax q.wf a).img ∧ (q.fold 2 0 a).wf = (wfMin q.wf a).img
        ∧ (∀ v : Bool, (let x : ℤ := if v then (a.at 32).toNat else (a.at 32).toInt
           let type : ℕ := if v then 2 else 1
           (q.clamped = false → (q.fold 0 type a).sum = nearest v 48 (q.sum + x)
             ∧ (q.fold 0 type a).clamped = decide (nearest v 48 (q.sum + x) ≠ q.sum + x)
             ∧ (q.fold 0 type a).s = (q.s || a.s || decide (nearest v 48 (q.sum + x) ≠ q.sum + x)))
           ∧ (q.clamped → (q.fold 0 type a).sum = q.sum ∧ (q.fold 0 type a).s = (q.s || a.s))
           ∧ (q.fold 1 type a).sum = max q.sum x ∧ (q.fold 2 type a).sum = min q.sum x
           ∧ q.emit type = ⟨(BitVec.ofInt 32 (nearest v 32 q.sum)).setWidth 64, q.s || decide (nearest v 32 q.sum ≠ q.sum)⟩)))

/-- R316, R325: STEER sends each lane, or a whole record, to the arm its predicate names; GUESS records the first guess of a segment that belongs
to a lane, and nothing otherwise. -/
def Obligations.SteerAndGuess : Prop :=
  (∀ (p : BitVec 2) (t u : BitVec 9) (o : BitVec 1) (q : BitVec 2),
    PassesInElem (.steer p t u o q) p [.left, .right] (fun _ _ => True) (fun f slot => f.lanesAt slot .left) (fun f slot ls =>
      let r := steerLanes (f.recAt 32 slot .left && ((ls.getD 0 {}).val.any isHeader)) ls (f.lanesAt slot .right)
      let g := (f.deliver t (r.map (fun e => e.1))).deliver u (r.map (fun e => e.2.1))
      if o = 0 then g
      else match outBeat (g.outp q.toNat) (r.map (fun e => ({ val := e.2.2.map (fun v => ⟨if v then 1 else 0, false⟩) } : LaneV))) with
        | some b => g.place q.toNat b
        | none => g.faults 0x80))
  ∧ (∀ (a b : List LaneV) (i : ℕ), i < 16 →
      (let l := a.getD i {}
       let w := b.getD i {}
       let r := (steerLanes false a b).getD i ({}, {}, none)
       r.1.rank = max l.rank w.rank ∧ r.2.1.rank = max l.rank w.rank
       ∧ (l.val = none ∨ w.val = none → r.1.val = none ∧ r.2.1.val = none ∧ r.2.2 = none)
       ∧ (∀ v x, l.val = some v → w.val = some x → l.fmt ≠ 18 →
           (x.v.getLsbD 0 → r.1.val = some ⟨v.v, v.s || x.s⟩ ∧ r.2.1.val = none ∧ r.2.2 = some true)
           ∧ (x.v.getLsbD 0 = false → r.1.val = none ∧ r.2.1.val = some ⟨v.v, v.s || x.s⟩ ∧ r.2.2 = some false))))
  ∧ (∀ p : BitVec 2,
      (let lane (f : Firing) (slot : ℕ) : Option (Img × Img × Img) :=
         guessLane (f.lanesAt slot .left) (f.lanesAt slot .right) (f.lanesAt slot .third) (elemCtxOf f slot p).p
       (∀ (k : ℕ) (g : SegId) (tok conf pos : Img),
         FiresInElem (.guess p) p [.left, .right, .third] (fun f slot => f.guessPt = some k ∧ (f.inp 0).seg = some g ∧ g.nolane = false
             ∧ f.guessed = false ∧ lane f slot = some (tok, conf, pos))
           (fun f _ => { f with guessed := true, guess := some { gpix := k, lane := g.lane, pos := pos.v.toNat % 2 ^ 32, gen := g.gen,
                                                                 tok := tok.v.toNat % 2 ^ 32, conf := conf } }))
       ∧ FiresInElem (.guess p) p [.left, .right, .third] (fun f slot => f.guessPt = none ∨ (f.inp 0).seg = none ∨ f.guessed
           ∨ ((f.inp 0).seg.map SegId.nolane = some true) ∨ lane f slot = none) (fun f _ => f)))

/-- R300 to R306: the SD instructions take one step of each strand's state. -/
def Obligations.SignedDigitInstructions : Prop :=
  ∀ (p : BitVec 2) (t u : BitVec 9) (c : BitVec 3),
    StepsSd (.sdadd p t u) p [t, u] [.left, .right] (fun x i st a b =>
      sdOnline x i st a b (max (x.f.sdInfo 32 x.slot .left).e (x.f.sdInfo 32 x.slot .right).e + 1) 2 sdAddTarget)
    ∧ StepsSd (.sdmul p t u) p [t, u] [.left, .right] (fun x i st a b =>
      sdOnline x i st a b ((x.f.sdInfo 32 x.slot .left).e + (x.f.sdInfo 32 x.slot .right).e) 3 sdMulTarget)
    ∧ StepsSd (.sdcvt p t u) p [t, u] [.left, .right] (fun x _ st a _ => sdConvert x st a)
    ∧ StepsSd (.sdcut p t u) p [t, u] [.left, .right] (fun x _ st a b => sdCutLane x st a b)
    ∧ StepsSd (.sdcmp p t u c) p [t, u] [.left, .right] (fun x _ st a b => sdCompare x c st a b)
    ∧ StepsSd (.sdtowf p t u) p [t, u] [.left] (fun x _ st a _ => sdToWf x st a)

/-- R163, R164, R302, R303, R306: the online selection of SDADD and SDMUL delivers digits whose value differs from the target by less than
2^−n; SDCVT delivers the truncated digits of a working float; SDTOWF narrows the exact value by truncation; an element holds its digits. -/
def Obligations.SignedDigitValues : Prop :=
  (∀ (da db : List ℤ) (ea eb : ℤ) (n : ℕ), isDigits da → isDigits db → 1 ≤ n →
    (let e := max ea eb + 1
     let ds := sdSelect (fun k => (sdAddTarget da db ea eb k).scale (-e)) 2 n n 1 ⟨0, 0⟩
     let target : ℚ := if eb ≤ ea then sdVal da ea n + sdVal db eb (n - e + 1 + eb).toNat else sdVal db eb n + sdVal da ea (n - e + 1 + ea).toNat
     ds.length = n ∧ isDigits ds ∧ |target - sdVal ds e n| < 2 ^ (e - n))
    ∧ (let e := ea + eb
       let ds := sdSelect (fun k => (sdMulTarget da db ea eb k).scale (-e)) 3 n n 1 ⟨0, 0⟩
       ds.length = n ∧ isDigits ds ∧ |sdVal da ea n * sdVal db eb n - sdVal ds e n| < 2 ^ (e - n)))
  ∧ (∀ (a : Img) (e : ℤ) (n : ℕ), 1 ≤ n →
    (let ds := (sdOfWf a e n).1
     ds.length = n ∧ isDigits ds
     ∧ (a.wf.finite → |a.wf.rat| < 2 ^ e → |sdVal ds e n| ≤ |a.wf.rat| ∧ |a.wf.rat - sdVal ds e n| < 2 ^ (e - n)
         ∧ (sdOfWf a e n).2 = (a.s || decide (sdVal ds e n ≠ a.wf.rat)))
     ∧ (a.wf.finite → 2 ^ e ≤ |a.wf.rat| → (∀ d ∈ ds, d = if a.wf.rat < 0 then -1 else 1) ∧ (sdOfWf a e n).2 = true)
     ∧ (a.wf = .nan → (∀ d ∈ ds, d = 0) ∧ (sdOfWf a e n).2 = true)))
  ∧ (∀ (ds : List ℤ) (e : ℤ) (n : ℕ) (s : Bool), sdVal ds e n ≠ 0 → Truncates (sdVal ds e n) s (truncDy (sdValue ds e n) false s))
  ∧ (∀ (ds : List ℤ) (s : Bool), isDigits ds → ds.length = 16 → sdDigits (sdElem ds s) = ds ∧ sdBad (sdElem ds s) = false ∧ (sdElem ds s).s = s)

/-! ### Firing in general -/

/-- R250, R251, R255: a result goes to the position its target names; target 0x1FF is none; a second value at a position of a C-block is
ILLEGAL_INSN with the word of the receiving slot, in an element EB_CONFLICT. The first fault stands (R197, R201). -/
def Obligations.ResultsDelivered : Prop :=
  (∀ (b : Block) (t : BitVec 9) (v : Img),
    (let slot := t.toNat % 128
     let pos := Pos.ofCode (t.extractLsb' 7 2)
     (t = 0x1FF → b.deliver t v = b)
     ∧ (t ≠ 0x1FF → b.operand slot pos = none →
         (b.deliver t v).operand slot pos = some v
         ∧ (∀ j q, (j, q) ≠ (slot, pos) → (b.deliver t v).operand j q = b.operand j q)
         ∧ b.deliver t v = { b with ops := (b.deliver t v).ops })
     ∧ (t ≠ 0x1FF → b.operand slot pos ≠ none → b.deliver t v = b.fail 1 ((b.words.getD slot 0).setWidth 64) 0)))
  ∧ (∀ (b : Block) (code : ℕ) (val : DWord) (l : ℕ),
      (b.fault = none → b.fail code val l = { b with fault := some { code := code, val := val, lsid := l } })
      ∧ (b.fault ≠ none → b.fail code val l = b))
  ∧ (∀ (f : Firing) (t : BitVec 9) (ls : List LaneV),
    (let slot := t.toNat % 128
     let pos := Pos.ofCode (t.extractLsb' 7 2)
     (t = 0x1FF → f.deliver t ls = f)
     ∧ (t ≠ 0x1FF → f.operand slot pos = none →
         (f.deliver t ls).operand slot pos = some ls
         ∧ (∀ j q, (j, q) ≠ (slot, pos) → (f.deliver t ls).operand j q = f.operand j q)
         ∧ f.deliver t ls = { f with ops := (f.deliver t ls).ops })
     ∧ (t ≠ 0x1FF → f.operand slot pos ≠ none → f.deliver t ls = f.faults 0x92)))

/-- R247, R256, for every instruction word: it waits while an operand position it uses, or its predicate, holds no value; a predicate that does
not match nulls it. -/
def Obligations.FiringWaitsAndNulls : Prop :=
  ∀ (i : Instr) (s : State) (c : CoreRef) (bi slot : ℕ) (b : Block), isEvent i = false → CoreSlot s c bi slot b →
    ((∃ q < 4, usesPos i q ∧ b.operand slot (Pos.ofCode (BitVec.ofNat 2 q)) = none) → exec i s = .next s)
    ∧ (∀ v : Img, (∀ q < 4, usesPos i q → b.operand slot (Pos.ofCode (BitVec.ofNat 2 q)) ≠ none) → i.pred ≠ 0 →
        b.operand slot .pred = some v → v.v.getLsbD 0 ≠ (i.pred == 1) →
        exec i s = .next (s.putBlock c bi { b with nulled := slot :: b.nulled }))

/-- R247, R248, R249, R333, the frame of every instruction word: what a firing changes is its page core's blocks in flight and the data on its way
to them, or the element's firing; a read may be deferred at its bank, ask a host for its memory, and meet an error of the memory's code. Every
register, control, trap and accumulator register, tile and queue of every page core, every byte of memory and every presence bit is as before; only
an uncorrectable error that a read meets while its block commits sets the deferred fault or ends the launch (R199, R200). -/
def Obligations.WordFrame : Prop :=
  ∀ (i : Instr) (s t : State), isEvent i = false → exec i s = .next t →
    (∀ a, (∀ n b, regionOf a ≠ .host n b) → t.physByte a = s.physByte a)
    ∧ t = { s with cores := t.cores, firing := t.firing, deferred := t.deferred, fresh := t.fresh, ecc := t.ecc, dies := t.dies, arrivals := t.arrivals,
                   outbox := t.outbox, ports := t.ports, launches := t.launches }
    ∧ s.outbox <+: t.outbox
    ∧ (s.ecc = [] → t.ecc = [] ∧ t.dies = s.dies ∧ t.launches = s.launches ∧ ∀ c, (t.core c).deferred = (s.core c).deferred)
    ∧ (∀ c, t.core c = { s.core c with blocks := (t.core c).blocks, responses := (t.core c).responses, deferred := (t.core c).deferred })
    ∧ (∀ c bi slot, s.focus = .core c bi slot → t.firing = s.firing ∧ (∀ d, d ≠ c → t.core d = s.core d)
        ∧ (t.core c).blocks.length = (s.core c).blocks.length)
    ∧ (∀ slot, s.focus = .elem slot → t = { s with firing := t.firing })

/-! ### Blocks -/

/-- R20, R243, R244, R246, R247, R258: BLOCK_BEGIN and LOAD_RESPONSE complete. A page core begins the block that its last exit, or the machine, has
named, while fewer than four are in flight and the code bytes are there; the block takes RMODE, SEQ, GEN and the group numbers as they stand; a decode
fault is recorded as ILLEGAL_INSN and a fault of the fetch as what it is. The data of a load that its core accepts is delivered to its slot's targets; it
waits where a die clock has stopped or a stalled response stands before it. -/
def Obligations.BlocksBegin : Prop :=
  (∀ (s : State) (c : CoreRef) (a h : ℕ) (ws : List Word),
    s.runs c.lid c.pset → s.isCut c.lid c.pset = false → (s.core c).blocks.length < 4 → (s.core c).beginAt = some a → fetchBlock s c a = .got h ws →
    (hdrSer h → hdrKind h = 1 → (s.core c).blocks = []) →
    ∃ (t : State) (b : Block), exec (.blockBegin c) s = .next t ∧ t = { s.fetchMeet c a ws.length with cores := t.cores }
      ∧ (∀ d, d ≠ c → t.core d = s.core d)
      ∧ t.core c = { s.core c with blocks := (s.core c).blocks ++ [b], uid := (s.core c).uid + 1, nextAddr := none }
      ∧ b.addr = a ∧ b.words = ws ∧ b.ops = [] ∧ b.fired = [] ∧ b.nulled = [] ∧ b.done = [] ∧ b.phase = 0
      ∧ b.rmode = (s.core c).rmode ∧ b.seqReg = (s.core c).seqReg ∧ b.genReg = (s.core c).genReg
      ∧ b.gidx = BitVec.ofNat 64 (gidxOf s c) ∧ b.gcount = BitVec.ofNat 64 (gcountOf s c.lid)
      ∧ b.wmask = BitVec.ofNat 32 (h / 2 ^ 16) ∧ b.nstore = h / 2 ^ 48 % 256 ∧ b.nexit = h / 2 ^ 56 % 256 ∧ b.ser = hdrSer h
      ∧ (decodeFault h ws = none → b.fault = none) ∧ (∀ v, decodeFault h ws = some v → b.fault = some { code := 1, val := v }))
  ∧ (∀ (s : State) (c : CoreRef) (a code va : ℕ),
    s.runs c.lid c.pset → s.isCut c.lid c.pset = false → (s.core c).blocks.length < 4 → (s.core c).beginAt = some a →
    fetchBlock s c a = .bad code va →
    ∃ (t : State) (b : Block), exec (.blockBegin c) s = .next t ∧ (t.core c).blocks = (s.core c).blocks ++ [b] ∧ b.addr = a
      ∧ b.fault = some { code := code, val := BitVec.ofNat 64 va })
  ∧ (∀ (s : State) (c : CoreRef) (a : ℕ) (sp : Span), s.ecc = [] →
    spanOf s (.core c) (s.asidOf c.lid) a 16 { wr := false, rd := true, sup := (s.core c).priv } = .ok sp → (∀ r ∈ sp, ∀ n k, regionOf r.1.pa ≠ .host n k) →
    s.fetchMeet c a 0 = s)
  ∧ (∀ (s : State) (c : CoreRef) (uid slot : ℕ) (r : Response),
    (s.core c).responses.find? (fun r => r.uid == uid && r.slot == slot) = some r →
    (let home := s.dieOfPset c.lid c.pset
     ((s.die home).stopped = false → home ∉ (s.die r.die).stalls →
       exec (.loadResponse c uid slot) s = .next (s.setCore c { s.core c with
         responses := (s.core c).responses.erase r
         blocks := (s.core c).blocks.map (fun b => if b.uid = uid then b.result slot (loadImage r.kind r.bytes) else b) }))
     ∧ ((s.die home).stopped ∨ home ∈ (s.die r.die).stalls → exec (.loadResponse c uid slot) s = .next s)))

/-- R247 to R249, R150, R265: the commit of a block whose effects are its registers and its exit: named registers take the values set, those
passed on or not named keep theirs, FSTAT gathers the flags, and the next block is the one that the exit names. Nothing else changes. -/
def Obligations.BlocksCommit : Prop :=
  ∀ (s : State) (c : CoreRef) (b : Block) (rest : List Block),
    (s.core c).blocks = b :: rest → (s.core c).deferred = none → b.fault = none → b.phase = 0 → b.nstore = 0 →
    (∀ d ∈ b.done, d.slot < b.words.length ∧ ((∃ k x, d.act = .setr k x) ∨ (∃ k, d.act = .nullr k) ∨ ∃ e, d.act = .exit e)) →
    s.runs c.lid c.pset → s.isCut c.lid c.pset = false → s.replayOf c.lid = none → s.mayCommit c b → b.holds [] →
    ∃ t, exec (.blockCommit c) s = .next t ∧ t = { s with cores := t.cores } ∧ (∀ d, d ≠ c → t.core d = s.core d)
      ∧ (let p := s.core c
         let q := t.core c
         q = { p with g := q.g, fstat := p.fstat ||| b.flags.bits, blocks := rest, opSeq := p.opSeq + 32, noProgress := 0,
                      nextAddr := if rest = [] then b.exitTo else p.nextAddr, fences := q.fences, holds := q.holds }
         ∧ ∀ k < 32,
             (∀ x, (∃ d ∈ b.done, d.act = .setr k x) → (∀ d ∈ b.done, d.act.named = some k → d.act = .setr k x) → q.reg k = x)
             ∧ ((∀ d ∈ b.done, ∀ x, d.act ≠ .setr k x) → q.reg k = p.reg k))

/-- R149, R150, R198, R266, R269: what SETC writes at commit. RMODE keeps its mode where the value names mode 6 or 7, FSTAT clears the flags written
with one, SSTAT takes TIP and PPRIV and keeps PRIV; every other register is as before. -/
def Obligations.ControlRegisterWrites : Prop :=
  ∀ (p : PageCore) (v : DWord),
    (v.toNat % 8 < 6 → p.writeControl 0x08 v = { p with rmode := v.setWidth 4 })
    ∧ (6 ≤ v.toNat % 8 → p.writeControl 0x08 v = { p with rmode := v.extractLsb' 3 1 ++ p.rmode.extractLsb' 0 3 })
    ∧ p.writeControl 0x09 v = { p with fstat := p.fstat &&& ~~~ v.setWidth 6 }
    ∧ p.writeControl 0x20 v = { p with seqReg := v } ∧ p.writeControl 0x21 v = { p with genReg := v }
    ∧ p.writeControl 0x22 v = { p with posReg := v } ∧ p.writeControl 0x38 v = { p with tvec := v }
    ∧ p.writeControl 0x39 v = { p with tcause := v } ∧ p.writeControl 0x3A v = { p with tval := v }
    ∧ p.writeControl 0x3B v = { p with epc := v } ∧ p.writeControl 0x40 v = { p with ckpta := v }
    ∧ p.writeControl 0x48 v = { p with lseed := v }
    ∧ p.writeControl 0x3C v = { p with sstat := (v &&& 12) ||| (if p.sstat.getLsbD 1 then 2 else 0) }
    ∧ (∀ b : Block, p.visible b (.setc 0x09 v) = p.writeControl 0x09 v)

/-- R197 to R199, R371, R372: taking an exception and returning from one. A fault of the oldest block saves its header address in EPC, its cause
and LSID in TCAUSE, its value in TVAL, and PRIV in PPRIV, sets TIP and PRIV, and goes to TVEC, every block in flight discarded; with no
handler, or inside one, the launch ends with 0x22 and the cause. ERET restores PRIV, clears TIP and goes to EPC; a held commit trap is taken then. -/
def Obligations.TrapsAndReturns : Prop :=
  (∀ (s : State) (c : CoreRef) (b : Block) (rest : List Block) (code lsid : ℕ) (val : DWord) (flags : DWord),
    (let p := s.core c
     p.blocks = b :: rest → b.phase = 0 → s.runs c.lid c.pset → s.isCut c.lid c.pset = false → s.chunkDue c →
     ((p.deferred = none ∧ b.fault = some { code := code, val := val, lsid := lsid } ∧ flags = 0)
       ∨ ∃ d, p.deferred = some d ∧ code = d.code ∧ val = BitVec.ofNat 64 d.va ∧ lsid = d.lsid ∧ flags = if d.more then 0xC0000000 else 0x40000000) →
     ∃ t, exec (.blockCommit c) s = .next t ∧ t.mem = s.mem ∧ t.side = s.side ∧ (∀ d, d ≠ c → t.core d = s.core d)
       ∧ (p.tvec ≠ 0 ∧ p.sstat.getLsbD 3 = false →
           t.core c = { p with blocks := [], responses := [], deferred := none, epc := BitVec.ofNat 64 b.addr,
                               tcause := flags + BitVec.ofNat 64 (lsid % 32 * 2 ^ 16 + code % 2 ^ 16), tval := val,
                               sstat := if p.sstat.getLsbD 1 then 14 else 10, nextAddr := some p.tvec.toNat }
           ∧ t.launches = s.launches)
       ∧ (p.tvec = 0 ∨ p.sstat.getLsbD 3 →
           t.core c = { p with blocks := [], responses := [], deferred := none, nextAddr := none }
           ∧ ∃ l e, t.launch c.lid = some l ∧ l.ending = some e ∧ e.status = 0x22 ∧ e.detail = code)))
  ∧ (∀ (s : State) (c : CoreRef),
    (let p := s.core c
     let q := (eretCore s c).core c
     (p.heldTrap = none → q = { p with sstat := if p.sstat.getLsbD 2 then 6 else 0, nextAddr := some p.epc.toNat })
     ∧ (∀ code v, p.heldTrap = some (code, v) → p.tvec ≠ 0 →
         q = { p with heldTrap := none, blocks := [], responses := [], tcause := BitVec.ofNat 64 (code % 2 ^ 16), tval := v,
                      sstat := if p.sstat.getLsbD 2 then 14 else 10, nextAddr := some p.tvec.toNat })))
  ∧ (∀ (s : State) (c : CoreRef) (epc code : ℕ) (v : DWord),
    (let p := s.core c
     p.deferred = none → p.tvec ≠ 0 → p.sstat.getLsbD 3 = false →
     (s.commitTrap c epc code v).core c = { p with blocks := [], responses := [], epc := BitVec.ofNat 64 epc,
                                                   tcause := BitVec.ofNat 64 (code % 2 ^ 16), tval := v,
                                                   sstat := if p.sstat.getLsbD 1 then 14 else 10, nextAddr := some p.tvec.toNat }))
  ∧ (∀ (s : State) (c : CoreRef) (code va lsid : ℕ), code = 7 ∨ code = 8 ∨ code = 0x0C → s.place c.lid c.pset ≠ none →
    (let p := s.core c
     ∃ t, exec (.deferredFault c code va lsid) s = .next t
       ∧ (p.sstat.getLsbD 3 = false → p.deferred = none →
           t = s.setCore c { p with deferred := some { code := code, va := va, lsid := lsid } })
       ∧ (∀ d, p.sstat.getLsbD 3 = false → p.deferred = some d → t = s.setCore c { p with deferred := some { d with more := true } })
       ∧ (∀ l, p.sstat.getLsbD 3 → s.launch c.lid = some l → l.ending = none →
           ∃ l' e, t.launch c.lid = some l' ∧ l'.ending = some e ∧ e.status = 0x22 ∧ e.detail = code)))

/-- R43, R193, R243, R335, R337: a posted store on an MU page that reaches its bank gives exactly its bytes to memory, at the physical address it
was checked with, and is posted no more. -/
def Obligations.StoresReachMemory : Prop :=
  ∀ (s : State) (c : CoreRef) (seq : ℕ) (q : Posted) (x : Xlat) (bs : List Byte) (gen : ℕ),
    s.postedAt c seq = some q → q.kind = .store [(x, bs.length)] bs gen → s.postedFree c q → x.attr = 0 → s.eccBad (spanPas [(x, bs.length)]) = false →
    s.deferred = [] → (∃ d, regionOf x.pa ∈ [.active d, .staging d, .bulk d, .scratch d]) →
    (∀ i < bs.length, regionOf (x.pa + i) = regionOf x.pa) →
    ∃ t, exec (.bankAccess (.core c seq)) s = .next t
      ∧ (∀ a, t.physByte a = if x.pa ≤ a ∧ a < x.pa + bs.length then bs.getD (a - x.pa) 0 else s.physByte a)
      ∧ t = { s with mem := t.mem, older := t.older, cores := t.cores }
      ∧ t.core c = { s.core c with posted := (s.core c).posted.filter (fun r => r.seq ≠ q.seq) } ∧ (∀ d, d ≠ c → t.core d = s.core d)

/-! ### Events of the package, of hosts and of the fabric -/

/-- R18, R20 to R26, R33, R46: power, supply, clocks, buckets and stalled links. Power-on reports what was latched and boots the firmware that
verifies under the fused key, with its sealing keys; a supply out of range puts a running package in reset with its state lost; a trip removes power
without a dump; the power controller keeps every bucket within its ranges (REFILL 0 only on a closed port, LEVEL within DEPTH) and every clock at 50%
to 100%; a port that no page core's source port is gains its REFILL in a local cycle; one that is injects the beat that waits, for one token; a
stalled link is reported with its oldest waiting request, and that response is delivered when the stall is over. The limit set at boot is a free
number in its range (log 6). -/
def Obligations.PowerAndClocks : Prop :=
  (∀ s : State, s.powered = false ∨ s.inReset → s.supplyOk →
    Boots .powerOn s { s with powered := true, latched := [], outbox := s.outbox ++ s.latched.map (fun c => Sent.report 3 c 0 0) })
  ∧ (∀ s : State, s.powered = false ∨ s.inReset → s.supplyOk = false →
    exec .powerOn s = .next { s with powered := true, latched := [1], outbox := s.outbox ++ s.latched.map (fun c => Sent.report 3 c 0 0) })
  ∧ (∀ s : State, s.powered → s.inReset = false →
    ∃ t, exec .supplyOutOfRange s = .next t ∧ t.powered ∧ t.inReset ∧ t.booted = false ∧ t.supplyOk = false ∧ t.latched = s.latched ++ [1]
      ∧ t.outbox = s.outbox ∧ t.mem = [] ∧ t.side = [] ∧ t.launches = [] ∧ t.cores = [] ∧ t.chans = [])
  ∧ (∀ s : State, s.powered = false ∨ s.inReset → exec .supplyOutOfRange s = .next { s with supplyOk := false })
  ∧ (∀ s : State, s.powered → s.inReset →
    Boots .supplyInRange s { s with supplyOk := true })
  ∧ (∀ s : State, s.powered = false ∨ s.inReset = false → exec .supplyInRange s = .next { s with supplyOk := true })
  ∧ (∀ s : State, s.powered →
    ∃ t, exec .thermalTrip s = .next t ∧ t.powered = false ∧ t.booted = false ∧ t.latched = s.latched ++ [2] ∧ t.outbox = s.outbox ∧ t.mem = []
      ∧ t.dump = none ∧ t.launches = [] ∧ t.cores = [] ∧ t.chans = [])
  ∧ (∀ s : State, s.live → ∃ t, exec .powerControllerEvaluation s = .next t ∧ t = { s with buckets := t.buckets, dies := t.dies, fresh := t.fresh }
      ∧ (∀ d < 8, ∀ i < 2848, s.portBuilt d i →
          1 ≤ (t.bucket d i).depth ∧ (t.bucket d i).depth ≤ 65535 ∧ (t.bucket d i).level ≤ (t.bucket d i).depth
            ∧ (t.bucket d i).level ≤ (s.bucket d i).level ∧ (t.bucket d i).refill ≤ 1024 ∧ ((t.bucket d i).en → 1 ≤ (t.bucket d i).refill))
      ∧ ∀ d < 17, 50 ≤ (t.die d).percent ∧ (t.die d).percent ≤ 100 ∧ t.die d = { s.die d with percent := (t.die d).percent })
  ∧ (∀ s : State, s.live → ∃ t, exec .supplyDroop s = .next t ∧ t = { s with dies := t.dies, fresh := t.fresh }
      ∧ ∀ d < 17, 50 ≤ (t.die d).percent ∧ (t.die d).percent ≤ 100 ∧ t.die d = { s.die d with percent := (t.die d).percent })
  ∧ (∀ (s : State) (d : ℕ), s.live → s.debugHalt d ∨ s.dieIdle d →
    exec (.dieClockStop d) s = .next (s.updDie d (fun x => { x with stopped := true })))
  ∧ (∀ (s : State) (d : ℕ), exec (.dieClockRestart d) s = .next (s.updDie d (fun x => { x with stopped := false })))
  ∧ (∀ (s : State) (d i : ℕ), s.corePort d i = none → ∃ b, exec (.bucketRefill d i) s = .next (s.setBucket d i b)
      ∧ (let o := s.bucket d i
         b.en = o.en ∧ b.refill = o.refill ∧ b.depth = o.depth
           ∧ b.level * 1024 + b.frac = min (o.depth * 1024) (o.level * 1024 + o.frac + o.refill)
           ∧ (o.depth * 1024 > o.level * 1024 + o.frac + o.refill → b.frac < 1024)))
  ∧ (∀ (s : State) (d i : ℕ) (c : CoreRef) (n : ℕ) (b : Beat) (rest : List Beat) (h : Chan) (k : ℕ), s.corePort d i = some (c, n) → s.portOf c n = (d, i) →
    n < 32 → (s.core c).srcQ n = b :: rest → hkind b ≠ 3 → s.viLink c n = some h → s.chanNo h.lid h.num = some k → (s.chanAt k).marked = false →
    s.room k 1 (s.chanAt k).ctx → s.runs c.lid c.pset → cellWfFrom {} 0 s.buckets → (s.bucket d i).en → 1 ≤ (s.bucket d i).gain.level →
    ∃ (s' : State) (j : ℕ), exec (.bucketRefill d i) s = .next (s'.push k b (s.chanAt k).ctx j) ∧ (s'.core c).srcQ n = rest
      ∧ (s'.bucket d i).level = (s.bucket d i).gain.level - 1 ∧ s' = { s with buckets := s'.buckets, cores := s'.cores })
  ∧ (∀ s : State, exec .roceRateRecovery s = .next { s with qpairs := s.qpairs.map (fun q => { q with rate := min (2 ^ 20) (q.rate + 2 ^ 20 / 16) }) })
  ∧ (∀ (s : State) (d : ℕ), (s.die d).timedOut ≠ 0 →
    exec (.lateResponse d) s = .next (s.updDie d (fun x => { x with timedOut := x.timedOut - 1, late := x.late + 1 })))
  ∧ (∀ (s : State) (d l : ℕ),
    (s.oldestWaiting d l = none → exec (.linkStall d l) s = .next s
      ∧ ∀ e ∈ s.cores, s.coreDie e.1 = l → ∀ r ∈ e.2.responses, r.die ≠ d)
    ∧ (∀ c r, s.oldestWaiting d l = some (c, r) →
      (∃ p, (c, p) ∈ s.cores ∧ r ∈ p.responses) ∧ r.die = d ∧ s.coreDie c = l
      ∧ (∀ e ∈ s.cores, s.coreDie e.1 = l → ∀ q ∈ e.2.responses, q.die = d → r.stamp ≤ q.stamp)
      ∧ (l ∉ (s.die d).stalls → exec (.linkStall d l) s = .next
          { s.updDie d (fun x => { x with stalls := x.stalls ++ [l] }) with outbox := s.outbox ++ [.report 6 d l r.va] })))
  ∧ (∀ (s : State) (d l : ℕ), l ∈ (s.die d).stalls →
    (let u : State := { s.updDie d (fun x => { x with stalls := x.stalls.filter (fun k => k ≠ l) }) with outbox := s.outbox ++ [.report 7 d l 0] }
     ((s.die l).stopped → exec (.linkStallCleared d l) s = .next s)
     ∧ ((s.die l).stopped = false → u.oldestWaiting d l = none → exec (.linkStallCleared d l) s = .next u)
     ∧ (∀ c r, (s.die l).stopped = false → u.oldestWaiting d l = some (c, r) →
         exec (.linkStallCleared d l) s = exec (.loadResponse c r.uid r.slot) u)))

/-- R28 to R34: the Volop ports and RoCE. Training takes the highest version of both ranges, or reports the mismatch; a flit that is whole and in
order is delivered by its type and virtual channel, once, and one that is not is discarded, with NAK of the last good SEQ (none for one merely out of
order while others are being discarded); a flit that is sent takes the next SEQ, is whole, carries its payload and stays in the replay buffer of 512;
a NAK resends what follows it; 16 retransmissions of one flit ask for a retrain and the third failure disables the port; a frame over 9,216 bytes or
with a bad ICRC is dropped, a paused priority waits, another transport or queue pair is counted, and each operation is answered, read data in packets
of the path MTU; that a read whose data would leave by a sealed sink is refused so is a reading of R49 (log 59), and what NAKs a malformed request is
log 90's. -/
def Obligations.PortsAndPackets : Prop :=
  (∀ (s : State) (port node lmin lmax hmin hmax : ℕ), s.live → port < 18 → (s.port port).up = false → (s.port port).disabled = false →
    (∀ v, max lmin 1 ≤ v → v = min lmax 2 →
      exec (.linkTraining port node lmin lmax hmin hmax) s = .next (s.updPort port (fun p => { p with
        node := node, up := true, mismatch := false, linkVer := v, hostVer := if max hmin 1 ≤ min hmax 3 then min hmax 3 else 0 })))
    ∧ (min lmax 2 < max lmin 1 →
      exec (.linkTraining port node lmin lmax hmin hmax) s = .next
        { s.updPort port (fun p => { p with node := node, mismatch := true }) with outbox := s.outbox ++ [.report 4 port 0 0] }))
  ∧ (∀ (s : State) (port : ℕ) (f : List Byte), (s.port port).up → (s.die (portDie port)).stopped = false →
    (let h := flitHead f
     let payload := (f.drop 12).take h.len
     let bad := flitWhole f = false ∨ h.seq ≠ (s.port port).recvSeq
     let took := s.updPort port (fun p => { p with recvSeq := (p.recvSeq + 1) % 2 ^ 12, discarding := false })
     let met := (took.credits port).remoteCredits port
     (bad → (s.port port).discarding → flitWhole f → exec (.flitReceive port f) s = .next s)
     ∧ (bad → (s.port port).discarding = false ∨ flitWhole f = false →
         exec (.flitReceive port f) s = .next ((s.updPort port (fun p => { p with discarding := true })).putFlit port h.src 0 0 true []))
     ∧ (¬ bad → h.nak = false →
         (5 ≤ h.vc → exec (.flitReceive port f) s = .next (met.updPort port (fun p => { p with discards := p.discards + 1 })))
         ∧ (h.vc < 5 → h.vc ≠ 3 → h.type = 1 →
             (∀ i, msgEvent (flitCode f) (flitMsg port f) = some i →
               exec (.flitReceive port f) s = .next { met with agenda := .event i :: met.agenda })
             ∧ (msgEvent (flitCode f) (flitMsg port f) = none →
               exec (.flitReceive port f) s = .next (met.result (flitMsg port f) (if (met.port port).hostVer = 0 then 7 else 6) 0 0)))
         ∧ (h.vc = 3 → h.type = 2 → exec (.flitReceive port f) s = .next (met.remoteIn h.src payload))
         ∧ (h.vc = 3 → h.type ≠ 2 → exec (.flitReceive port f) s = .next (met.pipeIn h.src (Config.pipeMsg payload)))
         ∧ (h.vc = 2 → h.type = 3 → exec (.flitReceive port f) s = .next (met.memRequest port h.src (Config.memReq payload)))
         ∧ (h.vc = 2 → h.type = 4 → exec (.flitReceive port f) s = .next (met.acked h.src)))))
  ∧ (∀ (s : State) (port dst vc type : ℕ) (nak : Bool) (payload : List Byte), port < 18 → payload.length ≤ 240 → dst < 2 ^ 16 → vc < 8 → type < 16 →
    (s.port port).node < 2 ^ 16 → (s.port port).sendSeq < 2 ^ 12 →
    ∃ f, s.putFlit port dst vc type nak payload = { s.updPort port (fun p => { p with
          sendSeq := (p.sendSeq + 1) % 2 ^ 12, replay := (p.replay ++ [(p.sendSeq, f)]).drop (p.replay.length + 1 - 512) }) with
        outbox := s.outbox ++ [.flit port f] }
      ∧ flitWhole f ∧ (f.drop 12).take payload.length = payload
      ∧ flitHead f = { src := (s.port port).node, dst := dst, len := payload.length, nak := nak, ack := ((s.port port).recvSeq + 4095) % 4096,
                       seq := (s.port port).sendSeq, vc := vc, type := type, reserved := 0 })
  ∧ (∀ (s : State) (port : ℕ) (before after : List (ℕ × List Byte)) (q n : ℕ) (e f : List Byte), port < 18 → (s.port port).up →
    (s.port port).again < 16 → (s.port port).replay = before ++ (q, e) :: (n, f) :: after → (∀ x ∈ before, x.1 ≠ q) →
    exec (.flitNak port q) s = .next { s.updPort port (fun p => { p with again := if p.againSeq = n then p.again + 1 else 1, againSeq := n }) with
      outbox := s.outbox ++ ((n, f) :: after).map (fun x => .flit port x.2) })
  ∧ (∀ (s : State) (port : ℕ), 16 ≤ (s.port port).again → (s.port port).disabled = false →
    (∃ t, exec (.portRetrain port true) s = .next t ∧ (port < 18 → (t.port port).up = (s.port port).up ∧ (t.port port).retrains = 0 ∧ (t.port port).again ≤ 1))
    ∧ ((s.port port).retrains < 2 → exec (.portRetrain port false) s = .next (s.updPort port (fun p => { p with retrains := p.retrains + 1 })))
    ∧ (2 ≤ (s.port port).retrains → exec (.portRetrain port false) s = .next
        { s.updPort port (fun p => { p with retrains := 3, up := false, disabled := true }) with outbox := s.outbox ++ [.report 5 port 0 0] }))
  ∧ (∀ (s : State) (k : RocePacket), s.live → k.port < 8 → (s.die (ethDie k.port)).stopped = false →
    (9216 < k.frame → exec (.rocePacket k) s = .next s)
    ∧ (k.frame ≤ 9216 →
      (∀ prio on, k.pfc = some (prio, on) → exec (.rocePacket k) s = .next (s.pause k.port prio on))
      ∧ (k.pfc = none → k.icrcOk = false → exec (.rocePacket k) s = .next s)
      ∧ (k.pfc = none → k.icrcOk → k.rc = false ∨ 8192 ≤ k.qp → exec (.rocePacket k) s = .next { s with roceDrops := s.roceDrops + 1 })
      ∧ (k.pfc = none → k.icrcOk → k.rc → k.qp < 8192 →
        (let s1 : State := if k.ce then s.roceAnswer k 4 [] else s
         let q := s.qpair k.qp
         let imm : Option ℕ := if k.op = 1 ∨ k.op = 3 then some k.imm else none
         (k.op = 5 ∨ 6 < k.op ∨ q.mtu < k.data.length → exec (.rocePacket k) s = .next (s1.roceAnswer k 2 []))
         ∧ (k.data.length ≤ q.mtu →
           (k.op < 2 → exec (.rocePacket k) s = .next
             (({ s1 with roceRecv := s1.roceRecv ++ [(k.qp, imm, k.data)] } : State).roceAnswer k 0 []))
           ∧ (k.op = 6 → ∃ t, exec (.rocePacket k) s = .next t ∧ (t.qpair k.qp).rate = q.rate / 2 ∧ t = { s1 with qpairs := t.qpairs })
           ∧ (k.op = 4 → q.boundTo.isSome → exec (.rocePacket k) s = .next (s1.roceAnswer k 3 []))
           ∧ (k.op = 2 ∨ k.op = 3 ∨ k.op = 4 → s1.keySpan k (k.op ≠ 4) = none → exec (.rocePacket k) s = .next (s1.roceAnswer k 3 []))
           ∧ (∀ sp, k.op = 4 → q.boundTo = none → s1.keySpan k false = some sp →
               (s1.eccBad (spanPas sp) → exec (.rocePacket k) s = .next ((s1.eccMeet (spanPas sp)).roceAnswer k 3 []))
               ∧ (s1.eccBad (spanPas sp) = false → exec (.rocePacket k) s = .next
                   ((mtuCut q.mtu (k.len / q.mtu + 1) (readSpan s1 sp)).foldl (fun s bs => s.roceAnswer k 1 bs) (s1.eccMeet (spanPas sp)))))
           ∧ (∀ sp, k.op = 2 ∨ k.op = 3 → s1.keySpan k true = some sp →
               (s1.outerStore sp (k.data.take k.len) = none → exec (.rocePacket k) s = .next ((s1.eccMeet (spanPas sp)).roceAnswer k 3 []))
               ∧ (∀ t, s1.outerStore sp (k.data.take k.len) = some t → exec (.rocePacket k) s = .next
                   (({ t with roceRecv := t.roceRecv ++ if k.op = 3 then [(k.qp, imm, [])] else [] } : State).roceAnswer k 0 []))))))))
  ∧ (∀ (s : State) (k : RocePacket) (kind : ℕ) (bs : List Byte), k.port < 8 →
    (frameClass k ∈ (s.ethPort k.port).paused →
      s.roceAnswer k kind bs = s.updEth k.port (fun e => { e with waiting := e.waiting ++ [(frameClass k, .roceReply k.port k.qp kind bs)] }))
    ∧ (frameClass k ∉ (s.ethPort k.port).paused → s.roceAnswer k kind bs = { s with outbox := s.outbox ++ [.roceReply k.port k.qp kind bs] }))
  ∧ (∀ (s : State) (port prio : ℕ), port < 8 →
    (let kept := prio = Config.pfcPriority port 0 ∨ prio = Config.pfcPriority port 1
     (¬ kept → ∀ on, s.pause port prio on = s)
     ∧ (kept → s.pause port prio true = s.updEth port (fun e => { e with paused := prio :: e.paused.filter (fun q => q ≠ prio) })
         ∧ s.pause port prio false = { s.updEth port (fun e => { e with
               paused := e.paused.filter (fun q => q ≠ prio), waiting := e.waiting.filter (fun w => w.1 ≠ prio) }) with
             outbox := s.outbox ++ ((s.ethPort port).waiting.filter (fun w => w.1 = prio)).map (fun w => w.2) })))
  ∧ (∀ (mtu : ℕ) (bs : List Byte), 1 ≤ mtu →
    (mtuCut mtu (bs.length / mtu + 1) bs).flatten = bs ∧ ∀ p ∈ mtuCut mtu (bs.length / mtu + 1) bs, p.length ≤ mtu)

/-- R29, R34 to R37, R45, R47, R48, R215, R221, R222, R225, R226: messages of hosts. Before a message is taken: a port without a common version
answers each with BAD_VERSION; a short body or a nonzero reserved byte is answered with BAD_MESSAGE, another version with BAD_VERSION, another virtual
channel is discarded and counted. What a message that is taken does, and its one answer: page-table bases, what is held for a LID or of a die, the
dump, attestation, RESUME and KILL. An answer goes into the buffer and RESULT follows it; one that does not fit is not written. -/
def Obligations.HostMessages : Prop :=
  (∀ (s : State) (m : HostMsg) (i : Instr) (vc len : ℕ) (zeros : List (ℕ × ℕ)), isMessage m i vc len zeros →
    (s.live = false ∨ (s.port m.port).up = false → exec i s = .next s)
    ∧ (s.live → (s.port m.port).up → (s.port m.port).hostVer = 0 → exec i s = .next (s.result m 7 0 0))
    ∧ (s.live → (s.port m.port).up → (s.port m.port).hostVer ≠ 0 → layoutOk m len zeros = false → exec i s = .next (s.result m 6 0 0))
    ∧ (s.live → (s.port m.port).up → (s.port m.port).hostVer ≠ 0 → layoutOk m len zeros → m.pver ≠ (s.port m.port).hostVer →
        exec i s = .next (s.result m 7 0 0))
    ∧ (s.live → (s.port m.port).up → layoutOk m len zeros → (s.port m.port).hostVer ≠ 0 → m.pver = (s.port m.port).hostVer → m.vc ≠ vc →
        exec i s = .next (s.updPort m.port (fun p => { p with discards := p.discards + 1 }))))
  ∧ (∀ (s : State) (m : HostMsg), Heard s m 0 16 [(2, 6)] →
    (let asid := HostMsgField m 0 2
     let base := HostMsgField m 8 8
     (base = 0 → exec (.setPtbase m) s = .next { s.result m 0 0 0 with ptbase := s.ptbase.filter (fun e => e.1 ≠ asid) })
     ∧ (base ≠ 0 → base % 65536 = 0 → inStore base → ∃ t, exec (.setPtbase m) s = .next t ∧ t = { s.result m 0 0 0 with ptbase := t.ptbase }
         ∧ t.ptbaseOf asid = some base ∧ ∀ a, a ≠ asid → t.ptbaseOf a = s.ptbaseOf a)
     ∧ (base ≠ 0 → base % 65536 ≠ 0 ∨ inStore base = false → exec (.setPtbase m) s = .next (s.result m 9 0 0))))
  ∧ (∀ (s : State) (m : HostMsg), Heard s m 0 56 [(34, 6), (52, 4)] →
    (let report := s.attestReport (m.body.take 32)
     (s.takesAnswer m 32 report → exec (.attest m) s = .next (s.answered m 32 report 0))
     ∧ (HostMsgField m 48 4 < report.length → exec (.attest m) s = .next (s.result m 1 report.length 0))))
  ∧ (∀ (s : State) (m : HostMsg) (i : Instr) (lid : ℕ) (held : Option (List Byte)), Heard s m 0 32 [(4, 4), (10, 6), (28, 4)] →
    HostMsgField m 0 4 = lid → (i = .frostRead m ∧ held = kget lid s.frost) ∨ (i = .replayRead m ∧ held = s.logOf lid) →
    (held = none → exec i s = .next (s.result m 2 0 0))
    ∧ (∀ b, held = some b → s.takesAnswer m 8 b → exec i s = .next (s.reservedRead.answered m 8 b 0))
    ∧ (∀ b, held = some b → HostMsgField m 24 4 < b.length → exec i s = .next (s.reservedRead.result m 1 b.length 0)))
  ∧ (∀ s : State, (∀ e ∈ s.ecc, reservedMem (32 * e.1) → e.2.2 = false) → s.reservedRead = s)
  ∧ (∀ (s : State) (m : HostMsg) (lid : ℕ), Heard s m 0 32 [(4, 4), (10, 6), (28, 4)] → HostMsgField m 0 4 = lid →
    (kget lid s.samples = none → exec (.dbgSample m) s = .next (s.result m 2 0 0))
    ∧ (∀ es, kget lid s.samples = some es → s.takesAnswer m 8 es.flatten →
        exec (.dbgSample m) s = .next { s.reservedRead.answered m 8 es.flatten 0 with samples := kset lid [] s.samples })
    ∧ (∀ es, kget lid s.samples = some es → HostMsgField m 24 4 < es.flatten.length →
        exec (.dbgSample m) s = .next (s.reservedRead.result m 1 es.flatten.length 0)))
  ∧ (∀ (s : State) (m : HostMsg) (lid : ℕ), Heard s m 0 32 [(6, 2), (10, 6), (28, 4)] → HostMsgField m 0 4 = lid →
    (s.launch lid = none → exec (.dbgRead m) s = .next (s.result m 2 0 0))
    ∧ (∀ l, s.launch lid = some l → l.phase ≠ .stopped → l.phase ≠ .frozen → exec (.dbgRead m) s = .next (s.result m 5 0 0))
    ∧ (∀ l p, s.launch lid = some l → l.phase = .stopped ∨ l.phase = .frozen → (∀ q ∈ s.placed, q.lid = lid → (q.pset = HostMsgField m 4 2 ↔ q = p)) →
        p ∈ s.placed → p.lid = lid → s.placed.Nodup → HostMsgField m 4 2 ≠ 0xFFFF →
        (p.isSealed → exec (.dbgRead m) s = .next (({ s with sealRefusals := s.sealRefusals + 1 } : State).result m 3 0 0))
        ∧ (p.isSealed = false → (let image := imageBytes s p 1 true
             s.takesAnswer m 8 image → exec (.dbgRead m) s = .next ((s.useFree (s.imageFree p)).answered m 8 image 0)))))
  ∧ (∀ (s : State) (m : HostMsg) (lid : ℕ), Heard s m 0 4 [] → HostMsgField m 0 4 = lid →
    (s.launch lid = none → exec (.resume m) s = .next (s.result m 2 0 0) ∧ exec (.kill m) s = .next (s.result m 2 0 0))
    ∧ (∀ l, s.launch lid = some l → l.phase ≠ .stopped → l.phase ≠ .frozen → exec (.resume m) s = .next (s.result m 5 0 0))
    ∧ (∀ l, s.launch lid = some l → l.phase = .stopped ∨ l.phase = .frozen → (∀ g ∈ s.grafts, g.lid ≠ lid) →
        ∃ t, exec (.resume m) s = .next t ∧ t.launch lid = some { l with phase := .running } ∧ t.outbox = (s.result m 0 0 0).outbox
          ∧ ∀ p ∈ t.placed, p.lid = lid → p.quiesced = false)
    ∧ (∀ l, s.launch lid = some l → ∃ t, exec (.kill m) s = .next t ∧ t.outbox = (s.result m 0 0 0).outbox
        ∧ (l.ending = none → t.launch lid = some { l with ending := some { status := 0x23, detail := 0 } })
        ∧ ∀ p ∈ t.placed, p.lid = lid → p.quiesced))
  ∧ (∀ (s : State) (m : HostMsg) (b : List Byte), Heard s m 0 88 [(6, 2)] →
    s.hostRead (HostMsgField m 4 2) (HostMsgField m 8 8) (HostMsgField m 16 8) = some b → Config.sha3 b = (m.body.drop 24).take 64 →
    logPartial b = false → ∃ t, exec (.replayArm m) s = .next t ∧ t = { s.result m 0 0 0 with armed := t.armed } ∧ kget (HostMsgField m 0 4) t.armed = some b)
  ∧ (∀ (s : State) (m : HostMsg), Heard s m 0 32 [(2, 6), (10, 6), (28, 4)] →
    (let d := HostMsgField m 0 1
     let log (k : ℕ) : List Byte := (if k = 0 then (s.die d).arrayLog else (s.die d).xferLog).flatten
     let gone (k : ℕ) : ℕ := if k = 0 then (s.die d).arrayOver else (s.die d).xferOver
     (16 ≤ d ∨ 2 ≤ HostMsgField m 1 1 → exec (.errlogRead m) s = .next (s.result m 9 0 0))
     ∧ (∀ k < 2, d < 16 → HostMsgField m 1 1 = k → s.takesAnswer m 8 (log k) → exec (.errlogRead m) s = .next (s.answered m 8 (log k) (gone k)))))
  ∧ (∀ (s : State) (m : HostMsg), Heard s m 0 32 [(10, 6), (28, 4)] →
    (let o := HostMsgField m 0 8
     (s.dump = none → exec (.dumpRead m) s = .next (s.result m 4 0 0))
     ∧ (∀ b, s.dump = some b → b.length < o → exec (.dumpRead m) s = .next (s.result m 4 0 0))
     ∧ (∀ b, s.dump = some b → o ≤ b.length → HostMsgField m 8 2 ∉ s.refusing →
         exec (.dumpRead m) s = .next (s.answered m 8 ((b.drop o).take (HostMsgField m 24 4)) 0))))
  ∧ (∀ (s : State) (m : HostMsg), Heard s m 0 0 [] →
    (s.dump = none → exec (.dumpClear m) s = .next (s.result m 4 0 0))
    ∧ (s.dump ≠ none → exec (.dumpClear m) s = .next { s.result m 0 0 0 with dump := none }))

/-- R38 to R40, R43 to R45: launching and load control. A launch that no check rejects is queued, stamped, and ACCEPTED when it becomes head at once,
else QUEUED; a rejected one leaves no trace. Load control answers each message by its state: PREPARE fetches the shards of a manifest with the digest
it names, the last shard that matches gives READY, one that does not, or the limit, gives NOT_READY; SWITCH is accepted unless a launch stamped n or
more has started, and WSEL flips at once when nothing stamped below n is there; ABORT goes to IDLE. -/
def Obligations.LaunchAndLoadControl : Prop :=
  (∀ (s : State) (m : HostMsg), Heard s m 1 64 [] →
    (let l : Launch := { record := BitVec.ofNat 512 (leNat (m.body.take 64)), node := m.node, port := m.port, tag := m.tag, stamp := 0, order := 0,
                         phase := .queued, gcount := leNat (m.body.take 64) % 2 ^ 512 / 2 ^ 128 % 2 ^ 32 }
     (∀ code, s.rejects l = some code → exec (.launch m) s = .next (s.reply m 0x181 (leBytes 4 l.lid ++ leBytes 1 code ++ [0, 0, 0])))
     ∧ (s.rejects l = none → ∃ t k, exec (.launch m) s = .next t ∧ t.launches = s.launches ++ [k]
         ∧ k = { l with base := k.base, stamp := s.bord + l.field 10 1, order := s.orders, acceptedAt := s.clock, ending := k.ending, failedAt := k.failedAt }
         ∧ s.ptbaseOf l.asid = some k.base ∧ t.bord = s.bord + l.field 10 1 ∧ t.orders = s.orders + 1
         ∧ (k.ending = none ↔ s.failedPre l = none)
         ∧ t.outbox = (s.reply m 0x181 (leBytes 4 l.lid ++ leBytes 1 (if t.head = some l.lid then 0 else 1) ++ [0, 0, 0])).outbox
         ∧ t.mem = s.mem ∧ t.placed = s.placed)))
  ∧ (∀ (s : State) (m : HostMsg), Heard s m 0 88 [(2, 6)] →
    (let bytes := s.hostRead (HostMsgField m 0 2) (HostMsgField m 8 8) (HostMsgField m 16 8)
     let good := bytes.bind (fun b => if Config.sha3 b = (m.body.drop 24).take 64 then manifestShards s.ownNodes b else none)
     (s.load.phase ≠ .idle → exec (.prepare m) s = .next (s.reply m 0x88 []))
     ∧ (s.load.phase = .idle → ∀ es, good = some es → exec (.prepare m) s = .next
         (es.foldl State.fetchShard { s with load := { s.load with phase := .loading, tag := m.tag, port := m.port, node := m.node, shards := es } }))
     ∧ (s.load.phase = .idle → good = none → ∃ t, exec (.prepare m) s = .next t ∧ t.load.phase = .notReady ∧ t.load.failIdx = 0xFFFFFFFF
         ∧ t.load.failWhy = 3 ∧ t.outbox = (s.tell m.port m.node 0 0x82 m.tag (leBytes 4 0xFFFFFFFF ++ [3, 0, 0, 0])).outbox)))
  ∧ (∀ (s : State) (bs : List (List Byte)), s.load.phase = .loading →
    (let due := s.load.shards.filter (fun e => !e.fetched)
     (∀ (k : ℕ) (e : Shard), due[k]? = some e → (∀ j < k, ∀ (f : Shard) (b : List Byte), due[j]? = some f → bs[j]? = some b → b.length = f.len
         ∧ Config.sha3 b = f.digest) →
         (∃ b, bs[k]? = some b ∧ (b.length ≠ e.len ∨ Config.sha3 b ≠ e.digest)) →
         ∃ t, exec (.loaderShardsFetched bs) s = .next t ∧ t.load.phase = .notReady ∧ t.load.failIdx = e.index ∧ t.load.failWhy = 1
           ∧ t.outbox = (s.tell s.load.port s.load.node 0 0x82 s.load.tag (leBytes 4 e.index ++ [1, 0, 0, 0])).outbox)
     ∧ (bs.length = due.length → (∀ (j : ℕ) (f : Shard) (b : List Byte), due[j]? = some f → bs[j]? = some b → b.length = f.len ∧ Config.sha3 b = f.digest) →
         ∃ t, exec (.loaderShardsFetched bs) s = .next t ∧ t.load.phase = .ready
           ∧ t.outbox = (s.tell s.load.port s.load.node 0 0x81 s.load.tag []).outbox)))
  ∧ (∀ s : State, s.load.phase = .loading → ∃ t k, exec .loaderLimitExpiry s = .next t ∧ t.load.phase = .notReady ∧ t.load.failWhy = 2 ∧ t.load.failIdx = k
      ∧ (∀ e ∈ s.load.shards, e.fetched = false → k ≤ e.index) ∧ (k = 0xFFFFFFFF ∨ ∃ e ∈ s.load.shards, e.fetched = false ∧ e.index = k)
      ∧ t.outbox = (s.tell s.load.port s.load.node 0 0x82 s.load.tag (leBytes 4 k ++ [2, 0, 0, 0])).outbox)
  ∧ (∀ (s : State) (m : HostMsg), Heard s m 0 8 [] →
    (let n := HostMsgField m 0 8
     (s.load.phase = .idle → exec (.switch m) s = .next (s.reply m 0x87 []))
     ∧ (s.load.phase = .loading → exec (.switch m) s = .next (s.reply m 0x89 []))
     ∧ (s.load.phase = .notReady → exec (.switch m) s = .next (s.reply m 0x82 (leBytes 4 s.load.failIdx ++ leBytes 1 s.load.failWhy ++ [0, 0, 0])))
     ∧ (s.load.phase = .switchPending → exec (.switch m) s = .next (s.reply m 0x88 []))
     ∧ (s.load.phase = .ready → (∃ k, s.load.topStart = some k ∧ n ≤ k) → exec (.switch m) s = .next (s.reply m 0x84 (leBytes 8 n)))
     ∧ (s.load.phase = .ready → (∀ k, s.load.topStart = some k → k < n) →
         ((∃ l ∈ s.launches, l.stamp < n) → exec (.switch m) s = .next
           { s.reply m 0x83 (leBytes 8 n) with load := { s.load with phase := .switchPending, n := n, tag := m.tag, port := m.port, node := m.node } })
         ∧ ((∀ l ∈ s.launches, n ≤ l.stamp) → ∃ t, exec (.switch m) s = .next t ∧ t.wsel = !s.wsel ∧ t.load.phase = .idle
             ∧ t.outbox = ((s.reply m 0x83 (leBytes 8 n)).tell m.port m.node 0 0x85 m.tag (leBytes 8 n)).outbox))))
  ∧ (∀ (s : State) (m : HostMsg), Heard s m 0 0 [] →
    (s.load.phase = .idle → exec (.abort m) s = .next (s.reply m 0x87 []))
    ∧ (s.load.phase ≠ .idle → ∃ t, exec (.abort m) s = .next t ∧ t.load.phase = .idle ∧ t.wsel = s.wsel ∧ t.outbox = (s.reply m 0x86 []).outbox
        ∧ ∀ a, s.inStaging a = false → Memory.read t.mem a = Memory.read s.mem a))

/-- R39, R40, R50 to R55, R59 to R64, R81, R209: the dispatcher, the loader's checks, the allocator, grafts and pre-emption. The head has the highest
priority that an eligible launch has; a failed check ends the launch with its code; a head is placed whole, on eligible dies, inside them and apart
from what stands there, or not at all; an illegal word ends the launch and gives its pages back; a graft cuts one page set and resumes it at its new
origin; a pre-empted launch has the lowest priority, then the latest start. -/
def Obligations.HeadAndPlacement : Prop :=
  (∀ s : State, s.live → ∃ t, exec .dispatcherHeadChoice s = .next t ∧ t = { s with clock := s.clock + 1, head := t.head, headPtr := t.headPtr }
      ∧ (s.keepsHead → t.head = s.head)
      ∧ (s.keepsHead = false → (t.head = none ↔ ∀ l ∈ s.launches, s.eligible l = false)
          ∧ ∀ lid, t.head = some lid → ∃ l ∈ s.launches, l.lid = lid ∧ s.eligible l ∧ ∀ k ∈ s.launches, s.eligible k → k.prio ≤ l.prio))
  ∧ (∀ (s : State) (l : Launch), s.headLaunch = some l → l.image = none → l.waits →
    (let failed (e : EndRec) : Prop := ∃ t, exec .imageChecks s = .next t ∧ t.launch l.lid = some { l with ending := some e } ∧ t.head = none
     (∀ c, s.readImage l = .error (.check c) → failed { status := 0x21, detail := c })
     ∧ (s.readImage l = .error .signature → failed { status := 0x24, detail := 0 })
     ∧ (∀ a b, s.readImage l = .error (.race a b) → failed { status := 0x21, detail := 9, fchan := a, ford := b })
     ∧ (∀ m n, s.readImage l = .ok (m, n) → s.noFit l m → failed { status := 0x21, detail := 0x0A })
     ∧ (∀ m n, s.readImage l = .ok (m, n) → s.noFit l m = false →
         exec .imageChecks s = .next ((s.imageMeet l).mapLaunch l.lid (fun k => { k with image := some m, races := n })))))
  ∧ (∀ (s : State) (l : Launch) (m : Image), s.placing = some (l, m) →
    (s.placeAll s.yard l m s.busyDies = none → exec .placement s = .next s)
    ∧ (∀ ps, s.placeAll s.yard l m s.busyDies = some ps → ∃ t, exec .placement s = .next t
        ∧ t.launch l.lid = some { l with phase := .loading, placedOnce := true, preempted := false }
        ∧ t.placed.length = s.placed.length + m.psets.length
        ∧ (∀ p ∈ t.placed, p ∉ s.placed → p.lid = l.lid ∧ l.aff.testBit p.die ∧ p.die < 8 ∧ (s.die p.die).online ∧ p.x + p.w ≤ 9 ∧ p.y + p.h ≤ 9
            ∧ (∀ j < p.h, ∀ i < p.w, s.exposed p.die (p.x + i) (p.y + j))
            ∧ ∀ q ∈ s.placed, s.imageOf q.lid ≠ none → q.die = p.die → q.x + q.w ≤ p.x ∨ p.x + p.w ≤ q.x ∨ q.y + q.h ≤ p.y ∨ p.y + p.h ≤ q.y)))
  ∧ (∀ (s : State) (l : Launch) (m : Image), s.headLaunch = some l → l.phase = .loading → l.ending = none → s.isDormant l.lid = false →
    l.image = some m →
    (s.rejected l.lid m = none → ∃ t, exec .configLoad s = .next t ∧ t.launch l.lid = some { l with phase := .running, startOrder := s.orders }
        ∧ t.head = none ∧ t.chans = s.chans ++ m.links.map (LinkDecl.toChan l.lid) ∧ t.elems = s.elems ++ m.elems.map (m.toElem l.lid)
        ∧ t.mem = s.mem)
    ∧ (∀ d row col, s.rejected l.lid m = some (d, row, col) → ∃ t, exec .configLoad s = .next t ∧ t.head = none
        ∧ t.launch l.lid = some { l with ending := some { status := 0x21, detail := 0x0B, die := d, plotx := col, ploty := row } }
        ∧ t.placed = s.placed.filter (fun p => p.lid ≠ l.lid) ∧ t.chans = s.chans ∧ t.elems = s.elems))
  ∧ (∀ (s : State) (l : Launch) (m : Image) (q : Placed), s.placing = some (l, m) → s.seeksGraft l m → s.graftPlan l m = some q →
    exec .graftStart s = .next (({ s with grafts := s.grafts ++ [{ lid := q.lid, pset := q.pset, x := q.x, y := q.y, head := l.lid }] } : State).startCut
      q.lid [q.pset] .graft none))
  ∧ (∀ (s : State) (g : Graft) (p : Placed), s.grafts.find? (fun g => !s.isCut g.lid g.pset && s.launchRuns g.lid) = some g → s.place g.lid g.pset = some p →
    s.ended g.lid = false → (∀ e ∈ s.ecc, reservedMem (32 * e.1) → e.2.2 = false)
        → ∃ (u : State) (k : ℕ), exec .graftResume s = .next (if s.head = some g.head then u.placeHead else u) ∧ u.grafts = s.grafts.filter (fun h => h ≠ g)
      ∧ u.place g.lid g.pset = some { p with x := g.x, y := g.y, mdie := k, graftedAt := some s.clock, quiesced := false } ∧ u.head = s.head)
  ∧ (∀ (s : State) (l : Launch) (m : Image) (k : Launch), s.placing = some (l, m) → s.seeksGraft l m → s.graftPlan l m = none →
    (∀ c ∈ s.cuts, c.why ≠ .preempt) → firstVictim (s.victims l) = some k →
    exec .preemption s = .next (s.startCut k.lid (s.psetsOf k.lid) .preempt none)
      ∧ k ∈ s.launches ∧ k.phase = .running ∧ k.prio < l.prio
      ∧ ∀ j ∈ s.victims l, k.prio ≤ j.prio ∧ (j.prio = k.prio → j.startOrder ≤ k.startOrder))

/-- R40 to R42, R66 to R73, R77, R78, R388: groups, sections and completion. A group starts with its counters from DEPS and its free nodes ready, and
one of a graph without nodes is done at once; a node that is ready arms its section with TILES and one that is done lets its successors fall due; a
task record pushes ARG at port 31 and arms its section, a bad one ends the launch with 0x93; a trellis node takes its count, enables its first child,
and gives done to its parent when every child is done; a launch that has ended, with its accesses performed, writes its record, enters the history,
frees what it held, and a status other than 0 ends its dependents. -/
def Obligations.GroupsAndCompletion : Prop :=
  (∀ (s : State) (lid : ℕ) (l : Launch), s.launch lid = some l → s.launchRuns lid → l.nextGroup < l.gcount → l.groups.length < 2 →
    (∀ r ∈ l.groups, r.idx ≠ l.nextGroup) →
    ∃ t, exec (.groupStart lid) s = .next t ∧ (let nodes := (l.image.map (fun i => i.graph)).getD []
      (nodes ≠ [] →
        t.launch lid = some { l with
          nextGroup := l.nextGroup + 1,
          groups := l.groups ++ [{ idx := l.nextGroup, counters := nodes.map (fun n => n.deps), finished := nodes.map (fun _ => false) }] }
        ∧ ∀ (n : ℕ) (g : GNode), nodes[n]? = some g → g.deps = 0 → s.gnodeDie lid n < 8 → (lid, l.nextGroup, n) ∈ (t.seqAt (s.gnodeDie lid n)).ready)
      ∧ (nodes = [] → ∃ k, t.launch lid = some k ∧ k.nextGroup = l.nextGroup + 1 ∧ k.groups = l.groups ∧ k.gdone = l.gdone + 1
          ∧ (l.groups = [] → l.gcount ≤ l.nextGroup + 1 → s.raising lid = false → k.ending = some { status := 0, detail := 0 }))))
  ∧ (∀ (s : State) (d lid group node : ℕ) (g : GNode), d < 8 → (s.die d).stopped = false → ((s.seqAt d).taskTurn = false
      ∨ (s.seqAt d).tasks.any s.taskNow = false) →
    (s.seqAt d).ready.find? s.readyNow = some (lid, group, node) → s.gnode lid node = some g →
    (g.kind = 1 → g.tiles ≠ 0 → ∃ t, exec (.readyListServe d) s = .next t ∧ t.seqAt d = { s.seqAt d with
          ready := (s.seqAt d).ready.erase (lid, group, node), taskTurn := true }
        ∧ t.armings = s.armings ++ [{ lid := lid, group := group, node := node, page := (s.sectOf lid g).1, root := (s.sectOf lid g).2, task := false }]
        ∧ ∀ r ∈ t.trellis, r.page = (s.sectOf lid g).1 → r.node = (s.sectOf lid g).2 → r.offer = some g.tiles)
    ∧ (g.kind ≠ 1 ∨ g.tiles = 0 → exec (.readyListServe d) s = .next ((s.setSeq d { s.seqAt d with
          ready := (s.seqAt d).ready.erase (lid, group, node), taskTurn := true }).nodeDone lid group node)))
  ∧ (∀ (s : State) (lid node group : ℕ) (a : Arming) (r : GroupRun), s.armings.find? (fun a => a.lid == lid && a.node == node && a.group == group
      && a.done) = some a →
    a.task = false → s.groupAt lid group = some r → node < r.finished.length → (∃ k < r.finished.length, k ≠ node ∧ r.finished.getD k true = false) →
    ∃ t r', exec (.sectionDone lid node group) s = .next t ∧ t.armings = s.armings.erase a ∧ t.groupAt lid group = some r' ∧ r'.finished.getD node false
      ∧ (∀ k, k ≠ node → r'.finished.getD k true = r.finished.getD k true)
      ∧ ∀ k < r.counters.length, r'.counters.getD k 0 = r.counters.getD k 0 - (((s.gnode lid node).map (fun g => g.succ)).getD []).count k)
  ∧ (∀ (s : State) (d : ℕ) (r : Task), d < 8 → (s.die d).stopped = false → ((s.seqAt d).taskTurn ∨ (s.seqAt d).ready.any s.readyNow = false)
      → (s.seqAt d).tasks.find? s.taskNow = some r →
    (∀ g, s.gnode r.lid r.node = some g → g.kind = 1 → ∃ t, exec (.taskRecordServe d) s = .next t
        ∧ t.armings = s.armings ++ [{ lid := r.lid, group := r.gidx, node := r.node, page := (s.sectOf r.lid g).1, root := (s.sectOf r.lid g).2, task := true }]
        ∧ (t.seqAt d).tasks = (s.seqAt d).tasks.erase r
        ∧ (let c : CoreRef := ⟨(s.sectOf r.lid g).1.lid, (s.sectOf r.lid g).1.pset, (s.sectOf r.lid g).1.px, (s.sectOf r.lid g).1.py⟩
           (s.viLink c 31).isSome → (t.core c).srcQ 31 = (s.core c).srcQ 31 ++ [argBeat r.arg]))
    ∧ (∀ l, (s.gnode r.lid r.node = none ∨ ∃ g, s.gnode r.lid r.node = some g ∧ g.kind ≠ 1) → s.launch r.lid = some l → l.ending = none →
        ∃ t, exec (.taskRecordServe d) s = .next t ∧ t.launch r.lid = some { l with ending := some { status := 0x22, detail := 0x93, die := d } }))
  ∧ (∀ (s : State) (page : PageRef) (node count : ℕ) (tr : Trellis), s.runs page.lid page.pset → s.trellisAt page node = some tr
      → tr.offer = some count → tr.token = none → tr.doneIn = [] →
    (∀ e ∈ tr.kids, e.1 ≠ node) → (tr.kids.map (fun e => e.1)).Nodup → 1 ≤ tr.window → count ≠ 0 → tr.kids ≠ [] →
    ∃ t u, exec (.trellisEnable page node count) s = .next t ∧ t.trellisAt page node = some u ∧ u.token = some count ∧ u.offer = none
      ∧ (∀ c cnt rest, tr.kids = (c, cnt) :: rest →
          (c < 8 → (∃ w, s.trellisAt page c = some w ∧ w.token = none ∧ w.offer = none) → ∃ v, t.trellisAt page c = some v
              ∧ v.offer = some (if cnt = 0 then count else cnt))
          ∧ (8 ≤ c → (∃ w, s.leafAt page (c - 8) = some w ∧ w.token = none) → ∃ v, t.leafAt page (c - 8) = some v
              ∧ v.token = some (if cnt = 0 then count else cnt))))
  ∧ (∀ (s : State) (page : PageRef) (node child k : ℕ) (tr : Trellis), s.runs page.lid page.pset → s.trellisAt page node = some tr → child ∈ tr.doneIn →
    tr.kidOf child = some k → tr.token.isSome → tr.parent ≠ some node → (∀ e ∈ tr.kids, e.1 ≠ node) →
    (let fin := setAt tr.finished k (fun i => i + 1)
     ∃ t u, exec (.trellisDone page node child) s = .next t ∧ t.trellisAt page node = some u ∧ u.finished = fin
      ∧ ((∀ j < tr.kids.length, fin.getD j 0 = tr.total) → u.token = none
          ∧ (tr.parent = none → ∀ a ∈ t.armings, a.page = page → a.root = node → a.done)
          ∧ (∀ p v, tr.parent = some p → s.trellisAt page p = some v → ∃ w, t.trellisAt page p = some w ∧ w.doneIn = v.doneIn ++ [node]))
      ∧ ((∃ j < tr.kids.length, fin.getD j 0 ≠ tr.total) → u.token = tr.token)))
  ∧ (∀ (s : State) (lid : ℕ) (l : Launch) (e : EndRec), s.launch lid = some l → l.ending = some e → s.accessesDone lid e.status →
    ∃ t, exec (.launchCompletion lid) s = .next t ∧ t.launch lid = none ∧ t.history = (s.history ++ [(lid, e.status)]).drop (s.history.length + 1 - 4096)
      ∧ (∀ p ∈ t.placed, p.lid ≠ lid) ∧ (∀ h ∈ t.chans, h.lid ≠ lid) ∧ (∀ x ∈ t.elems, x.ref.lid ≠ lid) ∧ (∀ x ∈ t.cores, x.1.lid ≠ lid)
      ∧ (e.status ≠ 0 → ∀ k ∈ t.launches, l.order < k.order → k.preIdx lid ≠ none → k.ending ≠ none)
      ∧ (∀ sp u, spanOf s (.die 16) l.space l.caddr 64 { wr := true, rd := false, sup := true } = .ok sp →
          s.outerStore sp (completionRecord l e s.clock) = some u → t.mem = u.mem)
      ∧ (∀ x, s.load.phase ≠ .switchPending → spanOf s (.die 16) l.space l.caddr 64 { wr := true, rd := false, sup := true } = .error x →
          t.outbox = (s.tell l.port l.node 1 0x182 l.tag
            (leBytes 4 l.lid ++ leBytes 1 e.status ++ [0] ++ leBytes 2 (if e.status = 0 then l.races else e.detail))).outbox))

/-- R68, R71, R79, R95, R99, R101, R102, R105, R125, R133 to R138, R140, R143, R369: elements, filters and foragers. An element whose conditions hold
begins its firing; a shared array counts the tiles it completes (when it completes one is free: log 101) and ends its section behind the last; a sort
network takes keys and sorts at the end of a segment; condition tokens, prunes and drain markers are taken, absorbed when they are copies, and go on
once they are on every input; RETIRE drops an entry, of a dormant region when it runs again; the forager rejects, ends or routes a record, by an
eligible stage. -/
def Obligations.FabricEvents : Prop :=
  (∀ (s : State) (r : ElemRef) (e : Elem) (code : ECode) (took : List ℕ) (chosen : Option ℕ), s.firing = none → s.elemAt r = some e → e.kind = 1 →
    s.elemLive e → s.ctxTurn e → (∀ k < 4, s.absorbAt r k = none) → s.ixStep r = none → e.code = some code → s.pick e = some (took, chosen) →
    e.frozen = none → s.loopLeft e = false → s.exitsFree e →
    ∃ t f, exec (.elementFire r) s = .next t ∧ t.firing = some f ∧ f.elem = e.ref ∧ f.ctx = e.ctx ∧ f.code = code ∧ f.fired = [] ∧ f.ops = []
      ∧ f.placed = [] ∧ f.chosen = chosen ∧ f.partials = e.partials ∧ f.sd = e.sd ∧ f.fault = none ∧ t.chans = s.chans ∧ t.mem = s.mem)
  ∧ (∀ (s : State) (r : ElemRef) (e : Elem) (a : ArrayUnit) (n : ℕ), s.elemAt r = some e → e.kind = 2 → s.able e.ref → s.ctxTurn e →
    s.unitOf e = some a → a.freeRun = some n →
    (let u := ((s.noteTurn e).useFree 1).updElem e.ref (fun e => { e with fires := e.fires + 1, noProgress := 0 })
     let left (k : Option ℕ) : State := u.updArray (elemPage e.ref) e.ctx (fun a => { a with freeRun := k })
     (s.freeAt 0 % 2 = 1 → exec (.elementFire r) s = .next u)
     ∧ (∀ k, s.freeAt 0 % 2 = 0 → n = k + 1 → exec (.elementFire r) s = .next (left (some k)))
     ∧ (s.freeAt 0 % 2 = 0 → n = 0 → exec (.elementFire r) s = .next ((left none).endFree (elemPage e.ref) e.ctx))))
  ∧ (∀ (s : State) (e : Elem), s.isRotating e.ref.lid e.ref.pset = false → s.noteTurn e = s)
  ∧ (∀ (s : State) (r : ElemRef) (e : Elem) (a : ArrayUnit) (i : ℕ) (q : QBeat) (ks : List (Img × ℕ)), s.elemAt r = some e → e.kind = 3 → s.able e.ref →
    s.ctxTurn e → s.unitOf e = some a → a.out = [] →
    (let u := s.noteTurn e
     u.elemIn e 14 = some i → u.first i = some q → hkind q.beat ≠ 2 → hkind q.beat ≠ 3 →
     beatKeys a.cfgNow (u.chanAt i) a.keys.length q.beat = some ks → (a.keys ++ ks).length ≤ 2 ^ cfgM a.cfgNow →
     (q.closes = false → exec (.elementFire r) s = .next ((u.take i).updArray a.page a.ctx (fun x => { x with keys := a.keys ++ ks })))
     ∧ (q.closes → exec (.elementFire r) s = .next ((u.take i).updArray a.page a.ctx (fun x => { x with
         keys := [], seg := none, out := sortedBeats a.cfgNow (a.seg.getD {}) (a.keys ++ ks) })))))
  ∧ (∀ (s : State) (lid num i : ℕ) (q : QBeat) (e : Elem) (x y port : ℕ), s.chanNo lid num = some i → s.first i = some q → s.takes (s.chanAt i) →
    (s.chanAt i).dst = .plot x y port → s.consumer (s.chanAt i) = some e →
    (isControl q.beat 4 → s.isRotating (s.chanAt i).lid (s.chanAt i).dstPset →
      exec (.conditionTokenArrival lid num) s = .next (s.chanFault i 0x80 ((s.chanAt i).ordinal + 1)))
    ∧ (isControl q.beat 4 → s.isRotating (s.chanAt i).lid (s.chanAt i).dstPset = false → (s.chanAt i).loops = false → port ∉ e.condIn →
        (let got := (s.take i).updElem e.ref (fun e => { e with condIn := e.condIn ++ [port], condCtx := beatCtx q.beat })
         let sent := got.pushAll (got.elemOuts e) q.beat e.outEnds
         ((∃ p ∈ s.mainPorts e, p ≠ port ∧ p ∉ e.condIn) → exec (.conditionTokenArrival lid num) s = .next got)
         ∧ (∀ p, (∀ p ∈ s.mainPorts e, p = port ∨ p ∈ e.condIn) → (∀ j ∈ s.elemOuts e, s.ctlRoom j e.ctx) →
             sent.plotAt e.ref.lid e.ref.pset e.ref.x e.ref.y = some p →
             exec (.conditionTokenArrival lid num) s = .next (if p.ctx = beatCtx q.beat then sent.updElem e.ref (fun e => { e with condIn := [] })
               else sent.trySwitch p (beatCtx q.beat)))))
    ∧ (isControl q.beat 2 → (s.chanAt i).loops → exec (.drainMarkerArrival lid num) s = .next (s.take i))
    ∧ (isControl q.beat 2 → (s.chanAt i).loops = false → (∃ j ∈ s.mainChans e, j ≠ i ∧ beatSerial q.beat ∉ (s.chanAt j).drains) →
        exec (.drainMarkerArrival lid num) s = .next ((s.take i).noteDrain i (beatSerial q.beat)))
    ∧ (isControl q.beat 2 → (s.chanAt i).loops = false → (∀ j ∈ s.mainChans e, j ≠ i → beatSerial q.beat ∈ (s.chanAt j).drains) →
        (let outs := (s.elemOuts e).filter (fun j => (s.chanAt j).kind ≠ 2)
         let sent := ((s.take i).clearDrain (s.mainChans e) (beatSerial q.beat)).pushAll outs q.beat e.outEnds
         (∀ j ∈ outs, s.ctlRoom j e.ctx) →
         exec (.drainMarkerArrival lid num) s = .next (if e.guess.isSome then sent.reportDrain e.ref.lid e.ref.pset (beatLane q.beat) (beatSerial q.beat)
           else sent))))
  ∧ (∀ (s : State) (lid num i px py port : ℕ) (q : QBeat), s.chanNo lid num = some i → s.first i = some q → s.takes (s.chanAt i) →
    (s.chanAt i).dst = .core px py port → port < 32 →
    (let h := s.chanAt i
     let c : CoreRef := ⟨h.lid, h.dstPset, px, py⟩
     let ins := s.chanIdx (fun o => o.lid = h.lid ∧ o.dstPset = h.dstPset ∧ o.dst = h.dst)
     let serial := beatSerial q.beat
     (s.core c).sinkQ port = [] →
     (isControl q.beat 2 → (∀ j ∈ ins, j ≠ i → serial ∈ (s.chanAt j).drains) → exec (.drainMarkerArrival lid num) s = .next
       ((((s.take i).clearDrain ins serial).reportDrain c.lid c.pset (beatLane q.beat) serial).refillSink c port))
     ∧ (isControl q.beat 2 → (∃ j ∈ ins, j ≠ i ∧ serial ∉ (s.chanAt j).drains) →
         exec (.drainMarkerArrival lid num) s = .next (((s.take i).noteDrain i serial).refillSink c port))
     ∧ (isControl q.beat 4 → s.isRotating h.lid h.dstPset = false → ∃ (u : State), exec (.conditionTokenArrival lid num) s = .next (u.refillSink c port)
         ∧ (∀ hp : port < 32, (u.core c).sinkCtx[port] = beatCtx q.beat) ∧ u.chans = (s.take i).chans)))
  ∧ (∀ (s : State) (lid num i k x y port : ℕ) (q : QBeat) (p : Plot), s.chanNo lid num = some i
      → (s.chanAt i).beats.findIdx? (fun q => isControl q.beat 1) = some k →
    (s.chanAt i).beats[k]? = some q → (s.chanAt i).dst = .plot x y port → s.plotAt (s.chanAt i).lid (s.chanAt i).dstPset x y = some p →
    (let h := s.chanAt i
     h.frozen = false → h.cutAt = none → (∀ d, h.dormPlace = some d → k ≤ d) → s.mayEnter h → s.takes h →
     (hasPrune p.prunes q.beat → exec (.pruneArrival lid num) s = .next (s.takeAt i k))
     ∧ (hasPrune p.prunes q.beat = false → exec (.pruneArrival lid num) s = .next ((s.takeAt i k).prunePlot p q.beat))))
  ∧ (∀ (s : State) (serial : ℕ) (f : FilterRef),
    ((∃ d ∈ s.dormants, d.holds f) → ∃ ds, exec (.retire f serial) s = .next { s with dormants := ds }
      ∧ ds.map (fun d => { d with retires := [] }) = s.dormants.map (fun d => { d with retires := [] }))
    ∧ ((∀ d ∈ s.dormants, d.holds f = false) →
      (∀ lid pset x y, f = .plot lid pset x y → exec (.retire f serial) s = .next (s.updPlot lid pset x y (fun q => { q with
        prunes := q.prunes.filter (fun e => !(e.serial == serial && s.retiring e)) })))
      ∧ (∀ r, f = .node r → exec (.retire f serial) s = .next (s.updNode r (fun n => { n with
        prunes := n.prunes.filter (fun e => !(e.serial == serial && s.retiring e)) })))
      ∧ (∀ lid num i, f = .chan lid num → s.chanNo lid num = some i → exec (.retire f serial) s = .next (s.updChan i (fun h => { h with
        table := h.table.filter (fun e => !(e.serial == serial && s.retiring e)) })))))
  ∧ (∀ (s : State) (page : PageRef) (ctx i : ℕ) (g : Forager) (q : QBeat), s.foragerFor page ctx = some g → s.fgLive g → s.fgClose g = none
      → s.fgRing g = none →
    s.fgIn g 0 = some i → s.first i = some q → hkind q.beat = 1 → q.closes = false →
    (let done := hdrDone (bstrand q.beat 0).image
     (hdrRej (bstrand q.beat 0).image → s.fgRoom g 2 → exec (.foragerDecision page ctx) s = .next ((s.take i).fgSend g 2 (withDone q.beat done true)))
     ∧ (hdrRej (bstrand q.beat 0).image = false → done = g.allDone → s.fgRoom g 1 →
         exec (.foragerDecision page ctx) s = .next ((s.take i).fgSend g 1 (withDone q.beat done false)))
     ∧ (hdrRej (bstrand q.beat 0).image = false → g.allDone < done → exec (.foragerDecision page ctx) s = .next (s.fgFault g i 0x84))
     ∧ (∀ k l, hdrRej (bstrand q.beat 0).image = false → done < g.allDone → done &&& g.allDone ≠ g.allDone → g.draining = false → g.pruning g.seg = false →
         g.inLoop.length < s.ringSlots g → (g.ordered → g.inLoop = []) → (s.take i).fgChoose g done = some (k, l) →
         g.eligible done k ∧ ∃ t, exec (.foragerDecision page ctx) s = .next t
           ∧ t = ((((s.take i).updFg g (fun g => { g with lfsr := l, inLoop := g.inLoop ++ [(k, BitVec.ofNat 8 done)] })).fgSend g (8 + k)
               (withDone q.beat done false)).updFg g Forager.letIn))))

/-- R68, R83, R90 to R93, R101, R102, R105, R172, R175, R188, R218, R320, R344, R348, R358: the sprout controller and what works beside the page
cores. A report is counted and with the NSINK-th RETIRE goes out, to other packages of the pipeline over Volop (log 95); of guess records that arrive
in one cycle the order is R94's; an acknowledgement frees the entry; a guess record that is late, of another generation or below a taken one changes
nothing, one that is taken sets the position's best point and one that meets its threshold launches the next position; a commit notice reaches its
node; a write of a threshold or of MAXFLM1 applies; a walk fills both levels of the TLB; an engine answers, with a token when all went well; a
collective whose descriptor is bad is answered with its error; stream and tile instructions move on. -/
def Obligations.ControllerEvents : Prop :=
  (∀ (s : State) (d serial : ℕ), d < 8 → serial ∈ (s.sprout d).reports →
    (let sp := s.sprout d
     let last (p : PruneEnt × ℕ × Bool) : Prop := p.1.serial = serial ∧ p.2.2 = false ∧ sp.nsink ≤ p.2.1 + 1
     let u := s.setSprout d { sp with
       reports := sp.reports.erase serial
       prunes := sp.prunes.map (fun p => if p.1.serial = serial then (p.1, p.2.1 + 1, p.2.2 || decide (sp.nsink ≤ p.2.1 + 1)) else p) }
     ∃ t, exec (.drainReport d serial) s = .next t ∧ t = { u with fresh := t.fresh, ports := t.ports, outbox := t.outbox }
       ∧ ((∀ p ∈ sp.prunes, ¬ last p) → t = u)
       ∧ ∀ p ∈ sp.prunes, last p → ∀ lid, sp.owner = some lid → ∀ n ∈ Config.pipeNodes lid, ∀ port, s.portTo none n = some port →
           .pipe port n (.retire p.1.lane serial) ∈ t.outbox))
  ∧ (∀ (s : State) (d serial : ℕ) (p : PruneEnt × ℕ × Bool), (s.sprout d).prunes.find? (fun p => p.1.serial == serial && p.2.2) = some p →
    (s.entryHeld p.1 → exec (.retireAcknowledge d serial) s = .next s)
    ∧ (s.entryHeld p.1 = false → exec (.retireAcknowledge d serial) s = .next (((s.setSprout d (({ s.sprout d with
        prunes := (s.sprout d).prunes.erase p } : Sprout).updLane (p.1.lane % 64) (fun l => { l with
          killed := l.killed.filter (fun g => !deadIn g p.1.lo p.1.hi) }))).issuePending d 64).settle d (p.1.lane % 64))))
  ∧ (∀ (s : State) (l : List Beat) (j : ℕ), j < l.length → j ≤ s.freeAt 0 % l.length →
    (let taken := s.nextGuess l
     taken ≤ s.freeAt 0 % l.length ∧ (guessOf (l.getD j [])).ahead (guessOf (l.getD taken [])) = false
       ∧ (j < taken → (guessOf (l.getD taken [])).ahead (guessOf (l.getD j [])))))
  ∧ (∀ (s : State) (d : ℕ) (b : Beat) (r : GuessRec), d < 8 → (s.die d).stopped = false →
    (s.sprout d).records[s.nextGuess (s.sprout d).records]? = some b → guessOf b = r → r.lane / 64 = d → r.lane % 64 < (s.sprout d).lanes.length →
    (let i := r.lane % 64
     let l := (s.sprout d).lane i
     let s1 := (s.setSprout d { s.sprout d with records := (s.sprout d).records.eraseIdx (s.nextGuess (s.sprout d).records) }).useFree 1
     let took (due : Bool) (ftok : ℕ → ℕ) := s1.setSprout d ((s1.sprout d).updLane i (fun l => { l with positions := l.positions.map (fun q =>
       if q.pos = r.pos then { q with best := some r.gpix, due := q.due || due, ftok := ftok q.ftok } else q) }))
     ((l.isOpen = false ∨ r.pos < l.npos ∨ l.find r.pos = none ∨ (∃ p, l.find r.pos = some p ∧ (p.gen ≠ r.gen ∨ ∃ b, p.best = some b ∧ r.gpix ≤ b))) →
       exec (.guessRecord d) s = .next s1)
     ∧ (∀ p, l.isOpen → l.npos ≤ r.pos → l.find r.pos = some p → p.gen = r.gen → (∀ b, p.best = some b → b < r.gpix) → r.gpix < 7 →
         (∀ o, l.find l.npos = some o → o.due = false) → l.waiting = none → l.closing = false → l.find ((r.pos + 1) % 2 ^ 32) = none →
         (meets r.conf ((s.sprout d).gth.getD r.gpix 0) = false → exec (.guessRecord d) s = .next (took false id))
         ∧ (meets r.conf ((s.sprout d).gth.getD r.gpix 0) → l.stops r.tok = false → (r.pos + 1) % 2 ^ 32 ≠ 0 → l.canLaunch →
             exec (.guessRecord d) s = .next ((took false id).launchPos d i ((r.pos + 1) % 2 ^ 32) r.tok false)))))
  ∧ (∀ (s : State) (r : NodeRef) (lane gen : ℕ), (s.sprout (lane / 64)).notices.find? (fun n => decide (n.1 = .node r)
      && n.2.1 == lane) = some (.node r, lane, gen) →
    exec (.commitNotice (.node r) lane gen) s = .next ((s.setSprout (lane / 64) { s.sprout (lane / 64) with
      notices := (s.sprout (lane / 64)).notices.erase (.node r, lane, gen) }).updNode r (fun n => n.commit lane gen)))
  ∧ (∀ (s : State) (r : NodeRef) (n : MemNode) (e : PruneEnt), s.nodeAt r = some n → (s.die n.die).stopped = false → n.prunes = [e]
      → n.scan = [e.serial] → n.drains = [] →
    exec (.memnodePruneScan r) s = .next ((s.pruneWork n e).updNode r (fun n => { n with drains := [], scan := [] })))
  ∧ (∀ (s : State) (d k : ℕ) (v : DWord), d < 8 → k < 7 → (s.sprout d).owner ≠ none → (s.sprout d).gth.length = 7 →
    ∃ t, exec (.gthWrite d k v) s = .next t ∧ t = { s with sprouts := t.sprouts }
      ∧ ∀ j < 7, (t.sprout d).gth.getD j 0 = if j = k then BitVec.ofNat 64 (v.toNat % 2 ^ 35) else (s.sprout d).gth.getD j 0)
  ∧ (∀ (s : State) (d i : ℕ) (v : DWord), d < 8 → i < (s.sprout d).nlane → i < (s.sprout d).lanes.length → (s.sprout d).owner ≠ none
      → ((s.sprout d).lane i).waiting = none →
    ((s.sprout d).lane i).closing = false →
    exec (.maxflWrite d i v) s = .next (s.setSprout d ((s.sprout d).updLane i (fun l => { l with maxflm1 := v.toNat / 2 ^ 7 % 16 }))))
  ∧ (∀ (s : State) (o : TlbOwner) (asid va : ℕ) (space : ℕ), s.spaceFor o asid = some space →
    ((∀ e ∈ s.tlb2, e.1 = s.tlbDie o → e.2.hits space va = false) → lookup2 s o space va = walk s space va)
    ∧ (lookup2 s o space va = none → exec (.pageWalk o asid va) s = .next s)
    ∧ (∀ e size, lookup2 s o space va = some (e, size) →
        (let ent : TlbEnt := { owner := o, asid := space, base := va / size * size, size := size, pte := e }
         ∃ t, exec (.pageWalk o asid va) s = .next t ∧ t = { s with tlb := t.tlb, tlb2 := t.tlb2, fresh := s.fresh + 2 }
          ∧ t.tlb.head? = some ent ∧ t.tlb2.head? = some (s.tlbDie o, ent) ∧ (∀ x ∈ t.tlb.tail, x ∈ s.tlb) ∧ (∀ x ∈ t.tlb2.tail, x ∈ s.tlb2)
          ∧ ((s.tlb.filter (fun x => x.owner = o)).length ≤ 1024 → (t.tlb.filter (fun x => x.owner = o)).length ≤ 1024))))
  ∧ (∀ (s : State) (d g latency st ix : ℕ) (c : CoreRef) (r : EngReq), s.engHead d g c = some r → (r.op = 3 ∨ s.engBlocked r) → r.ready = some (st, ix) →
    (∀ w ∈ s.held, w.who ≠ .engine c r.seq) → (s.die d).stopped = false →
    exec (.engineResponse d g c latency) s = .next (s.engAnswer r st ix latency)
      ∧ (st = 0 → .transferToken d g c r.seq ∈ (s.engAnswer r st ix latency).outbox)
      ∧ ∀ h : g < 13, ((s.engAnswer r st ix latency).core c).engOut[g] = (s.core c).engOut[g] - 1 ∨ (s.prof d g).fires latency)
  ∧ (∀ (s : State) (d : ℕ) (c : CoreRef) (r : EngReq) (st : ℕ × ℕ),
    (s.engines.filter (fun r => r.die == d && r.op == 3 && decide (r.core = c) && r.ready.isNone)).head? = some r → s.collOf r = .error st
        → s.engBlocked r = false →
    exec (.collGroupFill d c) s = .next ((s.engListMeet r).updEng r (fun e => { e with ready := some st })))
  ∧ (∀ (s : State) (d : ℕ) (c : CoreRef) (r : EngReq) (k : CollDesc),
    (s.engines.filter (fun r => r.die == d && r.op == 3 && decide (r.core = c) && r.ready.isNone)).head? = some r → s.collOf r = .ok k →
    (let u := s.engListMeet r
     let g := (u.collGroup c.lid k.group).take k.p
     g.length = k.p → (u.die d).stopped = false → (∀ e ∈ g, u.engBlocked e.1 = false ∧ ∀ sp, u.collSource e.1 e.2 = .ok sp →
       spanAbsent u sp = false ∧ u.banksRun sp ∧ u.gFree e.1.core.lid e.1.core.pset sp) →
     exec (.collGroupFill d c) s = .next (u.collRun (u.recorded c.lid) g)))
  ∧ (∀ (s : State) (c : CoreRef) (seq : ℕ) (t : StreamCmd), (s.core c).streams.find? (fun t => t.seq == seq) = some t → s.streamFree c t →
    s.moves c.lid c.pset →
    (∀ (u : State) (b : Beat), t.ld → ((s.core c).srcQ t.port).length < 16 → s.streamBeatOut c t = some (u, b) →
      exec (.streamCommandBeat c seq) s = .next ((u.pushSrc c t.port [b]).streamStep c t []))
    ∧ (∀ b rest, t.ld = false → t.port < 32 → (s.core c).sinkQ t.port = b :: rest → hkind b ≠ 2
        → ∃ (u : State), exec (.streamCommandBeat c seq) s = .next (u.streamTake c t b)
        ∧ u = (s.mapCore c (fun p => if h : t.port < 32 then { p with sink := p.sink.set t.port rest } else p)).refillSink c t.port))
  ∧ (∀ (s : State) (c : CoreRef) (t : TileItem) (rest : List TileItem) (u : State), (s.core c).tileQ = t :: rest → s.tileFree c t []
      → s.completeTile c t = some u →
    exec (.tileInstructionCompletion c) s = .next u)

/-- R79, R201, R204 to R216, R218, R373: cuts, hangs, breakpoints and registers. A cut begins for the page sets that are placed; a marker that is not
the last one of an element is noted, the last one goes on; a cut that is complete does what it was begun for; a dormant launch whose images all hold
runs again, one whose image does not fails with 0x0C; a limit, or a cut that is not complete in time, ends the launch with 0x22 and 0x90 and keeps its
frost map among the last four; a breakpoint sets HIT and samples, freezes or cuts by ACT, and one of a sealed page set's channel is refused; whether
an image that a program has replaced holds an illegal word is free (log 20); a register write follows its fields. -/
def Obligations.CutsAndDebug : Prop :=
  (∀ (s : State) (lid : ℕ) (psets : List ℕ) (why : CutWhy), (∀ c ∈ s.cuts, c.lid ≠ lid) → ∃ t, exec (.cutStart lid psets why) s = .next t
      ∧ t.cuts = s.cuts ++ [{ lid := lid, psets := psets.filter (fun p => (s.psetsOf lid).contains p), why := why, area := none }]
      ∧ t.launches = s.launches ∧ t.mem = s.mem
      ∧ t.placed = s.placed.map (fun p => if p.lid = lid ∧ p.pset ∈ psets then { p with periodOn := false } else p))
  ∧ (∀ (s : State) (lid num i x y port : ℕ), s.chanNo lid num = some i → (s.chanAt i).dst = .plot x y port → (s.chanAt i).dormPlace = some 0 →
    (s.chanAt i).cutAt = none → s.mayEnter (s.chanAt i) → s.takes (s.chanAt i) →
    (s.consumer (s.chanAt i) = none → exec (.dormancyMarkerArrival lid num) s = .next (s.takeDorm i 0))
    ∧ (∀ e, s.consumer (s.chanAt i) = some e →
        (let u := (s.takeDorm i 0).updElem e.ref (fun e => { e with dormIn := e.dormIn ++ [port] })
         ((∃ p ∈ u.mainPorts e, p ≠ port ∧ p ∉ e.dormIn) → exec (.dormancyMarkerArrival lid num) s = .next u)
         ∧ ((∀ p ∈ u.mainPorts e, p = port ∨ p ∈ e.dormIn) →
             exec (.dormancyMarkerArrival lid num) s = .next (u.forwardDorm (e.outPorts.flatMap (u.elemOut e)))))))
  ∧ (∀ (s : State) (lid : ℕ) (c : Cut) (l : Launch), s.cuts.find? (fun c => c.lid == lid && s.cutDone c) = some c → c.area = none → s.launch lid = some l →
    l.ending = none →
    ∃ t, exec (.cutComplete lid) s = .next t ∧ t.cuts = s.cuts.filter (fun d => d ≠ c) ∧ t.mem = s.mem
      ∧ (c.why = .graft → ∀ p ∈ t.placed, p.lid = lid → p.pset ∈ c.psets → p.quiesced)
      ∧ (c.why = .stop → t.launch lid = some { l with phase := .stopped } ∧ (∀ p ∈ t.placed, p.lid = lid → p.pset ∈ c.psets → p.quiesced)
          ∧ t.outbox = s.outbox ++ (s.chans.filter (fun h => h.lid == lid)).map (fun h => .report 1 lid h.num ((h.cutAt.map (fun k => k.1)).getD h.ordinal)))
      ∧ (c.why = .preempt → t.launch lid = some { l with
            phase := .dormant, preempted := true
            parkedReady := s.seqs.toList.flatMap (fun q => q.ready.filter (fun e => e.1 = lid))
            parkedTasks := s.seqs.toList.flatMap (fun q => q.tasks.filter (fun k => k.lid = lid)) } ∧ t.head ≠ some lid
          ∧ (∀ p ∈ t.placed, p.lid = lid → p.pset ∉ c.psets) ∧ ∀ p ∈ c.psets, ∃ d ∈ t.dormants, d.lid = lid ∧ d.pset = p)
      ∧ (∀ u, c.why = .ckptCont u → t.launches = s.launches ∧ ∀ p ∈ t.placed, p.lid = lid → p.pset ∈ c.psets → p.quiesced = false))
  ∧ (∀ (s : State) (lid : ℕ) (l : Launch), s.launch lid = some l → l.phase = .loading → l.ending = none → (∃ d ∈ s.dormants, d.lid = lid) →
    (∀ e ∈ s.ecc, reservedMem (32 * e.1) → e.2.2 = false) →
    ((∃ d ∈ s.dormants, d.lid = lid ∧ s.imageHolds d.area = false) → ∃ t, exec (.dormantResume lid) s = .next t
        ∧ t.launch lid = some { l with ending := some { status := 0x21, detail := 0x0C } } ∧ ∀ p ∈ t.placed, p.lid ≠ lid)
    ∧ ((∀ d ∈ s.dormants, d.lid = lid → s.imageHolds d.area) → (∃ d ∈ s.dormants, d.lid = lid ∧ s.forged d) → s.freeAt 0 % 2 = 1 →
        ∃ t e, exec (.dormantResume lid) s = .next t ∧ t.launch lid = some { l with ending := some e } ∧ e.status = 0x21 ∧ e.detail = 0x0B
          ∧ ∀ p ∈ t.placed, p.lid ≠ lid)
    ∧ ((∀ d ∈ s.dormants, d.lid = lid → s.imageHolds d.area) → ((∀ d ∈ s.dormants, d.lid = lid → s.forged d = false) ∨ s.freeAt 0 % 2 = 0) →
        ∃ t, exec (.dormantResume lid) s = .next t
        ∧ t.launch lid = some { l with phase := .running, startOrder := s.orders, parkedReady := [], parkedTasks := [] } ∧ t.head ≠ some lid
            ∧ (∀ d ∈ t.dormants, d.lid ≠ lid)
        ∧ ∀ d ∈ s.dormants, d.lid = lid → ∀ x ∈ d.cores, x ∈ t.cores))
  ∧ (∀ (s : State) (a : Agent) (lid die x y : ℕ) (l : Launch), s.agentPlace a = some (lid, die, x, y) → s.launch lid = some l → l.ending = none →
    ∃ t, exec (.noProgressLimit a) s = .next t
        ∧ t.launch lid = some { l with ending := some { status := 0x22, detail := 0x90, die := die, plotx := x, ploty := y } }
      ∧ (∃ m, t.frost = ((lid, m) :: s.frost).take 4) ∧ ∀ p ∈ t.placed, p.lid = lid → p.quiesced)
  ∧ (∀ (s : State) (c : Cut) (l : Launch), s.cuts.find? (fun c => !s.cutDone c) = some c → s.launch c.lid = some l → l.ending = none →
    ∃ t e, exec .cutTimeout s = .next t ∧ t.cuts = s.cuts.filter (fun d => d ≠ c) ∧ t.launch c.lid = some { l with ending := some e }
      ∧ e.status = 0x22 ∧ e.detail = 0x90 ∧ (∃ m, t.frost = ((c.lid, m) :: s.frost).take 4) ∧ ∀ p ∈ t.placed, p.lid = c.lid → p.quiesced)
  ∧ (∀ (s : State) (n lid : ℕ) (b : Beat) (l : Launch), n < 16 → s.bpPending = [(n, b)] → dbpLid (s.dbpAt n) = lid → s.launch lid = some l → l.ending = none →
    (s.sealedChan lid (dbpChan (s.dbpAt n)) → exec (.breakpointFire n) s = .next { s with bpPending := [], sealRefusals := s.sealRefusals + 1 })
    ∧ (s.sealedChan lid (dbpChan (s.dbpAt n)) = false →
    (dbpAct (s.dbpAt n) = 3 → ∃ t, exec (.breakpointFire n) s = .next t ∧ t.bpPending = [] ∧ (t.dbpAt n).getLsbD 76 ∧ t.launches = s.launches
        ∧ kget lid t.samples = some (let all := (kget lid s.samples).getD [] ++ [beat78 b]; all.drop (all.length - 256)))
    ∧ (dbpAct (s.dbpAt n) = 2 → s.cutStops lid = false → ∃ t, exec (.breakpointFire n) s = .next t ∧ t.bpPending = [] ∧ (t.dbpAt n).getLsbD 76
        ∧ t.launch lid = some { l with phase := .frozen } ∧ t.frost = s.frost ∧ ∀ p ∈ t.placed, p.lid = lid → p.quiesced)
    ∧ (dbpAct (s.dbpAt n) = 1 ∨ (dbpAct (s.dbpAt n) = 2 ∧ s.cutStops lid) →
        exec (.breakpointFire n) s = .next ((({ s with bpPending := [] } : State).setHit n).startCut lid (s.psetsOf lid) .stop none))))
  ∧ (∀ (s : State) (n : ℕ) (v : BitVec 128), n < 16 →
    (s.sealedChan (dbpLid v) (dbpChan v) → exec (.dbpWrite n v) s = .next { s with sealRefusals := s.sealRefusals + 1 })
    ∧ (s.sealedChan (dbpLid v) (dbpChan v) = false → ∃ t, exec (.dbpWrite n v) s = .next t ∧ t = { s with dbp := t.dbp }
        ∧ (∀ k, k ≠ n → t.dbpAt k = s.dbpAt k)
        ∧ ∀ j < 128, (t.dbpAt n).getLsbD j = if j = 76 then (s.dbpAt n).getLsbD 76 && !v.getLsbD 76 else v.getLsbD j && (decide (j < 64) || decide (76 < j))))
  ∧ (∀ (s : State) (die g : ℕ), 8 ≤ die → die < 16 → g < 13 →
    exec (.ehcfgClr die g) s = .next (s.setProf { s.prof die g with buckets := List.replicate 32 0 }))
  ∧ (∀ (s : State) (pa : ℕ) (v : DWord),
    (∀ d k, d < 8 → k < 7 → pa = 0x9000001000 + 0x800 * d + 0x40 + 8 * k → exec (.registerWrite pa v) s = exec (.gthWrite d k v) s)
    ∧ (∀ d i, d < 8 → i < 64 → pa = 0x9000001000 + 0x800 * d + 0x100 + 16 * i → exec (.registerWrite pa v) s = exec (.maxflWrite d i v) s)
    ∧ (∀ d g, 8 ≤ d → d < 16 → g < 13 → pa = 0x900000A000 + 0x800 * (d - 8) + 0x80 * g
        → exec (.registerWrite pa v) s = .next (s.setProf ((s.prof d g).writeCfg v)))
    ∧ (pa < 0x9000001000 ∨ 0x900000E000 ≤ pa → exec (.registerWrite pa v) s = .next s))

/-- R16, R19, R20, R31, R200, R224 to R226, R359: what goes wrong outside an instruction. A request to another die that times out (one inside its die
does not) leaves a fault of cause 8, pending or at its block, or the code of its agent, and a response that is late; a transfer that fails parity is
logged with its outcome (at which attempt it succeeds is free: logs 6 and 105), a repair uses a spare, and an exhausted channel is a fatal error; a
fatal error takes its die offline, is dumped unless a dump is held, and ends every launch that uses the die with 0x8F. -/
def Obligations.TimeoutsAndErrors : Prop :=
  (∀ (s : State) (c : CoreRef), (s.die (s.coreDie c)).stopped = false → s.coreDie c < 17 →
    (let owed (t : State) : Prop := (t.die (s.coreDie c)).timedOut = (s.die (s.coreDie c)).timedOut + 1
     (∀ (uid slot va bi : ℕ) (b : Block), s.loadAwaited c uid slot = some va → (s.core c).blocks[bi]? = some b → b.uid = uid → b.fault = none →
       ∃ t, exec (.crossDieTimeout (.load c uid slot)) s = .next t ∧ owed t
         ∧ (((t.core c).blocks[bi]?).bind (fun (b : Block) => b.fault)).map (fun (f : BFault) => (f.code, f.val)) = some (8, BitVec.ofNat 64 va))
     ∧ (∀ seq, (∀ q, s.postedAt c seq = some q → spanOff (s.coreDie c) q.kind.span = false) → exec (.crossDieTimeout (.posted c seq)) s = .next s)
     ∧ (∀ seq q, s.postedAt c seq = some q → spanOff (s.coreDie c) q.kind.span →
         ∃ u, exec (.crossDieTimeout (.posted c seq)) s = .next (latchFault u c 8 q.va q.lsid) ∧ owed u)
     ∧ (∀ seq q, (s.core c).tileQ.find? (fun t => t.seq == seq && t.op.touches && spanOff (s.coreDie c) t.op.span) = some q →
         ∃ u, exec (.crossDieTimeout (.tile c seq)) s = .next (latchFault u c 8 (spanVa q.op.span) q.lsid) ∧ owed u ∧ q ∉ (u.core c).tileQ)
     ∧ (∀ seq q, (s.core c).streams.find? (fun t => t.seq == seq && t.tile.isNone && spanOff (s.coreDie c) t.span) = some q →
         ∃ u, exec (.crossDieTimeout (.stream c seq)) s = .next (latchFault u c 8 (spanVa q.span) q.lsid) ∧ owed u)
     ∧ (∀ n f, (s.core c).fences.find? (fun f => f.serial == n) = some f →
         ((∃ q ∈ (s.core c).posted, q.seq < f.upto ∧ spanOff (s.coreDie c) q.kind.span) → s.fenceCrosses c f ≠ none)
         ∧ (∀ va, s.fenceCrosses c f = some va → ∃ u, exec (.crossDieTimeout (.fence c n)) s = .next (latchFault u c 8 va 0) ∧ owed u)
         ∧ (s.fenceCrosses c f = none → exec (.crossDieTimeout (.fence c n)) s = .next s))))
  ∧ (∀ (s : State) (r : NodeRef) (n : MemNode) (o : NodeOp) (elem : ℕ) (l : Launch), s.nodeAt r = some n → (s.die n.die).stopped = false → n.die < 17 →
    n.ops.find? (fun o => o.elem == elem && o.status != 2 && spanOff n.die (s.opSpan n o)) = some o → s.launch r.lid = some l → l.ending = none →
    ∃ t, exec (.crossDieTimeout (.node r elem)) s = .next t ∧ (t.die n.die).timedOut = (s.die n.die).timedOut + 1
      ∧ t.launch r.lid = some { l with ending := some { status := 0x22, detail := 0x8E, die := n.die, fchan := o.chan, ford := o.ord } })
  ∧ (∀ (s : State) (d g : ℕ) (r : EngReq), (s.die d).stopped = false → s.engines.find? (fun r => r.die == d && r.engine == g) = some r →
    (s.engSpans r).any (spanOff d) → ∃ (u : State), exec (.crossDieTimeout (.engine d g)) s = .next (u.engAnswer r 8 r.next 0) ∧ u = { s with dies := u.dies })
  ∧ (∀ (s : State) (lid num i : ℕ), s.chanNo lid num = some i → (s.chanAt i).kind = 3 → (s.chanAt i).dst = .remote → (s.port (s.chanAt i).vport).up = false →
    (s.chanAt i).beats ≠ [] → (s.die (portDie (s.chanAt i).vport)).stopped = false
        → exec (.crossDieTimeout (.remote lid num)) s = .next (s.updChan i (fun h => { h with expired := true })))
  ∧ (∀ (s : State) (d pa lane : ℕ) (wr : Bool), d < 16 → pa / 0x800000000 = d → pa % 0x800000000 < 0x600000000 →
    (let ch := pa % 0x800000000 / 256 % 48
     ((s.die d).vchan ch).2 = false → ∃ (t : State) (n oc ln sp : ℕ), exec (.verticalParityError d pa wr lane) s = .next t
       ∧ (∃ k, (t.die d).xferLog.getLast? = some (xferEntry pa ch wr n oc ln sp k))
       ∧ 2 ≤ n ∧ n ≤ 8 ∧ (oc = 1 ∨ oc = 2 ∨ oc = 3) ∧ (oc = 1 → n ≤ 4 ∧ (t.die d).vchans = (s.die d).vchans)
       ∧ (oc = 2 → 5 ≤ n ∧ ln = lane ∧ ((s.die d).vchan ch).1 ≤ sp ∧ sp < 2 ∧ (t.die d).vchan ch = (sp + 1, false))
       ∧ (oc = 3 → n = 4 ∧ 2 ≤ ((t.die d).vchan ch).1 ∧ ((t.die d).vchan ch).2 ∧ (t.die d).online = false)))
  ∧ (∀ (s : State) (d : ℕ), d < 17 → ∃ t, exec (.controlLinkLoss d) s = .next t ∧ (t.die d).online = false ∧ (∀ k, k ≠ d → t.die k = s.die k)
      ∧ t.outbox = s.outbox ++ [.report 9 d 0 0] ∧ (s.dump = none → t.dump ≠ none ∧ t.fatals = s.fatals) ∧ (s.dump ≠ none → t.dump = s.dump
          ∧ t.fatals = s.fatals + 1 ∧ t.mem = s.mem)
      ∧ (∀ lid l, s.launch lid = some l → s.usesDie lid d → l.ending = none →
          t.launch lid = some { l with ending := some { status := 0x22, detail := 0x8F, die := d } })
      ∧ ∀ lid l, s.launch lid = some l → s.usesDie lid d = false → t.launch lid = some l)

/-! ### Steps, words and reset -/

/-- R53, R243, R247, R251: a step runs the instruction that stands where it fetches. The slot that the agenda names, the next ready slot of a firing,
or the event at the head of the agenda (of launch messages that stand there together, that of the lowest port) is decoded and executed; a page core
that stands still fires nothing; the words of a block are the little-endian words of its bytes; a word that is placed in an empty page core is what
the next step runs. The agenda is the model's own (log 1), and so is the placing (log 2). -/
def Obligations.StepRunsDecoded : Prop :=
  (∀ (s : State) (c : CoreRef) (bi slot : ℕ) (r : List Agenda) (b : Block) (w : Word) (i : Instr), s.firing = none → s.agenda = .fire c bi slot :: r →
    s.still c = false → (s.core c).blocks[bi]? = some b → b.words[slot]? = some w → decodeWord w = .ok i →
    step s = exec i { s with agenda := r, focus := .core c bi slot })
  ∧ (∀ (s : State) (c : CoreRef) (bi slot bj j : ℕ) (b : Block) (w : Word) (i : Instr), s.firing = none → s.agenda = [] → s.focus = .core c bi slot →
    s.nextSlot c = some (bj, j) → s.still c = false → (s.core c).blocks[bj]? = some b → b.words[j]? = some w → decodeWord w = .ok i →
    step s = exec i { s with focus := .core c bj j })
  ∧ (∀ (s : State) (f : Firing) (j : ℕ) (w : Word) (i : Instr), s.firing = some f → f.ready = some j → f.code.words[j]? = some w → decodeWord w = .ok i →
    step s = exec i { s with focus := .elem j })
  ∧ (∀ (s : State) (i : Instr) (r : List Agenda), s.firing = none → inPortOrder s.agenda = .event i :: r →
    step s = exec i { s with agenda := r, focus := .idle })
  ∧ (∀ (l r : List Agenda) (e : Agenda), inPortOrder l = e :: r → ∃ k, l[k]? = some e ∧ r = l.eraseIdx k ∧ (l.head?.bind launchPort = none → k = 0)
      ∧ ∀ (p j q : ℕ), launchPort e = some p → (∀ m ≤ j, (l[m]?).bind launchPort ≠ none) → (l[j]?).bind launchPort = some q → p ≤ q ∧ (j < k → p < q))
  ∧ (∀ (s : State) (c : CoreRef) (bi slot : ℕ) (r : List Agenda), s.firing = none → s.agenda = .fire c bi slot :: r → s.still c →
    step s = .next { s with agenda := r, focus := .idle })
  ∧ (∀ (n : ℕ) (bs : List Byte), bs.length = 4 * n → (wordsOfBytes n bs).length = n
      ∧ ∀ k < n, (wordsOfBytes n bs)[k]? = some (bs.getD (4 * k + 3) 0 ++ bs.getD (4 * k + 2) 0 ++ bs.getD (4 * k + 1) 0 ++ bs.getD (4 * k) 0))
  ∧ (∀ (s : State) (w : ℕ) (i : Instr), decodeTableWord 32 w = some i → i.blocks.1 → s.still s.placeCore = false →
    ∃ t, step (s.withFetchWord 32 w) = exec i t ∧ t.focus = .core s.placeCore 0 0 ∧ (t.core s.placeCore).blocks.map (fun b => b.words) = [[BitVec.ofNat 32 w]]
      ∧ t.mem = s.mem)
  ∧ (∀ (s : State) (w : ℕ) (i : Instr), decodeTableWord 32 w = some i → i.blocks.1 = false → ∃ t, step (s.withFetchWord 32 w) = exec i t
      ∧ t.focus = .elem 0 ∧ t.mem = s.mem)

/-- R243, R255 to R257, R264 to R269, R290, R310: words written out from the encodings decode to the instructions they stand for; an opcode that no
row has, PRED 0b11, a reserved bit and a target of the wrong form are refused. -/
def Obligations.DecodeWords : Prop :=
  decodeWord 0x60004000 = .ok (.inPort 0 2 0 0 0) ∧ decodeWord 0x60104020 = .ok (.inPort 0 0x82 1 0 0)
  ∧ decodeWord 0x32007FF0 = .ok (.fmul 0 3 0x1FF) ∧ decodeWord 0x613FE000 = .ok (.outPort 0 0 0 0)
  ∧ decodeWord 0x04002002 = .ok (.movi 0 1 2) ∧ decodeWord 0x1D005FF8 = .ok (.leaBlk 0 2 0x1FF)
  ∧ decodeWord 0x023FE01E = .ok (.setr 0 30) ∧ decodeWord 0x01004000 = .ok (.getr 0 2 0) ∧ decodeWord 0x42008600 = .ok (.final 0 4 3 0)
  ∧ (decodeWord 0xFF000000).toOption = none ∧ (decodeWord 0x32C07FF0).toOption = none ∧ (decodeWord 0x023FE03E).toOption = none

/-- R255 to R257 and the encodings of every word: an instruction that is well formed decodes from the word that encodes it, with every operand at
every value; a word that decodes gives a well-formed instruction, which encodes to that same word: no bit is dropped and no reserved value passes. -/
def Obligations.EncodeDecode : Prop :=
  (∀ (i : Instr) (w : Word), i.wf → encode i = some w → decodeWord w = .ok i)
  ∧ (∀ (i : Instr) (w : Word), decodeWord w = .ok i → i.wf ∧ encode i = some w)

/-- R5, R23, R43 to R45, R89, R149, R150, R177, R198, R214, R218: what stands after reset where the spec gives a value. Every bucket, read as BKT,
holds level, depth and refill of 0x400 and is open; no batch ordinal has been given and load control is idle; sprout controllers, breakpoints,
thresholds and profiling blocks are zero; a page core's RMODE, FSTAT, tile shapes and trap registers are zero; no word of a WO page is present;
nothing is placed or queued; what InvariantKept says of every state holds. -/
def Obligations.ResetValues : Prop :=
  (∀ d i, (State.reset.bucket d i).reg = 0x0400040004000001)
  ∧ State.reset.bord = 0 ∧ State.reset.wsel = false ∧ State.reset.load.phase = .idle ∧ State.reset.load.limit = 2 ^ 34 ∧ State.reset.hangLimit = 2 ^ 28
  ∧ (∀ d o, (State.reset.sprout d).read o = 0) ∧ (∀ n, State.reset.dbpAt n = 0) ∧ (∀ d e, 8 ≤ d → e < 13 → (State.reset.prof d e).read 0 = 0)
  ∧ (∀ c, (let p := State.reset.core c
      p.rmode = 0 ∧ p.fstat = 0 ∧ p.tcause = 0 ∧ p.tval = 0 ∧ p.sstat = 0 ∧ p.blocks = [] ∧ ∀ k, p.tshOf k = 0))
  ∧ (∀ pa, State.reset.present pa = false ∧ (State.reset.line (pa / 64)).gen = 0)
  ∧ State.reset.launches = [] ∧ State.reset.placed = [] ∧ State.reset.cores = [] ∧ State.reset.chans = [] ∧ State.reset.elems = [] ∧ State.reset.dump = none
  ∧ State.reset.powered = false ∧ State.reset.live = false
  ∧ State.reset.sound

/-- R149, R198, R246, of every step from every such state: in every page core RMODE names one of the six modes, the reserved bits of SSTAT are 0 and
at most four blocks are in flight; and memory, the presence of lines, buckets and counters keep the one canonical form that makes equal contents equal
data (the model's own, log 4). -/
def Obligations.InvariantKept : Prop := ∀ s t : State, s.sound → step s = .next t → t.sound

/-- R79, R247, R257 to R259: the machine never faults and never gets stuck. No instruction ends in a fault, and the only refusals are those of a word
that no slot holds or that stands in a block of the wrong kind; every event executes; a word executes wherever its slot stands in a block of its kind;
so a state whose blocks and firing hold only words of their kind, as the decode of blocks and of elements sees to, takes a step, whatever the data. -/
def Obligations.StepGoesOn : Prop :=
  (∀ (i : Instr) (s : State), (∃ t, exec i s = .next t) ∨ exec i s = .refused .notRunning ∨ exec i s = .refused .wrongBlock)
  ∧ (∀ (i : Instr) (s : State), encode i = none → ∃ t, exec i s = .next t)
  ∧ (∀ (i : Instr) (s : State) (c : CoreRef) (bi slot : ℕ) (b : Block), i.blocks.1 → s.focus = .core c bi slot → (s.core c).blocks[bi]? = some b →
      ∃ t, exec i s = .next t)
  ∧ (∀ (i : Instr) (s : State) (slot : ℕ) (f : Firing), i.blocks.2 → s.focus = .elem slot → s.firing = some f → ∃ t, exec i s = .next t)
  ∧ (∀ s : State, (∀ (c : CoreRef), ∀ b ∈ (s.core c).blocks, ∀ k i, b.insn k = some i → i.blocks.1) →
      (∀ f, s.firing = some f → ∀ k i, f.code.insn k = some i → i.blocks.2) → (∀ i, .event i ∈ s.agenda → encode i = none) → ∃ t, step s = .next t)
end

