-- ==== Sys2Proof/Laws/Exec.lean ====
section
/-! SUPPORT. What exec calls for each constructor. -/
namespace Sys2Proof.Machine

@[simp] theorem exec_nop (p : BitVec 2) (t : BitVec 9) (u : BitVec 9) (x : BitVec 4) (st : State) : exec (.nop p t u x) st = execNop p t u x st := rfl
@[simp] theorem exec_getr (p : BitVec 2) (t : BitVec 9) (k : BitVec 5) (st : State) : exec (.getr p t k) st = execGetr p t k st := rfl
@[simp] theorem exec_setr (p : BitVec 2) (k : BitVec 5) (st : State) : exec (.setr p k) st = execSetr p k st := rfl
@[simp] theorem exec_nullw (p : BitVec 2) (k : BitVec 5) (st : State) : exec (.nullw p k) st = execNullw p k st := rfl
@[simp] theorem exec_movi (p : BitVec 2) (t : BitVec 9) (i : BitVec 13) (st : State) : exec (.movi p t i) st = execMovi p t i st := rfl
@[simp] theorem exec_movk (p : BitVec 2) (t : BitVec 9) (i : BitVec 13) (st : State) : exec (.movk p t i) st = execMovk p t i st := rfl
@[simp] theorem exec_getc (p : BitVec 2) (t : BitVec 9) (n : BitVec 8) (st : State) : exec (.getc p t n) st = execGetc p t n st := rfl
@[simp] theorem exec_setc (p : BitVec 2) (n : BitVec 8) (st : State) : exec (.setc p n) st = execSetc p n st := rfl
@[simp] theorem exec_bx (p : BitVec 2) (e : BitVec 3) (f : BitVec 19) (st : State) : exec (.bx p e f) st = execBx p e f st := rfl
@[simp] theorem exec_bxr (p : BitVec 2) (e : BitVec 3) (st : State) : exec (.bxr p e) st = execBxr p e st := rfl
@[simp] theorem exec_callb (p : BitVec 2) (e : BitVec 3) (f : BitVec 19) (st : State) : exec (.callb p e f) st = execCallb p e f st := rfl
@[simp] theorem exec_retb (p : BitVec 2) (e : BitVec 3) (st : State) : exec (.retb p e) st = execRetb p e st := rfl
@[simp] theorem exec_add (p : BitVec 2) (t : BitVec 9) (u : BitVec 9) (st : State) : exec (.add p t u) st = execAdd p t u st := rfl
@[simp] theorem exec_addi (p : BitVec 2) (t : BitVec 9) (i : BitVec 13) (st : State) : exec (.addi p t i) st = execAddi p t i st := rfl
@[simp] theorem exec_sub (p : BitVec 2) (t : BitVec 9) (u : BitVec 9) (st : State) : exec (.sub p t u) st = execSub p t u st := rfl
@[simp] theorem exec_mul (p : BitVec 2) (t : BitVec 9) (u : BitVec 9) (st : State) : exec (.mul p t u) st = execMul p t u st := rfl
@[simp] theorem exec_mulh (p : BitVec 2) (t : BitVec 9) (u : BitVec 9) (n : BitVec 1) (st : State) : exec (.mulh p t u n) st = execMulh p t u n st := rfl
@[simp] theorem exec_div (p : BitVec 2) (t : BitVec 9) (u : BitVec 9) (n : BitVec 1) (st : State) : exec (.div p t u n) st = execDiv p t u n st := rfl
@[simp] theorem exec_rem (p : BitVec 2) (t : BitVec 9) (u : BitVec 9) (n : BitVec 1) (st : State) : exec (.rem p t u n) st = execRem p t u n st := rfl
@[simp] theorem exec_adds (p : BitVec 2) (t : BitVec 9) (u : BitVec 9) (n : BitVec 1) (st : State) : exec (.adds p t u n) st = execAdds p t u n st := rfl
@[simp] theorem exec_subs (p : BitVec 2) (t : BitVec 9) (u : BitVec 9) (n : BitVec 1) (st : State) : exec (.subs p t u n) st = execSubs p t u n st := rfl
@[simp] theorem exec_min (p : BitVec 2) (t : BitVec 9) (u : BitVec 9) (n : BitVec 1) (st : State) : exec (.min p t u n) st = execMin p t u n st := rfl
@[simp] theorem exec_max (p : BitVec 2) (t : BitVec 9) (u : BitVec 9) (n : BitVec 1) (st : State) : exec (.max p t u n) st = execMax p t u n st := rfl
@[simp] theorem exec_abs (p : BitVec 2) (t : BitVec 9) (u : BitVec 9) (s : BitVec 1) (st : State) : exec (.abs p t u s) st = execAbs p t u s st := rfl
@[simp] theorem exec_neg (p : BitVec 2) (t : BitVec 9) (u : BitVec 9) (s : BitVec 1) (st : State) : exec (.neg p t u s) st = execNeg p t u s st := rfl
@[simp] theorem exec_lea (p : BitVec 2) (t : BitVec 9) (u : BitVec 9) (s : BitVec 2) (st : State) : exec (.lea p t u s) st = execLea p t u s st := rfl
@[simp] theorem exec_leaBlk (p : BitVec 2) (t : BitVec 9) (u : BitVec 9) (st : State) : exec (.leaBlk p t u) st = execLeaBlk p t u st := rfl
@[simp] theorem exec_andB (p : BitVec 2) (t : BitVec 9) (u : BitVec 9) (st : State) : exec (.andB p t u) st = execAndB p t u st := rfl
@[simp] theorem exec_orB (p : BitVec 2) (t : BitVec 9) (u : BitVec 9) (st : State) : exec (.orB p t u) st = execOrB p t u st := rfl
@[simp] theorem exec_xorB (p : BitVec 2) (t : BitVec 9) (u : BitVec 9) (st : State) : exec (.xorB p t u) st = execXorB p t u st := rfl
@[simp] theorem exec_andn (p : BitVec 2) (t : BitVec 9) (u : BitVec 9) (st : State) : exec (.andn p t u) st = execAndn p t u st := rfl
@[simp] theorem exec_notB (p : BitVec 2) (t : BitVec 9) (u : BitVec 9) (st : State) : exec (.notB p t u) st = execNotB p t u st := rfl
@[simp] theorem exec_shl (p : BitVec 2) (t : BitVec 9) (u : BitVec 9) (st : State) : exec (.shl p t u) st = execShl p t u st := rfl
@[simp] theorem exec_shr (p : BitVec 2) (t : BitVec 9) (u : BitVec 9) (st : State) : exec (.shr p t u) st = execShr p t u st := rfl
@[simp] theorem exec_shra (p : BitVec 2) (t : BitVec 9) (u : BitVec 9) (st : State) : exec (.shra p t u) st = execShra p t u st := rfl
@[simp] theorem exec_rot (p : BitVec 2) (t : BitVec 9) (u : BitVec 9) (st : State) : exec (.rot p t u) st = execRot p t u st := rfl
@[simp] theorem exec_clz (p : BitVec 2) (t : BitVec 9) (u : BitVec 9) (st : State) : exec (.clz p t u) st = execClz p t u st := rfl
@[simp] theorem exec_popc (p : BitVec 2) (t : BitVec 9) (u : BitVec 9) (st : State) : exec (.popc p t u) st = execPopc p t u st := rfl
@[simp] theorem exec_bfx (p : BitVec 2) (t : BitVec 9) (u : BitVec 9) (n : BitVec 1) (st : State) : exec (.bfx p t u n) st = execBfx p t u n st := rfl
@[simp] theorem exec_bfi (p : BitVec 2) (t : BitVec 9) (u : BitVec 9) (st : State) : exec (.bfi p t u) st = execBfi p t u st := rfl
@[simp] theorem exec_cmp (p : BitVec 2) (t : BitVec 9) (u : BitVec 9) (c : BitVec 3) (n : BitVec 1) (st : State) : exec (.cmp p t u c n) st = execCmp p t u c n st := rfl
@[simp] theorem exec_testBits (p : BitVec 2) (t : BitVec 9) (u : BitVec 9) (z : BitVec 1) (st : State) : exec (.testBits p t u z) st = execTestBits p t u z st := rfl
@[simp] theorem exec_sel (p : BitVec 2) (t : BitVec 9) (u : BitVec 9) (st : State) : exec (.sel p t u) st = execSel p t u st := rfl
@[simp] theorem exec_stkg (p : BitVec 2) (t : BitVec 9) (u : BitVec 9) (st : State) : exec (.stkg p t u) st = execStkg p t u st := rfl
@[simp] theorem exec_stks (p : BitVec 2) (t : BitVec 9) (u : BitVec 9) (st : State) : exec (.stks p t u) st = execStks p t u st := rfl
@[simp] theorem exec_stkc (p : BitVec 2) (t : BitVec 9) (u : BitVec 9) (st : State) : exec (.stkc p t u) st = execStkc p t u st := rfl
@[simp] theorem exec_fadd (p : BitVec 2) (t : BitVec 9) (u : BitVec 9) (st : State) : exec (.fadd p t u) st = execFadd p t u st := rfl
@[simp] theorem exec_fsub (p : BitVec 2) (t : BitVec 9) (u : BitVec 9) (st : State) : exec (.fsub p t u) st = execFsub p t u st := rfl
@[simp] theorem exec_fmul (p : BitVec 2) (t : BitVec 9) (u : BitVec 9) (st : State) : exec (.fmul p t u) st = execFmul p t u st := rfl
@[simp] theorem exec_ffma (p : BitVec 2) (t : BitVec 9) (u : BitVec 9) (st : State) : exec (.ffma p t u) st = execFfma p t u st := rfl
@[simp] theorem exec_fdiv (p : BitVec 2) (t : BitVec 9) (u : BitVec 9) (st : State) : exec (.fdiv p t u) st = execFdiv p t u st := rfl
@[simp] theorem exec_fsqrt (p : BitVec 2) (t : BitVec 9) (u : BitVec 9) (st : State) : exec (.fsqrt p t u) st = execFsqrt p t u st := rfl
@[simp] theorem exec_fmin (p : BitVec 2) (t : BitVec 9) (u : BitVec 9) (st : State) : exec (.fmin p t u) st = execFmin p t u st := rfl
@[simp] theorem exec_fmax (p : BitVec 2) (t : BitVec 9) (u : BitVec 9) (st : State) : exec (.fmax p t u) st = execFmax p t u st := rfl
@[simp] theorem exec_fabs (p : BitVec 2) (t : BitVec 9) (u : BitVec 9) (st : State) : exec (.fabs p t u) st = execFabs p t u st := rfl
@[simp] theorem exec_fneg (p : BitVec 2) (t : BitVec 9) (u : BitVec 9) (st : State) : exec (.fneg p t u) st = execFneg p t u st := rfl
@[simp] theorem exec_fcmp (p : BitVec 2) (t : BitVec 9) (u : BitVec 9) (c : BitVec 3) (st : State) : exec (.fcmp p t u c) st = execFcmp p t u c st := rfl
@[simp] theorem exec_fclass (p : BitVec 2) (t : BitVec 9) (u : BitVec 9) (st : State) : exec (.fclass p t u) st = execFclass p t u st := rfl
@[simp] theorem exec_fexp2 (p : BitVec 2) (t : BitVec 9) (u : BitVec 9) (st : State) : exec (.fexp2 p t u) st = execFexp2 p t u st := rfl
@[simp] theorem exec_flog2 (p : BitVec 2) (t : BitVec 9) (u : BitVec 9) (st : State) : exec (.flog2 p t u) st = execFlog2 p t u st := rfl
@[simp] theorem exec_frcp (p : BitVec 2) (t : BitVec 9) (u : BitVec 9) (st : State) : exec (.frcp p t u) st = execFrcp p t u st := rfl
@[simp] theorem exec_frsq (p : BitVec 2) (t : BitVec 9) (u : BitVec 9) (st : State) : exec (.frsq p t u) st = execFrsq p t u st := rfl
@[simp] theorem exec_ftanh (p : BitVec 2) (t : BitVec 9) (u : BitVec 9) (st : State) : exec (.ftanh p t u) st = execFtanh p t u st := rfl
@[simp] theorem exec_cvt (p : BitVec 2) (t : BitVec 9) (u : BitVec 9) (f : BitVec 4) (st : State) : exec (.cvt p t u f) st = execCvt p t u f st := rfl
@[simp] theorem exec_narrow (p : BitVec 2) (t : BitVec 9) (u : BitVec 9) (f : BitVec 4) (st : State) : exec (.narrow p t u f) st = execNarrow p t u f st := rfl
@[simp] theorem exec_final (p : BitVec 2) (t : BitVec 9) (f : BitVec 4) (m : BitVec 3) (st : State) : exec (.final p t f m) st = execFinal p t f m st := rfl
@[simp] theorem exec_scale (p : BitVec 2) (t : BitVec 9) (u : BitVec 9) (st : State) : exec (.scale p t u) st = execScale p t u st := rfl
@[simp] theorem exec_mxsc (p : BitVec 2) (t : BitVec 9) (u : BitVec 9) (f : BitVec 4) (st : State) : exec (.mxsc p t u f) st = execMxsc p t u f st := rfl
@[simp] theorem exec_dot4 (p : BitVec 2) (t : BitVec 9) (u : BitVec 9) (o : BitVec 1) (g : BitVec 2) (st : State) : exec (.dot4 p t u o g) st = execDot4 p t u o g st := rfl
@[simp] theorem exec_dot8 (p : BitVec 2) (t : BitVec 9) (u : BitVec 9) (o : BitVec 1) (g : BitVec 2) (st : State) : exec (.dot8 p t u o g) st = execDot8 p t u o g st := rfl
@[simp] theorem exec_addp (p : BitVec 2) (t : BitVec 9) (u : BitVec 9) (m : BitVec 2) (w : BitVec 2) (st : State) : exec (.addp p t u m w) st = execAddp p t u m w st := rfl
@[simp] theorem exec_shlp (p : BitVec 2) (t : BitVec 9) (u : BitVec 9) (w : BitVec 2) (st : State) : exec (.shlp p t u w) st = execShlp p t u w st := rfl
@[simp] theorem exec_shrp (p : BitVec 2) (t : BitVec 9) (u : BitVec 9) (k : BitVec 1) (w : BitVec 2) (st : State) : exec (.shrp p t u k w) st = execShrp p t u k w st := rfl
@[simp] theorem exec_bperm (p : BitVec 2) (t : BitVec 9) (u : BitVec 9) (st : State) : exec (.bperm p t u) st = execBperm p t u st := rfl
@[simp] theorem exec_sdcvt (p : BitVec 2) (t : BitVec 9) (u : BitVec 9) (st : State) : exec (.sdcvt p t u) st = execSdcvt p t u st := rfl
@[simp] theorem exec_sdadd (p : BitVec 2) (t : BitVec 9) (u : BitVec 9) (st : State) : exec (.sdadd p t u) st = execSdadd p t u st := rfl
@[simp] theorem exec_sdmul (p : BitVec 2) (t : BitVec 9) (u : BitVec 9) (st : State) : exec (.sdmul p t u) st = execSdmul p t u st := rfl
@[simp] theorem exec_sdcut (p : BitVec 2) (t : BitVec 9) (u : BitVec 9) (st : State) : exec (.sdcut p t u) st = execSdcut p t u st := rfl
@[simp] theorem exec_sdcmp (p : BitVec 2) (t : BitVec 9) (u : BitVec 9) (c : BitVec 3) (st : State) : exec (.sdcmp p t u c) st = execSdcmp p t u c st := rfl
@[simp] theorem exec_sdtowf (p : BitVec 2) (t : BitVec 9) (u : BitVec 9) (st : State) : exec (.sdtowf p t u) st = execSdtowf p t u st := rfl
@[simp] theorem exec_rng (p : BitVec 2) (t : BitVec 9) (u : BitVec 9) (w : BitVec 1) (st : State) : exec (.rng p t u w) st = execRng p t u w st := rfl
@[simp] theorem exec_inPort (p : BitVec 2) (t : BitVec 9) (n : BitVec 5) (k : BitVec 1) (s : BitVec 4) (st : State) : exec (.inPort p t n k s) st = execInPort p t n k s st := rfl
@[simp] theorem exec_inCnt (p : BitVec 2) (t : BitVec 9) (n : BitVec 5) (st : State) : exec (.inCnt p t n) st = execInCnt p t n st := rfl
@[simp] theorem exec_inSpc (p : BitVec 2) (t : BitVec 9) (n : BitVec 5) (st : State) : exec (.inSpc p t n) st = execInSpc p t n st := rfl
@[simp] theorem exec_inAcc (p : BitVec 2) (t : BitVec 9) (k : BitVec 2) (s : BitVec 4) (st : State) : exec (.inAcc p t k s) st = execInAcc p t k s st := rfl
@[simp] theorem exec_inMrk (p : BitVec 2) (t : BitVec 9) (n : BitVec 5) (st : State) : exec (.inMrk p t n) st = execInMrk p t n st := rfl
@[simp] theorem exec_outPort (p : BitVec 2) (n : BitVec 8) (k : BitVec 1) (s : BitVec 4) (st : State) : exec (.outPort p n k s) st = execOutPort p n k s st := rfl
@[simp] theorem exec_outm (p : BitVec 2) (n : BitVec 8) (k : BitVec 1) (s : BitVec 4) (st : State) : exec (.outm p n k s) st = execOutm p n k s st := rfl
@[simp] theorem exec_mrk (p : BitVec 2) (n : BitVec 8) (k : BitVec 1) (s : BitVec 4) (st : State) : exec (.mrk p n k s) st = execMrk p n k s st := rfl
@[simp] theorem exec_segl (p : BitVec 2) (n : BitVec 8) (r : BitVec 2) (st : State) : exec (.segl p n r) st = execSegl p n r st := rfl
@[simp] theorem exec_segn (p : BitVec 2) (n : BitVec 8) (q : BitVec 5) (st : State) : exec (.segn p n q) st = execSegn p n q st := rfl
@[simp] theorem exec_rsum (p : BitVec 2) (t : BitVec 9) (u : BitVec 9) (y : BitVec 2) (r : BitVec 2) (st : State) : exec (.rsum p t u y r) st = execRsum p t u y r st := rfl
@[simp] theorem exec_rmax (p : BitVec 2) (t : BitVec 9) (u : BitVec 9) (y : BitVec 2) (r : BitVec 2) (st : State) : exec (.rmax p t u y r) st = execRmax p t u y r st := rfl
@[simp] theorem exec_rmin (p : BitVec 2) (t : BitVec 9) (u : BitVec 9) (y : BitVec 2) (r : BitVec 2) (st : State) : exec (.rmin p t u y r) st = execRmin p t u y r st := rfl
@[simp] theorem exec_strmMem (p : BitVec 2) (l : BitVec 5) (d : BitVec 1) (n : BitVec 5) (st : State) : exec (.strmMem p l d n) st = execStrmMem p l d n st := rfl
@[simp] theorem exec_strmTile (p : BitVec 2) (l : BitVec 5) (d : BitVec 1) (n : BitVec 5) (st : State) : exec (.strmTile p l d n) st = execStrmTile p l d n st := rfl
@[simp] theorem exec_strmDrain (p : BitVec 2) (l : BitVec 5) (i : BitVec 7) (st : State) : exec (.strmDrain p l i) st = execStrmDrain p l i st := rfl
@[simp] theorem exec_strmAcc (p : BitVec 2) (n : BitVec 8) (z : BitVec 1) (o : BitVec 2) (k : BitVec 2) (st : State) : exec (.strmAcc p n z o k) st = execStrmAcc p n z o k st := rfl
@[simp] theorem exec_recGet (p : BitVec 2) (t : BitVec 9) (u : BitVec 9) (k : BitVec 4) (st : State) : exec (.recGet p t u k) st = execRecGet p t u k st := rfl
@[simp] theorem exec_recSet (p : BitVec 2) (t : BitVec 9) (u : BitVec 9) (k : BitVec 4) (st : State) : exec (.recSet p t u k) st = execRecSet p t u k st := rfl
@[simp] theorem exec_recNew (p : BitVec 2) (t : BitVec 9) (u : BitVec 9) (k : BitVec 4) (st : State) : exec (.recNew p t u k) st = execRecNew p t u k st := rfl
@[simp] theorem exec_recDone (p : BitVec 2) (t : BitVec 9) (u : BitVec 9) (k : BitVec 3) (st : State) : exec (.recDone p t u k) st = execRecDone p t u k st := rfl
@[simp] theorem exec_recRej (p : BitVec 2) (t : BitVec 9) (u : BitVec 9) (k : BitVec 3) (st : State) : exec (.recRej p t u k) st = execRecRej p t u k st := rfl
@[simp] theorem exec_steer (p : BitVec 2) (t : BitVec 9) (u : BitVec 9) (o : BitVec 1) (q : BitVec 2) (st : State) : exec (.steer p t u o q) st = execSteer p t u o q st := rfl
@[simp] theorem exec_merge (p : BitVec 2) (t : BitVec 9) (u : BitVec 9) (m : BitVec 4) (st : State) : exec (.merge p t u m) st = execMerge p t u m st := rfl
@[simp] theorem exec_omerge (p : BitVec 2) (t : BitVec 9) (u : BitVec 9) (st : State) : exec (.omerge p t u) st = execOmerge p t u st := rfl
@[simp] theorem exec_recirc (p : BitVec 2) (t : BitVec 9) (u : BitVec 9) (st : State) : exec (.recirc p t u) st = execRecirc p t u st := rfl
@[simp] theorem exec_ctxsw (p : BitVec 2) (n : BitVec 8) (c : BitVec 2) (st : State) : exec (.ctxsw p n c) st = execCtxsw p n c st := rfl
@[simp] theorem exec_fgstage (p : BitVec 2) (st : State) : exec (.fgstage p) st = execFgstage p st := rfl
@[simp] theorem exec_fgseed (p : BitVec 2) (st : State) : exec (.fgseed p) st = execFgseed p st := rfl
@[simp] theorem exec_fgstat (p : BitVec 2) (t : BitVec 9) (u : BitVec 9) (f : BitVec 4) (st : State) : exec (.fgstat p t u f) st = execFgstat p t u f st := rfl
@[simp] theorem exec_ld (p : BitVec 2) (t : BitVec 9) (l : BitVec 5) (y : BitVec 4) (st : State) : exec (.ld p t l y) st = execLd p t l y st := rfl
@[simp] theorem exec_ldi (p : BitVec 2) (t : BitVec 9) (l : BitVec 5) (y : BitVec 4) (st : State) : exec (.ldi p t l y) st = execLdi p t l y st := rfl
@[simp] theorem exec_lda (p : BitVec 2) (t : BitVec 9) (l : BitVec 5) (y : BitVec 4) (s : BitVec 3) (st : State) : exec (.lda p t l y s) st = execLda p t l y s st := rfl
@[simp] theorem exec_st (p : BitVec 2) (l : BitVec 5) (y : BitVec 4) (m : BitVec 3) (st : State) : exec (.st p l y m) st = execSt p l y m st := rfl
@[simp] theorem exec_stl (p : BitVec 2) (l : BitVec 5) (y : BitVec 4) (m : BitVec 3) (s : BitVec 3) (st : State) : exec (.stl p l y m s) st = execStl p l y m s st := rfl
@[simp] theorem exec_ldimg (p : BitVec 2) (t : BitVec 9) (l : BitVec 5) (k : BitVec 1) (st : State) : exec (.ldimg p t l k) st = execLdimg p t l k st := rfl
@[simp] theorem exec_stimg (p : BitVec 2) (l : BitVec 5) (k : BitVec 1) (st : State) : exec (.stimg p l k) st = execStimg p l k st := rfl
@[simp] theorem exec_till (p : BitVec 2) (l : BitVec 5) (st : State) : exec (.till p l) st = execTill p l st := rfl
@[simp] theorem exec_tillg (p : BitVec 2) (l : BitVec 5) (st : State) : exec (.tillg p l) st = execTillg p l st := rfl
@[simp] theorem exec_pres (p : BitVec 2) (t : BitVec 9) (l : BitVec 5) (st : State) : exec (.pres p t l) st = execPres p t l st := rfl
@[simp] theorem exec_atom (p : BitVec 2) (t : BitVec 9) (l : BitVec 5) (o : BitVec 3) (w : BitVec 1) (a : BitVec 2) (s : BitVec 2) (st : State) : exec (.atom p t l o w a s) st = execAtom p t l o w a s st := rfl
@[simp] theorem exec_fatom (p : BitVec 2) (t : BitVec 9) (l : BitVec 5) (a : BitVec 2) (s : BitVec 2) (st : State) : exec (.fatom p t l a s) st = execFatom p t l a s st := rfl
@[simp] theorem exec_cpyl (p : BitVec 2) (l : BitVec 5) (e : BitVec 3) (st : State) : exec (.cpyl p l e) st = execCpyl p l e st := rfl
@[simp] theorem exec_gath (p : BitVec 2) (l : BitVec 5) (e : BitVec 2) (st : State) : exec (.gath p l e) st = execGath p l e st := rfl
@[simp] theorem exec_scat (p : BitVec 2) (l : BitVec 5) (e : BitVec 2) (st : State) : exec (.scat p l e) st = execScat p l e st := rfl
@[simp] theorem exec_coll (p : BitVec 2) (l : BitVec 5) (st : State) : exec (.coll p l) st = execColl p l st := rfl
@[simp] theorem exec_resp (p : BitVec 2) (t : BitVec 9) (l : BitVec 5) (e : BitVec 4) (st : State) : exec (.resp p t l e) st = execResp p t l e st := rfl
@[simp] theorem exec_fence (p : BitVec 2) (l : BitVec 5) (s : BitVec 3) (st : State) : exec (.fence p l s) st = execFence p l s st := rfl
@[simp] theorem exec_xfence (p : BitVec 2) (t : BitVec 9) (l : BitVec 5) (s : BitVec 3) (st : State) : exec (.xfence p t l s) st = execXfence p t l s st := rfl
@[simp] theorem exec_xwait (p : BitVec 2) (l : BitVec 5) (st : State) : exec (.xwait p l) st = execXwait p l st := rfl
@[simp] theorem exec_tld (p : BitVec 2) (l : BitVec 5) (k : BitVec 4) (st : State) : exec (.tld p l k) st = execTld p l k st := rfl
@[simp] theorem exec_tst (p : BitVec 2) (l : BitVec 5) (k : BitVec 4) (st : State) : exec (.tst p l k) st = execTst p l k st := rfl
@[simp] theorem exec_tzero (p : BitVec 2) (k : BitVec 4) (st : State) : exec (.tzero p k) st = execTzero p k st := rfl
@[simp] theorem exec_treshape (p : BitVec 2) (k : BitVec 4) (st : State) : exec (.treshape p k) st = execTreshape p k st := rfl
@[simp] theorem exec_tmov (p : BitVec 2) (k : BitVec 4) (st : State) : exec (.tmov p k) st = execTmov p k st := rfl
@[simp] theorem exec_tfill (p : BitVec 2) (k : BitVec 4) (st : State) : exec (.tfill p k) st = execTfill p k st := rfl
@[simp] theorem exec_wloadT (p : BitVec 2) (st : State) : exec (.wloadT p) st = execWloadT p st := rfl
@[simp] theorem exec_wloadW (p : BitVec 2) (st : State) : exec (.wloadW p) st = execWloadW p st := rfl
@[simp] theorem exec_wswap (p : BitVec 2) (st : State) : exec (.wswap p) st = execWswap p st := rfl
@[simp] theorem exec_mma (p : BitVec 2) (a : BitVec 4) (st : State) : exec (.mma p a) st = execMma p a st := rfl
@[simp] theorem exec_mmas (p : BitVec 2) (a : BitVec 4) (st : State) : exec (.mmas p a) st = execMmas p a st := rfl
@[simp] theorem exec_accz (p : BitVec 2) (m : BitVec 4) (st : State) : exec (.accz p m) st = execAccz p m st := rfl
@[simp] theorem exec_accd (p : BitVec 2) (d : BitVec 4) (st : State) : exec (.accd p d) st = execAccd p d st := rfl
@[simp] theorem exec_sortcfg (p : BitVec 2) (st : State) : exec (.sortcfg p) st = execSortcfg p st := rfl
@[simp] theorem exec_topk (p : BitVec 2) (k : BitVec 4) (st : State) : exec (.topk p k) st = execTopk p k st := rfl
@[simp] theorem exec_guess (p : BitVec 2) (st : State) : exec (.guess p) st = execGuess p st := rfl
@[simp] theorem exec_genofIn (p : BitVec 2) (t : BitVec 9) (u : BitVec 9) (st : State) : exec (.genofIn p t u) st = execGenofIn p t u st := rfl
@[simp] theorem exec_genofPrec (p : BitVec 2) (t : BitVec 9) (u : BitVec 9) (st : State) : exec (.genofPrec p t u) st = execGenofPrec p t u st := rfl
@[simp] theorem exec_launchp (p : BitVec 2) (l : BitVec 5) (st : State) : exec (.launchp p l) st = execLaunchp p l st := rfl
@[simp] theorem exec_prune (p : BitVec 2) (l : BitVec 5) (f : BitVec 1) (r : BitVec 1) (st : State) : exec (.prune p l f r) st = execPrune p l f r st := rfl
@[simp] theorem exec_seqOpen (p : BitVec 2) (l : BitVec 5) (st : State) : exec (.seqOpen p l) st = execSeqOpen p l st := rfl
@[simp] theorem exec_seqClose (p : BitVec 2) (l : BitVec 5) (st : State) : exec (.seqClose p l) st = execSeqClose p l st := rfl
@[simp] theorem exec_barInit (p : BitVec 2) (l : BitVec 5) (s : BitVec 3) (b : BitVec 4) (st : State) : exec (.barInit p l s b) st = execBarInit p l s b st := rfl
@[simp] theorem exec_barArr (p : BitVec 2) (l : BitVec 5) (s : BitVec 3) (b : BitVec 4) (st : State) : exec (.barArr p l s b) st = execBarArr p l s b st := rfl
@[simp] theorem exec_barWait (p : BitVec 2) (l : BitVec 5) (s : BitVec 3) (b : BitVec 4) (st : State) : exec (.barWait p l s b) st = execBarWait p l s b st := rfl
@[simp] theorem exec_spawn (p : BitVec 2) (l : BitVec 5) (st : State) : exec (.spawn p l) st = execSpawn p l st := rfl
@[simp] theorem exec_graise (p : BitVec 2) (t : BitVec 9) (l : BitVec 5) (st : State) : exec (.graise p t l) st = execGraise p t l st := rfl
@[simp] theorem exec_gidxIdx (p : BitVec 2) (t : BitVec 9) (st : State) : exec (.gidxIdx p t) st = execGidxIdx p t st := rfl
@[simp] theorem exec_gidxCnt (p : BitVec 2) (t : BitVec 9) (st : State) : exec (.gidxCnt p t) st = execGidxCnt p t st := rfl
@[simp] theorem exec_tdone (p : BitVec 2) (l : BitVec 5) (j : BitVec 3) (st : State) : exec (.tdone p l j) st = execTdone p l j st := rfl
@[simp] theorem exec_trap (p : BitVec 2) (i : BitVec 13) (st : State) : exec (.trap p i) st = execTrap p i st := rfl
@[simp] theorem exec_eret (p : BitVec 2) (e : BitVec 3) (st : State) : exec (.eret p e) st = execEret p e st := rfl
@[simp] theorem exec_sysc (p : BitVec 2) (i : BitVec 13) (st : State) : exec (.sysc p i) st = execSysc p i st := rfl
@[simp] theorem exec_ckptCont (p : BitVec 2) (l : BitVec 5) (st : State) : exec (.ckptCont p l) st = execCkptCont p l st := rfl
@[simp] theorem exec_ckptYield (p : BitVec 2) (l : BitVec 5) (st : State) : exec (.ckptYield p l) st = execCkptYield p l st := rfl
@[simp] theorem exec_tlbi (p : BitVec 2) (l : BitVec 5) (k : BitVec 2) (s : BitVec 3) (st : State) : exec (.tlbi p l k s) st = execTlbi p l k s st := rfl
@[simp] theorem exec_brk (p : BitVec 2) (i : BitVec 13) (st : State) : exec (.brk p i) st = execBrk p i st := rfl
@[simp] theorem exec_perfCfg (p : BitVec 2) (st : State) : exec (.perfCfg p) st = execPerfCfg p st := rfl
@[simp] theorem exec_perfRd (p : BitVec 2) (t : BitVec 9) (u : BitVec 9) (st : State) : exec (.perfRd p t u) st = execPerfRd p t u st := rfl
@[simp] theorem exec_perfCnt (p : BitVec 2) (t : BitVec 9) (u : BitVec 9) (st : State) : exec (.perfCnt p t u) st = execPerfCnt p t u st := rfl
@[simp] theorem exec_perfClr (p : BitVec 2) (st : State) : exec (.perfClr p) st = execPerfClr p st := rfl
@[simp] theorem exec_haltdStop (p : BitVec 2) (st : State) : exec (.haltdStop p) st = execHaltdStop p st := rfl
@[simp] theorem exec_haltdFrz (p : BitVec 2) (st : State) : exec (.haltdFrz p) st = execHaltdFrz p st := rfl
@[simp] theorem exec_crossDieTimeout (req : CrossReq) (st : State) : exec (.crossDieTimeout req) st = execCrossDieTimeout req st := rfl
@[simp] theorem exec_lateResponse (die : Nat) (st : State) : exec (.lateResponse die) st = execLateResponse die st := rfl
@[simp] theorem exec_linkStall (die : Nat) (link : Nat) (st : State) : exec (.linkStall die link) st = execLinkStall die link st := rfl
@[simp] theorem exec_linkStallCleared (die : Nat) (link : Nat) (st : State) : exec (.linkStallCleared die link) st = execLinkStallCleared die link st := rfl
@[simp] theorem exec_linkTraining (port : Nat) (node : Nat) (lmin : Nat) (lmax : Nat) (hmin : Nat) (hmax : Nat) (st : State) : exec (.linkTraining port node lmin lmax hmin hmax) st = execLinkTraining port node lmin lmax hmin hmax st := rfl
@[simp] theorem exec_flitReceive (port : Nat) (flit : List Byte) (st : State) : exec (.flitReceive port flit) st = execFlitReceive port flit st := rfl
@[simp] theorem exec_flitNak (port : Nat) (seq : Nat) (st : State) : exec (.flitNak port seq) st = execFlitNak port seq st := rfl
@[simp] theorem exec_portRetrain (port : Nat) (ok : Bool) (st : State) : exec (.portRetrain port ok) st = execPortRetrain port ok st := rfl
@[simp] theorem exec_rocePacket (pkt : RocePacket) (st : State) : exec (.rocePacket pkt) st = execRocePacket pkt st := rfl
@[simp] theorem exec_launch (msg : HostMsg) (st : State) : exec (.launch msg) st = execLaunch msg st := rfl
@[simp] theorem exec_prepare (msg : HostMsg) (st : State) : exec (.prepare msg) st = execPrepare msg st := rfl
@[simp] theorem exec_loaderShardsFetched (shards : List (List Byte)) (st : State) : exec (.loaderShardsFetched shards) st = execLoaderShardsFetched shards st := rfl
@[simp] theorem exec_switch (msg : HostMsg) (st : State) : exec (.switch msg) st = execSwitch msg st := rfl
@[simp] theorem exec_abort (msg : HostMsg) (st : State) : exec (.abort msg) st = execAbort msg st := rfl
@[simp] theorem exec_attest (msg : HostMsg) (st : State) : exec (.attest msg) st = execAttest msg st := rfl
@[simp] theorem exec_setPtbase (msg : HostMsg) (st : State) : exec (.setPtbase msg) st = execSetPtbase msg st := rfl
@[simp] theorem exec_frostRead (msg : HostMsg) (st : State) : exec (.frostRead msg) st = execFrostRead msg st := rfl
@[simp] theorem exec_dbgSample (msg : HostMsg) (st : State) : exec (.dbgSample msg) st = execDbgSample msg st := rfl
@[simp] theorem exec_dbgRead (msg : HostMsg) (st : State) : exec (.dbgRead msg) st = execDbgRead msg st := rfl
@[simp] theorem exec_resume (msg : HostMsg) (st : State) : exec (.resume msg) st = execResume msg st := rfl
@[simp] theorem exec_kill (msg : HostMsg) (st : State) : exec (.kill msg) st = execKill msg st := rfl
@[simp] theorem exec_replayArm (msg : HostMsg) (st : State) : exec (.replayArm msg) st = execReplayArm msg st := rfl
@[simp] theorem exec_replayRead (msg : HostMsg) (st : State) : exec (.replayRead msg) st = execReplayRead msg st := rfl
@[simp] theorem exec_errlogRead (msg : HostMsg) (st : State) : exec (.errlogRead msg) st = execErrlogRead msg st := rfl
@[simp] theorem exec_dumpRead (msg : HostMsg) (st : State) : exec (.dumpRead msg) st = execDumpRead msg st := rfl
@[simp] theorem exec_dumpClear (msg : HostMsg) (st : State) : exec (.dumpClear msg) st = execDumpClear msg st := rfl
@[simp] theorem exec_groupStart (lid : Nat) (st : State) : exec (.groupStart lid) st = execGroupStart lid st := rfl
@[simp] theorem exec_readyListServe (die : Nat) (st : State) : exec (.readyListServe die) st = execReadyListServe die st := rfl
@[simp] theorem exec_sectionDone (lid : Nat) (node : Nat) (group : Nat) (st : State) : exec (.sectionDone lid node group) st = execSectionDone lid node group st := rfl
@[simp] theorem exec_taskRecordServe (die : Nat) (st : State) : exec (.taskRecordServe die) st = execTaskRecordServe die st := rfl
@[simp] theorem exec_trellisEnable (page : PageRef) (node : Nat) (count : Nat) (st : State) : exec (.trellisEnable page node count) st = execTrellisEnable page node count st := rfl
@[simp] theorem exec_trellisDone (page : PageRef) (node : Nat) (child : Nat) (st : State) : exec (.trellisDone page node child) st = execTrellisDone page node child st := rfl
@[simp] theorem exec_launchCompletion (lid : Nat) (st : State) : exec (.launchCompletion lid) st = execLaunchCompletion lid st := rfl
@[simp] theorem exec_elementFire (el : ElemRef) (st : State) : exec (.elementFire el) st = execElementFire el st := rfl
@[simp] theorem exec_conditionTokenArrival (lid : Nat) (chan : Nat) (st : State) : exec (.conditionTokenArrival lid chan) st = execConditionTokenArrival lid chan st := rfl
@[simp] theorem exec_pruneArrival (lid : Nat) (chan : Nat) (st : State) : exec (.pruneArrival lid chan) st = execPruneArrival lid chan st := rfl
@[simp] theorem exec_drainMarkerArrival (lid : Nat) (chan : Nat) (st : State) : exec (.drainMarkerArrival lid chan) st = execDrainMarkerArrival lid chan st := rfl
@[simp] theorem exec_drainReport (die : Nat) (serial : Nat) (st : State) : exec (.drainReport die serial) st = execDrainReport die serial st := rfl
@[simp] theorem exec_retire (filter : FilterRef) (serial : Nat) (st : State) : exec (.retire filter serial) st = execRetire filter serial st := rfl
@[simp] theorem exec_memnodePruneScan (node : NodeRef) (st : State) : exec (.memnodePruneScan node) st = execMemnodePruneScan node st := rfl
@[simp] theorem exec_guessRecord (die : Nat) (st : State) : exec (.guessRecord die) st = execGuessRecord die st := rfl
@[simp] theorem exec_commitNotice (dest : NoticeTo) (lane : Nat) (gen : Nat) (st : State) : exec (.commitNotice dest lane gen) st = execCommitNotice dest lane gen st := rfl
@[simp] theorem exec_foragerDecision (page : PageRef) (ctx : Nat) (st : State) : exec (.foragerDecision page ctx) st = execForagerDecision page ctx st := rfl
@[simp] theorem exec_bankAccess (req : BankReq) (st : State) : exec (.bankAccess req) st = execBankAccess req st := rfl
@[simp] theorem exec_pageWalk (owner : TlbOwner) (asid : Nat) (va : Nat) (st : State) : exec (.pageWalk owner asid va) st = execPageWalk owner asid va st := rfl
@[simp] theorem exec_verticalParityError (die : Nat) (addr : Nat) (wr : Bool) (lane : Nat) (st : State) : exec (.verticalParityError die addr wr lane) st = execVerticalParityError die addr wr lane st := rfl
@[simp] theorem exec_controlLinkLoss (die : Nat) (st : State) : exec (.controlLinkLoss die) st = execControlLinkLoss die st := rfl
@[simp] theorem exec_engineResponse (die : Nat) (engine : Nat) (core : CoreRef) (latency : Nat) (st : State) : exec (.engineResponse die engine core latency) st = execEngineResponse die engine core latency st := rfl
@[simp] theorem exec_collGroupFill (die : Nat) (core : CoreRef) (st : State) : exec (.collGroupFill die core) st = execCollGroupFill die core st := rfl
@[simp] theorem exec_streamCommandBeat (core : CoreRef) (seq : Nat) (st : State) : exec (.streamCommandBeat core seq) st = execStreamCommandBeat core seq st := rfl
@[simp] theorem exec_blockBegin (core : CoreRef) (st : State) : exec (.blockBegin core) st = execBlockBegin core st := rfl
@[simp] theorem exec_loadResponse (core : CoreRef) (uid : Nat) (slot : Nat) (st : State) : exec (.loadResponse core uid slot) st = execLoadResponse core uid slot st := rfl
@[simp] theorem exec_blockCommit (core : CoreRef) (st : State) : exec (.blockCommit core) st = execBlockCommit core st := rfl
@[simp] theorem exec_deferredFault (core : CoreRef) (code : Nat) (va : Nat) (lsid : Nat) (st : State) : exec (.deferredFault core code va lsid) st = execDeferredFault core code va lsid st := rfl
@[simp] theorem exec_cutStart (lid : Nat) (psets : List Nat) (why : CutWhy) (st : State) : exec (.cutStart lid psets why) st = execCutStart lid psets why st := rfl
@[simp] theorem exec_dormancyMarkerArrival (lid : Nat) (chan : Nat) (st : State) : exec (.dormancyMarkerArrival lid chan) st = execDormancyMarkerArrival lid chan st := rfl
@[simp] theorem exec_cutComplete (lid : Nat) (st : State) : exec (.cutComplete lid) st = execCutComplete lid st := rfl
@[simp] theorem exec_dormantResume (lid : Nat) (st : State) : exec (.dormantResume lid) st = execDormantResume lid st := rfl
@[simp] theorem exec_noProgressLimit (agent : Agent) (st : State) : exec (.noProgressLimit agent) st = execNoProgressLimit agent st := rfl
@[simp] theorem exec_breakpointFire (n : Nat) (st : State) : exec (.breakpointFire n) st = execBreakpointFire n st := rfl
@[simp] theorem exec_dbpWrite (n : Nat) (value : BitVec 128) (st : State) : exec (.dbpWrite n value) st = execDbpWrite n value st := rfl
@[simp] theorem exec_gthWrite (die : Nat) (k : Nat) (value : DWord) (st : State) : exec (.gthWrite die k value) st = execGthWrite die k value st := rfl
@[simp] theorem exec_maxflWrite (die : Nat) (lane : Nat) (value : DWord) (st : State) : exec (.maxflWrite die lane value) st = execMaxflWrite die lane value st := rfl
@[simp] theorem exec_ehcfgClr (die : Nat) (engine : Nat) (st : State) : exec (.ehcfgClr die engine) st = execEhcfgClr die engine st := rfl
@[simp] theorem exec_registerWrite (pa : Nat) (value : DWord) (st : State) : exec (.registerWrite pa value) st = execRegisterWrite pa value st := rfl
@[simp] theorem exec_bucketRefill (die : Nat) (port : Nat) (st : State) : exec (.bucketRefill die port) st = execBucketRefill die port st := rfl
@[simp] theorem exec_dieClockStop (die : Nat) (st : State) : exec (.dieClockStop die) st = execDieClockStop die st := rfl
@[simp] theorem exec_dieClockRestart (die : Nat) (st : State) : exec (.dieClockRestart die) st = execDieClockRestart die st := rfl
@[simp] theorem exec_retireAcknowledge (die : Nat) (serial : Nat) (st : State) : exec (.retireAcknowledge die serial) st = execRetireAcknowledge die serial st := rfl
@[simp] theorem exec_tileInstructionCompletion (core : CoreRef) (st : State) : exec (.tileInstructionCompletion core) st = execTileInstructionCompletion core st := rfl
@[simp] theorem exec_powerOn (st : State) : exec (.powerOn) st = execPowerOn st := rfl
@[simp] theorem exec_supplyOutOfRange (st : State) : exec (.supplyOutOfRange) st = execSupplyOutOfRange st := rfl
@[simp] theorem exec_thermalTrip (st : State) : exec (.thermalTrip) st = execThermalTrip st := rfl
@[simp] theorem exec_powerControllerEvaluation (st : State) : exec (.powerControllerEvaluation) st = execPowerControllerEvaluation st := rfl
@[simp] theorem exec_roceRateRecovery (st : State) : exec (.roceRateRecovery) st = execRoceRateRecovery st := rfl
@[simp] theorem exec_loaderLimitExpiry (st : State) : exec (.loaderLimitExpiry) st = execLoaderLimitExpiry st := rfl
@[simp] theorem exec_dispatcherHeadChoice (st : State) : exec (.dispatcherHeadChoice) st = execDispatcherHeadChoice st := rfl
@[simp] theorem exec_imageChecks (st : State) : exec (.imageChecks) st = execImageChecks st := rfl
@[simp] theorem exec_placement (st : State) : exec (.placement) st = execPlacement st := rfl
@[simp] theorem exec_configLoad (st : State) : exec (.configLoad) st = execConfigLoad st := rfl
@[simp] theorem exec_graftStart (st : State) : exec (.graftStart) st = execGraftStart st := rfl
@[simp] theorem exec_graftResume (st : State) : exec (.graftResume) st = execGraftResume st := rfl
@[simp] theorem exec_preemption (st : State) : exec (.preemption) st = execPreemption st := rfl
@[simp] theorem exec_cutTimeout (st : State) : exec (.cutTimeout) st = execCutTimeout st := rfl
@[simp] theorem exec_supplyDroop (st : State) : exec (.supplyDroop) st = execSupplyDroop st := rfl
@[simp] theorem exec_supplyInRange (st : State) : exec (.supplyInRange) st = execSupplyInRange st := rfl

end Sys2Proof.Machine
end

