-- ==== Sys2Proof/Laws/Firing.lean ====
section
/-! SUPPORT. The gate of a firing in each kind of block, and the four forms in which an instruction fires. -/
namespace Sys2Proof.Machine

theorem lets_ps {b : Block} {slot : Nat} {p : BitVec 2} {ps : Bool} (h : b.lets slot p ps) :
    ps = (p != 0 && ((b.operand slot .pred).getD {}).s) := by
  rcases h with ⟨rfl, rfl⟩ | ⟨hp, v, hv, _, rfl⟩
  · simp
  · have hp' : (p != 0) = true := bne_iff_ne.2 hp
    rw [hv, hp']; rfl

theorem lets_fires {b : Block} {slot : Nat} {p : BitVec 2} {ps : Bool} (h : b.lets slot p ps) :
    predFires p ((b.operand slot .pred).getD {}) = true := by
  rcases h with ⟨rfl, _⟩ | ⟨hp, v, hv, hb, _⟩
  · simp [predFires]
  · rw [hv, Option.getD_some, predFires, if_neg hp, hb]; exact beq_self_eq_true _

theorem lets_arrived {b : Block} {slot : Nat} {p : BitVec 2} {ps : Bool} (h : b.lets slot p ps) :
    (p == 0 || (b.operand slot .pred).isSome) = true := by
  rcases h with ⟨rfl, _⟩ | ⟨_, v, hv, _, _⟩
  · simp
  · simp [hv]

/-- Uses without the predicate: what `uses` lists for an instruction. -/
theorem holds_arrived {b : Block} {slot : Nat} {uses : List Pos} {l r t : Img} (hu : Pos.pred ∉ uses)
    (h : b.holdsOps slot uses l r t) : uses.all (fun q => (b.operand slot q).isSome) = true := by
  simp only [List.all_eq_true]
  intro q hq
  cases q with
  | left => simp [h.1 hq]
  | right => simp [h.2.1 hq]
  | third => simp [h.2.2 hq]
  | pred => exact absurd hq hu

theorem arrived_holds {b : Block} {slot : Nat} {uses : List Pos} (h : b.arrived slot uses) :
    b.holdsOps slot uses ((b.operand slot .left).getD {}) ((b.operand slot .right).getD {}) ((b.operand slot .third).getD {}) := by
  refine ⟨fun q => ?_, fun q => ?_, fun q => ?_⟩ <;>
  · obtain ⟨v, hv⟩ := Option.isSome_iff_exists.1 (h _ q)
    rw [hv]; rfl

/-- The gate of a slot that may fire. -/
theorem gate_core {s : State} {c : CoreRef} {bi slot : Nat} {b : Block} {p : BitVec 2} {ps : Bool} {uses : List Pos} {l r t : Img}
    (hu : Pos.pred ∉ uses) (h : CoreSlot s c bi slot b) (hl : b.lets slot p ps) (ho : b.holdsOps slot uses l r t) :
    gate s p uses = .core (firingCtx s c bi slot b p) := by
  have h1 : (b.settled slot || b.fault.isSome) = false := by simp [h.unsettled, h.sound]
  have h2 : (uses.all (fun q => (b.operand slot q).isSome) && (p == 0 || (b.operand slot .pred).isSome)) = true := by
    simp only [holds_arrived hu ho, lets_arrived hl, Bool.and_self]
  simp only [gate, h.focus, h.block, h1, h2, lets_fires hl, if_true, firingCtx]
  rfl

/-- The gate of a slot of an element whose operands have arrived. -/
theorem gate_elem {s : State} {f : Firing} {slot : Nat} {p : BitVec 2} {uses : List Pos} (h : ElemSlot s f slot) (ha : f.arrived slot p uses) :
    gate s p uses = .elem (elemCtxOf f slot p) := by
  have h1 : (f.fired.contains slot || f.fault.isSome) = false := by simp only [h.unfired, h.sound]; rfl
  have h2 : (uses.all (fun q => (f.operand slot q).isSome) && (p == 0 || (f.operand slot .pred).isSome)) = true := by
    have := ha.2
    rcases ha.1 with rfl | hp
    · simpa using this
    · simpa [hp] using this
  simp only [gate, h.focus, h.firing, h1, h2, if_true, elemCtxOf]
  rfl

/-! ### C-blocks -/

theorem execCore_fires {s : State} {c : CoreRef} {bi slot : Nat} {b : Block} {p : BitVec 2} {ps : Bool} {uses : List Pos} {l r t : Img}
    {f : CoreCtx → State} (hu : Pos.pred ∉ uses) (h : CoreSlot s c bi slot b) (hl : b.lets slot p ps) (ho : b.holdsOps slot uses l r t) :
    execCore s p uses f = .next (f (firingCtx s c bi slot b p)) := by
  simp [execCore, gate_core hu h hl ho]

theorem execBoth_core {s : State} {c : CoreRef} {bi slot : Nat} {b : Block} {p : BitVec 2} {ps : Bool} {uses : List Pos} {l r t : Img}
    {f : CoreCtx → State} {g : ElemCtx → State} (hu : Pos.pred ∉ uses) (h : CoreSlot s c bi slot b) (hl : b.lets slot p ps)
    (ho : b.holdsOps slot uses l r t) : execBoth s p uses f g = .next (f (firingCtx s c bi slot b p)) := by
  simp [execBoth, gate_core hu h hl ho]

theorem execAlu_core {s : State} {c : CoreRef} {bi slot : Nat} {b : Block} {p : BitVec 2} {ps : Bool} {uses : List Pos} {l r t : Img}
    {ts : List (BitVec 9)} {fm : Nat → Nat → Img → Nat} {f : AluEnv → Img → Img → Img → AluRes} (hu : Pos.pred ∉ uses)
    (h : CoreSlot s c bi slot b) (hl : b.lets slot p ps) (ho : b.holdsOps slot uses l r t) :
    execAlu s p ts uses fm f = .next ((firingCtx s c bi slot b p).finish s ts
      (f (firingCtx s c bi slot b p).env (firingCtx s c bi slot b p).a (firingCtx s c bi slot b p).b (firingCtx s c bi slot b p).x)) := by
  simp [execAlu, gate_core hu h hl ho]

/-- An instruction that only computes does so in a C-block. -/
theorem computesInCore_of {i : Instr} {p : BitVec 2} {ts : List (BitVec 9)} {uses : List Pos} {fm : Nat → Nat → Img → Nat}
    {f : AluEnv → Img → Img → Img → AluRes} {r : Block → Img → Img → Img → Img × Flags} (hu : Pos.pred ∉ uses)
    (hi : ∀ s, exec i s = execAlu s p ts uses fm f)
    (hr : ∀ (blk : Block) (a b x a' b' x' : Img), (.left ∈ uses → a' = a) → (.right ∈ uses → b' = b) → (.third ∈ uses → x' = x) →
      f { n := 64, mode := blk.mode, satf8 := blk.satf8 } a' b' x' = ⟨(r blk a b x).1, (r blk a b x).2⟩) :
    ComputesInCore i p ts uses r := by
  intro s c bi slot blk ps a b x h hl ho
  rw [hi, execAlu_core hu h hl ho]
  have := hr blk a b x (firingCtx s c bi slot blk p).a (firingCtx s c bi slot blk p).b (firingCtx s c bi slot blk p).x
    (fun q => by simp [firingCtx, ho.1 q]) (fun q => by simp [firingCtx, ho.2.1 q]) (fun q => by simp [firingCtx, ho.2.2 q])
  have he : (firingCtx s c bi slot blk p).env = { n := 64, mode := blk.mode, satf8 := blk.satf8 } := rfl
  rw [he, this, lets_ps hl]
  rfl

/-! What a firing's context does with its block. -/
theorem put_eq {s : State} {x : CoreCtx} (h : x.pc = s.core x.c) (b : Block) : x.put s b = s.putBlock x.c x.bi b := by
  simp [CoreCtx.put, State.putBlock, h]
theorem ask_eq {s : State} {x : CoreCtx} (h : x.pc = s.core x.c) (l : Nat) (a : Act) :
    x.ask s l a = s.putBlock x.c x.bi (x.blk.asks x.slot l a) := put_eq h _
theorem fail_eq {s : State} {x : CoreCtx} (h : x.pc = s.core x.c) (k : Nat) (v : DWord) (l : Nat) :
    x.fail s k v l = s.putBlock x.c x.bi (x.blk.fail k v l) := put_eq h _
theorem illegal_eq {s : State} {x : CoreCtx} (h : x.pc = s.core x.c) (l : Nat) :
    x.illegal s l = s.putBlock x.c x.bi (x.blk.fail 1 (x.blk.word x.slot) l) := put_eq h _
theorem flags_or_none (f : Flags) : f.or {} = f := by cases f; simp [Flags.or]
theorem give_eq {s : State} {x : CoreCtx} (h : x.pc = s.core x.c) (t : BitVec 9) (v : Img) :
    x.give s t v = s.putBlock x.c x.bi (x.blk.computed x.slot [t] ⟨v.v, v.s || x.ps⟩ {}) := put_eq h _

theorem askGive_eq {s : State} {x : CoreCtx} (h : x.pc = s.core x.c) (l : Nat) (a : Act) (t : BitVec 9) (v : Img) :
    x.askGive s l a t v = s.putBlock x.c x.bi ((x.blk.asks x.slot l a).deliver t ⟨v.v, v.s || x.ps⟩) := put_eq h _

/-- An instruction of C-blocks does what its meaning says of its context. -/
theorem firesInCore_of {i : Instr} {p : BitVec 2} {uses : List Pos} {ok : State → CoreCtx → Prop} {next f : State → CoreCtx → State}
    (hu : Pos.pred ∉ uses) (hi : ∀ s, exec i s = execCore s p uses (f s)) (hf : ∀ s x, x.pc = s.core x.c → ok s x → f s x = next s x) :
    FiresInCore i p uses ok next := by
  intro s c bi slot blk ps h hl ha hok
  rw [hi, execCore_fires hu h hl (arrived_holds ha), hf _ _ rfl hok]

/-- The same for an instruction with a meaning in each kind of block. -/
theorem firesInCore_both {i : Instr} {p : BitVec 2} {uses : List Pos} {ok : State → CoreCtx → Prop} {next f : State → CoreCtx → State}
    {g : State → ElemCtx → State} (hu : Pos.pred ∉ uses) (hi : ∀ s, exec i s = execBoth s p uses (f s) (g s))
    (hf : ∀ s x, x.pc = s.core x.c → ok s x → f s x = next s x) : FiresInCore i p uses ok next := by
  intro s c bi slot blk ps h hl ha hok
  rw [hi, execBoth_core hu h hl (arrived_holds ha), hf _ _ rfl hok]

/-! ### E-blocks -/

theorem execElem_fires {s : State} {f : Firing} {slot : Nat} {p : BitVec 2} {uses : List Pos} {g : ElemCtx → State} (h : ElemSlot s f slot)
    (ha : f.arrived slot p uses) : execElem s p uses g = .next (g (elemCtxOf f slot p)) := by
  simp [execElem, gate_elem h ha]

theorem execBoth_elem {s : State} {f : Firing} {slot : Nat} {p : BitVec 2} {uses : List Pos} {k : CoreCtx → State} {g : ElemCtx → State}
    (h : ElemSlot s f slot) (ha : f.arrived slot p uses) : execBoth s p uses k g = .next (g (elemCtxOf f slot p)) := by
  simp [execBoth, gate_elem h ha]

theorem execAlu_elem {s : State} {f : Firing} {slot : Nat} {p : BitVec 2} {uses : List Pos} {ts : List (BitVec 9)}
    {fm : Nat → Nat → Img → Nat} {g : AluEnv → Img → Img → Img → AluRes} (h : ElemSlot s f slot) (ha : f.arrived slot p uses) :
    execAlu s p ts uses fm g = .next ((elemCtxOf f slot p).finish s ts
      ((elemCtxOf f slot p).lanes p uses fm (fun a b c => (g (elemCtxOf f slot p).env a b c).img))) := by
  simp [execAlu, gate_elem h ha]

/-- Lane k of the predicate as a firing sees it. -/
theorem pred_lane (f : Firing) (slot : Nat) (p : BitVec 2) (k : Nat) (hk : k < 16) :
    (elemCtxOf f slot p).p.getD k {} = if p = 0 then { val := some ⟨1, false⟩ }
      else { f.lane slot .pred k with val := (f.lane slot .pred k).val.map (fun v => ⟨if predFires p v then 1 else 0, v.s⟩) } := by
  by_cases hp : p = 0
  · rw [if_pos hp]
    simp only [elemCtxOf, hp, if_true, List.getD_eq_getElem?_getD]
    rw [List.getElem?_replicate, if_pos hk]; rfl
  · simp only [elemCtxOf, hp, if_false, Firing.lane]
    generalize ((f.operand slot .pred).getD noLanes) = l
    simp only [List.getD_eq_getElem?_getD, List.getElem?_map]
    cases l[k]? <;> rfl

theorem fires_iff {f : Firing} {slot : Nat} {p : BitVec 2} {k : Nat} (hk : k < 16) :
    ((elemCtxOf f slot p).p.getD k {}).fires = true ↔ ∃ ps, f.lets slot p k ps := by
  rw [pred_lane f slot p k hk]
  by_cases hp : p = 0
  · simp [hp, LaneV.fires, Firing.lets]
  · simp only [hp, if_false, LaneV.fires, Firing.lets, false_and, ne_eq, not_false_eq_true, true_and, false_or]
    cases hv : (f.lane slot .pred k).val with
    | none => simp
    | some v =>
      simp only [Option.map_some, Option.some.injEq, exists_eq_left', predFires, hp, if_false]
      cases h2 : (v.v.getLsbD 0 == (p == 1))
      · simp only [Bool.false_eq_true, if_false]
        constructor
        · intro h; simp at h
        · rintro ⟨ps, h, -⟩
          rw [h] at h2; simp at h2
      · simp only [if_true]
        exact ⟨fun _ => ⟨v.s, by simpa using h2, rfl⟩, fun _ => by decide⟩

theorem lets_s {f : Firing} {slot : Nat} {p : BitVec 2} {k : Nat} {ps : Bool} (hk : k < 16) (h : f.lets slot p k ps) :
    (((elemCtxOf f slot p).p.getD k {}).val.getD {}).s = ps := by
  rw [pred_lane f slot p k hk]
  rcases h with ⟨rfl, rfl⟩ | ⟨hp, v, hv, _, rfl⟩
  · simp
  · have hp' : ¬ p = 0#2 := hp
    simp [hp', hv]

theorem lanes_getD {x : ElemCtx} {p : BitVec 2} {uses : List Pos} {fm : Nat → Nat → Img → Nat} {r : Img → Img → Img → Img} {k : Nat}
    (hk : k < 16) : (x.lanes p uses fm r).getD k {} =
      laneResult (usedLanes uses (x.a.getD k {}) (x.b.getD k {}) (x.x.getD k {})) (x.p.getD k {}) (p != 0) fm r
        (x.a.getD k {}) (x.b.getD k {}) (x.x.getD k {}) := by
  simp [ElemCtx.lanes, List.getD_eq_getElem?_getD, List.getElem?_map, List.getElem?_range hk]

theorem usedLanes_eq {f : Firing} {slot : Nat} {p : BitVec 2} {uses : List Pos} {k : Nat} (hu : Pos.pred ∉ uses) :
    usedLanes uses ((elemCtxOf f slot p).a.getD k {}) ((elemCtxOf f slot p).b.getD k {}) ((elemCtxOf f slot p).x.getD k {})
      = uses.map (fun q => f.lane slot q k) := by
  apply List.map_congr_left
  intro q hq
  cases q with
  | pred => exact absurd hq hu
  | _ => rfl

/-- An instruction that only computes does so in an E-block. -/
theorem computesInElem_of {i : Instr} {p : BitVec 2} {ts : List (BitVec 9)} {uses : List Pos} {fm : Nat → Nat → Img → Nat}
    {g : AluEnv → Img → Img → Img → AluRes} {r : Img → Img → Img → Img} (hu : Pos.pred ∉ uses)
    (hi : ∀ s, exec i s = execAlu s p ts uses fm g)
    (hr : ∀ (e : AluEnv), e.n = 32 → ∀ (a b x : Img), (g e a b x).img = r a b x) :
    ComputesInElem i p ts uses r := by
  intro s f slot h ha
  refine ⟨_, by rw [hi, execAlu_elem h ha]; rfl, by simp [ElemCtx.lanes], ?_⟩
  intro k hk
  rw [lanes_getD hk, usedLanes_eq hu]
  refine ⟨?_, ?_, ?_⟩
  · have hr' : (laneResult (uses.map (fun q => f.lane slot q k)) ((elemCtxOf f slot p).p.getD k {}) (p != 0) fm
        (fun a b c => (g (elemCtxOf f slot p).env a b c).img) ((elemCtxOf f slot p).a.getD k {}) ((elemCtxOf f slot p).b.getD k {})
        ((elemCtxOf f slot p).x.getD k {})).rank
        = rankMax (if (p != 0) = true then (elemCtxOf f slot p).p.getD k {} :: uses.map (fun q => f.lane slot q k)
            else uses.map (fun q => f.lane slot q k)) := by
      unfold laneResult; dsimp only; split <;> rfl
    rw [hr', pred_lane f slot p k hk]
    by_cases hp : p = 0
    · simp [hp, rankMax, Firing.rankOf, List.foldl_map]
    · have hp' : ¬ p = 0#2 := hp
      simp [hp', rankMax, Firing.rankOf, List.foldl_map]
  · intro ps hl hv
    have hf := (fires_iff (f := f) (slot := slot) (p := p) hk).2 ⟨ps, hl⟩
    have hall : (uses.map (fun q => f.lane slot q k)).all (fun l => l.val.isSome) = true := by
      simpa [List.all_map] using hv
    have he : (elemCtxOf f slot p).env.n = 32 := rfl
    have hcond : (((elemCtxOf f slot p).p.getD k {}).fires && (uses.map (fun q => f.lane slot q k)).all (fun l => l.val.isSome)) = true := by
      rw [hf, hall]; rfl
    unfold laneResult
    dsimp only
    rw [if_pos hcond]
    dsimp only
    rw [hr _ he, lets_s hk hl]
    constructor
    · unfold Img.orS; split <;> rfl
    · intro hne
      unfold Img.orS
      rw [if_neg hne]
      rfl
  · intro hn
    have hcond : ¬ (((elemCtxOf f slot p).p.getD k {}).fires && (uses.map (fun q => f.lane slot q k)).all (fun l => l.val.isSome)) = true := by
      rw [Bool.and_eq_true, fires_iff hk]
      rintro ⟨⟨ps, hl⟩, hall⟩
      rcases hn with hn | ⟨q, hq, hv⟩
      · exact hn ps hl
      · have := List.all_eq_true.1 hall (f.lane slot q k) (List.mem_map.2 ⟨q, hq, rfl⟩)
        simp [hv] at this
    unfold laneResult
    dsimp only
    rw [if_neg hcond]

/-- Both at once. -/
theorem computes_of {i : Instr} {p : BitVec 2} {ts : List (BitVec 9)} {uses : List Pos} {fm : Nat → Nat → Img → Nat}
    {f : AluEnv → Img → Img → Img → AluRes} {r : Nat → Img → Img → Img → Img × Flags} (hu : Pos.pred ∉ uses)
    (hi : ∀ s, exec i s = execAlu s p ts uses fm f)
    (hr : ∀ (e : AluEnv), e.n = 64 ∨ e.n = 32 → ∀ (a b x a' b' x' : Img), (.left ∈ uses → a' = a) → (.right ∈ uses → b' = b) →
      (.third ∈ uses → x' = x) → f e a' b' x' = ⟨(r e.n a b x).1, (r e.n a b x).2⟩) :
    Computes i p ts uses r :=
  ⟨computesInCore_of hu hi (fun _ a b x a' b' x' h1 h2 h3 => hr _ (.inl rfl) a b x a' b' x' h1 h2 h3),
   computesInElem_of hu hi (fun e he a b x => by rw [hr e (.inr he) a b x a b x (fun _ => rfl) (fun _ => rfl) (fun _ => rfl), he])⟩

end Sys2Proof.Machine
end

