-- ==== Sys2Proof/Laws/Control.lean ====
section
/-! SUPPORT. What the register view of a block, its exits and its names are (R247, R250). -/
namespace Sys2Proof.Machine

theorem pred_nil : Pos.pred ∉ ([] : List Pos) := by decide
theorem pred_left : Pos.pred ∉ [Pos.left] := by decide
theorem pred_right : Pos.pred ∉ [Pos.right] := by decide
theorem pred_leftRight : Pos.pred ∉ [Pos.left, Pos.right] := by decide
theorem pred_leftRightThird : Pos.pred ∉ [Pos.left, Pos.right, Pos.third] := by decide

theorem naming_setr {a : Act} {k : Nat} {x : Img} : a.naming = some (k, some x) ↔ a = .setr k x := by
  constructor
  · intro h; unfold Act.naming at h; split at h <;> simp_all
  · rintro rfl; rfl
theorem naming_nullr {a : Act} {k : Nat} : a.naming = some (k, none) ↔ a = .nullr k := by
  constructor
  · intro h; unfold Act.naming at h; split at h <;> simp_all
  · rintro rfl; rfl

theorem named_of_setr {a : Act} {k : Nat} {x : Img} (h : a = .setr k x) : a.named = some k := by subst h; rfl
theorem named_of_nullr {a : Act} {k : Nat} (h : a = .nullr k) : a.named = some k := by subst h; rfl

theorem named_true {b : Block} {k : Nat} : b.named k = true ↔ ∃ d ∈ b.done, d.act.named = some k := by simp [Block.named]
theorem named_false {b : Block} {k : Nat} : b.named k = false ↔ ∀ d ∈ b.done, d.act.named ≠ some k := by simp [Block.named]
theorem exited_true {b : Block} : b.exited = true ↔ ∃ d ∈ b.done, d.act.exits = true := by simp [Block.exited]
theorem exited_false {b : Block} : b.exited = false ↔ ∀ d ∈ b.done, d.act.exits = false := by simp [Block.exited]

/-- What a block says of a register is what the one act that names it says. -/
theorem regOut_of {b : Block} {k : Nat} {v : Option Img} (hw : b.wmask.getLsbD k = true)
    (he : ∃ d ∈ b.done, d.act.named = some k) (hu : ∀ d ∈ b.done, d.act.named = some k → d.act.naming = some (k, v)) :
    b.regOut k = some (some v) := by
  obtain ⟨d, hd, hk⟩ := he
  have hf : (b.done.find? (fun d => d.act.named == some k)).isSome := by
    rw [List.find?_isSome]; exact ⟨d, hd, by simp [hk]⟩
  obtain ⟨e, hf⟩ := Option.isSome_iff_exists.1 hf
  have h1 := List.find?_some hf
  have h2 := hu e (List.mem_of_find?_eq_some hf) (by simpa using h1)
  simp [Block.regOut, hw, hf, h2]

theorem regOut_none {b : Block} {k : Nat} (hw : b.wmask.getLsbD k = true) (hn : ∀ d ∈ b.done, d.act.named ≠ some k) :
    b.regOut k = some none := by
  have hf : b.done.find? (fun d => d.act.named == some k) = none := by
    rw [List.find?_eq_none]; intro d hd; simpa using hn d hd
  simp [Block.regOut, hw, hf]

/-- GETR delivers what R247 says a block sees. -/
theorem getr_of_sees {p : PageCore} {k n : Nat} {v : Option Img} (h : Sees p k n v) : p.getr n k = v := by
  induction h with
  | committed => rfl
  | @passes n b v h1 h2 h3 ih =>
    rw [← ih]; simp [PageCore.getr, List.take_add_one, h1, regSeen, Block.regOut, h2]
  | @written n b x h1 h2 h3 h4 =>
    obtain ⟨d, hd, hx⟩ := h3
    have := regOut_of (v := some x) h2 ⟨d, hd, named_of_setr hx⟩ (fun e he hk => naming_setr.2 (h4 e he hk))
    simp [PageCore.getr, List.take_add_one, h1, regSeen, this]
  | @kept n b v h1 h2 h3 h4 h5 ih =>
    obtain ⟨d, hd, hx⟩ := h3
    have := regOut_of (v := none) h2 ⟨d, hd, named_of_nullr hx⟩ (fun e he hk => naming_nullr.2 (h4 e he hk))
    rw [← ih]; simp [PageCore.getr, List.take_add_one, h1, regSeen, this]
  | @pending n b h1 h2 h3 =>
    simp [PageCore.getr, List.take_add_one, h1, regSeen, regOut_none h2 h3]

end Sys2Proof.Machine
end

