-- ==== Sys2Proof/Laws/Element.lean ====
section
/-! SUPPORT. What instructions of E-blocks do with the lanes that have arrived (R262, R308). -/
namespace Sys2Proof.Machine

/-- The lanes that a predicated instruction passes on are those of R256, R262 and R308. -/
theorem masked_passes (f : Firing) (slot : Nat) (p : BitVec 2) (src : List LaneV) :
    f.passes slot p src ((elemCtxOf f slot p).masked p src) := by
  refine ⟨by simp [ElemCtx.masked], fun k hk => ?_⟩
  have hm : ((elemCtxOf f slot p).masked p src).getD k {} =
      (let l := src.getD k {}
       let q := (elemCtxOf f slot p).p.getD k {}
       { val := if q.fires then l.val.map (fun v => v.orS l.fmt (q.val.getD {}).s) else none
         rank := if p = 0 then l.rank else max l.rank q.rank, fmt := l.fmt }) := by
    simp [ElemCtx.masked, List.getD_eq_getElem?_getD, List.getElem?_map, List.getElem?_range hk]
  rw [hm]
  refine ⟨fun ps hl => ?_, fun hn => ?_, ?_, rfl⟩
  · have hf := (fires_iff (f := f) (slot := slot) (p := p) hk).2 ⟨ps, hl⟩
    dsimp only
    rw [if_pos hf, lets_s hk hl]
    rfl
  · have hf : ¬ ((elemCtxOf f slot p).p.getD k {}).fires = true := by
      rw [fires_iff hk]; rintro ⟨ps, h⟩; exact hn ps h
    dsimp only
    rw [if_neg hf]
  · dsimp only
    rw [pred_lane f slot p k hk]
    by_cases hp : p = 0
    · simp [hp]
    · have hp' : ¬ p = 0#2 := hp
      simp [hp']

/-- An instruction of E-blocks that passes lanes on. -/
theorem passesInElem_of {i : Instr} {p : BitVec 2} {uses : List Pos} {ok : Firing → Nat → Prop} {src : Firing → Nat → List LaneV}
    {next : Firing → Nat → List LaneV → Firing} {g : State → ElemCtx → State} (hi : ∀ s, exec i s = execElem s p uses (g s))
    (hg : ∀ s f slot, ok f slot → g s (elemCtxOf f slot p) = 
      { s with firing := some (next { f with fired := slot :: f.fired } slot ((elemCtxOf f slot p).masked p (src f slot))) }) :
    PassesInElem i p uses ok src next := by
  intro s f slot h ha hok
  exact ⟨_, masked_passes f slot p (src f slot), by rw [hi, execElem_fires h ha, hg s f slot hok]⟩

/-- The same for an instruction with a meaning in each kind of block. -/
theorem passesInElem_both {i : Instr} {p : BitVec 2} {uses : List Pos} {ok : Firing → Nat → Prop} {src : Firing → Nat → List LaneV}
    {next : Firing → Nat → List LaneV → Firing} {k : State → CoreCtx → State} {g : State → ElemCtx → State}
    (hi : ∀ s, exec i s = execBoth s p uses (k s) (g s))
    (hg : ∀ s f slot, ok f slot → g s (elemCtxOf f slot p) = 
      { s with firing := some (next { f with fired := slot :: f.fired } slot ((elemCtxOf f slot p).masked p (src f slot))) }) :
    PassesInElem i p uses ok src next := by
  intro s f slot h ha hok
  exact ⟨_, masked_passes f slot p (src f slot), by rw [hi, execBoth_elem h ha, hg s f slot hok]⟩

/-- An instruction of E-blocks that changes the firing. -/
theorem firesInElem_of {i : Instr} {p : BitVec 2} {uses : List Pos} {ok : Firing → Nat → Prop} {next : Firing → Nat → Firing}
    {g : State → ElemCtx → State} (hi : ∀ s, exec i s = execElem s p uses (g s))
    (hg : ∀ s f slot, ok f slot → g s (elemCtxOf f slot p) = { s with firing := some (next { f with fired := slot :: f.fired } slot) }) :
    FiresInElem i p uses ok next := by
  intro s f slot h ha hok
  rw [hi, execElem_fires h ha, hg s f slot hok]

/-- The same for an instruction with a meaning in each kind of block. -/
theorem firesInElem_both {i : Instr} {p : BitVec 2} {uses : List Pos} {ok : Firing → Nat → Prop} {next : Firing → Nat → Firing}
    {k : State → CoreCtx → State} {g : State → ElemCtx → State} (hi : ∀ s, exec i s = execBoth s p uses (k s) (g s))
    (hg : ∀ s f slot, ok f slot → g s (elemCtxOf f slot p) = { s with firing := some (next { f with fired := slot :: f.fired } slot) }) :
    FiresInElem i p uses ok next := by
  intro s f slot h ha hok
  rw [hi, execBoth_elem h ha, hg s f slot hok]

end Sys2Proof.Machine
end

