-- ==== Sys2Proof/Laws/GoesOn.lean ====
section
/-! SUPPORT. What a gate answers in each kind of block, and that each shape of an instruction then goes on. -/
namespace Sys2Proof.Machine

/-- The outcome is a next state. -/
def Goes (o : Host.Outcome State Fault Refusal) : Prop := ∃ t, o = .next t

/-- The outcome is a next state, or one of the two refusals of a word that is out of place. -/
def Ends (o : Host.Outcome State Fault Refusal) : Prop := (∃ t, o = .next t) ∨ o = .refused .notRunning ∨ o = .refused .wrongBlock

theorem gate_answers_core {s : State} {c bi slot b} (h : s.focus = .core c bi slot) (hb : (s.core c).blocks[bi]? = some b) (p : BitVec 2) (u : List Pos) :
   (gate s p u = .wait) ∨ (∃ s', gate s p u = .nulled s') ∨ (∃ x, gate s p u = .core x) := by
  unfold gate; simp only [h, hb]
  split
  · exact .inl rfl
  · split
    · split
      · exact .inr (.inr ⟨_, rfl⟩)
      · exact .inr (.inl ⟨_, rfl⟩)
    · exact .inl rfl

theorem gate_answers_elem {s : State} {slot f} (h : s.focus = .elem slot) (hb : s.firing = some f) (p : BitVec 2) (u : List Pos) :
   (gate s p u = .wait) ∨ (∃ x, gate s p u = .elem x) := by
  unfold gate; simp only [h, hb]
  split
  · exact .inl rfl
  · split
    · exact .inr ⟨_, rfl⟩
    · exact .inl rfl

theorem gate_cases (s : State) (p u) : gate s p u = .stop .notRunning ∨ gate s p u = .wait ∨ (∃ s', gate s p u = .nulled s')
    ∨ (∃ x, gate s p u = .core x) ∨ (∃ x, gate s p u = .elem x) := by
  unfold gate
  split
  · exact .inl rfl
  · dsimp only; split
    · exact .inl rfl
    · split
      · exact .inr (.inl rfl)
      · split
        · split
          · exact .inr (.inr (.inr (.inl ⟨_, rfl⟩)))
          · exact .inr (.inr (.inl ⟨_, rfl⟩))
        · exact .inr (.inl rfl)
  · split
    · exact .inl rfl
    · split
      · exact .inr (.inl rfl)
      · split
        · exact .inr (.inr (.inr (.inr ⟨_, rfl⟩)))
        · exact .inr (.inl rfl)

theorem execCore_goes {s : State} {c bi slot b} (h : s.focus = .core c bi slot) (hb : (s.core c).blocks[bi]? = some b) (p u f) : Goes (execCore s p u f) := by
  unfold execCore Goes; obtain h | ⟨_, h⟩ | ⟨_, h⟩ := gate_answers_core h hb p u <;> simp [h]

theorem execBoth_goes {s : State} {c bi slot b} (h : s.focus = .core c bi slot) (hb : (s.core c).blocks[bi]? = some b) (p u f g) : Goes (execBoth s p u f g) := by
  unfold execBoth Goes; obtain h | ⟨_, h⟩ | ⟨_, h⟩ := gate_answers_core h hb p u <;> simp [h]

theorem execAlu_goes {s : State} {c bi slot b} (h : s.focus = .core c bi slot) (hb : (s.core c).blocks[bi]? = some b) (p ts u fm f) : Goes (execAlu s p ts u fm f) := by
  unfold execAlu Goes; obtain h | ⟨_, h⟩ | ⟨_, h⟩ := gate_answers_core h hb p u <;> simp [h]

theorem execElem_goesElem {s : State} {slot f} (h : s.focus = .elem slot) (hb : s.firing = some f) (p u g) : Goes (execElem s p u g) := by
  unfold execElem Goes; obtain h | ⟨_, h⟩ := gate_answers_elem h hb p u <;> simp [h]

theorem execBoth_goesElem {s : State} {slot f} (h : s.focus = .elem slot) (hb : s.firing = some f) (p u g k) : Goes (execBoth s p u g k) := by
  unfold execBoth Goes; obtain h | ⟨_, h⟩ := gate_answers_elem h hb p u <;> simp [h]

theorem execAlu_goesElem {s : State} {slot f} (h : s.focus = .elem slot) (hb : s.firing = some f) (p ts u fm g) : Goes (execAlu s p ts u fm g) := by
  unfold execAlu Goes; obtain h | ⟨_, h⟩ := gate_answers_elem h hb p u <;> simp [h]

theorem execCore_ends (s : State) (p u f) : Ends (execCore s p u f) := by
  unfold execCore Ends; obtain h | h | ⟨_, h⟩ | ⟨_, h⟩ | ⟨_, h⟩ := gate_cases s p u <;> simp [h]

theorem execElem_ends (s : State) (p u f) : Ends (execElem s p u f) := by
  unfold execElem Ends; obtain h | h | ⟨_, h⟩ | ⟨_, h⟩ | ⟨_, h⟩ := gate_cases s p u <;> simp [h]

theorem execBoth_ends (s : State) (p u f g) : Ends (execBoth s p u f g) := by
  unfold execBoth Ends; obtain h | h | ⟨_, h⟩ | ⟨_, h⟩ | ⟨_, h⟩ := gate_cases s p u <;> simp [h]

theorem execAlu_ends (s : State) (p ts u fm g) : Ends (execAlu s p ts u fm g) := by
  unfold execAlu Ends; obtain h | h | ⟨_, h⟩ | ⟨_, h⟩ | ⟨_, h⟩ := gate_cases s p u <;> simp [h]

end Sys2Proof.Machine
end

