-- ==== Sys2Proof/Laws/State.lean ====
section
/-! SUPPORT. What each update of the state leaves as it was, field by field (by rfl, for simp), and what a read after an update gives. -/
namespace Sys2Proof.Machine

/-! ### Keyed lists -/

section
variable {α β : Type} [DecidableEq α]

@[simp] theorem kget_kset_same (k : α) (v : β) (l : List (α × β)) : kget k (kset k v l) = some v := by
  induction l with
  | nil => simp [kset, kget]
  | cons e r ih => obtain ⟨a, b⟩ := e; by_cases h : a = k <;> simp [kset, kget, h, ih]

theorem kget_kset_of_ne {k j : α} (h : j ≠ k) (v : β) (l : List (α × β)) : kget j (kset k v l) = kget j l := by
  induction l with
  | nil => simp [kset, kget, Ne.symm h]
  | cons e r ih =>
    obtain ⟨a, b⟩ := e
    by_cases ha : a = k
    · subst ha; simp [kset, kget, Ne.symm h]
    · by_cases hj : a = j
      · subst hj; simp [kset, kget, ha]
      · simp [kset, kget, ha, hj, ih]

end

@[simp] theorem setAt_length {α : Type} (l : List α) (i : Nat) (f : α → α) : (setAt l i f).length = l.length := by simp [setAt]
theorem setAt_getElem? {α : Type} (l : List α) (i j : Nat) (f : α → α) :
    (setAt l i f)[j]? = (l[j]?).map (fun x => if j = i then f x else x) := by simp [setAt]

/-! ### What an update leaves as it was -/

section
variable (s : State) (c : CoreRef) (p : PageCore)
open State
@[simp] theorem State.setCore_agenda : (s.setCore c p).agenda = s.agenda := rfl
@[simp] theorem State.setCore_focus : (s.setCore c p).focus = s.focus := rfl
@[simp] theorem State.setCore_firing : (s.setCore c p).firing = s.firing := rfl
@[simp] theorem State.setCore_fresh : (s.setCore c p).fresh = s.fresh := rfl
@[simp] theorem State.setCore_mem : (s.setCore c p).mem = s.mem := rfl
@[simp] theorem State.setCore_side : (s.setCore c p).side = s.side := rfl
@[simp] theorem State.setCore_deferred : (s.setCore c p).deferred = s.deferred := rfl
@[simp] theorem State.setCore_held : (s.setCore c p).held = s.held := rfl
@[simp] theorem State.setCore_older : (s.setCore c p).older = s.older := rfl
@[simp] theorem State.setCore_tlb : (s.setCore c p).tlb = s.tlb := rfl
@[simp] theorem State.setCore_tlb2 : (s.setCore c p).tlb2 = s.tlb2 := rfl
@[simp] theorem State.setCore_ptbase : (s.setCore c p).ptbase = s.ptbase := rfl
@[simp] theorem State.setCore_powered : (s.setCore c p).powered = s.powered := rfl
@[simp] theorem State.setCore_inReset : (s.setCore c p).inReset = s.inReset := rfl
@[simp] theorem State.setCore_supplyOk : (s.setCore c p).supplyOk = s.supplyOk := rfl
@[simp] theorem State.setCore_booted : (s.setCore c p).booted = s.booted := rfl
@[simp] theorem State.setCore_fwImage : (s.setCore c p).fwImage = s.fwImage := rfl
@[simp] theorem State.setCore_fwKey : (s.setCore c p).fwKey = s.fwKey := rfl
@[simp] theorem State.setCore_fwSig : (s.setCore c p).fwSig = s.fwSig := rfl
@[simp] theorem State.setCore_latched : (s.setCore c p).latched = s.latched := rfl
@[simp] theorem State.setCore_dies : (s.setCore c p).dies = s.dies := rfl
@[simp] theorem State.setCore_pmap : (s.setCore c p).pmap = s.pmap := rfl
@[simp] theorem State.setCore_buckets : (s.setCore c p).buckets = s.buckets := rfl
@[simp] theorem State.setCore_stale : (s.setCore c p).stale = s.stale := rfl
@[simp] theorem State.setCore_ports : (s.setCore c p).ports = s.ports := rfl
@[simp] theorem State.setCore_qpairs : (s.setCore c p).qpairs = s.qpairs := rfl
@[simp] theorem State.setCore_roceDrops : (s.setCore c p).roceDrops = s.roceDrops := rfl
@[simp] theorem State.setCore_roceRecv : (s.setCore c p).roceRecv = s.roceRecv := rfl
@[simp] theorem State.setCore_eth : (s.setCore c p).eth = s.eth := rfl
@[simp] theorem State.setCore_answers : (s.setCore c p).answers = s.answers := rfl
@[simp] theorem State.setCore_sinks : (s.setCore c p).sinks = s.sinks := rfl
@[simp] theorem State.setCore_hostMem : (s.setCore c p).hostMem = s.hostMem := rfl
@[simp] theorem State.setCore_refusing : (s.setCore c p).refusing = s.refusing := rfl
@[simp] theorem State.setCore_keys : (s.setCore c p).keys = s.keys := rfl
@[simp] theorem State.setCore_outbox : (s.setCore c p).outbox = s.outbox := rfl
@[simp] theorem State.setCore_bord : (s.setCore c p).bord = s.bord := rfl
@[simp] theorem State.setCore_wsel : (s.setCore c p).wsel = s.wsel := rfl
@[simp] theorem State.setCore_load : (s.setCore c p).load = s.load := rfl
@[simp] theorem State.setCore_sealingKeys : (s.setCore c p).sealingKeys = s.sealingKeys := rfl
@[simp] theorem State.setCore_sealRefusals : (s.setCore c p).sealRefusals = s.sealRefusals := rfl
@[simp] theorem State.setCore_launches : (s.setCore c p).launches = s.launches := rfl
@[simp] theorem State.setCore_head : (s.setCore c p).head = s.head := rfl
@[simp] theorem State.setCore_headPtr : (s.setCore c p).headPtr = s.headPtr := rfl
@[simp] theorem State.setCore_history : (s.setCore c p).history = s.history := rfl
@[simp] theorem State.setCore_clock : (s.setCore c p).clock = s.clock := rfl
@[simp] theorem State.setCore_orders : (s.setCore c p).orders = s.orders := rfl
@[simp] theorem State.setCore_placed : (s.setCore c p).placed = s.placed := rfl
@[simp] theorem State.setCore_armings : (s.setCore c p).armings = s.armings := rfl
@[simp] theorem State.setCore_seqs : (s.setCore c p).seqs = s.seqs := rfl
@[simp] theorem State.setCore_barriers : (s.setCore c p).barriers = s.barriers := rfl
@[simp] theorem State.setCore_trellis : (s.setCore c p).trellis = s.trellis := rfl
@[simp] theorem State.setCore_leaves : (s.setCore c p).leaves = s.leaves := rfl
@[simp] theorem State.setCore_sprouts : (s.setCore c p).sprouts = s.sprouts := rfl
@[simp] theorem State.setCore_portPrunes : (s.setCore c p).portPrunes = s.portPrunes := rfl
@[simp] theorem State.setCore_portDrops : (s.setCore c p).portDrops = s.portDrops := rfl
@[simp] theorem State.setCore_arrivals : (s.setCore c p).arrivals = s.arrivals := rfl
@[simp] theorem State.setCore_chans : (s.setCore c p).chans = s.chans := rfl
@[simp] theorem State.setCore_plots : (s.setCore c p).plots = s.plots := rfl
@[simp] theorem State.setCore_elems : (s.setCore c p).elems = s.elems := rfl
@[simp] theorem State.setCore_foragers : (s.setCore c p).foragers = s.foragers := rfl
@[simp] theorem State.setCore_arrays : (s.setCore c p).arrays = s.arrays := rfl
@[simp] theorem State.setCore_nodes : (s.setCore c p).nodes = s.nodes := rfl
@[simp] theorem State.setCore_engines : (s.setCore c p).engines = s.engines := rfl
@[simp] theorem State.setCore_profiles : (s.setCore c p).profiles = s.profiles := rfl
@[simp] theorem State.setCore_cuts : (s.setCore c p).cuts = s.cuts := rfl
@[simp] theorem State.setCore_grafts : (s.setCore c p).grafts = s.grafts := rfl
@[simp] theorem State.setCore_dormants : (s.setCore c p).dormants = s.dormants := rfl
@[simp] theorem State.setCore_dbp : (s.setCore c p).dbp = s.dbp := rfl
@[simp] theorem State.setCore_bpPending : (s.setCore c p).bpPending = s.bpPending := rfl
@[simp] theorem State.setCore_samples : (s.setCore c p).samples = s.samples := rfl
@[simp] theorem State.setCore_frost : (s.setCore c p).frost = s.frost := rfl
@[simp] theorem State.setCore_replays : (s.setCore c p).replays = s.replays := rfl
@[simp] theorem State.setCore_armed : (s.setCore c p).armed = s.armed := rfl
@[simp] theorem State.setCore_dump : (s.setCore c p).dump = s.dump := rfl
@[simp] theorem State.setCore_fatals : (s.setCore c p).fatals = s.fatals := rfl
@[simp] theorem State.setCore_ecc : (s.setCore c p).ecc = s.ecc := rfl
@[simp] theorem State.setCore_hangLimit : (s.setCore c p).hangLimit = s.hangLimit := rfl
end

section
variable (s : State) (c : CoreRef) (f : PageCore → PageCore)
open State
@[simp] theorem State.mapCore_agenda : (s.mapCore c f).agenda = s.agenda := rfl
@[simp] theorem State.mapCore_focus : (s.mapCore c f).focus = s.focus := rfl
@[simp] theorem State.mapCore_firing : (s.mapCore c f).firing = s.firing := rfl
@[simp] theorem State.mapCore_fresh : (s.mapCore c f).fresh = s.fresh := rfl
@[simp] theorem State.mapCore_mem : (s.mapCore c f).mem = s.mem := rfl
@[simp] theorem State.mapCore_side : (s.mapCore c f).side = s.side := rfl
@[simp] theorem State.mapCore_deferred : (s.mapCore c f).deferred = s.deferred := rfl
@[simp] theorem State.mapCore_held : (s.mapCore c f).held = s.held := rfl
@[simp] theorem State.mapCore_older : (s.mapCore c f).older = s.older := rfl
@[simp] theorem State.mapCore_tlb : (s.mapCore c f).tlb = s.tlb := rfl
@[simp] theorem State.mapCore_tlb2 : (s.mapCore c f).tlb2 = s.tlb2 := rfl
@[simp] theorem State.mapCore_ptbase : (s.mapCore c f).ptbase = s.ptbase := rfl
@[simp] theorem State.mapCore_powered : (s.mapCore c f).powered = s.powered := rfl
@[simp] theorem State.mapCore_inReset : (s.mapCore c f).inReset = s.inReset := rfl
@[simp] theorem State.mapCore_supplyOk : (s.mapCore c f).supplyOk = s.supplyOk := rfl
@[simp] theorem State.mapCore_booted : (s.mapCore c f).booted = s.booted := rfl
@[simp] theorem State.mapCore_fwImage : (s.mapCore c f).fwImage = s.fwImage := rfl
@[simp] theorem State.mapCore_fwKey : (s.mapCore c f).fwKey = s.fwKey := rfl
@[simp] theorem State.mapCore_fwSig : (s.mapCore c f).fwSig = s.fwSig := rfl
@[simp] theorem State.mapCore_latched : (s.mapCore c f).latched = s.latched := rfl
@[simp] theorem State.mapCore_dies : (s.mapCore c f).dies = s.dies := rfl
@[simp] theorem State.mapCore_pmap : (s.mapCore c f).pmap = s.pmap := rfl
@[simp] theorem State.mapCore_buckets : (s.mapCore c f).buckets = s.buckets := rfl
@[simp] theorem State.mapCore_stale : (s.mapCore c f).stale = s.stale := rfl
@[simp] theorem State.mapCore_ports : (s.mapCore c f).ports = s.ports := rfl
@[simp] theorem State.mapCore_qpairs : (s.mapCore c f).qpairs = s.qpairs := rfl
@[simp] theorem State.mapCore_roceDrops : (s.mapCore c f).roceDrops = s.roceDrops := rfl
@[simp] theorem State.mapCore_roceRecv : (s.mapCore c f).roceRecv = s.roceRecv := rfl
@[simp] theorem State.mapCore_eth : (s.mapCore c f).eth = s.eth := rfl
@[simp] theorem State.mapCore_answers : (s.mapCore c f).answers = s.answers := rfl
@[simp] theorem State.mapCore_sinks : (s.mapCore c f).sinks = s.sinks := rfl
@[simp] theorem State.mapCore_hostMem : (s.mapCore c f).hostMem = s.hostMem := rfl
@[simp] theorem State.mapCore_refusing : (s.mapCore c f).refusing = s.refusing := rfl
@[simp] theorem State.mapCore_keys : (s.mapCore c f).keys = s.keys := rfl
@[simp] theorem State.mapCore_outbox : (s.mapCore c f).outbox = s.outbox := rfl
@[simp] theorem State.mapCore_bord : (s.mapCore c f).bord = s.bord := rfl
@[simp] theorem State.mapCore_wsel : (s.mapCore c f).wsel = s.wsel := rfl
@[simp] theorem State.mapCore_load : (s.mapCore c f).load = s.load := rfl
@[simp] theorem State.mapCore_sealingKeys : (s.mapCore c f).sealingKeys = s.sealingKeys := rfl
@[simp] theorem State.mapCore_sealRefusals : (s.mapCore c f).sealRefusals = s.sealRefusals := rfl
@[simp] theorem State.mapCore_launches : (s.mapCore c f).launches = s.launches := rfl
@[simp] theorem State.mapCore_head : (s.mapCore c f).head = s.head := rfl
@[simp] theorem State.mapCore_headPtr : (s.mapCore c f).headPtr = s.headPtr := rfl
@[simp] theorem State.mapCore_history : (s.mapCore c f).history = s.history := rfl
@[simp] theorem State.mapCore_clock : (s.mapCore c f).clock = s.clock := rfl
@[simp] theorem State.mapCore_orders : (s.mapCore c f).orders = s.orders := rfl
@[simp] theorem State.mapCore_placed : (s.mapCore c f).placed = s.placed := rfl
@[simp] theorem State.mapCore_armings : (s.mapCore c f).armings = s.armings := rfl
@[simp] theorem State.mapCore_seqs : (s.mapCore c f).seqs = s.seqs := rfl
@[simp] theorem State.mapCore_barriers : (s.mapCore c f).barriers = s.barriers := rfl
@[simp] theorem State.mapCore_trellis : (s.mapCore c f).trellis = s.trellis := rfl
@[simp] theorem State.mapCore_leaves : (s.mapCore c f).leaves = s.leaves := rfl
@[simp] theorem State.mapCore_sprouts : (s.mapCore c f).sprouts = s.sprouts := rfl
@[simp] theorem State.mapCore_portPrunes : (s.mapCore c f).portPrunes = s.portPrunes := rfl
@[simp] theorem State.mapCore_portDrops : (s.mapCore c f).portDrops = s.portDrops := rfl
@[simp] theorem State.mapCore_arrivals : (s.mapCore c f).arrivals = s.arrivals := rfl
@[simp] theorem State.mapCore_chans : (s.mapCore c f).chans = s.chans := rfl
@[simp] theorem State.mapCore_plots : (s.mapCore c f).plots = s.plots := rfl
@[simp] theorem State.mapCore_elems : (s.mapCore c f).elems = s.elems := rfl
@[simp] theorem State.mapCore_foragers : (s.mapCore c f).foragers = s.foragers := rfl
@[simp] theorem State.mapCore_arrays : (s.mapCore c f).arrays = s.arrays := rfl
@[simp] theorem State.mapCore_nodes : (s.mapCore c f).nodes = s.nodes := rfl
@[simp] theorem State.mapCore_engines : (s.mapCore c f).engines = s.engines := rfl
@[simp] theorem State.mapCore_profiles : (s.mapCore c f).profiles = s.profiles := rfl
@[simp] theorem State.mapCore_cuts : (s.mapCore c f).cuts = s.cuts := rfl
@[simp] theorem State.mapCore_grafts : (s.mapCore c f).grafts = s.grafts := rfl
@[simp] theorem State.mapCore_dormants : (s.mapCore c f).dormants = s.dormants := rfl
@[simp] theorem State.mapCore_dbp : (s.mapCore c f).dbp = s.dbp := rfl
@[simp] theorem State.mapCore_bpPending : (s.mapCore c f).bpPending = s.bpPending := rfl
@[simp] theorem State.mapCore_samples : (s.mapCore c f).samples = s.samples := rfl
@[simp] theorem State.mapCore_frost : (s.mapCore c f).frost = s.frost := rfl
@[simp] theorem State.mapCore_replays : (s.mapCore c f).replays = s.replays := rfl
@[simp] theorem State.mapCore_armed : (s.mapCore c f).armed = s.armed := rfl
@[simp] theorem State.mapCore_dump : (s.mapCore c f).dump = s.dump := rfl
@[simp] theorem State.mapCore_fatals : (s.mapCore c f).fatals = s.fatals := rfl
@[simp] theorem State.mapCore_ecc : (s.mapCore c f).ecc = s.ecc := rfl
@[simp] theorem State.mapCore_hangLimit : (s.mapCore c f).hangLimit = s.hangLimit := rfl
end

section
variable (s : State) (c : CoreRef) (i : Nat) (b : Block)
open State
@[simp] theorem State.putBlock_agenda : (s.putBlock c i b).agenda = s.agenda := rfl
@[simp] theorem State.putBlock_focus : (s.putBlock c i b).focus = s.focus := rfl
@[simp] theorem State.putBlock_firing : (s.putBlock c i b).firing = s.firing := rfl
@[simp] theorem State.putBlock_fresh : (s.putBlock c i b).fresh = s.fresh := rfl
@[simp] theorem State.putBlock_mem : (s.putBlock c i b).mem = s.mem := rfl
@[simp] theorem State.putBlock_side : (s.putBlock c i b).side = s.side := rfl
@[simp] theorem State.putBlock_deferred : (s.putBlock c i b).deferred = s.deferred := rfl
@[simp] theorem State.putBlock_held : (s.putBlock c i b).held = s.held := rfl
@[simp] theorem State.putBlock_older : (s.putBlock c i b).older = s.older := rfl
@[simp] theorem State.putBlock_tlb : (s.putBlock c i b).tlb = s.tlb := rfl
@[simp] theorem State.putBlock_tlb2 : (s.putBlock c i b).tlb2 = s.tlb2 := rfl
@[simp] theorem State.putBlock_ptbase : (s.putBlock c i b).ptbase = s.ptbase := rfl
@[simp] theorem State.putBlock_powered : (s.putBlock c i b).powered = s.powered := rfl
@[simp] theorem State.putBlock_inReset : (s.putBlock c i b).inReset = s.inReset := rfl
@[simp] theorem State.putBlock_supplyOk : (s.putBlock c i b).supplyOk = s.supplyOk := rfl
@[simp] theorem State.putBlock_booted : (s.putBlock c i b).booted = s.booted := rfl
@[simp] theorem State.putBlock_fwImage : (s.putBlock c i b).fwImage = s.fwImage := rfl
@[simp] theorem State.putBlock_fwKey : (s.putBlock c i b).fwKey = s.fwKey := rfl
@[simp] theorem State.putBlock_fwSig : (s.putBlock c i b).fwSig = s.fwSig := rfl
@[simp] theorem State.putBlock_latched : (s.putBlock c i b).latched = s.latched := rfl
@[simp] theorem State.putBlock_dies : (s.putBlock c i b).dies = s.dies := rfl
@[simp] theorem State.putBlock_pmap : (s.putBlock c i b).pmap = s.pmap := rfl
@[simp] theorem State.putBlock_buckets : (s.putBlock c i b).buckets = s.buckets := rfl
@[simp] theorem State.putBlock_stale : (s.putBlock c i b).stale = s.stale := rfl
@[simp] theorem State.putBlock_ports : (s.putBlock c i b).ports = s.ports := rfl
@[simp] theorem State.putBlock_qpairs : (s.putBlock c i b).qpairs = s.qpairs := rfl
@[simp] theorem State.putBlock_roceDrops : (s.putBlock c i b).roceDrops = s.roceDrops := rfl
@[simp] theorem State.putBlock_roceRecv : (s.putBlock c i b).roceRecv = s.roceRecv := rfl
@[simp] theorem State.putBlock_eth : (s.putBlock c i b).eth = s.eth := rfl
@[simp] theorem State.putBlock_answers : (s.putBlock c i b).answers = s.answers := rfl
@[simp] theorem State.putBlock_sinks : (s.putBlock c i b).sinks = s.sinks := rfl
@[simp] theorem State.putBlock_hostMem : (s.putBlock c i b).hostMem = s.hostMem := rfl
@[simp] theorem State.putBlock_refusing : (s.putBlock c i b).refusing = s.refusing := rfl
@[simp] theorem State.putBlock_keys : (s.putBlock c i b).keys = s.keys := rfl
@[simp] theorem State.putBlock_outbox : (s.putBlock c i b).outbox = s.outbox := rfl
@[simp] theorem State.putBlock_bord : (s.putBlock c i b).bord = s.bord := rfl
@[simp] theorem State.putBlock_wsel : (s.putBlock c i b).wsel = s.wsel := rfl
@[simp] theorem State.putBlock_load : (s.putBlock c i b).load = s.load := rfl
@[simp] theorem State.putBlock_sealingKeys : (s.putBlock c i b).sealingKeys = s.sealingKeys := rfl
@[simp] theorem State.putBlock_sealRefusals : (s.putBlock c i b).sealRefusals = s.sealRefusals := rfl
@[simp] theorem State.putBlock_launches : (s.putBlock c i b).launches = s.launches := rfl
@[simp] theorem State.putBlock_head : (s.putBlock c i b).head = s.head := rfl
@[simp] theorem State.putBlock_headPtr : (s.putBlock c i b).headPtr = s.headPtr := rfl
@[simp] theorem State.putBlock_history : (s.putBlock c i b).history = s.history := rfl
@[simp] theorem State.putBlock_clock : (s.putBlock c i b).clock = s.clock := rfl
@[simp] theorem State.putBlock_orders : (s.putBlock c i b).orders = s.orders := rfl
@[simp] theorem State.putBlock_placed : (s.putBlock c i b).placed = s.placed := rfl
@[simp] theorem State.putBlock_armings : (s.putBlock c i b).armings = s.armings := rfl
@[simp] theorem State.putBlock_seqs : (s.putBlock c i b).seqs = s.seqs := rfl
@[simp] theorem State.putBlock_barriers : (s.putBlock c i b).barriers = s.barriers := rfl
@[simp] theorem State.putBlock_trellis : (s.putBlock c i b).trellis = s.trellis := rfl
@[simp] theorem State.putBlock_leaves : (s.putBlock c i b).leaves = s.leaves := rfl
@[simp] theorem State.putBlock_sprouts : (s.putBlock c i b).sprouts = s.sprouts := rfl
@[simp] theorem State.putBlock_portPrunes : (s.putBlock c i b).portPrunes = s.portPrunes := rfl
@[simp] theorem State.putBlock_portDrops : (s.putBlock c i b).portDrops = s.portDrops := rfl
@[simp] theorem State.putBlock_arrivals : (s.putBlock c i b).arrivals = s.arrivals := rfl
@[simp] theorem State.putBlock_chans : (s.putBlock c i b).chans = s.chans := rfl
@[simp] theorem State.putBlock_plots : (s.putBlock c i b).plots = s.plots := rfl
@[simp] theorem State.putBlock_elems : (s.putBlock c i b).elems = s.elems := rfl
@[simp] theorem State.putBlock_foragers : (s.putBlock c i b).foragers = s.foragers := rfl
@[simp] theorem State.putBlock_arrays : (s.putBlock c i b).arrays = s.arrays := rfl
@[simp] theorem State.putBlock_nodes : (s.putBlock c i b).nodes = s.nodes := rfl
@[simp] theorem State.putBlock_engines : (s.putBlock c i b).engines = s.engines := rfl
@[simp] theorem State.putBlock_profiles : (s.putBlock c i b).profiles = s.profiles := rfl
@[simp] theorem State.putBlock_cuts : (s.putBlock c i b).cuts = s.cuts := rfl
@[simp] theorem State.putBlock_grafts : (s.putBlock c i b).grafts = s.grafts := rfl
@[simp] theorem State.putBlock_dormants : (s.putBlock c i b).dormants = s.dormants := rfl
@[simp] theorem State.putBlock_dbp : (s.putBlock c i b).dbp = s.dbp := rfl
@[simp] theorem State.putBlock_bpPending : (s.putBlock c i b).bpPending = s.bpPending := rfl
@[simp] theorem State.putBlock_samples : (s.putBlock c i b).samples = s.samples := rfl
@[simp] theorem State.putBlock_frost : (s.putBlock c i b).frost = s.frost := rfl
@[simp] theorem State.putBlock_replays : (s.putBlock c i b).replays = s.replays := rfl
@[simp] theorem State.putBlock_armed : (s.putBlock c i b).armed = s.armed := rfl
@[simp] theorem State.putBlock_dump : (s.putBlock c i b).dump = s.dump := rfl
@[simp] theorem State.putBlock_fatals : (s.putBlock c i b).fatals = s.fatals := rfl
@[simp] theorem State.putBlock_ecc : (s.putBlock c i b).ecc = s.ecc := rfl
@[simp] theorem State.putBlock_hangLimit : (s.putBlock c i b).hangLimit = s.hangLimit := rfl
end

section
variable (s : State) (n : Nat) (f : Launch → Launch)
open State
@[simp] theorem State.mapLaunch_agenda : (s.mapLaunch n f).agenda = s.agenda := rfl
@[simp] theorem State.mapLaunch_focus : (s.mapLaunch n f).focus = s.focus := rfl
@[simp] theorem State.mapLaunch_firing : (s.mapLaunch n f).firing = s.firing := rfl
@[simp] theorem State.mapLaunch_fresh : (s.mapLaunch n f).fresh = s.fresh := rfl
@[simp] theorem State.mapLaunch_mem : (s.mapLaunch n f).mem = s.mem := rfl
@[simp] theorem State.mapLaunch_side : (s.mapLaunch n f).side = s.side := rfl
@[simp] theorem State.mapLaunch_deferred : (s.mapLaunch n f).deferred = s.deferred := rfl
@[simp] theorem State.mapLaunch_held : (s.mapLaunch n f).held = s.held := rfl
@[simp] theorem State.mapLaunch_older : (s.mapLaunch n f).older = s.older := rfl
@[simp] theorem State.mapLaunch_tlb : (s.mapLaunch n f).tlb = s.tlb := rfl
@[simp] theorem State.mapLaunch_tlb2 : (s.mapLaunch n f).tlb2 = s.tlb2 := rfl
@[simp] theorem State.mapLaunch_ptbase : (s.mapLaunch n f).ptbase = s.ptbase := rfl
@[simp] theorem State.mapLaunch_powered : (s.mapLaunch n f).powered = s.powered := rfl
@[simp] theorem State.mapLaunch_inReset : (s.mapLaunch n f).inReset = s.inReset := rfl
@[simp] theorem State.mapLaunch_supplyOk : (s.mapLaunch n f).supplyOk = s.supplyOk := rfl
@[simp] theorem State.mapLaunch_booted : (s.mapLaunch n f).booted = s.booted := rfl
@[simp] theorem State.mapLaunch_fwImage : (s.mapLaunch n f).fwImage = s.fwImage := rfl
@[simp] theorem State.mapLaunch_fwKey : (s.mapLaunch n f).fwKey = s.fwKey := rfl
@[simp] theorem State.mapLaunch_fwSig : (s.mapLaunch n f).fwSig = s.fwSig := rfl
@[simp] theorem State.mapLaunch_latched : (s.mapLaunch n f).latched = s.latched := rfl
@[simp] theorem State.mapLaunch_dies : (s.mapLaunch n f).dies = s.dies := rfl
@[simp] theorem State.mapLaunch_pmap : (s.mapLaunch n f).pmap = s.pmap := rfl
@[simp] theorem State.mapLaunch_buckets : (s.mapLaunch n f).buckets = s.buckets := rfl
@[simp] theorem State.mapLaunch_stale : (s.mapLaunch n f).stale = s.stale := rfl
@[simp] theorem State.mapLaunch_ports : (s.mapLaunch n f).ports = s.ports := rfl
@[simp] theorem State.mapLaunch_qpairs : (s.mapLaunch n f).qpairs = s.qpairs := rfl
@[simp] theorem State.mapLaunch_roceDrops : (s.mapLaunch n f).roceDrops = s.roceDrops := rfl
@[simp] theorem State.mapLaunch_roceRecv : (s.mapLaunch n f).roceRecv = s.roceRecv := rfl
@[simp] theorem State.mapLaunch_eth : (s.mapLaunch n f).eth = s.eth := rfl
@[simp] theorem State.mapLaunch_answers : (s.mapLaunch n f).answers = s.answers := rfl
@[simp] theorem State.mapLaunch_sinks : (s.mapLaunch n f).sinks = s.sinks := rfl
@[simp] theorem State.mapLaunch_hostMem : (s.mapLaunch n f).hostMem = s.hostMem := rfl
@[simp] theorem State.mapLaunch_refusing : (s.mapLaunch n f).refusing = s.refusing := rfl
@[simp] theorem State.mapLaunch_keys : (s.mapLaunch n f).keys = s.keys := rfl
@[simp] theorem State.mapLaunch_outbox : (s.mapLaunch n f).outbox = s.outbox := rfl
@[simp] theorem State.mapLaunch_bord : (s.mapLaunch n f).bord = s.bord := rfl
@[simp] theorem State.mapLaunch_wsel : (s.mapLaunch n f).wsel = s.wsel := rfl
@[simp] theorem State.mapLaunch_load : (s.mapLaunch n f).load = s.load := rfl
@[simp] theorem State.mapLaunch_sealingKeys : (s.mapLaunch n f).sealingKeys = s.sealingKeys := rfl
@[simp] theorem State.mapLaunch_sealRefusals : (s.mapLaunch n f).sealRefusals = s.sealRefusals := rfl
@[simp] theorem State.mapLaunch_head : (s.mapLaunch n f).head = s.head := rfl
@[simp] theorem State.mapLaunch_headPtr : (s.mapLaunch n f).headPtr = s.headPtr := rfl
@[simp] theorem State.mapLaunch_history : (s.mapLaunch n f).history = s.history := rfl
@[simp] theorem State.mapLaunch_clock : (s.mapLaunch n f).clock = s.clock := rfl
@[simp] theorem State.mapLaunch_orders : (s.mapLaunch n f).orders = s.orders := rfl
@[simp] theorem State.mapLaunch_placed : (s.mapLaunch n f).placed = s.placed := rfl
@[simp] theorem State.mapLaunch_armings : (s.mapLaunch n f).armings = s.armings := rfl
@[simp] theorem State.mapLaunch_seqs : (s.mapLaunch n f).seqs = s.seqs := rfl
@[simp] theorem State.mapLaunch_barriers : (s.mapLaunch n f).barriers = s.barriers := rfl
@[simp] theorem State.mapLaunch_trellis : (s.mapLaunch n f).trellis = s.trellis := rfl
@[simp] theorem State.mapLaunch_leaves : (s.mapLaunch n f).leaves = s.leaves := rfl
@[simp] theorem State.mapLaunch_sprouts : (s.mapLaunch n f).sprouts = s.sprouts := rfl
@[simp] theorem State.mapLaunch_portPrunes : (s.mapLaunch n f).portPrunes = s.portPrunes := rfl
@[simp] theorem State.mapLaunch_portDrops : (s.mapLaunch n f).portDrops = s.portDrops := rfl
@[simp] theorem State.mapLaunch_arrivals : (s.mapLaunch n f).arrivals = s.arrivals := rfl
@[simp] theorem State.mapLaunch_chans : (s.mapLaunch n f).chans = s.chans := rfl
@[simp] theorem State.mapLaunch_plots : (s.mapLaunch n f).plots = s.plots := rfl
@[simp] theorem State.mapLaunch_elems : (s.mapLaunch n f).elems = s.elems := rfl
@[simp] theorem State.mapLaunch_foragers : (s.mapLaunch n f).foragers = s.foragers := rfl
@[simp] theorem State.mapLaunch_arrays : (s.mapLaunch n f).arrays = s.arrays := rfl
@[simp] theorem State.mapLaunch_nodes : (s.mapLaunch n f).nodes = s.nodes := rfl
@[simp] theorem State.mapLaunch_cores : (s.mapLaunch n f).cores = s.cores := rfl
@[simp] theorem State.mapLaunch_engines : (s.mapLaunch n f).engines = s.engines := rfl
@[simp] theorem State.mapLaunch_profiles : (s.mapLaunch n f).profiles = s.profiles := rfl
@[simp] theorem State.mapLaunch_cuts : (s.mapLaunch n f).cuts = s.cuts := rfl
@[simp] theorem State.mapLaunch_grafts : (s.mapLaunch n f).grafts = s.grafts := rfl
@[simp] theorem State.mapLaunch_dormants : (s.mapLaunch n f).dormants = s.dormants := rfl
@[simp] theorem State.mapLaunch_dbp : (s.mapLaunch n f).dbp = s.dbp := rfl
@[simp] theorem State.mapLaunch_bpPending : (s.mapLaunch n f).bpPending = s.bpPending := rfl
@[simp] theorem State.mapLaunch_samples : (s.mapLaunch n f).samples = s.samples := rfl
@[simp] theorem State.mapLaunch_frost : (s.mapLaunch n f).frost = s.frost := rfl
@[simp] theorem State.mapLaunch_replays : (s.mapLaunch n f).replays = s.replays := rfl
@[simp] theorem State.mapLaunch_armed : (s.mapLaunch n f).armed = s.armed := rfl
@[simp] theorem State.mapLaunch_dump : (s.mapLaunch n f).dump = s.dump := rfl
@[simp] theorem State.mapLaunch_fatals : (s.mapLaunch n f).fatals = s.fatals := rfl
@[simp] theorem State.mapLaunch_ecc : (s.mapLaunch n f).ecc = s.ecc := rfl
@[simp] theorem State.mapLaunch_hangLimit : (s.mapLaunch n f).hangLimit = s.hangLimit := rfl
end

section
variable (s : State) (n : Nat) (e : EndRec)
open State
@[simp] theorem State.endWith_agenda : (s.endWith n e).agenda = s.agenda := rfl
@[simp] theorem State.endWith_focus : (s.endWith n e).focus = s.focus := rfl
@[simp] theorem State.endWith_firing : (s.endWith n e).firing = s.firing := rfl
@[simp] theorem State.endWith_fresh : (s.endWith n e).fresh = s.fresh := rfl
@[simp] theorem State.endWith_mem : (s.endWith n e).mem = s.mem := rfl
@[simp] theorem State.endWith_side : (s.endWith n e).side = s.side := rfl
@[simp] theorem State.endWith_deferred : (s.endWith n e).deferred = s.deferred := rfl
@[simp] theorem State.endWith_held : (s.endWith n e).held = s.held := rfl
@[simp] theorem State.endWith_older : (s.endWith n e).older = s.older := rfl
@[simp] theorem State.endWith_tlb : (s.endWith n e).tlb = s.tlb := rfl
@[simp] theorem State.endWith_tlb2 : (s.endWith n e).tlb2 = s.tlb2 := rfl
@[simp] theorem State.endWith_ptbase : (s.endWith n e).ptbase = s.ptbase := rfl
@[simp] theorem State.endWith_powered : (s.endWith n e).powered = s.powered := rfl
@[simp] theorem State.endWith_inReset : (s.endWith n e).inReset = s.inReset := rfl
@[simp] theorem State.endWith_supplyOk : (s.endWith n e).supplyOk = s.supplyOk := rfl
@[simp] theorem State.endWith_booted : (s.endWith n e).booted = s.booted := rfl
@[simp] theorem State.endWith_fwImage : (s.endWith n e).fwImage = s.fwImage := rfl
@[simp] theorem State.endWith_fwKey : (s.endWith n e).fwKey = s.fwKey := rfl
@[simp] theorem State.endWith_fwSig : (s.endWith n e).fwSig = s.fwSig := rfl
@[simp] theorem State.endWith_latched : (s.endWith n e).latched = s.latched := rfl
@[simp] theorem State.endWith_dies : (s.endWith n e).dies = s.dies := rfl
@[simp] theorem State.endWith_pmap : (s.endWith n e).pmap = s.pmap := rfl
@[simp] theorem State.endWith_buckets : (s.endWith n e).buckets = s.buckets := rfl
@[simp] theorem State.endWith_stale : (s.endWith n e).stale = s.stale := rfl
@[simp] theorem State.endWith_ports : (s.endWith n e).ports = s.ports := rfl
@[simp] theorem State.endWith_qpairs : (s.endWith n e).qpairs = s.qpairs := rfl
@[simp] theorem State.endWith_roceDrops : (s.endWith n e).roceDrops = s.roceDrops := rfl
@[simp] theorem State.endWith_roceRecv : (s.endWith n e).roceRecv = s.roceRecv := rfl
@[simp] theorem State.endWith_eth : (s.endWith n e).eth = s.eth := rfl
@[simp] theorem State.endWith_answers : (s.endWith n e).answers = s.answers := rfl
@[simp] theorem State.endWith_sinks : (s.endWith n e).sinks = s.sinks := rfl
@[simp] theorem State.endWith_hostMem : (s.endWith n e).hostMem = s.hostMem := rfl
@[simp] theorem State.endWith_refusing : (s.endWith n e).refusing = s.refusing := rfl
@[simp] theorem State.endWith_keys : (s.endWith n e).keys = s.keys := rfl
@[simp] theorem State.endWith_outbox : (s.endWith n e).outbox = s.outbox := rfl
@[simp] theorem State.endWith_bord : (s.endWith n e).bord = s.bord := rfl
@[simp] theorem State.endWith_wsel : (s.endWith n e).wsel = s.wsel := rfl
@[simp] theorem State.endWith_load : (s.endWith n e).load = s.load := rfl
@[simp] theorem State.endWith_sealingKeys : (s.endWith n e).sealingKeys = s.sealingKeys := rfl
@[simp] theorem State.endWith_sealRefusals : (s.endWith n e).sealRefusals = s.sealRefusals := rfl
@[simp] theorem State.endWith_head : (s.endWith n e).head = s.head := rfl
@[simp] theorem State.endWith_headPtr : (s.endWith n e).headPtr = s.headPtr := rfl
@[simp] theorem State.endWith_history : (s.endWith n e).history = s.history := rfl
@[simp] theorem State.endWith_clock : (s.endWith n e).clock = s.clock := rfl
@[simp] theorem State.endWith_orders : (s.endWith n e).orders = s.orders := rfl
@[simp] theorem State.endWith_placed : (s.endWith n e).placed = s.placed := rfl
@[simp] theorem State.endWith_armings : (s.endWith n e).armings = s.armings := rfl
@[simp] theorem State.endWith_seqs : (s.endWith n e).seqs = s.seqs := rfl
@[simp] theorem State.endWith_barriers : (s.endWith n e).barriers = s.barriers := rfl
@[simp] theorem State.endWith_trellis : (s.endWith n e).trellis = s.trellis := rfl
@[simp] theorem State.endWith_leaves : (s.endWith n e).leaves = s.leaves := rfl
@[simp] theorem State.endWith_sprouts : (s.endWith n e).sprouts = s.sprouts := rfl
@[simp] theorem State.endWith_portPrunes : (s.endWith n e).portPrunes = s.portPrunes := rfl
@[simp] theorem State.endWith_portDrops : (s.endWith n e).portDrops = s.portDrops := rfl
@[simp] theorem State.endWith_arrivals : (s.endWith n e).arrivals = s.arrivals := rfl
@[simp] theorem State.endWith_chans : (s.endWith n e).chans = s.chans := rfl
@[simp] theorem State.endWith_plots : (s.endWith n e).plots = s.plots := rfl
@[simp] theorem State.endWith_elems : (s.endWith n e).elems = s.elems := rfl
@[simp] theorem State.endWith_foragers : (s.endWith n e).foragers = s.foragers := rfl
@[simp] theorem State.endWith_arrays : (s.endWith n e).arrays = s.arrays := rfl
@[simp] theorem State.endWith_nodes : (s.endWith n e).nodes = s.nodes := rfl
@[simp] theorem State.endWith_cores : (s.endWith n e).cores = s.cores := rfl
@[simp] theorem State.endWith_engines : (s.endWith n e).engines = s.engines := rfl
@[simp] theorem State.endWith_profiles : (s.endWith n e).profiles = s.profiles := rfl
@[simp] theorem State.endWith_cuts : (s.endWith n e).cuts = s.cuts := rfl
@[simp] theorem State.endWith_grafts : (s.endWith n e).grafts = s.grafts := rfl
@[simp] theorem State.endWith_dormants : (s.endWith n e).dormants = s.dormants := rfl
@[simp] theorem State.endWith_dbp : (s.endWith n e).dbp = s.dbp := rfl
@[simp] theorem State.endWith_bpPending : (s.endWith n e).bpPending = s.bpPending := rfl
@[simp] theorem State.endWith_samples : (s.endWith n e).samples = s.samples := rfl
@[simp] theorem State.endWith_frost : (s.endWith n e).frost = s.frost := rfl
@[simp] theorem State.endWith_replays : (s.endWith n e).replays = s.replays := rfl
@[simp] theorem State.endWith_armed : (s.endWith n e).armed = s.armed := rfl
@[simp] theorem State.endWith_dump : (s.endWith n e).dump = s.dump := rfl
@[simp] theorem State.endWith_fatals : (s.endWith n e).fatals = s.fatals := rfl
@[simp] theorem State.endWith_ecc : (s.endWith n e).ecc = s.ecc := rfl
@[simp] theorem State.endWith_hangLimit : (s.endWith n e).hangLimit = s.hangLimit := rfl
end

section
variable (s : State) (n k : Nat) (f : Placed → Placed)
open State
@[simp] theorem State.mapPlace_agenda : (s.mapPlace n k f).agenda = s.agenda := rfl
@[simp] theorem State.mapPlace_focus : (s.mapPlace n k f).focus = s.focus := rfl
@[simp] theorem State.mapPlace_firing : (s.mapPlace n k f).firing = s.firing := rfl
@[simp] theorem State.mapPlace_fresh : (s.mapPlace n k f).fresh = s.fresh := rfl
@[simp] theorem State.mapPlace_mem : (s.mapPlace n k f).mem = s.mem := rfl
@[simp] theorem State.mapPlace_side : (s.mapPlace n k f).side = s.side := rfl
@[simp] theorem State.mapPlace_deferred : (s.mapPlace n k f).deferred = s.deferred := rfl
@[simp] theorem State.mapPlace_held : (s.mapPlace n k f).held = s.held := rfl
@[simp] theorem State.mapPlace_older : (s.mapPlace n k f).older = s.older := rfl
@[simp] theorem State.mapPlace_tlb : (s.mapPlace n k f).tlb = s.tlb := rfl
@[simp] theorem State.mapPlace_tlb2 : (s.mapPlace n k f).tlb2 = s.tlb2 := rfl
@[simp] theorem State.mapPlace_ptbase : (s.mapPlace n k f).ptbase = s.ptbase := rfl
@[simp] theorem State.mapPlace_powered : (s.mapPlace n k f).powered = s.powered := rfl
@[simp] theorem State.mapPlace_inReset : (s.mapPlace n k f).inReset = s.inReset := rfl
@[simp] theorem State.mapPlace_supplyOk : (s.mapPlace n k f).supplyOk = s.supplyOk := rfl
@[simp] theorem State.mapPlace_booted : (s.mapPlace n k f).booted = s.booted := rfl
@[simp] theorem State.mapPlace_fwImage : (s.mapPlace n k f).fwImage = s.fwImage := rfl
@[simp] theorem State.mapPlace_fwKey : (s.mapPlace n k f).fwKey = s.fwKey := rfl
@[simp] theorem State.mapPlace_fwSig : (s.mapPlace n k f).fwSig = s.fwSig := rfl
@[simp] theorem State.mapPlace_latched : (s.mapPlace n k f).latched = s.latched := rfl
@[simp] theorem State.mapPlace_dies : (s.mapPlace n k f).dies = s.dies := rfl
@[simp] theorem State.mapPlace_pmap : (s.mapPlace n k f).pmap = s.pmap := rfl
@[simp] theorem State.mapPlace_buckets : (s.mapPlace n k f).buckets = s.buckets := rfl
@[simp] theorem State.mapPlace_stale : (s.mapPlace n k f).stale = s.stale := rfl
@[simp] theorem State.mapPlace_ports : (s.mapPlace n k f).ports = s.ports := rfl
@[simp] theorem State.mapPlace_qpairs : (s.mapPlace n k f).qpairs = s.qpairs := rfl
@[simp] theorem State.mapPlace_roceDrops : (s.mapPlace n k f).roceDrops = s.roceDrops := rfl
@[simp] theorem State.mapPlace_roceRecv : (s.mapPlace n k f).roceRecv = s.roceRecv := rfl
@[simp] theorem State.mapPlace_eth : (s.mapPlace n k f).eth = s.eth := rfl
@[simp] theorem State.mapPlace_answers : (s.mapPlace n k f).answers = s.answers := rfl
@[simp] theorem State.mapPlace_sinks : (s.mapPlace n k f).sinks = s.sinks := rfl
@[simp] theorem State.mapPlace_hostMem : (s.mapPlace n k f).hostMem = s.hostMem := rfl
@[simp] theorem State.mapPlace_refusing : (s.mapPlace n k f).refusing = s.refusing := rfl
@[simp] theorem State.mapPlace_keys : (s.mapPlace n k f).keys = s.keys := rfl
@[simp] theorem State.mapPlace_outbox : (s.mapPlace n k f).outbox = s.outbox := rfl
@[simp] theorem State.mapPlace_bord : (s.mapPlace n k f).bord = s.bord := rfl
@[simp] theorem State.mapPlace_wsel : (s.mapPlace n k f).wsel = s.wsel := rfl
@[simp] theorem State.mapPlace_load : (s.mapPlace n k f).load = s.load := rfl
@[simp] theorem State.mapPlace_sealingKeys : (s.mapPlace n k f).sealingKeys = s.sealingKeys := rfl
@[simp] theorem State.mapPlace_sealRefusals : (s.mapPlace n k f).sealRefusals = s.sealRefusals := rfl
@[simp] theorem State.mapPlace_launches : (s.mapPlace n k f).launches = s.launches := rfl
@[simp] theorem State.mapPlace_head : (s.mapPlace n k f).head = s.head := rfl
@[simp] theorem State.mapPlace_headPtr : (s.mapPlace n k f).headPtr = s.headPtr := rfl
@[simp] theorem State.mapPlace_history : (s.mapPlace n k f).history = s.history := rfl
@[simp] theorem State.mapPlace_clock : (s.mapPlace n k f).clock = s.clock := rfl
@[simp] theorem State.mapPlace_orders : (s.mapPlace n k f).orders = s.orders := rfl
@[simp] theorem State.mapPlace_armings : (s.mapPlace n k f).armings = s.armings := rfl
@[simp] theorem State.mapPlace_seqs : (s.mapPlace n k f).seqs = s.seqs := rfl
@[simp] theorem State.mapPlace_barriers : (s.mapPlace n k f).barriers = s.barriers := rfl
@[simp] theorem State.mapPlace_trellis : (s.mapPlace n k f).trellis = s.trellis := rfl
@[simp] theorem State.mapPlace_leaves : (s.mapPlace n k f).leaves = s.leaves := rfl
@[simp] theorem State.mapPlace_sprouts : (s.mapPlace n k f).sprouts = s.sprouts := rfl
@[simp] theorem State.mapPlace_portPrunes : (s.mapPlace n k f).portPrunes = s.portPrunes := rfl
@[simp] theorem State.mapPlace_portDrops : (s.mapPlace n k f).portDrops = s.portDrops := rfl
@[simp] theorem State.mapPlace_arrivals : (s.mapPlace n k f).arrivals = s.arrivals := rfl
@[simp] theorem State.mapPlace_chans : (s.mapPlace n k f).chans = s.chans := rfl
@[simp] theorem State.mapPlace_plots : (s.mapPlace n k f).plots = s.plots := rfl
@[simp] theorem State.mapPlace_elems : (s.mapPlace n k f).elems = s.elems := rfl
@[simp] theorem State.mapPlace_foragers : (s.mapPlace n k f).foragers = s.foragers := rfl
@[simp] theorem State.mapPlace_arrays : (s.mapPlace n k f).arrays = s.arrays := rfl
@[simp] theorem State.mapPlace_nodes : (s.mapPlace n k f).nodes = s.nodes := rfl
@[simp] theorem State.mapPlace_cores : (s.mapPlace n k f).cores = s.cores := rfl
@[simp] theorem State.mapPlace_engines : (s.mapPlace n k f).engines = s.engines := rfl
@[simp] theorem State.mapPlace_profiles : (s.mapPlace n k f).profiles = s.profiles := rfl
@[simp] theorem State.mapPlace_cuts : (s.mapPlace n k f).cuts = s.cuts := rfl
@[simp] theorem State.mapPlace_grafts : (s.mapPlace n k f).grafts = s.grafts := rfl
@[simp] theorem State.mapPlace_dormants : (s.mapPlace n k f).dormants = s.dormants := rfl
@[simp] theorem State.mapPlace_dbp : (s.mapPlace n k f).dbp = s.dbp := rfl
@[simp] theorem State.mapPlace_bpPending : (s.mapPlace n k f).bpPending = s.bpPending := rfl
@[simp] theorem State.mapPlace_samples : (s.mapPlace n k f).samples = s.samples := rfl
@[simp] theorem State.mapPlace_frost : (s.mapPlace n k f).frost = s.frost := rfl
@[simp] theorem State.mapPlace_replays : (s.mapPlace n k f).replays = s.replays := rfl
@[simp] theorem State.mapPlace_armed : (s.mapPlace n k f).armed = s.armed := rfl
@[simp] theorem State.mapPlace_dump : (s.mapPlace n k f).dump = s.dump := rfl
@[simp] theorem State.mapPlace_fatals : (s.mapPlace n k f).fatals = s.fatals := rfl
@[simp] theorem State.mapPlace_ecc : (s.mapPlace n k f).ecc = s.ecc := rfl
@[simp] theorem State.mapPlace_hangLimit : (s.mapPlace n k f).hangLimit = s.hangLimit := rfl
end

section
variable (s : State) (i : Nat) (f : Chan → Chan)
open State
@[simp] theorem State.updChan_agenda : (s.updChan i f).agenda = s.agenda := rfl
@[simp] theorem State.updChan_focus : (s.updChan i f).focus = s.focus := rfl
@[simp] theorem State.updChan_firing : (s.updChan i f).firing = s.firing := rfl
@[simp] theorem State.updChan_fresh : (s.updChan i f).fresh = s.fresh := rfl
@[simp] theorem State.updChan_mem : (s.updChan i f).mem = s.mem := rfl
@[simp] theorem State.updChan_side : (s.updChan i f).side = s.side := rfl
@[simp] theorem State.updChan_deferred : (s.updChan i f).deferred = s.deferred := rfl
@[simp] theorem State.updChan_held : (s.updChan i f).held = s.held := rfl
@[simp] theorem State.updChan_older : (s.updChan i f).older = s.older := rfl
@[simp] theorem State.updChan_tlb : (s.updChan i f).tlb = s.tlb := rfl
@[simp] theorem State.updChan_tlb2 : (s.updChan i f).tlb2 = s.tlb2 := rfl
@[simp] theorem State.updChan_ptbase : (s.updChan i f).ptbase = s.ptbase := rfl
@[simp] theorem State.updChan_powered : (s.updChan i f).powered = s.powered := rfl
@[simp] theorem State.updChan_inReset : (s.updChan i f).inReset = s.inReset := rfl
@[simp] theorem State.updChan_supplyOk : (s.updChan i f).supplyOk = s.supplyOk := rfl
@[simp] theorem State.updChan_booted : (s.updChan i f).booted = s.booted := rfl
@[simp] theorem State.updChan_fwImage : (s.updChan i f).fwImage = s.fwImage := rfl
@[simp] theorem State.updChan_fwKey : (s.updChan i f).fwKey = s.fwKey := rfl
@[simp] theorem State.updChan_fwSig : (s.updChan i f).fwSig = s.fwSig := rfl
@[simp] theorem State.updChan_latched : (s.updChan i f).latched = s.latched := rfl
@[simp] theorem State.updChan_dies : (s.updChan i f).dies = s.dies := rfl
@[simp] theorem State.updChan_pmap : (s.updChan i f).pmap = s.pmap := rfl
@[simp] theorem State.updChan_buckets : (s.updChan i f).buckets = s.buckets := rfl
@[simp] theorem State.updChan_stale : (s.updChan i f).stale = s.stale := rfl
@[simp] theorem State.updChan_ports : (s.updChan i f).ports = s.ports := rfl
@[simp] theorem State.updChan_qpairs : (s.updChan i f).qpairs = s.qpairs := rfl
@[simp] theorem State.updChan_roceDrops : (s.updChan i f).roceDrops = s.roceDrops := rfl
@[simp] theorem State.updChan_roceRecv : (s.updChan i f).roceRecv = s.roceRecv := rfl
@[simp] theorem State.updChan_eth : (s.updChan i f).eth = s.eth := rfl
@[simp] theorem State.updChan_answers : (s.updChan i f).answers = s.answers := rfl
@[simp] theorem State.updChan_sinks : (s.updChan i f).sinks = s.sinks := rfl
@[simp] theorem State.updChan_hostMem : (s.updChan i f).hostMem = s.hostMem := rfl
@[simp] theorem State.updChan_refusing : (s.updChan i f).refusing = s.refusing := rfl
@[simp] theorem State.updChan_keys : (s.updChan i f).keys = s.keys := rfl
@[simp] theorem State.updChan_outbox : (s.updChan i f).outbox = s.outbox := rfl
@[simp] theorem State.updChan_bord : (s.updChan i f).bord = s.bord := rfl
@[simp] theorem State.updChan_wsel : (s.updChan i f).wsel = s.wsel := rfl
@[simp] theorem State.updChan_load : (s.updChan i f).load = s.load := rfl
@[simp] theorem State.updChan_sealingKeys : (s.updChan i f).sealingKeys = s.sealingKeys := rfl
@[simp] theorem State.updChan_sealRefusals : (s.updChan i f).sealRefusals = s.sealRefusals := rfl
@[simp] theorem State.updChan_launches : (s.updChan i f).launches = s.launches := rfl
@[simp] theorem State.updChan_head : (s.updChan i f).head = s.head := rfl
@[simp] theorem State.updChan_headPtr : (s.updChan i f).headPtr = s.headPtr := rfl
@[simp] theorem State.updChan_history : (s.updChan i f).history = s.history := rfl
@[simp] theorem State.updChan_clock : (s.updChan i f).clock = s.clock := rfl
@[simp] theorem State.updChan_orders : (s.updChan i f).orders = s.orders := rfl
@[simp] theorem State.updChan_placed : (s.updChan i f).placed = s.placed := rfl
@[simp] theorem State.updChan_armings : (s.updChan i f).armings = s.armings := rfl
@[simp] theorem State.updChan_seqs : (s.updChan i f).seqs = s.seqs := rfl
@[simp] theorem State.updChan_barriers : (s.updChan i f).barriers = s.barriers := rfl
@[simp] theorem State.updChan_trellis : (s.updChan i f).trellis = s.trellis := rfl
@[simp] theorem State.updChan_leaves : (s.updChan i f).leaves = s.leaves := rfl
@[simp] theorem State.updChan_sprouts : (s.updChan i f).sprouts = s.sprouts := rfl
@[simp] theorem State.updChan_portPrunes : (s.updChan i f).portPrunes = s.portPrunes := rfl
@[simp] theorem State.updChan_portDrops : (s.updChan i f).portDrops = s.portDrops := rfl
@[simp] theorem State.updChan_arrivals : (s.updChan i f).arrivals = s.arrivals := rfl
@[simp] theorem State.updChan_plots : (s.updChan i f).plots = s.plots := rfl
@[simp] theorem State.updChan_elems : (s.updChan i f).elems = s.elems := rfl
@[simp] theorem State.updChan_foragers : (s.updChan i f).foragers = s.foragers := rfl
@[simp] theorem State.updChan_arrays : (s.updChan i f).arrays = s.arrays := rfl
@[simp] theorem State.updChan_nodes : (s.updChan i f).nodes = s.nodes := rfl
@[simp] theorem State.updChan_cores : (s.updChan i f).cores = s.cores := rfl
@[simp] theorem State.updChan_engines : (s.updChan i f).engines = s.engines := rfl
@[simp] theorem State.updChan_profiles : (s.updChan i f).profiles = s.profiles := rfl
@[simp] theorem State.updChan_cuts : (s.updChan i f).cuts = s.cuts := rfl
@[simp] theorem State.updChan_grafts : (s.updChan i f).grafts = s.grafts := rfl
@[simp] theorem State.updChan_dormants : (s.updChan i f).dormants = s.dormants := rfl
@[simp] theorem State.updChan_dbp : (s.updChan i f).dbp = s.dbp := rfl
@[simp] theorem State.updChan_bpPending : (s.updChan i f).bpPending = s.bpPending := rfl
@[simp] theorem State.updChan_samples : (s.updChan i f).samples = s.samples := rfl
@[simp] theorem State.updChan_frost : (s.updChan i f).frost = s.frost := rfl
@[simp] theorem State.updChan_replays : (s.updChan i f).replays = s.replays := rfl
@[simp] theorem State.updChan_armed : (s.updChan i f).armed = s.armed := rfl
@[simp] theorem State.updChan_dump : (s.updChan i f).dump = s.dump := rfl
@[simp] theorem State.updChan_fatals : (s.updChan i f).fatals = s.fatals := rfl
@[simp] theorem State.updChan_ecc : (s.updChan i f).ecc = s.ecc := rfl
@[simp] theorem State.updChan_hangLimit : (s.updChan i f).hangLimit = s.hangLimit := rfl
end

section
variable (s : State) (r : ElemRef) (f : Elem → Elem)
open State
@[simp] theorem State.updElem_agenda : (s.updElem r f).agenda = s.agenda := rfl
@[simp] theorem State.updElem_focus : (s.updElem r f).focus = s.focus := rfl
@[simp] theorem State.updElem_firing : (s.updElem r f).firing = s.firing := rfl
@[simp] theorem State.updElem_fresh : (s.updElem r f).fresh = s.fresh := rfl
@[simp] theorem State.updElem_mem : (s.updElem r f).mem = s.mem := rfl
@[simp] theorem State.updElem_side : (s.updElem r f).side = s.side := rfl
@[simp] theorem State.updElem_deferred : (s.updElem r f).deferred = s.deferred := rfl
@[simp] theorem State.updElem_held : (s.updElem r f).held = s.held := rfl
@[simp] theorem State.updElem_older : (s.updElem r f).older = s.older := rfl
@[simp] theorem State.updElem_tlb : (s.updElem r f).tlb = s.tlb := rfl
@[simp] theorem State.updElem_tlb2 : (s.updElem r f).tlb2 = s.tlb2 := rfl
@[simp] theorem State.updElem_ptbase : (s.updElem r f).ptbase = s.ptbase := rfl
@[simp] theorem State.updElem_powered : (s.updElem r f).powered = s.powered := rfl
@[simp] theorem State.updElem_inReset : (s.updElem r f).inReset = s.inReset := rfl
@[simp] theorem State.updElem_supplyOk : (s.updElem r f).supplyOk = s.supplyOk := rfl
@[simp] theorem State.updElem_booted : (s.updElem r f).booted = s.booted := rfl
@[simp] theorem State.updElem_fwImage : (s.updElem r f).fwImage = s.fwImage := rfl
@[simp] theorem State.updElem_fwKey : (s.updElem r f).fwKey = s.fwKey := rfl
@[simp] theorem State.updElem_fwSig : (s.updElem r f).fwSig = s.fwSig := rfl
@[simp] theorem State.updElem_latched : (s.updElem r f).latched = s.latched := rfl
@[simp] theorem State.updElem_dies : (s.updElem r f).dies = s.dies := rfl
@[simp] theorem State.updElem_pmap : (s.updElem r f).pmap = s.pmap := rfl
@[simp] theorem State.updElem_buckets : (s.updElem r f).buckets = s.buckets := rfl
@[simp] theorem State.updElem_stale : (s.updElem r f).stale = s.stale := rfl
@[simp] theorem State.updElem_ports : (s.updElem r f).ports = s.ports := rfl
@[simp] theorem State.updElem_qpairs : (s.updElem r f).qpairs = s.qpairs := rfl
@[simp] theorem State.updElem_roceDrops : (s.updElem r f).roceDrops = s.roceDrops := rfl
@[simp] theorem State.updElem_roceRecv : (s.updElem r f).roceRecv = s.roceRecv := rfl
@[simp] theorem State.updElem_eth : (s.updElem r f).eth = s.eth := rfl
@[simp] theorem State.updElem_answers : (s.updElem r f).answers = s.answers := rfl
@[simp] theorem State.updElem_sinks : (s.updElem r f).sinks = s.sinks := rfl
@[simp] theorem State.updElem_hostMem : (s.updElem r f).hostMem = s.hostMem := rfl
@[simp] theorem State.updElem_refusing : (s.updElem r f).refusing = s.refusing := rfl
@[simp] theorem State.updElem_keys : (s.updElem r f).keys = s.keys := rfl
@[simp] theorem State.updElem_outbox : (s.updElem r f).outbox = s.outbox := rfl
@[simp] theorem State.updElem_bord : (s.updElem r f).bord = s.bord := rfl
@[simp] theorem State.updElem_wsel : (s.updElem r f).wsel = s.wsel := rfl
@[simp] theorem State.updElem_load : (s.updElem r f).load = s.load := rfl
@[simp] theorem State.updElem_sealingKeys : (s.updElem r f).sealingKeys = s.sealingKeys := rfl
@[simp] theorem State.updElem_sealRefusals : (s.updElem r f).sealRefusals = s.sealRefusals := rfl
@[simp] theorem State.updElem_launches : (s.updElem r f).launches = s.launches := rfl
@[simp] theorem State.updElem_head : (s.updElem r f).head = s.head := rfl
@[simp] theorem State.updElem_headPtr : (s.updElem r f).headPtr = s.headPtr := rfl
@[simp] theorem State.updElem_history : (s.updElem r f).history = s.history := rfl
@[simp] theorem State.updElem_clock : (s.updElem r f).clock = s.clock := rfl
@[simp] theorem State.updElem_orders : (s.updElem r f).orders = s.orders := rfl
@[simp] theorem State.updElem_placed : (s.updElem r f).placed = s.placed := rfl
@[simp] theorem State.updElem_armings : (s.updElem r f).armings = s.armings := rfl
@[simp] theorem State.updElem_seqs : (s.updElem r f).seqs = s.seqs := rfl
@[simp] theorem State.updElem_barriers : (s.updElem r f).barriers = s.barriers := rfl
@[simp] theorem State.updElem_trellis : (s.updElem r f).trellis = s.trellis := rfl
@[simp] theorem State.updElem_leaves : (s.updElem r f).leaves = s.leaves := rfl
@[simp] theorem State.updElem_sprouts : (s.updElem r f).sprouts = s.sprouts := rfl
@[simp] theorem State.updElem_portPrunes : (s.updElem r f).portPrunes = s.portPrunes := rfl
@[simp] theorem State.updElem_portDrops : (s.updElem r f).portDrops = s.portDrops := rfl
@[simp] theorem State.updElem_arrivals : (s.updElem r f).arrivals = s.arrivals := rfl
@[simp] theorem State.updElem_chans : (s.updElem r f).chans = s.chans := rfl
@[simp] theorem State.updElem_plots : (s.updElem r f).plots = s.plots := rfl
@[simp] theorem State.updElem_foragers : (s.updElem r f).foragers = s.foragers := rfl
@[simp] theorem State.updElem_arrays : (s.updElem r f).arrays = s.arrays := rfl
@[simp] theorem State.updElem_nodes : (s.updElem r f).nodes = s.nodes := rfl
@[simp] theorem State.updElem_cores : (s.updElem r f).cores = s.cores := rfl
@[simp] theorem State.updElem_engines : (s.updElem r f).engines = s.engines := rfl
@[simp] theorem State.updElem_profiles : (s.updElem r f).profiles = s.profiles := rfl
@[simp] theorem State.updElem_cuts : (s.updElem r f).cuts = s.cuts := rfl
@[simp] theorem State.updElem_grafts : (s.updElem r f).grafts = s.grafts := rfl
@[simp] theorem State.updElem_dormants : (s.updElem r f).dormants = s.dormants := rfl
@[simp] theorem State.updElem_dbp : (s.updElem r f).dbp = s.dbp := rfl
@[simp] theorem State.updElem_bpPending : (s.updElem r f).bpPending = s.bpPending := rfl
@[simp] theorem State.updElem_samples : (s.updElem r f).samples = s.samples := rfl
@[simp] theorem State.updElem_frost : (s.updElem r f).frost = s.frost := rfl
@[simp] theorem State.updElem_replays : (s.updElem r f).replays = s.replays := rfl
@[simp] theorem State.updElem_armed : (s.updElem r f).armed = s.armed := rfl
@[simp] theorem State.updElem_dump : (s.updElem r f).dump = s.dump := rfl
@[simp] theorem State.updElem_fatals : (s.updElem r f).fatals = s.fatals := rfl
@[simp] theorem State.updElem_ecc : (s.updElem r f).ecc = s.ecc := rfl
@[simp] theorem State.updElem_hangLimit : (s.updElem r f).hangLimit = s.hangLimit := rfl
end

section
variable (s : State) (n k x y : Nat) (f : Plot → Plot)
open State
@[simp] theorem State.updPlot_agenda : (s.updPlot n k x y f).agenda = s.agenda := rfl
@[simp] theorem State.updPlot_focus : (s.updPlot n k x y f).focus = s.focus := rfl
@[simp] theorem State.updPlot_firing : (s.updPlot n k x y f).firing = s.firing := rfl
@[simp] theorem State.updPlot_fresh : (s.updPlot n k x y f).fresh = s.fresh := rfl
@[simp] theorem State.updPlot_mem : (s.updPlot n k x y f).mem = s.mem := rfl
@[simp] theorem State.updPlot_side : (s.updPlot n k x y f).side = s.side := rfl
@[simp] theorem State.updPlot_deferred : (s.updPlot n k x y f).deferred = s.deferred := rfl
@[simp] theorem State.updPlot_held : (s.updPlot n k x y f).held = s.held := rfl
@[simp] theorem State.updPlot_older : (s.updPlot n k x y f).older = s.older := rfl
@[simp] theorem State.updPlot_tlb : (s.updPlot n k x y f).tlb = s.tlb := rfl
@[simp] theorem State.updPlot_tlb2 : (s.updPlot n k x y f).tlb2 = s.tlb2 := rfl
@[simp] theorem State.updPlot_ptbase : (s.updPlot n k x y f).ptbase = s.ptbase := rfl
@[simp] theorem State.updPlot_powered : (s.updPlot n k x y f).powered = s.powered := rfl
@[simp] theorem State.updPlot_inReset : (s.updPlot n k x y f).inReset = s.inReset := rfl
@[simp] theorem State.updPlot_supplyOk : (s.updPlot n k x y f).supplyOk = s.supplyOk := rfl
@[simp] theorem State.updPlot_booted : (s.updPlot n k x y f).booted = s.booted := rfl
@[simp] theorem State.updPlot_fwImage : (s.updPlot n k x y f).fwImage = s.fwImage := rfl
@[simp] theorem State.updPlot_fwKey : (s.updPlot n k x y f).fwKey = s.fwKey := rfl
@[simp] theorem State.updPlot_fwSig : (s.updPlot n k x y f).fwSig = s.fwSig := rfl
@[simp] theorem State.updPlot_latched : (s.updPlot n k x y f).latched = s.latched := rfl
@[simp] theorem State.updPlot_dies : (s.updPlot n k x y f).dies = s.dies := rfl
@[simp] theorem State.updPlot_pmap : (s.updPlot n k x y f).pmap = s.pmap := rfl
@[simp] theorem State.updPlot_buckets : (s.updPlot n k x y f).buckets = s.buckets := rfl
@[simp] theorem State.updPlot_stale : (s.updPlot n k x y f).stale = s.stale := rfl
@[simp] theorem State.updPlot_ports : (s.updPlot n k x y f).ports = s.ports := rfl
@[simp] theorem State.updPlot_qpairs : (s.updPlot n k x y f).qpairs = s.qpairs := rfl
@[simp] theorem State.updPlot_roceDrops : (s.updPlot n k x y f).roceDrops = s.roceDrops := rfl
@[simp] theorem State.updPlot_roceRecv : (s.updPlot n k x y f).roceRecv = s.roceRecv := rfl
@[simp] theorem State.updPlot_eth : (s.updPlot n k x y f).eth = s.eth := rfl
@[simp] theorem State.updPlot_answers : (s.updPlot n k x y f).answers = s.answers := rfl
@[simp] theorem State.updPlot_sinks : (s.updPlot n k x y f).sinks = s.sinks := rfl
@[simp] theorem State.updPlot_hostMem : (s.updPlot n k x y f).hostMem = s.hostMem := rfl
@[simp] theorem State.updPlot_refusing : (s.updPlot n k x y f).refusing = s.refusing := rfl
@[simp] theorem State.updPlot_keys : (s.updPlot n k x y f).keys = s.keys := rfl
@[simp] theorem State.updPlot_outbox : (s.updPlot n k x y f).outbox = s.outbox := rfl
@[simp] theorem State.updPlot_bord : (s.updPlot n k x y f).bord = s.bord := rfl
@[simp] theorem State.updPlot_wsel : (s.updPlot n k x y f).wsel = s.wsel := rfl
@[simp] theorem State.updPlot_load : (s.updPlot n k x y f).load = s.load := rfl
@[simp] theorem State.updPlot_sealingKeys : (s.updPlot n k x y f).sealingKeys = s.sealingKeys := rfl
@[simp] theorem State.updPlot_sealRefusals : (s.updPlot n k x y f).sealRefusals = s.sealRefusals := rfl
@[simp] theorem State.updPlot_launches : (s.updPlot n k x y f).launches = s.launches := rfl
@[simp] theorem State.updPlot_head : (s.updPlot n k x y f).head = s.head := rfl
@[simp] theorem State.updPlot_headPtr : (s.updPlot n k x y f).headPtr = s.headPtr := rfl
@[simp] theorem State.updPlot_history : (s.updPlot n k x y f).history = s.history := rfl
@[simp] theorem State.updPlot_clock : (s.updPlot n k x y f).clock = s.clock := rfl
@[simp] theorem State.updPlot_orders : (s.updPlot n k x y f).orders = s.orders := rfl
@[simp] theorem State.updPlot_placed : (s.updPlot n k x y f).placed = s.placed := rfl
@[simp] theorem State.updPlot_armings : (s.updPlot n k x y f).armings = s.armings := rfl
@[simp] theorem State.updPlot_seqs : (s.updPlot n k x y f).seqs = s.seqs := rfl
@[simp] theorem State.updPlot_barriers : (s.updPlot n k x y f).barriers = s.barriers := rfl
@[simp] theorem State.updPlot_trellis : (s.updPlot n k x y f).trellis = s.trellis := rfl
@[simp] theorem State.updPlot_leaves : (s.updPlot n k x y f).leaves = s.leaves := rfl
@[simp] theorem State.updPlot_sprouts : (s.updPlot n k x y f).sprouts = s.sprouts := rfl
@[simp] theorem State.updPlot_portPrunes : (s.updPlot n k x y f).portPrunes = s.portPrunes := rfl
@[simp] theorem State.updPlot_portDrops : (s.updPlot n k x y f).portDrops = s.portDrops := rfl
@[simp] theorem State.updPlot_arrivals : (s.updPlot n k x y f).arrivals = s.arrivals := rfl
@[simp] theorem State.updPlot_chans : (s.updPlot n k x y f).chans = s.chans := rfl
@[simp] theorem State.updPlot_elems : (s.updPlot n k x y f).elems = s.elems := rfl
@[simp] theorem State.updPlot_foragers : (s.updPlot n k x y f).foragers = s.foragers := rfl
@[simp] theorem State.updPlot_arrays : (s.updPlot n k x y f).arrays = s.arrays := rfl
@[simp] theorem State.updPlot_nodes : (s.updPlot n k x y f).nodes = s.nodes := rfl
@[simp] theorem State.updPlot_cores : (s.updPlot n k x y f).cores = s.cores := rfl
@[simp] theorem State.updPlot_engines : (s.updPlot n k x y f).engines = s.engines := rfl
@[simp] theorem State.updPlot_profiles : (s.updPlot n k x y f).profiles = s.profiles := rfl
@[simp] theorem State.updPlot_cuts : (s.updPlot n k x y f).cuts = s.cuts := rfl
@[simp] theorem State.updPlot_grafts : (s.updPlot n k x y f).grafts = s.grafts := rfl
@[simp] theorem State.updPlot_dormants : (s.updPlot n k x y f).dormants = s.dormants := rfl
@[simp] theorem State.updPlot_dbp : (s.updPlot n k x y f).dbp = s.dbp := rfl
@[simp] theorem State.updPlot_bpPending : (s.updPlot n k x y f).bpPending = s.bpPending := rfl
@[simp] theorem State.updPlot_samples : (s.updPlot n k x y f).samples = s.samples := rfl
@[simp] theorem State.updPlot_frost : (s.updPlot n k x y f).frost = s.frost := rfl
@[simp] theorem State.updPlot_replays : (s.updPlot n k x y f).replays = s.replays := rfl
@[simp] theorem State.updPlot_armed : (s.updPlot n k x y f).armed = s.armed := rfl
@[simp] theorem State.updPlot_dump : (s.updPlot n k x y f).dump = s.dump := rfl
@[simp] theorem State.updPlot_fatals : (s.updPlot n k x y f).fatals = s.fatals := rfl
@[simp] theorem State.updPlot_ecc : (s.updPlot n k x y f).ecc = s.ecc := rfl
@[simp] theorem State.updPlot_hangLimit : (s.updPlot n k x y f).hangLimit = s.hangLimit := rfl
end

section
variable (s : State) (r : NodeRef) (f : MemNode → MemNode)
open State
@[simp] theorem State.updNode_agenda : (s.updNode r f).agenda = s.agenda := rfl
@[simp] theorem State.updNode_focus : (s.updNode r f).focus = s.focus := rfl
@[simp] theorem State.updNode_firing : (s.updNode r f).firing = s.firing := rfl
@[simp] theorem State.updNode_fresh : (s.updNode r f).fresh = s.fresh := rfl
@[simp] theorem State.updNode_mem : (s.updNode r f).mem = s.mem := rfl
@[simp] theorem State.updNode_side : (s.updNode r f).side = s.side := rfl
@[simp] theorem State.updNode_deferred : (s.updNode r f).deferred = s.deferred := rfl
@[simp] theorem State.updNode_held : (s.updNode r f).held = s.held := rfl
@[simp] theorem State.updNode_older : (s.updNode r f).older = s.older := rfl
@[simp] theorem State.updNode_tlb : (s.updNode r f).tlb = s.tlb := rfl
@[simp] theorem State.updNode_tlb2 : (s.updNode r f).tlb2 = s.tlb2 := rfl
@[simp] theorem State.updNode_ptbase : (s.updNode r f).ptbase = s.ptbase := rfl
@[simp] theorem State.updNode_powered : (s.updNode r f).powered = s.powered := rfl
@[simp] theorem State.updNode_inReset : (s.updNode r f).inReset = s.inReset := rfl
@[simp] theorem State.updNode_supplyOk : (s.updNode r f).supplyOk = s.supplyOk := rfl
@[simp] theorem State.updNode_booted : (s.updNode r f).booted = s.booted := rfl
@[simp] theorem State.updNode_fwImage : (s.updNode r f).fwImage = s.fwImage := rfl
@[simp] theorem State.updNode_fwKey : (s.updNode r f).fwKey = s.fwKey := rfl
@[simp] theorem State.updNode_fwSig : (s.updNode r f).fwSig = s.fwSig := rfl
@[simp] theorem State.updNode_latched : (s.updNode r f).latched = s.latched := rfl
@[simp] theorem State.updNode_dies : (s.updNode r f).dies = s.dies := rfl
@[simp] theorem State.updNode_pmap : (s.updNode r f).pmap = s.pmap := rfl
@[simp] theorem State.updNode_buckets : (s.updNode r f).buckets = s.buckets := rfl
@[simp] theorem State.updNode_stale : (s.updNode r f).stale = s.stale := rfl
@[simp] theorem State.updNode_ports : (s.updNode r f).ports = s.ports := rfl
@[simp] theorem State.updNode_qpairs : (s.updNode r f).qpairs = s.qpairs := rfl
@[simp] theorem State.updNode_roceDrops : (s.updNode r f).roceDrops = s.roceDrops := rfl
@[simp] theorem State.updNode_roceRecv : (s.updNode r f).roceRecv = s.roceRecv := rfl
@[simp] theorem State.updNode_eth : (s.updNode r f).eth = s.eth := rfl
@[simp] theorem State.updNode_answers : (s.updNode r f).answers = s.answers := rfl
@[simp] theorem State.updNode_sinks : (s.updNode r f).sinks = s.sinks := rfl
@[simp] theorem State.updNode_hostMem : (s.updNode r f).hostMem = s.hostMem := rfl
@[simp] theorem State.updNode_refusing : (s.updNode r f).refusing = s.refusing := rfl
@[simp] theorem State.updNode_keys : (s.updNode r f).keys = s.keys := rfl
@[simp] theorem State.updNode_outbox : (s.updNode r f).outbox = s.outbox := rfl
@[simp] theorem State.updNode_bord : (s.updNode r f).bord = s.bord := rfl
@[simp] theorem State.updNode_wsel : (s.updNode r f).wsel = s.wsel := rfl
@[simp] theorem State.updNode_load : (s.updNode r f).load = s.load := rfl
@[simp] theorem State.updNode_sealingKeys : (s.updNode r f).sealingKeys = s.sealingKeys := rfl
@[simp] theorem State.updNode_sealRefusals : (s.updNode r f).sealRefusals = s.sealRefusals := rfl
@[simp] theorem State.updNode_launches : (s.updNode r f).launches = s.launches := rfl
@[simp] theorem State.updNode_head : (s.updNode r f).head = s.head := rfl
@[simp] theorem State.updNode_headPtr : (s.updNode r f).headPtr = s.headPtr := rfl
@[simp] theorem State.updNode_history : (s.updNode r f).history = s.history := rfl
@[simp] theorem State.updNode_clock : (s.updNode r f).clock = s.clock := rfl
@[simp] theorem State.updNode_orders : (s.updNode r f).orders = s.orders := rfl
@[simp] theorem State.updNode_placed : (s.updNode r f).placed = s.placed := rfl
@[simp] theorem State.updNode_armings : (s.updNode r f).armings = s.armings := rfl
@[simp] theorem State.updNode_seqs : (s.updNode r f).seqs = s.seqs := rfl
@[simp] theorem State.updNode_barriers : (s.updNode r f).barriers = s.barriers := rfl
@[simp] theorem State.updNode_trellis : (s.updNode r f).trellis = s.trellis := rfl
@[simp] theorem State.updNode_leaves : (s.updNode r f).leaves = s.leaves := rfl
@[simp] theorem State.updNode_sprouts : (s.updNode r f).sprouts = s.sprouts := rfl
@[simp] theorem State.updNode_portPrunes : (s.updNode r f).portPrunes = s.portPrunes := rfl
@[simp] theorem State.updNode_portDrops : (s.updNode r f).portDrops = s.portDrops := rfl
@[simp] theorem State.updNode_arrivals : (s.updNode r f).arrivals = s.arrivals := rfl
@[simp] theorem State.updNode_chans : (s.updNode r f).chans = s.chans := rfl
@[simp] theorem State.updNode_plots : (s.updNode r f).plots = s.plots := rfl
@[simp] theorem State.updNode_elems : (s.updNode r f).elems = s.elems := rfl
@[simp] theorem State.updNode_foragers : (s.updNode r f).foragers = s.foragers := rfl
@[simp] theorem State.updNode_arrays : (s.updNode r f).arrays = s.arrays := rfl
@[simp] theorem State.updNode_cores : (s.updNode r f).cores = s.cores := rfl
@[simp] theorem State.updNode_engines : (s.updNode r f).engines = s.engines := rfl
@[simp] theorem State.updNode_profiles : (s.updNode r f).profiles = s.profiles := rfl
@[simp] theorem State.updNode_cuts : (s.updNode r f).cuts = s.cuts := rfl
@[simp] theorem State.updNode_grafts : (s.updNode r f).grafts = s.grafts := rfl
@[simp] theorem State.updNode_dormants : (s.updNode r f).dormants = s.dormants := rfl
@[simp] theorem State.updNode_dbp : (s.updNode r f).dbp = s.dbp := rfl
@[simp] theorem State.updNode_bpPending : (s.updNode r f).bpPending = s.bpPending := rfl
@[simp] theorem State.updNode_samples : (s.updNode r f).samples = s.samples := rfl
@[simp] theorem State.updNode_frost : (s.updNode r f).frost = s.frost := rfl
@[simp] theorem State.updNode_replays : (s.updNode r f).replays = s.replays := rfl
@[simp] theorem State.updNode_armed : (s.updNode r f).armed = s.armed := rfl
@[simp] theorem State.updNode_dump : (s.updNode r f).dump = s.dump := rfl
@[simp] theorem State.updNode_fatals : (s.updNode r f).fatals = s.fatals := rfl
@[simp] theorem State.updNode_ecc : (s.updNode r f).ecc = s.ecc := rfl
@[simp] theorem State.updNode_hangLimit : (s.updNode r f).hangLimit = s.hangLimit := rfl
end

section
variable (s : State) (p : PageRef) (k : Nat) (f : Forager → Forager)
open State
@[simp] theorem State.updForager_agenda : (s.updForager p k f).agenda = s.agenda := rfl
@[simp] theorem State.updForager_focus : (s.updForager p k f).focus = s.focus := rfl
@[simp] theorem State.updForager_firing : (s.updForager p k f).firing = s.firing := rfl
@[simp] theorem State.updForager_fresh : (s.updForager p k f).fresh = s.fresh := rfl
@[simp] theorem State.updForager_mem : (s.updForager p k f).mem = s.mem := rfl
@[simp] theorem State.updForager_side : (s.updForager p k f).side = s.side := rfl
@[simp] theorem State.updForager_deferred : (s.updForager p k f).deferred = s.deferred := rfl
@[simp] theorem State.updForager_held : (s.updForager p k f).held = s.held := rfl
@[simp] theorem State.updForager_older : (s.updForager p k f).older = s.older := rfl
@[simp] theorem State.updForager_tlb : (s.updForager p k f).tlb = s.tlb := rfl
@[simp] theorem State.updForager_tlb2 : (s.updForager p k f).tlb2 = s.tlb2 := rfl
@[simp] theorem State.updForager_ptbase : (s.updForager p k f).ptbase = s.ptbase := rfl
@[simp] theorem State.updForager_powered : (s.updForager p k f).powered = s.powered := rfl
@[simp] theorem State.updForager_inReset : (s.updForager p k f).inReset = s.inReset := rfl
@[simp] theorem State.updForager_supplyOk : (s.updForager p k f).supplyOk = s.supplyOk := rfl
@[simp] theorem State.updForager_booted : (s.updForager p k f).booted = s.booted := rfl
@[simp] theorem State.updForager_fwImage : (s.updForager p k f).fwImage = s.fwImage := rfl
@[simp] theorem State.updForager_fwKey : (s.updForager p k f).fwKey = s.fwKey := rfl
@[simp] theorem State.updForager_fwSig : (s.updForager p k f).fwSig = s.fwSig := rfl
@[simp] theorem State.updForager_latched : (s.updForager p k f).latched = s.latched := rfl
@[simp] theorem State.updForager_dies : (s.updForager p k f).dies = s.dies := rfl
@[simp] theorem State.updForager_pmap : (s.updForager p k f).pmap = s.pmap := rfl
@[simp] theorem State.updForager_buckets : (s.updForager p k f).buckets = s.buckets := rfl
@[simp] theorem State.updForager_stale : (s.updForager p k f).stale = s.stale := rfl
@[simp] theorem State.updForager_ports : (s.updForager p k f).ports = s.ports := rfl
@[simp] theorem State.updForager_qpairs : (s.updForager p k f).qpairs = s.qpairs := rfl
@[simp] theorem State.updForager_roceDrops : (s.updForager p k f).roceDrops = s.roceDrops := rfl
@[simp] theorem State.updForager_roceRecv : (s.updForager p k f).roceRecv = s.roceRecv := rfl
@[simp] theorem State.updForager_eth : (s.updForager p k f).eth = s.eth := rfl
@[simp] theorem State.updForager_answers : (s.updForager p k f).answers = s.answers := rfl
@[simp] theorem State.updForager_sinks : (s.updForager p k f).sinks = s.sinks := rfl
@[simp] theorem State.updForager_hostMem : (s.updForager p k f).hostMem = s.hostMem := rfl
@[simp] theorem State.updForager_refusing : (s.updForager p k f).refusing = s.refusing := rfl
@[simp] theorem State.updForager_keys : (s.updForager p k f).keys = s.keys := rfl
@[simp] theorem State.updForager_outbox : (s.updForager p k f).outbox = s.outbox := rfl
@[simp] theorem State.updForager_bord : (s.updForager p k f).bord = s.bord := rfl
@[simp] theorem State.updForager_wsel : (s.updForager p k f).wsel = s.wsel := rfl
@[simp] theorem State.updForager_load : (s.updForager p k f).load = s.load := rfl
@[simp] theorem State.updForager_sealingKeys : (s.updForager p k f).sealingKeys = s.sealingKeys := rfl
@[simp] theorem State.updForager_sealRefusals : (s.updForager p k f).sealRefusals = s.sealRefusals := rfl
@[simp] theorem State.updForager_launches : (s.updForager p k f).launches = s.launches := rfl
@[simp] theorem State.updForager_head : (s.updForager p k f).head = s.head := rfl
@[simp] theorem State.updForager_headPtr : (s.updForager p k f).headPtr = s.headPtr := rfl
@[simp] theorem State.updForager_history : (s.updForager p k f).history = s.history := rfl
@[simp] theorem State.updForager_clock : (s.updForager p k f).clock = s.clock := rfl
@[simp] theorem State.updForager_orders : (s.updForager p k f).orders = s.orders := rfl
@[simp] theorem State.updForager_placed : (s.updForager p k f).placed = s.placed := rfl
@[simp] theorem State.updForager_armings : (s.updForager p k f).armings = s.armings := rfl
@[simp] theorem State.updForager_seqs : (s.updForager p k f).seqs = s.seqs := rfl
@[simp] theorem State.updForager_barriers : (s.updForager p k f).barriers = s.barriers := rfl
@[simp] theorem State.updForager_trellis : (s.updForager p k f).trellis = s.trellis := rfl
@[simp] theorem State.updForager_leaves : (s.updForager p k f).leaves = s.leaves := rfl
@[simp] theorem State.updForager_sprouts : (s.updForager p k f).sprouts = s.sprouts := rfl
@[simp] theorem State.updForager_portPrunes : (s.updForager p k f).portPrunes = s.portPrunes := rfl
@[simp] theorem State.updForager_portDrops : (s.updForager p k f).portDrops = s.portDrops := rfl
@[simp] theorem State.updForager_arrivals : (s.updForager p k f).arrivals = s.arrivals := rfl
@[simp] theorem State.updForager_chans : (s.updForager p k f).chans = s.chans := rfl
@[simp] theorem State.updForager_plots : (s.updForager p k f).plots = s.plots := rfl
@[simp] theorem State.updForager_elems : (s.updForager p k f).elems = s.elems := rfl
@[simp] theorem State.updForager_arrays : (s.updForager p k f).arrays = s.arrays := rfl
@[simp] theorem State.updForager_nodes : (s.updForager p k f).nodes = s.nodes := rfl
@[simp] theorem State.updForager_cores : (s.updForager p k f).cores = s.cores := rfl
@[simp] theorem State.updForager_engines : (s.updForager p k f).engines = s.engines := rfl
@[simp] theorem State.updForager_profiles : (s.updForager p k f).profiles = s.profiles := rfl
@[simp] theorem State.updForager_cuts : (s.updForager p k f).cuts = s.cuts := rfl
@[simp] theorem State.updForager_grafts : (s.updForager p k f).grafts = s.grafts := rfl
@[simp] theorem State.updForager_dormants : (s.updForager p k f).dormants = s.dormants := rfl
@[simp] theorem State.updForager_dbp : (s.updForager p k f).dbp = s.dbp := rfl
@[simp] theorem State.updForager_bpPending : (s.updForager p k f).bpPending = s.bpPending := rfl
@[simp] theorem State.updForager_samples : (s.updForager p k f).samples = s.samples := rfl
@[simp] theorem State.updForager_frost : (s.updForager p k f).frost = s.frost := rfl
@[simp] theorem State.updForager_replays : (s.updForager p k f).replays = s.replays := rfl
@[simp] theorem State.updForager_armed : (s.updForager p k f).armed = s.armed := rfl
@[simp] theorem State.updForager_dump : (s.updForager p k f).dump = s.dump := rfl
@[simp] theorem State.updForager_fatals : (s.updForager p k f).fatals = s.fatals := rfl
@[simp] theorem State.updForager_ecc : (s.updForager p k f).ecc = s.ecc := rfl
@[simp] theorem State.updForager_hangLimit : (s.updForager p k f).hangLimit = s.hangLimit := rfl
end

section
variable (s : State) (p : PageRef) (k : Nat) (f : ArrayUnit → ArrayUnit)
open State
@[simp] theorem State.updArray_agenda : (s.updArray p k f).agenda = s.agenda := rfl
@[simp] theorem State.updArray_focus : (s.updArray p k f).focus = s.focus := rfl
@[simp] theorem State.updArray_firing : (s.updArray p k f).firing = s.firing := rfl
@[simp] theorem State.updArray_fresh : (s.updArray p k f).fresh = s.fresh := rfl
@[simp] theorem State.updArray_mem : (s.updArray p k f).mem = s.mem := rfl
@[simp] theorem State.updArray_side : (s.updArray p k f).side = s.side := rfl
@[simp] theorem State.updArray_deferred : (s.updArray p k f).deferred = s.deferred := rfl
@[simp] theorem State.updArray_held : (s.updArray p k f).held = s.held := rfl
@[simp] theorem State.updArray_older : (s.updArray p k f).older = s.older := rfl
@[simp] theorem State.updArray_tlb : (s.updArray p k f).tlb = s.tlb := rfl
@[simp] theorem State.updArray_tlb2 : (s.updArray p k f).tlb2 = s.tlb2 := rfl
@[simp] theorem State.updArray_ptbase : (s.updArray p k f).ptbase = s.ptbase := rfl
@[simp] theorem State.updArray_powered : (s.updArray p k f).powered = s.powered := rfl
@[simp] theorem State.updArray_inReset : (s.updArray p k f).inReset = s.inReset := rfl
@[simp] theorem State.updArray_supplyOk : (s.updArray p k f).supplyOk = s.supplyOk := rfl
@[simp] theorem State.updArray_booted : (s.updArray p k f).booted = s.booted := rfl
@[simp] theorem State.updArray_fwImage : (s.updArray p k f).fwImage = s.fwImage := rfl
@[simp] theorem State.updArray_fwKey : (s.updArray p k f).fwKey = s.fwKey := rfl
@[simp] theorem State.updArray_fwSig : (s.updArray p k f).fwSig = s.fwSig := rfl
@[simp] theorem State.updArray_latched : (s.updArray p k f).latched = s.latched := rfl
@[simp] theorem State.updArray_dies : (s.updArray p k f).dies = s.dies := rfl
@[simp] theorem State.updArray_pmap : (s.updArray p k f).pmap = s.pmap := rfl
@[simp] theorem State.updArray_buckets : (s.updArray p k f).buckets = s.buckets := rfl
@[simp] theorem State.updArray_stale : (s.updArray p k f).stale = s.stale := rfl
@[simp] theorem State.updArray_ports : (s.updArray p k f).ports = s.ports := rfl
@[simp] theorem State.updArray_qpairs : (s.updArray p k f).qpairs = s.qpairs := rfl
@[simp] theorem State.updArray_roceDrops : (s.updArray p k f).roceDrops = s.roceDrops := rfl
@[simp] theorem State.updArray_roceRecv : (s.updArray p k f).roceRecv = s.roceRecv := rfl
@[simp] theorem State.updArray_eth : (s.updArray p k f).eth = s.eth := rfl
@[simp] theorem State.updArray_answers : (s.updArray p k f).answers = s.answers := rfl
@[simp] theorem State.updArray_sinks : (s.updArray p k f).sinks = s.sinks := rfl
@[simp] theorem State.updArray_hostMem : (s.updArray p k f).hostMem = s.hostMem := rfl
@[simp] theorem State.updArray_refusing : (s.updArray p k f).refusing = s.refusing := rfl
@[simp] theorem State.updArray_keys : (s.updArray p k f).keys = s.keys := rfl
@[simp] theorem State.updArray_outbox : (s.updArray p k f).outbox = s.outbox := rfl
@[simp] theorem State.updArray_bord : (s.updArray p k f).bord = s.bord := rfl
@[simp] theorem State.updArray_wsel : (s.updArray p k f).wsel = s.wsel := rfl
@[simp] theorem State.updArray_load : (s.updArray p k f).load = s.load := rfl
@[simp] theorem State.updArray_sealingKeys : (s.updArray p k f).sealingKeys = s.sealingKeys := rfl
@[simp] theorem State.updArray_sealRefusals : (s.updArray p k f).sealRefusals = s.sealRefusals := rfl
@[simp] theorem State.updArray_launches : (s.updArray p k f).launches = s.launches := rfl
@[simp] theorem State.updArray_head : (s.updArray p k f).head = s.head := rfl
@[simp] theorem State.updArray_headPtr : (s.updArray p k f).headPtr = s.headPtr := rfl
@[simp] theorem State.updArray_history : (s.updArray p k f).history = s.history := rfl
@[simp] theorem State.updArray_clock : (s.updArray p k f).clock = s.clock := rfl
@[simp] theorem State.updArray_orders : (s.updArray p k f).orders = s.orders := rfl
@[simp] theorem State.updArray_placed : (s.updArray p k f).placed = s.placed := rfl
@[simp] theorem State.updArray_armings : (s.updArray p k f).armings = s.armings := rfl
@[simp] theorem State.updArray_seqs : (s.updArray p k f).seqs = s.seqs := rfl
@[simp] theorem State.updArray_barriers : (s.updArray p k f).barriers = s.barriers := rfl
@[simp] theorem State.updArray_trellis : (s.updArray p k f).trellis = s.trellis := rfl
@[simp] theorem State.updArray_leaves : (s.updArray p k f).leaves = s.leaves := rfl
@[simp] theorem State.updArray_sprouts : (s.updArray p k f).sprouts = s.sprouts := rfl
@[simp] theorem State.updArray_portPrunes : (s.updArray p k f).portPrunes = s.portPrunes := rfl
@[simp] theorem State.updArray_portDrops : (s.updArray p k f).portDrops = s.portDrops := rfl
@[simp] theorem State.updArray_arrivals : (s.updArray p k f).arrivals = s.arrivals := rfl
@[simp] theorem State.updArray_chans : (s.updArray p k f).chans = s.chans := rfl
@[simp] theorem State.updArray_plots : (s.updArray p k f).plots = s.plots := rfl
@[simp] theorem State.updArray_elems : (s.updArray p k f).elems = s.elems := rfl
@[simp] theorem State.updArray_foragers : (s.updArray p k f).foragers = s.foragers := rfl
@[simp] theorem State.updArray_nodes : (s.updArray p k f).nodes = s.nodes := rfl
@[simp] theorem State.updArray_cores : (s.updArray p k f).cores = s.cores := rfl
@[simp] theorem State.updArray_engines : (s.updArray p k f).engines = s.engines := rfl
@[simp] theorem State.updArray_profiles : (s.updArray p k f).profiles = s.profiles := rfl
@[simp] theorem State.updArray_cuts : (s.updArray p k f).cuts = s.cuts := rfl
@[simp] theorem State.updArray_grafts : (s.updArray p k f).grafts = s.grafts := rfl
@[simp] theorem State.updArray_dormants : (s.updArray p k f).dormants = s.dormants := rfl
@[simp] theorem State.updArray_dbp : (s.updArray p k f).dbp = s.dbp := rfl
@[simp] theorem State.updArray_bpPending : (s.updArray p k f).bpPending = s.bpPending := rfl
@[simp] theorem State.updArray_samples : (s.updArray p k f).samples = s.samples := rfl
@[simp] theorem State.updArray_frost : (s.updArray p k f).frost = s.frost := rfl
@[simp] theorem State.updArray_replays : (s.updArray p k f).replays = s.replays := rfl
@[simp] theorem State.updArray_armed : (s.updArray p k f).armed = s.armed := rfl
@[simp] theorem State.updArray_dump : (s.updArray p k f).dump = s.dump := rfl
@[simp] theorem State.updArray_fatals : (s.updArray p k f).fatals = s.fatals := rfl
@[simp] theorem State.updArray_ecc : (s.updArray p k f).ecc = s.ecc := rfl
@[simp] theorem State.updArray_hangLimit : (s.updArray p k f).hangLimit = s.hangLimit := rfl
end

section
variable (s : State) (p : EngProf)
open State
@[simp] theorem State.setProf_agenda : (s.setProf p).agenda = s.agenda := rfl
@[simp] theorem State.setProf_focus : (s.setProf p).focus = s.focus := rfl
@[simp] theorem State.setProf_firing : (s.setProf p).firing = s.firing := rfl
@[simp] theorem State.setProf_fresh : (s.setProf p).fresh = s.fresh := rfl
@[simp] theorem State.setProf_mem : (s.setProf p).mem = s.mem := rfl
@[simp] theorem State.setProf_side : (s.setProf p).side = s.side := rfl
@[simp] theorem State.setProf_deferred : (s.setProf p).deferred = s.deferred := rfl
@[simp] theorem State.setProf_held : (s.setProf p).held = s.held := rfl
@[simp] theorem State.setProf_older : (s.setProf p).older = s.older := rfl
@[simp] theorem State.setProf_tlb : (s.setProf p).tlb = s.tlb := rfl
@[simp] theorem State.setProf_tlb2 : (s.setProf p).tlb2 = s.tlb2 := rfl
@[simp] theorem State.setProf_ptbase : (s.setProf p).ptbase = s.ptbase := rfl
@[simp] theorem State.setProf_powered : (s.setProf p).powered = s.powered := rfl
@[simp] theorem State.setProf_inReset : (s.setProf p).inReset = s.inReset := rfl
@[simp] theorem State.setProf_supplyOk : (s.setProf p).supplyOk = s.supplyOk := rfl
@[simp] theorem State.setProf_booted : (s.setProf p).booted = s.booted := rfl
@[simp] theorem State.setProf_fwImage : (s.setProf p).fwImage = s.fwImage := rfl
@[simp] theorem State.setProf_fwKey : (s.setProf p).fwKey = s.fwKey := rfl
@[simp] theorem State.setProf_fwSig : (s.setProf p).fwSig = s.fwSig := rfl
@[simp] theorem State.setProf_latched : (s.setProf p).latched = s.latched := rfl
@[simp] theorem State.setProf_dies : (s.setProf p).dies = s.dies := rfl
@[simp] theorem State.setProf_pmap : (s.setProf p).pmap = s.pmap := rfl
@[simp] theorem State.setProf_buckets : (s.setProf p).buckets = s.buckets := rfl
@[simp] theorem State.setProf_stale : (s.setProf p).stale = s.stale := rfl
@[simp] theorem State.setProf_ports : (s.setProf p).ports = s.ports := rfl
@[simp] theorem State.setProf_qpairs : (s.setProf p).qpairs = s.qpairs := rfl
@[simp] theorem State.setProf_roceDrops : (s.setProf p).roceDrops = s.roceDrops := rfl
@[simp] theorem State.setProf_roceRecv : (s.setProf p).roceRecv = s.roceRecv := rfl
@[simp] theorem State.setProf_eth : (s.setProf p).eth = s.eth := rfl
@[simp] theorem State.setProf_answers : (s.setProf p).answers = s.answers := rfl
@[simp] theorem State.setProf_sinks : (s.setProf p).sinks = s.sinks := rfl
@[simp] theorem State.setProf_hostMem : (s.setProf p).hostMem = s.hostMem := rfl
@[simp] theorem State.setProf_refusing : (s.setProf p).refusing = s.refusing := rfl
@[simp] theorem State.setProf_keys : (s.setProf p).keys = s.keys := rfl
@[simp] theorem State.setProf_outbox : (s.setProf p).outbox = s.outbox := rfl
@[simp] theorem State.setProf_bord : (s.setProf p).bord = s.bord := rfl
@[simp] theorem State.setProf_wsel : (s.setProf p).wsel = s.wsel := rfl
@[simp] theorem State.setProf_load : (s.setProf p).load = s.load := rfl
@[simp] theorem State.setProf_sealingKeys : (s.setProf p).sealingKeys = s.sealingKeys := rfl
@[simp] theorem State.setProf_sealRefusals : (s.setProf p).sealRefusals = s.sealRefusals := rfl
@[simp] theorem State.setProf_launches : (s.setProf p).launches = s.launches := rfl
@[simp] theorem State.setProf_head : (s.setProf p).head = s.head := rfl
@[simp] theorem State.setProf_headPtr : (s.setProf p).headPtr = s.headPtr := rfl
@[simp] theorem State.setProf_history : (s.setProf p).history = s.history := rfl
@[simp] theorem State.setProf_clock : (s.setProf p).clock = s.clock := rfl
@[simp] theorem State.setProf_orders : (s.setProf p).orders = s.orders := rfl
@[simp] theorem State.setProf_placed : (s.setProf p).placed = s.placed := rfl
@[simp] theorem State.setProf_armings : (s.setProf p).armings = s.armings := rfl
@[simp] theorem State.setProf_seqs : (s.setProf p).seqs = s.seqs := rfl
@[simp] theorem State.setProf_barriers : (s.setProf p).barriers = s.barriers := rfl
@[simp] theorem State.setProf_trellis : (s.setProf p).trellis = s.trellis := rfl
@[simp] theorem State.setProf_leaves : (s.setProf p).leaves = s.leaves := rfl
@[simp] theorem State.setProf_sprouts : (s.setProf p).sprouts = s.sprouts := rfl
@[simp] theorem State.setProf_portPrunes : (s.setProf p).portPrunes = s.portPrunes := rfl
@[simp] theorem State.setProf_portDrops : (s.setProf p).portDrops = s.portDrops := rfl
@[simp] theorem State.setProf_arrivals : (s.setProf p).arrivals = s.arrivals := rfl
@[simp] theorem State.setProf_chans : (s.setProf p).chans = s.chans := rfl
@[simp] theorem State.setProf_plots : (s.setProf p).plots = s.plots := rfl
@[simp] theorem State.setProf_elems : (s.setProf p).elems = s.elems := rfl
@[simp] theorem State.setProf_foragers : (s.setProf p).foragers = s.foragers := rfl
@[simp] theorem State.setProf_arrays : (s.setProf p).arrays = s.arrays := rfl
@[simp] theorem State.setProf_nodes : (s.setProf p).nodes = s.nodes := rfl
@[simp] theorem State.setProf_cores : (s.setProf p).cores = s.cores := rfl
@[simp] theorem State.setProf_engines : (s.setProf p).engines = s.engines := rfl
@[simp] theorem State.setProf_cuts : (s.setProf p).cuts = s.cuts := rfl
@[simp] theorem State.setProf_grafts : (s.setProf p).grafts = s.grafts := rfl
@[simp] theorem State.setProf_dormants : (s.setProf p).dormants = s.dormants := rfl
@[simp] theorem State.setProf_dbp : (s.setProf p).dbp = s.dbp := rfl
@[simp] theorem State.setProf_bpPending : (s.setProf p).bpPending = s.bpPending := rfl
@[simp] theorem State.setProf_samples : (s.setProf p).samples = s.samples := rfl
@[simp] theorem State.setProf_frost : (s.setProf p).frost = s.frost := rfl
@[simp] theorem State.setProf_replays : (s.setProf p).replays = s.replays := rfl
@[simp] theorem State.setProf_armed : (s.setProf p).armed = s.armed := rfl
@[simp] theorem State.setProf_dump : (s.setProf p).dump = s.dump := rfl
@[simp] theorem State.setProf_fatals : (s.setProf p).fatals = s.fatals := rfl
@[simp] theorem State.setProf_ecc : (s.setProf p).ecc = s.ecc := rfl
@[simp] theorem State.setProf_hangLimit : (s.setProf p).hangLimit = s.hangLimit := rfl
end

section
variable (s : State) (n : Nat)
open State
@[simp] theorem State.useFree_agenda : (s.useFree n).agenda = s.agenda := rfl
@[simp] theorem State.useFree_focus : (s.useFree n).focus = s.focus := rfl
@[simp] theorem State.useFree_firing : (s.useFree n).firing = s.firing := rfl
@[simp] theorem State.useFree_mem : (s.useFree n).mem = s.mem := rfl
@[simp] theorem State.useFree_side : (s.useFree n).side = s.side := rfl
@[simp] theorem State.useFree_deferred : (s.useFree n).deferred = s.deferred := rfl
@[simp] theorem State.useFree_held : (s.useFree n).held = s.held := rfl
@[simp] theorem State.useFree_older : (s.useFree n).older = s.older := rfl
@[simp] theorem State.useFree_tlb : (s.useFree n).tlb = s.tlb := rfl
@[simp] theorem State.useFree_tlb2 : (s.useFree n).tlb2 = s.tlb2 := rfl
@[simp] theorem State.useFree_ptbase : (s.useFree n).ptbase = s.ptbase := rfl
@[simp] theorem State.useFree_powered : (s.useFree n).powered = s.powered := rfl
@[simp] theorem State.useFree_inReset : (s.useFree n).inReset = s.inReset := rfl
@[simp] theorem State.useFree_supplyOk : (s.useFree n).supplyOk = s.supplyOk := rfl
@[simp] theorem State.useFree_booted : (s.useFree n).booted = s.booted := rfl
@[simp] theorem State.useFree_fwImage : (s.useFree n).fwImage = s.fwImage := rfl
@[simp] theorem State.useFree_fwKey : (s.useFree n).fwKey = s.fwKey := rfl
@[simp] theorem State.useFree_fwSig : (s.useFree n).fwSig = s.fwSig := rfl
@[simp] theorem State.useFree_latched : (s.useFree n).latched = s.latched := rfl
@[simp] theorem State.useFree_dies : (s.useFree n).dies = s.dies := rfl
@[simp] theorem State.useFree_pmap : (s.useFree n).pmap = s.pmap := rfl
@[simp] theorem State.useFree_buckets : (s.useFree n).buckets = s.buckets := rfl
@[simp] theorem State.useFree_stale : (s.useFree n).stale = s.stale := rfl
@[simp] theorem State.useFree_ports : (s.useFree n).ports = s.ports := rfl
@[simp] theorem State.useFree_qpairs : (s.useFree n).qpairs = s.qpairs := rfl
@[simp] theorem State.useFree_roceDrops : (s.useFree n).roceDrops = s.roceDrops := rfl
@[simp] theorem State.useFree_roceRecv : (s.useFree n).roceRecv = s.roceRecv := rfl
@[simp] theorem State.useFree_eth : (s.useFree n).eth = s.eth := rfl
@[simp] theorem State.useFree_answers : (s.useFree n).answers = s.answers := rfl
@[simp] theorem State.useFree_sinks : (s.useFree n).sinks = s.sinks := rfl
@[simp] theorem State.useFree_hostMem : (s.useFree n).hostMem = s.hostMem := rfl
@[simp] theorem State.useFree_refusing : (s.useFree n).refusing = s.refusing := rfl
@[simp] theorem State.useFree_keys : (s.useFree n).keys = s.keys := rfl
@[simp] theorem State.useFree_outbox : (s.useFree n).outbox = s.outbox := rfl
@[simp] theorem State.useFree_bord : (s.useFree n).bord = s.bord := rfl
@[simp] theorem State.useFree_wsel : (s.useFree n).wsel = s.wsel := rfl
@[simp] theorem State.useFree_load : (s.useFree n).load = s.load := rfl
@[simp] theorem State.useFree_sealingKeys : (s.useFree n).sealingKeys = s.sealingKeys := rfl
@[simp] theorem State.useFree_sealRefusals : (s.useFree n).sealRefusals = s.sealRefusals := rfl
@[simp] theorem State.useFree_launches : (s.useFree n).launches = s.launches := rfl
@[simp] theorem State.useFree_head : (s.useFree n).head = s.head := rfl
@[simp] theorem State.useFree_headPtr : (s.useFree n).headPtr = s.headPtr := rfl
@[simp] theorem State.useFree_history : (s.useFree n).history = s.history := rfl
@[simp] theorem State.useFree_clock : (s.useFree n).clock = s.clock := rfl
@[simp] theorem State.useFree_orders : (s.useFree n).orders = s.orders := rfl
@[simp] theorem State.useFree_placed : (s.useFree n).placed = s.placed := rfl
@[simp] theorem State.useFree_armings : (s.useFree n).armings = s.armings := rfl
@[simp] theorem State.useFree_seqs : (s.useFree n).seqs = s.seqs := rfl
@[simp] theorem State.useFree_barriers : (s.useFree n).barriers = s.barriers := rfl
@[simp] theorem State.useFree_trellis : (s.useFree n).trellis = s.trellis := rfl
@[simp] theorem State.useFree_leaves : (s.useFree n).leaves = s.leaves := rfl
@[simp] theorem State.useFree_sprouts : (s.useFree n).sprouts = s.sprouts := rfl
@[simp] theorem State.useFree_portPrunes : (s.useFree n).portPrunes = s.portPrunes := rfl
@[simp] theorem State.useFree_portDrops : (s.useFree n).portDrops = s.portDrops := rfl
@[simp] theorem State.useFree_arrivals : (s.useFree n).arrivals = s.arrivals := rfl
@[simp] theorem State.useFree_chans : (s.useFree n).chans = s.chans := rfl
@[simp] theorem State.useFree_plots : (s.useFree n).plots = s.plots := rfl
@[simp] theorem State.useFree_elems : (s.useFree n).elems = s.elems := rfl
@[simp] theorem State.useFree_foragers : (s.useFree n).foragers = s.foragers := rfl
@[simp] theorem State.useFree_arrays : (s.useFree n).arrays = s.arrays := rfl
@[simp] theorem State.useFree_nodes : (s.useFree n).nodes = s.nodes := rfl
@[simp] theorem State.useFree_cores : (s.useFree n).cores = s.cores := rfl
@[simp] theorem State.useFree_engines : (s.useFree n).engines = s.engines := rfl
@[simp] theorem State.useFree_profiles : (s.useFree n).profiles = s.profiles := rfl
@[simp] theorem State.useFree_cuts : (s.useFree n).cuts = s.cuts := rfl
@[simp] theorem State.useFree_grafts : (s.useFree n).grafts = s.grafts := rfl
@[simp] theorem State.useFree_dormants : (s.useFree n).dormants = s.dormants := rfl
@[simp] theorem State.useFree_dbp : (s.useFree n).dbp = s.dbp := rfl
@[simp] theorem State.useFree_bpPending : (s.useFree n).bpPending = s.bpPending := rfl
@[simp] theorem State.useFree_samples : (s.useFree n).samples = s.samples := rfl
@[simp] theorem State.useFree_frost : (s.useFree n).frost = s.frost := rfl
@[simp] theorem State.useFree_replays : (s.useFree n).replays = s.replays := rfl
@[simp] theorem State.useFree_armed : (s.useFree n).armed = s.armed := rfl
@[simp] theorem State.useFree_dump : (s.useFree n).dump = s.dump := rfl
@[simp] theorem State.useFree_fatals : (s.useFree n).fatals = s.fatals := rfl
@[simp] theorem State.useFree_ecc : (s.useFree n).ecc = s.ecc := rfl
@[simp] theorem State.useFree_hangLimit : (s.useFree n).hangLimit = s.hangLimit := rfl
end

section
variable (s : State) (x : Sent)
open State
@[simp] theorem State.send_agenda : (s.send x).agenda = s.agenda := rfl
@[simp] theorem State.send_focus : (s.send x).focus = s.focus := rfl
@[simp] theorem State.send_firing : (s.send x).firing = s.firing := rfl
@[simp] theorem State.send_fresh : (s.send x).fresh = s.fresh := rfl
@[simp] theorem State.send_mem : (s.send x).mem = s.mem := rfl
@[simp] theorem State.send_side : (s.send x).side = s.side := rfl
@[simp] theorem State.send_deferred : (s.send x).deferred = s.deferred := rfl
@[simp] theorem State.send_held : (s.send x).held = s.held := rfl
@[simp] theorem State.send_older : (s.send x).older = s.older := rfl
@[simp] theorem State.send_tlb : (s.send x).tlb = s.tlb := rfl
@[simp] theorem State.send_tlb2 : (s.send x).tlb2 = s.tlb2 := rfl
@[simp] theorem State.send_ptbase : (s.send x).ptbase = s.ptbase := rfl
@[simp] theorem State.send_powered : (s.send x).powered = s.powered := rfl
@[simp] theorem State.send_inReset : (s.send x).inReset = s.inReset := rfl
@[simp] theorem State.send_supplyOk : (s.send x).supplyOk = s.supplyOk := rfl
@[simp] theorem State.send_booted : (s.send x).booted = s.booted := rfl
@[simp] theorem State.send_fwImage : (s.send x).fwImage = s.fwImage := rfl
@[simp] theorem State.send_fwKey : (s.send x).fwKey = s.fwKey := rfl
@[simp] theorem State.send_fwSig : (s.send x).fwSig = s.fwSig := rfl
@[simp] theorem State.send_latched : (s.send x).latched = s.latched := rfl
@[simp] theorem State.send_dies : (s.send x).dies = s.dies := rfl
@[simp] theorem State.send_pmap : (s.send x).pmap = s.pmap := rfl
@[simp] theorem State.send_buckets : (s.send x).buckets = s.buckets := rfl
@[simp] theorem State.send_stale : (s.send x).stale = s.stale := rfl
@[simp] theorem State.send_ports : (s.send x).ports = s.ports := rfl
@[simp] theorem State.send_qpairs : (s.send x).qpairs = s.qpairs := rfl
@[simp] theorem State.send_roceDrops : (s.send x).roceDrops = s.roceDrops := rfl
@[simp] theorem State.send_roceRecv : (s.send x).roceRecv = s.roceRecv := rfl
@[simp] theorem State.send_eth : (s.send x).eth = s.eth := rfl
@[simp] theorem State.send_answers : (s.send x).answers = s.answers := rfl
@[simp] theorem State.send_sinks : (s.send x).sinks = s.sinks := rfl
@[simp] theorem State.send_hostMem : (s.send x).hostMem = s.hostMem := rfl
@[simp] theorem State.send_refusing : (s.send x).refusing = s.refusing := rfl
@[simp] theorem State.send_keys : (s.send x).keys = s.keys := rfl
@[simp] theorem State.send_bord : (s.send x).bord = s.bord := rfl
@[simp] theorem State.send_wsel : (s.send x).wsel = s.wsel := rfl
@[simp] theorem State.send_load : (s.send x).load = s.load := rfl
@[simp] theorem State.send_sealingKeys : (s.send x).sealingKeys = s.sealingKeys := rfl
@[simp] theorem State.send_sealRefusals : (s.send x).sealRefusals = s.sealRefusals := rfl
@[simp] theorem State.send_launches : (s.send x).launches = s.launches := rfl
@[simp] theorem State.send_head : (s.send x).head = s.head := rfl
@[simp] theorem State.send_headPtr : (s.send x).headPtr = s.headPtr := rfl
@[simp] theorem State.send_history : (s.send x).history = s.history := rfl
@[simp] theorem State.send_clock : (s.send x).clock = s.clock := rfl
@[simp] theorem State.send_orders : (s.send x).orders = s.orders := rfl
@[simp] theorem State.send_placed : (s.send x).placed = s.placed := rfl
@[simp] theorem State.send_armings : (s.send x).armings = s.armings := rfl
@[simp] theorem State.send_seqs : (s.send x).seqs = s.seqs := rfl
@[simp] theorem State.send_barriers : (s.send x).barriers = s.barriers := rfl
@[simp] theorem State.send_trellis : (s.send x).trellis = s.trellis := rfl
@[simp] theorem State.send_leaves : (s.send x).leaves = s.leaves := rfl
@[simp] theorem State.send_sprouts : (s.send x).sprouts = s.sprouts := rfl
@[simp] theorem State.send_portPrunes : (s.send x).portPrunes = s.portPrunes := rfl
@[simp] theorem State.send_portDrops : (s.send x).portDrops = s.portDrops := rfl
@[simp] theorem State.send_arrivals : (s.send x).arrivals = s.arrivals := rfl
@[simp] theorem State.send_chans : (s.send x).chans = s.chans := rfl
@[simp] theorem State.send_plots : (s.send x).plots = s.plots := rfl
@[simp] theorem State.send_elems : (s.send x).elems = s.elems := rfl
@[simp] theorem State.send_foragers : (s.send x).foragers = s.foragers := rfl
@[simp] theorem State.send_arrays : (s.send x).arrays = s.arrays := rfl
@[simp] theorem State.send_nodes : (s.send x).nodes = s.nodes := rfl
@[simp] theorem State.send_cores : (s.send x).cores = s.cores := rfl
@[simp] theorem State.send_engines : (s.send x).engines = s.engines := rfl
@[simp] theorem State.send_profiles : (s.send x).profiles = s.profiles := rfl
@[simp] theorem State.send_cuts : (s.send x).cuts = s.cuts := rfl
@[simp] theorem State.send_grafts : (s.send x).grafts = s.grafts := rfl
@[simp] theorem State.send_dormants : (s.send x).dormants = s.dormants := rfl
@[simp] theorem State.send_dbp : (s.send x).dbp = s.dbp := rfl
@[simp] theorem State.send_bpPending : (s.send x).bpPending = s.bpPending := rfl
@[simp] theorem State.send_samples : (s.send x).samples = s.samples := rfl
@[simp] theorem State.send_frost : (s.send x).frost = s.frost := rfl
@[simp] theorem State.send_replays : (s.send x).replays = s.replays := rfl
@[simp] theorem State.send_armed : (s.send x).armed = s.armed := rfl
@[simp] theorem State.send_dump : (s.send x).dump = s.dump := rfl
@[simp] theorem State.send_fatals : (s.send x).fatals = s.fatals := rfl
@[simp] theorem State.send_ecc : (s.send x).ecc = s.ecc := rfl
@[simp] theorem State.send_hangLimit : (s.send x).hangLimit = s.hangLimit := rfl
end

section
variable (s : State) (a : Nat) (bs : List Byte)
open State
@[simp] theorem State.store_agenda : (s.store a bs).agenda = s.agenda := rfl
@[simp] theorem State.store_focus : (s.store a bs).focus = s.focus := rfl
@[simp] theorem State.store_firing : (s.store a bs).firing = s.firing := rfl
@[simp] theorem State.store_fresh : (s.store a bs).fresh = s.fresh := rfl
@[simp] theorem State.store_side : (s.store a bs).side = s.side := rfl
@[simp] theorem State.store_deferred : (s.store a bs).deferred = s.deferred := rfl
@[simp] theorem State.store_held : (s.store a bs).held = s.held := rfl
@[simp] theorem State.store_tlb : (s.store a bs).tlb = s.tlb := rfl
@[simp] theorem State.store_tlb2 : (s.store a bs).tlb2 = s.tlb2 := rfl
@[simp] theorem State.store_ptbase : (s.store a bs).ptbase = s.ptbase := rfl
@[simp] theorem State.store_powered : (s.store a bs).powered = s.powered := rfl
@[simp] theorem State.store_inReset : (s.store a bs).inReset = s.inReset := rfl
@[simp] theorem State.store_supplyOk : (s.store a bs).supplyOk = s.supplyOk := rfl
@[simp] theorem State.store_booted : (s.store a bs).booted = s.booted := rfl
@[simp] theorem State.store_fwImage : (s.store a bs).fwImage = s.fwImage := rfl
@[simp] theorem State.store_fwKey : (s.store a bs).fwKey = s.fwKey := rfl
@[simp] theorem State.store_fwSig : (s.store a bs).fwSig = s.fwSig := rfl
@[simp] theorem State.store_latched : (s.store a bs).latched = s.latched := rfl
@[simp] theorem State.store_dies : (s.store a bs).dies = s.dies := rfl
@[simp] theorem State.store_pmap : (s.store a bs).pmap = s.pmap := rfl
@[simp] theorem State.store_buckets : (s.store a bs).buckets = s.buckets := rfl
@[simp] theorem State.store_stale : (s.store a bs).stale = s.stale := rfl
@[simp] theorem State.store_ports : (s.store a bs).ports = s.ports := rfl
@[simp] theorem State.store_qpairs : (s.store a bs).qpairs = s.qpairs := rfl
@[simp] theorem State.store_roceDrops : (s.store a bs).roceDrops = s.roceDrops := rfl
@[simp] theorem State.store_roceRecv : (s.store a bs).roceRecv = s.roceRecv := rfl
@[simp] theorem State.store_eth : (s.store a bs).eth = s.eth := rfl
@[simp] theorem State.store_answers : (s.store a bs).answers = s.answers := rfl
@[simp] theorem State.store_sinks : (s.store a bs).sinks = s.sinks := rfl
@[simp] theorem State.store_hostMem : (s.store a bs).hostMem = s.hostMem := rfl
@[simp] theorem State.store_refusing : (s.store a bs).refusing = s.refusing := rfl
@[simp] theorem State.store_keys : (s.store a bs).keys = s.keys := rfl
@[simp] theorem State.store_outbox : (s.store a bs).outbox = s.outbox := rfl
@[simp] theorem State.store_bord : (s.store a bs).bord = s.bord := rfl
@[simp] theorem State.store_wsel : (s.store a bs).wsel = s.wsel := rfl
@[simp] theorem State.store_load : (s.store a bs).load = s.load := rfl
@[simp] theorem State.store_sealingKeys : (s.store a bs).sealingKeys = s.sealingKeys := rfl
@[simp] theorem State.store_sealRefusals : (s.store a bs).sealRefusals = s.sealRefusals := rfl
@[simp] theorem State.store_launches : (s.store a bs).launches = s.launches := rfl
@[simp] theorem State.store_head : (s.store a bs).head = s.head := rfl
@[simp] theorem State.store_headPtr : (s.store a bs).headPtr = s.headPtr := rfl
@[simp] theorem State.store_history : (s.store a bs).history = s.history := rfl
@[simp] theorem State.store_clock : (s.store a bs).clock = s.clock := rfl
@[simp] theorem State.store_orders : (s.store a bs).orders = s.orders := rfl
@[simp] theorem State.store_placed : (s.store a bs).placed = s.placed := rfl
@[simp] theorem State.store_armings : (s.store a bs).armings = s.armings := rfl
@[simp] theorem State.store_seqs : (s.store a bs).seqs = s.seqs := rfl
@[simp] theorem State.store_barriers : (s.store a bs).barriers = s.barriers := rfl
@[simp] theorem State.store_trellis : (s.store a bs).trellis = s.trellis := rfl
@[simp] theorem State.store_leaves : (s.store a bs).leaves = s.leaves := rfl
@[simp] theorem State.store_sprouts : (s.store a bs).sprouts = s.sprouts := rfl
@[simp] theorem State.store_portPrunes : (s.store a bs).portPrunes = s.portPrunes := rfl
@[simp] theorem State.store_portDrops : (s.store a bs).portDrops = s.portDrops := rfl
@[simp] theorem State.store_arrivals : (s.store a bs).arrivals = s.arrivals := rfl
@[simp] theorem State.store_chans : (s.store a bs).chans = s.chans := rfl
@[simp] theorem State.store_plots : (s.store a bs).plots = s.plots := rfl
@[simp] theorem State.store_elems : (s.store a bs).elems = s.elems := rfl
@[simp] theorem State.store_foragers : (s.store a bs).foragers = s.foragers := rfl
@[simp] theorem State.store_arrays : (s.store a bs).arrays = s.arrays := rfl
@[simp] theorem State.store_nodes : (s.store a bs).nodes = s.nodes := rfl
@[simp] theorem State.store_cores : (s.store a bs).cores = s.cores := rfl
@[simp] theorem State.store_engines : (s.store a bs).engines = s.engines := rfl
@[simp] theorem State.store_profiles : (s.store a bs).profiles = s.profiles := rfl
@[simp] theorem State.store_cuts : (s.store a bs).cuts = s.cuts := rfl
@[simp] theorem State.store_grafts : (s.store a bs).grafts = s.grafts := rfl
@[simp] theorem State.store_dormants : (s.store a bs).dormants = s.dormants := rfl
@[simp] theorem State.store_dbp : (s.store a bs).dbp = s.dbp := rfl
@[simp] theorem State.store_bpPending : (s.store a bs).bpPending = s.bpPending := rfl
@[simp] theorem State.store_samples : (s.store a bs).samples = s.samples := rfl
@[simp] theorem State.store_frost : (s.store a bs).frost = s.frost := rfl
@[simp] theorem State.store_replays : (s.store a bs).replays = s.replays := rfl
@[simp] theorem State.store_armed : (s.store a bs).armed = s.armed := rfl
@[simp] theorem State.store_dump : (s.store a bs).dump = s.dump := rfl
@[simp] theorem State.store_fatals : (s.store a bs).fatals = s.fatals := rfl
@[simp] theorem State.store_ecc : (s.store a bs).ecc = s.ecc := rfl
@[simp] theorem State.store_hangLimit : (s.store a bs).hangLimit = s.hangLimit := rfl
end

section
variable (s : State) (n : Nat) (l : LineSide)
open State
@[simp] theorem State.setLine_agenda : (s.setLine n l).agenda = s.agenda := rfl
@[simp] theorem State.setLine_focus : (s.setLine n l).focus = s.focus := rfl
@[simp] theorem State.setLine_firing : (s.setLine n l).firing = s.firing := rfl
@[simp] theorem State.setLine_fresh : (s.setLine n l).fresh = s.fresh := rfl
@[simp] theorem State.setLine_mem : (s.setLine n l).mem = s.mem := rfl
@[simp] theorem State.setLine_deferred : (s.setLine n l).deferred = s.deferred := rfl
@[simp] theorem State.setLine_held : (s.setLine n l).held = s.held := rfl
@[simp] theorem State.setLine_older : (s.setLine n l).older = s.older := rfl
@[simp] theorem State.setLine_tlb : (s.setLine n l).tlb = s.tlb := rfl
@[simp] theorem State.setLine_tlb2 : (s.setLine n l).tlb2 = s.tlb2 := rfl
@[simp] theorem State.setLine_ptbase : (s.setLine n l).ptbase = s.ptbase := rfl
@[simp] theorem State.setLine_powered : (s.setLine n l).powered = s.powered := rfl
@[simp] theorem State.setLine_inReset : (s.setLine n l).inReset = s.inReset := rfl
@[simp] theorem State.setLine_supplyOk : (s.setLine n l).supplyOk = s.supplyOk := rfl
@[simp] theorem State.setLine_booted : (s.setLine n l).booted = s.booted := rfl
@[simp] theorem State.setLine_fwImage : (s.setLine n l).fwImage = s.fwImage := rfl
@[simp] theorem State.setLine_fwKey : (s.setLine n l).fwKey = s.fwKey := rfl
@[simp] theorem State.setLine_fwSig : (s.setLine n l).fwSig = s.fwSig := rfl
@[simp] theorem State.setLine_latched : (s.setLine n l).latched = s.latched := rfl
@[simp] theorem State.setLine_dies : (s.setLine n l).dies = s.dies := rfl
@[simp] theorem State.setLine_pmap : (s.setLine n l).pmap = s.pmap := rfl
@[simp] theorem State.setLine_buckets : (s.setLine n l).buckets = s.buckets := rfl
@[simp] theorem State.setLine_stale : (s.setLine n l).stale = s.stale := rfl
@[simp] theorem State.setLine_ports : (s.setLine n l).ports = s.ports := rfl
@[simp] theorem State.setLine_qpairs : (s.setLine n l).qpairs = s.qpairs := rfl
@[simp] theorem State.setLine_roceDrops : (s.setLine n l).roceDrops = s.roceDrops := rfl
@[simp] theorem State.setLine_roceRecv : (s.setLine n l).roceRecv = s.roceRecv := rfl
@[simp] theorem State.setLine_eth : (s.setLine n l).eth = s.eth := rfl
@[simp] theorem State.setLine_answers : (s.setLine n l).answers = s.answers := rfl
@[simp] theorem State.setLine_sinks : (s.setLine n l).sinks = s.sinks := rfl
@[simp] theorem State.setLine_hostMem : (s.setLine n l).hostMem = s.hostMem := rfl
@[simp] theorem State.setLine_refusing : (s.setLine n l).refusing = s.refusing := rfl
@[simp] theorem State.setLine_keys : (s.setLine n l).keys = s.keys := rfl
@[simp] theorem State.setLine_outbox : (s.setLine n l).outbox = s.outbox := rfl
@[simp] theorem State.setLine_bord : (s.setLine n l).bord = s.bord := rfl
@[simp] theorem State.setLine_wsel : (s.setLine n l).wsel = s.wsel := rfl
@[simp] theorem State.setLine_load : (s.setLine n l).load = s.load := rfl
@[simp] theorem State.setLine_sealingKeys : (s.setLine n l).sealingKeys = s.sealingKeys := rfl
@[simp] theorem State.setLine_sealRefusals : (s.setLine n l).sealRefusals = s.sealRefusals := rfl
@[simp] theorem State.setLine_launches : (s.setLine n l).launches = s.launches := rfl
@[simp] theorem State.setLine_head : (s.setLine n l).head = s.head := rfl
@[simp] theorem State.setLine_headPtr : (s.setLine n l).headPtr = s.headPtr := rfl
@[simp] theorem State.setLine_history : (s.setLine n l).history = s.history := rfl
@[simp] theorem State.setLine_clock : (s.setLine n l).clock = s.clock := rfl
@[simp] theorem State.setLine_orders : (s.setLine n l).orders = s.orders := rfl
@[simp] theorem State.setLine_placed : (s.setLine n l).placed = s.placed := rfl
@[simp] theorem State.setLine_armings : (s.setLine n l).armings = s.armings := rfl
@[simp] theorem State.setLine_seqs : (s.setLine n l).seqs = s.seqs := rfl
@[simp] theorem State.setLine_barriers : (s.setLine n l).barriers = s.barriers := rfl
@[simp] theorem State.setLine_trellis : (s.setLine n l).trellis = s.trellis := rfl
@[simp] theorem State.setLine_leaves : (s.setLine n l).leaves = s.leaves := rfl
@[simp] theorem State.setLine_sprouts : (s.setLine n l).sprouts = s.sprouts := rfl
@[simp] theorem State.setLine_portPrunes : (s.setLine n l).portPrunes = s.portPrunes := rfl
@[simp] theorem State.setLine_portDrops : (s.setLine n l).portDrops = s.portDrops := rfl
@[simp] theorem State.setLine_arrivals : (s.setLine n l).arrivals = s.arrivals := rfl
@[simp] theorem State.setLine_chans : (s.setLine n l).chans = s.chans := rfl
@[simp] theorem State.setLine_plots : (s.setLine n l).plots = s.plots := rfl
@[simp] theorem State.setLine_elems : (s.setLine n l).elems = s.elems := rfl
@[simp] theorem State.setLine_foragers : (s.setLine n l).foragers = s.foragers := rfl
@[simp] theorem State.setLine_arrays : (s.setLine n l).arrays = s.arrays := rfl
@[simp] theorem State.setLine_nodes : (s.setLine n l).nodes = s.nodes := rfl
@[simp] theorem State.setLine_cores : (s.setLine n l).cores = s.cores := rfl
@[simp] theorem State.setLine_engines : (s.setLine n l).engines = s.engines := rfl
@[simp] theorem State.setLine_profiles : (s.setLine n l).profiles = s.profiles := rfl
@[simp] theorem State.setLine_cuts : (s.setLine n l).cuts = s.cuts := rfl
@[simp] theorem State.setLine_grafts : (s.setLine n l).grafts = s.grafts := rfl
@[simp] theorem State.setLine_dormants : (s.setLine n l).dormants = s.dormants := rfl
@[simp] theorem State.setLine_dbp : (s.setLine n l).dbp = s.dbp := rfl
@[simp] theorem State.setLine_bpPending : (s.setLine n l).bpPending = s.bpPending := rfl
@[simp] theorem State.setLine_samples : (s.setLine n l).samples = s.samples := rfl
@[simp] theorem State.setLine_frost : (s.setLine n l).frost = s.frost := rfl
@[simp] theorem State.setLine_replays : (s.setLine n l).replays = s.replays := rfl
@[simp] theorem State.setLine_armed : (s.setLine n l).armed = s.armed := rfl
@[simp] theorem State.setLine_dump : (s.setLine n l).dump = s.dump := rfl
@[simp] theorem State.setLine_fatals : (s.setLine n l).fatals = s.fatals := rfl
@[simp] theorem State.setLine_ecc : (s.setLine n l).ecc = s.ecc := rfl
@[simp] theorem State.setLine_hangLimit : (s.setLine n l).hangLimit = s.hangLimit := rfl
end

section
variable (s : State) (d i : Nat) (b : Bucket)
open State
@[simp] theorem State.setBucket_agenda : (s.setBucket d i b).agenda = s.agenda := rfl
@[simp] theorem State.setBucket_focus : (s.setBucket d i b).focus = s.focus := rfl
@[simp] theorem State.setBucket_firing : (s.setBucket d i b).firing = s.firing := rfl
@[simp] theorem State.setBucket_fresh : (s.setBucket d i b).fresh = s.fresh := rfl
@[simp] theorem State.setBucket_mem : (s.setBucket d i b).mem = s.mem := rfl
@[simp] theorem State.setBucket_side : (s.setBucket d i b).side = s.side := rfl
@[simp] theorem State.setBucket_deferred : (s.setBucket d i b).deferred = s.deferred := rfl
@[simp] theorem State.setBucket_held : (s.setBucket d i b).held = s.held := rfl
@[simp] theorem State.setBucket_older : (s.setBucket d i b).older = s.older := rfl
@[simp] theorem State.setBucket_tlb : (s.setBucket d i b).tlb = s.tlb := rfl
@[simp] theorem State.setBucket_tlb2 : (s.setBucket d i b).tlb2 = s.tlb2 := rfl
@[simp] theorem State.setBucket_ptbase : (s.setBucket d i b).ptbase = s.ptbase := rfl
@[simp] theorem State.setBucket_powered : (s.setBucket d i b).powered = s.powered := rfl
@[simp] theorem State.setBucket_inReset : (s.setBucket d i b).inReset = s.inReset := rfl
@[simp] theorem State.setBucket_supplyOk : (s.setBucket d i b).supplyOk = s.supplyOk := rfl
@[simp] theorem State.setBucket_booted : (s.setBucket d i b).booted = s.booted := rfl
@[simp] theorem State.setBucket_fwImage : (s.setBucket d i b).fwImage = s.fwImage := rfl
@[simp] theorem State.setBucket_fwKey : (s.setBucket d i b).fwKey = s.fwKey := rfl
@[simp] theorem State.setBucket_fwSig : (s.setBucket d i b).fwSig = s.fwSig := rfl
@[simp] theorem State.setBucket_latched : (s.setBucket d i b).latched = s.latched := rfl
@[simp] theorem State.setBucket_dies : (s.setBucket d i b).dies = s.dies := rfl
@[simp] theorem State.setBucket_pmap : (s.setBucket d i b).pmap = s.pmap := rfl
@[simp] theorem State.setBucket_stale : (s.setBucket d i b).stale = s.stale := rfl
@[simp] theorem State.setBucket_ports : (s.setBucket d i b).ports = s.ports := rfl
@[simp] theorem State.setBucket_qpairs : (s.setBucket d i b).qpairs = s.qpairs := rfl
@[simp] theorem State.setBucket_roceDrops : (s.setBucket d i b).roceDrops = s.roceDrops := rfl
@[simp] theorem State.setBucket_roceRecv : (s.setBucket d i b).roceRecv = s.roceRecv := rfl
@[simp] theorem State.setBucket_eth : (s.setBucket d i b).eth = s.eth := rfl
@[simp] theorem State.setBucket_answers : (s.setBucket d i b).answers = s.answers := rfl
@[simp] theorem State.setBucket_sinks : (s.setBucket d i b).sinks = s.sinks := rfl
@[simp] theorem State.setBucket_hostMem : (s.setBucket d i b).hostMem = s.hostMem := rfl
@[simp] theorem State.setBucket_refusing : (s.setBucket d i b).refusing = s.refusing := rfl
@[simp] theorem State.setBucket_keys : (s.setBucket d i b).keys = s.keys := rfl
@[simp] theorem State.setBucket_outbox : (s.setBucket d i b).outbox = s.outbox := rfl
@[simp] theorem State.setBucket_bord : (s.setBucket d i b).bord = s.bord := rfl
@[simp] theorem State.setBucket_wsel : (s.setBucket d i b).wsel = s.wsel := rfl
@[simp] theorem State.setBucket_load : (s.setBucket d i b).load = s.load := rfl
@[simp] theorem State.setBucket_sealingKeys : (s.setBucket d i b).sealingKeys = s.sealingKeys := rfl
@[simp] theorem State.setBucket_sealRefusals : (s.setBucket d i b).sealRefusals = s.sealRefusals := rfl
@[simp] theorem State.setBucket_launches : (s.setBucket d i b).launches = s.launches := rfl
@[simp] theorem State.setBucket_head : (s.setBucket d i b).head = s.head := rfl
@[simp] theorem State.setBucket_headPtr : (s.setBucket d i b).headPtr = s.headPtr := rfl
@[simp] theorem State.setBucket_history : (s.setBucket d i b).history = s.history := rfl
@[simp] theorem State.setBucket_clock : (s.setBucket d i b).clock = s.clock := rfl
@[simp] theorem State.setBucket_orders : (s.setBucket d i b).orders = s.orders := rfl
@[simp] theorem State.setBucket_placed : (s.setBucket d i b).placed = s.placed := rfl
@[simp] theorem State.setBucket_armings : (s.setBucket d i b).armings = s.armings := rfl
@[simp] theorem State.setBucket_seqs : (s.setBucket d i b).seqs = s.seqs := rfl
@[simp] theorem State.setBucket_barriers : (s.setBucket d i b).barriers = s.barriers := rfl
@[simp] theorem State.setBucket_trellis : (s.setBucket d i b).trellis = s.trellis := rfl
@[simp] theorem State.setBucket_leaves : (s.setBucket d i b).leaves = s.leaves := rfl
@[simp] theorem State.setBucket_sprouts : (s.setBucket d i b).sprouts = s.sprouts := rfl
@[simp] theorem State.setBucket_portPrunes : (s.setBucket d i b).portPrunes = s.portPrunes := rfl
@[simp] theorem State.setBucket_portDrops : (s.setBucket d i b).portDrops = s.portDrops := rfl
@[simp] theorem State.setBucket_arrivals : (s.setBucket d i b).arrivals = s.arrivals := rfl
@[simp] theorem State.setBucket_chans : (s.setBucket d i b).chans = s.chans := rfl
@[simp] theorem State.setBucket_plots : (s.setBucket d i b).plots = s.plots := rfl
@[simp] theorem State.setBucket_elems : (s.setBucket d i b).elems = s.elems := rfl
@[simp] theorem State.setBucket_foragers : (s.setBucket d i b).foragers = s.foragers := rfl
@[simp] theorem State.setBucket_arrays : (s.setBucket d i b).arrays = s.arrays := rfl
@[simp] theorem State.setBucket_nodes : (s.setBucket d i b).nodes = s.nodes := rfl
@[simp] theorem State.setBucket_cores : (s.setBucket d i b).cores = s.cores := rfl
@[simp] theorem State.setBucket_engines : (s.setBucket d i b).engines = s.engines := rfl
@[simp] theorem State.setBucket_profiles : (s.setBucket d i b).profiles = s.profiles := rfl
@[simp] theorem State.setBucket_cuts : (s.setBucket d i b).cuts = s.cuts := rfl
@[simp] theorem State.setBucket_grafts : (s.setBucket d i b).grafts = s.grafts := rfl
@[simp] theorem State.setBucket_dormants : (s.setBucket d i b).dormants = s.dormants := rfl
@[simp] theorem State.setBucket_dbp : (s.setBucket d i b).dbp = s.dbp := rfl
@[simp] theorem State.setBucket_bpPending : (s.setBucket d i b).bpPending = s.bpPending := rfl
@[simp] theorem State.setBucket_samples : (s.setBucket d i b).samples = s.samples := rfl
@[simp] theorem State.setBucket_frost : (s.setBucket d i b).frost = s.frost := rfl
@[simp] theorem State.setBucket_replays : (s.setBucket d i b).replays = s.replays := rfl
@[simp] theorem State.setBucket_armed : (s.setBucket d i b).armed = s.armed := rfl
@[simp] theorem State.setBucket_dump : (s.setBucket d i b).dump = s.dump := rfl
@[simp] theorem State.setBucket_fatals : (s.setBucket d i b).fatals = s.fatals := rfl
@[simp] theorem State.setBucket_ecc : (s.setBucket d i b).ecc = s.ecc := rfl
@[simp] theorem State.setBucket_hangLimit : (s.setBucket d i b).hangLimit = s.hangLimit := rfl
end

section
variable (s : State) (n : Nat) (f : Die → Die)
open State
@[simp] theorem State.updDie_agenda : (s.updDie n f).agenda = s.agenda := by unfold State.updDie; split <;> rfl
@[simp] theorem State.updDie_focus : (s.updDie n f).focus = s.focus := by unfold State.updDie; split <;> rfl
@[simp] theorem State.updDie_firing : (s.updDie n f).firing = s.firing := by unfold State.updDie; split <;> rfl
@[simp] theorem State.updDie_fresh : (s.updDie n f).fresh = s.fresh := by unfold State.updDie; split <;> rfl
@[simp] theorem State.updDie_mem : (s.updDie n f).mem = s.mem := by unfold State.updDie; split <;> rfl
@[simp] theorem State.updDie_side : (s.updDie n f).side = s.side := by unfold State.updDie; split <;> rfl
@[simp] theorem State.updDie_deferred : (s.updDie n f).deferred = s.deferred := by unfold State.updDie; split <;> rfl
@[simp] theorem State.updDie_held : (s.updDie n f).held = s.held := by unfold State.updDie; split <;> rfl
@[simp] theorem State.updDie_older : (s.updDie n f).older = s.older := by unfold State.updDie; split <;> rfl
@[simp] theorem State.updDie_tlb : (s.updDie n f).tlb = s.tlb := by unfold State.updDie; split <;> rfl
@[simp] theorem State.updDie_tlb2 : (s.updDie n f).tlb2 = s.tlb2 := by unfold State.updDie; split <;> rfl
@[simp] theorem State.updDie_ptbase : (s.updDie n f).ptbase = s.ptbase := by unfold State.updDie; split <;> rfl
@[simp] theorem State.updDie_powered : (s.updDie n f).powered = s.powered := by unfold State.updDie; split <;> rfl
@[simp] theorem State.updDie_inReset : (s.updDie n f).inReset = s.inReset := by unfold State.updDie; split <;> rfl
@[simp] theorem State.updDie_supplyOk : (s.updDie n f).supplyOk = s.supplyOk := by unfold State.updDie; split <;> rfl
@[simp] theorem State.updDie_booted : (s.updDie n f).booted = s.booted := by unfold State.updDie; split <;> rfl
@[simp] theorem State.updDie_fwImage : (s.updDie n f).fwImage = s.fwImage := by unfold State.updDie; split <;> rfl
@[simp] theorem State.updDie_fwKey : (s.updDie n f).fwKey = s.fwKey := by unfold State.updDie; split <;> rfl
@[simp] theorem State.updDie_fwSig : (s.updDie n f).fwSig = s.fwSig := by unfold State.updDie; split <;> rfl
@[simp] theorem State.updDie_latched : (s.updDie n f).latched = s.latched := by unfold State.updDie; split <;> rfl
@[simp] theorem State.updDie_pmap : (s.updDie n f).pmap = s.pmap := by unfold State.updDie; split <;> rfl
@[simp] theorem State.updDie_buckets : (s.updDie n f).buckets = s.buckets := by unfold State.updDie; split <;> rfl
@[simp] theorem State.updDie_stale : (s.updDie n f).stale = s.stale := by unfold State.updDie; split <;> rfl
@[simp] theorem State.updDie_ports : (s.updDie n f).ports = s.ports := by unfold State.updDie; split <;> rfl
@[simp] theorem State.updDie_qpairs : (s.updDie n f).qpairs = s.qpairs := by unfold State.updDie; split <;> rfl
@[simp] theorem State.updDie_roceDrops : (s.updDie n f).roceDrops = s.roceDrops := by unfold State.updDie; split <;> rfl
@[simp] theorem State.updDie_roceRecv : (s.updDie n f).roceRecv = s.roceRecv := by unfold State.updDie; split <;> rfl
@[simp] theorem State.updDie_eth : (s.updDie n f).eth = s.eth := by unfold State.updDie; split <;> rfl
@[simp] theorem State.updDie_answers : (s.updDie n f).answers = s.answers := by unfold State.updDie; split <;> rfl
@[simp] theorem State.updDie_sinks : (s.updDie n f).sinks = s.sinks := by unfold State.updDie; split <;> rfl
@[simp] theorem State.updDie_hostMem : (s.updDie n f).hostMem = s.hostMem := by unfold State.updDie; split <;> rfl
@[simp] theorem State.updDie_refusing : (s.updDie n f).refusing = s.refusing := by unfold State.updDie; split <;> rfl
@[simp] theorem State.updDie_keys : (s.updDie n f).keys = s.keys := by unfold State.updDie; split <;> rfl
@[simp] theorem State.updDie_outbox : (s.updDie n f).outbox = s.outbox := by unfold State.updDie; split <;> rfl
@[simp] theorem State.updDie_bord : (s.updDie n f).bord = s.bord := by unfold State.updDie; split <;> rfl
@[simp] theorem State.updDie_wsel : (s.updDie n f).wsel = s.wsel := by unfold State.updDie; split <;> rfl
@[simp] theorem State.updDie_load : (s.updDie n f).load = s.load := by unfold State.updDie; split <;> rfl
@[simp] theorem State.updDie_sealingKeys : (s.updDie n f).sealingKeys = s.sealingKeys := by unfold State.updDie; split <;> rfl
@[simp] theorem State.updDie_sealRefusals : (s.updDie n f).sealRefusals = s.sealRefusals := by unfold State.updDie; split <;> rfl
@[simp] theorem State.updDie_launches : (s.updDie n f).launches = s.launches := by unfold State.updDie; split <;> rfl
@[simp] theorem State.updDie_head : (s.updDie n f).head = s.head := by unfold State.updDie; split <;> rfl
@[simp] theorem State.updDie_headPtr : (s.updDie n f).headPtr = s.headPtr := by unfold State.updDie; split <;> rfl
@[simp] theorem State.updDie_history : (s.updDie n f).history = s.history := by unfold State.updDie; split <;> rfl
@[simp] theorem State.updDie_clock : (s.updDie n f).clock = s.clock := by unfold State.updDie; split <;> rfl
@[simp] theorem State.updDie_orders : (s.updDie n f).orders = s.orders := by unfold State.updDie; split <;> rfl
@[simp] theorem State.updDie_placed : (s.updDie n f).placed = s.placed := by unfold State.updDie; split <;> rfl
@[simp] theorem State.updDie_armings : (s.updDie n f).armings = s.armings := by unfold State.updDie; split <;> rfl
@[simp] theorem State.updDie_seqs : (s.updDie n f).seqs = s.seqs := by unfold State.updDie; split <;> rfl
@[simp] theorem State.updDie_barriers : (s.updDie n f).barriers = s.barriers := by unfold State.updDie; split <;> rfl
@[simp] theorem State.updDie_trellis : (s.updDie n f).trellis = s.trellis := by unfold State.updDie; split <;> rfl
@[simp] theorem State.updDie_leaves : (s.updDie n f).leaves = s.leaves := by unfold State.updDie; split <;> rfl
@[simp] theorem State.updDie_sprouts : (s.updDie n f).sprouts = s.sprouts := by unfold State.updDie; split <;> rfl
@[simp] theorem State.updDie_portPrunes : (s.updDie n f).portPrunes = s.portPrunes := by unfold State.updDie; split <;> rfl
@[simp] theorem State.updDie_portDrops : (s.updDie n f).portDrops = s.portDrops := by unfold State.updDie; split <;> rfl
@[simp] theorem State.updDie_arrivals : (s.updDie n f).arrivals = s.arrivals := by unfold State.updDie; split <;> rfl
@[simp] theorem State.updDie_chans : (s.updDie n f).chans = s.chans := by unfold State.updDie; split <;> rfl
@[simp] theorem State.updDie_plots : (s.updDie n f).plots = s.plots := by unfold State.updDie; split <;> rfl
@[simp] theorem State.updDie_elems : (s.updDie n f).elems = s.elems := by unfold State.updDie; split <;> rfl
@[simp] theorem State.updDie_foragers : (s.updDie n f).foragers = s.foragers := by unfold State.updDie; split <;> rfl
@[simp] theorem State.updDie_arrays : (s.updDie n f).arrays = s.arrays := by unfold State.updDie; split <;> rfl
@[simp] theorem State.updDie_nodes : (s.updDie n f).nodes = s.nodes := by unfold State.updDie; split <;> rfl
@[simp] theorem State.updDie_cores : (s.updDie n f).cores = s.cores := by unfold State.updDie; split <;> rfl
@[simp] theorem State.updDie_engines : (s.updDie n f).engines = s.engines := by unfold State.updDie; split <;> rfl
@[simp] theorem State.updDie_profiles : (s.updDie n f).profiles = s.profiles := by unfold State.updDie; split <;> rfl
@[simp] theorem State.updDie_cuts : (s.updDie n f).cuts = s.cuts := by unfold State.updDie; split <;> rfl
@[simp] theorem State.updDie_grafts : (s.updDie n f).grafts = s.grafts := by unfold State.updDie; split <;> rfl
@[simp] theorem State.updDie_dormants : (s.updDie n f).dormants = s.dormants := by unfold State.updDie; split <;> rfl
@[simp] theorem State.updDie_dbp : (s.updDie n f).dbp = s.dbp := by unfold State.updDie; split <;> rfl
@[simp] theorem State.updDie_bpPending : (s.updDie n f).bpPending = s.bpPending := by unfold State.updDie; split <;> rfl
@[simp] theorem State.updDie_samples : (s.updDie n f).samples = s.samples := by unfold State.updDie; split <;> rfl
@[simp] theorem State.updDie_frost : (s.updDie n f).frost = s.frost := by unfold State.updDie; split <;> rfl
@[simp] theorem State.updDie_replays : (s.updDie n f).replays = s.replays := by unfold State.updDie; split <;> rfl
@[simp] theorem State.updDie_armed : (s.updDie n f).armed = s.armed := by unfold State.updDie; split <;> rfl
@[simp] theorem State.updDie_dump : (s.updDie n f).dump = s.dump := by unfold State.updDie; split <;> rfl
@[simp] theorem State.updDie_fatals : (s.updDie n f).fatals = s.fatals := by unfold State.updDie; split <;> rfl
@[simp] theorem State.updDie_ecc : (s.updDie n f).ecc = s.ecc := by unfold State.updDie; split <;> rfl
@[simp] theorem State.updDie_hangLimit : (s.updDie n f).hangLimit = s.hangLimit := by unfold State.updDie; split <;> rfl
end

section
variable (s : State) (n : Nat) (f : VPort → VPort)
open State
@[simp] theorem State.updPort_agenda : (s.updPort n f).agenda = s.agenda := by unfold State.updPort; split <;> rfl
@[simp] theorem State.updPort_focus : (s.updPort n f).focus = s.focus := by unfold State.updPort; split <;> rfl
@[simp] theorem State.updPort_firing : (s.updPort n f).firing = s.firing := by unfold State.updPort; split <;> rfl
@[simp] theorem State.updPort_fresh : (s.updPort n f).fresh = s.fresh := by unfold State.updPort; split <;> rfl
@[simp] theorem State.updPort_mem : (s.updPort n f).mem = s.mem := by unfold State.updPort; split <;> rfl
@[simp] theorem State.updPort_side : (s.updPort n f).side = s.side := by unfold State.updPort; split <;> rfl
@[simp] theorem State.updPort_deferred : (s.updPort n f).deferred = s.deferred := by unfold State.updPort; split <;> rfl
@[simp] theorem State.updPort_held : (s.updPort n f).held = s.held := by unfold State.updPort; split <;> rfl
@[simp] theorem State.updPort_older : (s.updPort n f).older = s.older := by unfold State.updPort; split <;> rfl
@[simp] theorem State.updPort_tlb : (s.updPort n f).tlb = s.tlb := by unfold State.updPort; split <;> rfl
@[simp] theorem State.updPort_tlb2 : (s.updPort n f).tlb2 = s.tlb2 := by unfold State.updPort; split <;> rfl
@[simp] theorem State.updPort_ptbase : (s.updPort n f).ptbase = s.ptbase := by unfold State.updPort; split <;> rfl
@[simp] theorem State.updPort_powered : (s.updPort n f).powered = s.powered := by unfold State.updPort; split <;> rfl
@[simp] theorem State.updPort_inReset : (s.updPort n f).inReset = s.inReset := by unfold State.updPort; split <;> rfl
@[simp] theorem State.updPort_supplyOk : (s.updPort n f).supplyOk = s.supplyOk := by unfold State.updPort; split <;> rfl
@[simp] theorem State.updPort_booted : (s.updPort n f).booted = s.booted := by unfold State.updPort; split <;> rfl
@[simp] theorem State.updPort_fwImage : (s.updPort n f).fwImage = s.fwImage := by unfold State.updPort; split <;> rfl
@[simp] theorem State.updPort_fwKey : (s.updPort n f).fwKey = s.fwKey := by unfold State.updPort; split <;> rfl
@[simp] theorem State.updPort_fwSig : (s.updPort n f).fwSig = s.fwSig := by unfold State.updPort; split <;> rfl
@[simp] theorem State.updPort_latched : (s.updPort n f).latched = s.latched := by unfold State.updPort; split <;> rfl
@[simp] theorem State.updPort_dies : (s.updPort n f).dies = s.dies := by unfold State.updPort; split <;> rfl
@[simp] theorem State.updPort_pmap : (s.updPort n f).pmap = s.pmap := by unfold State.updPort; split <;> rfl
@[simp] theorem State.updPort_buckets : (s.updPort n f).buckets = s.buckets := by unfold State.updPort; split <;> rfl
@[simp] theorem State.updPort_stale : (s.updPort n f).stale = s.stale := by unfold State.updPort; split <;> rfl
@[simp] theorem State.updPort_qpairs : (s.updPort n f).qpairs = s.qpairs := by unfold State.updPort; split <;> rfl
@[simp] theorem State.updPort_roceDrops : (s.updPort n f).roceDrops = s.roceDrops := by unfold State.updPort; split <;> rfl
@[simp] theorem State.updPort_roceRecv : (s.updPort n f).roceRecv = s.roceRecv := by unfold State.updPort; split <;> rfl
@[simp] theorem State.updPort_eth : (s.updPort n f).eth = s.eth := by unfold State.updPort; split <;> rfl
@[simp] theorem State.updPort_answers : (s.updPort n f).answers = s.answers := by unfold State.updPort; split <;> rfl
@[simp] theorem State.updPort_sinks : (s.updPort n f).sinks = s.sinks := by unfold State.updPort; split <;> rfl
@[simp] theorem State.updPort_hostMem : (s.updPort n f).hostMem = s.hostMem := by unfold State.updPort; split <;> rfl
@[simp] theorem State.updPort_refusing : (s.updPort n f).refusing = s.refusing := by unfold State.updPort; split <;> rfl
@[simp] theorem State.updPort_keys : (s.updPort n f).keys = s.keys := by unfold State.updPort; split <;> rfl
@[simp] theorem State.updPort_outbox : (s.updPort n f).outbox = s.outbox := by unfold State.updPort; split <;> rfl
@[simp] theorem State.updPort_bord : (s.updPort n f).bord = s.bord := by unfold State.updPort; split <;> rfl
@[simp] theorem State.updPort_wsel : (s.updPort n f).wsel = s.wsel := by unfold State.updPort; split <;> rfl
@[simp] theorem State.updPort_load : (s.updPort n f).load = s.load := by unfold State.updPort; split <;> rfl
@[simp] theorem State.updPort_sealingKeys : (s.updPort n f).sealingKeys = s.sealingKeys := by unfold State.updPort; split <;> rfl
@[simp] theorem State.updPort_sealRefusals : (s.updPort n f).sealRefusals = s.sealRefusals := by unfold State.updPort; split <;> rfl
@[simp] theorem State.updPort_launches : (s.updPort n f).launches = s.launches := by unfold State.updPort; split <;> rfl
@[simp] theorem State.updPort_head : (s.updPort n f).head = s.head := by unfold State.updPort; split <;> rfl
@[simp] theorem State.updPort_headPtr : (s.updPort n f).headPtr = s.headPtr := by unfold State.updPort; split <;> rfl
@[simp] theorem State.updPort_history : (s.updPort n f).history = s.history := by unfold State.updPort; split <;> rfl
@[simp] theorem State.updPort_clock : (s.updPort n f).clock = s.clock := by unfold State.updPort; split <;> rfl
@[simp] theorem State.updPort_orders : (s.updPort n f).orders = s.orders := by unfold State.updPort; split <;> rfl
@[simp] theorem State.updPort_placed : (s.updPort n f).placed = s.placed := by unfold State.updPort; split <;> rfl
@[simp] theorem State.updPort_armings : (s.updPort n f).armings = s.armings := by unfold State.updPort; split <;> rfl
@[simp] theorem State.updPort_seqs : (s.updPort n f).seqs = s.seqs := by unfold State.updPort; split <;> rfl
@[simp] theorem State.updPort_barriers : (s.updPort n f).barriers = s.barriers := by unfold State.updPort; split <;> rfl
@[simp] theorem State.updPort_trellis : (s.updPort n f).trellis = s.trellis := by unfold State.updPort; split <;> rfl
@[simp] theorem State.updPort_leaves : (s.updPort n f).leaves = s.leaves := by unfold State.updPort; split <;> rfl
@[simp] theorem State.updPort_sprouts : (s.updPort n f).sprouts = s.sprouts := by unfold State.updPort; split <;> rfl
@[simp] theorem State.updPort_portPrunes : (s.updPort n f).portPrunes = s.portPrunes := by unfold State.updPort; split <;> rfl
@[simp] theorem State.updPort_portDrops : (s.updPort n f).portDrops = s.portDrops := by unfold State.updPort; split <;> rfl
@[simp] theorem State.updPort_arrivals : (s.updPort n f).arrivals = s.arrivals := by unfold State.updPort; split <;> rfl
@[simp] theorem State.updPort_chans : (s.updPort n f).chans = s.chans := by unfold State.updPort; split <;> rfl
@[simp] theorem State.updPort_plots : (s.updPort n f).plots = s.plots := by unfold State.updPort; split <;> rfl
@[simp] theorem State.updPort_elems : (s.updPort n f).elems = s.elems := by unfold State.updPort; split <;> rfl
@[simp] theorem State.updPort_foragers : (s.updPort n f).foragers = s.foragers := by unfold State.updPort; split <;> rfl
@[simp] theorem State.updPort_arrays : (s.updPort n f).arrays = s.arrays := by unfold State.updPort; split <;> rfl
@[simp] theorem State.updPort_nodes : (s.updPort n f).nodes = s.nodes := by unfold State.updPort; split <;> rfl
@[simp] theorem State.updPort_cores : (s.updPort n f).cores = s.cores := by unfold State.updPort; split <;> rfl
@[simp] theorem State.updPort_engines : (s.updPort n f).engines = s.engines := by unfold State.updPort; split <;> rfl
@[simp] theorem State.updPort_profiles : (s.updPort n f).profiles = s.profiles := by unfold State.updPort; split <;> rfl
@[simp] theorem State.updPort_cuts : (s.updPort n f).cuts = s.cuts := by unfold State.updPort; split <;> rfl
@[simp] theorem State.updPort_grafts : (s.updPort n f).grafts = s.grafts := by unfold State.updPort; split <;> rfl
@[simp] theorem State.updPort_dormants : (s.updPort n f).dormants = s.dormants := by unfold State.updPort; split <;> rfl
@[simp] theorem State.updPort_dbp : (s.updPort n f).dbp = s.dbp := by unfold State.updPort; split <;> rfl
@[simp] theorem State.updPort_bpPending : (s.updPort n f).bpPending = s.bpPending := by unfold State.updPort; split <;> rfl
@[simp] theorem State.updPort_samples : (s.updPort n f).samples = s.samples := by unfold State.updPort; split <;> rfl
@[simp] theorem State.updPort_frost : (s.updPort n f).frost = s.frost := by unfold State.updPort; split <;> rfl
@[simp] theorem State.updPort_replays : (s.updPort n f).replays = s.replays := by unfold State.updPort; split <;> rfl
@[simp] theorem State.updPort_armed : (s.updPort n f).armed = s.armed := by unfold State.updPort; split <;> rfl
@[simp] theorem State.updPort_dump : (s.updPort n f).dump = s.dump := by unfold State.updPort; split <;> rfl
@[simp] theorem State.updPort_fatals : (s.updPort n f).fatals = s.fatals := by unfold State.updPort; split <;> rfl
@[simp] theorem State.updPort_ecc : (s.updPort n f).ecc = s.ecc := by unfold State.updPort; split <;> rfl
@[simp] theorem State.updPort_hangLimit : (s.updPort n f).hangLimit = s.hangLimit := by unfold State.updPort; split <;> rfl
end

section
variable (s : State) (n : Nat) (f : EthPort → EthPort)
open State
@[simp] theorem State.updEth_agenda : (s.updEth n f).agenda = s.agenda := by unfold State.updEth; split <;> rfl
@[simp] theorem State.updEth_focus : (s.updEth n f).focus = s.focus := by unfold State.updEth; split <;> rfl
@[simp] theorem State.updEth_firing : (s.updEth n f).firing = s.firing := by unfold State.updEth; split <;> rfl
@[simp] theorem State.updEth_fresh : (s.updEth n f).fresh = s.fresh := by unfold State.updEth; split <;> rfl
@[simp] theorem State.updEth_mem : (s.updEth n f).mem = s.mem := by unfold State.updEth; split <;> rfl
@[simp] theorem State.updEth_side : (s.updEth n f).side = s.side := by unfold State.updEth; split <;> rfl
@[simp] theorem State.updEth_deferred : (s.updEth n f).deferred = s.deferred := by unfold State.updEth; split <;> rfl
@[simp] theorem State.updEth_held : (s.updEth n f).held = s.held := by unfold State.updEth; split <;> rfl
@[simp] theorem State.updEth_older : (s.updEth n f).older = s.older := by unfold State.updEth; split <;> rfl
@[simp] theorem State.updEth_tlb : (s.updEth n f).tlb = s.tlb := by unfold State.updEth; split <;> rfl
@[simp] theorem State.updEth_tlb2 : (s.updEth n f).tlb2 = s.tlb2 := by unfold State.updEth; split <;> rfl
@[simp] theorem State.updEth_ptbase : (s.updEth n f).ptbase = s.ptbase := by unfold State.updEth; split <;> rfl
@[simp] theorem State.updEth_powered : (s.updEth n f).powered = s.powered := by unfold State.updEth; split <;> rfl
@[simp] theorem State.updEth_inReset : (s.updEth n f).inReset = s.inReset := by unfold State.updEth; split <;> rfl
@[simp] theorem State.updEth_supplyOk : (s.updEth n f).supplyOk = s.supplyOk := by unfold State.updEth; split <;> rfl
@[simp] theorem State.updEth_booted : (s.updEth n f).booted = s.booted := by unfold State.updEth; split <;> rfl
@[simp] theorem State.updEth_fwImage : (s.updEth n f).fwImage = s.fwImage := by unfold State.updEth; split <;> rfl
@[simp] theorem State.updEth_fwKey : (s.updEth n f).fwKey = s.fwKey := by unfold State.updEth; split <;> rfl
@[simp] theorem State.updEth_fwSig : (s.updEth n f).fwSig = s.fwSig := by unfold State.updEth; split <;> rfl
@[simp] theorem State.updEth_latched : (s.updEth n f).latched = s.latched := by unfold State.updEth; split <;> rfl
@[simp] theorem State.updEth_dies : (s.updEth n f).dies = s.dies := by unfold State.updEth; split <;> rfl
@[simp] theorem State.updEth_pmap : (s.updEth n f).pmap = s.pmap := by unfold State.updEth; split <;> rfl
@[simp] theorem State.updEth_buckets : (s.updEth n f).buckets = s.buckets := by unfold State.updEth; split <;> rfl
@[simp] theorem State.updEth_stale : (s.updEth n f).stale = s.stale := by unfold State.updEth; split <;> rfl
@[simp] theorem State.updEth_ports : (s.updEth n f).ports = s.ports := by unfold State.updEth; split <;> rfl
@[simp] theorem State.updEth_qpairs : (s.updEth n f).qpairs = s.qpairs := by unfold State.updEth; split <;> rfl
@[simp] theorem State.updEth_roceDrops : (s.updEth n f).roceDrops = s.roceDrops := by unfold State.updEth; split <;> rfl
@[simp] theorem State.updEth_roceRecv : (s.updEth n f).roceRecv = s.roceRecv := by unfold State.updEth; split <;> rfl
@[simp] theorem State.updEth_answers : (s.updEth n f).answers = s.answers := by unfold State.updEth; split <;> rfl
@[simp] theorem State.updEth_sinks : (s.updEth n f).sinks = s.sinks := by unfold State.updEth; split <;> rfl
@[simp] theorem State.updEth_hostMem : (s.updEth n f).hostMem = s.hostMem := by unfold State.updEth; split <;> rfl
@[simp] theorem State.updEth_refusing : (s.updEth n f).refusing = s.refusing := by unfold State.updEth; split <;> rfl
@[simp] theorem State.updEth_keys : (s.updEth n f).keys = s.keys := by unfold State.updEth; split <;> rfl
@[simp] theorem State.updEth_outbox : (s.updEth n f).outbox = s.outbox := by unfold State.updEth; split <;> rfl
@[simp] theorem State.updEth_bord : (s.updEth n f).bord = s.bord := by unfold State.updEth; split <;> rfl
@[simp] theorem State.updEth_wsel : (s.updEth n f).wsel = s.wsel := by unfold State.updEth; split <;> rfl
@[simp] theorem State.updEth_load : (s.updEth n f).load = s.load := by unfold State.updEth; split <;> rfl
@[simp] theorem State.updEth_sealingKeys : (s.updEth n f).sealingKeys = s.sealingKeys := by unfold State.updEth; split <;> rfl
@[simp] theorem State.updEth_sealRefusals : (s.updEth n f).sealRefusals = s.sealRefusals := by unfold State.updEth; split <;> rfl
@[simp] theorem State.updEth_launches : (s.updEth n f).launches = s.launches := by unfold State.updEth; split <;> rfl
@[simp] theorem State.updEth_head : (s.updEth n f).head = s.head := by unfold State.updEth; split <;> rfl
@[simp] theorem State.updEth_headPtr : (s.updEth n f).headPtr = s.headPtr := by unfold State.updEth; split <;> rfl
@[simp] theorem State.updEth_history : (s.updEth n f).history = s.history := by unfold State.updEth; split <;> rfl
@[simp] theorem State.updEth_clock : (s.updEth n f).clock = s.clock := by unfold State.updEth; split <;> rfl
@[simp] theorem State.updEth_orders : (s.updEth n f).orders = s.orders := by unfold State.updEth; split <;> rfl
@[simp] theorem State.updEth_placed : (s.updEth n f).placed = s.placed := by unfold State.updEth; split <;> rfl
@[simp] theorem State.updEth_armings : (s.updEth n f).armings = s.armings := by unfold State.updEth; split <;> rfl
@[simp] theorem State.updEth_seqs : (s.updEth n f).seqs = s.seqs := by unfold State.updEth; split <;> rfl
@[simp] theorem State.updEth_barriers : (s.updEth n f).barriers = s.barriers := by unfold State.updEth; split <;> rfl
@[simp] theorem State.updEth_trellis : (s.updEth n f).trellis = s.trellis := by unfold State.updEth; split <;> rfl
@[simp] theorem State.updEth_leaves : (s.updEth n f).leaves = s.leaves := by unfold State.updEth; split <;> rfl
@[simp] theorem State.updEth_sprouts : (s.updEth n f).sprouts = s.sprouts := by unfold State.updEth; split <;> rfl
@[simp] theorem State.updEth_portPrunes : (s.updEth n f).portPrunes = s.portPrunes := by unfold State.updEth; split <;> rfl
@[simp] theorem State.updEth_portDrops : (s.updEth n f).portDrops = s.portDrops := by unfold State.updEth; split <;> rfl
@[simp] theorem State.updEth_arrivals : (s.updEth n f).arrivals = s.arrivals := by unfold State.updEth; split <;> rfl
@[simp] theorem State.updEth_chans : (s.updEth n f).chans = s.chans := by unfold State.updEth; split <;> rfl
@[simp] theorem State.updEth_plots : (s.updEth n f).plots = s.plots := by unfold State.updEth; split <;> rfl
@[simp] theorem State.updEth_elems : (s.updEth n f).elems = s.elems := by unfold State.updEth; split <;> rfl
@[simp] theorem State.updEth_foragers : (s.updEth n f).foragers = s.foragers := by unfold State.updEth; split <;> rfl
@[simp] theorem State.updEth_arrays : (s.updEth n f).arrays = s.arrays := by unfold State.updEth; split <;> rfl
@[simp] theorem State.updEth_nodes : (s.updEth n f).nodes = s.nodes := by unfold State.updEth; split <;> rfl
@[simp] theorem State.updEth_cores : (s.updEth n f).cores = s.cores := by unfold State.updEth; split <;> rfl
@[simp] theorem State.updEth_engines : (s.updEth n f).engines = s.engines := by unfold State.updEth; split <;> rfl
@[simp] theorem State.updEth_profiles : (s.updEth n f).profiles = s.profiles := by unfold State.updEth; split <;> rfl
@[simp] theorem State.updEth_cuts : (s.updEth n f).cuts = s.cuts := by unfold State.updEth; split <;> rfl
@[simp] theorem State.updEth_grafts : (s.updEth n f).grafts = s.grafts := by unfold State.updEth; split <;> rfl
@[simp] theorem State.updEth_dormants : (s.updEth n f).dormants = s.dormants := by unfold State.updEth; split <;> rfl
@[simp] theorem State.updEth_dbp : (s.updEth n f).dbp = s.dbp := by unfold State.updEth; split <;> rfl
@[simp] theorem State.updEth_bpPending : (s.updEth n f).bpPending = s.bpPending := by unfold State.updEth; split <;> rfl
@[simp] theorem State.updEth_samples : (s.updEth n f).samples = s.samples := by unfold State.updEth; split <;> rfl
@[simp] theorem State.updEth_frost : (s.updEth n f).frost = s.frost := by unfold State.updEth; split <;> rfl
@[simp] theorem State.updEth_replays : (s.updEth n f).replays = s.replays := by unfold State.updEth; split <;> rfl
@[simp] theorem State.updEth_armed : (s.updEth n f).armed = s.armed := by unfold State.updEth; split <;> rfl
@[simp] theorem State.updEth_dump : (s.updEth n f).dump = s.dump := by unfold State.updEth; split <;> rfl
@[simp] theorem State.updEth_fatals : (s.updEth n f).fatals = s.fatals := by unfold State.updEth; split <;> rfl
@[simp] theorem State.updEth_ecc : (s.updEth n f).ecc = s.ecc := by unfold State.updEth; split <;> rfl
@[simp] theorem State.updEth_hangLimit : (s.updEth n f).hangLimit = s.hangLimit := by unfold State.updEth; split <;> rfl
end

section
variable (s : State) (d : Nat) (x : Sprout)
open State
@[simp] theorem State.setSprout_agenda : (s.setSprout d x).agenda = s.agenda := by unfold State.setSprout; split <;> rfl
@[simp] theorem State.setSprout_focus : (s.setSprout d x).focus = s.focus := by unfold State.setSprout; split <;> rfl
@[simp] theorem State.setSprout_firing : (s.setSprout d x).firing = s.firing := by unfold State.setSprout; split <;> rfl
@[simp] theorem State.setSprout_fresh : (s.setSprout d x).fresh = s.fresh := by unfold State.setSprout; split <;> rfl
@[simp] theorem State.setSprout_mem : (s.setSprout d x).mem = s.mem := by unfold State.setSprout; split <;> rfl
@[simp] theorem State.setSprout_side : (s.setSprout d x).side = s.side := by unfold State.setSprout; split <;> rfl
@[simp] theorem State.setSprout_deferred : (s.setSprout d x).deferred = s.deferred := by unfold State.setSprout; split <;> rfl
@[simp] theorem State.setSprout_held : (s.setSprout d x).held = s.held := by unfold State.setSprout; split <;> rfl
@[simp] theorem State.setSprout_older : (s.setSprout d x).older = s.older := by unfold State.setSprout; split <;> rfl
@[simp] theorem State.setSprout_tlb : (s.setSprout d x).tlb = s.tlb := by unfold State.setSprout; split <;> rfl
@[simp] theorem State.setSprout_tlb2 : (s.setSprout d x).tlb2 = s.tlb2 := by unfold State.setSprout; split <;> rfl
@[simp] theorem State.setSprout_ptbase : (s.setSprout d x).ptbase = s.ptbase := by unfold State.setSprout; split <;> rfl
@[simp] theorem State.setSprout_powered : (s.setSprout d x).powered = s.powered := by unfold State.setSprout; split <;> rfl
@[simp] theorem State.setSprout_inReset : (s.setSprout d x).inReset = s.inReset := by unfold State.setSprout; split <;> rfl
@[simp] theorem State.setSprout_supplyOk : (s.setSprout d x).supplyOk = s.supplyOk := by unfold State.setSprout; split <;> rfl
@[simp] theorem State.setSprout_booted : (s.setSprout d x).booted = s.booted := by unfold State.setSprout; split <;> rfl
@[simp] theorem State.setSprout_fwImage : (s.setSprout d x).fwImage = s.fwImage := by unfold State.setSprout; split <;> rfl
@[simp] theorem State.setSprout_fwKey : (s.setSprout d x).fwKey = s.fwKey := by unfold State.setSprout; split <;> rfl
@[simp] theorem State.setSprout_fwSig : (s.setSprout d x).fwSig = s.fwSig := by unfold State.setSprout; split <;> rfl
@[simp] theorem State.setSprout_latched : (s.setSprout d x).latched = s.latched := by unfold State.setSprout; split <;> rfl
@[simp] theorem State.setSprout_dies : (s.setSprout d x).dies = s.dies := by unfold State.setSprout; split <;> rfl
@[simp] theorem State.setSprout_pmap : (s.setSprout d x).pmap = s.pmap := by unfold State.setSprout; split <;> rfl
@[simp] theorem State.setSprout_buckets : (s.setSprout d x).buckets = s.buckets := by unfold State.setSprout; split <;> rfl
@[simp] theorem State.setSprout_stale : (s.setSprout d x).stale = s.stale := by unfold State.setSprout; split <;> rfl
@[simp] theorem State.setSprout_ports : (s.setSprout d x).ports = s.ports := by unfold State.setSprout; split <;> rfl
@[simp] theorem State.setSprout_qpairs : (s.setSprout d x).qpairs = s.qpairs := by unfold State.setSprout; split <;> rfl
@[simp] theorem State.setSprout_roceDrops : (s.setSprout d x).roceDrops = s.roceDrops := by unfold State.setSprout; split <;> rfl
@[simp] theorem State.setSprout_roceRecv : (s.setSprout d x).roceRecv = s.roceRecv := by unfold State.setSprout; split <;> rfl
@[simp] theorem State.setSprout_eth : (s.setSprout d x).eth = s.eth := by unfold State.setSprout; split <;> rfl
@[simp] theorem State.setSprout_answers : (s.setSprout d x).answers = s.answers := by unfold State.setSprout; split <;> rfl
@[simp] theorem State.setSprout_sinks : (s.setSprout d x).sinks = s.sinks := by unfold State.setSprout; split <;> rfl
@[simp] theorem State.setSprout_hostMem : (s.setSprout d x).hostMem = s.hostMem := by unfold State.setSprout; split <;> rfl
@[simp] theorem State.setSprout_refusing : (s.setSprout d x).refusing = s.refusing := by unfold State.setSprout; split <;> rfl
@[simp] theorem State.setSprout_keys : (s.setSprout d x).keys = s.keys := by unfold State.setSprout; split <;> rfl
@[simp] theorem State.setSprout_outbox : (s.setSprout d x).outbox = s.outbox := by unfold State.setSprout; split <;> rfl
@[simp] theorem State.setSprout_bord : (s.setSprout d x).bord = s.bord := by unfold State.setSprout; split <;> rfl
@[simp] theorem State.setSprout_wsel : (s.setSprout d x).wsel = s.wsel := by unfold State.setSprout; split <;> rfl
@[simp] theorem State.setSprout_load : (s.setSprout d x).load = s.load := by unfold State.setSprout; split <;> rfl
@[simp] theorem State.setSprout_sealingKeys : (s.setSprout d x).sealingKeys = s.sealingKeys := by unfold State.setSprout; split <;> rfl
@[simp] theorem State.setSprout_sealRefusals : (s.setSprout d x).sealRefusals = s.sealRefusals := by unfold State.setSprout; split <;> rfl
@[simp] theorem State.setSprout_launches : (s.setSprout d x).launches = s.launches := by unfold State.setSprout; split <;> rfl
@[simp] theorem State.setSprout_head : (s.setSprout d x).head = s.head := by unfold State.setSprout; split <;> rfl
@[simp] theorem State.setSprout_headPtr : (s.setSprout d x).headPtr = s.headPtr := by unfold State.setSprout; split <;> rfl
@[simp] theorem State.setSprout_history : (s.setSprout d x).history = s.history := by unfold State.setSprout; split <;> rfl
@[simp] theorem State.setSprout_clock : (s.setSprout d x).clock = s.clock := by unfold State.setSprout; split <;> rfl
@[simp] theorem State.setSprout_orders : (s.setSprout d x).orders = s.orders := by unfold State.setSprout; split <;> rfl
@[simp] theorem State.setSprout_placed : (s.setSprout d x).placed = s.placed := by unfold State.setSprout; split <;> rfl
@[simp] theorem State.setSprout_armings : (s.setSprout d x).armings = s.armings := by unfold State.setSprout; split <;> rfl
@[simp] theorem State.setSprout_seqs : (s.setSprout d x).seqs = s.seqs := by unfold State.setSprout; split <;> rfl
@[simp] theorem State.setSprout_barriers : (s.setSprout d x).barriers = s.barriers := by unfold State.setSprout; split <;> rfl
@[simp] theorem State.setSprout_trellis : (s.setSprout d x).trellis = s.trellis := by unfold State.setSprout; split <;> rfl
@[simp] theorem State.setSprout_leaves : (s.setSprout d x).leaves = s.leaves := by unfold State.setSprout; split <;> rfl
@[simp] theorem State.setSprout_portPrunes : (s.setSprout d x).portPrunes = s.portPrunes := by unfold State.setSprout; split <;> rfl
@[simp] theorem State.setSprout_portDrops : (s.setSprout d x).portDrops = s.portDrops := by unfold State.setSprout; split <;> rfl
@[simp] theorem State.setSprout_arrivals : (s.setSprout d x).arrivals = s.arrivals := by unfold State.setSprout; split <;> rfl
@[simp] theorem State.setSprout_chans : (s.setSprout d x).chans = s.chans := by unfold State.setSprout; split <;> rfl
@[simp] theorem State.setSprout_plots : (s.setSprout d x).plots = s.plots := by unfold State.setSprout; split <;> rfl
@[simp] theorem State.setSprout_elems : (s.setSprout d x).elems = s.elems := by unfold State.setSprout; split <;> rfl
@[simp] theorem State.setSprout_foragers : (s.setSprout d x).foragers = s.foragers := by unfold State.setSprout; split <;> rfl
@[simp] theorem State.setSprout_arrays : (s.setSprout d x).arrays = s.arrays := by unfold State.setSprout; split <;> rfl
@[simp] theorem State.setSprout_nodes : (s.setSprout d x).nodes = s.nodes := by unfold State.setSprout; split <;> rfl
@[simp] theorem State.setSprout_cores : (s.setSprout d x).cores = s.cores := by unfold State.setSprout; split <;> rfl
@[simp] theorem State.setSprout_engines : (s.setSprout d x).engines = s.engines := by unfold State.setSprout; split <;> rfl
@[simp] theorem State.setSprout_profiles : (s.setSprout d x).profiles = s.profiles := by unfold State.setSprout; split <;> rfl
@[simp] theorem State.setSprout_cuts : (s.setSprout d x).cuts = s.cuts := by unfold State.setSprout; split <;> rfl
@[simp] theorem State.setSprout_grafts : (s.setSprout d x).grafts = s.grafts := by unfold State.setSprout; split <;> rfl
@[simp] theorem State.setSprout_dormants : (s.setSprout d x).dormants = s.dormants := by unfold State.setSprout; split <;> rfl
@[simp] theorem State.setSprout_dbp : (s.setSprout d x).dbp = s.dbp := by unfold State.setSprout; split <;> rfl
@[simp] theorem State.setSprout_bpPending : (s.setSprout d x).bpPending = s.bpPending := by unfold State.setSprout; split <;> rfl
@[simp] theorem State.setSprout_samples : (s.setSprout d x).samples = s.samples := by unfold State.setSprout; split <;> rfl
@[simp] theorem State.setSprout_frost : (s.setSprout d x).frost = s.frost := by unfold State.setSprout; split <;> rfl
@[simp] theorem State.setSprout_replays : (s.setSprout d x).replays = s.replays := by unfold State.setSprout; split <;> rfl
@[simp] theorem State.setSprout_armed : (s.setSprout d x).armed = s.armed := by unfold State.setSprout; split <;> rfl
@[simp] theorem State.setSprout_dump : (s.setSprout d x).dump = s.dump := by unfold State.setSprout; split <;> rfl
@[simp] theorem State.setSprout_fatals : (s.setSprout d x).fatals = s.fatals := by unfold State.setSprout; split <;> rfl
@[simp] theorem State.setSprout_ecc : (s.setSprout d x).ecc = s.ecc := by unfold State.setSprout; split <;> rfl
@[simp] theorem State.setSprout_hangLimit : (s.setSprout d x).hangLimit = s.hangLimit := by unfold State.setSprout; split <;> rfl
end

section
variable (s : State) (d : Nat) (q : GraphSeq)
open State
@[simp] theorem State.setSeq_agenda : (s.setSeq d q).agenda = s.agenda := by unfold State.setSeq; split <;> rfl
@[simp] theorem State.setSeq_focus : (s.setSeq d q).focus = s.focus := by unfold State.setSeq; split <;> rfl
@[simp] theorem State.setSeq_firing : (s.setSeq d q).firing = s.firing := by unfold State.setSeq; split <;> rfl
@[simp] theorem State.setSeq_fresh : (s.setSeq d q).fresh = s.fresh := by unfold State.setSeq; split <;> rfl
@[simp] theorem State.setSeq_mem : (s.setSeq d q).mem = s.mem := by unfold State.setSeq; split <;> rfl
@[simp] theorem State.setSeq_side : (s.setSeq d q).side = s.side := by unfold State.setSeq; split <;> rfl
@[simp] theorem State.setSeq_deferred : (s.setSeq d q).deferred = s.deferred := by unfold State.setSeq; split <;> rfl
@[simp] theorem State.setSeq_held : (s.setSeq d q).held = s.held := by unfold State.setSeq; split <;> rfl
@[simp] theorem State.setSeq_older : (s.setSeq d q).older = s.older := by unfold State.setSeq; split <;> rfl
@[simp] theorem State.setSeq_tlb : (s.setSeq d q).tlb = s.tlb := by unfold State.setSeq; split <;> rfl
@[simp] theorem State.setSeq_tlb2 : (s.setSeq d q).tlb2 = s.tlb2 := by unfold State.setSeq; split <;> rfl
@[simp] theorem State.setSeq_ptbase : (s.setSeq d q).ptbase = s.ptbase := by unfold State.setSeq; split <;> rfl
@[simp] theorem State.setSeq_powered : (s.setSeq d q).powered = s.powered := by unfold State.setSeq; split <;> rfl
@[simp] theorem State.setSeq_inReset : (s.setSeq d q).inReset = s.inReset := by unfold State.setSeq; split <;> rfl
@[simp] theorem State.setSeq_supplyOk : (s.setSeq d q).supplyOk = s.supplyOk := by unfold State.setSeq; split <;> rfl
@[simp] theorem State.setSeq_booted : (s.setSeq d q).booted = s.booted := by unfold State.setSeq; split <;> rfl
@[simp] theorem State.setSeq_fwImage : (s.setSeq d q).fwImage = s.fwImage := by unfold State.setSeq; split <;> rfl
@[simp] theorem State.setSeq_fwKey : (s.setSeq d q).fwKey = s.fwKey := by unfold State.setSeq; split <;> rfl
@[simp] theorem State.setSeq_fwSig : (s.setSeq d q).fwSig = s.fwSig := by unfold State.setSeq; split <;> rfl
@[simp] theorem State.setSeq_latched : (s.setSeq d q).latched = s.latched := by unfold State.setSeq; split <;> rfl
@[simp] theorem State.setSeq_dies : (s.setSeq d q).dies = s.dies := by unfold State.setSeq; split <;> rfl
@[simp] theorem State.setSeq_pmap : (s.setSeq d q).pmap = s.pmap := by unfold State.setSeq; split <;> rfl
@[simp] theorem State.setSeq_buckets : (s.setSeq d q).buckets = s.buckets := by unfold State.setSeq; split <;> rfl
@[simp] theorem State.setSeq_stale : (s.setSeq d q).stale = s.stale := by unfold State.setSeq; split <;> rfl
@[simp] theorem State.setSeq_ports : (s.setSeq d q).ports = s.ports := by unfold State.setSeq; split <;> rfl
@[simp] theorem State.setSeq_qpairs : (s.setSeq d q).qpairs = s.qpairs := by unfold State.setSeq; split <;> rfl
@[simp] theorem State.setSeq_roceDrops : (s.setSeq d q).roceDrops = s.roceDrops := by unfold State.setSeq; split <;> rfl
@[simp] theorem State.setSeq_roceRecv : (s.setSeq d q).roceRecv = s.roceRecv := by unfold State.setSeq; split <;> rfl
@[simp] theorem State.setSeq_eth : (s.setSeq d q).eth = s.eth := by unfold State.setSeq; split <;> rfl
@[simp] theorem State.setSeq_answers : (s.setSeq d q).answers = s.answers := by unfold State.setSeq; split <;> rfl
@[simp] theorem State.setSeq_sinks : (s.setSeq d q).sinks = s.sinks := by unfold State.setSeq; split <;> rfl
@[simp] theorem State.setSeq_hostMem : (s.setSeq d q).hostMem = s.hostMem := by unfold State.setSeq; split <;> rfl
@[simp] theorem State.setSeq_refusing : (s.setSeq d q).refusing = s.refusing := by unfold State.setSeq; split <;> rfl
@[simp] theorem State.setSeq_keys : (s.setSeq d q).keys = s.keys := by unfold State.setSeq; split <;> rfl
@[simp] theorem State.setSeq_outbox : (s.setSeq d q).outbox = s.outbox := by unfold State.setSeq; split <;> rfl
@[simp] theorem State.setSeq_bord : (s.setSeq d q).bord = s.bord := by unfold State.setSeq; split <;> rfl
@[simp] theorem State.setSeq_wsel : (s.setSeq d q).wsel = s.wsel := by unfold State.setSeq; split <;> rfl
@[simp] theorem State.setSeq_load : (s.setSeq d q).load = s.load := by unfold State.setSeq; split <;> rfl
@[simp] theorem State.setSeq_sealingKeys : (s.setSeq d q).sealingKeys = s.sealingKeys := by unfold State.setSeq; split <;> rfl
@[simp] theorem State.setSeq_sealRefusals : (s.setSeq d q).sealRefusals = s.sealRefusals := by unfold State.setSeq; split <;> rfl
@[simp] theorem State.setSeq_launches : (s.setSeq d q).launches = s.launches := by unfold State.setSeq; split <;> rfl
@[simp] theorem State.setSeq_head : (s.setSeq d q).head = s.head := by unfold State.setSeq; split <;> rfl
@[simp] theorem State.setSeq_headPtr : (s.setSeq d q).headPtr = s.headPtr := by unfold State.setSeq; split <;> rfl
@[simp] theorem State.setSeq_history : (s.setSeq d q).history = s.history := by unfold State.setSeq; split <;> rfl
@[simp] theorem State.setSeq_clock : (s.setSeq d q).clock = s.clock := by unfold State.setSeq; split <;> rfl
@[simp] theorem State.setSeq_orders : (s.setSeq d q).orders = s.orders := by unfold State.setSeq; split <;> rfl
@[simp] theorem State.setSeq_placed : (s.setSeq d q).placed = s.placed := by unfold State.setSeq; split <;> rfl
@[simp] theorem State.setSeq_armings : (s.setSeq d q).armings = s.armings := by unfold State.setSeq; split <;> rfl
@[simp] theorem State.setSeq_barriers : (s.setSeq d q).barriers = s.barriers := by unfold State.setSeq; split <;> rfl
@[simp] theorem State.setSeq_trellis : (s.setSeq d q).trellis = s.trellis := by unfold State.setSeq; split <;> rfl
@[simp] theorem State.setSeq_leaves : (s.setSeq d q).leaves = s.leaves := by unfold State.setSeq; split <;> rfl
@[simp] theorem State.setSeq_sprouts : (s.setSeq d q).sprouts = s.sprouts := by unfold State.setSeq; split <;> rfl
@[simp] theorem State.setSeq_portPrunes : (s.setSeq d q).portPrunes = s.portPrunes := by unfold State.setSeq; split <;> rfl
@[simp] theorem State.setSeq_portDrops : (s.setSeq d q).portDrops = s.portDrops := by unfold State.setSeq; split <;> rfl
@[simp] theorem State.setSeq_arrivals : (s.setSeq d q).arrivals = s.arrivals := by unfold State.setSeq; split <;> rfl
@[simp] theorem State.setSeq_chans : (s.setSeq d q).chans = s.chans := by unfold State.setSeq; split <;> rfl
@[simp] theorem State.setSeq_plots : (s.setSeq d q).plots = s.plots := by unfold State.setSeq; split <;> rfl
@[simp] theorem State.setSeq_elems : (s.setSeq d q).elems = s.elems := by unfold State.setSeq; split <;> rfl
@[simp] theorem State.setSeq_foragers : (s.setSeq d q).foragers = s.foragers := by unfold State.setSeq; split <;> rfl
@[simp] theorem State.setSeq_arrays : (s.setSeq d q).arrays = s.arrays := by unfold State.setSeq; split <;> rfl
@[simp] theorem State.setSeq_nodes : (s.setSeq d q).nodes = s.nodes := by unfold State.setSeq; split <;> rfl
@[simp] theorem State.setSeq_cores : (s.setSeq d q).cores = s.cores := by unfold State.setSeq; split <;> rfl
@[simp] theorem State.setSeq_engines : (s.setSeq d q).engines = s.engines := by unfold State.setSeq; split <;> rfl
@[simp] theorem State.setSeq_profiles : (s.setSeq d q).profiles = s.profiles := by unfold State.setSeq; split <;> rfl
@[simp] theorem State.setSeq_cuts : (s.setSeq d q).cuts = s.cuts := by unfold State.setSeq; split <;> rfl
@[simp] theorem State.setSeq_grafts : (s.setSeq d q).grafts = s.grafts := by unfold State.setSeq; split <;> rfl
@[simp] theorem State.setSeq_dormants : (s.setSeq d q).dormants = s.dormants := by unfold State.setSeq; split <;> rfl
@[simp] theorem State.setSeq_dbp : (s.setSeq d q).dbp = s.dbp := by unfold State.setSeq; split <;> rfl
@[simp] theorem State.setSeq_bpPending : (s.setSeq d q).bpPending = s.bpPending := by unfold State.setSeq; split <;> rfl
@[simp] theorem State.setSeq_samples : (s.setSeq d q).samples = s.samples := by unfold State.setSeq; split <;> rfl
@[simp] theorem State.setSeq_frost : (s.setSeq d q).frost = s.frost := by unfold State.setSeq; split <;> rfl
@[simp] theorem State.setSeq_replays : (s.setSeq d q).replays = s.replays := by unfold State.setSeq; split <;> rfl
@[simp] theorem State.setSeq_armed : (s.setSeq d q).armed = s.armed := by unfold State.setSeq; split <;> rfl
@[simp] theorem State.setSeq_dump : (s.setSeq d q).dump = s.dump := by unfold State.setSeq; split <;> rfl
@[simp] theorem State.setSeq_fatals : (s.setSeq d q).fatals = s.fatals := by unfold State.setSeq; split <;> rfl
@[simp] theorem State.setSeq_ecc : (s.setSeq d q).ecc = s.ecc := by unfold State.setSeq; split <;> rfl
@[simp] theorem State.setSeq_hangLimit : (s.setSeq d q).hangLimit = s.hangLimit := by unfold State.setSeq; split <;> rfl
end

/-! ### What a read after an update gives -/

@[simp] theorem State.setCore_core (s : State) (c : CoreRef) (p : PageCore) : (s.setCore c p).core c = p := by
  simp [State.core, State.setCore]
theorem State.setCore_core_of_ne (s : State) {c d : CoreRef} (h : d ≠ c) (p : PageCore) : (s.setCore c p).core d = s.core d := by
  simp [State.core, State.setCore, kget_kset_of_ne h]
@[simp] theorem State.mapCore_core (s : State) (c : CoreRef) (f : PageCore → PageCore) : (s.mapCore c f).core c = f (s.core c) := by
  simp [State.mapCore]
theorem State.mapCore_core_of_ne (s : State) {c d : CoreRef} (h : d ≠ c) (f : PageCore → PageCore) : (s.mapCore c f).core d = s.core d := by
  simp [State.mapCore, State.setCore_core_of_ne s h]
@[simp] theorem State.putBlock_core (s : State) (c : CoreRef) (i : Nat) (b : Block) :
    (s.putBlock c i b).core c = (s.core c).setBlock i b := by simp [State.putBlock]

/-- An update of a launch that keeps its record is found under the same LID. -/
theorem State.mapLaunch_launch (s : State) (n : Nat) (f : Launch → Launch) (h : ∀ l, (f l).record = l.record) (m : Nat) :
    (s.mapLaunch n f).launch m = (s.launch m).map (fun l => if m = n then f l else l) := by
  have hl : ∀ l : Launch, (f l).lid = l.lid := fun l => by simp [Launch.lid, Launch.field, h]
  have hp : ((fun l : Launch => l.lid == m) ∘ fun l => if l.lid = n then f l else l) = fun l => l.lid == m := by
    funext l
    by_cases h : l.lid = n
    · simp [if_pos h, hl]
    · simp [if_neg h]
  simp only [State.launch, State.mapLaunch, List.find?_map, hp]
  cases he : s.launches.find? (fun l => l.lid == m) with
  | none => rfl
  | some l =>
    have hm : l.lid = m := by simpa using List.find?_some he
    simp [hm]

/-- The first cause of an ending stands. -/
theorem State.endWith_launch (s : State) (n : Nat) (e : EndRec) (m : Nat) :
    (s.endWith n e).launch m =
      (s.launch m).map (fun l => if m = n then (if l.ending.isNone then { l with ending := some e } else l) else l) := by
  unfold State.endWith
  exact s.mapLaunch_launch n _ (fun l => by split <;> rfl) m

end Sys2Proof.Machine
end

