-- ==== Sys2Proof/Laws/Memory.lean ====
section
/-! SUPPORT. Sparse tables: what a read after a write gives, and that every write keeps the one canonical form. -/
namespace Sys2Proof.Machine

section
variable {β : Type} [DecidableEq β] {d : β}

theorem cellWfFrom_mono : ∀ {r : List (Nat × β)} {x y : Nat}, x ≤ y → cellWfFrom d y r → cellWfFrom d x r
  | [], _, _, _, _ => rfl
  | (b, w) :: r, x, y, hxy, h => by
    simp only [cellWfFrom, Bool.and_eq_true, decide_eq_true_eq] at h ⊢
    exact ⟨⟨by omega, h.1.2⟩, h.2⟩

theorem cellGet_below : ∀ {r : List (Nat × β)} {lo a : Nat}, cellWfFrom d lo r → a < lo → cellGet d a r = d
  | [], _, _, _, _ => rfl
  | (b, w) :: r, lo, a, h, hl => by
    simp only [cellWfFrom, Bool.and_eq_true, decide_eq_true_eq] at h
    rw [cellGet, if_neg (by omega)]
    exact cellGet_below h.2 (by omega)

theorem cellGet_set_same (a : Nat) (v : β) : ∀ {l : List (Nat × β)} {lo : Nat}, cellWfFrom d lo l → cellGet d a (cellSet d a v l) = v
  | [], lo, _ => by by_cases h : v = d <;> simp [cellSet, cellGet, h]
  | (b, w) :: r, lo, h => by
    simp only [cellWfFrom, Bool.and_eq_true, decide_eq_true_eq] at h
    unfold cellSet
    split
    · split
      · subst v; rw [cellGet, if_neg (by omega)]; exact cellGet_below h.2 (by omega)
      · simp [cellGet]
    · split
      · split
        · subst v; exact cellGet_below h.2 (by omega)
        · simp [cellGet]
      · rw [cellGet, if_neg (by omega)]; exact cellGet_set_same a v h.2

theorem cellGet_set_of_ne {a x : Nat} (hx : x ≠ a) (v : β) : ∀ {l : List (Nat × β)} {lo : Nat}, cellWfFrom d lo l →
    cellGet d x (cellSet d a v l) = cellGet d x l
  | [], lo, _ => by by_cases h : v = d <;> simp [cellSet, cellGet, h, hx]
  | (b, w) :: r, lo, h => by
    simp only [cellWfFrom, Bool.and_eq_true, decide_eq_true_eq] at h
    unfold cellSet
    split
    · split <;> simp [cellGet, hx]
    · split
      · subst a
        split
        · rw [cellGet, if_neg hx]
        · simp [cellGet, hx]
      · simp only [cellGet]; rw [cellGet_set_of_ne hx v h.2]

theorem cellSet_wf (a : Nat) (v : β) : ∀ {l : List (Nat × β)} {lo : Nat}, lo ≤ a → cellWfFrom d lo l → cellWfFrom d lo (cellSet d a v l)
  | [], lo, hl, _ => by by_cases h : v = d <;> simp [cellSet, cellWfFrom, h, hl]
  | (b, w) :: r, lo, hl, h => by
    simp only [cellWfFrom, Bool.and_eq_true, decide_eq_true_eq] at h
    unfold cellSet
    split
    · split
      · simp [cellWfFrom, h.1, h.2]
      · simp [cellWfFrom, h.1, h.2, *]
    · split
      · split
        · exact cellWfFrom_mono (by omega) h.2
        · subst a; simp [cellWfFrom, h.1, h.2, *]
      · simp only [cellWfFrom, h.1, Bool.and_eq_true, decide_eq_true_eq, true_and]
        exact ⟨h.1.2, cellSet_wf a v (by omega) h.2⟩
end

/-! ### Memory -/

theorem Memory.write_wf {m : Memory} (a : Nat) (v : Byte) (h : Memory.wf m) : Memory.wf (m.write a v) := cellSet_wf a v (Nat.zero_le a) h
theorem Memory.read_write_same {m : Memory} (a : Nat) (v : Byte) (h : Memory.wf m) : (m.write a v).read a = v := cellGet_set_same a v h
theorem Memory.read_write_of_ne {m : Memory} {a x : Nat} (hx : x ≠ a) (v : Byte) (h : Memory.wf m) : (m.write a v).read x = m.read x :=
  cellGet_set_of_ne hx v h

theorem Memory.writeN_wf : ∀ (bs : List Byte) {m : Memory} (a : Nat), Memory.wf m → Memory.wf (m.writeN a bs)
  | [], _, _, h => h
  | b :: bs, _, a, h => writeN_wf bs (a + 1) (write_wf a b h)

/-- A read after a write of several bytes gives those bytes, and every other byte as before. -/
theorem Memory.read_writeN : ∀ (bs : List Byte) {m : Memory} (a x : Nat), Memory.wf m →
    (m.writeN a bs).read x = if a ≤ x ∧ x < a + bs.length then bs.getD (x - a) 0 else m.read x
  | [], _, a, x, _ => by rw [if_neg (by simp)]; rfl
  | b :: bs, m, a, x, h => by
    rw [writeN, read_writeN bs (a + 1) x (write_wf a b h), List.length_cons]
    by_cases hx : x = a
    · subst hx
      rw [if_neg (by omega), if_pos (by omega), read_write_same x b h, Nat.sub_self]; rfl
    · rw [read_write_of_ne hx b h]
      by_cases hr : a + 1 ≤ x ∧ x < a + 1 + bs.length
      · rw [if_pos hr, if_pos (by omega), show x - a = (x - (a + 1)) + 1 by omega]; rfl
      · rw [if_neg hr, if_neg (by omega)]

theorem reset_mem_wf : Memory.wf State.reset.mem := rfl

end Sys2Proof.Machine
end

