-- ==== Sys2Proof/Laws/Sound.lean ====
section
/-! SUPPORT. Every operation keeps the invariant State.sound: the canonical form of the sparse tables, and what is legal in every page core
(RMODE, SSTAT, the number of blocks in flight). One lemma per operation, with the operation's name. -/
open Sys2Proof
namespace Sys2Proof.Machine

theorem State.sound.split {s : State} (h : s.sound) : soundOf s.mem s.side s.buckets s.stale s.cores s.dormants := h

theorem PageCore.legal.split {p : PageCore} (h : p.legal) : legalOf p.rmode p.sstat p.blocks.length := h

theorem State.sound_mk {agenda focus firing fresh mem side deferred held older tlb tlb2 ptbase powered inReset supplyOk booted fwImage fwKey fwSig latched dies pmap buckets stale ports qpairs roceDrops roceRecv eth answers sinks hostMem refusing keys outbox bord wsel load sealingKeys sealRefusals launches head headPtr history clock orders placed armings seqs barriers trellis leaves sprouts portPrunes portDrops arrivals chans plots elems foragers arrays nodes cores engines profiles cuts grafts dormants dbp bpPending samples frost replays armed dump fatals ecc hangLimit} :
  (State.mk agenda focus firing fresh mem side deferred held older tlb tlb2 ptbase powered inReset supplyOk booted fwImage fwKey fwSig latched dies pmap buckets stale ports qpairs roceDrops roceRecv eth answers sinks hostMem refusing keys outbox bord wsel load sealingKeys sealRefusals launches head headPtr history clock orders placed armings seqs barriers trellis leaves sprouts portPrunes portDrops arrivals chans plots elems foragers arrays nodes cores engines profiles cuts grafts dormants dbp bpPending samples frost replays armed dump fatals ecc hangLimit).sound = soundOf mem side buckets stale cores dormants := rfl

theorem foldl_sound {α : Type} {l : List α} {f : State → α → State} {s : State} (h : s.sound) (hf : ∀ s x, s.sound → (f s x).sound) :
    (l.foldl f s).sound := by
  induction l generalizing s with
  | nil => exact h
  | cons a r ih => exact ih (hf s a h)

theorem PageCore.legal_mk {g nextAddr rmode fstat tsh seqReg genReg posReg lseed ckpta tvec tcause tval epc sstat blocks uid deferred heldTrap retPred noProgress tiles src sink sinkSeg srcCtx sinkCtx accs streams responses engResp engOut serial fences holds barSeen posted tileQ opSeq} :
  (PageCore.mk g nextAddr rmode fstat tsh seqReg genReg posReg lseed ckpta tvec tcause tval epc sstat blocks uid deferred heldTrap retPred noProgress tiles src sink sinkSeg srcCtx sinkCtx accs streams responses engResp engOut serial fences holds barSeen posted tileQ opSeq).legal = legalOf rmode sstat blocks.length := rfl

theorem foldl_legal {α : Type} {l : List α} {f : PageCore → α → PageCore} {p : PageCore} (h : p.legal) (hf : ∀ p x, p.legal → (f p x).legal) :
    (l.foldl f p).legal := by
  induction l generalizing p with
  | nil => exact h
  | cons a r ih => exact ih (hf p a h)

theorem reset_legal : PageCore.reset.legal := ⟨by decide, by decide, by decide⟩

theorem kget_mem {α β : Type} [DecidableEq α] {k : α} {v : β} : ∀ {l : List (α × β)}, kget k l = some v → (k, v) ∈ l
  | [], h => by cases h
  | (a, b) :: r, h => by
    unfold kget at h
    split at h
    · cases h; subst k; exact List.mem_cons_self
    · exact List.mem_cons_of_mem _ (kget_mem h)

theorem kset_mem {α β : Type} [DecidableEq α] {k : α} {v : β} {e : α × β} : ∀ {l : List (α × β)}, e ∈ kset k v l → e = (k, v) ∨ e ∈ l
  | [], h => .inl (by simpa [kset] using h)
  | (a, b) :: r, h => by
    unfold kset at h
    split at h
    · obtain h | h := List.mem_cons.mp h
      · exact .inl h
      · exact .inr (List.mem_cons_of_mem _ h)
    · obtain h | h := List.mem_cons.mp h
      · exact .inr (h ▸ List.mem_cons_self)
      · exact (kset_mem h).imp_right (List.mem_cons_of_mem _)

theorem State.core_legal {s : State} (h : s.sound) (c : CoreRef) : (s.core c).legal := by
  unfold State.core
  cases hk : kget c s.cores with
  | none => exact reset_legal
  | some p => exact h.1 _ (kget_mem hk)

theorem foldl_fst_sound {α β : Type} {l : List α} {f : State × β → α → State × β} {a : State × β} (h : a.1.sound)
    (hf : ∀ a x, a.1.sound → (f a x).1.sound) : (l.foldl f a).1.sound := by
  induction l generalizing a with
  | nil => exact h
  | cons x r ih => exact ih (hf a x h)

theorem getD_sound {o : Option State} {s : State} (ho : ∀ t, o = some t → t.sound) (h : s.sound) : (o.getD s).sound := by
  cases o with
  | none => exact h
  | some t => exact ho t rfl

theorem sound_reset : State.reset.sound := ⟨fun _ h => (List.not_mem_nil h).elim, fun _ h => (List.not_mem_nil h).elim, rfl, rfl, rfl, rfl⟩

theorem State.updPort_sound {s : State} (hc : s.sound) (n : ℕ) (f : VPort → VPort) : (State.updPort s n f).sound := by
  unfold State.updPort
  repeat' (with_reducible first | assumption | dsimp only | exact sound_reset | intro sp | refine foldl_fst_sound ?_ (fun a x hx => ?_) | refine getD_sound (fun t ht => ?_) ?_ | refine foldl_sound ?_ (fun s x hx => ?_) | apply State.core_legal | exact reset_legal | refine foldl_legal ?_ (fun p x hx => ?_) | (simp only [State.sound_mk]; apply State.sound.split) | (intro p hp) | split)

theorem State.send_sound {s : State} (hc : s.sound) (x : Sent) : (State.send s x).sound := by
  unfold State.send
  repeat' (with_reducible first | assumption | dsimp only | exact sound_reset | intro sp | refine foldl_fst_sound ?_ (fun a x hx => ?_) | refine getD_sound (fun t ht => ?_) ?_ | refine foldl_sound ?_ (fun s x hx => ?_) | apply State.core_legal | exact reset_legal | refine foldl_legal ?_ (fun p x hx => ?_) | (simp only [State.sound_mk]; apply State.sound.split))

theorem State.putFlit_sound {s : State} (hc : s.sound) (port : ℕ) (dst : ℕ) (vc : ℕ) (type : ℕ) (nak : Bool) (payload : List Byte) : (State.putFlit s port dst vc type nak payload).sound := by
  unfold State.putFlit
  repeat' (with_reducible first | assumption | dsimp only | exact sound_reset | intro sp | apply State.send_sound | apply State.updPort_sound)

theorem State.useFree_sound {s : State} (hc : s.sound) (n : ℕ) : (State.useFree s n).sound := by
  unfold State.useFree
  repeat' (with_reducible first | assumption | dsimp only | exact sound_reset | intro sp | refine foldl_fst_sound ?_ (fun a x hx => ?_) | refine getD_sound (fun t ht => ?_) ?_ | refine foldl_sound ?_ (fun s x hx => ?_) | apply State.core_legal | exact reset_legal | refine foldl_legal ?_ (fun p x hx => ?_) | (simp only [State.sound_mk]; apply State.sound.split))

theorem State.sendFlit_sound {s : State} (hc : s.sound) (port : ℕ) (dst : ℕ) (vc : ℕ) (type : ℕ) (payload : List Byte) : (State.sendFlit s port dst vc type payload).sound := by
  unfold State.sendFlit
  repeat' (with_reducible first | assumption | dsimp only | exact sound_reset | intro sp | apply State.updPort_sound | apply State.putFlit_sound | apply State.useFree_sound | refine foldl_fst_sound ?_ (fun a x hx => ?_) | refine getD_sound (fun t ht => ?_) ?_ | refine foldl_sound ?_ (fun s x hx => ?_) | apply State.core_legal | exact reset_legal | refine foldl_legal ?_ (fun p x hx => ?_) | (intro p hp) | split)

theorem State.tell_sound {s : State} (hc : s.sound) (port : ℕ) (node : ℕ) (vc : ℕ) (code : ℕ) (tag : ℕ) (body : List Byte) : (State.tell s port node vc code tag body).sound := by
  unfold State.tell
  repeat' (with_reducible first | assumption | dsimp only | exact sound_reset | intro sp | apply State.sendFlit_sound | refine foldl_fst_sound ?_ (fun a x hx => ?_) | refine getD_sound (fun t ht => ?_) ?_ | refine foldl_sound ?_ (fun s x hx => ?_) | apply State.core_legal | exact reset_legal | refine foldl_legal ?_ (fun p x hx => ?_) | (intro p hp) | split)

theorem State.reply_sound {s : State} (hc : s.sound) (m : HostMsg) (code : ℕ) (body : List Byte) : (State.reply s m code body).sound := by
  unfold State.reply
  repeat' (with_reducible first | assumption | dsimp only | exact sound_reset | intro sp | apply State.tell_sound)

theorem State.result_sound {s : State} (hc : s.sound) (m : HostMsg) (status : ℕ) (bytes : ℕ) (value : ℕ) : (State.result s m status bytes value).sound := by
  unfold State.result
  repeat' (with_reducible first | assumption | dsimp only | exact sound_reset | intro sp | apply State.reply_sound)

theorem State.acked_sound {s : State} (hc : s.sound) (node : ℕ) : (State.acked s node).sound := by
  unfold State.acked
  repeat' (with_reducible first | assumption | dsimp only | exact sound_reset | intro sp | apply State.result_sound | refine foldl_fst_sound ?_ (fun a x hx => ?_) | refine getD_sound (fun t ht => ?_) ?_ | refine foldl_sound ?_ (fun s x hx => ?_) | apply State.core_legal | exact reset_legal | refine foldl_legal ?_ (fun p x hx => ?_) | (simp only [State.sound_mk]; apply State.sound.split) | (intro p hp) | split)

theorem State.lost_sound {s : State} (hc : s.sound) : (State.lost s).sound := by
  unfold State.lost
  repeat' (with_reducible first | assumption | dsimp only | exact sound_reset | intro sp | refine foldl_fst_sound ?_ (fun a x hx => ?_) | refine getD_sound (fun t ht => ?_) ?_ | refine foldl_sound ?_ (fun s x hx => ?_) | apply State.core_legal | exact reset_legal | refine foldl_legal ?_ (fun p x hx => ?_) | (simp only [State.sound_mk]; apply State.sound.split))

theorem State.trip_sound {s : State} (hc : s.sound) : (State.trip s).sound := by
  unfold State.trip
  repeat' (with_reducible first | assumption | dsimp only | exact sound_reset | intro sp | apply State.lost_sound | refine foldl_fst_sound ?_ (fun a x hx => ?_) | refine getD_sound (fun t ht => ?_) ?_ | refine foldl_sound ?_ (fun s x hx => ?_) | apply State.core_legal | exact reset_legal | refine foldl_legal ?_ (fun p x hx => ?_) | (simp only [State.sound_mk]; apply State.sound.split) | (intro p hp) | split)

theorem State.mapLaunch_sound {s : State} (hc : s.sound) (lid : ℕ) (f : Launch → Launch) : (State.mapLaunch s lid f).sound := by
  unfold State.mapLaunch
  repeat' (with_reducible first | assumption | dsimp only | exact sound_reset | intro sp | refine foldl_fst_sound ?_ (fun a x hx => ?_) | refine getD_sound (fun t ht => ?_) ?_ | refine foldl_sound ?_ (fun s x hx => ?_) | apply State.core_legal | exact reset_legal | refine foldl_legal ?_ (fun p x hx => ?_) | (simp only [State.sound_mk]; apply State.sound.split))

theorem State.endWith_sound {s : State} (hc : s.sound) (lid : ℕ) (e : EndRec) : (State.endWith s lid e).sound := by
  unfold State.endWith
  repeat' (with_reducible first | assumption | dsimp only | exact sound_reset | intro sp | apply State.mapLaunch_sound)

theorem State.closeLaunch_sound {s : State} (hc : s.sound) (lid : ℕ) : (State.closeLaunch s lid).sound := by
  unfold State.closeLaunch
  repeat' (with_reducible first | assumption | dsimp only | exact sound_reset | intro sp | apply State.endWith_sound | refine foldl_fst_sound ?_ (fun a x hx => ?_) | refine getD_sound (fun t ht => ?_) ?_ | refine foldl_sound ?_ (fun s x hx => ?_) | apply State.core_legal | exact reset_legal | refine foldl_legal ?_ (fun p x hx => ?_) | (intro p hp) | split)

theorem State.closeGroup_sound {s : State} (hc : s.sound) (lid : ℕ) (group : ℕ) : (State.closeGroup s lid group).sound := by
  unfold State.closeGroup
  repeat' (with_reducible first | assumption | dsimp only | exact sound_reset | intro sp | apply State.closeLaunch_sound | apply State.mapLaunch_sound | refine foldl_fst_sound ?_ (fun a x hx => ?_) | refine getD_sound (fun t ht => ?_) ?_ | refine foldl_sound ?_ (fun s x hx => ?_) | apply State.core_legal | exact reset_legal | refine foldl_legal ?_ (fun p x hx => ?_) | (intro p hp) | split)

theorem State.unplace_sound {s : State} (hc : s.sound) (lid : ℕ) : (State.unplace s lid).sound := by
  unfold State.unplace
  repeat' (with_reducible first | assumption | dsimp only | exact sound_reset | intro sp | refine foldl_fst_sound ?_ (fun a x hx => ?_) | refine getD_sound (fun t ht => ?_) ?_ | refine foldl_sound ?_ (fun s x hx => ?_) | apply State.core_legal | exact reset_legal | refine foldl_legal ?_ (fun p x hx => ?_) | (simp only [State.sound_mk]; apply State.sound.split))

theorem State.failLoad_sound {s : State} (hc : s.sound) (lid : ℕ) (e : EndRec) : (State.failLoad s lid e).sound := by
  unfold State.failLoad
  repeat' (with_reducible first | assumption | dsimp only | exact sound_reset | intro sp | apply State.endWith_sound | refine foldl_fst_sound ?_ (fun a x hx => ?_) | refine getD_sound (fun t ht => ?_) ?_ | refine foldl_sound ?_ (fun s x hx => ?_) | apply State.core_legal | exact reset_legal | refine foldl_legal ?_ (fun p x hx => ?_) | (simp only [State.sound_mk]; apply State.sound.split))

theorem State.begins_sound {s : State} (hc : s.sound) (lid : ℕ) : (State.begins s lid).sound := by
  unfold State.begins
  repeat' (with_reducible first | assumption | dsimp only | exact sound_reset | intro sp | apply State.mapLaunch_sound | refine foldl_fst_sound ?_ (fun a x hx => ?_) | refine getD_sound (fun t ht => ?_) ?_ | refine foldl_sound ?_ (fun s x hx => ?_) | apply State.core_legal | exact reset_legal | refine foldl_legal ?_ (fun p x hx => ?_) | (simp only [State.sound_mk]; apply State.sound.split))

theorem State.setQpair_sound {s : State} (hc : s.sound) (q : QPair) : (State.setQpair s q).sound := by
  unfold State.setQpair
  repeat' (with_reducible first | assumption | dsimp only | exact sound_reset | intro sp | refine foldl_fst_sound ?_ (fun a x hx => ?_) | refine getD_sound (fun t ht => ?_) ?_ | refine foldl_sound ?_ (fun s x hx => ?_) | apply State.core_legal | exact reset_legal | refine foldl_legal ?_ (fun p x hx => ?_) | (simp only [State.sound_mk]; apply State.sound.split))

theorem State.markSinks_sound {s : State} (hc : s.sound) (lid : ℕ) (m : Image) : (State.markSinks s lid m).sound := by
  unfold State.markSinks
  repeat' (with_reducible first | assumption | dsimp only | exact sound_reset | intro sp | apply State.setQpair_sound | refine foldl_fst_sound ?_ (fun a x hx => ?_) | refine getD_sound (fun t ht => ?_) ?_ | refine foldl_sound ?_ (fun s x hx => ?_) | apply State.core_legal | exact reset_legal | refine foldl_legal ?_ (fun p x hx => ?_) | (simp only [State.sound_mk]; apply State.sound.split) | (intro p hp) | split)

theorem State.seatNodes_sound {s : State} (hc : s.sound) (lid : ℕ) (pset : ℕ) (k : ℕ) : (State.seatNodes s lid pset k).sound := by
  unfold State.seatNodes
  repeat' (with_reducible first | assumption | dsimp only | exact sound_reset | intro sp | refine foldl_fst_sound ?_ (fun a x hx => ?_) | refine getD_sound (fun t ht => ?_) ?_ | refine foldl_sound ?_ (fun s x hx => ?_) | apply State.core_legal | exact reset_legal | refine foldl_legal ?_ (fun p x hx => ?_) | (simp only [State.sound_mk]; apply State.sound.split))

theorem State.setSprout_sound {s : State} (hc : s.sound) (d : ℕ) (x : Sprout) : (State.setSprout s d x).sound := by
  unfold State.setSprout
  repeat' (with_reducible first | assumption | dsimp only | exact sound_reset | intro sp | refine foldl_fst_sound ?_ (fun a x hx => ?_) | refine getD_sound (fun t ht => ?_) ?_ | refine foldl_sound ?_ (fun s x hx => ?_) | apply State.core_legal | exact reset_legal | refine foldl_legal ?_ (fun p x hx => ?_) | (simp only [State.sound_mk]; apply State.sound.split) | (intro p hp) | split)

theorem State.loadImage_sound {s : State} (hc : s.sound) (l : Launch) (m : Image) : (State.loadImage s l m).sound := by
  unfold State.loadImage
  repeat' (with_reducible first | assumption | dsimp only | exact sound_reset | intro sp | apply State.seatNodes_sound | apply State.setSprout_sound | refine foldl_fst_sound ?_ (fun a x hx => ?_) | refine getD_sound (fun t ht => ?_) ?_ | refine foldl_sound ?_ (fun s x hx => ?_) | apply State.core_legal | exact reset_legal | refine foldl_legal ?_ (fun p x hx => ?_) | (simp only [State.sound_mk]; apply State.sound.split))

theorem State.configure_sound {s : State} (hc : s.sound) : (State.configure s).sound := by
  unfold State.configure
  repeat' (with_reducible first | assumption | dsimp only | exact sound_reset | intro sp | apply State.unplace_sound | apply State.failLoad_sound | apply State.begins_sound | apply State.markSinks_sound | apply State.loadImage_sound | refine foldl_fst_sound ?_ (fun a x hx => ?_) | refine getD_sound (fun t ht => ?_) ?_ | refine foldl_sound ?_ (fun s x hx => ?_) | apply State.core_legal | exact reset_legal | refine foldl_legal ?_ (fun p x hx => ?_) | (intro p hp) | split)

theorem State.updChan_sound {s : State} (hc : s.sound) (i : ℕ) (f : Chan → Chan) : (State.updChan s i f).sound := by
  unfold State.updChan
  repeat' (with_reducible first | assumption | dsimp only | exact sound_reset | intro sp | refine foldl_fst_sound ?_ (fun a x hx => ?_) | refine getD_sound (fun t ht => ?_) ?_ | refine foldl_sound ?_ (fun s x hx => ?_) | apply State.core_legal | exact reset_legal | refine foldl_legal ?_ (fun p x hx => ?_) | (simp only [State.sound_mk]; apply State.sound.split))

theorem State.haltSome_sound {s : State} (hc : s.sound) (lid : ℕ) : (State.haltSome s lid).sound := by
  unfold State.haltSome
  repeat' (with_reducible first | assumption | dsimp only | exact sound_reset | intro sp | apply State.useFree_sound | refine foldl_fst_sound ?_ (fun a x hx => ?_) | refine getD_sound (fun t ht => ?_) ?_ | refine foldl_sound ?_ (fun s x hx => ?_) | apply State.core_legal | exact reset_legal | refine foldl_legal ?_ (fun p x hx => ?_) | (simp only [State.sound_mk]; apply State.sound.split))

theorem State.faultWith_sound {s : State} (hc : s.sound) (lid : ℕ) (e : EndRec) : (State.faultWith s lid e).sound := by
  unfold State.faultWith
  repeat' (with_reducible first | assumption | dsimp only | exact sound_reset | intro sp | apply State.mapLaunch_sound)

theorem State.nodeFault_sound {s : State} (hc : s.sound) (lid : ℕ) (die : ℕ) (code : ℕ) (fchan : ℕ) (ford : ℕ) : (State.nodeFault s lid die code fchan ford).sound := by
  unfold State.nodeFault
  repeat' (with_reducible first | assumption | dsimp only | exact sound_reset | intro sp | apply State.haltSome_sound | apply State.faultWith_sound)

theorem State.elemFault_sound {s : State} (hc : s.sound) (lid : ℕ) (pset : ℕ) (x : ℕ) (y : ℕ) (code : ℕ) (fchan : ℕ) (ford : ℕ) : (State.elemFault s lid pset x y code fchan ford).sound := by
  unfold State.elemFault
  repeat' (with_reducible first | assumption | dsimp only | exact sound_reset | intro sp | apply State.haltSome_sound | apply State.faultWith_sound)

theorem State.chanFault_sound {s : State} (hc : s.sound) (i : ℕ) (code : ℕ) (ord : ℕ) : (State.chanFault s i code ord).sound := by
  unfold State.chanFault
  repeat' (with_reducible first | assumption | dsimp only | exact sound_reset | intro sp | apply State.updChan_sound | apply State.nodeFault_sound | apply State.elemFault_sound | refine foldl_fst_sound ?_ (fun a x hx => ?_) | refine getD_sound (fun t ht => ?_) ?_ | refine foldl_sound ?_ (fun s x hx => ?_) | apply State.core_legal | exact reset_legal | refine foldl_legal ?_ (fun p x hx => ?_) | (intro p hp) | split)

theorem State.tellPipe_sound {s : State} (hc : s.sound) (node : ℕ) (m : PipeMsg) : (State.tellPipe s node m).sound := by
  unfold State.tellPipe
  repeat' (with_reducible first | assumption | dsimp only | exact sound_reset | intro sp | apply State.sendFlit_sound | apply State.send_sound | refine foldl_fst_sound ?_ (fun a x hx => ?_) | refine getD_sound (fun t ht => ?_) ?_ | refine foldl_sound ?_ (fun s x hx => ?_) | apply State.core_legal | exact reset_legal | refine foldl_legal ?_ (fun p x hx => ?_) | (intro p hp) | split)

theorem State.reportDrain_sound {s : State} (hc : s.sound) (lid : ℕ) (pset : ℕ) (lane : ℕ) (serial : ℕ) : (State.reportDrain s lid pset lane serial).sound := by
  unfold State.reportDrain
  repeat' (with_reducible first | assumption | dsimp only | exact sound_reset | intro sp | apply State.tellPipe_sound | apply State.setSprout_sound | refine foldl_fst_sound ?_ (fun a x hx => ?_) | refine getD_sound (fun t ht => ?_) ?_ | refine foldl_sound ?_ (fun s x hx => ?_) | apply State.core_legal | exact reset_legal | refine foldl_legal ?_ (fun p x hx => ?_) | (intro p hp) | split)

theorem State.handOver_sound {s : State} (hc : s.sound) (h : Chan) (b : Beat) : (State.handOver s h b).sound := by
  unfold State.handOver
  repeat' (with_reducible first | assumption | dsimp only | exact sound_reset | intro sp | refine foldl_fst_sound ?_ (fun a x hx => ?_) | refine getD_sound (fun t ht => ?_) ?_ | refine foldl_sound ?_ (fun s x hx => ?_) | apply State.core_legal | exact reset_legal | refine foldl_legal ?_ (fun p x hx => ?_) | (simp only [State.sound_mk]; apply State.sound.split))

theorem remoteGo_sound (port node chan : Nat) : ∀ (fuel : Nat) (bs : List Beat) {s : State}, s.sound → (remoteGo port node chan fuel bs s).sound
  | 0, _, _, h => h
  | _ + 1, [], _, h => h
  | fuel + 1, _ :: _, _, h => remoteGo_sound port node chan fuel _ (State.sendFlit_sound h _ _ _ _ _)

theorem State.sendRemote_sound {s : State} (hc : s.sound) (i : ℕ) : (State.sendRemote s i).sound := by
  unfold State.sendRemote
  repeat' (with_reducible first | assumption | dsimp only | exact sound_reset | intro sp | apply remoteGo_sound | apply State.updChan_sound | refine foldl_fst_sound ?_ (fun a x hx => ?_) | refine getD_sound (fun t ht => ?_) ?_ | refine foldl_sound ?_ (fun s x hx => ?_) | apply State.core_legal | exact reset_legal | refine foldl_legal ?_ (fun p x hx => ?_) | (intro p hp) | split)

theorem State.setCore_sound {s : State} (hc : s.sound) (c : CoreRef) {p : PageCore} (hp : p.legal) : (s.setCore c p).sound :=
  ⟨fun e he => (kset_mem he).elim (fun h => h ▸ hp) (hc.1 e), hc.2⟩

theorem State.mapCore_sound {s : State} (hc : s.sound) (c : CoreRef) {f : PageCore → PageCore} (hf : ∀ p, p.legal → (f p).legal) :
    (s.mapCore c f).sound := State.setCore_sound hc c (hf _ (State.core_legal hc c))

theorem State.setBucket_sound {s : State} (hc : s.sound) (die : ℕ) (port : ℕ) (b : Bucket) : (State.setBucket s die port b).sound := by
  exact ⟨hc.1, hc.2.1, hc.2.2.1, hc.2.2.2.1, cellSet_wf _ _ (Nat.zero_le _) hc.2.2.2.2.1, hc.2.2.2.2.2⟩

theorem State.charge_sound {s : State} (hc : s.sound) (h : Chan) : (State.charge s h).sound := by
  unfold State.charge
  repeat' (with_reducible first | assumption | dsimp only | exact sound_reset | intro sp | apply State.setBucket_sound | refine foldl_fst_sound ?_ (fun a x hx => ?_) | refine getD_sound (fun t ht => ?_) ?_ | refine foldl_sound ?_ (fun s x hx => ?_) | apply State.core_legal | exact reset_legal | refine foldl_legal ?_ (fun p x hx => ?_) | (intro p hp) | split)

theorem State.takeAt_sound {s : State} (hc : s.sound) (i : ℕ) (k : ℕ) : (State.takeAt s i k).sound := by
  unfold State.takeAt
  repeat' (with_reducible first | assumption | dsimp only | exact sound_reset | intro sp | apply State.updChan_sound | apply State.charge_sound | refine foldl_fst_sound ?_ (fun a x hx => ?_) | refine getD_sound (fun t ht => ?_) ?_ | refine foldl_sound ?_ (fun s x hx => ?_) | apply State.core_legal | exact reset_legal | refine foldl_legal ?_ (fun p x hx => ?_) | (simp only [State.sound_mk]; apply State.sound.split) | (intro p hp) | split)

theorem State.take_sound {s : State} (hc : s.sound) (i : ℕ) : (State.take s i).sound := by
  unfold State.take
  repeat' (with_reducible first | assumption | dsimp only | exact sound_reset | intro sp | apply State.takeAt_sound)

theorem PageCore.sinkTake_legal {p : PageCore} (hc : p.legal) (port : ℕ) (b : Beat) (fmt : ℕ) : (PageCore.sinkTake p port b fmt).legal := by
  unfold PageCore.sinkTake
  repeat' (with_reducible first | assumption | dsimp only | exact sound_reset | intro sp | refine foldl_fst_sound ?_ (fun a x hx => ?_) | refine getD_sound (fun t ht => ?_) ?_ | refine foldl_sound ?_ (fun s x hx => ?_) | apply State.core_legal | exact reset_legal | refine foldl_legal ?_ (fun p x hx => ?_) | (simp only [PageCore.legal_mk, List.length_map, setAt_length]; apply PageCore.legal.split) | (intro p hp) | split)

theorem fillSink_sound {s : State} (hc : s.sound) (i fuel : Nat) : (fillSink s i fuel).sound := by
  induction fuel generalizing s with
  | zero => exact hc
  | succ fuel ih =>
    unfold fillSink
    repeat' (with_reducible first | assumption | apply ih | dsimp only | exact sound_reset | intro sp | apply State.mapCore_sound | apply State.take_sound | apply PageCore.sinkTake_legal | refine foldl_fst_sound ?_ (fun a x hx => ?_) | refine getD_sound (fun t ht => ?_) ?_ | refine foldl_sound ?_ (fun s x hx => ?_) | apply State.core_legal | exact reset_legal | refine foldl_legal ?_ (fun p x hx => ?_) | (intro p hp) | split)

theorem State.push_sound {s : State} (hc : s.sound) (i : ℕ) (b : Beat) (ctx : optParam ℕ 0) (entry : optParam ℕ 0) : (State.push s i b ctx entry).sound := by
  unfold State.push
  repeat' (with_reducible first | assumption | dsimp only | exact sound_reset | intro sp | apply State.chanFault_sound | apply State.reportDrain_sound | apply State.updChan_sound | apply State.handOver_sound | apply State.sendRemote_sound | apply fillSink_sound | refine foldl_fst_sound ?_ (fun a x hx => ?_) | refine getD_sound (fun t ht => ?_) ?_ | refine foldl_sound ?_ (fun s x hx => ?_) | apply State.core_legal | exact reset_legal | refine foldl_legal ?_ (fun p x hx => ?_) | (simp only [PageCore.legal_mk, List.length_map, setAt_length]; apply PageCore.legal.split) | (simp only [State.sound_mk]; apply State.sound.split) | (intro p hp) | split)

theorem State.portPrune_sound {s : State} (hc : s.sound) (c : CoreRef) (n : ℕ) (e : PruneEnt) : (State.portPrune s c n e).sound := by
  unfold State.portPrune
  repeat' (with_reducible first | assumption | dsimp only | exact sound_reset | intro sp | refine foldl_fst_sound ?_ (fun a x hx => ?_) | refine getD_sound (fun t ht => ?_) ?_ | refine foldl_sound ?_ (fun s x hx => ?_) | apply State.core_legal | exact reset_legal | refine foldl_legal ?_ (fun p x hx => ?_) | (simp only [State.sound_mk]; apply State.sound.split))

theorem PageCore.queueSrc_legal {p : PageCore} (hc : p.legal) (n : ℕ) (bs : List Beat) : (PageCore.queueSrc p n bs).legal := by
  unfold PageCore.queueSrc
  repeat' (with_reducible first | assumption | dsimp only | exact sound_reset | intro sp | refine foldl_fst_sound ?_ (fun a x hx => ?_) | refine getD_sound (fun t ht => ?_) ?_ | refine foldl_sound ?_ (fun s x hx => ?_) | apply State.core_legal | exact reset_legal | refine foldl_legal ?_ (fun p x hx => ?_) | (simp only [PageCore.legal_mk, List.length_map, setAt_length]; apply PageCore.legal.split) | (intro p hp) | split)

theorem State.queuePair_sound {s : State} (hc : s.sound) (e : PruneEnt) (is : List (CoreRef × ℕ)) : (State.queuePair s e is).sound := by
  unfold State.queuePair
  repeat' (with_reducible first | assumption | dsimp only | exact sound_reset | intro sp | apply State.portPrune_sound | apply State.mapCore_sound | apply PageCore.queueSrc_legal | refine foldl_fst_sound ?_ (fun a x hx => ?_) | refine getD_sound (fun t ht => ?_) ?_ | refine foldl_sound ?_ (fun s x hx => ?_))

theorem State.relayPrune_sound {s : State} (hc : s.sound) (lid : ℕ) (e : PruneEnt) : (State.relayPrune s lid e).sound := by
  unfold State.relayPrune
  repeat' (with_reducible first | assumption | dsimp only | exact sound_reset | intro sp | apply State.queuePair_sound | refine foldl_fst_sound ?_ (fun a x hx => ?_) | refine getD_sound (fun t ht => ?_) ?_ | refine foldl_sound ?_ (fun s x hx => ?_) | apply State.core_legal | exact reset_legal | refine foldl_legal ?_ (fun p x hx => ?_) | (intro p hp) | split)

theorem State.remoteBeat_sound {s : State} (hc : s.sound) (i : ℕ) (b : Beat) : (State.remoteBeat s i b).sound := by
  unfold State.remoteBeat
  repeat' (with_reducible first | assumption | dsimp only | exact sound_reset | intro sp | apply State.push_sound | apply State.relayPrune_sound | refine foldl_fst_sound ?_ (fun a x hx => ?_) | refine getD_sound (fun t ht => ?_) ?_ | refine foldl_sound ?_ (fun s x hx => ?_) | apply State.core_legal | exact reset_legal | refine foldl_legal ?_ (fun p x hx => ?_) | (intro p hp) | split)

theorem State.remoteIn_sound {s : State} (hc : s.sound) (src : ℕ) (p : List Byte) : (State.remoteIn s src p).sound := by
  unfold State.remoteIn
  repeat' (with_reducible first | assumption | dsimp only | exact sound_reset | intro sp | apply State.remoteBeat_sound | refine foldl_fst_sound ?_ (fun a x hx => ?_) | refine getD_sound (fun t ht => ?_) ?_ | refine foldl_sound ?_ (fun s x hx => ?_) | apply State.core_legal | exact reset_legal | refine foldl_legal ?_ (fun p x hx => ?_) | (intro p hp) | split)

theorem State.mapPlace_sound {s : State} (hc : s.sound) (lid : ℕ) (pset : ℕ) (f : Placed → Placed) : (State.mapPlace s lid pset f).sound := by
  unfold State.mapPlace
  repeat' (with_reducible first | assumption | dsimp only | exact sound_reset | intro sp | refine foldl_fst_sound ?_ (fun a x hx => ?_) | refine getD_sound (fun t ht => ?_) ?_ | refine foldl_sound ?_ (fun s x hx => ?_) | apply State.core_legal | exact reset_legal | refine foldl_legal ?_ (fun p x hx => ?_) | (simp only [State.sound_mk]; apply State.sound.split))

theorem State.queueMarkers_sound {s : State} (hc : s.sound) (c : CoreRef) : (State.queueMarkers s c).sound := by
  unfold State.queueMarkers
  repeat' (with_reducible first | assumption | dsimp only | exact sound_reset | intro sp | apply State.mapCore_sound | apply PageCore.queueSrc_legal | refine foldl_fst_sound ?_ (fun a x hx => ?_) | refine getD_sound (fun t ht => ?_) ?_ | refine foldl_sound ?_ (fun s x hx => ?_) | apply State.core_legal | exact reset_legal | refine foldl_legal ?_ (fun p x hx => ?_) | (intro p hp) | split)

theorem State.stopCore_sound {s : State} (hc : s.sound) (c : CoreRef) : (State.stopCore s c).sound := by
  unfold State.stopCore
  have hp := State.core_legal hc c
  have h := State.setCore_sound hc c (p := { s.core c with
    blocks := (s.core c).blocks.takeWhile (fun b => b.phase != 0)
    nextAddr := match ((s.core c).blocks.drop ((s.core c).blocks.takeWhile (fun b => b.phase != 0)).length).head? with
      | some b => some b.addr
      | none => (s.core c).nextAddr
    responses := (s.core c).responses.filter (fun r =>
      !(((s.core c).blocks.drop ((s.core c).blocks.takeWhile (fun b => b.phase != 0)).length).map (fun b => b.uid)).contains r.uid) })
    ⟨hp.1, hp.2.1, (List.takeWhile_sublist _).length_le.trans hp.2.2⟩
  exact h

theorem State.updNode_sound {s : State} (hc : s.sound) (r : NodeRef) (f : MemNode → MemNode) : (State.updNode s r f).sound := by
  unfold State.updNode
  repeat' (with_reducible first | assumption | dsimp only | exact sound_reset | intro sp | refine foldl_fst_sound ?_ (fun a x hx => ?_) | refine getD_sound (fun t ht => ?_) ?_ | refine foldl_sound ?_ (fun s x hx => ?_) | apply State.core_legal | exact reset_legal | refine foldl_legal ?_ (fun p x hx => ?_) | (simp only [State.sound_mk]; apply State.sound.split))

theorem State.forwardDorm_sound {s : State} (hc : s.sound) (outs : List ℕ) : (State.forwardDorm s outs).sound := by
  unfold State.forwardDorm
  repeat' (with_reducible first | assumption | dsimp only | exact sound_reset | intro sp | apply State.handOver_sound | apply State.updChan_sound | refine foldl_fst_sound ?_ (fun a x hx => ?_) | refine getD_sound (fun t ht => ?_) ?_ | refine foldl_sound ?_ (fun s x hx => ?_))

theorem State.stopNode_sound {s : State} (hc : s.sound) (r : NodeRef) : (State.stopNode s r).sound := by
  unfold State.stopNode
  repeat' (with_reducible first | assumption | dsimp only | exact sound_reset | intro sp | apply State.updNode_sound | apply State.forwardDorm_sound | refine foldl_fst_sound ?_ (fun a x hx => ?_) | refine getD_sound (fun t ht => ?_) ?_ | refine foldl_sound ?_ (fun s x hx => ?_) | apply State.core_legal | exact reset_legal | refine foldl_legal ?_ (fun p x hx => ?_) | (simp only [State.sound_mk]; apply State.sound.split))

theorem State.tryStopNode_sound {s : State} (hc : s.sound) (r : NodeRef) : (State.tryStopNode s r).sound := by
  unfold State.tryStopNode
  repeat' (with_reducible first | assumption | dsimp only | exact sound_reset | intro sp | apply State.stopNode_sound | refine foldl_fst_sound ?_ (fun a x hx => ?_) | refine getD_sound (fun t ht => ?_) ?_ | refine foldl_sound ?_ (fun s x hx => ?_) | apply State.core_legal | exact reset_legal | refine foldl_legal ?_ (fun p x hx => ?_) | (intro p hp) | split)

theorem State.beginCut_sound {s : State} (hc : s.sound) (lid : ℕ) (pset : ℕ) : (State.beginCut s lid pset).sound := by
  unfold State.beginCut
  repeat' (with_reducible first | assumption | dsimp only | exact sound_reset | intro sp | apply State.updChan_sound | apply State.mapPlace_sound | apply State.queueMarkers_sound | apply State.stopCore_sound | apply State.tryStopNode_sound | apply State.forwardDorm_sound | refine foldl_fst_sound ?_ (fun a x hx => ?_) | refine getD_sound (fun t ht => ?_) ?_ | refine foldl_sound ?_ (fun s x hx => ?_))

theorem PageCore.setBlock_legal {p : PageCore} (hc : p.legal) (i : ℕ) (b : Block) : (PageCore.setBlock p i b).legal := by
  unfold PageCore.setBlock
  repeat' (with_reducible first | assumption | dsimp only | exact sound_reset | intro sp | refine foldl_fst_sound ?_ (fun a x hx => ?_) | refine getD_sound (fun t ht => ?_) ?_ | refine foldl_sound ?_ (fun s x hx => ?_) | apply State.core_legal | exact reset_legal | refine foldl_legal ?_ (fun p x hx => ?_) | (simp only [PageCore.legal_mk, List.length_map, setAt_length]; apply PageCore.legal.split))

theorem CoreCtx.put_sound {s : State} (hc : s.sound) {x : CoreCtx} (hlx : x.pc.legal) (b : Block) : (CoreCtx.put x s b).sound := by
  unfold CoreCtx.put
  repeat' (with_reducible first | assumption | dsimp only | exact sound_reset | intro sp | apply State.setCore_sound | apply PageCore.setBlock_legal)

theorem CoreCtx.fail_sound {s : State} (hc : s.sound) {x : CoreCtx} (hlx : x.pc.legal) (code : ℕ) (val : DWord) (lsid : ℕ) : (CoreCtx.fail x s code val lsid).sound := by
  unfold CoreCtx.fail
  repeat' (with_reducible first | assumption | dsimp only | exact sound_reset | intro sp | apply CoreCtx.put_sound)

theorem CoreCtx.checked_sound {s : State} (hc : s.sound) {x : CoreCtx} (hlx : x.pc.legal) (lsid va len align : Nat) (k : AccKind) (g : Bool)
    {f : Span → State} (hf : ∀ sp, (f sp).sound) : (x.checked s lsid va len align k g f).sound := by
  unfold CoreCtx.checked
  split
  · exact CoreCtx.fail_sound hc hlx _ _ _
  · exact hf _

theorem CoreCtx.ask_sound {s : State} (hc : s.sound) {x : CoreCtx} (hlx : x.pc.legal) (lsid : ℕ) (a : Act) : (CoreCtx.ask x s lsid a).sound := by
  unfold CoreCtx.ask
  repeat' (with_reducible first | assumption | dsimp only | exact sound_reset | intro sp | apply CoreCtx.put_sound)

theorem CoreCtx.tillLines_sound {s : State} (hc : s.sound) {x : CoreCtx} (hlx : x.pc.legal) (lsid : ℕ) (g : Bool) : (CoreCtx.tillLines x s lsid g).sound := by
  unfold CoreCtx.tillLines
  repeat' (with_reducible first | assumption | dsimp only | exact sound_reset | intro sp | apply CoreCtx.checked_sound | apply CoreCtx.ask_sound)

theorem State.store_sound {s : State} (hc : s.sound) (pa : ℕ) (bs : List Byte) : (State.store s pa bs).sound := by
  exact ⟨hc.1, hc.2.1, Memory.writeN_wf bs _ hc.2.2.1, hc.2.2.2⟩

theorem State.stageBytes_sound {s : State} (hc : s.sound) (off : ℕ) (bs : List Byte) : (State.stageBytes s off bs).sound := by
  unfold State.stageBytes
  repeat' (with_reducible first | assumption | dsimp only | exact sound_reset | intro sp | apply State.store_sound | refine foldl_fst_sound ?_ (fun a x hx => ?_) | refine getD_sound (fun t ht => ?_) ?_ | refine foldl_sound ?_ (fun s x hx => ?_))

theorem State.haltLaunch_sound {s : State} (hc : s.sound) (lid : ℕ) : (State.haltLaunch s lid).sound := by
  unfold State.haltLaunch
  repeat' (with_reducible first | assumption | dsimp only | exact sound_reset | intro sp | refine foldl_fst_sound ?_ (fun a x hx => ?_) | refine getD_sound (fun t ht => ?_) ?_ | refine foldl_sound ?_ (fun s x hx => ?_) | apply State.core_legal | exact reset_legal | refine foldl_legal ?_ (fun p x hx => ?_) | (simp only [State.sound_mk]; apply State.sound.split))

theorem State.hang_sound {s : State} (hc : s.sound) (lid : ℕ) (die : ℕ) (plotx : ℕ) (ploty : ℕ) : (State.hang s lid die plotx ploty).sound := by
  unfold State.hang
  repeat' (with_reducible first | assumption | dsimp only | exact sound_reset | intro sp | apply State.useFree_sound | apply State.haltLaunch_sound | apply State.endWith_sound | refine foldl_fst_sound ?_ (fun a x hx => ?_) | refine getD_sound (fun t ht => ?_) ?_ | refine foldl_sound ?_ (fun s x hx => ?_) | apply State.core_legal | exact reset_legal | refine foldl_legal ?_ (fun p x hx => ?_) | (simp only [State.sound_mk]; apply State.sound.split) | (intro p hp) | split)

theorem State.updElem_sound {s : State} (hc : s.sound) (r : ElemRef) (f : Elem → Elem) : (State.updElem s r f).sound := by
  unfold State.updElem
  repeat' (with_reducible first | assumption | dsimp only | exact sound_reset | intro sp | refine foldl_fst_sound ?_ (fun a x hx => ?_) | refine getD_sound (fun t ht => ?_) ?_ | refine foldl_sound ?_ (fun s x hx => ?_) | apply State.core_legal | exact reset_legal | refine foldl_legal ?_ (fun p x hx => ?_) | (simp only [State.sound_mk]; apply State.sound.split))

theorem State.countOut_sound {s : State} (hc : s.sound) (a : Agent) : (State.countOut s a).sound := by
  unfold State.countOut
  repeat' (with_reducible first | assumption | dsimp only | exact sound_reset | intro sp | apply State.updElem_sound | apply State.updNode_sound | apply State.updChan_sound | apply State.mapCore_sound | refine foldl_fst_sound ?_ (fun a x hx => ?_) | refine getD_sound (fun t ht => ?_) ?_ | refine foldl_sound ?_ (fun s x hx => ?_) | apply State.core_legal | exact reset_legal | refine foldl_legal ?_ (fun p x hx => ?_) | (simp only [PageCore.legal_mk, List.length_map, setAt_length]; apply PageCore.legal.split) | (intro p hp) | split)

theorem debugImages_sound_snd : ∀ (l : List Placed) {s : State}, s.sound → (debugImages l s).2.sound
  | [], _, h => h
  | _ :: r, _, h => debugImages_sound_snd r h

theorem State.memFlits_sound {s : State} (hc : s.sound) (port : ℕ) (node : ℕ) (vc : ℕ) (type : ℕ) (bytes : List Byte) : (State.memFlits s port node vc type bytes).sound := by
  unfold State.memFlits
  repeat' (with_reducible first | assumption | dsimp only | exact sound_reset | intro sp | apply State.sendFlit_sound | apply State.useFree_sound | refine foldl_fst_sound ?_ (fun a x hx => ?_) | refine getD_sound (fun t ht => ?_) ?_ | refine foldl_sound ?_ (fun s x hx => ?_))

theorem State.hostStore_sound {s : State} (hc : s.sound) (first : Option ℕ) (node : ℕ) (addr : ℕ) (bytes : List Byte) : (State.hostStore s first node addr bytes).sound := by
  unfold State.hostStore
  repeat' (with_reducible first | assumption | dsimp only | exact sound_reset | intro sp | apply State.memFlits_sound | apply State.send_sound | refine foldl_fst_sound ?_ (fun a x hx => ?_) | refine getD_sound (fun t ht => ?_) ?_ | refine foldl_sound ?_ (fun s x hx => ?_) | apply State.core_legal | exact reset_legal | refine foldl_legal ?_ (fun p x hx => ?_) | (intro p hp) | split)

theorem State.answerInto_sound {s : State} (hc : s.sound) (m : HostMsg) (o : ℕ) (bytes : List Byte) (value : ℕ) : (State.answerInto s m o bytes value).sound := by
  unfold State.answerInto
  repeat' (with_reducible first | assumption | dsimp only | exact sound_reset | intro sp | apply State.result_sound | apply State.hostStore_sound | apply State.useFree_sound | refine foldl_fst_sound ?_ (fun a x hx => ?_) | refine getD_sound (fun t ht => ?_) ?_ | refine foldl_sound ?_ (fun s x hx => ?_) | apply State.core_legal | exact reset_legal | refine foldl_legal ?_ (fun p x hx => ?_) | (simp only [State.sound_mk]; apply State.sound.split) | (intro p hp) | split)

theorem State.debugRead_sound {s : State} (hc : s.sound) (m : HostMsg) : (State.debugRead s m).sound := by
  unfold State.debugRead
  repeat' (with_reducible first | assumption | dsimp only | exact sound_reset | intro sp | apply State.result_sound | apply debugImages_sound_snd | apply State.answerInto_sound | refine foldl_fst_sound ?_ (fun a x hx => ?_) | refine getD_sound (fun t ht => ?_) ?_ | refine foldl_sound ?_ (fun s x hx => ?_) | apply State.core_legal | exact reset_legal | refine foldl_legal ?_ (fun p x hx => ?_) | (simp only [State.sound_mk]; apply State.sound.split) | (intro p hp) | split)

theorem State.applyNotice_sound {s : State} (hc : s.sound) (lane : ℕ) (gen : ℕ) (a3x : NoticeTo) : (State.applyNotice s lane gen a3x).sound := by
  unfold State.applyNotice
  repeat' (with_reducible first | assumption | dsimp only | exact sound_reset | intro sp | apply State.sendRemote_sound | apply fillSink_sound | apply State.updChan_sound | apply State.updNode_sound | refine foldl_fst_sound ?_ (fun a x hx => ?_) | refine getD_sound (fun t ht => ?_) ?_ | refine foldl_sound ?_ (fun s x hx => ?_) | apply State.core_legal | exact reset_legal | refine foldl_legal ?_ (fun p x hx => ?_) | (intro p hp) | split)

theorem State.updPlot_sound {s : State} (hc : s.sound) (lid : ℕ) (pset : ℕ) (x : ℕ) (y : ℕ) (f : Plot → Plot) : (State.updPlot s lid pset x y f).sound := by
  unfold State.updPlot
  repeat' (with_reducible first | assumption | dsimp only | exact sound_reset | intro sp | refine foldl_fst_sound ?_ (fun a x hx => ?_) | refine getD_sound (fun t ht => ?_) ?_ | refine foldl_sound ?_ (fun s x hx => ?_) | apply State.core_legal | exact reset_legal | refine foldl_legal ?_ (fun p x hx => ?_) | (simp only [State.sound_mk]; apply State.sound.split))

theorem State.updForager_sound {s : State} (hc : s.sound) (p : PageRef) (ctx : ℕ) (f : Forager → Forager) : (State.updForager s p ctx f).sound := by
  unfold State.updForager
  repeat' (with_reducible first | assumption | dsimp only | exact sound_reset | intro sp | refine foldl_fst_sound ?_ (fun a x hx => ?_) | refine getD_sound (fun t ht => ?_) ?_ | refine foldl_sound ?_ (fun s x hx => ?_) | apply State.core_legal | exact reset_legal | refine foldl_legal ?_ (fun p x hx => ?_) | (simp only [State.sound_mk]; apply State.sound.split))

theorem State.retirePort_sound {s : State} (hc : s.sound) (c : CoreRef) (n : ℕ) (gone : PruneEnt → Bool) : (State.retirePort s c n gone).sound := by
  unfold State.retirePort
  repeat' (with_reducible first | assumption | dsimp only | exact sound_reset | intro sp | refine foldl_fst_sound ?_ (fun a x hx => ?_) | refine getD_sound (fun t ht => ?_) ?_ | refine foldl_sound ?_ (fun s x hx => ?_) | apply State.core_legal | exact reset_legal | refine foldl_legal ?_ (fun p x hx => ?_) | (simp only [State.sound_mk]; apply State.sound.split))

theorem State.dropEntries_sound {s : State} (hc : s.sound) (f : FilterRef) (gone : PruneEnt → Bool) : (State.dropEntries s f gone).sound := by
  unfold State.dropEntries
  repeat' (with_reducible first | assumption | dsimp only | exact sound_reset | intro sp | apply State.updPlot_sound | apply State.updChan_sound | apply State.updNode_sound | apply State.updForager_sound | apply State.retirePort_sound | refine foldl_fst_sound ?_ (fun a x hx => ?_) | refine getD_sound (fun t ht => ?_) ?_ | refine foldl_sound ?_ (fun s x hx => ?_) | apply State.core_legal | exact reset_legal | refine foldl_legal ?_ (fun p x hx => ?_) | (intro p hp) | split)

theorem State.dormantMap_sound {s : State} (hc : s.sound) (g : Dormant → Dormant) (hg : ∀ d, (g d).cores = d.cores) :
    ({ s with dormants := s.dormants.map g } : State).sound := by
  refine ⟨hc.1, fun d hd => ?_, hc.2.2⟩
  obtain ⟨x, hx, rfl⟩ := List.mem_map.mp hd
  rw [hg]
  exact hc.2.1 x hx

theorem State.retireFrom_sound {s : State} (hc : s.sound) (mine : ℕ → Bool) (lane : ℕ) (serial : ℕ) : (State.retireFrom s mine lane serial).sound := by
  unfold State.retireFrom
  exact foldl_sound (State.dormantMap_sound hc _ (fun d => by split <;> rfl)) (fun s f h => State.dropEntries_sound h _ _)

theorem State.pipeIn_sound {s : State} (hc : s.sound) (src : ℕ) (m : PipeMsg) : (State.pipeIn s src m).sound := by
  unfold State.pipeIn
  repeat' (with_reducible first | assumption | dsimp only | exact sound_reset | intro sp | apply State.setSprout_sound | apply State.applyNotice_sound | apply State.retireFrom_sound | refine foldl_fst_sound ?_ (fun a x hx => ?_) | refine getD_sound (fun t ht => ?_) ?_ | refine foldl_sound ?_ (fun s x hx => ?_) | apply State.core_legal | exact reset_legal | refine foldl_legal ?_ (fun p x hx => ?_) | (intro p hp) | split)

theorem State.updDie_sound {s : State} (hc : s.sound) (n : ℕ) (f : Die → Die) : (State.updDie s n f).sound := by
  unfold State.updDie
  repeat' (with_reducible first | assumption | dsimp only | exact sound_reset | intro sp | refine foldl_fst_sound ?_ (fun a x hx => ?_) | refine getD_sound (fun t ht => ?_) ?_ | refine foldl_sound ?_ (fun s x hx => ?_) | apply State.core_legal | exact reset_legal | refine foldl_legal ?_ (fun p x hx => ?_) | (simp only [State.sound_mk]; apply State.sound.split) | (intro p hp) | split)

theorem State.dieTime_sound {s : State} (hc : s.sound) (d : ℕ) : (State.dieTime s d).sound := by
  unfold State.dieTime
  repeat' (with_reducible first | assumption | dsimp only | exact sound_reset | intro sp | apply State.useFree_sound | apply State.updDie_sound)

theorem State.eccAt_sound {s : State} (hc : s.sound) (pa : ℕ) : (State.eccAt s pa).sound := by
  unfold State.eccAt
  repeat' (with_reducible first | assumption | dsimp only | exact sound_reset | intro sp | apply State.dieTime_sound | apply State.updDie_sound | refine foldl_fst_sound ?_ (fun a x hx => ?_) | refine getD_sound (fun t ht => ?_) ?_ | refine foldl_sound ?_ (fun s x hx => ?_) | apply State.core_legal | exact reset_legal | refine foldl_legal ?_ (fun p x hx => ?_) | (simp only [State.sound_mk]; apply State.sound.split) | (intro p hp) | split)

theorem State.eccMeet_sound {s : State} (hc : s.sound) (pas : List ℕ) : (State.eccMeet s pas).sound := by
  unfold State.eccMeet
  repeat' (with_reducible first | assumption | dsimp only | exact sound_reset | intro sp | apply State.eccAt_sound | refine foldl_fst_sound ?_ (fun a x hx => ?_) | refine getD_sound (fun t ht => ?_) ?_ | refine foldl_sound ?_ (fun s x hx => ?_))

theorem State.setLine_sound {s : State} (hc : s.sound) (line : ℕ) (l : LineSide) : (State.setLine s line l).sound := by
  exact ⟨hc.1, hc.2.1, hc.2.2.1, cellSet_wf _ _ (Nat.zero_le _) hc.2.2.2.1, hc.2.2.2.2⟩

theorem State.setPresent_sound {s : State} (hc : s.sound) (pa : ℕ) : (State.setPresent s pa).sound := by
  unfold State.setPresent
  repeat' (with_reducible first | assumption | dsimp only | exact sound_reset | intro sp | apply State.setLine_sound)

theorem State.respond_sound {s : State} (hc : s.sound) (c : CoreRef) (uid : ℕ) (slot : ℕ) (kind : ℕ) (bs : List Byte) (sp : Span) : (State.respond s c uid slot kind bs sp).sound := by
  unfold State.respond
  repeat' (with_reducible first | assumption | dsimp only | exact sound_reset | intro sp | apply State.mapCore_sound | refine foldl_fst_sound ?_ (fun a x hx => ?_) | refine getD_sound (fun t ht => ?_) ?_ | refine foldl_sound ?_ (fun s x hx => ?_) | apply State.core_legal | exact reset_legal | refine foldl_legal ?_ (fun p x hx => ?_) | (simp only [PageCore.legal_mk, List.length_map, setAt_length]; apply PageCore.legal.split) | (simp only [State.sound_mk]; apply State.sound.split))

theorem State.answer_sound {s : State} (hc : s.sound) (w : Waiter) (kind : Option ℕ) (sp : Span) (bs : List Byte) (dead : Bool) : (State.answer s w kind sp bs dead).sound := by
  unfold State.answer
  repeat' (with_reducible first | assumption | dsimp only | exact sound_reset | intro sp | apply State.respond_sound | apply State.updNode_sound | refine foldl_fst_sound ?_ (fun a x hx => ?_) | refine getD_sound (fun t ht => ?_) ?_ | refine foldl_sound ?_ (fun s x hx => ?_) | apply State.core_legal | exact reset_legal | refine foldl_legal ?_ (fun p x hx => ?_) | (intro p hp) | split)

theorem endLaunch_sound {s : State} (hc : s.sound) (c : CoreRef) (status : ℕ) (detail : ℕ) : (endLaunch s c status detail).sound := by
  unfold endLaunch
  repeat' (with_reducible first | assumption | dsimp only | exact sound_reset | intro sp | apply State.endWith_sound)

theorem latchFault_sound {s : State} (hc : s.sound) (c : CoreRef) (code : ℕ) (va : ℕ) (lsid : ℕ) : (latchFault s c code va lsid).sound := by
  unfold latchFault
  repeat' (with_reducible first | assumption | dsimp only | exact sound_reset | intro sp | apply endLaunch_sound | apply State.setCore_sound | refine foldl_fst_sound ?_ (fun a x hx => ?_) | refine getD_sound (fun t ht => ?_) ?_ | refine foldl_sound ?_ (fun s x hx => ?_) | apply State.core_legal | exact reset_legal | refine foldl_legal ?_ (fun p x hx => ?_) | (simp only [PageCore.legal_mk, List.length_map, setAt_length]; apply PageCore.legal.split) | (intro p hp) | split)

theorem State.readError_sound {s : State} (hc : s.sound) (c : CoreRef) (uid : ℕ) (slot : ℕ) (sp : Span) : (State.readError s c uid slot sp).sound := by
  unfold State.readError
  repeat' (with_reducible first | assumption | dsimp only | exact sound_reset | intro sp | apply latchFault_sound | apply State.respond_sound | apply State.mapCore_sound | refine foldl_fst_sound ?_ (fun a x hx => ?_) | refine getD_sound (fun t ht => ?_) ?_ | refine foldl_sound ?_ (fun s x hx => ?_) | apply State.core_legal | exact reset_legal | refine foldl_legal ?_ (fun p x hx => ?_) | (simp only [PageCore.legal_mk, List.length_map, setAt_length]; apply PageCore.legal.split) | (intro p hp) | split)

theorem State.freezeAccess_sound {s : State} (hc : s.sound) (r : NodeRef) (elem : ℕ) (code : ℕ) : (State.freezeAccess s r elem code).sound := by
  unfold State.freezeAccess
  repeat' (with_reducible first | assumption | dsimp only | exact sound_reset | intro sp | apply State.nodeFault_sound | apply State.updNode_sound | refine foldl_fst_sound ?_ (fun a x hx => ?_) | refine getD_sound (fun t ht => ?_) ?_ | refine foldl_sound ?_ (fun s x hx => ?_) | apply State.core_legal | exact reset_legal | refine foldl_legal ?_ (fun p x hx => ?_) | (intro p hp) | split)

theorem State.answerOne_sound {s : State} (hc : s.sound) (f : Deferred) : (State.answerOne s f).sound := by
  unfold State.answerOne
  repeat' (with_reducible first | assumption | dsimp only | exact sound_reset | intro sp | apply State.eccMeet_sound | apply State.answer_sound | apply State.readError_sound | apply State.freezeAccess_sound | refine foldl_fst_sound ?_ (fun a x hx => ?_) | refine getD_sound (fun t ht => ?_) ?_ | refine foldl_sound ?_ (fun s x hx => ?_) | apply State.core_legal | exact reset_legal | refine foldl_legal ?_ (fun p x hx => ?_) | (intro p hp) | split)

theorem State.answerRounds_sound {s : State} (hc : s.sound) (fuel : Nat) : (s.answerRounds fuel).sound := by
  induction fuel generalizing s with
  | zero => exact hc
  | succ fuel ih =>
    unfold State.answerRounds
    dsimp only
    split
    · exact hc
    · refine ih (foldl_sound ?_ (fun s f h => State.answerOne_sound h _))
      exact hc

theorem State.answerDeferred_sound {s : State} (hc : s.sound) : (State.answerDeferred s).sound := by
  unfold State.answerDeferred
  repeat' (with_reducible first | assumption | dsimp only | exact sound_reset | intro sp | apply State.answerRounds_sound)

theorem State.outerStore_sound {s : State} (hc : s.sound) {sp : Span} {bs : List Byte} {res : State} (heq : State.outerStore s sp bs = some res) : res.sound := by
  unfold State.outerStore at heq
  repeat' (with_reducible first | dsimp only at heq | split at heq)
  all_goals (first | (cases heq; done) | (obtain ⟨_, _, rfl⟩ := Option.map_eq_some_iff.mp heq) | (cases heq))
  all_goals repeat' (with_reducible first | assumption | dsimp only | exact sound_reset | intro sp | apply State.hostStore_sound | apply State.store_sound | apply State.setPresent_sound | apply State.eccMeet_sound | apply State.answerDeferred_sound | refine foldl_fst_sound ?_ (fun a x hx => ?_) | refine getD_sound (fun t ht => ?_) ?_ | refine foldl_sound ?_ (fun s x hx => ?_) | apply State.core_legal | exact reset_legal | refine foldl_legal ?_ (fun p x hx => ?_) | (intro p hp) | split)

theorem State.memRequest_sound {s : State} (hc : s.sound) (port : ℕ) (src : ℕ) (r : MemReq) : (State.memRequest s port src r).sound := by
  unfold State.memRequest
  repeat' (with_reducible first | assumption | dsimp only | exact sound_reset | intro sp | apply State.memFlits_sound | apply State.eccMeet_sound | refine State.outerStore_sound ?_ (by assumption) | refine foldl_fst_sound ?_ (fun a x hx => ?_) | refine getD_sound (fun t ht => ?_) ?_ | refine foldl_sound ?_ (fun s x hx => ?_) | apply State.core_legal | exact reset_legal | refine foldl_legal ?_ (fun p x hx => ?_) | (simp only [State.sound_mk]; apply State.sound.split) | (intro p hp) | split)

theorem State.deliverFlit_sound {s : State} (hc : s.sound) (port : ℕ) (f : List Byte) : (State.deliverFlit s port f).sound := by
  unfold State.deliverFlit
  repeat' (with_reducible first | assumption | dsimp only | exact sound_reset | intro sp | apply State.updPort_sound | apply State.pipeIn_sound | apply State.result_sound | apply State.remoteIn_sound | apply State.memRequest_sound | apply State.acked_sound | refine foldl_fst_sound ?_ (fun a x hx => ?_) | refine getD_sound (fun t ht => ?_) ?_ | refine foldl_sound ?_ (fun s x hx => ?_) | apply State.core_legal | exact reset_legal | refine foldl_legal ?_ (fun p x hx => ?_) | (simp only [State.sound_mk]; apply State.sound.split) | (intro p hp) | split)

theorem State.updLeaf_sound {s : State} (hc : s.sound) (g : PageRef) (n : ℕ) (f : Leaf → Leaf) : (State.updLeaf s g n f).sound := by
  unfold State.updLeaf
  repeat' (with_reducible first | assumption | dsimp only | exact sound_reset | intro sp | refine foldl_fst_sound ?_ (fun a x hx => ?_) | refine getD_sound (fun t ht => ?_) ?_ | refine foldl_sound ?_ (fun s x hx => ?_) | apply State.core_legal | exact reset_legal | refine foldl_legal ?_ (fun p x hx => ?_) | (simp only [State.sound_mk]; apply State.sound.split))

theorem State.updTrellis_sound {s : State} (hc : s.sound) (g : PageRef) (n : ℕ) (f : Trellis → Trellis) : (State.updTrellis s g n f).sound := by
  unfold State.updTrellis
  repeat' (with_reducible first | assumption | dsimp only | exact sound_reset | intro sp | refine foldl_fst_sound ?_ (fun a x hx => ?_) | refine getD_sound (fun t ht => ?_) ?_ | refine foldl_sound ?_ (fun s x hx => ?_) | apply State.core_legal | exact reset_legal | refine foldl_legal ?_ (fun p x hx => ?_) | (simp only [State.sound_mk]; apply State.sound.split))

theorem State.leafAdvance_sound {s : State} (hc : s.sound) (g : PageRef) (leaf : ℕ) (n : ℕ) : (State.leafAdvance s g leaf n).sound := by
  unfold State.leafAdvance
  repeat' (with_reducible first | assumption | dsimp only | exact sound_reset | intro sp | apply State.updLeaf_sound | apply State.updTrellis_sound | refine foldl_fst_sound ?_ (fun a x hx => ?_) | refine getD_sound (fun t ht => ?_) ?_ | refine foldl_sound ?_ (fun s x hx => ?_) | apply State.core_legal | exact reset_legal | refine foldl_legal ?_ (fun p x hx => ?_) | (intro p hp) | split)

theorem State.emit_sound {s : State} (hc : s.sound) (e : Elem) (port : ℕ) (b : Beat) : (State.emit s e port b).sound := by
  unfold State.emit
  repeat' (with_reducible first | assumption | dsimp only | exact sound_reset | intro sp | apply State.push_sound | apply State.leafAdvance_sound | refine foldl_fst_sound ?_ (fun a x hx => ?_) | refine getD_sound (fun t ht => ?_) ?_ | refine foldl_sound ?_ (fun s x hx => ?_) | apply State.core_legal | exact reset_legal | refine foldl_legal ?_ (fun p x hx => ?_) | (intro p hp) | split)

theorem State.emitOn_sound {s : State} (hc : s.sound) (e : Elem) (q : ℕ) (b : Beat) : (State.emitOn s e q b).sound := by
  unfold State.emitOn
  repeat' (with_reducible first | assumption | dsimp only | exact sound_reset | intro sp | apply State.emit_sound | refine foldl_fst_sound ?_ (fun a x hx => ?_) | refine getD_sound (fun t ht => ?_) ?_ | refine foldl_sound ?_ (fun s x hx => ?_) | apply State.core_legal | exact reset_legal | refine foldl_legal ?_ (fun p x hx => ?_) | (intro p hp) | split)

theorem CoreCtx.finish_sound {s : State} (hc : s.sound) {x : CoreCtx} (hlx : x.pc.legal) (ts : List (BitVec 9)) (r : AluRes) : (CoreCtx.finish x s ts r).sound := by
  unfold CoreCtx.finish
  repeat' (with_reducible first | assumption | dsimp only | exact sound_reset | intro sp | apply CoreCtx.put_sound)

theorem CoreCtx.give_sound {s : State} (hc : s.sound) {x : CoreCtx} (hlx : x.pc.legal) (t : BitVec 9) (img : Img) : (CoreCtx.give x s t img).sound := by
  unfold CoreCtx.give
  repeat' (with_reducible first | assumption | dsimp only | exact sound_reset | intro sp | apply CoreCtx.finish_sound)

theorem ElemCtx.finish_sound {s : State} (hc : s.sound) (x : ElemCtx) (ts : List (BitVec 9)) (ls : List LaneV) : (ElemCtx.finish x s ts ls).sound := by
  unfold ElemCtx.finish
  repeat' (with_reducible first | assumption | dsimp only | exact sound_reset | intro sp | refine foldl_fst_sound ?_ (fun a x hx => ?_) | refine getD_sound (fun t ht => ?_) ?_ | refine foldl_sound ?_ (fun s x hx => ?_) | apply State.core_legal | exact reset_legal | refine foldl_legal ?_ (fun p x hx => ?_) | (simp only [State.sound_mk]; apply State.sound.split))

theorem State.seqOpen_sound {s : State} (hc : s.sound) (lane : ℕ) (a : ℕ) (b : DWord) (seed : ℕ) : (State.seqOpen s lane a b seed).sound := by
  unfold State.seqOpen
  repeat' (with_reducible first | assumption | dsimp only | exact sound_reset | intro sp | apply State.setSprout_sound | refine foldl_fst_sound ?_ (fun a x hx => ?_) | refine getD_sound (fun t ht => ?_) ?_ | refine foldl_sound ?_ (fun s x hx => ?_) | apply State.core_legal | exact reset_legal | refine foldl_legal ?_ (fun p x hx => ?_) | (intro p hp) | split)

theorem State.sample_sound {s : State} (hc : s.sound) (lid : ℕ) (b : Beat) : (State.sample s lid b).sound := by
  unfold State.sample
  repeat' (with_reducible first | assumption | dsimp only | exact sound_reset | intro sp | refine foldl_fst_sound ?_ (fun a x hx => ?_) | refine getD_sound (fun t ht => ?_) ?_ | refine foldl_sound ?_ (fun s x hx => ?_) | apply State.core_legal | exact reset_legal | refine foldl_legal ?_ (fun p x hx => ?_) | (simp only [State.sound_mk]; apply State.sound.split))

theorem State.consume_sound {s : State} (hc : s.sound) (e : Elem) (took : List ℕ) : (State.consume s e took).sound := by
  unfold State.consume
  repeat' (with_reducible first | assumption | dsimp only | exact sound_reset | intro sp | apply State.take_sound | apply State.updElem_sound | refine foldl_fst_sound ?_ (fun a x hx => ?_) | refine getD_sound (fun t ht => ?_) ?_ | refine foldl_sound ?_ (fun s x hx => ?_) | apply State.core_legal | exact reset_legal | refine foldl_legal ?_ (fun p x hx => ?_) | (intro p hp) | split)

theorem State.discardLoop_sound {s : State} (hc : s.sound) (e : Elem) (took : List ℕ) : (State.discardLoop s e took).sound := by
  unfold State.discardLoop
  repeat' (with_reducible first | assumption | dsimp only | exact sound_reset | intro sp | apply State.consume_sound | apply State.updChan_sound | apply State.emitOn_sound | refine foldl_fst_sound ?_ (fun a x hx => ?_) | refine getD_sound (fun t ht => ?_) ?_ | refine foldl_sound ?_ (fun s x hx => ?_) | apply State.core_legal | exact reset_legal | refine foldl_legal ?_ (fun p x hx => ?_) | (intro p hp) | split)

theorem CoreCtx.illegal_sound {s : State} (hc : s.sound) {x : CoreCtx} (hlx : x.pc.legal) (lsid : ℕ) : (CoreCtx.illegal x s lsid).sound := by
  unfold CoreCtx.illegal
  repeat' (with_reducible first | assumption | dsimp only | exact sound_reset | intro sp | apply CoreCtx.fail_sound)

theorem State.setBarrier_sound {s : State} (hc : s.sound) (b : Barrier) : (State.setBarrier s b).sound := by
  unfold State.setBarrier
  repeat' (with_reducible first | assumption | dsimp only | exact sound_reset | intro sp | refine foldl_fst_sound ?_ (fun a x hx => ?_) | refine getD_sound (fun t ht => ?_) ?_ | refine foldl_sound ?_ (fun s x hx => ?_) | apply State.core_legal | exact reset_legal | refine foldl_legal ?_ (fun p x hx => ?_) | (simp only [State.sound_mk]; apply State.sound.split))

theorem PageCore.setSeen_legal {p : PageCore} (hc : p.legal) (k : ℕ) (v : Option ℕ) : (PageCore.setSeen p k v).legal := by
  unfold PageCore.setSeen
  repeat' (with_reducible first | assumption | dsimp only | exact sound_reset | intro sp | refine foldl_fst_sound ?_ (fun a x hx => ?_) | refine getD_sound (fun t ht => ?_) ?_ | refine foldl_sound ?_ (fun s x hx => ?_) | apply State.core_legal | exact reset_legal | refine foldl_legal ?_ (fun p x hx => ?_) | (simp only [PageCore.legal_mk, List.length_map, setAt_length]; apply PageCore.legal.split) | (intro p hp) | split)

theorem State.barInit_sound {s : State} (hc : s.sound) (c : CoreRef) (k n : ℕ) : (s.barInit c k n).sound := by
  refine ⟨fun e he => ?_, hc.2⟩
  obtain ⟨x, hx, rfl⟩ := List.mem_map.mp he
  have h := hc.1 x hx
  split
  · exact PageCore.setSeen_legal h _ _
  · exact h

theorem State.retireAt_sound {s : State} (hc : s.sound) (f : FilterRef) (serial : ℕ) : (State.retireAt s f serial).sound := by
  unfold State.retireAt
  split
  · exact State.dormantMap_sound hc _ (fun d => by split <;> rfl)
  · exact State.dropEntries_sound hc _ _

theorem State.answerDead_sound {s : State} (hc : s.sound) (lane : ℕ) (dead : ℕ → Bool) (mine : Waiter → Bool) : (State.answerDead s lane dead mine).sound := by
  unfold State.answerDead
  repeat' (with_reducible first | assumption | dsimp only | exact sound_reset | intro sp | apply State.answer_sound | refine foldl_fst_sound ?_ (fun a x hx => ?_) | refine getD_sound (fun t ht => ?_) ?_ | refine foldl_sound ?_ (fun s x hx => ?_) | apply State.core_legal | exact reset_legal | refine foldl_legal ?_ (fun p x hx => ?_) | (simp only [State.sound_mk]; apply State.sound.split))

theorem State.updOp_sound {s : State} (hc : s.sound) (r : NodeRef) (e : ℕ) (f : NodeOp → NodeOp) : (State.updOp s r e f).sound := by
  unfold State.updOp
  repeat' (with_reducible first | assumption | dsimp only | exact sound_reset | intro sp | apply State.updNode_sound)

theorem State.dropLate_sound {s : State} (hc : s.sound) (n : MemNode) (e : PruneEnt) : (State.dropLate s n e).sound := by
  unfold State.dropLate
  repeat' (with_reducible first | assumption | dsimp only | exact sound_reset | intro sp | apply State.mapCore_sound | apply State.updOp_sound | refine foldl_fst_sound ?_ (fun a x hx => ?_) | refine getD_sound (fun t ht => ?_) ?_ | refine foldl_sound ?_ (fun s x hx => ?_) | apply State.core_legal | exact reset_legal | refine foldl_legal ?_ (fun p x hx => ?_) | (simp only [PageCore.legal_mk, List.length_map, setAt_length]; apply PageCore.legal.split) | (simp only [State.sound_mk]; apply State.sound.split) | (intro p hp) | split)

theorem State.fillWord_sound {s : State} (hc : s.sound) (pa : ℕ) (bs : List Byte) : (State.fillWord s pa bs).sound := by
  unfold State.fillWord
  repeat' (with_reducible first | assumption | dsimp only | exact sound_reset | intro sp | apply State.setPresent_sound | apply State.store_sound)

theorem State.writeG_sound {s : State} (hc : s.sound) {pa : ℕ} {va : ℕ} {bs : List Byte} {lane : ℕ} {g : ℕ} {dead : Bool} {who : Waiter} {res : State} {oth} (heq : State.writeG s pa va bs lane g dead who = (res, oth)) : res.sound := by
  unfold State.writeG at heq
  repeat' (with_reducible first | dsimp only at heq | split at heq)
  all_goals (first | (cases heq; done) | (obtain ⟨_, _, rfl⟩ := Option.map_eq_some_iff.mp heq) | (cases heq))
  all_goals repeat' (with_reducible first | assumption | dsimp only | exact sound_reset | intro sp | apply State.fillWord_sound | apply State.setLine_sound | refine foldl_fst_sound ?_ (fun a x hx => ?_) | refine getD_sound (fun t ht => ?_) ?_ | refine foldl_sound ?_ (fun s x hx => ?_) | apply State.core_legal | exact reset_legal | refine foldl_legal ?_ (fun p x hx => ?_) | (simp only [State.sound_mk]; apply State.sound.split))

theorem State.writeG_sound_fst {s : State} (hc : s.sound) {pa : ℕ} {va : ℕ} {bs : List Byte} {lane : ℕ} {g : ℕ} {dead : Bool} {who : Waiter} : (State.writeG s pa va bs lane g dead who).1.sound := State.writeG_sound hc rfl

theorem State.countStale_sound {s : State} (hc : s.sound) (die : ℕ) (phys : ℕ) : (State.countStale s die phys).sound := by
  exact ⟨hc.1, hc.2.1, hc.2.2.1, hc.2.2.2.1, hc.2.2.2.2.1, cellSet_wf _ _ (Nat.zero_le _) hc.2.2.2.2.2⟩

theorem State.writeWord_sound {s : State} (hc : s.sound) {w : Machine.Writer} {x : Xlat} {gen : ℕ} {o : ℕ} {word : List Byte} {res : State} {oth} (heq : State.writeWord s w x gen o word = (res, oth)) : res.sound := by
  unfold State.writeWord at heq
  repeat' (with_reducible first | dsimp only at heq | split at heq)
  all_goals (first | (cases heq; done) | (obtain ⟨_, _, rfl⟩ := Option.map_eq_some_iff.mp heq) | (cases heq))
  all_goals repeat' (with_reducible first | assumption | dsimp only | exact sound_reset | intro sp | apply State.fillWord_sound | refine State.writeG_sound ?_ (by assumption) | apply State.writeG_sound_fst | apply State.countStale_sound | apply State.updNode_sound)

theorem State.writeWord_sound_fst {s : State} (hc : s.sound) {w : Machine.Writer} {x : Xlat} {gen : ℕ} {o : ℕ} {word : List Byte} : (State.writeWord s w x gen o word).1.sound := State.writeWord_sound hc rfl

theorem State.writeWords_sound_fst {s : State} (hc : s.sound) (w : Writer) (x : Xlat) (gen : Nat) (bs : List Byte) :
    (s.writeWords w x gen bs).1.sound := by
  unfold State.writeWords
  refine foldl_fst_sound hc (fun a x hx => ?_)
  exact State.writeWord_sound_fst hx

theorem State.writeWords_sound {s : State} (hc : s.sound) {w : Writer} {x : Xlat} {gen : Nat} {bs : List Byte} {res : State} {oth}
    (heq : s.writeWords w x gen bs = (res, oth)) : res.sound := by
  have h := State.writeWords_sound_fst hc w x gen bs
  rwa [heq] at h

theorem State.retryHeld_sound {s : State} (hc : s.sound) (line : ℕ) : (State.retryHeld s line).sound := by
  unfold State.retryHeld
  repeat' (with_reducible first | assumption | dsimp only | exact sound_reset | intro sp | refine State.writeWords_sound ?_ (by assumption) | apply State.writeWords_sound_fst | apply State.mapCore_sound | apply latchFault_sound | apply State.updNode_sound | apply State.freezeAccess_sound | refine foldl_fst_sound ?_ (fun a x hx => ?_) | refine getD_sound (fun t ht => ?_) ?_ | refine foldl_sound ?_ (fun s x hx => ?_) | apply State.core_legal | exact reset_legal | refine foldl_legal ?_ (fun p x hx => ?_) | (simp only [PageCore.legal_mk, List.length_map, setAt_length]; apply PageCore.legal.split) | (simp only [State.sound_mk]; apply State.sound.split) | (intro p hp) | split)

theorem State.clearLine_sound {s : State} (hc : s.sound) (line : ℕ) : (State.clearLine s line).sound := by
  unfold State.clearLine
  repeat' (with_reducible first | assumption | dsimp only | exact sound_reset | intro sp | apply State.setLine_sound | apply State.store_sound | refine foldl_fst_sound ?_ (fun a x hx => ?_) | refine getD_sound (fun t ht => ?_) ?_ | refine foldl_sound ?_ (fun s x hx => ?_) | apply State.core_legal | exact reset_legal | refine foldl_legal ?_ (fun p x hx => ?_) | (simp only [State.sound_mk]; apply State.sound.split))

theorem State.tillLine_sound {s : State} (hc : s.sound) (line : ℕ) : (State.tillLine s line).sound := by
  unfold State.tillLine
  repeat' (with_reducible first | assumption | dsimp only | exact sound_reset | intro sp | apply State.answerDeferred_sound | apply State.retryHeld_sound | apply State.clearLine_sound)

theorem State.tillVirtual_sound {s : State} (hc : s.sound) (n : MemNode) (e : PruneEnt) (line : ℕ) : (State.tillVirtual s n e line).sound := by
  unfold State.tillVirtual
  repeat' (with_reducible first | assumption | dsimp only | exact sound_reset | intro sp | apply State.tillLine_sound | refine foldl_fst_sound ?_ (fun a x hx => ?_) | refine getD_sound (fun t ht => ?_) ?_ | refine foldl_sound ?_ (fun s x hx => ?_) | apply State.core_legal | exact reset_legal | refine foldl_legal ?_ (fun p x hx => ?_) | (intro p hp) | split)

theorem State.pruneWork_sound {s : State} (hc : s.sound) (n : MemNode) (e : PruneEnt) : (State.pruneWork s n e).sound := by
  unfold State.pruneWork
  repeat' (with_reducible first | assumption | dsimp only | exact sound_reset | intro sp | apply State.answerDead_sound | apply State.dropLate_sound | apply State.tillVirtual_sound | apply State.updNode_sound | refine foldl_fst_sound ?_ (fun a x hx => ?_) | refine getD_sound (fun t ht => ?_) ?_ | refine foldl_sound ?_ (fun s x hx => ?_))

theorem State.finishScan_sound {s : State} (hc : s.sound) (r : NodeRef) : (State.finishScan s r).sound := by
  unfold State.finishScan
  repeat' (with_reducible first | assumption | dsimp only | exact sound_reset | intro sp | apply State.pruneWork_sound | apply State.reportDrain_sound | apply State.updNode_sound | refine foldl_fst_sound ?_ (fun a x hx => ?_) | refine getD_sound (fun t ht => ?_) ?_ | refine foldl_sound ?_ (fun s x hx => ?_) | apply State.core_legal | exact reset_legal | refine foldl_legal ?_ (fun p x hx => ?_) | (intro p hp) | split)

theorem CoreCtx.name_sound {s : State} (hc : s.sound) {x : CoreCtx} (hlx : x.pc.legal) (k : ℕ) (a : Act) : (CoreCtx.name x s k a).sound := by
  unfold CoreCtx.name
  repeat' (with_reducible first | assumption | dsimp only | exact sound_reset | intro sp | apply CoreCtx.illegal_sound | apply CoreCtx.ask_sound | refine foldl_fst_sound ?_ (fun a x hx => ?_) | refine getD_sound (fun t ht => ?_) ?_ | refine foldl_sound ?_ (fun s x hx => ?_) | apply State.core_legal | exact reset_legal | refine foldl_legal ?_ (fun p x hx => ?_) | (intro p hp) | split)

theorem PageCore.feedAcc_legal {p : PageCore} (hc : p.legal) (port : ℕ) (rst : Bool) (op : ℕ) (k : ℕ) : (PageCore.feedAcc p port rst op k).legal := by
  unfold PageCore.feedAcc
  repeat' (with_reducible first | assumption | dsimp only | exact sound_reset | intro sp | refine foldl_fst_sound ?_ (fun a x hx => ?_) | refine getD_sound (fun t ht => ?_) ?_ | refine foldl_sound ?_ (fun s x hx => ?_) | apply State.core_legal | exact reset_legal | refine foldl_legal ?_ (fun p x hx => ?_) | (simp only [PageCore.legal_mk, List.length_map, setAt_length]; apply PageCore.legal.split) | (intro p hp) | split)

theorem CoreCtx.laneAsk_sound {s : State} (hc : s.sound) {x : CoreCtx} (hlx : x.pc.legal) (lsid : ℕ) (a : Act) : (CoreCtx.laneAsk x s lsid a).sound := by
  unfold CoreCtx.laneAsk
  repeat' (with_reducible first | assumption | dsimp only | exact sound_reset | intro sp | apply CoreCtx.fail_sound | apply CoreCtx.ask_sound | refine foldl_fst_sound ?_ (fun a x hx => ?_) | refine getD_sound (fun t ht => ?_) ?_ | refine foldl_sound ?_ (fun s x hx => ?_) | apply State.core_legal | exact reset_legal | refine foldl_legal ?_ (fun p x hx => ?_) | (intro p hp) | split)

theorem CoreCtx.moveTile_sound {s : State} (hc : s.sound) {x : CoreCtx} (hlx : x.pc.legal) (lsid : ℕ) (v : DWord) (wr : Bool) (op : ℕ → List Span → TileOp) : (CoreCtx.moveTile x s lsid v wr op).sound := by
  unfold CoreCtx.moveTile
  repeat' (with_reducible first | assumption | dsimp only | exact sound_reset | intro sp | apply CoreCtx.fail_sound | apply CoreCtx.ask_sound | refine foldl_fst_sound ?_ (fun a x hx => ?_) | refine getD_sound (fun t ht => ?_) ?_ | refine foldl_sound ?_ (fun s x hx => ?_) | apply State.core_legal | exact reset_legal | refine foldl_legal ?_ (fun p x hx => ?_) | (intro p hp) | split)

theorem State.noteTurn_sound {s : State} (hc : s.sound) (e : Elem) : (State.noteTurn s e).sound := by
  unfold State.noteTurn
  repeat' (with_reducible first | assumption | dsimp only | exact sound_reset | intro sp | apply State.updPlot_sound | refine foldl_fst_sound ?_ (fun a x hx => ?_) | refine getD_sound (fun t ht => ?_) ?_ | refine foldl_sound ?_ (fun s x hx => ?_) | apply State.core_legal | exact reset_legal | refine foldl_legal ?_ (fun p x hx => ?_) | (intro p hp) | split)

theorem State.sectionOver_sound {s : State} (hc : s.sound) (g : PageRef) (root : ℕ) : (State.sectionOver s g root).sound := by
  unfold State.sectionOver
  repeat' (with_reducible first | assumption | dsimp only | exact sound_reset | intro sp | refine foldl_fst_sound ?_ (fun a x hx => ?_) | refine getD_sound (fun t ht => ?_) ?_ | refine foldl_sound ?_ (fun s x hx => ?_) | apply State.core_legal | exact reset_legal | refine foldl_legal ?_ (fun p x hx => ?_) | (simp only [State.sound_mk]; apply State.sound.split))

theorem State.endFree_sound {s : State} (hc : s.sound) (g : PageRef) (ctx : ℕ) : (State.endFree s g ctx).sound := by
  unfold State.endFree
  repeat' (with_reducible first | assumption | dsimp only | exact sound_reset | intro sp | apply State.updTrellis_sound | apply State.updLeaf_sound | apply State.sectionOver_sound | refine foldl_fst_sound ?_ (fun a x hx => ?_) | refine getD_sound (fun t ht => ?_) ?_ | refine foldl_sound ?_ (fun s x hx => ?_))

theorem State.updArray_sound {s : State} (hc : s.sound) (g : PageRef) (ctx : ℕ) (f : ArrayUnit → ArrayUnit) : (State.updArray s g ctx f).sound := by
  unfold State.updArray
  repeat' (with_reducible first | assumption | dsimp only | exact sound_reset | intro sp | refine foldl_fst_sound ?_ (fun a x hx => ?_) | refine getD_sound (fun t ht => ?_) ?_ | refine foldl_sound ?_ (fun s x hx => ?_) | apply State.core_legal | exact reset_legal | refine foldl_legal ?_ (fun p x hx => ?_) | (simp only [State.sound_mk]; apply State.sound.split))

theorem State.fireArray_sound {s : State} (hc : s.sound) (e : Elem) : (State.fireArray s e).sound := by
  unfold State.fireArray
  repeat' (with_reducible first | assumption | dsimp only | exact sound_reset | intro sp | apply State.updElem_sound | apply State.useFree_sound | apply State.noteTurn_sound | apply State.endFree_sound | apply State.updArray_sound | refine foldl_fst_sound ?_ (fun a x hx => ?_) | refine getD_sound (fun t ht => ?_) ?_ | refine foldl_sound ?_ (fun s x hx => ?_) | apply State.core_legal | exact reset_legal | refine foldl_legal ?_ (fun p x hx => ?_) | (intro p hp) | split)

theorem State.takeNotice_sound {s : State} (hc : s.sound) (dest : NoticeTo) (lane : ℕ) (gen : ℕ) : (State.takeNotice s dest lane gen).sound := by
  unfold State.takeNotice
  repeat' (with_reducible first | assumption | dsimp only | exact sound_reset | intro sp | apply State.applyNotice_sound | apply State.setSprout_sound | refine foldl_fst_sound ?_ (fun a x hx => ?_) | refine getD_sound (fun t ht => ?_) ?_ | refine foldl_sound ?_ (fun s x hx => ?_) | apply State.core_legal | exact reset_legal | refine foldl_legal ?_ (fun p x hx => ?_) | (intro p hp) | split)

theorem State.parkSeqs_sound {s : State} (hc : s.sound) (lid : ℕ) : (State.parkSeqs s lid).sound := by
  unfold State.parkSeqs
  repeat' (with_reducible first | assumption | dsimp only | exact sound_reset | intro sp | apply State.mapLaunch_sound | refine foldl_fst_sound ?_ (fun a x hx => ?_) | refine getD_sound (fun t ht => ?_) ?_ | refine foldl_sound ?_ (fun s x hx => ?_) | apply State.core_legal | exact reset_legal | refine foldl_legal ?_ (fun p x hx => ?_) | (simp only [State.sound_mk]; apply State.sound.split))

theorem CoreCtx.tileOp_sound {s : State} (hc : s.sound) {x : CoreCtx} (hlx : x.pc.legal) (lsid : ℕ) (check : Shadow → Bool) (op : Shadow → TileOp) : (CoreCtx.tileOp x s lsid check op).sound := by
  unfold CoreCtx.tileOp
  repeat' (with_reducible first | assumption | dsimp only | exact sound_reset | intro sp | apply CoreCtx.ask_sound | apply CoreCtx.illegal_sound | refine foldl_fst_sound ?_ (fun a x hx => ?_) | refine getD_sound (fun t ht => ?_) ?_ | refine foldl_sound ?_ (fun s x hx => ?_) | apply State.core_legal | exact reset_legal | refine foldl_legal ?_ (fun p x hx => ?_) | (intro p hp) | split)

theorem State.issuePrune_sound {s : State} (hc : s.sound) (d : ℕ) (lane : ℕ) (lo : ℕ) (hi : ℕ) : (State.issuePrune s d lane lo hi).sound := by
  unfold State.issuePrune
  repeat' (with_reducible first | assumption | dsimp only | exact sound_reset | intro sp | apply State.setSprout_sound | apply State.queuePair_sound)

theorem State.doPrune_sound {s : State} (hc : s.sound) (d : ℕ) (i : ℕ) (lo : ℕ) (hi : ℕ) : (State.doPrune s d i lo hi).sound := by
  unfold State.doPrune
  repeat' (with_reducible first | assumption | dsimp only | exact sound_reset | intro sp | apply State.setSprout_sound | apply State.issuePrune_sound | refine foldl_fst_sound ?_ (fun a x hx => ?_) | refine getD_sound (fun t ht => ?_) ?_ | refine foldl_sound ?_ (fun s x hx => ?_) | apply State.core_legal | exact reset_legal | refine foldl_legal ?_ (fun p x hx => ?_) | (intro p hp) | split)

theorem State.updEth_sound {s : State} (hc : s.sound) (n : ℕ) (f : EthPort → EthPort) : (State.updEth s n f).sound := by
  unfold State.updEth
  repeat' (with_reducible first | assumption | dsimp only | exact sound_reset | intro sp | refine foldl_fst_sound ?_ (fun a x hx => ?_) | refine getD_sound (fun t ht => ?_) ?_ | refine foldl_sound ?_ (fun s x hx => ?_) | apply State.core_legal | exact reset_legal | refine foldl_legal ?_ (fun p x hx => ?_) | (simp only [State.sound_mk]; apply State.sound.split) | (intro p hp) | split)

theorem State.pause_sound {s : State} (hc : s.sound) (port : ℕ) (prio : ℕ) (on : Bool) : (State.pause s port prio on).sound := by
  unfold State.pause
  repeat' (with_reducible first | assumption | dsimp only | exact sound_reset | intro sp | apply State.updEth_sound | apply State.send_sound | refine foldl_fst_sound ?_ (fun a x hx => ?_) | refine getD_sound (fun t ht => ?_) ?_ | refine foldl_sound ?_ (fun s x hx => ?_) | apply State.core_legal | exact reset_legal | refine foldl_legal ?_ (fun p x hx => ?_) | (intro p hp) | split)

theorem State.mapHead_sound {s : State} (hc : s.sound) (c : CoreRef) (f : Block → Block) : (State.mapHead s c f).sound := by
  unfold State.mapHead
  refine State.mapCore_sound hc c (fun p hp => ?_)
  split
  · exact hp
  · rename_i b r hb
    exact ⟨hp.1, hp.2.1, (congrArg List.length hb).symm.trans_le hp.2.2⟩

theorem State.defer_sound {s : State} (hc : s.sound) (who : Waiter) (sp : Span) (gen : ℕ) : (State.defer s who sp gen).sound := by
  unfold State.defer
  repeat' (with_reducible first | assumption | dsimp only | exact sound_reset | intro sp | refine foldl_fst_sound ?_ (fun a x hx => ?_) | refine getD_sound (fun t ht => ?_) ?_ | refine foldl_sound ?_ (fun s x hx => ?_) | apply State.core_legal | exact reset_legal | refine foldl_legal ?_ (fun p x hx => ?_) | (simp only [State.sound_mk]; apply State.sound.split))

theorem State.hostAsk_sound {s : State} (hc : s.sound) (node : ℕ) (addr : ℕ) (len : ℕ) : (State.hostAsk s node addr len).sound := by
  unfold State.hostAsk
  repeat' (with_reducible first | assumption | dsimp only | exact sound_reset | intro sp | apply State.memFlits_sound | apply State.send_sound | refine foldl_fst_sound ?_ (fun a x hx => ?_) | refine getD_sound (fun t ht => ?_) ?_ | refine foldl_sound ?_ (fun s x hx => ?_) | apply State.core_legal | exact reset_legal | refine foldl_legal ?_ (fun p x hx => ?_) | (intro p hp) | split)

theorem State.askSpan_sound {s : State} (hc : s.sound) (sp : Span) : (State.askSpan s sp).sound := by
  unfold State.askSpan
  repeat' (with_reducible first | assumption | dsimp only | exact sound_reset | intro sp | apply State.hostAsk_sound | refine foldl_fst_sound ?_ (fun a x hx => ?_) | refine getD_sound (fun t ht => ?_) ?_ | refine foldl_sound ?_ (fun s x hx => ?_) | apply State.core_legal | exact reset_legal | refine foldl_legal ?_ (fun p x hx => ?_) | (intro p hp) | split)

theorem performRead_sound {s : State} (hc : s.sound) (c : CoreRef) (uid : ℕ) (slot : ℕ) (kind : ℕ) (gen : ℕ) (ws : List (Span × List Byte)) (sp : Span) : (performRead s c uid slot kind gen ws sp).sound := by
  unfold performRead
  repeat' (with_reducible first | assumption | dsimp only | exact sound_reset | intro sp | apply State.respond_sound | apply State.readError_sound | apply State.eccMeet_sound | apply State.defer_sound | apply State.askSpan_sound | apply State.useFree_sound | refine foldl_fst_sound ?_ (fun a x hx => ?_) | refine getD_sound (fun t ht => ?_) ?_ | refine foldl_sound ?_ (fun s x hx => ?_) | apply State.core_legal | exact reset_legal | refine foldl_legal ?_ (fun p x hx => ?_) | (intro p hp) | split)

theorem State.heldRead_sound {s : State} (hc : s.sound) (c : CoreRef) (b : Block) (slot : ℕ) (kind : ℕ) (sp : Span) : (State.heldRead s c b slot kind sp).sound := by
  unfold State.heldRead
  repeat' (with_reducible first | assumption | dsimp only | exact sound_reset | intro sp | apply performRead_sound)

theorem State.writeGth_sound {s : State} (hc : s.sound) (d : ℕ) (k : ℕ) (v : DWord) : (State.writeGth s d k v).sound := by
  unfold State.writeGth
  repeat' (with_reducible first | assumption | dsimp only | exact sound_reset | intro sp | apply State.setSprout_sound | refine foldl_fst_sound ?_ (fun a x hx => ?_) | refine getD_sound (fun t ht => ?_) ?_ | refine foldl_sound ?_ (fun s x hx => ?_) | apply State.core_legal | exact reset_legal | refine foldl_legal ?_ (fun p x hx => ?_) | (intro p hp) | split)

theorem State.tryClose_sound {s : State} (hc : s.sound) (d : ℕ) (i : ℕ) : (State.tryClose s d i).sound := by
  unfold State.tryClose
  repeat' (with_reducible first | assumption | dsimp only | exact sound_reset | intro sp | apply State.setSprout_sound | refine foldl_fst_sound ?_ (fun a x hx => ?_) | refine getD_sound (fun t ht => ?_) ?_ | refine foldl_sound ?_ (fun s x hx => ?_) | apply State.core_legal | exact reset_legal | refine foldl_legal ?_ (fun p x hx => ?_) | (intro p hp) | split)

theorem State.launchPos_sound {s : State} (hc : s.sound) (d : ℕ) (i : ℕ) (q : ℕ) (t : ℕ) (forced : Bool) : (State.launchPos s d i q t forced).sound := by
  unfold State.launchPos
  repeat' (with_reducible first | assumption | dsimp only | exact sound_reset | intro sp | apply State.setSprout_sound | apply State.mapCore_sound | apply PageCore.queueSrc_legal | refine foldl_fst_sound ?_ (fun a x hx => ?_) | refine getD_sound (fun t ht => ?_) ?_ | refine foldl_sound ?_ (fun s x hx => ?_) | apply State.core_legal | exact reset_legal | refine foldl_legal ?_ (fun p x hx => ?_) | (intro p hp) | split)

theorem State.retry_sound {s : State} (hc : s.sound) (d : ℕ) (i : ℕ) : (State.retry s d i).sound := by
  unfold State.retry
  repeat' (with_reducible first | assumption | dsimp only | exact sound_reset | intro sp | apply State.launchPos_sound | refine foldl_fst_sound ?_ (fun a x hx => ?_) | refine getD_sound (fun t ht => ?_) ?_ | refine foldl_sound ?_ (fun s x hx => ?_) | apply State.core_legal | exact reset_legal | refine foldl_legal ?_ (fun p x hx => ?_) | (intro p hp) | split)

theorem State.settle_sound {s : State} (hc : s.sound) (d : ℕ) (i : ℕ) : (State.settle s d i).sound := by
  unfold State.settle
  repeat' (with_reducible first | assumption | dsimp only | exact sound_reset | intro sp | apply State.tryClose_sound | apply State.retry_sound)

theorem State.writeMaxfl_sound {s : State} (hc : s.sound) (d : ℕ) (i : ℕ) (v : DWord) : (State.writeMaxfl s d i v).sound := by
  unfold State.writeMaxfl
  repeat' (with_reducible first | assumption | dsimp only | exact sound_reset | intro sp | apply State.settle_sound | apply State.setSprout_sound | refine foldl_fst_sound ?_ (fun a x hx => ?_) | refine getD_sound (fun t ht => ?_) ?_ | refine foldl_sound ?_ (fun s x hx => ?_) | apply State.core_legal | exact reset_legal | refine foldl_legal ?_ (fun p x hx => ?_) | (intro p hp) | split)

theorem State.setProf_sound {s : State} (hc : s.sound) (p : EngProf) : (State.setProf s p).sound := by
  unfold State.setProf
  repeat' (with_reducible first | assumption | dsimp only | exact sound_reset | intro sp | refine foldl_fst_sound ?_ (fun a x hx => ?_) | refine getD_sound (fun t ht => ?_) ?_ | refine foldl_sound ?_ (fun s x hx => ?_) | apply State.core_legal | exact reset_legal | refine foldl_legal ?_ (fun p x hx => ?_) | (simp only [State.sound_mk]; apply State.sound.split))

theorem State.regWrite_sound {s : State} (hc : s.sound) (pa : ℕ) (v : DWord) : (State.regWrite s pa v).sound := by
  unfold State.regWrite
  repeat' (with_reducible first | assumption | dsimp only | exact sound_reset | intro sp | apply State.writeGth_sound | apply State.writeMaxfl_sound | apply State.setProf_sound | refine foldl_fst_sound ?_ (fun a x hx => ?_) | refine getD_sound (fun t ht => ?_) ?_ | refine foldl_sound ?_ (fun s x hx => ?_) | apply State.core_legal | exact reset_legal | refine foldl_legal ?_ (fun p x hx => ?_) | (intro p hp) | split)

theorem State.coreRegWrite_sound {s : State} (hc : s.sound) (lid : ℕ) (pa : ℕ) (bs : List Byte) : (State.coreRegWrite s lid pa bs).sound := by
  unfold State.coreRegWrite
  repeat' (with_reducible first | assumption | dsimp only | exact sound_reset | intro sp | apply State.regWrite_sound | refine foldl_fst_sound ?_ (fun a x hx => ?_) | refine getD_sound (fun t ht => ?_) ?_ | refine foldl_sound ?_ (fun s x hx => ?_) | apply State.core_legal | exact reset_legal | refine foldl_legal ?_ (fun p x hx => ?_) | (intro p hp) | split)

theorem State.writeSpan_sound_fst {s : State} (hc : s.sound) (w : Writer) (gen : Nat) (sp : Span) (bs : List Byte) :
    (s.writeSpan w gen sp bs).1.sound := by
  induction sp generalizing s bs with
  | nil => exact State.answerDeferred_sound hc
  | cons e r ih =>
    obtain ⟨x, n⟩ := e
    unfold State.writeSpan
    refine ih ?_ _
    split
    · exact State.writeWords_sound_fst hc _ _ _ _
    · split
      · exact State.coreRegWrite_sound hc _ _ _
      · exact hc
      · exact State.hostStore_sound hc _ _ _ _
      · exact State.store_sound hc _ _

theorem State.writeSpan_sound {s : State} (hc : s.sound) {w : Writer} {gen : Nat} {sp : Span} {bs : List Byte} {res : State} {oth}
    (heq : s.writeSpan w gen sp bs = (res, oth)) : res.sound := by
  have h := State.writeSpan_sound_fst hc w gen sp bs
  rwa [heq] at h

theorem State.tillSpan_sound {s : State} (hc : s.sound) (c : CoreRef) (sp : Span) (g : Bool) : (State.tillSpan s c sp g).sound := by
  unfold State.tillSpan
  repeat' (with_reducible first | assumption | dsimp only | exact sound_reset | intro sp | apply State.tillLine_sound | refine foldl_fst_sound ?_ (fun a x hx => ?_) | refine getD_sound (fun t ht => ?_) ?_ | refine foldl_sound ?_ (fun s x hx => ?_) | apply State.core_legal | exact reset_legal | refine foldl_legal ?_ (fun p x hx => ?_) | (intro p hp) | split)

theorem State.atomicAt_sound {s : State} (hc : s.sound) {pa : ℕ} {a : AtomOp} {res : State} {oth} (heq : State.atomicAt s pa a = (res, oth)) : res.sound := by
  unfold State.atomicAt at heq
  repeat' (with_reducible first | dsimp only at heq | split at heq)
  all_goals (first | (cases heq; done) | (obtain ⟨_, _, rfl⟩ := Option.map_eq_some_iff.mp heq) | (cases heq))
  all_goals repeat' (with_reducible first | assumption | dsimp only | exact sound_reset | intro sp | apply State.store_sound)

theorem State.atomicAt_sound_fst {s : State} (hc : s.sound) {pa : ℕ} {a : AtomOp} : (State.atomicAt s pa a).1.sound := State.atomicAt_sound hc rfl

theorem State.updReplay_sound {s : State} (hc : s.sound) (lid : ℕ) (f : Replay → Replay) : (State.updReplay s lid f).sound := by
  unfold State.updReplay
  repeat' (with_reducible first | assumption | dsimp only | exact sound_reset | intro sp | refine foldl_fst_sound ?_ (fun a x hx => ?_) | refine getD_sound (fun t ht => ?_) ?_ | refine foldl_sound ?_ (fun s x hx => ?_) | apply State.core_legal | exact reset_legal | refine foldl_legal ?_ (fun p x hx => ?_) | (simp only [State.sound_mk]; apply State.sound.split))

theorem State.diverged_sound {s : State} (hc : s.sound) (lid : ℕ) : (State.diverged s lid).sound := by
  unfold State.diverged
  repeat' (with_reducible first | assumption | dsimp only | exact sound_reset | intro sp | apply State.haltLaunch_sound | apply State.endWith_sound)

theorem State.noteUpdate_sound {s : State} (hc : s.sound) (lid : ℕ) (who : ℕ) (pa : ℕ) : (State.noteUpdate s lid who pa).sound := by
  unfold State.noteUpdate
  repeat' (with_reducible first | assumption | dsimp only | exact sound_reset | intro sp | apply State.updReplay_sound | apply State.diverged_sound | refine foldl_fst_sound ?_ (fun a x hx => ?_) | refine getD_sound (fun t ht => ?_) ?_ | refine foldl_sound ?_ (fun s x hx => ?_) | apply State.core_legal | exact reset_legal | refine foldl_legal ?_ (fun p x hx => ?_) | (intro p hp) | split)

theorem State.performPosted_sound {s : State} (hc : s.sound) (c : CoreRef) (q : Posted) : (State.performPosted s c q).sound := by
  unfold State.performPosted
  repeat' (with_reducible first | assumption | dsimp only | exact sound_reset | intro sp | apply State.mapCore_sound | apply latchFault_sound | apply State.eccMeet_sound | refine State.writeSpan_sound ?_ (by assumption) | apply State.writeSpan_sound_fst | apply State.tillSpan_sound | refine State.atomicAt_sound ?_ (by assumption) | apply State.atomicAt_sound_fst | apply State.noteUpdate_sound | refine foldl_fst_sound ?_ (fun a x hx => ?_) | refine getD_sound (fun t ht => ?_) ?_ | refine foldl_sound ?_ (fun s x hx => ?_) | apply State.core_legal | exact reset_legal | refine foldl_legal ?_ (fun p x hx => ?_) | (simp only [PageCore.legal_mk, List.length_map, setAt_length]; apply PageCore.legal.split) | (intro p hp) | split)

theorem State.post_sound {s : State} (hc : s.sound) (c : CoreRef) (q : Posted) : (State.post s c q).sound := by
  unfold State.post
  repeat' (with_reducible first | assumption | dsimp only | exact sound_reset | intro sp | apply State.mapCore_sound | refine foldl_fst_sound ?_ (fun a x hx => ?_) | refine getD_sound (fun t ht => ?_) ?_ | refine foldl_sound ?_ (fun s x hx => ?_) | apply State.core_legal | exact reset_legal | refine foldl_legal ?_ (fun p x hx => ?_) | (simp only [PageCore.legal_mk, List.length_map, setAt_length]; apply PageCore.legal.split))

theorem State.commitStore_sound {s : State} (hc : s.sound) {c : CoreRef} {b : Block} {lsid : ℕ} {seq : ℕ} {sp : Span} {bs : List Byte} {release : Option ℕ} {gen : ℕ} {res : State} (heq : State.commitStore s c b lsid seq sp bs release gen = some res) : res.sound := by
  unfold State.commitStore at heq
  repeat' (with_reducible first | dsimp only at heq | split at heq)
  all_goals (first | (cases heq; done) | (obtain ⟨_, _, rfl⟩ := Option.map_eq_some_iff.mp heq) | (cases heq))
  all_goals repeat' (with_reducible first | assumption | dsimp only | exact sound_reset | intro sp | apply State.performPosted_sound | apply State.post_sound)

theorem State.commitAtom_sound {s : State} (hc : s.sound) {c : CoreRef} {b : Block} {lsid : ℕ} {slot : ℕ} {seq : ℕ} {va : ℕ} {sp : Span} {a : AtomOp} {order : ℕ} {scope : ℕ} {ret : Bool} {res : State} (heq : State.commitAtom s c b lsid slot seq va sp a order scope ret = some res) : res.sound := by
  unfold State.commitAtom at heq
  repeat' (with_reducible first | dsimp only at heq | split at heq)
  all_goals (first | (cases heq; done) | (obtain ⟨_, _, rfl⟩ := Option.map_eq_some_iff.mp heq) | (cases heq))
  all_goals repeat' (with_reducible first | assumption | dsimp only | exact sound_reset | intro sp | apply State.mapHead_sound | apply latchFault_sound | apply State.useFree_sound | apply State.eccMeet_sound | refine State.atomicAt_sound ?_ (by assumption) | apply State.atomicAt_sound_fst | apply State.noteUpdate_sound | apply State.post_sound)

theorem State.barArr_sound {s : State} (hc : s.sound) (c : CoreRef) (k : ℕ) : (State.barArr s c k).sound := by
  unfold State.barArr
  repeat' (with_reducible first | assumption | dsimp only | exact sound_reset | intro sp | apply State.mapCore_sound | apply PageCore.setSeen_legal | apply State.setBarrier_sound | refine foldl_fst_sound ?_ (fun a x hx => ?_) | refine getD_sound (fun t ht => ?_) ?_ | refine foldl_sound ?_ (fun s x hx => ?_) | apply State.core_legal | exact reset_legal | refine foldl_legal ?_ (fun p x hx => ?_) | (intro p hp) | split)

theorem State.updGroup_sound {s : State} (hc : s.sound) (lid : ℕ) (group : ℕ) (f : GroupRun → GroupRun) : (State.updGroup s lid group f).sound := by
  unfold State.updGroup
  repeat' (with_reducible first | assumption | dsimp only | exact sound_reset | intro sp | apply State.mapLaunch_sound)

theorem State.setSeq_sound {s : State} (hc : s.sound) (d : ℕ) (q : GraphSeq) : (State.setSeq s d q).sound := by
  unfold State.setSeq
  repeat' (with_reducible first | assumption | dsimp only | exact sound_reset | intro sp | refine foldl_fst_sound ?_ (fun a x hx => ?_) | refine getD_sound (fun t ht => ?_) ?_ | refine foldl_sound ?_ (fun s x hx => ?_) | apply State.core_legal | exact reset_legal | refine foldl_legal ?_ (fun p x hx => ?_) | (simp only [State.sound_mk]; apply State.sound.split) | (intro p hp) | split)

theorem State.spawn_sound {s : State} (hc : s.sound) {c : CoreRef} {t : Machine.Task} {res : State} (heq : State.spawn s c t = some res) : res.sound := by
  unfold State.spawn at heq
  repeat' (with_reducible first | dsimp only at heq | split at heq)
  all_goals (first | (cases heq; done) | (obtain ⟨_, _, rfl⟩ := Option.map_eq_some_iff.mp heq) | (cases heq))
  all_goals repeat' (with_reducible first | assumption | dsimp only | exact sound_reset | intro sp | apply State.updGroup_sound | apply State.setSeq_sound)

theorem State.graise_sound {s : State} (hc : s.sound) {lid : ℕ} {k : ℕ} {res : State} {oth} (heq : State.graise s lid k = (res, oth)) : res.sound := by
  unfold State.graise at heq
  repeat' (with_reducible first | dsimp only at heq | split at heq)
  all_goals (first | (cases heq; done) | (obtain ⟨_, _, rfl⟩ := Option.map_eq_some_iff.mp heq) | (cases heq))
  all_goals repeat' (with_reducible first | assumption | dsimp only | exact sound_reset | intro sp | apply State.mapLaunch_sound)

theorem State.graise_sound_fst {s : State} (hc : s.sound) {lid : ℕ} {k : ℕ} : (State.graise s lid k).1.sound := State.graise_sound hc rfl

theorem State.launchPrune_sound {s : State} (hc : s.sound) (lane : ℕ) (q : ℕ) (t : ℕ) : (State.launchPrune s lane q t).sound := by
  unfold State.launchPrune
  repeat' (with_reducible first | assumption | dsimp only | exact sound_reset | intro sp | apply State.doPrune_sound | refine foldl_fst_sound ?_ (fun a x hx => ?_) | refine getD_sound (fun t ht => ?_) ?_ | refine foldl_sound ?_ (fun s x hx => ?_) | apply State.core_legal | exact reset_legal | refine foldl_legal ?_ (fun p x hx => ?_) | (intro p hp) | split)

theorem State.launchp_sound {s : State} (hc : s.sound) {lane : ℕ} {q : ℕ} {t : ℕ} {res : State} (heq : State.launchp s lane q t = some res) : res.sound := by
  unfold State.launchp at heq
  repeat' (with_reducible first | dsimp only at heq | split at heq)
  all_goals (first | (cases heq; done) | (obtain ⟨_, _, rfl⟩ := Option.map_eq_some_iff.mp heq) | (cases heq))
  all_goals repeat' (with_reducible first | assumption | dsimp only | exact sound_reset | intro sp | apply State.launchPrune_sound | apply State.setSprout_sound | apply State.launchPos_sound)

theorem State.want_sound {s : State} (hc : s.sound) (d : ℕ) (i : ℕ) (q : ℕ) (t : ℕ) (forced : Bool) : (State.want s d i q t forced).sound := by
  unfold State.want
  repeat' (with_reducible first | assumption | dsimp only | exact sound_reset | intro sp | apply State.launchPos_sound | apply State.setSprout_sound | refine foldl_fst_sound ?_ (fun a x hx => ?_) | refine getD_sound (fun t ht => ?_) ?_ | refine foldl_sound ?_ (fun s x hx => ?_) | apply State.core_legal | exact reset_legal | refine foldl_legal ?_ (fun p x hx => ?_) | (intro p hp) | split)

theorem State.pruneCmd_sound {s : State} (hc : s.sound) (lane : ℕ) (q0 : ℕ) (t : ℕ) (relaunch : Bool) (forced : Bool) : (State.pruneCmd s lane q0 t relaunch forced).sound := by
  unfold State.pruneCmd
  repeat' (with_reducible first | assumption | dsimp only | exact sound_reset | intro sp | apply State.setSprout_sound | apply State.doPrune_sound | apply State.want_sound | apply State.settle_sound | refine foldl_fst_sound ?_ (fun a x hx => ?_) | refine getD_sound (fun t ht => ?_) ?_ | refine foldl_sound ?_ (fun s x hx => ?_) | apply State.core_legal | exact reset_legal | refine foldl_legal ?_ (fun p x hx => ?_) | (intro p hp) | split)

theorem State.seqClose_sound {s : State} (hc : s.sound) (lane : ℕ) : (State.seqClose s lane).sound := by
  unfold State.seqClose
  repeat' (with_reducible first | assumption | dsimp only | exact sound_reset | intro sp | apply State.settle_sound | apply State.setSprout_sound | refine foldl_fst_sound ?_ (fun a x hx => ?_) | refine getD_sound (fun t ht => ?_) ?_ | refine foldl_sound ?_ (fun s x hx => ?_) | apply State.core_legal | exact reset_legal | refine foldl_legal ?_ (fun p x hx => ?_) | (intro p hp) | split)

theorem State.tlbDrop_sound {s : State} (hc : s.sound) (c : CoreRef) (k : ℕ) (scope : ℕ) (va : ℕ) : (State.tlbDrop s c k scope va).sound := by
  unfold State.tlbDrop
  repeat' (with_reducible first | assumption | dsimp only | exact sound_reset | intro sp | refine foldl_fst_sound ?_ (fun a x hx => ?_) | refine getD_sound (fun t ht => ?_) ?_ | refine foldl_sound ?_ (fun s x hx => ?_) | apply State.core_legal | exact reset_legal | refine foldl_legal ?_ (fun p x hx => ?_) | (simp only [State.sound_mk]; apply State.sound.split))

theorem State.finishTlbi_sound {s : State} (hc : s.sound) (c : CoreRef) (k : ℕ) (scope : ℕ) (va : ℕ) (lsid : ℕ) : (State.finishTlbi s c k scope va lsid).sound := by
  unfold State.finishTlbi
  repeat' (with_reducible first | assumption | dsimp only | exact sound_reset | intro sp | apply State.tlbDrop_sound | apply State.mapHead_sound | apply State.mapCore_sound | apply latchFault_sound | refine foldl_fst_sound ?_ (fun a x hx => ?_) | refine getD_sound (fun t ht => ?_) ?_ | refine foldl_sound ?_ (fun s x hx => ?_) | apply State.core_legal | exact reset_legal | refine foldl_legal ?_ (fun p x hx => ?_) | (simp only [PageCore.legal_mk, List.length_map, setAt_length]; apply PageCore.legal.split))

theorem State.performAct_sound {s : State} (hc : s.sound) {c : CoreRef} {b : Block} {d : Done} {res : State} (heq : State.performAct s c b d = some res) : res.sound := by
  unfold State.performAct at heq
  repeat' (with_reducible first | dsimp only at heq | split at heq)
  all_goals (first | (cases heq; done) | (obtain ⟨_, _, rfl⟩ := Option.map_eq_some_iff.mp heq) | (cases heq) | skip)
  all_goals repeat' (with_reducible first | assumption | dsimp only | exact sound_reset | intro sp | apply State.mapHead_sound | apply State.mapCore_sound | apply State.heldRead_sound | refine State.commitStore_sound ?_ (by assumption) | apply State.post_sound | refine State.commitAtom_sound ?_ (by assumption) | apply State.barInit_sound | apply State.barArr_sound | refine State.spawn_sound ?_ (by assumption) | apply State.leafAdvance_sound | refine State.graise_sound ?_ (by assumption) | apply State.graise_sound_fst | refine State.launchp_sound ?_ (by assumption) | apply State.pruneCmd_sound | apply State.seqOpen_sound | apply State.seqClose_sound | apply State.finishTlbi_sound | refine foldl_fst_sound ?_ (fun a x hx => ?_) | refine getD_sound (fun t ht => ?_) ?_ | refine foldl_sound ?_ (fun s x hx => ?_) | apply State.core_legal | exact reset_legal | refine foldl_legal ?_ (fun p x hx => ?_) | (simp only [PageCore.legal_mk, List.length_map, setAt_length]; apply PageCore.legal.split) | (simp only [State.sound_mk]; apply State.sound.split))

theorem State.stallSpawn_sound {s : State} (hc : s.sound) (c : CoreRef) (t : Machine.Task) : (State.stallSpawn s c t).sound := by
  unfold State.stallSpawn
  repeat' (with_reducible first | assumption | dsimp only | exact sound_reset | intro sp | apply State.useFree_sound | apply State.setSeq_sound | refine foldl_fst_sound ?_ (fun a x hx => ?_) | refine getD_sound (fun t ht => ?_) ?_ | refine foldl_sound ?_ (fun s x hx => ?_) | apply State.core_legal | exact reset_legal | refine foldl_legal ?_ (fun p x hx => ?_) | (intro p hp) | split)

theorem State.heldAct_sound {s : State} (hc : s.sound) (c : CoreRef) (b : Block) (a3x : Option Done) : (State.heldAct s c b a3x).sound := by
  unfold State.heldAct
  repeat' (with_reducible first | assumption | dsimp only | exact sound_reset | intro sp | apply State.launchPrune_sound | apply State.stallSpawn_sound | refine foldl_fst_sound ?_ (fun a x hx => ?_) | refine getD_sound (fun t ht => ?_) ?_ | refine foldl_sound ?_ (fun s x hx => ?_) | apply State.core_legal | exact reset_legal | refine foldl_legal ?_ (fun p x hx => ?_) | (intro p hp) | split)

theorem State.performEffects_sound {s : State} (hc : s.sound) (c : CoreRef) (fuel : Nat) : (s.performEffects c fuel).sound := by
  induction fuel generalizing s with
  | zero => exact hc
  | succ fuel ih =>
    unfold State.performEffects
    dsimp only
    split
    · exact hc
    · split
      · exact hc
      · split
        · exact State.mapHead_sound hc _ _
        · split
          · exact State.heldAct_sound hc _ _ _
          · rename_i b _ _ _ _ _ t h
            have ht : t.sound := by
              split at h
              · exact State.performAct_sound hc h
              · cases h; exact hc
            refine ih ?_
            split
            · exact State.closeLaunch_sound (State.mapHead_sound ht _ _) _
            · exact State.mapHead_sound ht _ _

theorem PageCore.setReg_legal {p : PageCore} (hc : p.legal) (k : ℕ) (x : Img) : (PageCore.setReg p k x).legal := by
  unfold PageCore.setReg
  repeat' (with_reducible first | assumption | dsimp only | exact sound_reset | intro sp | refine foldl_fst_sound ?_ (fun a x hx => ?_) | refine getD_sound (fun t ht => ?_) ?_ | refine foldl_sound ?_ (fun s x hx => ?_) | apply State.core_legal | exact reset_legal | refine foldl_legal ?_ (fun p x hx => ?_) | (simp only [PageCore.legal_mk, List.length_map, setAt_length]; apply PageCore.legal.split) | (intro p hp) | split)

theorem mode_append : ∀ (a : BitVec 1) (x : BitVec 3), (a ++ x).toNat % 8 = x.toNat := by decide

theorem mkSstat_legal : ∀ a b c : Bool, mkSstat a b c &&& ~~~14 = 0 := by decide

theorem PageCore.writeControl_legal {p : PageCore} (hc : p.legal) (n : ℕ) (v : DWord) : (p.writeControl n v).legal := by
  unfold PageCore.writeControl
  split
  · refine ⟨?_, hc.2⟩
    dsimp only
    rw [mode_append]
    split
    · exact (BitVec.toNat_setWidth 3 p.rmode) ▸ hc.1
    · rw [BitVec.toNat_setWidth]; omega
  all_goals first | exact hc | exact ⟨hc.1, mkSstat_legal _ _ _, hc.2.2⟩

theorem PageCore.visible_legal {p : PageCore} (hc : p.legal) (b : Block) (a2x : Act) : (PageCore.visible p b a2x).legal := by
  unfold PageCore.visible
  repeat' (with_reducible first | assumption | dsimp only | exact sound_reset | intro sp | apply PageCore.setReg_legal | apply PageCore.writeControl_legal | apply PageCore.feedAcc_legal | refine foldl_fst_sound ?_ (fun a x hx => ?_) | refine getD_sound (fun t ht => ?_) ?_ | refine foldl_sound ?_ (fun s x hx => ?_) | apply State.core_legal | exact reset_legal | refine foldl_legal ?_ (fun p x hx => ?_) | (simp only [PageCore.legal_mk, List.length_map, setAt_length]; apply PageCore.legal.split) | (intro p hp) | split)

theorem State.genWritten_sound {s : State} (hc : s.sound) (c : CoreRef) (v : DWord) : (State.genWritten s c v).sound := by
  unfold State.genWritten
  repeat' (with_reducible first | assumption | dsimp only | exact sound_reset | intro sp | refine foldl_fst_sound ?_ (fun a x hx => ?_) | refine getD_sound (fun t ht => ?_) ?_ | refine foldl_sound ?_ (fun s x hx => ?_) | apply State.core_legal | exact reset_legal | refine foldl_legal ?_ (fun p x hx => ?_) | (simp only [State.sound_mk]; apply State.sound.split))

theorem State.refillSink_sound {s : State} (hc : s.sound) (c : CoreRef) (port : ℕ) : (State.refillSink s c port).sound := by
  unfold State.refillSink
  repeat' (with_reducible first | assumption | dsimp only | exact sound_reset | intro sp | apply fillSink_sound | refine foldl_fst_sound ?_ (fun a x hx => ?_) | refine getD_sound (fun t ht => ?_) ?_ | refine foldl_sound ?_ (fun s x hx => ?_))

theorem State.popSink_sound {s : State} (hc : s.sound) (c : CoreRef) (n : ℕ) : (State.popSink s c n).sound := by
  unfold State.popSink
  repeat' (with_reducible first | assumption | dsimp only | exact sound_reset | intro sp | apply State.mapCore_sound | apply State.refillSink_sound | refine foldl_fst_sound ?_ (fun a x hx => ?_) | refine getD_sound (fun t ht => ?_) ?_ | refine foldl_sound ?_ (fun s x hx => ?_) | apply State.core_legal | exact reset_legal | refine foldl_legal ?_ (fun p x hx => ?_) | (simp only [PageCore.legal_mk, List.length_map, setAt_length]; apply PageCore.legal.split) | (intro p hp) | split)

theorem State.onArray_sound {s : State} (hc : s.sound) (c : CoreRef) (f : ArrayUnit → ArrayUnit) : (State.onArray s c f).sound := by
  unfold State.onArray
  repeat' (with_reducible first | assumption | dsimp only | exact sound_reset | intro sp | apply State.updArray_sound)

theorem State.perfCfg_sound {s : State} (hc : s.sound) (c : CoreRef) (ctl : DWord) : (State.perfCfg s c ctl).sound := by
  unfold State.perfCfg
  repeat' (with_reducible first | assumption | dsimp only | exact sound_reset | intro sp | refine foldl_fst_sound ?_ (fun a x hx => ?_) | refine getD_sound (fun t ht => ?_) ?_ | refine foldl_sound ?_ (fun s x hx => ?_) | apply State.core_legal | exact reset_legal | refine foldl_legal ?_ (fun p x hx => ?_) | (simp only [State.sound_mk]; apply State.sound.split))

theorem State.outside_sound {s : State} (hc : s.sound) (c : CoreRef) (a : Act) : (State.outside s c a).sound := by
  unfold State.outside
  repeat' (with_reducible first | assumption | dsimp only | exact sound_reset | intro sp | apply State.genWritten_sound | apply State.popSink_sound | apply State.updForager_sound | apply State.onArray_sound | apply State.perfCfg_sound | apply State.updPlot_sound | refine foldl_fst_sound ?_ (fun a x hx => ?_) | refine getD_sound (fun t ht => ?_) ?_ | refine foldl_sound ?_ (fun s x hx => ?_) | apply State.core_legal | exact reset_legal | refine foldl_legal ?_ (fun p x hx => ?_) | (intro p hp) | split)

theorem State.pushSrc_sound {s : State} (hc : s.sound) (c : CoreRef) (n : ℕ) (bs : List Beat) : (State.pushSrc s c n bs).sound := by
  unfold State.pushSrc
  repeat' (with_reducible first | assumption | dsimp only | exact sound_reset | intro sp | apply State.mapCore_sound | apply PageCore.queueSrc_legal | refine foldl_fst_sound ?_ (fun a x hx => ?_) | refine getD_sound (fun t ht => ?_) ?_ | refine foldl_sound ?_ (fun s x hx => ?_) | apply State.core_legal | exact reset_legal | refine foldl_legal ?_ (fun p x hx => ?_) | (intro p hp) | split)

theorem pushAct_sound (c : CoreRef) {a : State × Staged} (h : a.1.sound) (x : Act) : (pushAct c a x).1.sound := by
  unfold pushAct
  split
  · dsimp only
    split
    · exact State.pushSrc_sound h _ _ _
    · exact h
  · exact State.pushSrc_sound h _ _ _
  · exact h

theorem State.noteCommit_sound {s : State} (hc : s.sound) (c : CoreRef) (b : Block) : (State.noteCommit s c b).sound := by
  unfold State.noteCommit
  repeat' (with_reducible first | assumption | dsimp only | exact sound_reset | intro sp | apply State.updReplay_sound | apply State.diverged_sound | refine foldl_fst_sound ?_ (fun a x hx => ?_) | refine getD_sound (fun t ht => ?_) ?_ | refine foldl_sound ?_ (fun s x hx => ?_) | apply State.core_legal | exact reset_legal | refine foldl_legal ?_ (fun p x hx => ?_) | (intro p hp) | split)

theorem State.pruneFences_sound {s : State} (hc : s.sound) (c : CoreRef) : (State.pruneFences s c).sound := by
  unfold State.pruneFences
  repeat' (with_reducible first | assumption | dsimp only | exact sound_reset | intro sp | apply State.mapCore_sound | refine foldl_fst_sound ?_ (fun a x hx => ?_) | refine getD_sound (fun t ht => ?_) ?_ | refine foldl_sound ?_ (fun s x hx => ?_) | apply State.core_legal | exact reset_legal | refine foldl_legal ?_ (fun p x hx => ?_) | (simp only [PageCore.legal_mk, List.length_map, setAt_length]; apply PageCore.legal.split))

theorem PageCore.afterCommit_legal {p : PageCore} (hc : p.legal) (b : Block) : (PageCore.afterCommit p b).legal := by
  exact ⟨hc.1, hc.2.1, (List.tail_sublist _).length_le.trans hc.2.2⟩

theorem PageCore.leaveTrap_legal {p : PageCore} (hc : p.legal) : (PageCore.leaveTrap p).legal := by
  exact ⟨hc.1, mkSstat_legal _ _ _, hc.2.2⟩

theorem discardBlocks_sound {s : State} (hc : s.sound) (c : CoreRef) : (discardBlocks s c).sound := by
  have h := State.mapCore_sound hc c (f := fun p => { p with blocks := [], responses := [] }) (fun p hp => ⟨hp.1, hp.2.1, Nat.zero_le 4⟩)
  exact h

theorem PageCore.enterTrap_legal {p : PageCore} (hc : p.legal) (epc : ℕ) (cause : DWord) (val : DWord) : (PageCore.enterTrap p epc cause val).legal := by
  exact ⟨hc.1, mkSstat_legal _ _ _, hc.2.2⟩

theorem takeTrap_sound {s : State} (hc : s.sound) (c : CoreRef) (epc : ℕ) (code : ℕ) (val : DWord) (lsid : ℕ) (isDef : Bool) (more : Bool) : (takeTrap s c epc code val lsid isDef more).sound := by
  unfold takeTrap
  repeat' (with_reducible first | assumption | dsimp only | exact sound_reset | intro sp | apply discardBlocks_sound | apply endLaunch_sound | apply State.mapCore_sound | apply State.setCore_sound | apply PageCore.enterTrap_legal | refine foldl_fst_sound ?_ (fun a x hx => ?_) | refine getD_sound (fun t ht => ?_) ?_ | refine foldl_sound ?_ (fun s x hx => ?_) | apply State.core_legal | exact reset_legal | refine foldl_legal ?_ (fun p x hx => ?_) | (simp only [PageCore.legal_mk, List.length_map, setAt_length]; apply PageCore.legal.split) | (intro p hp) | split)

theorem eretCore_sound {s : State} (hc : s.sound) (c : CoreRef) : (eretCore s c).sound := by
  unfold eretCore
  repeat' (with_reducible first | assumption | dsimp only | exact sound_reset | intro sp | apply State.mapCore_sound | apply PageCore.leaveTrap_legal | apply takeTrap_sound | apply State.setCore_sound | refine foldl_fst_sound ?_ (fun a x hx => ?_) | refine getD_sound (fun t ht => ?_) ?_ | refine foldl_sound ?_ (fun s x hx => ?_) | apply State.core_legal | exact reset_legal | refine foldl_legal ?_ (fun p x hx => ?_) | (simp only [PageCore.legal_mk, List.length_map, setAt_length]; apply PageCore.legal.split) | (intro p hp) | split)

theorem State.commitTrap_sound {s : State} (hc : s.sound) (c : CoreRef) (epc : ℕ) (code : ℕ) (v : DWord) : (State.commitTrap s c epc code v).sound := by
  unfold State.commitTrap
  repeat' (with_reducible first | assumption | dsimp only | exact sound_reset | intro sp | apply takeTrap_sound | apply State.setCore_sound | refine foldl_fst_sound ?_ (fun a x hx => ?_) | refine getD_sound (fun t ht => ?_) ?_ | refine foldl_sound ?_ (fun s x hx => ?_) | apply State.core_legal | exact reset_legal | refine foldl_legal ?_ (fun p x hx => ?_) | (simp only [PageCore.legal_mk, List.length_map, setAt_length]; apply PageCore.legal.split) | (intro p hp) | split)

theorem State.afterExit_sound {s : State} (hc : s.sound) (c : CoreRef) (b : Block) : (State.afterExit s c b).sound := by
  unfold State.afterExit
  repeat' (with_reducible first | assumption | dsimp only | exact sound_reset | intro sp | apply eretCore_sound | apply State.commitTrap_sound | apply State.mapCore_sound | refine foldl_fst_sound ?_ (fun a x hx => ?_) | refine getD_sound (fun t ht => ?_) ?_ | refine foldl_sound ?_ (fun s x hx => ?_) | apply State.core_legal | exact reset_legal | refine foldl_legal ?_ (fun p x hx => ?_) | (simp only [PageCore.legal_mk, List.length_map, setAt_length]; apply PageCore.legal.split) | (intro p hp) | split)

theorem State.startCut_sound {s : State} (hc : s.sound) (lid : ℕ) (psets : List ℕ) (why : CutWhy) (area : Option (Span × ℕ × ℕ)) : (State.startCut s lid psets why area).sound := by
  unfold State.startCut
  repeat' (with_reducible first | assumption | dsimp only | exact sound_reset | intro sp | apply State.beginCut_sound | refine foldl_fst_sound ?_ (fun a x hx => ?_) | refine getD_sound (fun t ht => ?_) ?_ | refine foldl_sound ?_ (fun s x hx => ?_) | apply State.core_legal | exact reset_legal | refine foldl_legal ?_ (fun p x hx => ?_) | (simp only [State.sound_mk]; apply State.sound.split) | (intro p hp) | split)

theorem State.freezeLaunch_sound {s : State} (hc : s.sound) (lid : ℕ) : (State.freezeLaunch s lid).sound := by
  unfold State.freezeLaunch
  repeat' (with_reducible first | assumption | dsimp only | exact sound_reset | intro sp | apply State.mapLaunch_sound | apply State.haltLaunch_sound)

theorem State.commitCut_sound {s : State} (hc : s.sound) (c : CoreRef) (a : Act) : (State.commitCut s c a).sound := by
  unfold State.commitCut
  repeat' (with_reducible first | assumption | dsimp only | exact sound_reset | intro sp | apply State.startCut_sound | apply State.freezeLaunch_sound | refine foldl_fst_sound ?_ (fun a x hx => ?_) | refine getD_sound (fun t ht => ?_) ?_ | refine foldl_sound ?_ (fun s x hx => ?_) | apply State.core_legal | exact reset_legal | refine foldl_legal ?_ (fun p x hx => ?_) | (simp only [State.sound_mk]; apply State.sound.split) | (intro p hp) | split)

theorem State.finishCommit_sound {s : State} (hc : s.sound) (c : CoreRef) (b : Block) : (State.finishCommit s c b).sound := by
  unfold State.finishCommit
  repeat' (with_reducible first | assumption | refine foldl_fst_sound ?_ (fun a x hx => pushAct_sound c hx x) | dsimp only | exact sound_reset | intro sp | apply State.mapCore_sound | apply PageCore.visible_legal | apply State.outside_sound | refine pushAct_sound ?_ (by assumption) | apply pushAct_sound_fst | apply State.noteCommit_sound | apply State.pruneFences_sound | apply PageCore.afterCommit_legal | apply State.afterExit_sound | apply State.commitCut_sound | apply State.queueMarkers_sound | apply State.stopCore_sound | refine foldl_fst_sound ?_ (fun a x hx => ?_) | refine getD_sound (fun t ht => ?_) ?_ | refine foldl_sound ?_ (fun s x hx => ?_) | apply State.core_legal | exact reset_legal | refine foldl_legal ?_ (fun p x hx => ?_) | (simp only [PageCore.legal_mk, List.length_map, setAt_length]; apply PageCore.legal.split) | (intro p hp) | split)

theorem State.goOn_sound {s : State} (hc : s.sound) (c : CoreRef) : (State.goOn s c).sound := by
  unfold State.goOn
  repeat' (with_reducible first | assumption | dsimp only | exact sound_reset | intro sp | apply State.performEffects_sound | apply endLaunch_sound | apply State.finishCommit_sound | refine foldl_fst_sound ?_ (fun a x hx => ?_) | refine getD_sound (fun t ht => ?_) ?_ | refine foldl_sound ?_ (fun s x hx => ?_) | apply State.core_legal | exact reset_legal | refine foldl_legal ?_ (fun p x hx => ?_) | (intro p hp) | split)

theorem State.startCommit_sound {s : State} (hc : s.sound) (c : CoreRef) : (State.startCommit s c).sound := by
  unfold State.startCommit
  refine State.mapCore_sound hc c (fun p hp => ?_)
  split
  · exact hp
  · rename_i b r hb
    exact ⟨hp.1, hp.2.1, (congrArg List.length hb).symm.trans_le hp.2.2⟩

theorem State.commitBlock_sound {s : State} (hc : s.sound) (c : CoreRef) : (State.commitBlock s c).sound := by
  unfold State.commitBlock
  repeat' (with_reducible first | assumption | dsimp only | exact sound_reset | intro sp | apply State.goOn_sound | apply takeTrap_sound | apply State.setCore_sound | apply State.startCommit_sound | refine foldl_fst_sound ?_ (fun a x hx => ?_) | refine getD_sound (fun t ht => ?_) ?_ | refine foldl_sound ?_ (fun s x hx => ?_) | apply State.core_legal | exact reset_legal | refine foldl_legal ?_ (fun p x hx => ?_) | (simp only [PageCore.legal_mk, List.length_map, setAt_length]; apply PageCore.legal.split) | (intro p hp) | split)

theorem ElemCtx.sd_sound {s : State} (hc : s.sound) (x : ElemCtx) (p : BitVec 2) (ts : List (BitVec 9)) (uses : List Pos) (fm : ℕ) (g : ℕ → SdState → Img → Img → SdLane) : (ElemCtx.sd x s p ts uses fm g).sound := by
  unfold ElemCtx.sd
  repeat' (with_reducible first | assumption | dsimp only | exact sound_reset | intro sp | refine foldl_fst_sound ?_ (fun a x hx => ?_) | refine getD_sound (fun t ht => ?_) ?_ | refine foldl_sound ?_ (fun s x hx => ?_) | apply State.core_legal | exact reset_legal | refine foldl_legal ?_ (fun p x hx => ?_) | (simp only [State.sound_mk]; apply State.sound.split))

theorem State.loadArrives_sound {s : State} (hc : s.sound) (c : CoreRef) (uid : ℕ) (slot : ℕ) : (State.loadArrives s c uid slot).sound := by
  unfold State.loadArrives
  repeat' (with_reducible first | assumption | dsimp only | exact sound_reset | intro sp | apply State.mapCore_sound | refine foldl_fst_sound ?_ (fun a x hx => ?_) | refine getD_sound (fun t ht => ?_) ?_ | refine foldl_sound ?_ (fun s x hx => ?_) | apply State.core_legal | exact reset_legal | refine foldl_legal ?_ (fun p x hx => ?_) | (simp only [PageCore.legal_mk, List.length_map, setAt_length]; apply PageCore.legal.split) | (intro p hp) | split)

theorem ElemCtx.mark_sound {s : State} (hc : s.sound) (x : ElemCtx) (g : Firing → Firing) : (ElemCtx.mark x s g).sound := by
  unfold ElemCtx.mark
  repeat' (with_reducible first | assumption | dsimp only | exact sound_reset | intro sp | refine foldl_fst_sound ?_ (fun a x hx => ?_) | refine getD_sound (fun t ht => ?_) ?_ | refine foldl_sound ?_ (fun s x hx => ?_) | apply State.core_legal | exact reset_legal | refine foldl_legal ?_ (fun p x hx => ?_) | (simp only [State.sound_mk]; apply State.sound.split))

theorem ElemCtx.record_sound {s : State} (hc : s.sound) (x : ElemCtx) (p : BitVec 2) (ts : List (BitVec 9)) (g : List LaneV → Img → List LaneV) : (ElemCtx.record x s p ts g).sound := by
  unfold ElemCtx.record
  repeat' (with_reducible first | assumption | dsimp only | exact sound_reset | intro sp | apply ElemCtx.finish_sound | apply ElemCtx.mark_sound | refine foldl_fst_sound ?_ (fun a x hx => ?_) | refine getD_sound (fun t ht => ?_) ?_ | refine foldl_sound ?_ (fun s x hx => ?_) | apply State.core_legal | exact reset_legal | refine foldl_legal ?_ (fun p x hx => ?_) | (intro p hp) | split)

theorem CoreCtx.read_sound {s : State} (hc : s.sound) {x : CoreCtx} (hlx : x.pc.legal) (lsid : ℕ) (kind : ℕ) (va : ℕ) (sp : Span) (acquire : Bool) : (CoreCtx.read x s lsid kind va sp acquire).sound := by
  unfold CoreCtx.read
  repeat' (with_reducible first | assumption | dsimp only | exact sound_reset | intro sp | apply CoreCtx.ask_sound | apply performRead_sound | refine foldl_fst_sound ?_ (fun a x hx => ?_) | refine getD_sound (fun t ht => ?_) ?_ | refine foldl_sound ?_ (fun s x hx => ?_) | apply State.core_legal | exact reset_legal | refine foldl_legal ?_ (fun p x hx => ?_) | (intro p hp) | split)

theorem State.resend_sound {s : State} (hc : s.sound) (port : ℕ) (seq : ℕ) : (State.resend s port seq).sound := by
  unfold State.resend
  repeat' (with_reducible first | assumption | dsimp only | exact sound_reset | intro sp | apply State.updPort_sound | apply State.send_sound | refine foldl_fst_sound ?_ (fun a x hx => ?_) | refine getD_sound (fun t ht => ?_) ?_ | refine foldl_sound ?_ (fun s x hx => ?_) | apply State.core_legal | exact reset_legal | refine foldl_legal ?_ (fun p x hx => ?_) | (intro p hp) | split)

theorem State.retrain_sound {s : State} (hc : s.sound) (port : ℕ) (ok : Bool) : (State.retrain s port ok).sound := by
  unfold State.retrain
  repeat' (with_reducible first | assumption | dsimp only | exact sound_reset | intro sp | apply State.resend_sound | apply State.updPort_sound | apply State.send_sound | refine foldl_fst_sound ?_ (fun a x hx => ?_) | refine getD_sound (fun t ht => ?_) ?_ | refine foldl_sound ?_ (fun s x hx => ?_) | apply State.core_legal | exact reset_legal | refine foldl_legal ?_ (fun p x hx => ?_) | (intro p hp) | split)

theorem State.streamDone_sound {s : State} (hc : s.sound) (c : CoreRef) (seq : ℕ) : (State.streamDone s c seq).sound := by
  unfold State.streamDone
  repeat' (with_reducible first | assumption | dsimp only | exact sound_reset | intro sp | apply State.queueMarkers_sound | apply State.mapCore_sound | refine foldl_fst_sound ?_ (fun a x hx => ?_) | refine getD_sound (fun t ht => ?_) ?_ | refine foldl_sound ?_ (fun s x hx => ?_) | apply State.core_legal | exact reset_legal | refine foldl_legal ?_ (fun p x hx => ?_) | (simp only [PageCore.legal_mk, List.length_map, setAt_length]; apply PageCore.legal.split))

theorem State.streamStep_sound {s : State} (hc : s.sound) (c : CoreRef) (t : StreamCmd) (buf : List (Option Byte)) (mx : optParam (List (ℕ × ℕ)) t.mx) : (State.streamStep s c t buf mx).sound := by
  unfold State.streamStep
  repeat' (with_reducible first | assumption | dsimp only | exact sound_reset | intro sp | apply State.mapCore_sound | apply State.streamDone_sound | refine foldl_fst_sound ?_ (fun a x hx => ?_) | refine getD_sound (fun t ht => ?_) ?_ | refine foldl_sound ?_ (fun s x hx => ?_) | apply State.core_legal | exact reset_legal | refine foldl_legal ?_ (fun p x hx => ?_) | (simp only [PageCore.legal_mk, List.length_map, setAt_length]; apply PageCore.legal.split) | (intro p hp) | split)

theorem State.noteXfer_sound {s : State} (hc : s.sound) (d : ℕ) (pa : ℕ) (wr : Bool) (attempts : ℕ) (outcome : ℕ) (lane : ℕ) (spares : ℕ) : (State.noteXfer s d pa wr attempts outcome lane spares).sound := by
  unfold State.noteXfer
  repeat' (with_reducible first | assumption | dsimp only | exact sound_reset | intro sp | apply State.updDie_sound)

theorem laneFails_sound_fst (d pa : Nat) (wr : Bool) (lane : Nat) : ∀ (fuel : Nat) {s : State}, s.sound →
    (laneFails d pa wr lane fuel s).1.sound
  | 0, _, hc => hc
  | fuel + 1, s, hc => by
    unfold laneFails
    dsimp only
    repeat' split
    · exact State.noteXfer_sound hc _ _ _ _ _ _ _
    · exact State.noteXfer_sound (State.useFree_sound hc _) _ _ _ _ _ _ _
    · exact laneFails_sound_fst d pa wr lane fuel (State.noteXfer_sound (State.useFree_sound hc _) _ _ _ _ _ _ _)

theorem laneFails_sound {d pa : Nat} {wr : Bool} {lane fuel : Nat} {s : State} (hc : s.sound) {res : State} {oth}
    (heq : laneFails d pa wr lane fuel s = (res, oth)) : res.sound := by
  have h := laneFails_sound_fst d pa wr lane fuel hc
  rwa [heq] at h

theorem State.fatal_sound {s : State} (hc : s.sound) (d : ℕ) : (State.fatal s d).sound := by
  unfold State.fatal
  repeat' (with_reducible first | assumption | dsimp only | exact sound_reset | intro sp | apply State.send_sound | apply State.useFree_sound | apply State.store_sound | apply State.updDie_sound | apply State.haltLaunch_sound | apply State.endWith_sound | refine foldl_fst_sound ?_ (fun a x hx => ?_) | refine getD_sound (fun t ht => ?_) ?_ | refine foldl_sound ?_ (fun s x hx => ?_) | apply State.core_legal | exact reset_legal | refine foldl_legal ?_ (fun p x hx => ?_) | (simp only [State.sound_mk]; apply State.sound.split) | (intro p hp) | split)

theorem State.parity_sound {s : State} (hc : s.sound) (d : ℕ) (pa : ℕ) (wr : Bool) (lane : ℕ) : (State.parity s d pa wr lane).sound := by
  unfold State.parity
  repeat' (with_reducible first | assumption | dsimp only | exact sound_reset | intro sp | apply State.dieTime_sound | apply State.useFree_sound | apply State.noteXfer_sound | refine laneFails_sound ?_ (by assumption) | apply laneFails_sound_fst | apply State.fatal_sound | apply State.eccAt_sound | refine foldl_fst_sound ?_ (fun a x hx => ?_) | refine getD_sound (fun t ht => ?_) ?_ | refine foldl_sound ?_ (fun s x hx => ?_) | apply State.core_legal | exact reset_legal | refine foldl_legal ?_ (fun p x hx => ?_) | (intro p hp) | split)

theorem State.updEng_sound {s : State} (hc : s.sound) (r : EngReq) (f : EngReq → EngReq) : (State.updEng s r f).sound := by
  unfold State.updEng
  repeat' (with_reducible first | assumption | dsimp only | exact sound_reset | intro sp | refine foldl_fst_sound ?_ (fun a x hx => ?_) | refine getD_sound (fun t ht => ?_) ?_ | refine foldl_sound ?_ (fun s x hx => ?_) | apply State.core_legal | exact reset_legal | refine foldl_legal ?_ (fun p x hx => ?_) | (simp only [State.sound_mk]; apply State.sound.split))

theorem State.startToken_sound {s : State} (hc : s.sound) (g : PageRef) : (State.startToken s g).sound := by
  unfold State.startToken
  repeat' (with_reducible first | assumption | dsimp only | exact sound_reset | intro sp | apply State.mapPlace_sound | refine foldl_fst_sound ?_ (fun a x hx => ?_) | refine getD_sound (fun t ht => ?_) ?_ | refine foldl_sound ?_ (fun s x hx => ?_) | apply State.core_legal | exact reset_legal | refine foldl_legal ?_ (fun p x hx => ?_) | (simp only [State.sound_mk]; apply State.sound.split))

theorem State.makeReady_sound {s : State} (hc : s.sound) (lid : ℕ) (group : ℕ) (node : ℕ) : (State.makeReady s lid group node).sound := by
  unfold State.makeReady
  repeat' (with_reducible first | assumption | dsimp only | exact sound_reset | intro sp | apply State.setSeq_sound)

theorem State.nodeDone_sound {s : State} (hc : s.sound) (lid : ℕ) (group : ℕ) (node : ℕ) : (State.nodeDone s lid group node).sound := by
  unfold State.nodeDone
  repeat' (with_reducible first | assumption | dsimp only | exact sound_reset | intro sp | apply State.updGroup_sound | apply State.makeReady_sound | apply State.closeGroup_sound | refine foldl_fst_sound ?_ (fun a x hx => ?_) | refine getD_sound (fun t ht => ?_) ?_ | refine foldl_sound ?_ (fun s x hx => ?_) | apply State.core_legal | exact reset_legal | refine foldl_legal ?_ (fun p x hx => ?_) | (intro p hp) | split)

theorem State.sectionDone_sound {s : State} (hc : s.sound) (lid : ℕ) (node : ℕ) (group : ℕ) : (State.sectionDone s lid node group).sound := by
  unfold State.sectionDone
  repeat' (with_reducible first | assumption | dsimp only | exact sound_reset | intro sp | apply State.closeGroup_sound | apply State.updGroup_sound | apply State.nodeDone_sound | refine foldl_fst_sound ?_ (fun a x hx => ?_) | refine getD_sound (fun t ht => ?_) ?_ | refine foldl_sound ?_ (fun s x hx => ?_) | apply State.core_legal | exact reset_legal | refine foldl_legal ?_ (fun p x hx => ?_) | (simp only [State.sound_mk]; apply State.sound.split) | (intro p hp) | split)

theorem State.refuse_sound {s : State} (hc : s.sound) {m : HostMsg} {vc : ℕ} {len : ℕ} {zeros : List (ℕ × ℕ)} {res : State} (heq : State.refuse s m vc len zeros = some res) : res.sound := by
  unfold State.refuse at heq
  repeat' (with_reducible first | dsimp only at heq | split at heq)
  all_goals (first | (cases heq; done) | (obtain ⟨_, _, rfl⟩ := Option.map_eq_some_iff.mp heq) | (cases heq))
  all_goals repeat' (with_reducible first | assumption | dsimp only | exact sound_reset | intro sp | apply State.result_sound | apply State.updPort_sound)

theorem State.hear_sound {s : State} (hc : s.sound) (m : HostMsg) (vc len : Nat) (zeros : List (Nat × Nat)) {f : State → State}
    (hf : (f s).sound) : (s.hear m vc len zeros f).sound := by
  unfold State.hear
  split
  · exact State.refuse_sound hc (by assumption)
  · exact hf

theorem PageCore.setTile_legal {p : PageCore} (hc : p.legal) (k : ℕ) (t : Tile) : (PageCore.setTile p k t).legal := by
  unfold PageCore.setTile
  repeat' (with_reducible first | assumption | dsimp only | exact sound_reset | intro sp | refine foldl_fst_sound ?_ (fun a x hx => ?_) | refine getD_sound (fun t ht => ?_) ?_ | refine foldl_sound ?_ (fun s x hx => ?_) | apply State.core_legal | exact reset_legal | refine foldl_legal ?_ (fun p x hx => ?_) | (simp only [PageCore.legal_mk, List.length_map, setAt_length]; apply PageCore.legal.split) | (intro p hp) | split)

theorem State.tileTimeout_sound {s : State} (hc : s.sound) (c : CoreRef) (t : TileItem) : (State.tileTimeout s c t).sound := by
  unfold State.tileTimeout
  repeat' (with_reducible first | assumption | dsimp only | exact sound_reset | intro sp | apply State.mapCore_sound | apply PageCore.setTile_legal | apply State.useFree_sound | refine foldl_fst_sound ?_ (fun a x hx => ?_) | refine getD_sound (fun t ht => ?_) ?_ | refine foldl_sound ?_ (fun s x hx => ?_) | apply State.core_legal | exact reset_legal | refine foldl_legal ?_ (fun p x hx => ?_) | (simp only [PageCore.legal_mk, List.length_map, setAt_length]; apply PageCore.legal.split) | (intro p hp) | split)

theorem State.freezeElem_sound {s : State} (hc : s.sound) (e : Elem) (code : ℕ) (entry : Option ℕ) : (State.freezeElem s e code entry).sound := by
  unfold State.freezeElem
  repeat' (with_reducible first | assumption | dsimp only | exact sound_reset | intro sp | apply State.updElem_sound | apply State.elemFault_sound)

theorem State.noteDone_sound {s : State} (hc : s.sound) (lid : ℕ) (status : ℕ) : (State.noteDone s lid status).sound := by
  unfold State.noteDone
  repeat' (with_reducible first | assumption | dsimp only | exact sound_reset | intro sp | refine foldl_fst_sound ?_ (fun a x hx => ?_) | refine getD_sound (fun t ht => ?_) ?_ | refine foldl_sound ?_ (fun s x hx => ?_) | apply State.core_legal | exact reset_legal | refine foldl_legal ?_ (fun p x hx => ?_) | (simp only [State.sound_mk]; apply State.sound.split))

theorem State.forwardClose_sound {s : State} (hc : s.sound) {e : Elem} {g : SegId} {res : State} (heq : State.forwardClose s e g = some res) : res.sound := by
  unfold State.forwardClose at heq
  repeat' (with_reducible first | dsimp only at heq | split at heq)
  all_goals (first | (cases heq; done) | (obtain ⟨_, _, rfl⟩ := Option.map_eq_some_iff.mp heq) | (cases heq))
  all_goals repeat' (with_reducible first | assumption | dsimp only | exact sound_reset | intro sp | apply State.updChan_sound | apply State.emitOn_sound | refine foldl_fst_sound ?_ (fun a x hx => ?_) | refine getD_sound (fun t ht => ?_) ?_ | refine foldl_sound ?_ (fun s x hx => ?_))

theorem State.recircTake_sound {s : State} (hc : s.sound) {e : Elem} {k : ℕ} {i : ℕ} {q : QBeat} {res : State} (heq : State.recircTake s e k i q = some res) : res.sound := by
  unfold State.recircTake at heq
  repeat' (with_reducible first | dsimp only at heq | split at heq)
  all_goals (first | (cases heq; done) | (obtain ⟨_, _, rfl⟩ := Option.map_eq_some_iff.mp heq) | (cases heq))
  all_goals repeat' (with_reducible first | assumption | dsimp only | exact sound_reset | intro sp | apply State.updElem_sound | apply State.take_sound | refine State.forwardClose_sound ?_ (by assumption))

theorem State.joinPrefix_sound {s : State} (hc : s.sound) {e : Elem} {arms : List ℕ} {k : ℕ} {i : ℕ} {q : QBeat} {res : State} (heq : State.joinPrefix s e arms k i q = some res) : res.sound := by
  unfold State.joinPrefix at heq
  repeat' (with_reducible first | dsimp only at heq | split at heq)
  all_goals (first | (cases heq; done) | (obtain ⟨_, _, rfl⟩ := Option.map_eq_some_iff.mp heq) | (cases heq))
  all_goals repeat' (with_reducible first | assumption | dsimp only | exact sound_reset | intro sp | apply State.take_sound | apply State.updElem_sound | refine State.forwardClose_sound ?_ (by assumption))

theorem State.takePrefix_sound {s : State} (hc : s.sound) {e : Elem} {k : ℕ} {i : ℕ} {q : QBeat} {res : State} (heq : State.takePrefix s e k i q = some res) : res.sound := by
  unfold State.takePrefix at heq
  dsimp only at heq
  split at heq
  · repeat' split at heq
    all_goals first | (cases heq; done) | skip
    all_goals (
      obtain rfl := Option.some.inj heq
      exact foldl_sound (State.updElem_sound (State.take_sound hc _) _ _) (fun s a h => State.emitOn_sound h _ _ _))
  · obtain ⟨t, ht, rfl⟩ := Option.map_eq_some_iff.mp heq
    refine State.updElem_sound (State.take_sound ?_ _) _ _
    split at ht
    · exact State.forwardClose_sound hc ht
    · cases ht; exact hc

theorem State.absorbAt_sound {s : State} (hc : s.sound) {r : ElemRef} {k : ℕ} {res : State} (heq : State.absorbAt s r k = some res) : res.sound := by
  unfold State.absorbAt at heq
  repeat' (with_reducible first | dsimp only at heq | split at heq)
  all_goals (first | (cases heq; done) | (obtain ⟨_, _, rfl⟩ := Option.map_eq_some_iff.mp heq) | (cases heq) | skip)
  all_goals repeat' (with_reducible first | assumption | dsimp only | exact sound_reset | intro sp | refine State.recircTake_sound ?_ (by assumption) | refine State.joinPrefix_sound ?_ (by assumption) | refine State.takePrefix_sound ?_ (by assumption))

theorem State.ixStep_sound {s : State} (hc : s.sound) {r : ElemRef} {res : State} (heq : State.ixStep s r = some res) : res.sound := by
  unfold State.ixStep at heq
  repeat' (with_reducible first | dsimp only at heq | split at heq)
  all_goals (first | (cases heq; done) | (obtain ⟨_, _, rfl⟩ := Option.map_eq_some_iff.mp heq) | (cases heq))
  all_goals repeat' (with_reducible first | assumption | dsimp only | exact sound_reset | intro sp | apply State.updElem_sound | apply State.take_sound | apply State.freezeElem_sound)

theorem State.absorb_sound {s : State} (hc : s.sound) (r : ElemRef) (fuel : Nat) : (s.absorb r fuel).sound := by
  induction fuel generalizing s with
  | zero => exact hc
  | succ fuel ih =>
    unfold State.absorb
    split
    · rename_i t h
      refine ih ?_
      obtain h | ⟨-, h⟩ := Option.or_eq_some_iff.mp h
      · obtain ⟨k, -, h⟩ := List.exists_of_findSome?_eq_some h
        exact State.absorbAt_sound hc h
      · exact State.ixStep_sound hc h
    · exact hc

theorem State.startFiring_sound {s : State} (hc : s.sound) (e : Elem) (code : ECode) (took : List ℕ) (chosen : Option ℕ) : (State.startFiring s e code took chosen).sound := by
  unfold State.startFiring
  repeat' (with_reducible first | assumption | dsimp only | exact sound_reset | intro sp | refine foldl_fst_sound ?_ (fun a x hx => ?_) | refine getD_sound (fun t ht => ?_) ?_ | refine foldl_sound ?_ (fun s x hx => ?_) | apply State.core_legal | exact reset_legal | refine foldl_legal ?_ (fun p x hx => ?_) | (simp only [State.sound_mk]; apply State.sound.split))

theorem State.fireElement_sound {s : State} (hc : s.sound) (r : ElemRef) : (State.fireElement s r).sound := by
  unfold State.fireElement
  repeat' (with_reducible first | assumption | dsimp only | exact sound_reset | intro sp | apply State.absorb_sound | apply State.discardLoop_sound | apply State.startFiring_sound | apply State.noteTurn_sound | refine foldl_fst_sound ?_ (fun a x hx => ?_) | refine getD_sound (fun t ht => ?_) ?_ | refine foldl_sound ?_ (fun s x hx => ?_) | apply State.core_legal | exact reset_legal | refine foldl_legal ?_ (fun p x hx => ?_) | (intro p hp) | split)

theorem State.sortSend_sound {s : State} (hc : s.sound) (e : Elem) (a : ArrayUnit) : (State.sortSend s e a).sound := by
  unfold State.sortSend
  repeat' (with_reducible first | assumption | dsimp only | exact sound_reset | intro sp | apply State.updElem_sound | apply State.emit_sound | apply State.updArray_sound | refine foldl_fst_sound ?_ (fun a x hx => ?_) | refine getD_sound (fun t ht => ?_) ?_ | refine foldl_sound ?_ (fun s x hx => ?_) | apply State.core_legal | exact reset_legal | refine foldl_legal ?_ (fun p x hx => ?_) | (intro p hp) | split)

theorem State.sortFault_sound {s : State} (hc : s.sound) (e : Elem) (i : ℕ) (code : ℕ) : (State.sortFault s e i code).sound := by
  unfold State.sortFault
  repeat' (with_reducible first | assumption | dsimp only | exact sound_reset | intro sp | apply State.elemFault_sound | apply State.updElem_sound)

theorem State.sortTake_sound {s : State} (hc : s.sound) (e : Elem) (a : ArrayUnit) (i : ℕ) (q : QBeat) : (State.sortTake s e a i q).sound := by
  unfold State.sortTake
  repeat' (with_reducible first | assumption | dsimp only | exact sound_reset | intro sp | apply State.updArray_sound | apply State.take_sound | apply State.sortFault_sound | refine foldl_fst_sound ?_ (fun a x hx => ?_) | refine getD_sound (fun t ht => ?_) ?_ | refine foldl_sound ?_ (fun s x hx => ?_) | apply State.core_legal | exact reset_legal | refine foldl_legal ?_ (fun p x hx => ?_) | (intro p hp) | split)

theorem State.fireSort_sound {s : State} (hc : s.sound) (e : Elem) : (State.fireSort s e).sound := by
  unfold State.fireSort
  repeat' (with_reducible first | assumption | dsimp only | exact sound_reset | intro sp | apply State.noteTurn_sound | apply State.sortSend_sound | apply State.sortTake_sound | refine foldl_fst_sound ?_ (fun a x hx => ?_) | refine getD_sound (fun t ht => ?_) ?_ | refine foldl_sound ?_ (fun s x hx => ?_) | apply State.core_legal | exact reset_legal | refine foldl_legal ?_ (fun p x hx => ?_) | (intro p hp) | split)

theorem State.fireAny_sound {s : State} (hc : s.sound) (r : ElemRef) : (State.fireAny s r).sound := by
  unfold State.fireAny
  repeat' (with_reducible first | assumption | dsimp only | exact sound_reset | intro sp | apply State.fireElement_sound | apply State.fireArray_sound | apply State.fireSort_sound | refine foldl_fst_sound ?_ (fun a x hx => ?_) | refine getD_sound (fun t ht => ?_) ?_ | refine foldl_sound ?_ (fun s x hx => ?_) | apply State.core_legal | exact reset_legal | refine foldl_legal ?_ (fun p x hx => ?_) | (intro p hp) | split)

theorem State.lateOwed_sound {s : State} (hc : s.sound) (d : ℕ) : (State.lateOwed s d).sound := by
  unfold State.lateOwed
  repeat' (with_reducible first | assumption | dsimp only | exact sound_reset | intro sp | apply State.updDie_sound)

theorem State.loadTimeout_sound {s : State} (hc : s.sound) (c : CoreRef) (uid : ℕ) (slot : ℕ) (va : ℕ) : (State.loadTimeout s c uid slot va).sound := by
  unfold State.loadTimeout
  repeat' (with_reducible first | assumption | dsimp only | exact sound_reset | intro sp | apply State.lateOwed_sound | apply State.mapCore_sound | refine foldl_fst_sound ?_ (fun a x hx => ?_) | refine getD_sound (fun t ht => ?_) ?_ | refine foldl_sound ?_ (fun s x hx => ?_) | apply State.core_legal | exact reset_legal | refine foldl_legal ?_ (fun p x hx => ?_) | (simp only [PageCore.legal_mk, List.length_map, setAt_length]; apply PageCore.legal.split) | (simp only [State.sound_mk]; apply State.sound.split))

theorem State.engAnswer_sound {s : State} (hc : s.sound) (r : EngReq) (status : ℕ) (index : ℕ) (latency : ℕ) : (State.engAnswer s r status index latency).sound := by
  unfold State.engAnswer
  repeat' (with_reducible first | assumption | dsimp only | exact sound_reset | intro sp | apply State.send_sound | apply State.mapCore_sound | apply State.setProf_sound | apply State.startCut_sound | refine foldl_fst_sound ?_ (fun a x hx => ?_) | refine getD_sound (fun t ht => ?_) ?_ | refine foldl_sound ?_ (fun s x hx => ?_) | apply State.core_legal | exact reset_legal | refine foldl_legal ?_ (fun p x hx => ?_) | (simp only [PageCore.legal_mk, List.length_map, setAt_length]; apply PageCore.legal.split) | (simp only [State.sound_mk]; apply State.sound.split) | (intro p hp) | split)

theorem State.crossTimeout_sound {s : State} (hc : s.sound) (r : CrossReq) : (State.crossTimeout s r).sound := by
  unfold State.crossTimeout
  repeat' (with_reducible first | assumption | dsimp only | exact sound_reset | intro sp | apply State.loadTimeout_sound | apply State.performPosted_sound | apply State.mapCore_sound | apply latchFault_sound | apply State.lateOwed_sound | apply State.useFree_sound | apply State.tileTimeout_sound | apply State.streamDone_sound | apply State.nodeFault_sound | apply State.engAnswer_sound | apply State.updChan_sound | refine foldl_fst_sound ?_ (fun a x hx => ?_) | refine getD_sound (fun t ht => ?_) ?_ | refine foldl_sound ?_ (fun s x hx => ?_) | apply State.core_legal | exact reset_legal | refine foldl_legal ?_ (fun p x hx => ?_) | (simp only [PageCore.legal_mk, List.length_map, setAt_length]; apply PageCore.legal.split) | (intro p hp) | split)

theorem State.tryCommit_sound {s : State} (hc : s.sound) (d i : Nat) (fuel : Nat) : (State.tryCommit s d i fuel).sound := by
  induction fuel generalizing s with
  | zero => exact hc
  | succ fuel ih =>
    unfold State.tryCommit
    repeat' (with_reducible first | assumption | apply ih | dsimp only | exact sound_reset | intro sp | apply State.setSprout_sound | apply State.tellPipe_sound | apply State.doPrune_sound | refine foldl_fst_sound ?_ (fun a x hx => ?_) | refine getD_sound (fun t ht => ?_) ?_ | refine foldl_sound ?_ (fun s x hx => ?_) | apply State.core_legal | exact reset_legal | refine foldl_legal ?_ (fun p x hx => ?_) | (intro p hp) | split)

theorem State.freezeNode_sound {s : State} (hc : s.sound) (n : MemNode) (code : ℕ) (chan : ℕ) (ord : ℕ) : (State.freezeNode s n code chan ord).sound := by
  unfold State.freezeNode
  repeat' (with_reducible first | assumption | dsimp only | exact sound_reset | intro sp | apply State.nodeFault_sound | apply State.updNode_sound)

theorem State.queueItems_sound {s : State} (hc : s.sound) (r : NodeRef) (h : Chan) (b : Beat) (l : List (Strand × Nat)) :
    (s.queueItems r h b l).sound := by
  induction l generalizing s with
  | nil => exact hc
  | cons e l ih =>
    obtain ⟨t, k⟩ := e
    unfold State.queueItems
    repeat' (with_reducible first | assumption | apply ih | dsimp only | exact sound_reset | intro sp | apply State.freezeNode_sound | apply State.updNode_sound | refine foldl_fst_sound ?_ (fun a x hx => ?_) | refine getD_sound (fun t ht => ?_) ?_ | refine foldl_sound ?_ (fun s x hx => ?_) | apply State.core_legal | exact reset_legal | refine foldl_legal ?_ (fun p x hx => ?_) | (intro p hp) | split)

theorem State.nodeTake_sound {s : State} (hc : s.sound) (n : MemNode) (i : ℕ) (q : QBeat) : (State.nodeTake s n i q).sound := by
  unfold State.nodeTake
  repeat' (with_reducible first | assumption | dsimp only | exact sound_reset | intro sp | apply State.take_sound | apply State.updNode_sound | apply State.queueItems_sound | refine foldl_fst_sound ?_ (fun a x hx => ?_) | refine getD_sound (fun t ht => ?_) ?_ | refine foldl_sound ?_ (fun s x hx => ?_) | apply State.core_legal | exact reset_legal | refine foldl_legal ?_ (fun p x hx => ?_) | (intro p hp) | split)

theorem State.enableChild_sound {s : State} (hc : s.sound) (t : Trellis) (k : ℕ) : (State.enableChild s t k).sound := by
  unfold State.enableChild
  repeat' (with_reducible first | assumption | dsimp only | exact sound_reset | intro sp | apply State.updTrellis_sound | apply State.updLeaf_sound | refine foldl_fst_sound ?_ (fun a x hx => ?_) | refine getD_sound (fun t ht => ?_) ?_ | refine foldl_sound ?_ (fun s x hx => ?_) | apply State.core_legal | exact reset_legal | refine foldl_legal ?_ (fun p x hx => ?_) | (intro p hp) | split)

theorem State.enableAll_sound {s : State} (hc : s.sound) (g : PageRef) (n : ℕ) : (State.enableAll s g n).sound := by
  unfold State.enableAll
  repeat' (with_reducible first | assumption | dsimp only | exact sound_reset | intro sp | apply State.enableChild_sound | refine foldl_fst_sound ?_ (fun a x hx => ?_) | refine getD_sound (fun t ht => ?_) ?_ | refine foldl_sound ?_ (fun s x hx => ?_) | apply State.core_legal | exact reset_legal | refine foldl_legal ?_ (fun p x hx => ?_) | (intro p hp) | split)

theorem State.enablePage_sound {s : State} (hc : s.sound) (g : PageRef) : (State.enablePage s g).sound := by
  unfold State.enablePage
  repeat' (with_reducible first | assumption | dsimp only | exact sound_reset | intro sp | apply State.enableAll_sound | refine foldl_fst_sound ?_ (fun a x hx => ?_) | refine getD_sound (fun t ht => ?_) ?_ | refine foldl_sound ?_ (fun s x hx => ?_))

theorem State.finishNode_sound {s : State} (hc : s.sound) (g : PageRef) (n : ℕ) : (State.finishNode s g n).sound := by
  unfold State.finishNode
  repeat' (with_reducible first | assumption | dsimp only | exact sound_reset | intro sp | apply State.enableAll_sound | apply State.updTrellis_sound | apply State.sectionOver_sound | refine foldl_fst_sound ?_ (fun a x hx => ?_) | refine getD_sound (fun t ht => ?_) ?_ | refine foldl_sound ?_ (fun s x hx => ?_) | apply State.core_legal | exact reset_legal | refine foldl_legal ?_ (fun p x hx => ?_) | (intro p hp) | split)

theorem State.takeDone_sound {s : State} (hc : s.sound) (g : PageRef) (n : ℕ) (child : ℕ) : (State.takeDone s g n child).sound := by
  unfold State.takeDone
  repeat' (with_reducible first | assumption | dsimp only | exact sound_reset | intro sp | apply State.enablePage_sound | apply State.finishNode_sound | apply State.updTrellis_sound | refine foldl_fst_sound ?_ (fun a x hx => ?_) | refine getD_sound (fun t ht => ?_) ?_ | refine foldl_sound ?_ (fun s x hx => ?_) | apply State.core_legal | exact reset_legal | refine foldl_legal ?_ (fun p x hx => ?_) | (intro p hp) | split)

theorem State.setHit_sound {s : State} (hc : s.sound) (n : ℕ) : (State.setHit s n).sound := by
  unfold State.setHit
  repeat' (with_reducible first | assumption | dsimp only | exact sound_reset | intro sp | refine foldl_fst_sound ?_ (fun a x hx => ?_) | refine getD_sound (fun t ht => ?_) ?_ | refine foldl_sound ?_ (fun s x hx => ?_) | apply State.core_legal | exact reset_legal | refine foldl_legal ?_ (fun p x hx => ?_) | (simp only [State.sound_mk]; apply State.sound.split) | (intro p hp) | split)

theorem State.fireBreak_sound {s : State} (hc : s.sound) (lid : ℕ) : (State.fireBreak s lid).sound := by
  unfold State.fireBreak
  repeat' (with_reducible first | assumption | dsimp only | exact sound_reset | intro sp | apply State.sample_sound | apply State.setHit_sound | apply State.startCut_sound | apply State.freezeLaunch_sound | refine foldl_fst_sound ?_ (fun a x hx => ?_) | refine getD_sound (fun t ht => ?_) ?_ | refine foldl_sound ?_ (fun s x hx => ?_) | apply State.core_legal | exact reset_legal | refine foldl_legal ?_ (fun p x hx => ?_) | (simp only [State.sound_mk]; apply State.sound.split) | (intro p hp) | split)

theorem State.takeRecord_sound {s : State} (hc : s.sound) (d : ℕ) (r : GuessRec) : (State.takeRecord s d r).sound := by
  unfold State.takeRecord
  repeat' (with_reducible first | assumption | dsimp only | exact sound_reset | intro sp | apply State.setSprout_sound | apply State.doPrune_sound | apply State.want_sound | apply State.settle_sound | apply State.tryCommit_sound | refine foldl_fst_sound ?_ (fun a x hx => ?_) | refine getD_sound (fun t ht => ?_) ?_ | refine foldl_sound ?_ (fun s x hx => ?_) | apply State.core_legal | exact reset_legal | refine foldl_legal ?_ (fun p x hx => ?_) | (intro p hp) | split)

theorem State.nextRecord_sound {s : State} (hc : s.sound) (d : ℕ) : (State.nextRecord s d).sound := by
  unfold State.nextRecord
  repeat' (with_reducible first | assumption | dsimp only | exact sound_reset | intro sp | apply State.takeRecord_sound | apply State.useFree_sound | apply State.setSprout_sound | refine foldl_fst_sound ?_ (fun a x hx => ?_) | refine getD_sound (fun t ht => ?_) ?_ | refine foldl_sound ?_ (fun s x hx => ?_) | apply State.core_legal | exact reset_legal | refine foldl_legal ?_ (fun p x hx => ?_) | (intro p hp) | split)

theorem State.noteMerge_sound {s : State} (hc : s.sound) (c : CoreRef) (elem : ℕ) (input : ℕ) : (State.noteMerge s c elem input).sound := by
  unfold State.noteMerge
  repeat' (with_reducible first | assumption | dsimp only | exact sound_reset | intro sp | apply State.updReplay_sound | apply State.diverged_sound | refine foldl_fst_sound ?_ (fun a x hx => ?_) | refine getD_sound (fun t ht => ?_) ?_ | refine foldl_sound ?_ (fun s x hx => ?_) | apply State.core_legal | exact reset_legal | refine foldl_legal ?_ (fun p x hx => ?_) | (intro p hp) | split)

theorem CoreCtx.leave_sound {s : State} (hc : s.sound) {x : CoreCtx} (hlx : x.pc.legal) (a : Act) : (CoreCtx.leave x s a).sound := by
  unfold CoreCtx.leave
  repeat' (with_reducible first | assumption | dsimp only | exact sound_reset | intro sp | apply CoreCtx.illegal_sound | apply CoreCtx.ask_sound | refine foldl_fst_sound ?_ (fun a x hx => ?_) | refine getD_sound (fun t ht => ?_) ?_ | refine foldl_sound ?_ (fun s x hx => ?_) | apply State.core_legal | exact reset_legal | refine foldl_legal ?_ (fun p x hx => ?_) | (intro p hp) | split)

theorem State.virtMeet_sound {s : State} (hc : s.sound) (o : TlbOwner) (asid : ℕ) (va : ℕ) (n : ℕ) (sup : Bool) : (State.virtMeet s o asid va n sup).sound := by
  unfold State.virtMeet
  repeat' (with_reducible first | assumption | dsimp only | exact sound_reset | intro sp | apply State.askSpan_sound | apply State.eccMeet_sound | refine foldl_fst_sound ?_ (fun a x hx => ?_) | refine getD_sound (fun t ht => ?_) ?_ | refine foldl_sound ?_ (fun s x hx => ?_) | apply State.core_legal | exact reset_legal | refine foldl_legal ?_ (fun p x hx => ?_) | (intro p hp) | split)

theorem State.imageMeet_sound {s : State} (hc : s.sound) (l : Launch) : (State.imageMeet s l).sound := by
  unfold State.imageMeet
  repeat' (with_reducible first | assumption | dsimp only | exact sound_reset | intro sp | apply State.virtMeet_sound | refine foldl_fst_sound ?_ (fun a x hx => ?_) | refine getD_sound (fun t ht => ?_) ?_ | refine foldl_sound ?_ (fun s x hx => ?_) | apply State.core_legal | exact reset_legal | refine foldl_legal ?_ (fun p x hx => ?_) | (intro p hp) | split)

theorem State.purgeAll_sound {s : State} (hc : s.sound) (is : List ℕ) (dead : SegId → Bool) : (State.purgeAll s is dead).sound := by
  unfold State.purgeAll
  repeat' (with_reducible first | assumption | dsimp only | exact sound_reset | intro sp | apply State.updChan_sound | refine foldl_fst_sound ?_ (fun a x hx => ?_) | refine getD_sound (fun t ht => ?_) ?_ | refine foldl_sound ?_ (fun s x hx => ?_))

theorem State.pushAll_sound {s : State} (hc : s.sound) (is : List ℕ) (b : Beat) (from_ : optParam (List Endp) []) : (State.pushAll s is b from_).sound := by
  unfold State.pushAll
  repeat' (with_reducible first | assumption | dsimp only | exact sound_reset | intro sp | apply State.push_sound | refine foldl_fst_sound ?_ (fun a x hx => ?_) | refine getD_sound (fun t ht => ?_) ?_ | refine foldl_sound ?_ (fun s x hx => ?_))

theorem State.prunePlot_sound {s : State} (hc : s.sound) (q : Plot) (b : Beat) : (State.prunePlot s q b).sound := by
  unfold State.prunePlot
  repeat' (with_reducible first | assumption | dsimp only | exact sound_reset | intro sp | apply State.updPlot_sound | apply State.purgeAll_sound | apply State.pushAll_sound)

theorem State.pruneNode_sound {s : State} (hc : s.sound) (n : MemNode) (b : Beat) : (State.pruneNode s n b).sound := by
  unfold State.pruneNode
  repeat' (with_reducible first | assumption | dsimp only | exact sound_reset | intro sp | apply State.updNode_sound | apply State.updChan_sound | apply State.push_sound | refine foldl_fst_sound ?_ (fun a x hx => ?_) | refine getD_sound (fun t ht => ?_) ?_ | refine foldl_sound ?_ (fun s x hx => ?_))

theorem State.updFg_sound {s : State} (hc : s.sound) (g : Forager) (f : Forager → Forager) : (State.updFg s g f).sound := by
  unfold State.updFg
  repeat' (with_reducible first | assumption | dsimp only | exact sound_reset | intro sp | apply State.updForager_sound)

theorem State.pruneForager_sound {s : State} (hc : s.sound) (g : Forager) (i : ℕ) (b : Beat) : (State.pruneForager s g i b).sound := by
  unfold State.pruneForager
  repeat' (with_reducible first | assumption | dsimp only | exact sound_reset | intro sp | apply State.updFg_sound | apply State.pushAll_sound | apply State.purgeAll_sound)

theorem State.pruneArrive_sound {s : State} (hc : s.sound) (i : ℕ) : (State.pruneArrive s i).sound := by
  unfold State.pruneArrive
  repeat' (with_reducible first | assumption | dsimp only | exact sound_reset | intro sp | apply State.takeAt_sound | apply State.prunePlot_sound | apply State.pruneNode_sound | apply State.updFg_sound | apply State.pruneForager_sound | refine foldl_fst_sound ?_ (fun a x hx => ?_) | refine getD_sound (fun t ht => ?_) ?_ | refine foldl_sound ?_ (fun s x hx => ?_) | apply State.core_legal | exact reset_legal | refine foldl_legal ?_ (fun p x hx => ?_) | (intro p hp) | split)

theorem State.wakeRegion_sound {s : State} (hc : s.sound) (lid : ℕ) (pset : ℕ) : (State.wakeRegion s lid pset).sound := by
  unfold State.wakeRegion
  repeat' (with_reducible first | assumption | dsimp only | exact sound_reset | intro sp | apply State.mapPlace_sound | refine foldl_fst_sound ?_ (fun a x hx => ?_) | refine getD_sound (fun t ht => ?_) ?_ | refine foldl_sound ?_ (fun s x hx => ?_) | apply State.core_legal | exact reset_legal | refine foldl_legal ?_ (fun p x hx => ?_) | (simp only [State.sound_mk]; apply State.sound.split))

theorem State.resumeMsg_sound {s : State} (hc : s.sound) (m : HostMsg) : (State.resumeMsg s m).sound := by
  unfold State.resumeMsg
  repeat' (with_reducible first | assumption | dsimp only | exact sound_reset | intro sp | apply State.result_sound | apply State.mapLaunch_sound | apply State.wakeRegion_sound | refine foldl_fst_sound ?_ (fun a x hx => ?_) | refine getD_sound (fun t ht => ?_) ?_ | refine foldl_sound ?_ (fun s x hx => ?_) | apply State.core_legal | exact reset_legal | refine foldl_legal ?_ (fun p x hx => ?_) | (intro p hp) | split)

theorem State.fgSend_sound {s : State} (hc : s.sound) (g : Forager) (port : ℕ) (b : Beat) : (State.fgSend s g port b).sound := by
  unfold State.fgSend
  repeat' (with_reducible first | assumption | dsimp only | exact sound_reset | intro sp | apply State.pushAll_sound)

theorem CoreCtx.request_sound {s : State} (hc : s.sound) {x : CoreCtx} (hlx : x.pc.legal) (lsid : ℕ) (e : ℕ) (op : ℕ) (count : ℕ) (scope : ℕ) : (CoreCtx.request x s lsid e op count scope).sound := by
  unfold CoreCtx.request
  repeat' (with_reducible first | assumption | dsimp only | exact sound_reset | intro sp | apply CoreCtx.illegal_sound | apply CoreCtx.fail_sound | apply CoreCtx.checked_sound | apply CoreCtx.ask_sound | refine foldl_fst_sound ?_ (fun a x hx => ?_) | refine getD_sound (fun t ht => ?_) ?_ | refine foldl_sound ?_ (fun s x hx => ?_) | apply State.core_legal | exact reset_legal | refine foldl_legal ?_ (fun p x hx => ?_) | (intro p hp) | split)

theorem State.boot_sound {s : State} (hc : s.sound) : (State.boot s).sound := by
  unfold State.boot
  repeat' (with_reducible first | assumption | dsimp only | exact sound_reset | intro sp | apply State.useFree_sound | apply State.send_sound | refine foldl_fst_sound ?_ (fun a x hx => ?_) | refine getD_sound (fun t ht => ?_) ?_ | refine foldl_sound ?_ (fun s x hx => ?_) | apply State.core_legal | exact reset_legal | refine foldl_legal ?_ (fun p x hx => ?_) | (simp only [State.sound_mk]; apply State.sound.split) | (intro p hp) | split)

theorem State.powerUp_sound {s : State} (hc : s.sound) : (State.powerUp s).sound := by
  unfold State.powerUp
  repeat' (with_reducible first | assumption | dsimp only | exact sound_reset | intro sp | apply State.send_sound | apply State.boot_sound | refine foldl_fst_sound ?_ (fun a x hx => ?_) | refine getD_sound (fun t ht => ?_) ?_ | refine foldl_sound ?_ (fun s x hx => ?_) | apply State.core_legal | exact reset_legal | refine foldl_legal ?_ (fun p x hx => ?_) | (simp only [State.sound_mk]; apply State.sound.split) | (intro p hp) | split)

theorem State.armLog_sound {s : State} (hc : s.sound) (m : HostMsg) : (State.armLog s m).sound := by
  unfold State.armLog
  repeat' (with_reducible first | assumption | dsimp only | exact sound_reset | intro sp | apply State.result_sound | apply State.useFree_sound | refine foldl_fst_sound ?_ (fun a x hx => ?_) | refine getD_sound (fun t ht => ?_) ?_ | refine foldl_sound ?_ (fun s x hx => ?_) | apply State.core_legal | exact reset_legal | refine foldl_legal ?_ (fun p x hx => ?_) | (simp only [State.sound_mk]; apply State.sound.split) | (intro p hp) | split)

theorem CoreCtx.atomic_sound {s : State} (hc : s.sound) {x : CoreCtx} (hlx : x.pc.legal) (lsid : ℕ) (t : BitVec 9) (order : ℕ) (scope : ℕ) (a : AtomOp) : (CoreCtx.atomic x s lsid t order scope a).sound := by
  unfold CoreCtx.atomic
  repeat' (with_reducible first | assumption | dsimp only | exact sound_reset | intro sp | apply CoreCtx.checked_sound | apply CoreCtx.fail_sound | apply CoreCtx.ask_sound | refine foldl_fst_sound ?_ (fun a x hx => ?_) | refine getD_sound (fun t ht => ?_) ?_ | refine foldl_sound ?_ (fun s x hx => ?_) | apply State.core_legal | exact reset_legal | refine foldl_legal ?_ (fun p x hx => ?_) | (intro p hp) | split)

theorem State.rowErrors_sound {s : State} (hc : s.sound) {c : CoreRef} {t : TileItem} {rows : List Span} {bs : List (List Byte)} {res : State} {oth} (heq : State.rowErrors s c t rows bs = (res, oth)) : res.sound := by
  unfold State.rowErrors at heq
  repeat' (with_reducible first | dsimp only at heq | split at heq)
  all_goals (first | (cases heq; done) | (obtain ⟨_, _, rfl⟩ := Option.map_eq_some_iff.mp heq) | (cases heq))
  all_goals repeat' (with_reducible first | assumption | dsimp only | exact sound_reset | intro sp | apply State.askSpan_sound | apply State.eccMeet_sound | apply latchFault_sound | apply State.useFree_sound)

theorem State.rowErrors_sound_fst {s : State} (hc : s.sound) {c : CoreRef} {t : TileItem} {rows : List Span} {bs : List (List Byte)} : (State.rowErrors s c t rows bs).1.sound := State.rowErrors_sound hc rfl

theorem State.storeRows_sound {s : State} (hc : s.sound) (c : CoreRef) (t : TileItem) (rows : List (Span × List Byte)) : (State.storeRows s c t rows).sound := by
  unfold State.storeRows
  repeat' (with_reducible first | assumption | dsimp only | exact sound_reset | intro sp | apply latchFault_sound | apply State.eccMeet_sound | refine State.writeSpan_sound ?_ (by assumption) | apply State.writeSpan_sound_fst | apply State.mapCore_sound | refine foldl_fst_sound ?_ (fun a x hx => ?_) | refine getD_sound (fun t ht => ?_) ?_ | refine foldl_sound ?_ (fun s x hx => ?_) | apply State.core_legal | exact reset_legal | refine foldl_legal ?_ (fun p x hx => ?_) | (simp only [PageCore.legal_mk, List.length_map, setAt_length]; apply PageCore.legal.split) | (intro p hp) | split)

theorem PageCore.topk_legal {p : PageCore} (hc : p.legal) (k : ℕ) (ctl : DWord) : (PageCore.topk p k ctl).legal := by
  unfold PageCore.topk
  repeat' (with_reducible first | assumption | dsimp only | exact sound_reset | intro sp | apply PageCore.setTile_legal | refine foldl_fst_sound ?_ (fun a x hx => ?_) | refine getD_sound (fun t ht => ?_) ?_ | refine foldl_sound ?_ (fun s x hx => ?_) | apply State.core_legal | exact reset_legal | refine foldl_legal ?_ (fun p x hx => ?_) | (intro p hp) | split)

theorem State.tileEffect_sound {s : State} (hc : s.sound) {c : CoreRef} {t : TileItem} {res : State} (heq : State.tileEffect s c t = some res) : res.sound := by
  unfold State.tileEffect at heq
  repeat' (with_reducible first | dsimp only at heq | split at heq)
  all_goals (first | (cases heq; done) | (obtain ⟨_, _, rfl⟩ := Option.map_eq_some_iff.mp heq) | (cases heq))
  all_goals repeat' (with_reducible first | assumption | dsimp only | exact sound_reset | intro sp | refine State.rowErrors_sound ?_ (by assumption) | apply State.rowErrors_sound_fst | apply State.mapCore_sound | apply PageCore.setTile_legal | apply State.storeRows_sound | apply State.onArray_sound | apply State.useFree_sound | apply PageCore.topk_legal)

theorem State.storeSome_sound {s : State} (hc : s.sound) (w : Machine.Writer) (gen : ℕ) (sp : Span) (bs : List (Option Byte)) : (State.storeSome s w gen sp bs).sound := by
  unfold State.storeSome
  repeat' (with_reducible first | assumption | dsimp only | exact sound_reset | intro sp | refine State.writeSpan_sound ?_ (by assumption) | apply State.writeSpan_sound_fst | refine foldl_fst_sound ?_ (fun a x hx => ?_) | refine getD_sound (fun t ht => ?_) ?_ | refine foldl_sound ?_ (fun s x hx => ?_) | apply State.core_legal | exact reset_legal | refine foldl_legal ?_ (fun p x hx => ?_) | (intro p hp) | split)

theorem State.storeWords_sound_fst {s : State} (hc : s.sound) (w : Writer) (gen : Nat) (sp : Span) (pre : Nat) (ws : List (Nat × List Byte)) :
    (s.storeWords w gen sp pre ws).1.sound := by
  unfold State.storeWords
  refine foldl_fst_sound hc (fun a x hx => ?_)
  dsimp only
  split
  · exact State.writeSpan_sound_fst hx _ _ _ _
  · exact hx

theorem State.storeWords_sound {s : State} (hc : s.sound) {w : Writer} {gen : Nat} {sp : Span} {pre : Nat} {ws : List (Nat × List Byte)}
    {res : State} {oth} (heq : s.storeWords w gen sp pre ws = (res, oth)) : res.sound := by
  have h := State.storeWords_sound_fst hc w gen sp pre ws
  rwa [heq] at h

theorem State.streamWords_sound {s : State} (hc : s.sound) {c : CoreRef} {t : StreamCmd} {bs : List (Option Byte)} {res : State} {oth} (heq : State.streamWords s c t bs = (res, oth)) : res.sound := by
  unfold State.streamWords at heq
  repeat' (with_reducible first | dsimp only at heq | split at heq)
  all_goals (first | (cases heq; done) | (obtain ⟨_, _, rfl⟩ := Option.map_eq_some_iff.mp heq) | (cases heq))
  all_goals repeat' (with_reducible first | assumption | dsimp only | exact sound_reset | intro sp | refine State.storeWords_sound ?_ (by assumption) | apply State.storeWords_sound_fst)

theorem State.streamWords_sound_fst {s : State} (hc : s.sound) {c : CoreRef} {t : StreamCmd} {bs : List (Option Byte)} : (State.streamWords s c t bs).1.sound := State.streamWords_sound hc rfl

theorem State.streamTake_sound {s : State} (hc : s.sound) (c : CoreRef) (t : StreamCmd) (b : Beat) : (State.streamTake s c t b).sound := by
  unfold State.streamTake
  repeat' (with_reducible first | assumption | dsimp only | exact sound_reset | intro sp | apply State.mapCore_sound | apply PageCore.setTile_legal | apply State.streamStep_sound | apply State.eccMeet_sound | apply latchFault_sound | apply State.storeSome_sound | refine State.streamWords_sound ?_ (by assumption) | apply State.streamWords_sound_fst | refine foldl_fst_sound ?_ (fun a x hx => ?_) | refine getD_sound (fun t ht => ?_) ?_ | refine foldl_sound ?_ (fun s x hx => ?_) | apply State.core_legal | exact reset_legal | refine foldl_legal ?_ (fun p x hx => ?_) | (intro p hp) | split)

theorem State.streamBeatOut_sound {s : State} (hc : s.sound) {c : CoreRef} {t : StreamCmd} {res : State} {b : Beat}
    (heq : s.streamBeatOut c t = some (res, b)) : res.sound := by
  unfold State.streamBeatOut at heq
  dsimp only at heq
  repeat' split at heq
  all_goals first | (cases heq; done) | cases heq
  all_goals first | exact hc | exact latchFault_sound (State.useFree_sound (State.eccMeet_sound hc _) _) _ _ _ _ |
    exact State.askSpan_sound (State.eccMeet_sound hc _) _

theorem State.streamBeat_sound {s : State} (hc : s.sound) (c : CoreRef) (seq : ℕ) : (State.streamBeat s c seq).sound := by
  unfold State.streamBeat
  repeat' (with_reducible first | assumption | refine State.streamBeatOut_sound ?_ (by assumption) | dsimp only | exact sound_reset | intro sp | apply State.streamStep_sound | apply State.pushSrc_sound | apply State.mapCore_sound | apply State.refillSink_sound | apply State.streamTake_sound | refine foldl_fst_sound ?_ (fun a x hx => ?_) | refine getD_sound (fun t ht => ?_) ?_ | refine foldl_sound ?_ (fun s x hx => ?_) | apply State.core_legal | exact reset_legal | refine foldl_legal ?_ (fun p x hx => ?_) | (simp only [PageCore.legal_mk, List.length_map, setAt_length]; apply PageCore.legal.split) | (intro p hp) | split)

theorem State.notReady_sound {s : State} (hc : s.sound) (idx : ℕ) (why : ℕ) : (State.notReady s idx why).sound := by
  unfold State.notReady
  repeat' (with_reducible first | assumption | dsimp only | exact sound_reset | intro sp | apply State.tell_sound | refine foldl_fst_sound ?_ (fun a x hx => ?_) | refine getD_sound (fun t ht => ?_) ?_ | refine foldl_sound ?_ (fun s x hx => ?_) | apply State.core_legal | exact reset_legal | refine foldl_legal ?_ (fun p x hx => ?_) | (simp only [State.sound_mk]; apply State.sound.split))

theorem State.sendEth_sound {s : State} (hc : s.sound) (port : ℕ) (prio : ℕ) (x : Sent) : (State.sendEth s port prio x).sound := by
  unfold State.sendEth
  repeat' (with_reducible first | assumption | dsimp only | exact sound_reset | intro sp | apply State.updEth_sound | apply State.send_sound | refine foldl_fst_sound ?_ (fun a x hx => ?_) | refine getD_sound (fun t ht => ?_) ?_ | refine foldl_sound ?_ (fun s x hx => ?_) | apply State.core_legal | exact reset_legal | refine foldl_legal ?_ (fun p x hx => ?_) | (intro p hp) | split)

theorem State.fetchShard_sound {s : State} (hc : s.sound) (e : Shard) : (State.fetchShard s e).sound := by
  unfold State.fetchShard
  repeat' (with_reducible first | assumption | dsimp only | exact sound_reset | intro sp | apply State.send_sound | apply State.sendEth_sound | apply State.memFlits_sound | refine foldl_fst_sound ?_ (fun a x hx => ?_) | refine getD_sound (fun t ht => ?_) ?_ | refine foldl_sound ?_ (fun s x hx => ?_) | apply State.core_legal | exact reset_legal | refine foldl_legal ?_ (fun p x hx => ?_) | (intro p hp) | split)

theorem State.prepare_sound {s : State} (hc : s.sound) (m : HostMsg) : (State.prepare s m).sound := by
  unfold State.prepare
  repeat' (with_reducible first | assumption | dsimp only | exact sound_reset | intro sp | apply State.reply_sound | apply State.notReady_sound | apply State.fetchShard_sound | refine foldl_fst_sound ?_ (fun a x hx => ?_) | refine getD_sound (fun t ht => ?_) ?_ | refine foldl_sound ?_ (fun s x hx => ?_) | apply State.core_legal | exact reset_legal | refine foldl_legal ?_ (fun p x hx => ?_) | (simp only [State.sound_mk]; apply State.sound.split) | (intro p hp) | split)

theorem State.fireAt_sound {s : State} (hc : s.sound) {c : CoreRef} {bi : ℕ} {slot : ℕ} {res : State} {oth} (heq : State.fireAt s c bi slot = (res, oth)) : res.sound := by
  unfold State.fireAt at heq
  repeat' (with_reducible first | dsimp only at heq | split at heq)
  all_goals (first | (cases heq; done) | (obtain ⟨_, _, rfl⟩ := Option.map_eq_some_iff.mp heq) | (cases heq))
  all_goals repeat' (with_reducible first | assumption | dsimp only | exact sound_reset | intro sp | refine foldl_fst_sound ?_ (fun a x hx => ?_) | refine getD_sound (fun t ht => ?_) ?_ | refine foldl_sound ?_ (fun s x hx => ?_) | apply State.core_legal | exact reset_legal | refine foldl_legal ?_ (fun p x hx => ?_) | (simp only [State.sound_mk]; apply State.sound.split))

theorem State.fireAt_sound_fst {s : State} (hc : s.sound) {c : CoreRef} {bi : ℕ} {slot : ℕ} : (State.fireAt s c bi slot).1.sound := State.fireAt_sound hc rfl

theorem State.firstChange_sound {s : State} (hc : s.sound) (l : List (Unit → State)) (hl : ∀ f ∈ l, (f ()).sound) :
    (s.firstChange l).sound := by
  induction l with
  | nil => exact hc
  | cons f r ih =>
    unfold State.firstChange
    split
    · exact ih (fun g hg => hl g (List.mem_cons_of_mem _ hg))
    · exact hl f List.mem_cons_self

theorem State.corePosted_sound {s : State} (hc : s.sound) (c : CoreRef) (seq : ℕ) : (State.corePosted s c seq).sound := by
  unfold State.corePosted
  repeat' (with_reducible first | assumption | dsimp only | exact sound_reset | intro sp | apply State.performPosted_sound | refine foldl_fst_sound ?_ (fun a x hx => ?_) | refine getD_sound (fun t ht => ?_) ?_ | refine foldl_sound ?_ (fun s x hx => ?_) | apply State.core_legal | exact reset_legal | refine foldl_legal ?_ (fun p x hx => ?_) | (intro p hp) | split)

theorem State.completeTile_sound {s : State} (hc : s.sound) {c : CoreRef} {t : TileItem} {res : State} (heq : State.completeTile s c t = some res) : res.sound := by
  unfold State.completeTile at heq
  repeat' (with_reducible first | dsimp only at heq | split at heq)
  all_goals (first | (obtain ⟨_, _, rfl⟩ := Option.map_eq_some_iff.mp heq))
  all_goals repeat' (with_reducible first | assumption | dsimp only | exact sound_reset | intro sp | apply State.mapCore_sound | refine State.tileEffect_sound ?_ (by assumption) | refine foldl_fst_sound ?_ (fun a x hx => ?_) | refine getD_sound (fun t ht => ?_) ?_ | refine foldl_sound ?_ (fun s x hx => ?_) | apply State.core_legal | exact reset_legal | refine foldl_legal ?_ (fun p x hx => ?_) | (simp only [PageCore.legal_mk, List.length_map, setAt_length]; apply PageCore.legal.split))

theorem State.nextTile_sound {s : State} (hc : s.sound) {c : CoreRef} {a l : List TileItem} {res : State}
    (heq : s.nextTile c a l = some res) : res.sound := by
  induction l generalizing a with
  | nil => cases heq
  | cons t r ih =>
    unfold State.nextTile at heq
    split at heq
    · cases heq
      rename_i h
      split at h
      · exact State.completeTile_sound hc h
      · cases h
    · exact ih heq

theorem State.addBlock_sound {s : State} (hc : s.sound) (c : CoreRef) (b : Block) (hn : (s.core c).blocks.length < 4) :
    (s.addBlock c b).sound := by
  have hp := State.core_legal hc c
  exact State.setCore_sound hc c ⟨hp.1, hp.2.1, by simpa using hn⟩

theorem State.fetchMeet_sound {s : State} (hc : s.sound) (c : CoreRef) (va : ℕ) (n : ℕ) : (State.fetchMeet s c va n).sound := by
  unfold State.fetchMeet
  repeat' (with_reducible first | assumption | dsimp only | exact sound_reset | intro sp | apply State.virtMeet_sound)

theorem foldl_cores {α : Type} {l : List α} {f : State → α → State} {s : State} (hf : ∀ s x, (f s x).cores = s.cores) : (l.foldl f s).cores = s.cores := by
  induction l generalizing s with
  | nil => rfl
  | cons a r ih => exact (ih (s := f s a)).trans (hf s a)

theorem State.eccMeet_cores (s : State) (pas : List Nat) : (s.eccMeet pas).cores = s.cores := by
  refine foldl_cores fun s e => ?_
  unfold State.eccAt State.dieTime State.updDie State.useFree
  repeat' (first | rfl | dsimp only | split)

theorem State.sendFlit_cores (s : State) (port dst vc type : Nat) (payload : List Byte) : (s.sendFlit port dst vc type payload).cores = s.cores := by
  unfold State.sendFlit State.putFlit State.updPort State.send State.useFree
  repeat' (first | rfl | dsimp only | split)

theorem State.askSpan_cores (s : State) (sp : Span) : (s.askSpan sp).cores = s.cores := by
  refine foldl_cores fun s e => ?_
  split
  · unfold State.hostAsk
    split
    · exact foldl_cores fun s k => State.sendFlit_cores s _ _ _ _ _
    · rfl
  · rfl

theorem State.fetchMeet_cores (s : State) (c : CoreRef) (va n : Nat) : (s.fetchMeet c va n).cores = s.cores := by
  unfold State.fetchMeet State.virtMeet
  split
  · rfl
  · rw [State.askSpan_cores, State.eccMeet_cores]

theorem State.fetchMeet_core (s : State) (c d : CoreRef) (va n : Nat) : (s.fetchMeet c va n).core d = s.core d := by
  unfold State.core
  rw [State.fetchMeet_cores]

theorem State.beginBlock_sound {s : State} (hc : s.sound) (c : CoreRef) : (State.beginBlock s c).sound := by
  unfold State.beginBlock
  dsimp only
  split
  · exact hc
  · rename_i h
    simp only [Bool.or_eq_true, decide_eq_true_eq, not_or, Nat.not_le] at h
    repeat' split
    all_goals first | exact hc | exact State.addBlock_sound (State.fetchMeet_sound hc _ _ _) _ _ (by rw [State.fetchMeet_core]; exact h.2)

theorem State.housekeep_sound {s : State} (hc : s.sound) (c : CoreRef) : (s.housekeep c).sound := by
  unfold State.housekeep
  refine State.firstChange_sound hc _ (fun f hf => ?_)
  simp only [List.mem_append, List.mem_map, List.mem_cons, List.not_mem_nil, or_false] at hf
  obtain (⟨r, -, rfl⟩ | ⟨q, -, rfl⟩) | rfl | rfl | rfl := hf
  · exact State.loadArrives_sound hc _ _ _
  · exact State.corePosted_sound hc _ _
  · exact getD_sound (fun t ht => State.nextTile_sound hc ht) hc
  · exact State.commitBlock_sound hc _
  · exact State.beginBlock_sound hc _

theorem State.progress_sound {s : State} (hc : s.sound) {c : CoreRef} {res : State} {oth} (heq : State.progress s c = (res, oth)) : res.sound := by
  unfold State.progress at heq
  repeat' (with_reducible first | dsimp only at heq | split at heq)
  all_goals (first | (cases heq; done) | (obtain ⟨_, _, rfl⟩ := Option.map_eq_some_iff.mp heq) | (cases heq) | skip)
  all_goals repeat' (with_reducible first | assumption | dsimp only | exact sound_reset | intro sp | refine State.fireAt_sound ?_ (by assumption) | apply State.fireAt_sound_fst | apply State.housekeep_sound | refine foldl_fst_sound ?_ (fun a x hx => ?_) | refine getD_sound (fun t ht => ?_) ?_ | refine foldl_sound ?_ (fun s x hx => ?_) | apply State.core_legal | exact reset_legal | refine foldl_legal ?_ (fun p x hx => ?_) | (simp only [State.sound_mk]; apply State.sound.split))

theorem State.progress_sound_fst {s : State} (hc : s.sound) {c : CoreRef} : (State.progress s c).1.sound := State.progress_sound hc rfl

theorem State.restoreRegion_sound {s : State} (hc : s.sound) {d : Dormant} (hd : ∀ e ∈ d.cores, e.2.legal) : (s.restoreRegion d).sound := by
  refine foldl_sound ⟨fun e he => ?_, fun x hx => hc.2.1 x (List.mem_of_mem_filter hx), hc.2.2⟩ (fun s r h => State.dropEntries_sound h _ _)
  exact (List.mem_append.mp he).elim (hc.1 e) (hd e)

theorem State.reopen_sound {s : State} (hc : s.sound) {d : Dormant} (hd : ∀ e ∈ d.cores, e.2.legal) : (s.reopen d).sound := by
  unfold State.reopen
  exact foldl_sound (State.seatNodes_sound (State.restoreRegion_sound hc hd) _ _ _) (fun s x hx => State.setSprout_sound hx _ _)

theorem State.fgFault_sound {s : State} (hc : s.sound) (g : Forager) (i : ℕ) (code : ℕ) : (State.fgFault s g i code).sound := by
  unfold State.fgFault
  repeat' (with_reducible first | assumption | dsimp only | exact sound_reset | intro sp | apply State.elemFault_sound | apply State.updFg_sound)

theorem State.fgRoute_sound {s : State} (hc : s.sound) {g : Forager} {b : Beat} {done : ℕ} {stageOk : Bool} {res : State} (heq : State.fgRoute s g b done stageOk = some res) : res.sound := by
  unfold State.fgRoute at heq
  repeat' (with_reducible first | dsimp only at heq | split at heq)
  all_goals (first | (cases heq; done) | (obtain ⟨_, _, rfl⟩ := Option.map_eq_some_iff.mp heq) | (cases heq))
  all_goals repeat' (with_reducible first | assumption | dsimp only | exact sound_reset | intro sp | apply State.fgSend_sound | apply State.updFg_sound)

theorem State.fgEntry_sound {s : State} (hc : s.sound) {g : Forager} {res : State} (heq : State.fgEntry s g = some res) : res.sound := by
  revert heq
  unfold State.fgEntry
  split
  · exact fun h => by cases h
  · split
    · exact fun h => by cases h
    · extract_lets b shut
      have hs : ∀ t : State, t.sound → (shut t).sound := fun t ht => by
        show State.sound (if _ then _ else _)
        split
        · exact State.updFg_sound ht _ _
        · exact ht
      have ht := fun i => State.take_sound hc i
      clear_value shut
      repeat' split
      all_goals (intro heq; first | (cases heq; done) | cases heq)
      all_goals repeat' (with_reducible first | assumption | apply hs | apply ht | exact hc | apply State.fgFault_sound | apply State.fgSend_sound | apply State.updFg_sound | refine State.fgRoute_sound ?_ (by assumption))

theorem State.openLog_sound {s : State} (hc : s.sound) (l : Launch) : (State.openLog s l).sound := by
  unfold State.openLog
  repeat' (with_reducible first | assumption | dsimp only | exact sound_reset | intro sp | refine foldl_fst_sound ?_ (fun a x hx => ?_) | refine getD_sound (fun t ht => ?_) ?_ | refine foldl_sound ?_ (fun s x hx => ?_) | apply State.core_legal | exact reset_legal | refine foldl_legal ?_ (fun p x hx => ?_) | (simp only [State.sound_mk]; apply State.sound.split) | (intro p hp) | split)

theorem State.reservedRead_sound {s : State} (hc : s.sound) : (State.reservedRead s).sound := by
  unfold State.reservedRead
  repeat' (with_reducible first | assumption | dsimp only | exact sound_reset | intro sp | apply State.fatal_sound | apply State.eccAt_sound | apply State.useFree_sound | refine foldl_fst_sound ?_ (fun a x hx => ?_) | refine getD_sound (fun t ht => ?_) ?_ | refine foldl_sound ?_ (fun s x hx => ?_) | apply State.core_legal | exact reset_legal | refine foldl_legal ?_ (fun p x hx => ?_) | (intro p hp) | split)

theorem State.writeImage_sound {s : State} (hc : s.sound) {a : Span × ℕ × ℕ} {res : State} {oth} (heq : State.writeImage s a = (res, oth)) : res.sound := by
  unfold State.writeImage at heq
  repeat' (with_reducible first | dsimp only at heq | split at heq)
  all_goals (first | (cases heq; done) | (obtain ⟨_, _, rfl⟩ := Option.map_eq_some_iff.mp heq) | (cases heq))
  all_goals repeat' (with_reducible first | assumption | dsimp only | exact sound_reset | intro sp | refine State.writeSpan_sound ?_ (by assumption) | apply State.writeSpan_sound_fst | apply State.useFree_sound)

theorem State.writeImage_sound_fst {s : State} (hc : s.sound) {a : Span × ℕ × ℕ} : (State.writeImage s a).1.sound := State.writeImage_sound hc rfl

theorem State.stopReport_sound {s : State} (hc : s.sound) (lid : ℕ) : (State.stopReport s lid).sound := by
  unfold State.stopReport
  repeat' (with_reducible first | assumption | dsimp only | exact sound_reset | intro sp | refine foldl_fst_sound ?_ (fun a x hx => ?_) | refine getD_sound (fun t ht => ?_) ?_ | refine foldl_sound ?_ (fun s x hx => ?_) | apply State.core_legal | exact reset_legal | refine foldl_legal ?_ (fun p x hx => ?_) | (simp only [State.sound_mk]; apply State.sound.split))

theorem State.saveRegion_sound {s : State} (hc : s.sound) (lid pset : ℕ) (area : Span) (digest : List Byte) : (s.saveRegion lid pset area digest).sound := by
  refine ⟨fun e he => hc.1 e (List.mem_of_mem_filter he), fun x hx => ?_, hc.2.2⟩
  obtain h | h := List.mem_append.mp hx
  · exact hc.2.1 x h
  · cases List.mem_singleton.mp h
    exact fun e he => hc.1 e (List.mem_of_mem_filter he)

theorem State.finishCut_sound {s : State} (hc : s.sound) (c : Cut) : (State.finishCut s c).sound := by
  unfold State.finishCut
  repeat' (with_reducible first | assumption | dsimp only | exact sound_reset | intro sp | refine State.writeImage_sound ?_ (by assumption) | apply State.writeImage_sound_fst | apply State.wakeRegion_sound | apply State.mapPlace_sound | apply State.mapLaunch_sound | apply State.stopReport_sound | apply State.saveRegion_sound | apply State.parkSeqs_sound | refine foldl_fst_sound ?_ (fun a x hx => ?_) | refine getD_sound (fun t ht => ?_) ?_ | refine foldl_sound ?_ (fun s x hx => ?_) | apply State.core_legal | exact reset_legal | refine foldl_legal ?_ (fun p x hx => ?_) | (simp only [State.sound_mk]; apply State.sound.split) | (intro p hp) | split)

theorem State.clearDrain_sound {s : State} (hc : s.sound) (is : List ℕ) (serial : ℕ) : (State.clearDrain s is serial).sound := by
  unfold State.clearDrain
  repeat' (with_reducible first | assumption | dsimp only | exact sound_reset | intro sp | apply State.updChan_sound | refine foldl_fst_sound ?_ (fun a x hx => ?_) | refine getD_sound (fun t ht => ?_) ?_ | refine foldl_sound ?_ (fun s x hx => ?_))

theorem State.nodeUpdate_sound {s : State} (hc : s.sound) (n : MemNode) (o : NodeOp) (sp : Span) : (State.nodeUpdate s n o sp).sound := by
  unfold State.nodeUpdate
  repeat' (with_reducible first | assumption | dsimp only | exact sound_reset | intro sp | apply State.freezeNode_sound | apply State.eccMeet_sound | refine State.atomicAt_sound ?_ (by assumption) | apply State.atomicAt_sound_fst | apply State.noteUpdate_sound | apply State.updOp_sound | refine foldl_fst_sound ?_ (fun a x hx => ?_) | refine getD_sound (fun t ht => ?_) ?_ | refine foldl_sound ?_ (fun s x hx => ?_) | apply State.core_legal | exact reset_legal | refine foldl_legal ?_ (fun p x hx => ?_) | (intro p hp) | split)

theorem State.stretch_sound {s : State} (hc : s.sound) : (State.stretch s).sound := by
  unfold State.stretch
  repeat' (with_reducible first | assumption | dsimp only | exact sound_reset | intro sp | apply State.useFree_sound | refine foldl_fst_sound ?_ (fun a x hx => ?_) | refine getD_sound (fun t ht => ?_) ?_ | refine foldl_sound ?_ (fun s x hx => ?_) | apply State.core_legal | exact reset_legal | refine foldl_legal ?_ (fun p x hx => ?_) | (simp only [State.sound_mk]; apply State.sound.split))

theorem cellWfFrom_of_sorted {β : Type} [DecidableEq β] {d : β} : ∀ {l : List (Nat × β)} {lo : Nat}, (∀ e ∈ l, lo ≤ e.1) →
    l.Pairwise (fun a b => a.1 < b.1) → (∀ e ∈ l, e.2 ≠ d) → cellWfFrom d lo l
  | [], _, _, _, _ => rfl
  | (a, v) :: r, lo, hl, hp, hd => by
    have h := List.pairwise_cons.mp hp
    simp only [cellWfFrom, Bool.and_eq_true, decide_eq_true_eq]
    exact ⟨⟨hl _ List.mem_cons_self, hd _ List.mem_cons_self⟩,
      cellWfFrom_of_sorted (fun e he => h.1 e he) h.2 (fun e he => hd e (List.mem_cons_of_mem _ he))⟩

theorem State.evaluate_buckets (s : State) : cellWfFrom {} 0 s.evaluate.buckets := by
  unfold State.evaluate State.useFree
  dsimp only
  refine cellWfFrom_of_sorted (fun _ _ => Nat.zero_le _) ?_ (fun e he => by simpa using (List.mem_filter.mp he).2)
  refine List.Pairwise.filter _ (List.pairwise_map.mpr ?_)
  rw [List.pairwise_flatMap]
  refine ⟨fun d _ => List.pairwise_map.mpr ((List.pairwise_lt_range.filter _).imp (fun h => Nat.add_lt_add_left h _)), ?_⟩
  refine List.pairwise_lt_range.imp (fun {a b} hab x hx y hy => ?_)
  obtain ⟨i, hi, rfl⟩ := List.mem_map.mp hx
  obtain ⟨j, hj, rfl⟩ := List.mem_map.mp hy
  have := List.mem_range.mp (List.mem_of_mem_filter hi)
  dsimp only; omega

theorem State.evaluate_sound {s : State} (hc : s.sound) : (State.evaluate s).sound := by
  have h := s.evaluate_buckets
  simp only [State.evaluate, State.useFree, State.sound_mk] at h ⊢
  exact ⟨hc.1, hc.2.1, hc.2.2.1, hc.2.2.2.1, h, hc.2.2.2.2.2⟩

theorem State.setPtr_sound {s : State} (hc : s.sound) (p : ℕ) (n : ℕ) : (State.setPtr s p n).sound := by
  unfold State.setPtr
  repeat' (with_reducible first | assumption | dsimp only | exact sound_reset | intro sp | refine foldl_fst_sound ?_ (fun a x hx => ?_) | refine getD_sound (fun t ht => ?_) ?_ | refine foldl_sound ?_ (fun s x hx => ?_) | apply State.core_legal | exact reset_legal | refine foldl_legal ?_ (fun p x hx => ?_) | (simp only [State.sound_mk]; apply State.sound.split) | (intro p hp) | split)

theorem CoreCtx.load_sound {s : State} (hc : s.sound) {x : CoreCtx} (hlx : x.pc.legal) (lsid : ℕ) (y : ℕ) (acquire : Bool) : (CoreCtx.load x s lsid y acquire).sound := by
  unfold CoreCtx.load
  repeat' (with_reducible first | assumption | dsimp only | exact sound_reset | intro sp | apply CoreCtx.checked_sound | apply CoreCtx.read_sound)

theorem State.stall_sound {s : State} (hc : s.sound) (die : ℕ) (link : ℕ) : (State.stall s die link).sound := by
  unfold State.stall
  repeat' (with_reducible first | assumption | dsimp only | exact sound_reset | intro sp | apply State.send_sound | apply State.updDie_sound | refine foldl_fst_sound ?_ (fun a x hx => ?_) | refine getD_sound (fun t ht => ?_) ?_ | refine foldl_sound ?_ (fun s x hx => ?_) | apply State.core_legal | exact reset_legal | refine foldl_legal ?_ (fun p x hx => ?_) | (intro p hp) | split)

theorem CoreCtx.leaveTo_sound {s : State} (hc : s.sound) {x : CoreCtx} (hlx : x.pc.legal) (a : Act) : (CoreCtx.leaveTo x s a).sound := by
  unfold CoreCtx.leaveTo
  repeat' (with_reducible first | assumption | dsimp only | exact sound_reset | intro sp | apply CoreCtx.fail_sound | apply CoreCtx.leave_sound | refine foldl_fst_sound ?_ (fun a x hx => ?_) | refine getD_sound (fun t ht => ?_) ?_ | refine foldl_sound ?_ (fun s x hx => ?_) | apply State.core_legal | exact reset_legal | refine foldl_legal ?_ (fun p x hx => ?_) | (intro p hp) | split)

theorem CoreCtx.askGive_sound {s : State} (hc : s.sound) {x : CoreCtx} (hlx : x.pc.legal) (lsid : ℕ) (a : Act) (t : BitVec 9) (img : Img) : (CoreCtx.askGive x s lsid a t img).sound := by
  unfold CoreCtx.askGive
  repeat' (with_reducible first | assumption | dsimp only | exact sound_reset | intro sp | apply CoreCtx.put_sound)

theorem CoreCtx.askWith_sound {s : State} (hc : s.sound) {x : CoreCtx} (hlx : x.pc.legal) (lsid : ℕ) (fl : Flags) (a : Act) : (CoreCtx.askWith x s lsid fl a).sound := by
  unfold CoreCtx.askWith
  repeat' (with_reducible first | assumption | dsimp only | exact sound_reset | intro sp | apply CoreCtx.put_sound)

theorem ElemCtx.out_sound {s : State} (hc : s.sound) (x : ElemCtx) (q : ℕ) (ls : List LaneV) : (ElemCtx.out x s q ls).sound := by
  unfold ElemCtx.out
  repeat' (with_reducible first | assumption | dsimp only | exact sound_reset | intro sp | apply ElemCtx.mark_sound)

theorem ElemCtx.reduce_sound {s : State} (hc : s.sound) (x : ElemCtx) (p : BitVec 2) (ts : List (BitVec 9)) (kind : ℕ) (type : ℕ) (r : ℕ) : (ElemCtx.reduce x s p ts kind type r).sound := by
  unfold ElemCtx.reduce
  repeat' (with_reducible first | assumption | dsimp only | exact sound_reset | intro sp | refine foldl_fst_sound ?_ (fun a x hx => ?_) | refine getD_sound (fun t ht => ?_) ?_ | refine foldl_sound ?_ (fun s x hx => ?_) | apply State.core_legal | exact reset_legal | refine foldl_legal ?_ (fun p x hx => ?_) | (simp only [State.sound_mk]; apply State.sound.split))

theorem ElemCtx.join_sound {s : State} (hc : s.sound) (x : ElemCtx) (p : BitVec 2) (ts : List (BitVec 9)) : (ElemCtx.join x s p ts).sound := by
  unfold ElemCtx.join
  repeat' (with_reducible first | assumption | dsimp only | exact sound_reset | intro sp | apply ElemCtx.finish_sound)

theorem CoreCtx.askFlags_sound {s : State} (hc : s.sound) {x : CoreCtx} (hlx : x.pc.legal) (lsid : ℕ) (a : Act) (fl : Flags) : (CoreCtx.askFlags x s lsid a fl).sound := by
  unfold CoreCtx.askFlags
  repeat' (with_reducible first | assumption | dsimp only | exact sound_reset | intro sp | apply CoreCtx.put_sound)

theorem CoreCtx.storeElem_sound {s : State} (hc : s.sound) {x : CoreCtx} (hlx : x.pc.legal) (lsid : ℕ) (y : ℕ) (m : ℕ) (release : Option ℕ) : (CoreCtx.storeElem x s lsid y m release).sound := by
  unfold CoreCtx.storeElem
  repeat' (with_reducible first | assumption | dsimp only | exact sound_reset | intro sp | apply CoreCtx.checked_sound | apply CoreCtx.fail_sound | apply CoreCtx.askFlags_sound | refine foldl_fst_sound ?_ (fun a x hx => ?_) | refine getD_sound (fun t ht => ?_) ?_ | refine foldl_sound ?_ (fun s x hx => ?_) | apply State.core_legal | exact reset_legal | refine foldl_legal ?_ (fun p x hx => ?_) | (intro p hp) | split)

theorem CoreCtx.checkpoint_sound {s : State} (hc : s.sound) {x : CoreCtx} (hlx : x.pc.legal) (lsid : ℕ) (yield : Bool) : (CoreCtx.checkpoint x s lsid yield).sound := by
  unfold CoreCtx.checkpoint
  repeat' (with_reducible first | assumption | dsimp only | exact sound_reset | intro sp | apply CoreCtx.illegal_sound | apply CoreCtx.checked_sound | apply CoreCtx.ask_sound | refine foldl_fst_sound ?_ (fun a x hx => ?_) | refine getD_sound (fun t ht => ?_) ?_ | refine foldl_sound ?_ (fun s x hx => ?_) | apply State.core_legal | exact reset_legal | refine foldl_legal ?_ (fun p x hx => ?_) | (intro p hp) | split)

theorem State.stallOver_sound {s : State} (hc : s.sound) (die : ℕ) (link : ℕ) : (State.stallOver s die link).sound := by
  unfold State.stallOver
  repeat' (with_reducible first | assumption | dsimp only | exact sound_reset | intro sp | apply State.send_sound | apply State.updDie_sound | apply State.loadArrives_sound | refine foldl_fst_sound ?_ (fun a x hx => ?_) | refine getD_sound (fun t ht => ?_) ?_ | refine foldl_sound ?_ (fun s x hx => ?_) | apply State.core_legal | exact reset_legal | refine foldl_legal ?_ (fun p x hx => ?_) | (intro p hp) | split)

theorem State.train_sound {s : State} (hc : s.sound) (port : ℕ) (node : ℕ) (lmin : ℕ) (lmax : ℕ) (hmin : ℕ) (hmax : ℕ) : (State.train s port node lmin lmax hmin hmax).sound := by
  unfold State.train
  repeat' (with_reducible first | assumption | dsimp only | exact sound_reset | intro sp | apply State.send_sound | apply State.updPort_sound | refine foldl_fst_sound ?_ (fun a x hx => ?_) | refine getD_sound (fun t ht => ?_) ?_ | refine foldl_sound ?_ (fun s x hx => ?_) | apply State.core_legal | exact reset_legal | refine foldl_legal ?_ (fun p x hx => ?_) | (intro p hp) | split)

theorem State.sendNak_sound {s : State} (hc : s.sound) (port : ℕ) (dst : ℕ) : (State.sendNak s port dst).sound := by
  unfold State.sendNak
  repeat' (with_reducible first | assumption | dsimp only | exact sound_reset | intro sp | apply State.putFlit_sound)

theorem State.nakTaken_sound {s : State} (hc : s.sound) (port : ℕ) (seq : ℕ) : (State.nakTaken s port seq).sound := by
  unfold State.nakTaken
  repeat' (with_reducible first | assumption | dsimp only | exact sound_reset | intro sp | apply State.resend_sound | refine foldl_fst_sound ?_ (fun a x hx => ?_) | refine getD_sound (fun t ht => ?_) ?_ | refine foldl_sound ?_ (fun s x hx => ?_) | apply State.core_legal | exact reset_legal | refine foldl_legal ?_ (fun p x hx => ?_) | (intro p hp) | split)

theorem State.remoteCredits_sound {s : State} (hc : s.sound) (port : ℕ) : (State.remoteCredits s port).sound := by
  unfold State.remoteCredits
  repeat' (with_reducible first | assumption | dsimp only | exact sound_reset | intro sp | apply State.sendRemote_sound | apply State.useFree_sound | apply State.updChan_sound | refine foldl_fst_sound ?_ (fun a x hx => ?_) | refine getD_sound (fun t ht => ?_) ?_ | refine foldl_sound ?_ (fun s x hx => ?_))

theorem State.credits_sound {s : State} (hc : s.sound) (port : ℕ) : (State.credits s port).sound := by
  unfold State.credits
  repeat' (with_reducible first | assumption | dsimp only | exact sound_reset | intro sp | apply State.useFree_sound | apply State.updPort_sound | apply State.sendFlit_sound | refine foldl_fst_sound ?_ (fun a x hx => ?_) | refine getD_sound (fun t ht => ?_) ?_ | refine foldl_sound ?_ (fun s x hx => ?_))

theorem State.receive_sound {s : State} (hc : s.sound) (port : ℕ) (f : List Byte) : (State.receive s port f).sound := by
  unfold State.receive
  repeat' (with_reducible first | assumption | dsimp only | exact sound_reset | intro sp | apply State.sendNak_sound | apply State.updPort_sound | apply State.nakTaken_sound | apply State.deliverFlit_sound | apply State.remoteCredits_sound | apply State.credits_sound | refine foldl_fst_sound ?_ (fun a x hx => ?_) | refine getD_sound (fun t ht => ?_) ?_ | refine foldl_sound ?_ (fun s x hx => ?_) | apply State.core_legal | exact reset_legal | refine foldl_legal ?_ (fun p x hx => ?_) | (intro p hp) | split)

theorem State.roceAnswer_sound {s : State} (hc : s.sound) (k : RocePacket) (kind : ℕ) (bs : List Byte) : (State.roceAnswer s k kind bs).sound := by
  unfold State.roceAnswer
  repeat' (with_reducible first | assumption | dsimp only | exact sound_reset | intro sp | apply State.sendEth_sound)

theorem State.rocePerform_sound {s : State} (hc : s.sound) (k : RocePacket) : (State.rocePerform s k).sound := by
  unfold State.rocePerform
  repeat' (with_reducible first | assumption | dsimp only | exact sound_reset | intro sp | apply State.roceAnswer_sound | apply State.setQpair_sound | apply State.eccMeet_sound | refine State.outerStore_sound ?_ (by assumption) | refine foldl_fst_sound ?_ (fun a x hx => ?_) | refine getD_sound (fun t ht => ?_) ?_ | refine foldl_sound ?_ (fun s x hx => ?_) | apply State.core_legal | exact reset_legal | refine foldl_legal ?_ (fun p x hx => ?_) | (simp only [State.sound_mk]; apply State.sound.split) | (intro p hp) | split)

theorem State.roce_sound {s : State} (hc : s.sound) (k : RocePacket) : (State.roce s k).sound := by
  unfold State.roce
  repeat' (with_reducible first | assumption | dsimp only | exact sound_reset | intro sp | apply State.pause_sound | apply State.roceAnswer_sound | apply State.rocePerform_sound | refine foldl_fst_sound ?_ (fun a x hx => ?_) | refine getD_sound (fun t ht => ?_) ?_ | refine foldl_sound ?_ (fun s x hx => ?_) | apply State.core_legal | exact reset_legal | refine foldl_legal ?_ (fun p x hx => ?_) | (simp only [State.sound_mk]; apply State.sound.split) | (intro p hp) | split)

theorem State.launchReply_sound {s : State} (hc : s.sound) (m : HostMsg) (lid : ℕ) (status : ℕ) : (State.launchReply s m lid status).sound := by
  unfold State.launchReply
  repeat' (with_reducible first | assumption | dsimp only | exact sound_reset | intro sp | apply State.reply_sound)

theorem State.chooseHead_sound {s : State} (hc : s.sound) : (State.chooseHead s).sound := by
  unfold State.chooseHead
  repeat' (with_reducible first | assumption | dsimp only | exact sound_reset | intro sp | apply State.setPtr_sound | refine foldl_fst_sound ?_ (fun a x hx => ?_) | refine getD_sound (fun t ht => ?_) ?_ | refine foldl_sound ?_ (fun s x hx => ?_) | apply State.core_legal | exact reset_legal | refine foldl_legal ?_ (fun p x hx => ?_) | (simp only [State.sound_mk]; apply State.sound.split) | (intro p hp) | split)

theorem State.accept_sound {s : State} (hc : s.sound) (m : HostMsg) (l : Launch) : (State.accept s m l).sound := by
  unfold State.accept
  repeat' (with_reducible first | assumption | dsimp only | exact sound_reset | intro sp | apply State.openLog_sound | apply State.chooseHead_sound | apply State.launchReply_sound | refine foldl_fst_sound ?_ (fun a x hx => ?_) | refine getD_sound (fun t ht => ?_) ?_ | refine foldl_sound ?_ (fun s x hx => ?_) | apply State.core_legal | exact reset_legal | refine foldl_legal ?_ (fun p x hx => ?_) | (simp only [State.sound_mk]; apply State.sound.split))

theorem State.launchMsg_sound {s : State} (hc : s.sound) (m : HostMsg) : (State.launchMsg s m).sound := by
  unfold State.launchMsg
  repeat' (with_reducible first | assumption | dsimp only | exact sound_reset | intro sp | apply State.launchReply_sound | apply State.accept_sound | refine foldl_fst_sound ?_ (fun a x hx => ?_) | refine getD_sound (fun t ht => ?_) ?_ | refine foldl_sound ?_ (fun s x hx => ?_) | apply State.core_legal | exact reset_legal | refine foldl_legal ?_ (fun p x hx => ?_) | (intro p hp) | split)

theorem State.takeShards_sound {s : State} (hc : s.sound) (l : List (Shard × List Byte)) : (s.takeShards l).sound := by
  induction l generalizing s with
  | nil =>
    unfold State.takeShards
    repeat' (with_reducible first | assumption | dsimp only | exact sound_reset | intro sp | apply State.tell_sound | apply State.notReady_sound | apply State.stageBytes_sound | refine foldl_fst_sound ?_ (fun a x hx => ?_) | refine getD_sound (fun t ht => ?_) ?_ | refine foldl_sound ?_ (fun s x hx => ?_) | apply State.core_legal | exact reset_legal | refine foldl_legal ?_ (fun p x hx => ?_) | (simp only [State.sound_mk]; apply State.sound.split) | (intro p hp) | split)
  | cons e l ih =>
    obtain ⟨e, b⟩ := e
    unfold State.takeShards
    repeat' (with_reducible first | assumption | apply ih | dsimp only | exact sound_reset | intro sp | apply State.tell_sound | apply State.notReady_sound | apply State.stageBytes_sound | refine foldl_fst_sound ?_ (fun a x hx => ?_) | refine getD_sound (fun t ht => ?_) ?_ | refine foldl_sound ?_ (fun s x hx => ?_) | apply State.core_legal | exact reset_legal | refine foldl_legal ?_ (fun p x hx => ?_) | (simp only [State.sound_mk]; apply State.sound.split) | (intro p hp) | split)

theorem State.tryFlip_sound {s : State} (hc : s.sound) : (State.tryFlip s).sound := by
  unfold State.tryFlip
  repeat' (with_reducible first | assumption | dsimp only | exact sound_reset | intro sp | apply State.tell_sound | refine foldl_fst_sound ?_ (fun a x hx => ?_) | refine getD_sound (fun t ht => ?_) ?_ | refine foldl_sound ?_ (fun s x hx => ?_) | apply State.core_legal | exact reset_legal | refine foldl_legal ?_ (fun p x hx => ?_) | (simp only [State.sound_mk]; apply State.sound.split) | (intro p hp) | split)

theorem State.switchTo_sound {s : State} (hc : s.sound) (m : HostMsg) (n : ℕ) : (State.switchTo s m n).sound := by
  unfold State.switchTo
  repeat' (with_reducible first | assumption | dsimp only | exact sound_reset | intro sp | apply State.reply_sound | apply State.tryFlip_sound | refine foldl_fst_sound ?_ (fun a x hx => ?_) | refine getD_sound (fun t ht => ?_) ?_ | refine foldl_sound ?_ (fun s x hx => ?_) | apply State.core_legal | exact reset_legal | refine foldl_legal ?_ (fun p x hx => ?_) | (simp only [State.sound_mk]; apply State.sound.split) | (intro p hp) | split)

theorem State.dropStaging_sound {s : State} (hc : s.sound) : (State.dropStaging s).sound := by
  refine ⟨hc.1, hc.2.1, ?_, hc.2.2.2⟩
  have h : ∀ (l : List (Nat × Nat)) (m : Memory), Memory.wf m →
      Memory.wf (l.foldl (fun m (e : Nat × Nat) => Memory.write m e.1 (Config.freeByte (2 ^ 40 * s.fresh + e.2))) m) := by
    intro l
    induction l with
    | nil => exact fun _ h => h
    | cons e r ih => exact fun m h => ih _ (Memory.write_wf _ _ h)
  exact h _ _ hc.2.2.1

theorem State.abortLoad_sound {s : State} (hc : s.sound) (m : HostMsg) : (State.abortLoad s m).sound := by
  unfold State.abortLoad
  repeat' (with_reducible first | assumption | dsimp only | exact sound_reset | intro sp | apply State.reply_sound | apply State.dropStaging_sound | refine foldl_fst_sound ?_ (fun a x hx => ?_) | refine getD_sound (fun t ht => ?_) ?_ | refine foldl_sound ?_ (fun s x hx => ?_) | apply State.core_legal | exact reset_legal | refine foldl_legal ?_ (fun p x hx => ?_) | (simp only [State.sound_mk]; apply State.sound.split) | (intro p hp) | split)

theorem State.setBase_sound {s : State} (hc : s.sound) (m : HostMsg) : (State.setBase s m).sound := by
  unfold State.setBase
  repeat' (with_reducible first | assumption | dsimp only | exact sound_reset | intro sp | apply State.result_sound | refine foldl_fst_sound ?_ (fun a x hx => ?_) | refine getD_sound (fun t ht => ?_) ?_ | refine foldl_sound ?_ (fun s x hx => ?_) | apply State.core_legal | exact reset_legal | refine foldl_legal ?_ (fun p x hx => ?_) | (simp only [State.sound_mk]; apply State.sound.split) | (intro p hp) | split)

theorem State.answerHeld_sound {s : State} (hc : s.sound) (m : HostMsg) (held : Option (List Byte)) : (State.answerHeld s m held).sound := by
  unfold State.answerHeld
  repeat' (with_reducible first | assumption | dsimp only | exact sound_reset | intro sp | apply State.result_sound | apply State.answerInto_sound | apply State.reservedRead_sound | refine foldl_fst_sound ?_ (fun a x hx => ?_) | refine getD_sound (fun t ht => ?_) ?_ | refine foldl_sound ?_ (fun s x hx => ?_) | apply State.core_legal | exact reset_legal | refine foldl_legal ?_ (fun p x hx => ?_) | (intro p hp) | split)

theorem State.sampleRead_sound {s : State} (hc : s.sound) (m : HostMsg) : (State.sampleRead s m).sound := by
  unfold State.sampleRead
  repeat' (with_reducible first | assumption | dsimp only | exact sound_reset | intro sp | apply State.result_sound | apply State.answerInto_sound | apply State.reservedRead_sound | refine foldl_fst_sound ?_ (fun a x hx => ?_) | refine getD_sound (fun t ht => ?_) ?_ | refine foldl_sound ?_ (fun s x hx => ?_) | apply State.core_legal | exact reset_legal | refine foldl_legal ?_ (fun p x hx => ?_) | (simp only [State.sound_mk]; apply State.sound.split) | (intro p hp) | split)

theorem State.killMsg_sound {s : State} (hc : s.sound) (m : HostMsg) : (State.killMsg s m).sound := by
  unfold State.killMsg
  repeat' (with_reducible first | assumption | dsimp only | exact sound_reset | intro sp | apply State.result_sound | apply State.haltLaunch_sound | apply State.endWith_sound | refine foldl_fst_sound ?_ (fun a x hx => ?_) | refine getD_sound (fun t ht => ?_) ?_ | refine foldl_sound ?_ (fun s x hx => ?_) | apply State.core_legal | exact reset_legal | refine foldl_legal ?_ (fun p x hx => ?_) | (intro p hp) | split)

theorem State.errlog_sound {s : State} (hc : s.sound) (m : HostMsg) : (State.errlog s m).sound := by
  unfold State.errlog
  repeat' (with_reducible first | assumption | dsimp only | exact sound_reset | intro sp | apply State.result_sound | apply State.answerInto_sound | refine foldl_fst_sound ?_ (fun a x hx => ?_) | refine getD_sound (fun t ht => ?_) ?_ | refine foldl_sound ?_ (fun s x hx => ?_) | apply State.core_legal | exact reset_legal | refine foldl_legal ?_ (fun p x hx => ?_) | (intro p hp) | split)

theorem State.dumpPart_sound {s : State} (hc : s.sound) (m : HostMsg) : (State.dumpPart s m).sound := by
  unfold State.dumpPart
  repeat' (with_reducible first | assumption | dsimp only | exact sound_reset | intro sp | apply State.result_sound | apply State.answerInto_sound | refine foldl_fst_sound ?_ (fun a x hx => ?_) | refine getD_sound (fun t ht => ?_) ?_ | refine foldl_sound ?_ (fun s x hx => ?_) | apply State.core_legal | exact reset_legal | refine foldl_legal ?_ (fun p x hx => ?_) | (intro p hp) | split)

theorem State.startGroup_sound {s : State} (hc : s.sound) (lid : ℕ) : (State.startGroup s lid).sound := by
  unfold State.startGroup
  repeat' (with_reducible first | assumption | dsimp only | exact sound_reset | intro sp | apply State.mapLaunch_sound | apply State.closeGroup_sound | apply State.makeReady_sound | refine foldl_fst_sound ?_ (fun a x hx => ?_) | refine getD_sound (fun t ht => ?_) ?_ | refine foldl_sound ?_ (fun s x hx => ?_) | apply State.core_legal | exact reset_legal | refine foldl_legal ?_ (fun p x hx => ?_) | (intro p hp) | split)

theorem PageCore.start_legal {k : PageCore} (hc : k.legal) (m : Image) (lid : ℕ) : (PageCore.start k m lid).legal := by
  unfold PageCore.start
  repeat' (with_reducible first | assumption | dsimp only | exact sound_reset | intro sp | refine foldl_fst_sound ?_ (fun a x hx => ?_) | refine getD_sound (fun t ht => ?_) ?_ | refine foldl_sound ?_ (fun s x hx => ?_) | apply State.core_legal | exact reset_legal | refine foldl_legal ?_ (fun p x hx => ?_) | (simp only [PageCore.legal_mk, List.length_map, setAt_length]; apply PageCore.legal.split))

theorem State.startCores_sound {s : State} (hc : s.sound) (lid : ℕ) (pset : ℕ) : (State.startCores s lid pset).sound := by
  unfold State.startCores
  repeat' (with_reducible first | assumption | dsimp only | exact sound_reset | intro sp | apply State.mapPlace_sound | apply State.mapCore_sound | apply PageCore.start_legal | refine foldl_fst_sound ?_ (fun a x hx => ?_) | refine getD_sound (fun t ht => ?_) ?_ | refine foldl_sound ?_ (fun s x hx => ?_) | apply State.core_legal | exact reset_legal | refine foldl_legal ?_ (fun p x hx => ?_) | (intro p hp) | split)

theorem State.arm_sound {s : State} (hc : s.sound) (lid : ℕ) (group : ℕ) (node : ℕ) (tiles : ℕ) (g : GNode) (task : Bool) : (State.arm s lid group node tiles g task).sound := by
  unfold State.arm
  repeat' (with_reducible first | assumption | dsimp only | exact sound_reset | intro sp | apply State.updTrellis_sound | apply State.startCores_sound | refine foldl_fst_sound ?_ (fun a x hx => ?_) | refine getD_sound (fun t ht => ?_) ?_ | refine foldl_sound ?_ (fun s x hx => ?_) | apply State.core_legal | exact reset_legal | refine foldl_legal ?_ (fun p x hx => ?_) | (simp only [State.sound_mk]; apply State.sound.split) | (intro p hp) | split)

theorem State.serveReady_sound {s : State} (hc : s.sound) (d : ℕ) : (State.serveReady s d).sound := by
  unfold State.serveReady
  repeat' (with_reducible first | assumption | dsimp only | exact sound_reset | intro sp | apply State.setSeq_sound | apply State.arm_sound | apply State.nodeDone_sound | refine foldl_fst_sound ?_ (fun a x hx => ?_) | refine getD_sound (fun t ht => ?_) ?_ | refine foldl_sound ?_ (fun s x hx => ?_) | apply State.core_legal | exact reset_legal | refine foldl_legal ?_ (fun p x hx => ?_) | (intro p hp) | split)

theorem State.serveTask_sound {s : State} (hc : s.sound) (d : ℕ) : (State.serveTask s d).sound := by
  unfold State.serveTask
  repeat' (with_reducible first | assumption | dsimp only | exact sound_reset | intro sp | apply State.setSeq_sound | apply State.nodeFault_sound | apply State.mapCore_sound | apply PageCore.queueSrc_legal | apply State.arm_sound | refine foldl_fst_sound ?_ (fun a x hx => ?_) | refine getD_sound (fun t ht => ?_) ?_ | refine foldl_sound ?_ (fun s x hx => ?_) | apply State.core_legal | exact reset_legal | refine foldl_legal ?_ (fun p x hx => ?_) | (intro p hp) | split)

theorem State.takeEnable_sound {s : State} (hc : s.sound) (g : PageRef) (n : ℕ) (count : ℕ) : (State.takeEnable s g n count).sound := by
  unfold State.takeEnable
  repeat' (with_reducible first | assumption | dsimp only | exact sound_reset | intro sp | apply State.finishNode_sound | apply State.updTrellis_sound | apply State.startToken_sound | refine foldl_fst_sound ?_ (fun a x hx => ?_) | refine getD_sound (fun t ht => ?_) ?_ | refine foldl_sound ?_ (fun s x hx => ?_) | apply State.core_legal | exact reset_legal | refine foldl_legal ?_ (fun p x hx => ?_) | (intro p hp) | split)

theorem State.teardown_sound {s : State} (hc : s.sound) (lid : ℕ) : (s.teardown lid).sound :=
  ⟨fun e he => hc.1 e (List.mem_of_mem_filter he), fun x hx => hc.2.1 x (List.mem_of_mem_filter hx), hc.2.2⟩

theorem State.writeRecord_sound {s : State} (hc : s.sound) (l : Launch) (e : EndRec) : (State.writeRecord s l e).sound := by
  unfold State.writeRecord
  repeat' (with_reducible first | assumption | dsimp only | exact sound_reset | intro sp | apply State.tell_sound | refine State.outerStore_sound ?_ (by assumption) | apply State.eccMeet_sound | refine foldl_fst_sound ?_ (fun a x hx => ?_) | refine getD_sound (fun t ht => ?_) ?_ | refine foldl_sound ?_ (fun s x hx => ?_) | apply State.core_legal | exact reset_legal | refine foldl_legal ?_ (fun p x hx => ?_) | (intro p hp) | split)

theorem State.failDependents_sound {s : State} (hc : s.sound) (lid : ℕ) (order : ℕ) : (State.failDependents s lid order).sound := by
  unfold State.failDependents
  repeat' (with_reducible first | assumption | dsimp only | exact sound_reset | intro sp | refine foldl_fst_sound ?_ (fun a x hx => ?_) | refine getD_sound (fun t ht => ?_) ?_ | refine foldl_sound ?_ (fun s x hx => ?_) | apply State.core_legal | exact reset_legal | refine foldl_legal ?_ (fun p x hx => ?_) | (simp only [State.sound_mk]; apply State.sound.split))

theorem State.complete_sound {s : State} (hc : s.sound) (lid : ℕ) : (State.complete s lid).sound := by
  unfold State.complete
  repeat' (with_reducible first | assumption | dsimp only | exact sound_reset | intro sp | apply State.noteDone_sound | apply State.teardown_sound | apply State.writeRecord_sound | apply State.tryFlip_sound | apply State.failDependents_sound | refine foldl_fst_sound ?_ (fun a x hx => ?_) | refine getD_sound (fun t ht => ?_) ?_ | refine foldl_sound ?_ (fun s x hx => ?_) | apply State.core_legal | exact reset_legal | refine foldl_legal ?_ (fun p x hx => ?_) | (intro p hp) | split)

theorem State.regionSwitched_sound {s : State} (hc : s.sound) (lid : ℕ) (pset : ℕ) (ctx : ℕ) : (State.regionSwitched s lid pset ctx).sound := by
  unfold State.regionSwitched
  repeat' (with_reducible first | assumption | dsimp only | exact sound_reset | intro sp | refine foldl_fst_sound ?_ (fun a x hx => ?_) | refine getD_sound (fun t ht => ?_) ?_ | refine foldl_sound ?_ (fun s x hx => ?_) | apply State.core_legal | exact reset_legal | refine foldl_legal ?_ (fun p x hx => ?_) | (simp only [State.sound_mk]; apply State.sound.split) | (intro p hp) | split)

theorem State.trySwitch_sound {s : State} (hc : s.sound) (q : Plot) (target : ℕ) : (State.trySwitch s q target).sound := by
  unfold State.trySwitch
  repeat' (with_reducible first | assumption | dsimp only | exact sound_reset | intro sp | apply State.regionSwitched_sound | refine foldl_fst_sound ?_ (fun a x hx => ?_) | refine getD_sound (fun t ht => ?_) ?_ | refine foldl_sound ?_ (fun s x hx => ?_) | apply State.core_legal | exact reset_legal | refine foldl_legal ?_ (fun p x hx => ?_) | (simp only [State.sound_mk]; apply State.sound.split) | (intro p hp) | split)

theorem State.condElem_sound {s : State} (hc : s.sound) (i : ℕ) (h : Chan) (e : Elem) (port : ℕ) (b : Beat) : (State.condElem s i h e port b).sound := by
  unfold State.condElem
  repeat' (with_reducible first | assumption | dsimp only | exact sound_reset | intro sp | apply State.take_sound | apply State.updElem_sound | apply State.pushAll_sound | apply State.trySwitch_sound | refine foldl_fst_sound ?_ (fun a x hx => ?_) | refine getD_sound (fun t ht => ?_) ?_ | refine foldl_sound ?_ (fun s x hx => ?_) | apply State.core_legal | exact reset_legal | refine foldl_legal ?_ (fun p x hx => ?_) | (intro p hp) | split)

theorem State.nodeEmit_sound {s : State} (hc : s.sound) (r : NodeRef) (fuel : Nat) : (State.nodeEmit s r fuel).sound := by
  induction fuel generalizing s with
  | zero => exact hc
  | succ fuel ih =>
    unfold State.nodeEmit
    repeat' (with_reducible first | assumption | apply ih | dsimp only | exact sound_reset | intro sp | apply State.updNode_sound | apply State.push_sound | refine foldl_fst_sound ?_ (fun a x hx => ?_) | refine getD_sound (fun t ht => ?_) ?_ | refine foldl_sound ?_ (fun s x hx => ?_) | apply State.core_legal | exact reset_legal | refine foldl_legal ?_ (fun p x hx => ?_) | (intro p hp) | split)

theorem State.condNode_sound {s : State} (hc : s.sound) (n : MemNode) (b : Beat) : (State.condNode s n b).sound := by
  unfold State.condNode
  repeat' (with_reducible first | assumption | dsimp only | exact sound_reset | intro sp | apply State.take_sound | apply State.nodeEmit_sound | apply State.updNode_sound | refine foldl_fst_sound ?_ (fun a x hx => ?_) | refine getD_sound (fun t ht => ?_) ?_ | refine foldl_sound ?_ (fun s x hx => ?_) | apply State.core_legal | exact reset_legal | refine foldl_legal ?_ (fun p x hx => ?_) | (intro p hp) | split)

theorem State.condArrive_sound {s : State} (hc : s.sound) (i : ℕ) : (State.condArrive s i).sound := by
  unfold State.condArrive
  repeat' (with_reducible first | assumption | dsimp only | exact sound_reset | intro sp | apply State.chanFault_sound | apply State.condElem_sound | apply State.take_sound | apply State.condNode_sound | apply State.pushAll_sound | apply State.mapCore_sound | apply State.refillSink_sound | refine foldl_fst_sound ?_ (fun a x hx => ?_) | refine getD_sound (fun t ht => ?_) ?_ | refine foldl_sound ?_ (fun s x hx => ?_) | apply State.core_legal | exact reset_legal | refine foldl_legal ?_ (fun p x hx => ?_) | (simp only [PageCore.legal_mk, List.length_map, setAt_length]; apply PageCore.legal.split) | (intro p hp) | split)

theorem State.noteDrain_sound {s : State} (hc : s.sound) (i : ℕ) (serial : ℕ) : (State.noteDrain s i serial).sound := by
  unfold State.noteDrain
  repeat' (with_reducible first | assumption | dsimp only | exact sound_reset | intro sp | apply State.updChan_sound)

theorem State.drainElem_sound {s : State} (hc : s.sound) (i : ℕ) (h : Chan) (e : Elem) (b : Beat) : (State.drainElem s i h e b).sound := by
  unfold State.drainElem
  repeat' (with_reducible first | assumption | dsimp only | exact sound_reset | intro sp | apply State.take_sound | apply State.noteDrain_sound | apply State.pushAll_sound | apply State.clearDrain_sound | apply State.reportDrain_sound | refine foldl_fst_sound ?_ (fun a x hx => ?_) | refine getD_sound (fun t ht => ?_) ?_ | refine foldl_sound ?_ (fun s x hx => ?_) | apply State.core_legal | exact reset_legal | refine foldl_legal ?_ (fun p x hx => ?_) | (intro p hp) | split)

theorem State.drainNode_sound {s : State} (hc : s.sound) (n : MemNode) (b : Beat) : (State.drainNode s n b).sound := by
  unfold State.drainNode
  repeat' (with_reducible first | assumption | dsimp only | exact sound_reset | intro sp | apply State.updNode_sound | apply State.reportDrain_sound | apply State.nodeEmit_sound | refine foldl_fst_sound ?_ (fun a x hx => ?_) | refine getD_sound (fun t ht => ?_) ?_ | refine foldl_sound ?_ (fun s x hx => ?_) | apply State.core_legal | exact reset_legal | refine foldl_legal ?_ (fun p x hx => ?_) | (intro p hp) | split)

theorem State.drainArrive_sound {s : State} (hc : s.sound) (i : ℕ) : (State.drainArrive s i).sound := by
  unfold State.drainArrive
  repeat' (with_reducible first | assumption | dsimp only | exact sound_reset | intro sp | apply State.drainElem_sound | apply State.take_sound | apply State.drainNode_sound | apply State.clearDrain_sound | apply State.noteDrain_sound | apply State.fgSend_sound | apply State.refillSink_sound | apply State.reportDrain_sound | refine foldl_fst_sound ?_ (fun a x hx => ?_) | refine getD_sound (fun t ht => ?_) ?_ | refine foldl_sound ?_ (fun s x hx => ?_) | apply State.core_legal | exact reset_legal | refine foldl_legal ?_ (fun p x hx => ?_) | (intro p hp) | split)

theorem State.takeReport_sound {s : State} (hc : s.sound) (d : ℕ) (serial : ℕ) : (State.takeReport s d serial).sound := by
  unfold State.takeReport
  repeat' (with_reducible first | assumption | dsimp only | exact sound_reset | intro sp | apply State.setSprout_sound | apply State.tellPipe_sound | refine foldl_fst_sound ?_ (fun a x hx => ?_) | refine getD_sound (fun t ht => ?_) ?_ | refine foldl_sound ?_ (fun s x hx => ?_) | apply State.core_legal | exact reset_legal | refine foldl_legal ?_ (fun p x hx => ?_) | (intro p hp) | split)

theorem State.fgClose_sound {s : State} (hc : s.sound) {g : Forager} {res : State} (heq : State.fgClose s g = some res) : res.sound := by
  unfold State.fgClose at heq
  repeat' (with_reducible first | dsimp only at heq | split at heq)
  all_goals (first | (cases heq; done) | (obtain ⟨_, _, rfl⟩ := Option.map_eq_some_iff.mp heq) | (cases heq))
  all_goals repeat' (with_reducible first | assumption | dsimp only | exact sound_reset | intro sp | apply State.fgSend_sound | apply State.updFg_sound)

theorem State.fgRing_sound {s : State} (hc : s.sound) {g : Forager} {res : State} (heq : State.fgRing s g = some res) : res.sound := by
  unfold State.fgRing at heq
  repeat' (with_reducible first | dsimp only at heq | split at heq)
  all_goals (first | (cases heq; done) | (obtain ⟨_, _, rfl⟩ := Option.map_eq_some_iff.mp heq) | (cases heq))
  all_goals repeat' (with_reducible first | assumption | dsimp only | exact sound_reset | intro sp | apply State.fgFault_sound | apply State.take_sound | apply State.updFg_sound | apply State.fgSend_sound | refine State.fgRoute_sound ?_ (by assumption))

theorem State.fgDecide_sound {s : State} (hc : s.sound) (p : PageRef) (ctx : ℕ) : (State.fgDecide s p ctx).sound := by
  unfold State.fgDecide
  split
  · exact hc
  · split
    · exact hc
    · refine getD_sound (fun t ht => ?_) hc
      obtain h | ⟨-, h⟩ := Option.or_eq_some_iff.mp ht
      · obtain h | ⟨-, h⟩ := Option.or_eq_some_iff.mp h
        · exact State.fgClose_sound hc h
        · exact State.fgRing_sound hc h
      · exact State.fgEntry_sound hc h

theorem State.nodeInputs_sound {s : State} (hc : s.sound) (r : NodeRef) (fuel : Nat) : (State.nodeInputs s r fuel).sound := by
  induction fuel generalizing s with
  | zero => exact hc
  | succ fuel ih =>
    unfold State.nodeInputs
    repeat' (with_reducible first | assumption | apply ih | dsimp only | exact sound_reset | intro sp | apply State.nodeTake_sound | refine foldl_fst_sound ?_ (fun a x hx => ?_) | refine getD_sound (fun t ht => ?_) ?_ | refine foldl_sound ?_ (fun s x hx => ?_) | apply State.core_legal | exact reset_legal | refine foldl_legal ?_ (fun p x hx => ?_) | (intro p hp) | split)

theorem State.nodeTable_sound {s : State} (hc : s.sound) (n : MemNode) : (State.nodeTable s n).sound := by
  unfold State.nodeTable
  repeat' (with_reducible first | assumption | dsimp only | exact sound_reset | intro sp | apply State.freezeNode_sound | apply State.updNode_sound | apply State.virtMeet_sound | apply State.useFree_sound | refine foldl_fst_sound ?_ (fun a x hx => ?_) | refine getD_sound (fun t ht => ?_) ?_ | refine foldl_sound ?_ (fun s x hx => ?_) | apply State.core_legal | exact reset_legal | refine foldl_legal ?_ (fun p x hx => ?_) | (intro p hp) | split)

theorem State.nodeSource_sound {s : State} (hc : s.sound) (n : MemNode) : (State.nodeSource s n).sound := by
  unfold State.nodeSource
  repeat' (with_reducible first | assumption | dsimp only | exact sound_reset | intro sp | apply State.freezeNode_sound | apply State.updNode_sound | refine foldl_fst_sound ?_ (fun a x hx => ?_) | refine getD_sound (fun t ht => ?_) ?_ | refine foldl_sound ?_ (fun s x hx => ?_) | apply State.core_legal | exact reset_legal | refine foldl_legal ?_ (fun p x hx => ?_) | (intro p hp) | split)

theorem State.nodeRead_sound {s : State} (hc : s.sound) (n : MemNode) (o : NodeOp) (sp : Span) : (State.nodeRead s n o sp).sound := by
  unfold State.nodeRead
  repeat' (with_reducible first | assumption | dsimp only | exact sound_reset | intro sp | apply State.updOp_sound | apply State.freezeNode_sound | apply State.eccMeet_sound | apply State.askSpan_sound | apply State.useFree_sound | refine foldl_fst_sound ?_ (fun a x hx => ?_) | refine getD_sound (fun t ht => ?_) ?_ | refine foldl_sound ?_ (fun s x hx => ?_) | apply State.core_legal | exact reset_legal | refine foldl_legal ?_ (fun p x hx => ?_) | (simp only [State.sound_mk]; apply State.sound.split) | (intro p hp) | split)

theorem State.nodeStore_sound {s : State} (hc : s.sound) (n : MemNode) (o : NodeOp) (sp : Span) (bs : List Byte) (all : List ℕ) (done : NodeOp → NodeOp) : (State.nodeStore s n o sp bs all done).sound := by
  unfold State.nodeStore
  repeat' (with_reducible first | assumption | dsimp only | exact sound_reset | intro sp | apply State.eccMeet_sound | apply State.freezeNode_sound | refine State.writeSpan_sound ?_ (by assumption) | apply State.writeSpan_sound_fst | apply State.updOp_sound | refine foldl_fst_sound ?_ (fun a x hx => ?_) | refine getD_sound (fun t ht => ?_) ?_ | refine foldl_sound ?_ (fun s x hx => ?_) | apply State.core_legal | exact reset_legal | refine foldl_legal ?_ (fun p x hx => ?_) | (intro p hp) | split)

theorem State.nodeWord_sound {s : State} (hc : s.sound) (r : NodeRef) (elem : ℕ) (sp : Span) (w : ℕ) : (State.nodeWord s r elem sp w).sound := by
  unfold State.nodeWord
  repeat' (with_reducible first | assumption | dsimp only | exact sound_reset | intro sp | apply State.nodeStore_sound | refine foldl_fst_sound ?_ (fun a x hx => ?_) | refine getD_sound (fun t ht => ?_) ?_ | refine foldl_sound ?_ (fun s x hx => ?_) | apply State.core_legal | exact reset_legal | refine foldl_legal ?_ (fun p x hx => ?_) | (intro p hp) | split)

theorem State.nodeWrite_sound {s : State} (hc : s.sound) (n : MemNode) (o : NodeOp) (sp : Span) : (State.nodeWrite s n o sp).sound := by
  unfold State.nodeWrite
  repeat' (with_reducible first | assumption | dsimp only | exact sound_reset | intro sp | apply State.nodeStore_sound | apply State.nodeWord_sound | refine foldl_fst_sound ?_ (fun a x hx => ?_) | refine getD_sound (fun t ht => ?_) ?_ | refine foldl_sound ?_ (fun s x hx => ?_) | apply State.core_legal | exact reset_legal | refine foldl_legal ?_ (fun p x hx => ?_) | (intro p hp) | split)

theorem State.performOp_sound {s : State} (hc : s.sound) (n : MemNode) (o : NodeOp) : (State.performOp s n o).sound := by
  unfold State.performOp
  repeat' (with_reducible first | assumption | dsimp only | exact sound_reset | intro sp | apply State.freezeNode_sound | apply State.nodeUpdate_sound | apply State.nodeRead_sound | apply State.nodeWrite_sound | refine foldl_fst_sound ?_ (fun a x hx => ?_) | refine getD_sound (fun t ht => ?_) ?_ | refine foldl_sound ?_ (fun s x hx => ?_) | apply State.core_legal | exact reset_legal | refine foldl_legal ?_ (fun p x hx => ?_) | (intro p hp) | split)

theorem State.readAhead_sound {s : State} (hc : s.sound) (n : MemNode) (e : ℕ) : (State.readAhead s n e).sound := by
  unfold State.readAhead
  repeat' (with_reducible first | assumption | dsimp only | exact sound_reset | intro sp | apply State.eccMeet_sound | apply State.updNode_sound | apply State.askSpan_sound | refine foldl_fst_sound ?_ (fun a x hx => ?_) | refine getD_sound (fun t ht => ?_) ?_ | refine foldl_sound ?_ (fun s x hx => ?_) | apply State.core_legal | exact reset_legal | refine foldl_legal ?_ (fun p x hx => ?_) | (intro p hp) | split)

theorem State.nodeStep_sound {s : State} (hc : s.sound) (r : NodeRef) (e : ℕ) : (State.nodeStep s r e).sound := by
  unfold State.nodeStep
  repeat' (with_reducible first | assumption | dsimp only | exact sound_reset | intro sp | apply State.nodeInputs_sound | apply State.nodeTable_sound | apply State.nodeSource_sound | apply State.performOp_sound | apply State.readAhead_sound | apply State.tryStopNode_sound | apply State.nodeEmit_sound | refine foldl_fst_sound ?_ (fun a x hx => ?_) | refine getD_sound (fun t ht => ?_) ?_ | refine foldl_sound ?_ (fun s x hx => ?_) | apply State.core_legal | exact reset_legal | refine foldl_legal ?_ (fun p x hx => ?_) | (intro p hp) | split)

theorem tlbFill_sound {s : State} (hc : s.sound) (o : TlbOwner) (asid : ℕ) (va : ℕ) : (tlbFill s o asid va).sound := by
  unfold tlbFill
  repeat' (with_reducible first | assumption | dsimp only | exact sound_reset | intro sp | apply State.useFree_sound | refine foldl_fst_sound ?_ (fun a x hx => ?_) | refine getD_sound (fun t ht => ?_) ?_ | refine foldl_sound ?_ (fun s x hx => ?_) | apply State.core_legal | exact reset_legal | refine foldl_legal ?_ (fun p x hx => ?_) | (simp only [State.sound_mk]; apply State.sound.split) | (intro p hp) | split)

theorem State.engListMeet_sound {s : State} (hc : s.sound) (r : EngReq) : (State.engListMeet s r).sound := by
  unfold State.engListMeet
  repeat' (with_reducible first | assumption | dsimp only | exact sound_reset | intro sp | apply State.virtMeet_sound | refine foldl_fst_sound ?_ (fun a x hx => ?_) | refine getD_sound (fun t ht => ?_) ?_ | refine foldl_sound ?_ (fun s x hx => ?_) | apply State.core_legal | exact reset_legal | refine foldl_legal ?_ (fun p x hx => ?_) | (intro p hp) | split)

theorem copyPieces_sound_fst (w : Writer) (gen : Nat) (src dst : Span) (dead : Bool) (l : List (Nat × Nat)) {s : State} (hc : s.sound) :
    (copyPieces w gen src dst dead l s).1.sound := by
  induction l generalizing s with
  | nil => exact hc
  | cons e l ih =>
    obtain ⟨o, n⟩ := e
    simp only [copyPieces]
    repeat' split
    all_goals first | exact State.writeSpan_sound_fst hc _ _ _ _ | exact ih (State.writeSpan_sound_fst hc _ _ _ _)

theorem copyPieces_sound {w : Writer} {gen : Nat} {src dst : Span} {dead : Bool} {l : List (Nat × Nat)} {s : State} (hc : s.sound)
    {res : State} {oth} (heq : copyPieces w gen src dst dead l s = (res, oth)) : res.sound := by
  have h := copyPieces_sound_fst w gen src dst dead l hc
  rwa [heq] at h

theorem State.engMove_sound {s : State} (hc : s.sound) (r : EngReq) (m : Move) :
    (∀ t, s.engMove r m = .done t → t.sound) ∧ ∀ t k, s.engMove r m = .stop t k → t.sound := by
  unfold State.engMove
  have hp : ∀ t : State, t.sound → ∀ src dst dead l, (copyPieces (engWriter r) ((m.g.map (fun g => g.1)).getD r.gen) src dst dead l t).1.sound :=
    fun t ht src dst dead l => copyPieces_sound_fst _ _ src dst dead l ht
  have he : ∀ t : State, t.sound → ∀ pas, (t.eccMeet pas).sound := fun t ht pas => State.eccMeet_sound ht pas
  have ha : ∀ t : State, t.sound → ∀ sp, (t.askSpan sp).sound := fun t ht sp => State.askSpan_sound ht sp
  constructor
  · intro t; dsimp only; repeat' split
    all_goals (intro h; first | (cases h; done) | cases h)
    all_goals first | exact hc | exact he _ (he _ hc _) _ | exact hp _ (he _ hc _) _ _ _ _ | exact hp _ (he _ (ha _ (he _ hc _) _) _) _ _ _ _
  · intro t k; dsimp only; repeat' split
    all_goals (intro h; first | (cases h; done) | cases h)
    all_goals first | exact hc | exact he _ (he _ hc _) _ | exact hp _ (he _ hc _) _ _ _ _ | exact hp _ (he _ (ha _ (he _ hc _) _) _) _ _ _ _

theorem State.engRun_sound {s : State} (hc : s.sound) (core : CoreRef) (seq : Nat) (fuel : Nat) : (State.engRun s core seq fuel).sound := by
  induction fuel generalizing s with
  | zero => exact hc
  | succ fuel ih =>
    unfold State.engRun
    repeat' (with_reducible first | assumption | refine (State.engMove_sound ?_ _ _).1 _ (by assumption) | refine (State.engMove_sound ?_ _ _).2 _ _ (by assumption) | apply ih | dsimp only | exact sound_reset | intro sp | apply State.engListMeet_sound | apply State.updEng_sound | refine copyPieces_sound ?_ (by assumption) | apply copyPieces_sound_fst | apply State.eccMeet_sound | refine foldl_fst_sound ?_ (fun a x hx => ?_) | refine getD_sound (fun t ht => ?_) ?_ | refine foldl_sound ?_ (fun s x hx => ?_) | apply State.core_legal | exact reset_legal | refine foldl_legal ?_ (fun p x hx => ?_) | (intro p hp) | split)

theorem State.engServe_sound {s : State} (hc : s.sound) (die : ℕ) (engine : ℕ) (core : CoreRef) (latency : ℕ) : (State.engServe s die engine core latency).sound := by
  unfold State.engServe
  repeat' (with_reducible first | assumption | dsimp only | exact sound_reset | intro sp | apply State.engRun_sound | apply State.engAnswer_sound | refine foldl_fst_sound ?_ (fun a x hx => ?_) | refine getD_sound (fun t ht => ?_) ?_ | refine foldl_sound ?_ (fun s x hx => ?_) | apply State.core_legal | exact reset_legal | refine foldl_legal ?_ (fun p x hx => ?_) | (intro p hp) | split)

theorem State.collWrite_sound {s : State} (hc : s.sound) (r : EngReq) (d : CollDesc) (bs : List Byte) : (State.collWrite s r d bs).sound := by
  unfold State.collWrite
  repeat' (with_reducible first | assumption | dsimp only | exact sound_reset | intro sp | apply State.updEng_sound | apply State.eccMeet_sound | refine State.writeSpan_sound ?_ (by assumption) | apply State.writeSpan_sound_fst | refine foldl_fst_sound ?_ (fun a x hx => ?_) | refine getD_sound (fun t ht => ?_) ?_ | refine foldl_sound ?_ (fun s x hx => ?_) | apply State.core_legal | exact reset_legal | refine foldl_legal ?_ (fun p x hx => ?_) | (intro p hp) | split)

theorem State.collMeet_sound {s : State} (hc : s.sound) (g : List (EngReq × CollDesc)) : (State.collMeet s g).sound := by
  unfold State.collMeet
  repeat' (with_reducible first | assumption | dsimp only | exact sound_reset | intro sp | apply State.virtMeet_sound | refine foldl_fst_sound ?_ (fun a x hx => ?_) | refine getD_sound (fun t ht => ?_) ?_ | refine foldl_sound ?_ (fun s x hx => ?_))

theorem State.collRun_sound {s : State} (hc : s.sound) (replay : Bool) (g : List (EngReq × CollDesc)) : (State.collRun s replay g).sound := by
  unfold State.collRun
  repeat' (with_reducible first | assumption | dsimp only | exact sound_reset | intro sp | apply State.updEng_sound | apply State.collWrite_sound | apply State.collMeet_sound | refine foldl_fst_sound ?_ (fun a x hx => ?_) | refine getD_sound (fun t ht => ?_) ?_ | refine foldl_sound ?_ (fun s x hx => ?_) | apply State.core_legal | exact reset_legal | refine foldl_legal ?_ (fun p x hx => ?_) | (simp only [PageCore.legal_mk, List.length_map, setAt_length]; apply PageCore.legal.split) | (simp only [State.sound_mk]; apply State.sound.split) | (intro p hp) | split)

theorem State.collServe_sound {s : State} (hc : s.sound) (die : ℕ) (core : CoreRef) : (State.collServe s die core).sound := by
  unfold State.collServe
  repeat' (with_reducible first | assumption | dsimp only | exact sound_reset | intro sp | apply State.updEng_sound | apply State.engListMeet_sound | apply State.collRun_sound | refine foldl_fst_sound ?_ (fun a x hx => ?_) | refine getD_sound (fun t ht => ?_) ?_ | refine foldl_sound ?_ (fun s x hx => ?_) | apply State.core_legal | exact reset_legal | refine foldl_legal ?_ (fun p x hx => ?_) | (intro p hp) | split)

theorem State.takeDorm_sound {s : State} (hc : s.sound) (i : ℕ) (k : ℕ) : (State.takeDorm s i k).sound := by
  unfold State.takeDorm
  repeat' (with_reducible first | assumption | dsimp only | exact sound_reset | intro sp | apply State.takeAt_sound | apply State.updChan_sound)

theorem State.dormArrive_sound {s : State} (hc : s.sound) (i : ℕ) : (State.dormArrive s i).sound := by
  unfold State.dormArrive
  repeat' (with_reducible first | assumption | dsimp only | exact sound_reset | intro sp | apply State.takeDorm_sound | apply State.updElem_sound | apply State.forwardDorm_sound | apply State.updNode_sound | apply State.stopNode_sound | apply State.updForager_sound | refine foldl_fst_sound ?_ (fun a x hx => ?_) | refine getD_sound (fun t ht => ?_) ?_ | refine foldl_sound ?_ (fun s x hx => ?_) | apply State.core_legal | exact reset_legal | refine foldl_legal ?_ (fun p x hx => ?_) | (intro p hp) | split)

theorem State.reseatSeqs_sound {s : State} (hc : s.sound) (lid : ℕ) : (State.reseatSeqs s lid).sound := by
  unfold State.reseatSeqs
  repeat' (with_reducible first | assumption | dsimp only | exact sound_reset | intro sp | apply State.mapLaunch_sound | apply State.makeReady_sound | apply State.setSeq_sound | refine foldl_fst_sound ?_ (fun a x hx => ?_) | refine getD_sound (fun t ht => ?_) ?_ | refine foldl_sound ?_ (fun s x hx => ?_) | apply State.core_legal | exact reset_legal | refine foldl_legal ?_ (fun p x hx => ?_) | (intro p hp) | split)

theorem State.resumeDormant_sound {s : State} (hc : s.sound) (lid : ℕ) : (s.resumeDormant lid).sound := by
  have hr : ∀ (ds : List Dormant) (t : State), t.sound → (∀ d ∈ ds, ∀ e ∈ d.cores, e.2.legal) →
      (ds.foldl (fun s d => s.reopen d) t).sound := by
    intro ds
    induction ds with
    | nil => exact fun _ ht _ => ht
    | cons d r ih =>
      exact fun t ht hd => ih _ (State.reopen_sound ht (hd d List.mem_cons_self)) (fun x hx => hd x (List.mem_cons_of_mem _ hx))
  unfold State.resumeDormant
  split
  · exact hc
  · dsimp only
    split
    · exact hc
    · have hu : ∀ b : Bool, (if b = true then s.reservedRead else s).sound := fun b => by
        cases b
        · exact hc
        · exact State.reservedRead_sound hc
      have hd := fun d (h : d ∈ s.dormants.filter (fun d => d.lid == lid)) => hc.2.1 d (List.mem_of_mem_filter h)
      have h := hu ((s.dormants.filter (fun d => d.lid == lid)).any (fun d => d.area.isEmpty))
      revert h
      generalize (if (s.dormants.filter (fun d => d.lid == lid)).any (fun d => d.area.isEmpty) = true then s.reservedRead else s) = u
      intro h
      repeat' split
      · exact h
      · exact State.unplace_sound (State.failLoad_sound h _ _) _
      · exact State.unplace_sound (State.failLoad_sound (State.useFree_sound h _) _ _) _
      · exact State.begins_sound (State.reseatSeqs_sound (hr _ _ (State.useFree_sound h _) hd) _) _

theorem State.writeDbp_sound {s : State} (hc : s.sound) (n : ℕ) (v : BitVec 128) : (State.writeDbp s n v).sound := by
  unfold State.writeDbp
  repeat' (with_reducible first | assumption | dsimp only | exact sound_reset | intro sp | refine foldl_fst_sound ?_ (fun a x hx => ?_) | refine getD_sound (fun t ht => ?_) ?_ | refine foldl_sound ?_ (fun s x hx => ?_) | apply State.core_legal | exact reset_legal | refine foldl_legal ?_ (fun p x hx => ?_) | (simp only [State.sound_mk]; apply State.sound.split) | (intro p hp) | split)

theorem State.inject_sound {s : State} (hc : s.sound) (c : CoreRef) (n : ℕ) : (State.inject s c n).sound := by
  unfold State.inject
  repeat' (with_reducible first | assumption | dsimp only | exact sound_reset | intro sp | apply State.setBucket_sound | apply State.mapCore_sound | apply State.updChan_sound | apply State.push_sound | refine foldl_fst_sound ?_ (fun a x hx => ?_) | refine getD_sound (fun t ht => ?_) ?_ | refine foldl_sound ?_ (fun s x hx => ?_) | apply State.core_legal | exact reset_legal | refine foldl_legal ?_ (fun p x hx => ?_) | (simp only [PageCore.legal_mk, List.length_map, setAt_length]; apply PageCore.legal.split) | (intro p hp) | split)

theorem State.issuePending_sound {s : State} (hc : s.sound) (d : Nat) (fuel : Nat) : (State.issuePending s d fuel).sound := by
  induction fuel generalizing s with
  | zero => exact hc
  | succ fuel ih =>
    unfold State.issuePending
    repeat' (with_reducible first | assumption | apply ih | dsimp only | exact sound_reset | intro sp | apply State.setSprout_sound | apply State.issuePrune_sound | apply State.settle_sound | refine foldl_fst_sound ?_ (fun a x hx => ?_) | refine getD_sound (fun t ht => ?_) ?_ | refine foldl_sound ?_ (fun s x hx => ?_) | apply State.core_legal | exact reset_legal | refine foldl_legal ?_ (fun p x hx => ?_) | (intro p hp) | split)

theorem State.acknowledged_sound {s : State} (hc : s.sound) (d : ℕ) (serial : ℕ) : (State.acknowledged s d serial).sound := by
  unfold State.acknowledged
  repeat' (with_reducible first | assumption | dsimp only | exact sound_reset | intro sp | apply State.setSprout_sound | apply State.settle_sound | apply State.issuePending_sound | refine foldl_fst_sound ?_ (fun a x hx => ?_) | refine getD_sound (fun t ht => ?_) ?_ | refine foldl_sound ?_ (fun s x hx => ?_) | apply State.core_legal | exact reset_legal | refine foldl_legal ?_ (fun p x hx => ?_) | (intro p hp) | split)

theorem State.supplyLost_sound {s : State} (hc : s.sound) : (State.supplyLost s).sound := by
  unfold State.supplyLost
  repeat' (with_reducible first | assumption | dsimp only | exact sound_reset | intro sp | apply State.lost_sound | refine foldl_fst_sound ?_ (fun a x hx => ?_) | refine getD_sound (fun t ht => ?_) ?_ | refine foldl_sound ?_ (fun s x hx => ?_) | apply State.core_legal | exact reset_legal | refine foldl_legal ?_ (fun p x hx => ?_) | (simp only [State.sound_mk]; apply State.sound.split) | (intro p hp) | split)

theorem State.checkHead_sound {s : State} (hc : s.sound) : (State.checkHead s).sound := by
  unfold State.checkHead
  repeat' (with_reducible first | assumption | dsimp only | exact sound_reset | intro sp | apply State.imageMeet_sound | apply State.failLoad_sound | apply State.mapLaunch_sound | refine foldl_fst_sound ?_ (fun a x hx => ?_) | refine getD_sound (fun t ht => ?_) ?_ | refine foldl_sound ?_ (fun s x hx => ?_) | apply State.core_legal | exact reset_legal | refine foldl_legal ?_ (fun p x hx => ?_) | (intro p hp) | split)

theorem State.placeHead_sound {s : State} (hc : s.sound) : (State.placeHead s).sound := by
  unfold State.placeHead
  repeat' (with_reducible first | assumption | dsimp only | exact sound_reset | intro sp | apply State.mapLaunch_sound | refine foldl_fst_sound ?_ (fun a x hx => ?_) | refine getD_sound (fun t ht => ?_) ?_ | refine foldl_sound ?_ (fun s x hx => ?_) | apply State.core_legal | exact reset_legal | refine foldl_legal ?_ (fun p x hx => ?_) | (simp only [State.sound_mk]; apply State.sound.split) | (intro p hp) | split)

theorem State.startGraft_sound {s : State} (hc : s.sound) : (State.startGraft s).sound := by
  unfold State.startGraft
  repeat' (with_reducible first | assumption | dsimp only | exact sound_reset | intro sp | apply State.startCut_sound | refine foldl_fst_sound ?_ (fun a x hx => ?_) | refine getD_sound (fun t ht => ?_) ?_ | refine foldl_sound ?_ (fun s x hx => ?_) | apply State.core_legal | exact reset_legal | refine foldl_legal ?_ (fun p x hx => ?_) | (simp only [State.sound_mk]; apply State.sound.split) | (intro p hp) | split)

theorem State.resumeGraft_sound {s : State} (hc : s.sound) : (State.resumeGraft s).sound := by
  unfold State.resumeGraft
  repeat' (with_reducible first | assumption | dsimp only | exact sound_reset | intro sp | apply State.reservedRead_sound | apply State.mapPlace_sound | apply State.wakeRegion_sound | apply State.seatNodes_sound | apply State.placeHead_sound | refine foldl_fst_sound ?_ (fun a x hx => ?_) | refine getD_sound (fun t ht => ?_) ?_ | refine foldl_sound ?_ (fun s x hx => ?_) | apply State.core_legal | exact reset_legal | refine foldl_legal ?_ (fun p x hx => ?_) | (simp only [State.sound_mk]; apply State.sound.split) | (intro p hp) | split)

theorem State.preempt_sound {s : State} (hc : s.sound) : (State.preempt s).sound := by
  unfold State.preempt
  repeat' (with_reducible first | assumption | dsimp only | exact sound_reset | intro sp | apply State.startCut_sound | refine foldl_fst_sound ?_ (fun a x hx => ?_) | refine getD_sound (fun t ht => ?_) ?_ | refine foldl_sound ?_ (fun s x hx => ?_) | apply State.core_legal | exact reset_legal | refine foldl_legal ?_ (fun p x hx => ?_) | (intro p hp) | split)

theorem State.supplyBack_sound {s : State} (hc : s.sound) : (State.supplyBack s).sound := by
  unfold State.supplyBack
  repeat' (with_reducible first | assumption | dsimp only | exact sound_reset | intro sp | apply State.boot_sound | refine foldl_fst_sound ?_ (fun a x hx => ?_) | refine getD_sound (fun t ht => ?_) ?_ | refine foldl_sound ?_ (fun s x hx => ?_) | apply State.core_legal | exact reset_legal | refine foldl_legal ?_ (fun p x hx => ?_) | (simp only [State.sound_mk]; apply State.sound.split) | (intro p hp) | split)

theorem State.noteExit_sound {s : State} (hc : s.sound) (f : Firing) (e : Elem) : (State.noteExit s f e).sound := by
  unfold State.noteExit
  repeat' (with_reducible first | assumption | dsimp only | exact sound_reset | intro sp | apply State.updChan_sound | refine foldl_fst_sound ?_ (fun a x hx => ?_) | refine getD_sound (fun t ht => ?_) ?_ | refine foldl_sound ?_ (fun s x hx => ?_) | apply State.core_legal | exact reset_legal | refine foldl_legal ?_ (fun p x hx => ?_) | (intro p hp) | split)

theorem State.freeNat_sound {s : State} (hc : s.sound) {res : State} {oth} (heq : State.freeNat s = (oth, res)) : res.sound := by
  unfold State.freeNat at heq
  repeat' (with_reducible first | dsimp only at heq | split at heq)
  all_goals (first | (cases heq; done) | (obtain ⟨_, _, rfl⟩ := Option.map_eq_some_iff.mp heq) | (cases heq))
  all_goals repeat' (with_reducible first | assumption | dsimp only | exact sound_reset | intro sp | refine foldl_fst_sound ?_ (fun a x hx => ?_) | refine getD_sound (fun t ht => ?_) ?_ | refine foldl_sound ?_ (fun s x hx => ?_) | apply State.core_legal | exact reset_legal | refine foldl_legal ?_ (fun p x hx => ?_) | (simp only [State.sound_mk]; apply State.sound.split))

theorem State.freeNat_sound_snd {s : State} (hc : s.sound) : (State.freeNat s).2.sound := State.freeNat_sound hc rfl

theorem State.placeOn_sound {s : State} (hc : s.sound) (f : Firing) (e : Elem) (seg : Option SegId) (closes : Bool) (q : ℕ) : (State.placeOn s f e seg closes q).sound := by
  unfold State.placeOn
  repeat' (with_reducible first | assumption | dsimp only | exact sound_reset | intro sp | apply State.updElem_sound | apply State.emitOn_sound | refine foldl_fst_sound ?_ (fun a x hx => ?_) | refine getD_sound (fun t ht => ?_) ?_ | refine foldl_sound ?_ (fun s x hx => ?_) | apply State.core_legal | exact reset_legal | refine foldl_legal ?_ (fun p x hx => ?_) | (intro p hp) | split)

theorem State.sendGuess_sound {s : State} (hc : s.sound) (e : ElemRef) (g : Option GuessRec) : (State.sendGuess s e g).sound := by
  unfold State.sendGuess
  repeat' (with_reducible first | assumption | dsimp only | exact sound_reset | intro sp | apply State.tellPipe_sound | apply State.setSprout_sound | refine foldl_fst_sound ?_ (fun a x hx => ?_) | refine getD_sound (fun t ht => ?_) ?_ | refine foldl_sound ?_ (fun s x hx => ?_) | apply State.core_legal | exact reset_legal | refine foldl_legal ?_ (fun p x hx => ?_) | (intro p hp) | split)

theorem State.noteInterval_sound {s : State} (hc : s.sound) (e : Elem) (ii : ℕ) (blame : Bool × ℕ) : (State.noteInterval s e ii blame).sound := by
  unfold State.noteInterval
  repeat' (with_reducible first | assumption | dsimp only | exact sound_reset | intro sp | apply State.updElem_sound | apply State.updPlot_sound | refine foldl_fst_sound ?_ (fun a x hx => ?_) | refine getD_sound (fun t ht => ?_) ?_ | refine foldl_sound ?_ (fun s x hx => ?_) | apply State.core_legal | exact reset_legal | refine foldl_legal ?_ (fun p x hx => ?_) | (simp only [State.sound_mk]; apply State.sound.split) | (intro p hp) | split)

theorem State.completeFiring_sound {s : State} (hc : s.sound) (f : Firing) (e : Elem) : (State.completeFiring s f e).sound := by
  unfold State.completeFiring
  repeat' (with_reducible first | assumption | dsimp only | exact sound_reset | intro sp | apply State.consume_sound | apply State.updElem_sound | apply State.placeOn_sound | apply State.sendGuess_sound | apply State.noteExit_sound | apply State.noteMerge_sound | apply State.noteInterval_sound | refine foldl_fst_sound ?_ (fun a x hx => ?_) | refine getD_sound (fun t ht => ?_) ?_ | refine foldl_sound ?_ (fun s x hx => ?_) | apply State.core_legal | exact reset_legal | refine foldl_legal ?_ (fun p x hx => ?_) | (intro p hp) | split)

theorem State.finishFiring_sound {s : State} (hc : s.sound) : (State.finishFiring s).sound := by
  unfold State.finishFiring
  repeat' (with_reducible first | assumption | dsimp only | exact sound_reset | intro sp | apply State.consume_sound | apply State.freezeElem_sound | apply State.updElem_sound | apply State.completeFiring_sound | refine foldl_fst_sound ?_ (fun a x hx => ?_) | refine getD_sound (fun t ht => ?_) ?_ | refine foldl_sound ?_ (fun s x hx => ?_) | apply State.core_legal | exact reset_legal | refine foldl_legal ?_ (fun p x hx => ?_) | (simp only [State.sound_mk]; apply State.sound.split) | (intro p hp) | split)

theorem State.choose_sound {s : State} (hc : s.sound) {res : State} {oth} (heq : State.choose s = (res, oth)) : res.sound := by
  unfold State.choose at heq
  repeat' (with_reducible first | dsimp only at heq | split at heq)
  all_goals (first | (cases heq; done) | (obtain ⟨_, _, rfl⟩ := Option.map_eq_some_iff.mp heq) | (cases heq) | skip)
  all_goals repeat' (with_reducible first | assumption | dsimp only | exact sound_reset | intro sp | apply State.finishFiring_sound | refine State.fireAt_sound ?_ (by assumption) | apply State.fireAt_sound_fst | refine State.progress_sound ?_ (by assumption) | apply State.progress_sound_fst | refine foldl_fst_sound ?_ (fun a x hx => ?_) | refine getD_sound (fun t ht => ?_) ?_ | refine foldl_sound ?_ (fun s x hx => ?_) | apply State.core_legal | exact reset_legal | refine foldl_legal ?_ (fun p x hx => ?_) | (simp only [State.sound_mk]; apply State.sound.split))

theorem State.choose_sound_fst {s : State} (hc : s.sound) : (State.choose s).1.sound := State.choose_sound hc rfl

theorem State.withFetchWord_sound {s : State} (hc : s.sound) (nbits : ℕ) (w : ℕ) : (State.withFetchWord s nbits w).sound := by
  unfold State.withFetchWord
  dsimp only
  split
  · exact hc
  · have h := State.mapCore_sound hc s.placeCore (f := fun p => { p with blocks := [oneWordBlock (BitVec.ofNat 32 w) (decodeTableWord nbits w)] })
      (fun p hp => ⟨hp.1, hp.2.1, Nat.le_add_left 1 3⟩)
    exact h

end Sys2Proof.Machine
end

