-- ==== Sys2Proof/Laws/SoundExec.lean ====
section
/-! SUPPORT. Every meaning keeps the invariant State.sound. -/
open Sys2Proof
namespace Sys2Proof.Machine

theorem gate_sound {s : State} (hc : s.sound) {p : BitVec 2} {uses : List Pos} {t : State} (h : gate s p uses = .nulled t) : t.sound := by
  revert h
  unfold gate
  dsimp only
  repeat' split
  all_goals (intro h; first | (cases h; done) | cases h)
  exact CoreCtx.put_sound hc (State.core_legal hc _) _

theorem gate_legal {s : State} (hc : s.sound) {p : BitVec 2} {uses : List Pos} {x : CoreCtx} (h : gate s p uses = .core x) : x.pc.legal := by
  revert h
  unfold gate
  dsimp only
  repeat' split
  all_goals (intro h; first | (cases h; done) | cases h)
  exact State.core_legal hc _

theorem execCore_sound {s : State} (hc : s.sound) {p : BitVec 2} {uses : List Pos} {f : CoreCtx → State} {t : State}
    (heq : execCore s p uses f = .next t) (hf : ∀ x, x.pc.legal → (f x).sound) : t.sound := by
  unfold execCore at heq
  split at heq
  all_goals first | (cases heq; done) | cases heq
  · exact hc
  · exact gate_sound hc (by assumption)
  · exact hf _ (gate_legal hc (by assumption))

theorem execElem_sound {s : State} (hc : s.sound) {p : BitVec 2} {uses : List Pos} {f : ElemCtx → State} {t : State}
    (heq : execElem s p uses f = .next t) (hf : ∀ x, (f x).sound) : t.sound := by
  unfold execElem at heq
  split at heq
  all_goals first | (cases heq; done) | cases heq
  · exact hc
  · exact gate_sound hc (by assumption)
  · exact hf _

theorem execBoth_sound {s : State} (hc : s.sound) {p : BitVec 2} {uses : List Pos} {f : CoreCtx → State} {g : ElemCtx → State} {t : State}
    (heq : execBoth s p uses f g = .next t) (hf : ∀ x, x.pc.legal → (f x).sound) (hg : ∀ x, (g x).sound) : t.sound := by
  unfold execBoth at heq
  split at heq
  all_goals first | (cases heq; done) | cases heq
  · exact hc
  · exact gate_sound hc (by assumption)
  · exact hf _ (gate_legal hc (by assumption))
  · exact hg _

theorem execAlu_sound {s : State} (hc : s.sound) {p : BitVec 2} {ts : List (BitVec 9)} {uses : List Pos} {fm : ℕ → ℕ → Img → ℕ}
    {f : AluEnv → Img → Img → Img → AluRes} {t : State} (heq : execAlu s p ts uses fm f = .next t) : t.sound := by
  unfold execAlu at heq
  split at heq
  all_goals first | (cases heq; done) | cases heq
  · exact hc
  · exact gate_sound hc (by assumption)
  · exact CoreCtx.finish_sound hc (gate_legal hc (by assumption)) _ _
  · exact ElemCtx.finish_sound hc _ _ _

theorem execThermalTrip_sound {s : State} (hc : s.sound) {res : State} (heq : execThermalTrip s = .next res) : res.sound := by
  unfold execThermalTrip at heq
  repeat' (with_reducible first | dsimp only at heq | split at heq)
  all_goals (first | (cases heq; done) | (cases heq))
  all_goals repeat' (with_reducible first | assumption | dsimp only | apply State.trip_sound)

theorem execNoProgressLimit_sound {s : State} (hc : s.sound) {agent : Agent} {res : State} (heq : execNoProgressLimit agent s = .next res) : res.sound := by
  unfold execNoProgressLimit at heq
  repeat' (with_reducible first | dsimp only at heq | split at heq)
  all_goals (first | (cases heq; done) | (cases heq))
  all_goals repeat' (with_reducible first | assumption | dsimp only | apply State.hang_sound | apply State.countOut_sound)

theorem execInMrk_sound {s : State} (hc : s.sound) {p : BitVec 2} {t : BitVec 9} {n : BitVec 5} {res : State} (heq : execInMrk p t n s = .next res) : res.sound := by
  unfold execInMrk at heq
  refine execCore_sound hc heq ?_
  all_goals repeat' (with_reducible first | assumption | dsimp only | apply CoreCtx.give_sound | refine foldl_sound ?_ (fun s x hx => ?_) | refine getD_sound (fun t ht => ?_) ?_ | split | intro x hlx)

theorem execDot4_sound {s : State} (hc : s.sound) {p : BitVec 2} {t : BitVec 9} {u : BitVec 9} {o : BitVec 1} {g : BitVec 2} {res : State} (heq : execDot4 p t u o g s = .next res) : res.sound := by
  exact execAlu_sound hc heq

theorem execShlp_sound {s : State} (hc : s.sound) {p : BitVec 2} {t : BitVec 9} {u : BitVec 9} {w : BitVec 2} {res : State} (heq : execShlp p t u w s = .next res) : res.sound := by
  exact execAlu_sound hc heq

theorem execRetire_sound {s : State} (hc : s.sound) {filter : FilterRef} {serial : ℕ} {res : State} (heq : execRetire filter serial s = .next res) : res.sound := by
  unfold execRetire at heq
  repeat' (with_reducible first | dsimp only at heq | split at heq)
  all_goals (first | (cases heq; done) | (cases heq))
  all_goals repeat' (with_reducible first | assumption | dsimp only | apply State.retireAt_sound)

theorem execSub_sound {s : State} (hc : s.sound) {p : BitVec 2} {t : BitVec 9} {u : BitVec 9} {res : State} (heq : execSub p t u s = .next res) : res.sound := by
  exact execAlu_sound hc heq

theorem execNullw_sound {s : State} (hc : s.sound) {p : BitVec 2} {k : BitVec 5} {res : State} (heq : execNullw p k s = .next res) : res.sound := by
  unfold execNullw at heq
  refine execCore_sound hc heq ?_
  all_goals repeat' (with_reducible first | assumption | dsimp only | apply CoreCtx.name_sound | refine foldl_sound ?_ (fun s x hx => ?_) | refine getD_sound (fun t ht => ?_) ?_ | split | intro x hlx)

theorem execSubs_sound {s : State} (hc : s.sound) {p : BitVec 2} {t : BitVec 9} {u : BitVec 9} {nn : BitVec 1} {res : State} (heq : execSubs p t u nn s = .next res) : res.sound := by
  exact execAlu_sound hc heq

theorem execLaunchp_sound {s : State} (hc : s.sound) {p : BitVec 2} {l : BitVec 5} {res : State} (heq : execLaunchp p l s = .next res) : res.sound := by
  unfold execLaunchp at heq
  refine execCore_sound hc heq ?_
  all_goals repeat' (with_reducible first | assumption | dsimp only | apply CoreCtx.laneAsk_sound | refine foldl_sound ?_ (fun s x hx => ?_) | refine getD_sound (fun t ht => ?_) ?_ | split | intro x hlx)

theorem execCommitNotice_sound {s : State} (hc : s.sound) {dest : NoticeTo} {lane : ℕ} {gen : ℕ} {res : State} (heq : execCommitNotice dest lane gen s = .next res) : res.sound := by
  unfold execCommitNotice at heq
  repeat' (with_reducible first | dsimp only at heq | split at heq)
  all_goals (first | (cases heq; done) | (cases heq))
  all_goals repeat' (with_reducible first | assumption | dsimp only | apply State.takeNotice_sound)

theorem execAccz_sound {s : State} (hc : s.sound) {p : BitVec 2} {m : BitVec 4} {res : State} (heq : execAccz p m s = .next res) : res.sound := by
  unfold execAccz at heq
  refine execCore_sound hc heq ?_
  all_goals repeat' (with_reducible first | assumption | dsimp only | apply CoreCtx.tileOp_sound | refine foldl_sound ?_ (fun s x hx => ?_) | refine getD_sound (fun t ht => ?_) ?_ | split | intro x hlx)

theorem execTreshape_sound {s : State} (hc : s.sound) {p : BitVec 2} {k : BitVec 4} {res : State} (heq : execTreshape p k s = .next res) : res.sound := by
  unfold execTreshape at heq
  refine execCore_sound hc heq ?_
  all_goals repeat' (with_reducible first | assumption | dsimp only | apply CoreCtx.tileOp_sound | refine foldl_sound ?_ (fun s x hx => ?_) | refine getD_sound (fun t ht => ?_) ?_ | split | intro x hlx)

theorem execFgseed_sound {s : State} (hc : s.sound) {p : BitVec 2} {res : State} (heq : execFgseed p s = .next res) : res.sound := by
  unfold execFgseed at heq
  refine execCore_sound hc heq ?_
  all_goals repeat' (with_reducible first | assumption | dsimp only | apply CoreCtx.ask_sound | refine foldl_sound ?_ (fun s x hx => ?_) | refine getD_sound (fun t ht => ?_) ?_ | split | intro x hlx)

theorem execSdcvt_sound {s : State} (hc : s.sound) {p : BitVec 2} {t : BitVec 9} {u : BitVec 9} {res : State} (heq : execSdcvt p t u s = .next res) : res.sound := by
  unfold execSdcvt at heq
  refine execElem_sound hc heq ?_
  all_goals repeat' (with_reducible first | assumption | dsimp only | apply ElemCtx.sd_sound | refine foldl_sound ?_ (fun s x hx => ?_) | refine getD_sound (fun t ht => ?_) ?_ | (simp only [State.sound_mk]; apply State.sound.split) | split | intro x hlx | intro x)

theorem execFdiv_sound {s : State} (hc : s.sound) {p : BitVec 2} {t : BitVec 9} {u : BitVec 9} {res : State} (heq : execFdiv p t u s = .next res) : res.sound := by
  exact execAlu_sound hc heq

theorem execWloadW_sound {s : State} (hc : s.sound) {p : BitVec 2} {res : State} (heq : execWloadW p s = .next res) : res.sound := by
  unfold execWloadW at heq
  refine execCore_sound hc heq ?_
  all_goals repeat' (with_reducible first | assumption | dsimp only | apply CoreCtx.illegal_sound | apply CoreCtx.fail_sound | apply CoreCtx.ask_sound | refine foldl_sound ?_ (fun s x hx => ?_) | refine getD_sound (fun t ht => ?_) ?_ | split | intro x hlx)

theorem execLoadResponse_sound {s : State} (hc : s.sound) {core : CoreRef} {uid : ℕ} {slot : ℕ} {res : State} (heq : execLoadResponse core uid slot s = .next res) : res.sound := by
  unfold execLoadResponse at heq
  repeat' (with_reducible first | dsimp only at heq | split at heq)
  all_goals (first | (cases heq; done) | (cases heq))
  all_goals repeat' (with_reducible first | assumption | dsimp only | apply State.loadArrives_sound)

theorem execRecDone_sound {s : State} (hc : s.sound) {p : BitVec 2} {t : BitVec 9} {u : BitVec 9} {k : BitVec 3} {res : State} (heq : execRecDone p t u k s = .next res) : res.sound := by
  unfold execRecDone at heq
  refine execElem_sound hc heq ?_
  all_goals repeat' (with_reducible first | assumption | dsimp only | apply ElemCtx.record_sound | refine foldl_sound ?_ (fun s x hx => ?_) | refine getD_sound (fun t ht => ?_) ?_ | split | intro x hlx | intro x)

theorem execAddp_sound {s : State} (hc : s.sound) {p : BitVec 2} {t : BitVec 9} {u : BitVec 9} {m : BitVec 2} {w : BitVec 2} {res : State} (heq : execAddp p t u m w s = .next res) : res.sound := by
  exact execAlu_sound hc heq

theorem execLdimg_sound {s : State} (hc : s.sound) {p : BitVec 2} {_t : BitVec 9} {l : BitVec 5} {k : BitVec 1} {res : State} (heq : execLdimg p _t l k s = .next res) : res.sound := by
  unfold execLdimg at heq
  refine execCore_sound hc heq ?_
  all_goals repeat' (with_reducible first | assumption | dsimp only | apply CoreCtx.checked_sound | apply CoreCtx.read_sound | refine foldl_sound ?_ (fun s x hx => ?_) | refine getD_sound (fun t ht => ?_) ?_ | split | intro x hlx | intro x)

theorem execPortRetrain_sound {s : State} (hc : s.sound) {port : ℕ} {ok : Bool} {res : State} (heq : execPortRetrain port ok s = .next res) : res.sound := by
  unfold execPortRetrain at heq
  repeat' (with_reducible first | dsimp only at heq | split at heq)
  all_goals (first | (cases heq; done) | (cases heq))
  all_goals repeat' (with_reducible first | assumption | dsimp only | apply State.retrain_sound)

theorem execVerticalParityError_sound {s : State} (hc : s.sound) {die : ℕ} {addr : ℕ} {wr : Bool} {lane : ℕ} {res : State} (heq : execVerticalParityError die addr wr lane s = .next res) : res.sound := by
  unfold execVerticalParityError at heq
  repeat' (with_reducible first | dsimp only at heq | split at heq)
  all_goals (first | (cases heq; done) | (cases heq))
  all_goals repeat' (with_reducible first | assumption | dsimp only | apply State.parity_sound)

theorem execPerfCnt_sound {s : State} (hc : s.sound) {p : BitVec 2} {t : BitVec 9} {_u : BitVec 9} {res : State} (heq : execPerfCnt p t _u s = .next res) : res.sound := by
  unfold execPerfCnt at heq
  refine execCore_sound hc heq ?_
  all_goals repeat' (with_reducible first | assumption | dsimp only | apply CoreCtx.give_sound | refine foldl_sound ?_ (fun s x hx => ?_) | refine getD_sound (fun t ht => ?_) ?_ | split | intro x hlx)

theorem execSysc_sound {s : State} (hc : s.sound) {p : BitVec 2} {i : BitVec 13} {res : State} (heq : execSysc p i s = .next res) : res.sound := by
  unfold execSysc at heq
  refine execCore_sound hc heq ?_
  all_goals repeat' (with_reducible first | assumption | dsimp only | apply CoreCtx.ask_sound | refine foldl_sound ?_ (fun s x hx => ?_) | refine getD_sound (fun t ht => ?_) ?_ | split | intro x hlx)

theorem execAttest_sound {s : State} (hc : s.sound) {msg : HostMsg} {res : State} (heq : execAttest msg s = .next res) : res.sound := by
  unfold execAttest at heq
  repeat' (with_reducible first | dsimp only at heq | split at heq)
  all_goals (first | (cases heq; done) | (cases heq))
  all_goals repeat' (with_reducible first | assumption | dsimp only | apply State.hear_sound | apply State.answerInto_sound)

theorem execLateResponse_sound {s : State} (hc : s.sound) {die : ℕ} {res : State} (heq : execLateResponse die s = .next res) : res.sound := by
  unfold execLateResponse at heq
  repeat' (with_reducible first | dsimp only at heq | split at heq)
  all_goals (first | (cases heq; done) | (cases heq))
  all_goals repeat' (with_reducible first | assumption | dsimp only | apply State.updDie_sound)

theorem execElementFire_sound {s : State} (hc : s.sound) {el : ElemRef} {res : State} (heq : execElementFire el s = .next res) : res.sound := by
  unfold execElementFire at heq
  repeat' (with_reducible first | dsimp only at heq | split at heq)
  all_goals (first | (cases heq; done) | (cases heq))
  all_goals repeat' (with_reducible first | assumption | dsimp only | apply State.fireAny_sound)

theorem execGetc_sound {s : State} (hc : s.sound) {p : BitVec 2} {t : BitVec 9} {n : BitVec 8} {res : State} (heq : execGetc p t n s = .next res) : res.sound := by
  unfold execGetc at heq
  refine execCore_sound hc heq ?_
  all_goals repeat' (with_reducible first | assumption | dsimp only | apply CoreCtx.fail_sound | apply CoreCtx.give_sound | refine foldl_sound ?_ (fun s x hx => ?_) | refine getD_sound (fun t ht => ?_) ?_ | split | intro x hlx)

theorem execTestBits_sound {s : State} (hc : s.sound) {p : BitVec 2} {t : BitVec 9} {u : BitVec 9} {z : BitVec 1} {res : State} (heq : execTestBits p t u z s = .next res) : res.sound := by
  exact execAlu_sound hc heq

theorem execSegl_sound {s : State} (hc : s.sound) {p : BitVec 2} {n : BitVec 8} {r : BitVec 2} {res : State} (heq : execSegl p n r s = .next res) : res.sound := by
  unfold execSegl at heq
  refine execBoth_sound hc heq ?_ ?_
  all_goals repeat' (with_reducible first | assumption | dsimp only | apply CoreCtx.ask_sound | apply ElemCtx.mark_sound | refine foldl_sound ?_ (fun s x hx => ?_) | refine getD_sound (fun t ht => ?_) ?_ | split | intro x hlx | intro x)

theorem execEret_sound {s : State} (hc : s.sound) {p : BitVec 2} {_e : BitVec 3} {res : State} (heq : execEret p _e s = .next res) : res.sound := by
  unfold execEret at heq
  refine execCore_sound hc heq ?_
  all_goals repeat' (with_reducible first | assumption | dsimp only | apply CoreCtx.fail_sound | apply CoreCtx.leave_sound | refine foldl_sound ?_ (fun s x hx => ?_) | refine getD_sound (fun t ht => ?_) ?_ | split | intro x hlx)

theorem execPerfCfg_sound {s : State} (hc : s.sound) {p : BitVec 2} {res : State} (heq : execPerfCfg p s = .next res) : res.sound := by
  unfold execPerfCfg at heq
  refine execCore_sound hc heq ?_
  all_goals repeat' (with_reducible first | assumption | dsimp only | apply CoreCtx.ask_sound | refine foldl_sound ?_ (fun s x hx => ?_) | refine getD_sound (fun t ht => ?_) ?_ | split | intro x hlx)

theorem execFence_sound {s : State} (hc : s.sound) {p : BitVec 2} {l : BitVec 5} {c : BitVec 3} {res : State} (heq : execFence p l c s = .next res) : res.sound := by
  unfold execFence at heq
  refine execCore_sound hc heq ?_
  all_goals repeat' (with_reducible first | assumption | dsimp only | apply CoreCtx.ask_sound | refine foldl_sound ?_ (fun s x hx => ?_) | refine getD_sound (fun t ht => ?_) ?_ | split | intro x hlx)

theorem execScale_sound {s : State} (hc : s.sound) {p : BitVec 2} {t : BitVec 9} {u : BitVec 9} {res : State} (heq : execScale p t u s = .next res) : res.sound := by
  exact execAlu_sound hc heq

theorem execCutStart_sound {s : State} (hc : s.sound) {lid : ℕ} {psets : List ℕ} {why : CutWhy} {res : State} (heq : execCutStart lid psets why s = .next res) : res.sound := by
  unfold execCutStart at heq
  repeat' (with_reducible first | dsimp only at heq | split at heq)
  all_goals (first | (cases heq; done) | (cases heq))
  all_goals repeat' (with_reducible first | assumption | dsimp only | apply State.startCut_sound)

theorem execConfigLoad_sound {s : State} (hc : s.sound) {res : State} (heq : execConfigLoad s = .next res) : res.sound := by
  unfold execConfigLoad at heq
  repeat' (with_reducible first | dsimp only at heq | split at heq)
  all_goals (first | (cases heq; done) | (cases heq))
  all_goals repeat' (with_reducible first | assumption | dsimp only | apply State.configure_sound)

theorem execResume_sound {s : State} (hc : s.sound) {msg : HostMsg} {res : State} (heq : execResume msg s = .next res) : res.sound := by
  unfold execResume at heq
  repeat' (with_reducible first | dsimp only at heq | split at heq)
  all_goals (first | (cases heq; done) | (cases heq))
  all_goals repeat' (with_reducible first | assumption | dsimp only | apply State.hear_sound | apply State.resumeMsg_sound)

theorem execGath_sound {s : State} (hc : s.sound) {p : BitVec 2} {l : BitVec 5} {e : BitVec 2} {res : State} (heq : execGath p l e s = .next res) : res.sound := by
  unfold execGath at heq
  refine execCore_sound hc heq ?_
  all_goals repeat' (with_reducible first | assumption | dsimp only | apply CoreCtx.request_sound | refine foldl_sound ?_ (fun s x hx => ?_) | refine getD_sound (fun t ht => ?_) ?_ | split | intro x hlx)

theorem execFatom_sound {s : State} (hc : s.sound) {p : BitVec 2} {t : BitVec 9} {l : BitVec 5} {a : BitVec 2} {sc : BitVec 2} {res : State} (heq : execFatom p t l a sc s = .next res) : res.sound := by
  unfold execFatom at heq
  refine execCore_sound hc heq ?_
  all_goals repeat' (with_reducible first | assumption | dsimp only | apply CoreCtx.atomic_sound | refine foldl_sound ?_ (fun s x hx => ?_) | refine getD_sound (fun t ht => ?_) ?_ | split | intro x hlx)

theorem execGthWrite_sound {s : State} (hc : s.sound) {die : ℕ} {k : ℕ} {value : DWord} {res : State} (heq : execGthWrite die k value s = .next res) : res.sound := by
  unfold execGthWrite at heq
  repeat' (with_reducible first | dsimp only at heq | split at heq)
  all_goals (first | (cases heq; done) | (cases heq))
  all_goals repeat' (with_reducible first | assumption | dsimp only | apply State.writeGth_sound)

theorem execSdadd_sound {s : State} (hc : s.sound) {p : BitVec 2} {t : BitVec 9} {u : BitVec 9} {res : State} (heq : execSdadd p t u s = .next res) : res.sound := by
  unfold execSdadd at heq
  refine execElem_sound hc heq ?_
  all_goals repeat' (with_reducible first | assumption | dsimp only | apply ElemCtx.sd_sound | refine foldl_sound ?_ (fun s x hx => ?_) | refine getD_sound (fun t ht => ?_) ?_ | split | intro x hlx | intro x)

theorem execCutTimeout_sound {s : State} (hc : s.sound) {res : State} (heq : execCutTimeout s = .next res) : res.sound := by
  unfold execCutTimeout at heq
  repeat' (with_reducible first | dsimp only at heq | split at heq)
  all_goals (first | (cases heq; done) | (cases heq))
  all_goals repeat' (with_reducible first | assumption | dsimp only | apply State.hang_sound | refine foldl_sound ?_ (fun s x hx => ?_) | refine getD_sound (fun t ht => ?_) ?_ | (simp only [State.sound_mk]; apply State.sound.split))

theorem execAdds_sound {s : State} (hc : s.sound) {p : BitVec 2} {t : BitVec 9} {u : BitVec 9} {nn : BitVec 1} {res : State} (heq : execAdds p t u nn s = .next res) : res.sound := by
  exact execAlu_sound hc heq

theorem execFmax_sound {s : State} (hc : s.sound) {p : BitVec 2} {t : BitVec 9} {u : BitVec 9} {res : State} (heq : execFmax p t u s = .next res) : res.sound := by
  exact execAlu_sound hc heq

theorem execLeaBlk_sound {s : State} (hc : s.sound) {p : BitVec 2} {t : BitVec 9} {u : BitVec 9} {res : State} (heq : execLeaBlk p t u s = .next res) : res.sound := by
  unfold execLeaBlk at heq
  refine execCore_sound hc heq ?_
  all_goals repeat' (with_reducible first | assumption | dsimp only | apply CoreCtx.finish_sound | refine foldl_sound ?_ (fun s x hx => ?_) | refine getD_sound (fun t ht => ?_) ?_ | split | intro x hlx)

theorem execShra_sound {s : State} (hc : s.sound) {p : BitVec 2} {t : BitVec 9} {u : BitVec 9} {res : State} (heq : execShra p t u s = .next res) : res.sound := by
  exact execAlu_sound hc heq

theorem execTzero_sound {s : State} (hc : s.sound) {p : BitVec 2} {k : BitVec 4} {res : State} (heq : execTzero p k s = .next res) : res.sound := by
  unfold execTzero at heq
  refine execCore_sound hc heq ?_
  all_goals repeat' (with_reducible first | assumption | dsimp only | apply CoreCtx.tileOp_sound | refine foldl_sound ?_ (fun s x hx => ?_) | refine getD_sound (fun t ht => ?_) ?_ | split | intro x hlx)

theorem execStrmDrain_sound {s : State} (hc : s.sound) {p : BitVec 2} {l : BitVec 5} {i : BitVec 7} {res : State} (heq : execStrmDrain p l i s = .next res) : res.sound := by
  unfold execStrmDrain at heq
  refine execCore_sound hc heq ?_
  all_goals repeat' (with_reducible first | assumption | dsimp only | apply CoreCtx.illegal_sound | apply CoreCtx.ask_sound | refine foldl_sound ?_ (fun s x hx => ?_) | refine getD_sound (fun t ht => ?_) ?_ | split | intro x hlx)

theorem execDeferredFault_sound {s : State} (hc : s.sound) {core : CoreRef} {code : ℕ} {va : ℕ} {lsid : ℕ} {res : State} (heq : execDeferredFault core code va lsid s = .next res) : res.sound := by
  unfold execDeferredFault at heq
  repeat' (with_reducible first | dsimp only at heq | split at heq)
  all_goals (first | (cases heq; done) | (cases heq))
  all_goals repeat' (with_reducible first | assumption | dsimp only | apply latchFault_sound)

theorem execMovk_sound {s : State} (hc : s.sound) {p : BitVec 2} {t : BitVec 9} {i : BitVec 13} {res : State} (heq : execMovk p t i s = .next res) : res.sound := by
  exact execAlu_sound hc heq

theorem execStkg_sound {s : State} (hc : s.sound) {p : BitVec 2} {t : BitVec 9} {u : BitVec 9} {res : State} (heq : execStkg p t u s = .next res) : res.sound := by
  exact execAlu_sound hc heq

theorem execDumpClear_sound {s : State} (hc : s.sound) {msg : HostMsg} {res : State} (heq : execDumpClear msg s = .next res) : res.sound := by
  unfold execDumpClear at heq
  repeat' (with_reducible first | dsimp only at heq | split at heq)
  all_goals (first | (cases heq; done) | (cases heq))
  all_goals repeat' (with_reducible first | assumption | dsimp only | apply State.hear_sound | apply State.result_sound | refine foldl_sound ?_ (fun s x hx => ?_) | refine getD_sound (fun t ht => ?_) ?_ | (simp only [State.sound_mk]; apply State.sound.split) | split)

theorem execSetr_sound {s : State} (hc : s.sound) {p : BitVec 2} {k : BitVec 5} {res : State} (heq : execSetr p k s = .next res) : res.sound := by
  unfold execSetr at heq
  refine execCore_sound hc heq ?_
  all_goals repeat' (with_reducible first | assumption | dsimp only | apply CoreCtx.name_sound | refine foldl_sound ?_ (fun s x hx => ?_) | refine getD_sound (fun t ht => ?_) ?_ | split | intro x hlx)

theorem execFsqrt_sound {s : State} (hc : s.sound) {p : BitVec 2} {t : BitVec 9} {u : BitVec 9} {res : State} (heq : execFsqrt p t u s = .next res) : res.sound := by
  exact execAlu_sound hc heq

theorem execInAcc_sound {s : State} (hc : s.sound) {p : BitVec 2} {t : BitVec 9} {k : BitVec 2} {j : BitVec 4} {res : State} (heq : execInAcc p t k j s = .next res) : res.sound := by
  unfold execInAcc at heq
  refine execCore_sound hc heq ?_
  all_goals repeat' (with_reducible first | assumption | dsimp only | apply CoreCtx.give_sound | refine foldl_sound ?_ (fun s x hx => ?_) | refine getD_sound (fun t ht => ?_) ?_ | split | intro x hlx)

theorem execStreamCommandBeat_sound {s : State} (hc : s.sound) {core : CoreRef} {seq : ℕ} {res : State} (heq : execStreamCommandBeat core seq s = .next res) : res.sound := by
  unfold execStreamCommandBeat at heq
  repeat' (with_reducible first | dsimp only at heq | split at heq)
  all_goals (first | (cases heq; done) | (cases heq))
  all_goals repeat' (with_reducible first | assumption | dsimp only | apply State.streamBeat_sound)

theorem execBrk_sound {s : State} (hc : s.sound) {p : BitVec 2} {i : BitVec 13} {res : State} (heq : execBrk p i s = .next res) : res.sound := by
  unfold execBrk at heq
  refine execCore_sound hc heq ?_
  all_goals repeat' (with_reducible first | assumption | dsimp only | apply CoreCtx.ask_sound | refine foldl_sound ?_ (fun s x hx => ?_) | refine getD_sound (fun t ht => ?_) ?_ | split | intro x hlx)

theorem execReplayArm_sound {s : State} (hc : s.sound) {msg : HostMsg} {res : State} (heq : execReplayArm msg s = .next res) : res.sound := by
  unfold execReplayArm at heq
  repeat' (with_reducible first | dsimp only at heq | split at heq)
  all_goals (first | (cases heq; done) | (cases heq))
  all_goals repeat' (with_reducible first | assumption | dsimp only | apply State.hear_sound | apply State.armLog_sound)

theorem execAccd_sound {s : State} (hc : s.sound) {p : BitVec 2} {d : BitVec 4} {res : State} (heq : execAccd p d s = .next res) : res.sound := by
  unfold execAccd at heq
  refine execCore_sound hc heq ?_
  all_goals repeat' (with_reducible first | assumption | dsimp only | apply CoreCtx.tileOp_sound | refine foldl_sound ?_ (fun s x hx => ?_) | refine getD_sound (fun t ht => ?_) ?_ | split | intro x hlx)

theorem execMaxflWrite_sound {s : State} (hc : s.sound) {die : ℕ} {lane : ℕ} {value : DWord} {res : State} (heq : execMaxflWrite die lane value s = .next res) : res.sound := by
  unfold execMaxflWrite at heq
  repeat' (with_reducible first | dsimp only at heq | split at heq)
  all_goals (first | (cases heq; done) | (cases heq))
  all_goals repeat' (with_reducible first | assumption | dsimp only | apply State.writeMaxfl_sound)

theorem execPowerControllerEvaluation_sound {s : State} (hc : s.sound) {res : State} (heq : execPowerControllerEvaluation s = .next res) : res.sound := by
  unfold execPowerControllerEvaluation at heq
  repeat' (with_reducible first | dsimp only at heq | split at heq)
  all_goals (first | (cases heq; done) | (cases heq))
  all_goals repeat' (with_reducible first | assumption | dsimp only | apply State.stretch_sound | apply State.evaluate_sound)

theorem execLd_sound {s : State} (hc : s.sound) {p : BitVec 2} {_t : BitVec 9} {l : BitVec 5} {y : BitVec 4} {res : State} (heq : execLd p _t l y s = .next res) : res.sound := by
  unfold execLd at heq
  refine execCore_sound hc heq ?_
  all_goals repeat' (with_reducible first | assumption | dsimp only | apply CoreCtx.load_sound | refine foldl_sound ?_ (fun s x hx => ?_) | refine getD_sound (fun t ht => ?_) ?_ | split | intro x hlx)

theorem execPerfClr_sound {s : State} (hc : s.sound) {p : BitVec 2} {res : State} (heq : execPerfClr p s = .next res) : res.sound := by
  unfold execPerfClr at heq
  refine execCore_sound hc heq ?_
  all_goals repeat' (with_reducible first | assumption | dsimp only | apply CoreCtx.ask_sound | refine foldl_sound ?_ (fun s x hx => ?_) | refine getD_sound (fun t ht => ?_) ?_ | split | intro x hlx)

theorem execLinkStall_sound {s : State} (hc : s.sound) {die : ℕ} {link : ℕ} {res : State} (heq : execLinkStall die link s = .next res) : res.sound := by
  unfold execLinkStall at heq
  repeat' (with_reducible first | dsimp only at heq | split at heq)
  all_goals (first | (cases heq; done) | (cases heq))
  all_goals repeat' (with_reducible first | assumption | dsimp only | apply State.stall_sound)

theorem execNop_sound {s : State} (hc : s.sound) {p : BitVec 2} {_t : BitVec 9} {_u : BitVec 9} {_x : BitVec 4} {res : State} (heq : execNop p _t _u _x s = .next res) : res.sound := by
  exact execAlu_sound hc heq

theorem execGetr_sound {s : State} (hc : s.sound) {p : BitVec 2} {t : BitVec 9} {k : BitVec 5} {res : State} (heq : execGetr p t k s = .next res) : res.sound := by
  unfold execGetr at heq
  refine execCore_sound hc heq ?_
  all_goals repeat' (with_reducible first | assumption | dsimp only | apply CoreCtx.give_sound | refine foldl_sound ?_ (fun s x hx => ?_) | refine getD_sound (fun t ht => ?_) ?_ | split | intro x hlx)

theorem execMovi_sound {s : State} (hc : s.sound) {p : BitVec 2} {t : BitVec 9} {i : BitVec 13} {res : State} (heq : execMovi p t i s = .next res) : res.sound := by
  exact execAlu_sound hc heq

theorem execSetc_sound {s : State} (hc : s.sound) {p : BitVec 2} {n : BitVec 8} {res : State} (heq : execSetc p n s = .next res) : res.sound := by
  unfold execSetc at heq
  refine execCore_sound hc heq ?_
  all_goals repeat' (with_reducible first | assumption | dsimp only | apply CoreCtx.fail_sound | apply CoreCtx.ask_sound | apply CoreCtx.illegal_sound | refine foldl_sound ?_ (fun s x hx => ?_) | refine getD_sound (fun t ht => ?_) ?_ | split | intro x hlx)

theorem execBx_sound {s : State} (hc : s.sound) {p : BitVec 2} {_e : BitVec 3} {f : BitVec 19} {res : State} (heq : execBx p _e f s = .next res) : res.sound := by
  unfold execBx at heq
  refine execCore_sound hc heq ?_
  all_goals repeat' (with_reducible first | assumption | dsimp only | apply CoreCtx.leave_sound | refine foldl_sound ?_ (fun s x hx => ?_) | refine getD_sound (fun t ht => ?_) ?_ | split | intro x hlx)

theorem execBxr_sound {s : State} (hc : s.sound) {p : BitVec 2} {_e : BitVec 3} {res : State} (heq : execBxr p _e s = .next res) : res.sound := by
  unfold execBxr at heq
  refine execCore_sound hc heq ?_
  all_goals repeat' (with_reducible first | assumption | dsimp only | apply CoreCtx.leaveTo_sound | refine foldl_sound ?_ (fun s x hx => ?_) | refine getD_sound (fun t ht => ?_) ?_ | split | intro x hlx)

theorem execCallb_sound {s : State} (hc : s.sound) {p : BitVec 2} {_e : BitVec 3} {f : BitVec 19} {res : State} (heq : execCallb p _e f s = .next res) : res.sound := by
  unfold execCallb at heq
  refine execCore_sound hc heq ?_
  all_goals repeat' (with_reducible first | assumption | dsimp only | apply CoreCtx.leave_sound | refine foldl_sound ?_ (fun s x hx => ?_) | refine getD_sound (fun t ht => ?_) ?_ | split | intro x hlx)

theorem execRetb_sound {s : State} (hc : s.sound) {p : BitVec 2} {_e : BitVec 3} {res : State} (heq : execRetb p _e s = .next res) : res.sound := by
  unfold execRetb at heq
  refine execCore_sound hc heq ?_
  all_goals repeat' (with_reducible first | assumption | dsimp only | apply CoreCtx.leaveTo_sound | refine foldl_sound ?_ (fun s x hx => ?_) | refine getD_sound (fun t ht => ?_) ?_ | split | intro x hlx)

theorem execAdd_sound {s : State} (hc : s.sound) {p : BitVec 2} {t : BitVec 9} {u : BitVec 9} {res : State} (heq : execAdd p t u s = .next res) : res.sound := by
  exact execAlu_sound hc heq

theorem execAddi_sound {s : State} (hc : s.sound) {p : BitVec 2} {t : BitVec 9} {i : BitVec 13} {res : State} (heq : execAddi p t i s = .next res) : res.sound := by
  exact execAlu_sound hc heq

theorem execMul_sound {s : State} (hc : s.sound) {p : BitVec 2} {t : BitVec 9} {u : BitVec 9} {res : State} (heq : execMul p t u s = .next res) : res.sound := by
  exact execAlu_sound hc heq

theorem execMulh_sound {s : State} (hc : s.sound) {p : BitVec 2} {t : BitVec 9} {u : BitVec 9} {nn : BitVec 1} {res : State} (heq : execMulh p t u nn s = .next res) : res.sound := by
  exact execAlu_sound hc heq

theorem execDiv_sound {s : State} (hc : s.sound) {p : BitVec 2} {t : BitVec 9} {u : BitVec 9} {nn : BitVec 1} {res : State} (heq : execDiv p t u nn s = .next res) : res.sound := by
  exact execAlu_sound hc heq

theorem execRem_sound {s : State} (hc : s.sound) {p : BitVec 2} {t : BitVec 9} {u : BitVec 9} {nn : BitVec 1} {res : State} (heq : execRem p t u nn s = .next res) : res.sound := by
  exact execAlu_sound hc heq

theorem execMin_sound {s : State} (hc : s.sound) {p : BitVec 2} {t : BitVec 9} {u : BitVec 9} {nn : BitVec 1} {res : State} (heq : execMin p t u nn s = .next res) : res.sound := by
  exact execAlu_sound hc heq

theorem execMax_sound {s : State} (hc : s.sound) {p : BitVec 2} {t : BitVec 9} {u : BitVec 9} {nn : BitVec 1} {res : State} (heq : execMax p t u nn s = .next res) : res.sound := by
  exact execAlu_sound hc heq

theorem execAbs_sound {s : State} (hc : s.sound) {p : BitVec 2} {t : BitVec 9} {u : BitVec 9} {k : BitVec 1} {res : State} (heq : execAbs p t u k s = .next res) : res.sound := by
  exact execAlu_sound hc heq

theorem execNeg_sound {s : State} (hc : s.sound) {p : BitVec 2} {t : BitVec 9} {u : BitVec 9} {k : BitVec 1} {res : State} (heq : execNeg p t u k s = .next res) : res.sound := by
  exact execAlu_sound hc heq

theorem execLea_sound {s : State} (hc : s.sound) {p : BitVec 2} {t : BitVec 9} {u : BitVec 9} {k : BitVec 2} {res : State} (heq : execLea p t u k s = .next res) : res.sound := by
  exact execAlu_sound hc heq

theorem execAndB_sound {s : State} (hc : s.sound) {p : BitVec 2} {t : BitVec 9} {u : BitVec 9} {res : State} (heq : execAndB p t u s = .next res) : res.sound := by
  exact execAlu_sound hc heq

theorem execOrB_sound {s : State} (hc : s.sound) {p : BitVec 2} {t : BitVec 9} {u : BitVec 9} {res : State} (heq : execOrB p t u s = .next res) : res.sound := by
  exact execAlu_sound hc heq

theorem execXorB_sound {s : State} (hc : s.sound) {p : BitVec 2} {t : BitVec 9} {u : BitVec 9} {res : State} (heq : execXorB p t u s = .next res) : res.sound := by
  exact execAlu_sound hc heq

theorem execAndn_sound {s : State} (hc : s.sound) {p : BitVec 2} {t : BitVec 9} {u : BitVec 9} {res : State} (heq : execAndn p t u s = .next res) : res.sound := by
  exact execAlu_sound hc heq

theorem execNotB_sound {s : State} (hc : s.sound) {p : BitVec 2} {t : BitVec 9} {u : BitVec 9} {res : State} (heq : execNotB p t u s = .next res) : res.sound := by
  exact execAlu_sound hc heq

theorem execShl_sound {s : State} (hc : s.sound) {p : BitVec 2} {t : BitVec 9} {u : BitVec 9} {res : State} (heq : execShl p t u s = .next res) : res.sound := by
  exact execAlu_sound hc heq

theorem execShr_sound {s : State} (hc : s.sound) {p : BitVec 2} {t : BitVec 9} {u : BitVec 9} {res : State} (heq : execShr p t u s = .next res) : res.sound := by
  exact execAlu_sound hc heq

theorem execRot_sound {s : State} (hc : s.sound) {p : BitVec 2} {t : BitVec 9} {u : BitVec 9} {res : State} (heq : execRot p t u s = .next res) : res.sound := by
  exact execAlu_sound hc heq

theorem execClz_sound {s : State} (hc : s.sound) {p : BitVec 2} {t : BitVec 9} {u : BitVec 9} {res : State} (heq : execClz p t u s = .next res) : res.sound := by
  exact execAlu_sound hc heq

theorem execPopc_sound {s : State} (hc : s.sound) {p : BitVec 2} {t : BitVec 9} {u : BitVec 9} {res : State} (heq : execPopc p t u s = .next res) : res.sound := by
  exact execAlu_sound hc heq

theorem execBfx_sound {s : State} (hc : s.sound) {p : BitVec 2} {t : BitVec 9} {u : BitVec 9} {nn : BitVec 1} {res : State} (heq : execBfx p t u nn s = .next res) : res.sound := by
  exact execAlu_sound hc heq

theorem execBfi_sound {s : State} (hc : s.sound) {p : BitVec 2} {t : BitVec 9} {u : BitVec 9} {res : State} (heq : execBfi p t u s = .next res) : res.sound := by
  exact execAlu_sound hc heq

theorem execCmp_sound {s : State} (hc : s.sound) {p : BitVec 2} {t : BitVec 9} {u : BitVec 9} {cc : BitVec 3} {nn : BitVec 1} {res : State} (heq : execCmp p t u cc nn s = .next res) : res.sound := by
  exact execAlu_sound hc heq

theorem execSel_sound {s : State} (hc : s.sound) {p : BitVec 2} {t : BitVec 9} {u : BitVec 9} {res : State} (heq : execSel p t u s = .next res) : res.sound := by
  exact execAlu_sound hc heq

theorem execStks_sound {s : State} (hc : s.sound) {p : BitVec 2} {t : BitVec 9} {u : BitVec 9} {res : State} (heq : execStks p t u s = .next res) : res.sound := by
  exact execAlu_sound hc heq

theorem execStkc_sound {s : State} (hc : s.sound) {p : BitVec 2} {t : BitVec 9} {u : BitVec 9} {res : State} (heq : execStkc p t u s = .next res) : res.sound := by
  exact execAlu_sound hc heq

theorem execFadd_sound {s : State} (hc : s.sound) {p : BitVec 2} {t : BitVec 9} {u : BitVec 9} {res : State} (heq : execFadd p t u s = .next res) : res.sound := by
  exact execAlu_sound hc heq

theorem execFsub_sound {s : State} (hc : s.sound) {p : BitVec 2} {t : BitVec 9} {u : BitVec 9} {res : State} (heq : execFsub p t u s = .next res) : res.sound := by
  exact execAlu_sound hc heq

theorem execFmul_sound {s : State} (hc : s.sound) {p : BitVec 2} {t : BitVec 9} {u : BitVec 9} {res : State} (heq : execFmul p t u s = .next res) : res.sound := by
  exact execAlu_sound hc heq

theorem execFfma_sound {s : State} (hc : s.sound) {p : BitVec 2} {t : BitVec 9} {u : BitVec 9} {res : State} (heq : execFfma p t u s = .next res) : res.sound := by
  exact execAlu_sound hc heq

theorem execFmin_sound {s : State} (hc : s.sound) {p : BitVec 2} {t : BitVec 9} {u : BitVec 9} {res : State} (heq : execFmin p t u s = .next res) : res.sound := by
  exact execAlu_sound hc heq

theorem execFabs_sound {s : State} (hc : s.sound) {p : BitVec 2} {t : BitVec 9} {u : BitVec 9} {res : State} (heq : execFabs p t u s = .next res) : res.sound := by
  exact execAlu_sound hc heq

theorem execFneg_sound {s : State} (hc : s.sound) {p : BitVec 2} {t : BitVec 9} {u : BitVec 9} {res : State} (heq : execFneg p t u s = .next res) : res.sound := by
  exact execAlu_sound hc heq

theorem execFcmp_sound {s : State} (hc : s.sound) {p : BitVec 2} {t : BitVec 9} {u : BitVec 9} {cc : BitVec 3} {res : State} (heq : execFcmp p t u cc s = .next res) : res.sound := by
  exact execAlu_sound hc heq

theorem execFclass_sound {s : State} (hc : s.sound) {p : BitVec 2} {t : BitVec 9} {u : BitVec 9} {res : State} (heq : execFclass p t u s = .next res) : res.sound := by
  exact execAlu_sound hc heq

theorem execFexp2_sound {s : State} (hc : s.sound) {p : BitVec 2} {t : BitVec 9} {u : BitVec 9} {res : State} (heq : execFexp2 p t u s = .next res) : res.sound := by
  exact execAlu_sound hc heq

theorem execFlog2_sound {s : State} (hc : s.sound) {p : BitVec 2} {t : BitVec 9} {u : BitVec 9} {res : State} (heq : execFlog2 p t u s = .next res) : res.sound := by
  exact execAlu_sound hc heq

theorem execFrcp_sound {s : State} (hc : s.sound) {p : BitVec 2} {t : BitVec 9} {u : BitVec 9} {res : State} (heq : execFrcp p t u s = .next res) : res.sound := by
  exact execAlu_sound hc heq

theorem execFrsq_sound {s : State} (hc : s.sound) {p : BitVec 2} {t : BitVec 9} {u : BitVec 9} {res : State} (heq : execFrsq p t u s = .next res) : res.sound := by
  exact execAlu_sound hc heq

theorem execFtanh_sound {s : State} (hc : s.sound) {p : BitVec 2} {t : BitVec 9} {u : BitVec 9} {res : State} (heq : execFtanh p t u s = .next res) : res.sound := by
  exact execAlu_sound hc heq

theorem execCvt_sound {s : State} (hc : s.sound) {p : BitVec 2} {t : BitVec 9} {u : BitVec 9} {f : BitVec 4} {res : State} (heq : execCvt p t u f s = .next res) : res.sound := by
  exact execAlu_sound hc heq

theorem execNarrow_sound {s : State} (hc : s.sound) {p : BitVec 2} {t : BitVec 9} {u : BitVec 9} {f : BitVec 4} {res : State} (heq : execNarrow p t u f s = .next res) : res.sound := by
  exact execAlu_sound hc heq

theorem execFinal_sound {s : State} (hc : s.sound) {p : BitVec 2} {t : BitVec 9} {f : BitVec 4} {m : BitVec 3} {res : State} (heq : execFinal p t f m s = .next res) : res.sound := by
  exact execAlu_sound hc heq

theorem execMxsc_sound {s : State} (hc : s.sound) {p : BitVec 2} {t : BitVec 9} {u : BitVec 9} {f : BitVec 4} {res : State} (heq : execMxsc p t u f s = .next res) : res.sound := by
  exact execAlu_sound hc heq

theorem execDot8_sound {s : State} (hc : s.sound) {p : BitVec 2} {t : BitVec 9} {u : BitVec 9} {o : BitVec 1} {g : BitVec 2} {res : State} (heq : execDot8 p t u o g s = .next res) : res.sound := by
  exact execAlu_sound hc heq

theorem execShrp_sound {s : State} (hc : s.sound) {p : BitVec 2} {t : BitVec 9} {u : BitVec 9} {k : BitVec 1} {w : BitVec 2} {res : State} (heq : execShrp p t u k w s = .next res) : res.sound := by
  exact execAlu_sound hc heq

theorem execBperm_sound {s : State} (hc : s.sound) {p : BitVec 2} {t : BitVec 9} {u : BitVec 9} {res : State} (heq : execBperm p t u s = .next res) : res.sound := by
  exact execAlu_sound hc heq

theorem execSdmul_sound {s : State} (hc : s.sound) {p : BitVec 2} {t : BitVec 9} {u : BitVec 9} {res : State} (heq : execSdmul p t u s = .next res) : res.sound := by
  unfold execSdmul at heq
  refine execElem_sound hc heq ?_
  all_goals repeat' (with_reducible first | assumption | dsimp only | apply ElemCtx.sd_sound | refine foldl_sound ?_ (fun s x hx => ?_) | refine getD_sound (fun t ht => ?_) ?_ | split | intro x hlx | intro x)

theorem execSdcut_sound {s : State} (hc : s.sound) {p : BitVec 2} {t : BitVec 9} {u : BitVec 9} {res : State} (heq : execSdcut p t u s = .next res) : res.sound := by
  unfold execSdcut at heq
  refine execElem_sound hc heq ?_
  all_goals repeat' (with_reducible first | assumption | dsimp only | apply ElemCtx.sd_sound | refine foldl_sound ?_ (fun s x hx => ?_) | refine getD_sound (fun t ht => ?_) ?_ | split | intro x hlx | intro x)

theorem execSdcmp_sound {s : State} (hc : s.sound) {p : BitVec 2} {t : BitVec 9} {u : BitVec 9} {cc : BitVec 3} {res : State} (heq : execSdcmp p t u cc s = .next res) : res.sound := by
  unfold execSdcmp at heq
  refine execElem_sound hc heq ?_
  all_goals repeat' (with_reducible first | assumption | dsimp only | apply ElemCtx.sd_sound | refine foldl_sound ?_ (fun s x hx => ?_) | refine getD_sound (fun t ht => ?_) ?_ | split | intro x hlx | intro x)

theorem execSdtowf_sound {s : State} (hc : s.sound) {p : BitVec 2} {t : BitVec 9} {u : BitVec 9} {res : State} (heq : execSdtowf p t u s = .next res) : res.sound := by
  unfold execSdtowf at heq
  refine execElem_sound hc heq ?_
  all_goals repeat' (with_reducible first | assumption | dsimp only | apply ElemCtx.sd_sound | refine foldl_sound ?_ (fun s x hx => ?_) | refine getD_sound (fun t ht => ?_) ?_ | split | intro x hlx | intro x)

theorem execRng_sound {s : State} (hc : s.sound) {p : BitVec 2} {t : BitVec 9} {u : BitVec 9} {w : BitVec 1} {res : State} (heq : execRng p t u w s = .next res) : res.sound := by
  exact execAlu_sound hc heq

theorem execInPort_sound {s : State} (hc : s.sound) {p : BitVec 2} {t : BitVec 9} {n : BitVec 5} {k : BitVec 1} {j : BitVec 4} {res : State} (heq : execInPort p t n k j s = .next res) : res.sound := by
  unfold execInPort at heq
  refine execBoth_sound hc heq ?_ ?_
  all_goals repeat' (with_reducible first | assumption | dsimp only | apply CoreCtx.askGive_sound | apply CoreCtx.give_sound | apply ElemCtx.finish_sound | refine foldl_sound ?_ (fun s x hx => ?_) | refine getD_sound (fun t ht => ?_) ?_ | split | intro x hlx | intro x)

theorem execInCnt_sound {s : State} (hc : s.sound) {p : BitVec 2} {t : BitVec 9} {n : BitVec 5} {res : State} (heq : execInCnt p t n s = .next res) : res.sound := by
  unfold execInCnt at heq
  refine execCore_sound hc heq ?_
  all_goals repeat' (with_reducible first | assumption | dsimp only | apply CoreCtx.give_sound | refine foldl_sound ?_ (fun s x hx => ?_) | refine getD_sound (fun t ht => ?_) ?_ | split | intro x hlx)

theorem execInSpc_sound {s : State} (hc : s.sound) {p : BitVec 2} {t : BitVec 9} {n : BitVec 5} {res : State} (heq : execInSpc p t n s = .next res) : res.sound := by
  unfold execInSpc at heq
  refine execCore_sound hc heq ?_
  all_goals repeat' (with_reducible first | assumption | dsimp only | apply CoreCtx.give_sound | refine foldl_sound ?_ (fun s x hx => ?_) | refine getD_sound (fun t ht => ?_) ?_ | split | intro x hlx)

theorem execOutPort_sound {s : State} (hc : s.sound) {p : BitVec 2} {n : BitVec 8} {k : BitVec 1} {j : BitVec 4} {res : State} (heq : execOutPort p n k j s = .next res) : res.sound := by
  unfold execOutPort at heq
  refine execBoth_sound hc heq ?_ ?_
  all_goals repeat' (with_reducible first | assumption | dsimp only | apply CoreCtx.askWith_sound | apply ElemCtx.out_sound | refine foldl_sound ?_ (fun s x hx => ?_) | refine getD_sound (fun t ht => ?_) ?_ | split | intro x hlx | intro x)

theorem execOutm_sound {s : State} (hc : s.sound) {p : BitVec 2} {n : BitVec 8} {k : BitVec 1} {j : BitVec 4} {res : State} (heq : execOutm p n k j s = .next res) : res.sound := by
  unfold execOutm at heq
  refine execBoth_sound hc heq ?_ ?_
  all_goals repeat' (with_reducible first | assumption | dsimp only | apply CoreCtx.askWith_sound | apply ElemCtx.out_sound | refine foldl_sound ?_ (fun s x hx => ?_) | refine getD_sound (fun t ht => ?_) ?_ | split | intro x hlx | intro x)

theorem execMrk_sound {s : State} (hc : s.sound) {p : BitVec 2} {n : BitVec 8} {k : BitVec 1} {j : BitVec 4} {res : State} (heq : execMrk p n k j s = .next res) : res.sound := by
  unfold execMrk at heq
  refine execBoth_sound hc heq ?_ ?_
  all_goals repeat' (with_reducible first | assumption | dsimp only | apply CoreCtx.ask_sound | apply ElemCtx.mark_sound | refine foldl_sound ?_ (fun s x hx => ?_) | refine getD_sound (fun t ht => ?_) ?_ | split | intro x hlx | intro x)

theorem execSegn_sound {s : State} (hc : s.sound) {p : BitVec 2} {n : BitVec 8} {q : BitVec 5} {res : State} (heq : execSegn p n q s = .next res) : res.sound := by
  unfold execSegn at heq
  refine execBoth_sound hc heq ?_ ?_
  all_goals repeat' (with_reducible first | assumption | dsimp only | apply CoreCtx.ask_sound | apply ElemCtx.mark_sound | refine foldl_sound ?_ (fun s x hx => ?_) | refine getD_sound (fun t ht => ?_) ?_ | split | intro x hlx | intro x)

theorem execRsum_sound {s : State} (hc : s.sound) {p : BitVec 2} {t : BitVec 9} {u : BitVec 9} {y : BitVec 2} {r : BitVec 2} {res : State} (heq : execRsum p t u y r s = .next res) : res.sound := by
  unfold execRsum at heq
  refine execElem_sound hc heq ?_
  all_goals repeat' (with_reducible first | assumption | dsimp only | apply ElemCtx.reduce_sound | refine foldl_sound ?_ (fun s x hx => ?_) | refine getD_sound (fun t ht => ?_) ?_ | split | intro x hlx | intro x)

theorem execRmax_sound {s : State} (hc : s.sound) {p : BitVec 2} {t : BitVec 9} {u : BitVec 9} {y : BitVec 2} {r : BitVec 2} {res : State} (heq : execRmax p t u y r s = .next res) : res.sound := by
  unfold execRmax at heq
  refine execElem_sound hc heq ?_
  all_goals repeat' (with_reducible first | assumption | dsimp only | apply ElemCtx.reduce_sound | refine foldl_sound ?_ (fun s x hx => ?_) | refine getD_sound (fun t ht => ?_) ?_ | split | intro x hlx | intro x)

theorem execRmin_sound {s : State} (hc : s.sound) {p : BitVec 2} {t : BitVec 9} {u : BitVec 9} {y : BitVec 2} {r : BitVec 2} {res : State} (heq : execRmin p t u y r s = .next res) : res.sound := by
  unfold execRmin at heq
  refine execElem_sound hc heq ?_
  all_goals repeat' (with_reducible first | assumption | dsimp only | apply ElemCtx.reduce_sound | refine foldl_sound ?_ (fun s x hx => ?_) | refine getD_sound (fun t ht => ?_) ?_ | split | intro x hlx | intro x)

theorem execStrmMem_sound {s : State} (hc : s.sound) {p : BitVec 2} {l : BitVec 5} {d : BitVec 1} {n : BitVec 5} {res : State} (heq : execStrmMem p l d n s = .next res) : res.sound := by
  unfold execStrmMem at heq
  refine execCore_sound hc heq ?_
  all_goals repeat' (with_reducible first | assumption | dsimp only | apply CoreCtx.illegal_sound | apply CoreCtx.checked_sound | apply CoreCtx.ask_sound | refine foldl_sound ?_ (fun s x hx => ?_) | refine getD_sound (fun t ht => ?_) ?_ | split | intro x hlx | intro x)

theorem execStrmTile_sound {s : State} (hc : s.sound) {p : BitVec 2} {l : BitVec 5} {d : BitVec 1} {n : BitVec 5} {res : State} (heq : execStrmTile p l d n s = .next res) : res.sound := by
  unfold execStrmTile at heq
  refine execCore_sound hc heq ?_
  all_goals repeat' (with_reducible first | assumption | dsimp only | apply CoreCtx.illegal_sound | apply CoreCtx.ask_sound | refine foldl_sound ?_ (fun s x hx => ?_) | refine getD_sound (fun t ht => ?_) ?_ | split | intro x hlx)

theorem execStrmAcc_sound {s : State} (hc : s.sound) {p : BitVec 2} {n : BitVec 8} {z : BitVec 1} {o : BitVec 2} {k : BitVec 2} {res : State} (heq : execStrmAcc p n z o k s = .next res) : res.sound := by
  unfold execStrmAcc at heq
  refine execCore_sound hc heq ?_
  all_goals repeat' (with_reducible first | assumption | dsimp only | apply CoreCtx.ask_sound | refine foldl_sound ?_ (fun s x hx => ?_) | refine getD_sound (fun t ht => ?_) ?_ | split | intro x hlx)

theorem execRecGet_sound {s : State} (hc : s.sound) {p : BitVec 2} {t : BitVec 9} {u : BitVec 9} {k : BitVec 4} {res : State} (heq : execRecGet p t u k s = .next res) : res.sound := by
  unfold execRecGet at heq
  refine execElem_sound hc heq ?_
  all_goals repeat' (with_reducible first | assumption | dsimp only | apply ElemCtx.record_sound | refine foldl_sound ?_ (fun s x hx => ?_) | refine getD_sound (fun t ht => ?_) ?_ | split | intro x hlx | intro x)

theorem execRecSet_sound {s : State} (hc : s.sound) {p : BitVec 2} {t : BitVec 9} {u : BitVec 9} {k : BitVec 4} {res : State} (heq : execRecSet p t u k s = .next res) : res.sound := by
  unfold execRecSet at heq
  refine execElem_sound hc heq ?_
  all_goals repeat' (with_reducible first | assumption | dsimp only | apply ElemCtx.record_sound | refine foldl_sound ?_ (fun s x hx => ?_) | refine getD_sound (fun t ht => ?_) ?_ | split | intro x hlx | intro x)

theorem execRecNew_sound {s : State} (hc : s.sound) {p : BitVec 2} {t : BitVec 9} {u : BitVec 9} {n : BitVec 4} {res : State} (heq : execRecNew p t u n s = .next res) : res.sound := by
  unfold execRecNew at heq
  refine execElem_sound hc heq ?_
  all_goals repeat' (with_reducible first | assumption | dsimp only | apply ElemCtx.finish_sound | refine foldl_sound ?_ (fun s x hx => ?_) | refine getD_sound (fun t ht => ?_) ?_ | split | intro x hlx | intro x)

theorem execRecRej_sound {s : State} (hc : s.sound) {p : BitVec 2} {t : BitVec 9} {u : BitVec 9} {_k : BitVec 3} {res : State} (heq : execRecRej p t u _k s = .next res) : res.sound := by
  unfold execRecRej at heq
  refine execElem_sound hc heq ?_
  all_goals repeat' (with_reducible first | assumption | dsimp only | apply ElemCtx.record_sound | refine foldl_sound ?_ (fun s x hx => ?_) | refine getD_sound (fun t ht => ?_) ?_ | split | intro x hlx | intro x)

theorem execSteer_sound {s : State} (hc : s.sound) {p : BitVec 2} {t : BitVec 9} {u : BitVec 9} {o : BitVec 1} {q : BitVec 2} {res : State} (heq : execSteer p t u o q s = .next res) : res.sound := by
  unfold execSteer at heq
  refine execElem_sound hc heq ?_
  all_goals repeat' (with_reducible first | assumption | dsimp only | apply ElemCtx.mark_sound | refine foldl_sound ?_ (fun s x hx => ?_) | refine getD_sound (fun t ht => ?_) ?_ | split | intro x hlx | intro x)

theorem execMerge_sound {s : State} (hc : s.sound) {p : BitVec 2} {t : BitVec 9} {u : BitVec 9} {_m : BitVec 4} {res : State} (heq : execMerge p t u _m s = .next res) : res.sound := by
  unfold execMerge at heq
  refine execElem_sound hc heq ?_
  all_goals repeat' (with_reducible first | assumption | dsimp only | apply ElemCtx.join_sound | refine foldl_sound ?_ (fun s x hx => ?_) | refine getD_sound (fun t ht => ?_) ?_ | split | intro x hlx | intro x)

theorem execOmerge_sound {s : State} (hc : s.sound) {p : BitVec 2} {t : BitVec 9} {u : BitVec 9} {res : State} (heq : execOmerge p t u s = .next res) : res.sound := by
  unfold execOmerge at heq
  refine execElem_sound hc heq ?_
  all_goals repeat' (with_reducible first | assumption | dsimp only | apply ElemCtx.join_sound | refine foldl_sound ?_ (fun s x hx => ?_) | refine getD_sound (fun t ht => ?_) ?_ | split | intro x hlx | intro x)

theorem execRecirc_sound {s : State} (hc : s.sound) {p : BitVec 2} {t : BitVec 9} {u : BitVec 9} {res : State} (heq : execRecirc p t u s = .next res) : res.sound := by
  unfold execRecirc at heq
  refine execElem_sound hc heq ?_
  all_goals repeat' (with_reducible first | assumption | dsimp only | apply ElemCtx.join_sound | refine foldl_sound ?_ (fun s x hx => ?_) | refine getD_sound (fun t ht => ?_) ?_ | split | intro x hlx | intro x)

theorem execCtxsw_sound {s : State} (hc : s.sound) {p : BitVec 2} {n : BitVec 8} {c : BitVec 2} {res : State} (heq : execCtxsw p n c s = .next res) : res.sound := by
  unfold execCtxsw at heq
  refine execBoth_sound hc heq ?_ ?_
  all_goals repeat' (with_reducible first | assumption | dsimp only | apply CoreCtx.ask_sound | apply ElemCtx.mark_sound | refine foldl_sound ?_ (fun s x hx => ?_) | refine getD_sound (fun t ht => ?_) ?_ | split | intro x hlx | intro x)

theorem execFgstage_sound {s : State} (hc : s.sound) {p : BitVec 2} {res : State} (heq : execFgstage p s = .next res) : res.sound := by
  unfold execFgstage at heq
  refine execCore_sound hc heq ?_
  all_goals repeat' (with_reducible first | assumption | dsimp only | apply CoreCtx.ask_sound | refine foldl_sound ?_ (fun s x hx => ?_) | refine getD_sound (fun t ht => ?_) ?_ | split | intro x hlx)

theorem execFgstat_sound {s : State} (hc : s.sound) {p : BitVec 2} {t : BitVec 9} {_u : BitVec 9} {f : BitVec 4} {res : State} (heq : execFgstat p t _u f s = .next res) : res.sound := by
  unfold execFgstat at heq
  refine execCore_sound hc heq ?_
  all_goals repeat' (with_reducible first | assumption | dsimp only | apply CoreCtx.give_sound | refine foldl_sound ?_ (fun s x hx => ?_) | refine getD_sound (fun t ht => ?_) ?_ | split | intro x hlx)

theorem execLdi_sound {s : State} (hc : s.sound) {p : BitVec 2} {_t : BitVec 9} {l : BitVec 5} {y : BitVec 4} {res : State} (heq : execLdi p _t l y s = .next res) : res.sound := by
  unfold execLdi at heq
  refine execCore_sound hc heq ?_
  all_goals repeat' (with_reducible first | assumption | dsimp only | apply CoreCtx.checked_sound | apply CoreCtx.read_sound | refine foldl_sound ?_ (fun s x hx => ?_) | refine getD_sound (fun t ht => ?_) ?_ | split | intro x hlx | intro x)

theorem execLda_sound {s : State} (hc : s.sound) {p : BitVec 2} {_t : BitVec 9} {l : BitVec 5} {y : BitVec 4} {c : BitVec 3} {res : State} (heq : execLda p _t l y c s = .next res) : res.sound := by
  unfold execLda at heq
  refine execCore_sound hc heq ?_
  all_goals repeat' (with_reducible first | assumption | dsimp only | apply CoreCtx.load_sound | refine foldl_sound ?_ (fun s x hx => ?_) | refine getD_sound (fun t ht => ?_) ?_ | split | intro x hlx)

theorem execSt_sound {s : State} (hc : s.sound) {p : BitVec 2} {l : BitVec 5} {y : BitVec 4} {m : BitVec 3} {res : State} (heq : execSt p l y m s = .next res) : res.sound := by
  unfold execSt at heq
  refine execCore_sound hc heq ?_
  all_goals repeat' (with_reducible first | assumption | dsimp only | apply CoreCtx.storeElem_sound | refine foldl_sound ?_ (fun s x hx => ?_) | refine getD_sound (fun t ht => ?_) ?_ | split | intro x hlx)

theorem execStl_sound {s : State} (hc : s.sound) {p : BitVec 2} {l : BitVec 5} {y : BitVec 4} {m : BitVec 3} {c : BitVec 3} {res : State} (heq : execStl p l y m c s = .next res) : res.sound := by
  unfold execStl at heq
  refine execCore_sound hc heq ?_
  all_goals repeat' (with_reducible first | assumption | dsimp only | apply CoreCtx.storeElem_sound | refine foldl_sound ?_ (fun s x hx => ?_) | refine getD_sound (fun t ht => ?_) ?_ | split | intro x hlx)

theorem execStimg_sound {s : State} (hc : s.sound) {p : BitVec 2} {l : BitVec 5} {k : BitVec 1} {res : State} (heq : execStimg p l k s = .next res) : res.sound := by
  unfold execStimg at heq
  refine execCore_sound hc heq ?_
  all_goals repeat' (with_reducible first | assumption | dsimp only | apply CoreCtx.checked_sound | apply CoreCtx.ask_sound | apply CoreCtx.fail_sound | refine foldl_sound ?_ (fun s x hx => ?_) | refine getD_sound (fun t ht => ?_) ?_ | split | intro x hlx | intro x)

theorem execTill_sound {s : State} (hc : s.sound) {p : BitVec 2} {l : BitVec 5} {res : State} (heq : execTill p l s = .next res) : res.sound := by
  unfold execTill at heq
  refine execCore_sound hc heq ?_
  all_goals repeat' (with_reducible first | assumption | dsimp only | apply CoreCtx.tillLines_sound | refine foldl_sound ?_ (fun s x hx => ?_) | refine getD_sound (fun t ht => ?_) ?_ | split | intro x hlx)

theorem execTillg_sound {s : State} (hc : s.sound) {p : BitVec 2} {l : BitVec 5} {res : State} (heq : execTillg p l s = .next res) : res.sound := by
  unfold execTillg at heq
  refine execCore_sound hc heq ?_
  all_goals repeat' (with_reducible first | assumption | dsimp only | apply CoreCtx.tillLines_sound | refine foldl_sound ?_ (fun s x hx => ?_) | refine getD_sound (fun t ht => ?_) ?_ | split | intro x hlx)

theorem execPres_sound {s : State} (hc : s.sound) {p : BitVec 2} {_t : BitVec 9} {l : BitVec 5} {res : State} (heq : execPres p _t l s = .next res) : res.sound := by
  unfold execPres at heq
  refine execCore_sound hc heq ?_
  all_goals repeat' (with_reducible first | assumption | dsimp only | apply CoreCtx.fail_sound | apply CoreCtx.checked_sound | apply CoreCtx.read_sound | refine foldl_sound ?_ (fun s x hx => ?_) | refine getD_sound (fun t ht => ?_) ?_ | split | intro x hlx | intro x)

theorem execAtom_sound {s : State} (hc : s.sound) {p : BitVec 2} {t : BitVec 9} {l : BitVec 5} {o : BitVec 3} {w : BitVec 1} {a : BitVec 2} {sc : BitVec 2} {res : State} (heq : execAtom p t l o w a sc s = .next res) : res.sound := by
  unfold execAtom at heq
  refine execCore_sound hc heq ?_
  all_goals repeat' (with_reducible first | assumption | dsimp only | apply CoreCtx.atomic_sound | refine foldl_sound ?_ (fun s x hx => ?_) | refine getD_sound (fun t ht => ?_) ?_ | split | intro x hlx)

theorem execCpyl_sound {s : State} (hc : s.sound) {p : BitVec 2} {l : BitVec 5} {e : BitVec 3} {res : State} (heq : execCpyl p l e s = .next res) : res.sound := by
  unfold execCpyl at heq
  refine execCore_sound hc heq ?_
  all_goals repeat' (with_reducible first | assumption | dsimp only | apply CoreCtx.request_sound | refine foldl_sound ?_ (fun s x hx => ?_) | refine getD_sound (fun t ht => ?_) ?_ | split | intro x hlx)

theorem execScat_sound {s : State} (hc : s.sound) {p : BitVec 2} {l : BitVec 5} {e : BitVec 2} {res : State} (heq : execScat p l e s = .next res) : res.sound := by
  unfold execScat at heq
  refine execCore_sound hc heq ?_
  all_goals repeat' (with_reducible first | assumption | dsimp only | apply CoreCtx.request_sound | refine foldl_sound ?_ (fun s x hx => ?_) | refine getD_sound (fun t ht => ?_) ?_ | split | intro x hlx)

theorem execColl_sound {s : State} (hc : s.sound) {p : BitVec 2} {l : BitVec 5} {res : State} (heq : execColl p l s = .next res) : res.sound := by
  unfold execColl at heq
  refine execCore_sound hc heq ?_
  all_goals repeat' (with_reducible first | assumption | dsimp only | apply CoreCtx.request_sound | refine foldl_sound ?_ (fun s x hx => ?_) | refine getD_sound (fun t ht => ?_) ?_ | split | intro x hlx)

theorem execResp_sound {s : State} (hc : s.sound) {p : BitVec 2} {t : BitVec 9} {l : BitVec 5} {e : BitVec 4} {res : State} (heq : execResp p t l e s = .next res) : res.sound := by
  unfold execResp at heq
  refine execCore_sound hc heq ?_
  all_goals repeat' (with_reducible first | assumption | dsimp only | apply CoreCtx.ask_sound | apply CoreCtx.askGive_sound | refine foldl_sound ?_ (fun s x hx => ?_) | refine getD_sound (fun t ht => ?_) ?_ | split | intro x hlx)

theorem execXfence_sound {s : State} (hc : s.sound) {p : BitVec 2} {t : BitVec 9} {l : BitVec 5} {c : BitVec 3} {res : State} (heq : execXfence p t l c s = .next res) : res.sound := by
  unfold execXfence at heq
  refine execCore_sound hc heq ?_
  all_goals repeat' (with_reducible first | assumption | dsimp only | apply CoreCtx.askGive_sound | refine foldl_sound ?_ (fun s x hx => ?_) | refine getD_sound (fun t ht => ?_) ?_ | split | intro x hlx)

theorem execXwait_sound {s : State} (hc : s.sound) {p : BitVec 2} {l : BitVec 5} {res : State} (heq : execXwait p l s = .next res) : res.sound := by
  unfold execXwait at heq
  refine execCore_sound hc heq ?_
  all_goals repeat' (with_reducible first | assumption | dsimp only | apply CoreCtx.ask_sound | refine foldl_sound ?_ (fun s x hx => ?_) | refine getD_sound (fun t ht => ?_) ?_ | split | intro x hlx)

theorem execTld_sound {s : State} (hc : s.sound) {p : BitVec 2} {l : BitVec 5} {k : BitVec 4} {res : State} (heq : execTld p l k s = .next res) : res.sound := by
  unfold execTld at heq
  refine execCore_sound hc heq ?_
  all_goals repeat' (with_reducible first | assumption | dsimp only | apply CoreCtx.moveTile_sound | refine foldl_sound ?_ (fun s x hx => ?_) | refine getD_sound (fun t ht => ?_) ?_ | split | intro x hlx)

theorem execTst_sound {s : State} (hc : s.sound) {p : BitVec 2} {l : BitVec 5} {k : BitVec 4} {res : State} (heq : execTst p l k s = .next res) : res.sound := by
  unfold execTst at heq
  refine execCore_sound hc heq ?_
  all_goals repeat' (with_reducible first | assumption | dsimp only | apply CoreCtx.moveTile_sound | refine foldl_sound ?_ (fun s x hx => ?_) | refine getD_sound (fun t ht => ?_) ?_ | split | intro x hlx)

theorem execTmov_sound {s : State} (hc : s.sound) {p : BitVec 2} {k : BitVec 4} {res : State} (heq : execTmov p k s = .next res) : res.sound := by
  unfold execTmov at heq
  refine execCore_sound hc heq ?_
  all_goals repeat' (with_reducible first | assumption | dsimp only | apply CoreCtx.tileOp_sound | refine foldl_sound ?_ (fun s x hx => ?_) | refine getD_sound (fun t ht => ?_) ?_ | split | intro x hlx)

theorem execTfill_sound {s : State} (hc : s.sound) {p : BitVec 2} {k : BitVec 4} {res : State} (heq : execTfill p k s = .next res) : res.sound := by
  unfold execTfill at heq
  refine execCore_sound hc heq ?_
  all_goals repeat' (with_reducible first | assumption | dsimp only | apply CoreCtx.tileOp_sound | refine foldl_sound ?_ (fun s x hx => ?_) | refine getD_sound (fun t ht => ?_) ?_ | split | intro x hlx)

theorem execWloadT_sound {s : State} (hc : s.sound) {p : BitVec 2} {res : State} (heq : execWloadT p s = .next res) : res.sound := by
  unfold execWloadT at heq
  refine execCore_sound hc heq ?_
  all_goals repeat' (with_reducible first | assumption | dsimp only | apply CoreCtx.tileOp_sound | refine foldl_sound ?_ (fun s x hx => ?_) | refine getD_sound (fun t ht => ?_) ?_ | split | intro x hlx)

theorem execWswap_sound {s : State} (hc : s.sound) {p : BitVec 2} {res : State} (heq : execWswap p s = .next res) : res.sound := by
  unfold execWswap at heq
  refine execCore_sound hc heq ?_
  all_goals repeat' (with_reducible first | assumption | dsimp only | apply CoreCtx.tileOp_sound | refine foldl_sound ?_ (fun s x hx => ?_) | refine getD_sound (fun t ht => ?_) ?_ | split | intro x hlx)

theorem execMma_sound {s : State} (hc : s.sound) {p : BitVec 2} {k : BitVec 4} {res : State} (heq : execMma p k s = .next res) : res.sound := by
  unfold execMma at heq
  refine execCore_sound hc heq ?_
  all_goals repeat' (with_reducible first | assumption | dsimp only | apply CoreCtx.tileOp_sound | refine foldl_sound ?_ (fun s x hx => ?_) | refine getD_sound (fun t ht => ?_) ?_ | split | intro x hlx)

theorem execMmas_sound {s : State} (hc : s.sound) {p : BitVec 2} {k : BitVec 4} {res : State} (heq : execMmas p k s = .next res) : res.sound := by
  unfold execMmas at heq
  refine execCore_sound hc heq ?_
  all_goals repeat' (with_reducible first | assumption | dsimp only | apply CoreCtx.tileOp_sound | refine foldl_sound ?_ (fun s x hx => ?_) | refine getD_sound (fun t ht => ?_) ?_ | split | intro x hlx)

theorem execSortcfg_sound {s : State} (hc : s.sound) {p : BitVec 2} {res : State} (heq : execSortcfg p s = .next res) : res.sound := by
  unfold execSortcfg at heq
  refine execCore_sound hc heq ?_
  all_goals repeat' (with_reducible first | assumption | dsimp only | apply CoreCtx.ask_sound | apply CoreCtx.illegal_sound | refine foldl_sound ?_ (fun s x hx => ?_) | refine getD_sound (fun t ht => ?_) ?_ | split | intro x hlx)

theorem execTopk_sound {s : State} (hc : s.sound) {p : BitVec 2} {k : BitVec 4} {res : State} (heq : execTopk p k s = .next res) : res.sound := by
  unfold execTopk at heq
  refine execCore_sound hc heq ?_
  all_goals repeat' (with_reducible first | assumption | dsimp only | apply CoreCtx.tileOp_sound | refine foldl_sound ?_ (fun s x hx => ?_) | refine getD_sound (fun t ht => ?_) ?_ | split | intro x hlx)

theorem execGuess_sound {s : State} (hc : s.sound) {p : BitVec 2} {res : State} (heq : execGuess p s = .next res) : res.sound := by
  unfold execGuess at heq
  refine execElem_sound hc heq ?_
  all_goals repeat' (with_reducible first | assumption | dsimp only | apply ElemCtx.mark_sound | refine foldl_sound ?_ (fun s x hx => ?_) | refine getD_sound (fun t ht => ?_) ?_ | split | intro x hlx | intro x)

theorem execGenofIn_sound {s : State} (hc : s.sound) {p : BitVec 2} {t : BitVec 9} {u : BitVec 9} {res : State} (heq : execGenofIn p t u s = .next res) : res.sound := by
  unfold execGenofIn at heq
  refine execBoth_sound hc heq ?_ ?_
  all_goals repeat' (with_reducible first | assumption | dsimp only | apply CoreCtx.finish_sound | apply ElemCtx.finish_sound | refine foldl_sound ?_ (fun s x hx => ?_) | refine getD_sound (fun t ht => ?_) ?_ | split | intro x hlx | intro x)

theorem execGenofPrec_sound {s : State} (hc : s.sound) {p : BitVec 2} {t : BitVec 9} {u : BitVec 9} {res : State} (heq : execGenofPrec p t u s = .next res) : res.sound := by
  exact execAlu_sound hc heq

theorem execPrune_sound {s : State} (hc : s.sound) {p : BitVec 2} {l : BitVec 5} {f : BitVec 1} {r : BitVec 1} {res : State} (heq : execPrune p l f r s = .next res) : res.sound := by
  unfold execPrune at heq
  refine execCore_sound hc heq ?_
  all_goals repeat' (with_reducible first | assumption | dsimp only | apply CoreCtx.laneAsk_sound | refine foldl_sound ?_ (fun s x hx => ?_) | refine getD_sound (fun t ht => ?_) ?_ | split | intro x hlx)

theorem execSeqOpen_sound {s : State} (hc : s.sound) {p : BitVec 2} {l : BitVec 5} {res : State} (heq : execSeqOpen p l s = .next res) : res.sound := by
  unfold execSeqOpen at heq
  refine execCore_sound hc heq ?_
  all_goals repeat' (with_reducible first | assumption | dsimp only | apply CoreCtx.laneAsk_sound | refine foldl_sound ?_ (fun s x hx => ?_) | refine getD_sound (fun t ht => ?_) ?_ | split | intro x hlx)

theorem execSeqClose_sound {s : State} (hc : s.sound) {p : BitVec 2} {l : BitVec 5} {res : State} (heq : execSeqClose p l s = .next res) : res.sound := by
  unfold execSeqClose at heq
  refine execCore_sound hc heq ?_
  all_goals repeat' (with_reducible first | assumption | dsimp only | apply CoreCtx.laneAsk_sound | refine foldl_sound ?_ (fun s x hx => ?_) | refine getD_sound (fun t ht => ?_) ?_ | split | intro x hlx)

theorem execBarInit_sound {s : State} (hc : s.sound) {p : BitVec 2} {l : BitVec 5} {c : BitVec 3} {b : BitVec 4} {res : State} (heq : execBarInit p l c b s = .next res) : res.sound := by
  unfold execBarInit at heq
  refine execCore_sound hc heq ?_
  all_goals repeat' (with_reducible first | assumption | dsimp only | apply CoreCtx.illegal_sound | apply CoreCtx.ask_sound | refine foldl_sound ?_ (fun s x hx => ?_) | refine getD_sound (fun t ht => ?_) ?_ | split | intro x hlx)

theorem execBarArr_sound {s : State} (hc : s.sound) {p : BitVec 2} {l : BitVec 5} {c : BitVec 3} {b : BitVec 4} {res : State} (heq : execBarArr p l c b s = .next res) : res.sound := by
  unfold execBarArr at heq
  refine execCore_sound hc heq ?_
  all_goals repeat' (with_reducible first | assumption | dsimp only | apply CoreCtx.ask_sound | refine foldl_sound ?_ (fun s x hx => ?_) | refine getD_sound (fun t ht => ?_) ?_ | split | intro x hlx)

theorem execBarWait_sound {s : State} (hc : s.sound) {p : BitVec 2} {l : BitVec 5} {c : BitVec 3} {b : BitVec 4} {res : State} (heq : execBarWait p l c b s = .next res) : res.sound := by
  unfold execBarWait at heq
  refine execCore_sound hc heq ?_
  all_goals repeat' (with_reducible first | assumption | dsimp only | apply CoreCtx.ask_sound | refine foldl_sound ?_ (fun s x hx => ?_) | refine getD_sound (fun t ht => ?_) ?_ | split | intro x hlx)

theorem execSpawn_sound {s : State} (hc : s.sound) {p : BitVec 2} {l : BitVec 5} {res : State} (heq : execSpawn p l s = .next res) : res.sound := by
  unfold execSpawn at heq
  refine execCore_sound hc heq ?_
  all_goals repeat' (with_reducible first | assumption | dsimp only | apply CoreCtx.illegal_sound | apply CoreCtx.ask_sound | refine foldl_sound ?_ (fun s x hx => ?_) | refine getD_sound (fun t ht => ?_) ?_ | split | intro x hlx)

theorem execGraise_sound {s : State} (hc : s.sound) {p : BitVec 2} {_t : BitVec 9} {l : BitVec 5} {res : State} (heq : execGraise p _t l s = .next res) : res.sound := by
  unfold execGraise at heq
  refine execCore_sound hc heq ?_
  all_goals repeat' (with_reducible first | assumption | dsimp only | apply CoreCtx.ask_sound | refine foldl_sound ?_ (fun s x hx => ?_) | refine getD_sound (fun t ht => ?_) ?_ | split | intro x hlx)

theorem execGidxIdx_sound {s : State} (hc : s.sound) {p : BitVec 2} {t : BitVec 9} {res : State} (heq : execGidxIdx p t s = .next res) : res.sound := by
  unfold execGidxIdx at heq
  refine execCore_sound hc heq ?_
  all_goals repeat' (with_reducible first | assumption | dsimp only | apply CoreCtx.give_sound | refine foldl_sound ?_ (fun s x hx => ?_) | refine getD_sound (fun t ht => ?_) ?_ | split | intro x hlx)

theorem execGidxCnt_sound {s : State} (hc : s.sound) {p : BitVec 2} {t : BitVec 9} {res : State} (heq : execGidxCnt p t s = .next res) : res.sound := by
  unfold execGidxCnt at heq
  refine execCore_sound hc heq ?_
  all_goals repeat' (with_reducible first | assumption | dsimp only | apply CoreCtx.give_sound | refine foldl_sound ?_ (fun s x hx => ?_) | refine getD_sound (fun t ht => ?_) ?_ | split | intro x hlx)

theorem execTdone_sound {s : State} (hc : s.sound) {p : BitVec 2} {l : BitVec 5} {j : BitVec 3} {res : State} (heq : execTdone p l j s = .next res) : res.sound := by
  unfold execTdone at heq
  refine execCore_sound hc heq ?_
  all_goals repeat' (with_reducible first | assumption | dsimp only | apply CoreCtx.ask_sound | refine foldl_sound ?_ (fun s x hx => ?_) | refine getD_sound (fun t ht => ?_) ?_ | split | intro x hlx)

theorem execTrap_sound {s : State} (hc : s.sound) {p : BitVec 2} {i : BitVec 13} {res : State} (heq : execTrap p i s = .next res) : res.sound := by
  unfold execTrap at heq
  refine execCore_sound hc heq ?_
  all_goals repeat' (with_reducible first | assumption | dsimp only | apply CoreCtx.ask_sound | refine foldl_sound ?_ (fun s x hx => ?_) | refine getD_sound (fun t ht => ?_) ?_ | split | intro x hlx)

theorem execCkptCont_sound {s : State} (hc : s.sound) {p : BitVec 2} {l : BitVec 5} {res : State} (heq : execCkptCont p l s = .next res) : res.sound := by
  unfold execCkptCont at heq
  refine execCore_sound hc heq ?_
  all_goals repeat' (with_reducible first | assumption | dsimp only | apply CoreCtx.checkpoint_sound | refine foldl_sound ?_ (fun s x hx => ?_) | refine getD_sound (fun t ht => ?_) ?_ | split | intro x hlx)

theorem execCkptYield_sound {s : State} (hc : s.sound) {p : BitVec 2} {l : BitVec 5} {res : State} (heq : execCkptYield p l s = .next res) : res.sound := by
  unfold execCkptYield at heq
  refine execCore_sound hc heq ?_
  all_goals repeat' (with_reducible first | assumption | dsimp only | apply CoreCtx.checkpoint_sound | refine foldl_sound ?_ (fun s x hx => ?_) | refine getD_sound (fun t ht => ?_) ?_ | split | intro x hlx)

theorem execTlbi_sound {s : State} (hc : s.sound) {p : BitVec 2} {l : BitVec 5} {k : BitVec 2} {c : BitVec 3} {res : State} (heq : execTlbi p l k c s = .next res) : res.sound := by
  unfold execTlbi at heq
  refine execCore_sound hc heq ?_
  all_goals repeat' (with_reducible first | assumption | dsimp only | apply CoreCtx.fail_sound | apply CoreCtx.ask_sound | refine foldl_sound ?_ (fun s x hx => ?_) | refine getD_sound (fun t ht => ?_) ?_ | split | intro x hlx)

theorem execPerfRd_sound {s : State} (hc : s.sound) {p : BitVec 2} {t : BitVec 9} {_u : BitVec 9} {res : State} (heq : execPerfRd p t _u s = .next res) : res.sound := by
  unfold execPerfRd at heq
  refine execCore_sound hc heq ?_
  all_goals repeat' (with_reducible first | assumption | dsimp only | apply CoreCtx.give_sound | refine foldl_sound ?_ (fun s x hx => ?_) | refine getD_sound (fun t ht => ?_) ?_ | split | intro x hlx)

theorem execHaltdStop_sound {s : State} (hc : s.sound) {p : BitVec 2} {res : State} (heq : execHaltdStop p s = .next res) : res.sound := by
  unfold execHaltdStop at heq
  refine execCore_sound hc heq ?_
  all_goals repeat' (with_reducible first | assumption | dsimp only | apply CoreCtx.ask_sound | refine foldl_sound ?_ (fun s x hx => ?_) | refine getD_sound (fun t ht => ?_) ?_ | split | intro x hlx)

theorem execHaltdFrz_sound {s : State} (hc : s.sound) {p : BitVec 2} {res : State} (heq : execHaltdFrz p s = .next res) : res.sound := by
  unfold execHaltdFrz at heq
  refine execCore_sound hc heq ?_
  all_goals repeat' (with_reducible first | assumption | dsimp only | apply CoreCtx.ask_sound | refine foldl_sound ?_ (fun s x hx => ?_) | refine getD_sound (fun t ht => ?_) ?_ | split | intro x hlx)

theorem execCrossDieTimeout_sound {s : State} (hc : s.sound) {req : CrossReq} {res : State} (heq : execCrossDieTimeout req s = .next res) : res.sound := by
  unfold execCrossDieTimeout at heq
  repeat' (with_reducible first | dsimp only at heq | split at heq)
  all_goals (first | (cases heq; done) | (cases heq))
  all_goals repeat' (with_reducible first | assumption | dsimp only | apply State.crossTimeout_sound)

theorem execLinkStallCleared_sound {s : State} (hc : s.sound) {die : ℕ} {link : ℕ} {res : State} (heq : execLinkStallCleared die link s = .next res) : res.sound := by
  unfold execLinkStallCleared at heq
  repeat' (with_reducible first | dsimp only at heq | split at heq)
  all_goals (first | (cases heq; done) | (cases heq))
  all_goals repeat' (with_reducible first | assumption | dsimp only | apply State.stallOver_sound)

theorem execLinkTraining_sound {s : State} (hc : s.sound) {port : ℕ} {node : ℕ} {lmin : ℕ} {lmax : ℕ} {hmin : ℕ} {hmax : ℕ} {res : State} (heq : execLinkTraining port node lmin lmax hmin hmax s = .next res) : res.sound := by
  unfold execLinkTraining at heq
  repeat' (with_reducible first | dsimp only at heq | split at heq)
  all_goals (first | (cases heq; done) | (cases heq))
  all_goals repeat' (with_reducible first | assumption | dsimp only | apply State.train_sound)

theorem execFlitReceive_sound {s : State} (hc : s.sound) {port : ℕ} {flit : List Byte} {res : State} (heq : execFlitReceive port flit s = .next res) : res.sound := by
  unfold execFlitReceive at heq
  repeat' (with_reducible first | dsimp only at heq | split at heq)
  all_goals (first | (cases heq; done) | (cases heq))
  all_goals repeat' (with_reducible first | assumption | dsimp only | apply State.receive_sound)

theorem execFlitNak_sound {s : State} (hc : s.sound) {port : ℕ} {seq : ℕ} {res : State} (heq : execFlitNak port seq s = .next res) : res.sound := by
  unfold execFlitNak at heq
  repeat' (with_reducible first | dsimp only at heq | split at heq)
  all_goals (first | (cases heq; done) | (cases heq))
  all_goals repeat' (with_reducible first | assumption | dsimp only | apply State.nakTaken_sound)

theorem execRocePacket_sound {s : State} (hc : s.sound) {pkt : RocePacket} {res : State} (heq : execRocePacket pkt s = .next res) : res.sound := by
  unfold execRocePacket at heq
  repeat' (with_reducible first | dsimp only at heq | split at heq)
  all_goals (first | (cases heq; done) | (cases heq))
  all_goals repeat' (with_reducible first | assumption | dsimp only | apply State.roce_sound)

theorem execLaunch_sound {s : State} (hc : s.sound) {msg : HostMsg} {res : State} (heq : execLaunch msg s = .next res) : res.sound := by
  unfold execLaunch at heq
  repeat' (with_reducible first | dsimp only at heq | split at heq)
  all_goals (first | (cases heq; done) | (cases heq))
  all_goals repeat' (with_reducible first | assumption | dsimp only | apply State.hear_sound | apply State.launchMsg_sound)

theorem execPrepare_sound {s : State} (hc : s.sound) {msg : HostMsg} {res : State} (heq : execPrepare msg s = .next res) : res.sound := by
  unfold execPrepare at heq
  repeat' (with_reducible first | dsimp only at heq | split at heq)
  all_goals (first | (cases heq; done) | (cases heq))
  all_goals repeat' (with_reducible first | assumption | dsimp only | apply State.hear_sound | apply State.prepare_sound)

theorem execLoaderShardsFetched_sound {s : State} (hc : s.sound) {shards : List (List Byte)} {res : State} (heq : execLoaderShardsFetched shards s = .next res) : res.sound := by
  unfold execLoaderShardsFetched at heq
  repeat' (with_reducible first | dsimp only at heq | split at heq)
  all_goals (first | (cases heq; done) | (cases heq))
  all_goals repeat' (with_reducible first | assumption | dsimp only | apply State.takeShards_sound)

theorem execSwitch_sound {s : State} (hc : s.sound) {msg : HostMsg} {res : State} (heq : execSwitch msg s = .next res) : res.sound := by
  unfold execSwitch at heq
  repeat' (with_reducible first | dsimp only at heq | split at heq)
  all_goals (first | (cases heq; done) | (cases heq))
  all_goals repeat' (with_reducible first | assumption | dsimp only | apply State.hear_sound | apply State.switchTo_sound)

theorem execAbort_sound {s : State} (hc : s.sound) {msg : HostMsg} {res : State} (heq : execAbort msg s = .next res) : res.sound := by
  unfold execAbort at heq
  repeat' (with_reducible first | dsimp only at heq | split at heq)
  all_goals (first | (cases heq; done) | (cases heq))
  all_goals repeat' (with_reducible first | assumption | dsimp only | apply State.hear_sound | apply State.abortLoad_sound)

theorem execSetPtbase_sound {s : State} (hc : s.sound) {msg : HostMsg} {res : State} (heq : execSetPtbase msg s = .next res) : res.sound := by
  unfold execSetPtbase at heq
  repeat' (with_reducible first | dsimp only at heq | split at heq)
  all_goals (first | (cases heq; done) | (cases heq))
  all_goals repeat' (with_reducible first | assumption | dsimp only | apply State.hear_sound | apply State.setBase_sound)

theorem execFrostRead_sound {s : State} (hc : s.sound) {msg : HostMsg} {res : State} (heq : execFrostRead msg s = .next res) : res.sound := by
  unfold execFrostRead at heq
  repeat' (with_reducible first | dsimp only at heq | split at heq)
  all_goals (first | (cases heq; done) | (cases heq))
  all_goals repeat' (with_reducible first | assumption | dsimp only | apply State.hear_sound | apply State.answerHeld_sound)

theorem execDbgSample_sound {s : State} (hc : s.sound) {msg : HostMsg} {res : State} (heq : execDbgSample msg s = .next res) : res.sound := by
  unfold execDbgSample at heq
  repeat' (with_reducible first | dsimp only at heq | split at heq)
  all_goals (first | (cases heq; done) | (cases heq))
  all_goals repeat' (with_reducible first | assumption | dsimp only | apply State.hear_sound | apply State.sampleRead_sound)

theorem execDbgRead_sound {s : State} (hc : s.sound) {msg : HostMsg} {res : State} (heq : execDbgRead msg s = .next res) : res.sound := by
  unfold execDbgRead at heq
  repeat' (with_reducible first | dsimp only at heq | split at heq)
  all_goals (first | (cases heq; done) | (cases heq))
  all_goals repeat' (with_reducible first | assumption | dsimp only | apply State.hear_sound | apply State.debugRead_sound)

theorem execKill_sound {s : State} (hc : s.sound) {msg : HostMsg} {res : State} (heq : execKill msg s = .next res) : res.sound := by
  unfold execKill at heq
  repeat' (with_reducible first | dsimp only at heq | split at heq)
  all_goals (first | (cases heq; done) | (cases heq))
  all_goals repeat' (with_reducible first | assumption | dsimp only | apply State.hear_sound | apply State.killMsg_sound)

theorem execReplayRead_sound {s : State} (hc : s.sound) {msg : HostMsg} {res : State} (heq : execReplayRead msg s = .next res) : res.sound := by
  unfold execReplayRead at heq
  repeat' (with_reducible first | dsimp only at heq | split at heq)
  all_goals (first | (cases heq; done) | (cases heq))
  all_goals repeat' (with_reducible first | assumption | dsimp only | apply State.hear_sound | apply State.answerHeld_sound)

theorem execErrlogRead_sound {s : State} (hc : s.sound) {msg : HostMsg} {res : State} (heq : execErrlogRead msg s = .next res) : res.sound := by
  unfold execErrlogRead at heq
  repeat' (with_reducible first | dsimp only at heq | split at heq)
  all_goals (first | (cases heq; done) | (cases heq))
  all_goals repeat' (with_reducible first | assumption | dsimp only | apply State.hear_sound | apply State.errlog_sound)

theorem execDumpRead_sound {s : State} (hc : s.sound) {msg : HostMsg} {res : State} (heq : execDumpRead msg s = .next res) : res.sound := by
  unfold execDumpRead at heq
  repeat' (with_reducible first | dsimp only at heq | split at heq)
  all_goals (first | (cases heq; done) | (cases heq))
  all_goals repeat' (with_reducible first | assumption | dsimp only | apply State.hear_sound | apply State.dumpPart_sound)

theorem execGroupStart_sound {s : State} (hc : s.sound) {lid : ℕ} {res : State} (heq : execGroupStart lid s = .next res) : res.sound := by
  unfold execGroupStart at heq
  repeat' (with_reducible first | dsimp only at heq | split at heq)
  all_goals (first | (cases heq; done) | (cases heq))
  all_goals repeat' (with_reducible first | assumption | dsimp only | apply State.startGroup_sound)

theorem execReadyListServe_sound {s : State} (hc : s.sound) {die : ℕ} {res : State} (heq : execReadyListServe die s = .next res) : res.sound := by
  unfold execReadyListServe at heq
  repeat' (with_reducible first | dsimp only at heq | split at heq)
  all_goals (first | (cases heq; done) | (cases heq))
  all_goals repeat' (with_reducible first | assumption | dsimp only | apply State.serveReady_sound)

theorem execSectionDone_sound {s : State} (hc : s.sound) {lid : ℕ} {node : ℕ} {group : ℕ} {res : State} (heq : execSectionDone lid node group s = .next res) : res.sound := by
  unfold execSectionDone at heq
  repeat' (with_reducible first | dsimp only at heq | split at heq)
  all_goals (first | (cases heq; done) | (cases heq))
  all_goals repeat' (with_reducible first | assumption | dsimp only | apply State.sectionDone_sound)

theorem execTaskRecordServe_sound {s : State} (hc : s.sound) {die : ℕ} {res : State} (heq : execTaskRecordServe die s = .next res) : res.sound := by
  unfold execTaskRecordServe at heq
  repeat' (with_reducible first | dsimp only at heq | split at heq)
  all_goals (first | (cases heq; done) | (cases heq))
  all_goals repeat' (with_reducible first | assumption | dsimp only | apply State.serveTask_sound)

theorem execTrellisEnable_sound {s : State} (hc : s.sound) {page : PageRef} {node : ℕ} {count : ℕ} {res : State} (heq : execTrellisEnable page node count s = .next res) : res.sound := by
  unfold execTrellisEnable at heq
  repeat' (with_reducible first | dsimp only at heq | split at heq)
  all_goals (first | (cases heq; done) | (cases heq))
  all_goals repeat' (with_reducible first | assumption | dsimp only | apply State.takeEnable_sound)

theorem execTrellisDone_sound {s : State} (hc : s.sound) {page : PageRef} {node : ℕ} {child : ℕ} {res : State} (heq : execTrellisDone page node child s = .next res) : res.sound := by
  unfold execTrellisDone at heq
  repeat' (with_reducible first | dsimp only at heq | split at heq)
  all_goals (first | (cases heq; done) | (cases heq))
  all_goals repeat' (with_reducible first | assumption | dsimp only | apply State.takeDone_sound)

theorem execLaunchCompletion_sound {s : State} (hc : s.sound) {lid : ℕ} {res : State} (heq : execLaunchCompletion lid s = .next res) : res.sound := by
  unfold execLaunchCompletion at heq
  repeat' (with_reducible first | dsimp only at heq | split at heq)
  all_goals (first | (cases heq; done) | (cases heq))
  all_goals repeat' (with_reducible first | assumption | dsimp only | apply State.complete_sound)

theorem execConditionTokenArrival_sound {s : State} (hc : s.sound) {lid : ℕ} {chan : ℕ} {res : State} (heq : execConditionTokenArrival lid chan s = .next res) : res.sound := by
  unfold execConditionTokenArrival at heq
  repeat' (with_reducible first | dsimp only at heq | split at heq)
  all_goals (first | (cases heq; done) | (cases heq))
  all_goals repeat' (with_reducible first | assumption | dsimp only | apply State.condArrive_sound)

theorem execPruneArrival_sound {s : State} (hc : s.sound) {lid : ℕ} {chan : ℕ} {res : State} (heq : execPruneArrival lid chan s = .next res) : res.sound := by
  unfold execPruneArrival at heq
  repeat' (with_reducible first | dsimp only at heq | split at heq)
  all_goals (first | (cases heq; done) | (cases heq))
  all_goals repeat' (with_reducible first | assumption | dsimp only | apply State.pruneArrive_sound)

theorem execDrainMarkerArrival_sound {s : State} (hc : s.sound) {lid : ℕ} {chan : ℕ} {res : State} (heq : execDrainMarkerArrival lid chan s = .next res) : res.sound := by
  unfold execDrainMarkerArrival at heq
  repeat' (with_reducible first | dsimp only at heq | split at heq)
  all_goals (first | (cases heq; done) | (cases heq))
  all_goals repeat' (with_reducible first | assumption | dsimp only | apply State.drainArrive_sound)

theorem execDrainReport_sound {s : State} (hc : s.sound) {die : ℕ} {serial : ℕ} {res : State} (heq : execDrainReport die serial s = .next res) : res.sound := by
  unfold execDrainReport at heq
  repeat' (with_reducible first | dsimp only at heq | split at heq)
  all_goals (first | (cases heq; done) | (cases heq))
  all_goals repeat' (with_reducible first | assumption | dsimp only | apply State.takeReport_sound)

theorem execMemnodePruneScan_sound {s : State} (hc : s.sound) {node : NodeRef} {res : State} (heq : execMemnodePruneScan node s = .next res) : res.sound := by
  unfold execMemnodePruneScan at heq
  repeat' (with_reducible first | dsimp only at heq | split at heq)
  all_goals (first | (cases heq; done) | (cases heq))
  all_goals repeat' (with_reducible first | assumption | dsimp only | apply State.finishScan_sound)

theorem execGuessRecord_sound {s : State} (hc : s.sound) {die : ℕ} {res : State} (heq : execGuessRecord die s = .next res) : res.sound := by
  unfold execGuessRecord at heq
  repeat' (with_reducible first | dsimp only at heq | split at heq)
  all_goals (first | (cases heq; done) | (cases heq))
  all_goals repeat' (with_reducible first | assumption | dsimp only | apply State.nextRecord_sound)

theorem execForagerDecision_sound {s : State} (hc : s.sound) {page : PageRef} {ctx : ℕ} {res : State} (heq : execForagerDecision page ctx s = .next res) : res.sound := by
  unfold execForagerDecision at heq
  repeat' (with_reducible first | dsimp only at heq | split at heq)
  all_goals (first | (cases heq; done) | (cases heq))
  all_goals repeat' (with_reducible first | assumption | dsimp only | apply State.fgDecide_sound)

theorem execBankAccess_sound {s : State} (hc : s.sound) {req : BankReq} {res : State} (heq : execBankAccess req s = .next res) : res.sound := by
  unfold execBankAccess at heq
  repeat' (with_reducible first | dsimp only at heq | split at heq)
  all_goals (first | (cases heq; done) | (cases heq))
  all_goals repeat' (with_reducible first | assumption | dsimp only | apply State.corePosted_sound | apply State.nodeStep_sound | apply State.retryHeld_sound)

theorem execPageWalk_sound {s : State} (hc : s.sound) {owner : TlbOwner} {asid : ℕ} {va : ℕ} {res : State} (heq : execPageWalk owner asid va s = .next res) : res.sound := by
  unfold execPageWalk at heq
  repeat' (with_reducible first | dsimp only at heq | split at heq)
  all_goals (first | (cases heq; done) | (cases heq))
  all_goals repeat' (with_reducible first | assumption | dsimp only | apply tlbFill_sound)

theorem execControlLinkLoss_sound {s : State} (hc : s.sound) {die : ℕ} {res : State} (heq : execControlLinkLoss die s = .next res) : res.sound := by
  unfold execControlLinkLoss at heq
  repeat' (with_reducible first | dsimp only at heq | split at heq)
  all_goals (first | (cases heq; done) | (cases heq))
  all_goals repeat' (with_reducible first | assumption | dsimp only | apply State.fatal_sound)

theorem execEngineResponse_sound {s : State} (hc : s.sound) {die : ℕ} {engine : ℕ} {core : CoreRef} {latency : ℕ} {res : State} (heq : execEngineResponse die engine core latency s = .next res) : res.sound := by
  unfold execEngineResponse at heq
  repeat' (with_reducible first | dsimp only at heq | split at heq)
  all_goals (first | (cases heq; done) | (cases heq))
  all_goals repeat' (with_reducible first | assumption | dsimp only | apply State.engServe_sound)

theorem execCollGroupFill_sound {s : State} (hc : s.sound) {die : ℕ} {core : CoreRef} {res : State} (heq : execCollGroupFill die core s = .next res) : res.sound := by
  unfold execCollGroupFill at heq
  repeat' (with_reducible first | dsimp only at heq | split at heq)
  all_goals (first | (cases heq; done) | (cases heq))
  all_goals repeat' (with_reducible first | assumption | dsimp only | apply State.collServe_sound)

theorem execBlockBegin_sound {s : State} (hc : s.sound) {core : CoreRef} {res : State} (heq : execBlockBegin core s = .next res) : res.sound := by
  unfold execBlockBegin at heq
  repeat' (with_reducible first | dsimp only at heq | split at heq)
  all_goals (first | (cases heq; done) | (cases heq))
  all_goals repeat' (with_reducible first | assumption | dsimp only | apply State.beginBlock_sound)

theorem execBlockCommit_sound {s : State} (hc : s.sound) {core : CoreRef} {res : State} (heq : execBlockCommit core s = .next res) : res.sound := by
  unfold execBlockCommit at heq
  repeat' (with_reducible first | dsimp only at heq | split at heq)
  all_goals (first | (cases heq; done) | (cases heq))
  all_goals repeat' (with_reducible first | assumption | dsimp only | apply State.commitBlock_sound)

theorem execDormancyMarkerArrival_sound {s : State} (hc : s.sound) {lid : ℕ} {chan : ℕ} {res : State} (heq : execDormancyMarkerArrival lid chan s = .next res) : res.sound := by
  unfold execDormancyMarkerArrival at heq
  repeat' (with_reducible first | dsimp only at heq | split at heq)
  all_goals (first | (cases heq; done) | (cases heq))
  all_goals repeat' (with_reducible first | assumption | dsimp only | apply State.dormArrive_sound)

theorem execCutComplete_sound {s : State} (hc : s.sound) {lid : ℕ} {res : State} (heq : execCutComplete lid s = .next res) : res.sound := by
  unfold execCutComplete at heq
  repeat' (with_reducible first | dsimp only at heq | split at heq)
  all_goals (first | (cases heq; done) | (cases heq))
  all_goals repeat' (with_reducible first | assumption | dsimp only | apply State.finishCut_sound)

theorem execDormantResume_sound {s : State} (hc : s.sound) {lid : ℕ} {res : State} (heq : execDormantResume lid s = .next res) : res.sound := by
  unfold execDormantResume at heq
  repeat' (with_reducible first | dsimp only at heq | split at heq)
  all_goals (first | (cases heq; done) | (cases heq))
  all_goals repeat' (with_reducible first | assumption | dsimp only | apply State.resumeDormant_sound)

theorem execBreakpointFire_sound {s : State} (hc : s.sound) {n : ℕ} {res : State} (heq : execBreakpointFire n s = .next res) : res.sound := by
  unfold execBreakpointFire at heq
  repeat' (with_reducible first | dsimp only at heq | split at heq)
  all_goals (first | (cases heq; done) | (cases heq))
  all_goals repeat' (with_reducible first | assumption | dsimp only | apply State.fireBreak_sound)

theorem execDbpWrite_sound {s : State} (hc : s.sound) {n : ℕ} {value : BitVec 128} {res : State} (heq : execDbpWrite n value s = .next res) : res.sound := by
  unfold execDbpWrite at heq
  repeat' (with_reducible first | dsimp only at heq | split at heq)
  all_goals (first | (cases heq; done) | (cases heq))
  all_goals repeat' (with_reducible first | assumption | dsimp only | apply State.writeDbp_sound)

theorem execEhcfgClr_sound {s : State} (hc : s.sound) {die : ℕ} {engine : ℕ} {res : State} (heq : execEhcfgClr die engine s = .next res) : res.sound := by
  unfold execEhcfgClr at heq
  repeat' (with_reducible first | dsimp only at heq | split at heq)
  all_goals (first | (cases heq; done) | (cases heq))
  all_goals repeat' (with_reducible first | assumption | dsimp only | apply State.setProf_sound)

theorem execRegisterWrite_sound {s : State} (hc : s.sound) {pa : ℕ} {value : DWord} {res : State} (heq : execRegisterWrite pa value s = .next res) : res.sound := by
  unfold execRegisterWrite at heq
  repeat' (with_reducible first | dsimp only at heq | split at heq)
  all_goals (first | (cases heq; done) | (cases heq))
  all_goals repeat' (with_reducible first | assumption | dsimp only | apply State.regWrite_sound)

theorem execBucketRefill_sound {s : State} (hc : s.sound) {die : ℕ} {port : ℕ} {res : State} (heq : execBucketRefill die port s = .next res) : res.sound := by
  unfold execBucketRefill at heq
  repeat' (with_reducible first | dsimp only at heq | split at heq)
  all_goals (first | (cases heq; done) | (cases heq))
  all_goals repeat' (with_reducible first | assumption | dsimp only | apply State.setBucket_sound | apply State.inject_sound)

theorem execDieClockStop_sound {s : State} (hc : s.sound) {die : ℕ} {res : State} (heq : execDieClockStop die s = .next res) : res.sound := by
  unfold execDieClockStop at heq
  repeat' (with_reducible first | dsimp only at heq | split at heq)
  all_goals (first | (cases heq; done) | (cases heq))
  all_goals repeat' (with_reducible first | assumption | dsimp only | apply State.updDie_sound)

theorem execDieClockRestart_sound {s : State} (hc : s.sound) {die : ℕ} {res : State} (heq : execDieClockRestart die s = .next res) : res.sound := by
  unfold execDieClockRestart at heq
  repeat' (with_reducible first | dsimp only at heq | split at heq)
  all_goals (first | (cases heq; done) | (cases heq))
  all_goals repeat' (with_reducible first | assumption | dsimp only | apply State.updDie_sound)

theorem execRetireAcknowledge_sound {s : State} (hc : s.sound) {die : ℕ} {serial : ℕ} {res : State} (heq : execRetireAcknowledge die serial s = .next res) : res.sound := by
  unfold execRetireAcknowledge at heq
  repeat' (with_reducible first | dsimp only at heq | split at heq)
  all_goals (first | (cases heq; done) | (cases heq))
  all_goals repeat' (with_reducible first | assumption | dsimp only | apply State.acknowledged_sound)

theorem execTileInstructionCompletion_sound {s : State} (hc : s.sound) {core : CoreRef} {res : State} (heq : execTileInstructionCompletion core s = .next res) : res.sound := by
  unfold execTileInstructionCompletion at heq
  repeat' (with_reducible first | dsimp only at heq | split at heq)
  all_goals (first | (cases heq; done) | (cases heq))
  all_goals repeat' (with_reducible first | assumption | dsimp only | refine State.nextTile_sound ?_ (by assumption) | refine foldl_sound ?_ (fun s x hx => ?_) | refine getD_sound (fun t ht => ?_) ?_)

theorem execPowerOn_sound {s : State} (hc : s.sound) {res : State} (heq : execPowerOn s = .next res) : res.sound := by
  unfold execPowerOn at heq
  repeat' (with_reducible first | dsimp only at heq | split at heq)
  all_goals (first | (cases heq; done) | (cases heq))
  all_goals repeat' (with_reducible first | assumption | dsimp only | apply State.powerUp_sound)

theorem execSupplyOutOfRange_sound {s : State} (hc : s.sound) {res : State} (heq : execSupplyOutOfRange s = .next res) : res.sound := by
  unfold execSupplyOutOfRange at heq
  repeat' (with_reducible first | dsimp only at heq | split at heq)
  all_goals (first | (cases heq; done) | (cases heq))
  all_goals repeat' (with_reducible first | assumption | dsimp only | apply State.supplyLost_sound)

theorem execRoceRateRecovery_sound {s : State} (hc : s.sound) {res : State} (heq : execRoceRateRecovery s = .next res) : res.sound := by
  unfold execRoceRateRecovery at heq
  repeat' (with_reducible first | dsimp only at heq | split at heq)
  all_goals (first | (cases heq; done) | (cases heq))
  all_goals repeat' (with_reducible first | assumption | dsimp only | refine foldl_sound ?_ (fun s x hx => ?_) | refine getD_sound (fun t ht => ?_) ?_ | (simp only [State.sound_mk]; apply State.sound.split))

theorem execLoaderLimitExpiry_sound {s : State} (hc : s.sound) {res : State} (heq : execLoaderLimitExpiry s = .next res) : res.sound := by
  unfold execLoaderLimitExpiry at heq
  repeat' (with_reducible first | dsimp only at heq | split at heq)
  all_goals (first | (cases heq; done) | (cases heq))
  all_goals repeat' (with_reducible first | assumption | dsimp only | apply State.notReady_sound)

theorem execDispatcherHeadChoice_sound {s : State} (hc : s.sound) {res : State} (heq : execDispatcherHeadChoice s = .next res) : res.sound := by
  unfold execDispatcherHeadChoice at heq
  repeat' (with_reducible first | dsimp only at heq | split at heq)
  all_goals (first | (cases heq; done) | (cases heq))
  all_goals repeat' (with_reducible first | assumption | dsimp only | apply State.chooseHead_sound | refine foldl_sound ?_ (fun s x hx => ?_) | refine getD_sound (fun t ht => ?_) ?_ | (simp only [State.sound_mk]; apply State.sound.split))

theorem execImageChecks_sound {s : State} (hc : s.sound) {res : State} (heq : execImageChecks s = .next res) : res.sound := by
  unfold execImageChecks at heq
  repeat' (with_reducible first | dsimp only at heq | split at heq)
  all_goals (first | (cases heq; done) | (cases heq))
  all_goals repeat' (with_reducible first | assumption | dsimp only | apply State.checkHead_sound)

theorem execPlacement_sound {s : State} (hc : s.sound) {res : State} (heq : execPlacement s = .next res) : res.sound := by
  unfold execPlacement at heq
  repeat' (with_reducible first | dsimp only at heq | split at heq)
  all_goals (first | (cases heq; done) | (cases heq))
  all_goals repeat' (with_reducible first | assumption | dsimp only | apply State.placeHead_sound)

theorem execGraftStart_sound {s : State} (hc : s.sound) {res : State} (heq : execGraftStart s = .next res) : res.sound := by
  unfold execGraftStart at heq
  repeat' (with_reducible first | dsimp only at heq | split at heq)
  all_goals (first | (cases heq; done) | (cases heq))
  all_goals repeat' (with_reducible first | assumption | dsimp only | apply State.startGraft_sound)

theorem execGraftResume_sound {s : State} (hc : s.sound) {res : State} (heq : execGraftResume s = .next res) : res.sound := by
  unfold execGraftResume at heq
  repeat' (with_reducible first | dsimp only at heq | split at heq)
  all_goals (first | (cases heq; done) | (cases heq))
  all_goals repeat' (with_reducible first | assumption | dsimp only | apply State.resumeGraft_sound)

theorem execPreemption_sound {s : State} (hc : s.sound) {res : State} (heq : execPreemption s = .next res) : res.sound := by
  unfold execPreemption at heq
  repeat' (with_reducible first | dsimp only at heq | split at heq)
  all_goals (first | (cases heq; done) | (cases heq))
  all_goals repeat' (with_reducible first | assumption | dsimp only | apply State.preempt_sound)

theorem execSupplyDroop_sound {s : State} (hc : s.sound) {res : State} (heq : execSupplyDroop s = .next res) : res.sound := by
  unfold execSupplyDroop at heq
  repeat' (with_reducible first | dsimp only at heq | split at heq)
  all_goals (first | (cases heq; done) | (cases heq))
  all_goals repeat' (with_reducible first | assumption | dsimp only | apply State.stretch_sound)

theorem execSupplyInRange_sound {s : State} (hc : s.sound) {res : State} (heq : execSupplyInRange s = .next res) : res.sound := by
  unfold execSupplyInRange at heq
  repeat' (with_reducible first | dsimp only at heq | split at heq)
  all_goals (first | (cases heq; done) | (cases heq))
  all_goals repeat' (with_reducible first | assumption | dsimp only | apply State.supplyBack_sound)
end Sys2Proof.Machine
end

