-- ==== Sys2Proof/Tests/Slice0.lean ====
section
/-! SUPPORT. Tests: words written out from the encodings, ill-formed terms, a witness for the hypotheses of every obligation (wit_<its name>), the spec's worked
examples. -/
open Sys2Proof Sys2Proof.Machine
namespace Sys2Proof.Tests

-- One theorem at a time: the kernel evaluates for long in some, and threads that wait for it would each hold a stack.
set_option Elab.async false

/-! ### Words written out from the encodings (spec/opcode_table.json; R254 to R257 and the rule of each row), one for every instruction word -/

theorem test_decode_nop_to_callb :
    decodeWord 0b00000000_01010000_10111111_11110001 = .ok (.nop 1 0x85 0x1ff 1)
    ∧ decodeWord 0b00000001_10100000_01100000_00000000 = .ok (.getr 2 0x103 0)
    ∧ decodeWord 0b00000010_00111111_11100000_00000001 = .ok (.setr 0 1)
    ∧ decodeWord 0b00000011_01111111_11100000_00000000 = .ok (.nullw 1 0)
    ∧ decodeWord 0b00000100_10010000_10100001_01010101 = .ok (.movi 2 0x85 0x155)
    ∧ decodeWord 0b00000101_00100000_01100001_01010101 = .ok (.movk 0 0x103 0x155)
    ∧ decodeWord 0b00000110_01111111_11100000_00000001 = .ok (.getc 1 0x1ff 1)
    ∧ decodeWord 0b00000111_01111111_11100000_00001000 = .ok (.setc 1 8)
    ∧ decodeWord 0b00001000_00011000_00000001_01010101 = .ok (.bx 0 3 0x155)
    ∧ decodeWord 0b00001001_01111111_11111111_11110001 = .ok (.bxr 1 1)
    ∧ decodeWord 0b00001010_10010000_00000001_01010101 = .ok (.callb 2 2 0x155) := by
  refine ⟨rfl, rfl, rfl, rfl, rfl, rfl, rfl, rfl, rfl, rfl, rfl⟩

theorem test_decode_retb_to_min :
    decodeWord 0b00001011_00111111_11111111_11110011 = .ok (.retb 0 3)
    ∧ decodeWord 0b00010000_01010000_10111111_11110000 = .ok (.add 1 0x85 0x1ff)
    ∧ decodeWord 0b00010001_10100000_01100001_01010101 = .ok (.addi 2 0x103 0x155)
    ∧ decodeWord 0b00010010_00111111_11100001_00110000 = .ok (.sub 0 0x1ff 0x13)
    ∧ decodeWord 0b00010011_01000010_00011111_11110000 = .ok (.mul 1 0x10 0x1ff)
    ∧ decodeWord 0b00010100_10010000_10101000_01000000 = .ok (.mulh 2 0x85 0x84 0)
    ∧ decodeWord 0b00010101_00100000_01100001_00110001 = .ok (.div 0 0x103 0x13 1)
    ∧ decodeWord 0b00010110_01111111_11111111_11110001 = .ok (.rem 1 0x1ff 0x1ff 1)
    ∧ decodeWord 0b00010111_10000010_00001000_01000000 = .ok (.adds 2 0x10 0x84 0)
    ∧ decodeWord 0b00011000_00010000_10100001_00110001 = .ok (.subs 0 0x85 0x13 1)
    ∧ decodeWord 0b00011001_01100000_01111111_11110001 = .ok (.min 1 0x103 0x1ff 1) := by
  refine ⟨rfl, rfl, rfl, rfl, rfl, rfl, rfl, rfl, rfl, rfl, rfl⟩

theorem test_decode_max_to_shl :
    decodeWord 0b00011010_10111111_11101000_01000000 = .ok (.max 2 0x1ff 0x84 0)
    ∧ decodeWord 0b00011011_00000010_00000001_00110001 = .ok (.abs 0 0x10 0x13 1)
    ∧ decodeWord 0b00011100_01010000_10111111_11110001 = .ok (.neg 1 0x85 0x1ff 1)
    ∧ decodeWord 0b00011101_10100000_01101000_01000010 = .ok (.lea 2 0x103 0x84 2)
    ∧ decodeWord 0b00011101_00111111_11100001_00111000 = .ok (.leaBlk 0 0x1ff 0x13)
    ∧ decodeWord 0b00100000_01000010_00011111_11110000 = .ok (.andB 1 0x10 0x1ff)
    ∧ decodeWord 0b00100001_10010000_10101000_01000000 = .ok (.orB 2 0x85 0x84)
    ∧ decodeWord 0b00100010_00100000_01100001_00110000 = .ok (.xorB 0 0x103 0x13)
    ∧ decodeWord 0b00100011_01111111_11111111_11110000 = .ok (.andn 1 0x1ff 0x1ff)
    ∧ decodeWord 0b00100100_10000010_00001000_01000000 = .ok (.notB 2 0x10 0x84)
    ∧ decodeWord 0b00100101_00010000_10100001_00110000 = .ok (.shl 0 0x85 0x13) := by
  refine ⟨rfl, rfl, rfl, rfl, rfl, rfl, rfl, rfl, rfl, rfl, rfl⟩

theorem test_decode_shr_to_stkg :
    decodeWord 0b00100110_01100000_01111111_11110000 = .ok (.shr 1 0x103 0x1ff)
    ∧ decodeWord 0b00100111_10111111_11101000_01000000 = .ok (.shra 2 0x1ff 0x84)
    ∧ decodeWord 0b00101000_00000010_00000001_00110000 = .ok (.rot 0 0x10 0x13)
    ∧ decodeWord 0b00101001_01010000_10111111_11110000 = .ok (.clz 1 0x85 0x1ff)
    ∧ decodeWord 0b00101001_10100000_01101000_01000001 = .ok (.popc 2 0x103 0x84)
    ∧ decodeWord 0b00101010_00111111_11100001_00110001 = .ok (.bfx 0 0x1ff 0x13 1)
    ∧ decodeWord 0b00101011_01000010_00011111_11110000 = .ok (.bfi 1 0x10 0x1ff)
    ∧ decodeWord 0b00101100_10010000_10101000_01000110 = .ok (.cmp 2 0x85 0x84 3 0)
    ∧ decodeWord 0b00101101_00100000_01100001_00110001 = .ok (.testBits 0 0x103 0x13 1)
    ∧ decodeWord 0b00101110_01111111_11111111_11110000 = .ok (.sel 1 0x1ff 0x1ff)
    ∧ decodeWord 0b00101111_10000010_00001000_01000000 = .ok (.stkg 2 0x10 0x84) := by
  refine ⟨rfl, rfl, rfl, rfl, rfl, rfl, rfl, rfl, rfl, rfl, rfl⟩

theorem test_decode_stks_to_fabs :
    decodeWord 0b00101111_00010000_10100001_00110001 = .ok (.stks 0 0x85 0x13)
    ∧ decodeWord 0b00101111_01100000_01111111_11110010 = .ok (.stkc 1 0x103 0x1ff)
    ∧ decodeWord 0b00110000_10111111_11101000_01000000 = .ok (.fadd 2 0x1ff 0x84)
    ∧ decodeWord 0b00110001_00000010_00000001_00110000 = .ok (.fsub 0 0x10 0x13)
    ∧ decodeWord 0b00110010_01010000_10111111_11110000 = .ok (.fmul 1 0x85 0x1ff)
    ∧ decodeWord 0b00110011_10100000_01101000_01000000 = .ok (.ffma 2 0x103 0x84)
    ∧ decodeWord 0b00110100_00111111_11100001_00110000 = .ok (.fdiv 0 0x1ff 0x13)
    ∧ decodeWord 0b00110101_01000010_00011111_11110000 = .ok (.fsqrt 1 0x10 0x1ff)
    ∧ decodeWord 0b00110110_10010000_10101000_01000000 = .ok (.fmin 2 0x85 0x84)
    ∧ decodeWord 0b00110111_00100000_01100001_00110000 = .ok (.fmax 0 0x103 0x13)
    ∧ decodeWord 0b00111000_01111111_11111111_11110000 = .ok (.fabs 1 0x1ff 0x1ff) := by
  refine ⟨rfl, rfl, rfl, rfl, rfl, rfl, rfl, rfl, rfl, rfl, rfl⟩

theorem test_decode_fneg_to_final :
    decodeWord 0b00111000_10000010_00001000_01000001 = .ok (.fneg 2 0x10 0x84)
    ∧ decodeWord 0b00111001_00010000_10100001_00110010 = .ok (.fcmp 0 0x85 0x13 2)
    ∧ decodeWord 0b00111010_01100000_01111111_11110000 = .ok (.fclass 1 0x103 0x1ff)
    ∧ decodeWord 0b00111011_10111111_11101000_01000000 = .ok (.fexp2 2 0x1ff 0x84)
    ∧ decodeWord 0b00111100_00000010_00000001_00110000 = .ok (.flog2 0 0x10 0x13)
    ∧ decodeWord 0b00111101_01010000_10111111_11110000 = .ok (.frcp 1 0x85 0x1ff)
    ∧ decodeWord 0b00111110_10100000_01101000_01000000 = .ok (.frsq 2 0x103 0x84)
    ∧ decodeWord 0b00111111_00111111_11100001_00110000 = .ok (.ftanh 0 0x1ff 0x13)
    ∧ decodeWord 0b01000000_01000010_00011111_11110001 = .ok (.cvt 1 0x10 0x1ff 1)
    ∧ decodeWord 0b01000001_10010000_10101000_01000010 = .ok (.narrow 2 0x85 0x84 2)
    ∧ decodeWord 0b01000010_00100000_01100110_00000001 = .ok (.final 0 0x103 3 1) := by
  refine ⟨rfl, rfl, rfl, rfl, rfl, rfl, rfl, rfl, rfl, rfl, rfl⟩

theorem test_decode_scale_to_sdmul :
    decodeWord 0b01000011_01111111_11111111_11110000 = .ok (.scale 1 0x1ff 0x1ff)
    ∧ decodeWord 0b01000100_01010000_10111111_11110110 = .ok (.mxsc 1 0x85 0x1ff 6)
    ∧ decodeWord 0b01000101_00010000_10100001_00110111 = .ok (.dot4 0 0x85 0x13 1 3)
    ∧ decodeWord 0b01000110_01100000_01111111_11110001 = .ok (.dot8 1 0x103 0x1ff 0 1)
    ∧ decodeWord 0b01000111_10111111_11101000_01000110 = .ok (.addp 2 0x1ff 0x84 1 2)
    ∧ decodeWord 0b01001000_10100000_01101000_01000001 = .ok (.shlp 2 0x103 0x84 1)
    ∧ decodeWord 0b01001001_01010000_10111111_11110101 = .ok (.shrp 1 0x85 0x1ff 1 1)
    ∧ decodeWord 0b01001010_10100000_01101000_01000000 = .ok (.bperm 2 0x103 0x84)
    ∧ decodeWord 0b01010000_00111111_11100001_00110000 = .ok (.sdcvt 0 0x1ff 0x13)
    ∧ decodeWord 0b01010001_01000010_00011111_11110000 = .ok (.sdadd 1 0x10 0x1ff)
    ∧ decodeWord 0b01010010_10010000_10101000_01000000 = .ok (.sdmul 2 0x85 0x84) := by
  refine ⟨rfl, rfl, rfl, rfl, rfl, rfl, rfl, rfl, rfl, rfl, rfl⟩

theorem test_decode_sdcut_to_outm :
    decodeWord 0b01010011_00100000_01100001_00110000 = .ok (.sdcut 0 0x103 0x13)
    ∧ decodeWord 0b01010100_01111111_11111111_11110001 = .ok (.sdcmp 1 0x1ff 0x1ff 1)
    ∧ decodeWord 0b01010101_10000010_00001000_01000000 = .ok (.sdtowf 2 0x10 0x84)
    ∧ decodeWord 0b01010110_00010000_10100001_00110001 = .ok (.rng 0 0x85 0x13 1)
    ∧ decodeWord 0b01100000_01100000_01100000_00100001 = .ok (.inPort 1 0x103 1 0 1)
    ∧ decodeWord 0b01100000_10111111_11100100_01000000 = .ok (.inCnt 2 0x1ff 2)
    ∧ decodeWord 0b01100000_00000010_00001000_01100000 = .ok (.inSpc 0 0x10 3)
    ∧ decodeWord 0b01100000_01010000_10101100_00100001 = .ok (.inAcc 1 0x85 1 1)
    ∧ decodeWord 0b01100000_10100000_01110000_01000000 = .ok (.inMrk 2 0x103 2)
    ∧ decodeWord 0b01100001_00111111_11100000_01110011 = .ok (.outPort 0 3 1 3)
    ∧ decodeWord 0b01100010_01111111_11100000_00100001 = .ok (.outm 1 1 0 1) := by
  refine ⟨rfl, rfl, rfl, rfl, rfl, rfl, rfl, rfl, rfl, rfl, rfl⟩

theorem test_decode_mrk_to_recGet :
    decodeWord 0b01100011_10111111_11100000_01010010 = .ok (.mrk 2 2 1 2)
    ∧ decodeWord 0b01100100_00111111_11100000_01100011 = .ok (.segl 0 3 3)
    ∧ decodeWord 0b01100101_01111111_11100000_00100001 = .ok (.segn 1 1 1)
    ∧ decodeWord 0b01100110_10000010_00001000_01001010 = .ok (.rsum 2 0x10 0x84 2 2)
    ∧ decodeWord 0b01100111_00010000_10100001_00110011 = .ok (.rmax 0 0x85 0x13 0 3)
    ∧ decodeWord 0b01101000_01100000_01111111_11111001 = .ok (.rmin 1 0x103 0x1ff 2 1)
    ∧ decodeWord 0b01101001_10111111_11100010_00000010 = .ok (.strmMem 2 2 0 2)
    ∧ decodeWord 0b01101010_00111111_11100011_00100011 = .ok (.strmTile 0 3 1 3)
    ∧ decodeWord 0b01101011_01111111_11100001_00000001 = .ok (.strmDrain 1 1 1)
    ∧ decodeWord 0b01101100_10111111_11100000_01001000 = .ok (.strmAcc 2 2 0 2 0)
    ∧ decodeWord 0b01110000_00111111_11100001_00110001 = .ok (.recGet 0 0x1ff 0x13 1) := by
  refine ⟨rfl, rfl, rfl, rfl, rfl, rfl, rfl, rfl, rfl, rfl, rfl⟩

theorem test_decode_recSet_to_fgseed :
    decodeWord 0b01110001_01000010_00011111_11110000 = .ok (.recSet 1 0x10 0x1ff 0)
    ∧ decodeWord 0b01110010_10010000_10101000_01000001 = .ok (.recNew 2 0x85 0x84 1)
    ∧ decodeWord 0b01110011_00100000_01100001_00110000 = .ok (.recDone 0 0x103 0x13 0)
    ∧ decodeWord 0b01110011_01111111_11111111_11111001 = .ok (.recRej 1 0x1ff 0x1ff 1)
    ∧ decodeWord 0b01110100_10000010_00001000_01000010 = .ok (.steer 2 0x10 0x84 0 2)
    ∧ decodeWord 0b01110101_00010000_10100001_00110110 = .ok (.merge 0 0x85 0x13 6)
    ∧ decodeWord 0b01110110_01100000_01111111_11110000 = .ok (.omerge 1 0x103 0x1ff)
    ∧ decodeWord 0b01110111_10111111_11101000_01000000 = .ok (.recirc 2 0x1ff 0x84)
    ∧ decodeWord 0b01111000_00111111_11100000_01100010 = .ok (.ctxsw 0 3 2)
    ∧ decodeWord 0b01111001_01111111_11111111_11110000 = .ok (.fgstage 1)
    ∧ decodeWord 0b01111010_10111111_11111111_11110000 = .ok (.fgseed 2) := by
  refine ⟨rfl, rfl, rfl, rfl, rfl, rfl, rfl, rfl, rfl, rfl, rfl⟩

theorem test_decode_fgstat_to_pres :
    decodeWord 0b01111011_00111111_11100001_00110011 = .ok (.fgstat 0 0x1ff 0x13 3)
    ∧ decodeWord 0b10000000_01000010_00000001_11100000 = .ok (.ld 1 0x10 1 0xe)
    ∧ decodeWord 0b10000001_10010000_10100010_00000000 = .ok (.ldi 2 0x85 2 0)
    ∧ decodeWord 0b10000010_00100000_01100011_00100011 = .ok (.lda 0 0x103 3 2 3)
    ∧ decodeWord 0b10000011_01000110_00000000_10101000 = .ok (.st 1 3 2 5)
    ∧ decodeWord 0b10000100_10000010_00000011_00000100 = .ok (.stl 2 1 0xc 0 4)
    ∧ decodeWord 0b10000101_00010000_10100011_00000001 = .ok (.ldimg 0 0x85 3 1)
    ∧ decodeWord 0b10000110_01000010_00000000_00000000 = .ok (.stimg 1 1 0)
    ∧ decodeWord 0b10000111_10000100_00000000_00000000 = .ok (.till 2 2)
    ∧ decodeWord 0b10001000_00000110_00000000_00000000 = .ok (.tillg 0 3)
    ∧ decodeWord 0b10001001_01010000_10100001_00000000 = .ok (.pres 1 0x85 1) := by
  refine ⟨rfl, rfl, rfl, rfl, rfl, rfl, rfl, rfl, rfl, rfl, rfl⟩

theorem test_decode_atom_to_tld :
    decodeWord 0b10001010_10100000_01100010_01001010 = .ok (.atom 2 0x103 2 2 0 2 2)
    ∧ decodeWord 0b10001011_00111111_11100011_00001111 = .ok (.fatom 0 0x1ff 3 3 3)
    ∧ decodeWord 0b10010000_01000010_00000000_00000001 = .ok (.cpyl 1 1 1)
    ∧ decodeWord 0b10010001_10000100_00000000_00000010 = .ok (.gath 2 2 2)
    ∧ decodeWord 0b10010010_00000110_00000000_00000011 = .ok (.scat 0 3 3)
    ∧ decodeWord 0b10010011_01000010_00000000_00000000 = .ok (.coll 1 1)
    ∧ decodeWord 0b10010100_10000010_00000010_00000010 = .ok (.resp 2 0x10 2 2)
    ∧ decodeWord 0b10010101_00000110_00000000_00000011 = .ok (.fence 0 3 3)
    ∧ decodeWord 0b10010110_01100000_01100001_00000001 = .ok (.xfence 1 0x103 1 1)
    ∧ decodeWord 0b10010111_10000100_00000000_00000000 = .ok (.xwait 2 2)
    ∧ decodeWord 0b10100000_00111111_11100011_00000000 = .ok (.tld 0 3 0) := by
  refine ⟨rfl, rfl, rfl, rfl, rfl, rfl, rfl, rfl, rfl, rfl, rfl⟩

theorem test_decode_tst_to_accz :
    decodeWord 0b10100001_01000010_00000000_00000001 = .ok (.tst 1 1 1)
    ∧ decodeWord 0b10100010_10111111_11111111_11110000 = .ok (.tzero 2 0)
    ∧ decodeWord 0b10100011_00111111_11111111_11110001 = .ok (.treshape 0 1)
    ∧ decodeWord 0b10100100_01111111_11111111_11110000 = .ok (.tmov 1 0)
    ∧ decodeWord 0b10100101_10111111_11111111_11110001 = .ok (.tfill 2 1)
    ∧ decodeWord 0b10100110_00111111_11111111_11110000 = .ok (.wloadT 0)
    ∧ decodeWord 0b10100110_01111111_11111111_11110001 = .ok (.wloadW 1)
    ∧ decodeWord 0b10100111_10111111_11111111_11110000 = .ok (.wswap 2)
    ∧ decodeWord 0b10101000_00111111_11111111_11110011 = .ok (.mma 0 3)
    ∧ decodeWord 0b10101001_01111111_11111111_11110001 = .ok (.mmas 1 1)
    ∧ decodeWord 0b10101010_10111111_11111111_11110101 = .ok (.accz 2 5) := by
  refine ⟨rfl, rfl, rfl, rfl, rfl, rfl, rfl, rfl, rfl, rfl, rfl⟩

theorem test_decode_accd_to_barInit :
    decodeWord 0b10101011_00111111_11111111_11110011 = .ok (.accd 0 3)
    ∧ decodeWord 0b10110000_01111111_11111111_11110000 = .ok (.sortcfg 1)
    ∧ decodeWord 0b10110001_10111111_11111111_11110000 = .ok (.topk 2 0)
    ∧ decodeWord 0b11000000_00111111_11111111_11110000 = .ok (.guess 0)
    ∧ decodeWord 0b11000001_01000010_00011111_11110000 = .ok (.genofIn 1 0x10 0x1ff)
    ∧ decodeWord 0b11000001_10010000_10101000_01000001 = .ok (.genofPrec 2 0x85 0x84)
    ∧ decodeWord 0b11000010_00000110_00000000_00000000 = .ok (.launchp 0 3)
    ∧ decodeWord 0b11000011_01000010_00000000_00000011 = .ok (.prune 1 1 1 1)
    ∧ decodeWord 0b11000100_10000100_00000000_00000000 = .ok (.seqOpen 2 2)
    ∧ decodeWord 0b11000101_00000110_00000000_00000000 = .ok (.seqClose 0 3)
    ∧ decodeWord 0b11010000_01000010_00000000_00110010 = .ok (.barInit 1 1 3 2) := by
  refine ⟨rfl, rfl, rfl, rfl, rfl, rfl, rfl, rfl, rfl, rfl, rfl⟩

theorem test_decode_barArr_to_ckptCont :
    decodeWord 0b11010001_10000100_00000000_00100010 = .ok (.barArr 2 2 2 2)
    ∧ decodeWord 0b11010010_00000110_00000000_00110011 = .ok (.barWait 0 3 3 3)
    ∧ decodeWord 0b11010011_01000010_00000000_00000000 = .ok (.spawn 1 1)
    ∧ decodeWord 0b11010100_10100000_01100010_00000000 = .ok (.graise 2 0x103 2)
    ∧ decodeWord 0b11010101_00111111_11100000_00000000 = .ok (.gidxIdx 0 0x1ff)
    ∧ decodeWord 0b11010101_01000010_00000000_00000001 = .ok (.gidxCnt 1 0x10)
    ∧ decodeWord 0b11010110_10000100_00000000_00000010 = .ok (.tdone 2 2 2)
    ∧ decodeWord 0b11100000_00111111_11100001_01010101 = .ok (.trap 0 0x155)
    ∧ decodeWord 0b11100001_01111111_11111111_11110001 = .ok (.eret 1 1)
    ∧ decodeWord 0b11100010_10111111_11100001_01010101 = .ok (.sysc 2 0x155)
    ∧ decodeWord 0b11100011_00000110_00000000_00000000 = .ok (.ckptCont 0 3) := by
  refine ⟨rfl, rfl, rfl, rfl, rfl, rfl, rfl, rfl, rfl, rfl, rfl⟩

theorem test_decode_ckptYield_to_haltdFrz :
    decodeWord 0b11100011_01000010_00000000_00000001 = .ok (.ckptYield 1 1)
    ∧ decodeWord 0b11100100_10001000_00000000_00001011 = .ok (.tlbi 2 4 1 3)
    ∧ decodeWord 0b11100101_00111111_11100001_01010101 = .ok (.brk 0 0x155)
    ∧ decodeWord 0b11100110_01111111_11111111_11110000 = .ok (.perfCfg 1)
    ∧ decodeWord 0b11100110_10100000_01101000_01000001 = .ok (.perfRd 2 0x103 0x84)
    ∧ decodeWord 0b11100110_00111111_11100001_00110010 = .ok (.perfCnt 0 0x1ff 0x13)
    ∧ decodeWord 0b11100110_01111111_11111111_11110011 = .ok (.perfClr 1)
    ∧ decodeWord 0b11100111_10111111_11111111_11110000 = .ok (.haltdStop 2)
    ∧ decodeWord 0b11100111_00111111_11111111_11110001 = .ok (.haltdFrz 0) := by
  refine ⟨rfl, rfl, rfl, rfl, rfl, rfl, rfl, rfl, rfl⟩

/-- The words of block `sdiv`, as 13_insn_control.md writes them out. -/
theorem test_decode_sdiv :
    decodeWord 0x0100C000 = .ok (.getr 0 6 0) ∧ decodeWord 0x0110C001 = .ok (.getr 0 0x86 1)
    ∧ decodeWord 0x04114000 = .ok (.movi 0 0x8A 0) ∧ decodeWord 0x15011FF0 = .ok (.div 0 8 0x1FF 0) ∧ decodeWord 0x16013FF0 = .ok (.rem 0 9 0x1FF 0)
    ∧ decodeWord 0x023FE002 = .ok (.setr 0 2) ∧ decodeWord 0x2C2170C0 = .ok (.cmp 0 0x10B 0x10C 0 0) ∧ decodeWord 0x08400000 = .ok (.bx 1 0 0)
    ∧ decodeWord 0x08880000 = .ok (.bx 2 1 0) := by decide
/-- Reserved bits, reserved selector values, PRED 0b11 and opcodes that no row has are refused (R256 to R258). -/
theorem test_decode_refuses :
    (decodeWord 0xFF000000).toOption = none ∧ (decodeWord 0x32C07FF0).toOption = none ∧ (decodeWord 0x023FE03E).toOption = none
    ∧ (decodeWord 0x00000000).toOption ≠ none := by decide

/-! ### Ill-formed terms: one for each check of Instr.wf -/

theorem test_illformed_pred : (Instr.add 3 0x1FF 0x1FF).wf = false ∧ (Instr.bx 3 0 0).wf = false ∧ (Instr.ldimg 3 1 0 0).wf = false := by decide
theorem test_illformed_control : (Instr.getc 0 1 5).wf = false ∧ (Instr.setc 0 0x30).wf = false ∧ (Instr.setc 0 0x0A).wf = false := by decide
theorem test_illformed_relation : (Instr.cmp 0 1 2 6 0).wf = false ∧ (Instr.fcmp 0 1 2 7).wf = false ∧ (Instr.sdcmp 0 1 2 6).wf = false := by decide
theorem test_illformed_format : (Instr.cvt 0 1 2 14).wf = false ∧ (Instr.narrow 0 1 2 15).wf = false ∧ (Instr.final 0 1 14 0).wf = false
    ∧ (Instr.final 0 1 2 7).wf = false ∧ (Instr.mxsc 0 1 2 4).wf = false ∧ (Instr.mxsc 0 1 2 8).wf = false := by decide
theorem test_illformed_packed : (Instr.addp 0 1 2 3 0).wf = false ∧ (Instr.addp 0 1 2 0 3).wf = false ∧ (Instr.shlp 0 1 2 3).wf = false
    ∧ (Instr.shrp 0 1 2 0 3).wf = false := by decide
theorem test_illformed_port : (Instr.outPort 0 32 0 0).wf = false ∧ (Instr.outm 0 255 0 0).wf = false ∧ (Instr.mrk 0 32 0 0).wf = false
    ∧ (Instr.segl 0 32 0).wf = false ∧ (Instr.segn 0 32 0).wf = false ∧ (Instr.ctxsw 0 32 0).wf = false ∧ (Instr.strmAcc 0 32 0 0 0).wf = false
    ∧ (Instr.strmDrain 0 1 65).wf = false := by decide
theorem test_illformed_reduction : (Instr.rsum 0 1 2 3 1).wf = false ∧ (Instr.rmax 0 1 2 0 0).wf = false ∧ (Instr.rmin 0 1 2 3 0).wf = false := by decide
theorem test_illformed_join : (Instr.merge 0 1 2 4).wf = false ∧ (Instr.merge 0 1 2 0).wf = false ∧ (Instr.fgstat 0 1 2 5).wf = false := by decide
theorem test_illformed_memory : (Instr.ld 0 1 0 6).wf = false ∧ (Instr.ldi 0 1 0 10).wf = false ∧ (Instr.lda 0 1 0 14 6).wf = false ∧ (Instr.lda 0 1 0 15 0).wf = false
    ∧ (Instr.st 0 1 2 7).wf = false ∧ (Instr.st 0 1 8 1).wf = false ∧ (Instr.stl 0 1 11 0 0).wf = false ∧ (Instr.stl 0 1 14 0 7).wf = false := by decide
theorem test_illformed_atomic : (Instr.atom 0 1 1 7 0 1 0).wf = false ∧ (Instr.atom 0 1 1 0 0 0 1).wf = false ∧ (Instr.fatom 0 1 1 0 2).wf = false := by decide
theorem test_illformed_order : (Instr.resp 0 1 1 13).wf = false ∧ (Instr.fence 0 1 6).wf = false ∧ (Instr.xfence 0 1 1 7).wf = false ∧ (Instr.accz 0 0).wf = false
    ∧ (Instr.barInit 0 1 1 0).wf = false ∧ (Instr.barArr 0 1 6 0).wf = false ∧ (Instr.barWait 0 1 0 0).wf = false ∧ (Instr.tlbi 0 1 3 3).wf = false
    ∧ (Instr.tlbi 0 1 0 2).wf = false := by decide

/-- The encoder gives the words of the decode tests back, and no word for an event. -/
theorem test_encode : encode (.fmul 0 3 0x1FF) = some 0x32007FF0 ∧ encode (.movi 0 1 2) = some 0x04002002 ∧ encode (.setr 0 30) = some 0x023FE01E
    ∧ encode .powerOn = none := by decide

/-! ### Small states -/

/-- A page core of a launch that no record describes, its launch numbered 1. -/
def c0 : CoreRef := ⟨1, 0, 0, 0⟩
/-- A slot whose four positions hold a, b, x and a predicate value of 1 with S set. -/
def opsOf (a b x : Img) : List Opnd := [⟨0, .left, a⟩, ⟨0, .right, b⟩, ⟨0, .third, x⟩, ⟨0, .pred, ⟨1, true⟩⟩]
def blk (a b x : Img) : Block := { words := [0], ops := opsOf a b x, seqReg := 0x80000000 }
/-- The step is about to fire slot 0 of the oldest block of c0. -/
def withCore (p : PageCore) : State := { State.reset with cores := [(c0, p)], focus := .core c0 0 0 }
def withBlock (b : Block) : State := withCore { PageCore.reset with blocks := [b] }
def image (n : Nat) : Img := ⟨BitVec.ofNat 64 n, false⟩
def at3 (a b x : Nat) : Block := blk (image a) (image b) (image x)

/-- Three pages of 64 KiB in the bulk store of die 8: at 0 an MU page, at 0x10000 a WO page, at 0x20000 a supervisor page; and at 0x30000 the active copy
of die 0, which is read only. -/
def pages : List TlbEnt :=
  [⟨.core c0, 0, 0, 0x10000, 0x400000000F⟩, ⟨.core c0, 0, 0x10000, 0x10000, 0x400001002F⟩, ⟨.core c0, 0, 0x20000, 0x10000, 0x400002001F⟩,
   ⟨.core c0, 0, 0x30000, 0x10000, 0x000000000F⟩]
def mapped (s : State) : State := { s with tlb := pages }

/-- What the statements about one firing of a C-block assume. -/
def Ready (s : State) (bi : ℕ) (b : Block) (uses : List Pos) (ok : State → CoreCtx → Prop) : Prop :=
  CoreSlot s c0 bi 0 b ∧ b.lets 0 0 false ∧ b.arrived 0 uses ∧ ok s (firingCtx s c0 bi 0 b 0)

theorem ready {s : State} {bi : ℕ} {b : Block} {uses : List Pos} {ok : State → CoreCtx → Prop} (hs : s.focus = .core c0 bi 0)
    (hb : (s.core c0).blocks[bi]? = some b) (hu : b.settled 0 = false) (hf : b.fault = none) (ha : ∀ q ∈ uses, (b.operand 0 q).isSome)
    (hok : ok s (firingCtx s c0 bi 0 b 0)) : Ready s bi b uses ok := ⟨⟨hs, hb, hu, hf⟩, .inl ⟨rfl, rfl⟩, ha, hok⟩
/-- The slot of a block that stands behind an older one. -/
def behind (p : PageCore) (old b : Block) : State := { State.reset with cores := [(c0, { p with blocks := [old, b] })], focus := .core c0 1 0 }

/-- For every statement about Computes and ComputesInCore: slots fire without a predicate, and under either sense of one. -/
theorem wit_core_slot :
    CoreSlot (withBlock (at3 5 6 7)) c0 0 0 (at3 5 6 7) ∧ (at3 5 6 7).lets 0 0 false ∧ (at3 5 6 7).lets 0 1 true
    ∧ (at3 5 6 7).holdsOps 0 [.left, .right, .third] (image 5) (image 6) (image 7) ∧ (at3 5 6 7).arrived 0 [.left, .right, .third] :=
  ⟨⟨rfl, rfl, rfl, rfl⟩, .inl ⟨rfl, rfl⟩, .inr ⟨by decide, ⟨1, true⟩, rfl, rfl, rfl⟩, ⟨fun _ => rfl, fun _ => rfl, fun _ => rfl⟩, by unfold Block.arrived; decide⟩

/-! ### Slots of an E-block -/

def lanesOf3 (n : Nat) : List LaneV := List.replicate 16 { val := some (image n) }
def ecode : ECode := { ii := 1, imap := [some 0, some 1, none, none], omap := [some 0, none, none, none], satf8 := false, words := [0] }
/-- A firing one slot of which holds sixteen lanes at each position. -/
def firing0 : Firing :=
  { elem := ⟨1, 0, 0, 0, 0⟩, code := ecode, ins := [{}], outs := [{ used := true }]
    ops := [(0, .left, lanesOf3 5), (0, .right, lanesOf3 6), (0, .third, lanesOf3 7), (0, .pred, lanesOf3 1)] }
def withFiring (f : Firing) : State := { State.reset with firing := some f, focus := .elem 0 }

/-- For every statement about Computes, ComputesInElem, PassesInElem, FiresInElem and StepsSd. -/
theorem wit_elem_slot :
    ElemSlot (withFiring firing0) firing0 0 ∧ firing0.arrived 0 0 [.left, .right, .third] ∧ firing0.arrived 0 1 [.left]
    ∧ (∀ k < 16, firing0.lets 0 0 k false) ∧ (∀ k < 16, firing0.lets 0 1 k false) ∧ (∀ k < 16, ∀ ps, ¬ firing0.lets 0 2 k ps)
    ∧ (∀ q ∈ [Pos.left, Pos.right, Pos.third], ∀ k < 16, (firing0.lane 0 q k).val.isSome) := by
  refine ⟨⟨rfl, rfl, rfl, rfl⟩, by unfold Firing.arrived; decide, by unfold Firing.arrived; decide, fun _ _ => .inl ⟨rfl, rfl⟩, fun k hk => .inr ⟨by decide, image 1, ?_, rfl, rfl⟩, fun k hk ps h => ?_, by decide⟩
  · interval_cases k <;> rfl
  · obtain ⟨h, -⟩ | ⟨-, v, hv, hb, -⟩ := h
    · exact absurd h (by decide)
    · have hv' : (firing0.lane 0 .pred k).val = some (image 1) := by interval_cases k <;> rfl
      rw [hv'] at hv
      cases hv
      exact absurd hb (by decide)

/-! ### What an instruction of a C-block needs in order to fire, wait, fail or ask -/

theorem wit_RegisterInstructions :
    Ready (withBlock (at3 5 6 7)) 0 (at3 5 6 7) [.left] (fun _ x => ∀ d ∈ x.blk.done, d.act.named ≠ some 3)
    ∧ Ready (withBlock ({ at3 5 6 7 with done := [⟨1, 0, .setr 3 {}⟩] })) 0 ({ at3 5 6 7 with done := [⟨1, 0, .setr 3 {}⟩] }) [.left] (fun _ x => ∃ d ∈ x.blk.done, d.act.named = some 3)
    ∧ Ready (withBlock (at3 5 6 7)) 0 (at3 5 6 7) [] (fun _ x => Sees x.pc 3 x.bi (some {}))
    ∧ Ready (behind PageCore.reset { wmask := 8 } (at3 5 6 7)) 1 (at3 5 6 7) [] (fun _ x => Sees x.pc 3 x.bi none)
    ∧ Ready (behind PageCore.reset { wmask := 8, done := [⟨1, 0, .setr 3 (image 9)⟩] } (at3 5 6 7)) 1 (at3 5 6 7) [] (fun _ x => Sees x.pc 3 x.bi (some (image 9)))
    ∧ Ready (behind PageCore.reset { wmask := 8, done := [⟨1, 0, .nullr 3⟩] } (at3 5 6 7)) 1 (at3 5 6 7) [] (fun _ x => Sees x.pc 3 x.bi (some {}))
    ∧ Ready (behind PageCore.reset {} (at3 5 6 7)) 1 (at3 5 6 7) [] (fun _ x => Sees x.pc 3 x.bi (some {})) :=
  ⟨ready rfl rfl rfl rfl (by decide) (by decide),
   ready rfl rfl rfl rfl (by decide) (by decide),
   ready rfl rfl rfl rfl (by decide) (.committed),
   ready rfl rfl rfl rfl (by decide) (.pending rfl rfl (by decide)),
   ready rfl rfl rfl rfl (by decide) (.written rfl rfl (by decide) (by decide)),
   ready rfl rfl rfl rfl (by decide) (.kept rfl rfl (by decide) (by decide) .committed),
   ready rfl rfl rfl rfl (by decide) (.passes rfl rfl .committed)⟩

theorem wit_ControlRegisterInstructions :
    Ready (behind PageCore.reset {} (at3 5 6 7)) 1 (at3 5 6 7) [] (fun _ x => x.bi ≠ 0)
    ∧ Ready (withBlock (at3 5 6 7)) 0 (at3 5 6 7) [] (fun _ x => x.bi = 0 ∧ (0x38 : BitVec 8) ≤ 0x38 ∧ (0x38 : BitVec 8) ≤ 0x3C ∧ x.pc.sstat.getLsbD 1 = false)
    ∧ Ready (withBlock (at3 5 6 7)) 0 (at3 5 6 7) [.left] (fun _ x => (0x38 : BitVec 8) ≤ 0x3C ∧ (0x3C : BitVec 8) ≤ 0x3C ∧ x.pc.sstat.getLsbD 1 = false)
    ∧ Ready (withBlock (at3 5 6 7)) 0 (at3 5 6 7) [.left] (fun _ x => (isTsh 0x22 → x.tileReady) ∧ ((0x38 : BitVec 8) ≤ 0x22 → (0x22 : BitVec 8) ≤ 0x3C → x.pc.sstat.getLsbD 1) ∧ controlValueOk 0x22 x.a.v)
    ∧ Ready (withBlock (at3 0x40 6 7)) 0 (at3 0x40 6 7) [.left] (fun _ x => (isTsh 9 → x.tileReady) ∧ ((0x38 : BitVec 8) ≤ 9 → (9 : BitVec 8) ≤ 0x3C → x.pc.sstat.getLsbD 1) ∧ ¬ controlValueOk 9 x.a.v)
    ∧ Ready (withBlock (at3 0xFF0000 6 7)) 0 (at3 0xFF0000 6 7) [.left] (fun _ x => (isTsh 0x10 → x.tileReady) ∧ ¬ controlValueOk 0x10 x.a.v)
    ∧ Ready (withCore { PageCore.reset with blocks := [at3 5 6 7], sstat := 2 }) 0 (at3 5 6 7) [] (fun _ x => x.bi = 0 ∧ x.pc.sstat.getLsbD 1) :=
  ⟨ready rfl rfl rfl rfl (by decide) (by decide),
   ready rfl rfl rfl rfl (by decide) (by decide),
   ready rfl rfl rfl rfl (by decide) (by decide),
   ready rfl rfl rfl rfl (by decide) (by decide),
   ready rfl rfl rfl rfl (by decide) (by decide),
   ready rfl rfl rfl rfl (by decide) (by decide),
   ready rfl rfl rfl rfl (by decide) (by decide)⟩

theorem wit_BlockExits :
    Ready (withBlock (at3 64 6 7)) 0 (at3 64 6 7) [.left] (fun _ x => (∀ d ∈ x.blk.done, d.act.exits = false) ∧ 16 ∣ x.a.v.toNat ∧ x.a.v.toNat < 2 ^ 56)
    ∧ Ready (withBlock (at3 0xFFFFFFFFFFFFF0 6 7)) 0 (at3 0xFFFFFFFFFFFFF0 6 7) [.left] (fun _ x => (∀ d ∈ x.blk.done, d.act.exits = false) ∧ 16 ∣ x.a.v.toNat ∧ x.a.v.toNat < 2 ^ 56)
    ∧ Ready (withBlock ({ at3 64 6 7 with done := [⟨1, 0, .exit 64⟩] })) 0 ({ at3 64 6 7 with done := [⟨1, 0, .exit 64⟩] }) [.left] (fun _ x => (∃ d ∈ x.blk.done, d.act.exits) ∧ 16 ∣ x.a.v.toNat ∧ x.a.v.toNat < 2 ^ 56)
    ∧ Ready (withBlock (at3 8 6 7)) 0 (at3 8 6 7) [.left] (fun _ x => ¬ 16 ∣ x.a.v.toNat)
    ∧ Ready (withBlock (at3 0x100000000000000 6 7)) 0 (at3 0x100000000000000 6 7) [.left] (fun _ x => 16 ∣ x.a.v.toNat ∧ 2 ^ 56 ≤ x.a.v.toNat)
    ∧ Ready (withCore { PageCore.reset with blocks := [at3 5 6 7], sstat := 2 }) 0 (at3 5 6 7) [] (fun _ x => (∀ d ∈ x.blk.done, d.act.exits = false) ∧ x.pc.sstat.getLsbD 1 = true)
    ∧ Ready (withCore { PageCore.reset with blocks := [{ at3 5 6 7 with done := [⟨1, 0, .exit 64⟩] }], sstat := 2 }) 0 ({ at3 5 6 7 with done := [⟨1, 0, .exit 64⟩] }) [] (fun _ x => (∃ d ∈ x.blk.done, d.act.exits) ∧ x.pc.sstat.getLsbD 1 = true)
    ∧ Ready (withBlock (at3 5 6 7)) 0 (at3 5 6 7) [] (fun _ x => ¬ x.pc.sstat.getLsbD 1 = true) :=
  ⟨ready rfl rfl rfl rfl (by decide) (by decide),
   ready rfl rfl rfl rfl (by decide) (by decide),
   ready rfl rfl rfl rfl (by decide) (by decide),
   ready rfl rfl rfl rfl (by decide) (by decide),
   ready rfl rfl rfl rfl (by decide) (by decide),
   ready rfl rfl rfl rfl (by decide) (by decide),
   ready rfl rfl rfl rfl (by decide) (by decide),
   ready rfl rfl rfl rfl (by decide) (by decide)⟩

theorem wit_SystemInstructions :
    Ready (withBlock (at3 127 6 7)) 0 (at3 127 6 7) [.left] (fun _ x => x.a.v.toNat < 128)
    ∧ Ready (withBlock (at3 128 6 7)) 0 (at3 128 6 7) [.left] (fun _ x => 128 ≤ x.a.v.toNat ∧ x.pc.ckpta.getLsbD 0 = false)
    ∧ Ready (withBlock (at3 5 6 7)) 0 (at3 5 6 7) [.left] (fun _ x => x.pc.sstat.getLsbD 1 = false)
    ∧ Ready (withCore { PageCore.reset with blocks := [at3 5 6 7], sstat := 2 }) 0 (at3 5 6 7) [.left] (fun _ x => x.pc.sstat.getLsbD 1)
    ∧ Ready (behind PageCore.reset {} (at3 5 6 7)) 1 (at3 5 6 7) [.left] (fun _ x => x.bi ≠ 0)
    ∧ Ready ({ withBlock (at3 5 6 7) with plots := [⟨1, 0, 1, 1, 0, [], [], []⟩] }) 0 (at3 5 6 7) [.left] (fun s x => x.bi = 0 ∧ s.plotOf x.c (x.a.v.toNat % 16) = some (⟨1, 0, 1, 1, 0, [], [], []⟩ : Plot)) :=
  ⟨ready rfl rfl rfl rfl (by decide) (by decide),
   ready rfl rfl rfl rfl (by decide) (by decide),
   ready rfl rfl rfl rfl (by decide) (by decide),
   ready rfl rfl rfl rfl (by decide) (by decide),
   ready rfl rfl rfl rfl (by decide) (by decide),
   ready rfl rfl rfl rfl (by decide) (by decide)⟩

theorem wit_LoadsRead :
    Ready (mapped (withBlock (at3 0x41 6 7))) 0 (at3 0x41 6 7) [.left] (fun _ x => ¬ 8 ∣ x.a.v.toNat)
    ∧ Ready (mapped (withBlock (at3 0x40000 6 7))) 0 (at3 0x40000 6 7) [.left] (fun s x => coreSpan s x.c x.blk.seqReg x.a.v.toNat 8 8 x.rd true = .error ⟨4, 0x40000⟩)
    ∧ Ready (mapped (withBlock (at3 0x20000 6 7))) 0 (at3 0x20000 6 7) [.left] (fun s x => coreSpan s x.c x.blk.seqReg x.a.v.toNat 8 8 x.rd true = .error ⟨5, 0x20000⟩)
    ∧ Ready (mapped (withBlock (at3 0x40 6 7))) 0 (at3 0x40 6 7) [.left] (fun s x => coreSpan s x.c x.blk.seqReg x.a.v.toNat 8 8 x.rd true = .ok [(⟨0x40, 0x4000000040, 0, 0⟩, 8)] ∧ x.turn s 2 true [(⟨0x40, 0x4000000040, 0, 0⟩, 8)] = .go ∧ spanAttr [(⟨0x40, 0x4000000040, 0, 0⟩, 8)] = 0 ∧ s.eccIn (spanPas [(⟨0x40, 0x4000000040, 0, 0⟩, 8)]) = [] ∧ readOver s (x.ownStores 2) [(⟨0x40, 0x4000000040, 0, 0⟩, 8)] = some (List.replicate 8 0))
    ∧ Ready (mapped (behind PageCore.reset { words := [0x81000000], nstore := 1, done := [] } (at3 0x40 6 7))) 1 (at3 0x40 6 7) [.left] (fun s x => coreSpan s x.c x.blk.seqReg x.a.v.toNat 8 8 x.rd true = .ok [(⟨0x40, 0x4000000040, 0, 0⟩, 8)] ∧ x.turn s 2 true [(⟨0x40, 0x4000000040, 0, 0⟩, 8)] = .wait)
    ∧ Ready (mapped (withBlock ({ at3 0x40 6 7 with words := [0, 0x95020002], fired := [1], done := [⟨1, 1, .fence 2⟩] }))) 0 ({ at3 0x40 6 7 with words := [0, 0x95020002], fired := [1], done := [⟨1, 1, .fence 2⟩] }) [.left] (fun s x => coreSpan s x.c x.blk.seqReg x.a.v.toNat 8 8 x.rd true = .ok [(⟨0x40, 0x4000000040, 0, 0⟩, 8)] ∧ x.turn s 2 true [(⟨0x40, 0x4000000040, 0, 0⟩, 8)] = .hold) :=
  ⟨ready rfl rfl rfl rfl (by decide) (by decide),
   ready rfl rfl rfl rfl (by decide) (by decide),
   ready rfl rfl rfl rfl (by decide) (by decide),
   ready rfl rfl rfl rfl (by decide) (by decide),
   ready rfl rfl rfl rfl (by decide) (by decide),
   ready rfl rfl rfl rfl (by decide) (by decide)⟩

theorem wit_StoresAsk :
    Ready (mapped (withBlock (at3 0x41 6 7))) 0 (at3 0x41 6 7) [.left, .right] (fun _ x => ¬ typeBytes 14 ∣ x.a.v.toNat)
    ∧ Ready (mapped (withBlock (at3 0x40 6 7))) 0 (at3 0x40 6 7) [.left, .right] (fun s x => coreSpan s x.c x.blk.seqReg x.a.v.toNat 8 8 x.wr true = .ok [(⟨0x40, 0x4000000040, 0, 0⟩, 8)] ∧ (spanAttr [(⟨0x40, 0x4000000040, 0, 0⟩, 8)] = 0 ∨ (14 : BitVec 4) = 14))
    ∧ Ready (mapped (withBlock (at3 0x10040 6 7))) 0 (at3 0x10040 6 7) [.left, .right] (fun s x => coreSpan s x.c x.blk.seqReg x.a.v.toNat (typeBytes 13) (typeBytes 13) x.wr true = .ok [(⟨0x10040, 0x4000010040, 1, 0⟩, 4)] ∧ spanAttr [(⟨0x10040, 0x4000010040, 1, 0⟩, 4)] ≠ 0 ∧ (13 : BitVec 4) ≠ 14)
    ∧ Ready (mapped (withBlock (at3 0x10040 6 7))) 0 (at3 0x10040 6 7) [.left, .right] (fun s x => coreSpan s x.c x.blk.seqReg x.a.v.toNat 8 8 x.wr true = .ok [(⟨0x10040, 0x4000010040, 1, 0⟩, 8)])
    ∧ Ready (mapped (withBlock (at3 0x40 6 7))) 0 (at3 0x40 6 7) [.left, .right] (fun s x => coreSpan s x.c x.blk.seqReg x.a.v.toNat 16 16 x.wr true = .ok [(⟨0x40, 0x4000000040, 0, 0⟩, 16)])
    ∧ Ready (mapped (withBlock (at3 0x40 6 7))) 0 (at3 0x40 6 7) [.left, .right] (fun s x => coreSpan s x.c x.blk.seqReg x.a.v.toNat 5 8 x.wr true = .ok [(⟨0x40, 0x4000000040, 0, 0⟩, 5)] ∧ spanAttr [(⟨0x40, 0x4000000040, 0, 0⟩, 5)] = 0)
    ∧ Ready (mapped (withBlock (at3 0x10040 6 7))) 0 (at3 0x10040 6 7) [.left, .right] (fun s x => coreSpan s x.c x.blk.seqReg x.a.v.toNat 5 8 x.wr true = .ok [(⟨0x10040, 0x4000010040, 1, 0⟩, 5)] ∧ spanAttr [(⟨0x10040, 0x4000010040, 1, 0⟩, 5)] ≠ 0) :=
  ⟨ready rfl rfl rfl rfl (by decide) (by decide),
   ready rfl rfl rfl rfl (by decide) (by decide),
   ready rfl rfl rfl rfl (by decide) (by decide),
   ready rfl rfl rfl rfl (by decide) (by decide),
   ready rfl rfl rfl rfl (by decide) (by decide),
   ready rfl rfl rfl rfl (by decide) (by decide),
   ready rfl rfl rfl rfl (by decide) (by decide)⟩

theorem wit_PresenceInstructions :
    Ready (mapped (withBlock (at3 0x41 6 7))) 0 (at3 0x41 6 7) [.left, .right] (fun _ x => ¬ 64 ∣ x.a.v.toNat)
    ∧ Ready (mapped (withBlock (at3 0x40 1 7))) 0 (at3 0x40 1 7) [.left, .right] (fun s x => coreSpan s x.c x.blk.seqReg x.a.v.toNat (64 * (x.b.v.toNat % 2 ^ 32)) 64 { x.wr with least := 1 } false = .error ⟨5, 0x40⟩)
    ∧ Ready (mapped (withBlock (at3 0x10040 1 7))) 0 (at3 0x10040 1 7) [.left, .right] (fun s x => coreSpan s x.c x.blk.seqReg x.a.v.toNat (64 * (x.b.v.toNat % 2 ^ 32)) 64 { x.wr with least := 2 } false = .error ⟨5, 0x10040⟩)
    ∧ Ready (mapped (withBlock (at3 0x10040 1 7))) 0 (at3 0x10040 1 7) [.left, .right] (fun s x => coreSpan s x.c x.blk.seqReg x.a.v.toNat (64 * (x.b.v.toNat % 2 ^ 32)) 64 { x.wr with least := 1 } false = .ok [(⟨0x10040, 0x4000010040, 1, 0⟩, 64)])
    ∧ Ready (mapped (withBlock (at3 0x10041 1 7))) 0 (at3 0x10041 1 7) [.left] (fun s x => (coreSpan s x.c x.blk.seqReg x.a.v.toNat 1 1 x.rd false = .ok [(⟨0x10041, 0x4000010041, 1, 0⟩, 1)] ∧ coreSpan s x.c x.blk.seqReg (x.a.v.toNat / 64 * 64) 64 64 x.rd false = .ok [(⟨0x10040, 0x4000010040, 1, 0⟩, 64)]) ∧ x.turn s 2 false [(⟨0x10040, 0x4000010040, 1, 0⟩, 64)] = .go)
    ∧ Ready (mapped (withBlock ({ at3 0x10041 6 7 with words := [0, 0x95020002], fired := [1], done := [⟨1, 1, .fence 2⟩] }))) 0 ({ at3 0x10041 6 7 with words := [0, 0x95020002], fired := [1], done := [⟨1, 1, .fence 2⟩] }) [.left] (fun s x => (coreSpan s x.c x.blk.seqReg x.a.v.toNat 1 1 x.rd false = .ok [(⟨0x10041, 0x4000010041, 1, 0⟩, 1)] ∧ coreSpan s x.c x.blk.seqReg (x.a.v.toNat / 64 * 64) 64 64 x.rd false = .ok [(⟨0x10040, 0x4000010040, 1, 0⟩, 64)]) ∧ x.turn s 2 false [(⟨0x10040, 0x4000010040, 1, 0⟩, 64)] = .hold)
    ∧ Ready (mapped (behind PageCore.reset { words := [0x81000000], nstore := 1 } (at3 0x10041 6 7))) 1 (at3 0x10041 6 7) [.left] (fun s x => (coreSpan s x.c x.blk.seqReg x.a.v.toNat 1 1 x.rd false = .ok [(⟨0x10041, 0x4000010041, 1, 0⟩, 1)] ∧ coreSpan s x.c x.blk.seqReg (x.a.v.toNat / 64 * 64) 64 64 x.rd false = .ok [(⟨0x10040, 0x4000010040, 1, 0⟩, 64)]) ∧ x.turn s 2 false [(⟨0x10040, 0x4000010040, 1, 0⟩, 64)] = .wait) :=
  ⟨ready rfl rfl rfl rfl (by decide) (by decide),
   ready rfl rfl rfl rfl (by decide) (by decide),
   ready rfl rfl rfl rfl (by decide) (by decide),
   ready rfl rfl rfl rfl (by decide) (by decide),
   ready rfl rfl rfl rfl (by decide) (by decide),
   ready rfl rfl rfl rfl (by decide) (by decide),
   ready rfl rfl rfl rfl (by decide) (by decide)⟩

theorem wit_AtomicsAsk :
    Ready (mapped (withBlock (at3 0x40 6 7))) 0 (at3 0x40 6 7) [.left, .right, .third] (fun s x => coreSpan s x.c x.blk.seqReg x.a.v.toNat 4 4 x.rmw true = .ok [(⟨0x40, 0x4000000040, 0, 0⟩, 4)] ∧ ∀ r ∈ ([(⟨0x40, 0x4000000040, 0, 0⟩, 4)] : Span), r.1.attr = 0 ∧ inStore r.1.pa)
    ∧ Ready (mapped (withBlock (at3 0x40 6 7))) 0 (at3 0x40 6 7) [.left, .right] (fun s x => coreSpan s x.c x.blk.seqReg x.a.v.toNat 8 8 x.rmw true = .ok [(⟨0x40, 0x4000000040, 0, 0⟩, 8)] ∧ ∀ r ∈ ([(⟨0x40, 0x4000000040, 0, 0⟩, 8)] : Span), r.1.attr = 0 ∧ inStore r.1.pa)
    ∧ Ready (mapped (withBlock (at3 0x10040 6 7))) 0 (at3 0x10040 6 7) [.left, .right] (fun s x => coreSpan s x.c x.blk.seqReg x.a.v.toNat 4 4 x.rmw true = .ok [(⟨0x10040, 0x4000010040, 1, 0⟩, 4)] ∧ ∃ r ∈ ([(⟨0x10040, 0x4000010040, 1, 0⟩, 4)] : Span), ¬ (r.1.attr = 0 ∧ inStore r.1.pa))
    ∧ Ready (mapped (withBlock (at3 0x42 6 7))) 0 (at3 0x42 6 7) [.left, .right] (fun _ x => ¬ 4 ∣ x.a.v.toNat) :=
  ⟨ready rfl rfl rfl rfl (by decide) (by decide),
   ready rfl rfl rfl rfl (by decide) (by decide),
   ready rfl rfl rfl rfl (by decide) (by decide),
   ready rfl rfl rfl rfl (by decide) (by decide)⟩

theorem wit_EngineAndOrderingInstructions :
    Ready (mapped (withBlock (at3 0x40 0 2))) 0 (at3 0x40 0 2) [.left, .right, .third] (fun _ x => x.b.v.toNat % 2 ^ 16 = 0 ∨ 6 ≤ x.x.v.toNat % 8)
    ∧ Ready (mapped (withBlock (at3 0x40 1 6))) 0 (at3 0x40 1 6) [.left, .right, .third] (fun _ x => x.b.v.toNat % 2 ^ 16 = 0 ∨ 6 ≤ x.x.v.toNat % 8)
    ∧ Ready (mapped (withBlock (at3 0x50 1 5))) 0 (at3 0x50 1 5) [.left, .right, .third] (fun _ x => x.b.v.toNat % 2 ^ 16 ≠ 0 ∧ x.x.v.toNat % 8 < 6 ∧ ¬ 32 ∣ x.a.v.toNat)
    ∧ Ready (mapped (withBlock (at3 0x40 1 5))) 0 (at3 0x40 1 5) [.left, .right, .third] (fun s x => x.b.v.toNat % 2 ^ 16 ≠ 0 ∧ x.x.v.toNat % 8 < 6 ∧ 32 ∣ x.a.v.toNat ∧ coreSpan s x.c x.blk.seqReg x.a.v.toNat 32 1 x.rd false = .ok [(⟨0x40, 0x4000000040, 0, 0⟩, 32)])
    ∧ Ready (withBlock (at3 5 6 7)) 0 (at3 5 6 7) [] (fun s x => x.countBelow (isResp 12) = (0, false) ∧ x.turn s 1 true [] = .go ∧ (x.pc.responsesOf 12)[0]? = none)
    ∧ Ready (withCore { PageCore.reset with blocks := [at3 5 6 7], engResp := PageCore.reset.engResp.set 12 [⟨0, 0xFFFFFFFF, 2⟩] }) 0 (at3 5 6 7) [] (fun s x => x.countBelow (isResp 12) = (0, false) ∧ x.turn s 1 true [] = .go ∧ (x.pc.responsesOf 12)[0]? = some ⟨0, 0xFFFFFFFF, 2⟩)
    ∧ Ready (withBlock (at3 5 6 7)) 0 (at3 5 6 7) [] (fun s x => x.xfences 1 = (0, false) ∧ 0 + (x.pc.fences.filter (s.fenceOpen x.c)).length < 16)
    ∧ Ready (behind PageCore.reset { words := [0x96000200] } (at3 5 6 7)) 1 (at3 5 6 7) [] (fun s x => (x.xfences 1).2 ∨ 16 ≤ (x.xfences 1).1 + (x.pc.fences.filter (s.fenceOpen x.c)).length)
    ∧ Ready (withBlock (at3 0x10000 6 7)) 0 (at3 0x10000 6 7) [.left] (fun _ x => x.a.v.toNat % 2 ^ 16 = 0)
    ∧ Ready (withBlock (at3 0xFFFF 6 7)) 0 (at3 0xFFFF 6 7) [.left] (fun _ x => x.a.v.toNat % 2 ^ 16 ≠ 0)
    ∧ Ready (withBlock (at3 5 6 7)) 0 (at3 5 6 7) [.left, .right, .third] (fun _ x => x.b.v.toNat % 2 ^ 32 ≠ 0 ∧ x.blk.gidx ≠ 0xFFFFFFFF)
    ∧ Ready (withBlock (at3 1 0x100000000 7)) 0 (at3 1 0x100000000 7) [.left, .right, .third] (fun _ x => x.b.v.toNat % 2 ^ 32 = 0 ∨ x.blk.gidx = 0xFFFFFFFF)
    ∧ Ready (withBlock ({ at3 5 6 7 with gidx := 0xFFFFFFFF })) 0 ({ at3 5 6 7 with gidx := 0xFFFFFFFF }) [.left, .right, .third] (fun _ x => x.b.v.toNat % 2 ^ 32 = 0 ∨ x.blk.gidx = 0xFFFFFFFF) :=
  ⟨ready rfl rfl rfl rfl (by decide) (by decide),
   ready rfl rfl rfl rfl (by decide) (by decide),
   ready rfl rfl rfl rfl (by decide) (by decide),
   ready rfl rfl rfl rfl (by decide) (by decide),
   ready rfl rfl rfl rfl (by decide) (by decide),
   ready rfl rfl rfl rfl (by decide) (by decide),
   ready rfl rfl rfl rfl (by decide) (by decide),
   ready rfl rfl rfl rfl (by decide) (by decide),
   ready rfl rfl rfl rfl (by decide) (by decide),
   ready rfl rfl rfl rfl (by decide) (by decide),
   ready rfl rfl rfl rfl (by decide) (by decide),
   ready rfl rfl rfl rfl (by decide) (by decide),
   ready rfl rfl rfl rfl (by decide) (by decide)⟩

theorem wit_LaneCommands :
    Ready ({ withBlock ({ at3 5 6 7 with seqReg := 0x0C3 }) with sprouts := State.reset.sprouts.set 3 { owner := some 1, nlane := 4 } }) 0 ({ at3 5 6 7 with seqReg := 0x0C3 }) [.left, .right] (fun s x => x.blk.seqReg.getLsbD 31 = false ∧ (s.sprout (x.blk.seqReg.toNat % 512 / 64)).owner = some x.c.lid ∧ x.blk.seqReg.toNat % 64 < (s.sprout (x.blk.seqReg.toNat % 512 / 64)).nlane)
    ∧ Ready ({ withBlock ({ at3 5 6 7 with seqReg := 0x0C3 }) with sprouts := State.reset.sprouts.set 3 { owner := some 1, nlane := 3 } }) 0 ({ at3 5 6 7 with seqReg := 0x0C3 }) [.left, .right] (fun s x => ¬ (x.blk.seqReg.getLsbD 31 = false ∧ (s.sprout (x.blk.seqReg.toNat % 512 / 64)).owner = some x.c.lid ∧ x.blk.seqReg.toNat % 64 < (s.sprout (x.blk.seqReg.toNat % 512 / 64)).nlane))
    ∧ Ready (withBlock (at3 5 6 7)) 0 (at3 5 6 7) [.left, .right] (fun s x => ¬ (x.blk.seqReg.getLsbD 31 = false ∧ (s.sprout (x.blk.seqReg.toNat % 512 / 64)).owner = some x.c.lid ∧ x.blk.seqReg.toNat % 64 < (s.sprout (x.blk.seqReg.toNat % 512 / 64)).nlane)) :=
  ⟨ready rfl rfl rfl rfl (by decide) (by decide),
   ready rfl rfl rfl rfl (by decide) (by decide),
   ready rfl rfl rfl rfl (by decide) (by decide)⟩

theorem wit_PortReads :
    Ready (withBlock (at3 5 6 7)) 0 (at3 5 6 7) [] (fun _ x => x.countBelow (popsPort 31) = (0, false) ∧ (x.pc.sinkQ 31)[0]? = none)
    ∧ Ready (withCore { PageCore.reset with blocks := [at3 5 6 7], sink := PageCore.reset.sink.set 31 [mkPrefix { length := 4 }] }) 0 (at3 5 6 7) [] (fun _ x => x.countBelow (popsPort 31) = (0, false) ∧ (x.pc.sinkQ 31)[0]? = some (mkPrefix { length := 4 }))
    ∧ Ready (withBlock (at3 5 6 7)) 0 (at3 5 6 7) [] (fun _ x => x.countBelow (pushesPort 0) = (0, false))
    ∧ Ready (withBlock (at3 31 6 7)) 0 (at3 31 6 7) [.left] (fun _ x => x.a.v.toNat < 32 ∧ x.nextSegment x.a.v.toNat = some none)
    ∧ Ready (withBlock (at3 32 6 7)) 0 (at3 32 6 7) [.left] (fun _ x => 32 ≤ x.a.v.toNat) :=
  ⟨ready rfl rfl rfl rfl (by decide) (by decide),
   ready rfl rfl rfl rfl (by decide) (by decide),
   ready rfl rfl rfl rfl (by decide) (by decide),
   ready rfl rfl rfl rfl (by decide) (⟨by decide, by rfl⟩),
   ready rfl rfl rfl rfl (by decide) (by decide)⟩

theorem wit_PortWrites :
    Ready (withBlock (at3 5 6 7)) 0 (at3 5 6 7) [.left] (fun _ x => x.sinkSegment 4 = some none)
    ∧ Ready (withCore { PageCore.reset with blocks := [at3 5 6 7], sinkSeg := PageCore.reset.sinkSeg.set 4 (some { length := 9, lane := 3, gen := 2, nolane := false }) }) 0 (at3 5 6 7) [.left] (fun _ x => x.sinkSegment 4 = some (some { length := 9, lane := 3, gen := 2, nolane := false }))
    ∧ Ready (behind PageCore.reset { words := [0x60000090] } (at3 5 6 7)) 1 (at3 5 6 7) [.left] (fun _ x => x.sinkSegment 4 = none) :=
  ⟨ready rfl rfl rfl rfl (by decide) (by rfl),
   ready rfl rfl rfl rfl (by decide) (by rfl),
   ready rfl rfl rfl rfl (by decide) (by rfl)⟩

theorem wit_StreamAndTileInstructions :
    Ready (withBlock (at3 5 0xE00000001 7)) 0 (at3 5 0xE00000001 7) [.left, .right] (fun _ x => ¬ (x.b.v.toNat / 2 ^ 32 % 16 ∈ [0, 1, 2, 3, 4, 8, 9, 10, 11, 12, 13] ∧ x.b.v.toNat / 2 ^ 36 % 8 ≠ 7))
    ∧ Ready (mapped (withBlock (at3 0x40 0xD00000001 7))) 0 (at3 0x40 0xD00000001 7) [.left, .right] (fun s x => (x.b.v.toNat / 2 ^ 32 % 16 ∈ [0, 1, 2, 3, 4, 8, 9, 10, 11, 12, 13] ∧ x.b.v.toNat / 2 ^ 36 % 8 ≠ 7) ∧ coreSpan s x.c x.blk.seqReg x.a.v.toNat (2 * fmtWidth 13 * (x.b.v.toNat % 2 ^ 32)) (max 1 (fmtWidth 13 / 8)) x.rd true = .ok [(⟨0x40, 0x4000000040, 0, 0⟩, 64)])
    ∧ Ready (behind PageCore.reset { words := [0xA03FE000] } (at3 5 6 7)) 1 (at3 5 6 7) [.left] (fun _ x => x.tileReady = false)
    ∧ Ready (withBlock (at3 0x70 6 7)) 0 (at3 0x70 6 7) [.left] (fun s x => x.tileReady ∧ ¬ (fmtIsMx (tshType ((x.shadow s).shape (x.a.v.toNat % 16))) = false ∧ x.a.v.toNat / 16 % 8 ≠ 7))
    ∧ Ready (withBlock (at3 0x0F 6 7)) 0 (at3 0x0F 6 7) [.left] (fun s x => x.tileReady ∧ (fmtIsMx (tshType ((x.shadow s).shape (x.a.v.toNat % 16))) = false ∧ x.a.v.toNat / 16 % 8 ≠ 7))
    ∧ Ready (withBlock (at3 6 6 7)) 0 (at3 6 6 7) [.left] (fun _ x => 6 ≤ x.a.v.toNat % 8)
    ∧ Ready (withBlock (at3 5 6 7)) 0 (at3 5 6 7) [.left] (fun _ x => x.a.v.toNat % 8 < 6)
    ∧ Ready (behind PageCore.reset {} (at3 5 6 7)) 1 (at3 5 6 7) [.left] (fun _ x => x.bi ≠ 0)
    ∧ Ready ({ withBlock (at3 5 6 7) with foragers := [{ page := pageOf c0, ctx := 0, window := 0, ring := 0, rejp := 0, exitp := 0, entry := 0, ordered := false, stages := [], lfsr := 1 }] }) 0 (at3 5 6 7) [.left] (fun s x => x.bi = 0 ∧ s.foragerOf (pageOf x.c) = some { page := pageOf c0, ctx := 0, window := 0, ring := 0, rejp := 0, exitp := 0, entry := 0, ordered := false, stages := [], lfsr := 1 })
    ∧ Ready (withBlock (at3 5 6 7)) 0 (at3 5 6 7) [] (fun s x => x.tileReady ∧ ¬ x.systolic s)
    ∧ Ready ({ withBlock (at3 5 6 7) with arrays := [{ page := pageOf c0, ctx := 0, mode := 1 }] }) 0 (at3 5 6 7) [] (fun s x => x.tileReady ∧ x.systolic s)
    ∧ Ready (withBlock (at3 0x1FFFFF 6 7)) 0 (at3 0x1FFFFF 6 7) [.left] (fun _ x => x.tileReady ∧ ¬ shapeOk ((x.a.v.extractLsb' 0 21).setWidth 64)) :=
  ⟨ready rfl rfl rfl rfl (by decide) (by decide),
   ready rfl rfl rfl rfl (by decide) (by decide),
   ready rfl rfl rfl rfl (by decide) (by decide),
   ready rfl rfl rfl rfl (by decide) (by decide),
   ready rfl rfl rfl rfl (by decide) (by decide),
   ready rfl rfl rfl rfl (by decide) (by decide),
   ready rfl rfl rfl rfl (by decide) (by decide),
   ready rfl rfl rfl rfl (by decide) (by decide),
   ready rfl rfl rfl rfl (by decide) (by decide),
   ready rfl rfl rfl rfl (by decide) (by decide),
   ready rfl rfl rfl rfl (by decide) (by decide),
   ready rfl rfl rfl rfl (by decide) (by decide)⟩

theorem wit_TilesAndMemory :
    Ready (behind PageCore.reset { words := [0xA03FE000] } (at3 5 6 7)) 1 (at3 5 6 7) [.left, .right] (fun _ x => x.tileReady = false)
    ∧ Ready (mapped (withBlock (at3 0x41 0 7))) 0 (at3 0x41 0 7) [.left, .right] (fun s x => x.tileReady ∧ (x.shadow s).shape 0 = 0 ∧ ¬ rowAlign (tshType ((x.shadow s).shape 0)) ∣ x.a.v.toNat)
    ∧ Ready (mapped (withBlock (at3 0x40 1 7))) 0 (at3 0x40 1 7) [.left, .right] (fun s x => x.tileReady ∧ ¬ rowAlign (tshType ((x.shadow s).shape 0)) ∣ x.b.v.toNat % 2 ^ 32)
    ∧ Ready (mapped (withBlock (at3 0x40000 0 7))) 0 (at3 0x40000 0 7) [.left, .right] (fun s x => x.tileReady ∧ rowAlign (tshType ((x.shadow s).shape 0)) ∣ x.a.v.toNat ∧ x.b.v.toNat % 2 ^ 32 = 0 ∧ (let v := (x.shadow s).shape 0; rowSpans s x x.rd (rowBytes v) (rowBytes v) (tshRows v) x.a.v.toNat) = .error ⟨4, 0x40000⟩)
    ∧ Ready (mapped (withBlock (at3 0x10000 0 7))) 0 (at3 0x10000 0 7) [.left, .right] (fun s x => x.tileReady ∧ rowAlign (tshType ((x.shadow s).shape 0)) ∣ x.a.v.toNat ∧ (let v := (x.shadow s).shape 0; rowSpans s x x.wr (rowBytes v) (rowBytes v) (tshRows v) x.a.v.toNat) = .ok [[(⟨0x10000, 0x4000010000, 1, 0⟩, 2)]] ∧ (∃ sp ∈ ([[(⟨0x10000, 0x4000010000, 1, 0⟩, 2)]] : List Span), ∃ r ∈ sp, r.1.attr ≠ 0) ∧ ¬ 8 ∣ rowBytes ((x.shadow s).shape 0))
    ∧ Ready (mapped (withBlock (at3 0x40 0 7))) 0 (at3 0x40 0 7) [.left, .right] (fun s x => x.tileReady ∧ rowAlign (tshType ((x.shadow s).shape 0)) ∣ x.a.v.toNat ∧ (let v := (x.shadow s).shape 0; rowSpans s x x.wr (rowBytes v) (rowBytes v) (tshRows v) x.a.v.toNat) = .ok [[(⟨0x40, 0x4000000040, 0, 0⟩, 2)]] ∧ (let v := (x.shadow s).shape 0; rowSpans s x x.rd (rowBytes v) (rowBytes v) (tshRows v) x.a.v.toNat) = .ok [[(⟨0x40, 0x4000000040, 0, 0⟩, 2)]])
    ∧ Ready (withBlock (at3 0 0x30000 7)) 0 (at3 0 0x30000 7) [.left, .right] (fun s x => x.tileReady ∧ ¬ x.systolic s)
    ∧ Ready ({ mapped (withBlock (at3 0 0x40000 7)) with arrays := [{ page := pageOf c0, ctx := 0, mode := 1 }] }) 0 (at3 0 0x40000 7) [.left, .right] (fun s x => x.tileReady ∧ (x.systolic s ∧ wloadOk x.a.v 0 1 1 ∧ rowAlign 0 ∣ x.b.v.toNat) ∧ rowSpans s x x.rd (imageRow 0 1) (imageRow 0 1) 1 x.b.v.toNat = .error ⟨4, 0x40000⟩)
    ∧ Ready ({ mapped (withBlock (at3 0 0x30000 7)) with arrays := [{ page := pageOf c0, ctx := 0, mode := 1 }] }) 0 (at3 0 0x30000 7) [.left, .right] (fun s x => x.tileReady ∧ (x.systolic s ∧ wloadOk x.a.v 0 1 1 ∧ rowAlign 0 ∣ x.b.v.toNat) ∧ x.a.v.toNat % 16 = 0 ∧ x.a.v.toNat / 2 ^ 24 % 128 + 1 = 1 ∧ x.a.v.toNat / 2 ^ 32 % 512 + 1 = 1 ∧ rowSpans s x x.rd (imageRow 0 1) (imageRow 0 1) 1 x.b.v.toNat = .ok [[(⟨0x30000, 0x0, 0, 0⟩, 2)]] ∧ regionOf 0x0 = .active 0)
    ∧ Ready ({ withBlock (at3 0x309 6 7) with arrays := [{ page := pageOf c0, ctx := 0, mode := 2 }] }) 0 (at3 0x309 6 7) [.left] (fun s x => ∃ a, s.arrayOf (pageOf x.c) = some a ∧ a.mode = 2 ∧ 1 ≤ x.a.v.toNat % 16 ∧ x.a.v.toNat % 16 ≤ 9 ∧ x.a.v.toNat / 256 % 1024 ≤ 2 ^ (x.a.v.toNat % 16))
    ∧ Ready ({ withBlock (at3 0x30A 6 7) with arrays := [{ page := pageOf c0, ctx := 0, mode := 2 }] }) 0 (at3 0x30A 6 7) [.left] (fun s x => ¬ x.a.v.toNat % 16 ≤ 9) :=
  ⟨ready rfl rfl rfl rfl (by decide) (by decide),
   ready rfl rfl rfl rfl (by decide) (by decide),
   ready rfl rfl rfl rfl (by decide) (by decide),
   ready rfl rfl rfl rfl (by decide) (by decide),
   ready rfl rfl rfl rfl (by decide) (by decide),
   ready rfl rfl rfl rfl (by decide) (by decide),
   ready rfl rfl rfl rfl (by decide) (by decide),
   ready rfl rfl rfl rfl (by decide) (by decide +kernel),
   ready rfl rfl rfl rfl (by decide) (by decide +kernel),
   ready rfl rfl rfl rfl (by decide) (⟨{ page := pageOf c0, ctx := 0, mode := 2 }, rfl, by decide⟩),
   ready rfl rfl rfl rfl (by decide) (by decide)⟩

/-! ### Working floats, conversions, digits -/

/-- FP32 codes as working floats. -/
def fp (code : ℕ) : Img := toWf code 2 0 false
def one : Img := fp 0x3F800000
def two : Img := fp 0x40000000
def minusOne : Img := fp 0xBF800000
def infP : Img := fp 0x7F800000
def infN : Img := fp 0xFF800000
def nanI : Img := fp 0x7FC00000
def zeroI : Img := fp 0

theorem one_wf : one.wf = .fin false 16777216 (-24) := by decide
theorem two_wf : two.wf = .fin false 16777216 (-23) := by decide
theorem minusOne_wf : minusOne.wf = .fin true 16777216 (-24) := by decide

theorem one_rat : one.wf.rat = 1 := by rw [one_wf]; norm_num [Wf.rat]
theorem two_rat : two.wf.rat = 2 := by rw [two_wf]; norm_num [Wf.rat]
theorem minusOne_rat : minusOne.wf.rat = -1 := by rw [minusOne_wf]; norm_num [Wf.rat]

theorem wit_WorkingFloatTruncates :
    (one.wf.finite ∧ two.wf.finite ∧ one.wf.rat + two.wf.rat ≠ 0 ∧ one.wf.rat * two.wf.rat ≠ 0 ∧ one.wf.rat * two.wf.rat + one.wf.rat ≠ 0 ∧ two.wf.rat ≠ 0)
    ∧ minusOne.wf.finite ∧ one.wf.rat + minusOne.wf.rat = 0 := by
  rw [one_rat, two_rat, minusOne_rat]
  exact ⟨⟨by decide, by decide, by norm_num, by norm_num, by norm_num, by norm_num⟩, by decide, by norm_num⟩

theorem wit_WorkingFloatSpecialCases :
    nanI.wf = .nan ∧ infP.wf = .inf false ∧ infN.wf = .inf true ∧ one.wf.finite ∧ zeroI.wf = .zero false
    ∧ one.wf = .fin false 16777216 (-24) ∧ minusOne.wf = .fin true 16777216 (-24) := by decide

theorem wit_ApproximateFunctions :
    (one.wf.finite ∧ one.wf.rat = ((1 : ℤ) : ℚ) ∧ -510 ≤ (1 : ℤ) ∧ (1 : ℤ) ≤ 511) ∧ two.wf.rat = 2 ^ (1 : ℤ) ∧ (1 : ℤ) ≤ 510
    ∧ one.wf.rat = 2 ^ (2 * 0 : ℤ) := by
  rw [one_rat, two_rat]
  exact ⟨⟨by decide, by norm_num, by norm_num, by norm_num⟩, by norm_num, by norm_num, by norm_num⟩

theorem wit_Conversions : (5 : BitVec 3) ≠ 6 ∧ (6 : BitVec 3) = 6 := by decide

theorem wit_FinalRoundsToIntegers : one.wf.finite ∧ one.s = false ∧ 8 ≤ 13 ∧ 8 ≤ 8 ∧ 13 ≤ 13 ∧ 0 ≤ 5 ∧ 5 ≤ 5 := by decide

theorem wit_PackedInstructions : (0 : BitVec 2) ≠ 3 ∧ (2 : BitVec 2) ≠ 3 := by decide

theorem wit_AtomicOperations : ∀ op ∈ [0, 6], (4 = 4 ∨ 4 = 8) ∧ (8 = 4 ∨ 8 = 8) ∧ op < 7 := by decide

theorem wit_LoadTypes : 0 ≤ 5 ∧ 5 ≤ 5 := by decide

theorem wit_StoredFloatsWidenExactly : ∀ x ∈ [(0, 8, 7, 127, 0x3F80), (1, 5, 10, 15, 0x0001), (2, 8, 23, 127, 0x80000001), (3, 4, 3, 7, 0x7E), (4, 5, 2, 15, 0x81)],
    (x.1, x.2.1, x.2.2.1, x.2.2.2.1) ∈ [(0, 8, 7, 127), (1, 5, 10, 15), (2, 8, 23, 127), (3, 4, 3, 7), (4, 5, 2, 15)]
    ∧ x.2.2.2.2 < 2 ^ (1 + x.2.1 + x.2.2.1) ∧ (toWf x.2.2.2.2 x.1 0 false).wf.finite := by decide

theorem wit_SignedDigitValues :
    isDigits [1, 0, -1] ∧ isDigits (List.replicate 16 1) ∧ (List.replicate 16 (1 : ℤ)).length = 16 ∧ (1 : ℕ) ≤ 3
    ∧ (one.wf.finite ∧ |one.wf.rat| < 2 ^ (1 : ℤ)) ∧ (two.wf.finite ∧ 2 ^ (1 : ℤ) ≤ |two.wf.rat|) ∧ nanI.wf = .nan ∧ sdVal [1, 0, -1] 1 3 ≠ 0 := by
  rw [one_rat, two_rat]
  refine ⟨by unfold isDigits; decide, by unfold isDigits; decide, by decide, by decide, ⟨by decide, by norm_num⟩, ⟨by decide, by norm_num⟩, by decide, ?_⟩
  norm_num [sdVal, Finset.sum_range_succ]

/-! ### Elements -/

/-- A firing whose slot 0 has no predicate value in any lane of its predicate position. -/
def noPred : Firing := { firing0 with ops := [(0, .left, lanesOf3 5), (0, .pred, List.replicate 16 {})] }
theorem wit_ElementPorts :
    (ElemSlot (withFiring firing0) firing0 0 ∧ firing0.arrived 0 1 [] ∧ ∃ i < 16, ∃ ps, firing0.lets 0 1 i ps)
    ∧ ElemSlot (withFiring noPred) noPred 0 ∧ noPred.arrived 0 1 [] ∧ (noPred.lanesAt 0 .pred).length = 16 ∧ ∀ i < 16, ∀ ps, ¬ noPred.lets 0 1 i ps := by
  refine ⟨⟨⟨rfl, rfl, rfl, rfl⟩, by unfold Firing.arrived; decide, 0, by decide, false, .inr ⟨by decide, image 1, rfl, rfl, rfl⟩⟩,
    ⟨rfl, rfl, rfl, rfl⟩, by unfold Firing.arrived; decide, rfl, fun i hi ps h => ?_⟩
  obtain ⟨h, -⟩ | ⟨-, v, hv, -⟩ := h
  · exact absurd h (by decide)
  · have hn : (noPred.lane 0 .pred i).val = none := by interval_cases i <;> rfl
    rw [hn] at hv
    cases hv

def hdr : Img := mkHeader 1 2 3 false 4
/-- The lanes of a record: its header and values. -/
def recLanes : List LaneV := { val := some hdr, rank := 1, fmt := 18 } :: List.replicate 15 { val := some (image 9) }
def beat1 : Beat := (List.range 16).map (fun i => strandV 0 (image i))

theorem wit_BeatsPlacedAndRead :
    (({ used := true } : FireOut).isRec = false ∧ ((lanesOf3 5).getD 0 {}).val = some (image 5) ∧ ((List.replicate 16 ({} : LaneV)).getD 0 {}).val = none)
    ∧ (({ used := true, isRec := true } : FireOut).isRec ∧ (recLanes.getD 0 {}).val = some hdr ∧ isHeader hdr
        ∧ ((lanesOf3 5).getD 0 {}).val = some (image 5) ∧ isHeader (image 5) = false)
    ∧ (beatEmpty (List.replicate 16 {}) ∧ hkind (List.replicate 16 {}) = 0)
    ∧ (¬ (beatEmpty beat1 ∧ hkind beat1 = 0) ∧ (∀ t ∈ firing0.placed, t.1 ≠ 0) ∧ (∀ t ∈ firing0.prefixes, t.1 ≠ 0)
        ∧ (∃ t ∈ ({ firing0 with placed := [(0, beat1)] } : Firing).placed, t.1 = 0) ∧ ∃ t ∈ ({ firing0 with prefixes := [(0, beat1)] } : Firing).prefixes, t.1 = 0)
    ∧ ((bstrand beat1 0).v ∧ hkind beat1 ≠ 1 ∧ hkind beat1 ≠ 5 ∧ hkind (mkRecord hdr 1 []) = 1 ∧ (bstrand (List.replicate 16 {}) 1).v = false)
    ∧ ((0 : ℕ) < 512 ∧ 0 < 2 ^ 16 ∧ 3 < 4 ∧ 2 ^ 32 - 1 < 2 ^ 32 ∧ -2 ^ 15 ≤ (-2 ^ 15 : ℤ) ∧ (-2 ^ 15 : ℤ) < 2 ^ 15 ∧ 127 < 128) := by decide

/-- A firing of one slot with given lanes on the left, a number in every lane on the right, of an element whose first input has a segment. -/
def fOf (l : List LaneV) (n : ℕ) (g : Option SegId := none) : Firing :=
  { firing0 with ops := [(0, .left, l), (0, .right, lanesOf3 n), (0, .third, lanesOf3 7)], ins := [{ seg := g }] }
def eready (f : Firing) : Prop := ElemSlot (withFiring f) f 0 ∧ f.arrived 0 0 [.left, .right, .third]
theorem eready_of {f : Firing} (hf : f.fired = []) (ha : f.fault = none) (h : ∀ q ∈ [Pos.left, Pos.right, Pos.third], (f.operand 0 q).isSome) : eready f :=
  ⟨⟨rfl, rfl, by rw [hf]; rfl, ha⟩, .inl rfl, h⟩

theorem wit_RecordInstructions :
    (eready (fOf recLanes 5) ∧ (∃ h, ((fOf recLanes 5).lane 0 .left 0).val = some h ∧ isHeader h) ∧ ((fOf recLanes 5).lanesAt 0 .left).length = 16
      ∧ ((fOf recLanes 5).lane 0 .right 0).val = some (image 5) ∧ (3 : BitVec 4) ≠ 0)
    ∧ (eready (fOf (List.replicate 16 {}) 5) ∧ ∀ l ∈ (fOf (List.replicate 16 {}) 5).lanesAt 0 .left, l.val = none)
    ∧ (eready (fOf (lanesOf3 5) 5) ∧ ¬ (∀ l ∈ (fOf (lanesOf3 5) 5).lanesAt 0 .left, l.val = none)
      ∧ ¬ ∃ h, ((fOf (lanesOf3 5) 5).lane 0 .left 0).val = some h ∧ isHeader h)
    ∧ ((255 : ℕ) < 256 ∧ 15 < 16 ∧ 7 < 8) := by
  refine ⟨⟨eready_of rfl rfl (by decide), ⟨hdr, rfl, by decide⟩, rfl, rfl, by decide⟩, ⟨eready_of rfl rfl (by decide), by decide⟩,
    ⟨eready_of rfl rfl (by decide), by decide, ?_⟩, by decide⟩
  rintro ⟨h, hh, hd⟩
  cases hh
  exact absurd hd (by decide)

theorem wit_Reductions :
    (eready (fOf (lanesOf3 5) 5) ∧ (fOf (lanesOf3 5) 5).lets 0 0 15 false)
    ∧ (0 ≤ ((fOf (lanesOf3 5) 5).lane 0 .left 15).rank ∧ ((fOf (lanesOf3 5) 5).lane 0 .left 15).rank < 1)
    ∧ (Partial.start 0 0 0 false).clamped = false ∧ ({ Partial.start 0 0 0 false with clamped := true } : Partial).clamped :=
  ⟨⟨eready_of rfl rfl (by decide), .inl ⟨rfl, rfl⟩⟩, by decide, by decide, by decide⟩

def seg0 : SegId := { lane := 3, gen := 1, nolane := false, length := 4 }
/-- A firing at a guess point. -/
def guessing : Firing := { fOf (lanesOf3 5) 6 (some seg0) with guessPt := some 2 }
theorem wit_SteerAndGuess :
    eready guessing
    ∧ (guessing.guessPt = some 2 ∧ (guessing.inp 0).seg = some seg0 ∧ seg0.nolane = false ∧ guessing.guessed = false
        ∧ guessLane (guessing.lanesAt 0 .left) (guessing.lanesAt 0 .right) (guessing.lanesAt 0 .third) (elemCtxOf guessing 0 0).p = some (image 5, image 6, image 7))
    ∧ (eready (fOf (lanesOf3 5) 6) ∧ (fOf (lanesOf3 5) 6).guessPt = none)
    ∧ (((lanesOf3 5).getD 0 {}).val = some (image 5) ∧ ((lanesOf3 5).getD 0 {}).fmt ≠ 18 ∧ (image 1).v.getLsbD 0 ∧ (image 6).v.getLsbD 0 = false)
    ∧ ((List.replicate 16 ({} : LaneV)).getD 0 {}).val = none :=
  ⟨eready_of rfl rfl (by decide), by decide, ⟨eready_of rfl rfl (by decide), rfl⟩, by decide, rfl⟩

/-- Lanes of digits +1. -/
theorem wit_SignedDigitInstructions :
    eready (fOf (List.replicate 16 { val := some (sdElem (List.replicate 16 1) false) }) 5)
    ∧ (fOf (lanesOf3 5) 5).lets 0 0 15 false ∧ (∀ q ∈ [Pos.left, Pos.right], ((fOf (lanesOf3 5) 5).lane 0 q 15).val.isSome)
    ∧ (∃ q ∈ [Pos.left, Pos.right], ((fOf (List.replicate 16 {}) 5).lane 0 q 15).val = none) :=
  ⟨eready_of rfl rfl (by decide), .inl ⟨rfl, rfl⟩, by decide, .left, by decide, rfl⟩

/-! ### Firing in general -/

theorem wit_ResultsDelivered :
    ((3 : BitVec 9) ≠ 0x1FF ∧ (at3 1 2 3).operand 3 .left = none ∧ (0 : BitVec 9) ≠ 0x1FF ∧ (at3 1 2 3).operand 0 .left ≠ none)
    ∧ (at3 1 2 3).fault = none ∧ ({ at3 1 2 3 with fault := some { code := 1, val := 0 } } : Block).fault ≠ none
    ∧ firing0.operand 3 .left = none ∧ firing0.operand 0 .left ≠ none := by decide

theorem wit_FiringWaitsAndNulls :
    (isEvent (.add 1 5 6) = false ∧ CoreSlot (withBlock { words := [0] }) c0 0 0 { words := [0] }
      ∧ ∃ q < 4, usesPos (.add 1 5 6) q ∧ ({ words := [0] } : Block).operand 0 (Pos.ofCode (BitVec.ofNat 2 q)) = none)
    ∧ CoreSlot (withBlock (at3 5 6 7)) c0 0 0 (at3 5 6 7)
    ∧ (∀ q < 4, usesPos (.add 2 5 6) q → (at3 5 6 7).operand 0 (Pos.ofCode (BitVec.ofNat 2 q)) ≠ none) ∧ (Instr.add 2 5 6).pred ≠ 0
    ∧ (at3 5 6 7).operand 0 .pred = some ⟨1, true⟩ ∧ (⟨1, true⟩ : Img).v.getLsbD 0 ≠ ((Instr.add 2 5 6).pred == 1) :=
  ⟨⟨rfl, ⟨rfl, rfl, rfl, rfl⟩, by decide⟩, ⟨rfl, rfl, rfl, rfl⟩, by decide, by decide, rfl, by decide⟩

/-- An instruction word that completes. -/
theorem wit_WordFrame : isEvent (.add 0 0x1FF 0x1FF) = false ∧ ∃ t, exec (.add 0 0x1FF 0x1FF) (withBlock (at3 5 6 7)) = .next t :=
  ⟨rfl, _, rfl⟩

/-! ### Blocks and traps -/

/-- A launch of one page core, its page set placed on page (0, 0) of die 0, its memory at die 8; the package runs and port 0 is up with host version 1. -/
def record1 : ℕ := 2 ^ 192 + 2 ^ 160 + 2 ^ 10 + 2 ^ 128
def launch1 (ph : LaunchPhase) : Launch := { record := BitVec.ofNat 512 record1, node := 2, port := 0, tag := 9, stamp := 0, order := 0, phase := ph, gcount := 1 }
def place1 : Placed := { lid := 1, pset := 0, die := 0, x := 0, y := 0, w := 1, h := 1, mdie := 8, order := 0, isSealed := false, rotating := false, started := true }
def port1 : VPort := { node := 7, up := true, linkVer := 1, hostVer := 1 }
def world (p : PageCore) : State :=
  { State.reset with powered := true, inReset := false, booted := true, ports := Vector.replicate 18 port1, cores := [(c0, p)], launches := [launch1 .running]
                     placed := [place1], tlb := pages }
def host0 : State := world PageCore.reset
/-- The same with bytes in memory. -/
def worldAt (p : PageCore) (va : ℕ) (bs : List Byte) : State := (world p).store (0x4000000000 + va) bs

/-- A C-block of one word at 0x40: KIND 1, one word, NEXIT 1, and the word NOP. -/
def blockBytes : List Byte := leBytes 8 (2 ^ 56 + 0x10001) ++ leBytes 8 0 ++ leBytes 4 0
def at40 : PageCore := { PageCore.reset with nextAddr := some 0x40 }

/-- A load of the word at 0x40 in a launch that records, or does not. -/
def loadsIn (replay : ℕ) : State :=
  { mapped (withBlock (at3 0x40 6 7)) with launches := [{ launch1 .running with record := BitVec.ofNat 512 (record1 + 2 ^ 8 * replay) }] }
def word40 : Span := [(⟨0x40, 0x4000000040, 0, 0⟩, 8)]
theorem wit_LoadsRead_older : ∀ k ∈ [0, 1], Ready (loadsIn k) 0 (at3 0x40 6 7) [.left] (fun s x =>
    coreSpan s x.c x.blk.seqReg x.a.v.toNat 8 8 x.rd true = .ok word40 ∧ x.turn s 2 true word40 = .go ∧ spanAttr word40 = 0 ∧ spanReg word40 = false
    ∧ s.eccIn (spanPas word40) = [] ∧ readOver s (x.ownStores 2) word40 = some (List.replicate 8 0) ∧ s.recorded x.c.lid = (k == 1)) := by
  intro k hk
  simp only [List.mem_cons, List.not_mem_nil, or_false] at hk
  obtain rfl | rfl := hk <;> exact ready rfl rfl rfl rfl (by decide) (by decide +kernel)
theorem wit_LoadsRead_region : ∀ r ∈ word40, ∀ k a, regionOf r.1.pa ≠ .host k a := by
  intro r hr k a
  obtain rfl : r = (⟨0x40, 0x4000000040, 0, 0⟩, 8) := by simpa [word40] using hr
  have h : regionOf 0x4000000040 = .bulk 0 := by decide +kernel
  show regionOf 0x4000000040 ≠ _
  rw [h]
  exact fun e => by cases e

theorem wit_BlocksBegin :
    (let s := worldAt at40 0x40 blockBytes
     s.runs 1 0 ∧ s.isCut 1 0 = false ∧ (s.core c0).blocks.length < 4 ∧ (s.core c0).beginAt = some 0x40)
    ∧ (fetchBlock (worldAt at40 0x40 blockBytes) c0 0x40 = .got (2 ^ 56 + 0x10001) [0] ∧ ((worldAt at40 0x40 blockBytes).core c0).blocks = [])
    ∧ (let s := world { PageCore.reset with nextAddr := some 0x50000 }
       s.runs 1 0 ∧ s.isCut 1 0 = false ∧ (s.core c0).blocks.length < 4 ∧ (s.core c0).beginAt = some 0x50000 ∧ fetchBlock s c0 0x50000 = .bad 4 0x50000)
    ∧ (let s := world { PageCore.reset with responses := [⟨3, 0, 14, [], 0, 8, 0⟩] }
       (∃ r, (s.core c0).responses.find? (fun r => r.uid == 3 && r.slot == 0) = some r ∧ 0 ∉ (s.die r.die).stalls ∧ (s.die 0).stopped = false
         ∧ 0 ∈ (({ s with dies := s.dies.set 8 { stalls := [0] } } : State).die r.die).stalls) ∧ s.dieOfPset 1 0 = 0)
    ∧ (host0.ecc = [] ∧ spanOf host0 (.core c0) (host0.asidOf 1) 0x40 16 { wr := false, rd := true, sup := (host0.core c0).priv } = .ok [(⟨0x40, 0x4000000040, 0, 0⟩, 16)]
       ∧ ∀ n k, regionOf 0x4000000040 ≠ .host n k) := by
  refine ⟨by decide +kernel, by decide +kernel, by decide +kernel, ⟨⟨_, rfl, by decide +kernel⟩, by decide +kernel⟩, by decide +kernel, by decide +kernel, fun n k h => ?_⟩
  have hr : regionOf 0x4000000040 = .bulk 0 := by decide +kernel
  rw [hr] at h
  cases h

/-- A block that has fired: it sets g3, passes g4 on and names the next block. -/
def blkDone : Block :=
  { words := [0], wmask := 0x18, fired := [0], done := [⟨0, 0, .setr 3 (image 9)⟩, ⟨0, 0, .nullr 4⟩, ⟨0, 0, .exit 0x80⟩] }
theorem wit_BlocksCommit :
    (let s := world { PageCore.reset with blocks := [blkDone] }
     (s.core c0).blocks = [blkDone] ∧ (s.core c0).deferred = none ∧ blkDone.fault = none ∧ blkDone.phase = 0 ∧ blkDone.nstore = 0
     ∧ s.runs 1 0 ∧ s.isCut 1 0 = false ∧ s.replayOf 1 = none ∧ s.mayCommit c0 blkDone ∧ blkDone.holds [])
    ∧ (∀ d ∈ blkDone.done, d.slot < blkDone.words.length ∧ ((∃ k x, d.act = .setr k x) ∨ (∃ k, d.act = .nullr k) ∨ ∃ e, d.act = .exit e)) := by
  refine ⟨by decide +kernel, fun d hd => ?_⟩
  simp only [blkDone, List.mem_cons, List.not_mem_nil, or_false] at hd
  obtain rfl | rfl | rfl := hd
  · exact ⟨by decide, .inl ⟨_, _, rfl⟩⟩
  · exact ⟨by decide, .inr (.inl ⟨_, rfl⟩)⟩
  · exact ⟨by decide, .inr (.inr ⟨_, rfl⟩)⟩

theorem wit_ControlRegisterWrites : (13 : DWord).toNat % 8 < 6 ∧ 6 ≤ (6 : DWord).toNat % 8 ∧ 6 ≤ (15 : DWord).toNat % 8 := by decide


/-- A block that holds a fault, on a page core with a handler and without one. -/
def faulty : Block := { words := [0], fault := some { code := 3, val := 0x41, lsid := 2 } }
def trapping (tvec sstat : DWord) (d : Option DFault) : State :=
  world { PageCore.reset with blocks := [if d.isNone then faulty else { words := [0] }], tvec := tvec, sstat := sstat, deferred := d, heldTrap := some (0x11, 5) }
abbrev trapsAs (tvec sstat : DWord) : Prop :=
  let s := trapping tvec sstat none
  (s.core c0).blocks = [faulty] ∧ faulty.phase = 0 ∧ s.runs 1 0 ∧ s.isCut 1 0 = false ∧ s.chunkDue c0 ∧ (s.core c0).deferred = none
    ∧ faulty.fault = some { code := 3, val := 0x41, lsid := 2 } ∧ (s.core c0).tvec = tvec ∧ (s.core c0).sstat = sstat
theorem wit_TrapsAndReturns :
    (trapsAs 0x1000 0 ∧ trapsAs 0 0 ∧ trapsAs 0x1000 8)
    ∧ (let d : DFault := { code := 7, va := 0x50, lsid := 1, more := true }
       let s := trapping 0x1000 0 (some d)
       (s.core c0).deferred = some d ∧ (s.core c0).tvec ≠ 0 ∧ (s.core c0).sstat.getLsbD 3 = false ∧ (s.core c0).blocks = [{ words := [0] }])
    ∧ ((trapping 0x1000 0 none).core c0).heldTrap = some (0x11, 5) ∧ ((world PageCore.reset).core c0).heldTrap = none
    ∧ ((trapping 0x1000 0 none).place 1 0 ≠ none ∧ (trapping 0x1000 8 none).launch 1 = some (launch1 .running) ∧ (launch1 .running).ending = none) := by
  decide +kernel


/-- A store of two bytes to an MU page, on its way to the bank. -/
def posted1 : Posted := { seq := 5, far := false, lsid := 1, va := 0x40, kind := .store [(⟨0x40, 0x4000000040, 0, 0⟩, 2)] [1, 2] 0 }
theorem wit_StoresReachMemory :
    (let s := world { PageCore.reset with posted := [posted1] }
     s.postedAt c0 5 = some posted1 ∧ posted1.kind = .store [(⟨0x40, 0x4000000040, 0, 0⟩, [1, 2].length)] [1, 2] 0 ∧ s.postedFree c0 posted1
     ∧ s.eccBad (spanPas [(⟨0x40, 0x4000000040, 0, 0⟩, 2)]) = false ∧ s.deferred = []
     ∧ regionOf 0x4000000040 ∈ [.active 0, .staging 0, .bulk 0, .scratch 0] ∧ ∀ i < 2, regionOf (0x4000000040 + i) = regionOf 0x4000000040) := by
  decide +kernel

/-! ### The package and its ports -/

/-- A link from source port 3 of c0. -/
def link3 : Chan :=
  { lid := 1, num := 4, kind := 0, ctx := 0, fmt := 13, scale := 0, record := false, banked := false, slots := 8, srcPset := 0, srcs := [.core 0 0 3], dstPset := 0
    dst := .core 0 0 2 }
/-- A beat waits at source port 3 of c0. -/
def injecting : State := { world { PageCore.reset with src := PageCore.reset.src.set 3 [beat1] } with chans := [link3] }

theorem wit_PowerAndClocks :
    (State.reset.powered = false ∧ State.reset.supplyOk ∧ ({ State.reset with supplyOk := false } : State).supplyOk = false)
    ∧ ((world PageCore.reset).powered ∧ (world PageCore.reset).inReset = false ∧ ({ State.reset with powered := true } : State).inReset)
    ∧ (world PageCore.reset).live
    ∧ ((world PageCore.reset).dieIdle 0
      ∧ ({ world PageCore.reset with launches := [launch1 .stopped] } : State).debugHalt 0)
    ∧ injecting.corePort 0 160 = none
    ∧ ((let s := injecting
      s.corePort 0 3 = some (c0, 3) ∧ s.portOf c0 3 = (0, 3) ∧ (s.core c0).srcQ 3 = [beat1] ∧ hkind beat1 ≠ 3 ∧ s.viLink c0 3 = some link3
      ∧ s.chanNo link3.lid link3.num = some 0 ∧ (s.chanAt 0).marked = false ∧ s.room 0 1 (s.chanAt 0).ctx ∧ s.runs 1 0 ∧ cellWfFrom {} 0 s.buckets
      ∧ (s.bucket 0 3).en ∧ 1 ≤ (s.bucket 0 3).gain.level))
    ∧ (({ world PageCore.reset with dies := (world PageCore.reset).dies.set 8 { timedOut := 1 } } : State).die 8).timedOut ≠ 0 := by decide +kernel

def resp1 : Response := ⟨3, 0, 14, [], 0x40, 8, 0⟩
/-- A response that die 8 owes to die 0, held behind a stall, with die 0 as given. -/
def stalled (rs : List Response) (home : Die) : State :=
  { world { PageCore.reset with responses := rs } with dies := (State.reset.dies.set 8 { stalls := [0] }).set 0 home }
theorem wit_PowerAndClocks_stalls :
    (host0.oldestWaiting 8 0 = none ∧ (world { PageCore.reset with responses := [resp1] }).oldestWaiting 8 0 = some (c0, resp1)
      ∧ 0 ∉ ((world { PageCore.reset with responses := [resp1] }).die 8).stalls)
    ∧ (∀ rs ∈ [[], [resp1]], 0 ∈ ((stalled rs {}).die 8).stalls ∧ ((stalled rs {}).die 0).stopped = false
      ∧ ({ (stalled rs {}).updDie 8 (fun x => { x with stalls := x.stalls.filter (fun k => k ≠ 0) }) with
          outbox := (stalled rs {}).outbox ++ [.report 7 8 0 0] } : State).oldestWaiting 8 0 = rs.head?.map (fun r => (c0, r)))
    ∧ 0 ∈ ((stalled [] { stopped := true }).die 8).stalls ∧ ((stalled [] { stopped := true }).die 0).stopped := by decide +kernel

def flit0 (vc type code : ℕ) : List Byte := mkFlit ⟨2, 7, 16, false, 0, 0, vc, type, 0⟩ (leBytes 8 code ++ leBytes 8 0)
/-- The package with port 0 as given. -/
def withPort (p : VPort) : State := { world PageCore.reset with ports := (world PageCore.reset).ports.set 0 p }
def packet (op : ℕ) : RocePacket := { icrcOk := true, rc := true, qp := 1, op := op, key := 6, addr := 0x20000, len := 2, data := [1, 2], ce := false }
def pausing : RocePacket := { packet 0 with pfc := some (3, true) }
/-- A remote key whose window is the supervisor page of ASID 0. -/
def keyed : State := { world PageCore.reset with keys := [⟨6, 0, 0x20000, 0x10000⟩], tlb := pages.map (fun e => { e with owner := .die 16 }) }

theorem wit_PortsAndPackets :
    ((withPort {}).live ∧ ((withPort {}).port 0).up = false ∧ ((withPort {}).port 0).disabled = false
      ∧ (max 1 1 ≤ 2 ∧ 2 = min 2 2) ∧ min 1 2 < max 3 1)
    ∧ ((withPort port1).port 0).up ∧ (flitWhole [] = false)
    ∧ ((withPort { port1 with discarding := true }).port 0).discarding ∧ ((withPort port1).port 0).discarding = false := by decide +kernel
set_option maxRecDepth 100000 in
theorem wit_PortsAndPackets_flits :
    (¬ (flitWhole (flit0 0 1 3) = false ∨ (flitHead (flit0 0 1 3)).seq ≠ ((withPort port1).port 0).recvSeq) ∧ (flitHead (flit0 0 1 3)).nak = false
      ∧ (flitHead (flit0 0 1 3)).vc < 5 ∧ (flitHead (flit0 0 1 3)).vc ≠ 3 ∧ (flitHead (flit0 0 1 3)).type = 1 ∧ ((withPort port1).die (portDie 0)).stopped = false
      ∧ msgEvent (flitCode (flit0 0 1 3)) (flitMsg 0 (flit0 0 1 3)) = some (.abort (flitMsg 0 (flit0 0 1 3))))
    ∧ (flitWhole (flit0 0 1 0x999) = true ∧ msgEvent (flitCode (flit0 0 1 0x999)) (flitMsg 0 (flit0 0 1 0x999)) = none)
    ∧ (flitWhole (flit0 6 1 3) = true ∧ 5 ≤ (flitHead (flit0 6 1 3)).vc)
    ∧ (flitWhole (flit0 3 2 3) = true ∧ (flitHead (flit0 3 2 3)).vc = 3 ∧ (flitHead (flit0 3 2 3)).type = 2)
    ∧ (∀ k ∈ [(3, 1), (2, 3), (2, 4)], flitWhole (flit0 k.1 k.2 3) = true ∧ (flitHead (flit0 k.1 k.2 3)).vc = k.1 ∧ (flitHead (flit0 k.1 k.2 3)).type = k.2)
    ∧ ((flitHead (flit0 0 1 3)).seq ≠ ((withPort { port1 with discarding := true, recvSeq := 9 }).port 0).recvSeq)
    ∧ (0 < 18 ∧ [(1 : Byte), 2].length ≤ 240 ∧ 7 < 2 ^ 16 ∧ 3 < 8 ∧ 2 < 16 ∧ ((withPort port1).port 0).node < 2 ^ 16 ∧ ((withPort port1).port 0).sendSeq < 2 ^ 12) := by
  decide +kernel
theorem wit_PortsAndPackets_replay :
    ((let p : VPort := { port1 with replay := [] ++ (0, []) :: (1, [5]) :: [] }
      ((withPort p).port 0).up ∧ ((withPort p).port 0).again < 16 ∧ ((withPort p).port 0).replay = [] ++ (0, []) :: (1, [5]) :: [])
    ∧ (16 ≤ ((withPort { port1 with again := 16 }).port 0).again ∧ ((withPort { port1 with again := 16 }).port 0).disabled = false
      ∧ ((withPort { port1 with again := 16 }).port 0).retrains < 2 ∧ 2 ≤ ((withPort { port1 with again := 16, retrains := 2 }).port 0).retrains)) := by decide +kernel
theorem wit_PortsAndPackets_roce :
    (host0.live ∧ (packet 0).port < 8 ∧ (host0.die (ethDie (packet 0).port)).stopped = false ∧ (packet 0).frame ≤ 9216 ∧ (packet 0).pfc = none ∧ (packet 0).icrcOk
      ∧ (packet 0).rc ∧ (packet 0).qp < 8192 ∧ 9216 < ({ packet 0 with frame := 9217 } : RocePacket).frame ∧ pausing.pfc = some (3, true)
      ∧ ({ packet 0 with icrcOk := false } : RocePacket).icrcOk = false ∧ ({ packet 0 with rc := false } : RocePacket).rc = false
      ∧ 8192 ≤ ({ packet 0 with qp := 8192 } : RocePacket).qp ∧ (packet 1).op < 2 ∧ (packet 5).op = 5 ∧ (packet 6).op = 6 ∧ 6 < (packet 7).op
      ∧ (packet 0).data.length ≤ (host0.qpair 1).mtu ∧ ((host0.setQpair { qp := 1, mtu := 1 }).qpair 1).mtu < (packet 0).data.length)
    ∧ (((world PageCore.reset).setQpair { qp := (packet 4).qp, boundTo := some 1 }).qpair (packet 4).qp).boundTo.isSome ∧ (keyed.qpair (packet 4).qp).boundTo = none
    ∧ ((world PageCore.reset).keySpan (packet 2) true = none ∧ (world PageCore.reset).keySpan (packet 4) false = none
      ∧ keyed.keySpan (packet 4) false = some [(⟨0x20000, 0x4000020000, 0, 0⟩, 2)] ∧ keyed.keySpan (packet 2) true = some [(⟨0x20000, 0x4000020000, 0, 0⟩, 2)]
      ∧ (keyed.outerStore [(⟨0x20000, 0x4000020000, 0, 0⟩, 2)] [1, 2]).isSome
      ∧ keyed.eccBad (spanPas [(⟨0x20000, 0x4000020000, 0, 0⟩, 2)]) = false
      ∧ ({ keyed with ecc := [(0x4000020000 / 32, 2, true)] } : State).eccBad (spanPas [(⟨0x20000, 0x4000020000, 0, 0⟩, 2)])) := by decide +kernel
/-- A write of two bytes to a WO page by a key: nothing is stored outside an MU page. -/
theorem wit_PortsAndPackets_outer : keyed.outerStore [(⟨0x20001, 0x4000020001, 1, 0⟩, 2)] [1, 2] = none := by decide +kernel
theorem wit_PortsAndPackets_pause :
    (frameClass (packet 0) ∈ (({ host0 with eth := host0.eth.set 0 { paused := [0] } } : State).ethPort 0).paused ∧ frameClass (packet 0) ∉ (host0.ethPort 0).paused)
    ∧ (((Config.pfcPriority 0 0 : Fin 8) : ℕ) = Config.pfcPriority 0 0 ∧ ∃ p : ℕ, ¬ (p = Config.pfcPriority 0 0 ∨ p = Config.pfcPriority 0 1))
    ∧ 1 ≤ 4096 := by
  refine ⟨by decide +kernel, ⟨rfl, 9, ?_⟩, by decide⟩
  have h1 := (Config.pfcPriority 0 0).isLt
  have h2 := (Config.pfcPriority 0 1).isLt
  omega

/-! ### Messages of hosts -/

theorem leBytes_len (n x : ℕ) : (leBytes n x).length = n := by
  induction n generalizing x with
  | zero => rfl
  | succ n ih => simp [leBytes, ih]
def msgOf (vc : ℕ) (body : List Byte) : HostMsg := ⟨0, 2, vc, 1, 0, 9, body⟩
/-- A body that names a buffer of 2^24 − 1 bytes at node 2, after `pre` and with `pad` bytes before the node. -/
def bufBody (pre : List Byte) : List Byte := pre ++ leBytes 2 2 ++ List.replicate 6 0 ++ leBytes 8 0x1000 ++ leBytes 4 0xFFFFFF ++ List.replicate 4 0
theorem heard {s : State} {m : HostMsg} {vc len : ℕ} {zeros : List (ℕ × ℕ)} (hs : s.live = true) (hp : (s.port m.port).up = true)
    (hl : layoutOk m len zeros = true) (hv : (s.port m.port).hostVer ≠ 0 ∧ m.pver = (s.port m.port).hostVer) (hc : m.vc = vc) : Heard s m vc len zeros :=
  ⟨hs, hp, hl, hv, hc⟩
def bufMsg : HostMsg := msgOf 0 (bufBody (leBytes 4 1 ++ List.replicate 4 0))

theorem wit_HostMessages_refused :
    (host0.live ∧ (host0.port 0).up ∧ State.reset.live = false)
    ∧ isMessage (msgOf 0 []) (.kill (msgOf 0 [])) 0 4 [] ∧ layoutOk (msgOf 0 []) 4 [] = false
    ∧ isMessage (msgOf 0 (leBytes 4 1)) (.kill (msgOf 0 (leBytes 4 1))) 0 4 [] ∧ layoutOk (msgOf 0 (leBytes 4 1)) 4 [] ∧ ((withPort {}).port 0).hostVer = 0
    ∧ ({ msgOf 0 (leBytes 4 1) with pver := 2 } : HostMsg).pver ≠ (host0.port 0).hostVer ∧ (msgOf 1 (leBytes 4 1)).vc ≠ 0 := by
  refine ⟨by decide +kernel, by unfold isMessage; simp, by decide +kernel, by unfold isMessage; simp, by decide +kernel⟩

theorem wit_HostMessages_ptbase :
    (∀ b ∈ [0, 0x4000010000, 0x4000010001], Heard host0 (msgOf 0 (leBytes 8 5 ++ leBytes 8 b)) 0 16 [(2, 6)] ∧ HostMsgField (msgOf 0 (leBytes 8 5 ++ leBytes 8 b)) 8 8 = b)
    ∧ (0x4000010000 % 65536 = 0 ∧ inStore 0x4000010000 ∧ 0x4000010001 % 65536 ≠ 0) := by
  refine ⟨fun b hb => ?_, by decide +kernel⟩
  simp only [List.mem_cons, List.not_mem_nil, or_false] at hb
  obtain rfl | rfl | rfl := hb <;> exact ⟨heard (by decide +kernel) (by decide +kernel) (by decide +kernel) (by decide +kernel) rfl, by decide +kernel⟩

theorem wit_HostMessages_attest :
    (let m := msgOf 0 (bufBody (List.replicate 32 1))
     let k := msgOf 0 (List.replicate 56 0)
     Heard host0 m 0 56 [(34, 6), (52, 4)] ∧ host0.takesAnswer m 32 (host0.attestReport (m.body.take 32))
     ∧ Heard host0 k 0 56 [(34, 6), (52, 4)] ∧ HostMsgField k 48 4 < (host0.attestReport (k.body.take 32)).length) := by
  refine ⟨heard (by decide +kernel) (by decide +kernel) (by decide +kernel) (by decide +kernel) rfl, ⟨?_, by decide +kernel⟩,
    heard (by decide +kernel) (by decide +kernel) (by decide +kernel) (by decide +kernel) rfl, ?_⟩
  · have hf : HostMsgField (msgOf 0 (bufBody (List.replicate 32 1))) 48 4 = 0xFFFFFF := by decide +kernel
    have h1 := Config.identityLen.isLt
    have h2 := Config.firmwareLen.isLt
    have h3 : ((host0.launches.filter (fun l => host0.placed.any (fun p => p.lid == l.lid))).flatMap (fun l =>
      ((l.image.bind (fun i => i.sealedDigest)).getD []))).length = 0 := by decide +kernel
    have h4 : ((msgOf 0 (bufBody (List.replicate 32 1))).body.take 32).length = 32 := by decide +kernel
    simp only [State.attestReport, Config.identity, Config.firmware, Config.mlDsaSign, List.length_append, List.length_map, List.length_range, leBytes_len, hf, h3, h4]
    omega
  · have hf : HostMsgField (msgOf 0 (List.replicate 56 0)) 48 4 = 0 := by decide +kernel
    have h4 : ((msgOf 0 (List.replicate 56 0)).body.take 32).length = 32 := by decide +kernel
    rw [hf]
    simp only [State.attestReport, List.length_append, h4]
    omega

theorem wit_HostMessages_held :
    (Heard host0 bufMsg 0 32 [(4, 4), (10, 6), (28, 4)] ∧ HostMsgField bufMsg 0 4 = 1)
    ∧ (kget 1 host0.frost = none ∧ kget 1 ({ host0 with frost := [(1, [3])] } : State).frost = some [3] ∧ [(3 : Byte)].length ≤ HostMsgField bufMsg 24 4 ∧ 2 ∉ host0.refusing
      ∧ HostMsgField bufMsg 8 2 = 2)
    ∧ (host0.logOf 1 = none ∧ (({ host0 with launches := [], replays := [{ lid := 1, entries := [5] }] } : State).logOf 1).isSome)
    ∧ (kget 1 host0.samples = none ∧ kget 1 ({ host0 with samples := [(1, [[3]])] } : State).samples = some [[3]])
    ∧ (let m := msgOf 0 (leBytes 8 1 ++ List.replicate 24 0)
       Heard host0 m 0 32 [(4, 4), (10, 6), (28, 4)] ∧ HostMsgField m 24 4 < [(3 : Byte)].length) := by
  refine ⟨⟨heard (by decide +kernel) (by decide +kernel) (by decide +kernel) (by decide +kernel) rfl, by decide +kernel⟩, by decide +kernel, by decide +kernel, by decide +kernel,
    heard (by decide +kernel) (by decide +kernel) (by decide +kernel) (by decide +kernel) rfl, by decide +kernel⟩

def halted : State := { host0 with launches := [launch1 .stopped] }
theorem wit_HostMessages_debug :
    (Heard halted bufMsg 0 32 [(6, 2), (10, 6), (28, 4)] ∧ HostMsgField bufMsg 0 4 = 1 ∧ HostMsgField bufMsg 4 2 = 0)
    ∧ (({ host0 with launches := [] } : State).launch 1 = none ∧ host0.launch 1 = some (launch1 .running) ∧ (launch1 .running).phase ≠ .stopped ∧ (launch1 .running).phase ≠ .frozen)
    ∧ (halted.launch 1 = some (launch1 .stopped) ∧ (∀ q ∈ halted.placed, q.lid = 1 → (q.pset = HostMsgField bufMsg 4 2 ↔ q = place1)) ∧ place1 ∈ halted.placed
      ∧ place1.lid = 1 ∧ halted.placed.Nodup ∧ HostMsgField bufMsg 4 2 ≠ 0xFFFF ∧ place1.isSealed = false ∧ ({ place1 with isSealed := true } : Placed).isSealed)
    ∧ (Heard halted (msgOf 0 (leBytes 4 1)) 0 4 [] ∧ HostMsgField (msgOf 0 (leBytes 4 1)) 0 4 = 1 ∧ (∀ g ∈ halted.grafts, g.lid ≠ 1) ∧ (launch1 .running).ending = none) := by
  refine ⟨⟨heard (by decide +kernel) (by decide +kernel) (by decide +kernel) (by decide +kernel) rfl, by decide +kernel⟩, by decide +kernel, by decide +kernel,
    heard (by decide +kernel) (by decide +kernel) (by decide +kernel) (by decide +kernel) rfl, by decide +kernel⟩

/-- A manifest without an entry, in the memory of node 2 at 0x1000. -/
def manifest0 : List Byte := leBytes 2 1 ++ List.replicate 62 0
def shared : State := { host0 with hostMem := [(2, 0x1000, manifest0)] }
def prepareBody (digest : List Byte) : List Byte := leBytes 2 2 ++ List.replicate 6 0 ++ leBytes 8 0x1000 ++ leBytes 8 64 ++ digest
theorem sha3_body (d : List Byte) : ((msgOf 0 (prepareBody (Config.sha3 d))).body.drop 24).take 64 = Config.sha3 d := by
  simp only [msgOf, prepareBody, List.drop_append, List.length_append, leBytes_len, List.length_replicate]
  simp [Config.sha3, leBytes]

theorem sha3_layout (d : List Byte) : layoutOk (msgOf 0 (prepareBody (Config.sha3 d))) 88 [(2, 6)] = true := by
  simp only [layoutOk, msgOf, prepareBody, List.length_append, leBytes_len, List.length_replicate]
  have h : (Config.sha3 d).length = 64 := by simp [Config.sha3]
  rw [h]
  rfl

theorem wit_HostMessages_prepare :
    (let m := msgOf 0 (prepareBody (Config.sha3 manifest0))
     Heard shared m 0 88 [(2, 6)] ∧ shared.hostRead (HostMsgField m 0 2) (HostMsgField m 8 8) (HostMsgField m 16 8) = some manifest0
     ∧ Config.sha3 manifest0 = (m.body.drop 24).take 64) :=
  ⟨heard (by decide +kernel) (by decide +kernel) (sha3_layout _) (by decide +kernel) rfl, by decide +kernel, (sha3_body _).symm⟩

/-- REPLAY_ARM names a log of no bytes for launch 1 in the memory of node 2. -/
def armBody (digest : List Byte) : List Byte := leBytes 4 1 ++ leBytes 2 2 ++ leBytes 2 0 ++ leBytes 8 0x1000 ++ leBytes 8 0 ++ digest
theorem sha3_arm (d : List Byte) : ((msgOf 0 (armBody (Config.sha3 d))).body.drop 24).take 64 = Config.sha3 d := by
  simp only [msgOf, armBody, List.drop_append, List.length_append, leBytes_len]
  simp [Config.sha3, leBytes]
theorem logPartial_nil : logPartial [] = false := by
  unfold logPartial Config.logHead
  cases h : Config.logHeadLen with
  | zero => simp
  | succ n => simp
theorem wit_HostMessages_replay :
    (let m := msgOf 0 (armBody (Config.sha3 []))
     Heard shared m 0 88 [(6, 2)] ∧ shared.hostRead (HostMsgField m 4 2) (HostMsgField m 8 8) (HostMsgField m 16 8) = some []
     ∧ Config.sha3 [] = (m.body.drop 24).take 64 ∧ logPartial [] = false) := by
  refine ⟨heard (by decide +kernel) (by decide +kernel) ?_ (by decide +kernel) rfl, by decide +kernel, (sha3_arm _).symm, logPartial_nil⟩
  have h : (Config.sha3 []).length = 64 := by simp [Config.sha3]
  simp only [layoutOk, msgOf, armBody, List.length_append, leBytes_len]
  rw [h]
  rfl

def launchRec (prio : ℕ) : ℕ := 2 + 2 ^ 192 * 2 + 2 ^ 160 + 2 ^ 128 + prio * 2 ^ 16
def launchable : State := { host0 with ptbase := [(0, 0x4000020000)] }
def loadingWith (ph : LoadPhase) (es : List Shard) : State := { host0 with load := { phase := ph, shards := es, topStart := some 5 } }

theorem wit_LaunchAndLoadControl_launch :
    (let m := msgOf 1 (leBytes 64 (launchRec 0))
     let l : Launch := { record := BitVec.ofNat 512 (leNat (m.body.take 64)), node := m.node, port := m.port, tag := m.tag, stamp := 0, order := 0,
                         phase := .queued, gcount := leNat (m.body.take 64) % 2 ^ 512 / 2 ^ 128 % 2 ^ 32 }
     Heard launchable m 1 64 [] ∧ launchable.rejects l = none ∧ launchable.failedPre l = none ∧ host0.rejects l = some 0x16) := by
  refine ⟨heard (by decide +kernel) (by decide +kernel) (by decide +kernel) (by decide +kernel) rfl, by decide +kernel⟩

theorem wit_LaunchAndLoadControl_prepare :
    (let m := msgOf 0 (prepareBody (Config.sha3 manifest0))
     Heard shared m 0 88 [(2, 6)] ∧ shared.load.phase = .idle
     ∧ (shared.hostRead (HostMsgField m 0 2) (HostMsgField m 8 8) (HostMsgField m 16 8)).bind
         (fun b => if Config.sha3 b = (m.body.drop 24).take 64 then manifestShards shared.ownNodes b else none) = some [])
    ∧ (let m := msgOf 0 (List.replicate 88 0)
       Heard host0 m 0 88 [(2, 6)] ∧ (host0.hostRead (HostMsgField m 0 2) (HostMsgField m 8 8) (HostMsgField m 16 8)).bind
         (fun b => if Config.sha3 b = (m.body.drop 24).take 64 then manifestShards host0.ownNodes b else none) = none) := by
  refine ⟨⟨heard (by decide +kernel) (by decide +kernel) (sha3_layout _) (by decide +kernel) rfl, by decide +kernel, ?_⟩,
    heard (by decide +kernel) (by decide +kernel) (by decide +kernel) (by decide +kernel) rfl, ?_⟩
  · have h : shared.hostRead (HostMsgField (msgOf 0 (prepareBody (Config.sha3 manifest0))) 0 2) (HostMsgField (msgOf 0 (prepareBody (Config.sha3 manifest0))) 8 8)
      (HostMsgField (msgOf 0 (prepareBody (Config.sha3 manifest0))) 16 8) = some manifest0 := by decide +kernel
    rw [h]
    exact (if_pos (sha3_body manifest0).symm).trans (by decide +kernel)
  · have h : host0.hostRead (HostMsgField (msgOf 0 (List.replicate 88 0)) 0 2) (HostMsgField (msgOf 0 (List.replicate 88 0)) 8 8)
      (HostMsgField (msgOf 0 (List.replicate 88 0)) 16 8) = none := by decide +kernel
    rw [h]
    rfl

def shard3 : Shard := { index := 3, len := 2, offset := 0, digest := Config.sha3 [1, 2] }
theorem wit_LaunchAndLoadControl_load :
    (let s := loadingWith .loading [shard3]
     s.load.phase = .loading ∧ (s.load.shards.filter (fun e => !e.fetched)) = [shard3] ∧ [[(1 : Byte)]][0]? = some [1] ∧ [(1 : Byte)].length ≠ shard3.len)
    ∧ (∀ (j : ℕ) (f : Shard) (b : List Byte), [shard3][j]? = some f → [[(1 : Byte), 2]][j]? = some b → b.length = f.len ∧ Config.sha3 b = f.digest)
    ∧ (let m := msgOf 0 (leBytes 8 6)
       (∀ ph : LoadPhase, Heard (loadingWith ph []) m 0 8 [] ∧ (loadingWith ph []).load.phase = ph) ∧ HostMsgField m 0 8 = 6)
    ∧ (let s := loadingWith .ready []
       (s.load.topStart = some 5 ∧ 5 ≤ 5 ∧ 5 < 6) ∧ (∃ l ∈ s.launches, l.stamp < 6) ∧ ∀ l ∈ ({ s with launches := [] } : State).launches, 6 ≤ l.stamp)
    ∧ ∀ ph : LoadPhase, Heard (loadingWith ph []) (msgOf 0 []) 0 0 [] := by
  refine ⟨⟨rfl, rfl, rfl, by decide +kernel⟩, fun j f b hf hb => ?_, ⟨fun ph => ⟨heard ?_ ?_ ?_ ?_ rfl, rfl⟩, by decide +kernel⟩, by decide +kernel, fun ph => heard ?_ ?_ ?_ ?_ rfl⟩
  · match j with
    | 0 =>
      simp only [List.getElem?_cons_zero, Option.some.injEq] at hf hb
      subst hf hb
      exact ⟨rfl, rfl⟩
    | _ + 1 => simp at hf
  all_goals revert ph
  all_goals intro ph; cases ph <;> decide +kernel

/-! ### The dispatcher, the loader and the allocator -/

/-- An image of one page set of one page: its header, a section table of one entry, the declaration; `flag` is the page set's flags. -/
def imageOf1 (flag : ℕ) : List Byte :=
  leBytes 4 0x00464F56 ++ leBytes 4 0x02030001 ++ leBytes 4 1 ++ leBytes 4 0 ++ leBytes 8 64 ++ leBytes 4 0 ++ leBytes 4 0 ++ leBytes 8 0 ++ leBytes 8 0x20000
    ++ List.replicate 16 0
    ++ leBytes 2 3 ++ leBytes 2 0 ++ leBytes 4 0xFFFFFFFF ++ leBytes 8 96 ++ leBytes 8 16 ++ leBytes 8 0
    ++ leBytes 4 0 ++ leBytes 1 1 ++ leBytes 1 1 ++ leBytes 1 0xFF ++ leBytes 1 flag ++ List.replicate 8 0
/-- The image that stands at 0x20000, as it is read: of w × 1 pages. -/
def image1 (w : ℕ) : Image :=
  { entry := 0, graph0 := 0, handler := 0, linkbase := 0x20000, codeAt := 0x20100, psets := [⟨w, 1, none, false, false⟩], graph := [], pipes := []
    sects := [⟨3, 0, 0xFFFFFFFF, leBytes 4 0 ++ [BitVec.ofNat 8 w, 1, 0xFF, 0] ++ List.replicate 8 0⟩], sealedDigest := none }
/-- A launch numbered 2 of the image at 0x20000, on die 0. -/
def launch2 (prio : ℕ) (ph : LaunchPhase) (im : Option Image) : Launch :=
  { record := BitVec.ofNat 512 (launchRec prio + 0x20000 * 2 ^ 64), node := 2, port := 0, tag := 9, stamp := 0, order := 1, phase := ph, gcount := 1, image := im }
/-- Launch 2 is head; only three pages of die 0 are exposed; launch 1 stands on page x of them. -/
def heading (x : ℕ) (l : Launch) (bytes : List Byte) : State :=
  ({ host0 with head := some 2, launches := [{ launch1 .running with image := some (image1 1) }, l], placed := [{ place1 with x := x }]
                tlb := pages.map (fun e => { e with owner := .die 16 }), pmap := Vector.replicate 8 7 } : State).store 0x4000020000 bytes

theorem wit_HeadAndPlacement_choice :
    ((heading 1 (launch2 0 .queued none) []).live ∧ (heading 1 (launch2 0 .queued none) []).keepsHead
      ∧ ({ heading 1 (launch2 0 .queued none) [] with head := none } : State).keepsHead = false)
    ∧ (let l := launch2 0 .queued none
       (heading 1 l []).headLaunch = some l ∧ l.image = none ∧ l.waits ∧ (heading 1 l []).readImage l = .error (.check 2)
       ∧ (heading 1 l (imageOf1 1)).readImage l = .error .signature
       ∧ (heading 1 l (imageOf1 0)).readImage l = .ok (image1 1, 0) ∧ (heading 1 l (imageOf1 0)).noFit l (image1 1) = false
       ∧ (heading 1 l (imageOf1 0)).noFit l (image1 4) = true) := by decide +kernel

theorem wit_HeadAndPlacement_place :
    (let l := launch2 0 .queued (some (image1 1))
     (heading 1 l []).placing = some (l, image1 1) ∧ ((heading 1 l []).placeAll (heading 1 l []).yard l (image1 1) (heading 1 l []).busyDies).isSome)
    ∧ (let l := launch2 0 .queued (some (image1 2))
       (heading 1 l []).placing = some (l, image1 2) ∧ (heading 1 l []).placeAll (heading 1 l []).yard l (image1 2) (heading 1 l []).busyDies = none
       ∧ (heading 1 l []).seeksGraft l (image1 2) ∧ ((heading 1 l []).graftPlan l (image1 2)).map (fun q => q.x) = some 0)
    ∧ (let l := launch2 1 .queued (some (image1 3))
       (heading 1 l []).placing = some (l, image1 3) ∧ (heading 1 l []).seeksGraft l (image1 3) ∧ (heading 1 l []).graftPlan l (image1 3) = none
       ∧ (∀ c ∈ (heading 1 l []).cuts, c.why ≠ .preempt)
       ∧ firstVictim ((heading 1 l []).victims l) = some { launch1 .running with image := some (image1 1) }) := by decide +kernel

/-- A memory node that writes bytes 0 to 63, and an image with two of them. -/
def node64 : List Byte := leBytes 16 (63 * 2 ^ 56 + 2 ^ 118) ++ leBytes 8 0 ++ [0, 1, 13, 0] ++ List.replicate 4 0 ++ leBytes 8 1 ++ List.replicate 40 0
def imageOf2 : List Byte :=
  leBytes 4 0x00464F56 ++ leBytes 4 0x02030001 ++ leBytes 4 2 ++ leBytes 4 0 ++ leBytes 8 64 ++ leBytes 4 0 ++ leBytes 4 0 ++ leBytes 8 0 ++ leBytes 8 0x20000
    ++ List.replicate 16 0
    ++ leBytes 2 3 ++ leBytes 2 0 ++ leBytes 4 0xFFFFFFFF ++ leBytes 8 128 ++ leBytes 8 16 ++ leBytes 8 0
    ++ leBytes 2 6 ++ leBytes 2 0 ++ leBytes 4 0 ++ leBytes 8 144 ++ leBytes 8 160 ++ leBytes 8 0
    ++ leBytes 4 0 ++ leBytes 1 1 ++ leBytes 1 1 ++ leBytes 1 0xFF ++ leBytes 1 0 ++ List.replicate 8 0 ++ node64 ++ node64
theorem wit_HeadAndPlacement_race :
    (let l : Launch := { launch2 0 .queued none with record := BitVec.ofNat 512 (launchRec 0 + 0x20000 * 2 ^ 64 + 2 ^ 9) }
     (heading 1 l imageOf2).headLaunch = some l ∧ (heading 1 l imageOf2).readImage l = .error (.race 0 1)) := by decide +kernel

/-- An image with an illegal word: a memory node of no loop. -/
def badNode : Image := { image1 1 with sects := [⟨6, 0, 0, List.replicate 80 0⟩] }
theorem wit_HeadAndPlacement_load :
    (let l := launch2 0 .loading (some (image1 1))
     let s := { heading 1 l [] with placed := [{ place1 with x := 1 }, { place1 with lid := 2 }] }
     s.headLaunch = some l ∧ l.phase = .loading ∧ l.ending = none ∧ s.isDormant l.lid = false ∧ l.image = some (image1 1) ∧ s.rejected l.lid (image1 1) = none
     ∧ s.rejected l.lid badNode = some (8, 0, 0))
    ∧ (({ heading 1 (launch2 0 .queued none) [] with grafts := [⟨1, 0, 0, 0, 2⟩] } : State).grafts.find? (fun g =>
        !(heading 1 (launch2 0 .queued none) []).isCut g.lid g.pset && (heading 1 (launch2 0 .queued none) []).launchRuns g.lid) = some ⟨1, 0, 0, 0, 2⟩
      ∧ (heading 1 (launch2 0 .queued none) []).place 1 0 = some { place1 with x := 1 } ∧ (heading 1 (launch2 0 .queued none) []).ended 1 = false
      ∧ (heading 1 (launch2 0 .queued none) []).ecc = []) := by decide +kernel

/-! ### Groups, sections, completion -/

/-- A graph of a section of four tiles, and a node that ends the group when it is done. -/
def graph1 : Image := { image1 1 with graph := [⟨1, [1], true, 0, 4, 0, 0, true⟩, ⟨2, [], false, 1, 0, 0, 0, true⟩] }
def run1 : GroupRun := { idx := 0, counters := [0, 1], finished := [false, false] }
def page1 : PageRef := ⟨1, 0, 0, 0⟩
def seqOf (q : GraphSeq) (l : Launch) : State := { host0 with launches := [l], seqs := host0.seqs.set 0 q, chans := [{ link3 with srcs := [.core 0 0 31] }] }
def grouped : Launch := { launch1 .running with image := some graph1, groups := [run1], nextGroup := 1 }

theorem wit_GroupsAndCompletion_groups :
    (let l := { launch1 .running with image := some graph1 }
     let s : State := { host0 with launches := [l] }
     s.launch 1 = some l ∧ s.launchRuns 1 ∧ l.nextGroup < l.gcount ∧ l.groups = [] ∧ (graph1.graph[0]?.map (fun g => g.deps)) = some 0 ∧ s.gnodeDie 1 0 < 8)
    ∧ (let l := { launch1 .running with image := some (image1 1) }
     let s : State := { host0 with launches := [l] }
     s.launch 1 = some l ∧ s.launchRuns 1 ∧ l.nextGroup < l.gcount ∧ l.groups = [] ∧ (image1 1).graph = [] ∧ l.gcount ≤ l.nextGroup + 1 ∧ s.raising 1 = false)
    ∧ (let s := seqOf { ready := [(1, 0, 0)] } grouped
       (s.die 0).stopped = false ∧ (s.seqAt 0).taskTurn = false ∧ (s.seqAt 0).ready.find? s.readyNow = some (1, 0, 0) ∧ (s.gnode 1 0).map (fun g => (g.kind, g.tiles)) = some (1, 4))
    ∧ (let s := seqOf { ready := [(1, 0, 1)], taskTurn := true } grouped
       (s.seqAt 0).tasks.any s.taskNow = false ∧ (s.seqAt 0).ready.find? s.readyNow = some (1, 0, 1) ∧ (s.gnode 1 1).map (fun g => g.kind) = some 2)
    ∧ (let a : Arming := { lid := 1, group := 0, node := 0, page := page1, root := 0, task := false, done := true }
       let s : State := { seqOf {} grouped with armings := [a] }
       s.armings.find? (fun a => a.lid == 1 && a.node == 0 && a.group == 0 && a.done) = some a ∧ a.task = false ∧ s.groupAt 1 0 = some run1
       ∧ 0 < run1.finished.length ∧ (∃ k < run1.finished.length, k ≠ 0 ∧ run1.finished.getD k true = false))
    ∧ (let r : Task := ⟨1, 0, 4, 0, 77, 0⟩
       let s := seqOf { tasks := [r] } grouped
       (s.seqAt 0).ready.any s.readyNow = false ∧ (s.seqAt 0).tasks.find? s.taskNow = some r ∧ (s.gnode r.lid r.node).map (fun g => g.kind) = some 1
       ∧ (s.viLink c0 31).isSome)
    ∧ (let r : Task := ⟨1, 9, 4, 0, 77, 0⟩
       let s := seqOf { tasks := [r], taskTurn := true } grouped
       (s.seqAt 0).taskTurn ∧ (s.seqAt 0).tasks.find? s.taskNow = some r ∧ s.gnode r.lid r.node = none ∧ s.launch r.lid = some grouped ∧ grouped.ending = none) := by decide +kernel

def node0 (tok : Option ℕ) (done : List ℕ) (par : Option ℕ) : Trellis :=
  { page := page1, node := 0, kind := 1, window := 1, parent := par, kids := [(1, 0), (8, 2)], offer := if tok.isNone then some 3 else none, token := tok, doneIn := done
    finished := [2, 3], started := [3, 3] }
def treed (t : Trellis) : State := { host0 with trellis := [t, { node0 none [] none with node := 1, offer := none }], leaves := [{ page := page1, leaf := 0 }] }
theorem wit_GroupsAndCompletion_trellis :
    (let t := node0 none [] none
     (treed t).runs 1 0 ∧ (treed t).trellisAt page1 0 = some t ∧ t.offer = some 3 ∧ t.token = none ∧ t.doneIn = [] ∧ (∀ e ∈ t.kids, e.1 ≠ 0) ∧ (t.kids.map (fun e => e.1)).Nodup
     ∧ 1 ≤ t.window ∧ (3 : ℕ) ≠ 0 ∧ t.kids ≠ []
     ∧ (∃ w, (treed t).trellisAt page1 1 = some w ∧ w.token = none ∧ w.offer = none) ∧ (∃ w, (treed t).leafAt page1 0 = some w ∧ w.token = none))
    ∧ (let t := node0 (some 3) [1] (some 1)
       (treed t).runs 1 0 ∧ (treed t).trellisAt page1 0 = some t ∧ 1 ∈ t.doneIn ∧ t.kidOf 1 = some 0 ∧ t.token.isSome ∧ t.parent ≠ some 0
       ∧ (treed t).trellisAt page1 1 ≠ none ∧ ∀ j < t.kids.length, (setAt t.finished 0 (fun i => i + 1)).getD j 0 = t.total)
    ∧ (let t := { node0 (some 4) [1] none with finished := [2, 2] }
       (treed t).trellisAt page1 0 = some t ∧ ∃ j < t.kids.length, (setAt t.finished 0 (fun i => i + 1)).getD j 0 ≠ t.total) := by decide +kernel

/-- Launch 1 has ended; its completion record goes to 0x20000, which die 16 has mapped, or has not. -/
def endedWith (st : ℕ) : State :=
  { host0 with launches := [{ launch1 .running with record := BitVec.ofNat 512 (record1 + 0x20000 * 2 ^ 352), ending := some { status := st, detail := 0 } },
                            { launch2 0 .queued none with record := BitVec.ofNat 512 (launchRec 0 + 2 ^ 20 + 2 ^ 224) }] }
def ended1 (st : ℕ) : Launch := { launch1 .running with record := BitVec.ofNat 512 (record1 + 0x20000 * 2 ^ 352), ending := some { status := st, detail := 0 } }
theorem wit_GroupsAndCompletion_completion :
    (∀ st ∈ [0, 0x22], (endedWith st).launch 1 = some (ended1 st) ∧ (ended1 st).ending = some { status := st, detail := 0 } ∧ (endedWith st).accessesDone 1 st)
    ∧ (let s : State := { endedWith 0 with tlb := pages.map (fun e => { e with owner := .die 16 }) }
       spanOf s (.die 16) (ended1 0).space (ended1 0).caddr 64 { wr := true, rd := false, sup := true } = .ok [(⟨0x20000, 0x4000020000, 0, 0⟩, 64)]
       ∧ (s.outerStore [(⟨0x20000, 0x4000020000, 0, 0⟩, 64)] (completionRecord (ended1 0) { status := 0, detail := 0 } s.clock)).isSome)
    ∧ ((endedWith 0).load.phase ≠ .switchPending
       ∧ (spanOf (endedWith 0) (.die 16) (ended1 0).space (ended1 0).caddr 64 { wr := true, rd := false, sup := true }).toOption = none)
    ∧ (endedWith 0x22).launches.any (fun k => decide (0 < k.order) && (k.preIdx 1).isSome) := by decide +kernel

/-! ### Elements, filters, foragers -/

def ref0 : ElemRef := ⟨1, 0, 0, 0, 0⟩
def code1 : ECode := { ii := 1, imap := [some 0, none, none, none], omap := [some 0, none, none, none], satf8 := false, words := [0] }
def code2 : ECode := { code1 with imap := [some 0, some 1, none, none] }
def elem0 (kind : ℕ) (c : Option ECode) : Elem := { ref := ref0, kind := kind, ctx := 0, cfg := 0, leaf := 0, code := c }
/-- A link into a port of the plot, with beats waiting, and one out of its port 0. -/
def into (port kind num : ℕ) (bs : List Beat) : Chan :=
  { link3 with num := num, kind := kind, dst := .plot 0 0 port, srcs := [], beats := bs.map (fun b => { beat := b }) }
def outOf : Chan := { link3 with num := 9, srcs := [.plot 0 0 0], dst := .core 0 0 2 }
def fab (e : Elem) (hs : List Chan) : State :=
  { host0 with elems := [e], chans := hs, plots := [{ lid := 1, pset := 0, x := 0, y := 0, ctx := 0 }], leaves := [{ page := page1, leaf := 0, token := some 5 }] }
def arr0 : ArrayUnit := { page := page1, ctx := 0, mode := 2 }

theorem wit_FabricEvents_fire :
    (let s := fab (elem0 1 (some code1)) [into 0 0 4 [beat1], outOf]
     let e := elem0 1 (some code1)
     s.firing = none ∧ s.elemAt ref0 = some e ∧ e.kind = 1 ∧ s.elemLive e ∧ s.ctxTurn e ∧ (∀ k < 4, (s.absorbAt ref0 k).isNone) ∧ (s.ixStep ref0).isNone
     ∧ e.code = some code1 ∧ s.pick e = some ([0], none) ∧ e.frozen = none ∧ s.loopLeft e = false ∧ s.exitsFree e) := by decide +kernel
theorem wit_FabricEvents_array :
    (let e := elem0 2 none
       let a := { arr0 with freeRun := some 3 }
       let s : State := { fab e [] with arrays := [a] }
       s.elemAt ref0 = some e ∧ e.kind = 2 ∧ s.able ref0 ∧ s.ctxTurn e ∧ s.unitOf e = some a ∧ a.freeRun = some (2 + 1)
       ∧ (s.freeAt 0 % 2 = 0 ∨ s.freeAt 0 % 2 = 1) ∧ s.isRotating 1 0 = false) := by
  dsimp only
  exact ⟨by decide +kernel, by decide +kernel, by decide +kernel, by decide +kernel, by decide +kernel, by decide +kernel, Nat.mod_two_eq_zero_or_one _, by decide +kernel⟩
theorem wit_FabricEvents_sort :
    (∀ cl ∈ [false, true], (let e := elem0 3 none
       let h : Chan := { into 14 0 4 [] with beats := [{ beat := beat1, closes := cl }] }
       let s : State := { fab e [h] with arrays := [arr0] }
       s.elemAt ref0 = some e ∧ e.kind = 3 ∧ s.able ref0 ∧ s.ctxTurn e ∧ s.unitOf e = some arr0 ∧ arr0.out = []
       ∧ (s.noteTurn e).elemIn e 14 = some 0 ∧ (s.noteTurn e).first 0 = some { beat := beat1, closes := cl } ∧ hkind beat1 ≠ 2 ∧ hkind beat1 ≠ 3
       ∧ ((beatKeys arr0.cfgNow (s.chanAt 0) arr0.keys.length beat1).map (fun ks => decide ((arr0.keys ++ ks).length ≤ 2 ^ cfgM arr0.cfgNow))) = some true)) := by decide +kernel

/-- An element of elem2 inputs, a control beat at the head of the first. -/
def atHead (b : Beat) (kind : ℕ) (e : Elem) : State := fab e [into 0 kind 4 [b], into 1 0 5 [], outOf]
def elem2 : Elem := elem0 1 (some code2)
def rotating1 (s : State) : State := { s with placed := [{ place1 with rotating := true }] }
theorem wit_FabricEvents_control :
    (let s := atHead (mkCondBeat 1) 0 elem2
     s.chanNo 1 4 = some 0 ∧ s.first 0 = some { beat := mkCondBeat 1 } ∧ s.takes (s.chanAt 0) ∧ (s.chanAt 0).dst = .plot 0 0 0 ∧ s.consumer (s.chanAt 0) = some elem2
     ∧ isControl (mkCondBeat 1) 4 ∧ s.isRotating 1 0 = false ∧ (s.chanAt 0).loops = false ∧ 0 ∉ elem2.condIn ∧ ∃ p ∈ s.mainPorts elem2, p ≠ 0 ∧ p ∉ elem2.condIn)
    ∧ (rotating1 (atHead (mkCondBeat 1) 0 elem2)).isRotating 1 0
    ∧ (let s := atHead (mkDrainBeat 3 1) 2 elem2
       isControl (mkDrainBeat 3 1) 2 ∧ s.first 0 = some { beat := mkDrainBeat 3 1 } ∧ s.takes (s.chanAt 0) ∧ (s.chanAt 0).loops ∧ s.consumer (s.chanAt 0) = some elem2)
    ∧ (let s := atHead (mkDrainBeat 3 1) 0 elem2
       (s.chanAt 0).loops = false ∧ s.first 0 = some { beat := mkDrainBeat 3 1 } ∧ ∃ j ∈ s.mainChans elem2, j ≠ 0 ∧ beatSerial (mkDrainBeat 3 1) ∉ (s.chanAt j).drains)
    ∧ (let e := elem0 1 (some code1)
       let s := fab e [into 0 0 4 [mkDrainBeat 3 1], outOf]
       (∀ j ∈ s.mainChans e, j ≠ 0 → beatSerial (mkDrainBeat 3 1) ∈ (s.chanAt j).drains)
         ∧ (∀ j ∈ (s.elemOuts e).filter (fun j => (s.chanAt j).kind ≠ 2), s.ctlRoom j e.ctx) ∧ s.first 0 = some { beat := mkDrainBeat 3 1 } ∧ s.takes (s.chanAt 0)) := by decide +kernel
theorem wit_FabricEvents_token :
    (let e : Elem := elem0 1 (some code1)
     let s := fab e [into 0 0 4 [mkCondBeat 1], outOf]
     let got := (s.take 0).updElem e.ref (fun e => { e with condIn := e.condIn ++ [0], condCtx := beatCtx (mkCondBeat 1) })
     let sent := got.pushAll (got.elemOuts e) (mkCondBeat 1) e.outEnds
     s.first 0 = some { beat := mkCondBeat 1 } ∧ s.consumer (s.chanAt 0) = some e ∧ (∀ p ∈ s.mainPorts e, p = 0 ∨ p ∈ e.condIn) ∧ (∀ j ∈ s.elemOuts e, s.ctlRoom j e.ctx)
     ∧ s.elemOuts e ≠ [] ∧ (sent.plotAt 1 0 0 0).map (fun p => p.ctx) = some 0 ∧ beatCtx (mkCondBeat 1) = 1 ∧ beatCtx (mkCondBeat 0) = 0) := by decide +kernel
theorem wit_FabricEvents_sinks :
    (∀ b ∈ [mkDrainBeat 3 1, mkCondBeat 1], (let s : State := { host0 with chans := [{ link3 with beats := [{ beat := b }] }] }
       let ins := s.chanIdx (fun o => o.lid = 1 ∧ o.dstPset = 0 ∧ o.dst = (s.chanAt 0).dst)
       s.chanNo 1 4 = some 0 ∧ s.first 0 = some { beat := b } ∧ s.takes (s.chanAt 0) ∧ (s.chanAt 0).dst = .core 0 0 2 ∧ (s.core c0).sinkQ 2 = [] ∧ s.isRotating 1 0 = false
       ∧ ∀ j ∈ ins, j = 0))
    ∧ (let s : State := { host0 with chans := [{ link3 with beats := [{ beat := mkDrainBeat 3 1 }] }, { link3 with num := 5 }] }
       let ins := s.chanIdx (fun o => o.lid = 1 ∧ o.dstPset = 0 ∧ o.dst = (s.chanAt 0).dst)
       s.first 0 = some { beat := mkDrainBeat 3 1 } ∧ ∃ j ∈ ins, j ≠ 0 ∧ beatSerial (mkDrainBeat 3 1) ∉ (s.chanAt j).drains) := by decide +kernel
theorem wit_FabricEvents_prune :
    (let s := fab elem2 [into 0 0 4 [mkPruneBeat 3 1 0 5]]
     (s.chanAt 0).beats.findIdx? (fun q => isControl q.beat 1) = some 0 ∧ (s.chanAt 0).beats[0]? = some { beat := mkPruneBeat 3 1 0 5 }
     ∧ s.plotAt 1 0 0 0 = some { lid := 1, pset := 0, x := 0, y := 0, ctx := 0 } ∧ hasPrune [] (mkPruneBeat 3 1 0 5) = false
     ∧ hasPrune [⟨1, 0, 5, 3⟩] (mkPruneBeat 3 1 0 5) ∧ (s.chanAt 0).frozen = false ∧ (s.chanAt 0).cutAt = none ∧ (s.chanAt 0).dormPlace = none
     ∧ s.mayEnter (s.chanAt 0) ∧ s.takes (s.chanAt 0)) := by decide +kernel

def dorm1 (area : Span) : Dormant :=
  { lid := 1, pset := 0, die := 0, w := 1, h := 1, cores := [(c0, PageCore.reset)], elems := [], chans := [], plots := [], trellis := [], leaves := [], foragers := [], arrays := []
    nodes := [], barriers := [], armings := [], area := area }
theorem wit_FabricEvents_retire :
    (let f : FilterRef := .plot 1 0 2 3
     (∃ d ∈ [dorm1 []], d.holds f) ∧ (∀ d ∈ host0.dormants, d.holds f = false) ∧ (fab elem2 [into 0 0 4 []]).dormants = [] ∧ (fab elem2 [into 0 0 4 []]).chanNo 1 4 = some 0) := by
  decide +kernel

/-- A forager of elem2 stages, a record at its entry. -/
def fg0 : Forager :=
  { page := page1, ctx := 0, window := 4, ring := 4, rejp := 2, exitp := 1, entry := 0, ordered := false
    stages := [⟨1, false, true, 0, 0, 0, 0⟩, ⟨2, false, true, 0, 0, 0, 0⟩], lfsr := 1 }
def foraging (h : Img) : State :=
  { fab elem2 [{ link3 with num := 4, dst := .forager 0 0 0, srcs := [], record := true, beats := [{ beat := mkRecord h 0 [] }] },
             { link3 with num := 5, srcs := [.forager 0 0 8], dst := .core 0 0 2 }, { link3 with num := 6, kind := 2, slots := 8, dst := .forager 0 0 3, srcs := [] }] with foragers := [fg0] }
theorem wit_FabricEvents_forager :
    (∀ d ∈ [(0, true), (3, false), (7, false), (0, false)], (let s := foraging (mkHeader d.1 0 0 d.2 0)
      s.foragerFor page1 0 = some fg0 ∧ s.fgLive fg0 ∧ (s.fgClose fg0).isNone ∧ (s.fgRing fg0).isNone ∧ s.fgIn fg0 0 = some 0
      ∧ s.first 0 = some { beat := mkRecord (mkHeader d.1 0 0 d.2 0) 0 [] } ∧ hkind (mkRecord (mkHeader d.1 0 0 d.2 0) 0 []) = 1
      ∧ hdrRej (bstrand (mkRecord (mkHeader d.1 0 0 d.2 0) 0 []) 0).image = d.2 ∧ hdrDone (bstrand (mkRecord (mkHeader d.1 0 0 d.2 0) 0 []) 0).image = d.1
      ∧ s.fgRoom fg0 2 ∧ s.fgRoom fg0 1))
    ∧ (fg0.allDone = 3 ∧ fg0.allDone < 7 ∧ 0 < fg0.allDone ∧ 0 &&& fg0.allDone ≠ fg0.allDone ∧ fg0.draining = false ∧ fg0.pruning fg0.seg = false)
    ∧ (let s := foraging (mkHeader 0 0 0 false 0)
       fg0.inLoop.length < s.ringSlots fg0 ∧ ((s.take 0).fgChoose fg0 0).isSome) := by decide +kernel

/-! ### Controllers -/

def ent1 : PruneEnt := ⟨1, 0, 5, 3⟩
def rec1 (pos gen tok : ℕ) (conf : Img) : GuessRec := ⟨2, 1, pos, gen, tok, conf⟩
def pos4 : Position := { pos := 4, gen := 1, tok := 9 }
def lane1 : Lane := { npos := 4, isOpen := true, maxflm1 := 3, infl := 1, stoptok := 0xFFFFFFFF, positions := [pos4] }
def sprout1 (rs : List GuessRec) : Sprout :=
  { owner := some 1, nsink := 2, nlane := 2, lanes := [{}, lane1], records := rs.map GuessRec.beat, reports := [3], prunes := [(ent1, 1, true)], notices := [(.node ⟨1, 0⟩, 1, 7)]
    gth := List.replicate 7 (BitVec.ofNat 64 (fp 0x3F800000).v.toNat) }
def mnode : MemNode :=
  { ref := ⟨1, 0⟩, pset := 0, die := 8, phys := 0, bt := false, inv := false, dir := 1, cls := 0, scope := 0, limit := 63, base := 0, start := 0, addrPat := false, levels := [(1, 0)]
    fmt := 13, op := 0, prunes := [ent1], scan := [3] }
def controlled (rs : List GuessRec) : State := { host0 with sprouts := host0.sprouts.set 0 (sprout1 rs), nodes := [mnode] }

theorem wit_ControllerEvents_sprout :
    (let s := controlled []
     3 ∈ (s.sprout 0).reports ∧ (s.sprout 0).prunes.find? (fun p => p.1.serial == 3 && p.2.2) = some (ent1, 1, true) ∧ s.entryHeld ent1
     ∧ ({ s with nodes := [] } : State).entryHeld ent1 = false
     ∧ (s.sprout 0).notices.find? (fun n => decide (n.1 = .node ⟨1, 0⟩) && n.2.1 == 1) = some (.node ⟨1, 0⟩, 1, 7)
     ∧ (∀ p ∈ [(ent1, 0, false)], ¬ (p.1.serial = 3 ∧ p.2.2 = false ∧ (s.sprout 0).nsink ≤ p.2.1 + 1)) ∧ (ent1.serial = 3 ∧ (s.sprout 0).nsink ≤ 1 + 1)
     ∧ s.nodeAt ⟨1, 0⟩ = some mnode ∧ (s.die mnode.die).stopped = false ∧ mnode.prunes = [ent1] ∧ mnode.scan = [ent1.serial] ∧ mnode.drains = []
     ∧ (s.sprout 0).owner ≠ none ∧ (s.sprout 0).gth.length = 7 ∧ 1 < (s.sprout 0).nlane ∧ 1 < (s.sprout 0).lanes.length ∧ ((s.sprout 0).lane 1).waiting = none
     ∧ ((s.sprout 0).lane 1).closing = false) := by decide +kernel
theorem nextGuess_one (s : State) (b : Beat) : s.nextGuess [b] = 0 := by simp [State.nextGuess, Nat.mod_one, GuessRec.ahead, List.range_succ]
theorem wit_ControllerEvents_guess :
    (let r := rec1 3 1 9 one
     let s := controlled [r]
     (s.sprout 0).records = [r.beat] ∧ guessOf r.beat = r ∧ (s.die 0).stopped = false ∧ r.lane / 64 = 0 ∧ r.lane % 64 < (s.sprout 0).lanes.length ∧ r.pos < ((s.sprout 0).lane 1).npos)
    ∧ (∀ cf ∈ [(one, true), (zeroI, false)], (let r := rec1 4 1 8 cf.1
       let s := controlled [r]
       let l := (s.sprout 0).lane 1
       (s.sprout 0).records = [r.beat] ∧ guessOf r.beat = r ∧ l.isOpen ∧ l.npos ≤ r.pos ∧ l.find r.pos = some pos4 ∧ pos4.gen = r.gen ∧ pos4.best = none ∧ r.gpix < 7 ∧ ((l.find l.npos).map (fun o => o.due)) = some false
       ∧ l.waiting = none ∧ l.closing = false ∧ l.find ((r.pos + 1) % 2 ^ 32) = none ∧ meets r.conf ((s.sprout 0).gth.getD r.gpix 0) = cf.2 ∧ l.stops r.tok = false
       ∧ (r.pos + 1) % 2 ^ 32 ≠ 0 ∧ l.canLaunch)) := by decide +kernel

/-- Page tables in the bulk store: level 1 at page 1, level 2 at page 2, whose first entry maps 1 GiB. -/
def tables : State :=
  (({ host0 with launches := [{ launch1 .running with base := 0x4000010000 }] } : State).store 0x4000010000 (leBytes 8 0x4000020001)).store 0x4000020000 (leBytes 8 0x400000000F)
theorem wit_ControllerEvents_walk :
    tables.spaceFor (.core c0) 0 = some (0x400001 * 65536) ∧ tables.tlb2 = [] ∧ lookup2 tables (.core c0) (0x400001 * 65536) 0x1234 = some (0x400000000F, 2 ^ 30)
    ∧ lookup2 tables (.core c0) (0x400001 * 65536) (2 ^ 50) = none ∧ (tables.tlb.filter (fun x => x.owner = .core c0)).length ≤ 1024 ∧ walk tables (0x400001 * 65536) 0x1234 = some (0x400000000F, 2 ^ 30)
    ∧ walk tables (0x400001 * 65536) (2 ^ 50) = none := by decide +kernel

def req (px seq va op : ℕ) : EngReq :=
  { core := ⟨1, 0, px, 0⟩, die := 8, engine := 0, op := op, va := va, count := 1, scope := 0, gen := 0, lane := 0, nolane := true, sup := true, seq := seq }
/-- Two page cores in one group: descriptors at 0x40 and 0x60, both of four FP32 values from 0x100. -/
def coll (rank : ℕ) : List Byte := leBytes 8 0x100 ++ leBytes 8 0x200 ++ leBytes 4 4 ++ [0, 2, 2, BitVec.ofNat 8 rank] ++ leBytes 4 5 ++ leBytes 4 0
def collecting (p : ℕ) : State :=
  (({ host0 with engines := [req 0 1 0x40 3, req 1 1 0x60 3], tlb := pages.map (fun e => { e with owner := .die 8 }) } : State).store 0x4000000040 (coll 0)).store 0x4000000060
    (if p = 0 then List.replicate 32 0 else coll 1)
def desc0 : CollDesc := ⟨0x100, 0x200, 4, 0, 2, 0, 2, 0, 5⟩
theorem wit_ControllerEvents_engines :
    (let r := { req 0 1 0x40 3 with ready := some (0, 0) }
     let s : State := { collecting 1 with engines := [r] }
     s.engHead 8 0 c0 = some r ∧ r.op = 3 ∧ r.ready = some (0, 0) ∧ (∀ w ∈ s.held, w.who ≠ .engine c0 r.seq) ∧ (s.die 8).stopped = false)
    ∧ (let s := collecting 0
       (s.engines.filter (fun r => r.die == 8 && r.op == 3 && decide (r.core = ⟨1, 0, 1, 0⟩) && r.ready.isNone)).head? = some (req 1 1 0x60 3)
       ∧ s.collOf (req 1 1 0x60 3) = .error (0x101, 0xFFFFFFFE) ∧ s.engBlocked (req 1 1 0x60 3) = false)
    ∧ (let s := collecting 1
       (s.engines.filter (fun r => r.die == 8 && r.op == 3 && decide (r.core = c0) && r.ready.isNone)).head? = some (req 0 1 0x40 3)
       ∧ s.collOf (req 0 1 0x40 3) = .ok desc0
       ∧ (let u := s.engListMeet (req 0 1 0x40 3)
          ((u.collGroup 1 desc0.group).take desc0.p).length = desc0.p ∧ (u.die 8).stopped = false
          ∧ ((u.collGroup 1 desc0.group).take desc0.p).all (fun e => !u.engBlocked e.1 && (match u.collSource e.1 e.2 with
              | .ok sp => !spanAbsent u sp && u.banksRun sp && u.gFree e.1.core.lid e.1.core.pset sp
              | .error _ => false)))) := by decide +kernel

def streamCmd (ld : Bool) : StreamCmd := { seq := 2, ld := ld, port := 3, tile := none, span := [(⟨0x40, 0x4000000040, 0, 0⟩, 64)], fmt := 13, beats := 2 }
def tileItem : TileItem := { seq := 2, lsid := 0, op := .zero 3 }
theorem wit_ControllerEvents_streams :
    (let s := world { PageCore.reset with streams := [streamCmd true] }
     (s.core c0).streams.find? (fun t => t.seq == 2) = some (streamCmd true) ∧ s.streamFree c0 (streamCmd true) ∧ s.moves 1 0 ∧ (streamCmd true).ld
     ∧ ((s.core c0).srcQ 3).length < 16 ∧ (s.streamBeatOut c0 (streamCmd true)).isSome)
    ∧ (let s := world { PageCore.reset with streams := [streamCmd false], sink := PageCore.reset.sink.set 3 [beat1] }
       (s.core c0).streams.find? (fun t => t.seq == 2) = some (streamCmd false) ∧ s.streamFree c0 (streamCmd false) ∧ (streamCmd false).ld = false
       ∧ (s.core c0).sinkQ 3 = [beat1] ∧ hkind beat1 ≠ 2)
    ∧ (let s := world { PageCore.reset with tileQ := [tileItem] }
       (s.core c0).tileQ = [tileItem] ∧ s.tileFree c0 tileItem [] ∧ (s.completeTile c0 tileItem).isSome) := by decide +kernel

/-! ### Cuts, debugging, errors -/

def cutOf1 (w : CutWhy) : Cut := { lid := 1, psets := [0], why := w }
theorem wit_CutsAndDebug_markers :
    (∀ c ∈ host0.cuts, c.lid ≠ 1)
    ∧ (let s := atHead mkDormBeat 0 elem2
       s.chanNo 1 4 = some 0 ∧ (s.chanAt 0).dst = .plot 0 0 0 ∧ (s.chanAt 0).dormPlace = some 0 ∧ (s.chanAt 0).cutAt = none ∧ s.mayEnter (s.chanAt 0) ∧ s.takes (s.chanAt 0) ∧ s.consumer (s.chanAt 0) = some elem2
       ∧ (∃ p ∈ ((s.takeDorm 0 0).updElem ref0 (fun e => { e with dormIn := e.dormIn ++ [0] })).mainPorts elem2, p ≠ 0 ∧ p ∉ elem2.dormIn)
       ∧ (({ s with elems := [] } : State).consumer (({ s with elems := [] } : State).chanAt 0)).isNone)
    ∧ (let e := { elem2 with dormIn := [1] }
       let s := atHead mkDormBeat 0 e
       s.consumer (s.chanAt 0) = some e
       ∧ ∀ p ∈ ((s.takeDorm 0 0).updElem ref0 (fun e => { e with dormIn := e.dormIn ++ [0] })).mainPorts e, p = 0 ∨ p ∈ e.dormIn) := by decide +kernel
theorem wit_CutsAndDebug_cuts :
    (∀ w ∈ [CutWhy.graft, .stop, .preempt, .ckptCont c0], (let s : State := { host0 with cuts := [cutOf1 w], cores := [] }
       s.cuts.find? (fun c => c.lid == 1 && s.cutDone c) = some (cutOf1 w) ∧ (cutOf1 w).area = none ∧ s.launch 1 = some (launch1 .running) ∧ (launch1 .running).ending = none))
    ∧ (let s : State := { host0 with cuts := [cutOf1 .stop], cores := [(c0, { PageCore.reset with blocks := [{}] })] }
       s.cuts.find? (fun c => !s.cutDone c) = some (cutOf1 .stop) ∧ (launch1 .running).ending = none)
    ∧ (let s : State := { host0 with launches := [launch1 .loading], dormants := [dorm1 []] }
       s.launch 1 = some (launch1 .loading) ∧ (launch1 .loading).phase = .loading ∧ (launch1 .loading).ending = none ∧ (∃ d ∈ s.dormants, d.lid = 1)
       ∧ (∀ d ∈ s.dormants, d.lid = 1 → s.imageHolds d.area) ∧ (∀ d ∈ s.dormants, d.lid = 1 → s.forged d = false) ∧ s.ecc = [])
    ∧ ∃ d ∈ [dorm1 [(⟨0x40, 0x4000000040, 0, 0⟩, 192)]], d.lid = 1 ∧ leNat ((readSpan host0 d.area).take 2) ≠ 1 ∧ d.area.isEmpty = false := by decide +kernel
theorem wit_CutsAndDebug_image : host0.imageHolds [(⟨0x40, 0x4000000040, 0, 0⟩, 192)] = false := by
  have h1 : leNat ((readSpan host0 [(⟨0x40, 0x4000000040, 0, 0⟩, 192)]).take 2) ≠ 1 := by decide +kernel
  simp [State.imageHolds, h1]
/-- An image of 128 bytes with its version and digest, in bulk store, where a program has replaced it: its digest is not the one that was noted. -/
def imgHead : List Byte := leBytes 2 1 ++ List.replicate 14 0 ++ leBytes 8 128 ++ List.replicate 40 0
def imgArea : Span := [(⟨0x40, 0x4000000040, 0, 0⟩, 128)]
def replaced : State :=
  { host0.store 0x4000000040 (imgHead ++ Config.sha3 imgHead) with launches := [launch1 .loading], dormants := [dorm1 imgArea] }
theorem replaced_read : readSpan replaced imgArea = imgHead ++ Config.sha3 imgHead := by
  have hl : (imgHead ++ Config.sha3 imgHead).length = 128 := by simp [imgHead, leBytes, Config.sha3]
  have hk : ∀ i < 128, 0x4000000040 + i < recordBase ∧ regionOf (0x4000000040 + i) = .bulk 0 := by decide +kernel
  have hp : ∀ i < 128, physKey replaced (0x4000000040 + i) = 0x4000000040 + i := fun i hi => by rw [physKey, (hk i hi).2]
  have hs : spanPas imgArea = (List.range 128).map (fun i => 0x4000000040 + i) := by decide +kernel
  have hm : replaced.mem = Memory.writeN [] 0x4000000040 (imgHead ++ Config.sha3 imgHead) := by
    have h0 : physKey host0 0x4000000040 = 0x4000000040 := by decide +kernel
    simp only [replaced, State.store, h0]
    rfl
  rw [readSpan, hs, List.map_map]
  refine List.ext_getElem (by simp [hl]) fun i h1 h2 => ?_
  have hi : i < 128 := by simpa using h1
  obtain ⟨hr, hb⟩ := hk i hi
  simp only [List.getElem_map, List.getElem_range, Function.comp]
  rw [State.physByte, if_neg (by omega), hb]
  simp only
  rw [hp i hi, hm, Memory.read_writeN _ _ _ (show Memory.wf [] from rfl), hl, if_pos (by omega), show 0x4000000040 + i - 0x4000000040 = i by omega,
    List.getD_eq_getElem _ _ (by omega)]
theorem wit_CutsAndDebug_forged :
    replaced.launch 1 = some (launch1 .loading) ∧ (launch1 .loading).ending = none ∧ (∀ d ∈ replaced.dormants, d.lid = 1 → replaced.imageHolds d.area)
    ∧ (∃ d ∈ replaced.dormants, d.lid = 1 ∧ replaced.forged d) ∧ (replaced.freeAt 0 % 2 = 0 ∨ replaced.freeAt 0 % 2 = 1) := by
  have hl : (Config.sha3 imgHead).length = 64 := by simp [Config.sha3]
  have hh : imgHead.length = 64 := by decide
  have h2 : (imgHead ++ Config.sha3 imgHead).take 2 = leBytes 2 1 := by rw [List.take_append_of_le_length (by omega)]; decide
  have h16 : ((imgHead ++ Config.sha3 imgHead).drop 16).take 8 = leBytes 8 128 := by
    rw [List.drop_append_of_le_length (by omega), List.take_append_of_le_length (by simp [hh])]; decide
  have h64 : (imgHead ++ Config.sha3 imgHead).take 64 = imgHead := by rw [List.take_append_of_le_length (by omega), List.take_of_length_le (by omega)]
  have hd : (imgHead ++ Config.sha3 imgHead).drop 64 = Config.sha3 imgHead := by rw [List.drop_append_of_le_length (by omega), List.drop_of_length_le (by omega)]; rfl
  have ht : (Config.sha3 imgHead).take 64 = Config.sha3 imgHead := List.take_of_length_le (by omega)
  have ha : ((imgHead ++ Config.sha3 imgHead).take 128).drop 128 = [] := List.drop_of_length_le (by simp [hl, hh])
  have hn : leNat (leBytes 8 128) = 128 := by decide
  have hv : leNat (leBytes 2 1) = 1 := by decide
  refine ⟨by decide +kernel, by decide +kernel, fun d hm _ => ?_, ⟨dorm1 imgArea, by simp [replaced], rfl, ?_⟩, Nat.mod_two_eq_zero_or_one _⟩
  · obtain rfl : d = dorm1 imgArea := by simpa [replaced] using hm
    simp [State.imageHolds, dorm1, replaced_read, h2, h16, h64, hd, ht, ha, hn, hv]
  · have hne : Config.sha3 imgHead ≠ [] := fun h => by simp [h] at hl
    have hf : replaced.forged (dorm1 imgArea) = (!imgArea.isEmpty && decide (((readSpan replaced imgArea).drop 64).take 64 ≠ [])) := rfl
    rw [hf, replaced_read, hd, ht]
    simp [imgArea, hne]
theorem wit_CutsAndDebug_debug :
    (let s := fab (elem0 1 (some code1)) [into 0 0 4 [beat1]]
     s.agentPlace (.elem ref0) = some (1, 0, 0, 0) ∧ s.launch 1 = some (launch1 .running))
    ∧ (∀ a ∈ [1, 2, 3], (let v : BitVec 128 := BitVec.ofNat 128 (2 ^ 96 + a * 2 ^ 77)
       let s : State := { host0 with dbp := host0.dbp.set 5 v, bpPending := [(5, beat1)] }
       dbpLid (s.dbpAt 5) = 1 ∧ dbpAct (s.dbpAt 5) = a ∧ s.bpPending = [(5, beat1)] ∧ s.sealedChan 1 (dbpChan (s.dbpAt 5)) = false ∧ s.cutStops 1 = false
       ∧ ({ s with cuts := [cutOf1 .preempt] } : State).cutStops 1))
    ∧ (let v : BitVec 128 := BitVec.ofNat 128 (2 ^ 96 + 4 * 2 ^ 80)
       ({ host0 with chans := [link3], placed := [{ place1 with isSealed := true }] } : State).sealedChan (dbpLid v) (dbpChan v)
       ∧ host0.sealedChan (dbpLid v) (dbpChan v) = false
       ∧ ({ host0 with chans := [link3], placed := [{ place1 with isSealed := true }], dbp := host0.dbp.set 5 v } : State).dbpAt 5 = v)
    ∧ (0x9000001040 = 0x9000001000 + 0x800 * 0 + 0x40 + 8 * 0 ∧ 0x90000048F0 + 0x800 - 0x800 < 0x900000E000 ∧ 0 < 0x9000001000 ∧ 0x900000E000 ≤ 0x900000E000) := by decide +kernel

def load1 : Block := { uid := 3, words := [0] }
def nodeOp : NodeOp := { elem := 2, va := 0x40 }
theorem wit_TimeoutsAndErrors :
    (let s := world { PageCore.reset with blocks := [load1], responses := [⟨3, 0, 14, [], 0x40, 8, 0⟩], posted := [posted1], streams := [streamCmd true], fences := [⟨1, 0, 9, []⟩], tileQ := [{ seq := 4, lsid := 0, op := .tld 3 0 [[(⟨0x40, 0x4000000040, 0, 0⟩, 4)]] }] }
     (s.die (s.coreDie c0)).stopped = false ∧ s.coreDie c0 < 17 ∧ s.loadAwaited c0 3 0 = some 0x40 ∧ (s.core c0).blocks[0]? = some load1 ∧ load1.uid = 3 ∧ load1.fault = none
     ∧ s.postedAt c0 5 = some posted1 ∧ spanOff (s.coreDie c0) posted1.kind.span
     ∧ ((s.core c0).tileQ.find? (fun t => t.seq == 4 && t.op.touches && spanOff (s.coreDie c0) t.op.span)).isSome
     ∧ (s.core c0).streams.find? (fun t => t.seq == 2 && t.tile.isNone && spanOff (s.coreDie c0) t.span) = some (streamCmd true)
     ∧ (s.core c0).fences.find? (fun f => f.serial == 1) = some ⟨1, 0, 9, []⟩ ∧ (∃ q ∈ (s.core c0).posted, q.seq < 9 ∧ spanOff (s.coreDie c0) q.kind.span)
     ∧ (s.fenceCrosses c0 ⟨1, 0, 9, []⟩).isSome ∧ s.fenceCrosses c0 ⟨1, 0, 0, []⟩ = none)
    ∧ (let s := world { PageCore.reset with posted := [{ posted1 with kind := .store [(⟨0x40, 0, 0, 0⟩, 2)] [1, 2] 0 }] }
       ∀ q, s.postedAt c0 5 = some q → spanOff (s.coreDie c0) q.kind.span = false)
    ∧ (let s : State := { withPort {} with chans := [{ link3 with kind := 3, dst := .remote, beats := [{ beat := beat1 }] }] }
       s.chanNo 1 4 = some 0 ∧ (s.chanAt 0).kind = 3 ∧ (s.chanAt 0).dst = .remote ∧ (s.port (s.chanAt 0).vport).up = false ∧ (s.chanAt 0).beats ≠ []
       ∧ (s.die (portDie (s.chanAt 0).vport)).stopped = false)
    ∧ (0x4000000040 / 0x800000000 = 8 ∧ 0x4000000040 % 0x800000000 < 0x600000000 ∧ ((host0.die 8).vchan (0x4000000040 % 0x800000000 / 256 % 48)).2 = false)
    ∧ (host0.usesDie 1 8 ∧ host0.usesDie 1 9 = false ∧ host0.dump = none ∧ ({ host0 with dump := some [] } : State).dump ≠ none) := by decide +kernel

/-- Page 0 of ASID 0 in the bulk store of die 8, page 1 in that of die 9, for the cluster of a node and for an engine. -/
def twoDies : List TlbEnt :=
  [TlbOwner.cluster 8 0, .die 8].flatMap (fun o => [⟨o, 0, 0, 0x10000, 0x400000000F⟩, ⟨o, 0, 0x10000, 0x10000, 0x480000000F⟩])
theorem wit_TimeoutsAndErrors_node :
    (let n := { mnode with ops := [{ nodeOp with va := 0x10000 }] }
     let s : State := { host0 with nodes := [n], tlb := twoDies }
     s.nodeAt ⟨1, 0⟩ = some n ∧ (s.die n.die).stopped = false ∧ n.die < 17 ∧ s.launch 1 = some (launch1 .running) ∧ (launch1 .running).ending = none
     ∧ (n.ops.find? (fun o => o.elem == 2 && o.status != 2 && spanOff n.die (s.opSpan n o))).isSome) := by decide +kernel
theorem wit_TimeoutsAndErrors_engine :
    (let s : State := ({ host0 with engines := [req 0 1 0x40 3], tlb := twoDies } : State).store 0x4000000040
       (leBytes 8 0x100 ++ leBytes 8 0x10200 ++ leBytes 4 4 ++ [0, 2, 2, 0] ++ leBytes 4 5 ++ leBytes 4 0)
     (s.die 8).stopped = false ∧ s.engines.find? (fun r => r.die == 8 && r.engine == 0) = some (req 0 1 0x40 3)
     ∧ (s.engSpans (req 0 1 0x40 3)).any (spanOff 8)) := by decide +kernel

/-! ### Steps and runs -/

theorem wit_StepRunsDecoded :
    (let s : State := { withBlock (at3 5 6 7) with agenda := [.fire c0 0 0], focus := .idle }
     s.firing = none ∧ s.still c0 = false ∧ (s.core c0).blocks[0]? = some (at3 5 6 7) ∧ (at3 5 6 7).words[0]? = some 0 ∧ (decodeWord 0).toOption = some (.nop 0 0 0 0))
    ∧ (let b : Block := { at3 5 6 7 with words := [0x18004000] }
       let s : State := { withBlock b with focus := .core c0 0 0 }
       s.agenda = [] ∧ ({ s with focus := .idle } : State).nextSlot c0 = some (0, 0))
    ∧ ((withFiring firing0).firing = some firing0 ∧ firing0.ready = some 0 ∧ firing0.code.words[0]? = some 0)
    ∧ (({ world PageCore.reset with placed := [{ place1 with quiesced := true }] } : State).still c0)
    ∧ (((decodeTableWord 32 0x04002002).map (fun i => i.blocks.1)) = some true ∧ ((decodeTableWord 32 0x76004000).map (fun i => i.blocks.1)) = some false
       ∧ State.reset.still State.reset.placeCore = false)
    ∧ [(1 : Byte), 2, 3, 4].length = 4 * 1
    ∧ (let m (p : ℕ) : Agenda := .event (.launch { msgOf 1 [] with port := p })
       inPortOrder [m 3, m 1, .event .powerOn, m 0] = [m 1, m 3, .event .powerOn, m 0] ∧ inPortOrder [.event .powerOn, m 0] = [.event .powerOn, m 0]) := by
  decide +kernel

theorem wit_EncodeDecode : (Instr.movi 0 1 2).wf ∧ encode (.movi 0 1 2) = some 0x04002002 ∧ (decodeWord 0x04002002).toOption = some (.movi 0 1 2) := by decide +kernel

theorem wit_InvariantKept : State.reset.sound ∧ ∃ t, step State.reset = .next t := by
  refine ⟨⟨by simp [State.reset], by simp [State.reset], by decide, by decide, by decide, by decide⟩, _, rfl⟩

theorem wit_StepGoesOn :
    encode .powerOn = none ∧ (Instr.add 0 1 2).blocks.1 ∧ (withBlock (at3 5 6 7)).focus = .core c0 0 0 ∧ ((withBlock (at3 5 6 7)).core c0).blocks[0]? = some (at3 5 6 7)
    ∧ (Instr.add 0 1 2).blocks.2 ∧ (withFiring firing0).focus = .elem 0 ∧ (withFiring firing0).firing = some firing0
    ∧ (∀ c, (State.reset.core c).blocks = []) ∧ State.reset.firing = none ∧ State.reset.agenda = [] :=
  ⟨by decide, by decide, rfl, rfl, by decide, rfl, rfl, fun _ => rfl, rfl, rfl⟩

/-! ### Results of the spec's worked examples -/

/-- What an instruction of the slot delivers to slot 1, and the flags that its block then asks for. -/
def gives (i : Instr) (a b x : Img) : Option (Img × BitVec 6) :=
  match exec i (withBlock (blk a b x)) with
  | .next t => ((t.core c0).blocks[0]?).bind (fun k => (k.operand 1 .left).map (fun v => (v, k.flags.bits)))
  | _ => none
/-- The same on lane 15 of an element. -/
def givesLane (i : Instr) (a b x : Img) : Option Img :=
  let ls (v : Img) : List LaneV := List.replicate 16 { val := some v }
  match exec i (withFiring { firing0 with ops := [(0, .left, ls a), (0, .right, ls b), (0, .third, ls x)] }) with
  | .next t => t.firing.bind (fun f => (f.lane 1 .left 15).val)
  | _ => none
def ones : Img := ⟨0xFFFFFFFFFFFFFFFF, false⟩
def s1 (a : Img) : Img := ⟨a.v, true⟩
/-- The values of an outcome. -/
def val (r : Option (Img × BitVec 6)) : Option (DWord × Bool) := r.map (fun x => (x.1.v, x.1.s))

/-- The examples of R272; and R273. -/
theorem test_mulh : val (gives (.mulh 0 1 0x1FF 0) ones ones {}) = some (0, false) ∧ val (gives (.mulh 0 1 0x1FF 1) ones ones {}) = some (0xFFFFFFFFFFFFFFFE, false) := by
  decide +kernel
theorem test_div : val (gives (.div 0 1 0x1FF 0) (image (2 ^ 63)) ones {}) = some (0x8000000000000000, false)
    ∧ val (gives (.rem 0 1 0x1FF 1) (image 7) (image 0) {}) = some (7, false) := by decide +kernel
/-- The examples of R274. -/
theorem test_subs : (gives (.subs 0 1 0x1FF 1) (image 3) (image 5) {}).map (fun x => (x.1.v, x.1.s, x.2)) = some (0, true, ({ sat := true } : Flags).bits) := by decide +kernel
theorem test_abs : val (gives (.abs 0 1 0x1FF 0) (s1 (image (2 ^ 63))) {} {}) = some (0x8000000000000000, true)
    ∧ val (gives (.abs 0 1 0x1FF 1) (image (2 ^ 63)) {} {}) = some (0x7FFFFFFFFFFFFFFF, true) := by decide +kernel
/-- The examples of R279, in a lane of width 32. -/
theorem test_bfx : (givesLane (.bfx 0 1 0x1FF 0) (image 0xF000) (image 0x40C) {}).map (fun a => a.v) = some 0xFFFFFFFF
    ∧ (givesLane (.bfx 0 1 0x1FF 0) (image 0xF000) (image 0x81C) {}).map (fun a => a.v) = some 0 := by decide +kernel
/-- The examples of R280. -/
theorem test_cmp_n : val (gives (.cmp 0 1 0x1FF 2 1) (s1 (image 5)) (image 5) {}) = some (0, true) ∧ val (gives (.cmp 0 1 0x1FF 2 1) ones (image 0) {}) = some (0, false) := by
  decide +kernel
theorem test_cmp : val (gives (.cmp 0 1 0x1FF 2 0) (s1 (image 4)) (image 5) {}) = some (1, false) ∧ val (gives (.cmp 0 1 0x1FF 2 0) ones (image 0) {}) = some (1, false) := by
  decide +kernel
/-- The example of R158: 2.0 with S against 2.0 and 3.0. -/
theorem test_fcmp : val (gives (.fcmp 0 1 0x1FF 2) (s1 two) two {}) = some (0, true) ∧ val (gives (.fcmp 0 1 0x1FF 3) (s1 two) two {}) = some (1, true)
    ∧ val (gives (.fcmp 0 1 0x1FF 2) (s1 two) (fp 0x40400000) {}) = some (1, false) := by decide +kernel
/-- 1 + 2 = 3, and 1 ÷ 3 truncated is inexact. -/
theorem test_fadd : val (gives (.fadd 0 1 0x1FF) one two {}) = some ((fp 0x40400000).v, false) := by decide +kernel
theorem test_fdiv : (gives (.fdiv 0 1 0x1FF) one (fp 0x40400000) {}).map (fun x => (x.1.wf, x.1.s)) = some (.fin false 22369621 (-26), true) := by decide +kernel
/-- The example of R153: a zero with S rounds up into BF16 as the least subnormal. -/
theorem test_final_rup : (finalRound (s1 zeroI) 0 3 false).code = 1 := by decide +kernel
/-- 2.5 to the nearest even whole number is 2, to the nearest away from zero 3. -/
theorem test_final_int : (finalRound (fp 0x40200000) 13 0 false).code = 2 ∧ (finalRound (fp 0x40200000) 13 1 false).code = 3 := by decide +kernel
/-- The rows of the example of R295: products rounded to E4M3 with rne. -/
theorem test_mulf8 :
    ((finalRound (wfMul (fp 0x41080000) two).img 3 0 false).code = 0x58 ∧ (finalRound (wfMul (fp 0x41080000) two).img 3 0 false).nx = true)
    ∧ (finalRound (wfMul (s1 (fp 0x41080000)) two).img 3 0 false).code = 0x59
    ∧ ((finalRound (wfMul (fp 0x41F00000) (fp 0x41A00000)).img 3 0 false).code = 0x7F ∧ (finalRound (wfMul (fp 0x41F00000) (fp 0x41A00000)).img 3 0 false).nx = false
      ∧ (finalRound (wfMul (fp 0x41F00000) (fp 0x41A00000)).img 3 0 true).code = 0x7E) := by decide +kernel
/-- The examples of R161. -/
theorem test_dot4 : val (gives (.dot4 0 1 0x1FF 0 0) (image 0x80807F7F) (image 0x7F7F7F7F) (image 0x7FFFFF00)) = some (0x7FFFFE02, false)
    ∧ val (gives (.dot4 0 1 0x1FF 0 0) (image 0x7F7F7F7F) (image 0x7F7F7F7F) (image 0x7FFFFF00)) = some (0x7FFFFFFF, true) := by decide +kernel
/-- The example of R160: an amount of 0xF8 gives 0. -/
theorem test_shrp : val (gives (.shrp 0 1 0x1FF 0 0) (image 0xFF) (image 0xF8) {}) = some (0, false) := by decide +kernel
/-- A shift by the whole width and more. -/
theorem test_shl : val (gives (.shl 0 1 0x1FF) (image 1) (image 64) {}) = some (0, false) ∧ val (gives (.shra 0 1 0x1FF) ones (image 200) {}) = some (0xFFFFFFFFFFFFFFFF, false) := by
  decide +kernel
theorem test_add_wraps : val (gives (.add 0 1 0x1FF) ones (image 2) {}) = some (1, false) ∧ (givesLane (.add 0 1 0x1FF) (image 0xFFFFFFFF) (s1 (image 2)) {}) = some ⟨1, true⟩ := by
  decide +kernel
/-- The operands of the example of R302. -/
theorem test_sdadd_elements : sdDigits (⟨0x4D000000, false⟩ : Img) = [1, 0, -1, 1] ++ List.replicate 12 0
    ∧ sdDigits (⟨0x14000000, false⟩ : Img) = [0, 1, 1] ++ List.replicate 13 0 := by decide +kernel

/-- The example of R65: launches A, B, C on die 3, and where their page sets stand. -/
def imageWh (l : List (ℕ × ℕ)) : Image := { image1 1 with psets := l.map (fun p => ⟨p.1, p.2, none, false, false⟩) }
def onF3 (lid : ℕ) (im : Image) : Launch :=
  { record := BitVec.ofNat 512 (2 ^ 192 * lid + 2 ^ 163 + 2 ^ 128), node := 2, port := 0, tag := 9, stamp := 0, order := lid, phase := .running, gcount := 1, image := some im }
def at3d (lid pset x y w h order : ℕ) : Placed := { place1 with lid := lid, pset := pset, die := 3, x := x, y := y, w := w, h := h, mdie := 11, order := order }
def imA : Image := imageWh [(3, 2), (4, 3)]
def imB : Image := imageWh [(3, 3)]
def imC : Image := imageWh [(9, 2)]
def f3 (ps : List Placed) : State := { host0 with launches := [onF3 1 imA, onF3 2 imB, onF3 3 imC], placed := ps, head := some 3 }
theorem test_placement : ((f3 []).placeAll (f3 []).yard (onF3 1 imA) imA []).map (fun l => l.map (fun p => (p.x, p.y))) = some [(0, 0), (5, 0)]
    ∧ ((f3 [at3d 1 0 0 0 3 2 0, at3d 1 1 5 0 4 3 0]).placeAll (f3 [at3d 1 0 0 0 3 2 0, at3d 1 1 5 0 4 3 0]).yard (onF3 2 imB) imB []).map (fun l => l.map (fun p => (p.x, p.y)))
      = some [(3, 3)] := by decide +kernel
theorem test_graft :
    (let s := f3 [at3d 1 0 0 0 3 2 0, at3d 1 1 5 0 4 3 0, at3d 2 0 3 3 3 3 1]
     (s.placeAll s.yard (onF3 3 imC) imC []).isNone ∧ (s.graftPlan (onF3 3 imC) imC).map (fun q => (q.lid, q.x, q.y)) = some (2, 1, 6))
    ∧ (let s := f3 [at3d 1 0 0 0 3 2 0, at3d 1 1 5 0 4 3 0, at3d 2 0 1 6 3 3 1]
       (s.placeAll s.yard (onF3 3 imC) imC []).map (fun l => l.map (fun p => (p.x, p.y))) = some [(0, 4)]) := by decide +kernel

end Sys2Proof.Tests
end

section
/-! SUPPORT. What the accessors of the state read right after reset, and the obligation on reset values. -/
namespace Sys2Proof.Machine

/-! ### Accessors at reset: the tables are empty, so each reads its default -/

@[simp] theorem reset_bucket (d i : Nat) : State.reset.bucket d i = {} := rfl

@[simp] theorem reset_line (n : Nat) : State.reset.line n = {} := rfl

@[simp] theorem reset_core (c : CoreRef) : State.reset.core c = PageCore.reset := rfl

@[simp] theorem reset_prof (d e : Nat) : State.reset.prof d e = { die := d, engine := e } := rfl

@[simp] theorem reset_sprout (d : Nat) : State.reset.sprout d = {} := by
  simp [State.sprout, State.reset]

@[simp] theorem reset_dbpAt (n : Nat) : State.reset.dbpAt n = 0 := by
  simp [State.dbpAt, State.reset]

@[simp] theorem PageCore.reset_tshOf (k : Nat) : PageCore.reset.tshOf k = 0 := by
  simp [PageCore.tshOf, PageCore.reset]

/-! ### Registers in the physical map -/

/-- R89: a sprout controller that owns no pipeline reads zero at every offset. -/
theorem Sprout.read_of_unowned {sp : Sprout} (h : sp.owner = none) (o : Nat) : sp.read o = 0 := by
  simp [Sprout.read, h]

/-- R177: no word is present of a line whose side-band is as after reset. -/
theorem State.present_of_line {s : State} {pa : Nat} (h : s.line (pa / 64) = {}) : s.present pa = false := by
  simp [State.present, h]

/-! ### The obligation -/

/-- Settles O58: the state after reset has empty tables, so each accessor reads its default, and a default is the value that the spec gives. -/
theorem resetValues : Obligations.ResetValues := by
  refine ⟨?buckets, rfl, rfl, rfl, rfl, rfl, ?sprouts, reset_dbpAt, ?profiles, ?cores, ?presence,
    rfl, rfl, rfl, rfl, rfl, rfl, rfl, rfl, sound_reset⟩
  case buckets =>
    intro d i
    rw [reset_bucket]
    decide
  case sprouts =>
    intro d o
    exact Sprout.read_of_unowned (by rw [reset_sprout]) o
  case profiles =>
    intro d e _ _
    rw [reset_prof]
    rfl
  case cores =>
    intro c
    rw [reset_core]
    exact ⟨rfl, rfl, rfl, rfl, rfl, rfl, PageCore.reset_tshOf⟩
  case presence =>
    intro pa
    exact ⟨State.present_of_line (reset_line _), by rw [reset_line]⟩

end Sys2Proof.Machine
end

section
/-! SUPPORT. The begin of a block, the arrival of a load's data, and the obligation on both (R20, R243, R246, R247, R258). -/
namespace Sys2Proof.Machine

/-! ### What a fetch meets -/

/-- A fetch that meets no error and reaches no host leaves everything as it was. -/
theorem State.eccMeet_of_clean {s : State} (h : s.ecc = []) (pas : List Nat) : s.eccMeet pas = s := by
  simp [State.eccMeet, State.eccIn, h]

theorem State.askSpan_of_local (s : State) {sp : Span} (h : ∀ r ∈ sp, ∀ n k, regionOf r.1.pa ≠ .host n k) : s.askSpan sp = s := by
  unfold State.askSpan
  refine List.foldlRecOn (motive := fun t => t = s) sp _ rfl (fun t ht r hr => ?_)
  split
  · exact absurd ‹_› (h r hr _ _)
  · exact ht

theorem State.fetchMeet_of_clean {s : State} {c : CoreRef} {a : Nat} {sp : Span} (he : s.ecc = [])
    (hs : spanOf s (.core c) (s.asidOf c.lid) a 16 { wr := false, rd := true, sup := (s.core c).priv } = .ok sp)
    (hl : ∀ r ∈ sp, ∀ n k, regionOf r.1.pa ≠ .host n k) : s.fetchMeet c a 0 = s := by
  unfold State.fetchMeet State.virtMeet
  rw [Nat.mul_zero, Nat.add_zero, hs]
  exact (congrArg (·.askSpan sp) (State.eccMeet_of_clean he _)).trans (State.askSpan_of_local s hl)

/-! ### A page core begins a block -/

/-- R246: a page core may begin the block at address a: it runs, no cut holds it, fewer than four blocks are in flight, and a is named. -/
structure State.MayBegin (s : State) (c : CoreRef) (a : Nat) : Prop where
  runs : s.runs c.lid c.pset
  uncut : s.isCut c.lid c.pset = false
  room : (s.core c).blocks.length < 4
  named : (s.core c).beginAt = some a

theorem State.beginBlock_of_got {s : State} {c : CoreRef} {a h : Nat} {ws : List Word} (hm : s.MayBegin c a) (hf : fetchBlock s c a = .got h ws)
    (hser : hdrSer h → hdrKind h = 1 → (s.core c).blocks = []) :
    s.beginBlock c = (s.fetchMeet c a ws.length).addBlock c
      (newBlock s c a h ws ((decodeFault h ws).map (fun v => { code := 1, val := v }))) := by
  have hfree : (hdrSer h && hdrKind h == 1 && !(s.core c).blocks.isEmpty) = false := by
    by_contra hb
    simp only [Bool.not_eq_false, Bool.and_eq_true, beq_iff_eq, Bool.not_eq_true', List.isEmpty_eq_false_iff] at hb
    obtain ⟨⟨hs, hk⟩, hne⟩ := hb
    exact hne (hser hs hk)
  simp [State.beginBlock, hm.runs, hm.uncut, hm.room, hm.named, hf, hfree]

theorem State.beginBlock_of_bad {s : State} {c : CoreRef} {a code va : Nat} (hm : s.MayBegin c a) (hf : fetchBlock s c a = .bad code va) :
    s.beginBlock c = (s.fetchMeet c a 0).addBlock c (newBlock s c a 0 [] (some { code := code, val := BitVec.ofNat 64 va })) := by
  simp [State.beginBlock, hm.runs, hm.uncut, hm.room, hm.named, hf]

@[simp] theorem State.addBlock_core (s : State) (c : CoreRef) (b : Block) :
    (s.addBlock c b).core c = { s.core c with blocks := (s.core c).blocks ++ [b], uid := (s.core c).uid + 1, nextAddr := none } := by
  simp [State.addBlock]

theorem State.addBlock_core_of_ne (s : State) {c d : CoreRef} (h : d ≠ c) (b : Block) : (s.addBlock c b).core d = s.core d :=
  State.mapCore_core_of_ne s h _

/-- WMASK is 32 bits of the header: the width cuts off what stands above it. -/
theorem ofNat_hdrWmask (h : Nat) : BitVec.ofNat 32 (hdrWmask h) = BitVec.ofNat 32 (h / 2 ^ 16) :=
  BitVec.eq_of_toNat_eq (by simp [hdrWmask])

/-! ### Data of a load arrives -/

theorem State.accepts_iff (s : State) (c : CoreRef) (die : Nat) :
    s.accepts c die ↔ (s.die (s.dieOfPset c.lid c.pset)).stopped = false ∧ s.dieOfPset c.lid c.pset ∉ (s.die die).stalls := by
  simp [State.accepts]

theorem State.loadArrives_of_accepts {s : State} {c : CoreRef} {uid slot : Nat} {r : Response}
    (hr : (s.core c).responses.find? (fun r => r.uid == uid && r.slot == slot) = some r) (ha : s.accepts c r.die) :
    s.loadArrives c uid slot = s.setCore c { s.core c with
      responses := (s.core c).responses.erase r
      blocks := (s.core c).blocks.map (fun b => if b.uid = uid then b.result slot (Machine.loadImage r.kind r.bytes) else b) } := by
  simp [State.loadArrives, hr, ha, State.mapCore]

theorem State.loadArrives_of_not_accepts {s : State} {c : CoreRef} {uid slot : Nat} {r : Response}
    (hr : (s.core c).responses.find? (fun r => r.uid == uid && r.slot == slot) = some r) (ha : ¬ s.accepts c r.die) :
    s.loadArrives c uid slot = s := by
  simp [State.loadArrives, hr, ha]

/-! ### The obligation -/

/-- Settles O40: a begin that is allowed adds `newBlock`, whose fields are those the header and the page core give; a load's data goes in when its
core accepts it and waits otherwise. -/
theorem blocksBegin : Obligations.BlocksBegin := by
  refine ⟨?got, ?bad, ?clean, ?load⟩
  case got =>
    intro s c a h ws hruns hcut hroom hat hf hser
    refine ⟨_, newBlock s c a h ws ((decodeFault h ws).map (fun v => { code := 1, val := v })),
      congrArg Host.Outcome.next (State.beginBlock_of_got ⟨hruns, hcut, hroom, hat⟩ hf hser), rfl, fun d hd => ?_, ?_,
      rfl, rfl, rfl, rfl, rfl, rfl, rfl, rfl, rfl, rfl, rfl, rfl, ofNat_hdrWmask h, rfl, rfl, rfl, fun hn => ?_, fun v hv => ?_⟩
    · rw [State.addBlock_core_of_ne _ hd, State.fetchMeet_core]
    · rw [State.addBlock_core, State.fetchMeet_core]
    · exact congrArg (Option.map _) hn
    · exact congrArg (Option.map _) hv
  case bad =>
    intro s c a code va hruns hcut hroom hat hf
    refine ⟨_, newBlock s c a 0 [] (some { code := code, val := BitVec.ofNat 64 va }),
      congrArg Host.Outcome.next (State.beginBlock_of_bad ⟨hruns, hcut, hroom, hat⟩ hf), ?_, rfl, rfl⟩
    rw [State.addBlock_core, State.fetchMeet_core]
  case clean =>
    intro s c a sp he hs hl
    exact State.fetchMeet_of_clean he hs hl
  case load =>
    intro s c uid slot r hr
    refine ⟨fun hstop hstall => ?_, fun hwait => ?_⟩
    · exact congrArg Host.Outcome.next (State.loadArrives_of_accepts hr ((State.accepts_iff s c r.die).2 ⟨hstop, hstall⟩))
    · refine congrArg Host.Outcome.next (State.loadArrives_of_not_accepts hr fun ha => ?_)
      obtain ⟨hstop, hstall⟩ := (State.accepts_iff s c r.die).1 ha
      rcases hwait with h | h
      · rw [hstop] at h; cases h
      · exact hstall h

end Sys2Proof.Machine
end

section
/-! SUPPORT. Power, supply, clocks, buckets and stalled links, and the obligation on them (R18, R20 to R26, R33, R46). -/
namespace Sys2Proof.Machine

/-! ### Dies and clocks -/

theorem State.updDie_die (s : State) {n : Nat} (hn : n < 17) (f : Die → Die) (k : Nat) :
    (s.updDie n f).die k = if k = n then f (s.die k) else s.die k := by
  by_cases hk : k < 17
  · by_cases h : k = n
    · subst h; simp [State.die, State.updDie, hk]
    · simp [State.die, State.updDie, hn, hk, h, Ne.symm h]
  · have h : k ≠ n := by omega
    simp [State.die, hk, h]

/-- R18, R25: a clock is stretched to some frequency from 50% to 100%, and nothing else of its die changes. -/
theorem State.stretch_die (s : State) {d : Nat} (hd : d < 17) :
    s.stretch.die d = { s.die d with percent := 50 + s.freeAt d % 51 } := by
  simp [State.stretch, State.useFree, State.die, hd]

theorem State.stretch_frame (s : State) : s.stretch = { s with dies := s.stretch.dies, fresh := s.stretch.fresh } := rfl

theorem State.stretch_bucket (s : State) (d i : Nat) : s.stretch.bucket d i = s.bucket d i := rfl

/-- What POWER_CONTROLLER_EVALUATION and SUPPLY_DROOP say of a die's clock. -/
theorem State.stretch_range (s : State) {d : Nat} (hd : d < 17) :
    50 ≤ (s.stretch.die d).percent ∧ (s.stretch.die d).percent ≤ 100
      ∧ s.stretch.die d = { s.die d with percent := (s.stretch.die d).percent } := by
  have hlt : s.freeAt d % 51 < 51 := Nat.mod_lt _ (by decide)
  rw [s.stretch_die hd]
  exact ⟨Nat.le_add_right _ _, by dsimp only; omega, rfl⟩

/-! ### Power and boot -/

/-- Reports are sent one after another. -/
theorem State.foldl_send {α : Type} (f : α → Sent) : ∀ (l : List α) (s : State),
    l.foldl (fun s c => s.send (f c)) s = { s with outbox := s.outbox ++ l.map f }
  | [], s => by simp
  | c :: l, s => by
    rw [List.foldl_cons, State.foldl_send f l, List.map_cons]
    simp [State.send]

theorem State.limitSet_range (s : State) : 2 ^ 16 ≤ s.limitSet ∧ s.limitSet ≤ 2 ^ 30 := by
  unfold State.limitSet
  have hlt : s.freeAt 0 % (2 ^ 30 - 2 ^ 16 + 1) < 2 ^ 30 - 2 ^ 16 + 1 := Nat.mod_lt _ (by decide)
  split <;> omega

theorem State.verifies_iff (s : State) :
    s.verifies ↔ Config.sha3 s.fwKey = Config.fusedKey ∧ Config.mlDsaVerify s.fwKey (Config.sha3 s.fwImage) s.fwSig := by
  simp [State.verifies]

theorem State.boot_of_verifies {s : State} (h : s.verifies) :
    s.boot = { s with inReset := false, booted := true, sealingKeys := Config.sealingKeysOf s.fwImage
                      dies := s.dies.map (fun d => { d with limit := s.limitSet }), fresh := s.fresh + 1 } := if_pos h

theorem State.boot_of_not_verifies {s : State} (h : ¬ s.verifies) :
    s.boot = { s with inReset := false, booted := false, outbox := s.outbox ++ [.report 8 0 0 0] } := if_neg h

/-- R46: an event that ends in the boot of a state with the firmware of s is one that `Boots` describes. -/
theorem boots_of_boot {i : Instr} {s u : State} (he : exec i s = .next u.boot) (hkey : u.fwKey = s.fwKey) (himage : u.fwImage = s.fwImage)
    (hsig : u.fwSig = s.fwSig) : Boots i s u := by
  have hv := u.verifies_iff
  rw [hkey, himage, hsig] at hv
  refine ⟨fun h => ⟨u.limitSet, u.limitSet_range.1, u.limitSet_range.2, ?_⟩, fun h => ?_⟩
  · rw [he, State.boot_of_verifies (hv.2 h)]
  · rw [he, State.boot_of_not_verifies (mt hv.1 h)]

/-- The package may be powered on: it has no power, or a supply fault holds it in reset. -/
theorem State.powerUp_of_off {s : State} (h : s.powered = false ∨ s.inReset) :
    s.powerUp = (let u := { s with powered := true, latched := [], outbox := s.outbox ++ s.latched.map (fun c => Sent.report 3 c 0 0) }
      if s.supplyOk then u.boot else { u with latched := [1] }) := by
  have hn : ¬ (s.powered ∧ (!s.inReset) = true) := by rcases h with h | h <;> simp [h]
  rw [State.powerUp, if_neg hn, State.foldl_send]

theorem State.supplyLost_of_running {s : State} (hp : s.powered) (hr : s.inReset = false) :
    s.supplyLost = { s.lost with powered := true, supplyOk := false, latched := s.latched ++ [1] } := by
  simp [State.supplyLost, hp, hr]

theorem State.supplyLost_of_off {s : State} (h : s.powered = false ∨ s.inReset) : s.supplyLost = { s with supplyOk := false } := by
  rcases h with h | h <;> simp [State.supplyLost, h]

theorem State.supplyBack_of_reset {s : State} (hp : s.powered) (hr : s.inReset) : s.supplyBack = ({ s with supplyOk := true } : State).boot := by
  simp [State.supplyBack, hp, hr]

theorem State.supplyBack_of_not_reset {s : State} (h : s.powered = false ∨ s.inReset = false) : s.supplyBack = { s with supplyOk := true } := by
  rcases h with h | h <;> simp [State.supplyBack, h]

theorem State.trip_of_powered {s : State} (h : s.powered) : s.trip = { s.lost with latched := s.latched ++ [2] } := if_pos h

/-! ### Buckets -/

/-- R23: a bucket gains its REFILL in a local cycle, up to DEPTH whole tokens. -/
theorem Bucket.gain_spec (o : Bucket) :
    o.gain.en = o.en ∧ o.gain.refill = o.refill ∧ o.gain.depth = o.depth
      ∧ o.gain.level * 1024 + o.gain.frac = min (o.depth * 1024) (o.level * 1024 + o.frac + o.refill)
      ∧ (o.depth * 1024 > o.level * 1024 + o.frac + o.refill → o.gain.frac < 1024) := by
  unfold Bucket.gain
  dsimp only
  split <;> refine ⟨rfl, rfl, rfl, ?_, ?_⟩ <;> dsimp only <;> omega

/-- R23, R25: a rewritten bucket is within its ranges; REFILL is 0 only on a closed port, and LEVEL within DEPTH and no higher than it was. -/
theorem Bucket.rewrite_range (o : Bucket) (shut refill depth : Nat) :
    (let b := o.rewrite shut refill depth
     1 ≤ b.depth ∧ b.depth ≤ 65535 ∧ b.level ≤ b.depth ∧ b.level ≤ o.level ∧ b.refill ≤ 1024 ∧ (b.en → 1 ≤ b.refill)) := by
  unfold Bucket.rewrite
  refine ⟨by dsimp only; omega, by dsimp only; omega, Nat.min_le_right _ _, Nat.min_le_left _ _, ?_, fun hen => ?_⟩
  · dsimp only
    split <;> omega
  · exact (Nat.le_add_right 1 _).trans_eq (if_pos hen).symm

/-- A sparse table gives w at a key where every entry of that key holds w, if there is one or w is the default. -/
theorem cellGet_eq_of_entries {β : Type} {d w : β} {k : Nat} : ∀ {l : List (Nat × β)}, (∀ e ∈ l, e.1 = k → e.2 = w) →
    (w = d ∨ ∃ e ∈ l, e.1 = k) → cellGet d k l = w
  | [], _, h => by
    rcases h with rfl | ⟨e, he, _⟩
    · rfl
    · cases he
  | (b, v) :: r, hw, h => by
    by_cases hk : k = b
    · rw [cellGet, if_pos hk]
      exact hw (b, v) List.mem_cons_self hk.symm
    · rw [cellGet, if_neg hk]
      refine cellGet_eq_of_entries (fun e he => hw e (List.mem_cons_of_mem _ he)) (h.imp_right fun ⟨e, he, hek⟩ => ⟨e, ?_, hek⟩)
      rcases List.mem_cons.1 he with rfl | he
      · exact absurd hek.symm hk
      · exact he

/-- A sparse table made by keeping the values v of a list that are not the default gives v back. -/
theorem cellGet_filter_map {α β : Type} [DecidableEq β] {d : β} {l : List α} (key : α → Nat) (v : α → β) {x : α} (hx : x ∈ l)
    (hkey : ∀ y ∈ l, key y = key x → y = x) :
    cellGet d (key x) ((l.map (fun y => (key y, v y))).filter (fun e => e.2 != d)) = v x := by
  refine cellGet_eq_of_entries (fun e he hek => ?_) ?_
  · obtain ⟨y, hy, rfl⟩ := List.mem_map.1 (List.mem_filter.1 he).1
    exact congrArg v (hkey y hy hek)
  · by_cases hd : v x = d
    · exact .inl hd
    · exact .inr ⟨(key x, v x), List.mem_filter.2 ⟨List.mem_map_of_mem hx, bne_iff_ne.2 hd⟩, rfl⟩

/-- The fabric ingress ports of the package that are built, as die and port. -/
def State.builtPorts (s : State) : List (Nat × Nat) :=
  (List.range 8).flatMap (fun d => ((List.range 2848).filter (s.portBuilt d)).map (fun i => (d, i)))

theorem State.mem_builtPorts {s : State} {d i : Nat} : (d, i) ∈ s.builtPorts ↔ d < 8 ∧ i < 2848 ∧ s.portBuilt d i := by
  unfold State.builtPorts
  generalize 2848 = n
  simp [and_assoc]

/-- Where the bucket of a port stands in the table of buckets. -/
def bucketKey (k : Nat × Nat) : Nat := k.1 * 4096 + k.2

theorem State.bucket_eq (s : State) (d i : Nat) : s.bucket d i = cellGet {} (bucketKey (d, i)) s.buckets := rfl

/-- What the power controller makes of the bucket of a port (R25). -/
def State.rewritten (s : State) (k : Nat × Nat) : Bucket :=
  (s.bucket k.1 k.2).rewrite (s.freeAt (3 * bucketKey k)) (s.freeAt (3 * bucketKey k + 1)) (s.freeAt (3 * bucketKey k + 2))

theorem State.evaluate_buckets_eq (s : State) :
    s.evaluate.buckets = (s.builtPorts.map (fun k => (bucketKey k, s.rewritten k))).filter (fun e => e.2 != ({} : Bucket)) := by
  unfold State.evaluate State.useFree
  dsimp only
  unfold State.rewritten bucketKey State.builtPorts
  rfl

theorem State.evaluate_frame (s : State) : s.evaluate = { s with buckets := s.evaluate.buckets, fresh := s.evaluate.fresh } := by
  unfold State.evaluate State.useFree
  dsimp only

theorem State.evaluate_bucket (s : State) {d i : Nat} (hd : d < 8) (hi : i < 2848) (hb : s.portBuilt d i) :
    s.evaluate.bucket d i = s.rewritten (d, i) := by
  have hkey : ∀ k ∈ s.builtPorts, bucketKey k = bucketKey (d, i) → k = (d, i) := by
    rintro ⟨d', i'⟩ hk he
    obtain ⟨_, hi', _⟩ := State.mem_builtPorts.1 hk
    unfold bucketKey at he
    rw [Prod.mk.injEq]
    omega
  rw [State.bucket_eq, State.evaluate_buckets_eq]
  exact cellGet_filter_map bucketKey s.rewritten (State.mem_builtPorts.2 ⟨hd, hi, hb⟩) hkey

theorem State.setBucket_bucket {s : State} (h : cellWfFrom {} 0 s.buckets) (d i : Nat) (b : Bucket) : (s.setBucket d i b).bucket d i = b :=
  cellGet_set_same _ _ h

/-- No readiness of a zero-slot link depends on a bucket. -/
theorem State.setBucket_zeroReady (s : State) (d i : Nat) (b : Bucket) : ∀ (fuel k : Nat),
    (s.setBucket d i b).zeroReady fuel k = s.zeroReady fuel k
  | 0, _ => rfl
  | fuel + 1, k => by
    unfold State.zeroReady
    simp only [State.setBucket_zeroReady s d i b fuel]
    rfl

theorem State.setBucket_room (s : State) (d i : Nat) (b : Bucket) (k n ctx : Nat) : (s.setBucket d i b).room k n ctx = s.room k n ctx := by
  unfold State.room
  simp only [State.setBucket_zeroReady]
  rfl

/-- The state in which a source port's first beat is pushed into its link: its bucket has paid a token and its queue has lost the beat. -/
def State.paid (s : State) (c : CoreRef) (n d i : Nat) (rest : List Beat) : State :=
  (s.setBucket d i { s.bucket d i with level := (s.bucket d i).level - 1 }).mapCore c
    (fun p => if hn : n < 32 then { p with src := p.src.set n rest } else p)

/-- R22: a source port whose beat is not control injects it into its link once the link has room and the bucket a whole token. -/
theorem State.inject_of_ready {s : State} {c : CoreRef} {n d i k : Nat} {b : Beat} {rest : List Beat} {h : Chan} (hport : s.portOf c n = (d, i))
    (hq : (s.core c).srcQ n = b :: rest) (hkind3 : hkind b ≠ 3) (hlink : s.viLink c n = some h) (hno : s.chanNo h.lid h.num = some k)
    (hmark : (s.chanAt k).marked = false) (hroom : s.room k 1 (s.chanAt k).ctx) (hruns : s.runs c.lid c.pset) (hen : (s.bucket d i).en)
    (hlevel : 1 ≤ (s.bucket d i).level) :
    ∃ j, s.inject c n = (s.paid c n d i rest).push k b (s.chanAt k).ctx j := by
  refine ⟨(s.chanAt k).srcs.findIdx (fun d => decide (d = .core c.px c.py n)), ?_⟩
  unfold State.inject
  simp [hport, hq, hlink, hno, hkind3, hmark, hroom, hruns, hen, hlevel, State.paid]

theorem State.paid_srcQ (s : State) (c : CoreRef) {n : Nat} (hn : n < 32) (d i : Nat) (rest : List Beat) :
    ((s.paid c n d i rest).core c).srcQ n = rest := by
  simp [State.paid, PageCore.srcQ, hn]

theorem State.paid_bucket_level {s : State} (hw : cellWfFrom {} 0 s.buckets) (c : CoreRef) (n d i : Nat) (rest : List Beat) :
    ((s.paid c n d i rest).bucket d i).level = (s.bucket d i).level - 1 := by
  show ((s.setBucket d i _).bucket d i).level = _
  rw [State.setBucket_bucket hw]

/-- A die-edge port has no page core behind it: its local cycle is the gain of its bucket. -/
theorem execBucketRefill_of_edge {s : State} {d i : Nat} (h : s.corePort d i = none) :
    exec (.bucketRefill d i) s = .next (s.setBucket d i (s.bucket d i).gain) := by
  have hp : (s.setBucket d i (s.bucket d i).gain).corePort d i = none := h
  simp [execBucketRefill, hp]

theorem execBucketRefill_of_core {s : State} {d i : Nat} {c : CoreRef} {n : Nat} (h : s.corePort d i = some (c, n)) :
    exec (.bucketRefill d i) s = .next ((s.setBucket d i (s.bucket d i).gain).inject c n) := by
  have hp : (s.setBucket d i (s.bucket d i).gain).corePort d i = some (c, n) := h
  simp [execBucketRefill, hp]

/-! ### Stalled links -/

/-- The responses that a die has ready for the page cores of another, with their page cores. -/
def State.waitingOn (s : State) (die req : Nat) : List (CoreRef × Response) :=
  (s.cores.filter (fun e => s.coreDie e.1 == req)).flatMap (fun e => (e.2.responses.filter (fun r => r.die == die)).map (fun r => (e.1, r)))

theorem State.mem_waitingOn {s : State} {die req : Nat} {x : CoreRef × Response} :
    x ∈ s.waitingOn die req ↔ ∃ p, (x.1, p) ∈ s.cores ∧ s.coreDie x.1 = req ∧ x.2 ∈ p.responses ∧ x.2.die = die := by
  obtain ⟨c, r⟩ := x
  simp [State.waitingOn, and_assoc]

/-- The oldest of them is the one that came first. -/
theorem State.oldestWaiting_eq_argmin (s : State) (die req : Nat) :
    s.oldestWaiting die req = (s.waitingOn die req).argmin (fun x => x.2.stamp) := by
  unfold State.oldestWaiting State.waitingOn List.argmin
  rw [List.foldl_flatMap]
  refine congrArg (fun f => List.foldl f none _) (funext₂ fun m e => ?_)
  rw [List.foldl_map]
  refine congrArg (fun f => List.foldl f m _) (funext₂ fun m r => ?_)
  cases m <;> rfl

theorem State.none_waits {s : State} {die req : Nat} (h : s.oldestWaiting die req = none) :
    ∀ e ∈ s.cores, s.coreDie e.1 = req → ∀ r ∈ e.2.responses, r.die ≠ die := by
  rw [State.oldestWaiting_eq_argmin, List.argmin_eq_none] at h
  intro e he hd r hr hdie
  have hm : (e.1, r) ∈ s.waitingOn die req := State.mem_waitingOn.2 ⟨e.2, he, hd, hr, hdie⟩
  rw [h] at hm
  cases hm

theorem State.oldest_waits {s : State} {die req : Nat} {c : CoreRef} {r : Response} (h : s.oldestWaiting die req = some (c, r)) :
    (∃ p, (c, p) ∈ s.cores ∧ r ∈ p.responses) ∧ r.die = die ∧ s.coreDie c = req
      ∧ ∀ e ∈ s.cores, s.coreDie e.1 = req → ∀ q ∈ e.2.responses, q.die = die → r.stamp ≤ q.stamp := by
  rw [State.oldestWaiting_eq_argmin] at h
  obtain ⟨p, hp, hd, hr, hdie⟩ := State.mem_waitingOn.1 (List.argmin_mem h)
  refine ⟨⟨p, hp, hr⟩, hdie, hd, fun e he hed q hq hqd => ?_⟩
  exact List.le_of_mem_argmin (f := fun x : CoreRef × Response => x.2.stamp) (a := (e.1, q))
    (State.mem_waitingOn.2 ⟨e.2, he, hed, hq, hqd⟩) h

theorem State.stall_of_none {s : State} {d l : Nat} (h : s.oldestWaiting d l = none) : s.stall d l = s := by simp [State.stall, h]

theorem State.stall_of_waiting {s : State} {d l : Nat} {c : CoreRef} {r : Response} (h : s.oldestWaiting d l = some (c, r))
    (hl : l ∉ (s.die d).stalls) :
    s.stall d l = { s.updDie d (fun x => { x with stalls := x.stalls ++ [l] }) with outbox := s.outbox ++ [.report 6 d l r.va] } := by
  simp [State.stall, h, hl, State.send]

/-- The state in which a stall is over and reported, and its oldest response may go on. -/
def State.unstalled (s : State) (d l : Nat) : State :=
  { s.updDie d (fun x => { x with stalls := x.stalls.filter (fun k => k ≠ l) }) with outbox := s.outbox ++ [.report 7 d l 0] }

theorem State.stallOver_of_stopped {s : State} {d l : Nat} (h : (s.die l).stopped) : s.stallOver d l = s := by simp [State.stallOver, h]

theorem State.stallOver_of_runs {s : State} {d l : Nat} (hl : l ∈ (s.die d).stalls) (h : (s.die l).stopped = false) :
    s.stallOver d l = ((s.unstalled d l).oldestWaiting d l).elim (s.unstalled d l) (fun x => (s.unstalled d l).loadArrives x.1 x.2.uid x.2.slot) := by
  have hu : (s.updDie d (fun x => { x with stalls := x.stalls.filter (fun k => k != l) })).send (.report 7 d l 0) = s.unstalled d l := by
    simp only [State.unstalled, State.send, bne, decide_not, State.updDie_outbox]
    rfl
  have hc : (!(s.die d).stalls.contains l || (s.die l).stopped) = false := by simp [hl, h]
  rw [State.stallOver, hc, if_neg Bool.false_ne_true, hu]
  dsimp only
  cases (s.unstalled d l).oldestWaiting d l <;> rfl

/-! ### The obligation -/

/-- Settles O45, event by event: what power, supply and trip make of the package; the ranges of buckets and clocks; a port's gain and injection; the
oldest response behind a stalled link. What outlives the loss of state, and the number that a link bears, are the model's choice (logs 40, 92). -/
theorem powerAndClocks : Obligations.PowerAndClocks := by
  refine ⟨?onOk, ?onBad, ?lost, ?lostOff, ?back, ?backOff, ?trip, ?evaluation, ?droop, ?stop, fun s d => rfl, ?refill, ?inject, fun s => rfl, ?late,
    ?stall, ?stallOver⟩
  case onOk =>
    intro s hoff hok
    have hb := State.powerUp_of_off hoff
    rw [if_pos hok] at hb
    exact boots_of_boot (congrArg Host.Outcome.next hb) rfl rfl rfl
  case onBad =>
    intro s hoff hok
    have hb := State.powerUp_of_off hoff
    rw [if_neg (by simp [hok])] at hb
    exact congrArg Host.Outcome.next hb
  case lost =>
    intro s hp hr
    exact ⟨_, congrArg Host.Outcome.next (State.supplyLost_of_running hp hr), rfl, rfl, rfl, rfl, rfl, rfl, rfl, rfl, rfl, rfl, rfl⟩
  case lostOff =>
    intro s hoff
    exact congrArg Host.Outcome.next (State.supplyLost_of_off hoff)
  case back =>
    intro s hp hr
    exact boots_of_boot (congrArg Host.Outcome.next (State.supplyBack_of_reset hp hr)) rfl rfl rfl
  case backOff =>
    intro s hoff
    exact congrArg Host.Outcome.next (State.supplyBack_of_not_reset hoff)
  case trip =>
    intro s hp
    exact ⟨_, congrArg Host.Outcome.next (State.trip_of_powered hp), rfl, rfl, rfl, rfl, rfl, rfl, rfl, rfl, rfl⟩
  case evaluation =>
    intro s hl
    have hdie (d : Nat) : s.evaluate.die d = s.die d := by rw [s.evaluate_frame]; rfl
    refine ⟨s.evaluate.stretch, congrArg Host.Outcome.next (if_pos hl), ?_, fun d hd i hi hb => ?_, fun d hd => ?_⟩
    · rw [s.evaluate.stretch_frame, s.evaluate_frame]
    · rw [State.stretch_bucket, s.evaluate_bucket hd hi hb]
      exact Bucket.rewrite_range _ _ _ _
    · rw [← hdie d]
      exact s.evaluate.stretch_range hd
  case droop =>
    intro s hl
    exact ⟨s.stretch, congrArg Host.Outcome.next (if_pos hl), rfl, fun d hd => s.stretch_range hd⟩
  case stop =>
    intro s d hl hd
    exact congrArg Host.Outcome.next (if_pos (by simpa [hl] using hd))
  case refill =>
    intro s d i hno
    refine ⟨(s.bucket d i).gain, ?_, Bucket.gain_spec _⟩
    exact execBucketRefill_of_edge hno
  case inject =>
    intro s d i c n b rest h k hcore hport hn hq hk hlink hno hmark hroom hruns hw hen hlevel
    have hb : (s.setBucket d i (s.bucket d i).gain).bucket d i = (s.bucket d i).gain := State.setBucket_bucket hw d i _
    obtain ⟨j, hj⟩ := State.inject_of_ready (s := s.setBucket d i (s.bucket d i).gain) hport hq hk hlink hno hmark
      ((State.setBucket_room s d i _ k 1 _).trans hroom) hruns (by rw [hb, (Bucket.gain_spec _).1]; exact hen) (by rw [hb]; exact hlevel)
    refine ⟨_, j, (execBucketRefill_of_core hcore).trans (congrArg Host.Outcome.next hj), State.paid_srcQ _ c hn d i rest, ?_, rfl⟩
    rw [State.paid_bucket_level (cellSet_wf _ _ (Nat.zero_le _) hw), hb]
  case late =>
    intro s d ht
    exact congrArg Host.Outcome.next (if_neg ht)
  case stall =>
    intro s d l
    refine ⟨fun hn => ⟨congrArg Host.Outcome.next (State.stall_of_none hn), State.none_waits hn⟩, fun c r ho => ?_⟩
    obtain ⟨hmem, hdie, hcore, hold⟩ := State.oldest_waits ho
    exact ⟨hmem, hdie, hcore, hold, fun hl => congrArg Host.Outcome.next (State.stall_of_waiting ho hl)⟩
  case stallOver =>
    intro s d l hl
    refine ⟨fun hs => congrArg Host.Outcome.next (State.stallOver_of_stopped hs), fun hs ho => ?_, fun c r hs ho => ?_⟩
    · have hu : (s.unstalled d l).oldestWaiting d l = none := ho
      exact congrArg Host.Outcome.next ((State.stallOver_of_runs hl hs).trans (by rw [hu]; rfl))
    · have hu : (s.unstalled d l).oldestWaiting d l = some (c, r) := ho
      exact congrArg Host.Outcome.next ((State.stallOver_of_runs hl hs).trans (by rw [hu]; rfl))

end Sys2Proof.Machine
end

section
/-! SUPPORT. What performing a posted access leaves of every die: no write or update touches a die, and a memory error only counts cycles and
joins the log of array errors (R17, R223). -/
namespace Sys2Proof.Machine

/-- A fold keeps what each of its steps keeps. -/
theorem foldl_keeps {σ α β : Type} (g : σ → β) {f : σ → α → σ} (hf : ∀ s x, g (f s x) = g s) : ∀ (l : List α) (s : σ), g (l.foldl f s) = g s
  | [], _ => rfl
  | x :: l, s => (foldl_keeps g hf l (f s x)).trans (hf s x)

/-! ### Operations that leave every die as it was -/

@[simp] theorem State.haltLaunch_dies (s : State) (lid : Nat) : (s.haltLaunch lid).dies = s.dies := rfl
@[simp] theorem State.haltSome_dies (s : State) (lid : Nat) : (s.haltSome lid).dies = s.dies := rfl
@[simp] theorem State.faultWith_dies (s : State) (lid : Nat) (e : EndRec) : (s.faultWith lid e).dies = s.dies := rfl
@[simp] theorem State.nodeFault_dies (s : State) (lid die code chan ord : Nat) : (s.nodeFault lid die code chan ord).dies = s.dies := rfl
@[simp] theorem endLaunch_dies (s : State) (c : CoreRef) (status detail : Nat) : (endLaunch s c status detail).dies = s.dies := rfl
@[simp] theorem latchFault_dies (s : State) (c : CoreRef) (code va lsid : Nat) : (latchFault s c code va lsid).dies = s.dies := by
  unfold latchFault
  dsimp only
  split
  · rfl
  · split <;> rfl

@[simp] theorem State.respond_dies (s : State) (c : CoreRef) (uid slot kind : Nat) (bs : List Byte) (sp : Span) :
    (s.respond c uid slot kind bs sp).dies = s.dies := rfl
@[simp] theorem State.readError_dies (s : State) (c : CoreRef) (uid slot : Nat) (sp : Span) : (s.readError c uid slot sp).dies = s.dies := by
  unfold State.readError
  dsimp only
  split <;> simp
@[simp] theorem State.freezeAccess_dies (s : State) (r : NodeRef) (elem code : Nat) : (s.freezeAccess r elem code).dies = s.dies := by
  unfold State.freezeAccess
  split <;> simp
@[simp] theorem State.answer_dies (s : State) (w : Waiter) (kind : Option Nat) (sp : Span) (bs : List Byte) (dead : Bool) :
    (s.answer w kind sp bs dead).dies = s.dies := by
  unfold State.answer
  split <;> simp

@[simp] theorem State.setPresent_dies (s : State) (pa : Nat) : (s.setPresent pa).dies = s.dies := rfl
@[simp] theorem State.fillWord_dies (s : State) (pa : Nat) (bs : List Byte) : (s.fillWord pa bs).dies = s.dies := rfl
@[simp] theorem State.clearLine_dies (s : State) (line : Nat) : (s.clearLine line).dies = s.dies := by
  unfold State.clearLine
  refine foldl_keeps State.dies ?_ _ _
  exact fun _ _ => rfl
@[simp] theorem State.countStale_dies (s : State) (die phys : Nat) : (s.countStale die phys).dies = s.dies := rfl
@[simp] theorem State.writeG_dies (s : State) (pa va : Nat) (bs : List Byte) (lane g : Nat) (dead : Bool) (who : Waiter) :
    (s.writeG pa va bs lane g dead who).1.dies = s.dies := by
  unfold State.writeG
  dsimp only
  repeat' split
  all_goals simp
@[simp] theorem State.writeWord_dies (s : State) (w : Writer) (x : Xlat) (gen o : Nat) (word : List Byte) :
    (s.writeWord w x gen o word).1.dies = s.dies := by
  unfold State.writeWord
  dsimp only
  repeat' split
  all_goals simp
@[simp] theorem State.writeWords_dies (s : State) (w : Writer) (x : Xlat) (gen : Nat) (bs : List Byte) :
    (s.writeWords w x gen bs).1.dies = s.dies :=
  foldl_keeps (fun a : State × Option Nat × Bool => a.1.dies) (fun a _ => State.writeWord_dies a.1 _ _ _ _ _) _ _
@[simp] theorem State.retryHeld_dies (s : State) (line : Nat) : (s.retryHeld line).dies = s.dies := by
  unfold State.retryHeld
  refine foldl_keeps State.dies (fun s w => ?_) _ _
  dsimp only
  repeat' split
  all_goals simp
@[simp] theorem State.atomicAt_dies (s : State) (pa : Nat) (a : AtomOp) : (s.atomicAt pa a).1.dies = s.dies := rfl

@[simp] theorem State.updReplay_dies (s : State) (lid : Nat) (f : Replay → Replay) : (s.updReplay lid f).dies = s.dies := rfl
@[simp] theorem State.diverged_dies (s : State) (lid : Nat) : (s.diverged lid).dies = s.dies := rfl
@[simp] theorem State.noteUpdate_dies (s : State) (lid who pa : Nat) : (s.noteUpdate lid who pa).dies = s.dies := by
  unfold State.noteUpdate
  dsimp only
  repeat' split
  all_goals simp

@[simp] theorem State.launchPos_dies (s : State) (d i q t : Nat) (forced : Bool) : (s.launchPos d i q t forced).dies = s.dies := by
  unfold State.launchPos
  dsimp only
  split <;> simp
@[simp] theorem State.retry_dies (s : State) (d i : Nat) : (s.retry d i).dies = s.dies := by
  unfold State.retry
  dsimp only
  repeat' split
  all_goals simp
@[simp] theorem State.tryClose_dies (s : State) (d i : Nat) : (s.tryClose d i).dies = s.dies := by
  unfold State.tryClose
  dsimp only
  split <;> simp
@[simp] theorem State.settle_dies (s : State) (d i : Nat) : (s.settle d i).dies = s.dies := by simp [State.settle]
@[simp] theorem State.writeGth_dies (s : State) (d k : Nat) (v : DWord) : (s.writeGth d k v).dies = s.dies := by
  unfold State.writeGth
  dsimp only
  split <;> simp
@[simp] theorem State.writeMaxfl_dies (s : State) (d i : Nat) (v : DWord) : (s.writeMaxfl d i v).dies = s.dies := by
  unfold State.writeMaxfl
  dsimp only
  split <;> simp
@[simp] theorem State.regWrite_dies (s : State) (pa : Nat) (v : DWord) : (s.regWrite pa v).dies = s.dies := by
  unfold State.regWrite
  dsimp only
  repeat' split
  all_goals simp
@[simp] theorem State.coreRegWrite_dies (s : State) (lid pa : Nat) (bs : List Byte) : (s.coreRegWrite lid pa bs).dies = s.dies := by
  unfold State.coreRegWrite
  dsimp only
  split <;> simp

@[simp] theorem State.putFlit_dies (s : State) (port dst vc type : Nat) (nak : Bool) (payload : List Byte) :
    (s.putFlit port dst vc type nak payload).dies = s.dies := by simp [State.putFlit]
@[simp] theorem State.sendFlit_dies (s : State) (port dst vc type : Nat) (payload : List Byte) :
    (s.sendFlit port dst vc type payload).dies = s.dies := by
  unfold State.sendFlit
  dsimp only
  repeat' split
  all_goals simp
@[simp] theorem State.memFlits_dies (s : State) (port node vc type : Nat) (bytes : List Byte) :
    (s.memFlits port node vc type bytes).dies = s.dies :=
  foldl_keeps State.dies (fun s _ => s.sendFlit_dies _ _ _ _ _) _ _
@[simp] theorem State.hostStore_dies (s : State) (first : Option Nat) (node addr : Nat) (bytes : List Byte) :
    (s.hostStore first node addr bytes).dies = s.dies := by
  unfold State.hostStore
  split <;> simp

@[simp] theorem State.queueMarkers_dies (s : State) (c : CoreRef) : (s.queueMarkers c).dies = s.dies := by
  refine foldl_keeps State.dies (fun s n => ?_) _ _
  split <;> simp
@[simp] theorem State.streamDone_dies (s : State) (c : CoreRef) (seq : Nat) : (s.streamDone c seq).dies = s.dies := by simp [State.streamDone]
@[simp] theorem State.tileTimeout_dies (s : State) (c : CoreRef) (t : TileItem) : (s.tileTimeout c t).dies = s.dies := rfl

/-! ### Operations that may meet a memory error -/

/-- A die but for what a memory error adds to it: its count of cycles and its log of array errors. -/
def Die.apart (x : Die) : Die := { x with cycles := 0, arrayLog := [], arrayOver := 0 }

/-- The dies of a package but for what memory errors add. -/
def State.apart (s : State) : Vector Die 17 := s.dies.map Die.apart

theorem State.die_apart (s : State) (d : Nat) : (s.die d).apart = if h : d < 17 then s.apart[d] else Die.apart {} := by
  unfold State.die State.apart
  split <;> simp

theorem State.die_apart_congr {s t : State} (h : t.apart = s.apart) (d : Nat) : (t.die d).apart = (s.die d).apart := by
  rw [t.die_apart, s.die_apart, h]

/-- Memory errors touch neither the time-outs of a die nor the record of its transfers. -/
theorem State.kept_of_apart {s t : State} (h : t.apart = s.apart) (d : Nat) :
    (t.die d).timedOut = (s.die d).timedOut ∧ (t.die d).xferLog = (s.die d).xferLog ∧ (t.die d).vchans = (s.die d).vchans := by
  have hx := State.die_apart_congr h d
  exact ⟨(congrArg Die.timedOut hx :), (congrArg Die.xferLog hx :), (congrArg Die.vchans hx :)⟩

theorem State.apart_of_dies {s t : State} (h : t.dies = s.dies) : t.apart = s.apart := congrArg (Vector.map Die.apart) h

theorem State.updDie_apart (s : State) (n : Nat) {f : Die → Die} (hf : ∀ x, (f x).apart = x.apart) : (s.updDie n f).apart = s.apart := by
  unfold State.updDie State.apart
  split
  · ext1 i hi
    by_cases h : n = i
    · subst h; simp [hf]
    · simp [h]
  · rfl

@[simp] theorem State.dieTime_apart (s : State) (d : Nat) : (s.dieTime d).apart = s.apart := s.updDie_apart d (fun _ => rfl)

@[simp] theorem State.eccAt_apart (s : State) (pa : Nat) : (s.eccAt pa).apart = s.apart := by
  have hlog (f : Die → Die) (hf : ∀ x, (f x).apart = x.apart) : ((s.dieTime (dieOf pa)).updDie (dieOf pa) f).apart = s.apart :=
    (State.updDie_apart _ _ hf).trans (s.dieTime_apart _)
  unfold State.eccAt
  dsimp only
  split
  · rfl
  · split <;> exact hlog _ (by intro x; rfl)

@[simp] theorem State.eccMeet_apart (s : State) (pas : List Nat) : (s.eccMeet pas).apart = s.apart :=
  foldl_keeps State.apart (fun s _ => s.eccAt_apart _) _ _

theorem State.answerOne_apart (s : State) (f : Deferred) : (s.answerOne f).apart = s.apart := by
  unfold State.answerOne
  dsimp only
  repeat' split
  · exact (State.apart_of_dies (State.answer_dies _ _ _ _ _ _)).trans (s.eccMeet_apart _)
  · exact (State.apart_of_dies (State.readError_dies _ _ _ _ _)).trans (s.eccMeet_apart _)
  · exact (State.apart_of_dies (State.freezeAccess_dies _ _ _ _)).trans (s.eccMeet_apart _)
  · exact s.eccMeet_apart _

theorem State.answerRounds_apart : ∀ (fuel : Nat) (s : State), (s.answerRounds fuel).apart = s.apart
  | 0, _ => rfl
  | fuel + 1, s => by
    unfold State.answerRounds
    dsimp only
    split
    · rfl
    · exact (State.answerRounds_apart fuel _).trans (foldl_keeps State.apart State.answerOne_apart _ _)

theorem State.answerDeferred_apart (s : State) : s.answerDeferred.apart = s.apart := State.answerRounds_apart _ s

theorem State.tillLine_apart (s : State) (line : Nat) : (s.tillLine line).apart = s.apart :=
  (State.answerDeferred_apart _).trans (State.apart_of_dies (by simp))

theorem State.tillSpan_apart (s : State) (c : CoreRef) (sp : Span) (g : Bool) : (s.tillSpan c sp g).apart = s.apart := by
  refine foldl_keeps State.apart (fun s e => ?_) _ _
  split
  · rfl
  · exact s.tillLine_apart _

theorem State.writeSpan_apart (w : Writer) (gen : Nat) : ∀ (sp : Span) (bs : List Byte) (s : State), (s.writeSpan w gen sp bs).1.apart = s.apart
  | [], _, s => s.answerDeferred_apart
  | (x, n) :: r, bs, s => by
    unfold State.writeSpan
    dsimp only
    refine (State.writeSpan_apart w gen r _ _).trans (State.apart_of_dies ?_)
    split
    · simp
    · split <;> simp

/-- A posted access that is performed leaves every die as it was, but for the errors that it meets. -/
theorem State.performPosted_apart (s : State) (c : CoreRef) (q : Posted) : (s.performPosted c q).apart = s.apart := by
  unfold State.performPosted
  dsimp only
  split
  · exact (State.apart_of_dies (s := s.eccMeet (spanPas q.kind.span)) (by simp)).trans (s.eccMeet_apart _)
  · split
    · next sp bs gen _ =>
      rw [← State.writeSpan_apart (coreWriter c q.seq q.lsid 1) gen sp bs s]
      refine State.apart_of_dies ?_
      repeat' split
      all_goals simp
    · exact (State.apart_of_dies (State.mapCore_dies _ _ _)).trans (s.tillSpan_apart _ _ _)
    · split <;> exact State.apart_of_dies (by simp)

end Sys2Proof.Machine
end

section
/-! SUPPORT. Requests to another die that time out (R17, R19, R20, R31, R200, R359). -/
namespace Sys2Proof.Machine

/-! ### A response that will be late -/

@[simp] theorem State.lateOwed_cores (s : State) (d : Nat) : (s.lateOwed d).cores = s.cores := State.updDie_cores _ _ _

@[simp] theorem State.lateOwed_core (s : State) (d : Nat) (c : CoreRef) : (s.lateOwed d).core c = s.core c := by simp [State.core]

@[simp] theorem State.useFree_core (s : State) (n : Nat) (c : CoreRef) : (s.useFree n).core c = s.core c := rfl

/-- R19: the response that has not come in time is counted as late once it comes, whatever else was done that leaves the dies as they were. -/
theorem State.lateOwed_timedOut {s t : State} {d : Nat} (hd : d < 17) (h : t.apart = s.apart) :
    ((t.lateOwed d).die d).timedOut = (s.die d).timedOut + 1 := by
  rw [State.lateOwed, State.updDie_die _ hd, if_pos rfl]
  exact congrArg (· + 1) (State.kept_of_apart h d).1

/-! ### What a time-out of each kind of request does, while the clock of its die runs -/

section
variable {s : State} {c : CoreRef}

theorem State.crossTimeout_load {uid slot va : Nat} (hrun : (s.die (s.coreDie c)).stopped = false) (h : s.loadAwaited c uid slot = some va) :
    s.crossTimeout (.load c uid slot) = s.loadTimeout c uid slot va := by
  simp [State.crossTimeout, hrun, h]

theorem State.crossTimeout_posted_of_near {seq : Nat} (hrun : (s.die (s.coreDie c)).stopped = false)
    (h : ∀ q, s.postedAt c seq = some q → spanOff (s.coreDie c) q.kind.span = false) : s.crossTimeout (.posted c seq) = s := by
  have hf : (s.postedAt c seq).filter (fun q => spanOff (s.coreDie c) q.kind.span) = none := by
    simpa [Option.filter_eq_none_iff] using h
  simp [State.crossTimeout, hrun, hf]

/-- A store or atomic may have been performed although its answer has not come in time (log 60). -/
theorem State.crossTimeout_posted {seq : Nat} {q : Posted} (hrun : (s.die (s.coreDie c)).stopped = false) (h : s.postedAt c seq = some q)
    (hoff : spanOff (s.coreDie c) q.kind.span) :
    ∃ t : State, t.apart = s.apart ∧ s.crossTimeout (.posted c seq) = latchFault (t.lateOwed (s.coreDie c)) c 8 q.va q.lsid := by
  have hf : (s.postedAt c seq).filter (fun q => spanOff (s.coreDie c) q.kind.span) = some q := by simp [h, hoff]
  by_cases hdone : s.freeAt 0 % 2 = 1
  · refine ⟨(s.performPosted c q).useFree 1, s.performPosted_apart c q, ?_⟩
    simp [State.crossTimeout, hrun, hf, hdone]
  · refine ⟨(s.mapCore c (fun p => { p with posted := p.posted.filter (fun r => r.seq != seq) })).useFree 1, rfl, ?_⟩
    simp [State.crossTimeout, hrun, hf, hdone]

theorem State.crossTimeout_tile {seq : Nat} {q : TileItem} (hrun : (s.die (s.coreDie c)).stopped = false)
    (h : (s.core c).tileQ.find? (fun t => t.seq == seq && t.op.touches && spanOff (s.coreDie c) t.op.span) = some q) :
    s.crossTimeout (.tile c seq) = latchFault ((s.tileTimeout c q).lateOwed (s.coreDie c)) c 8 (spanVa q.op.span) q.lsid := by
  simp [State.crossTimeout, hrun, h]

theorem State.crossTimeout_stream {seq : Nat} {q : StreamCmd} (hrun : (s.die (s.coreDie c)).stopped = false)
    (h : (s.core c).streams.find? (fun t => t.seq == seq && t.tile.isNone && spanOff (s.coreDie c) t.span) = some q) :
    s.crossTimeout (.stream c seq) = latchFault ((s.streamDone c seq).lateOwed (s.coreDie c)) c 8 (spanVa q.span) q.lsid := by
  simp [State.crossTimeout, hrun, h]

theorem State.crossTimeout_fence {n : Nat} {f : Fence} (hrun : (s.die (s.coreDie c)).stopped = false)
    (h : (s.core c).fences.find? (fun f => f.serial == n) = some f) :
    s.crossTimeout (.fence c n) = ((s.fenceCrosses c f).map (fun va => latchFault (s.lateOwed (s.coreDie c)) c 8 va 0)).getD s := by
  cases hc : s.fenceCrosses c f <;> simp [State.crossTimeout, hrun, h, hc]

/-- A fence waits for an earlier posted access that another die is to answer. -/
theorem State.fenceCrosses_of_posted {f : Fence} (h : ∃ q ∈ (s.core c).posted, q.seq < f.upto ∧ spanOff (s.coreDie c) q.kind.span) :
    s.fenceCrosses c f ≠ none := by
  obtain ⟨q, hq, hseq, hoff⟩ := h
  have hs : ((s.core c).posted.find? (fun q => decide (q.seq < f.upto) && spanOff (s.coreDie c) q.kind.span)).isSome :=
    List.find?_isSome.2 ⟨q, hq, by simp [hseq, hoff]⟩
  obtain ⟨r, hr⟩ := Option.isSome_iff_exists.1 hs
  simp [State.fenceCrosses, hr]

theorem State.crossTimeout_node {r : NodeRef} {n : MemNode} {o : NodeOp} {elem : Nat} (hn : s.nodeAt r = some n)
    (hrun : (s.die n.die).stopped = false)
    (h : n.ops.find? (fun o => o.elem == elem && o.status != 2 && spanOff n.die (s.opSpan n o)) = some o) :
    s.crossTimeout (.node r elem) = (s.lateOwed n.die).nodeFault r.lid n.die 0x8E o.chan o.ord := by
  simp [State.crossTimeout, hn, hrun, h]

theorem State.crossTimeout_engine {d g : Nat} {r : EngReq} (hrun : (s.die d).stopped = false)
    (h : s.engines.find? (fun r => r.die == d && r.engine == g) = some r) (hoff : (s.engSpans r).any (spanOff d)) :
    s.crossTimeout (.engine d g) = (s.lateOwed d).engAnswer r 8 r.next 0 := by
  simp only [State.crossTimeout, hrun, h, hoff, if_true]
  simp

theorem State.crossTimeout_remote {lid num i : Nat} (hno : s.chanNo lid num = some i) (hkind : (s.chanAt i).kind = 3)
    (hdst : (s.chanAt i).dst = .remote) (hup : (s.port (s.chanAt i).vport).up = false) (hbeats : (s.chanAt i).beats ≠ [])
    (hrun : (s.die (portDie (s.chanAt i).vport)).stopped = false) :
    s.crossTimeout (.remote lid num) = s.updChan i (fun h => { h with expired := true }) := by
  simp [State.crossTimeout, hno, hrun, hkind, hdst, hup, hbeats]

end

theorem State.lateOwed_frame (s : State) (d : Nat) : s.lateOwed d = { s with dies := (s.lateOwed d).dies } := by
  unfold State.lateOwed State.updDie
  split <;> rfl

/-- R226: a memory node's fault ends its launch, where nothing has ended it before. -/
theorem State.nodeFault_launch {s : State} {lid : Nat} {l : Launch} (hl : s.launch lid = some l) (hend : l.ending = none) (d code chan ord : Nat) :
    ((s.lateOwed d).nodeFault lid d code chan ord).launch lid =
      some { l with ending := some { status := 0x22, detail := code, die := d, fchan := chan, ford := ord } } := by
  have hlate : (s.lateOwed d).launch lid = some l := by
    rw [s.lateOwed_frame]
    exact hl
  refine (State.mapLaunch_launch (s.lateOwed d) lid _ (fun l => ?_) lid).trans ?_
  · split
    · rfl
    · split <;> rfl
  · rw [hlate, Option.map_some, if_pos rfl, hend]

/-! ### Loads and tiles -/

theorem State.loadTimeout_block {s : State} {c : CoreRef} {uid slot va bi : Nat} {b : Block} (hb : (s.core c).blocks[bi]? = some b)
    (huid : b.uid = uid) (hf : b.fault = none) :
    ∃ lsid, ((s.loadTimeout c uid slot va).core c).blocks[bi]? = some { b with fault := some { code := 8, val := BitVec.ofNat 64 va, lsid := lsid } } := by
  refine ⟨((b.insn slot).map lsidOf).getD 0, ?_⟩
  have hcore (t : List Deferred) : ({ s with deferred := t } : State).core c = s.core c := rfl
  simp [State.loadTimeout, hcore, hb, huid, Block.fail, hf]

theorem State.loadTimeout_timedOut {s : State} {c : CoreRef} {uid slot va : Nat} (hd : s.coreDie c < 17) :
    ((s.loadTimeout c uid slot va).die (s.coreDie c)).timedOut = (s.die (s.coreDie c)).timedOut + 1 :=
  State.lateOwed_timedOut hd rfl

@[simp] theorem PageCore.setTile_tileQ (p : PageCore) (k : Nat) (t : Tile) : (p.setTile k t).tileQ = p.tileQ := by
  unfold PageCore.setTile
  split <;> rfl

theorem State.not_mem_tileTimeout (s : State) (c : CoreRef) (q : TileItem) : q ∉ ((s.tileTimeout c q).core c).tileQ := by
  have hq : ((s.tileTimeout c q).core c).tileQ = (s.core c).tileQ.filter (fun u => decide (u ≠ q)) := by
    simp only [State.tileTimeout, State.useFree_core, State.mapCore_core]
    split <;> simp
  simp [hq]

end Sys2Proof.Machine
end

section
/-! SUPPORT. Errors of memory transfers and fatal errors, and the obligation on time-outs and errors (R16, R39, R224 to R226). -/
namespace Sys2Proof.Machine

/-! ### Fatal errors -/

/-- How a fatal error of a die ends the launches that use it (R39, R226). -/
def dieLost (d : Nat) : EndRec := { status := 0x22, detail := 0x8F, die := d }

/-- A fatal error before it ends any launch: it is reported, dumped or counted, and its die goes offline. -/
def State.takenOffline (s : State) (d : Nat) : State :=
  let t := s.send (.report 9 d 0 0)
  State.updDie (match t.dump with
    | some _ => { t with fatals := t.fatals + 1 }
    | none =>
      let bytes := (List.range (t.freeAt 0 % 0x80000000)).map (fun i => Config.freeByte (2 ^ 40 * t.fresh + i))
      { (t.store (if d = 15 then 0x7500000000 else 0x7D00000000) bytes).useFree 1 with dump := some bytes }) d (fun x => { x with online := false })

/-- The launches that a list names end, and their page sets go quiet. -/
def State.loseAll (s : State) (d : Nat) (ls : List Launch) : State := ls.foldl (fun s l => (s.endWith l.lid (dieLost d)).haltLaunch l.lid) s

theorem State.fatal_eq (s : State) (d : Nat) :
    s.fatal d = (s.takenOffline d).loseAll d ((s.takenOffline d).launches.filter (fun l => (s.takenOffline d).usesDie l.lid d)) := rfl

/-- What neither the end of a launch nor a quiet page set touches is left by the end of all. -/
theorem State.loseAll_keeps {β : Type} (g : State → β) (hend : ∀ (s : State) (lid : Nat) (e : EndRec), g (s.endWith lid e) = g s)
    (hhalt : ∀ (s : State) (lid : Nat), g (s.haltLaunch lid) = g s) (s : State) (d : Nat) (ls : List Launch) : g (s.loseAll d ls) = g s :=
  foldl_keeps g (fun _ _ => (hhalt _ _).trans (hend _ _ _)) ls s

theorem State.loseAll_launch (d lid : Nat) : ∀ (ls : List Launch) (s : State), (s.loseAll d ls).launch lid =
    (s.launch lid).map (fun l => if lid ∈ ls.map Launch.lid ∧ l.ending = none then { l with ending := some (dieLost d) } else l)
  | [], s => by simp [State.loseAll]
  | k :: ls, s => by
    have hk : ((s.endWith k.lid (dieLost d)).haltLaunch k.lid).launch lid = (s.endWith k.lid (dieLost d)).launch lid := rfl
    have ih := State.loseAll_launch d lid ls ((s.endWith k.lid (dieLost d)).haltLaunch k.lid)
    refine ih.trans ?_
    rw [hk, State.endWith_launch, Option.map_map]
    refine congrArg (fun f => Option.map f (s.launch lid)) (funext fun l => ?_)
    cases hl : l.ending <;> by_cases h : lid = k.lid <;> simp [h, hl]

theorem State.takenOffline_frame (s : State) (d : Nat) :
    (s.takenOffline d).launches = s.launches ∧ (s.takenOffline d).placed = s.placed ∧ (s.takenOffline d).outbox = s.outbox ++ [.report 9 d 0 0] := by
  unfold State.takenOffline
  dsimp only
  split <;> simp [State.send]

theorem State.takenOffline_dies (s : State) (d : Nat) : (s.takenOffline d).dies = (s.updDie d (fun x => { x with online := false })).dies := by
  unfold State.takenOffline State.updDie
  dsimp only
  split <;> split <;> rfl

theorem State.takenOffline_dump (s : State) (d : Nat) :
    (s.dump = none → (s.takenOffline d).dump ≠ none ∧ (s.takenOffline d).fatals = s.fatals)
      ∧ (s.dump ≠ none → (s.takenOffline d).dump = s.dump ∧ (s.takenOffline d).fatals = s.fatals + 1 ∧ (s.takenOffline d).mem = s.mem) := by
  unfold State.takenOffline
  cases h : s.dump <;> simp [h]

/-- R226: a fatal error takes its die offline and leaves every other die as it was. -/
theorem State.fatal_die (s : State) {d : Nat} (hd : d < 17) (k : Nat) :
    (s.fatal d).die k = if k = d then { s.die k with online := false } else s.die k := by
  have hdies : (s.fatal d).dies = (s.updDie d (fun x => { x with online := false })).dies :=
    (State.loseAll_keeps State.dies State.endWith_dies State.haltLaunch_dies _ _ _).trans (s.takenOffline_dies d)
  refine Eq.trans ?_ (s.updDie_die hd (fun x => { x with online := false }) k)
  unfold State.die
  rw [hdies]

/-- R39, R226: what a fatal error does to a launch. -/
theorem State.fatal_launch {s : State} {lid : Nat} {l : Launch} (h : s.launch lid = some l) (d : Nat) :
    (s.fatal d).launch lid = some (if s.usesDie lid d ∧ l.ending = none then { l with ending := some (dieLost d) } else l) := by
  obtain ⟨hlaunches, hplaced, -⟩ := s.takenOffline_frame d
  have huse : (s.takenOffline d).usesDie = s.usesDie := by
    funext
    unfold State.usesDie
    rw [hplaced]
  have hlaunch : (s.takenOffline d).launch lid = some l := by
    unfold State.launch
    rw [hlaunches]
    exact h
  have hmem : l ∈ s.launches := List.mem_of_find?_eq_some h
  have hlid : l.lid = lid := by simpa using List.find?_some h
  have hnamed : lid ∈ ((s.launches.filter (fun l => s.usesDie l.lid d)).map Launch.lid) ↔ s.usesDie lid d := by
    simp only [List.mem_map, List.mem_filter]
    constructor
    · rintro ⟨k, ⟨-, hk⟩, rfl⟩
      exact hk
    · exact fun hu => ⟨l, ⟨hmem, hlid ▸ hu⟩, hlid⟩
  rw [State.fatal_eq, State.loseAll_launch, huse, hlaunches, hlaunch, Option.map_some]
  simp only [hnamed]

/-! ### Transfers that fail parity -/

theorem ringAdd_getLast? (log : List (List Byte)) (lost : Nat) (e : List Byte) : (ringAdd log lost e).1.getLast? = some e := by
  unfold ringAdd
  split <;> simp

@[simp] theorem Die.setVchan_vchan (x : Die) (ch spares : Nat) (off : Bool) : (x.setVchan ch spares off).vchan ch = (spares, off) := by
  simp [Die.vchan, Die.setVchan]

/-- What a transfer that has failed parity leaves of its die (R16, R224, R225): its entry stands last in the log and says after n attempts that a
retry succeeded (oc 1), that spare sp took the place of a lane (oc 2), or that no spare was left and the channel is offline (oc 3). -/
structure XferNoted (x y : Die) (pa : Nat) (wr : Bool) (lane n oc ln sp : Nat) : Prop where
  entry : ∃ k, y.xferLog.getLast? = some (xferEntry pa (vchanOf pa) wr n oc ln sp k)
  tries : 2 ≤ n ∧ n ≤ 8
  outcome : oc = 1 ∨ oc = 2 ∨ oc = 3
  retried : oc = 1 → n ≤ 4 ∧ y.vchans = x.vchans
  repaired : oc = 2 → 5 ≤ n ∧ ln = lane ∧ (x.vchan (vchanOf pa)).1 ≤ sp ∧ sp < 2 ∧ y.vchan (vchanOf pa) = (sp + 1, false)
  exhausted : oc = 3 → n = 4 ∧ 2 ≤ (y.vchan (vchanOf pa)).1 ∧ (y.vchan (vchanOf pa)).2

/-- The die after a transfer's entry has joined its log. -/
theorem State.noteXfer_die (s : State) {d : Nat} (hd : d < 17) (pa : Nat) (wr : Bool) (n oc lane spares : Nat) :
    (let y := (s.noteXfer d pa wr n oc lane spares).die d
     (∃ k, y.xferLog.getLast? = some (xferEntry pa (vchanOf pa) wr n oc (if oc = 2 then lane else 0) (if oc = 2 then spares else 0) k))
     ∧ (oc = 1 → y.vchans = (s.die d).vchans)
     ∧ (oc ≠ 1 → y.vchan (vchanOf pa) = (if oc = 2 then spares + 1 else spares, oc == 3))) := by
  unfold State.noteXfer
  rw [State.updDie_die _ hd, if_pos rfl]
  dsimp only
  refine ⟨⟨(s.die d).cycles, ?_⟩, fun h => ?_, fun h => ?_⟩
  · split <;> exact ringAdd_getLast? _ _ _
  · rw [if_pos h]
  · rw [if_neg h, Die.setVchan_vchan]

theorem XferNoted.of_die_eq {x x' y y' : Die} {pa lane n oc ln sp : Nat} {wr : Bool} (h : XferNoted x y pa wr lane n oc ln sp)
    (hx : x'.vchans = x.vchans) (hlog : y'.xferLog = y.xferLog) (hy : y'.vchans = y.vchans) : XferNoted x' y' pa wr lane n oc ln sp := by
  have hvx : x'.vchan = x.vchan := by funext; unfold Die.vchan; rw [hx]
  have hvy : y'.vchan = y.vchan := by funext; unfold Die.vchan; rw [hy]
  obtain ⟨hentry, htries, houtcome, hretried, hrepaired, hexhausted⟩ := h
  exact ⟨hlog ▸ hentry, htries, houtcome, hx ▸ hy ▸ hretried, hvx ▸ hvy ▸ hrepaired, hvy ▸ hexhausted⟩

section
variable {s : State} {d : Nat} (hd : d < 17) (pa : Nat) (wr : Bool) (lane : Nat)
include hd

theorem noteXfer_retried {n : Nat} (hn : 2 ≤ n ∧ n ≤ 4) (spares : Nat) :
    XferNoted (s.die d) ((s.noteXfer d pa wr n 1 lane spares).die d) pa wr lane n 1 0 0 := by
  obtain ⟨hentry, hsame, -⟩ := s.noteXfer_die hd pa wr n 1 lane spares
  exact ⟨hentry, ⟨hn.1, by omega⟩, .inl rfl, fun _ => ⟨hn.2, hsame rfl⟩, nofun, nofun⟩

theorem noteXfer_repaired {n spares : Nat} (hn : 5 ≤ n ∧ n ≤ 8) (hs : ((s.die d).vchan (vchanOf pa)).1 ≤ spares ∧ spares < 2) :
    XferNoted (s.die d) ((s.noteXfer d pa wr n 2 lane spares).die d) pa wr lane n 2 lane spares := by
  obtain ⟨hentry, -, hchan⟩ := s.noteXfer_die hd pa wr n 2 lane spares
  exact ⟨hentry, ⟨by omega, hn.2⟩, .inr (.inl rfl), nofun, fun _ => ⟨hn.1, rfl, hs.1, hs.2, hchan (by decide)⟩, nofun⟩

theorem noteXfer_exhausted {spares : Nat} (hs : 2 ≤ spares) :
    XferNoted (s.die d) ((s.noteXfer d pa wr 4 3 lane spares).die d) pa wr lane 4 3 0 0 := by
  obtain ⟨hentry, -, hchan⟩ := s.noteXfer_die hd pa wr 4 3 lane spares
  have hchan := hchan (by decide)
  exact ⟨hentry, by decide, .inr (.inr rfl), nofun, nofun, fun _ => ⟨rfl, by rw [hchan]; exact ⟨hs, rfl⟩⟩⟩

end

/-- The spares that the channel of an address has used. -/
def State.sparesUsed (s : State) (d pa : Nat) : Nat := ((s.die d).vchan (vchanOf pa)).1

theorem laneFails_of_spent {s : State} {d pa : Nat} (h : 2 ≤ s.sparesUsed d pa) (wr : Bool) (lane fuel : Nat) :
    laneFails d pa wr lane (fuel + 1) s = (s.noteXfer d pa wr 4 3 lane (s.sparesUsed d pa), true) := if_pos h

theorem laneFails_of_spare {s : State} {d pa : Nat} (h : s.sparesUsed d pa < 2) (wr : Bool) (lane fuel : Nat) :
    ∃ n, (5 ≤ n ∧ n ≤ 8) ∧ (let t := (s.useFree 1).noteXfer d pa wr n 2 lane (s.sparesUsed d pa)
      laneFails d pa wr lane (fuel + 1) s = (t, false) ∨ laneFails d pa wr lane (fuel + 1) s = laneFails d pa wr lane fuel t) := by
  refine ⟨min 8 (4 + (1 + s.freeAt 0 % 5)), by omega, ?_⟩
  have hl : laneFails d pa wr lane (fuel + 1) s = _ := if_neg (by exact Nat.not_le.2 h)
  rw [hl]
  dsimp only
  split
  · exact .inl rfl
  · exact .inr rfl

/-- R16: once the retries have failed, a spare takes the lane's place and the transfer is tried again, until it succeeds or no spare is left. -/
theorem laneFails_noted {d : Nat} (hd : d < 17) (pa : Nat) (wr : Bool) (lane : Nat) : ∀ (fuel : Nat) (s : State), 2 ≤ s.sparesUsed d pa + fuel →
    ∃ n oc ln sp, XferNoted (s.die d) ((laneFails d pa wr lane (fuel + 1) s).1.die d) pa wr lane n oc ln sp ∧ oc ≠ 1
      ∧ (oc = 3 → (laneFails d pa wr lane (fuel + 1) s).2 = true) := by
  intro fuel
  induction fuel with
  | zero =>
    intro s hs
    rw [laneFails_of_spent hs]
    exact ⟨4, 3, 0, 0, noteXfer_exhausted hd pa wr lane hs, by decide, fun _ => rfl⟩
  | succ fuel ih =>
    intro s hs
    by_cases hspent : 2 ≤ s.sparesUsed d pa
    · rw [laneFails_of_spent hspent]
      exact ⟨4, 3, 0, 0, noteXfer_exhausted hd pa wr lane hspent, by decide, fun _ => rfl⟩
    · obtain ⟨n, hn, hl⟩ := laneFails_of_spare (Nat.not_le.1 hspent) wr lane (fuel + 1)
      have hrep : XferNoted (s.die d) (((s.useFree 1).noteXfer d pa wr n 2 lane (s.sparesUsed d pa)).die d) pa wr lane n 2 lane (s.sparesUsed d pa) :=
        noteXfer_repaired (s := s.useFree 1) hd pa wr lane hn ⟨Nat.le_refl _, Nat.not_le.1 hspent⟩
      rcases hl with hl | hl
      · rw [hl]
        exact ⟨n, 2, lane, s.sparesUsed d pa, hrep, by decide, nofun⟩
      · have hused : ((s.useFree 1).noteXfer d pa wr n 2 lane (s.sparesUsed d pa)).sparesUsed d pa = s.sparesUsed d pa + 1 :=
          congrArg Prod.fst (hrep.repaired rfl).2.2.2.2
        obtain ⟨n', oc, ln, sp, hnoted, hoc, hgone⟩ := ih _ (by rw [hused]; omega)
        rw [hl]
        refine ⟨n', oc, ln, sp, ⟨hnoted.entry, hnoted.tries, hnoted.outcome, fun h => absurd h hoc, fun h => ?_, hnoted.exhausted⟩, hoc, hgone⟩
        obtain ⟨hn', hln, hle, hlt, hchan⟩ := hnoted.repaired h
        have hle : s.sparesUsed d pa + 1 ≤ sp := hused.symm.trans_le hle
        exact ⟨hn', hln, Nat.le_of_succ_le hle, hlt, hchan⟩

/-- A transfer that has failed parity is tried again, and repaired where the retries fail; the second part says that its channel is exhausted. -/
def State.xferTried (s : State) (d pa : Nat) (wr : Bool) (lane : Nat) : State × Bool :=
  let n := 2 + s.freeAt 0 % 4
  let t := (s.useFree 1).dieTime d
  if n ≤ 4 then (t.noteXfer d pa wr n 1 lane (s.sparesUsed d pa), false) else laneFails d pa wr lane 3 t

theorem State.xferTried_noted (s : State) {d : Nat} (hd : d < 17) (pa : Nat) (wr : Bool) (lane : Nat) :
    ∃ n oc ln sp, XferNoted (s.die d) ((s.xferTried d pa wr lane).1.die d) pa wr lane n oc ln sp
      ∧ (oc = 3 → (s.xferTried d pa wr lane).2 = true) := by
  have hx : (s.die d).vchans = (((s.useFree 1).dieTime d).die d).vchans :=
    (State.kept_of_apart ((s.useFree 1).dieTime_apart d) d).2.2.symm
  unfold State.xferTried
  dsimp only
  split
  · next hn =>
    exact ⟨_, 1, 0, 0, (noteXfer_retried hd pa wr lane ⟨Nat.le_add_right _ _, hn⟩ _).of_die_eq hx rfl rfl, nofun⟩
  · obtain ⟨n, oc, ln, sp, hnoted, -, hgone⟩ := laneFails_noted hd pa wr lane 2 ((s.useFree 1).dieTime d) (Nat.le_add_left _ _)
    exact ⟨n, oc, ln, sp, hnoted.of_die_eq hx rfl rfl, hgone⟩

/-- R224: what follows a transfer that has failed parity at a channel that is not offline. -/
theorem State.parity_eq {s : State} {d pa : Nat} (hd : d < 16) (hpa : pa / 0x800000000 = d) (hbank : pa % 0x800000000 < 0x600000000)
    (hon : ((s.die d).vchan (vchanOf pa)).2 = false) (wr : Bool) (lane : Nat) :
    s.parity d pa wr lane = (let t := (s.xferTried d pa wr lane).1
      if (s.xferTried d pa wr lane).2 then t.fatal d
      else if reservedMem pa && t.eccBad [pa] then (t.eccAt pa).fatal d else t.eccAt pa) := by
  have hgo : (decide (16 ≤ d) || decide (pa / 0x800000000 ≠ d) || decide (0x600000000 ≤ pa % 0x800000000) || ((s.die d).vchan (vchanOf pa)).2) = false := by
    simp [hon, hpa, Nat.not_le.2 hd, hbank]
  unfold State.parity
  dsimp only
  rw [hgo]
  rfl

/-- R225: neither the errors that the transfer meets nor a fatal error touch what has been noted of it. -/
theorem State.parity_noted {s : State} {d pa : Nat} (hd : d < 16) (hpa : pa / 0x800000000 = d) (hbank : pa % 0x800000000 < 0x600000000)
    (hon : ((s.die d).vchan (vchanOf pa)).2 = false) (wr : Bool) (lane : Nat) :
    ∃ n oc ln sp, XferNoted (s.die d) ((s.parity d pa wr lane).die d) pa wr lane n oc ln sp
      ∧ (oc = 3 → ((s.parity d pa wr lane).die d).online = false) := by
  have hd' : d < 17 := Nat.lt_succ_of_lt hd
  obtain ⟨n, oc, ln, sp, hnoted, hgone⟩ := s.xferTried_noted hd' pa wr lane
  have hecc (t : State) := (State.kept_of_apart (t.eccAt_apart pa) d).2
  have hfatal (t : State) : (t.fatal d).die d = { t.die d with online := false } := by rw [t.fatal_die hd', if_pos rfl]
  refine ⟨n, oc, ln, sp, ?_⟩
  rw [State.parity_eq hd hpa hbank hon]
  dsimp only
  split
  · rw [hfatal]
    exact ⟨hnoted.of_die_eq rfl rfl rfl, fun _ => rfl⟩
  · next hkept =>
    have hoc : oc ≠ 3 := fun h => hkept (hgone h)
    split
    · rw [hfatal]
      exact ⟨hnoted.of_die_eq rfl (hecc _).1 (hecc _).2, fun _ => rfl⟩
    · exact ⟨hnoted.of_die_eq rfl (hecc _).1 (hecc _).2, fun h => absurd h hoc⟩

/-! ### The obligation -/

/-- Settles O54: each kind of request that times out leaves its fault and a response that is late (that a stream's time-out is deferred like a
store's, and the access that a fence reports, are the model's choice, log 60); the entry of a transfer that fails parity says how it went; a fatal
error takes its die and the launches on it. -/
theorem timeoutsAndErrors : Obligations.TimeoutsAndErrors := by
  refine ⟨fun s c hrun hd => ⟨?load, ?near, ?posted, ?tile, ?stream, ?fence⟩, ?node, ?engine, ?remote, ?parity, ?lost⟩
  case load =>
    intro uid slot va bi b hva hb huid hf
    obtain ⟨lsid, hblock⟩ := State.loadTimeout_block (slot := slot) (va := va) hb huid hf
    refine ⟨_, congrArg Host.Outcome.next (State.crossTimeout_load hrun hva), State.loadTimeout_timedOut hd, ?_⟩
    rw [hblock]
    rfl
  case near =>
    intro seq hnear
    exact congrArg Host.Outcome.next (State.crossTimeout_posted_of_near hrun hnear)
  case posted =>
    intro seq q hq hoff
    obtain ⟨t, ht, he⟩ := State.crossTimeout_posted hrun hq hoff
    exact ⟨_, congrArg Host.Outcome.next he, State.lateOwed_timedOut hd ht⟩
  case tile =>
    intro seq q hq
    refine ⟨_, congrArg Host.Outcome.next (State.crossTimeout_tile hrun hq), State.lateOwed_timedOut hd rfl, ?_⟩
    rw [State.lateOwed_core]
    exact s.not_mem_tileTimeout c q
  case stream =>
    intro seq q hq
    exact ⟨_, congrArg Host.Outcome.next (State.crossTimeout_stream hrun hq),
      State.lateOwed_timedOut hd (State.apart_of_dies (s.streamDone_dies c seq))⟩
  case fence =>
    intro n f hf
    have hfence := State.crossTimeout_fence hrun hf
    refine ⟨State.fenceCrosses_of_posted, fun va hva => ?_, fun hnone => ?_⟩
    · exact ⟨_, congrArg Host.Outcome.next (hfence.trans (by rw [hva]; rfl)), State.lateOwed_timedOut hd rfl⟩
    · exact congrArg Host.Outcome.next (hfence.trans (by rw [hnone]; rfl))
  case node =>
    intro s r n o elem l hn hrun hd ho hl hend
    refine ⟨_, congrArg Host.Outcome.next (State.crossTimeout_node hn hrun ho), ?_, ?_⟩
    · exact State.lateOwed_timedOut hd rfl
    · exact State.nodeFault_launch hl hend _ _ _ _
  case engine =>
    intro s d g r hrun hr hoff
    refine ⟨s.lateOwed d, congrArg Host.Outcome.next (State.crossTimeout_engine hrun hr hoff), ?_⟩
    exact s.lateOwed_frame d
  case remote =>
    intro s lid num i hno hkind hdst hup hbeats hrun
    exact congrArg Host.Outcome.next (State.crossTimeout_remote hno hkind hdst hup hbeats hrun)
  case parity =>
    intro s d pa lane wr hd hpa hbank ch hon
    obtain ⟨n, oc, ln, sp, hnoted, hoff⟩ := State.parity_noted hd hpa hbank hon wr lane
    refine ⟨_, n, oc, ln, sp, rfl, hnoted.entry, hnoted.tries.1, hnoted.tries.2, hnoted.outcome, hnoted.retried, hnoted.repaired, fun h => ?_⟩
    obtain ⟨hn, hspent, hchan⟩ := hnoted.exhausted h
    exact ⟨hn, hspent, hchan, hoff h⟩
  case lost =>
    intro s d hd
    have hkeeps {β : Type} (g : State → β) (hend : ∀ (s : State) (lid : Nat) (e : EndRec), g (s.endWith lid e) = g s)
        (hhalt : ∀ (s : State) (lid : Nat), g (s.haltLaunch lid) = g s) : g (s.fatal d) = g (s.takenOffline d) :=
      State.loseAll_keeps g hend hhalt _ _ _
    have houtbox := hkeeps State.outbox (fun _ _ _ => rfl) (fun _ _ => rfl)
    have hdump := hkeeps State.dump (fun _ _ _ => rfl) (fun _ _ => rfl)
    have hfatals := hkeeps State.fatals (fun _ _ _ => rfl) (fun _ _ => rfl)
    have hmem := hkeeps State.mem (fun _ _ _ => rfl) (fun _ _ => rfl)
    obtain ⟨hfirst, hheld⟩ := s.takenOffline_dump d
    refine ⟨s.fatal d, rfl, ?_, fun k hk => ?_, houtbox.trans (s.takenOffline_frame d).2.2, ?_, ?_, fun lid l hl huse hend => ?_, fun lid l hl huse => ?_⟩
    · rw [s.fatal_die hd, if_pos rfl]
    · rw [s.fatal_die hd, if_neg hk]
    · rw [hdump, hfatals]
      exact hfirst
    · rw [hdump, hfatals, hmem]
      exact hheld
    · rw [State.fatal_launch hl, if_pos ⟨huse, hend⟩]
      rfl
    · rw [State.fatal_launch hl, if_neg (by simp [huse])]

end Sys2Proof.Machine
end

section
/-! SUPPORT. A store that reaches its bank, and the obligation on it (R43, R193, R243, R337). -/
namespace Sys2Proof.Machine

/-! ### A state that meets the obligation's hypotheses and not its conclusion -/

/-- A store of one zero byte to the first byte of bulk store 0. -/
def zeroStore : Posted :=
  { seq := 5, far := false, lsid := 1, va := 0x40, kind := .store [(⟨0x40, 0x4000000040, 0, 0⟩, 1)] [0] 0 }

/-- Memory whose addresses do not rise: the byte that the store is to write stands behind a higher one. -/
def unsortedMemory : State :=
  { State.reset with mem := [(0x4000000041, 1), (0x4000000040, 7)], cores := [(⟨1, 0, 0, 0⟩, { PageCore.reset with posted := [zeroStore] })] }

/-- A write of the default stops at the first higher address and so leaves the byte that stands behind it. -/
theorem unsortedMemory_keeps_byte :
    (unsortedMemory.corePosted ⟨1, 0, 0, 0⟩ 5).physByte 0x4000000040 = 7 := by decide +kernel

/-- Refutes O44: it does not ask that memory has its canonical form (`Memory.wf`, log 4). Where the addresses of the table do not rise, a store of a
zero byte can leave the byte as it was. -/
theorem not_storesReachMemory : ¬ Obligations.StoresReachMemory := by
  unfold Obligations.StoresReachMemory
  intro h
  obtain ⟨t, ht, hbyte, -⟩ := h unsortedMemory ⟨1, 0, 0, 0⟩ 5 zeroStore ⟨0x40, 0x4000000040, 0, 0⟩ [0] 0
    (by decide +kernel) rfl (by decide +kernel) rfl (by decide +kernel) rfl ⟨0, by decide +kernel⟩ (by decide +kernel)
  have hstate : unsortedMemory.corePosted ⟨1, 0, 0, 0⟩ 5 = t := Host.Outcome.next.inj ht
  have hzero := hbyte 0x4000000040
  rw [← hstate, unsortedMemory_keeps_byte] at hzero
  exact absurd hzero (by decide)

end Sys2Proof.Machine
end

section
/-! SUPPORT. The Volop ports: training, flits, their layout, NAK and retraining (R28 to R31, R34). -/
namespace Sys2Proof.Machine

/-! ### Ports -/

theorem State.updPort_port (s : State) {n : Nat} (hn : n < 18) (f : VPort → VPort) (k : Nat) :
    (s.updPort n f).port k = if k = n then f (s.port k) else s.port k := by
  by_cases hk : k < 18
  · by_cases h : k = n
    · subst h; simp [State.port, State.updPort, hk]
    · simp [State.port, State.updPort, hn, hk, h, Ne.symm h]
  · have h : k ≠ n := by omega
    simp [State.port, hk, h]

theorem State.updPort_port_same (s : State) {n : Nat} (hn : n < 18) (f : VPort → VPort) : (s.updPort n f).port n = f (s.port n) := by
  rw [s.updPort_port hn, if_pos rfl]

/-- A second update of a port follows the first. -/
theorem State.updPort_updPort (s : State) (n : Nat) (f g : VPort → VPort) : (s.updPort n f).updPort n g = s.updPort n (fun p => g (f p)) := by
  unfold State.updPort
  split <;> simp

/-- A port beyond the 18 reads as one that is down. -/
theorem State.port_lt_of_up {s : State} {n : Nat} (h : (s.port n).up) : n < 18 := by
  by_contra hn
  simp [State.port, hn] at h

/-! ### Training (R34) -/

theorem versionOf_of_meet {lo hi lo' hi' : Nat} (h : max lo lo' ≤ min hi hi') : versionOf lo hi lo' hi' = some (min hi hi') := if_pos h

theorem versionOf_of_apart {lo hi lo' hi' : Nat} (h : min hi hi' < max lo lo') : versionOf lo hi lo' hi' = none := if_neg (by omega)

theorem versionOf_getD (lo hi lo' hi' : Nat) :
    (versionOf lo hi lo' hi').getD 0 = if max lo lo' ≤ min hi hi' then min hi hi' else 0 := by
  unfold versionOf
  split <;> rfl

section
variable {s : State} {port : Nat} (hlive : s.live) (hport : port < 18) (hup : (s.port port).up = false) (hdis : (s.port port).disabled = false)
include hlive hport hup hdis

theorem State.train_of_common {lmin lmax : Nat} (h : max lmin 1 ≤ min lmax 2) (node hmin hmax : Nat) :
    s.train port node lmin lmax hmin hmax = s.updPort port (fun p => { p with
      node := node, up := true, mismatch := false, linkVer := min lmax 2, hostVer := if max hmin 1 ≤ min hmax 3 then min hmax 3 else 0 }) := by
  simp [State.train, hlive, hport, hup, hdis, versionOf_getD, versionOf_of_meet h]

theorem State.train_of_mismatch {lmin lmax : Nat} (h : min lmax 2 < max lmin 1) (node hmin hmax : Nat) :
    s.train port node lmin lmax hmin hmax = { s.updPort port (fun p => { p with node := node, mismatch := true }) with
      outbox := s.outbox ++ [.report 4 port 0 0] } := by
  simp [State.train, hlive, hport, hup, hdis, versionOf_of_apart h, State.send]

end

/-! ### Bytes of a flit (R28) -/

theorem leBytes_length : ∀ n v : Nat, (leBytes n v).length = n
  | 0, _ => rfl
  | n + 1, v => congrArg (· + 1) (leBytes_length n (v / 256))

theorem leNat_leBytes : ∀ n v : Nat, leNat (leBytes n v) = v % 256 ^ n
  | 0, v => by simp [leBytes, leNat, Nat.mod_one]
  | n + 1, v => by
    rw [leBytes, leNat, leNat_leBytes n, pow_succ', Nat.mod_mul]
    simp

/-- The number that the first 12 bytes of a flit hold. -/
def headNat (h : FlitHead) : Nat :=
  h.src % 2 ^ 16 * 2 ^ 56 + h.dst % 2 ^ 16 * 2 ^ 40 + h.len % 2 ^ 8 * 2 ^ 32 + (if h.nak then 2 ^ 31 else 0)
    + h.ack % 2 ^ 12 * 2 ^ 19 + h.seq % 2 ^ 12 * 2 ^ 7 + h.vc % 8 * 2 ^ 4 + h.type % 16

/-- What stands before the CRC of a flit: 12 bytes of header and 240 of payload. -/
def flitBody (h : FlitHead) (payload : List Byte) : List Byte :=
  leBytes 12 (headNat h) ++ (payload ++ List.replicate 240 0).take 240

theorem mkFlit_eq (h : FlitHead) (payload : List Byte) : mkFlit h payload = flitBody h payload ++ leBytes 4 (crc32 (flitBody h payload)) := rfl

theorem flitBody_length (h : FlitHead) (payload : List Byte) : (flitBody h payload).length = 252 := by
  simp only [flitBody, List.length_append, leBytes_length, List.length_take, List.length_replicate]
  omega

theorem mkFlit_take_head (h : FlitHead) (payload : List Byte) : (mkFlit h payload).take 12 = leBytes 12 (headNat h) := by
  rw [mkFlit_eq, flitBody, List.append_assoc, List.take_left' (leBytes_length _ _)]

theorem mkFlit_payload (h : FlitHead) {payload : List Byte} (hlen : payload.length ≤ 240) :
    ((mkFlit h payload).drop 12).take payload.length = payload := by
  rw [mkFlit_eq, flitBody, List.append_assoc, List.drop_left' (leBytes_length _ _),
    List.take_append_of_le_length (by rw [List.length_take, List.length_append, List.length_replicate]; omega), List.take_take,
    Nat.min_eq_left hlen, List.take_left]

/-- The header of a flit that is laid out reads back, each field within its width. -/
theorem flitHead_mkFlit {h : FlitHead} (payload : List Byte) (hsrc : h.src < 2 ^ 16) (hdst : h.dst < 2 ^ 16) (hlen : h.len < 2 ^ 8)
    (hack : h.ack < 2 ^ 12) (hseq : h.seq < 2 ^ 12) (hvc : h.vc < 8) (htype : h.type < 16) (hres : h.reserved = 0) :
    flitHead (mkFlit h payload) = h := by
  obtain ⟨src, dst, len, nak, ack, seq, vc, type, reserved⟩ := h
  dsimp only at hsrc hdst hlen hack hseq hvc htype hres
  unfold flitHead
  rw [mkFlit_take_head, leNat_leBytes]
  unfold headNat
  cases nak <;> simp only [FlitHead.mk.injEq, beq_iff_eq, beq_eq_false_iff_ne, if_true, if_false, Bool.false_eq_true] <;> omega

theorem crc32_lt (bs : List Byte) : crc32 bs < 256 ^ 4 := BitVec.isLt _

theorem flitWhole_mkFlit {h : FlitHead} (payload : List Byte) (hhead : flitHead (mkFlit h payload) = h) (hlen : h.len ≤ 240) (hres : h.reserved = 0) :
    flitWhole (mkFlit h payload) := by
  have hlength : (mkFlit h payload).length = 256 := by simp [mkFlit_eq, flitBody_length, leBytes_length]
  have hcrc : leNat ((mkFlit h payload).drop 252) = crc32 ((mkFlit h payload).take 252) := by
    rw [mkFlit_eq, List.drop_left' (flitBody_length _ _), List.take_left' (flitBody_length _ _), leNat_leBytes, Nat.mod_eq_of_lt (crc32_lt _)]
  simp [flitWhole, hlength, hcrc, hhead, hlen, hres]

/-- The header of a flit that a port sends. -/
def State.headFrom (s : State) (port dst vc type : Nat) (nak : Bool) (payload : List Byte) : FlitHead :=
  { src := (s.port port).node, dst := dst, len := payload.length, nak := nak, ack := ((s.port port).recvSeq + 4095) % 4096,
    seq := (s.port port).sendSeq, vc := vc, type := type, reserved := 0 }

/-- R30: a flit takes the next SEQ of its port and a place among the last 512 of the replay buffer. -/
theorem State.putFlit_eq (s : State) (port dst vc type : Nat) (nak : Bool) (payload : List Byte) :
    (let f := mkFlit (s.headFrom port dst vc type nak payload) payload
     s.putFlit port dst vc type nak payload = { s.updPort port (fun p => { p with
          sendSeq := (p.sendSeq + 1) % 2 ^ 12, replay := (p.replay ++ [(p.sendSeq, f)]).drop (p.replay.length + 1 - 512) }) with
        outbox := s.outbox ++ [.flit port f] }) := by
  unfold State.putFlit State.send State.updPort State.headFrom
  by_cases hp : port < 18
  · simp [hp, State.port]
  · simp [hp]

/-! ### Flits that arrive (R29, R30) -/

section
variable {s : State} {port : Nat} {f : List Byte}

/-- A flit that is not whole, or whose SEQ is not due, is discarded; NAK names the last good one, unless it is merely out of order while others are
being discarded. -/
theorem State.receive_of_bad (hup : (s.port port).up) (hrun : (s.die (portDie port)).stopped = false)
    (hbad : flitWhole f = false ∨ (flitHead f).seq ≠ (s.port port).recvSeq) :
    s.receive port f = if (s.port port).discarding && flitWhole f then s
      else (s.updPort port (fun p => { p with discarding := true })).putFlit port (flitHead f).src 0 0 true [] := by
  have hguard : (!flitWhole f || (flitHead f).seq != (s.port port).recvSeq) = true := by simpa using hbad
  simp only [State.receive, hup, hrun, hguard, Bool.not_true, Bool.or_self, Bool.false_eq_true, if_true, if_false]
  rfl

/-- The state in which a flit that is due is delivered: it has been taken, and credits have come back. -/
def State.metFlit (s : State) (port : Nat) : State :=
  ((s.updPort port (fun p => { p with recvSeq := (p.recvSeq + 1) % 2 ^ 12, discarding := false })).credits port).remoteCredits port

theorem State.receive_of_good (hup : (s.port port).up) (hrun : (s.die (portDie port)).stopped = false) (hwhole : flitWhole f)
    (hseq : (flitHead f).seq = (s.port port).recvSeq) (hnak : (flitHead f).nak = false) :
    s.receive port f = (s.metFlit port).deliverFlit port f := by
  simp [State.receive, hup, hrun, hwhole, hseq, hnak, State.metFlit]

theorem State.deliverFlit_of_reserved (h : 5 ≤ (flitHead f).vc) :
    s.deliverFlit port f = s.updPort port (fun p => { p with discards := p.discards + 1 }) := if_pos h

theorem State.deliverFlit_of_pipe (hvc : (flitHead f).vc = 3) (htype : (flitHead f).type ≠ 2) :
    s.deliverFlit port f = s.pipeIn (flitHead f).src (Config.pipeMsg ((f.drop 12).take (flitHead f).len)) := by
  simp [State.deliverFlit, hvc, htype]

theorem State.deliverFlit_of_message (hvc : (flitHead f).vc < 5) (hvc3 : (flitHead f).vc ≠ 3) (htype : (flitHead f).type = 1) {i : Instr}
    (hi : msgEvent (flitCode f) (flitMsg port f) = some i) : s.deliverFlit port f = { s with agenda := .event i :: s.agenda } := by
  simp [State.deliverFlit, hvc, hvc3, htype, hi]

theorem State.deliverFlit_of_no_message (hvc : (flitHead f).vc < 5) (hvc3 : (flitHead f).vc ≠ 3) (htype : (flitHead f).type = 1)
    (hi : msgEvent (flitCode f) (flitMsg port f) = none) :
    s.deliverFlit port f = s.result (flitMsg port f) (if (s.port port).hostVer = 0 then 7 else 6) 0 0 := by
  simp [State.deliverFlit, hvc, hvc3, htype, hi]

theorem State.deliverFlit_of_remote (hvc : (flitHead f).vc = 3) (htype : (flitHead f).type = 2) :
    s.deliverFlit port f = s.remoteIn (flitHead f).src ((f.drop 12).take (flitHead f).len) := by
  simp [State.deliverFlit, hvc, htype]

theorem State.deliverFlit_of_request (hvc : (flitHead f).vc = 2) (htype : (flitHead f).type = 3) :
    s.deliverFlit port f = s.memRequest port (flitHead f).src (Config.memReq ((f.drop 12).take (flitHead f).len)) := by
  simp [State.deliverFlit, hvc, htype]

theorem State.deliverFlit_of_ack (hvc : (flitHead f).vc = 2) (htype : (flitHead f).type = 4) : s.deliverFlit port f = s.acked (flitHead f).src := by
  simp [State.deliverFlit, hvc, htype]

end

/-! ### Sending again (R30) -/

theorem findIdx?_fst_eq {α : Type} {before after : List (Nat × α)} {q : Nat} {e : α} (h : ∀ x ∈ before, x.1 ≠ q) :
    (before ++ (q, e) :: after).findIdx? (fun x => x.1 == q) = some before.length := by
  rw [List.findIdx?_eq_some_iff_getElem]
  refine ⟨by simp, by simp, fun j hj => ?_⟩
  rw [List.getElem_append_left hj]
  simpa using h _ (List.getElem_mem hj)

/-- What follows a SEQ in the replay buffer is sent again. -/
theorem State.resend_of_after {s : State} {port q n : Nat} {before after : List (Nat × List Byte)} {e f : List Byte}
    (hreplay : (s.port port).replay = before ++ (q, e) :: (n, f) :: after) (hfirst : ∀ x ∈ before, x.1 ≠ q) :
    s.resend port q = { s.updPort port (fun p => { p with again := if p.againSeq = n then p.again + 1 else 1, againSeq := n }) with
      outbox := s.outbox ++ ((n, f) :: after).map (fun x => .flit port x.2) } := by
  have hafter : (before ++ (q, e) :: (n, f) :: after).drop (before.length + 1) = (n, f) :: after := by
    simp [List.drop_append]
  unfold State.resend
  simp only [hreplay, findIdx?_fst_eq hfirst, hafter]
  rw [State.foldl_send (fun x : Nat × List Byte => Sent.flit port x.2), State.updPort_outbox]

/-- A port whose resending has been counted anew counts at most the one that it makes now. -/
theorem State.resend_again {s : State} {port q : Nat} (hp : port < 18) (h : (s.port port).again = 0) :
    ((s.resend port q).port port).up = (s.port port).up ∧ ((s.resend port q).port port).retrains = (s.port port).retrains
      ∧ ((s.resend port q).port port).again ≤ 1 := by
  unfold State.resend
  dsimp only
  split
  · exact ⟨rfl, rfl, by omega⟩
  · rw [State.foldl_send (fun x : Nat × List Byte => Sent.flit port x.2)]
    change (State.port (State.updPort _ _ _) _).up = _ ∧ (State.port (State.updPort _ _ _) _).retrains = _ ∧ (State.port (State.updPort _ _ _) _).again ≤ 1
    rw [State.updPort_port_same _ hp]
    refine ⟨rfl, rfl, ?_⟩
    dsimp only
    split <;> omega

end Sys2Proof.Machine
end

section
/-! SUPPORT. RoCE v2 on the Ethernet ports, and the obligation on ports and packets (R32, R33, R49). -/
namespace Sys2Proof.Machine

/-! ### Ethernet ports (R32) -/

theorem State.roceAnswer_of_paused {s : State} {k : RocePacket} (h : frameClass k ∈ (s.ethPort k.port).paused) (kind : Nat) (bs : List Byte) :
    s.roceAnswer k kind bs = s.updEth k.port (fun e => { e with waiting := e.waiting ++ [(frameClass k, .roceReply k.port k.qp kind bs)] }) :=
  if_pos (List.contains_iff_mem.2 h)

theorem State.roceAnswer_of_open {s : State} {k : RocePacket} (h : frameClass k ∉ (s.ethPort k.port).paused) (kind : Nat) (bs : List Byte) :
    s.roceAnswer k kind bs = { s with outbox := s.outbox ++ [.roceReply k.port k.qp kind bs] } :=
  if_neg (by simpa using h)

/-- The priorities for which an Ethernet port keeps flow control. -/
def pfcKept (port prio : Nat) : Prop := prio = Config.pfcPriority port 0 ∨ prio = Config.pfcPriority port 1

section
variable {port prio : Nat}

theorem State.pause_of_not_kept (s : State) (h : ¬ pfcKept port prio) (on : Bool) : s.pause port prio on = s := by
  obtain ⟨h0, h1⟩ := not_or.1 h
  exact if_pos ⟨h0, h1⟩

theorem State.pause_holds (s : State) (h : pfcKept port prio) :
    s.pause port prio true = s.updEth port (fun e => { e with paused := prio :: e.paused.filter (fun q => q ≠ prio) }) := by
  have hn : ¬ (prio ≠ Config.pfcPriority port 0 ∧ prio ≠ Config.pfcPriority port 1) := by unfold pfcKept at h; tauto
  rw [State.pause, if_neg hn, if_pos rfl]
  simp only [bne, beq_eq_decide, ne_eq, decide_not]

/-- A priority that flow control lets go sends what waits for it, in order. -/
theorem State.pause_lets_go (s : State) (h : pfcKept port prio) :
    s.pause port prio false = { s.updEth port (fun e => { e with
        paused := e.paused.filter (fun q => q ≠ prio), waiting := e.waiting.filter (fun w => w.1 ≠ prio) }) with
      outbox := s.outbox ++ ((s.ethPort port).waiting.filter (fun w => w.1 = prio)).map (fun w => w.2) } := by
  have hn : ¬ (prio ≠ Config.pfcPriority port 0 ∧ prio ≠ Config.pfcPriority port 1) := by unfold pfcKept at h; tauto
  rw [State.pause, if_neg hn, if_neg Bool.false_ne_true]
  simp only [State.foldl_send (fun w : Nat × Sent => w.2), State.updEth_outbox, bne, beq_eq_decide, ne_eq, decide_not]

end

/-! ### Data in packets of the path MTU (R33) -/

theorem mtuCut_flatten (mtu : Nat) : ∀ (fuel : Nat) (bs : List Byte), (mtuCut mtu fuel bs).flatten = bs
  | 0, bs => by simp [mtuCut]
  | fuel + 1, bs => by
    unfold mtuCut
    split
    · simp
    · rw [List.flatten_cons, mtuCut_flatten mtu fuel, List.take_append_drop]

theorem mtuCut_length_le {mtu : Nat} : ∀ (fuel : Nat) (bs : List Byte), bs.length ≤ mtu * (fuel + 1) → ∀ p ∈ mtuCut mtu fuel bs, p.length ≤ mtu
  | 0, bs, h, p, hp => by
    obtain rfl : p = bs := by simpa [mtuCut] using hp
    simpa using h
  | fuel + 1, bs, h, p, hp => by
    unfold mtuCut at hp
    split at hp
    · next hshort =>
      obtain rfl : p = bs := by simpa using hp
      exact hshort
    · rcases List.mem_cons.1 hp with rfl | hp
      · exact List.length_take_le _ _
      · refine mtuCut_length_le fuel (bs.drop mtu) ?_ p hp
        rw [List.length_drop, Nat.sub_le_iff_le_add]
        exact h.trans_eq (Nat.mul_succ _ _)

/-! ### Packets (R33) -/

@[simp] theorem State.roceAnswer_qpairs (s : State) (k : RocePacket) (kind : Nat) (bs : List Byte) : (s.roceAnswer k kind bs).qpairs = s.qpairs := by
  unfold State.roceAnswer State.sendEth
  split <;> simp

@[simp] theorem State.roceAnswer_qpair (s : State) (k : RocePacket) (kind : Nat) (bs : List Byte) (n : Nat) :
    (s.roceAnswer k kind bs).qpair n = s.qpair n := by
  simp [State.qpair]

theorem State.qpair_qp (s : State) (n : Nat) : (s.qpair n).qp = n := by
  unfold State.qpair
  cases h : s.qpairs.find? (fun q => q.qp == n) with
  | none => rfl
  | some q => simpa using List.find?_some h

theorem State.setQpair_qpair_same (s : State) (q : QPair) : (s.setQpair q).qpair q.qp = q := by
  simp [State.setQpair, State.qpair]

/-- The state in which a packet is performed: a CE mark has been answered (R33). -/
def State.marked (s : State) (k : RocePacket) : State := if k.ce then s.roceAnswer k 4 [] else s

theorem State.marked_qpair (s : State) (k : RocePacket) (n : Nat) : (s.marked k).qpair n = s.qpair n := by
  unfold State.marked
  split <;> simp

section
variable {s : State} {k : RocePacket}

theorem State.rocePerform_of_unlisted (h : k.op = 5 ∨ 6 < k.op ∨ (s.qpair k.qp).mtu < k.data.length) : s.rocePerform k = s.roceAnswer k 2 [] := by
  have hbad : (!roceListed k.op || decide ((s.qpair k.qp).mtu < k.data.length)) = true := by
    rcases h with h | h | h
    · simp [roceListed, h]
    · have h4 : ¬ k.op ≤ 4 := by omega
      have h6 : k.op ≠ 6 := by omega
      simp [roceListed, h4, h6]
    · simp [h]
  exact if_pos hbad

section
variable (hfits : k.data.length ≤ (s.qpair k.qp).mtu)
include hfits

theorem State.rocePerform_of_send (h : k.op < 2) : s.rocePerform k =
    ({ s with roceRecv := s.roceRecv ++ [(k.qp, if k.op = 1 ∨ k.op = 3 then some k.imm else none, k.data)] } : State).roceAnswer k 0 [] := by
  have h4 : k.op ≤ 4 := by omega
  have hne : k.op ≠ 4 ∧ k.op ≠ 6 := by omega
  simp [State.rocePerform, roceListed, hfits, h, h4, hne.1, hne.2]

theorem State.rocePerform_of_notification (h : k.op = 6) :
    s.rocePerform k = s.setQpair { s.qpair k.qp with rate := (s.qpair k.qp).rate / 2 } := by
  simp [State.rocePerform, roceListed, hfits, h]

theorem State.rocePerform_of_bound (h : k.op = 4) (hb : (s.qpair k.qp).boundTo.isSome) : s.rocePerform k = s.roceAnswer k 3 [] := by
  simp [State.rocePerform, roceListed, hfits, h, hb]

theorem State.rocePerform_of_outside (h : k.op = 2 ∨ k.op = 3 ∨ k.op = 4) (hspan : s.keySpan k (k.op ≠ 4) = none) :
    s.rocePerform k = s.roceAnswer k 3 [] := by
  rcases h with h | h | h <;> simp [h] at hspan <;> simp [State.rocePerform, roceListed, Nat.not_lt.2 hfits, h, hspan]

theorem State.rocePerform_of_read {sp : Span} (h : k.op = 4) (hb : (s.qpair k.qp).boundTo = none) (hspan : s.keySpan k false = some sp) :
    s.rocePerform k = if s.eccBad (spanPas sp) then (s.eccMeet (spanPas sp)).roceAnswer k 3 []
      else (mtuCut (s.qpair k.qp).mtu (k.len / (s.qpair k.qp).mtu + 1) (readSpan s sp)).foldl (fun s bs => s.roceAnswer k 1 bs)
        (s.eccMeet (spanPas sp)) := by
  simp [State.rocePerform, roceListed, hfits, h, hb, hspan]

theorem State.rocePerform_of_refused_write {sp : Span} (h : k.op = 2 ∨ k.op = 3) (hspan : s.keySpan k true = some sp)
    (hstore : s.outerStore sp (k.data.take k.len) = none) : s.rocePerform k = (s.eccMeet (spanPas sp)).roceAnswer k 3 [] := by
  rcases h with h | h <;> simp [State.rocePerform, roceListed, hfits, h, hspan, hstore]

theorem State.rocePerform_of_write {sp : Span} {t : State} (h : k.op = 2 ∨ k.op = 3) (hspan : s.keySpan k true = some sp)
    (hstore : s.outerStore sp (k.data.take k.len) = some t) : s.rocePerform k =
      ({ t with roceRecv := t.roceRecv ++ if k.op = 3 then [(k.qp, some k.imm, [])] else [] } : State).roceAnswer k 0 [] := by
  rcases h with h | h <;> simp [State.rocePerform, roceListed, hfits, h, hspan, hstore]

end

theorem State.roce_of_long (h : 9216 < k.frame) : s.roce k = s := by
  simp [State.roce, h]

section
variable (hlive : s.live) (hport : k.port < 8) (hrun : (s.die (ethDie k.port)).stopped = false)
include hlive hport hrun

theorem State.roce_of_frame (h : k.frame ≤ 9216) :
    (∀ prio on, k.pfc = some (prio, on) → s.roce k = s.pause k.port prio on)
    ∧ (k.pfc = none → k.icrcOk = false → s.roce k = s)
    ∧ (k.pfc = none → k.icrcOk → k.rc = false ∨ 8192 ≤ k.qp → s.roce k = { s with roceDrops := s.roceDrops + 1 })
    ∧ (k.pfc = none → k.icrcOk → k.rc → k.qp < 8192 → s.roce k = (s.marked k).rocePerform k) := by
  have h8 : ¬ 8 ≤ k.port := by omega
  have hf : ¬ 9216 < k.frame := by omega
  refine ⟨fun prio on hp => ?_, fun hp hi => ?_, fun hp hi hd => ?_, fun hp hi hr hq => ?_⟩
  · simp [State.roce, hlive, hrun, h8, hf, hp]
  · simp [State.roce, hp, hi]
  · have hdrop : (!k.rc || decide (qpairCount ≤ k.qp)) = true := by rcases hd with hd | hd <;> simp [hd, qpairCount]
    simp only [State.roce, hlive, hrun, h8, hf, hp, hi, hdrop]
    rfl
  · simp [State.roce, hlive, hrun, h8, hf, hp, hi, hr, Nat.not_le.2 hq, qpairCount, State.marked]

end
end

/-! ### The obligation -/

/-- Settles O46, event by event: training, flits that come and go, NAK and retraining on the Volop ports, frames and packets on the Ethernet ports.
The model's choice are a flit of a type on another channel (log 65), when credits come back (log 89), what NAKs a malformed request (log 90), how packages
of a pipeline are told (log 95), and R49 for reads (log 59). -/
theorem portsAndPackets : Obligations.PortsAndPackets := by
  refine ⟨?training, ?receive, ?send, ?nak, ?retrain, ?roce, ?answer, ?pause, ?cut⟩
  case training =>
    intro s port node lmin lmax hmin hmax hlive hport hup hdis
    refine ⟨fun v hlo hv => ?_, fun hapart => ?_⟩
    · subst hv
      exact congrArg Host.Outcome.next (State.train_of_common hlive hport hup hdis hlo node hmin hmax)
    · exact congrArg Host.Outcome.next (State.train_of_mismatch hlive hport hup hdis hapart node hmin hmax)
  case receive =>
    intro s port f hup hrun
    have hbad := State.receive_of_bad (f := f) hup hrun
    refine ⟨fun hb hdisc hwhole => ?_, fun hb hcause => ?_, fun hgood hnak => ?_⟩
    · refine congrArg Host.Outcome.next ((hbad hb).trans (if_pos ?_))
      simp [hdisc, hwhole]
    · refine congrArg Host.Outcome.next ((hbad hb).trans (if_neg ?_))
      rcases hcause with h | h <;> simp [h]
    · obtain ⟨hwhole, hseq⟩ := not_or.1 hgood
      have hmet : exec (.flitReceive port f) s = .next ((s.metFlit port).deliverFlit port f) :=
        congrArg Host.Outcome.next (State.receive_of_good hup hrun (by simpa using hwhole) (not_not.1 hseq) hnak)
      refine ⟨fun hvc => ?_, fun hvc hvc3 htype => ⟨fun i hi => ?_, fun hi => ?_⟩, fun hvc htype => ?_, fun hvc htype => ?_, fun hvc htype => ?_,
        fun hvc htype => ?_⟩ <;> refine hmet.trans (congrArg Host.Outcome.next ?_)
      · exact State.deliverFlit_of_reserved hvc
      · exact State.deliverFlit_of_message hvc hvc3 htype hi
      · exact State.deliverFlit_of_no_message hvc hvc3 htype hi
      · exact State.deliverFlit_of_remote hvc htype
      · exact State.deliverFlit_of_pipe hvc htype
      · exact State.deliverFlit_of_request hvc htype
      · exact State.deliverFlit_of_ack hvc htype
  case send =>
    intro s port dst vc type nak payload hport hlen hdst hvc htype hnode hseq
    have hack : ((s.port port).recvSeq + 4095) % 4096 < 2 ^ 12 := Nat.mod_lt _ (by decide)
    have hhead : flitHead (mkFlit (s.headFrom port dst vc type nak payload) payload) = s.headFrom port dst vc type nak payload :=
      flitHead_mkFlit payload hnode hdst (show payload.length < 2 ^ 8 by omega) hack hseq hvc htype rfl
    exact ⟨_, s.putFlit_eq port dst vc type nak payload, flitWhole_mkFlit payload hhead hlen rfl, mkFlit_payload _ hlen, hhead⟩
  case nak =>
    intro s port before after q n e f hport hup hagain hreplay hfirst
    refine congrArg Host.Outcome.next (Eq.trans ?_ (State.resend_of_after hreplay hfirst))
    exact if_pos ⟨hup, hagain⟩
  case retrain =>
    intro s port hagain hdis
    have hdue : ¬ ((s.port port).again < 16 ∨ (s.port port).disabled) := by simp [hdis, hagain]
    refine ⟨⟨_, rfl, fun hport => ?_⟩, fun hr => ?_, fun hr => ?_⟩
    · rw [State.retrain, if_neg hdue, if_pos rfl]
      have hcounted := State.updPort_port_same s hport (fun p => { p with again := 0, retrains := 0 })
      obtain ⟨hup, hretrains, hone⟩ := State.resend_again (q := ((s.port port).againSeq + 2 ^ 12 - 1) % 2 ^ 12) hport (congrArg VPort.again hcounted :)
      exact ⟨hup.trans (congrArg VPort.up hcounted :), hretrains.trans (congrArg VPort.retrains hcounted :), hone⟩
    · refine congrArg Host.Outcome.next ?_
      rw [State.retrain, if_neg hdue, if_neg Bool.false_ne_true, if_pos (by omega)]
    · refine congrArg Host.Outcome.next ?_
      rw [State.retrain, if_neg hdue, if_neg Bool.false_ne_true, if_neg (by omega)]
      simp [State.send]
  case roce =>
    intro s k hlive hport hrun
    refine ⟨fun hlong => congrArg Host.Outcome.next (State.roce_of_long hlong), fun hframe => ?_⟩
    obtain ⟨hpause, hicrc, hdrop, hperform⟩ := State.roce_of_frame hlive hport hrun hframe
    refine ⟨fun prio on hp => congrArg Host.Outcome.next (hpause prio on hp), fun hp hi => congrArg Host.Outcome.next (hicrc hp hi),
      fun hp hi hd => congrArg Host.Outcome.next (hdrop hp hi hd), fun hp hi hr hq => ?_⟩
    have hdone {u : State} (h : (s.marked k).rocePerform k = u) : exec (.rocePacket k) s = .next u :=
      congrArg Host.Outcome.next ((hperform hp hi hr hq).trans h)
    have hpair : (s.marked k).qpair k.qp = s.qpair k.qp := s.marked_qpair k k.qp
    refine ⟨fun hbad => hdone (State.rocePerform_of_unlisted (by rwa [hpair])), fun hfits => ?_⟩
    rw [← hpair] at hfits ⊢
    refine ⟨fun h => hdone (State.rocePerform_of_send hfits h), fun h => ⟨_, hdone (State.rocePerform_of_notification hfits h), ?_, rfl⟩,
      fun h hb => hdone (State.rocePerform_of_bound hfits h hb), fun h hspan => hdone (State.rocePerform_of_outside hfits h hspan),
      fun sp h hb hspan => ⟨fun hecc => hdone ?_, fun hecc => hdone ?_⟩, fun sp h hspan => ⟨fun hstore => hdone ?_, fun t hstore => hdone ?_⟩⟩
    · have hqp := (s.marked k).qpair_qp k.qp
      have hset := (s.marked k).setQpair_qpair_same { (s.marked k).qpair k.qp with rate := ((s.marked k).qpair k.qp).rate / 2 }
      rw [hqp] at hset
      exact congrArg QPair.rate hset
    · exact (State.rocePerform_of_read hfits h hb hspan).trans (if_pos hecc)
    · exact (State.rocePerform_of_read hfits h hb hspan).trans (if_neg (Bool.eq_false_iff.1 hecc))
    · exact State.rocePerform_of_refused_write hfits h hspan hstore
    · rw [State.rocePerform_of_write hfits h hspan hstore]
      by_cases h3 : k.op = 3 <;> simp [h3]
  case answer =>
    intro s k kind bs _
    exact ⟨fun h => State.roceAnswer_of_paused h kind bs, fun h => State.roceAnswer_of_open h kind bs⟩
  case pause =>
    intro s port prio _
    exact ⟨fun h on => s.pause_of_not_kept h on, fun h => ⟨s.pause_holds h, s.pause_lets_go h⟩⟩
  case cut =>
    intro mtu bs hmtu
    refine ⟨mtuCut_flatten _ _ _, mtuCut_length_le _ _ ?_⟩
    have hlt := Nat.lt_mul_div_succ bs.length hmtu
    exact hlt.le.trans (Nat.mul_le_mul_left _ (Nat.le_succ _))

end Sys2Proof.Machine
end

section
/-! SUPPORT. What a package sends over its Volop ports depends on its ports, on what it has sent and on the counter of free values alone, and changes
nothing else (R28 to R31, R35). -/
namespace Sys2Proof.Machine

/-! ### The state of the links, apart from the rest -/

/-- A state with what its links hold replaced by that of another: what has been sent, the ports, and the counter of free values. -/
def State.wired (w s : State) : State := { w with outbox := s.outbox, ports := s.ports, fresh := s.fresh }

theorem State.wired_of_same {u s : State} (hout : u.outbox = s.outbox) (hports : u.ports = s.ports) (hfresh : u.fresh = s.fresh) : u.wired s = u := by
  rw [State.wired, ← hout, ← hports, ← hfresh]

theorem State.updPort_wired (w s : State) (n : Nat) (f : VPort → VPort) : (w.wired s).updPort n f = w.wired (s.updPort n f) := by
  unfold State.updPort
  split <;> rfl

theorem foldl_wired {α : Type} {f : State → α → State} (hf : ∀ (w s : State) (x : α), f (w.wired s) x = w.wired (f s x)) (w : State) :
    ∀ (l : List α) (s : State), l.foldl f (w.wired s) = w.wired (l.foldl f s)
  | [], _ => rfl
  | x :: l, s => by rw [List.foldl_cons, hf, foldl_wired hf w l, List.foldl_cons]

/-! ### Flits, requests to hosts, messages -/

theorem State.putFlit_wired (w s : State) (port dst vc type : Nat) (nak : Bool) (payload : List Byte) :
    (w.wired s).putFlit port dst vc type nak payload = w.wired (s.putFlit port dst vc type nak payload) := by
  unfold State.putFlit
  dsimp only
  rw [State.updPort_wired]
  rfl

theorem State.sendFlit_wired (w s : State) (port dst vc type : Nat) (payload : List Byte) :
    (w.wired s).sendFlit port dst vc type payload = w.wired (s.sendFlit port dst vc type payload) := by
  unfold State.sendFlit
  simp only [State.putFlit_wired, State.updPort_wired]
  have hport : (w.wired s).port port = s.port port := rfl
  have hfree : (w.wired s).freeAt 0 = s.freeAt 0 := rfl
  rw [hport, hfree]
  repeat' split
  all_goals rfl

theorem State.memFlits_wired (w s : State) (port node vc type : Nat) (bytes : List Byte) :
    (w.wired s).memFlits port node vc type bytes = w.wired (s.memFlits port node vc type bytes) :=
  foldl_wired (fun w s _ => w.sendFlit_wired s _ _ _ _ _) w _ (s.useFree 1)

theorem State.hostStore_wired (w s : State) (first : Option Nat) (node addr : Nat) (bytes : List Byte) :
    (w.wired s).hostStore first node addr bytes = w.wired (s.hostStore first node addr bytes) := by
  unfold State.hostStore
  have hto : (w.wired s).portTo first node = s.portTo first node := rfl
  rw [hto]
  split
  · exact State.memFlits_wired w (s.send _) _ _ _ _ _
  · rfl

theorem State.hostAsk_wired (w s : State) (node addr len : Nat) : (w.wired s).hostAsk node addr len = w.wired (s.hostAsk node addr len) := by
  unfold State.hostAsk
  have hto : (w.wired s).portTo none node = s.portTo none node := rfl
  rw [hto]
  split
  · exact State.memFlits_wired w (s.send _) _ _ _ _ _
  · rfl

theorem State.askSpan_wired (w s : State) (sp : Span) : (w.wired s).askSpan sp = w.wired (s.askSpan sp) := by
  refine foldl_wired (fun w s e => ?_) w sp s
  split
  · exact State.hostAsk_wired w s _ _ _
  · rfl

theorem State.tell_wired (w s : State) (port node vc code tag : Nat) (body : List Byte) :
    (w.wired s).tell port node vc code tag body = w.wired (s.tell port node vc code tag body) := by
  unfold State.tell
  have hto : (w.wired s).portTo (some port) node = s.portTo (some port) node := rfl
  rw [hto]
  split
  · exact State.sendFlit_wired w s _ _ _ _ _
  · rfl

theorem State.reply_wired (w s : State) (m : HostMsg) (code : Nat) (body : List Byte) : (w.wired s).reply m code body = w.wired (s.reply m code body) :=
  w.tell_wired s _ _ _ _ _ _

theorem State.result_wired (w s : State) (m : HostMsg) (status bytes value : Nat) :
    (w.wired s).result m status bytes value = w.wired (s.result m status bytes value) := w.reply_wired s _ _ _

/-! ### What a message leaves as it was, and on what it depends -/

theorem State.hostStore_frame (s : State) (first : Option Nat) (node addr : Nat) (bytes : List Byte) :
    s.hostStore first node addr bytes = s.wired (s.hostStore first node addr bytes) := s.hostStore_wired s _ _ _ _

theorem State.askSpan_frame (s : State) (sp : Span) : s.askSpan sp = s.wired (s.askSpan sp) := s.askSpan_wired s sp

theorem State.tell_frame (s : State) (port node vc code tag : Nat) (body : List Byte) :
    s.tell port node vc code tag body = s.wired (s.tell port node vc code tag body) := s.tell_wired s _ _ _ _ _ _

theorem State.reply_frame (s : State) (m : HostMsg) (code : Nat) (body : List Byte) : s.reply m code body = s.wired (s.reply m code body) :=
  s.reply_wired s _ _ _

theorem State.result_frame (s : State) (m : HostMsg) (status bytes value : Nat) :
    s.result m status bytes value = s.wired (s.result m status bytes value) := s.result_wired s _ _ _ _

/-- A message leaves alike from two states whose links are alike. -/
theorem State.tell_of_same {u s : State} (h : u.wired s = u) (port node vc code tag : Nat) (body : List Byte) :
    u.tell port node vc code tag body = u.wired (s.tell port node vc code tag body) := by
  rw [← State.tell_wired, h]

end Sys2Proof.Machine
end

section
/-! SUPPORT. Messages of hosts, and the obligation on them (R29, R34 to R37, R45, R47, R48, R215, R221, R222, R225, R226). -/
namespace Sys2Proof.Machine

/-! ### Whether a message is taken (R29, R34, R35) -/

theorem State.hear_of_heard {s : State} {m : HostMsg} {vc len : Nat} {zeros : List (Nat × Nat)} (h : Heard s m vc len zeros) (f : State → State) :
    s.hear m vc len zeros f = f s := by
  have hnone : s.refuse m vc len zeros = none := by
    simp [State.refuse, h.live, h.up, h.layout, h.version.1, h.version.2, h.chan]
  rw [State.hear, hnone]

/-- Every message of a host goes through the same checks. -/
theorem isMessage_hears {m : HostMsg} {i : Instr} {vc len : Nat} {zeros : List (Nat × Nat)} (h : isMessage m i vc len zeros) :
    ∃ f : State → State, ∀ s, exec i s = .next (s.hear m vc len zeros f) := by
  unfold isMessage at h
  simp only [List.mem_cons, List.not_mem_nil, or_false, Prod.mk.injEq] at h
  rcases h with h | h | h | h | h | h | h | h | h | h | h | h | h | h | h | h
  all_goals
    obtain ⟨rfl, rfl, rfl, rfl⟩ := h
    exact ⟨_, fun _ => rfl⟩

theorem State.hear_of_refuse {s t : State} {m : HostMsg} {vc len : Nat} {zeros : List (Nat × Nat)} (h : s.refuse m vc len zeros = some t)
    (f : State → State) : s.hear m vc len zeros f = t := by
  rw [State.hear, h]

section
variable {s : State} {m : HostMsg} {vc len : Nat} {zeros : List (Nat × Nat)}

theorem State.refuse_of_off (h : s.live = false ∨ (s.port m.port).up = false) : s.refuse m vc len zeros = some s := by
  rcases h with h | h <;> simp [State.refuse, h]

variable (hlive : s.live) (hup : (s.port m.port).up)
include hlive hup

theorem State.refuse_of_no_version (hver : (s.port m.port).hostVer = 0) : s.refuse m vc len zeros = some (s.result m 7 0 0) := by
  simp [State.refuse, hlive, hup, hver]

variable (hver : (s.port m.port).hostVer ≠ 0)
include hver

theorem State.refuse_of_layout (hlay : layoutOk m len zeros = false) : s.refuse m vc len zeros = some (s.result m 6 0 0) := by
  simp [State.refuse, hlive, hup, hver, hlay]

variable (hlay : layoutOk m len zeros)
include hlay

theorem State.refuse_of_version (h : m.pver ≠ (s.port m.port).hostVer) : s.refuse m vc len zeros = some (s.result m 7 0 0) := by
  simp [State.refuse, hlive, hup, hver, hlay, h]

theorem State.refuse_of_channel (h : m.pver = (s.port m.port).hostVer) (hvc : m.vc ≠ vc) :
    s.refuse m vc len zeros = some (s.updPort m.port (fun p => { p with discards := p.discards + 1 })) := by
  simp [State.refuse, hlive, hup, hver, hlay, h, hvc]

end

/-! ### Answers (R36, R37) -/

section
variable {s : State} {m : HostMsg} {o : Nat} {bytes : List Byte}

theorem State.answerInto_of_takes (h : s.takesAnswer m o bytes) (value : Nat) : s.answerInto m o bytes value = s.answered m o bytes value := by
  obtain ⟨hfit, htakes⟩ := h
  simp [State.answerInto, Nat.not_lt.2 hfit, htakes, State.answered]

theorem State.answerInto_of_short (h : HostMsgField m (o + 16) 4 < bytes.length) (value : Nat) :
    s.answerInto m o bytes value = s.result m 1 bytes.length value := if_pos h

end

theorem State.answered_samples (s : State) (m : HostMsg) (o : Nat) (bytes : List Byte) (value : Nat) :
    (s.answered m o bytes value).samples = s.samples :=
  (congrArg State.samples (s.hostStore_frame (some m.port) (HostMsgField m o 2) (HostMsgField m (o + 8) 8) bytes) :)

theorem State.result_ptbase (s : State) (m : HostMsg) (status bytes value : Nat) : (s.result m status bytes value).ptbase = s.ptbase :=
  (congrArg State.ptbase (s.result_frame m status bytes value) :)

theorem State.result_launch (s : State) (m : HostMsg) (status bytes value lid : Nat) : (s.result m status bytes value).launch lid = s.launch lid :=
  (congrArg (State.launch · lid) (s.result_frame m status bytes value) :)

theorem State.result_placed (s : State) (m : HostMsg) (status bytes value : Nat) : (s.result m status bytes value).placed = s.placed :=
  (congrArg State.placed (s.result_frame m status bytes value) :)

theorem State.result_grafts (s : State) (m : HostMsg) (status bytes value : Nat) : (s.result m status bytes value).grafts = s.grafts :=
  (congrArg State.grafts (s.result_frame m status bytes value) :)

/-! ### Reading back from reserved memory (R226) -/

/-- What answers depend on beside the links: the nodes that refuse writes, and the sample rings. -/
def State.asked (s : State) : List Nat × List (Nat × List (List Byte)) := (s.refusing, s.samples)

theorem State.eccAt_asked (s : State) (pa : Nat) : (s.eccAt pa).asked = s.asked := by
  unfold State.eccAt State.dieTime State.asked
  dsimp only
  repeat' split
  all_goals simp

theorem State.fatal_asked (s : State) (d : Nat) : (s.fatal d).asked = s.asked := by
  have hoff : (s.takenOffline d).asked = s.asked := by
    unfold State.takenOffline State.asked
    dsimp only
    split <;> simp
  rw [State.fatal_eq, State.loseAll_keeps State.asked (fun _ _ _ => rfl) (fun _ _ => rfl), hoff]

theorem State.reservedRead_asked (s : State) : s.reservedRead.asked = s.asked := by
  unfold State.reservedRead
  repeat' split
  · rfl
  · exact (State.fatal_asked _ _).trans (State.eccAt_asked _ _)
  · rfl

theorem State.reservedRead_of_clean {s : State} (h : ∀ e ∈ s.ecc, reservedMem (32 * e.1) → e.2.2 = false) : s.reservedRead = s := by
  have hnone : s.ecc.find? (fun (e : Nat × Nat × Bool) => reservedMem (32 * e.1) && e.2.2) = none := by
    rw [List.find?_eq_none]
    intro e he hbad
    obtain ⟨hres, hunc⟩ := Bool.and_eq_true_iff.1 hbad
    exact Bool.false_ne_true ((h e he hres).symm.trans hunc)
  rw [State.reservedRead, hnone]

theorem State.reservedRead_takesAnswer {s : State} {m : HostMsg} {o : Nat} {bytes : List Byte} (h : s.takesAnswer m o bytes) :
    s.reservedRead.takesAnswer m o bytes := by
  have hrefusing : s.reservedRead.refusing = s.refusing := congrArg Prod.fst s.reservedRead_asked
  rw [State.takesAnswer, hrefusing]
  exact h

/-! ### Page-table bases (R36) -/

theorem find?_kset_same {k : Nat} {v : Nat} : ∀ l : List (Nat × Nat), (kset k v l).find? (fun e => e.1 == k) = some (k, v)
  | [] => by simp [kset]
  | (a, b) :: r => by
    unfold kset
    split
    · simp
    · next h => rw [List.find?_cons_of_neg (by simpa using h), find?_kset_same r]

theorem find?_kset_of_ne {k j : Nat} (hj : j ≠ k) {v : Nat} : ∀ l : List (Nat × Nat),
    (kset k v l).find? (fun e => e.1 == j) = l.find? (fun e => e.1 == j)
  | [] => by simp [kset, Ne.symm hj]
  | (a, b) :: r => by
    unfold kset
    split
    · next h => rw [h, List.find?_cons_of_neg (by simpa using Ne.symm hj), List.find?_cons_of_neg (by simpa using Ne.symm hj)]
    · rw [List.find?_cons, List.find?_cons, find?_kset_of_ne hj r]

/-! ### Page sets of a launch (R207, R215) -/

theorem State.launch_lid {s : State} {lid : Nat} {l : Launch} (h : s.launch lid = some l) : l.lid = lid := by
  simpa using List.find?_some h

/-- One page set stands under a LID and an index: the images of those named are its own. -/
theorem named_eq_singleton {ps : List Placed} {lid k : Nat} {p : Placed} (hmem : p ∈ ps) (hlid : p.lid = lid) (hnodup : ps.Nodup) (hk : k ≠ 0xFFFF)
    (hone : ∀ q ∈ ps, q.lid = lid → (q.pset = k ↔ q = p)) :
    (ps.filter (fun q => q.lid == lid && (k == 0xFFFF || q.pset == k))).foldr indexInsert [] = [p] := by
  have hfilter : ps.filter (fun q => q.lid == lid && (k == 0xFFFF || q.pset == k)) = ps.filter (fun q => q = p) := by
    refine List.filter_congr fun q hq => ?_
    by_cases hq' : q.lid = lid
    · have hk' : (k == 0xFFFF) = false := by simpa using hk
      rw [hq', hk', Bool.false_or, beq_self_eq_true, Bool.true_and, beq_eq_decide, decide_eq_decide]
      exact hone q hq hq'
    · have hne : q ≠ p := fun h => hq' (h ▸ hlid)
      simp [hq', hne]
  rw [hfilter, List.filter_eq, List.count_eq_one_of_mem hnodup hmem]
  rfl

theorem State.debugRead_of_one {s : State} {m : HostMsg} {l : Launch} {p : Placed} (hl : s.launch (HostMsgField m 0 4) = some l)
    (hphase : l.phase = .stopped ∨ l.phase = .frozen)
    (hnamed : (s.placed.filter (fun q => q.lid == l.lid && (HostMsgField m 4 2 == 0xFFFF || q.pset == HostMsgField m 4 2))).foldr indexInsert [] = [p]) :
    s.debugRead m = if p.isSealed then ({ s with sealRefusals := s.sealRefusals + 1 } : State).result m 3 0 0
      else (s.useFree (s.imageFree p)).answerInto m 8 (imageBytes s p 1 true) 0 := by
  have hstands : (l.phase == .stopped || l.phase == .frozen) = true := by simpa using hphase
  unfold State.debugRead
  rw [hl]
  dsimp only
  rw [hstands, hnamed]
  cases h : p.isSealed <;> simp [h, debugImages]

/-- Regions that are woken one after another: each page set of the list goes on. -/
theorem State.wakeAll_placed (lid : Nat) : ∀ (ps : List Nat) (s : State), (ps.foldl (fun s p => s.wakeRegion lid p) s).placed =
    s.placed.map (fun q => if q.lid = lid ∧ q.pset ∈ ps then { q with quiesced := false } else q)
  | [], s => by simp
  | p :: ps, s => by
    have hwake : (s.wakeRegion lid p).placed = s.placed.map (fun q => if q.lid = lid ∧ q.pset = p then { q with quiesced := false } else q) := rfl
    rw [List.foldl_cons, State.wakeAll_placed lid ps, hwake, List.map_map]
    refine List.map_congr_left fun q _ => ?_
    by_cases hlid : q.lid = lid <;> by_cases hp : q.pset = p <;> simp [hlid, hp]

theorem State.resumeMsg_of_stopped {s : State} {m : HostMsg} {l : Launch} (hl : s.launch (HostMsgField m 0 4) = some l)
    (hphase : l.phase = .stopped ∨ l.phase = .frozen) (hgrafts : ∀ g ∈ s.grafts, g.lid ≠ l.lid) :
    s.resumeMsg m = (s.psetsOf l.lid).foldl (fun s p => s.wakeRegion l.lid p)
      ((s.result m 0 0 0).mapLaunch l.lid (fun l => { l with phase := .running })) := by
  have hstands : (l.phase == .stopped || l.phase == .frozen) = true := by simpa using hphase
  have hall : (s.psetsOf l.lid).filter (fun p => !s.grafts.any (fun g => g.lid == l.lid && g.pset == p)) = s.psetsOf l.lid := by
    refine List.filter_eq_self.2 fun p _ => ?_
    simp only [Bool.not_eq_true', List.any_eq_false, Bool.and_eq_true, beq_iff_eq, not_and]
    exact fun g hg hlid => absurd hlid (hgrafts g hg)
  unfold State.resumeMsg
  rw [hl]
  dsimp only
  rw [hstands, State.psetsOf, State.mapLaunch_placed, State.mapLaunch_grafts, State.result_placed, State.result_grafts]
  exact congrArg (List.foldl _ _) hall

/-! ### The obligation -/

/-- Settles O47: every message goes through the checks of R35, then each one's meaning, by what the package holds. The order of the
checks (log 73), the answer of a read for a launch that has not completed and when a sample ring is emptied (log 75), and what a read of reserved memory
meets (log 93) are the model's choice. -/
theorem hostMessages : Obligations.HostMessages := by
  have htaken {s : State} {m : HostMsg} {vc len : Nat} {zeros : List (Nat × Nat)} {f : State → State} {t : State} (h : Heard s m vc len zeros)
      (ht : f s = t) : Host.Outcome.next (s.hear m vc len zeros f) = (.next t : Host.Outcome State Fault Refusal) :=
    congrArg Host.Outcome.next ((State.hear_of_heard h f).trans ht)
  refine ⟨?checks, ?ptbase, ?attest, ?held, fun s => State.reservedRead_of_clean, ?sample, ?debug, ?control, ?arm, ?errlog, ?dump, ?clear⟩
  case checks =>
    intro s m i vc len zeros hm
    obtain ⟨f, hf⟩ := isMessage_hears hm
    have hrefused {t : State} (h : s.refuse m vc len zeros = some t) : exec i s = .next t :=
      (hf s).trans (congrArg Host.Outcome.next (State.hear_of_refuse h f))
    exact ⟨fun h => hrefused (State.refuse_of_off h), fun hl hu hv => hrefused (State.refuse_of_no_version hl hu hv),
      fun hl hu hv hlay => hrefused (State.refuse_of_layout hl hu hv hlay), fun hl hu hv hlay hp => hrefused (State.refuse_of_version hl hu hv hlay hp),
      fun hl hu hlay hv hp hvc => hrefused (State.refuse_of_channel hl hu hv hlay hp hvc)⟩
  case ptbase =>
    intro s m h
    refine ⟨fun h0 => htaken h ?_, fun h0 haligned hin => ⟨_, htaken h rfl, ?_, ?_, fun a ha => ?_⟩, fun h0 hbad => htaken h ?_⟩
    · rw [State.setBase, if_pos h0]
      simp only [bne, beq_eq_decide, ne_eq, decide_not]
    all_goals rw [State.setBase, if_neg h0]
    · rw [if_neg (by simp [haligned, hin])]
    · rw [if_neg (by simp [haligned, hin])]
      exact congrArg (Option.map Prod.snd) (find?_kset_same _)
    · rw [if_neg (by simp [haligned, hin])]
      exact congrArg (Option.map Prod.snd) (find?_kset_of_ne ha _)
    · rw [if_pos (by simpa using hbad)]
  case attest =>
    intro s m h
    exact ⟨fun ht => htaken h (State.answerInto_of_takes ht 0), fun hs => htaken h (State.answerInto_of_short hs 0)⟩
  case held =>
    intro s m i lid held h hlid hi
    have hexec : exec i s = .next (s.answerHeld m held) := by
      rcases hi with ⟨rfl, rfl⟩ | ⟨rfl, rfl⟩ <;> subst hlid <;> exact htaken h rfl
    refine ⟨fun hn => ?_, fun b hb ht => ?_, fun b hb hs => ?_⟩ <;> rw [hexec]
    · rw [hn]
      rfl
    · rw [hb]
      exact congrArg Host.Outcome.next (State.answerInto_of_takes (State.reservedRead_takesAnswer ht) 0)
    · rw [hb]
      exact congrArg Host.Outcome.next (State.answerInto_of_short hs 0)
  case sample =>
    intro s m lid h hlid
    subst hlid
    refine ⟨fun hn => htaken h ?_, fun es he ht => htaken h ?_, fun es he hs => htaken h ?_⟩ <;> unfold State.sampleRead <;> dsimp only
    · rw [hn]
    · have hflat : es.flatMap (fun e => e) = es.flatten := List.flatMap_id'
      have hsamples : (s.reservedRead.answered m 8 es.flatten 0).samples = s.samples :=
        (State.answered_samples _ _ _ _ _).trans (congrArg Prod.snd s.reservedRead_asked)
      obtain ⟨hfit, htakes⟩ := ht
      have hgoes : ¬ (HostMsgField m 24 4 < es.flatten.length ∨ s.refusing.contains (HostMsgField m 8 2)) := by
        simpa [Nat.not_lt] using And.intro hfit htakes
      rw [he]
      dsimp only
      rw [hflat, if_neg hgoes, State.answerInto_of_takes (State.reservedRead_takesAnswer ⟨hfit, htakes⟩), hsamples]
    · have hflat : es.flatMap (fun e => e) = es.flatten := List.flatMap_id'
      rw [he]
      dsimp only
      rw [hflat, if_pos (.inl hs), State.answerInto_of_short hs]
  case debug =>
    intro s m lid h hlid
    subst hlid
    refine ⟨fun hn => htaken h ?_, fun l hl hs hf => htaken h ?_, fun l p hl hphase hone hmem hp hnodup hk => ?_⟩
    · rw [State.debugRead, hn]
    · have hstands : (l.phase == .stopped || l.phase == .frozen) = false := by simp [hs, hf]
      rw [State.debugRead, hl]
      dsimp only
      rw [hstands]
      rfl
    · have hl' := State.launch_lid hl
      have hread := State.debugRead_of_one hl hphase (named_eq_singleton hmem (hp.trans hl'.symm) hnodup hk (by rwa [hl']))
      refine ⟨fun hseal => htaken h (hread.trans (if_pos hseal)), fun hseal ht => htaken h (hread.trans ?_)⟩
      rw [if_neg (by simp [hseal])]
      exact State.answerInto_of_takes (s := s.useFree _) ht 0
  case control =>
    intro s m lid h hlid
    subst hlid
    refine ⟨fun hn => ⟨htaken h ?_, htaken h ?_⟩, fun l hl hs hf => htaken h ?_, fun l hl hphase hgrafts => ⟨_, htaken h rfl, ?_⟩,
      fun l hl => ⟨_, htaken h rfl, ?_⟩⟩
    · rw [State.resumeMsg, hn]
    · simp only [State.killMsg, hn]
    · have hstands : (l.phase == .stopped || l.phase == .frozen) = false := by simp [hs, hf]
      rw [State.resumeMsg, hl]
      dsimp only
      rw [hstands]
      rfl
    · have hl' := State.launch_lid hl
      rw [State.resumeMsg_of_stopped hl hphase (by rwa [hl'])]
      refine ⟨?_, ?_, fun p hp hlid => ?_⟩
      · have hwake (n : Nat) := foldl_keeps (State.launch · n) (f := fun s p => s.wakeRegion l.lid p) (fun _ _ => rfl) (s.psetsOf l.lid)
        rw [hwake, State.mapLaunch_launch _ _ (fun l => { l with phase := .running }) (fun _ => rfl), State.result_launch, hl, hl', Option.map_some, if_pos rfl]
      · exact foldl_keeps State.outbox (f := fun s p => s.wakeRegion l.lid p) (fun _ _ => rfl) _ _
      · rw [State.wakeAll_placed, State.mapLaunch_placed, State.result_placed] at hp
        obtain ⟨q, hq, rfl⟩ := List.mem_map.1 hp
        split at hlid
        · next hin => rw [if_pos hin]
        · next hout =>
          refine absurd ⟨hlid.trans hl'.symm, ?_⟩ hout
          exact List.mem_map.2 ⟨q, List.mem_filter.2 ⟨hq, by simpa [hl'] using hlid⟩, rfl⟩
    · have hkill : s.killMsg m = ((s.result m 0 0 0).endWith (HostMsgField m 0 4) { status := 0x23, detail := 0 }).haltLaunch (HostMsgField m 0 4) := by
        simp only [State.killMsg, hl]
      rw [hkill]
      refine ⟨rfl, fun hend => ?_, fun p hp hlid => ?_⟩
      · refine (State.endWith_launch _ _ _ _).trans ?_
        rw [State.result_launch, hl, Option.map_some, if_pos rfl, hend]
        rfl
      · obtain ⟨q, _, rfl⟩ := List.mem_map.1 (show p ∈ List.map _ _ from hp)
        split at hlid
        · next hin => rw [if_pos hin]
        · next hout => exact absurd hlid hout
  case arm =>
    intro s m b h hread hdigest hfull
    have hgood : (s.hostRead (HostMsgField m 4 2) (HostMsgField m 8 8) (HostMsgField m 16 8)).filter (fun b =>
        decide (Config.sha3 b = (m.body.drop 24).take 64) && !logPartial b) = some b := by
      simp [hread, hdigest, hfull]
    have harm : s.armLog m = { s.result m 0 0 0 with armed := kset (HostMsgField m 0 4) b s.armed } := by rw [State.armLog, hgood]
    exact ⟨_, htaken h harm, rfl, kget_kset_same _ _ _⟩
  case errlog =>
    intro s m h
    refine ⟨fun hbad => htaken h (if_pos hbad), fun k hk hd hlog ht => htaken h ?_⟩
    have hin : ¬ (16 ≤ HostMsgField m 0 1 ∨ 2 ≤ HostMsgField m 1 1) := by omega
    rw [State.errlog]
    dsimp only
    rw [if_neg hin, hlog]
    simp only [List.flatMap_id']
    by_cases hk0 : k = 0
    · simp only [hk0, if_true] at ht ⊢
      exact State.answerInto_of_takes ht _
    · simp only [hk0, if_false] at ht ⊢
      exact State.answerInto_of_takes ht _
  case dump =>
    intro s m h
    refine ⟨fun hn => htaken h ?_, fun b hb ho => htaken h ?_, fun b hb ho htakes => htaken h ?_⟩ <;> unfold State.dumpPart
    · rw [hn]
    · rw [hb]
      exact if_pos ho
    · rw [hb]
      dsimp only
      rw [if_neg (Nat.not_lt.2 ho)]
      exact State.answerInto_of_takes ⟨List.length_take_le _ _, htakes⟩ 0
  case clear =>
    intro s m h
    refine ⟨fun hn => htaken h ?_, fun hn => htaken h ?_⟩
    · rw [hn]
    · obtain ⟨b, hb⟩ := Option.ne_none_iff_exists'.1 hn
      rw [hb]

end Sys2Proof.Machine
end

section
/-! SUPPORT. Launching, load control, and the obligation on them (R38 to R40, R43 to R45). -/
namespace Sys2Proof.Machine

/-! ### A write leaves every other byte, whatever form the table has -/

theorem cellGet_cellSet_of_ne {β : Type} [DecidableEq β] {d : β} {a x : Nat} (hx : x ≠ a) (v : β) : ∀ l : List (Nat × β),
    cellGet d x (cellSet d a v l) = cellGet d x l
  | [] => by
    unfold cellSet
    split <;> simp [cellGet, hx]
  | (b, w) :: r => by
    unfold cellSet
    split
    · split <;> simp [cellGet, hx]
    · split
      · next hab =>
        subst hab
        split <;> simp [cellGet, hx]
      · rw [cellGet, cellGet, cellGet_cellSet_of_ne hx v r]

theorem Memory.read_foldl_write {α : Type} {a : Nat} {l : List α} {at_ : α → Nat} (v : α → Byte) (h : ∀ e ∈ l, at_ e ≠ a) (m : Memory) :
    Memory.read (l.foldl (fun m e => Memory.write m (at_ e) (v e)) m) a = Memory.read m a := by
  induction l generalizing m with
  | nil => rfl
  | cons e l ih =>
    rw [List.foldl_cons, ih (fun e he => h e (List.mem_cons_of_mem _ he))]
    exact cellGet_cellSet_of_ne (h e List.mem_cons_self).symm _ m

/-! ### Queueing a launch (R38, R39, R43) -/

theorem State.chooseHead_frame (s : State) : s.chooseHead = { s with head := s.chooseHead.head, headPtr := s.chooseHead.headPtr } := by
  unfold State.chooseHead State.setPtr
  dsimp only
  repeat' split
  all_goals rfl

theorem State.openLog_frame (s : State) (l : Launch) : s.openLog l = { s with replays := (s.openLog l).replays, armed := (s.openLog l).armed } := by
  unfold State.openLog
  split <;> rfl

/-- A launch that no check rejects has a page-table base. -/
theorem State.ptbaseOf_of_accepted {s : State} {l : Launch} (h : s.rejects l = none) : (s.ptbaseOf l.asid).isSome := by
  by_contra hbase
  unfold State.rejects at h
  rw [if_pos (c := (s.ptbaseOf l.asid).isNone) (by simpa using hbase)] at h
  repeat' split at h
  all_goals cases h

/-- A launch as its message gives it, before it is stamped. -/
def launchOf (m : HostMsg) : Launch :=
  { record := BitVec.ofNat 512 (leNat (m.body.take 64)), node := m.node, port := m.port, tag := m.tag, stamp := 0, order := 0, phase := .queued,
    gcount := leNat (m.body.take 64) % 2 ^ 512 / 2 ^ 128 % 2 ^ 32 }

/-- A launch as it is queued: with the base of its ASID, its stamp, its place in the order, and the end that a failed prerequisite brings. -/
def State.stamped (s : State) (l : Launch) : Launch :=
  { l with
    base := (s.ptbaseOf l.asid).getD 0, stamp := s.bord + l.field 10 1, order := s.orders, acceptedAt := s.clock
    ending := (s.failedPre l).map (fun i => { status := 0x20, detail := i }), failedAt := (s.failedPre l).map (fun _ => s.clock) }

/-- The state in which the head is chosen once a launch has been queued. -/
def State.queued (s : State) (l : Launch) : State :=
  ({ s with bord := s.bord + l.field 10 1, orders := s.orders + 1, launches := s.launches ++ [s.stamped l] } : State).openLog (s.stamped l)

theorem State.accept_eq (s : State) (m : HostMsg) (l : Launch) :
    s.accept m l = (s.queued l).chooseHead.launchReply m l.lid (if (s.queued l).chooseHead.head = some l.lid then 0 else 1) := by
  have hbit : l.field 10 1 < 2 := Nat.mod_lt _ (by decide)
  have hbord : (if l.field 10 1 = 1 then s.bord + 1 else s.bord) = s.bord + l.field 10 1 := by split <;> omega
  unfold State.accept
  dsimp only
  rw [hbord]
  rfl

theorem State.queued_frame (s : State) (l : Launch) : (s.queued l).chooseHead = { s with
    bord := s.bord + l.field 10 1, orders := s.orders + 1, launches := s.launches ++ [s.stamped l], replays := (s.queued l).replays
    armed := (s.queued l).armed, head := (s.queued l).chooseHead.head, headPtr := (s.queued l).chooseHead.headPtr } := by
  refine (s.queued l).chooseHead_frame.trans ?_
  generalize (s.queued l).chooseHead = c
  rw [State.queued, State.openLog_frame]

theorem State.launchMsg_eq (s : State) (m : HostMsg) : s.launchMsg m =
    ((s.rejects (launchOf m)).map (s.launchReply m (launchOf m).lid)).getD (s.accept m (launchOf m)) := by
  unfold State.launchMsg launchOf
  dsimp only
  rw [BitVec.toNat_ofNat]
  split
  · next h => rw [h, Option.map_some, Option.getD_some]
  · next h => rw [h, Option.map_none, Option.getD_none]

/-! ### Loading (R43 to R45) -/

theorem State.notReady_eq (s : State) (idx why : Nat) : s.notReady idx why =
    { s.tell s.load.port s.load.node 0 0x82 s.load.tag (leBytes 4 idx ++ leBytes 1 why ++ [0, 0, 0]) with
      load := { s.load with phase := .notReady, failIdx := idx, failWhy := why } } := rfl

/-- What load control answers with, and to whom. -/
def State.loadTo (s : State) : Nat × Nat × Nat := (s.load.port, s.load.node, s.load.tag)

/-- A shard that matches is written to the staging view and marked. -/
def State.tookShard (s : State) (x : Shard × List Byte) : State :=
  let t := s.stageBytes x.1.offset x.2
  { t with load := { t.load with shards := t.load.shards.map (fun f => if f.index = x.1.index then { f with fetched := true } else f) } }

/-- A shard's bytes have the length and digest of its manifest entry. -/
def shardMatches (x : Shard × List Byte) : Prop := x.2.length = x.1.len ∧ Config.sha3 x.2 = x.1.digest

theorem State.stageBytes_frame (s : State) (off : Nat) (bs : List Byte) :
    s.stageBytes off bs = { s with mem := (s.stageBytes off bs).mem, older := (s.stageBytes off bs).older } := by
  unfold State.stageBytes
  generalize List.range 8 = ds
  induction ds generalizing s with
  | nil => rfl
  | cons d ds ih => exact ih _

theorem State.tookShard_shards (s : State) (x : Shard × List Byte) :
    (s.tookShard x).load.shards = s.load.shards.map (fun f => if f.index = x.1.index then { f with fetched := true } else f) := by
  unfold State.tookShard
  rw [State.stageBytes_frame]

/-- Load control once a PREPARE has been taken. -/
def LoadCtl.begun (c : LoadCtl) (m : HostMsg) : LoadCtl :=
  { c with phase := .loading, tag := m.tag, port := m.port, node := m.node, shards := [] }

/-- The shards of the manifest that a PREPARE names, if its digest is the one that is named. -/
def State.manifestOf (s : State) (m : HostMsg) : Option (List Shard) :=
  (s.hostRead (HostMsgField m 0 2) (HostMsgField m 8 8) (HostMsgField m 16 8)).bind (fun b =>
    if Config.sha3 b = (m.body.drop 24).take 64 then manifestShards s.ownNodes b else none)

theorem State.prepare_of_manifest {s : State} {m : HostMsg} {es : List Shard} (hidle : s.load.phase = .idle) (h : s.manifestOf m = some es) :
    s.prepare m = es.foldl State.fetchShard { s with load := { s.load.begun m with shards := es } } := by
  have hbegun : ({ s with load := s.load.begun m } : State).manifestOf m = some es := h
  unfold State.prepare
  rw [if_neg (by simp [hidle])]
  dsimp only
  split
  · next hnone => exact absurd (hbegun.symm.trans hnone) (by simp)
  · next hsome =>
    cases hbegun.symm.trans hsome
    rfl

theorem State.prepare_of_no_manifest {s : State} {m : HostMsg} (hidle : s.load.phase = .idle) (h : s.manifestOf m = none) :
    s.prepare m = ({ s with load := s.load.begun m } : State).notReady 0xFFFFFFFF 3 := by
  have hbegun : ({ s with load := s.load.begun m } : State).manifestOf m = none := h
  unfold State.prepare
  rw [if_neg (by simp [hidle])]
  dsimp only
  split
  · rfl
  · next hsome => exact absurd (hbegun.symm.trans hsome) (by simp)

/-- Taking a shard leaves what the links hold, and to whom load control answers. -/
theorem State.tookShard_keeps (s : State) (x : Shard × List Byte) : ((s.tookShard x).outbox, (s.tookShard x).ports, (s.tookShard x).fresh,
    (s.tookShard x).loadTo) = (s.outbox, s.ports, s.fresh, s.loadTo) := by
  unfold State.tookShard State.loadTo
  rw [State.stageBytes_frame]

theorem State.takeShards_of_good (rest : List (Shard × List Byte)) : ∀ (good : List (Shard × List Byte)) (s : State), (∀ x ∈ good, shardMatches x) →
    s.takeShards (good ++ rest) = (good.foldl State.tookShard s).takeShards rest
  | [], _, _ => rfl
  | (e, b) :: good, s, h => by
    obtain ⟨hlen, hdigest⟩ := h (e, b) List.mem_cons_self
    have hstep : s.takeShards ((e, b) :: (good ++ rest)) = (s.tookShard (e, b)).takeShards (good ++ rest) := by
      rw [State.takeShards, if_neg (by simp [hlen, hdigest])]
      rfl
    rw [List.cons_append, hstep, List.foldl_cons]
    exact State.takeShards_of_good rest good (s.tookShard (e, b)) (fun x hx => h x (List.mem_cons_of_mem _ hx))

theorem State.tookAll_keeps (good : List (Shard × List Byte)) (s : State) :
    (good.foldl State.tookShard s).wired s = good.foldl State.tookShard s ∧ (good.foldl State.tookShard s).loadTo = s.loadTo := by
  have hkeeps := foldl_keeps (fun s : State => (s.outbox, s.ports, s.fresh, s.loadTo)) State.tookShard_keeps good s
  simp only [Prod.mk.injEq] at hkeeps
  obtain ⟨hout, hports, hfresh, hto⟩ := hkeeps
  exact ⟨State.wired_of_same hout hports hfresh, hto⟩

theorem State.tookAll_shards : ∀ (good : List (Shard × List Byte)) (s : State), (good.foldl State.tookShard s).load.shards =
    s.load.shards.map (fun f => if f.index ∈ good.map (fun x => x.1.index) then { f with fetched := true } else f)
  | [], s => by simp
  | x :: good, s => by
    rw [List.foldl_cons, State.tookAll_shards good, State.tookShard_shards, List.map_map]
    refine List.map_congr_left fun f _ => ?_
    rw [Function.comp_apply, List.map_cons]
    by_cases hx : f.index = x.1.index
    · rw [if_pos hx, if_pos (List.mem_cons.2 (.inl hx)), ite_self]
    · rw [if_neg hx]
      simp only [List.mem_cons, hx, false_or]

/-- An answer of load control leaves alike whichever shards have been taken. -/
theorem State.tookAll_tell (good : List (Shard × List Byte)) (s : State) (code : Nat) (body : List Byte) :
    (let u := good.foldl State.tookShard s
     (u.tell u.load.port u.load.node 0 code u.load.tag body).outbox = (s.tell s.load.port s.load.node 0 code s.load.tag body).outbox) := by
  obtain ⟨hsame, hto⟩ := State.tookAll_keeps good s
  generalize good.foldl State.tookShard s = u at hsame hto
  obtain ⟨hport, hnode, htag⟩ : u.load.port = s.load.port ∧ u.load.node = s.load.node ∧ u.load.tag = s.load.tag := by
    simpa [State.loadTo] using hto
  dsimp only
  rw [hport, hnode, htag, State.tell_of_same hsame]
  rfl

/-- The index that a limit reports: the lowest, and no more than the bound. -/
theorem foldl_min_spec : ∀ (l : List Nat) (m : Nat),
    (∀ x ∈ l, l.foldl min m ≤ x) ∧ l.foldl min m ≤ m ∧ (l.foldl min m = m ∨ l.foldl min m ∈ l)
  | [], m => by simp
  | x :: l, m => by
    obtain ⟨hall, hle, hor⟩ := foldl_min_spec l (min m x)
    rw [List.foldl_cons]
    refine ⟨fun y hy => ?_, hle.trans (Nat.min_le_left _ _), ?_⟩
    · rcases List.mem_cons.1 hy with rfl | hy
      · exact hle.trans (Nat.min_le_right _ _)
      · exact hall y hy
    · rcases hor with h | h
      · rcases min_choice m x with hm | hm
        · exact .inl (h.trans hm)
        · exact .inr (by rw [h, hm]; exact List.mem_cons_self)
      · exact .inr (List.mem_cons_of_mem _ h)

/-! ### The weight switch (R45) -/

theorem State.tryFlip_of_early {s : State} {l : Launch} (hl : l ∈ s.launches) (h : l.stamp < s.load.n) : s.tryFlip = s := by
  refine if_neg fun hall => ?_
  have hle := of_decide_eq_true (List.all_eq_true.1 (Bool.and_eq_true_iff.1 hall).2 l hl)
  omega

theorem State.tryFlip_of_none_early {s : State} (hphase : s.load.phase = .switchPending) (h : ∀ l ∈ s.launches, s.load.n ≤ l.stamp) :
    s.tryFlip = { s.tell s.load.port s.load.node 0 0x85 s.load.tag (leBytes 8 s.load.n) with wsel := !s.wsel, load := s.load.rest } :=
  if_pos (by simpa [hphase] using h)

/-- A SWITCH(n) that is accepted: it is pending. -/
def State.switching (s : State) (m : HostMsg) (n : Nat) : State :=
  { s.reply m 0x83 (leBytes 8 n) with load := { s.load with phase := .switchPending, n := n, tag := m.tag, port := m.port, node := m.node } }

theorem State.switching_launches (s : State) (m : HostMsg) (n : Nat) : (s.switching m n).launches = s.launches :=
  (congrArg State.launches (s.reply_frame m 0x83 (leBytes 8 n)) :)

theorem State.switching_wsel (s : State) (m : HostMsg) (n : Nat) : (s.switching m n).wsel = s.wsel :=
  (congrArg State.wsel (s.reply_frame m 0x83 (leBytes 8 n)) :)

theorem State.switchTo_of_started {s : State} (m : HostMsg) {n k : Nat} (hphase : s.load.phase = .ready) (htop : s.load.topStart = some k) (hk : n ≤ k) :
    s.switchTo m n = s.reply m 0x84 (leBytes 8 n) := by
  simp [State.switchTo, hphase, htop, hk]

theorem State.switchTo_of_free {s : State} (m : HostMsg) {n : Nat} (hphase : s.load.phase = .ready) (htop : ∀ k, s.load.topStart = some k → k < n) :
    s.switchTo m n = (s.switching m n).tryFlip := by
  have hfree : s.load.topStart.any (fun t => decide (n ≤ t)) = false := by
    cases h : s.load.topStart with
    | none => rfl
    | some k => simpa using htop k h
  simp only [State.switchTo, hphase, hfree]
  rfl

/-! ### ABORT (R45) -/

/-- What becomes undefined is the staging copy alone. -/
theorem State.dropStaging_read {s : State} {a : Nat} (h : s.inStaging a = false) : Memory.read s.dropStaging.mem a = Memory.read s.mem a := by
  refine Memory.read_foldl_write (at_ := fun e : Nat × Nat => e.1) _ (fun e he ha => ?_) s.mem
  have hin : s.inStaging e.1 := (List.mem_filter.1 (List.fst_mem_of_mem_zipIdx he)).2
  rw [ha, h] at hin
  exact Bool.false_ne_true hin

/-! ### The obligation -/

/-- Settles O48: a launch is rejected or queued as R39 has it; load control answers each message by its state. What a message means that the
rules give in part is the model's reading (log 75). -/
theorem launchAndLoadControl : Obligations.LaunchAndLoadControl := by
  have htaken {s : State} {m : HostMsg} {vc len : Nat} {zeros : List (Nat × Nat)} {f : State → State} {t : State} (h : Heard s m vc len zeros)
      (ht : f s = t) : Host.Outcome.next (s.hear m vc len zeros f) = (.next t : Host.Outcome State Fault Refusal) :=
    congrArg Host.Outcome.next ((State.hear_of_heard h f).trans ht)
  refine ⟨?launch, ?prepare, ?shards, ?limit, ?switch, ?abort⟩
  case launch =>
    intro s m h
    change (∀ code, s.rejects (launchOf m) = some code → _) ∧ (s.rejects (launchOf m) = none → _)
    refine ⟨fun code hcode => htaken h ?_, fun hnone => ?_⟩
    · rw [State.launchMsg_eq, hcode]
      rfl
    · have hmsg : s.launchMsg m = s.accept m (launchOf m) := by
        rw [State.launchMsg_eq, hnone]
        rfl
      obtain ⟨b, hb⟩ := Option.isSome_iff_exists.1 (State.ptbaseOf_of_accepted hnone)
      refine ⟨_, s.stamped (launchOf m), htaken h (hmsg.trans (s.accept_eq m _)), ?_⟩
      have hframe := s.queued_frame (launchOf m)
      generalize (s.queued (launchOf m)).chooseHead = u at hframe
      have hsame : u.wired s = u := by rw [hframe]; rfl
      have hreply (status : Nat) : u.launchReply m (launchOf m).lid status =
          u.wired (s.reply m 0x181 (leBytes 4 (launchOf m).lid ++ leBytes 1 status ++ [0, 0, 0])) := State.tell_of_same hsame _ _ _ _ _ _
      rw [hreply]
      refine ⟨(congrArg State.launches hframe :), rfl, ?_, (congrArg State.bord hframe :), (congrArg State.orders hframe :), ?_, rfl,
        (congrArg State.mem hframe :), (congrArg State.placed hframe :)⟩
      · exact hb.trans (by rw [State.stamped, hb]; rfl)
      · exact Option.map_eq_none_iff
  case prepare =>
    intro s m h
    refine ⟨fun hbusy => htaken h (if_pos (by simpa using hbusy)), fun hidle es hes => htaken h (State.prepare_of_manifest hidle hes),
      fun hidle hnone => ⟨_, htaken h (State.prepare_of_no_manifest hidle hnone), rfl, rfl, rfl, ?_⟩⟩
    exact (congrArg State.outbox (State.tell_wired ({ s with load := s.load.begun m } : State) s _ _ _ _ _ _) :)
  case shards =>
    intro s bs hphase
    have hexec : exec (.loaderShardsFetched bs) s = .next (s.takeShards ((s.load.shards.filter (fun e => !e.fetched)).zip bs)) :=
      congrArg Host.Outcome.next (if_pos (by simp [hphase]))
    dsimp only
    generalize hdue : s.load.shards.filter (fun e => !e.fetched) = due at hexec
    refine ⟨fun k e hk hbefore ⟨b, hb, hbad⟩ => ⟨_, hexec, ?_⟩, fun hlen hall => ⟨_, hexec, ?_⟩⟩
    · have hz : (due.zip bs)[k]? = some (e, b) := List.getElem?_zip_eq_some.2 ⟨hk, hb⟩
      obtain ⟨hkz, hez⟩ := List.getElem?_eq_some_iff.1 hz
      have hsplit : due.zip bs = (due.zip bs).take k ++ (e, b) :: (due.zip bs).drop (k + 1) := by
        rw [← hez, ← List.drop_eq_getElem_cons, List.take_append_drop]
      have hgood : ∀ x ∈ (due.zip bs).take k, shardMatches x := by
        intro x hx
        obtain ⟨j, hj, rfl⟩ := List.mem_take_iff_getElem.1 hx
        have hjz := List.getElem?_eq_getElem (l := due.zip bs) (i := j) (by omega)
        obtain ⟨hf, hfb⟩ := List.getElem?_zip_eq_some.1 hjz
        exact hbefore j (by omega) _ _ hf hfb
      rw [hsplit, State.takeShards_of_good _ _ _ hgood, State.takeShards, if_pos hbad]
      exact ⟨rfl, rfl, rfl, State.tookAll_tell _ _ _ _⟩
    · have hgood : ∀ x ∈ due.zip bs, shardMatches x := by
        intro x hx
        obtain ⟨j, hj, rfl⟩ := List.mem_iff_getElem.1 hx
        obtain ⟨hf, hfb⟩ := List.getElem?_zip_eq_some.1 (List.getElem?_eq_getElem hj)
        exact hall j _ _ hf hfb
      have htake := State.takeShards_of_good [] (due.zip bs) s hgood
      rw [List.append_nil] at htake
      have hfetched : ((due.zip bs).foldl State.tookShard s).load.shards.all (fun e => e.fetched) := by
        rw [State.tookAll_shards, List.all_eq_true]
        intro g hg
        obtain ⟨f, hf, rfl⟩ := List.mem_map.1 hg
        split
        · rfl
        · next hout =>
          by_contra hnot
          have hfd : f ∈ due := by rw [← hdue]; exact List.mem_filter.2 ⟨hf, by simpa using hnot⟩
          obtain ⟨j, hj, rfl⟩ := List.mem_iff_getElem.1 hfd
          refine hout (List.mem_map.2 ⟨(due[j], bs[j]), ?_, rfl⟩)
          exact List.mem_iff_getElem.2 ⟨j, by rw [List.length_zip]; omega, List.getElem_zip⟩
      rw [htake, State.takeShards, if_pos hfetched]
      exact ⟨rfl, State.tookAll_tell _ _ _ _⟩
  case limit =>
    intro s hphase
    obtain ⟨hall, -, hor⟩ := foldl_min_spec ((s.load.shards.filter (fun e => !e.fetched)).map (fun e => e.index)) 0xFFFFFFFF
    refine ⟨_, _, congrArg Host.Outcome.next (if_pos (by simp [hphase])), rfl, rfl, rfl, fun e he hf => ?_, hor.imp_right fun hin => ?_, rfl⟩
    · exact hall _ (List.mem_map.2 ⟨e, List.mem_filter.2 ⟨he, by simp [hf]⟩, rfl⟩)
    · obtain ⟨e, he, hidx⟩ := List.mem_map.1 hin
      obtain ⟨hmem, hf⟩ := List.mem_filter.1 he
      exact ⟨e, hmem, by simpa using hf, hidx⟩
  case switch =>
    intro s m h
    have hphase {p : LoadPhase} (hp : s.load.phase = p) {t : State} (ht : s.switchTo m (HostMsgField m 0 8) = t) : exec (.switch m) s = .next t :=
      htaken h ht
    refine ⟨fun hp => hphase hp ?_, fun hp => hphase hp ?_, fun hp => hphase hp ?_, fun hp => hphase hp ?_,
      fun hp ⟨k, htop, hk⟩ => hphase hp (State.switchTo_of_started m hp htop hk),
      fun hp htop => ⟨fun ⟨l, hl, hearly⟩ => hphase hp ?_, fun hnone => ?_⟩⟩
    iterate 4 simp only [State.switchTo, hp]
    · rw [State.switchTo_of_free m hp htop]
      exact State.tryFlip_of_early (l := l) (by rwa [State.switching_launches]) hearly
    · have hflip := State.tryFlip_of_none_early (s := s.switching m (HostMsgField m 0 8)) rfl (by rwa [State.switching_launches])
      refine ⟨_, hphase hp ((State.switchTo_of_free m hp htop).trans hflip), ?_, rfl, ?_⟩
      · exact congrArg Bool.not (s.switching_wsel m _)
      · exact (congrArg State.outbox (State.tell_wired (s.switching m (HostMsgField m 0 8)) (s.reply m 0x83 (leBytes 8 (HostMsgField m 0 8))) _ _ _ _ _ _) :)
  case abort =>
    intro s m h
    refine ⟨fun hidle => htaken h (if_pos (by simp [hidle])), fun hbusy => ⟨_, htaken h (if_neg (by simpa using hbusy)), rfl, ?_, rfl, fun a ha => ?_⟩⟩
    · exact (congrArg State.wsel (s.reply_frame m 0x86 []) :)
    · have hwsel : (s.reply m 0x86 []).wsel = s.wsel := (congrArg State.wsel (s.reply_frame m 0x86 []) :)
      have hmem : (s.reply m 0x86 []).mem = s.mem := (congrArg State.mem (s.reply_frame m 0x86 []) :)
      rw [State.dropStaging_read]
      · exact congrArg (Memory.read · a) hmem
      · unfold State.inStaging at ha ⊢
        dsimp only
        rw [hwsel]
        exact ha

end Sys2Proof.Machine
end

section
/-! SUPPORT. The dispatcher, the loader's checks, the allocator, grafts and pre-emption, and the obligation on them (R39, R50 to R55, R59 to R64). -/
namespace Sys2Proof.Machine

/-! ### The head (R51, R52) -/

theorem oldest_mem {ls : List Launch} {l : Launch} (h : oldest ls = some l) : l ∈ ls := by
  induction ls generalizing l with
  | nil => cases h
  | cons k r ih =>
    rw [oldest] at h
    split at h
    · next m hm =>
      split at h
      · next hlt =>
        rw [← Option.some.inj h]
        exact List.mem_cons_of_mem _ (ih hm)
      · rw [← Option.some.inj h]
        exact List.mem_cons_self
    · rw [← Option.some.inj h]
      exact List.mem_cons_self

theorem oldest_isSome {ls : List Launch} (h : ls ≠ []) : (oldest ls).isSome := by
  cases ls with
  | nil => exact absurd rfl h
  | cons l r =>
    unfold oldest
    repeat' split
    all_goals rfl

/-- A fold that keeps one of the elements gives one of them, or what it began with. -/
theorem foldl_some_mem {f : Option Nat → Nat → Nat} (hf : ∀ m n, f m n = n ∨ m = some (f m n)) : ∀ (ns : List Nat) {o : Option Nat} {k : Nat},
    ns.foldl (fun m n => some (f m n)) o = some k → k ∈ ns ∨ o = some k
  | [], _, _, h => .inr h
  | n :: ns, o, k, h => by
    rcases foldl_some_mem hf ns h with hk | hk
    · exact .inl (List.mem_cons_of_mem _ hk)
    · cases hk
      rcases hf o n with hn | ho
      · exact .inl (by rw [hn]; exact List.mem_cons_self)
      · exact .inr ho

theorem foldl_some_isSome {f : Option Nat → Nat → Nat} : ∀ (ns : List Nat) {o : Option Nat}, ns ≠ [] ∨ o.isSome →
    (ns.foldl (fun m n => some (f m n)) o).isSome
  | [], _, h => h.resolve_left (· rfl)
  | _ :: ns, _, _ => foldl_some_isSome ns (.inr rfl)

theorem nextNode_mem {ptr : Option Nat} {ns : List Nat} {n : Nat} (h : nextNode ptr ns = some n) : n ∈ ns := by
  have hlow {ms : List Nat} {k : Nat} (hk : nextNode none ms = some k) : k ∈ ms := by
    refine (foldl_some_mem (fun m n => ?_) ms hk).resolve_right (by simp)
    cases m with
    | none => exact .inl rfl
    | some k => exact (min_choice k n).symm.imp_right fun h => congrArg some h.symm
  cases ptr with
  | none => exact hlow h
  | some p =>
    rcases Option.or_eq_some_iff.1 h with hn | ⟨-, hn⟩
    · exact List.mem_of_mem_filter (hlow hn)
    · exact hlow hn

theorem nextNode_isSome (ptr : Option Nat) {ns : List Nat} (h : ns ≠ []) : (nextNode ptr ns).isSome := by
  have hlow : (nextNode none ns).isSome := foldl_some_isSome ns (.inl h)
  cases ptr with
  | none => exact hlow
  | some p => exact Option.isSome_or.trans (Bool.or_eq_true_iff.2 (.inr hlow))

theorem find?_of_descending {f : Nat → Bool} {p : Nat} : ∀ {l : List Nat}, l.Pairwise (· > ·) → l.find? f = some p → ∀ q ∈ l, f q → q ≤ p
  | a :: l, hl, h, q, hq, hf => by
    obtain ⟨ha, hl⟩ := List.pairwise_cons.1 hl
    rw [List.find?_cons] at h
    split at h
    · cases h
      rcases List.mem_cons.1 hq with rfl | hq
      · exact le_rfl
      · exact (ha q hq).le
    · next hfa =>
      rcases List.mem_cons.1 hq with rfl | hq
      · exact absurd hf (by simp [hfa])
      · exact find?_of_descending hl h q hq hf

theorem Launch.prio_mem (l : Launch) : l.prio ∈ [3, 2, 1, 0] := by
  have h : l.prio < 4 := Nat.mod_lt _ (by decide)
  simp only [List.mem_cons, List.not_mem_nil, or_false]
  omega

theorem State.mem_eligibleAt {s : State} {p : Nat} {l : Launch} : l ∈ s.eligibleAt p ↔ l ∈ s.launches ∧ s.eligible l ∧ l.prio = p := by
  simp [State.eligibleAt]

theorem State.eligibleAt_ne_nil {s : State} {k : Launch} (hk : k ∈ s.launches) (he : s.eligible k) : !(s.eligibleAt k.prio).isEmpty := by
  have hmem : k ∈ s.eligibleAt k.prio := State.mem_eligibleAt.2 ⟨hk, he, rfl⟩
  simpa using List.ne_nil_of_mem hmem

theorem State.le_topPrio {s : State} {p : Nat} (h : s.topPrio = some p) {k : Launch} (hk : k ∈ s.launches) (he : s.eligible k) : k.prio ≤ p :=
  find?_of_descending (by decide) h k.prio k.prio_mem (State.eligibleAt_ne_nil hk he)

theorem State.topPrio_eq_none {s : State} (h : s.topPrio = none) {k : Launch} (hk : k ∈ s.launches) : s.eligible k = false := by
  by_contra he
  exact List.find?_eq_none.1 h k.prio k.prio_mem (State.eligibleAt_ne_nil hk (by simpa using he))

theorem State.chooseHead_of_keeps {s : State} (h : s.keepsHead) : s.chooseHead = s := if_pos h

theorem State.chooseHead_of_none {s : State} (h : s.keepsHead = false) (htop : s.topPrio = none) : s.chooseHead.head = none := by
  simp [State.chooseHead, h, htop]

/-- The head that is chosen is an eligible launch of the highest priority. -/
theorem State.chooseHead_of_top {s : State} {p : Nat} (h : s.keepsHead = false) (htop : s.topPrio = some p) :
    ∃ l ∈ s.eligibleAt p, s.chooseHead.head = some l.lid := by
  have hne : s.eligibleAt p ≠ [] := by
    have hp := List.find?_some htop
    simpa using hp
  simp only [State.chooseHead, h, htop]
  cases hold : oldest ((s.eligibleAt p).filter (fun l => l.preempted)) with
  | some l => exact ⟨l, List.mem_of_mem_filter (oldest_mem hold), rfl⟩
  | none =>
    obtain ⟨n, hn⟩ := Option.isSome_iff_exists.1 (nextNode_isSome (s.ptrAt p) (ns := (s.eligibleAt p).map (fun l => l.node)) (by simpa using hne))
    obtain ⟨k, hk, hkn⟩ := List.mem_map.1 (nextNode_mem hn)
    have hmine : (s.eligibleAt p).filter (fun l => l.node == n) ≠ [] := List.ne_nil_of_mem (List.mem_filter.2 ⟨hk, by simp [hkn]⟩)
    obtain ⟨l, hl⟩ := Option.isSome_iff_exists.1 (oldest_isSome hmine)
    refine ⟨l, List.mem_of_mem_filter (oldest_mem hl), ?_⟩
    simp [hn, hl]

theorem State.headLaunch_spec {s : State} {l : Launch} (h : s.headLaunch = some l) : s.head = some l.lid ∧ s.launch l.lid = some l := by
  obtain ⟨lid, hhead, hl⟩ := Option.bind_eq_some_iff.1 h
  rw [State.launch_lid hl]
  exact ⟨hhead, hl⟩

/-! ### The image checks (R55) -/

/-- The queue of launches and its head. -/
def State.queue (s : State) : List Launch × Option Nat := (s.launches, s.head)

theorem State.eccAt_queue (s : State) (pa : Nat) : (s.eccAt pa).queue = s.queue := by
  unfold State.eccAt State.queue
  repeat' split
  all_goals simp [State.dieTime]

theorem State.virtMeet_queue (s : State) (o : TlbOwner) (asid va n : Nat) (sup : Bool) : (s.virtMeet o asid va n sup).queue = s.queue := by
  unfold State.virtMeet
  split
  · rfl
  · rw [State.askSpan_frame]
    exact foldl_keeps State.queue (fun s (e : Nat × Nat × Bool) => s.eccAt_queue _) _ s

theorem State.imageMeet_queue (s : State) (l : Launch) : (s.imageMeet l).queue = s.queue := by
  unfold State.imageMeet
  dsimp only
  split
  · exact s.virtMeet_queue _ _ _ _ _
  · rw [foldl_keeps State.queue (fun s h => s.virtMeet_queue _ _ _ _ _), State.virtMeet_queue, State.virtMeet_queue]

theorem State.mapLaunch_launch_same {s : State} {lid : Nat} {l : Launch} (h : s.launch lid = some l) {f : Launch → Launch}
    (hf : ∀ l, (f l).record = l.record) : (s.mapLaunch lid f).launch lid = some (f l) := by
  rw [State.mapLaunch_launch _ _ _ hf, h, Option.map_some, if_pos rfl]

/-- A head whose loading fails ends with the record, and is the head no more. -/
theorem State.failLoad_of_head {s t : State} {l : Launch} (hhead : s.headLaunch = some l) (hend : l.ending = none) (ht : t.queue = s.queue) (e : EndRec) :
    (t.failLoad l.lid e).launch l.lid = some { l with ending := some e } ∧ (t.failLoad l.lid e).head = none := by
  obtain ⟨hlaunches, hthead⟩ := Prod.mk.inj ht
  obtain ⟨hh, hl⟩ := State.headLaunch_spec hhead
  constructor
  · refine (t.endWith_launch l.lid e l.lid).trans ?_
    rw [show t.launch l.lid = some l by rw [State.launch, hlaunches]; exact hl]
    simp [hend]
  · exact if_pos (hthead.trans hh)

theorem Launch.waits_ending {l : Launch} (h : l.waits) : l.ending = none := by
  simpa using (Bool.and_eq_true_iff.1 h).2

section
variable {s : State} {l : Launch} (hhead : s.headLaunch = some l) (himage : l.image = none) (hwaits : l.waits)
include hhead himage hwaits

theorem State.checkHead_of_check {c : Nat} (h : s.readImage l = .error (.check c)) :
    s.checkHead = (s.imageMeet l).failLoad l.lid { status := 0x21, detail := c } := by
  simp [State.checkHead, hhead, himage, hwaits, h]

theorem State.checkHead_of_signature (h : s.readImage l = .error .signature) :
    s.checkHead = (s.imageMeet l).failLoad l.lid { status := 0x24, detail := 0 } := by
  simp [State.checkHead, hhead, himage, hwaits, h]

theorem State.checkHead_of_race {a b : Nat} (h : s.readImage l = .error (.race a b)) :
    s.checkHead = (s.imageMeet l).failLoad l.lid { status := 0x21, detail := 9, fchan := a, ford := b } := by
  simp [State.checkHead, hhead, himage, hwaits, h]

theorem State.checkHead_of_noFit {m : Image} {n : Nat} (h : s.readImage l = .ok (m, n)) (hfit : s.noFit l m) :
    s.checkHead = (s.imageMeet l).failLoad l.lid { status := 0x21, detail := 0x0A } := by
  simp [State.checkHead, hhead, himage, hwaits, h, hfit]

theorem State.checkHead_of_fit {m : Image} {n : Nat} (h : s.readImage l = .ok (m, n)) (hfit : s.noFit l m = false) :
    s.checkHead = (s.imageMeet l).mapLaunch l.lid (fun k => { k with image := some m, races := n }) := by
  simp [State.checkHead, hhead, himage, hwaits, h, hfit]

end

/-! ### Placement (R60, R61) -/

theorem Yard.free_iff {y : Yard} {s : State} {d x y0 w h : Nat} : y.free s d x y0 w h ↔
    (x + w ≤ 9 ∧ y0 + h ≤ 9) ∧ (∀ j < h, ∀ i < w, s.exposed d (x + i) (y0 + j))
      ∧ ∀ e ∈ y, e.1.die = d → e.1.x + e.1.w ≤ x ∨ x + w ≤ e.1.x ∨ e.1.y + e.1.h ≤ y0 ∨ y0 + h ≤ e.1.y := by
  simp only [Yard.free, Bool.and_eq_true, decide_eq_true_eq, List.all_eq_true, List.mem_range, Bool.or_eq_true, bne_iff_ne, ne_eq, and_assoc]
  simp only [← imp_iff_not_or]

/-- A place that a die yields is of the page set, on that die, and free. -/
theorem Yard.placeOn_spec {y : Yard} {s : State} {m : Image} {lid p order d : Nat} {q : PsetDecl} {e : Placed}
    (h : y.placeOn s m lid p order d q = some e) : e.lid = lid ∧ e.die = d ∧ y.free s d e.x e.y e.w e.h := by
  unfold Yard.placeOn at h
  split at h
  · cases h
  · split at h
    · cases h
    · split at h
      · next o k ho hk =>
        cases h
        have hfree := List.find?_some ho
        exact ⟨rfl, rfl, hfree⟩
      · cases h

/-- Every page set of a placement is of the launch, on a die that is eligible for it, and free beside what stands there. -/
theorem State.placeFrom_spec {s : State} {l : Launch} {m : Image} {busy : List Nat} : ∀ {qs : List (PsetDecl × Nat)} {y : Yard} {ps : List Placed},
    s.placeFrom l m busy qs y = some ps → ps.length = qs.length ∧ ∀ p ∈ ps, p.lid = l.lid ∧ (∃ q, p.die ∈ s.diesFor l q busy)
      ∧ y.free s p.die p.x p.y p.w p.h
  | [], y, ps, h => by
    cases h
    exact ⟨rfl, fun p hp => absurd hp List.not_mem_nil⟩
  | (q, k) :: qs, y, ps, h => by
    rw [State.placeFrom] at h
    split at h
    · cases h
    · next e he =>
      obtain ⟨rest, hrest, rfl⟩ := Option.map_eq_some_iff.1 h
      obtain ⟨hlen, hall⟩ := State.placeFrom_spec hrest
      obtain ⟨d, hd, hplace⟩ := List.exists_of_findSome?_eq_some he
      obtain ⟨hlid, hdie, hfree⟩ := Yard.placeOn_spec hplace
      refine ⟨by simp [hlen], fun p hp => ?_⟩
      rcases List.mem_cons.1 hp with rfl | hp
      · exact ⟨hlid, ⟨q, hdie ▸ hd⟩, hdie ▸ hfree⟩
      · obtain ⟨hplid, hpdie, hpfree⟩ := hall p hp
        obtain ⟨hin, hexp, happart⟩ := Yard.free_iff.1 hpfree
        exact ⟨hplid, hpdie, Yard.free_iff.2 ⟨hin, hexp, fun e he => happart e (List.mem_append_left _ he)⟩⟩

theorem State.mem_diesFor {s : State} {l : Launch} {q : PsetDecl} {busy : List Nat} {d : Nat} (h : d ∈ s.diesFor l q busy) :
    d < 8 ∧ l.aff.testBit d ∧ (s.die d).online := by
  obtain ⟨hd, hcond⟩ := List.mem_filter.1 h
  simp only [Bool.and_eq_true] at hcond
  obtain ⟨⟨⟨haff, hon⟩, -⟩, -⟩ := hcond
  exact ⟨List.mem_range.1 hd, haff, hon⟩

theorem State.mem_yard {s : State} {q : Placed} {m : Image} (hq : q ∈ s.placed) (hm : s.imageOf q.lid = some m) : (q, m) ∈ s.yard :=
  List.mem_filterMap.2 ⟨q, hq, by rw [hm]; rfl⟩

theorem State.placing_spec {s : State} {l : Launch} {m : Image} (h : s.placing = some (l, m)) : s.headLaunch = some l ∧ l.waits := by
  unfold State.placing at h
  split at h
  · next k hk =>
    split at h
    · next hcond =>
      obtain ⟨m', -, heq⟩ := Option.map_eq_some_iff.1 h
      cases heq
      exact ⟨hk, (Bool.and_eq_true_iff.1 hcond).1⟩
    · cases h
  · cases h

/-- What stands placed once a head has been placed: the page sets as they were found, with what a later fault needs to know of them. -/
def State.placedWith (s : State) (l : Launch) (ps : List Placed) : List Placed :=
  ps.map (fun p => { p with
    started := s.dormants.any (fun d => d.lid == l.lid && d.pset == p.pset && d.started), sinceStart := s.older.length })

theorem State.placeHead_of_none {s : State} {l : Launch} {m : Image} (hp : s.placing = some (l, m)) (h : s.placeAll s.yard l m s.busyDies = none) :
    s.placeHead = s := by
  simp [State.placeHead, hp, h]

theorem State.placeHead_of_some {s : State} {l : Launch} {m : Image} {ps : List Placed} (hp : s.placing = some (l, m))
    (h : s.placeAll s.yard l m s.busyDies = some ps) : s.placeHead =
      ({ s with
          placed := s.placed ++ s.placedWith l ps, orders := s.orders + 1
          load := { s.load with topStart := some (max l.stamp (s.load.topStart.getD 0)) } } : State).mapLaunch l.lid
        (fun l => { l with phase := .loading, placedOnce := true, preempted := false }) := by
  simp only [State.placeHead, hp, h]
  rfl

/-! ### The configuration loader (R59) -/

theorem State.loadImage_keeps (s : State) (l : Launch) (m : Image) :
    ((s.loadImage l m).launches, (s.loadImage l m).orders, (s.loadImage l m).head, (s.loadImage l m).chans, (s.loadImage l m).elems, (s.loadImage l m).mem)
      = (s.launches, s.orders, s.head, s.chans ++ m.links.map (LinkDecl.toChan l.lid), s.elems ++ m.elems.map (m.toElem l.lid), s.mem) := by
  unfold State.loadImage
  dsimp only
  refine (foldl_keeps (fun s : State => (s.launches, s.orders, s.head, s.chans, s.elems, s.mem)) (fun s e => ?_) _ _).trans
    (foldl_keeps (fun s : State => (s.launches, s.orders, s.head, s.chans, s.elems, s.mem)) (fun s p => ?_) _ _)
  · simp
  · rfl

theorem State.markSinks_keeps (s : State) (lid : Nat) (m : Image) :
    ((s.markSinks lid m).launches, (s.markSinks lid m).orders, (s.markSinks lid m).head, (s.markSinks lid m).chans, (s.markSinks lid m).elems,
      (s.markSinks lid m).mem) = (s.launches, s.orders, s.head, s.chans, s.elems, s.mem) := by
  unfold State.markSinks
  dsimp only
  refine (foldl_keeps (fun s : State => (s.launches, s.orders, s.head, s.chans, s.elems, s.mem)) (fun s k => ?_) _ _).trans rfl
  split <;> rfl

/-- A head whose words are legal is loaded and runs. -/
theorem State.configured_spec {s : State} {l : Launch} {m : Image} (hhead : s.headLaunch = some l) {t : State}
    (ht : t = ((s.loadImage l m).markSinks l.lid m).begins l.lid) :
    t.launch l.lid = some { l with phase := .running, startOrder := s.orders } ∧ t.head = none
      ∧ t.chans = s.chans ++ m.links.map (LinkDecl.toChan l.lid) ∧ t.elems = s.elems ++ m.elems.map (m.toElem l.lid) ∧ t.mem = s.mem := by
  have hkeeps := ((s.loadImage l m).markSinks_keeps l.lid m).trans (s.loadImage_keeps l m)
  generalize (s.loadImage l m).markSinks l.lid m = u at hkeeps ht
  simp only [Prod.mk.injEq] at hkeeps
  obtain ⟨hlaunches, horders, hh, hchans, helems, hmem⟩ := hkeeps
  obtain ⟨hhead, hl⟩ := State.headLaunch_spec hhead
  subst ht
  refine ⟨?_, if_pos (hh.trans hhead), hchans, helems, hmem⟩
  rw [← horders]
  have hul : u.launch l.lid = some l := (congrArg (List.find? _) hlaunches).trans hl
  exact State.mapLaunch_launch_same (s := { u with orders := u.orders + 1, head := if u.head = some l.lid then none else u.head }) hul
    (f := fun l => { l with phase := .running, startOrder := u.orders }) (fun _ => rfl)

/-! ### Grafts (R209) and pre-emption (R64) -/

/-- An update of a page set's place that keeps whose place it is is found under the same name. -/
theorem State.mapPlace_place {s : State} {lid pset : Nat} {p : Placed} (h : s.place lid pset = some p) {f : Placed → Placed}
    (hf : ∀ p, (f p).lid = p.lid ∧ (f p).pset = p.pset) : (s.mapPlace lid pset f).place lid pset = some (f p) := by
  have hp : ((fun p : Placed => p.lid == lid && p.pset == pset) ∘ fun p => if p.lid = lid ∧ p.pset = pset then f p else p) =
      fun p => p.lid == lid && p.pset == pset := by
    funext p
    rw [Function.comp_apply]
    split <;> simp [hf]
  have hnamed : p.lid = lid ∧ p.pset = pset := by simpa using List.find?_some h
  rw [State.place, State.mapPlace, List.find?_map, hp, show List.find? _ s.placed = some p from h, Option.map_some, if_pos hnamed]

theorem firstVictim_isSome (l : Launch) (r : List Launch) : (firstVictim (l :: r)).isSome := by
  rw [firstVictim]
  repeat' split
  all_goals rfl

theorem firstVictim_spec {ls : List Launch} {k : Launch} (h : firstVictim ls = some k) :
    k ∈ ls ∧ ∀ j ∈ ls, k.prio ≤ j.prio ∧ (j.prio = k.prio → j.startOrder ≤ k.startOrder) := by
  induction ls generalizing k with
  | nil => exact absurd h (by simp [firstVictim])
  | cons l r ih =>
    rw [firstVictim] at h
    split at h
    · next m hm =>
      obtain ⟨hmem, hall⟩ := ih hm
      have hbefore : m.victimBefore l ↔ m.prio < l.prio ∨ m.prio = l.prio ∧ l.startOrder < m.startOrder := decide_eq_true_iff
      split at h
      · next hb =>
        rw [← Option.some.inj h]
        refine ⟨List.mem_cons_of_mem _ hmem, List.forall_mem_cons.2 ⟨?_, hall⟩⟩
        have hml := hbefore.1 hb
        omega
      · next hb =>
        rw [← Option.some.inj h]
        refine ⟨List.mem_cons_self, List.forall_mem_cons.2 ⟨⟨le_rfl, fun _ => le_rfl⟩, fun j hj => ?_⟩⟩
        obtain ⟨hle, hlast⟩ := hall j hj
        have hlm := mt hbefore.2 hb
        omega
    · next hm =>
      rw [← Option.some.inj h]
      cases r with
      | nil => exact ⟨List.mem_cons_self, List.forall_mem_cons.2 ⟨⟨le_rfl, fun _ => le_rfl⟩, fun j hj => absurd hj List.not_mem_nil⟩⟩
      | cons a r =>
        have hsome := firstVictim_isSome a r
        rw [hm] at hsome
        cases hsome

theorem State.mem_victims {s : State} {l k : Launch} (h : k ∈ s.victims l) : k ∈ s.launches ∧ k.phase = .running ∧ k.prio < l.prio := by
  obtain ⟨hmem, hcond⟩ := List.mem_filter.1 h
  simp only [Bool.and_eq_true, beq_iff_eq, decide_eq_true_eq] at hcond
  obtain ⟨⟨⟨hphase, -⟩, hprio⟩, -⟩ := hcond
  exact ⟨hmem, hphase, hprio⟩

/-- A page set that stands copied, at its new origin and not yet running there. -/
def State.grafted (s : State) (g : Graft) (p : Placed) : State :=
  let k : Nat := ((s.movedTo p (g.x, g.y)).map (fun q => q.mdie)).getD p.mdie
  let t : State := s.mapPlace g.lid g.pset (fun p => { p with x := g.x, y := g.y, mdie := k, graftedAt := some s.clock })
  (({ t with grafts := t.grafts.filter (fun h => decide (h ≠ g)) } : State).seatNodes g.lid g.pset k).wakeRegion g.lid g.pset

theorem State.grafted_head (s : State) (g : Graft) (p : Placed) : (s.grafted g p).head = s.head := by
  dsimp only [State.grafted, State.wakeRegion, State.seatNodes, State.mapPlace]

theorem State.grafted_grafts (s : State) (g : Graft) (p : Placed) : (s.grafted g p).grafts = s.grafts.filter (fun h => h ≠ g) := by
  dsimp only [State.grafted, State.wakeRegion, State.seatNodes, State.mapPlace]

theorem State.resumeGraft_eq {s : State} {g : Graft} {p : Placed}
    (hg : s.grafts.find? (fun g => !s.isCut g.lid g.pset && s.launchRuns g.lid) = some g) (hp : s.place g.lid g.pset = some p)
    (hend : s.ended g.lid = false) (hclean : s.reservedRead = s) :
    s.resumeGraft = if s.head = some g.head then (s.grafted g p).placeHead else s.grafted g p := by
  have hstep : s.resumeGraft = if s.reservedRead.ended g.lid then s.reservedRead else
      if (s.reservedRead.grafted g p).head = some g.head then (s.reservedRead.grafted g p).placeHead else s.reservedRead.grafted g p := by
    unfold State.resumeGraft
    split
    · next hnone => rw [hg] at hnone; cases hnone
    · next g' hg' =>
      cases hg.symm.trans hg'
      split
      · next hnone => rw [hp] at hnone; cases hnone
      · next p' hp' =>
        cases hp.symm.trans hp'
        rfl
  rw [hstep, hclean, hend, State.grafted_head]
  rfl

theorem State.grafted_place {s : State} {g : Graft} {p : Placed} (hp : s.place g.lid g.pset = some p) : (s.grafted g p).place g.lid g.pset =
    some { p with
      x := g.x, y := g.y, mdie := ((s.movedTo p (g.x, g.y)).map (fun q => q.mdie)).getD p.mdie, graftedAt := some s.clock, quiesced := false } := by
  have hmoved := State.mapPlace_place hp
    (f := fun q => { q with
      x := g.x, y := g.y, mdie := ((s.movedTo p (g.x, g.y)).map (fun q => q.mdie)).getD p.mdie, graftedAt := some s.clock }) (fun _ => ⟨rfl, rfl⟩)
  exact State.mapPlace_place hmoved (f := fun q => { q with quiesced := false }) (fun _ => ⟨rfl, rfl⟩)

/-! ### The obligation -/

/-- Settles O49: the head, the image checks, the placement, the loader, grafts and pre-emption. How long a head keeps its place and where a rejected
word is blamed are the model's choices (logs 63 and 71), as is the order in which a graft looks at the page sets of one launch (log 100). -/
theorem headAndPlacement : Obligations.HeadAndPlacement := by
  refine ⟨?head, ?checks, ?place, ?load, ?graft, ?resume, ?preempt⟩
  case head =>
    intro s hlive
    have hexec : exec .dispatcherHeadChoice s = .next ({ s with clock := s.clock + 1 } : State).chooseHead := congrArg Host.Outcome.next (if_pos hlive)
    refine ⟨_, hexec, State.chooseHead_frame _, fun hkeeps => ?_, fun hnot => ?_⟩
    · rw [State.chooseHead_of_keeps (s := { s with clock := s.clock + 1 }) hkeeps]
    · have hnot' : ({ s with clock := s.clock + 1 } : State).keepsHead = false := hnot
      cases htop : ({ s with clock := s.clock + 1 } : State).topPrio with
      | none =>
        rw [State.chooseHead_of_none hnot' htop]
        exact ⟨⟨fun _ l hl => State.topPrio_eq_none htop hl, fun _ => rfl⟩, fun lid h => by cases h⟩
      | some p =>
        obtain ⟨l, hl, hhead⟩ := State.chooseHead_of_top hnot' htop
        obtain ⟨hmem, helig, hprio⟩ := State.mem_eligibleAt.1 hl
        rw [hhead]
        refine ⟨⟨fun h => (by cases h), fun h => ?_⟩, fun lid hlid => ⟨l, hmem, Option.some.inj hlid, helig, fun k hk he => ?_⟩⟩
        · exact absurd (h l hmem) (by rw [show s.eligible l = true from helig]; decide)
        · rw [hprio]
          exact State.le_topPrio htop hk he
  case checks =>
    intro s l hhead himage hwaits
    have hfailed {e : EndRec} (h : s.checkHead = (s.imageMeet l).failLoad l.lid e) :
        ∃ t, exec .imageChecks s = .next t ∧ t.launch l.lid = some { l with ending := some e } ∧ t.head = none :=
      ⟨_, congrArg Host.Outcome.next h, State.failLoad_of_head hhead (Launch.waits_ending hwaits) (s.imageMeet_queue l) e⟩
    exact ⟨fun c h => hfailed (State.checkHead_of_check hhead himage hwaits h), fun h => hfailed (State.checkHead_of_signature hhead himage hwaits h),
      fun a b h => hfailed (State.checkHead_of_race hhead himage hwaits h), fun m n h hfit => hfailed (State.checkHead_of_noFit hhead himage hwaits h hfit),
      fun m n h hfit => congrArg Host.Outcome.next (State.checkHead_of_fit hhead himage hwaits h hfit)⟩
  case place =>
    intro s l m hp
    obtain ⟨hhead, -⟩ := State.placing_spec hp
    obtain ⟨-, hl⟩ := State.headLaunch_spec hhead
    refine ⟨fun h => congrArg Host.Outcome.next (State.placeHead_of_none hp h),
      fun ps h => ⟨_, congrArg Host.Outcome.next (State.placeHead_of_some hp h), ?_, ?_, fun p hin hnew => ?_⟩⟩
    · exact State.mapLaunch_launch_same (s := { s with
          placed := s.placed ++ s.placedWith l ps, orders := s.orders + 1
          load := { s.load with topStart := some (max l.stamp (s.load.topStart.getD 0)) } }) hl
        (f := fun l => { l with phase := .loading, placedOnce := true, preempted := false }) (fun _ => rfl)
    · obtain ⟨hlen, -⟩ := State.placeFrom_spec h
      change (s.placed ++ s.placedWith l ps).length = _
      rw [List.length_append, State.placedWith, List.length_map, hlen, List.length_zipIdx]
    · obtain ⟨q, hq, rfl⟩ := List.mem_map.1 ((List.mem_append.1 hin).resolve_left hnew)
      obtain ⟨hlid, ⟨decl, hdie⟩, hfree⟩ := (State.placeFrom_spec h).2 q hq
      obtain ⟨hlt, haff, honline⟩ := State.mem_diesFor hdie
      obtain ⟨⟨hx, hy⟩, hexp, happart⟩ := Yard.free_iff.1 hfree
      refine ⟨hlid, haff, hlt, honline, hx, hy, hexp, fun o ho himage hsame => ?_⟩
      obtain ⟨mo, hmo⟩ := Option.ne_none_iff_exists'.1 himage
      exact happart (o, mo) (State.mem_yard ho hmo) hsame
  case load =>
    intro s l m hhead hphase hend hdormant himage
    refine ⟨fun hok => ?_, fun d row col hbad => ?_⟩
    · have hconf : s.configure = ((s.loadImage l m).markSinks l.lid m).begins l.lid := by
        simp [State.configure, hhead, hphase, hend, hdormant, himage, hok]
      exact ⟨_, congrArg Host.Outcome.next hconf, State.configured_spec hhead rfl⟩
    · have hconf : s.configure = (s.failLoad l.lid { status := 0x21, detail := 0x0B, die := d, plotx := col, ploty := row }).unplace l.lid := by
        simp [State.configure, hhead, hphase, hend, hdormant, himage, hbad]
      obtain ⟨hlaunch, hnone⟩ := State.failLoad_of_head (t := s) hhead hend rfl { status := 0x21, detail := 0x0B, die := d, plotx := col, ploty := row }
      refine ⟨_, congrArg Host.Outcome.next hconf, hnone, hlaunch, ?_, rfl, rfl⟩
      exact List.filter_congr fun p _ => by simp [bne, beq_eq_decide]
  case graft =>
    intro s l m q hp hseeks hplan
    refine congrArg Host.Outcome.next ?_
    simp only [State.startGraft, hp, hseeks, hplan]
    rfl
  case resume =>
    intro s g p hg hp hend hclean
    exact ⟨s.grafted g p, ((s.movedTo p (g.x, g.y)).map (fun q => q.mdie)).getD p.mdie,
      congrArg Host.Outcome.next (State.resumeGraft_eq hg hp hend (State.reservedRead_of_clean hclean)),
      s.grafted_grafts g p, State.grafted_place hp, s.grafted_head g p⟩
  case preempt =>
    intro s l m k hp hseeks hplan hcuts hfirst
    obtain ⟨hmem, hall⟩ := firstVictim_spec hfirst
    obtain ⟨hk, hphase, hprio⟩ := State.mem_victims hmem
    have hnone : s.cuts.any (fun c => decide (c.why = .preempt)) = false := by simpa using hcuts
    refine ⟨congrArg Host.Outcome.next ?_, hk, hphase, hprio, hall⟩
    simp [State.preempt, hp, hseeks, hplan, hnone, hfirst]

end Sys2Proof.Machine
end

section
/-! SUPPORT. Groups, graph nodes and the sequencers that serve them (R66 to R69, R77). -/
namespace Sys2Proof.Machine

/-! ### Tables whose entries keep their names -/

theorem find?_map_of_keeps {α : Type} {p : α → Bool} {f : α → α} (h : ∀ x, p (f x) = p x) (l : List α) : (l.map f).find? p = (l.find? p).map f := by
  rw [List.find?_map, show p ∘ f = p from funext h]

theorem setAt_getD_of_ne {α : Type} {i k : Nat} (h : k ≠ i) (l : List α) (f : α → α) (d : α) : (setAt l i f).getD k d = l.getD k d := by
  rw [List.getD_eq_getElem?_getD, List.getD_eq_getElem?_getD, setAt_getElem?]
  simp [h]

theorem setAt_getD_same {α : Type} {i : Nat} {l : List α} (h : i < l.length) (f : α → α) (d : α) : (setAt l i f).getD i d = f (l.getD i d) := by
  rw [List.getD_eq_getElem?_getD, List.getD_eq_getElem?_getD, setAt_getElem?, List.getElem?_eq_getElem h]
  simp

theorem getD_mem_of_lt {α : Type} {l : List α} {k : Nat} {d x : α} (hk : k < l.length) (h : l.getD k d = x) : x ∈ l := by
  rw [List.getD_eq_getElem?_getD, List.getElem?_eq_getElem hk, Option.getD_some] at h
  exact h ▸ List.getElem_mem hk

/-! ### The graph of a launch, and what it depends on -/

theorem State.gnode_of_same {s t : State} (h : t.launches = s.launches) (lid node : Nat) : t.gnode lid node = s.gnode lid node := by
  simp only [State.gnode, State.imageOf, State.launch, h]

theorem State.gnodeDie_of_same {s t : State} (h : t.launches = s.launches) (hp : t.placed = s.placed) (lid node : Nat) :
    t.gnodeDie lid node = s.gnodeDie lid node := by
  simp only [State.gnodeDie, State.gnode_of_same h, State.dieOfPset, State.place, hp]

/-- An update of a launch that keeps its record and its image leaves its graph as it was. -/
theorem State.mapLaunch_gnode (s : State) (n : Nat) {f : Launch → Launch} (hrec : ∀ l, (f l).record = l.record) (himg : ∀ l, (f l).image = l.image)
    (lid node : Nat) : (s.mapLaunch n f).gnode lid node = s.gnode lid node := by
  rw [State.gnode, State.imageOf, State.mapLaunch_launch s n f hrec, State.gnode, State.imageOf]
  cases s.launch lid with
  | none => rfl
  | some l =>
    rw [Option.map_some, Option.bind_some, Option.bind_some]
    split
    · rw [himg]
    · rfl

theorem State.mapLaunch_gnodeDie (s : State) (n : Nat) {f : Launch → Launch} (hrec : ∀ l, (f l).record = l.record) (himg : ∀ l, (f l).image = l.image)
    (lid node : Nat) : (s.mapLaunch n f).gnodeDie lid node = s.gnodeDie lid node := by
  rw [State.gnodeDie, State.mapLaunch_gnode s n hrec himg]
  rfl

theorem State.launchRuns_spec {s : State} {lid : Nat} {l : Launch} (hl : s.launch lid = some l) (h : s.launchRuns lid) :
    l.phase = .running ∧ l.ending = none := by
  rw [State.launchRuns, hl] at h
  simpa using h

/-! ### Ready lists (R68) -/

theorem State.setSeq_seqAt (s : State) {d : Nat} (hd : d < 8) (q : GraphSeq) (e : Nat) : (s.setSeq d q).seqAt e = if e = d then q else s.seqAt e := by
  unfold State.seqAt State.setSeq
  rw [dif_pos hd]
  by_cases he : e < 8
  · simp only [he, dif_pos, Vector.getElem_set, eq_comm]
  · rw [dif_neg he, dif_neg he, if_neg (by omega)]

theorem State.setSeq_seqAt_same (s : State) {d : Nat} (hd : d < 8) (q : GraphSeq) : (s.setSeq d q).seqAt d = q := by
  rw [State.setSeq_seqAt s hd, if_pos rfl]

theorem State.setSeq_gnode (s : State) (d : Nat) (q : GraphSeq) (lid node : Nat) : (s.setSeq d q).gnode lid node = s.gnode lid node :=
  State.gnode_of_same (s.setSeq_launches d q) lid node

@[simp] theorem State.makeReady_launches (s : State) (lid group node : Nat) : (s.makeReady lid group node).launches = s.launches := State.setSeq_launches ..
@[simp] theorem State.makeReady_placed (s : State) (lid group node : Nat) : (s.makeReady lid group node).placed = s.placed := State.setSeq_placed ..
@[simp] theorem State.makeReady_armings (s : State) (lid group node : Nat) : (s.makeReady lid group node).armings = s.armings := State.setSeq_armings ..
@[simp] theorem State.makeReady_cores (s : State) (lid group node : Nat) : (s.makeReady lid group node).cores = s.cores := State.setSeq_cores ..

theorem State.mem_ready_makeReady {s : State} {lid group node : Nat} (h : s.gnodeDie lid node < 8) :
    (lid, group, node) ∈ ((s.makeReady lid group node).seqAt (s.gnodeDie lid node)).ready := by
  rw [State.makeReady, State.setSeq_seqAt_same s h]
  exact List.mem_append_right _ List.mem_cons_self

/-- What waits in a ready list still waits when another node joins one. -/
theorem State.mem_ready_makeReady_of_mem {s : State} {d lid group node : Nat} {x : Nat × Nat × Nat} (h : x ∈ (s.seqAt d).ready) :
    x ∈ ((s.makeReady lid group node).seqAt d).ready := by
  by_cases hd : s.gnodeDie lid node < 8
  · rw [State.makeReady, State.setSeq_seqAt s hd]
    split
    · next he => exact List.mem_append_left _ (he ▸ h)
    · exact h
  · rw [State.makeReady, State.setSeq, dif_neg hd]
    exact h

theorem State.mem_ready_foldl_of_mem {lid group d : Nat} {x : Nat × Nat × Nat} (es : List (GNode × Nat)) {s : State} (h : x ∈ (s.seqAt d).ready) :
    x ∈ ((es.foldl (fun s e => s.makeReady lid group e.2) s).seqAt d).ready := by
  induction es generalizing s with
  | nil => exact h
  | cons e es ih => exact ih (State.mem_ready_makeReady_of_mem h)

/-- Every node of a list that is made ready waits in the list of its die. -/
theorem State.mem_ready_foldl_makeReady {lid group d n : Nat} (hd : d < 8) {es : List (GNode × Nat)} {s : State} (hn : n ∈ es.map (fun e => e.2))
    (hdie : s.gnodeDie lid n = d) : (lid, group, n) ∈ ((es.foldl (fun s e => s.makeReady lid group e.2) s).seqAt d).ready := by
  induction es generalizing s with
  | nil => exact absurd hn List.not_mem_nil
  | cons e es ih =>
    rw [List.foldl_cons]
    rcases List.mem_cons.1 hn with rfl | hlater
    · subst hdie
      exact State.mem_ready_foldl_of_mem es (State.mem_ready_makeReady hd)
    · refine ih hlater ?_
      rw [State.gnodeDie_of_same (s.makeReady_launches _ _ _) (s.makeReady_placed _ _ _), hdie]

/-! ### Groups (R66) -/

theorem State.groupAt_updGroup (s : State) (lid group : Nat) {f : GroupRun → GroupRun} (hf : ∀ r, (f r).idx = r.idx) :
    (s.updGroup lid group f).groupAt lid group = (s.groupAt lid group).map f := by
  rw [State.groupAt, State.updGroup, State.mapLaunch_launch s lid (fun l => { l with groups := l.groups.map (fun g => if g.idx = group then f g else g) })
    (fun _ => rfl), State.groupAt]
  cases s.launch lid with
  | none => rfl
  | some l =>
    rw [Option.map_some, if_pos rfl, Option.bind_some, Option.bind_some]
    have hkeeps : ∀ r : GroupRun, ((if r.idx = group then f r else r).idx == group) = (r.idx == group) := by
      intro r
      split <;> simp [hf]
    refine (find?_map_of_keeps hkeeps l.groups).trans ?_
    cases hr : l.groups.find? (fun r => r.idx == group) with
    | none => rfl
    | some r => rw [Option.map_some, Option.map_some, if_pos (by simpa using List.find?_some hr)]

theorem State.groupAt_of_same {s t : State} (h : t.launches = s.launches) (lid group : Nat) : t.groupAt lid group = s.groupAt lid group := by
  simp only [State.groupAt, State.launch, h]

theorem State.closeGroup_of_unfinished {s : State} {lid group : Nat} {r : GroupRun} (hr : s.groupAt lid group = some r) (h : false ∈ r.finished) :
    s.closeGroup lid group = s := by
  have hall : r.finished.all (fun b => b) = false := List.all_eq_false.2 ⟨false, h, by decide⟩
  simp [State.closeGroup, hr, hall]

/-- A group as it starts. -/
def GroupRun.start (g : Nat) (nodes : List GNode) : GroupRun := { idx := g, counters := nodes.map (fun n => n.deps), finished := nodes.map (fun _ => false) }

/-- A launch whose next group has started. -/
def Launch.opened (l : Launch) (g : Nat) (nodes : List GNode) : Launch := { l with nextGroup := g + 1, groups := l.groups ++ [GroupRun.start g nodes] }

/-- The graph of a launch. -/
def Launch.nodes (l : Launch) : List GNode := (l.image.map (fun i => i.graph)).getD []

/-- The state in which a group that has started is closed at once where its graph has no nodes. -/
def State.opened (s : State) (lid g : Nat) (nodes : List GNode) : State :=
  (nodes.zipIdx.filter (fun (e : GNode × Nat) => e.1.deps == 0)).foldl (fun s (e : GNode × Nat) => s.makeReady lid g e.2)
    (s.mapLaunch lid (fun l => l.opened g nodes))

section
variable {s : State} {lid : Nat} {l : Launch} (hl : s.launch lid = some l)
include hl

theorem State.startGroup_eq (hruns : s.launchRuns lid) (hnext : l.nextGroup < l.gcount) (htwo : l.groups.length < 2) :
    s.startGroup lid = (s.opened lid l.nextGroup l.nodes).closeGroup lid l.nextGroup := by
  simp only [State.startGroup, hl, hruns]
  exact if_neg (by simp; omega)

theorem State.opened_launch (g : Nat) (nodes : List GNode) : (s.opened lid g nodes).launch lid = some (l.opened g nodes) := by
  have hsame : (s.opened lid g nodes).launches = (s.mapLaunch lid (fun l => l.opened g nodes)).launches :=
    foldl_keeps State.launches (fun s _ => s.makeReady_launches _ _ _) _ _
  rw [State.launch, hsame]
  exact State.mapLaunch_launch_same hl (fun _ => rfl)

theorem State.opened_groupAt {g : Nat} (hnew : ∀ r ∈ l.groups, r.idx ≠ g) (nodes : List GNode) :
    (s.opened lid g nodes).groupAt lid g = some (GroupRun.start g nodes) := by
  rw [State.groupAt, State.opened_launch hl, Option.bind_some, Launch.opened, List.find?_append,
    List.find?_eq_none.2 (fun r hr => by simpa using hnew r hr)]
  simp [GroupRun.start]

end

theorem State.opened_cores (s : State) (lid g : Nat) (nodes : List GNode) : (s.opened lid g nodes).cores = s.cores :=
  foldl_keeps State.cores (fun s _ => s.makeReady_cores _ _ _) _ _

theorem State.raising_of_same {s t : State} (h : t.cores = s.cores) (lid : Nat) : t.raising lid = s.raising lid := by
  simp only [State.raising, h]

/-- A free node of a group that starts waits in the ready list of its die. -/
theorem State.opened_ready (s : State) {lid g n : Nat} {nodes : List GNode} {node : GNode} (hn : nodes[n]? = some node) (hfree : node.deps = 0)
    (hd : s.gnodeDie lid n < 8) : (lid, g, n) ∈ ((s.opened lid g nodes).seqAt (s.gnodeDie lid n)).ready := by
  refine State.mem_ready_foldl_makeReady hd ?_ (s.mapLaunch_gnodeDie lid (f := fun l => l.opened g nodes) (fun _ => rfl) (fun _ => rfl) lid n)
  exact List.mem_map.2 ⟨(node, n), List.mem_filter.2 ⟨List.mem_zipIdx_iff_getElem?.2 hn, by simp [hfree]⟩, rfl⟩

/-- A launch one of whose groups is done. -/
def Launch.groupDone (l : Launch) (g : Nat) : Launch := { l with gdone := l.gdone + 1, groups := l.groups.filter (fun r => r.idx != g) }

/-- The group of a graph without nodes is done at once, and the launch with it where it was the last. -/
theorem State.closeGroup_opened_of_empty {s : State} {lid : Nat} {l : Launch} (hl : s.launch lid = some l) (hend : l.ending = none)
    (hnew : ∀ r ∈ l.groups, r.idx ≠ l.nextGroup) : ∃ k, ((s.opened lid l.nextGroup []).closeGroup lid l.nextGroup).launch lid = some k
      ∧ k.nextGroup = l.nextGroup + 1 ∧ k.groups = l.groups ∧ k.gdone = l.gdone + 1
      ∧ (l.groups = [] → l.gcount ≤ l.nextGroup + 1 → s.raising lid = false → k.ending = some { status := 0, detail := 0 }) := by
  have hclose : (s.opened lid l.nextGroup []).closeGroup lid l.nextGroup =
      ((s.opened lid l.nextGroup []).mapLaunch lid (fun k => k.groupDone l.nextGroup)).closeLaunch lid := by
    simp only [State.closeGroup, State.opened_groupAt hl hnew]
    rfl
  have hgroups : (l.opened l.nextGroup []).groups.filter (fun r => r.idx != l.nextGroup) = l.groups := by
    rw [Launch.opened, List.filter_append, List.filter_eq_self.2 (fun r hr => by simpa using hnew r hr)]
    simp [GroupRun.start]
  have hmapped := State.mapLaunch_launch_same (State.opened_launch hl l.nextGroup []) (f := fun k => k.groupDone l.nextGroup) (fun _ => rfl)
  have hkeeps : (l.opened l.nextGroup []).groupDone l.nextGroup = { (l.opened l.nextGroup []) with gdone := l.gdone + 1, groups := l.groups } := by
    rw [← hgroups]
    rfl
  rw [hkeeps] at hmapped
  rw [hclose, State.closeLaunch, hmapped]
  dsimp only
  split
  · refine ⟨_, (State.endWith_launch _ _ _ _).trans (by rw [hmapped, Option.map_some, if_pos rfl]), ?_⟩
    rw [if_pos (show (l.opened l.nextGroup []).ending.isNone from by rw [Launch.opened, hend]; rfl)]
    exact ⟨rfl, rfl, rfl, fun _ _ _ => rfl⟩
  · next hopen =>
    refine ⟨_, hmapped, rfl, rfl, rfl, fun hempty hlast hraise => absurd ?_ hopen⟩
    have hquiet : ((s.opened lid l.nextGroup []).mapLaunch lid (fun k => k.groupDone l.nextGroup)).raising lid = false :=
      (State.raising_of_same (s.opened_cores lid l.nextGroup []) lid).trans hraise
    rw [hquiet, hempty]
    simp [Launch.opened, hlast]

/-! ### A node that is done (R68) -/

/-- The counter of a successor falls; it is made ready when it comes to 0. -/
def State.fallDue (lid group : Nat) (s : State) (n : Nat) : State :=
  let s := s.updGroup lid group (fun g => { g with counters := setAt g.counters n (fun c => c - 1) })
  if ((s.groupAt lid group).map (fun g => g.counters.getD n 1)) = some 0 then s.makeReady lid group n else s

theorem State.nodeDone_eq (s : State) (lid group node : Nat) : s.nodeDone lid group node =
    ((((s.gnode lid node).map (fun g => g.succ)).getD []).foldl (State.fallDue lid group)
      (s.updGroup lid group (fun g => { g with finished := setAt g.finished node (fun _ => true) }))).closeGroup lid group := by
  have hsame := s.mapLaunch_gnode lid (f := fun l => { l with groups := l.groups.map (fun g =>
    if g.idx = group then { g with finished := setAt g.finished node (fun _ => true) } else g) }) (fun _ => rfl) (fun _ => rfl) lid node
  rw [← hsame]
  rfl

theorem State.fallDue_armings (lid group : Nat) (s : State) (n : Nat) : (s.fallDue lid group n).armings = s.armings := by
  unfold State.fallDue
  dsimp only
  split
  · rw [State.makeReady_armings]
    rfl
  · rfl

theorem State.fallDue_groupAt (lid group : Nat) (s : State) (n : Nat) : (s.fallDue lid group n).groupAt lid group =
    (s.groupAt lid group).map (fun g => { g with counters := setAt g.counters n (fun c => c - 1) }) := by
  rw [← s.groupAt_updGroup lid group (f := fun g => { g with counters := setAt g.counters n (fun c => c - 1) }) (fun _ => rfl)]
  unfold State.fallDue
  dsimp only
  split
  · exact State.groupAt_of_same (State.makeReady_launches _ _ _ _) lid group
  · rfl

/-- Each successor's counter falls once for each time it is named. -/
theorem State.foldl_fallDue_groupAt (lid group : Nat) : ∀ (ns : List Nat) {s : State} {r : GroupRun}, s.groupAt lid group = some r →
    ∃ r', (ns.foldl (State.fallDue lid group) s).groupAt lid group = some r' ∧ r'.finished = r.finished
      ∧ ∀ k < r.counters.length, r'.counters.getD k 0 = r.counters.getD k 0 - ns.count k
  | [], _, r, hr => ⟨r, hr, rfl, fun _ _ => rfl⟩
  | n :: ns, s, r, hr => by
    have hstep := State.fallDue_groupAt lid group s n
    rw [hr, Option.map_some] at hstep
    obtain ⟨r', hr', hfin, hcnt⟩ := State.foldl_fallDue_groupAt lid group ns hstep
    refine ⟨r', hr', hfin, fun k hk => (hcnt k (by simpa using hk)).trans ?_⟩
    by_cases hkn : k = n
    · subst hkn
      rw [setAt_getD_same hk, List.count_cons_self]
      omega
    · rw [setAt_getD_of_ne hkn, List.count_cons_of_ne (Ne.symm hkn)]

/-- A node that is done, where another of its group is not: its group stands, with the node marked and its successors' counters fallen. -/
theorem State.nodeDone_spec {s : State} {lid group node : Nat} {r : GroupRun} (hr : s.groupAt lid group = some r)
    (hother : ∃ k < r.finished.length, k ≠ node ∧ r.finished.getD k true = false) :
    (s.nodeDone lid group node).armings = s.armings ∧ ∃ r', (s.nodeDone lid group node).groupAt lid group = some r'
      ∧ r'.finished = setAt r.finished node (fun _ => true)
      ∧ ∀ k < r.counters.length, r'.counters.getD k 0 = r.counters.getD k 0 - (((s.gnode lid node).map (fun g => g.succ)).getD []).count k := by
  have hmark := s.groupAt_updGroup lid group (f := fun g => { g with finished := setAt g.finished node (fun _ => true) }) (fun _ => rfl)
  rw [hr, Option.map_some] at hmark
  rw [State.nodeDone_eq]
  obtain ⟨r', hr', hfin, hcnt⟩ := State.foldl_fallDue_groupAt lid group (((s.gnode lid node).map (fun g => g.succ)).getD []) hmark
  have harm := foldl_keeps State.armings (State.fallDue_armings lid group) (((s.gnode lid node).map (fun g => g.succ)).getD [])
    (s.updGroup lid group (fun g => { g with finished := setAt g.finished node (fun _ => true) }))
  obtain ⟨k, hk, hkn, hopen⟩ := hother
  have hunfinished : false ∈ r'.finished := by
    rw [hfin]
    exact getD_mem_of_lt (k := k) (d := true) (by simpa using hk) ((setAt_getD_of_ne hkn _ _ _).trans hopen)
  rw [State.closeGroup_of_unfinished hr' hunfinished]
  exact ⟨harm, r', hr', hfin, hcnt⟩

/-! ### Arming a section (R68, R386) -/

theorem State.foldl_mapCore_frame (f : PageCore → PageCore) : ∀ (cs : List CoreRef) (s : State),
    cs.foldl (fun s c => s.mapCore c f) s = { s with cores := (cs.foldl (fun s c => s.mapCore c f) s).cores }
  | [], _ => rfl
  | c :: cs, s => by
    rw [List.foldl_cons, State.foldl_mapCore_frame f cs (s.mapCore c f)]
    rfl

theorem State.startCores_frame (s : State) (lid pset : Nat) :
    s.startCores lid pset = { s with cores := (s.startCores lid pset).cores, placed := (s.startCores lid pset).placed } := by
  unfold State.startCores
  split
  · split
    · rfl
    · rw [State.foldl_mapCore_frame]
      rfl
  · rfl

/-- Starting the page cores of a page set leaves what waits at their source ports. -/
theorem State.startCores_src (s : State) (lid pset : Nat) (c : CoreRef) : ((s.startCores lid pset).core c).src = (s.core c).src := by
  unfold State.startCores
  split
  · split
    · rfl
    · next m _ _ _ =>
      refine foldl_keeps (fun s : State => (s.core c).src) (f := fun s d => s.mapCore d (fun k => k.start m lid)) (fun s d => ?_) _ s
      by_cases hd : c = d
      · subst hd
        rw [State.mapCore_core]
        rfl
      · rw [State.mapCore_core_of_ne s hd]
  · rfl

/-- The arming of a section for a node. -/
def State.armingOf (s : State) (lid group node : Nat) (g : GNode) (task : Bool) : Arming :=
  { lid := lid, group := group, node := node, page := (s.sectOf lid g).1, root := (s.sectOf lid g).2, task := task }

section
variable (s : State) (lid group node tiles : Nat) (g : GNode) (task : Bool)

/-- What arming a section changes: what is armed, the trellis, the page cores and the arrays. -/
theorem State.arm_frame : s.arm lid group node tiles g task = { s with
    armings := s.armings ++ [s.armingOf lid group node g task]
    trellis := s.trellis.map (fun t => if t.page = (s.sectOf lid g).1 ∧ t.node = (s.sectOf lid g).2 then { t with offer := some tiles } else t)
    cores := (({ s with armings := s.armings ++ [s.armingOf lid group node g task] } : State).startCores lid g.pset).cores
    placed := (s.arm lid group node tiles g task).placed, arrays := (s.arm lid group node tiles g task).arrays } := by
  unfold State.arm
  dsimp only
  rw [State.startCores_frame]
  split <;> rfl

theorem State.arm_armings : (s.arm lid group node tiles g task).armings = s.armings ++ [s.armingOf lid group node g task] := by rw [State.arm_frame]

theorem State.arm_seqAt (d : Nat) : (s.arm lid group node tiles g task).seqAt d = s.seqAt d := by
  rw [State.arm_frame]
  rfl

theorem State.arm_offer {r : Trellis} (hr : r ∈ (s.arm lid group node tiles g task).trellis) (hpage : r.page = (s.sectOf lid g).1)
    (hnode : r.node = (s.sectOf lid g).2) : r.offer = some tiles := by
  rw [State.arm_frame] at hr
  obtain ⟨t, -, rfl⟩ := List.mem_map.1 hr
  split
  · rfl
  · next hother =>
    rw [if_neg hother] at hpage hnode
    exact absurd ⟨hpage, hnode⟩ hother

theorem State.arm_src (c : CoreRef) : ((s.arm lid group node tiles g task).core c).src = (s.core c).src := by
  rw [State.arm_frame]
  exact State.startCores_src { s with armings := s.armings ++ [s.armingOf lid group node g task] } lid g.pset c

end

/-! ### The graph sequencer (R68, R77) -/

theorem State.serveReady_eq {s : State} {d lid group node : Nat} {g : GNode} (hrun : (s.die d).stopped = false)
    (hturn : (s.seqAt d).taskTurn = false ∨ (s.seqAt d).tasks.any s.taskNow = false) (hfind : (s.seqAt d).ready.find? s.readyNow = some (lid, group, node))
    (hg : s.gnode lid node = some g) (t : State)
    (ht : t = s.setSeq d { s.seqAt d with ready := (s.seqAt d).ready.erase (lid, group, node), taskTurn := true }) :
    s.serveReady d = if g.kind = 1 ∧ g.tiles ≠ 0 then t.arm lid group node g.tiles g false else t.nodeDone lid group node := by
  have hgt : t.gnode lid node = some g := by rw [ht, State.setSeq_gnode, hg]
  have hnot : ((s.die d).stopped || ((s.seqAt d).taskTurn && (s.seqAt d).tasks.any s.taskNow)) = false := by
    rw [hrun, Bool.false_or, Bool.and_eq_false_iff]
    exact hturn
  unfold State.serveReady
  dsimp only
  rw [hnot, if_neg Bool.false_ne_true, hfind]
  dsimp only
  rw [← ht, hgt]

theorem State.viLink_of_same {s t : State} (hchans : t.chans = s.chans) (hcores : t.cores = s.cores) (c : CoreRef) (n : Nat) :
    t.viLink c n = s.viLink c n := by
  simp only [State.viLink, State.core, hchans, hcores]

/-- The state in which a task record that has been taken arms its section: ARG has been pushed where a link leaves port 31. -/
def State.argued (s : State) (c : CoreRef) (arg : DWord) : State :=
  if (s.viLink c 31).isSome then s.mapCore c (fun p => p.queueSrc 31 [argBeat arg]) else s

/-- The page core of the page of a node's section. -/
def State.coreOfSect (s : State) (lid : Nat) (g : GNode) : CoreRef :=
  ⟨(s.sectOf lid g).1.lid, (s.sectOf lid g).1.pset, (s.sectOf lid g).1.px, (s.sectOf lid g).1.py⟩

theorem State.argued_frame (s : State) (c : CoreRef) (arg : DWord) : s.argued c arg = { s with cores := (s.argued c arg).cores } := by
  unfold State.argued
  split <;> rfl

theorem State.argued_srcQ {s : State} {c : CoreRef} (h : (s.viLink c 31).isSome) (arg : DWord) :
    ((s.argued c arg).core c).srcQ 31 = (s.core c).srcQ 31 ++ [argBeat arg] := by
  rw [State.argued, if_pos h, State.mapCore_core]
  simp [PageCore.srcQ, PageCore.queueSrc]

theorem State.serveTask_eq {s : State} {d : Nat} {r : Task} (hrun : (s.die d).stopped = false)
    (hturn : (s.seqAt d).taskTurn ∨ (s.seqAt d).ready.any s.readyNow = false) (hfind : (s.seqAt d).tasks.find? s.taskNow = some r) (t : State)
    (ht : t = s.setSeq d { s.seqAt d with tasks := (s.seqAt d).tasks.erase r, taskTurn := false }) :
    s.serveTask d = (((s.gnode r.lid r.node).filter (fun g => g.kind == 1)).map (fun g =>
      (t.argued (t.coreOfSect r.lid g) r.arg).arm r.lid r.gidx r.node r.tiles g true)).getD (t.nodeFault r.lid d 0x93 0 0) := by
  have hgt : t.gnode r.lid r.node = s.gnode r.lid r.node := by rw [ht, State.setSeq_gnode]
  have hnot : ((s.die d).stopped || (!(s.seqAt d).taskTurn && (s.seqAt d).ready.any s.readyNow)) = false := by
    rw [hrun, Bool.false_or, Bool.and_eq_false_iff, Bool.not_eq_false']
    exact hturn
  unfold State.serveTask
  dsimp only
  rw [hnot, if_neg Bool.false_ne_true, hfind]
  dsimp only
  rw [← ht, ← hgt]
  cases (t.gnode r.lid r.node).filter (fun g => g.kind == 1) <;> rfl

/-- A fault of a graph node ends its launch, where nothing has ended it before. -/
theorem State.nodeFault_ends {s : State} {lid : Nat} {l : Launch} (hl : s.launch lid = some l) (hend : l.ending = none) (d code chan ord : Nat) :
    (s.nodeFault lid d code chan ord).launch lid =
      some { l with ending := some { status := 0x22, detail := code, die := d, fchan := chan, ford := ord } } := by
  refine (State.mapLaunch_launch s lid _ (fun l => ?_) lid).trans ?_
  · split
    · rfl
    · split <;> rfl
  · rw [hl, Option.map_some, if_pos rfl, hend]

end Sys2Proof.Machine
end

section
/-! SUPPORT. Enable tokens and done tokens of the trellis (R72, R73). -/
namespace Sys2Proof.Machine

/-! ### Nodes and leaves after an update -/

theorem State.trellisAt_spec {s : State} {g : PageRef} {n : Nat} {t : Trellis} (h : s.trellisAt g n = some t) : t.page = g ∧ t.node = n := by
  simpa using List.find?_some h

/-- An update of a node that keeps its page and number is found under the same name, and leaves every other node. -/
theorem State.updTrellis_trellisAt (s : State) (g : PageRef) (n : Nat) {f : Trellis → Trellis} (hf : ∀ t, (f t).page = t.page ∧ (f t).node = t.node)
    (h : PageRef) (m : Nat) : (s.updTrellis g n f).trellisAt h m = (s.trellisAt h m).map (fun t => if h = g ∧ m = n then f t else t) := by
  refine (find?_map_of_keeps (fun t => ?_) s.trellis).trans ?_
  · split <;> simp [hf]
  · rw [State.trellisAt]
    cases ht : s.trellis.find? (fun t => decide (t.page = h) && t.node == m) with
    | none => rfl
    | some t =>
      obtain ⟨hpage, hnode⟩ := State.trellisAt_spec ht
      rw [Option.map_some, Option.map_some, hpage, hnode]

theorem State.updTrellis_trellisAt_same {s : State} {g : PageRef} {n : Nat} {t : Trellis} (h : s.trellisAt g n = some t) {f : Trellis → Trellis}
    (hf : ∀ t, (f t).page = t.page ∧ (f t).node = t.node) : (s.updTrellis g n f).trellisAt g n = some (f t) := by
  rw [State.updTrellis_trellisAt s g n hf, h, Option.map_some, if_pos ⟨rfl, rfl⟩]

theorem State.updTrellis_trellisAt_of_ne (s : State) (g : PageRef) {n m : Nat} (hm : m ≠ n) {f : Trellis → Trellis}
    (hf : ∀ t, (f t).page = t.page ∧ (f t).node = t.node) (h : PageRef) : (s.updTrellis g n f).trellisAt h m = s.trellisAt h m := by
  rw [State.updTrellis_trellisAt s g n hf]
  simp [hm]

theorem State.leafAt_spec {s : State} {g : PageRef} {n : Nat} {l : Leaf} (h : s.leafAt g n = some l) : l.page = g ∧ l.leaf = n := by
  simpa using List.find?_some h

theorem State.updLeaf_leafAt (s : State) (g : PageRef) (n : Nat) {f : Leaf → Leaf} (hf : ∀ l, (f l).page = l.page ∧ (f l).leaf = l.leaf)
    (h : PageRef) (m : Nat) : (s.updLeaf g n f).leafAt h m = (s.leafAt h m).map (fun l => if h = g ∧ m = n then f l else l) := by
  refine (find?_map_of_keeps (fun l => ?_) s.leaves).trans ?_
  · split <;> simp [hf]
  · rw [State.leafAt]
    cases hl : s.leaves.find? (fun l => decide (l.page = h) && l.leaf == m) with
    | none => rfl
    | some l =>
      obtain ⟨hpage, hleaf⟩ := State.leafAt_spec hl
      rw [Option.map_some, Option.map_some, hpage, hleaf]

/-! ### What an enable token changes -/

/-- A node apart from what enable tokens change: the offer on its way to it, and the iterations its children have been enabled for. -/
def Trellis.still (t : Trellis) : Trellis := { t with offer := none, started := [] }

/-- The node k names among a node's children is enabled if it may be. -/
def State.enableAt (g : PageRef) (n : Nat) (s : State) (k : Nat) : State :=
  match s.trellisAt g n with
  | some t => if t.mayEnable k && s.kidFree t k then s.enableChild t k else s
  | none => s

theorem State.enableAll_eq {s : State} {g : PageRef} {n : Nat} {t : Trellis} (h : s.trellisAt g n = some t) :
    s.enableAll g n = (List.range t.kids.length).foldl (State.enableAt g n) s := by
  rw [State.enableAll, h]
  rfl

theorem State.enableAt_cases (g : PageRef) (n : Nat) (s : State) (k : Nat) : s.enableAt g n k = s ∨
    ∃ t, s.trellisAt g n = some t ∧ t.mayEnable k ∧ s.kidFree t k ∧ s.enableAt g n k = s.enableChild t k := by
  unfold State.enableAt
  split
  · next t ht =>
    split
    · next hmay => exact .inr ⟨t, ht, (Bool.and_eq_true_iff.1 hmay).1, (Bool.and_eq_true_iff.1 hmay).2, rfl⟩
    · exact .inl rfl
  · exact .inl rfl

/-- A child's iteration is counted as begun. -/
def Trellis.begun (t : Trellis) (k : Nat) : Trellis := { t with started := setAt t.started k (fun i => i + 1) }

/-- The count that a child is enabled with: CNT 0 passes on the node's own (R72). -/
def Trellis.countFor (t : Trellis) (cnt : Nat) : Nat := if cnt = 0 then t.token.getD 0 else cnt

/-- A node with an enable token on its way to it, and a leaf that has been given one. -/
def Trellis.offered (t : Trellis) (count : Nat) : Trellis := { t with offer := some count }
def Leaf.given (l : Leaf) (count : Nat) : Leaf := { l with token := some count }

section
variable {t : Trellis} {k child cnt : Nat} (s : State) (hk : t.kids[k]? = some (child, cnt))
include hk

theorem State.enableChild_of_node (hc : child < 8) : s.enableChild t k =
    (s.updTrellis t.page t.node (fun t => t.begun k)).updTrellis t.page child (fun c => c.offered (t.countFor cnt)) := by
  simp only [State.enableChild, hk, if_pos hc]
  rfl

theorem State.enableChild_of_leaf (hc : ¬ child < 8) : s.enableChild t k =
    (s.updTrellis t.page t.node (fun t => t.begun k)).updLeaf t.page (child - 8) (fun l => l.given (t.countFor cnt)) := by
  simp only [State.enableChild, hk, if_neg hc]
  rfl

end

theorem State.updTrellis_still (s : State) (g : PageRef) (n : Nat) {f : Trellis → Trellis} (hf : ∀ t, (f t).still = t.still) (h : PageRef) (m : Nat) :
    ((s.updTrellis g n f).trellisAt h m).map Trellis.still = (s.trellisAt h m).map Trellis.still := by
  have hname : ∀ t, (f t).page = t.page ∧ (f t).node = t.node := fun t =>
    ⟨(congrArg Trellis.page (hf t) :), (congrArg Trellis.node (hf t) :)⟩
  rw [State.updTrellis_trellisAt s g n hname, Option.map_map]
  refine congrArg (Option.map · _) (funext fun t => ?_)
  rw [Function.comp_apply]
  split
  · exact hf t
  · rfl

/-- Enabling a child changes no node but for the offers and the iterations begun, and nothing that is armed. -/
theorem State.enableChild_still (s : State) (t : Trellis) (k : Nat) (h : PageRef) (m : Nat) :
    ((s.enableChild t k).trellisAt h m).map Trellis.still = (s.trellisAt h m).map Trellis.still := by
  cases hk : t.kids[k]? with
  | none => simp [State.enableChild, hk]
  | some e =>
    obtain ⟨child, cnt⟩ := e
    have hbegun := s.updTrellis_still t.page t.node (f := fun t => t.begun k) (fun _ => rfl) h m
    by_cases hc : child < 8
    · rw [State.enableChild_of_node s hk hc]
      exact (State.updTrellis_still _ t.page child (f := fun c => c.offered (t.countFor cnt)) (fun _ => rfl) h m).trans hbegun
    · rw [State.enableChild_of_leaf s hk hc]
      exact hbegun

theorem State.enableChild_armings (s : State) (t : Trellis) (k : Nat) : (s.enableChild t k).armings = s.armings := by
  unfold State.enableChild
  split
  · rfl
  · dsimp only
    split <;> rfl

theorem State.enableAt_still (g : PageRef) (n : Nat) (h : PageRef) (m : Nat) (s : State) (k : Nat) :
    ((s.enableAt g n k).trellisAt h m).map Trellis.still = (s.trellisAt h m).map Trellis.still := by
  rcases State.enableAt_cases g n s k with heq | ⟨t, -, -, -, heq⟩ <;> rw [heq]
  exact s.enableChild_still t k h m

theorem State.enableAll_still (g : PageRef) (h : PageRef) (m : Nat) (s : State) (n : Nat) :
    ((s.enableAll g n).trellisAt h m).map Trellis.still = (s.trellisAt h m).map Trellis.still := by
  cases hn : s.trellisAt g n with
  | none => rw [State.enableAll, hn]
  | some t =>
    rw [State.enableAll_eq hn]
    exact foldl_keeps (fun s : State => (s.trellisAt h m).map Trellis.still) (State.enableAt_still g n h m) _ s

theorem State.enablePage_still (s : State) (g : PageRef) (h : PageRef) (m : Nat) :
    ((s.enablePage g).trellisAt h m).map Trellis.still = (s.trellisAt h m).map Trellis.still :=
  foldl_keeps (fun s : State => (s.trellisAt h m).map Trellis.still) (State.enableAll_still g h m) _ s

theorem State.enableAll_armings (g : PageRef) (s : State) (n : Nat) : (s.enableAll g n).armings = s.armings := by
  cases hn : s.trellisAt g n with
  | none => rw [State.enableAll, hn]
  | some t =>
    rw [State.enableAll_eq hn]
    refine foldl_keeps State.armings (fun s k => ?_) _ s
    rcases State.enableAt_cases g n s k with heq | ⟨t, -, -, -, heq⟩ <;> rw [heq]
    exact s.enableChild_armings t k

theorem State.enablePage_armings (s : State) (g : PageRef) : (s.enablePage g).armings = s.armings :=
  foldl_keeps State.armings (State.enableAll_armings g) _ s

/-- A node as it was, apart from what enable tokens change. -/
theorem exists_of_map_still {o : Option Trellis} {t : Trellis} (h : o.map Trellis.still = some t.still) :
    ∃ u, o = some u ∧ u.token = t.token ∧ u.kids = t.kids ∧ u.finished = t.finished ∧ u.doneIn = t.doneIn := by
  obtain ⟨u, rfl, hu⟩ := Option.map_eq_some_iff.1 h
  exact ⟨u, rfl, (congrArg Trellis.token hu :), (congrArg Trellis.kids hu :), (congrArg Trellis.finished hu :), (congrArg Trellis.doneIn hu :)⟩

/-! ### An offer stands while other children are enabled -/

theorem State.updTrellis_offer (s : State) (g : PageRef) (n : Nat) {f : Trellis → Trellis} (hf : ∀ t, (f t).page = t.page ∧ (f t).node = t.node)
    (ho : ∀ t, (f t).offer = t.offer) (h : PageRef) (m : Nat) :
    ((s.updTrellis g n f).trellisAt h m).map Trellis.offer = (s.trellisAt h m).map Trellis.offer := by
  rw [State.updTrellis_trellisAt s g n hf, Option.map_map]
  refine congrArg (Option.map · _) (funext fun t => ?_)
  rw [Function.comp_apply]
  split
  · exact ho t
  · rfl

section
variable {g : PageRef} {n : Nat}

theorem State.enableChild_offer (s : State) {t : Trellis} {k m : Nat} (hm : t.kid k ≠ some m) (h : PageRef) :
    ((s.enableChild t k).trellisAt h m).map Trellis.offer = (s.trellisAt h m).map Trellis.offer := by
  cases hk : t.kids[k]? with
  | none => simp [State.enableChild, hk]
  | some e =>
    obtain ⟨child, cnt⟩ := e
    have hne : m ≠ child := by
      rintro rfl
      simp [Trellis.kid, hk] at hm
    have hbegun := s.updTrellis_offer t.page t.node (f := fun t => t.begun k) (fun _ => ⟨rfl, rfl⟩) (fun _ => rfl) h m
    by_cases hc : child < 8
    · rw [State.enableChild_of_node s hk hc,
        State.updTrellis_trellisAt_of_ne _ t.page hne (f := fun c => c.offered (t.countFor cnt)) (fun _ => ⟨rfl, rfl⟩)]
      exact hbegun
    · rw [State.enableChild_of_leaf s hk hc]
      exact hbegun

theorem State.enableChild_leafAt (s : State) {t : Trellis} {k m : Nat} (hm : t.kid k ≠ some (m + 8)) (h : PageRef) :
    (s.enableChild t k).leafAt h m = s.leafAt h m := by
  cases hk : t.kids[k]? with
  | none => simp [State.enableChild, hk]
  | some e =>
    obtain ⟨child, cnt⟩ := e
    by_cases hc : child < 8
    · rw [State.enableChild_of_node s hk hc]
      rfl
    · have hne : m ≠ child - 8 := by
        rintro rfl
        rw [Trellis.kid, hk, Nat.sub_add_cancel (by omega)] at hm
        exact hm rfl
      rw [State.enableChild_of_leaf s hk hc, State.updLeaf_leafAt _ t.page _ (f := fun l => l.given (t.countFor cnt)) (fun _ => ⟨rfl, rfl⟩)]
      simp only [hne, and_false, if_false, Option.map_id']
      rfl

/-- What a fold of enables keeps, where each enable of a child that is not excluded keeps it. -/
theorem State.foldl_enableAt_keeps {β : Type} (φ : State → β) {kids : List (Nat × Nat)} {ks : List Nat}
    (hφ : ∀ (s : State) (t : Trellis), t.kids = kids → ∀ k ∈ ks, φ (s.enableChild t k) = φ s) {s : State} {t : Trellis}
    (ht : s.trellisAt g n = some t)
    (hkids : t.kids = kids) : φ (ks.foldl (State.enableAt g n) s) = φ s := by
  induction ks generalizing s t with
  | nil => rfl
  | cons k ks ih =>
    have hstill := State.enableAt_still g n g n s k
    rw [ht, Option.map_some] at hstill
    obtain ⟨u, hu, -, hukids, -, -⟩ := exists_of_map_still hstill
    rw [List.foldl_cons, ih (fun s t h j hj => hφ s t h j (List.mem_cons_of_mem _ hj)) hu (hukids.trans hkids)]
    rcases State.enableAt_cases g n s k with heq | ⟨t', ht', -, -, heq⟩ <;> rw [heq]
    cases ht.symm.trans ht'
    exact hφ s t hkids k List.mem_cons_self

end

/-! ### The first enable (R73) -/

theorem Trellis.kid_ne_of_nodup {t : Trellis} (hnodup : (t.kids.map (fun e => e.1)).Nodup) {j k c : Nat} (hj : t.kid j = some c) (hne : k ≠ j) :
    t.kid k ≠ some c := by
  intro hk
  have hmap : ∀ i, t.kid i = (t.kids.map (fun e => e.1))[i]? := fun i => by rw [Trellis.kid, List.getElem?_map]
  rw [hmap] at hj hk
  obtain ⟨hjl, hjc⟩ := List.getElem?_eq_some_iff.1 hj
  obtain ⟨hkl, hkc⟩ := List.getElem?_eq_some_iff.1 hk
  exact hne ((hnodup.getElem_inj_iff).1 (hkc.trans hjc.symm))

theorem Trellis.kid_ne_of_forall {t : Trellis} {m : Nat} (h : ∀ e ∈ t.kids, e.1 ≠ m) (k : Nat) : t.kid k ≠ some m := by
  intro hk
  obtain ⟨e, he, hem⟩ := Option.map_eq_some_iff.1 hk
  exact h e (List.mem_of_getElem? he) hem

theorem getD_map_zero (l : List (Nat × Nat)) (k : Nat) : (l.map (fun _ => 0)).getD k 0 = 0 := by
  rw [List.getD_eq_getElem?_getD, List.getElem?_map]
  cases l[k]? <;> rfl

/-- A node that has taken a token: none of its children has begun. -/
def Trellis.taken (t : Trellis) (count : Nat) : Trellis :=
  { t with offer := none, token := some count, started := t.kids.map (fun _ => 0), finished := t.kids.map (fun _ => 0) }

theorem Trellis.taken_total {t : Trellis} {count : Nat} (h : count ≠ 0) : 0 < (t.taken count).total := by
  unfold Trellis.total
  split
  · decide
  · exact Nat.pos_of_ne_zero h

theorem Trellis.taken_not_complete {t : Trellis} {count : Nat} (h : count ≠ 0) (hkids : t.kids ≠ []) : (t.taken count).complete = false := by
  have hpos := Trellis.taken_total (t := t) h
  refine Bool.and_eq_false_iff.2 (.inr (List.all_eq_false.2 ⟨0, ?_, ?_⟩))
  · exact List.mem_range.2 (List.length_pos_iff.2 hkids)
  · rw [show (t.taken count).finished.getD 0 0 = 0 from getD_map_zero _ _]
    simp [Nat.ne_of_lt hpos]

/-- The first child may be enabled for the first iteration of the token. -/
theorem Trellis.taken_mayEnable {t : Trellis} {count : Nat} (h : count ≠ 0) (hwindow : 1 ≤ t.window) : (t.taken count).mayEnable 0 := by
  have hpos := Trellis.taken_total (t := t) h
  have hstarted : ∀ k, (t.taken count).started.getD k 0 = 0 := getD_map_zero _
  have hfinished : ∀ k, (t.taken count).finished.getD k 0 = 0 := getD_map_zero _
  unfold Trellis.mayEnable
  simp only [hstarted, hfinished, beq_self_eq_true, Bool.or_true, List.all_eq_true, implies_true, decide_eq_true hpos, Bool.and_true, Bool.and_eq_true]
  refine ⟨⟨rfl, trivial⟩, ?_⟩
  split
  · rfl
  · exact decide_eq_true (by rw [Nat.zero_add]; exact hwindow)
  · rfl

theorem State.startToken_trellis (s : State) (g : PageRef) : (s.startToken g).trellis = s.trellis := rfl
theorem State.startToken_leaves (s : State) (g : PageRef) : (s.startToken g).leaves = s.leaves := rfl

/-- The state in which a node that has taken a token enables its children. -/
def State.tookToken (s : State) (g : PageRef) (n count : Nat) : State := (s.startToken g).updTrellis g n (fun t => t.taken count)

/-- The state once a node that has taken a token has enabled the children it may. -/
def State.enabled (s : State) (g : PageRef) (n : Nat) (t : Trellis) (count : Nat) : State :=
  (List.range t.kids.length).foldl (State.enableAt g n) (s.tookToken g n count)

section
variable {s : State} {g : PageRef} {n count : Nat} {t : Trellis} (ht : s.trellisAt g n = some t)
include ht

theorem State.tookToken_trellisAt : (s.tookToken g n count).trellisAt g n = some (t.taken count) :=
  State.updTrellis_trellisAt_same (s := s.startToken g) ht (f := fun t => t.taken count) (fun _ => ⟨rfl, rfl⟩)

theorem State.takeEnable_eq (hruns : s.runs g.lid g.pset) (hoffer : t.offer = some count) (htoken : t.token = none) (hdone : t.doneIn = [])
    (hcount : count ≠ 0) (hkids : t.kids ≠ []) :
    s.takeEnable g n count = s.enabled g n t count := by
  have htook := State.tookToken_trellisAt (count := count) ht
  have hfinish : s.takeEnable g n count = (s.tookToken g n count).finishNode g n := by
    simp only [State.takeEnable, ht]
    exact if_pos ⟨hruns, hoffer, by simp [htoken], by simp [hdone]⟩
  rw [hfinish, State.finishNode, htook]
  dsimp only
  rw [Trellis.taken_not_complete hcount hkids]
  exact State.enableAll_eq (t := t.taken count) htook

end

theorem State.tookToken_trellisAt_of_ne (s : State) (g : PageRef) {n m : Nat} (hm : m ≠ n) (count : Nat) :
    (s.tookToken g n count).trellisAt g m = s.trellisAt g m :=
  State.updTrellis_trellisAt_of_ne (s.startToken g) g hm (f := fun t => t.taken count) (fun _ => ⟨rfl, rfl⟩) g

/-- The first child of a node that has taken a token is enabled first, when it is free. -/
theorem State.enableAt_first {s : State} {g : PageRef} {n count : Nat} {t : Trellis} (ht : s.trellisAt g n = some (t.taken count)) (hcount : count ≠ 0)
    (hwindow : 1 ≤ t.window) (hfree : s.kidFree (t.taken count) 0) : s.enableAt g n 0 = s.enableChild (t.taken count) 0 := by
  rw [State.enableAt, ht]
  exact if_pos (Bool.and_eq_true_iff.2 ⟨Trellis.taken_mayEnable hcount hwindow, hfree⟩)

section
variable {s : State} {g : PageRef} {n count : Nat} {t : Trellis} (ht : s.trellisAt g n = some t)
include ht

/-- A node that has taken a token holds it, and nothing is on its way to it, whichever children it has enabled. -/
theorem State.enabled_node (hself : ∀ e ∈ t.kids, e.1 ≠ n) :
    ∃ u, (s.enabled g n t count).trellisAt g n = some u ∧ u.token = some count ∧ u.offer = none := by
  have htook := State.tookToken_trellisAt (count := count) ht
  have hstill := foldl_keeps (fun s : State => (s.trellisAt g n).map Trellis.still) (State.enableAt_still g n g n) (List.range t.kids.length)
    (s.tookToken g n count)
  rw [htook, Option.map_some] at hstill
  obtain ⟨u, hu, htoken, -⟩ := exists_of_map_still hstill
  have hoffer := State.foldl_enableAt_keeps (fun s : State => (s.trellisAt g n).map Trellis.offer) (ks := List.range t.kids.length)
    (fun s t' ht' k _ => s.enableChild_offer (Trellis.kid_ne_of_forall (t := t') (by rw [ht']; exact hself) k) g) htook rfl
  rw [hu, htook, Option.map_some, Option.map_some] at hoffer
  exact ⟨u, hu, htoken, Option.some.inj hoffer⟩

variable {c cnt : Nat} {rest : List (Nat × Nat)} (hkids : t.kids = (c, cnt) :: rest) (hnodup : (t.kids.map (fun e => e.1)).Nodup) (hcount : count ≠ 0)
  (hwindow : 1 ≤ t.window)
include hkids hnodup hcount hwindow

/-- What enabling another child keeps is as the enable of the first child has left it. -/
theorem State.enabled_first {β : Type} (φ : State → β)
    (hφ : ∀ (s : State) (t : Trellis) (k : Nat), t.kid k ≠ some c → φ (s.enableChild t k) = φ s)
    (hfree : (s.tookToken g n count).kidFree (t.taken count) 0) :
    φ (s.enabled g n t count) = φ ((s.tookToken g n count).enableChild (t.taken count) 0) := by
  have htook := State.tookToken_trellisAt (count := count) ht
  have hlater {t' : Trellis} (ht' : t'.kids = t.kids) {k : Nat} (hk : k ∈ (List.range rest.length).map Nat.succ) : t'.kid k ≠ some c := by
    obtain ⟨j, -, rfl⟩ := List.mem_map.1 hk
    refine Trellis.kid_ne_of_nodup (j := 0) (by rw [ht']; exact hnodup) ?_ (Nat.succ_ne_zero j)
    rw [Trellis.kid, ht', hkids]
    rfl
  have hstill := State.enableAt_still g n g n (s.tookToken g n count) 0
  rw [htook, Option.map_some] at hstill
  obtain ⟨u, hu, -, hukids, -⟩ := exists_of_map_still hstill
  rw [State.enabled, show t.kids.length = rest.length + 1 by rw [hkids]; rfl, List.range_succ_eq_map, List.foldl_cons,
    State.foldl_enableAt_keeps φ (fun s t' ht' k hk => hφ s t' k (hlater ht' hk)) hu hukids, State.enableAt_first htook hcount hwindow hfree]

/-- The first child is offered its count, where it is a node that holds no token and to which none is on its way. -/
theorem State.enabled_child_node (hc : c < 8) (hself : c ≠ n) {w : Trellis} (hw : s.trellisAt g c = some w) (hwtoken : w.token = none)
    (hwoffer : w.offer = none) : ∃ v, (s.enabled g n t count).trellisAt g c = some v ∧ v.offer = some (if cnt = 0 then count else cnt) := by
  have htook := State.tookToken_trellisAt (count := count) ht
  obtain ⟨hpage, hnode⟩ := State.trellisAt_spec htook
  have hkid : (t.taken count).kids[0]? = some (c, cnt) := by
    rw [show (t.taken count).kids = (c, cnt) :: rest from hkids]
    rfl
  have hw1 : (s.tookToken g n count).trellisAt g c = some w := by rw [State.tookToken_trellisAt_of_ne s g hself, hw]
  have hfree : (s.tookToken g n count).kidFree (t.taken count) 0 := by
    simp [State.kidFree, Trellis.kid, hkid, hc, hpage, hw1, hwtoken, hwoffer]
  have hw2 : ((s.tookToken g n count).updTrellis g n (fun t => t.begun 0)).trellisAt g c = some w := by
    rw [State.updTrellis_trellisAt_of_ne _ _ hself (f := fun t => t.begun 0) (fun _ => ⟨rfl, rfl⟩), hw1]
  have hkept := State.enabled_first ht hkids hnodup hcount hwindow (fun s => (s.trellisAt g c).map Trellis.offer)
    (fun s t k hk => s.enableChild_offer hk g) hfree
  rw [State.enableChild_of_node _ hkid hc, hpage, hnode,
    State.updTrellis_trellisAt_same hw2 (f := fun u => u.offered ((t.taken count).countFor cnt)) (fun _ => ⟨rfl, rfl⟩)] at hkept
  exact Option.map_eq_some_iff.1 hkept

/-- The first child is given its count, where it is a leaf that holds no token. -/
theorem State.enabled_child_leaf (hc : 8 ≤ c) {w : Leaf} (hw : s.leafAt g (c - 8) = some w) (hwtoken : w.token = none) :
    ∃ v, (s.enabled g n t count).leafAt g (c - 8) = some v ∧ v.token = some (if cnt = 0 then count else cnt) := by
  obtain ⟨hpage, hnode⟩ := State.trellisAt_spec (State.tookToken_trellisAt (count := count) ht)
  have hkid : (t.taken count).kids[0]? = some (c, cnt) := by
    rw [show (t.taken count).kids = (c, cnt) :: rest from hkids]
    rfl
  have hw1 : (s.tookToken g n count).leafAt g (c - 8) = some w := hw
  have hfree : (s.tookToken g n count).kidFree (t.taken count) 0 := by
    simp [State.kidFree, Trellis.kid, hkid, Nat.not_lt.2 hc, hpage, hw1, hwtoken]
  have hw2 : ((s.tookToken g n count).updTrellis g n (fun t => t.begun 0)).leafAt g (c - 8) = some w := hw
  have hkept := State.enabled_first ht hkids hnodup hcount hwindow (fun s => s.leafAt g (c - 8))
    (fun s t k hk => s.enableChild_leafAt (by rw [Nat.sub_add_cancel hc]; exact hk) g) hfree
  rw [State.enableChild_of_leaf _ hkid (Nat.not_lt.2 hc), hpage, hnode,
    State.updLeaf_leafAt _ g (c - 8) (f := fun l => l.given ((t.taken count).countFor cnt)) (fun _ => ⟨rfl, rfl⟩), hw2, Option.map_some,
    if_pos ⟨rfl, rfl⟩] at hkept
  exact ⟨_, hkept, rfl⟩

end

/-! ### Done tokens (R73) -/

/-- A node that has taken the done token of a child. -/
def Trellis.counted (t : Trellis) (child k : Nat) : Trellis :=
  { t with doneIn := t.doneIn.erase child, finished := setAt t.finished k (fun i => i + 1) }

/-- A node that has given up its token, and one that is to take the done token of a child. -/
def Trellis.idle (t : Trellis) : Trellis := { t with token := none }
def Trellis.told (t : Trellis) (child : Nat) : Trellis := { t with doneIn := t.doneIn ++ [child] }

theorem Trellis.complete_iff {t : Trellis} (h : t.token.isSome) : t.complete ↔ ∀ k < t.kids.length, t.finished.getD k 0 = t.total := by
  simp [Trellis.complete, h]

section
variable {s : State} {g : PageRef} {n : Nat} {t : Trellis} (ht : s.trellisAt g n = some t)
include ht

theorem State.takeDone_eq {child k : Nat} (hruns : s.runs g.lid g.pset) (hdone : child ∈ t.doneIn) (hkid : t.kidOf child = some k) :
    s.takeDone g n child = ((s.updTrellis g n (fun t => t.counted child k)).finishNode g n).enablePage g := by
  have hkid' : (if s.runs g.lid g.pset && t.doneIn.contains child then t.kidOf child else none) = some k := by
    rw [if_pos (by simp [hruns, hdone]), hkid]
  simp only [State.takeDone, ht, hkid']
  rfl

theorem State.finishNode_of_open (hopen : t.complete = false) : s.finishNode g n = s.enableAll g n := by
  simp [State.finishNode, ht, hopen]

theorem State.finishNode_of_root (hcomplete : t.complete) (hroot : t.parent = none) :
    s.finishNode g n = (s.updTrellis g n Trellis.idle).sectionOver g n := by
  simp only [State.finishNode, ht, hcomplete, hroot]
  rfl

theorem State.finishNode_of_child (hcomplete : t.complete) {p : Nat} (hp : t.parent = some p) :
    s.finishNode g n = (s.updTrellis g n Trellis.idle).updTrellis g p (fun u => u.told n) := by
  simp only [State.finishNode, ht, hcomplete, hp]
  rfl

/-- A node with iterations left keeps its token. -/
theorem State.finishNode_open_still (hopen : t.complete = false) : ((s.finishNode g n).trellisAt g n).map Trellis.still = some t.still := by
  rw [State.finishNode_of_open ht hopen, State.enableAll_still, ht]
  rfl

/-- A node whose last iteration is over gives up its token, and its section is done or its parent is told. -/
theorem State.finishNode_complete_spec (hcomplete : t.complete) (hself : t.parent ≠ some n) :
    (s.finishNode g n).trellisAt g n = some t.idle
      ∧ (t.parent = none → ∀ a ∈ (s.finishNode g n).armings, a.page = g → a.root = n → a.done)
      ∧ ∀ p v, t.parent = some p → s.trellisAt g p = some v → (s.finishNode g n).trellisAt g p = some (v.told n) := by
  have hidle : (s.updTrellis g n Trellis.idle).trellisAt g n = some t.idle := State.updTrellis_trellisAt_same ht (fun _ => ⟨rfl, rfl⟩)
  cases hp : t.parent with
  | none =>
    rw [State.finishNode_of_root ht hcomplete hp]
    refine ⟨hidle, fun _ a ha hpage hroot => ?_, fun p v h => (by cases h)⟩
    obtain ⟨b, -, rfl⟩ := List.mem_map.1 ha
    split
    · rfl
    · next hother =>
      rw [if_neg hother] at hpage hroot
      exact absurd ⟨hpage, hroot⟩ hother
  | some p =>
    have hne : p ≠ n := fun h => hself (h ▸ hp)
    rw [State.finishNode_of_child ht hcomplete hp]
    refine ⟨?_, fun h => (by cases h), fun q v h hv => ?_⟩
    · rw [State.updTrellis_trellisAt_of_ne _ g hne.symm (f := fun u => u.told n) (fun _ => ⟨rfl, rfl⟩), hidle]
    · cases h
      have hv' : (s.updTrellis g n Trellis.idle).trellisAt g p = some v := by
        rw [State.updTrellis_trellisAt_of_ne s g hne (f := Trellis.idle) (fun _ => ⟨rfl, rfl⟩), hv]
      exact State.updTrellis_trellisAt_same hv' (f := fun u => u.told n) (fun _ => ⟨rfl, rfl⟩)

end

end Sys2Proof.Machine
end

section
/-! SUPPORT. The completion of a launch, and the obligation on groups, sections and completion (R40 to R42, R66 to R73, R77, R78). -/
namespace Sys2Proof.Machine

/-! ### Stores and reads leave the completion history -/

@[simp] theorem State.dieTime_history (s : State) (d : Nat) : (s.dieTime d).history = s.history := by simp [State.dieTime]

@[simp] theorem State.eccAt_history (s : State) (pa : Nat) : (s.eccAt pa).history = s.history := by
  unfold State.eccAt
  repeat' split
  all_goals simp

@[simp] theorem State.eccMeet_history (s : State) (pas : List Nat) : (s.eccMeet pas).history = s.history :=
  foldl_keeps State.history (fun s _ => s.eccAt_history _) _ s

@[simp] theorem latchFault_history (s : State) (c : CoreRef) (code va lsid : Nat) : (latchFault s c code va lsid).history = s.history := by
  unfold latchFault
  dsimp only
  split
  · rfl
  · split <;> rfl

@[simp] theorem State.readError_history (s : State) (c : CoreRef) (uid slot : Nat) (sp : Span) : (s.readError c uid slot sp).history = s.history := by
  unfold State.readError
  dsimp only
  split
  · rw [latchFault_history]
    rfl
  · rfl

@[simp] theorem State.freezeAccess_history (s : State) (r : NodeRef) (elem code : Nat) : (s.freezeAccess r elem code).history = s.history := by
  unfold State.freezeAccess
  split <;> rfl

@[simp] theorem State.answer_history (s : State) (w : Waiter) (kind : Option Nat) (sp : Span) (bs : List Byte) (dead : Bool) :
    (s.answer w kind sp bs dead).history = s.history := by
  cases w <;> rfl

theorem State.answerOne_history (s : State) (f : Deferred) : (s.answerOne f).history = s.history := by
  unfold State.answerOne
  dsimp only
  repeat' split
  all_goals simp

theorem State.answerRounds_history : ∀ (fuel : Nat) (s : State), (s.answerRounds fuel).history = s.history
  | 0, _ => rfl
  | fuel + 1, s => by
    unfold State.answerRounds
    dsimp only
    split
    · rfl
    · exact (State.answerRounds_history fuel _).trans (foldl_keeps State.history State.answerOne_history _ _)

theorem State.answerDeferred_history (s : State) : s.answerDeferred.history = s.history := State.answerRounds_history _ s

@[simp] theorem State.hostStore_history (s : State) (first : Option Nat) (node addr : Nat) (bytes : List Byte) :
    (s.hostStore first node addr bytes).history = s.history := (congrArg State.history (s.hostStore_frame first node addr bytes) :)

theorem State.outerStore_history {s u : State} {sp : Span} {bs : List Byte} (h : s.outerStore sp bs = some u) : u.history = s.history := by
  unfold State.outerStore at h
  split at h
  · cases h
  · rw [← Option.some.inj h, State.answerDeferred_history]
    refine (foldl_keeps (fun a : State × List Byte => a.1.history) (fun a e => ?_) sp _).trans (s.eccMeet_history _)
    have hput (t : State) (ht : t.history = a.1.history) :
        (if e.1.attr = 0 then t else (List.range (e.2 / 8)).foldl (fun t i => t.setPresent (e.1.pa + 8 * i)) t).history = a.1.history := by
      split
      · exact ht
      · exact (foldl_keeps State.history (f := fun t i => t.setPresent (e.1.pa + 8 * i)) (fun _ _ => rfl) _ t).trans ht
    refine hput _ ?_
    split
    · exact State.hostStore_history _ _ _ _ _
    · rfl

/-! ### The completion record (R41, R42) -/

/-- What is sent in place of a record that cannot be written. -/
def State.recordLost (s : State) (l : Launch) (e : EndRec) : State :=
  s.tell l.port l.node 1 0x182 l.tag (leBytes 4 l.lid ++ leBytes 1 e.status ++ [0] ++ leBytes 2 (if e.status = 0 then l.races else e.detail))

theorem State.recordLost_frame (s : State) (l : Launch) (e : EndRec) : s.recordLost l e = s.wired (s.recordLost l e) := s.tell_frame ..

theorem State.writeRecord_of_error {s : State} {l : Launch} {x : XFault}
    (h : spanOf s (.die 16) l.space l.caddr 64 { wr := true, rd := false, sup := true } = .error x) (e : EndRec) : s.writeRecord l e = s.recordLost l e := by
  unfold State.writeRecord
  rw [h]
  rfl

theorem State.writeRecord_of_store {s u : State} {l : Launch} {e : EndRec} {sp : Span}
    (h : spanOf s (.die 16) l.space l.caddr 64 { wr := true, rd := false, sup := true } = .ok sp)
    (hu : s.outerStore sp (completionRecord l e s.clock) = some u) : s.writeRecord l e = u := by
  unfold State.writeRecord
  rw [h]
  dsimp only
  rw [hu, Option.getD_some]

theorem State.writeRecord_history (s : State) (l : Launch) (e : EndRec) : (s.writeRecord l e).history = s.history := by
  have hlost : (s.recordLost l e).history = s.history := (congrArg State.history (s.recordLost_frame l e) :)
  unfold State.writeRecord
  dsimp only
  split
  · exact hlost
  · next sp _ =>
    cases hu : s.outerStore sp (completionRecord l e s.clock) with
    | none => exact (State.eccMeet_history _ _).trans hlost
    | some u => exact State.outerStore_history hu

/-! ### Completion (R40, R388) -/

/-- A state once a launch that has ended is out of it. -/
def State.without (s : State) (lid : Nat) (l : Launch) (e : EndRec) : State := ((s.writeRecord l e).teardown lid).noteDone lid e.status

/-- A state once the launches that waited for one that failed are to end as well. -/
def State.settled (s : State) (lid : Nat) (l : Launch) (e : EndRec) : State :=
  if e.status = 0 then s.without lid l e else (s.without lid l e).failDependents lid l.order

theorem State.complete_eq {s : State} {lid : Nat} {l : Launch} {e : EndRec} (hl : s.launch lid = some l) (he : l.ending = some e)
    (hdone : s.accessesDone lid e.status) : s.complete lid = (s.settled lid l e).tryFlip := by
  unfold State.complete
  rw [hl]
  dsimp only
  rw [he]
  dsimp only
  rw [hdone, if_neg (by decide), ← State.without, ← State.settled]

theorem State.settled_frame (s : State) (lid : Nat) (l : Launch) (e : EndRec) :
    s.settled lid l e = { s.without lid l e with launches := (s.settled lid l e).launches } := by
  unfold State.settled
  generalize s.without lid l e = u
  split <;> rfl

/-- The weight switch changes what the links hold, WSEL and load control alone. -/
theorem State.tryFlip_frame (s : State) : ∃ outbox ports fresh wsel load,
    s.tryFlip = { s with outbox := outbox, ports := ports, fresh := fresh, wsel := wsel, load := load } := by
  unfold State.tryFlip
  split
  · rw [State.tell_frame]
    exact ⟨_, _, _, _, _, rfl⟩
  · exact ⟨_, _, _, _, _, rfl⟩

theorem State.tryFlip_of_rest {s : State} (h : s.load.phase ≠ .switchPending) : s.tryFlip = s := by
  refine if_neg fun hall => h ?_
  exact beq_iff_eq.1 (Bool.and_eq_true_iff.1 hall).1

theorem Launch.preFails_spec (l : Launch) (i now : Nat) : (l.preFails i now).record = l.record ∧ (l.preFails i now).order = l.order
    ∧ (l.preFails i now).ending ≠ none := by
  unfold Launch.preFails
  split
  · exact ⟨rfl, rfl, fun h => by cases h⟩
  · next e he =>
    split
    · exact ⟨rfl, rfl, fun h => by cases h⟩
    · exact ⟨rfl, rfl, by rw [he]; exact fun h => by cases h⟩

/-- Every launch of a settled state was there before, apart from how it ends. -/
theorem State.settled_launches {s : State} {lid : Nat} {l k : Launch} {e : EndRec} (hk : k ∈ (s.settled lid l e).launches) :
    k.lid ≠ lid ∧ (e.status ≠ 0 → l.order < k.order → k.preIdx lid ≠ none → k.ending ≠ none) := by
  have hmem {j : Launch} (hj : j ∈ (s.without lid l e).launches) : j.lid ≠ lid := by simpa using (List.mem_filter.1 hj).2
  unfold State.settled at hk
  split at hk
  · next hzero => exact ⟨hmem hk, fun hne => absurd hzero hne⟩
  · obtain ⟨j, hj, rfl⟩ := List.mem_map.1 hk
    split
    · next i hi =>
      split
      · obtain ⟨hrec, -, hend⟩ := j.preFails_spec i (s.without lid l e).clock
        have hlid : (j.preFails i (s.without lid l e).clock).lid = j.lid := by simp only [Launch.lid, Launch.field, hrec]
        exact ⟨by rw [hlid]; exact hmem hj, fun _ _ _ => hend⟩
      · next hlate => exact ⟨hmem hj, fun _ hearly => absurd hearly hlate⟩
    · next hnone => exact ⟨hmem hj, fun _ _ hpre => absurd hnone hpre⟩

/-- What a completion leaves of the launch that has ended. -/
theorem State.settled_spec (s : State) (lid : Nat) (l : Launch) (e : EndRec) : (s.settled lid l e).launch lid = none
    ∧ (s.settled lid l e).history = (s.history ++ [(lid, e.status)]).drop (s.history.length + 1 - 4096)
    ∧ (∀ p ∈ (s.settled lid l e).placed, p.lid ≠ lid) ∧ (∀ h ∈ (s.settled lid l e).chans, h.lid ≠ lid)
    ∧ (∀ x ∈ (s.settled lid l e).elems, x.ref.lid ≠ lid) ∧ ∀ x ∈ (s.settled lid l e).cores, x.1.lid ≠ lid := by
  have hgone {α : Type} {p : α → Nat} {xs : List α} : ∀ x ∈ xs.filter (fun x => p x != lid), p x ≠ lid := fun x hx => by
    simpa using (List.mem_filter.1 hx).2
  refine ⟨List.find?_eq_none.2 fun k hk => by simpa using (State.settled_launches hk).1, ?_⟩
  rw [State.settled_frame]
  refine ⟨?_, hgone, hgone, hgone, hgone⟩
  have hwritten : ((s.writeRecord l e).teardown lid).history = s.history := s.writeRecord_history l e
  dsimp only [State.without, State.noteDone]
  rw [hwritten, List.length_append, List.length_singleton]

/-! ### The obligation -/

/-- Settles O50: groups, sections, task records, the trellis and completion. That a group of a graph without nodes is done at once (log 103), which
accesses hold a completion back (log 70), the TAG of COMPLETION_LOST (log 75), and what becomes of a record that a WO page does not take (log 106)
are the model's choices. -/
theorem groupsAndCompletion : Obligations.GroupsAndCompletion := by
  refine ⟨?start, ?ready, ?done, ?task, ?enable, ?doneToken, ?complete⟩
  case start =>
    intro s lid l hl hruns hnext htwo hnew
    obtain ⟨-, hend⟩ := State.launchRuns_spec hl hruns
    refine ⟨_, congrArg Host.Outcome.next (State.startGroup_eq hl hruns hnext htwo), fun hnodes => ?_, fun hnodes => ?_⟩
    · have hunfinished : false ∈ (GroupRun.start l.nextGroup l.nodes).finished := by
        obtain ⟨n, ns, hns⟩ := List.exists_cons_of_ne_nil hnodes
        exact List.mem_map.2 ⟨n, by rw [Launch.nodes, hns]; exact List.mem_cons_self, rfl⟩
      rw [State.closeGroup_of_unfinished (State.opened_groupAt hl hnew l.nodes) hunfinished]
      exact ⟨State.opened_launch hl l.nextGroup l.nodes, fun n g hg hfree hd => s.opened_ready hg hfree hd⟩
    · rw [show l.nodes = [] from hnodes]
      exact State.closeGroup_opened_of_empty hl hend hnew
  case ready =>
    intro s d lid group node g hd hrun hturn hfind hg
    have heq := State.serveReady_eq hrun hturn hfind hg _ rfl
    refine ⟨fun hkind htiles => ⟨_, congrArg Host.Outcome.next (heq.trans (if_pos ⟨hkind, htiles⟩)), ?_, ?_, fun r hr hpage hnode => ?_⟩,
      fun hnot => congrArg Host.Outcome.next (heq.trans (if_neg fun h => hnot.elim (· h.1) h.2))⟩
    · rw [State.arm_seqAt, State.setSeq_seqAt_same s hd]
    · rw [State.arm_armings, State.setSeq_armings]
      simp only [State.armingOf, State.sectOf, State.place, State.setSeq_placed]
    · refine State.arm_offer _ _ _ _ _ _ _ hr (hpage.trans ?_) (hnode.trans ?_) <;> simp only [State.sectOf, State.place, State.setSeq_placed]
  case done =>
    intro s lid node group a r hfind htask hr hnode hother
    have hexec : s.sectionDone lid node group = ({ s with armings := s.armings.erase a } : State).nodeDone lid group node := by
      simp [State.sectionDone, hfind, htask]
    obtain ⟨harm, r', hr', hfin, hcnt⟩ := State.nodeDone_spec (s := { s with armings := s.armings.erase a }) (node := node) hr hother
    refine ⟨_, r', congrArg Host.Outcome.next hexec, harm, hr', ?_, fun k hk => ?_, hcnt⟩
    · rw [hfin, setAt_getD_same hnode]
    · rw [hfin, setAt_getD_of_ne hk]
  case task =>
    intro s d r hd hrun hturn hfind
    have heq := State.serveTask_eq hrun hturn hfind _ rfl
    have hsect (q : GraphSeq) (g : GNode) : (s.setSeq d q).sectOf r.lid g = s.sectOf r.lid g := by
      simp only [State.sectOf, State.place, State.setSeq_placed]
    refine ⟨fun g hg hkind => ?_, fun l hbad hl hend => ?_⟩
    · have hfilter : (s.gnode r.lid r.node).filter (fun g => g.kind == 1) = some g := by rw [hg]; simp [Option.filter, hkind]
      rw [hfilter, Option.map_some, Option.getD_some] at heq
      refine ⟨_, congrArg Host.Outcome.next heq, ?_, ?_, fun hlink => ?_⟩
      · rw [State.arm_armings, State.argued_frame]
        refine congrArg₂ (· ++ ·) (s.setSeq_armings d _) (congrArg (fun x => [x]) ?_)
        exact congrArg (fun x : PageRef × Nat => ({ lid := r.lid, group := r.gidx, node := r.node, page := x.1, root := x.2, task := true } : Arming))
          (hsect _ g)
      · rw [State.arm_seqAt, State.argued_frame]
        exact congrArg GraphSeq.tasks (State.setSeq_seqAt_same s hd _)
      · have hcore (q : GraphSeq) : (s.setSeq d q).coreOfSect r.lid g = s.coreOfSect r.lid g := by rw [State.coreOfSect, hsect, State.coreOfSect]
        change PageCore.srcQ _ 31 = _
        rw [PageCore.srcQ, State.arm_src, hcore]
        refine (State.argued_srcQ (c := s.coreOfSect r.lid g) ?_ r.arg).trans ?_
        · rw [State.viLink_of_same (s.setSeq_chans d _) (s.setSeq_cores d _)]
          exact hlink
        · rw [show State.core (s.setSeq d _) (s.coreOfSect r.lid g) = s.core (s.coreOfSect r.lid g) by simp only [State.core, State.setSeq_cores]]
          rfl
    · have hfilter : (s.gnode r.lid r.node).filter (fun g => g.kind == 1) = none := by
        rcases hbad with hnone | ⟨g, hg, hkind⟩
        · rw [hnone]; rfl
        · rw [hg]; simp [Option.filter, hkind]
      rw [hfilter, Option.map_none, Option.getD_none] at heq
      refine ⟨_, congrArg Host.Outcome.next heq, State.nodeFault_ends ?_ hend _ _ _ _⟩
      simpa [State.launch] using hl
  case enable =>
    intro s page node count tr hruns htr hoffer htoken hdone hself hnodup hwindow hcount hkids
    have heq := State.takeEnable_eq htr hruns hoffer htoken hdone hcount hkids
    obtain ⟨u, hu, hutoken, huoffer⟩ := State.enabled_node (count := count) htr hself
    refine ⟨_, u, congrArg Host.Outcome.next heq, hu, hutoken, huoffer, fun c cnt rest hfirst => ⟨fun hc ⟨w, hw, hwtoken, hwoffer⟩ => ?_,
      fun hc ⟨w, hw, hwtoken⟩ => State.enabled_child_leaf htr hfirst hnodup hcount hwindow hc hw hwtoken⟩⟩
    exact State.enabled_child_node htr hfirst hnodup hcount hwindow hc (hself (c, cnt) (by rw [hfirst]; exact List.mem_cons_self)) hw hwtoken hwoffer
  case doneToken =>
    intro s page node child k tr hruns htr hdone hkid htoken hself hkids
    have hcount : (s.updTrellis page node (fun t => t.counted child k)).trellisAt page node = some (tr.counted child k) :=
      State.updTrellis_trellisAt_same htr (f := fun t => t.counted child k) (fun _ => ⟨rfl, rfl⟩)
    have hcomplete : (tr.counted child k).complete ↔ ∀ j < tr.kids.length, (setAt tr.finished k (fun i => i + 1)).getD j 0 = tr.total :=
      Trellis.complete_iff htoken
    have hpage := State.enablePage_still ((s.updTrellis page node (fun t => t.counted child k)).finishNode page node) page page
    have heq := State.takeDone_eq htr hruns hdone hkid
    dsimp only
    by_cases hall : (tr.counted child k).complete
    · obtain ⟨hidle, hroot, hparent⟩ := State.finishNode_complete_spec hcount hall hself
      have hu := hpage node
      rw [hidle, Option.map_some] at hu
      obtain ⟨u, hu, hutoken, -, hufin, -⟩ := exists_of_map_still hu
      refine ⟨_, u, congrArg Host.Outcome.next heq, hu, hufin, fun _ => ⟨hutoken, ?_, fun p v hp hv => ?_⟩,
        fun ⟨j, hj, hne⟩ => absurd (hcomplete.1 hall j hj) hne⟩
      · rw [State.enablePage_armings]
        exact hroot
      · have hpne : p ≠ node := fun h => hself (h ▸ hp)
        have hw := hpage p
        rw [hparent p v hp (by rw [State.updTrellis_trellisAt_of_ne s page hpne (f := fun t => t.counted child k) (fun _ => ⟨rfl, rfl⟩), hv]),
          Option.map_some] at hw
        obtain ⟨w, hw, -, -, -, hwdone⟩ := exists_of_map_still hw
        exact ⟨w, hw, hwdone⟩
    · have hu := hpage node
      rw [State.finishNode_open_still hcount (by simpa using hall)] at hu
      obtain ⟨u, hu, hutoken, -, hufin, -⟩ := exists_of_map_still hu
      exact ⟨_, u, congrArg Host.Outcome.next heq, hu, hufin, fun h => absurd (hcomplete.2 h) hall, fun _ => hutoken⟩
  case complete =>
    intro s lid l e hl he hdone
    obtain ⟨hlaunch, hhistory, hplaced, hchans, helems, hcores⟩ := s.settled_spec lid l e
    refine ⟨_, congrArg Host.Outcome.next (State.complete_eq hl he hdone), ?_⟩
    obtain ⟨outbox, ports, fresh, wsel, load, hflip⟩ := (s.settled lid l e).tryFlip_frame
    rw [hflip]
    refine ⟨hlaunch, hhistory, hplaced, hchans, helems, hcores, fun hne k hk => (State.settled_launches hk).2 hne, fun sp u hsp hu => ?_,
      fun x hphase hx => ?_⟩
    · rw [← State.writeRecord_of_store hsp hu]
      exact (congrArg State.mem (s.settled_frame lid l e) :)
    · have hlost : (s.writeRecord l e).load = s.load := by
        rw [State.writeRecord_of_error hx, State.recordLost_frame]
        rfl
      have hload : (s.settled lid l e).load = s.load := (congrArg State.load (s.settled_frame lid l e) :).trans hlost
      have hout := congrArg State.outbox (hflip.symm.trans (State.tryFlip_of_rest (by rwa [hload])))
      have hsent : (s.writeRecord l e).outbox = (s.recordLost l e).outbox := congrArg State.outbox (State.writeRecord_of_error hx e)
      exact hout.trans ((congrArg State.outbox (s.settled_frame lid l e) :).trans hsent)

end Sys2Proof.Machine
end

section
/-! SUPPORT. Every instruction runs in one of five ways, and a step goes on (R79, R247, R257 to R259). -/
namespace Sys2Proof.Machine

/-! ### How an instruction runs -/

/-- How an instruction runs: as one of the four shapes of a firing, in the kinds of block in which R257 makes it legal, or as an event, which has no
word and always goes on. -/
inductive RunsAs (i : Instr) : Prop
  | alu (word : (encode i).isSome) (runs : ∀ s, ∃ p ts uses fm f, exec i s = execAlu s p ts uses fm f)
  | both (word : (encode i).isSome) (runs : ∀ s, ∃ p uses f g, exec i s = execBoth s p uses f g)
  | core (word : (encode i).isSome) (legal : i.blocks = (true, false)) (runs : ∀ s, ∃ p uses f, exec i s = execCore s p uses f)
  | elem (word : (encode i).isSome) (legal : i.blocks = (false, true)) (runs : ∀ s, ∃ p uses g, exec i s = execElem s p uses g)
  | event (legal : i.blocks = (false, false)) (runs : ∀ s, Goes (exec i s))

theorem runsAs (i : Instr) : RunsAs i := by
  cases i with
  | nop | movi | movk | add | addi | sub | mul | mulh | div | rem | adds | subs | min | max | abs | neg | lea | andB | orB | xorB | andn | notB | shl |
    shr | shra | rot | clz | popc | bfx | bfi | cmp | testBits | sel | stkg | stks | stkc | fadd | fsub | fmul | ffma | fdiv | fsqrt | fmin | fmax |
    fabs | fneg | fcmp | fclass | fexp2 | flog2 | frcp | frsq | ftanh | cvt | narrow | final | scale | mxsc | dot4 | dot8 | addp | shlp | shrp | bperm |
    rng | genofPrec =>
    refine .alu rfl fun s => ?_
    unfold exec
    exact ⟨_, _, _, _, _, rfl⟩
  | inPort | outPort | outm | mrk | segl | segn | ctxsw | genofIn =>
    refine .both rfl fun s => ?_
    unfold exec
    exact ⟨_, _, _, _, rfl⟩
  | getr | setr | nullw | getc | setc | bx | bxr | callb | retb | leaBlk | inCnt | inSpc | inAcc | inMrk | strmMem | strmTile | strmDrain | strmAcc |
    fgstage | fgseed | fgstat | ld | ldi | lda | st | stl | ldimg | stimg | till | tillg | pres | atom | fatom | cpyl | gath | scat | coll | resp |
    fence | xfence | xwait | tld | tst | tzero | treshape | tmov | tfill | wloadT | wloadW | wswap | mma | mmas | accz | accd | sortcfg | topk |
    launchp | prune | seqOpen | seqClose | barInit | barArr | barWait | spawn | graise | gidxIdx | gidxCnt | tdone | trap | eret | sysc | ckptCont |
    ckptYield | tlbi | brk | perfCfg | perfRd | perfCnt | perfClr | haltdStop | haltdFrz =>
    refine .core rfl rfl fun s => ?_
    unfold exec
    exact ⟨_, _, _, rfl⟩
  | sdcvt | sdadd | sdmul | sdcut | sdcmp | sdtowf | rsum | rmax | rmin | recGet | recSet | recNew | recDone | recRej | steer | merge | omerge |
    recirc | guess =>
    refine .elem rfl rfl fun s => ?_
    unfold exec
    exact ⟨_, _, _, rfl⟩
  | crossDieTimeout | lateResponse | linkStall | linkStallCleared | linkTraining | flitReceive | flitNak | portRetrain | rocePacket | launch |
    prepare | loaderShardsFetched | switch | abort | attest | setPtbase | frostRead | dbgSample | dbgRead | resume | kill | replayArm | replayRead |
    errlogRead | dumpRead | dumpClear | groupStart | readyListServe | sectionDone | taskRecordServe | trellisEnable | trellisDone | launchCompletion |
    elementFire | drainReport | retire | memnodePruneScan | guessRecord | commitNotice | foragerDecision | verticalParityError | controlLinkLoss |
    engineResponse | collGroupFill | streamCommandBeat | blockBegin | loadResponse | blockCommit | deferredFault | cutStart | dormantResume |
    breakpointFire | dbpWrite | gthWrite | maxflWrite | ehcfgClr | registerWrite | dieClockStop | dieClockRestart | retireAcknowledge |
    tileInstructionCompletion | powerOn | supplyOutOfRange | thermalTrip | powerControllerEvaluation | roceRateRecovery | loaderLimitExpiry |
    dispatcherHeadChoice | imageChecks | placement | configLoad | graftStart | graftResume | preemption | supplyDroop | supplyInRange =>
    refine .event rfl fun s => ?_
    unfold exec
    exact ⟨_, rfl⟩
  | conditionTokenArrival | pruneArrival | drainMarkerArrival | bankAccess | pageWalk | dormancyMarkerArrival | cutComplete | noProgressLimit |
    bucketRefill | cutTimeout =>
    refine .event rfl fun s => ?_
    simp only [exec_conditionTokenArrival, exec_pruneArrival, exec_drainMarkerArrival, exec_bankAccess, exec_pageWalk, exec_dormancyMarkerArrival,
      exec_cutComplete, exec_noProgressLimit, exec_bucketRefill, exec_cutTimeout, execConditionTokenArrival, execPruneArrival,
      execDrainMarkerArrival, execBankAccess, execPageWalk, execDormancyMarkerArrival, execCutComplete, execNoProgressLimit, execBucketRefill,
      execCutTimeout]
    split <;> exact ⟨_, rfl⟩

/-! ### Where an instruction goes on -/

theorem Goes.ends {o : Host.Outcome State Fault Refusal} (h : Goes o) : Ends o := .inl h

/-- An instruction meets no fault, and no refusal but that of a word out of place. -/
theorem exec_ends (i : Instr) (s : State) : Ends (exec i s) := by
  cases runsAs i with
  | alu _ runs => obtain ⟨_, _, _, _, _, h⟩ := runs s; exact h ▸ execAlu_ends ..
  | both _ runs => obtain ⟨_, _, _, _, h⟩ := runs s; exact h ▸ execBoth_ends ..
  | core _ _ runs => obtain ⟨_, _, _, h⟩ := runs s; exact h ▸ execCore_ends ..
  | elem _ _ runs => obtain ⟨_, _, _, h⟩ := runs s; exact h ▸ execElem_ends ..
  | event _ runs => exact (runs s).ends

theorem exec_goes_of_event {i : Instr} (h : encode i = none) (s : State) : Goes (exec i s) := by
  cases runsAs i with
  | event _ runs => exact runs s
  | alu word _ | both word _ | core word _ _ | elem word _ _ => simp [h] at word

theorem exec_goes_of_core {i : Instr} {s : State} {c : CoreRef} {bi slot : Nat} {b : Block} (hi : i.blocks.1) (hs : s.focus = .core c bi slot)
    (hb : (s.core c).blocks[bi]? = some b) : Goes (exec i s) := by
  cases runsAs i with
  | alu _ runs => obtain ⟨_, _, _, _, _, h⟩ := runs s; exact h ▸ execAlu_goes hs hb ..
  | both _ runs => obtain ⟨_, _, _, _, h⟩ := runs s; exact h ▸ execBoth_goes hs hb ..
  | core _ _ runs => obtain ⟨_, _, _, h⟩ := runs s; exact h ▸ execCore_goes hs hb ..
  | elem _ legal _ | event legal _ => simp [legal] at hi

theorem exec_goes_of_elem {i : Instr} {s : State} {slot : Nat} {f : Firing} (hi : i.blocks.2) (hs : s.focus = .elem slot) (hf : s.firing = some f) :
    Goes (exec i s) := by
  cases runsAs i with
  | alu _ runs => obtain ⟨_, _, _, _, _, h⟩ := runs s; exact h ▸ execAlu_goesElem hs hf ..
  | both _ runs => obtain ⟨_, _, _, _, h⟩ := runs s; exact h ▸ execBoth_goesElem hs hf ..
  | elem _ _ runs => obtain ⟨_, _, _, h⟩ := runs s; exact h ▸ execElem_goesElem hs hf ..
  | core _ legal _ | event legal _ => simp [legal] at hi

/-! ### The choice of a step -/

/-- What a step chose goes on. -/
def ChoiceGoes (x : State × Option Instr) : Prop := ∀ i, x.2 = some i → Goes (exec i x.1)

theorem step_of_choose {s t : State} {i : Instr} (h : s.choose = (t, some i)) : step s = exec i t := by
  simp only [step, h]

theorem step_of_choose_none {s t : State} (h : s.choose = (t, none)) : step s = .next t := by
  simp only [step, h]

theorem step_goes_of_choice {s : State} (h : ChoiceGoes s.choose) : Goes (step s) := by
  rcases hc : s.choose with ⟨t, o⟩
  rw [hc] at h
  cases o with
  | none => exact ⟨t, step_of_choose_none hc⟩
  | some i => exact step_of_choose hc ▸ h i rfl

/-- Every page core holds only instructions of C-blocks (R257, R258). -/
def State.coresLegal (s : State) : Prop := ∀ (c : CoreRef), ∀ b ∈ (s.core c).blocks, ∀ k i, b.insn k = some i → i.blocks.1

theorem State.fireAt_choiceGoes {s : State} (h : s.coresLegal) (c : CoreRef) (bi slot : Nat) : ChoiceGoes (s.fireAt c bi slot) := by
  intro i hi
  unfold State.fireAt at hi ⊢
  split at hi
  · simp at hi
  · obtain ⟨b, hb, hin⟩ := Option.bind_eq_some_iff.1 hi
    rw [if_neg ‹_›]
    exact exec_goes_of_core (h c b (List.mem_of_getElem? hb) slot i hin) rfl hb

theorem State.progress_choiceGoes {s : State} (h : s.coresLegal) (c : CoreRef) : ChoiceGoes (s.progress c) := by
  unfold State.progress
  split
  · exact State.fireAt_choiceGoes h c _ _
  · intro i hi
    simp at hi

theorem mem_of_inPortOrder {l r : List Agenda} {e : Agenda} (h : inPortOrder l = e :: r) : e ∈ l := by
  unfold inPortOrder at h
  split at h
  · next hk => cases h; exact List.mem_of_getElem? hk
  · exact h ▸ List.mem_cons_self

theorem State.choose_choiceGoes {s : State} (hcore : s.coresLegal) (helem : ∀ f, s.firing = some f → ∀ k i, f.code.insn k = some i → i.blocks.2)
    (hevent : ∀ i, .event i ∈ s.agenda → encode i = none) : ChoiceGoes s.choose := by
  have hcore' (r : List Agenda) : ({ s with agenda := r } : State).coresLegal := hcore
  unfold State.choose
  split
  · next f hf =>
    split
    · exact fun i hi => exec_goes_of_elem (helem f hf _ i hi) rfl hf
    · exact fun i hi => by simp at hi
  · split
    · next hr =>
      intro i hi
      cases hi
      exact exec_goes_of_event (hevent _ (mem_of_inPortOrder hr)) _
    · exact State.fireAt_choiceGoes (hcore' _) _ _ _
    · exact State.progress_choiceGoes (hcore' _) _
    · split
      · exact State.progress_choiceGoes hcore _
      · exact fun i hi => by simp at hi

/-! ### The obligation -/

/-- Settles O60: an instruction runs in one of five ways (`runsAs`), each of which goes on in the blocks in which it is legal, and a step executes
only what stands in a block of its kind or is an event. -/
theorem stepGoesOn : Obligations.StepGoesOn :=
  ⟨exec_ends, fun _ s h => exec_goes_of_event h s, fun _ _ _ _ _ _ => exec_goes_of_core, fun _ _ _ _ => exec_goes_of_elem,
    fun _ hcore helem hevent => step_goes_of_choice (State.choose_choiceGoes hcore helem hevent)⟩

end Sys2Proof.Machine
end

section
/-! SUPPORT. What a step executes, and the obligation on it (R53, R243, R247, R251). -/
namespace Sys2Proof.Machine

/-! ### The order of the agenda (R53) -/

theorem lt_length_takeWhile {α : Type} {p : α → Bool} : ∀ {l : List α} {j : Nat}, (∀ m ≤ j, ∃ x, l[m]? = some x ∧ p x) → j < (l.takeWhile p).length
  | [], j, h => by simpa using h 0 (Nat.zero_le _)
  | x :: l, j, h => by
    have hx : p x := by simpa using h 0 (Nat.zero_le _)
    rw [List.takeWhile_cons_of_pos hx]
    cases j with
    | zero => simp
    | succ j => simpa using lt_length_takeWhile (l := l) (j := j) (fun m hm => by simpa using h (m + 1) (by omega))

/-- The launch ports of the messages that stand first in an agenda. -/
def launchRun (l : List Agenda) : List (Option Nat) := (l.map launchPort).takeWhile Option.isSome

/-- The better of two places in a list of ports. -/
def lowerPort (ps : List (Option Nat)) (m k : Nat) : Nat :=
  match ps.getD k none, ps.getD m none with
  | some a, some b => if a < b then k else m
  | _, _ => m

theorem firstLaunch_eq (l : List Agenda) : firstLaunch l = (List.range (launchRun l).length).foldl (lowerPort (launchRun l)) 0 := rfl

theorem launchRun_length_le (l : List Agenda) : (launchRun l).length ≤ l.length := by
  simpa [launchRun] using (List.takeWhile_prefix Option.isSome (l := l.map launchPort)).length_le

theorem launchRun_getD {l : List Agenda} {j : Nat} (h : j < (launchRun l).length) :
    (launchRun l).getD j none = (l[j]?).bind launchPort ∧ ((launchRun l).getD j none).isSome := by
  have hj : j < l.length := h.trans_le (launchRun_length_le l)
  have hget := (List.takeWhile_prefix Option.isSome (l := l.map launchPort)).getElem h
  have hsome : ((launchRun l)[j]).isSome := List.mem_takeWhile_imp (List.getElem_mem h)
  rw [List.getD_eq_getElem _ _ h]
  refine ⟨?_, hsome⟩
  rw [List.getElem?_eq_getElem hj, Option.bind_some]
  exact hget.trans (List.getElem_map _)

theorem lt_launchRun_length {l : List Agenda} {j : Nat} (h : ∀ m ≤ j, (l[m]?).bind launchPort ≠ none) : j < (launchRun l).length := by
  refine lt_length_takeWhile fun m hm => ?_
  obtain ⟨p, hp⟩ := Option.ne_none_iff_exists'.1 (h m hm)
  obtain ⟨e, he, hep⟩ := Option.bind_eq_some_iff.1 hp
  exact ⟨some p, by simp [he, hep], rfl⟩

/-- The place that the search finds among the first n holds the lowest port, and is the first that does. -/
theorem foldl_lowerPort {ps : List (Option Nat)} (hps : ∀ j < ps.length, (ps.getD j none).isSome) : ∀ {n : Nat}, n ≤ ps.length →
    (∀ j < n, (List.range n).foldl (lowerPort ps) 0 < n ∧ ∀ p q, ps.getD ((List.range n).foldl (lowerPort ps) 0) none = some p →
      ps.getD j none = some q → p ≤ q ∧ (j < (List.range n).foldl (lowerPort ps) 0 → p < q))
  | 0, _ => by simp
  | n + 1, hn => by
    intro j hj
    have ih := fun j => foldl_lowerPort hps (n := n) (by omega) j
    rw [List.range_succ, List.foldl_append, List.foldl_cons, List.foldl_nil]
    generalize hm : (List.range n).foldl (lowerPort ps) 0 = m at ih ⊢
    have hmlt : m < n ∨ (n = 0 ∧ m = 0) := by
      rcases Nat.eq_zero_or_pos n with h0 | h0
      · subst h0; exact .inr ⟨rfl, by simpa using hm.symm⟩
      · exact .inl (ih 0 h0).1
    obtain ⟨a, ha⟩ := Option.isSome_iff_exists.1 (hps n (by omega))
    obtain ⟨b, hb⟩ := Option.isSome_iff_exists.1 (hps m (by omega))
    have hjn : j < n ∨ j = n := by omega
    rw [lowerPort, ha, hb]
    dsimp only
    split
    · next hab =>
      refine ⟨by omega, fun p q hp hq => ?_⟩
      rw [ha] at hp
      cases hp
      rcases hjn with hjn | rfl
      · have := (ih j hjn).2 b q hb hq
        omega
      · rw [ha] at hq
        cases hq
        omega
    · next hab =>
      refine ⟨by omega, fun p q hp hq => ?_⟩
      rw [hb] at hp
      cases hp
      rcases hjn with hjn | rfl
      · exact (ih j hjn).2 b q hb hq
      · rw [ha] at hq
        cases hq
        omega

/-- The first launch message of the lowest port stands among those that stand first, or is the head where none does. -/
theorem firstLaunch_spec {l : List Agenda} {j : Nat} (hj : j < (launchRun l).length) :
    firstLaunch l < (launchRun l).length ∧ ∀ p q, (l[firstLaunch l]?).bind launchPort = some p → (l[j]?).bind launchPort = some q →
      p ≤ q ∧ (j < firstLaunch l → p < q) := by
  obtain ⟨hlt, hmin⟩ := foldl_lowerPort (fun j hj => (launchRun_getD hj).2) (Nat.le_refl _) j hj
  rw [← firstLaunch_eq] at hlt hmin
  rw [(launchRun_getD hlt).1, (launchRun_getD hj).1] at hmin
  exact ⟨hlt, hmin⟩

theorem firstLaunch_of_head {l : List Agenda} (h : l.head?.bind launchPort = none) : firstLaunch l = 0 := by
  have hrun : launchRun l = [] := by
    cases l with
    | nil => rfl
    | cons e r =>
      have he : launchPort e = none := by simpa using h
      simp [launchRun, he]
  rw [firstLaunch_eq, hrun]
  rfl

theorem firstLaunch_lt {l : List Agenda} (h : l ≠ []) : firstLaunch l < l.length := by
  rcases Nat.eq_zero_or_pos (launchRun l).length with h0 | h0
  · rw [firstLaunch_eq, h0]
    exact List.length_pos_of_ne_nil h
  · exact (firstLaunch_spec h0).1.trans_le (launchRun_length_le l)

theorem inPortOrder_spec {l r : List Agenda} {e : Agenda} (h : inPortOrder l = e :: r) :
    l[firstLaunch l]? = some e ∧ r = l.eraseIdx (firstLaunch l) := by
  unfold inPortOrder at h
  split at h
  · next hk =>
    obtain ⟨rfl, rfl⟩ := List.cons.inj h
    exact ⟨hk, rfl⟩
  · next hk =>
    have hlen := firstLaunch_lt (l := l) (by rw [h]; exact List.cons_ne_nil _ _)
    rw [List.getElem?_eq_none_iff] at hk
    omega

theorem inPortOrder_of_head {l : List Agenda} (h : l.head?.bind launchPort = none) : inPortOrder l = l := by
  unfold inPortOrder
  rw [firstLaunch_of_head h]
  cases l <;> rfl

/-! ### What the step chooses -/

theorem Block.insn_of_decode {b : Block} {slot : Nat} {w : Word} {i : Instr} (hw : b.words[slot]? = some w) (hd : decodeWord w = .ok i) :
    b.insn slot = some i := by
  rw [Block.insn, hw]
  exact congrArg Except.toOption hd

theorem ECode.insn_of_decode {k : ECode} {slot : Nat} {w : Word} {i : Instr} (hw : k.words[slot]? = some w) (hd : decodeWord w = .ok i) :
    k.insn slot = some i := by
  rw [ECode.insn, hw]
  exact congrArg Except.toOption hd

theorem State.fireAt_of_moving {s : State} {c : CoreRef} {bi slot : Nat} {b : Block} {i : Instr} (h : s.still c = false)
    (hb : (s.core c).blocks[bi]? = some b) (hi : b.insn slot = some i) : s.fireAt c bi slot = ({ s with focus := .core c bi slot }, some i) := by
  rw [State.fireAt, h, State.insnAt, hb]
  exact congrArg (Prod.mk _) hi

theorem State.fireAt_of_still {s : State} {c : CoreRef} (h : s.still c) (bi slot : Nat) : s.fireAt c bi slot = ({ s with focus := .idle }, none) := by
  rw [State.fireAt, if_pos h]

theorem State.choose_of_fire {s : State} {c : CoreRef} {bi slot : Nat} {r : List Agenda} (hf : s.firing = none) (ha : s.agenda = .fire c bi slot :: r) :
    s.choose = ({ s with agenda := r } : State).fireAt c bi slot := by
  have hin : inPortOrder s.agenda = .fire c bi slot :: r := (inPortOrder_of_head (by rw [ha]; rfl)).trans ha
  simp only [State.choose, hf, hin]

theorem State.choose_of_event {s : State} {i : Instr} {r : List Agenda} (hf : s.firing = none) (ha : inPortOrder s.agenda = .event i :: r) :
    s.choose = ({ s with agenda := r, focus := .idle }, some i) := by
  simp only [State.choose, hf, ha]

theorem State.choose_of_progress {s : State} {c : CoreRef} {bi slot bj j : Nat} (hf : s.firing = none) (ha : s.agenda = [])
    (hs : s.focus = .core c bi slot) (hn : s.nextSlot c = some (bj, j)) : s.choose = s.fireAt c bj j := by
  simp only [State.choose, hf, ha, inPortOrder_of_head (l := []) rfl, State.defaultCore, hs, State.progress, hn]

theorem State.choose_of_firing {s : State} {f : Firing} {j : Nat} (hf : s.firing = some f) (hr : f.ready = some j) :
    s.choose = ({ s with focus := .elem j }, f.code.insn j) := by
  simp only [State.choose, hf, hr]

/-- The step of a slot that the agenda names, of a page core that moves. -/
theorem step_of_fire {s : State} {c : CoreRef} {bi slot : Nat} {r : List Agenda} {b : Block} {i : Instr} (hf : s.firing = none)
    (ha : s.agenda = .fire c bi slot :: r) (hs : s.still c = false) (hb : (s.core c).blocks[bi]? = some b) (hi : b.insn slot = some i) :
    step s = exec i { s with agenda := r, focus := .core c bi slot } :=
  step_of_choose ((State.choose_of_fire hf ha).trans (State.fireAt_of_moving (s := { s with agenda := r }) hs hb hi))

/-! ### Words of a block (R243) -/

theorem wordsOfBytes_length : ∀ (n : Nat) (bs : List Byte), (wordsOfBytes n bs).length = n
  | 0, _ => rfl
  | n + 1, bs => congrArg (· + 1) (wordsOfBytes_length n (bs.drop 4))

theorem wordOfBytes_take : ∀ {bs : List Byte}, 4 ≤ bs.length →
    wordOfBytes (bs.take 4) = some (bs.getD 3 0 ++ bs.getD 2 0 ++ bs.getD 1 0 ++ bs.getD 0 0)
  | _ :: _ :: _ :: _ :: _, _ => rfl

theorem getD_drop {α : Type} (l : List α) (n k : Nat) (d : α) : (l.drop n).getD k d = l.getD (n + k) d := by
  rw [List.getD_eq_getElem?_getD, List.getElem?_drop, List.getD_eq_getElem?_getD]

theorem wordsOfBytes_getElem? : ∀ {n k : Nat} {bs : List Byte}, bs.length = 4 * n → k < n →
    (wordsOfBytes n bs)[k]? = some (bs.getD (4 * k + 3) 0 ++ bs.getD (4 * k + 2) 0 ++ bs.getD (4 * k + 1) 0 ++ bs.getD (4 * k) 0)
  | n + 1, 0, bs, hlen, _ => by
    rw [wordsOfBytes, wordOfBytes_take (by omega)]
    rfl
  | n + 1, k + 1, bs, hlen, hk => by
    rw [wordsOfBytes, List.getElem?_cons_succ, wordsOfBytes_getElem? (by rw [List.length_drop]; omega) (by omega)]
    simp only [getD_drop, Nat.mul_succ, Nat.add_comm 4]

/-! ### One word placed where the next step fires it (log 2) -/

theorem wordOfBytes_wordBytes (w : Word) : wordOfBytes (wordBytes w) = some w := by
  rw [wordBytes, wordOfBytes]
  congr 1
  ext k hk
  simp only [BitVec.getElem_append, BitVec.getElem_extractLsb']
  grind

theorem decodeTableWord_eq (w : Nat) : decodeTableWord 32 w = (decodeWord (BitVec.ofNat 32 w)).toOption := by
  rw [decodeTableWord, wordOfBytes_wordBytes]
  rfl

theorem insn_of_table {w : Nat} {i : Instr} (h : decodeTableWord 32 w = some i) (o : Option Instr) :
    (oneWordBlock (BitVec.ofNat 32 w) o).insn 0 = some i ∧ (oneWordFiring (BitVec.ofNat 32 w) o).code.insn 0 = some i :=
  ⟨(decodeTableWord_eq w).symm.trans h, (decodeTableWord_eq w).symm.trans h⟩

/-- A placed firing holds every operand that its one instruction may wait for. -/
theorem oneWordFiring_ready {w : Nat} {i : Instr} (h : decodeTableWord 32 w = some i) (o : Option Instr) :
    (oneWordFiring (BitVec.ofNat 32 w) o).ready = some 0 := by
  have hop : ∀ q < 4, ((oneWordFiring (BitVec.ofNat 32 w) o).operand 0 (Pos.ofCode (BitVec.ofNat 2 q))).isSome := by
    intro q hq
    interval_cases q <;> rfl
  have hall : (List.range 4).all (fun q => !usesPos i q ||
      ((oneWordFiring (BitVec.ofNat 32 w) o).operand 0 (Pos.ofCode (BitVec.ofNat 2 q))).isSome) := by
    simp only [List.all_eq_true, List.mem_range]
    exact fun q hq => by rw [hop q hq, Bool.or_true]
  have hlen : (oneWordFiring (BitVec.ofNat 32 w) o).code.words.length = 1 := rfl
  rw [Firing.ready, if_neg (by exact Bool.false_ne_true), hlen, List.range_one, List.find?_cons_of_pos]
  rw [(insn_of_table h o).2]
  simpa [oneWordFiring] using hall

theorem State.withFetchWord_of_core {s : State} {w : Nat} {i : Instr} (h : decodeTableWord 32 w = some i) (hi : i.blocks.1) :
    s.withFetchWord 32 w = { s.mapCore s.placeCore (fun p => { p with blocks := [oneWordBlock (BitVec.ofNat 32 w) (some i)] }) with
      agenda := [.fire s.placeCore 0 0], firing := none } := by
  simp only [State.withFetchWord, h, elementWord, hi, Bool.not_true, Bool.false_eq_true, if_false]

theorem State.withFetchWord_of_elem {s : State} {w : Nat} {i : Instr} (h : decodeTableWord 32 w = some i) (hi : i.blocks.1 = false) :
    s.withFetchWord 32 w = { s with agenda := [], firing := some (oneWordFiring (BitVec.ofNat 32 w) (some i)) } := by
  simp only [State.withFetchWord, h, elementWord, hi, Bool.not_false, if_true]

/-- What stands after the placing of a word of C-blocks. -/
theorem State.withFetchWord_core_spec {s : State} {w : Nat} {i : Instr} (h : decodeTableWord 32 w = some i) (hi : i.blocks.1) :
    (s.withFetchWord 32 w).firing = none ∧ (s.withFetchWord 32 w).agenda = [.fire s.placeCore 0 0]
      ∧ (s.withFetchWord 32 w).still s.placeCore = s.still s.placeCore
      ∧ ((s.withFetchWord 32 w).core s.placeCore).blocks = [oneWordBlock (BitVec.ofNat 32 w) (some i)] ∧ (s.withFetchWord 32 w).mem = s.mem := by
  have hcore := s.mapCore_core s.placeCore (fun p => { p with blocks := [oneWordBlock (BitVec.ofNat 32 w) (some i)] })
  rw [State.withFetchWord_of_core h hi]
  exact ⟨rfl, rfl, rfl, congrArg PageCore.blocks hcore, rfl⟩

/-! ### The obligation -/

/-- Settles O55: each clause is what `State.choose` names in its case; the order of launch messages is that of the search for the lowest port. -/
theorem stepRunsDecoded : Obligations.StepRunsDecoded := by
  refine ⟨?fire, ?next, ?firing, ?event, ?order, ?still, ?words, ?placed, ?placedElem⟩
  case fire =>
    intro s c bi slot r b w i hf ha hs hb hw hd
    exact step_of_fire hf ha hs hb (Block.insn_of_decode hw hd)
  case next =>
    intro s c bi slot bj j b w i hf ha hfoc hn hs hb hw hd
    exact step_of_choose ((State.choose_of_progress hf ha hfoc hn).trans (State.fireAt_of_moving hs hb (Block.insn_of_decode hw hd)))
  case firing =>
    intro s f j w i hf hr hw hd
    exact step_of_choose ((State.choose_of_firing hf hr).trans (congrArg (Prod.mk _) (ECode.insn_of_decode hw hd)))
  case event =>
    intro s i r hf ha
    exact step_of_choose (State.choose_of_event hf ha)
  case order =>
    intro l r e h
    obtain ⟨hk, hr⟩ := inPortOrder_spec h
    refine ⟨firstLaunch l, hk, hr, firstLaunch_of_head, fun p j q hp hj hq => ?_⟩
    exact (firstLaunch_spec (lt_launchRun_length hj)).2 p q (by rw [hk]; exact hp) hq
  case still =>
    intro s c bi slot r hf ha hs
    exact step_of_choose_none ((State.choose_of_fire hf ha).trans (State.fireAt_of_still (s := { s with agenda := r }) hs bi slot))
  case words =>
    intro n bs hlen
    exact ⟨wordsOfBytes_length n bs, fun k hk => wordsOfBytes_getElem? hlen hk⟩
  case placed =>
    intro s w i h hi hs
    obtain ⟨hfiring, hagenda, hstill, hblocks, hmem⟩ := State.withFetchWord_core_spec (s := s) h hi
    refine ⟨_, step_of_fire hfiring hagenda (hstill.trans hs) (by rw [hblocks]; rfl) (insn_of_table h _).1, rfl, ?_, hmem⟩
    exact congrArg (List.map (fun b : Block => b.words)) hblocks
  case placedElem =>
    intro s w i h hi
    rw [State.withFetchWord_of_elem h hi]
    exact ⟨_, step_of_choose ((State.choose_of_firing rfl (oneWordFiring_ready h _)).trans (congrArg (Prod.mk _) (insn_of_table h _).2)), rfl, rfl⟩

end Sys2Proof.Machine
end

section
/-! SUPPORT. A sort network that sorts at the end of its segment, and the obligation on elements, filters and foragers (R130, R369, R400). -/
namespace Sys2Proof.Machine

/-! ### A state that meets the obligation's hypotheses and not its conclusion -/

/-- The one element of plot (0, 0) of a region: the sort network. -/
def sortElem : Elem := { ref := ⟨1, 0, 0, 0, 0⟩, kind := 3, ctx := 0, cfg := 0, leaf := 0 }

/-- A closing beat without keys. -/
def closingBeat : QBeat := { beat := [], closes := true }

/-- The link into the network's input port. -/
def sortLink : Chan :=
  { lid := 1, num := 4, kind := 0, ctx := 0, fmt := 13, scale := 0, record := false, banked := false, slots := 8, srcPset := 0, srcs := []
    dstPset := 0, dst := .plot 0 0 14, beats := [closingBeat] }

/-- The array unit of the network's page, with no segment open. -/
def sortUnit : ArrayUnit := { page := ⟨1, 0, 0, 0⟩, ctx := 0, mode := 2 }

/-- A second unit of the same page and context, with a segment of generation 7 open. -/
def twinUnit : ArrayUnit := { sortUnit with seg := some { gen := 7 } }

/-- A region that runs, whose page has two array units in one context. -/
def twinUnits : State :=
  { State.reset with
    launches := [{ record := BitVec.ofNat 512 (2 ^ 192), node := 0, port := 0, tag := 0, stamp := 0, order := 0, phase := .running, gcount := 0 }]
    placed := [{ lid := 1, pset := 0, die := 0, x := 0, y := 0, w := 1, h := 1, mdie := 8, order := 0, isSealed := false, rotating := false }]
    plots := [{ lid := 1, pset := 0, x := 0, y := 0, ctx := 0 }]
    leaves := [{ page := ⟨1, 0, 0, 0⟩, leaf := 0, token := some 5 }]
    elems := [sortElem], chans := [sortLink], arrays := [sortUnit, twinUnit] }

theorem twinUnits_ready : twinUnits.able sortElem.ref ∧ twinUnits.ctxTurn sortElem ∧ twinUnits.unitOf sortElem = some sortUnit := by decide +kernel

theorem twinUnits_input : (twinUnits.noteTurn sortElem).elemIn sortElem 14 = some 0 ∧ (twinUnits.noteTurn sortElem).first 0 = some closingBeat
    ∧ beatKeys sortUnit.cfgNow ((twinUnits.noteTurn sortElem).chanAt 0) sortUnit.keys.length closingBeat.beat = some [] := by decide +kernel

/-- Each unit sends what its own segment holds: the first beat of the second one bears generation 7. -/
theorem twinUnits_sorts : (twinUnits.fireAny sortElem.ref).arrays.map (fun x => x.out) =
    [sortedBeats sortUnit.cfgNow {} [], sortedBeats sortUnit.cfgNow { gen := 7 } []] := by decide +kernel

theorem sortedBeats_gen_ne : sortedBeats sortUnit.cfgNow {} [] ≠ sortedBeats sortUnit.cfgNow { gen := 7 } [] := by decide +kernel

/-- Refutes O51: at the end of a segment the sort network sends what each array unit of its page and context holds, while the obligation gives every
such unit the sorted beats of the first. It does not ask that a page has one unit in a context; where it has two with different segments open, the
second unit's first beat differs. -/
theorem not_fabricEvents : ¬ Obligations.FabricEvents := by
  unfold Obligations.FabricEvents
  intro h
  obtain ⟨hable, hturn, hunit⟩ := twinUnits_ready
  obtain ⟨hin, hfirst, hkeys⟩ := twinUnits_input
  obtain ⟨-, -, -, hsort, -⟩ := h
  have hnext := (hsort twinUnits sortElem.ref sortElem sortUnit 0 closingBeat [] (by decide +kernel) rfl hable hturn hunit rfl hin hfirst
    (by decide) (by decide) hkeys (by decide)).2 rfl
  have hstate := Host.Outcome.next.inj hnext
  have houts := congrArg (fun t : State => t.arrays.map (fun x => x.out)) hstate
  exact sortedBeats_gen_ne (List.cons.inj (List.cons.inj (twinUnits_sorts.symm.trans houts)).2).1.symm

end Sys2Proof.Machine
end

section
/-! SUPPORT. What a cut that begins leaves as it was (R204): it changes channels, page cores, memory nodes, the loads that wait and the page sets'
configuration periods, and puts what its markers set off at the head of the agenda. -/
namespace Sys2Proof.Machine

/-- A state without what the markers of a cut change. -/
def State.beyondCut (s : State) : State := { s with agenda := [], chans := [], cores := [], nodes := [], deferred := [] }

theorem State.forwardDorm_beyondCut (s : State) (outs : List ℕ) : (s.forwardDorm outs).beyondCut = s.beyondCut := by
  refine foldl_keeps State.beyondCut (fun s i => ?_) _ s
  rfl

theorem State.queueMarkers_beyondCut (s : State) (c : CoreRef) : (s.queueMarkers c).beyondCut = s.beyondCut := by
  refine foldl_keeps State.beyondCut (fun s n => ?_) _ s
  split <;> rfl

theorem State.stopCore_beyondCut (s : State) (c : CoreRef) : (s.stopCore c).beyondCut = s.beyondCut := rfl

theorem State.stopNode_beyondCut (s : State) (r : NodeRef) : (s.stopNode r).beyondCut = s.beyondCut :=
  State.forwardDorm_beyondCut _ _

theorem State.tryStopNode_beyondCut (s : State) (r : NodeRef) : (s.tryStopNode r).beyondCut = s.beyondCut := by
  unfold State.tryStopNode
  split
  · split
    · exact s.stopNode_beyondCut r
    · rfl
  · rfl

/-- Beyond its markers, a cut that begins in a page set ends the configuration period there. -/
theorem State.beginCut_beyondCut (s : State) (lid pset : ℕ) :
    (s.beginCut lid pset).beyondCut = (s.mapPlace lid pset (fun p => { p with periodOn := false })).beyondCut := by
  unfold State.beginCut
  refine (foldl_keeps State.beyondCut (fun s e => s.forwardDorm_beyondCut _) _ _).trans ?_
  refine (foldl_keeps State.beyondCut (fun s r => s.tryStopNode_beyondCut r) _ _).trans ?_
  refine (foldl_keeps State.beyondCut
    (fun s c => (State.queueMarkers_beyondCut _ c).trans (s.stopCore_beyondCut c)) _ _).trans ?_
  refine congrArg (fun u : State => u.mapPlace lid pset (fun p => { p with periodOn := false }))
    (foldl_keeps State.beyondCut (fun s i => ?_) _ s)
  rfl

theorem State.beginCut_placed (s : State) (lid pset : ℕ) :
    (s.beginCut lid pset).placed = (s.mapPlace lid pset (fun p => { p with periodOn := false })).placed :=
  (congrArg State.placed (s.beginCut_beyondCut lid pset) :)

@[simp] theorem State.beginCut_cuts (s : State) (lid pset : ℕ) : (s.beginCut lid pset).cuts = s.cuts :=
  (congrArg State.cuts (s.beginCut_beyondCut lid pset) :)

@[simp] theorem State.beginCut_launches (s : State) (lid pset : ℕ) : (s.beginCut lid pset).launches = s.launches :=
  (congrArg State.launches (s.beginCut_beyondCut lid pset) :)

@[simp] theorem State.beginCut_mem (s : State) (lid pset : ℕ) : (s.beginCut lid pset).mem = s.mem :=
  (congrArg State.mem (s.beginCut_beyondCut lid pset) :)

@[simp] theorem State.beginCut_outbox (s : State) (lid pset : ℕ) : (s.beginCut lid pset).outbox = s.outbox :=
  (congrArg State.outbox (s.beginCut_beyondCut lid pset) :)

/-- Where each page set of a list is changed in turn, each is changed once, however often the list names it. -/
theorem foldl_placed {g : State → ℕ → State} {lid : ℕ} {f : Placed → Placed} (hg : ∀ s k, (g s k).placed = (s.mapPlace lid k f).placed)
    (hkey : ∀ p, (f p).lid = p.lid ∧ (f p).pset = p.pset) (hidem : ∀ p, f (f p) = f p) :
    ∀ (psets : List ℕ) (s : State), (psets.foldl g s).placed = s.placed.map (fun p => if p.lid = lid ∧ p.pset ∈ psets then f p else p)
  | [], s => by simp
  | k :: psets, s => by
    rw [List.foldl_cons, foldl_placed hg hkey hidem psets, hg, State.mapPlace, List.map_map]
    refine List.map_congr_left (fun p _ => ?_)
    obtain ⟨hlid, hpset⟩ := hkey p
    by_cases hhere : p.lid = lid ∧ p.pset = k
    · simp [hhere, hlid, hpset, hidem]
    · have hrest : p.lid = lid ∧ p.pset ∈ psets ↔ p.lid = lid ∧ p.pset ∈ k :: psets := by
        rw [List.mem_cons]
        tauto
      rw [Function.comp_apply, if_neg hhere, if_congr hrest rfl rfl]

/-- A cut of page sets none of which is being cut is the last of the cuts, and ends their configuration periods. -/
theorem State.startCut_fresh {s : State} {lid : ℕ} (h : ∀ c ∈ s.cuts, c.lid ≠ lid) (psets : List ℕ) (why : CutWhy) (area : Option (Span × ℕ × ℕ)) :
    s.startCut lid psets why area =
      psets.foldl (fun s p => s.beginCut lid p) { s with cuts := s.cuts ++ [{ lid := lid, psets := psets, why := why, area := area }] } := by
  have hnone : s.cuts.find? (fun c => c.lid == lid && c.psets.any (fun p => psets.contains p)) = none :=
    List.find?_eq_none.2 (fun c hc hb => h c hc (by simpa using (Bool.and_eq_true_iff.1 hb).1))
  unfold State.startCut
  rw [hnone]

theorem State.mem_psetsOf {s : State} {p : Placed} (hp : p ∈ s.placed) : p.pset ∈ s.psetsOf p.lid :=
  List.mem_map_of_mem (List.mem_filter.2 ⟨hp, beq_self_eq_true _⟩)

end Sys2Proof.Machine
end

section
/-! SUPPORT. Cuts that are complete and dormant launches that run again (R204, R205, R208). -/
namespace Sys2Proof.Machine

theorem State.launch_of_launches {s t : State} (h : t.launches = s.launches) (lid : ℕ) : t.launch lid = s.launch lid := by
  rw [State.launch, h, ← State.launch]

theorem State.ended_of_launch {s : State} {lid : ℕ} {l : Launch} (h : s.launch lid = some l) (hend : l.ending = none) : s.ended lid = false := by
  simp [State.ended, h, hend]

/-! ### Cuts that begin and markers that arrive -/

/-- CUT_START of a launch that is not being cut. -/
theorem cutStart_spec {s : State} {lid : ℕ} (h : ∀ c ∈ s.cuts, c.lid ≠ lid) (psets : List ℕ) (why : CutWhy) :
    ∃ t, exec (.cutStart lid psets why) s = .next t
      ∧ t.cuts = s.cuts ++ [{ lid := lid, psets := psets.filter (fun p => (s.psetsOf lid).contains p), why := why, area := none }]
      ∧ t.launches = s.launches ∧ t.mem = s.mem
      ∧ t.placed = s.placed.map (fun p => if p.lid = lid ∧ p.pset ∈ psets then { p with periodOn := false } else p) := by
  refine ⟨_, rfl, ?cuts, ?launches, ?mem, ?placed⟩
  all_goals rw [State.startCut_fresh h]
  case cuts => exact foldl_keeps State.cuts (fun s p => s.beginCut_cuts lid p) _ _
  case launches => exact foldl_keeps State.launches (fun s p => s.beginCut_launches lid p) _ _
  case mem => exact foldl_keeps State.mem (fun s p => s.beginCut_mem lid p) _ _
  case placed =>
    rw [foldl_placed (fun s p => s.beginCut_placed lid p) (fun _ => ⟨rfl, rfl⟩) (fun _ => rfl)]
    refine List.map_congr_left (fun p hp => ?_)
    have hin : p.lid = lid → p.pset ∈ s.psetsOf lid := fun h => h ▸ State.mem_psetsOf hp
    by_cases hl : p.lid = lid <;> simp [hl, hin]

/-- A marker that stands first on an input of a plot where no element takes it is only noted. -/
theorem State.dormArrive_alone {s : State} {i x y port : ℕ} (hdst : (s.chanAt i).dst = .plot x y port)
    (hfirst : (s.chanAt i).dormPlace = some 0) (hcut : (s.chanAt i).cutAt = none) (henter : s.mayEnter (s.chanAt i)) (htakes : s.takes (s.chanAt i))
    (hnone : s.consumer (s.chanAt i) = none) : s.dormArrive i = s.takeDorm i 0 := by
  simp [State.dormArrive, hfirst, hcut, henter, htakes, hdst, hnone]

/-- A marker that stands first on an input of an element goes on once it is on every input that is not loop-closing. -/
theorem State.dormArrive_elem {s : State} {i x y port : ℕ} (hdst : (s.chanAt i).dst = .plot x y port)
    (hfirst : (s.chanAt i).dormPlace = some 0) (hcut : (s.chanAt i).cutAt = none) (henter : s.mayEnter (s.chanAt i)) (htakes : s.takes (s.chanAt i))
    {e : Elem} (he : s.consumer (s.chanAt i) = some e) {u : State}
    (hu : (s.takeDorm i 0).updElem e.ref (fun e => { e with dormIn := e.dormIn ++ [port] }) = u) :
    s.dormArrive i = if (u.mainPorts e).all (fun p => p == port || e.dormIn.contains p) then u.forwardDorm (e.outPorts.flatMap (u.elemOut e)) else u := by
  subst hu
  simp [State.dormArrive, hfirst, hcut, henter, htakes, hdst, he]

theorem dormancyMarkerArrival_spec {s : State} {lid num i x y port : ℕ} (hi : s.chanNo lid num = some i)
    (hdst : (s.chanAt i).dst = .plot x y port) (hfirst : (s.chanAt i).dormPlace = some 0)
    (hcut : (s.chanAt i).cutAt = none) (henter : s.mayEnter (s.chanAt i)) (htakes : s.takes (s.chanAt i)) :
    (s.consumer (s.chanAt i) = none → exec (.dormancyMarkerArrival lid num) s = .next (s.takeDorm i 0))
    ∧ (∀ e, s.consumer (s.chanAt i) = some e →
        (let u := (s.takeDorm i 0).updElem e.ref (fun e => { e with dormIn := e.dormIn ++ [port] })
         ((∃ p ∈ u.mainPorts e, p ≠ port ∧ p ∉ e.dormIn) → exec (.dormancyMarkerArrival lid num) s = .next u)
         ∧ ((∀ p ∈ u.mainPorts e, p = port ∨ p ∈ e.dormIn) →
             exec (.dormancyMarkerArrival lid num) s = .next (u.forwardDorm (e.outPorts.flatMap (u.elemOut e)))))) := by
  have hexec : exec (.dormancyMarkerArrival lid num) s = .next (s.dormArrive i) := by
    rw [exec_dormancyMarkerArrival, execDormancyMarkerArrival, hi]
  rw [hexec]
  refine ⟨fun hnone => congrArg Host.Outcome.next (State.dormArrive_alone hdst hfirst hcut henter htakes hnone), fun e he => ?_⟩
  dsimp only
  rw [State.dormArrive_elem hdst hfirst hcut henter htakes he rfl]
  refine ⟨fun hmore => congrArg Host.Outcome.next (if_neg (fun hall => ?_)),
    fun hall => congrArg Host.Outcome.next (if_pos (List.all_eq_true.2 (fun p hp => ?_)))⟩
  · obtain ⟨p, hp, hport, hin⟩ := hmore
    simpa [hport, hin] using List.all_eq_true.1 hall p hp
  · simpa using hall p hp

/-! ### Saving regions -/

theorem State.foldl_saveRegion_placed (lid : ℕ) (area : ℕ → Span) (digest : ℕ → List Byte) :
    ∀ (psets : List ℕ) (s : State), (psets.foldl (fun s p => s.saveRegion lid p (area p) (digest p)) s).placed =
      s.placed.filter (fun p => !(p.lid == lid && psets.contains p.pset))
  | [], s => by simp
  | k :: psets, s => by
    rw [List.foldl_cons, State.foldl_saveRegion_placed lid area digest psets]
    simp only [State.saveRegion, List.filter_filter]
    refine List.filter_congr (fun p _ => ?_)
    by_cases hl : p.lid = lid <;> by_cases hk : p.pset = k <;> simp [hl, hk]

theorem State.foldl_saveRegion_dormants (lid : ℕ) (area : ℕ → Span) (digest : ℕ → List Byte) :
    ∀ (psets : List ℕ) (s : State), ((psets.foldl (fun s p => s.saveRegion lid p (area p) (digest p)) s).dormants.map (fun d => (d.lid, d.pset))) =
      s.dormants.map (fun d => (d.lid, d.pset)) ++ psets.map (fun p => (lid, p))
  | [], s => by simp
  | k :: psets, s => by
    rw [List.foldl_cons, State.foldl_saveRegion_dormants lid area digest psets]
    simp [State.saveRegion]

/-! ### What follows a cut that is complete -/

theorem State.finishCut_graft {s : State} {c : Cut} (harea : c.area = none) (hwhy : c.why = .graft) :
    s.finishCut c = c.psets.foldl (fun s p => s.mapPlace c.lid p (fun q => { q with quiesced := true }))
      { s with cuts := s.cuts.filter (fun d => decide (d ≠ c)) } := by
  simp only [State.finishCut, harea, hwhy]

theorem State.finishCut_cont {s : State} {c : Cut} (harea : c.area = none) {u : CoreRef} (hwhy : c.why = .ckptCont u) :
    s.finishCut c = c.psets.foldl (fun s p => s.wakeRegion c.lid p) { s with cuts := s.cuts.filter (fun d => decide (d ≠ c)) } := by
  simp only [State.finishCut, harea, hwhy]

theorem State.finishCut_stop {s : State} {c : Cut} (harea : c.area = none) (hwhy : c.why = .stop) :
    s.finishCut c = c.psets.foldl (fun s p => s.mapPlace c.lid p (fun q => { q with quiesced := true }))
      ((({ s with cuts := s.cuts.filter (fun d => decide (d ≠ c)) } : State).stopReport c.lid).mapLaunch c.lid
        (fun l => { l with phase := .stopped })) := by
  simp only [State.finishCut, harea, hwhy]

theorem mapPlace_fold_quiesced (lid : ℕ) (b : Bool) (psets : List ℕ) {g : State → ℕ → State}
    (hg : ∀ s k, (g s k).placed = (s.mapPlace lid k (fun q => { q with quiesced := b })).placed) (s : State) :
    ∀ p ∈ (psets.foldl g s).placed, p.lid = lid → p.pset ∈ psets → p.quiesced = b := by
  rw [foldl_placed hg (fun _ => ⟨rfl, rfl⟩) (fun _ => rfl)]
  intro p hp hlid hpset
  obtain ⟨q, _, rfl⟩ := List.mem_map.1 hp
  by_cases hq : q.lid = lid ∧ q.pset ∈ psets
  · rw [if_pos hq]
  · rw [if_neg hq] at hlid hpset
    exact absurd ⟨hlid, hpset⟩ hq

/-- The page sets of a cut are taken out of the machine, without an image of any. -/
def State.saveRegions (s : State) (lid : ℕ) (psets : List ℕ) : State := psets.foldl (fun (s : State) p => s.saveRegion lid p [] []) s

/-- The regions that are saved leave the cuts, the launches, the memory and the sequencers as they were. -/
theorem State.saveRegions_rest (s : State) (lid : ℕ) (psets : List ℕ) :
    (s.saveRegions lid psets).cuts = s.cuts ∧ (s.saveRegions lid psets).launches = s.launches
      ∧ (s.saveRegions lid psets).mem = s.mem ∧ (s.saveRegions lid psets).seqs = s.seqs := by
  have h := foldl_keeps (fun t : State => (t.cuts, t.launches, t.mem, t.seqs)) (f := fun (s : State) p => s.saveRegion lid p [] [])
    (fun s p => by rfl) psets s
  simp only [Prod.mk.injEq] at h
  exact h

/-- What a cut saves that takes its page sets out of the machine, before its launch becomes dormant. -/
def State.cutAway (s : State) (c : Cut) : State := ({ s with cuts := s.cuts.filter (fun d => d ≠ c) } : State).saveRegions c.lid c.psets

theorem State.cutAway_rest (s : State) (c : Cut) :
    (s.cutAway c).cuts = s.cuts.filter (fun d => d ≠ c) ∧ (s.cutAway c).launches = s.launches
      ∧ (s.cutAway c).mem = s.mem ∧ (s.cutAway c).seqs = s.seqs :=
  State.saveRegions_rest _ c.lid c.psets

theorem State.cutAway_placed (s : State) (c : Cut) :
    (s.cutAway c).placed = s.placed.filter (fun p => !(p.lid == c.lid && c.psets.contains p.pset)) :=
  State.foldl_saveRegion_placed c.lid (fun _ => []) (fun _ => []) c.psets _

theorem State.cutAway_dormants (s : State) (c : Cut) :
    (s.cutAway c).dormants.map (fun d => (d.lid, d.pset)) = s.dormants.map (fun d => (d.lid, d.pset)) ++ c.psets.map (fun p => (c.lid, p)) :=
  State.foldl_saveRegion_dormants c.lid (fun _ => []) (fun _ => []) c.psets _

/-- Does a cut, once it is complete, take its page sets out of the machine? -/
def cutSaves : CutWhy → Bool
  | .preempt | .ckptYield _ => true
  | _ => false

theorem State.finishCut_saves {s : State} {c : Cut} (harea : c.area = none) (hwhy : cutSaves c.why) :
    ∃ head grafts, s.finishCut c = { ((s.cutAway c).parkSeqs c.lid).mapLaunch c.lid
        (fun l => { l with phase := .dormant, preempted := decide (c.why = .preempt) }) with
      head := head, grafts := grafts } ∧ head ≠ some c.lid := by
  refine ⟨if (s.cutAway c).head = some c.lid then none else (s.cutAway c).head, (s.cutAway c).grafts.filter (fun g => g.lid != c.lid), ?_, ?_⟩
  · cases hc : c.why with
    | preempt | ckptYield _ =>
      simp only [State.finishCut, harea, hc, Option.map_none, ite_self]
      rfl
    | ckptCont _ | graft | stop =>
      rw [hc] at hwhy
      exact absurd hwhy Bool.false_ne_true
  · split
    · exact Option.some_ne_none c.lid |>.symm
    · assumption

theorem State.parkSeqs_launch {s : State} {lid : ℕ} {l : Launch} (hl : s.launch lid = some l) :
    (s.parkSeqs lid).launch lid = some { l with
      parkedReady := s.seqs.toList.flatMap (fun q => q.ready.filter (fun e => e.1 = lid))
      parkedTasks := s.seqs.toList.flatMap (fun q => q.tasks.filter (fun k => k.lid = lid)) } :=
  State.mapLaunch_launch_same hl (f := fun l => { l with
    parkedReady := s.seqs.toList.flatMap (fun q => q.ready.filter (fun e => e.1 == lid))
    parkedTasks := s.seqs.toList.flatMap (fun q => q.tasks.filter (fun t => t.lid == lid)) }) (fun _ => rfl)

theorem finishCut_saves_spec {s : State} {lid : ℕ} {c : Cut} {l : Launch} (hlid : c.lid = lid) (harea : c.area = none)
    (hl : s.launch lid = some l) (hwhy : cutSaves c.why) :
    (s.finishCut c).cuts = s.cuts.filter (fun d => d ≠ c) ∧ (s.finishCut c).mem = s.mem
      ∧ (s.finishCut c).launch lid = some { l with
          phase := .dormant, preempted := decide (c.why = .preempt)
          parkedReady := s.seqs.toList.flatMap (fun q => q.ready.filter (fun e => e.1 = lid))
          parkedTasks := s.seqs.toList.flatMap (fun q => q.tasks.filter (fun k => k.lid = lid)) }
      ∧ (s.finishCut c).head ≠ some lid ∧ (∀ p ∈ (s.finishCut c).placed, p.lid = lid → p.pset ∉ c.psets)
      ∧ ∀ p ∈ c.psets, ∃ d ∈ (s.finishCut c).dormants, d.lid = lid ∧ d.pset = p := by
  subst hlid
  obtain ⟨head, grafts, heq, hhead⟩ := State.finishCut_saves harea hwhy (s := s)
  obtain ⟨hcuts, hlaunches, hmem, hseqs⟩ := s.cutAway_rest c
  have hplaced := s.cutAway_placed c
  have hdormants := s.cutAway_dormants c
  generalize s.cutAway c = u at heq hcuts hlaunches hmem hseqs hplaced hdormants
  have hpark := State.parkSeqs_launch ((State.launch_of_launches hlaunches c.lid).trans hl)
  rw [hseqs] at hpark
  rw [heq]
  refine ⟨hcuts, hmem, ?launch, hhead, ?placed, ?dormants⟩
  case launch => exact State.mapLaunch_launch_same hpark (f := fun l => { l with phase := .dormant, preempted := decide (c.why = .preempt) }) (fun _ => rfl)
  case placed =>
    intro p hp hlid hin
    have hleft : p ∈ u.placed := hp
    rw [hplaced] at hleft
    simpa [hlid, hin] using (List.mem_filter.1 hleft).2
  case dormants =>
    intro p hp
    have hin : (c.lid, p) ∈ u.dormants.map (fun d => (d.lid, d.pset)) :=
      hdormants ▸ List.mem_append_right _ (List.mem_map_of_mem hp)
    obtain ⟨d, hd, hkey⟩ := List.mem_map.1 hin
    exact ⟨d, hd, congrArg Prod.fst hkey, congrArg Prod.snd hkey⟩

theorem finishCut_stop_spec {s : State} {lid : ℕ} {c : Cut} {l : Launch} (hlid : c.lid = lid) (harea : c.area = none)
    (hl : s.launch lid = some l) (hwhy : c.why = .stop) :
    (s.finishCut c).cuts = s.cuts.filter (fun d => d ≠ c) ∧ (s.finishCut c).mem = s.mem
      ∧ (s.finishCut c).launch lid = some { l with phase := .stopped }
      ∧ (∀ p ∈ (s.finishCut c).placed, p.lid = lid → p.pset ∈ c.psets → p.quiesced)
      ∧ (s.finishCut c).outbox = s.outbox
          ++ (s.chans.filter (fun h => h.lid == lid)).map (fun h => .report 1 lid h.num ((h.cutAt.map (fun k => k.1)).getD h.ordinal)) := by
  subst hlid
  rw [State.finishCut_stop harea hwhy]
  refine ⟨?cuts, ?mem, ?launch, mapPlace_fold_quiesced c.lid true c.psets (fun _ _ => rfl) _, ?outbox⟩
  case cuts => exact foldl_keeps State.cuts (fun s p => by rfl) _ _
  case mem => exact foldl_keeps State.mem (fun s p => by rfl) _ _
  case launch =>
    rw [State.launch_of_launches (foldl_keeps State.launches (fun s p => by rfl) _ _)]
    exact State.mapLaunch_launch_same hl (fun _ => rfl)
  case outbox => exact foldl_keeps State.outbox (fun s p => by rfl) _ _

/-- CUT_COMPLETE of a launch that is not to end. -/
theorem cutComplete_spec {s : State} {lid : ℕ} {c : Cut} {l : Launch} (hc : s.cuts.find? (fun c => c.lid == lid && s.cutDone c) = some c)
    (hl : s.launch lid = some l) (hend : l.ending = none) : exec (.cutComplete lid) s = .next (s.finishCut c) := by
  have hsame : (fun c : Cut => c.lid == lid && s.cutDone c && !s.ended lid) = fun c => c.lid == lid && s.cutDone c := by
    funext c
    rw [State.ended_of_launch hl hend, Bool.not_false, Bool.and_true]
  rw [exec_cutComplete, execCutComplete, hsame, hc]

end Sys2Proof.Machine
end

section
/-! SUPPORT. Dormant launches that run again (R205, R208), suspected hangs (R209, R211), breakpoints (R214, R215) and register writes. -/
namespace Sys2Proof.Machine

/-! ### A region that is put back -/

/-- What neither a filter that drops entries nor a place for nodes or sprouts changes. -/
def State.standing (s : State) : List Launch × ℕ × List Dormant × List (CoreRef × PageCore) := (s.launches, s.orders, s.dormants, s.cores)

theorem State.dropEntries_standing (s : State) (f : FilterRef) (gone : PruneEnt → Bool) : (s.dropEntries f gone).standing = s.standing := by
  cases f with
  | chan lid num => unfold State.dropEntries; dsimp only; split <;> rfl
  | plot lid pset x y => rfl
  | node r => rfl
  | forager p ctx => rfl
  | port c n => rfl

theorem State.setSprout_standing (s : State) (d : ℕ) (x : Sprout) : (s.setSprout d x).standing = s.standing := by
  unfold State.setSprout; split <;> rfl

theorem State.reopen_standing (s : State) (d : Dormant) :
    (s.reopen d).standing =
      (s.launches, s.orders, s.dormants.filter (fun e => !(e.lid == d.lid && e.pset == d.pset)), s.cores ++ d.cores) := by
  unfold State.reopen
  refine (foldl_keeps State.standing (fun s c => s.setSprout_standing _ c) _ _).trans ?_
  exact foldl_keeps State.standing (fun s (r : FilterRef × PruneEnt) => s.dropEntries_standing r.1 _) _ _

/-- The saved regions of a list, put back one after another. -/
theorem State.foldl_reopen_standing : ∀ (ds : List Dormant) (s : State), (ds.foldl (fun s d => s.reopen d) s).standing =
    (s.launches, s.orders, s.dormants.filter (fun e => !ds.any (fun d => e.lid == d.lid && e.pset == d.pset)), s.cores ++ ds.flatMap (fun d => d.cores))
  | [], s => by simp [State.standing]
  | d :: ds, s => by
    have hd := s.reopen_standing d
    simp only [State.standing, Prod.mk.injEq] at hd
    obtain ⟨hlaunches, horders, hdormants, hcores⟩ := hd
    rw [List.foldl_cons, State.foldl_reopen_standing ds, hlaunches, horders, hdormants, hcores]
    simp [List.filter_filter, Bool.and_comm]

theorem State.setSeq_standing (s : State) (d : ℕ) (q : GraphSeq) : (s.setSeq d q).standing = s.standing := by
  unfold State.setSeq; split <;> rfl

theorem State.reseatSeqs_standing {s : State} {lid : ℕ} {l : Launch} (hl : s.launch lid = some l) :
    (s.reseatSeqs lid).standing =
      ((s.mapLaunch lid (fun l => { l with parkedReady := [], parkedTasks := [] })).launches, s.orders, s.dormants, s.cores) := by
  unfold State.reseatSeqs
  rw [hl]
  refine (foldl_keeps State.standing (fun s t => s.setSeq_standing _ _) _ _).trans ?_
  exact foldl_keeps State.standing (fun s e => s.setSeq_standing _ _) _ _

/-- The saved regions of a launch. -/
def State.savedOf (s : State) (lid : ℕ) : List Dormant := s.dormants.filter (fun d => d.lid == lid)

theorem State.mem_savedOf {s : State} {lid : ℕ} {d : Dormant} : d ∈ s.savedOf lid ↔ d ∈ s.dormants ∧ d.lid = lid := by
  simp [State.savedOf]

/-- A launch whose saved regions all hold runs again. -/
def State.runAgain (s : State) (lid : ℕ) : State :=
  ((((s.savedOf lid).foldl (fun s d => s.reopen d) (s.useFree 1)).reseatSeqs lid).begins lid)

/-- DORMANT_RESUME of a launch that has been placed, where no read of reserved memory goes wrong. -/
theorem State.resumeDormant_eq {s : State} {lid : ℕ} {l : Launch} (hl : s.launch lid = some l) (hphase : l.phase = .loading) (hend : l.ending = none)
    (hsome : ∃ d ∈ s.dormants, d.lid = lid) (hclean : ∀ e ∈ s.ecc, reservedMem (32 * e.1) → e.2.2 = false) :
    s.resumeDormant lid =
      if !(s.savedOf lid).all (fun d => s.imageHolds d.area) then (s.failLoad lid { status := 0x21, detail := 0x0C }).unplace lid
      else if (s.savedOf lid).any s.forged && s.freeAt 0 % 2 == 1 then
        ((s.useFree 1).failLoad lid
          { status := 0x21, detail := 0x0B, die := (((s.savedOf lid).find? s.forged).map (fun d => s.dieOfPset lid d.pset)).getD 0 }).unplace lid
      else s.runAgain lid := by
  have hne : (s.dormants.filter (fun d => d.lid == lid)).isEmpty = false := by
    obtain ⟨d, hd, hdl⟩ := hsome
    exact List.isEmpty_eq_false_iff.2 (List.ne_nil_of_mem (State.mem_savedOf.2 ⟨hd, hdl⟩))
  unfold State.resumeDormant
  simp only [hl, hphase, hend, hne, State.reservedRead_of_clean hclean, ite_self, State.ended_of_launch hl hend, bne_self_eq_false,
    Option.isSome_none, Bool.or_self, Bool.false_eq_true, if_false]
  rfl

/-- A load that fails, its pages freed. -/
theorem State.failLoad_unplace {s : State} {lid : ℕ} {l : Launch} (hl : s.launch lid = some l) (hend : l.ending = none) (e : EndRec) :
    ((s.failLoad lid e).unplace lid).launch lid = some { l with ending := some e } ∧ ∀ p ∈ ((s.failLoad lid e).unplace lid).placed, p.lid ≠ lid := by
  refine ⟨?_, fun p hp => by simpa [State.unplace] using (List.mem_filter.1 hp).2⟩
  have h := s.endWith_launch lid e lid
  rw [hl, Option.map_some, if_pos rfl, if_pos (by rw [hend]; rfl)] at h
  exact h

theorem State.runAgain_spec {s : State} {lid : ℕ} {l : Launch} (hl : s.launch lid = some l) :
    (s.runAgain lid).launch lid = some { l with phase := .running, startOrder := s.orders, parkedReady := [], parkedTasks := [] }
      ∧ (s.runAgain lid).head ≠ some lid ∧ (∀ d ∈ (s.runAgain lid).dormants, d.lid ≠ lid)
      ∧ ∀ d ∈ s.dormants, d.lid = lid → ∀ x ∈ d.cores, x ∈ (s.runAgain lid).cores := by
  have hopen := State.foldl_reopen_standing (s.savedOf lid) (s.useFree 1)
  unfold State.runAgain
  generalize (s.savedOf lid).foldl (fun s d => s.reopen d) (s.useFree 1) = u at hopen
  simp only [State.standing, Prod.mk.injEq] at hopen
  obtain ⟨hlaunches, horders, hdormants, hcores⟩ := hopen
  have hul : u.launch lid = some l := (State.launch_of_launches hlaunches lid).trans hl
  have hseat := State.reseatSeqs_standing hul
  have hbare := State.mapLaunch_launch_same hul (f := fun l => { l with parkedReady := [], parkedTasks := [] }) (fun _ => rfl)
  generalize u.reseatSeqs lid = v at hseat
  simp only [State.standing, Prod.mk.injEq] at hseat
  obtain ⟨hvlaunches, hvorders, hvdormants, hvcores⟩ := hseat
  refine ⟨?launch, ?head, ?dormants, ?cores⟩
  case launch =>
    have hv : v.launch lid = _ := (State.launch_of_launches hvlaunches lid).trans hbare
    have hrun := State.mapLaunch_launch_same hv (f := fun l => { l with phase := .running, startOrder := s.orders }) (fun _ => rfl)
    rw [State.begins, show v.orders = s.orders from hvorders.trans horders]
    exact hrun
  case head =>
    show (if v.head = some lid then none else v.head) ≠ some lid
    split
    · exact (Option.some_ne_none lid).symm
    · assumption
  case dormants =>
    intro d hd hdl
    rw [show (v.begins lid).dormants = _ from hvdormants.trans hdormants] at hd
    obtain ⟨hin, hgone⟩ := List.mem_filter.1 hd
    have hput : (s.savedOf lid).any (fun e => d.lid == e.lid && d.pset == e.pset) := List.any_eq_true.2 ⟨d, State.mem_savedOf.2 ⟨hin, hdl⟩, by simp⟩
    rw [hput] at hgone
    exact Bool.false_ne_true hgone
  case cores =>
    intro d hd hdl x hx
    rw [show (v.begins lid).cores = _ from hvcores.trans hcores]
    exact List.mem_append_right _ (List.mem_flatMap.2 ⟨d, State.mem_savedOf.2 ⟨hd, hdl⟩, hx⟩)

theorem dormantResume_spec {s : State} {lid : ℕ} {l : Launch} (hl : s.launch lid = some l) (hphase : l.phase = .loading) (hend : l.ending = none)
    (hsome : ∃ d ∈ s.dormants, d.lid = lid) (hclean : ∀ e ∈ s.ecc, reservedMem (32 * e.1) → e.2.2 = false) :
    ((∃ d ∈ s.dormants, d.lid = lid ∧ s.imageHolds d.area = false) → ∃ t, exec (.dormantResume lid) s = .next t
        ∧ t.launch lid = some { l with ending := some { status := 0x21, detail := 0x0C } } ∧ ∀ p ∈ t.placed, p.lid ≠ lid)
    ∧ ((∀ d ∈ s.dormants, d.lid = lid → s.imageHolds d.area) → (∃ d ∈ s.dormants, d.lid = lid ∧ s.forged d) → s.freeAt 0 % 2 = 1 →
        ∃ t e, exec (.dormantResume lid) s = .next t ∧ t.launch lid = some { l with ending := some e } ∧ e.status = 0x21 ∧ e.detail = 0x0B
          ∧ ∀ p ∈ t.placed, p.lid ≠ lid)
    ∧ ((∀ d ∈ s.dormants, d.lid = lid → s.imageHolds d.area) → ((∀ d ∈ s.dormants, d.lid = lid → s.forged d = false) ∨ s.freeAt 0 % 2 = 0) →
        ∃ t, exec (.dormantResume lid) s = .next t
        ∧ t.launch lid = some { l with phase := .running, startOrder := s.orders, parkedReady := [], parkedTasks := [] } ∧ t.head ≠ some lid
            ∧ (∀ d ∈ t.dormants, d.lid ≠ lid)
        ∧ ∀ d ∈ s.dormants, d.lid = lid → ∀ x ∈ d.cores, x ∈ t.cores) := by
  rw [exec_dormantResume, execDormantResume, State.resumeDormant_eq hl hphase hend hsome hclean]
  have hholds (h : ∀ d ∈ s.dormants, d.lid = lid → s.imageHolds d.area) : ¬ (!(s.savedOf lid).all (fun d => s.imageHolds d.area)) = true := by
    simpa [State.mem_savedOf] using h
  refine ⟨fun hbad => ?broken, fun hall hforged hfree => ?forged, fun hall hgood => ?runs⟩
  case broken =>
    have hbroken : (!(s.savedOf lid).all (fun d => s.imageHolds d.area)) = true := by simpa [State.mem_savedOf, and_assoc] using hbad
    obtain ⟨hlaunch, hplaced⟩ := State.failLoad_unplace hl hend { status := 0x21, detail := 0x0C }
    exact ⟨_, congrArg Host.Outcome.next (if_pos hbroken), hlaunch, hplaced⟩
  case forged =>
    have hfound : ((s.savedOf lid).any s.forged && s.freeAt 0 % 2 == 1) = true := by simpa [State.mem_savedOf, hfree, and_assoc] using hforged
    obtain ⟨hlaunch, hplaced⟩ := State.failLoad_unplace (s := s.useFree 1) hl hend
      { status := 0x21, detail := 0x0B, die := (((s.savedOf lid).find? s.forged).map (fun d => s.dieOfPset lid d.pset)).getD 0 }
    exact ⟨_, _, congrArg Host.Outcome.next ((if_neg (hholds hall)).trans (if_pos hfound)), hlaunch, rfl, rfl, hplaced⟩
  case runs =>
    have hnone : ¬ ((s.savedOf lid).any s.forged && s.freeAt 0 % 2 == 1) = true := by
      obtain hgood | hfree := hgood
      · simpa [State.mem_savedOf] using fun d hd hdl hf => absurd hf (by simp [hgood d hd hdl])
      · simp [hfree]
    obtain ⟨hlaunch, hhead, hdormants, hcores⟩ := State.runAgain_spec hl
    exact ⟨_, congrArg Host.Outcome.next ((if_neg (hholds hall)).trans (if_neg hnone)), hlaunch, hhead, hdormants, hcores⟩

/-! ### Suspected hangs (R209, R211) -/

theorem State.haltLaunch_quiesced (s : State) (lid : ℕ) : ∀ p ∈ (s.haltLaunch lid).placed, p.lid = lid → p.quiesced := by
  intro p hp hlid
  obtain ⟨q, _, rfl⟩ := List.mem_map.1 hp
  by_cases hq : q.lid = lid
  · simp [hq]
  · rw [if_neg hq] at hlid
    exact absurd hlid hq

/-- A suspected hang ends its launch, keeps its frost map and freezes its page sets. -/
theorem State.hang_spec {s : State} {lid : ℕ} {l : Launch} (hl : s.launch lid = some l) (hend : l.ending = none) (die x y : ℕ) :
    (s.hang lid die x y).launch lid = some { l with ending := some { status := 0x22, detail := 0x90, die := die, plotx := x, ploty := y } }
      ∧ (s.hang lid die x y).cuts = s.cuts ∧ (∃ m, (s.hang lid die x y).frost = ((lid, m) :: s.frost).take 4)
      ∧ ∀ p ∈ (s.hang lid die x y).placed, p.lid = lid → p.quiesced := by
  unfold State.hang
  rw [if_neg (by rw [State.ended_of_launch hl hend]; exact Bool.false_ne_true)]
  refine ⟨?launch, rfl, ⟨_, rfl⟩, ?placed⟩
  case launch =>
    have h := s.endWith_launch lid { status := 0x22, detail := 0x90, die := die, plotx := x, ploty := y } lid
    rw [hl, Option.map_some, if_pos rfl, if_pos (by rw [hend]; rfl)] at h
    exact h
  case placed => exact State.haltLaunch_quiesced _ lid

theorem State.countOut_launches (s : State) (a : Agent) : (s.countOut a).launches = s.launches := by
  cases a with
  | chan lid num => unfold State.countOut; dsimp only; split <;> rfl
  | elem r => rfl
  | node r => rfl
  | core c => rfl

theorem State.countOut_frost (s : State) (a : Agent) : (s.countOut a).frost = s.frost := by
  cases a with
  | chan lid num => unfold State.countOut; dsimp only; split <;> rfl
  | elem r => rfl
  | node r => rfl
  | core c => rfl

end Sys2Proof.Machine
end

section
/-! SUPPORT. Breakpoint registers and the breakpoints that fire (R214 to R216), and writes to registers of the two windows (R5). -/
namespace Sys2Proof.Machine

/-! ### Breakpoint registers -/

/-- A write keeps bits 63:0 and 127:77 of its value; bit 76 alone depends on what stood there. -/
theorem dbpWritten_getLsbD (old v : BitVec 128) {j : ℕ} (hj : j < 128) :
    (dbpWritten old v).getLsbD j = if j = 76 then old.getLsbD 76 && !v.getLsbD 76 else v.getLsbD j && (decide (j < 64) || decide (76 < j)) := by
  have hsplit : dbpWritten old v = BitVec.ofNat 128 (2 ^ 77 * (v.toNat / 2 ^ 77)
      + (2 ^ 76 * (old.getLsbD 76 && !v.getLsbD 76).toNat + v.toNat % 2 ^ 64)) := by
    refine congrArg (BitVec.ofNat 128) ?_
    cases v.getLsbD 76 <;> cases old.getLsbD 76 <;> simp <;> omega
  have hlow : v.toNat % 2 ^ 64 < 2 ^ 76 := (Nat.mod_lt _ (by decide)).trans (by decide)
  have hmid : 2 ^ 76 * (old.getLsbD 76 && !v.getLsbD 76).toNat + v.toNat % 2 ^ 64 < 2 ^ 77 := by
    have := Bool.toNat_le (old.getLsbD 76 && !v.getLsbD 76)
    omega
  rw [hsplit, BitVec.getLsbD_ofNat, Nat.testBit_two_pow_mul_add _ hmid, Nat.testBit_two_pow_mul_add _ hlow, Nat.testBit_mod_two_pow,
    Nat.testBit_div_two_pow]
  obtain hlt | rfl | hgt := Nat.lt_trichotomy j 76
  · have hne : j ≠ 76 := hlt.ne
    simp [hj, hlt, hne, Nat.lt_succ_of_lt hlt, hlt.not_gt, BitVec.getLsbD, Bool.and_comm]
  · cases (old.getLsbD 76 && !v.getLsbD 76) <;> simp
  · have hge : 77 ≤ j := hgt
    simp [hj, hge.not_gt, hgt, hgt.ne', Nat.sub_add_cancel hge, BitVec.getLsbD]

theorem State.setHit_dbpAt {s : State} {n : ℕ} (hn : n < 16) : ((s.setHit n).dbpAt n).getLsbD 76 := by
  simp [State.setHit, State.dbpAt, hn]

theorem dbpWrite_spec {s : State} {n : ℕ} (hn : n < 16) (v : BitVec 128) :
    (s.sealedChan (dbpLid v) (dbpChan v) → exec (.dbpWrite n v) s = .next { s with sealRefusals := s.sealRefusals + 1 })
    ∧ (s.sealedChan (dbpLid v) (dbpChan v) = false → ∃ t, exec (.dbpWrite n v) s = .next t ∧ t = { s with dbp := t.dbp }
        ∧ (∀ k, k ≠ n → t.dbpAt k = s.dbpAt k)
        ∧ ∀ j < 128, (t.dbpAt n).getLsbD j = if j = 76 then (s.dbpAt n).getLsbD 76 && !v.getLsbD 76 else v.getLsbD j && (decide (j < 64) || decide (76 < j))) := by
  rw [exec_dbpWrite, execDbpWrite, State.writeDbp]
  refine ⟨fun hsealed => by rw [if_pos hsealed], fun hopen => ?_⟩
  rw [hopen, if_neg Bool.false_ne_true, dif_pos hn]
  refine ⟨_, rfl, rfl, fun k hk => ?_, fun j hj => ?_⟩
  · unfold State.dbpAt
    split
    · exact Vector.getElem_set_ne hn _ (Ne.symm hk)
    · rfl
  · simp only [State.dbpAt, hn, dif_pos, Vector.getElem_set_self]
    exact dbpWritten_getLsbD _ _ hj

/-! ### Breakpoints that fire -/

/-- The strongest of the ACT fields of breakpoints that fire together acts on their launch, unless a fault decides. -/
def State.actOn (s : State) (acts : List ℕ) (lid : ℕ) : State :=
  if s.ended lid then s
  else if acts.contains 1 || (acts.contains 2 && s.cutStops lid) then s.startCut lid (s.psetsOf lid) .stop none
  else if acts.contains 2 then s.freezeLaunch lid
  else s

/-- One breakpoint that fires samples its beat where its ACT is 3, and sets HIT. -/
def State.markHit (s : State) (lid : ℕ) (e : ℕ × Beat) : State :=
  (if dbpAct (s.dbpAt e.1) = 3 then s.sample lid e.2 else s).setHit e.1

/-- Which breakpoints of a launch fire: those of its pending ones that name no channel inside a sealed page set. -/
theorem State.fireBreak_eq {s : State} {lid k : ℕ} {all mine gone : List (ℕ × Beat)}
    (hall : s.bpPending.filter (fun e => dbpLid (s.dbpAt e.1) == lid) = all) (hgone : s.bpPending.filter (fun e => dbpLid (s.dbpAt e.1) != lid) = gone)
    (hmine : all.filter (fun e => !s.sealedChan lid (dbpChan (s.dbpAt e.1))) = mine)
    (hk : all.countP (fun e => s.sealedChan lid (dbpChan (s.dbpAt e.1))) = k) :
    s.fireBreak lid = (mine.foldl (fun (s : State) e => s.markHit lid e) { s with sealRefusals := s.sealRefusals + k, bpPending := gone }).actOn
      (mine.map (fun e : ℕ × Beat => dbpAct (s.dbpAt e.1))) lid := by
  subst hmine hk hall hgone
  rfl

/-- Where one breakpoint is pending, the case of its channel decides. -/
theorem breakpointFire_single {s : State} {n lid : ℕ} {b : Beat} (hp : s.bpPending = [(n, b)]) (hlid : dbpLid (s.dbpAt n) = lid) :
    (s.sealedChan lid (dbpChan (s.dbpAt n)) → exec (.breakpointFire n) s = .next { s with bpPending := [], sealRefusals := s.sealRefusals + 1 })
    ∧ (s.sealedChan lid (dbpChan (s.dbpAt n)) = false →
        exec (.breakpointFire n) s = .next ((({ s with bpPending := [] } : State).markHit lid (n, b)).actOn [dbpAct (s.dbpAt n)] lid)) := by
  have hall : s.bpPending.filter (fun e => dbpLid (s.dbpAt e.1) == lid) = [(n, b)] := by simp [hp, hlid]
  have hgone : s.bpPending.filter (fun e => dbpLid (s.dbpAt e.1) != lid) = [] := by simp [hp, hlid]
  have hexec : exec (.breakpointFire n) s = .next (s.fireBreak lid) := by
    rw [exec_breakpointFire, execBreakpointFire, hlid, if_pos (by simp [hp])]
  refine ⟨fun hsealed => ?_, fun hopen => ?_⟩
  · rw [hexec, State.fireBreak_eq hall hgone (mine := []) (k := 1) (by simp [hsealed]) (by simp [hsealed])]
    exact congrArg Host.Outcome.next (by simp [State.actOn])
  · rw [hexec, State.fireBreak_eq hall hgone (mine := [(n, b)]) (k := 0) (by simp [hopen]) (by simp [hopen])]
    rfl

@[simp] theorem State.setHit_launches (s : State) (n : ℕ) : (s.setHit n).launches = s.launches := by
  unfold State.setHit; split <;> rfl

@[simp] theorem State.setHit_bpPending (s : State) (n : ℕ) : (s.setHit n).bpPending = s.bpPending := by
  unfold State.setHit; split <;> rfl

@[simp] theorem State.setHit_samples (s : State) (n : ℕ) : (s.setHit n).samples = s.samples := by
  unfold State.setHit; split <;> rfl

@[simp] theorem State.setHit_frost (s : State) (n : ℕ) : (s.setHit n).frost = s.frost := by
  unfold State.setHit; split <;> rfl

@[simp] theorem State.setHit_cuts (s : State) (n : ℕ) : (s.setHit n).cuts = s.cuts := by
  unfold State.setHit; split <;> rfl

@[simp] theorem State.setHit_placed (s : State) (n : ℕ) : (s.setHit n).placed = s.placed := by
  unfold State.setHit; split <;> rfl

/-- A breakpoint that may fire, by its ACT. -/
theorem breakpointFire_spec {s : State} {n lid : ℕ} {b : Beat} {l : Launch} (hn : n < 16) (hp : s.bpPending = [(n, b)])
    (hlid : dbpLid (s.dbpAt n) = lid) (hl : s.launch lid = some l) (hend : l.ending = none) (hopen : s.sealedChan lid (dbpChan (s.dbpAt n)) = false) :
    (dbpAct (s.dbpAt n) = 3 → ∃ t, exec (.breakpointFire n) s = .next t ∧ t.bpPending = [] ∧ (t.dbpAt n).getLsbD 76 ∧ t.launches = s.launches
        ∧ kget lid t.samples = some (let all := (kget lid s.samples).getD [] ++ [beat78 b]; all.drop (all.length - 256)))
    ∧ (dbpAct (s.dbpAt n) = 2 → s.cutStops lid = false → ∃ t, exec (.breakpointFire n) s = .next t ∧ t.bpPending = [] ∧ (t.dbpAt n).getLsbD 76
        ∧ t.launch lid = some { l with phase := .frozen } ∧ t.frost = s.frost ∧ ∀ p ∈ t.placed, p.lid = lid → p.quiesced)
    ∧ (dbpAct (s.dbpAt n) = 1 ∨ (dbpAct (s.dbpAt n) = 2 ∧ s.cutStops lid) →
        exec (.breakpointFire n) s = .next ((({ s with bpPending := [] } : State).setHit n).startCut lid (s.psetsOf lid) .stop none)) := by
  rw [(breakpointFire_single hp hlid).2 hopen]
  generalize hv : ({ s with bpPending := [] } : State) = v
  have hact : v.dbpAt n = s.dbpAt n := by rw [← hv]; rfl
  have hvl : v.launch lid = some l := by rw [← hv]; exact hl
  have hended (u : State) (hu : u.launches = v.launches) : u.ended lid = false :=
    State.ended_of_launch ((State.launch_of_launches hu lid).trans hvl) hend
  have hhit (h : dbpAct (s.dbpAt n) ≠ 3) : v.markHit lid (n, b) = v.setHit n := by
    rw [State.markHit, hact, if_neg h]
  refine ⟨fun h3 => ?sample, fun h2 hstops => ?freeze, fun hcut => ?cut⟩
  case sample =>
    refine ⟨_, rfl, ?_⟩
    have hmark : v.markHit lid (n, b) = (v.sample lid b).setHit n := by rw [State.markHit, hact, if_pos h3]
    have hkeeps : (v.markHit lid (n, b)).actOn [3] lid = v.markHit lid (n, b) := by simp [State.actOn]
    rw [h3, hkeeps, hmark]
    refine ⟨?_, State.setHit_dbpAt hn, ?_, ?_⟩
    · rw [State.setHit_bpPending, ← hv]; rfl
    · rw [State.setHit_launches, ← hv]; rfl
    · rw [State.setHit_samples, ← hv]
      exact kget_kset_same _ _ _
  case freeze =>
    refine ⟨_, rfl, ?_⟩
    have hfreeze : (v.setHit n).actOn [2] lid = (v.setHit n).freezeLaunch lid := by
      have hno : (v.setHit n).cutStops lid = false := by rw [State.cutStops, State.setHit_cuts, ← hv]; exact hstops
      simp [State.actOn, hended _ (State.setHit_launches v n), hno]
    rw [h2, hhit (by rw [h2]; decide), hfreeze]
    refine ⟨?_, State.setHit_dbpAt hn, ?_, ?_, State.haltLaunch_quiesced _ lid⟩
    · show (v.setHit n).bpPending = []
      rw [State.setHit_bpPending, ← hv]
    · have hhalted : ((v.setHit n).haltLaunch lid).launch lid = some l := (State.launch_of_launches (State.setHit_launches v n) lid).trans hvl
      exact State.mapLaunch_launch_same hhalted (f := fun l => { l with phase := .frozen }) (fun _ => rfl)
    · show (v.setHit n).frost = s.frost
      rw [State.setHit_frost, ← hv]
  case cut =>
    have hne : dbpAct (s.dbpAt n) ≠ 3 := by
      obtain h1 | ⟨h2, _⟩ := hcut
      · rw [h1]; decide
      · rw [h2]; decide
    have hpsets : (v.setHit n).psetsOf lid = s.psetsOf lid := by rw [State.psetsOf, State.setHit_placed, ← hv]; rfl
    rw [hhit hne, State.actOn, if_neg (by rw [hended _ (State.setHit_launches v n)]; exact Bool.false_ne_true), hpsets]
    refine congrArg Host.Outcome.next (if_pos ?_)
    obtain h1 | ⟨h2, hstops⟩ := hcut
    · simp [h1]
    · have hyes : (v.setHit n).cutStops lid = true := by rw [State.cutStops, State.setHit_cuts, ← hv]; exact hstops
      simp [h2, hyes]

/-! ### Writes to registers -/

theorem registerWrite_gth (s : State) (v : DWord) {d k pa : ℕ} (hd : d < 8) (hk : k < 7) (hpa : pa = 0x9000001000 + 0x800 * d + 0x40 + 8 * k) :
    exec (.registerWrite pa v) s = exec (.gthWrite d k v) s := by
  have hdie : (pa - 0x9000001000) / 0x800 = d := by omega
  have hoff : (pa - 0x9000001000) % 0x800 = 0x40 + 8 * k := by omega
  rw [exec_registerWrite, execRegisterWrite, State.regWrite, if_pos (by omega)]
  simp only [hdie, hoff]
  rw [if_pos (by omega), show (0x40 + 8 * k - 0x40) / 8 = k by omega]
  rfl

theorem registerWrite_maxfl (s : State) (v : DWord) {d i pa : ℕ} (hd : d < 8) (hi : i < 64) (hpa : pa = 0x9000001000 + 0x800 * d + 0x100 + 16 * i) :
    exec (.registerWrite pa v) s = exec (.maxflWrite d i v) s := by
  have hdie : (pa - 0x9000001000) / 0x800 = d := by omega
  have hoff : (pa - 0x9000001000) % 0x800 = 0x100 + 16 * i := by omega
  rw [exec_registerWrite, execRegisterWrite, State.regWrite, if_pos (by omega)]
  simp only [hdie, hoff]
  rw [if_neg (by omega), if_pos (by omega), Nat.add_sub_cancel_left, Nat.mul_div_cancel_left i (by decide)]
  rfl

theorem registerWrite_prof (s : State) (v : DWord) {d g pa : ℕ} (hlow : 8 ≤ d) (hd : d < 16) (hg : g < 13)
    (hpa : pa = 0x900000A000 + 0x800 * (d - 8) + 0x80 * g) : exec (.registerWrite pa v) s = .next (s.setProf ((s.prof d g).writeCfg v)) := by
  have hdie : (pa - 0x900000A000) / 0x80 / 16 + 8 = d := by omega
  have heng : (pa - 0x900000A000) / 0x80 % 16 = g := by omega
  rw [exec_registerWrite, execRegisterWrite, State.regWrite, if_neg (by omega), if_pos (by omega)]
  simp only [hdie, heng]
  rw [if_pos (by omega)]

theorem registerWrite_outside (s : State) (v : DWord) {pa : ℕ} (h : pa < 0x9000001000 ∨ 0x900000E000 ≤ pa) :
    exec (.registerWrite pa v) s = .next s := by
  rw [exec_registerWrite, execRegisterWrite, State.regWrite, if_neg (by omega), if_neg (by omega)]

/-! ### The obligation -/

/-- CUT_COMPLETE, by what its cut was begun for. -/
theorem finishCut_spec {s : State} {lid : ℕ} {c : Cut} {l : Launch} (hlid : c.lid = lid) (harea : c.area = none) (hl : s.launch lid = some l)
    (hend : l.ending = none) (hc : s.cuts.find? (fun c => c.lid == lid && s.cutDone c) = some c) :
    ∃ t, exec (.cutComplete lid) s = .next t ∧ t.cuts = s.cuts.filter (fun d => d ≠ c) ∧ t.mem = s.mem
      ∧ (c.why = .graft → ∀ p ∈ t.placed, p.lid = lid → p.pset ∈ c.psets → p.quiesced)
      ∧ (c.why = .stop → t.launch lid = some { l with phase := .stopped } ∧ (∀ p ∈ t.placed, p.lid = lid → p.pset ∈ c.psets → p.quiesced)
          ∧ t.outbox = s.outbox ++ (s.chans.filter (fun h => h.lid == lid)).map (fun h => .report 1 lid h.num ((h.cutAt.map (fun k => k.1)).getD h.ordinal)))
      ∧ (c.why = .preempt → t.launch lid = some { l with
            phase := .dormant, preempted := true
            parkedReady := s.seqs.toList.flatMap (fun q => q.ready.filter (fun e => e.1 = lid))
            parkedTasks := s.seqs.toList.flatMap (fun q => q.tasks.filter (fun k => k.lid = lid)) } ∧ t.head ≠ some lid
          ∧ (∀ p ∈ t.placed, p.lid = lid → p.pset ∉ c.psets) ∧ ∀ p ∈ c.psets, ∃ d ∈ t.dormants, d.lid = lid ∧ d.pset = p)
      ∧ (∀ u, c.why = .ckptCont u → t.launches = s.launches ∧ ∀ p ∈ t.placed, p.lid = lid → p.pset ∈ c.psets → p.quiesced = false) := by
  refine ⟨s.finishCut c, cutComplete_spec hc hl hend, ?_⟩
  cases hwhy : c.why with
  | graft =>
    rw [State.finishCut_graft harea hwhy, hlid]
    exact ⟨foldl_keeps State.cuts (fun s p => by rfl) _ _, foldl_keeps State.mem (fun s p => by rfl) _ _,
      fun _ => mapPlace_fold_quiesced lid true c.psets (fun _ _ => rfl) _, nofun, nofun, nofun⟩
  | ckptCont u =>
    rw [State.finishCut_cont harea hwhy, hlid]
    exact ⟨foldl_keeps State.cuts (fun s p => by rfl) _ _, foldl_keeps State.mem (fun s p => by rfl) _ _, nofun, nofun, nofun,
      fun _ _ => ⟨foldl_keeps State.launches (fun s p => by rfl) _ _, mapPlace_fold_quiesced lid false c.psets (fun s k => by rfl) _⟩⟩
  | stop =>
    obtain ⟨hcuts, hmem, hlaunch, hplaced, hout⟩ := finishCut_stop_spec hlid harea hl hwhy
    exact ⟨hcuts, hmem, nofun, fun _ => ⟨hlaunch, hplaced, hout⟩, nofun, nofun⟩
  | preempt =>
    obtain ⟨hcuts, hmem, hlaunch, hrest⟩ := finishCut_saves_spec hlid harea hl (by rw [hwhy]; rfl)
    rw [hwhy, decide_eq_true rfl] at hlaunch
    exact ⟨hcuts, hmem, nofun, nofun, fun _ => ⟨hlaunch, hrest⟩, nofun⟩
  | ckptYield u =>
    obtain ⟨hcuts, hmem, _⟩ := finishCut_saves_spec hlid harea hl (by rw [hwhy]; rfl)
    exact ⟨hcuts, hmem, nofun, nofun, nofun, nofun⟩

/-- Settles O53: what each event does, clause by clause, by the lemmas above. -/
theorem cutsAndDebug : Obligations.CutsAndDebug := by
  unfold Obligations.CutsAndDebug
  refine ⟨fun s lid psets why h => cutStart_spec h psets why, fun s lid num i x y port => dormancyMarkerArrival_spec, ?cutComplete,
    fun s lid l => dormantResume_spec, ?limit, ?timeout, ?fire, fun s n v hn => dbpWrite_spec hn v, ?clear, fun s pa v => ?register⟩
  case cutComplete =>
    intro s lid c l hc harea hl hend
    have hfound := List.find?_some hc
    have hlid : c.lid = lid := by simpa using (Bool.and_eq_true_iff.1 hfound).1
    exact finishCut_spec hlid harea hl hend hc
  case limit =>
    intro s a lid die x y l hplace hl hend
    have hcl : (s.countOut a).launch lid = some l := (State.launch_of_launches (s.countOut_launches a) lid).trans hl
    obtain ⟨hlaunch, _, hfrost, hplaced⟩ := State.hang_spec hcl hend die x y
    rw [s.countOut_frost a] at hfrost
    exact ⟨_, by rw [exec_noProgressLimit, execNoProgressLimit, hplace], hlaunch, hfrost, hplaced⟩
  case timeout =>
    intro s c l hc hl hend
    have hexec : exec .cutTimeout s = .next (({ s with cuts := s.cuts.filter (fun d => d ≠ c) } : State).hang c.lid
        (s.cutLate c).1 (s.cutLate c).2.1 (s.cutLate c).2.2) := by
      rw [exec_cutTimeout, execCutTimeout, hc]
    obtain ⟨hlaunch, hcuts, hfrost, hplaced⟩ := State.hang_spec (s := { s with cuts := s.cuts.filter (fun d => d ≠ c) }) hl hend
      (s.cutLate c).1 (s.cutLate c).2.1 (s.cutLate c).2.2
    exact ⟨_, _, hexec, hcuts, hlaunch, rfl, rfl, hfrost, hplaced⟩
  case fire =>
    intro s n lid b l hn hp hlid hl hend
    exact ⟨(breakpointFire_single hp hlid).1, breakpointFire_spec hn hp hlid hl hend⟩
  case clear =>
    intro s die g hlow hdie hg
    rw [exec_ehcfgClr, execEhcfgClr, if_pos ⟨hlow, hdie, hg⟩]
  case register =>
    exact ⟨fun d k hd hk hpa => registerWrite_gth s v hd hk hpa, fun d i hd hi hpa => registerWrite_maxfl s v hd hi hpa,
      fun d g hlow hd hg hpa => registerWrite_prof s v hlow hd hg hpa, registerWrite_outside s v⟩

end Sys2Proof.Machine
end

section
/-! SUPPORT. The sprout controller: the order of its guess records (R94), what reaches its lanes (R90 to R94), reports and notices (R101, R102). -/
namespace Sys2Proof.Machine

/-! ### Guess records that arrive in one cycle (R94) -/

theorem GuessRec.ahead_iff {a b : GuessRec} :
    a.ahead b ↔ b.gpix < a.gpix ∨ (a.gpix = b.gpix ∧ (a.lane < b.lane ∨ (a.lane = b.lane ∧ a.pos < b.pos))) := by
  simp [GuessRec.ahead]

theorem GuessRec.ahead_of_ahead {a b c : GuessRec} (hab : a.ahead b) (hcb : c.ahead b = false) : a.ahead c := by
  rw [← Bool.not_eq_true, GuessRec.ahead_iff] at hcb
  rw [GuessRec.ahead_iff] at hab ⊢
  omega

theorem GuessRec.ahead_asymm {a b : GuessRec} (hab : a.ahead b) : b.ahead a = false := by
  rw [← Bool.not_eq_true, GuessRec.ahead_iff]
  rw [GuessRec.ahead_iff] at hab
  omega

/-- Of two records of a list, the one that is ahead. -/
def foremost (l : List Beat) (m k : ℕ) : ℕ := if (guessOf (l.getD k [])).ahead (guessOf (l.getD m [])) then k else m

/-- The first n + 1 records of a list, searched in turn: none is ahead of the one found, which is ahead of those before it. -/
theorem foldl_foremost (l : List Beat) : ∀ n, (List.range (n + 1)).foldl (foremost l) 0 ≤ n ∧ ∀ j ≤ n,
    (guessOf (l.getD j [])).ahead (guessOf (l.getD ((List.range (n + 1)).foldl (foremost l) 0) [])) = false
      ∧ (j < (List.range (n + 1)).foldl (foremost l) 0 →
          (guessOf (l.getD ((List.range (n + 1)).foldl (foremost l) 0) [])).ahead (guessOf (l.getD j [])))
  | 0 => by
    have hzero : (List.range (0 + 1)).foldl (foremost l) 0 = 0 := ite_self _
    rw [hzero]
    refine ⟨Nat.le_refl 0, fun j hj => ⟨?_, fun h => absurd h (Nat.not_lt_zero j)⟩⟩
    rw [Nat.le_zero.1 hj, ← Bool.not_eq_true, GuessRec.ahead_iff]
    omega
  | n + 1 => by
    obtain ⟨hle, hfound⟩ := foldl_foremost l n
    rw [List.range_succ, List.foldl_append, List.foldl_cons, List.foldl_nil]
    generalize (List.range (n + 1)).foldl (foremost l) 0 = m at hle hfound
    unfold foremost
    split
    · next hnew =>
      refine ⟨Nat.le_refl _, fun j hj => ?_⟩
      obtain hlt | rfl := Nat.lt_or_eq_of_le hj
      · have hahead := GuessRec.ahead_of_ahead hnew (hfound j (Nat.le_of_lt_succ hlt)).1
        exact ⟨GuessRec.ahead_asymm hahead, fun _ => hahead⟩
      · refine ⟨?_, fun h => absurd h (Nat.lt_irrefl _)⟩
        rw [← Bool.not_eq_true, GuessRec.ahead_iff]
        omega
    · next hold =>
      refine ⟨Nat.le_succ_of_le hle, fun j hj => ?_⟩
      obtain hlt | rfl := Nat.lt_or_eq_of_le hj
      · exact hfound j (Nat.le_of_lt_succ hlt)
      · exact ⟨Bool.not_eq_true _ ▸ hold, fun h => absurd h (by omega)⟩

theorem State.nextGuess_spec (s : State) {l : List Beat} {j : ℕ} (hlen : j < l.length) (hj : j ≤ s.freeAt 0 % l.length) :
    s.nextGuess l ≤ s.freeAt 0 % l.length ∧ (guessOf (l.getD j [])).ahead (guessOf (l.getD (s.nextGuess l) [])) = false
      ∧ (j < s.nextGuess l → (guessOf (l.getD (s.nextGuess l) [])).ahead (guessOf (l.getD j []))) := by
  have hpos : 0 < l.length := Nat.zero_lt_of_lt hlen
  have hsame : min (s.freeAt 0 % max 1 l.length + 1) l.length = s.freeAt 0 % l.length + 1 := by
    rw [max_eq_right hpos]
    exact min_eq_left (Nat.mod_lt _ hpos)
  have hnext : s.nextGuess l = (List.range (s.freeAt 0 % l.length + 1)).foldl (foremost l) 0 := by
    rw [← hsame]
    rfl
  obtain ⟨hle, hfound⟩ := foldl_foremost l (s.freeAt 0 % l.length)
  rw [hnext]
  exact ⟨hle, hfound j hj⟩

/-! ### Lanes -/

@[simp] theorem State.setSprout_sprout {s : State} {d : ℕ} (hd : d < 8) (x : Sprout) : (s.setSprout d x).sprout d = x := by
  simp [State.setSprout, State.sprout, hd]

theorem Sprout.updLane_lane {sp : Sprout} {i : ℕ} (hi : i < sp.lanes.length) (f : Lane → Lane) : (sp.updLane i f).lane i = f (sp.lane i) :=
  setAt_getD_same hi f {}

/-- A lane without a waiting launch that is not closing stays as it is. -/
theorem State.settle_idle {s : State} {d i : ℕ} (hwait : ((s.sprout d).lane i).waiting = none) (hopen : ((s.sprout d).lane i).closing = false) :
    s.settle d i = s := by
  have hretry : s.retry d i = s := by
    simp only [State.retry, hwait]
  simp only [State.settle, State.tryClose, hretry, hopen, Bool.false_and, Bool.false_eq_true, if_false]

theorem State.tryCommit_idle {s : State} {d i : ℕ} (hnone : ∀ o, ((s.sprout d).lane i).find ((s.sprout d).lane i).npos = some o → o.due = false)
    (n : ℕ) : s.tryCommit d i (n + 1) = s := by
  unfold State.tryCommit
  dsimp only
  split
  · rfl
  · next o ho => exact if_pos (by rw [hnone o ho]; rfl)

/-- What a launch changes of the lane. -/
theorem State.launchPos_lane {s : State} {d i : ℕ} (hd : d < 8) (hi : i < (s.sprout d).lanes.length) (q t : ℕ) (forced : Bool) :
    ∃ p : Position, p.due = false ∧ ((s.launchPos d i q t forced).sprout d).lane i =
      let l := (s.sprout d).lane i
      { l with gnext := (l.gnext + 1) % 2 ^ 16, infl := l.infl + 1, positions := l.positions ++ [p], hi := some (max q (l.hi.getD q))
               waiting := if l.waiting.any (fun w => w.1 == q) then none else l.waiting } := by
  refine ⟨{ pos := q, gen := ((s.sprout d).lane i).gnext, tok := t, forced := forced }, rfl, ?_⟩
  have hset := State.setSprout_sprout (s := s) hd
  unfold State.launchPos
  dsimp only
  split
  · rw [State.sprout, State.mapCore_sprouts, ← State.sprout, hset, Sprout.updLane_lane hi]
  · rw [hset, Sprout.updLane_lane hi]

end Sys2Proof.Machine
end

section
/-! SUPPORT. A guess record that the sprout controller takes (R92, R93). -/
namespace Sys2Proof.Machine

/-- A position with a record of a guess point below FINAL as its best one; it does not become due by it. -/
def notePos (r : GuessRec) (q : Position) : Position :=
  if q.pos = r.pos then { q with best := some r.gpix, due := q.due || false, ftok := id q.ftok } else q

def noteLane (r : GuessRec) (l : Lane) : Lane := { l with positions := l.positions.map (notePos r) }

def State.noteGuess (s : State) (d : ℕ) (r : GuessRec) : State := s.setSprout d ((s.sprout d).updLane (r.lane % 64) (noteLane r))

theorem notePos_due (r : GuessRec) (q : Position) : (notePos r q).due = q.due := by
  unfold notePos
  split
  · exact Bool.or_false _
  · rfl

theorem noteLane_find (r : GuessRec) (l : Lane) (k : ℕ) : (noteLane r l).find k = (l.find k).map (notePos r) := by
  refine find?_map_of_keeps (fun q => ?_) l.positions
  unfold notePos
  split <;> rfl

theorem noteLane_canLaunch (r : GuessRec) (l : Lane) : (noteLane r l).canLaunch = l.canLaunch := by
  simp [Lane.canLaunch, Lane.liveCount, Lane.maxfl, noteLane]

/-! ### Lanes at rest -/

/-- A lane of which nothing is to commit, to be launched or to close. -/
def laneRests (l : Lane) : Prop := (∀ o, l.find l.npos = some o → o.due = false) ∧ l.waiting = none ∧ l.closing = false

theorem noteLane_rests (r : GuessRec) {l : Lane} (h : laneRests l) : laneRests (noteLane r l) := by
  obtain ⟨hdue, hwait, hclosing⟩ := h
  refine ⟨fun o ho => ?_, hwait, hclosing⟩
  rw [noteLane_find] at ho
  obtain ⟨q, hq, rfl⟩ := Option.map_eq_some_iff.1 ho
  rw [notePos_due]
  exact hdue q hq

section
variable {s : State} {d : ℕ}

theorem State.commit_settle_of_rests {i : ℕ} (h : laneRests ((s.sprout d).lane i)) : (s.tryCommit d i 32).settle d i = s := by
  obtain ⟨hdue, hwait, hclosing⟩ := h
  rw [State.tryCommit_idle hdue, State.settle_idle hwait hclosing]

/-- A lane at rest rests after a launch, too: a new position is not due. -/
theorem State.launchPos_rests {i : ℕ} (hd : d < 8) (hi : i < (s.sprout d).lanes.length) (h : laneRests ((s.sprout d).lane i)) (q t : ℕ)
    (forced : Bool) : laneRests (((s.launchPos d i q t forced).sprout d).lane i) := by
  obtain ⟨hdue, hwait, hclosing⟩ := h
  obtain ⟨p, hp, heq⟩ := State.launchPos_lane hd hi q t forced
  rw [heq]
  refine ⟨fun o ho => ?_, by simp [hwait], hclosing⟩
  rw [Lane.find, List.find?_append] at ho
  obtain hold | ⟨_, hnew⟩ := Option.or_eq_some_iff.1 ho
  · exact hdue o hold
  · obtain rfl : o = p := by simpa using List.mem_of_find?_eq_some hnew
    exact hp

end

/-! ### What a record does -/

section
variable {s : State} {d : ℕ} {r : GuessRec}

/-- A record that is late, or of another generation, or below the one taken, changes nothing. -/
theorem State.takeRecord_ignored (h : ((s.sprout d).lane (r.lane % 64)).isOpen = false ∨ r.pos < ((s.sprout d).lane (r.lane % 64)).npos
      ∨ ((s.sprout d).lane (r.lane % 64)).find r.pos = none
      ∨ ∃ p, ((s.sprout d).lane (r.lane % 64)).find r.pos = some p ∧ (p.gen ≠ r.gen ∨ ∃ b, p.best = some b ∧ r.gpix ≤ b)) :
    s.takeRecord d r = s := by
  unfold State.takeRecord
  dsimp only
  split
  · rfl
  · next p hp =>
    refine if_pos ?_
    obtain hclosed | hlate | hnone | ⟨p', hp', hgen | ⟨b, hb, hle⟩⟩ := h
    · simp [hclosed]
    · simp [hlate]
    · rw [hnone] at hp
      cases hp
    · rw [hp] at hp'
      cases hp'
      simp [hgen]
    · rw [hp] at hp'
      cases hp'
      simp [hb, hle]

/-- A record below FINAL that is taken: the next position is launched where the record meets its threshold. -/
theorem State.takeRecord_taken {p : Position} (hd : d < 8) (hlane : r.lane / 64 = d) (hi : r.lane % 64 < (s.sprout d).lanes.length)
    (hopen : ((s.sprout d).lane (r.lane % 64)).isOpen) (hpos : ((s.sprout d).lane (r.lane % 64)).npos ≤ r.pos)
    (hp : ((s.sprout d).lane (r.lane % 64)).find r.pos = some p) (hgen : p.gen = r.gen) (hbest : ∀ b, p.best = some b → b < r.gpix)
    (hpix : r.gpix < 7) (hnext : ((s.sprout d).lane (r.lane % 64)).find ((r.pos + 1) % 2 ^ 32) = none) :
    s.takeRecord d r = (((if meets r.conf ((s.sprout d).gth.getD r.gpix 0) then
        (s.noteGuess d r).want d (r.lane % 64) ((r.pos + 1) % 2 ^ 32) r.tok false else s.noteGuess d r).tryCommit d (r.lane % 64) 32).settle d (r.lane % 64)) := by
  have hne : r.gpix ≠ 7 := hpix.ne
  have hnoteLane : ((s.noteGuess d r).sprout d).lane (r.lane % 64) = noteLane r ((s.sprout d).lane (r.lane % 64)) := by
    rw [State.noteGuess, State.setSprout_sprout hd, Sprout.updLane_lane hi]
  have hnone : (((s.noteGuess d r).sprout d).lane (r.lane % 64)).find ((r.pos + 1) % 2 ^ 32) = none := by
    rw [hnoteLane, noteLane_find, hnext]
    rfl
  have hlow : p.best.any (fun b => decide (r.gpix ≤ b)) = false := by
    rw [Option.any_eq_false]
    intro b hb
    simpa using hbest b hb
  have hnote : s.setSprout d ((s.sprout d).updLane (r.lane % 64) (fun l => { l with positions := l.positions.map (fun q =>
      if q.pos = r.pos then { q with best := some r.gpix, due := q.due || r.gpix == 7, ftok := if r.gpix = 7 then r.tok else q.ftok }
      else q) })) = s.noteGuess d r := by
    rw [beq_false_of_ne hne]
    simp only [if_neg hne]
    rfl
  unfold State.takeRecord
  simp only [hp]
  rw [if_neg (by simp [hopen, hlane, hpos, hgen, hlow])]
  simp only [hnote]
  simp only [hnone, beq_false_of_ne hne, Bool.false_or]

/-- Where the record does not meet its threshold, only the position's best point changes; where it does, the next position is launched. -/
theorem State.takeRecord_spec {p : Position} (hd : d < 8) (hlane : r.lane / 64 = d) (hi : r.lane % 64 < (s.sprout d).lanes.length)
    (hopen : ((s.sprout d).lane (r.lane % 64)).isOpen) (hpos : ((s.sprout d).lane (r.lane % 64)).npos ≤ r.pos)
    (hp : ((s.sprout d).lane (r.lane % 64)).find r.pos = some p) (hgen : p.gen = r.gen) (hbest : ∀ b, p.best = some b → b < r.gpix)
    (hpix : r.gpix < 7) (hrests : laneRests ((s.sprout d).lane (r.lane % 64)))
    (hnext : ((s.sprout d).lane (r.lane % 64)).find ((r.pos + 1) % 2 ^ 32) = none) :
    (meets r.conf ((s.sprout d).gth.getD r.gpix 0) = false → s.takeRecord d r = s.noteGuess d r)
    ∧ (meets r.conf ((s.sprout d).gth.getD r.gpix 0) → ((s.sprout d).lane (r.lane % 64)).stops r.tok = false → (r.pos + 1) % 2 ^ 32 ≠ 0 →
        ((s.sprout d).lane (r.lane % 64)).canLaunch →
        s.takeRecord d r = (s.noteGuess d r).launchPos d (r.lane % 64) ((r.pos + 1) % 2 ^ 32) r.tok false) := by
  have hnoteLane : ((s.noteGuess d r).sprout d).lane (r.lane % 64) = noteLane r ((s.sprout d).lane (r.lane % 64)) := by
    rw [State.noteGuess, State.setSprout_sprout hd, Sprout.updLane_lane hi]
  have hnoteRests : laneRests (((s.noteGuess d r).sprout d).lane (r.lane % 64)) := hnoteLane ▸ noteLane_rests r hrests
  rw [State.takeRecord_taken hd hlane hi hopen hpos hp hgen hbest hpix hnext]
  refine ⟨fun hno => ?below, fun hyes hstop hq hcan => ?above⟩
  case below => rw [hno, if_neg Bool.false_ne_true, State.commit_settle_of_rests hnoteRests]
  case above =>
    have hni : r.lane % 64 < ((s.noteGuess d r).sprout d).lanes.length := by
      rw [State.noteGuess, State.setSprout_sprout hd, Sprout.updLane, setAt_length]
      exact hi
    have hwant : (s.noteGuess d r).want d (r.lane % 64) ((r.pos + 1) % 2 ^ 32) r.tok false
        = (s.noteGuess d r).launchPos d (r.lane % 64) ((r.pos + 1) % 2 ^ 32) r.tok false := by
      have hstop' : (noteLane r ((s.sprout d).lane (r.lane % 64))).stops r.tok = false := hstop
      obtain ⟨_, _, hopenStill⟩ := noteLane_rests r hrests
      unfold State.want
      dsimp only
      rw [hnoteLane, noteLane_canLaunch, hcan, hstop', hopenStill, if_pos rfl]
      exact if_neg (by simpa using hq)
    rw [if_pos hyes, hwant, State.commit_settle_of_rests (State.launchPos_rests hd hni hnoteRests _ _ _)]

end

end Sys2Proof.Machine
end

section
/-! SUPPORT. Drain reports, acknowledgements, commit notices and register writes of the sprout controller (R82, R90, R91, R101, R102). -/
namespace Sys2Proof.Machine

/-! ### Links over which a package only sends -/

/-- A state whose ports are as far up as those of another, and which has sent what it has, and perhaps more. -/
def State.sendsOn (s t : State) : Prop := (∀ n, (t.port n).up = (s.port n).up) ∧ s.outbox ⊆ t.outbox

theorem State.sendsOn_refl (s : State) : s.sendsOn s := ⟨fun _ => rfl, List.Subset.refl _⟩

theorem State.sendsOn_trans {s t u : State} (hst : s.sendsOn t) (htu : t.sendsOn u) : s.sendsOn u := by
  obtain ⟨hup, hout⟩ := hst
  obtain ⟨hup', hout'⟩ := htu
  exact ⟨fun n => (hup' n).trans (hup n), List.Subset.trans hout hout'⟩

theorem State.portTo_of_sendsOn {s t : State} (h : s.sendsOn t) (node : ℕ) : t.portTo none node = s.portTo none node := by
  obtain ⟨hup, _⟩ := h
  simp only [State.portTo, hup, Option.filter_none]

theorem State.updPort_sendsOn (s : State) (n : ℕ) {f : VPort → VPort} (hf : ∀ p, (f p).up = p.up) : s.sendsOn (s.updPort n f) := by
  refine ⟨fun k => ?_, ?_⟩
  · by_cases hn : n < 18
    · rw [s.updPort_port hn]
      split
      · exact hf _
      · rfl
    · rw [State.updPort, dif_neg hn]
  · rw [State.updPort_outbox]
    exact List.Subset.refl _

theorem State.send_sendsOn (s : State) (x : Sent) : s.sendsOn (s.send x) := ⟨fun _ => rfl, fun _ h => List.mem_append_left _ h⟩

theorem State.putFlit_sendsOn (s : State) (port dst vc type : ℕ) (nak : Bool) (payload : List Byte) :
    s.sendsOn (s.putFlit port dst vc type nak payload) := by
  unfold State.putFlit
  refine State.sendsOn_trans (s.updPort_sendsOn port (fun p => ?_)) (State.send_sendsOn _ _)
  rfl

theorem State.sendFlit_sendsOn (s : State) (port dst vc type : ℕ) (payload : List Byte) : s.sendsOn (s.sendFlit port dst vc type payload) := by
  unfold State.sendFlit
  split
  · exact s.updPort_sendsOn port (fun _ => rfl)
  · have hput := s.putFlit_sendsOn port dst vc type false payload
    dsimp only
    split
    · exact State.sendsOn_trans hput (State.updPort_sendsOn _ port (fun _ => rfl))
    · exact hput

theorem State.tellPipe_sendsOn (s : State) (node : ℕ) (m : PipeMsg) : s.sendsOn (s.tellPipe node m) := by
  unfold State.tellPipe
  split
  · exact State.sendsOn_trans (s.send_sendsOn _) (State.sendFlit_sendsOn _ _ _ _ _ _)
  · exact s.sendsOn_refl

theorem State.mem_tellPipe {s : State} {node port : ℕ} (h : s.portTo none node = some port) (m : PipeMsg) :
    .pipe port node m ∈ (s.tellPipe node m).outbox := by
  rw [State.tellPipe, h]
  obtain ⟨_, hout⟩ := State.sendFlit_sendsOn (s.send (.pipe port node m)) port node 3 1 ((List.range 240).map (Config.pipeByte m))
  exact hout (List.mem_append_right _ (List.mem_singleton_self _))

theorem State.tellPipe_wired (w s : State) (node : ℕ) (m : PipeMsg) : (w.wired s).tellPipe node m = w.wired (s.tellPipe node m) := by
  unfold State.tellPipe
  have hto : (w.wired s).portTo none node = s.portTo none node := rfl
  rw [hto]
  split
  · exact State.sendFlit_wired w (s.send _) _ _ _ _ _
  · rfl

section
variable {α : Type} {g : State → α → State} (hg : ∀ (s : State) (x : α), s.sendsOn (g s x))
include hg

theorem foldl_sendsOn : ∀ (l : List α) (s : State), s.sendsOn (l.foldl g s)
  | [], s => s.sendsOn_refl
  | x :: l, s => State.sendsOn_trans (hg s x) (foldl_sendsOn l (g s x))

/-- What one step of a fold sends, whatever was sent before, the fold has sent. -/
theorem mem_outbox_foldl {m : Sent} {x : α} {l : List α} {s : State} (hx : x ∈ l) (hm : ∀ u, s.sendsOn u → m ∈ (g u x).outbox) :
    m ∈ (l.foldl g s).outbox := by
  induction l generalizing s with
  | nil => exact absurd hx List.not_mem_nil
  | cons y l ih =>
    rw [List.foldl_cons]
    obtain rfl | hx := List.mem_cons.1 hx
    · obtain ⟨_, hout⟩ := foldl_sendsOn hg l (g s x)
      exact hout (hm s s.sendsOn_refl)
    · exact ih hx (fun u hu => hm u (State.sendsOn_trans (hg s y) hu))

end

/-! ### Drain reports (R101) -/

/-- The pipeline's packages are told something. -/
def State.tellAll (s : State) (owner : Option ℕ) (m : PipeMsg) : State := ((owner.map Config.pipeNodes).getD []).foldl (fun s n => s.tellPipe n m) s

theorem State.tellAll_sendsOn (s : State) (owner : Option ℕ) (m : PipeMsg) : s.sendsOn (s.tellAll owner m) :=
  foldl_sendsOn (fun s n => s.tellPipe_sendsOn n m) _ s

theorem State.mem_tellAll {s : State} {lid node port : ℕ} (hnode : node ∈ Config.pipeNodes lid) (hto : s.portTo none node = some port) (m : PipeMsg) :
    .pipe port node m ∈ (s.tellAll (some lid) m).outbox :=
  mem_outbox_foldl (fun s n => s.tellPipe_sendsOn n m) hnode (fun _ hu => State.mem_tellPipe ((State.portTo_of_sendsOn hu node).trans hto) m)

theorem State.tellAll_wired (w s : State) (owner : Option ℕ) (m : PipeMsg) : (w.wired s).tellAll owner m = w.wired (s.tellAll owner m) :=
  foldl_wired (fun w s n => w.tellPipe_wired s n m) w _ s

/-- The sprout controller with one drain report of a prune taken. -/
def Sprout.reported (sp : Sprout) (serial : ℕ) : Sprout :=
  { sp with
    reports := sp.reports.erase serial
    prunes := sp.prunes.map (fun p => if p.1.serial = serial then (p.1, p.2.1 + 1, p.2.2 || decide (sp.nsink ≤ p.2.1 + 1)) else p) }

/-- Does this prune have its last drain report with this one? -/
def lastReport (sp : Sprout) (serial : ℕ) (p : PruneEnt × ℕ × Bool) : Bool :=
  p.1.serial == serial && !p.2.2 && decide (sp.nsink ≤ p.2.1 + 1)

theorem drainReport_eq {s : State} {d serial : ℕ} (h : serial ∈ (s.sprout d).reports) :
    exec (.drainReport d serial) s = .next (((s.sprout d).prunes.filter (lastReport (s.sprout d) serial)).foldl
      (fun u p => u.tellAll (s.sprout d).owner (.retire p.1.lane serial)) (s.setSprout d (Sprout.reported (s.sprout d) serial))) := by
  rw [exec_drainReport, execDrainReport, State.takeReport]
  dsimp only
  rw [if_neg (by simpa using h)]
  rfl

theorem lastReport_iff {sp : Sprout} {serial : ℕ} {p : PruneEnt × ℕ × Bool} :
    lastReport sp serial p ↔ p.1.serial = serial ∧ p.2.2 = false ∧ sp.nsink ≤ p.2.1 + 1 := by
  simp [lastReport, and_assoc]

theorem drainReport_spec {s : State} {d serial : ℕ} (hd : d < 8) (h : serial ∈ (s.sprout d).reports) :
    ∃ t, exec (.drainReport d serial) s = .next t
      ∧ t = { s.setSprout d (Sprout.reported (s.sprout d) serial) with fresh := t.fresh, ports := t.ports, outbox := t.outbox }
      ∧ ((∀ p ∈ (s.sprout d).prunes, ¬ lastReport (s.sprout d) serial p) → t = s.setSprout d (Sprout.reported (s.sprout d) serial))
      ∧ ∀ p ∈ (s.sprout d).prunes, lastReport (s.sprout d) serial p → ∀ lid, (s.sprout d).owner = some lid → ∀ n ∈ Config.pipeNodes lid,
          ∀ port, s.portTo none n = some port → .pipe port n (.retire p.1.lane serial) ∈ t.outbox := by
  refine ⟨_, drainReport_eq h, ?frame, ?none, ?told⟩
  case frame =>
    exact foldl_wired (f := fun u (p : PruneEnt × ℕ × Bool) => u.tellAll (s.sprout d).owner (.retire p.1.lane serial))
      (fun w s p => w.tellAll_wired s _ _) (s.setSprout d (Sprout.reported (s.sprout d) serial)) _ (s.setSprout d (Sprout.reported (s.sprout d) serial))
  case none =>
    intro hnone
    rw [List.filter_eq_nil_iff.2 hnone]
    rfl
  case told =>
    intro p hp hlast lid howner n hn port hto
    rw [howner]
    refine mem_outbox_foldl (fun u p => u.tellAll_sendsOn _ _) (List.mem_filter.2 ⟨hp, hlast⟩) (fun u hu => State.mem_tellAll hn ?_ _)
    rw [State.portTo_of_sendsOn hu, ← hto]
    unfold State.setSprout
    split <;> rfl

end Sys2Proof.Machine
end

section
/-! SUPPORT. Notices, scans and register writes of the sprout controller (R90, R91, R101, R102, R105), and walks of page tables (R175). -/
namespace Sys2Proof.Machine

/-! ### Acknowledgements, notices, scans and register writes -/

theorem retireAcknowledge_spec {s : State} {d serial : ℕ} {p : PruneEnt × ℕ × Bool}
    (hp : (s.sprout d).prunes.find? (fun p => p.1.serial == serial && p.2.2) = some p) :
    (s.entryHeld p.1 → exec (.retireAcknowledge d serial) s = .next s)
    ∧ (s.entryHeld p.1 = false → exec (.retireAcknowledge d serial) s = .next (((s.setSprout d (({ s.sprout d with
        prunes := (s.sprout d).prunes.erase p } : Sprout).updLane (p.1.lane % 64) (fun l => { l with
          killed := l.killed.filter (fun g => !deadIn g p.1.lo p.1.hi) }))).issuePending d 64).settle d (p.1.lane % 64))) := by
  have hexec : exec (.retireAcknowledge d serial) s = .next (s.acknowledged d serial) := rfl
  rw [hexec, State.acknowledged]
  simp only [hp]
  exact ⟨fun hheld => by rw [if_pos hheld], fun hfree => by rw [hfree, if_neg Bool.false_ne_true]⟩

theorem commitNotice_node {s : State} {r : NodeRef} {lane gen : ℕ}
    (h : (s.sprout (lane / 64)).notices.find? (fun n => decide (n.1 = .node r) && n.2.1 == lane) = some (.node r, lane, gen)) :
    exec (.commitNotice (.node r) lane gen) s = .next ((s.setSprout (lane / 64) { s.sprout (lane / 64) with
      notices := (s.sprout (lane / 64)).notices.erase (.node r, lane, gen) }).updNode r (fun n => n.commit lane gen)) := by
  rw [exec_commitNotice, execCommitNotice, State.takeNotice]
  simp only [h]
  rw [if_neg (not_not_intro rfl)]
  rfl

theorem memnodePruneScan_single {s : State} {r : NodeRef} {n : MemNode} {e : PruneEnt} (hn : s.nodeAt r = some n)
    (hruns : (s.die n.die).stopped = false) (hprunes : n.prunes = [e]) (hscan : n.scan = [e.serial]) (hdrains : n.drains = []) :
    exec (.memnodePruneScan r) s = .next ((s.pruneWork n e).updNode r (fun n => { n with drains := [], scan := [] })) := by
  have hwork : n.prunes.filter (fun e => n.scan.contains e.serial) = [e] := by simp [hprunes, hscan]
  rw [exec_memnodePruneScan, execMemnodePruneScan, State.finishScan]
  simp only [hn, hwork, hdrains, hruns]
  rfl

theorem gthWrite_spec {s : State} {d k : ℕ} (v : DWord) (hd : d < 8) (howner : (s.sprout d).owner ≠ none)
    (hlen : (s.sprout d).gth.length = 7) : ∃ t, exec (.gthWrite d k v) s = .next t ∧ t = { s with sprouts := t.sprouts }
      ∧ ∀ j < 7, (t.sprout d).gth.getD j 0 = if j = k then BitVec.ofNat 64 (v.toNat % 2 ^ 35) else (s.sprout d).gth.getD j 0 := by
  rw [exec_gthWrite, execGthWrite, State.writeGth]
  rw [if_neg (by simpa using howner)]
  refine ⟨_, rfl, ?_, fun j hj => ?_⟩
  · unfold State.setSprout
    split <;> rfl
  · rw [State.setSprout_sprout hd]
    split
    · next h =>
      subst h
      exact setAt_getD_same (hlen ▸ hj) _ _
    · next h => exact setAt_getD_of_ne h _ _ _

theorem maxflWrite_spec {s : State} {d i : ℕ} (v : DWord) (hd : d < 8) (hdeclared : i < (s.sprout d).nlane) (hi : i < (s.sprout d).lanes.length)
    (howner : (s.sprout d).owner ≠ none) (hwait : ((s.sprout d).lane i).waiting = none) (hclosing : ((s.sprout d).lane i).closing = false) :
    exec (.maxflWrite d i v) s = .next (s.setSprout d ((s.sprout d).updLane i (fun l => { l with maxflm1 := v.toNat / 2 ^ 7 % 16 }))) := by
  rw [exec_maxflWrite, execMaxflWrite, State.writeMaxfl]
  rw [if_neg (by simp [howner, hdeclared])]
  refine congrArg Host.Outcome.next (State.settle_idle ?_ ?_)
  · rw [State.setSprout_sprout hd, Sprout.updLane_lane hi]
    exact hwait
  · rw [State.setSprout_sprout hd, Sprout.updLane_lane hi]
    exact hclosing

/-! ### Walks of page tables (R175) -/

section
variable {α : Type} [DecidableEq α] {mine : α → Bool} {e : α} {l : List α} {cap k : ℕ}

/-- Behind the entry that is added stand only entries that the table held. -/
theorem mem_of_mem_tail_tlbAdd {x : α} (hx : x ∈ (tlbAdd cap k mine e l).tail) : x ∈ l := by
  unfold tlbAdd at hx
  dsimp only [List.tail_cons] at hx
  split at hx
  · exact hx
  · split at hx
    · exact List.mem_of_mem_erase hx
    · exact hx

/-- A table that is not over its capacity is not over it with one entry more: of a full one an entry goes. -/
theorem countP_tlbAdd_le (hcap : 0 < cap) (h : l.countP mine ≤ cap) : (tlbAdd cap k mine e l).countP mine ≤ cap := by
  have hone : ∀ r : List α, r.countP mine < cap → (e :: r).countP mine ≤ cap := fun r hr => by
    rw [List.countP_cons]
    split <;> omega
  unfold tlbAdd
  dsimp only
  rw [← List.countP_eq_length_filter]
  split
  · next hroom => exact hone l hroom
  · next hfull =>
    have hpos : k % l.countP mine < (l.filter mine).length := by
      rw [← List.countP_eq_length_filter]
      exact Nat.mod_lt _ (by omega)
    rw [List.getElem?_eq_getElem hpos]
    have hin := List.mem_filter.1 (List.getElem_mem hpos)
    refine hone _ ?_
    rw [List.countP_erase, if_pos hin]
    omega

end

theorem lookup2_of_miss {s : State} {o : TlbOwner} {space va : ℕ} (h : ∀ e ∈ s.tlb2, e.1 = s.tlbDie o → e.2.hits space va = false) :
    lookup2 s o space va = walk s space va := by
  have hmiss : s.tlb2.find? (fun e => e.1 == s.tlbDie o && e.2.hits space va) = none := by
    rw [List.find?_eq_none]
    intro e he hhit
    obtain ⟨hdie, hva⟩ := Bool.and_eq_true_iff.1 hhit
    exact Bool.false_ne_true ((h e he (by simpa using hdie)).symm.trans hva)
  rw [lookup2, hmiss]

theorem pageWalk_spec {s : State} {o : TlbOwner} {asid va space : ℕ} (hspace : s.spaceFor o asid = some space) :
    (lookup2 s o space va = none → exec (.pageWalk o asid va) s = .next s)
    ∧ (∀ e size, lookup2 s o space va = some (e, size) →
        (let ent : TlbEnt := { owner := o, asid := space, base := va / size * size, size := size, pte := e }
         ∃ t, exec (.pageWalk o asid va) s = .next t ∧ t = { s with tlb := t.tlb, tlb2 := t.tlb2, fresh := s.fresh + 2 }
          ∧ t.tlb.head? = some ent ∧ t.tlb2.head? = some (s.tlbDie o, ent) ∧ (∀ x ∈ t.tlb.tail, x ∈ s.tlb) ∧ (∀ x ∈ t.tlb2.tail, x ∈ s.tlb2)
          ∧ ((s.tlb.filter (fun x => x.owner = o)).length ≤ 1024 → (t.tlb.filter (fun x => x.owner = o)).length ≤ 1024))) := by
  have hexec : exec (.pageWalk o asid va) s = .next (tlbFill s o space va) := by rw [exec_pageWalk, execPageWalk, hspace]
  rw [hexec]
  refine ⟨fun hnone => by rw [tlbFill, hnone], fun e size hfound => ?_⟩
  simp only [tlbFill, hfound]
  refine ⟨_, rfl, rfl, rfl, rfl, fun x hx => ?first, fun x hx => ?second, fun hfits => ?count⟩
  case first => exact (List.mem_filter.1 (mem_of_mem_tail_tlbAdd hx)).1
  case second => exact (List.mem_filter.1 (mem_of_mem_tail_tlbAdd hx)).1
  case count =>
    rw [← List.countP_eq_length_filter] at hfits ⊢
    have hleft : (s.tlb.filter (fun u => !(u.owner == o && u.hits space va))).countP (fun x => x.owner = o) ≤ 1024 :=
      (List.Sublist.countP_le List.filter_sublist).trans hfits
    exact countP_tlbAdd_le (by decide) hleft

end Sys2Proof.Machine
end

section
/-! SUPPORT. Engines, collectives, stream commands and tile instructions (R188, R218, R320, R344, R348, R358), and the obligation on what works
beside the page cores. -/
namespace Sys2Proof.Machine

/-! ### Engines that answer (R188, R344) -/

theorem State.startCut_outbox (s : State) (lid : ℕ) (psets : List ℕ) (why : CutWhy) (area : Option (Span × ℕ × ℕ)) :
    (s.startCut lid psets why area).outbox = s.outbox := by
  unfold State.startCut
  split
  · exact foldl_keeps State.outbox (fun s p => s.beginCut_outbox lid p) _ _
  · exact foldl_keeps State.outbox (fun s p => s.beginCut_outbox lid p) _ _

theorem State.engHead_spec {s : State} {d g : ℕ} {c : CoreRef} {r : EngReq} (h : s.engHead d g c = some r) : r.die = d ∧ r.engine = g ∧ r.core = c := by
  have hfound := List.find?_some h
  simpa [and_assoc] using hfound

theorem engineResponse_answers {s : State} {d g latency st ix : ℕ} {c : CoreRef} {r : EngReq} (hr : s.engHead d g c = some r)
    (hstays : r.op = 3 ∨ s.engBlocked r) (hready : r.ready = some (st, ix)) (hheld : ∀ w ∈ s.held, w.who ≠ .engine c r.seq)
    (hruns : (s.die d).stopped = false) : exec (.engineResponse d g c latency) s = .next (s.engAnswer r st ix latency) := by
  have hwork : r.op = 3 ∨ (s.die d).stopped = true ∨ s.engBlocked r = true := by
    obtain h | h := hstays
    · exact .inl h
    · exact .inr (.inr h)
  have hfree : s.held.any (fun w => decide (w.who = .engine c r.seq)) = false := by simpa using hheld
  rw [exec_engineResponse, execEngineResponse, State.engServe]
  simp only [hr, if_pos hwork]
  simp only [hready, hruns, hfree, Bool.or_self, Bool.false_eq_true, if_false]

/-- The request leaves its engine, and its token goes out, before anything else follows. -/
def State.engLeave (s : State) (r : EngReq) (status : ℕ) : State :=
  let s := { s with engines := s.engines.filter (fun e => !(decide (e.core = r.core) && e.seq == r.seq)) }
  if status = 0 then s.send (.transferToken r.die r.engine r.core r.seq) else s

theorem State.engLeave_rest (s : State) (r : EngReq) (status : ℕ) :
    (s.engLeave r status).cores = s.cores ∧ (s.engLeave r status).profiles = s.profiles := by
  unfold State.engLeave
  dsimp only
  split <;> exact ⟨rfl, rfl⟩

/-- A page core with the response of an engine. -/
def withResponse (r : EngReq) (status index : ℕ) (p : PageCore) : PageCore :=
  if h : r.engine < 13 then
    { p with engResp := p.engResp.set r.engine (p.engResp[r.engine] ++ [{ status := status, index := index, scope := r.scope }])
             engOut := p.engOut.set r.engine (p.engOut[r.engine] - 1) } else p

/-- An answer reaches the page core and the engine's profile; a latency that fires the trigger may begin a cut. -/
theorem State.engAnswer_eq (s : State) (r : EngReq) (status index latency : ℕ) :
    ∃ prof, s.engAnswer r status index latency =
      let t := ((s.engLeave r status).mapCore r.core (withResponse r status index)).setProf prof
      if (s.prof r.die r.engine).fires latency && (s.prof r.die r.engine).cfg.getLsbD 2 then
        t.startCut r.core.lid (t.psetsOf r.core.lid) .stop none else t := by
  have hprof : ((s.engLeave r status).mapCore r.core (withResponse r status index)).prof r.die r.engine = s.prof r.die r.engine := by
    rw [State.prof, State.mapCore_profiles, (s.engLeave_rest r status).2]
    rfl
  rw [← hprof]
  exact ⟨_, rfl⟩

theorem State.engAnswer_token (s : State) (r : EngReq) (index latency : ℕ) :
    .transferToken r.die r.engine r.core r.seq ∈ (s.engAnswer r 0 index latency).outbox := by
  have hin : .transferToken r.die r.engine r.core r.seq ∈ (s.engLeave r 0).outbox := List.mem_append_right _ (List.mem_singleton_self _)
  obtain ⟨prof, heq⟩ := s.engAnswer_eq r 0 index latency
  rw [heq]
  dsimp only
  split
  · rw [State.startCut_outbox]
    exact hin
  · exact hin

theorem State.engAnswer_engOut (s : State) (r : EngReq) (status index latency : ℕ) (hg : r.engine < 13) :
    ((s.engAnswer r status index latency).core r.core).engOut[r.engine] = (s.core r.core).engOut[r.engine] - 1
      ∨ (s.prof r.die r.engine).fires latency := by
  obtain ⟨prof, heq⟩ := s.engAnswer_eq r status index latency
  by_cases hfires : (s.prof r.die r.engine).fires latency
  · exact .inr hfires
  · refine .inl ?_
    have hcore : (s.engLeave r status).core r.core = s.core r.core := by rw [State.core, (s.engLeave_rest r status).1]; rfl
    have hanswer : (s.engAnswer r status index latency).core r.core = withResponse r status index (s.core r.core) := by
      rw [heq, if_neg (by simp [hfires])]
      exact (State.mapCore_core _ _ _).trans (congrArg _ hcore)
    rw [hanswer]
    simp [withResponse, hg]

/-! ### Collectives (R348) -/

theorem collGroupFill_bad {s : State} {d : ℕ} {c : CoreRef} {r : EngReq} {st : ℕ × ℕ}
    (hr : (s.engines.filter (fun r => r.die == d && r.op == 3 && decide (r.core = c) && r.ready.isNone)).head? = some r)
    (hbad : s.collOf r = .error st) (hfree : s.engBlocked r = false) :
    exec (.collGroupFill d c) s = .next ((s.engListMeet r).updEng r (fun e => { e with ready := some st })) := by
  rw [exec_collGroupFill, execCollGroupFill, State.collServe]
  simp only [hr, hbad, hfree, Bool.false_eq_true, if_false]

theorem collGroupFill_full {s u : State} {d : ℕ} {c : CoreRef} {r : EngReq} {k : CollDesc} {g : List (EngReq × CollDesc)}
    (hr : (s.engines.filter (fun r => r.die == d && r.op == 3 && decide (r.core = c) && r.ready.isNone)).head? = some r)
    (hk : s.collOf r = .ok k) (hu : s.engListMeet r = u) (hg : (u.collGroup c.lid k.group).take k.p = g) (hfull : g.length = k.p)
    (hruns : (u.die d).stopped = false)
    (hall : ∀ e ∈ g, u.engBlocked e.1 = false ∧ ∀ sp, u.collSource e.1 e.2 = .ok sp →
      spanAbsent u sp = false ∧ u.banksRun sp ∧ u.gFree e.1.core.lid e.1.core.pset sp) :
    exec (.collGroupFill d c) s = .next (u.collRun (u.recorded c.lid) g) := by
  subst hu hg
  rw [exec_collGroupFill, execCollGroupFill, State.collServe]
  simp only [hr, hk]
  refine congrArg Host.Outcome.next (if_neg (fun hwaits => ?_))
  obtain hshort | hstopped | habsent | hblocked := hwaits
  · exact absurd hfull hshort.ne
  · exact Bool.false_ne_true (hruns.symm.trans hstopped)
  · obtain ⟨e, he, hbad⟩ := List.any_eq_true.1 habsent
    obtain ⟨_, hsource⟩ := hall e he
    split at hbad
    · next sp hsp =>
      obtain ⟨hpresent, hbanks, hfree⟩ := hsource sp hsp
      simp [hpresent, hbanks, hfree] at hbad
    · exact Bool.false_ne_true hbad
  · obtain ⟨e, he, hbad⟩ := List.any_eq_true.1 hblocked
    obtain ⟨hopen, _⟩ := hall e he
    exact Bool.false_ne_true (hopen.symm.trans hbad)

/-! ### Stream commands and tile instructions (R320, R358) -/

section
variable {s : State} {c : CoreRef} {seq : ℕ} {t : StreamCmd}

theorem streamCommandBeat_ld (ht : (s.core c).streams.find? (fun t => t.seq == seq) = some t) (hfree : s.streamFree c t) (hmoves : s.moves c.lid c.pset)
    {u : State} {b : Beat} (hld : t.ld) (hroom : ((s.core c).srcQ t.port).length < 16) (hout : s.streamBeatOut c t = some (u, b)) :
    exec (.streamCommandBeat c seq) s = .next ((u.pushSrc c t.port [b]).streamStep c t []) := by
  rw [exec_streamCommandBeat, execStreamCommandBeat, State.streamBeat]
  simp only [ht, hfree, hmoves, hld, if_neg hroom.not_ge, hout, Bool.not_true, Bool.or_self, Bool.false_eq_true, if_false, if_true]

theorem popData_cons {b : Beat} (h : hkind b ≠ 2) (rest : List Beat) (g : Option SegId) : popData (b :: rest) g = (some (b, rest), b :: rest, g) := by
  rw [popData, if_neg h]

theorem streamCommandBeat_st (ht : (s.core c).streams.find? (fun t => t.seq == seq) = some t) (hfree : s.streamFree c t) (hmoves : s.moves c.lid c.pset)
    {b : Beat} {rest : List Beat} (hst : t.ld = false) (hq : (s.core c).sinkQ t.port = b :: rest) (hdata : hkind b ≠ 2) :
    exec (.streamCommandBeat c seq) s = .next (((s.mapCore c (fun p => if h : t.port < 32 then { p with sink := p.sink.set t.port rest } else p)).refillSink
      c t.port).streamTake c t b) := by
  rw [exec_streamCommandBeat, execStreamCommandBeat, State.streamBeat]
  simp only [ht, hfree, hmoves, hst, hq, popData_cons hdata, Bool.not_true, Bool.or_self, Bool.false_eq_true, if_false, Option.isSome_none]

end

theorem tileInstructionCompletion_first {s u : State} {c : CoreRef} {t : TileItem} {rest : List TileItem} (hq : (s.core c).tileQ = t :: rest)
    (hfree : s.tileFree c t []) (hu : s.completeTile c t = some u) : exec (.tileInstructionCompletion c) s = .next u := by
  have hnext : s.nextTile c [] (t :: rest) = some u := by
    unfold State.nextTile
    rw [if_pos hfree, hu]
  rw [exec_tileInstructionCompletion, execTileInstructionCompletion, hq, hnext]
  rfl

/-! ### The obligation -/

theorem guessRecord_eq {s : State} {d : ℕ} {b : Beat} (hruns : (s.die d).stopped = false)
    (hb : (s.sprout d).records[s.nextGuess (s.sprout d).records]? = some b) :
    exec (.guessRecord d) s = .next (((s.setSprout d { s.sprout d with
      records := (s.sprout d).records.eraseIdx (s.nextGuess (s.sprout d).records) }).useFree 1).takeRecord d (guessOf b)) := by
  rw [exec_guessRecord, execGuessRecord, State.nextRecord]
  simp only [hb, hruns, Bool.false_eq_true, if_false]

/-- GUESS_RECORD: the record that is taken leaves the queue, and does to its lane what takeRecord says. -/
theorem guessRecord_spec {s : State} {d : ℕ} {b : Beat} {r : GuessRec} (hd : d < 8) (hruns : (s.die d).stopped = false)
    (hb : (s.sprout d).records[s.nextGuess (s.sprout d).records]? = some b) (hr : guessOf b = r) (hlane : r.lane / 64 = d)
    (hi : r.lane % 64 < (s.sprout d).lanes.length) :
    let l := (s.sprout d).lane (r.lane % 64)
    let s1 := (s.setSprout d { s.sprout d with records := (s.sprout d).records.eraseIdx (s.nextGuess (s.sprout d).records) }).useFree 1
    ((l.isOpen = false ∨ r.pos < l.npos ∨ l.find r.pos = none ∨ (∃ p, l.find r.pos = some p ∧ (p.gen ≠ r.gen ∨ ∃ b, p.best = some b ∧ r.gpix ≤ b))) →
      exec (.guessRecord d) s = .next s1)
    ∧ (∀ p, l.isOpen → l.npos ≤ r.pos → l.find r.pos = some p → p.gen = r.gen → (∀ b, p.best = some b → b < r.gpix) → r.gpix < 7 →
        (∀ o, l.find l.npos = some o → o.due = false) → l.waiting = none → l.closing = false → l.find ((r.pos + 1) % 2 ^ 32) = none →
        (meets r.conf ((s.sprout d).gth.getD r.gpix 0) = false → exec (.guessRecord d) s = .next (s1.noteGuess d r))
        ∧ (meets r.conf ((s.sprout d).gth.getD r.gpix 0) → l.stops r.tok = false → (r.pos + 1) % 2 ^ 32 ≠ 0 → l.canLaunch →
            exec (.guessRecord d) s = .next ((s1.noteGuess d r).launchPos d (r.lane % 64) ((r.pos + 1) % 2 ^ 32) r.tok false))) := by
  intro l s1
  have hsprout : s1.sprout d = { s.sprout d with records := (s.sprout d).records.eraseIdx (s.nextGuess (s.sprout d).records) } :=
    State.setSprout_sprout hd _
  have hl : (s1.sprout d).lane (r.lane % 64) = l := by rw [hsprout]; rfl
  have hgth : (s1.sprout d).gth = (s.sprout d).gth := by rw [hsprout]
  have hi1 : r.lane % 64 < (s1.sprout d).lanes.length := by rw [hsprout]; exact hi
  have hexec : exec (.guessRecord d) s = .next (s1.takeRecord d r) := hr ▸ guessRecord_eq hruns hb
  rw [hexec]
  refine ⟨fun hignored => congrArg Host.Outcome.next (State.takeRecord_ignored (by rw [hl]; exact hignored)), ?_⟩
  intro p hopen hpos hp hgen hbest hpix hdue hwait hclosing hnext
  have hspec := State.takeRecord_spec (s := s1) (p := p) hd hlane hi1
  rw [hl, hgth] at hspec
  obtain ⟨hbelow, habove⟩ := hspec hopen hpos hp hgen hbest hpix ⟨hdue, hwait, hclosing⟩ hnext
  exact ⟨fun hno => congrArg Host.Outcome.next (hbelow hno), fun hyes hstop hq hcan => congrArg Host.Outcome.next (habove hyes hstop hq hcan)⟩

/-- Settles O52: what each event does, clause by clause, by the lemmas above. -/
theorem controllerEvents : Obligations.ControllerEvents := by
  unfold Obligations.ControllerEvents
  refine ⟨?report, fun s d serial p hp => retireAcknowledge_spec hp, fun s l j hlen hj => s.nextGuess_spec hlen hj, ?guess,
    fun s r lane gen h => commitNotice_node h, fun s r n e hn hruns => memnodePruneScan_single hn hruns,
    fun s d k v hd hk howner hlen => gthWrite_spec v hd howner hlen,
    fun s d i v hd hdeclared hi howner => maxflWrite_spec v hd hdeclared hi howner,
    fun s o asid va space hspace => ⟨lookup2_of_miss, pageWalk_spec hspace⟩, ?engine,
    fun s d c r st hr hbad hfree => collGroupFill_bad hr hbad hfree,
    fun s d c r k hr hk hfull hruns hall => collGroupFill_full hr hk rfl rfl hfull hruns hall, ?stream,
    fun s c t rest u hq hfree hu => tileInstructionCompletion_first hq hfree hu⟩
  case report =>
    intro s d serial hd h
    obtain ⟨t, hexec, hframe, hnone, htold⟩ := drainReport_spec hd h
    exact ⟨t, hexec, hframe, fun hno => hnone (fun p hp hlast => hno p hp (lastReport_iff.1 hlast)),
      fun p hp hlast => htold p hp (lastReport_iff.2 hlast)⟩
  case guess =>
    intro s d b r hd hruns hb hr hlane hi
    exact guessRecord_spec hd hruns hb hr hlane hi
  case engine =>
    intro s d g latency st ix c r hr hstays hready hheld hruns
    obtain ⟨rfl, rfl, rfl⟩ := State.engHead_spec hr
    refine ⟨engineResponse_answers hr hstays hready hheld hruns, fun hst => ?_, s.engAnswer_engOut r st ix latency⟩
    subst hst
    exact s.engAnswer_token r ix latency
  case stream =>
    intro s c seq t ht hfree hmoves
    exact ⟨fun u b hld hroom hout => streamCommandBeat_ld ht hfree hmoves hld hroom hout,
      fun b rest hst _ hq hdata => ⟨_, streamCommandBeat_st ht hfree hmoves hst hq hdata, rfl⟩⟩

end Sys2Proof.Machine
end

section
/-! SUPPORT. Compares, SEL, the sticky-bit instructions and the order of generations, and the obligation on them (R83, R261, R280 to R282, R326). -/
namespace Sys2Proof.Machine

/-! ### Operands at the operation width (R261) -/

theorem Img.at_toNat (a : Img) (n : Nat) : (a.at n).toNat = a.v.toNat % 2 ^ n := BitVec.toNat_setWidth ..

theorem signedOf_eq_toInt (n : Nat) (v : DWord) : signedOf n v.toNat = (v.setWidth n).toInt := by
  cases n with
  | zero => simp [signedOf, BitVec.of_length_zero, Nat.mod_one]
  | succ m =>
    simp only [signedOf, BitVec.toInt_eq_toNat_cond, BitVec.toNat_setWidth, Nat.add_sub_cancel, pow_succ, Nat.cast_mul, Nat.cast_pow,
      Nat.cast_ofNat]
    split <;> split <;> omega

/-- The operand that a compare reads, signed or natural. -/
theorem nval_eq_int (u : Bool) (n : Nat) (a : Img) : nval u n a = a.int u n := by
  cases u with
  | false => exact signedOf_eq_toInt n a.v
  | true => exact congrArg Nat.cast (a.at_toNat n).symm

/-- Either reading of a pattern determines the pattern. -/
theorem Img.int_inj {u : Bool} {n : Nat} {a b : Img} : a.int u n = b.int u n ↔ a.at n = b.at n := by
  cases u with
  | false => exact BitVec.toInt_inj
  | true => exact Nat.cast_inj.trans BitVec.toNat_inj

/-- AND of the patterns is the pattern of the AND. -/
theorem Img.at_and_eq_zero_iff {n : Nat} {a b : Img} : a.at n &&& b.at n = 0 ↔ (a.v &&& b.v).toNat % 2 ^ n = 0 := by
  rw [Img.at, Img.at, ← BitVec.setWidth_and, ← BitVec.toNat_inj, BitVec.toNat_setWidth]
  simp

/-! ### What the computations answer -/

/-- CMP holds its relation of the exact difference, and is indeterminate where the patterns are equal and either has S (R158, R280). -/
theorem aluCmp_eq (cc : BitVec 3) (u : Bool) (n : Nat) (a b : Img) :
    aluCmp cc u n a b = predRes (relHolds cc.toNat (a.int u n - b.int u n)) (decide (a.at n = b.at n) && (a.s || b.s)) := by
  simp only [aluCmp, nval_eq_int, sub_eq_zero, Img.int_inj]

/-- TEST and TEST.z ask whether the AND of the patterns is not, or is, zero (R280). -/
theorem aluTest_eq (z : Bool) (n : Nat) (a b : Img) :
    aluTest z n a b = predRes (decide (a.at n &&& b.at n ≠ 0) != z) (a.s || b.s) := by
  simp only [aluTest, ne_eq, Img.at_and_eq_zero_iff]

/-- STKG answers the sticky bit as a value, at any width that holds a bit (R282). -/
theorem aluStkg_eq {n : Nat} (hn : n ≠ 0) (a : Img) : aluStkg n a = { img := ⟨if a.s then 1 else 0, false⟩ } := by
  have hone : bitsOf n 1 = 1 := by
    rw [bitsOf, Int.emod_eq_of_lt (by omega) (one_lt_pow₀ (by omega) hn)]; rfl
  have hzero : bitsOf n 0 = 0 := by simp [bitsOf]
  cases hs : a.s <;> simp [aluStkg, wrapRes, wrapImg, hs, hone, hzero]

/-- precedes on bits 15:0 is the sign of the difference of 16-bit generations: 1 to 32,767 ahead modulo 2^16 (R83). -/
theorem precedes_genOf_iff (a b : Img) : precedes (genOf a.v) (genOf b.v) = true ↔ 0 < (b.at 16 - a.at 16).toInt := by
  have hd : (b.at 16 - a.at 16).toNat = (genOf b.v + 2 ^ 16 - genOf a.v % 2 ^ 16) % 2 ^ 16 := by
    rw [BitVec.toNat_sub, a.at_toNat, b.at_toNat, genOf, genOf]; omega
  rw [precedes, ← hd, decide_eq_true_iff, BitVec.toInt_eq_toNat_cond]
  omega

/-! ### The instructions -/

section
variable (p : BitVec 2) (t u : BitVec 9)

/-- CMP under each relation of R280. -/
theorem computes_cmp (cc : BitVec 3) (k : BitVec 1) :
    Computes (.cmp p t u cc k) p [t, u] [.left, .right] (fun n a b _ =>
      predicate (relHolds cc.toNat (a.int (k == 1) n - b.int (k == 1) n)) (decide (a.at n = b.at n) && (a.s || b.s))) := by
  refine computes_of pred_leftRight (exec_cmp p t u cc k) (fun e _ a b x a' b' x' ha hb _ => ?_)
  rw [ha (by simp), hb (by simp), aluCmp_eq]
  rfl

/-- TEST and TEST.z (R280). -/
theorem computes_testBits (z : BitVec 1) :
    Computes (.testBits p t u z) p [t, u] [.left, .right] (fun n a b _ =>
      predicate (decide (a.at n &&& b.at n ≠ 0) != (z == 1)) (a.s || b.s)) := by
  refine computes_of pred_leftRight (exec_testBits p t u z) (fun e _ a b x a' b' x' ha hb _ => ?_)
  rw [ha (by simp), hb (by simp), aluTest_eq]
  rfl

/-- SEL (R281); the chosen operand keeps its whole image. -/
theorem computes_sel : Computes (.sel p t u) p [t, u] [.left, .right, .third] (fun _ a b c =>
    (if c.v.getLsbD 0 then ⟨a.v, a.s || c.s⟩ else ⟨b.v, b.s || c.s⟩, {})) := by
  refine computes_of pred_leftRightThird (exec_sel p t u) (fun e _ a b c a' b' c' ha hb hc => ?_)
  rw [ha (by simp), hb (by simp), hc (by simp), aluSel]
  split <;> rfl

/-- STKG (R282). -/
theorem computes_stkg : Computes (.stkg p t u) p [t, u] [.left] (fun _ a _ _ => (⟨if a.s then 1 else 0, false⟩, {})) := by
  refine computes_of pred_left (exec_stkg p t u) (fun e he a b x a' b' x' ha _ _ => ?_)
  rw [ha (by simp), aluStkg_eq (by omega)]

/-- STKS (R282). -/
theorem computes_stks : Computes (.stks p t u) p [t, u] [.left] (fun _ a _ _ => (⟨a.v, true⟩, {})) := by
  refine computes_of pred_left (exec_stks p t u) (fun e _ a b x a' b' x' ha _ _ => ?_)
  rw [ha (by simp), aluStks]

/-- STKC (R282). -/
theorem computes_stkc : Computes (.stkc p t u) p [t, u] [.left] (fun _ a _ _ => (⟨a.v, false⟩, {})) := by
  refine computes_of pred_left (exec_stkc p t u) (fun e _ a b x a' b' x' ha _ _ => ?_)
  rw [ha (by simp), aluStkc]

/-- GENOF.prec (R83, R326). -/
theorem computes_genofPrec : Computes (.genofPrec p t u) p [t, u] [.left, .right] (fun _ a b _ =>
    (⟨if 0 < (b.at 16 - a.at 16).toInt then 1 else 0, a.s || b.s⟩, {})) := by
  refine computes_of pred_leftRight (exec_genofPrec p t u) (fun e _ a b x a' b' x' ha hb _ => ?_)
  rw [ha (by simp), hb (by simp)]
  simp only [precedes_genOf_iff]

end

/-! ### The obligation -/

/-- Settles O5: each relation and each form of TEST is one case of the lemma on its instruction. In an E-block SEL, STKS and STKC keep bits
34:32 of the chosen lane, and GENOF.prec asks for no IND: both are the model's reading (the first is log 68). -/
theorem comparesAndSelection : Obligations.ComparesAndSelection := by
  unfold Obligations.ComparesAndSelection
  intro p t u k
  refine ⟨⟨?eq, ?ne, ?lt, ?le, ?gt, ?ge⟩, ?test, ?testz, computes_sel p t u, computes_stkg p t u, computes_stks p t u, computes_stkc p t u,
    computes_genofPrec p t u⟩
  case eq => exact computes_cmp p t u 0 k
  case ne => exact computes_cmp p t u 1 k
  case lt => exact computes_cmp p t u 2 k
  case le => exact computes_cmp p t u 3 k
  case gt => exact computes_cmp p t u 4 k
  case ge => exact computes_cmp p t u 5 k
  case test => simpa using computes_testBits p t u 0
  case testz => simpa using computes_testBits p t u 1

end Sys2Proof.Machine
end

section
/-! SUPPORT. Record headers and the record instructions, and the obligation on them (R111, R315). -/
namespace Sys2Proof.Machine

/-! ### Lists of sixteen lanes -/

/-- Sixteen lanes are known by what each of them is. -/
theorem eq_map_range_of_getD {ls : List LaneV} {g : ℕ → LaneV} (hlen : ls.length = 16) (hg : ∀ i < 16, ls.getD i {} = g i) :
    ls = (List.range 16).map g := by
  refine List.ext_getElem (by simp [hlen]) (fun i hi _ => ?_)
  rw [List.getElem_map, List.getElem_range, ← hg i (hlen ▸ hi), List.getD_eq_getElem _ _ hi]

theorem setAt_map_range (g l : ℕ → LaneV) {k : ℕ} (hk : k < 16) :
    setAt ((List.range 16).map g) k (fun _ => l k) = (List.range 16).map (fun i => if i = k then l i else g i) := by
  refine eq_map_range_of_getD (by simp) fun i hi => ?_
  split
  case isTrue hik => rw [hik, setAt_getD_same (by simpa using hk)]
  case isFalse hik => rw [setAt_getD_of_ne hik, List.getD_eq_getElem _ _ (by simpa using hi), List.getElem_map, List.getElem_range]

theorem all_isNone_iff {ls : List LaneV} : ls.all (fun l => l.val.isNone) = true ↔ ∀ l ∈ ls, l.val = none := by simp

theorem getD_val_of_empty {ls : List LaneV} (hempty : ∀ l ∈ ls, l.val = none) (i : ℕ) : (ls.getD i {}).val = none := by
  by_cases hi : i < ls.length
  · rw [List.getD_eq_getElem _ _ hi]
    exact hempty _ (List.getElem_mem hi)
  · rw [List.getD_eq_default _ _ (by omega)]

/-- Another header changes lane 0, which keeps its rank, and no other lane (R315). -/
theorem withHeader_getD {a : List LaneV} (hlen : a.length = 16) (h : Img) (i : ℕ) :
    (withHeader a h).getD i {} = if i = 0 then { a.getD 0 {} with val := some ⟨h.v, false⟩, fmt := 18 } else a.getD i {} := by
  rw [withHeader]
  split
  case isTrue hi => rw [hi, setAt_getD_same (by omega)]
  case isFalse hi => rw [setAt_getD_of_ne hi]

theorem withHeader_length (a : List LaneV) (h : Img) : (withHeader a h).length = a.length := setAt_length ..

/-! ### Record headers (R111) -/

section
variable {done genl nval user : ℕ} {rej : Bool}

theorem mkHeader_toNat (hdone : done < 256) (hgenl : genl < 256) (hnval : nval < 16) (huser : user < 8) :
    (mkHeader done genl nval rej user).v.toNat
      = 2 ^ 32 + done * 2 ^ 24 + genl * 2 ^ 16 + nval * 2 ^ 12 + rej.toNat * 2 ^ 11 + user * 2 ^ 8 := by
  rw [mkHeader, BitVec.toNat_ofNat]
  cases rej <;> simp only [Bool.toNat_true, Bool.toNat_false, if_true, Bool.false_eq_true, if_false] <;> omega

/-- HKIND is bits 34:32 of a header image without S. -/
theorem isHeader_of_noS {h : Img} (hs : h.s = false) : isHeader h = (h.v.toNat % 2 ^ 35 / 2 ^ 32 == 1) := by
  have hbits : h.bits36.toNat = h.v.toNat % 2 ^ 35 := (BitVec.toNat_append ..).trans (by simp [hs])
  rw [isHeader, hbits]

/-- The fields of a header read back as they were written. -/
theorem mkHeader_fields (hdone : done < 256) (hgenl : genl < 256) (hnval : nval < 16) (huser : user < 8) :
    let h := mkHeader done genl nval rej user
    isHeader h ∧ h.s = false ∧ hdrDone h = done ∧ h.v.toNat / 2 ^ 16 % 256 = genl ∧ hdrNval h = nval ∧ hdrRej h = rej
      ∧ h.v.toNat / 2 ^ 8 % 8 = user := by
  intro h
  have hv : h.v.toNat = _ := mkHeader_toNat (rej := rej) hdone hgenl hnval huser
  have hr : rej.toNat ≤ 1 := Bool.toNat_le rej
  refine ⟨?kind, rfl, ?done, by omega, ?nval, ?rej, by omega⟩
  case kind =>
    rw [isHeader_of_noS rfl, beq_iff_eq]
    omega
  case done =>
    rw [hdrDone]
    omega
  case nval =>
    rw [hdrNval]
    omega
  case rej =>
    have hbit : h.v.toNat / 2 ^ 11 % 2 = rej.toNat := by omega
    rw [hdrRej, ← BitVec.testBit_toNat, Nat.testBit_eq_decide_div_mod_eq, hbit]
    cases rej <;> rfl

end

/-! ### What a record instruction makes of its lanes (R315, log 13) -/

/-- No lane of the left operand holds a value. -/
def Firing.noRecord (f : Firing) (slot : ℕ) : Prop := ∀ l ∈ f.lanesAt slot .left, l.val = none

/-- Lane 0 of the left operand is a record header. -/
def Firing.hasHeader (f : Firing) (slot : ℕ) : Prop := ∃ h, (f.lane slot .left 0).val = some h ∧ isHeader h

/-- Lane i of the record of the left operand, with a header computed from the one it has. -/
def Firing.reheaded (f : Firing) (slot : ℕ) (g : Img → DWord) (i : ℕ) : LaneV :=
  if i = 0 then { f.lane slot .left 0 with val := some ⟨g ((f.lane slot .left 0).val.getD {}), false⟩, fmt := 18 } else f.lane slot .left i

section
variable {x : ElemCtx} {s : State} {p : BitVec 2} {ts : List (BitVec 9)} {g : List LaneV → Img → List LaneV}

theorem ElemCtx.record_of_empty (hempty : ∀ l ∈ x.a, l.val = none) : x.record s p ts g = x.finish s ts (x.masked p x.a) :=
  if_pos (all_isNone_iff.2 hempty)

theorem ElemCtx.record_of_header {h : Img} (hval : (x.a.getD 0 {}).val = some h) (hh : isHeader h) :
    x.record s p ts g = x.finish s ts (x.masked p (g x.a h)) := by
  have hne : ¬ x.a.all (fun l => l.val.isNone) = true := fun hall => by
    rw [getD_val_of_empty (all_isNone_iff.1 hall)] at hval
    cases hval
  simp only [ElemCtx.record, if_neg hne, hval, if_pos hh]

theorem ElemCtx.record_of_noHeader (hne : ¬ ∀ l ∈ x.a, l.val = none) (hno : ¬ ∃ h, (x.a.getD 0 {}).val = some h ∧ isHeader h) :
    x.record s p ts g = x.mark s (fun f => f.bad 0x80) := by
  rw [ElemCtx.record, if_neg (mt all_isNone_iff.1 hne)]
  cases hval : (x.a.getD 0 {}).val with
  | none => rfl
  | some h => exact if_neg fun hh => hno ⟨h, hval, hh⟩

end

/-- The lanes of a record with a new header. -/
theorem withHeader_lanesAt {f : Firing} {slot : ℕ} {h h' : Img} {g : Img → DWord} (hlen : (f.lanesAt slot .left).length = 16)
    (hval : (f.lane slot .left 0).val = some h) (hg : h'.v = g h) :
    withHeader (f.lanesAt slot .left) h' = (List.range 16).map (f.reheaded slot g) := by
  refine eq_map_range_of_getD (by rw [withHeader_length, hlen]) fun i _ => ?_
  rw [withHeader_getD hlen, hg, Firing.reheaded, hval]
  rfl

/-! ### The instructions -/

section
variable {i : Instr} {p : BitVec 2} {t u : BitVec 9} {uses : List Pos} {g : ElemCtx → List LaneV → Img → List LaneV}

/-- A beat of empty lanes passes empty, and lanes without a header are BAD_BEAT, whatever the instruction does with a record. -/
theorem record_elsewhere (hi : ∀ s, exec i s = execElem s p uses (fun x => x.record s p [t, u] (g x))) :
    PassesInElem i p uses Firing.noRecord (fun f slot => f.lanesAt slot .left) (fun f _ ls => (f.deliver t ls).deliver u ls)
    ∧ FiresInElem i p uses (fun f slot => ¬ f.noRecord slot ∧ ¬ f.hasHeader slot) (fun f _ => f.faults 0x80) :=
  ⟨passesInElem_of hi fun _ _ _ hempty => ElemCtx.record_of_empty hempty,
   firesInElem_of hi fun _ _ _ ⟨hne, hno⟩ => ElemCtx.record_of_noHeader hne hno⟩

/-- A record passes as the instruction changes it. -/
theorem record_passes {ok : Firing → ℕ → Prop} {src : Firing → ℕ → List LaneV}
    (hi : ∀ s, exec i s = execElem s p uses (fun x => x.record s p [t, u] (g x))) (hheader : ∀ f slot, ok f slot → f.hasHeader slot)
    (hg : ∀ f slot h, ok f slot → (f.lane slot .left 0).val = some h → g (elemCtxOf f slot p) (f.lanesAt slot .left) h = src f slot) :
    PassesInElem i p uses ok src (fun f _ ls => (f.deliver t ls).deliver u ls) := by
  refine passesInElem_of hi fun s f slot hok => ?_
  obtain ⟨h, hval, hh⟩ := hheader f slot hok
  rw [← hg f slot h hok hval]
  exact ElemCtx.record_of_header hval hh

end

section
variable (p : BitVec 2) (t u : BitVec 9) (k : BitVec 4) (d : BitVec 3)

theorem recGet_passes : PassesInElem (.recGet p t u k) p [.left] Firing.hasHeader
    (fun f slot => (List.range 16).map (fun _ => f.lane slot .left k.toNat)) (fun f _ ls => (f.deliver t ls).deliver u ls) :=
  record_passes (exec_recGet p t u k) (fun _ _ hheader => hheader)
    fun _ _ _ _ _ => eq_map_range_of_getD List.length_replicate fun _ hi => List.getD_replicate _ hi

theorem recDone_passes : PassesInElem (.recDone p t u d) p [.left] (fun f slot => f.hasHeader slot ∧ (f.lanesAt slot .left).length = 16)
    (fun f slot => (List.range 16).map (f.reheaded slot (fun h => h.v ||| BitVec.ofNat 64 (2 ^ (24 + d.toNat)))))
    (fun f _ ls => (f.deliver t ls).deliver u ls) :=
  record_passes (exec_recDone p t u d) (fun _ _ => And.left) fun _ _ _ ⟨_, hfull⟩ hval => withHeader_lanesAt hfull hval rfl

theorem recRej_passes : PassesInElem (.recRej p t u d) p [.left] (fun f slot => f.hasHeader slot ∧ (f.lanesAt slot .left).length = 16)
    (fun f slot => (List.range 16).map (f.reheaded slot (fun h => h.v ||| BitVec.ofNat 64 (2 ^ 11))))
    (fun f _ ls => (f.deliver t ls).deliver u ls) :=
  record_passes (exec_recRej p t u d) (fun _ _ => And.left) fun _ _ _ ⟨_, hfull⟩ hval => withHeader_lanesAt hfull hval rfl

/-- REC.SET of a value: lane k from the right operand, and NVAL at least k. -/
theorem recSet_passes : PassesInElem (.recSet p t u k) p [.left, .right]
    (fun f slot => f.hasHeader slot ∧ (f.lanesAt slot .left).length = 16 ∧ k ≠ 0)
    (fun f slot => (List.range 16).map (fun i => if i = k.toNat then f.lane slot .right i else f.reheaded slot (fun h =>
      (mkHeader (hdrDone h) (h.v.toNat / 2 ^ 16) (max (hdrNval h) k.toNat) (hdrRej h) (h.v.toNat / 2 ^ 8)).v) i))
    (fun f _ ls => (f.deliver t ls).deliver u ls) := by
  refine record_passes (exec_recSet p t u k) (fun _ _ => And.left) fun f slot h ⟨_, hfull, hk⟩ hval => ?_
  rw [if_neg hk]
  refine (congrArg (setAt · k.toNat _) (withHeader_lanesAt hfull hval ?_)).trans (setAt_map_range _ (f.lane slot .right) k.isLt)
  rfl

/-- REC.SET of lane 0: USER from lane 0 of the right operand. -/
theorem recSet_zero_passes (v : Img) : PassesInElem (.recSet p t u 0) p [.left, .right]
    (fun f slot => f.hasHeader slot ∧ (f.lanesAt slot .left).length = 16 ∧ (f.lane slot .right 0).val = some v)
    (fun f slot => (List.range 16).map (f.reheaded slot (fun h =>
      (mkHeader (hdrDone h) (h.v.toNat / 2 ^ 16) (hdrNval h) (hdrRej h) (v.v.toNat % 8)).v)))
    (fun f _ ls => (f.deliver t ls).deliver u ls) := by
  refine record_passes (exec_recSet p t u 0) (fun _ _ => And.left) fun f slot h ⟨_, hfull, hv⟩ hval => ?_
  have hright : ((elemCtxOf f slot p).b.getD 0 {}).val = some v := hv
  rw [if_pos rfl, hright]
  exact withHeader_lanesAt hfull hval rfl

theorem recNew_passes_empty : PassesInElem (.recNew p t u k) p [.left] Firing.noRecord (fun f slot => f.lanesAt slot .left)
    (fun f _ ls => (f.deliver t ls).deliver u ls) :=
  passesInElem_of (exec_recNew p t u k) fun _ _ _ hempty => if_pos (all_isNone_iff.2 hempty)

theorem recNew_passes : PassesInElem (.recNew p t u k) p [.left] (fun f slot => ¬ f.noRecord slot)
    (fun f slot => (List.range 16).map (fun i => if i = 0 then
        { val := some (mkHeader 0 (((f.inp 0).seg.map SegId.gen).getD 0) k.toNat false 0), rank := rankMax (f.lanesAt slot .left), fmt := 18 }
      else if i ≤ k.toNat then f.lane slot .left i else { val := some {} }))
    (fun f _ ls => (f.deliver t ls).deliver u ls) :=
  passesInElem_of (exec_recNew p t u k) fun _ _ _ hne => if_neg (mt all_isNone_iff.1 hne)

end

/-! ### The obligation -/

/-- Settles O32: the four instructions on an existing record share what they do with other beats, and each passes a record as its lemma says.
That a beat of empty lanes passes empty is the model's choice (log 13), and so is that a header lane, whose bit 35 is data, takes no S from
the predicate (log 12). -/
theorem recordInstructions : Obligations.RecordInstructions := by
  unfold Obligations.RecordInstructions
  intro p t u k d
  refine ⟨?elsewhere, recGet_passes p t u k, recDone_passes p t u d, recRej_passes p t u d, recSet_passes p t u k,
    recSet_zero_passes p t u, recNew_passes_empty p t u k, recNew_passes p t u k, fun _ _ _ _ _ => mkHeader_fields⟩
  case elsewhere =>
    simp only [List.forall_mem_cons, List.not_mem_nil, false_imp_iff, implies_true, and_true]
    exact ⟨record_elsewhere (exec_recGet p t u k), record_elsewhere (exec_recSet p t u k), record_elsewhere (exec_recDone p t u d),
      record_elsewhere (exec_recRej p t u d)⟩

end Sys2Proof.Machine
end

section
/-! SUPPORT. Loads as they fire, and the obligation on them (R183, R186, R193, R333 to R336, R338). -/
namespace Sys2Proof.Machine

/-! ### The check of an address (R332) -/

/-- A misaligned access fails before anything is translated. -/
theorem coreSpan_of_misaligned (s : State) (c : CoreRef) (seq : DWord) {va align : Nat} (h : ¬ align ∣ va) (len : Nat) (k : AccKind)
    (gcheck : Bool) : coreSpan s c seq va len align k gcheck = .error ⟨3, va⟩ :=
  if_pos (mt Nat.dvd_of_mod_eq_zero h)

theorem CoreCtx.checked_of_error {x : CoreCtx} {s : State} {va len align : Nat} {k : AccKind} {gcheck : Bool} {e : XFault}
    (h : coreSpan s x.c x.blk.seqReg va len align k gcheck = .error e) (lsid : Nat) (f : Span → State) :
    x.checked s lsid va len align k gcheck f = x.fail s e.code (BitVec.ofNat 64 e.va) lsid := by
  simp only [CoreCtx.checked, h]

theorem CoreCtx.checked_of_ok {x : CoreCtx} {s : State} {va len align : Nat} {k : AccKind} {gcheck : Bool} {sp : Span}
    (h : coreSpan s x.c x.blk.seqReg va len align k gcheck = .ok sp) (lsid : Nat) (f : Span → State) :
    x.checked s lsid va len align k gcheck f = f sp := by
  simp only [CoreCtx.checked, h]

/-! ### What a read meets is what it met before its slot fired -/

section
variable (s : State) (c : CoreRef) (bi : Nat) (b : Block)

@[simp] theorem State.putBlock_readOver (ws : List (Span × List Byte)) (sp : Span) :
    readOver (s.putBlock c bi b) ws sp = readOver s ws sp := rfl
@[simp] theorem State.putBlock_eccIn (pas : List Nat) : (s.putBlock c bi b).eccIn pas = s.eccIn pas := rfl
@[simp] theorem State.putBlock_recorded (lid : Nat) : (s.putBlock c bi b).recorded lid = s.recorded lid := rfl
@[simp] theorem State.putBlock_invariant (lid pset : Nat) (sp : Span) (bs : List Byte) :
    (s.putBlock c bi b).invariant lid pset sp bs = s.invariant lid pset sp bs := rfl
@[simp] theorem State.putBlock_useFree (n : Nat) : (s.putBlock c bi b).useFree n = (s.useFree n).putBlock c bi b := rfl

end

/-- An access that meets no error corrects and logs none. -/
theorem State.eccMeet_of_eccIn_nil {s : State} {pas : List Nat} (h : s.eccIn pas = []) : s.eccMeet pas = s := by
  simp [State.eccMeet, h]

/-! ### The read of a load whose turn has come (R336) -/

/-- A span of an MU page in whose half-lines no error stands, in no memory of a host, which reads as `bs` over the stores `ws`. -/
structure State.ReadsQuietly (s : State) (ws : List (Span × List Byte)) (sp : Span) (bs : List Byte) : Prop where
  attr : spanAttr sp = 0
  clean : s.eccIn (spanPas sp) = []
  home : ∀ r ∈ sp, ∀ k a, regionOf r.1.pa ≠ .host k a
  reads : readOver s ws sp = some bs

theorem State.ReadsQuietly.putBlock {s : State} {ws : List (Span × List Byte)} {sp : Span} {bs : List Byte} (h : s.ReadsQuietly ws sp bs)
    (c : CoreRef) (bi : Nat) (b : Block) : (s.putBlock c bi b).ReadsQuietly ws sp bs :=
  ⟨h.attr, (s.putBlock_eccIn c bi b _).trans h.clean, h.home, (s.putBlock_readOver c bi b ws sp).trans h.reads⟩

/-- A quiet read answers at once: with the bytes as they are, unless it is one that promises invariance in a launch that is not recorded. -/
theorem performRead_of_quiet {s : State} {ws : List (Span × List Byte)} {sp : Span} {bs : List Byte} (h : s.ReadsQuietly ws sp bs) (c : CoreRef)
    (uid slot : Nat) {kind : Nat} (hk : kind ≠ 18) (gen : Nat) :
    performRead s c uid slot kind gen ws sp =
      if kind < 32 ∨ s.recorded c.lid then s.respond c uid slot (kind % 32) bs sp
      else (s.useFree 1).respond c uid slot (kind % 32) (s.invariant c.lid c.pset sp bs) sp := by
  have hbad : s.eccBad (spanPas sp) = false := by simp [State.eccBad, h.clean]
  have hfree : s.gWaits c.lid c.pset sp = false := by simp [State.gWaits, h.attr]
  have hmeet : (s.eccMeet (spanPas sp)).askSpan sp = s :=
    (congrArg (·.askSpan sp) (State.eccMeet_of_eccIn_nil h.clean)).trans (s.askSpan_of_local h.home)
  simp [performRead, hk, h.attr, hbad, hfree, h.reads, hmeet]

/-- What a read that promises invariance answers for a span of an MU page: what it holds now, or one of the older values of its word, as a free
number says (log 33). -/
theorem State.invariant_cons {s : State} {r : Xlat} (hr : r.attr = 0) (lid pset m : Nat) (rest : Span) (bs : List Byte) :
    s.invariant lid pset ((r, m) :: rest) bs =
      (let values := s.olderOf lid pset (physKey s r.pa / 8)
       let k := s.freeAt 0 % (values.length + 1)
       if k = 0 then bs else (List.range m).map (fun j => BitVec.ofNat 8 (values.getD (k - 1) 0 / 256 ^ (r.pa % 8 + j)))) := by
  simp [State.invariant, hr]

section
variable {x : CoreCtx} {s : State} {lsid kind va : Nat} {sp : Span} {acq : Bool} (hk : kind ≠ 18)
include hk

/-- A read whose turn has not come does nothing. -/
theorem CoreCtx.read_of_wait (h : x.turn s lsid true sp = .wait) : x.read s lsid kind va sp acq = s := by
  rw [CoreCtx.read, bne_iff_ne.2 hk, h]

/-- A read that is held asks its block's commit for itself. -/
theorem CoreCtx.read_of_hold (h : x.turn s lsid true sp = .hold) :
    x.read s lsid kind va sp acq = x.ask s lsid (.heldRead kind va sp acq) := by
  rw [CoreCtx.read, bne_iff_ne.2 hk, h]

/-- A read whose turn has come is performed over the page core's own earlier stores. -/
theorem CoreCtx.read_of_go (h : x.turn s lsid true sp = .go) : x.read s lsid kind va sp acq =
    performRead (x.ask s lsid (.read acq)) x.c x.blk.uid x.slot kind (genOf x.blk.genReg) (x.ownStores lsid) sp := by
  rw [CoreCtx.read, bne_iff_ne.2 hk, h]

end

/-! ### Every load (R335, R336, R338) -/

/-- A firing under a stronger condition, its next state written in another way that agrees there. -/
theorem FiresInCore.weaken {i : Instr} {p : BitVec 2} {uses : List Pos} {ok ok' : State → CoreCtx → Prop}
    {next next' : State → CoreCtx → State} (h : FiresInCore i p uses ok next) (hok : ∀ s x, ok' s x → ok s x)
    (hnext : ∀ s x, ok' s x → next s x = next' s x) : FiresInCore i p uses ok' next' :=
  fun s c bi slot blk ps hslot hlets harr hok' =>
    (h s c bi slot blk ps hslot hlets harr (hok _ _ hok')).trans (congrArg _ (hnext _ _ hok'))

/-- A load of `n` bytes from the address of operand a: `k` gives the kind of the read, by the pages that it reaches. -/
def CoreCtx.loadAs (x : CoreCtx) (s : State) (lsid n align : Nat) (k : Span → Nat) (acq : Bool) : State :=
  x.checked s lsid x.a.v.toNat n align x.rd true (fun sp => x.read s lsid (k sp) x.a.v.toNat sp acq)

/-- An instruction of C-blocks that is such a load. -/
def IsLoad (i : Instr) (p : BitVec 2) (lsid n align : Nat) (k : Span → Nat) (acq : State → CoreCtx → Bool) : Prop :=
  ∀ s, exec i s = execCore s p [.left] (fun x => x.loadAs s lsid n align k (acq s x))

/-- The state in which a load has fired and these bytes are on their way to its targets (R20, R336). -/
def State.sendsRead (s : State) (x : CoreCtx) (lsid kind : Nat) (acq : Bool) (sp : Span) (bs : List Byte) : State :=
  (s.putBlock x.c x.bi (x.blk.asks x.slot lsid (.read acq))).respond x.c x.blk.uid x.slot kind bs sp

/-- The address of a load has translated to `sp`, and what stands before it in issue order gives it this turn. -/
def TurnOf (lsid n align : Nat) (sp : Span) (turn : Turn) (s : State) (x : CoreCtx) : Prop :=
  coreSpan s x.c x.blk.seqReg x.a.v.toNat n align x.rd true = .ok sp ∧ x.turn s lsid true sp = turn

/-- A load whose address has translated is a read of what it names. -/
theorem TurnOf.loadAs_eq {lsid n align : Nat} {sp : Span} {turn : Turn} {s : State} {x : CoreCtx} (h : TurnOf lsid n align sp turn s x)
    (k : Span → Nat) (acq : Bool) : x.loadAs s lsid n align k acq = x.read s lsid (k sp) x.a.v.toNat sp acq :=
  CoreCtx.checked_of_ok h.1 lsid _

section
variable {i : Instr} {p : BitVec 2} {lsid n align : Nat} {k : Span → Nat} {acq : State → CoreCtx → Bool} (h : IsLoad i p lsid n align k acq)
include h

/-- A misaligned address. -/
theorem IsLoad.fails_of_misaligned : FailsInCore i p [.left] lsid (fun _ x => ¬ align ∣ x.a.v.toNat) (fun _ x => (3, x.a.v)) :=
  firesInCore_of pred_left h (fun s x hx hok => by
    rw [CoreCtx.loadAs, CoreCtx.checked_of_error (coreSpan_of_misaligned s _ _ hok _ _ _), BitVec.ofNat_toNat, BitVec.setWidth_eq]
    exact fail_eq hx 3 x.a.v lsid)

/-- An address that does not translate, or is protected. -/
theorem IsLoad.fails_of_error (e : XFault) : FailsInCore i p [.left] lsid
    (fun s x => coreSpan s x.c x.blk.seqReg x.a.v.toNat n align x.rd true = .error e) (fun _ _ => (e.code, BitVec.ofNat 64 e.va)) :=
  firesInCore_of pred_left h (fun _ _ hx hok => (CoreCtx.checked_of_error hok lsid _).trans (fail_eq hx _ _ _))

variable (sp : Span)

/-- A load whose turn has not come does not fire. -/
theorem IsLoad.waits (hk : k sp ≠ 18) : WaitsInCore i p [.left] (TurnOf lsid n align sp .wait) :=
  firesInCore_of pred_left h (fun _ _ _ hturn => (hturn.loadAs_eq k _).trans (CoreCtx.read_of_wait hk hturn.2))

/-- A load that is held asks its block's commit for the read. -/
theorem IsLoad.holds {kind : Nat} (hkind : k sp = kind) (hk : k sp ≠ 18) : AsksInCore i p [.left] lsid (TurnOf lsid n align sp .hold)
    (fun s x => .heldRead kind x.a.v.toNat sp (acq s x)) :=
  firesInCore_of pred_left h (fun _ _ hx hturn => by
    rw [hturn.loadAs_eq, CoreCtx.read_of_hold hk hturn.2, hkind]
    exact ask_eq hx _ _)

/-- A load whose turn has come fires, and its quiet read answers at once. -/
theorem IsLoad.reads (hk : k sp ≠ 18) (bs : List Byte) : FiresInCore i p [.left]
    (fun s x => TurnOf lsid n align sp .go s x ∧ s.ReadsQuietly (x.ownStores lsid) sp bs)
    (fun s x => if k sp < 32 ∨ s.recorded x.c.lid then s.sendsRead x lsid (k sp % 32) (acq s x) sp bs
      else (s.useFree 1).sendsRead x lsid (k sp % 32) (acq s x) sp (s.invariant x.c.lid x.c.pset sp bs)) :=
  firesInCore_of pred_left h (fun _ _ hx ⟨hturn, hquiet⟩ => by
    rw [hturn.loadAs_eq, CoreCtx.read_of_go hk hturn.2, ask_eq hx, performRead_of_quiet (hquiet.putBlock _ _ _) _ _ _ hk]
    simp only [State.putBlock_recorded, State.putBlock_useFree, State.putBlock_invariant]
    rfl)

/-- It sends what it has read, if it promises no invariance or the launch is recorded (R220). -/
theorem IsLoad.reads_present {kind : Nat} (hkind : k sp % 32 = kind) (hk : k sp ≠ 18) (bs : List Byte) : FiresInCore i p [.left]
    (fun s x => (TurnOf lsid n align sp .go s x ∧ s.ReadsQuietly (x.ownStores lsid) sp bs) ∧ (k sp < 32 ∨ s.recorded x.c.lid))
    (fun s x => s.sendsRead x lsid kind (acq s x) sp bs) :=
  (h.reads sp hk bs).weaken (fun _ _ hok => hok.1) (fun _ _ hok => by rw [if_pos hok.2, hkind])

/-- It sends what it has read or an older value, if it promises invariance and the launch is not recorded (R186). -/
theorem IsLoad.reads_older {kind : Nat} (hkind : k sp % 32 = kind) (hk : 32 ≤ k sp) (bs : List Byte) : FiresInCore i p [.left]
    (fun s x => (TurnOf lsid n align sp .go s x ∧ s.ReadsQuietly (x.ownStores lsid) sp bs) ∧ s.recorded x.c.lid = false)
    (fun s x => (s.useFree 1).sendsRead x lsid kind (acq s x) sp (s.invariant x.c.lid x.c.pset sp bs)) :=
  (h.reads sp (by omega) bs).weaken (fun _ _ hok => hok.1) (fun _ _ hok => by
    rw [if_neg (by simp [hok.2, hk]), hkind])

end

/-! ### The load instructions -/

/-- An LDI that reaches an MU page, no register window: a read that promises invariance (R186). -/
def PromisesInvariance (i : Instr) (p : BitVec 2) (t : BitVec 9) (l : BitVec 5) (y : BitVec 4) (sp : Span) : Prop :=
  i = .ldi p t l y ∧ spanAttr sp = 0 ∧ spanReg sp = false

section
variable (p : BitVec 2) (t : BitVec 9) (l : BitVec 5) (y : BitVec 4)

theorem isLoad_ld : IsLoad (.ld p t l y) p l.toNat (typeBytes y.toNat) (typeBytes y.toNat) (fun _ => y.toNat) (fun _ _ => false) :=
  fun _ => rfl

theorem isLoad_ldi : IsLoad (.ldi p t l y) p l.toNat (typeBytes y.toNat) (typeBytes y.toNat)
    (fun sp => if spanAttr sp = 0 ∧ !spanReg sp then 32 + y.toNat else y.toNat) (fun _ _ => false) :=
  fun _ => rfl

theorem isLoad_lda (c : BitVec 3) : IsLoad (.lda p t l y c) p l.toNat (typeBytes y.toNat) (typeBytes y.toNat) (fun _ => y.toNat)
    (fun s x => s.watched x.c c.toNat none) :=
  fun _ => rfl

theorem isLoad_ldimgReg : IsLoad (.ldimg p t l 0) p l.toNat 16 16 (fun _ => 16) (fun _ _ => false) := fun _ => rfl
theorem isLoad_ldimgLane : IsLoad (.ldimg p t l 1) p l.toNat 5 8 (fun _ => 17) (fun _ _ => false) := fun _ => rfl

end

/-- The loads of R335, R336 and R338, each with its kind of read, its length and alignment, and whether it is an acquire (log 39). -/
def loadForms (p : BitVec 2) (t : BitVec 9) (l : BitVec 5) (y : BitVec 4) (c : BitVec 3) :
    List (Instr × Nat × Nat × Nat × (State → CoreCtx → Bool)) :=
  [(.ld p t l y, y.toNat, typeBytes y.toNat, typeBytes y.toNat, fun _ _ => false),
    (.ldi p t l y, y.toNat, typeBytes y.toNat, typeBytes y.toNat, fun _ _ => false),
    (.lda p t l y c, y.toNat, typeBytes y.toNat, typeBytes y.toNat, fun s x => s.watched x.c c.toNat none),
    (.ldimg p t l 0, 16, 16, 16, fun _ _ => false), (.ldimg p t l 1, 17, 5, 8, fun _ _ => false)]

/-- Each of them reads a kind below 18, to which only a read that promises invariance adds 32, and no free number decides its acquire. -/
theorem isLoad_of_mem {p : BitVec 2} {t : BitVec 9} {l : BitVec 5} {y : BitVec 4} {c : BitVec 3} {i : Instr} {kind n align : Nat}
    {acq : State → CoreCtx → Bool} (hm : (i, kind, n, align, acq) ∈ loadForms p t l y c) :
    ∃ k : Span → Nat, IsLoad i p l.toNat n align k acq ∧ kind < 18 ∧ (∀ s x, acq (s.useFree 1) x = acq s x)
      ∧ (∀ sp, PromisesInvariance i p t l y sp → k sp = 32 + kind) ∧ (∀ sp, ¬ PromisesInvariance i p t l y sp → k sp = kind) := by
  have hy : y.toNat < 18 := by omega
  simp only [loadForms, List.mem_cons, Prod.mk.injEq, List.not_mem_nil, or_false] at hm
  obtain ⟨rfl, rfl, rfl, rfl, rfl⟩ | ⟨rfl, rfl, rfl, rfl, rfl⟩ | ⟨rfl, rfl, rfl, rfl, rfl⟩ | ⟨rfl, rfl, rfl, rfl, rfl⟩ |
    ⟨rfl, rfl, rfl, rfl, rfl⟩ := hm
  · exact ⟨_, isLoad_ld p t l y, hy, fun _ _ => rfl, fun _ ho => Instr.noConfusion ho.1, fun _ _ => rfl⟩
  · exact ⟨_, isLoad_ldi p t l y, hy, fun _ _ => rfl, fun _ ho => if_pos (by simp [ho.2]),
      fun _ ho => if_neg (by simpa [PromisesInvariance] using ho)⟩
  · exact ⟨_, isLoad_lda p t l y c, hy, fun _ _ => rfl, fun _ ho => Instr.noConfusion ho.1, fun _ _ => rfl⟩
  · exact ⟨_, isLoad_ldimgReg p t l, by omega, fun _ _ => rfl, fun _ ho => Instr.noConfusion ho.1, fun _ _ => rfl⟩
  · exact ⟨_, isLoad_ldimgLane p t l, by omega, fun _ _ => rfl, fun _ ho => Instr.noConfusion ho.1, fun _ _ => rfl⟩

/-! ### The obligation -/

/-- Settles O17: the five loads check, wait, are held and read alike; they differ in the kind of the read, which LDI on an MU page marks as one
that promises invariance, so that the bank may answer with an older value (log 33), and in the acquire of LDA (log 39). -/
theorem loadsRead : Obligations.LoadsRead := by
  unfold Obligations.LoadsRead
  intro p t l y c i kind n align acq hm
  obtain ⟨k, hload, hkind, hacq, hold, hplain⟩ := isLoad_of_mem hm
  refine ⟨hload.fails_of_misaligned, hload.fails_of_error, fun sp => ?_⟩
  have hk : k sp ≠ 18 := by
    by_cases ho : PromisesInvariance i p t l y sp
    · rw [hold sp ho]; omega
    · rw [hplain sp ho]; omega
  refine ⟨hload.waits sp hk, fun ho => hload.holds sp (hplain sp ho) hk, fun ho => hload.holds sp (hold sp ho) hk, ?plain, ?recorded, ?older⟩
  case plain =>
    intro bs ho
    have hkp : k sp = kind := hplain sp ho
    refine (hload.reads_present sp (kind := kind) (by omega) hk bs).weaken ?_ (fun _ _ _ => rfl)
    rintro s x ⟨hturn, hattr, hclean, hhome, hreads⟩
    exact ⟨⟨hturn, hattr, hclean, hhome, hreads⟩, .inl (by omega)⟩
  case recorded =>
    intro bs ho
    have hko : k sp = 32 + kind := hold sp ho
    refine (hload.reads_present sp (kind := kind) (by omega) hk bs).weaken ?_ (fun _ _ _ => rfl)
    rintro s x ⟨⟨hturn, hattr, hclean, hhome, hreads⟩, hrec⟩
    exact ⟨⟨hturn, hattr, hclean, hhome, hreads⟩, .inr hrec⟩
  case older =>
    rintro bs r m rest ho rfl
    have hko : k ((r, m) :: rest) = 32 + kind := hold _ ho
    refine (hload.reads_older ((r, m) :: rest) (kind := kind) (by omega) (by omega) bs).weaken ?_ ?_
    · rintro s x ⟨⟨hturn, hattr, hclean, hhome, hreads⟩, hrec⟩
      exact ⟨⟨hturn, hattr, hclean, hhome, hreads⟩, hrec⟩
    · intro s x _
      rw [State.invariant_cons ho.2.1]
      exact congrArg (fun a => (s.useFree 1).sendsRead x l.toNat kind a _ _) (hacq s x).symm

end Sys2Proof.Machine
end

section
/-! SUPPORT. Where results go and which fault stands, in both kinds of block, and the obligation on both (R197, R201, R250, R251, R255). -/
namespace Sys2Proof.Machine

/-! ### What has arrived, once one value more has -/

/-- Of a keyed list with an entry at the end whose key no other has, that entry is what the key finds. -/
theorem find?_append_singleton_self {α : Type} {p : α → Bool} {l : List α} {x : α} (h : l.find? p = none) (hx : p x = true) :
    (l ++ [x]).find? p = some x := by
  rw [List.find?_append, h, List.find?_singleton, if_pos hx, Option.none_or]

/-- Any other key finds what it found before. -/
theorem find?_append_singleton_other {α : Type} {p : α → Bool} {x : α} (hx : p x = false) (l : List α) : (l ++ [x]).find? p = l.find? p := by
  rw [List.find?_append, List.find?_singleton, hx, if_neg Bool.false_ne_true, Option.or_none]

/-- Two positions of slots are the same by the tests with which operands are found. -/
theorem position_test_eq_false {j k : Nat} {q r : Pos} (h : (j, q) ≠ (k, r)) : (k == j && r == q) = false := by
  refine Bool.eq_false_iff.2 (fun hsame => h ?_)
  obtain ⟨hslot, hpos⟩ := Bool.and_eq_true_iff.1 hsame
  rw [eq_of_beq hslot, eq_of_beq hpos]

/-! ### C-blocks -/

theorem Block.operand_append_self {b : Block} {slot : Nat} {pos : Pos} (h : b.operand slot pos = none) (v : Img) :
    ({ b with ops := b.ops ++ [{ slot := slot, pos := pos, img := v }] } : Block).operand slot pos = some v := by
  rw [Block.operand, find?_append_singleton_self (Option.map_eq_none_iff.1 h) (by simp), Option.map_some]

theorem Block.operand_append_other (b : Block) {slot j : Nat} {pos q : Pos} (h : (j, q) ≠ (slot, pos)) (v : Img) :
    ({ b with ops := b.ops ++ [{ slot := slot, pos := pos, img := v }] } : Block).operand j q = b.operand j q :=
  congrArg (Option.map Opnd.img) (find?_append_singleton_other (p := fun o => o.slot == j && o.pos == q) (position_test_eq_false h) b.ops)

theorem Block.deliver_none (b : Block) (v : Img) : b.deliver 0x1FF v = b := if_pos rfl

section
variable {b : Block} {t : BitVec 9} (ht : t ≠ 0x1FF)
include ht

/-- A target whose position is free takes the value. -/
theorem Block.deliver_free (h : b.operand (t.toNat % 128) (Pos.ofCode (t.extractLsb' 7 2)) = none) (v : Img) :
    b.deliver t v = { b with ops := b.ops ++ [{ slot := t.toNat % 128, pos := Pos.ofCode (t.extractLsb' 7 2), img := v }] } := by
  simp only [Block.deliver, if_neg ht, h, Option.isSome_none, Bool.false_eq_true, if_false]

/-- A second value at a position is ILLEGAL_INSN with the word of the receiving slot (R250). -/
theorem Block.deliver_taken (h : b.operand (t.toNat % 128) (Pos.ofCode (t.extractLsb' 7 2)) ≠ none) (v : Img) :
    b.deliver t v = b.fail 1 (b.word (t.toNat % 128)) 0 := by
  simp only [Block.deliver, if_neg ht, Option.isSome_iff_ne_none.2 h, if_true]

end

/-- The first fault of a block stands (R197). -/
theorem Block.fail_of_sound {b : Block} (h : b.fault = none) (code : Nat) (val : DWord) (lsid : Nat) :
    b.fail code val lsid = { b with fault := some { code := code, val := val, lsid := lsid } } := by
  simp only [Block.fail, h, Option.isSome_none, Bool.false_eq_true, if_false]

theorem Block.fail_of_fault {b : Block} (h : b.fault ≠ none) (code : Nat) (val : DWord) (lsid : Nat) : b.fail code val lsid = b :=
  if_pos (Option.isSome_iff_ne_none.2 h)

/-! ### E-blocks -/

theorem Firing.operand_append_self {f : Firing} {slot : Nat} {pos : Pos} (h : f.operand slot pos = none) (ls : List LaneV) :
    ({ f with ops := f.ops ++ [(slot, pos, ls)] } : Firing).operand slot pos = some ls := by
  rw [Firing.operand, find?_append_singleton_self (Option.map_eq_none_iff.1 h) (by simp), Option.map_some]

theorem Firing.operand_append_other (f : Firing) {slot j : Nat} {pos q : Pos} (h : (j, q) ≠ (slot, pos)) (ls : List LaneV) :
    ({ f with ops := f.ops ++ [(slot, pos, ls)] } : Firing).operand j q = f.operand j q :=
  congrArg (Option.map (fun o : Nat × Pos × List LaneV => o.2.2))
    (find?_append_singleton_other (p := fun o => o.1 == j && o.2.1 == q) (x := (slot, pos, ls)) (position_test_eq_false h) f.ops)

theorem Firing.deliver_none (f : Firing) (ls : List LaneV) : f.deliver 0x1FF ls = f := if_pos rfl

section
variable {f : Firing} {t : BitVec 9} (ht : t ≠ 0x1FF)
include ht

/-- A target whose position is free takes the lanes. -/
theorem Firing.deliver_free (h : f.operand (t.toNat % 128) (Pos.ofCode (t.extractLsb' 7 2)) = none) (ls : List LaneV) :
    f.deliver t ls = { f with ops := f.ops ++ [(t.toNat % 128, Pos.ofCode (t.extractLsb' 7 2), ls)] } := by
  simp only [Firing.deliver, if_neg ht, h, Option.isSome_none, Bool.false_eq_true, if_false]

/-- A second value at a position is EB_CONFLICT (R251). -/
theorem Firing.deliver_taken (h : f.operand (t.toNat % 128) (Pos.ofCode (t.extractLsb' 7 2)) ≠ none) (ls : List LaneV) :
    f.deliver t ls = f.faults 0x92 := by
  simp only [Firing.deliver, if_neg ht, Option.isSome_iff_ne_none.2 h, if_true, Firing.faults]

end

/-! ### The obligation -/

/-- Settles O37: a target that names no position changes nothing, a free position takes the value and only that, and a position that is taken makes
the fault of its kind of block, of which the first stands. -/
theorem resultsDelivered : Obligations.ResultsDelivered := by
  unfold Obligations.ResultsDelivered
  refine ⟨fun b t v => ⟨?none, ?free, fun ht htaken => Block.deliver_taken ht htaken v⟩,
    fun b code val l => ⟨fun h => Block.fail_of_sound h code val l, fun h => Block.fail_of_fault h code val l⟩,
    fun f t ls => ⟨?noneElem, ?freeElem, fun ht htaken => Firing.deliver_taken ht htaken ls⟩⟩
  case none => rintro rfl; exact b.deliver_none v
  case noneElem => rintro rfl; exact f.deliver_none ls
  case free =>
    intro ht hfree
    rw [Block.deliver_free ht hfree]
    exact ⟨Block.operand_append_self hfree v, fun j q hne => b.operand_append_other hne v, rfl⟩
  case freeElem =>
    intro ht hfree
    rw [Firing.deliver_free ht hfree]
    exact ⟨Firing.operand_append_self hfree ls, fun j q hne => f.operand_append_other hne ls, rfl⟩

end Sys2Proof.Machine
end

section
/-! SUPPORT. A trap in a launch that is to end already, and the obligation on traps and returns (R197, R201). -/
namespace Sys2Proof.Machine

/-! ### A state that meets the obligation's hypotheses and not its conclusion -/

/-- A launch of one page core in which an element has raised EB_CONFLICT: it is to end for that, and its halt is on its way. -/
def conflictLaunch : Launch :=
  { record := BitVec.ofNat 512 (2 ^ 192), node := 0, port := 0, tag := 0, stamp := 0, order := 0, phase := .running, gcount := 0
    ending := some { status := 0x22, detail := 0x92 } }

/-- The oldest block of its page core holds a fault: a misaligned access. -/
def misalignedBlock : Block := { words := [0], fault := some { code := 3, val := 0x41, lsid := 2 } }

/-- The page set of the launch, which the halt has not reached, and a page core without a handler. -/
def haltOnItsWay : State :=
  { State.reset with
    launches := [conflictLaunch]
    placed := [{ lid := 1, pset := 0, die := 0, x := 0, y := 0, w := 1, h := 1, mdie := 8, order := 0, isSealed := false, rotating := false }]
    cores := [(⟨1, 0, 0, 0⟩, { PageCore.reset with blocks := [misalignedBlock] })] }

theorem haltOnItsWay_runs : haltOnItsWay.runs 1 0 ∧ haltOnItsWay.isCut 1 0 = false ∧ haltOnItsWay.chunkDue ⟨1, 0, 0, 0⟩ := by decide +kernel

/-- The trap ends the launch, but the element's fault came first and stands. -/
theorem haltOnItsWay_detail :
    ((haltOnItsWay.commitBlock ⟨1, 0, 0, 0⟩).launch 1).bind (fun l => l.ending.map EndRec.detail) = some 0x92 := by decide +kernel

/-- Refutes O43: a page core runs on while the halt of an element's fault has not reached its region (R201, log 94). A block of it that then faults
with no handler does not put its own cause into the record of a launch that is to end already: the first cause stands. -/
theorem not_trapsAndReturns : ¬ Obligations.TrapsAndReturns := by
  unfold Obligations.TrapsAndReturns
  intro h
  obtain ⟨hruns, hcut, hchunk⟩ := haltOnItsWay_runs
  obtain ⟨htrap, -⟩ := h
  obtain ⟨t, ht, -, -, -, -, hend⟩ :=
    htrap haltOnItsWay ⟨1, 0, 0, 0⟩ misalignedBlock [] 3 2 0x41 0 rfl rfl hruns hcut hchunk (.inl ⟨rfl, rfl, rfl⟩)
  obtain ⟨-, l, e, hl, he, -, hdetail⟩ := hend (.inl rfl)
  have hstate : haltOnItsWay.commitBlock ⟨1, 0, 0, 0⟩ = t := Host.Outcome.next.inj ht
  have hfirst := haltOnItsWay_detail
  rw [hstate, hl, Option.bind_some, he, Option.map_some, hdetail] at hfirst
  exact absurd hfirst (by decide)

end Sys2Proof.Machine
end

section
/-! SUPPORT. What the firing of an instruction word can answer: it waits, it puts its block back, it performs a read, or it changes the firing of
its element (R247, R251, R256, R333). -/
namespace Sys2Proof.Machine

/-- What a slot of a C-block that may fire can answer: it waits, its block is put back with what the slot adds, or it then performs a read. -/
inductive CoreCtx.Fires (x : CoreCtx) (s : State) : State → Prop
  | waits : x.Fires s s
  | puts (b : Block) : x.Fires s (x.put s b)
  | reads (b : Block) (kind gen : Nat) (ws : List (Span × List Byte)) (sp : Span) :
    x.Fires s (performRead (x.put s b) x.c x.blk.uid x.slot kind gen ws sp)

/-- What an instruction word can answer in the blocks in which it is legal. -/
inductive WordFires (s : State) : State → Prop
  | waits : WordFires s s
  | core {t : State} (x : CoreCtx) (focus : s.focus = .core x.c x.bi x.slot) (pc : x.pc = s.core x.c) (fires : x.Fires s t) : WordFires s t
  | elem (slot : Nat) (focus : s.focus = .elem slot) (f : Option Firing) : WordFires s { s with firing := f }

/-! ### The gate -/

theorem gate_core_focus {s : State} {p : BitVec 2} {uses : List Pos} {x : CoreCtx} (h : gate s p uses = .core x) :
    s.focus = .core x.c x.bi x.slot ∧ x.pc = s.core x.c := by
  unfold gate at h
  dsimp only at h
  repeat' split at h
  all_goals cases h
  exact ⟨‹_›, rfl⟩

theorem gate_nulled_focus {s t : State} {p : BitVec 2} {uses : List Pos} (h : gate s p uses = .nulled t) :
    ∃ (x : CoreCtx) (b : Block), s.focus = .core x.c x.bi x.slot ∧ x.pc = s.core x.c ∧ t = x.put s b := by
  unfold gate at h
  dsimp only at h
  repeat' split at h
  all_goals cases h
  exact ⟨_, _, ‹_›, rfl, rfl⟩

theorem gate_elem_focus {s : State} {p : BitVec 2} {uses : List Pos} {x : ElemCtx} (h : gate s p uses = .elem x) :
    s.focus = .elem x.slot := by
  unfold gate at h
  dsimp only at h
  repeat' split at h
  all_goals cases h
  all_goals assumption

theorem wordFires_of_nulled {s t : State} {p : BitVec 2} {uses : List Pos} (h : gate s p uses = .nulled t) : WordFires s t := by
  obtain ⟨x, b, hfocus, hpc, rfl⟩ := gate_nulled_focus h
  exact .core x hfocus hpc (.puts b)

theorem wordFires_of_core {s t : State} {p : BitVec 2} {uses : List Pos} {x : CoreCtx} (h : gate s p uses = .core x) (ht : x.Fires s t) :
    WordFires s t := by
  obtain ⟨hfocus, hpc⟩ := gate_core_focus h
  exact .core x hfocus hpc ht

theorem wordFires_of_elem {s t : State} {p : BitVec 2} {uses : List Pos} {x : ElemCtx} (h : gate s p uses = .elem x)
    (ht : t = { s with firing := t.firing }) : WordFires s t :=
  ht ▸ .elem x.slot (gate_elem_focus h) t.firing

/-! ### The four forms of a firing -/

section
variable {s t : State} {p : BitVec 2} {uses : List Pos} {f : CoreCtx → State} {g : ElemCtx → State}

theorem execBoth_wordFires (h : execBoth s p uses f g = .next t) (hf : ∀ x : CoreCtx, x.Fires s (f x))
    (hg : ∀ x, g x = { s with firing := (g x).firing }) : WordFires s t := by
  unfold execBoth at h
  cases hgate : gate s p uses with
  | stop r =>
    rw [hgate] at h
    cases h
  | wait =>
    rw [hgate] at h
    cases h
    exact .waits
  | nulled s' =>
    rw [hgate] at h
    cases h
    exact wordFires_of_nulled hgate
  | core x =>
    rw [hgate] at h
    cases h
    exact wordFires_of_core hgate (hf x)
  | elem x =>
    rw [hgate] at h
    cases h
    exact wordFires_of_elem hgate (hg x)

/-- A word of C-blocks does there what one of both kinds of block may do. -/
theorem execCore_wordFires (h : execCore s p uses f = .next t) (hf : ∀ x : CoreCtx, x.Fires s (f x)) : WordFires s t := by
  refine execBoth_wordFires (p := p) (uses := uses) (g := fun _ => s) ?_ hf (fun _ => rfl)
  unfold execCore at h
  unfold execBoth
  cases hgate : gate s p uses <;> rw [hgate] at h <;> cases h <;> rfl

/-- A word of E-blocks does there what one of both kinds of block may do. -/
theorem execElem_wordFires (h : execElem s p uses g = .next t) (hg : ∀ x, g x = { s with firing := (g x).firing }) : WordFires s t := by
  refine execBoth_wordFires (p := p) (uses := uses) (f := fun _ => s) ?_ (fun _ => .waits) hg
  unfold execElem at h
  unfold execBoth
  cases hgate : gate s p uses <;> rw [hgate] at h <;> cases h <;> rfl

/-- A word that only computes delivers its result in either kind of block. -/
theorem execAlu_wordFires {ts : List (BitVec 9)} {fm : Nat → Nat → Img → Nat} {r : AluEnv → Img → Img → Img → AluRes}
    (h : execAlu s p ts uses fm r = .next t) : WordFires s t :=
  execBoth_wordFires (h : execBoth s p uses (fun x => x.finish s ts (r x.env x.a x.b x.x))
    (fun x => x.finish s ts (x.lanes p uses fm (fun a b c => (r x.env a b c).img))) = .next t) (fun _ => .puts _) (fun _ => rfl)

end

/-! ### What instructions of C-blocks share -/

section
variable {x : CoreCtx} {s : State} {lsid : Nat}

theorem CoreCtx.Fires.ite {c : Prop} [Decidable c] {t u : State} (ht : x.Fires s t) (hu : x.Fires s u) : x.Fires s (if c then t else u) := by
  split
  · exact ht
  · exact hu

theorem CoreCtx.Fires.name {k : Nat} {a : Act} : x.Fires s (x.name s k a) := .ite (.puts _) (.puts _)

theorem CoreCtx.Fires.leave {a : Act} : x.Fires s (x.leave s a) := .ite (.puts _) (.puts _)

theorem CoreCtx.Fires.leaveTo {a : Act} : x.Fires s (x.leaveTo s a) := .ite (.puts _) (.ite (.puts _) .leave)

theorem CoreCtx.Fires.laneAsk {a : Act} : x.Fires s (x.laneAsk s lsid a) := .ite (.puts _) (.puts _)

theorem CoreCtx.Fires.tileOp {check : Shadow → Bool} {op : Shadow → TileOp} : x.Fires s (x.tileOp s lsid check op) :=
  .ite .waits (.ite (.puts _) (.puts _))

/-- An access whose check fails records its fault against the block. -/
theorem CoreCtx.Fires.checked {va len align : Nat} {k : AccKind} {gcheck : Bool} {f : Span → State} (hf : ∀ sp, x.Fires s (f sp)) :
    x.Fires s (x.checked s lsid va len align k gcheck f) := by
  unfold CoreCtx.checked
  split
  · exact .puts _
  · exact hf _

/-- A read waits, is held to the commit of its block, or is performed once its block has noted it. -/
theorem CoreCtx.Fires.read {kind va : Nat} {sp : Span} {acq : Bool} : x.Fires s (x.read s lsid kind va sp acq) := by
  unfold CoreCtx.read
  split
  · exact .waits
  · exact .puts _
  · exact .reads _ kind _ _ sp

theorem CoreCtx.Fires.load {y : Nat} {acq : Bool} : x.Fires s (x.load s lsid y acq) := .checked (fun _ => .read)

theorem CoreCtx.Fires.storeElem {y m : Nat} {release : Option Nat} : x.Fires s (x.storeElem s lsid y m release) :=
  .checked (fun _ => .ite (.puts _) (.puts _))

theorem CoreCtx.Fires.tillLines {g : Bool} : x.Fires s (x.tillLines s lsid g) := .checked (fun _ => .puts _)

theorem CoreCtx.Fires.atomic {t : BitVec 9} {order scope : Nat} {a : AtomOp} : x.Fires s (x.atomic s lsid t order scope a) :=
  .checked (fun _ => .ite (.puts _) (.puts _))

theorem CoreCtx.Fires.request {e op count scope : Nat} : x.Fires s (x.request s lsid e op count scope) :=
  .ite (.puts _) (.ite (.puts _) (.checked (fun _ => .puts _)))

theorem CoreCtx.Fires.moveTile {v : DWord} {wr : Bool} {op : Nat → List Span → TileOp} : x.Fires s (x.moveTile s lsid v wr op) := by
  refine .ite (.puts _) ?_
  split
  · exact .puts _
  · exact .ite (.puts _) (.puts _)

theorem CoreCtx.Fires.checkpoint {yield : Bool} : x.Fires s (x.checkpoint s lsid yield) :=
  .ite (.puts _) (.ite (.checked (fun _ => .puts _)) (.puts _))

end

/-! ### Instructions of C-blocks with a form of their own -/

section
variable {s t : State} {p : BitVec 2}

theorem execGetr_wordFires {d : BitVec 9} {k : BitVec 5} (h : execGetr p d k s = .next t) : WordFires s t :=
  execCore_wordFires h (fun _ => by
    split
    · exact .puts _
    · exact .waits)

theorem execInMrk_wordFires {d : BitVec 9} {n : BitVec 5} (h : execInMrk p d n s = .next t) : WordFires s t :=
  execCore_wordFires h (fun _ => by
    split
    · exact .waits
    · exact .puts _)

theorem execPres_wordFires {d : BitVec 9} {l : BitVec 5} (h : execPres p d l s = .next t) : WordFires s t :=
  execCore_wordFires h (fun _ => by
    dsimp only
    split
    · exact .puts _
    · exact .checked (fun _ => .read))

theorem execResp_wordFires {d : BitVec 9} {l : BitVec 5} {e : BitVec 4} (h : execResp p d l e s = .next t) : WordFires s t :=
  execCore_wordFires h (fun _ => by
    refine .ite .waits ?_
    split
    · exact .waits
    · exact .puts _
    · split
      · exact .waits
      · exact .puts _)

theorem execWloadW_wordFires (h : execWloadW p s = .next t) : WordFires s t :=
  execCore_wordFires h (fun _ => by
    refine .ite .waits (.ite (.puts _) ?_)
    split
    · exact .puts _
    · split
      · exact .puts _
      · exact .puts _)

end

/-! ### Instructions with a meaning in each kind of block -/

section
variable {s t : State} {p : BitVec 2}

theorem execInPort_wordFires {d : BitVec 9} {n : BitVec 5} {k : BitVec 1} {j : BitVec 4} (h : execInPort p d n k j s = .next t) : WordFires s t :=
  execBoth_wordFires h (fun _ => by
    split
    · exact .waits
    · exact .ite (.puts _) (.puts _)) (fun _ => rfl)

theorem execSegn_wordFires {n : BitVec 8} {q : BitVec 5} (h : execSegn p n q s = .next t) : WordFires s t :=
  execBoth_wordFires h (fun _ => by
    split
    · exact .waits
    · exact .puts _) (fun _ => rfl)

theorem execGenofIn_wordFires {d u : BitVec 9} (h : execGenofIn p d u s = .next t) : WordFires s t :=
  execBoth_wordFires h (fun _ => by
    refine .ite (.puts _) ?_
    split
    · exact .waits
    · exact .puts _) (fun _ => rfl)

end

/-- An instruction that makes a record changes the firing of its element alone (R315). -/
theorem execRecNew_wordFires {s t : State} {p : BitVec 2} {d u : BitVec 9} {n : BitVec 4} (h : execRecNew p d u n s = .next t) : WordFires s t :=
  execElem_wordFires h (fun _ => by split <;> rfl)

/-- A record instruction changes the firing of its element alone, whether it takes its lanes or faults (R315). -/
theorem ElemCtx.record_firing (x : ElemCtx) (s : State) (p : BitVec 2) (ts : List (BitVec 9)) (g : List LaneV → Img → List LaneV) :
    x.record s p ts g = { s with firing := (x.record s p ts g).firing } := by
  unfold ElemCtx.record
  dsimp only
  repeat' split
  all_goals rfl

/-! ### Every word -/

/-- Whatever an instruction word does, it does in one of these ways. -/
theorem exec_wordFires {i : Instr} {s t : State} (h : exec i s = .next t) : isEvent i = true ∨ WordFires s t := by
  unfold exec at h
  cases i with
  | nop | movi | movk | add | addi | sub | mul | mulh | div | rem | adds | subs | min | max | abs | neg | lea | andB | orB | xorB | andn | notB | shl |
    shr | shra | rot | clz | popc | bfx | bfi | cmp | testBits | sel | stkg | stks | stkc | fadd | fsub | fmul | ffma | fdiv | fsqrt | fmin | fmax |
    fabs | fneg | fcmp | fclass | fexp2 | flog2 | frcp | frsq | ftanh | cvt | narrow | final | scale | mxsc | dot4 | dot8 | addp | shlp | shrp | bperm |
    rng | genofPrec => exact .inr (execAlu_wordFires h)
  | outPort | outm | mrk | segl | ctxsw => exact .inr (execBoth_wordFires h (fun _ => .puts _) (fun _ => rfl))
  | inPort => exact .inr (execInPort_wordFires h)
  | segn => exact .inr (execSegn_wordFires h)
  | genofIn => exact .inr (execGenofIn_wordFires h)
  | leaBlk | inCnt | inSpc | inAcc | strmAcc | fgstage | fgseed | fence | xwait | barArr | barWait | graise | gidxIdx | gidxCnt | tdone | trap | sysc |
    brk | perfCfg | perfClr | haltdStop | haltdFrz => exact .inr (execCore_wordFires h (fun _ => .puts _))
  | getr => exact .inr (execGetr_wordFires h)
  | setr | nullw => exact .inr (execCore_wordFires h (fun _ => .name))
  | getc => exact .inr (execCore_wordFires h (fun _ => .ite .waits (.ite (.puts _) (.puts _))))
  | setc => exact .inr (execCore_wordFires h (fun _ => .ite .waits (.ite (.puts _) (.ite (.puts _) (.puts _)))))
  | perfRd | perfCnt | fgstat => exact .inr (execCore_wordFires h (fun _ => .ite .waits (.puts _)))
  | bx | callb => exact .inr (execCore_wordFires h (fun _ => .leave))
  | bxr | retb => exact .inr (execCore_wordFires h (fun _ => .leaveTo))
  | eret => exact .inr (execCore_wordFires h (fun _ => .ite (.puts _) .leave))
  | inMrk => exact .inr (execInMrk_wordFires h)
  | strmMem => exact .inr (execCore_wordFires h (fun _ => .ite (.puts _) (.checked (fun _ => .puts _))))
  | strmTile => exact .inr (execCore_wordFires h (fun _ => .ite .waits (.ite (.puts _) (.puts _))))
  | strmDrain | barInit | spawn | tlbi | sortcfg => exact .inr (execCore_wordFires h (fun _ => .ite (.puts _) (.puts _)))
  | ld | lda => exact .inr (execCore_wordFires h (fun _ => .load))
  | ldi => exact .inr (execCore_wordFires h (fun _ => .checked (fun _ => .read)))
  | ldimg => exact .inr (execCore_wordFires h (fun _ => .ite (.checked (fun _ => .read)) (.checked (fun _ => .read))))
  | st | stl => exact .inr (execCore_wordFires h (fun _ => .storeElem))
  | stimg =>
    exact .inr (execCore_wordFires h (fun _ => .ite (.checked (fun _ => .puts _)) (.checked (fun _ => .ite (.puts _) (.puts _)))))
  | till | tillg => exact .inr (execCore_wordFires h (fun _ => .tillLines))
  | pres => exact .inr (execPres_wordFires h)
  | atom | fatom => exact .inr (execCore_wordFires h (fun _ => .atomic))
  | cpyl | gath | scat | coll => exact .inr (execCore_wordFires h (fun _ => .request))
  | resp => exact .inr (execResp_wordFires h)
  | xfence => exact .inr (execCore_wordFires h (fun _ => .ite .waits (.puts _)))
  | tld | tst => exact .inr (execCore_wordFires h (fun _ => .ite .waits .moveTile))
  | tzero | treshape | tmov | tfill | wloadT | wswap | mma | mmas | accz | accd | topk =>
    exact .inr (execCore_wordFires h (fun _ => .tileOp))
  | wloadW => exact .inr (execWloadW_wordFires h)
  | launchp | prune | seqOpen | seqClose => exact .inr (execCore_wordFires h (fun _ => .laneAsk))
  | ckptCont | ckptYield => exact .inr (execCore_wordFires h (fun _ => .checkpoint))
  | sdcvt | sdadd | sdmul | sdcut | sdcmp | sdtowf | rsum | rmax | rmin | steer | merge | omerge | recirc | guess =>
    exact .inr (execElem_wordFires h (fun _ => rfl))
  | recNew => exact .inr (execRecNew_wordFires h)
  | recGet | recSet | recDone | recRej => exact .inr (execElem_wordFires h (fun x => x.record_firing s _ _ _))
  | _ => exact .inl rfl

end Sys2Proof.Machine
end

section
/-! SUPPORT. What the firing of a slot of a C-block leaves as it was, around its page core and in it (R247 to R249, R199, R200, R223, R333). -/
namespace Sys2Proof.Machine

/-! ### What a read does that is performed -/

/-- What can come of a read of a page core that is performed: nothing, data that sets out at once, an error recorded, a wait at the bank, or data that
sets out once the errors that it meets are corrected or logged and the hosts are asked, an older value where the read promises invariance. -/
inductive ReadDoes (s : State) (c : CoreRef) (uid slot gen : Nat) (sp : Span) : State → Prop
  | nothing : ReadDoes s c uid slot gen sp s
  | responds (k : Nat) (bs : List Byte) : ReadDoes s c uid slot gen sp (s.respond c uid slot k bs sp)
  | fails (bad : s.eccBad (spanPas sp) = true) : ReadDoes s c uid slot gen sp ((s.eccMeet (spanPas sp)).readError c uid slot sp)
  | waits (k : Nat) : ReadDoes s c uid slot gen sp (s.defer (.core c uid slot k) sp gen)
  | reads (k : Nat) (bs : List Byte) : ReadDoes s c uid slot gen sp (((s.eccMeet (spanPas sp)).askSpan sp).respond c uid slot k bs sp)
  | readsOlder (k : Nat) (bs : List Byte) :
    ReadDoes s c uid slot gen sp ((((s.eccMeet (spanPas sp)).askSpan sp).useFree 1).respond c uid slot k bs sp)

theorem performRead_does (s : State) (c : CoreRef) (uid slot kind gen : Nat) (ws : List (Span × List Byte)) (sp : Span) :
    ReadDoes s c uid slot gen sp (performRead s c uid slot kind gen ws sp) := by
  unfold performRead
  split
  · split
    · exact .nothing
    · exact .responds _ _
  · split
    · exact .responds _ _
    · split
      · next hbad => exact .fails hbad
      · split
        · exact .waits _
        · split
          · dsimp only
            split
            · exact .reads _ _
            · exact .readsOlder _ _
          · exact .waits _

/-! ### What is left out of account -/

/-- A state without what the firing of a slot of a C-block changes: page cores, loads that wait at banks, memory errors and what they add to dies and
launches, requests to hosts, and the counters of arrivals and free values. -/
def State.beyondFiring (s : State) : State :=
  { s with cores := [], deferred := [], fresh := 0, ecc := [], dies := State.reset.dies, arrivals := 0, outbox := [], ports := State.reset.ports,
           launches := [] }

/-- A page core without its blocks in flight, the data on its way to them, and its deferred fault. -/
def PageCore.beyondFiring (p : PageCore) : PageCore := { p with blocks := [], responses := [], deferred := none }

/-- The records of the launches, which nothing changes once a launch is accepted. -/
def State.records (s : State) : List (BitVec 512) := s.launches.map Launch.record

/-- What the firing of a slot of page core c leaves as it was. -/
structure FiringFrame (c : CoreRef) (s t : State) : Prop where
  rest : t.beyondFiring = s.beyondFiring
  dies : t.apart = s.apart
  records : t.records = s.records
  sent : s.outbox <+: t.outbox
  self : (t.core c).beyondFiring = (s.core c).beyondFiring
  inFlight : (t.core c).blocks.length = (s.core c).blocks.length
  others : ∀ d, d ≠ c → t.core d = s.core d

namespace FiringFrame

theorem refl (c : CoreRef) (s : State) : FiringFrame c s s := ⟨rfl, rfl, rfl, List.prefix_rfl, rfl, rfl, fun _ _ => rfl⟩

theorem trans {c : CoreRef} {s t u : State} (h : FiringFrame c s t) (k : FiringFrame c t u) : FiringFrame c s u :=
  ⟨k.rest.trans h.rest, k.dies.trans h.dies, k.records.trans h.records, h.sent.trans k.sent, k.self.trans h.self, k.inFlight.trans h.inFlight,
    fun d hd => (k.others d hd).trans (h.others d hd)⟩

/-- What changes no page core. -/
theorem of_cores {c : CoreRef} {s t : State} (hcores : t.cores = s.cores) (rest : t.beyondFiring = s.beyondFiring) (dies : t.apart = s.apart)
    (records : t.records = s.records) (sent : s.outbox <+: t.outbox) : FiringFrame c s t := by
  have hcore (d : CoreRef) : t.core d = s.core d := by rw [State.core, hcores, ← State.core]
  exact ⟨rest, dies, records, sent, by rw [hcore], by rw [hcore], fun d _ => hcore d⟩

/-- What changes its page core alone. -/
theorem setCore {c : CoreRef} {s : State} {p : PageCore} (self : p.beyondFiring = (s.core c).beyondFiring)
    (inFlight : p.blocks.length = (s.core c).blocks.length) : FiringFrame c s (s.setCore c p) := by
  refine ⟨rfl, rfl, rfl, List.prefix_rfl, ?_, ?_, fun d hd => s.setCore_core_of_ne hd p⟩
  · rw [s.setCore_core, self]
  · rw [s.setCore_core, inFlight]

theorem foldl {α : Type} {c : CoreRef} {f : State → α → State} (hf : ∀ s x, FiringFrame c s (f s x)) :
    ∀ (l : List α) (s : State), FiringFrame c s (l.foldl f s)
  | [], s => refl c s
  | x :: l, s => (hf s x).trans (foldl hf l (f s x))

end FiringFrame

/-! ### What goes out to hosts -/

theorem State.sendFlit_outbox (s : State) (port dst vc type : Nat) (payload : List Byte) :
    s.outbox <+: (s.sendFlit port dst vc type payload).outbox := by
  unfold State.sendFlit State.putFlit
  dsimp only
  repeat' split
  all_goals simp [State.send]

theorem foldl_outbox {α : Type} {f : State → α → State} (hf : ∀ s x, s.outbox <+: (f s x).outbox) :
    ∀ (l : List α) (s : State), s.outbox <+: (l.foldl f s).outbox
  | [], _ => List.prefix_rfl
  | x :: l, s => (hf s x).trans (foldl_outbox hf l (f s x))

theorem State.memFlits_outbox (s : State) (port node vc type : Nat) (bytes : List Byte) : s.outbox <+: (s.memFlits port node vc type bytes).outbox :=
  foldl_outbox (fun s _ => s.sendFlit_outbox _ _ _ _ _) _ (s.useFree 1)

theorem State.hostAsk_outbox (s : State) (node addr len : Nat) : s.outbox <+: (s.hostAsk node addr len).outbox := by
  unfold State.hostAsk
  split
  · refine List.IsPrefix.trans ?_ (State.memFlits_outbox _ _ _ _ _ _)
    exact List.prefix_append _ _
  · exact List.prefix_rfl

theorem State.askSpan_outbox (s : State) (sp : Span) : s.outbox <+: (s.askSpan sp).outbox := by
  refine foldl_outbox (fun s e => ?_) sp s
  split
  · exact s.hostAsk_outbox _ _ _
  · exact List.prefix_rfl

/-! ### The steps of a firing -/

section
variable (s : State) (c : CoreRef)

theorem State.askSpan_firingFrame (sp : Span) : FiringFrame c s (s.askSpan sp) := by
  have hsent := s.askSpan_outbox sp
  rw [s.askSpan_frame sp] at hsent ⊢
  exact .of_cores rfl rfl rfl rfl hsent

theorem State.useFree_firingFrame (n : Nat) : FiringFrame c s (s.useFree n) := .of_cores rfl rfl rfl rfl List.prefix_rfl

theorem State.defer_firingFrame (who : Waiter) (sp : Span) (gen : Nat) : FiringFrame c s (s.defer who sp gen) :=
  .of_cores rfl rfl rfl rfl List.prefix_rfl

theorem State.updDie_firingFrame (n : Nat) {f : Die → Die} (hf : ∀ x, (f x).apart = x.apart) : FiringFrame c s (s.updDie n f) := by
  refine .of_cores (s.updDie_cores n f) ?_ (s.updDie_apart n hf) (congrArg (List.map Launch.record) (s.updDie_launches n f)) ?_
  · unfold State.updDie
    split <;> rfl
  · rw [s.updDie_outbox]

theorem State.dieTime_firingFrame (d : Nat) : FiringFrame c s (s.dieTime d) :=
  (s.updDie_firingFrame c d (fun _ => by rfl)).trans (State.useFree_firingFrame _ c 1)

theorem State.eccAt_firingFrame (pa : Nat) : FiringFrame c s (s.eccAt pa) := by
  unfold State.eccAt
  dsimp only
  split
  · exact .refl c s
  · have hlog (f : Die → Die) (hf : ∀ x, (f x).apart = x.apart) : FiringFrame c s ((s.dieTime (dieOf pa)).updDie (dieOf pa) f) :=
      (s.dieTime_firingFrame c _).trans (State.updDie_firingFrame _ c _ hf)
    split
    · exact hlog _ (by intro x; rfl)
    · exact (hlog _ (by intro x; rfl)).trans (.of_cores rfl rfl rfl rfl List.prefix_rfl)

theorem State.eccMeet_firingFrame (pas : List Nat) : FiringFrame c s (s.eccMeet pas) := .foldl (fun s _ => s.eccAt_firingFrame c _) _ s

theorem State.respond_firingFrame (uid slot kind : Nat) (bs : List Byte) (sp : Span) : FiringFrame c s (s.respond c uid slot kind bs sp) :=
  (FiringFrame.of_cores rfl rfl rfl rfl List.prefix_rfl : FiringFrame c s { s with arrivals := s.arrivals + 1 }).trans (.setCore rfl rfl)

theorem State.endWith_records (lid : Nat) (e : EndRec) : (s.endWith lid e).records = s.records := by
  refine (List.map_map).trans (List.map_congr_left (fun l _ => ?_))
  dsimp only [Function.comp_apply]
  split
  · split <;> rfl
  · rfl

theorem endLaunch_firingFrame (status detail : Nat) : FiringFrame c s (endLaunch s c status detail) :=
  .of_cores rfl rfl rfl (s.endWith_records _ _) List.prefix_rfl

theorem latchFault_firingFrame (code va lsid : Nat) : FiringFrame c s (latchFault s c code va lsid) := by
  unfold latchFault
  dsimp only
  split
  · exact endLaunch_firingFrame s c _ _
  · split <;> exact .setCore rfl rfl

theorem State.readError_firingFrame (uid slot : Nat) (sp : Span) : FiringFrame c s (s.readError c uid slot sp) := by
  unfold State.readError
  dsimp only
  split
  · exact (s.respond_firingFrame c _ _ _ _ _).trans (latchFault_firingFrame _ c _ _ _)
  · exact .setCore rfl (List.length_map _)

/-- Whatever a read does that is performed, it leaves what a firing leaves. -/
theorem ReadDoes.firingFrame {t : State} {uid slot gen : Nat} {sp : Span} (h : ReadDoes s c uid slot gen sp t) : FiringFrame c s t := by
  have hmeet := s.eccMeet_firingFrame c (spanPas sp)
  have hask := hmeet.trans (State.askSpan_firingFrame _ c sp)
  cases h with
  | nothing => exact .refl c s
  | responds k bs => exact s.respond_firingFrame c _ _ _ _ _
  | fails _ => exact hmeet.trans (State.readError_firingFrame _ c _ _ _)
  | waits k => exact s.defer_firingFrame c _ _ _
  | reads k bs => exact hask.trans (State.respond_firingFrame _ c _ _ _ _ _)
  | readsOlder k bs => exact hask.trans ((State.useFree_firingFrame _ c 1).trans (State.respond_firingFrame _ c _ _ _ _ _))

end

theorem CoreCtx.put_firingFrame {x : CoreCtx} {s : State} (h : x.pc = s.core x.c) (b : Block) : FiringFrame x.c s (x.put s b) := by
  rw [put_eq h]
  exact .setCore rfl (setAt_length _ _ _)

theorem CoreCtx.Fires.firingFrame {x : CoreCtx} {s t : State} (hpc : x.pc = s.core x.c) (h : x.Fires s t) : FiringFrame x.c s t := by
  cases h with
  | waits => exact .refl x.c s
  | puts b => exact CoreCtx.put_firingFrame hpc b
  | reads b kind gen ws sp => exact (CoreCtx.put_firingFrame hpc b).trans (ReadDoes.firingFrame _ x.c (performRead_does ..))

/-! ### What the frame says of a state -/

section
variable {c : CoreRef} {s t : State} (h : FiringFrame c s t)
include h

theorem FiringFrame.firing : t.firing = s.firing := (congrArg State.firing h.rest :)

/-- A state is the one before the firing with what a firing may change. -/
theorem FiringFrame.eq :
    t = { s with cores := t.cores, firing := t.firing, deferred := t.deferred, fresh := t.fresh, ecc := t.ecc, dies := t.dies, arrivals := t.arrivals,
                 outbox := t.outbox, ports := t.ports, launches := t.launches } :=
  (congrArg (fun u : State => { u with
    cores := t.cores, firing := t.firing, deferred := t.deferred, fresh := t.fresh, ecc := t.ecc, dies := t.dies, arrivals := t.arrivals
    outbox := t.outbox, ports := t.ports, launches := t.launches }) h.rest :)

theorem FiringFrame.core (d : CoreRef) :
    t.core d = { s.core d with blocks := (t.core d).blocks, responses := (t.core d).responses, deferred := (t.core d).deferred } := by
  have hd : (t.core d).beyondFiring = (s.core d).beyondFiring := by
    by_cases hdc : d = c
    · rw [hdc, h.self]
    · rw [h.others d hdc]
  exact (congrArg (fun p : PageCore => { p with
    blocks := (t.core d).blocks, responses := (t.core d).responses, deferred := (t.core d).deferred }) hd :)

end

/-! ### Where no memory error stands -/

/-- What memory errors may change: the errors that stand, dies, launches, and the deferred faults of the page cores. -/
def State.errs (s : State) : List (Nat × Nat × Bool) × Vector Die 17 × List Launch × (CoreRef → Option DFault) :=
  (s.ecc, s.dies, s.launches, fun c => (s.core c).deferred)

section
variable (s : State) (c : CoreRef)

theorem State.setCore_errs {p : PageCore} (h : p.deferred = (s.core c).deferred) : (s.setCore c p).errs = s.errs := by
  have hfaults : (fun d => ((s.setCore c p).core d).deferred) = fun d => (s.core d).deferred := by
    funext d
    by_cases hd : d = c
    · rw [hd, s.setCore_core, h]
    · rw [s.setCore_core_of_ne hd]
  exact congrArg (fun f => (s.ecc, s.dies, s.launches, f)) hfaults

theorem State.respond_errs (uid slot kind : Nat) (bs : List Byte) (sp : Span) : (s.respond c uid slot kind bs sp).errs = s.errs :=
  State.setCore_errs { s with arrivals := s.arrivals + 1 } c rfl

theorem State.askSpan_errs (sp : Span) : (s.askSpan sp).errs = s.errs := by
  rw [s.askSpan_frame sp]
  rfl

/-- A read meets no error where none stands. -/
theorem ReadDoes.errs {t : State} {uid slot gen : Nat} {sp : Span} (h : ReadDoes s c uid slot gen sp t) (hecc : s.ecc = []) : t.errs = s.errs := by
  have hin : s.eccIn (spanPas sp) = [] := by rw [State.eccIn, hecc, List.filter_nil]
  have hmeet : s.eccMeet (spanPas sp) = s := State.eccMeet_of_eccIn_nil hin
  have hbad : s.eccBad (spanPas sp) = false := by rw [State.eccBad, hin, List.any_nil]
  have hask := s.askSpan_errs sp
  cases h with
  | nothing => rfl
  | responds k bs => exact s.respond_errs c _ _ _ _ _
  | fails herr =>
    rw [hbad] at herr
    exact absurd herr Bool.false_ne_true
  | waits k => rfl
  | reads k bs =>
    rw [hmeet]
    exact (State.respond_errs _ c _ _ _ _ _).trans hask
  | readsOlder k bs =>
    rw [hmeet]
    exact (State.respond_errs _ c _ _ _ _ _).trans hask

end

/-- States that agree in what memory errors change. -/
theorem State.eq_of_errs {s t : State} (h : t.errs = s.errs) :
    t.ecc = s.ecc ∧ t.dies = s.dies ∧ t.launches = s.launches ∧ ∀ c, (t.core c).deferred = (s.core c).deferred := by
  obtain ⟨hecc, hrest⟩ := Prod.mk.inj h
  obtain ⟨hdies, hrest⟩ := Prod.mk.inj hrest
  obtain ⟨hlaunches, hfaults⟩ := Prod.mk.inj hrest
  exact ⟨hecc, hdies, hlaunches, congrFun hfaults⟩

theorem CoreCtx.put_errs {x : CoreCtx} {s : State} (h : x.pc = s.core x.c) (b : Block) : (x.put s b).errs = s.errs := by
  rw [put_eq h]
  exact s.setCore_errs x.c rfl

theorem CoreCtx.Fires.errs {x : CoreCtx} {s t : State} (hpc : x.pc = s.core x.c) (h : x.Fires s t) (hecc : s.ecc = []) : t.errs = s.errs := by
  cases h with
  | waits => rfl
  | puts b => exact CoreCtx.put_errs hpc b
  | reads b kind gen ws sp => exact (ReadDoes.errs (x.put s b) x.c (performRead_does ..) hecc).trans (CoreCtx.put_errs hpc b)

/-! ### Bytes of memory -/

theorem State.late_of_apart {s t : State} (h : t.apart = s.apart) (n : Nat) (hn : n < 17) : t.dies[n].late = s.dies[n].late := by
  have hx : (t.die n).late = (s.die n).late := (congrArg Die.late (State.die_apart_congr h n) :)
  simpa [State.die, hn] using hx

/-- Reading a register depends on no die but for its count of late responses, and on nothing else that a firing changes. -/
theorem FiringFrame.regRead {c : CoreRef} {s t : State} (h : FiringFrame c s t) (pa : Nat) : regRead t pa = regRead s pa := by
  have hlate := State.late_of_apart h.dies
  simp only [Machine.regRead, hlate]
  rw [h.eq]
  rfl

/-- Where the model keeps the records of launches, a byte depends on the records alone. -/
theorem State.physByte_of_record {s : State} {a : Nat} (ha : recordBase ≤ a) :
    s.physByte a = ((s.records.find? (fun r => r.toNat / 2 ^ 192 % 2 ^ 32 == (a - recordBase) / 64)).map
      (fun r => BitVec.ofNat 8 (r.toNat / 256 ^ (a % 64)))).getD 0 := by
  rw [State.physByte, if_pos ha, State.records, List.find?_map, Function.comp_def]
  cases s.launches.find? (fun l => l.record.toNat / 2 ^ 192 % 2 ^ 32 == (a - recordBase) / 64) <;> rfl

/-- A firing leaves every byte of memory but those of hosts, whose memory is outside the package. -/
theorem FiringFrame.physByte {c : CoreRef} {s t : State} (h : FiringFrame c s t) {a : Nat} (ha : ∀ n b, regionOf a ≠ .host n b) :
    t.physByte a = s.physByte a := by
  by_cases hrec : recordBase ≤ a
  · rw [State.physByte_of_record hrec, State.physByte_of_record hrec, h.records]
  · have hmem : Memory.read t.mem (physKey t a) = Memory.read s.mem (physKey s a) := by
      rw [h.eq]
      rfl
    simp only [State.physByte, if_neg hrec, h.regRead, hmem]
    split
    · rfl
    · rfl
    · next n b hhost => exact absurd hhost (ha n b)
    · rfl

/-! ### The obligation -/

/-- Settles O39: a word waits, changes the firing of its element, puts its block back, or performs a read (`exec_wordFires`); each leaves what the
frame says (`FiringFrame`), and only a read meets errors, where some stand. -/
theorem wordFrame : Obligations.WordFrame := by
  unfold Obligations.WordFrame
  intro i s t hword h
  obtain hevent | hfires := exec_wordFires h
  · exact absurd (hword.symm.trans hevent) Bool.false_ne_true
  cases hfires with
  | waits =>
    exact ⟨fun _ _ => rfl, rfl, List.prefix_rfl, fun hecc => ⟨hecc, rfl, rfl, fun _ => rfl⟩, fun _ => rfl,
      fun _ _ _ _ => ⟨rfl, fun _ _ => rfl, rfl⟩, fun _ _ => rfl⟩
  | elem slot hfocus f =>
    refine ⟨fun _ _ => rfl, rfl, List.prefix_rfl, fun hecc => ⟨hecc, rfl, rfl, fun _ => rfl⟩, fun _ => rfl,
      fun c bi slot' hcore => ?_, fun _ _ => rfl⟩
    rw [hfocus] at hcore
    cases hcore
  | core x hfocus hpc hfires =>
    have hframe := hfires.firingFrame hpc
    refine ⟨fun a ha => hframe.physByte ha, hframe.eq, hframe.sent, fun hecc => ?errs, hframe.core,
      fun c bi slot hcore => ?own, fun slot helem => ?other⟩
    case errs =>
      obtain ⟨hecc', hrest⟩ := State.eq_of_errs (hfires.errs hpc hecc)
      exact ⟨hecc'.trans hecc, hrest⟩
    case own =>
      rw [hfocus] at hcore
      cases hcore
      exact ⟨hframe.firing, hframe.others, hframe.inFlight⟩
    case other =>
      rw [hfocus] at helem
      cases helem

end Sys2Proof.Machine
end

section
/-! SUPPORT. The encodings of the instruction words (R254 to R257): what the fields of a word are, that the decoder reads what the encoder writes
and nothing else, and the obligations on decoding. -/
namespace Sys2Proof

/-! ### Fields of a word -/

/-- Two fields side by side make a word exactly when each is what the word holds in its place. The width of the word stays out of the index of
`simp`, to which `8 + 24` and `32` are not the same. -/
theorem append_eq_iff {m n : Nat} (x : BitVec m) (y : BitVec n) (w : BitVec (no_index (m + n))) :
    @Eq (BitVec (no_index (m + n))) (@HAppend.hAppend _ _ (BitVec (no_index (m + n))) _ x y) w ↔ x = w.extractLsb' n m ∧ y = w.extractLsb' 0 n := by
  constructor
  · rintro rfl
    exact ⟨BitVec.eq_of_getLsbD_eq fun i hi => by simp [hi, BitVec.getLsbD_append],
      BitVec.eq_of_getLsbD_eq fun i hi => by simp [hi, BitVec.getLsbD_append]⟩
  · rintro ⟨rfl, rfl⟩
    rw [BitVec.extractLsb'_append_extractLsb'_eq_extractLsb' (by simp)]
    simp

/-- A field of a field is a field of the word. -/
theorem extractLsb'_extractLsb'_of_le {k n m a b : Nat} (w : BitVec k) (h : b + m ≤ n) :
    (w.extractLsb' a n).extractLsb' b m = w.extractLsb' (a + b) m :=
  BitVec.eq_of_getLsbD_eq fun i hi => by
    have : b + i < n := by omega
    simp [this, Nat.add_assoc, hi]

/-- The opcode of a word, as the decoder reads it. -/
theorem opcode_eq_iff {k : BitVec 8} {w : Word} : k = w.extractLsb' 24 8 ↔ (bitsAt w 24 8).toNat = k.toNat := by
  rw [eq_comm, ← BitVec.toNat_inj]; rfl

/-- Bits 12:7 of `in.acc`, of which bits 12:10 are the selector that tells it from the other forms of IN (R311). -/
theorem inSelector_of_inAcc {w : Word} (h : w.extractLsb' 7 6 = 24) : w.extractLsb' 10 3 = 3 := by
  rw [← extractLsb'_extractLsb'_of_le (n := 6) (a := 7) (b := 3) w (by decide), h]
  rfl

/-! ### What is encoded decodes, and what decodes was encoded -/

/-- The encoding of each instruction says what the fields of the word are; its opcode then chooses the arm of the decoder and its fixed bits the
branch of the arm. -/
theorem decodeFields_of_encode {i : Instr} {w : Word} (h : encode i = some w) : decodeFields w = .ok i := by
  unfold decodeFields
  generalize ho : (bitsAt w 24 8).toNat = k
  cases i
  all_goals
    simp only [encode, append_eq_iff, extractLsb'_extractLsb'_of_le, Option.some.injEq, Nat.reduceAdd, Nat.reduceLeDiff, and_assoc, reduceCtorEq] at h
  all_goals
    obtain ⟨hk, h⟩ := h
    simp only [opcode_eq_iff.1 hk, BitVec.reduceToNat] at ho
    subst ho
    with_reducible_and_instances conv => lhs; whnf
    simp only [bitsAt, ← h, BitVec.ofNat_eq_ofNat, BitVec.reduceEq, and_self, ↓reduceIte, false_and, and_false]
  case leaBlk =>
    obtain ⟨-, -, -, hlow⟩ := h
    rw [← extractLsb'_extractLsb'_of_le (n := 4) (a := 0) (b := 2) w (by decide), ← hlow]
    rfl
  case inAcc =>
    obtain ⟨-, -, hsel, -⟩ := h
    rw [inSelector_of_inAcc hsel.symm]
    rfl
  case inMrk =>
    obtain ⟨-, -, hsel, -⟩ := h
    refine if_neg fun hacc => ?_
    rw [inSelector_of_inAcc hacc.1] at hsel
    exact absurd hsel (by decide)

/-- Each arm of the decoder that gives an instruction has read the opcode and the fixed bits that the encoder writes for it, and every other bit of
the word stands in an operand. -/
theorem encode_of_decodeFields {i : Instr} {w : Word} (h : decodeFields w = .ok i) : encode i = some w := by
  unfold decodeFields at h
  dsimp only at h
  split at h
  all_goals repeat' split at h
  all_goals simp only [reduceCtorEq, Except.ok.injEq] at h
  all_goals
    subst h
    simp_all only [encode, append_eq_iff, extractLsb'_extractLsb'_of_le, Option.some.injEq, Nat.reduceAdd, Nat.reduceLeDiff,
      opcode_eq_iff, BitVec.reduceToNat, bitsAt, BitVec.ofNat_eq_ofNat, and_self]

/-- A word decodes to the well-formed instruction that it encodes, and to no other. -/
theorem decodeWord_eq_ok_iff {i : Instr} {w : Word} : decodeWord w = .ok i ↔ i.wf ∧ encode i = some w := by
  constructor
  · intro h
    unfold decodeWord at h
    split at h
    next => cases h
    next j hj =>
      split at h
      next hwf =>
        obtain rfl := Except.ok.inj h
        exact ⟨hwf, encode_of_decodeFields hj⟩
      next => cases h
  · rintro ⟨hwf, he⟩
    rw [decodeWord, decodeFields_of_encode he]
    exact if_pos hwf

/-! ### The obligations -/

/-- Settles O57: both directions are those of `decodeWord_eq_ok_iff`. -/
theorem encodeDecode : Obligations.EncodeDecode :=
  ⟨fun _ _ hwf he => decodeWord_eq_ok_iff.2 ⟨hwf, he⟩, fun _ _ h => decodeWord_eq_ok_iff.1 h⟩

/-- Settles O56: a word that decodes is the encoding of a well-formed instruction, which is seen by writing it out; the decoder refuses the other three. -/
theorem decodeWords : Obligations.DecodeWords := by
  refine ⟨?_, ?_, ?_, ?_, ?_, ?_, ?_, ?_, ?_, rfl, rfl, rfl⟩
  all_goals exact decodeWord_eq_ok_iff.2 ⟨rfl, rfl⟩

end Sys2Proof
end

section
/-! SUPPORT. Registers, exits and port reads of C-blocks (R247, R249, R250, R254, R265, R270, R271, R311, R326, R372), and the obligations on them. -/
namespace Sys2Proof.Machine

/-! ### A slot that gives, asks or is illegal -/

section
variable {x : CoreCtx} {s : State}

/-- A register that no slot of the block has named yet is named. -/
theorem CoreCtx.name_of_unnamed {k : Nat} {a : Act} (hpc : x.pc = s.core x.c) (h : ∀ d ∈ x.blk.done, d.act.named ≠ some k) :
    x.name s k a = s.putBlock x.c x.bi (x.blk.asks x.slot 0 a) := by
  rw [CoreCtx.name, named_false.2 h]
  exact ask_eq hpc 0 a

/-- R250: a second naming of a register is ILLEGAL_INSN. -/
theorem CoreCtx.name_of_named {k : Nat} {a : Act} (hpc : x.pc = s.core x.c) (h : ∃ d ∈ x.blk.done, d.act.named = some k) :
    x.name s k a = s.putBlock x.c x.bi (x.blk.fail 1 (x.blk.word x.slot) 0) := by
  rw [CoreCtx.name, named_true.2 h]
  exact illegal_eq hpc 0

/-- The first exit of a block asks for the commit. -/
theorem CoreCtx.leave_of_first {a : Act} (hpc : x.pc = s.core x.c) (h : ∀ d ∈ x.blk.done, d.act.exits = false) :
    x.leave s a = s.putBlock x.c x.bi (x.blk.asks x.slot 0 a) := by
  rw [CoreCtx.leave, exited_false.2 h]
  exact ask_eq hpc 0 a

/-- R250: a second exit is ILLEGAL_INSN. -/
theorem CoreCtx.leave_of_later {a : Act} (hpc : x.pc = s.core x.c) (h : ∃ d ∈ x.blk.done, d.act.exits) :
    x.leave s a = s.putBlock x.c x.bi (x.blk.fail 1 (x.blk.word x.slot) 0) := by
  rw [CoreCtx.leave, exited_true.2 h]
  exact illegal_eq hpc 0

/-- R270: an aligned address of the virtual space passes the checks of BXR and RETB. -/
theorem CoreCtx.leaveTo_of_ok {a : Act} (hal : 16 ∣ x.a.v.toNat) (hlt : x.a.v.toNat < 2 ^ 56) : x.leaveTo s a = x.leave s a := by
  rw [CoreCtx.leaveTo, if_neg (not_not.2 (Nat.mod_eq_zero_of_dvd hal)), if_neg (Nat.not_le.2 hlt)]

/-- R270: an address that no block can stand at is MISALIGNED. -/
theorem CoreCtx.leaveTo_of_misaligned {a : Act} (hpc : x.pc = s.core x.c) (h : ¬ 16 ∣ x.a.v.toNat) :
    x.leaveTo s a = s.putBlock x.c x.bi (x.blk.fail 3 x.a.v 0) := by
  rw [CoreCtx.leaveTo, if_pos (mt Nat.dvd_of_mod_eq_zero h)]
  exact fail_eq hpc 3 x.a.v 0

/-- R270: an aligned address beyond the virtual space is TRANSLATION. -/
theorem CoreCtx.leaveTo_of_beyond {a : Act} (hpc : x.pc = s.core x.c) (hal : 16 ∣ x.a.v.toNat) (hge : 2 ^ 56 ≤ x.a.v.toNat) :
    x.leaveTo s a = s.putBlock x.c x.bi (x.blk.fail 4 x.a.v 0) := by
  rw [CoreCtx.leaveTo, if_neg (not_not.2 (Nat.mod_eq_zero_of_dvd hal)), if_pos hge]
  exact fail_eq hpc 4 x.a.v 0

/-- R249: with `k` popping INs before it, all decided, a port instruction reads the beat behind them. -/
theorem CoreCtx.beatAt_of_before {n k : Nat} (h : x.countBelow (popsPort n) = (k, false)) : x.beatAt n = (x.pc.sinkQ n)[k]? := by
  rw [CoreCtx.beatAt, h]
  rfl

/-- A result without flags goes to the targets of its slot. -/
theorem CoreCtx.finish_eq {ts : List (BitVec 9)} {v : Img} (hpc : x.pc = s.core x.c) :
    x.finish s ts { img := v } = s.putBlock x.c x.bi (x.blk.computed x.slot ts ⟨v.v, v.s || x.ps⟩ {}) := put_eq hpc _

end

/-! ### Registers (O13) -/

section
variable (p : BitVec 2) (t : BitVec 9) (k : BitVec 5)

theorem computes_nop (u : BitVec 9) (y : BitVec 4) : ComputesInCore (.nop p t u y) p [] [] (fun _ _ _ _ => ({}, {})) :=
  computesInCore_of (f := fun _ _ _ _ => { img := {} }) pred_nil (fun _ => rfl) (fun _ _ _ _ _ _ _ _ _ _ => rfl)

theorem setr_asks : AsksInCore (.setr p k) p [.left] 0 (fun _ x => ∀ d ∈ x.blk.done, d.act.named ≠ some k.toNat)
    (fun _ x => .setr k.toNat ⟨x.a.v, x.a.s || x.ps⟩) :=
  firesInCore_of pred_left (fun _ => rfl) (fun _ _ hpc h => CoreCtx.name_of_unnamed hpc h)

theorem nullw_asks : AsksInCore (.nullw p k) p [] 0 (fun _ x => ∀ d ∈ x.blk.done, d.act.named ≠ some k.toNat) (fun _ _ => .nullr k.toNat) :=
  firesInCore_of pred_nil (fun _ => rfl) (fun _ _ hpc h => CoreCtx.name_of_unnamed hpc h)

theorem setr_fails : FailsInCore (.setr p k) p [.left] 0 (fun _ x => ∃ d ∈ x.blk.done, d.act.named = some k.toNat)
    (fun _ x => (1, x.blk.word x.slot)) :=
  firesInCore_of pred_left (fun _ => rfl) (fun _ _ hpc h => CoreCtx.name_of_named hpc h)

theorem nullw_fails : FailsInCore (.nullw p k) p [] 0 (fun _ x => ∃ d ∈ x.blk.done, d.act.named = some k.toNat)
    (fun _ x => (1, x.blk.word x.slot)) :=
  firesInCore_of pred_nil (fun _ => rfl) (fun _ _ hpc h => CoreCtx.name_of_named hpc h)

theorem getr_gives (v : Img) : GivesInCore (.getr p t k) p [] [t] (fun _ x => Sees x.pc k.toNat x.bi (some v)) (fun _ _ => v) :=
  firesInCore_of pred_nil (fun _ => rfl) (fun _ _ hpc h => by
    rw [getr_of_sees h]
    exact give_eq hpc t v)

theorem getr_waits : WaitsInCore (.getr p t k) p [] (fun _ x => Sees x.pc k.toNat x.bi none) :=
  firesInCore_of pred_nil (fun _ => rfl) (fun _ _ _ h => by rw [getr_of_sees h])

end

/-- Settles O13: what a block sees of a register (`Sees`) is what GETR reads; whether a register has been named decides between SETR or NULLW and
ILLEGAL_INSN. -/
theorem registerInstructions : Obligations.RegisterInstructions := fun p t u y k =>
  ⟨computes_nop p t u y, setr_asks p k, nullw_asks p k, setr_fails p k, nullw_fails p k, getr_gives p t k, getr_waits p t k⟩

/-! ### Exits (O15) -/

section
variable (p : BitVec 2) (e : BitVec 3) (f : BitVec 19)

/-- BXR and RETB check their address alike, whatever act they ask for. -/
theorem checkedExit_fails {i : Instr} {a : CoreCtx → Act} (hi : ∀ s, exec i s = execCore s p [.left] (fun x => x.leaveTo s (a x))) :
    FailsInCore i p [.left] 0 (fun _ x => (∃ d ∈ x.blk.done, d.act.exits) ∧ 16 ∣ x.a.v.toNat ∧ x.a.v.toNat < 2 ^ 56)
        (fun _ x => (1, x.blk.word x.slot))
      ∧ FailsInCore i p [.left] 0 (fun _ x => ¬ 16 ∣ x.a.v.toNat) (fun _ x => (3, x.a.v))
      ∧ FailsInCore i p [.left] 0 (fun _ x => 16 ∣ x.a.v.toNat ∧ 2 ^ 56 ≤ x.a.v.toNat) (fun _ x => (4, x.a.v)) :=
  ⟨firesInCore_of pred_left hi (fun _ _ hpc ⟨hlater, hal, hlt⟩ => (CoreCtx.leaveTo_of_ok hal hlt).trans (CoreCtx.leave_of_later hpc hlater)),
    firesInCore_of pred_left hi (fun _ _ hpc h => CoreCtx.leaveTo_of_misaligned hpc h),
    firesInCore_of pred_left hi (fun _ _ hpc ⟨hal, hge⟩ => CoreCtx.leaveTo_of_beyond hpc hal hge)⟩

theorem checkedExit_asks {i : Instr} {a : CoreCtx → Act} (hi : ∀ s, exec i s = execCore s p [.left] (fun x => x.leaveTo s (a x))) :
    AsksInCore i p [.left] 0 (fun _ x => (∀ d ∈ x.blk.done, d.act.exits = false) ∧ 16 ∣ x.a.v.toNat ∧ x.a.v.toNat < 2 ^ 56) (fun _ x => a x) :=
  firesInCore_of pred_left hi (fun _ _ hpc ⟨hfirst, hal, hlt⟩ => (CoreCtx.leaveTo_of_ok hal hlt).trans (CoreCtx.leave_of_first hpc hfirst))

/-- BX and CALLB name their block in the instruction and check nothing else. -/
theorem plainExit_asks {i : Instr} {a : CoreCtx → Act} (hi : ∀ s, exec i s = execCore s p [] (fun x => x.leave s (a x))) :
    AsksInCore i p [] 0 (fun _ x => ∀ d ∈ x.blk.done, d.act.exits = false) (fun _ x => a x) :=
  firesInCore_of pred_nil hi (fun _ _ hpc h => CoreCtx.leave_of_first hpc h)

theorem plainExit_fails {i : Instr} {a : CoreCtx → Act} (hi : ∀ s, exec i s = execCore s p [] (fun x => x.leave s (a x))) :
    FailsInCore i p [] 0 (fun _ x => ∃ d ∈ x.blk.done, d.act.exits) (fun _ x => (1, x.blk.word x.slot)) :=
  firesInCore_of pred_nil hi (fun _ _ hpc h => CoreCtx.leave_of_later hpc h)

theorem eret_asks : AsksInCore (.eret p e) p [] 0 (fun _ x => (∀ d ∈ x.blk.done, d.act.exits = false) ∧ x.pc.sstat.getLsbD 1 = true)
    (fun _ _ => .eret) :=
  firesInCore_of pred_nil (fun _ => rfl) (fun _ _ hpc ⟨hfirst, hpriv⟩ => by
    rw [PageCore.priv, hpriv]
    exact CoreCtx.leave_of_first hpc hfirst)

theorem eret_fails_of_later : FailsInCore (.eret p e) p [] 0 (fun _ x => (∃ d ∈ x.blk.done, d.act.exits) ∧ x.pc.sstat.getLsbD 1 = true)
    (fun _ x => (1, x.blk.word x.slot)) :=
  firesInCore_of pred_nil (fun _ => rfl) (fun _ _ hpc ⟨hlater, hpriv⟩ => by
    rw [PageCore.priv, hpriv]
    exact CoreCtx.leave_of_later hpc hlater)

/-- R372: ERET is refused without PRIV, whether or not an exit has fired. -/
theorem eret_fails_of_unprivileged : FailsInCore (.eret p e) p [] 0 (fun _ x => ¬ x.pc.sstat.getLsbD 1 = true)
    (fun _ x => (2, x.blk.word x.slot)) :=
  firesInCore_of pred_nil (fun _ => rfl) (fun _ _ hpc h => by
    rw [PageCore.priv, Bool.eq_false_of_not_eq_true h]
    exact fail_eq hpc 2 _ 0)

end

/-- Settles O15: BX and CALLB ask for their exit at once, BXR and RETB after one check of the address, ERET after that of PRIV; a second exit is
found in each after these checks. -/
theorem blockExits : Obligations.BlockExits := by
  intro p e f
  refine ⟨plainExit_asks p fun _ => rfl, plainExit_asks p fun _ => rfl, checkedExit_asks p fun _ => rfl, checkedExit_asks p fun _ => rfl,
    eret_asks p e, plainExit_fails p fun _ => rfl, plainExit_fails p fun _ => rfl, ?checked, eret_fails_of_later p e,
    eret_fails_of_unprivileged p e⟩
  case checked =>
    rintro i hi
    obtain rfl | rfl : i = .bxr p e ∨ i = .retb p e := by simpa using hi
    · exact checkedExit_fails p fun _ => rfl
    · exact checkedExit_fails p fun _ => rfl

/-! ### Port reads (O26) -/

section
variable (p : BitVec 2) (t : BitVec 9) (n : BitVec 5) (k : Nat)

theorem inMrk_waits : WaitsInCore (.inMrk p t n) p []
    (fun _ x => x.countBelow (popsPort n.toNat) = (k, false) ∧ (x.pc.sinkQ n.toNat)[k]? = none) :=
  firesInCore_of pred_nil (fun _ => rfl) (fun _ _ _ ⟨hbefore, hq⟩ => by rw [CoreCtx.beatAt_of_before hbefore, hq])

theorem inMrk_gives (b : Beat) : GivesInCore (.inMrk p t n) p [] [t]
    (fun _ x => x.countBelow (popsPort n.toNat) = (k, false) ∧ (x.pc.sinkQ n.toNat)[k]? = some b) (fun _ _ => ⟨BitVec.ofNat 64 (mrkImage b), false⟩) :=
  firesInCore_of pred_nil (fun _ => rfl) (fun _ _ hpc ⟨hbefore, hq⟩ => by
    rw [CoreCtx.beatAt_of_before hbefore, hq]
    exact give_eq hpc t _)

theorem inPort_waits (pop : BitVec 1) (j : BitVec 4) : WaitsInCore (.inPort p t n pop j) p []
    (fun _ x => x.countBelow (popsPort n.toNat) = (k, false) ∧ (x.pc.sinkQ n.toNat)[k]? = none) :=
  firesInCore_both pred_nil (fun _ => rfl) (fun _ _ _ ⟨hbefore, hq⟩ => by rw [CoreCtx.beatAt_of_before hbefore, hq])

/-- The register image of a strand of a beat on the link of a sink port. -/
def sinkImage (n : BitVec 5) (j : BitVec 4) (b : Beat) (s : State) (x : CoreCtx) : Img :=
  laneToReg (bstrand b j.toNat) (headerStrand b j.toNat) (fmtOf (s.voLink x.c n.toNat))

theorem inPort_gives (j : BitVec 4) (b : Beat) : GivesInCore (.inPort p t n 0 j) p [] [t]
    (fun _ x => x.countBelow (popsPort n.toNat) = (k, false) ∧ (x.pc.sinkQ n.toNat)[k]? = some b) (sinkImage n j b) :=
  firesInCore_both pred_nil (fun _ => rfl) (fun _ _ hpc ⟨hbefore, hq⟩ => by
    rw [CoreCtx.beatAt_of_before hbefore, hq]
    exact give_eq hpc t _)

theorem inPort_pops (j : BitVec 4) (b : Beat) : AsksGivesInCore (.inPort p t n 1 j) p [] 0 t
    (fun _ x => x.countBelow (popsPort n.toNat) = (k, false) ∧ (x.pc.sinkQ n.toNat)[k]? = some b) (fun _ _ => .pop n.toNat) (sinkImage n j b) :=
  firesInCore_both pred_nil (fun _ => rfl) (fun _ _ hpc ⟨hbefore, hq⟩ => by
    rw [CoreCtx.beatAt_of_before hbefore, hq]
    exact askGive_eq hpc 0 _ t _)

theorem inCnt_gives : GivesInCore (.inCnt p t n) p [] [t] (fun _ x => x.countBelow (popsPort n.toNat) = (k, false))
    (fun _ x => ⟨BitVec.ofNat 64 ((x.pc.sinkQ n.toNat).length - k), false⟩) :=
  firesInCore_of pred_nil (fun _ => rfl) (fun _ _ hpc hbefore => by
    rw [hbefore]
    exact give_eq hpc t _)

theorem inSpc_gives : GivesInCore (.inSpc p t n) p [] [t] (fun _ x => x.countBelow (pushesPort n.toNat) = (k, false))
    (fun _ x => ⟨BitVec.ofNat 64 (16 - (x.pc.srcQ n.toNat).length - k), false⟩) :=
  firesInCore_of pred_nil (fun _ => rfl) (fun _ _ hpc hbefore => by
    rw [hbefore]
    exact give_eq hpc t _)

theorem inAcc_gives (a : BitVec 2) (j : BitVec 4) : GivesInCore (.inAcc p t a j) p [] [t] always
    (fun _ x => (x.pc.accs[a.toNat]).vals.getD j.toNat {}) :=
  firesInCore_of pred_nil (fun _ => rfl) (fun _ _ hpc _ => give_eq hpc t _)

theorem genofIn_gives (u : BitVec 9) (g : Option SegId) : GivesInCore (.genofIn p t u) p [.left] [t, u]
    (fun _ x => x.a.v.toNat < 32 ∧ x.nextSegment x.a.v.toNat = some g) (fun _ _ => genofImage g) :=
  firesInCore_both pred_left (fun _ => rfl) (fun _ _ hpc ⟨hport, hseg⟩ => by
    rw [if_neg (Nat.not_le.2 hport), hseg]
    exact CoreCtx.finish_eq hpc)

/-- R326: a port that no page core has is in no segment. -/
theorem genofIn_gives_of_noPort (u : BitVec 9) : GivesInCore (.genofIn p t u) p [.left] [t, u] (fun _ x => 32 ≤ x.a.v.toNat)
    (fun _ _ => genofImage none) :=
  firesInCore_both pred_left (fun _ => rfl) (fun _ _ hpc hport => by
    rw [if_pos hport]
    exact CoreCtx.finish_eq hpc)

end

/-- Settles O26: the beat that a port read reads is the one behind the popping INs before it (`CoreCtx.beatAt_of_before`), and each form does with it
what its lemma says. -/
theorem portReads : Obligations.PortReads := by
  intro p t u n j a k
  refine ⟨⟨inMrk_waits p t n k, fun pop => inPort_waits p t n k pop j,
    fun b => ⟨⟨inPort_gives p t n k j b, inPort_pops p t n k j b⟩, inMrk_gives p t n k b⟩, inCnt_gives p t n k⟩,
    inSpc_gives p t n k, inAcc_gives p t a j, genofIn_gives p t u, ?_⟩
  simpa only [GivesInCore, genofImage, Bool.false_or] using genofIn_gives_of_noPort p t u

end Sys2Proof.Machine
end

section
/-! SUPPORT. What holds back the firing of every instruction word in a C-block (R247, R256), and the obligation on it. -/
namespace Sys2Proof.Machine

/-! ### An outcome that the gate holds back -/

/-- What an instruction answers where the gate of its positions does not let it fire: a slot that waits changes nothing, a nulled one is marked. -/
def HeldBack (s : State) (p : BitVec 2) (uses : List Pos) (o : Host.Outcome State Fault Refusal) : Prop :=
  (gate s p uses = .wait → o = .next s) ∧ ∀ t, gate s p uses = .nulled t → o = .next t

section
variable (s : State) (p : BitVec 2) (uses : List Pos)

theorem execCore_heldBack (f : CoreCtx → State) : HeldBack s p uses (execCore s p uses f) :=
  ⟨fun h => by rw [execCore, h], fun t h => by rw [execCore, h]⟩

theorem execElem_heldBack (g : ElemCtx → State) : HeldBack s p uses (execElem s p uses g) :=
  ⟨fun h => by rw [execElem, h], fun t h => by rw [execElem, h]⟩

theorem execBoth_heldBack (f : CoreCtx → State) (g : ElemCtx → State) : HeldBack s p uses (execBoth s p uses f g) :=
  ⟨fun h => by rw [execBoth, h], fun t h => by rw [execBoth, h]⟩

theorem execAlu_heldBack (ts : List (BitVec 9)) (fm : Nat → Nat → Img → Nat) (f : AluEnv → Img → Img → Img → AluRes) :
    HeldBack s p uses (execAlu s p ts uses fm f) :=
  ⟨fun h => by rw [execAlu, h], fun t h => by rw [execAlu, h]⟩

end

/-- The positions at which an instruction waits for an operand are those that R247 lists for it, and its predicate is that of its word. -/
theorem exec_heldBack {i : Instr} (hi : isEvent i = false) (s : State) : HeldBack s i.pred (i.uses.map Pos.ofCode) (exec i s) := by
  cases i with
  | nop | movi | movk | add | addi | sub | mul | mulh | div | rem | adds | subs | min | max | abs | neg | lea | andB | orB | xorB | andn | notB | shl |
    shr | shra | rot | clz | popc | bfx | bfi | cmp | testBits | sel | stkg | stks | stkc | fadd | fsub | fmul | ffma | fdiv | fsqrt | fmin | fmax |
    fabs | fneg | fcmp | fclass | fexp2 | flog2 | frcp | frsq | ftanh | cvt | narrow | final | scale | mxsc | dot4 | dot8 | addp | shlp | shrp | bperm |
    rng | genofPrec =>
    unfold exec Instr.pred Instr.uses
    exact execAlu_heldBack ..
  | inPort | outPort | outm | mrk | segl | segn | ctxsw | genofIn =>
    unfold exec Instr.pred Instr.uses
    exact execBoth_heldBack ..
  | getr | setr | nullw | getc | setc | bx | bxr | callb | retb | leaBlk | inCnt | inSpc | inAcc | inMrk | strmMem | strmTile | strmDrain | strmAcc |
    fgstage | fgseed | fgstat | ld | ldi | lda | st | stl | ldimg | stimg | till | tillg | pres | fatom | cpyl | gath | scat | coll | resp |
    fence | xfence | xwait | tld | tst | tzero | treshape | tmov | tfill | wloadT | wloadW | wswap | mma | mmas | accz | accd | sortcfg | topk |
    launchp | seqOpen | seqClose | barInit | barArr | barWait | spawn | graise | gidxIdx | gidxCnt | tdone | trap | eret | sysc | ckptCont |
    ckptYield | brk | perfCfg | perfRd | perfCnt | perfClr | haltdStop | haltdFrz =>
    unfold exec Instr.pred Instr.uses
    exact execCore_heldBack ..
  | atom | prune | tlbi =>
    unfold exec Instr.pred Instr.uses
    rw [apply_ite (List.map Pos.ofCode)]
    exact execCore_heldBack ..
  | sdcvt | sdadd | sdmul | sdcut | sdcmp | sdtowf | rsum | rmax | rmin | recGet | recSet | recNew | recDone | recRej | steer | merge | omerge |
    recirc | guess =>
    unfold exec Instr.pred Instr.uses
    exact execElem_heldBack ..
  | _ => cases hi

/-! ### The gate of a slot of a C-block -/

section
variable {s : State} {c : CoreRef} {bi slot : Nat} {b : Block} {p : BitVec 2} {uses : List Pos}

/-- A slot waits while a position that it uses, or its predicate, holds no value (R247). -/
theorem CoreSlot.gate_waits (h : CoreSlot s c bi slot b)
    (hnone : (∃ q ∈ uses, b.operand slot q = none) ∨ p ≠ 0 ∧ b.operand slot .pred = none) : gate s p uses = .wait := by
  have hopen : (b.settled slot || b.fault.isSome) = false := by simp [h.unsettled, h.sound]
  have hwants : (uses.all (fun q => (b.operand slot q).isSome) && (p == 0 || (b.operand slot .pred).isSome)) = false := by
    rcases hnone with ⟨q, hq, hn⟩ | ⟨hp, hn⟩
    · rw [List.all_eq_false.2 ⟨q, hq, by simp [hn]⟩, Bool.false_and]
    · rw [hn, beq_false_of_ne hp, Option.isSome_none, Bool.or_false, Bool.and_false]
  simp only [gate, h.focus, h.block, hopen, hwants, Bool.false_eq_true, if_false]

/-- A slot whose operands have arrived is nulled by a predicate that does not match (R256). -/
theorem CoreSlot.gate_nulls {v : Img} (h : CoreSlot s c bi slot b) (hall : ∀ q ∈ uses, b.operand slot q ≠ none) (hp : p ≠ 0)
    (hv : b.operand slot .pred = some v) (hne : v.v.getLsbD 0 ≠ (p == 1)) :
    gate s p uses = .nulled (s.putBlock c bi { b with nulled := slot :: b.nulled }) := by
  have hopen : (b.settled slot || b.fault.isSome) = false := by simp [h.unsettled, h.sound]
  have harrived : (uses.all (fun q => (b.operand slot q).isSome) && (p == 0 || (b.operand slot .pred).isSome)) = true := by
    rw [List.all_eq_true.2 fun q hq => Option.isSome_iff_ne_none.2 (hall q hq), hv, Option.isSome_some, Bool.or_true, Bool.and_self]
  have hfires : predFires p ((b.operand slot .pred).getD {}) = false := by
    rw [hv, Option.getD_some, predFires, if_neg hp, beq_false_of_ne hne]
  simp only [gate, h.focus, h.block, hopen, harrived, hfires, Bool.false_eq_true, if_false, if_true]
  exact congrArg Gate.nulled (put_eq rfl _)

end

/-! ### The obligation -/

/-- The positions of R247, by their codes: the operands that an instruction uses, and the predicate where its word has one. -/
theorem usesPos_iff {i : Instr} {q : Nat} : usesPos i q = true ↔ (∃ u ∈ i.uses, u.toNat = q) ∨ q = 2 ∧ i.pred ≠ 0 := by
  simp [usesPos]

/-- Settles O38: an instruction word is held back as the gate of its positions and its predicate says (`exec_heldBack`), and the gate of a slot that
may fire says what R247 and R256 do. -/
theorem firingWaitsAndNulls : Obligations.FiringWaitsAndNulls := by
  intro i s c bi slot b hi h
  obtain ⟨hwait, hnull⟩ := exec_heldBack hi s
  constructor
  · rintro ⟨q, -, hq, hnone⟩
    refine hwait (h.gate_waits ?_)
    rcases usesPos_iff.1 hq with ⟨u, hu, rfl⟩ | ⟨rfl, hp⟩
    · rw [BitVec.ofNat_toNat, BitVec.setWidth_eq] at hnone
      exact .inl ⟨_, List.mem_map_of_mem hu, hnone⟩
    · exact .inr ⟨hp, hnone⟩
  · intro v hall hp hv hne
    refine hnull _ (h.gate_nulls ?_ hp hv hne)
    intro q hq
    obtain ⟨u, hu, rfl⟩ := List.mem_map.1 hq
    have := hall u.toNat u.isLt (usesPos_iff.2 (.inl ⟨u, hu, rfl⟩))
    rwa [BitVec.ofNat_toNat, BitVec.setWidth_eq] at this

end Sys2Proof.Machine
end

section
/-! SUPPORT. Beats that an element places and that IN reads (R108 to R115, R156, R251, R308, R310, R311, R313), and the obligation on them. -/
namespace Sys2Proof.Machine

/-! ### Strands of a beat -/

theorem range16_map_getD {α : Type} (f : Nat → α) (d : α) {i : Nat} (hi : i < 16) : ((List.range 16).map f).getD i d = f i := by
  simp [List.getD_eq_getElem?_getD, List.getElem?_map, List.getElem?_range hi]

theorem bstrand_beatOf (ts : List Strand) {i : Nat} (hi : i < 16) : bstrand (beatOf ts) i = ts.getD i {} := range16_map_getD _ _ hi

/-- The payload of a header strand is its low 32 bits. -/
theorem strandH_pay (n : Nat) : (strandH n).pay = n % 2 ^ 32 := by
  rw [Strand.pay, strandH, BitVec.toNat_ofNat]
  omega

/-! ### What an output is given -/

/-- Lanes without a record make one strand each (R308, R310). -/
theorem outBeat_of_lanes {o : FireOut} {ls : List LaneV} (ho : o.isRec = false) :
    ∃ b, outBeat o ls = some b ∧ b.length = 16 ∧ ∀ i < 16,
      (∀ v, (ls.getD i {}).val = some v → bstrand b i = strandV (ls.getD i {}).rank (placeLane v (ls.getD i {}).fmt o.fmt))
      ∧ ((ls.getD i {}).val = none → bstrand b i = strandM (ls.getD i {}).rank) := by
  refine ⟨_, by rw [outBeat, ho]; rfl, by simp, fun i hi => ?_⟩
  rw [bstrand, range16_map_getD _ _ hi]
  exact ⟨fun v hv => by rw [hv], fun hv => by rw [hv]⟩

/-- The strands of a record: its header, which is no valid strand, and its values (R111). -/
theorem bstrand_mkRecord_zero (h : Img) (rank : Nat) (vals : List Img) :
    bstrand (mkRecord h rank vals) 0 = { v := false, mrk := BitVec.ofNat 2 rank, img := h.bits36 } :=
  bstrand_beatOf _ (by decide)

theorem bstrand_mkRecord_succ {h : Img} {i : Nat} (rank : Nat) (vals : List Img) (hi : i < hdrNval h) :
    bstrand (mkRecord h rank vals) (i + 1) = strandV 0 (vals.getD i {}) := by
  have hnval : hdrNval h < 16 := Nat.mod_lt _ (by decide)
  rw [mkRecord, bstrand_beatOf _ (by omega)]
  simp [List.getD_eq_getElem?_getD, List.getElem?_map, List.getElem?_range hi]

/-- The values behind the header, as the lanes hold them. -/
theorem laneVals_getD (ls : List LaneV) (i : Nat) :
    ((ls.drop 1).map (fun v => v.val.getD {})).getD i {} = (ls.getD (i + 1) {}).val.getD {} := by
  simp only [List.getD_eq_getElem?_getD, List.getElem?_map, List.getElem?_drop, Nat.add_comm 1 i]
  cases ls[i + 1]? <;> rfl

/-- Lane 0 that is no record header makes no beat on an output of records (R310). -/
theorem outBeat_of_noHeader {o : FireOut} {ls : List LaneV} {h : Img} (ho : o.isRec) (h0 : (ls.getD 0 {}).val = some h)
    (hh : isHeader h = false) : outBeat o ls = none := by
  rw [outBeat, if_pos ho, h0]
  exact if_neg (by rw [hh]; decide)

theorem outBeat_of_header {o : FireOut} {ls : List LaneV} {h : Img} (ho : o.isRec) (h0 : (ls.getD 0 {}).val = some h) (hh : isHeader h) :
    outBeat o ls = some (mkRecord h (ls.getD 0 {}).rank ((ls.drop 1).map (fun v => v.val.getD {}))) := by
  rw [outBeat, if_pos ho, h0]
  exact if_pos hh

/-- What lanes make on an output of records (R111, R310). -/
theorem outBeat_of_record {o : FireOut} {ls : List LaneV} {h : Img} (ho : o.isRec) (h0 : (ls.getD 0 {}).val = some h) (hh : isHeader h) :
    ∃ b, outBeat o ls = some b ∧ (bstrand b 0).v = false ∧ (bstrand b 0).img = h.bits36
      ∧ (bstrand b 0).mrk = BitVec.ofNat 2 (ls.getD 0 {}).rank
      ∧ ∀ i, 1 ≤ i → i ≤ hdrNval h → bstrand b i = strandV 0 ((ls.getD i {}).val.getD {}) := by
  refine ⟨_, outBeat_of_header ho h0 hh, ?_, ?_, ?_, ?_⟩
  · rw [bstrand_mkRecord_zero]
  · rw [bstrand_mkRecord_zero]
  · rw [bstrand_mkRecord_zero]
  · intro i hpos hle
    obtain ⟨j, rfl⟩ := Nat.exists_eq_add_of_le' hpos
    rw [bstrand_mkRecord_succ _ _ hle, laneVals_getD]

/-! ### Placing (R251, R309) -/

section
variable {f : Firing} {q : Nat} {b : Beat}

/-- An empty data beat takes no slot. -/
theorem Firing.place_of_empty (h : beatEmpty b ∧ hkind b = 0) : f.place q b = f :=
  if_pos (by rw [h.1, h.2]; rfl)

/-- Nothing stands on the output yet. -/
theorem not_any_fst_eq {l : List (Nat × Beat)} (hfree : ∀ t ∈ l, t.1 ≠ q) : ¬ l.any (fun t => t.1 == q) = true := by
  rw [List.any_eq_true]
  rintro ⟨t, ht, he⟩
  exact hfree t ht (beq_iff_eq.1 he)

theorem any_fst_eq {l : List (Nat × Beat)} (htaken : ∃ t ∈ l, t.1 = q) : l.any (fun t => t.1 == q) = true := by
  obtain ⟨t, ht, he⟩ := htaken
  exact List.any_eq_true.2 ⟨t, ht, beq_iff_eq.2 he⟩

theorem beatTakesSlot (h : ¬ (beatEmpty b ∧ hkind b = 0)) : ¬ (beatEmpty b && hkind b == 0) = true := by
  rwa [Bool.and_eq_true, beq_iff_eq]

theorem Firing.place_of_free (h : ¬ (beatEmpty b ∧ hkind b = 0)) (hfree : ∀ t ∈ f.placed, t.1 ≠ q) :
    f.place q b = { f with placed := f.placed ++ [(q, b)] } := by
  rw [Firing.place, if_neg (beatTakesSlot h), if_neg (not_any_fst_eq hfree)]

/-- A second beat on one output is EB_CONFLICT. -/
theorem Firing.place_of_taken (h : ¬ (beatEmpty b ∧ hkind b = 0)) (htaken : ∃ t ∈ f.placed, t.1 = q) : f.place q b = f.faults 0x92 := by
  rw [Firing.place, if_neg (beatTakesSlot h), if_pos (any_fst_eq htaken)]
  rfl

theorem Firing.placePrefix_of_free {g : SegId} (hfree : ∀ t ∈ f.prefixes, t.1 ≠ q) :
    f.placePrefix q g = { f with prefixes := f.prefixes ++ [(q, mkPrefix g)] } :=
  if_neg (not_any_fst_eq hfree)

/-- Two prefixes on one output are EB_CONFLICT. -/
theorem Firing.placePrefix_of_taken {g : SegId} (htaken : ∃ t ∈ f.prefixes, t.1 = q) : f.placePrefix q g = f.faults 0x92 :=
  if_pos (any_fst_eq htaken)

end

/-! ### Lanes that IN delivers in an element (R308, R310) -/

/-- Does strand i of a beat hold the header of a record or of a tagged beat? -/
def tagsLane (b : Beat) (i : Nat) : Prop := i = 0 ∧ (hkind b = 1 ∨ hkind b = 5)

theorem lanesOf_header {b : Beat} {fmt i : Nat} (hi : i < 16) (h : tagsLane b i) :
    (lanesOf b fmt).getD i {} = { val := some (imgOf36 (bstrand b i).img), rank := (bstrand b i).mrk.toNat, fmt := 18 } := by
  rw [lanesOf, range16_map_getD _ _ hi]
  exact if_pos h

theorem lanesOf_valid {b : Beat} {fmt i : Nat} (hi : i < 16) (h : ¬ tagsLane b i) (hv : (bstrand b i).v) :
    (lanesOf b fmt).getD i {} = { val := some (imgOf36 (bstrand b i).img), rank := (bstrand b i).mrk.toNat, fmt := fmt } := by
  rw [lanesOf, range16_map_getD _ _ hi]
  exact (if_neg h).trans (if_pos hv)

theorem lanesOf_empty {b : Beat} {fmt i : Nat} (hi : i < 16) (h : ¬ tagsLane b i) (hv : (bstrand b i).v = false) :
    (lanesOf b fmt).getD i {} = { val := none, rank := (bstrand b i).mrk.toNat, fmt := fmt } := by
  rw [lanesOf, range16_map_getD _ _ hi]
  exact (if_neg h).trans (if_neg (by rw [hv]; decide))

/-- Each lane has its strand's rank, whatever it holds (R308). -/
theorem lanesOf_rank (b : Beat) (fmt : Nat) {i : Nat} (hi : i < 16) : ((lanesOf b fmt).getD i {}).rank = (bstrand b i).mrk.toNat := by
  by_cases h : tagsLane b i
  · rw [lanesOf_header hi h]
  · cases hv : (bstrand b i).v with
    | true => rw [lanesOf_valid hi h hv]
    | false => rw [lanesOf_empty hi h hv]

/-! ### Length prefixes (R115) -/

/-- Two's complement of 16 bits holds what fits in it. -/
theorem signedOf_bitsOf {x : ℤ} (hlo : -2 ^ 15 ≤ x) (hhi : x < 2 ^ 15) : signedOf 16 (bitsOf 16 x) = x := by
  rw [signedOf, bitsOf]
  split_ifs <;> omega

/-- The word of length prefixes that names lane and generation (R115). -/
def segWord (g : SegId) : Nat := (if g.nolane then 2 ^ 31 else 0) + g.lane % 512 * 2 ^ 16 + g.gen % 2 ^ 16

theorem segWord_fields {g : SegId} (hlane : g.lane < 512) (hgen : g.gen < 2 ^ 16) :
    segWord g < 2 ^ 32 ∧ (segWord g / 2 ^ 31 == 1) = g.nolane ∧ segWord g / 2 ^ 16 % 512 = g.lane ∧ segWord g % 2 ^ 16 = g.gen := by
  cases hn : g.nolane with
  | true =>
    have h : segWord g = 2 ^ 31 + g.lane * 2 ^ 16 + g.gen := by
      rw [segWord, hn, if_pos rfl, Nat.mod_eq_of_lt hlane, Nat.mod_eq_of_lt hgen]
    rw [h, beq_iff_eq]
    omega
  | false =>
    have h : segWord g = g.lane * 2 ^ 16 + g.gen := by
      rw [segWord, hn, if_neg Bool.false_ne_true, Nat.mod_eq_of_lt hlane, Nat.mod_eq_of_lt hgen, Nat.zero_add]
    rw [h, beq_eq_false_iff_ne]
    omega

theorem bstrand_mkPrefix (g : SegId) {k : Nat} (hk : k < 16) :
    bstrand (mkPrefix g) k = [strandH (2 * 2 ^ 32 + g.endrank % 4), strandH (g.length % 2 ^ 32), strandH (segWord g),
      strandH (bitsOf 16 g.sdexp * 2 ^ 16 + g.sdcnt % 128)].getD k {} :=
  bstrand_beatOf _ hk

theorem hkind_mkPrefix (g : SegId) : hkind (mkPrefix g) = 2 := by
  have h0 : bstrand (mkPrefix g) 0 = strandH (2 * 2 ^ 32 + g.endrank % 4) := bstrand_mkPrefix g (by decide)
  rw [hkind, h0, strandH, if_neg Bool.false_ne_true, BitVec.toNat_ofNat]
  omega

/-- Prefixes whose fields fit are read back as they were made. -/
theorem prefixOf_mkPrefix {g : SegId} (hlane : g.lane < 512) (hgen : g.gen < 2 ^ 16) (hrank : g.endrank < 4) (hlen : g.length < 2 ^ 32)
    (hlo : -2 ^ 15 ≤ g.sdexp) (hhi : g.sdexp < 2 ^ 15) (hcnt : g.sdcnt < 128) : prefixOf (mkPrefix g) = g := by
  have hbits : bitsOf 16 g.sdexp < 2 ^ 16 := by rw [bitsOf]; omega
  obtain ⟨hword, hnolane, hseglane, hseggen⟩ := segWord_fields hlane hgen
  have h0 : (bstrand (mkPrefix g) 0).pay = g.endrank := by
    rw [bstrand_mkPrefix g (by decide)]
    exact (strandH_pay _).trans (by omega)
  have h1 : (bstrand (mkPrefix g) 1).pay = g.length := by
    rw [bstrand_mkPrefix g (by decide)]
    exact (strandH_pay _).trans (by omega)
  have h2 : (bstrand (mkPrefix g) 2).pay = segWord g := by
    rw [bstrand_mkPrefix g (by decide)]
    exact (strandH_pay _).trans (Nat.mod_eq_of_lt hword)
  have h3 : (bstrand (mkPrefix g) 3).pay = bitsOf 16 g.sdexp * 2 ^ 16 + g.sdcnt := by
    rw [bstrand_mkPrefix g (by decide)]
    exact (strandH_pay _).trans (by omega)
  have hexp : (bitsOf 16 g.sdexp * 2 ^ 16 + g.sdcnt) / 2 ^ 16 = bitsOf 16 g.sdexp := by omega
  have hcount : (bitsOf 16 g.sdexp * 2 ^ 16 + g.sdcnt) % 128 = g.sdcnt := by omega
  rw [prefixOf, h0, h1, h2, h3, Nat.mod_eq_of_lt hrank, hnolane, hseglane, hseggen, hexp, signedOf_bitsOf hlo hhi, hcount]

/-! ### Registers that IN delivers for a strand (R156, R311) -/

section
variable {t : Strand}

theorem laneToReg_header (f : Nat) : laneToReg t true f = ⟨t.img.setWidth 64, false⟩ := rfl

theorem laneToReg_empty (hv : t.v = false) (f : Nat) : laneToReg t false f = ⟨0, false⟩ := by
  rw [laneToReg, hv]
  rfl

theorem laneToReg_int {f : Nat} (hv : t.v) (hf : fmtIsInt f) : laneToReg t false f =
    ⟨if fmtUnsigned f then BitVec.ofNat 64 t.pay else BitVec.ofNat 64 (bitsOf 64 (signedOf 32 t.pay)), t.img.getLsbD 35⟩ := by
  rw [laneToReg, hv, hf]
  rfl

/-- A signed payload is sign-extended. -/
theorem ofNat_bitsOf_signedOf_pay : BitVec.ofNat 64 (bitsOf 64 (signedOf 32 t.pay)) = (t.img.setWidth 32).signExtend 64 := by
  have hpay : t.pay = ((t.img.setWidth 32).setWidth 64).toNat := by
    rw [Strand.pay, BitVec.toNat_setWidth, BitVec.toNat_setWidth]
    omega
  rw [hpay, signedOf_eq_toInt, BitVec.setWidth_setWidth_of_le _ (by decide), BitVec.setWidth_eq, ← BitVec.toNat_inj, BitVec.signExtend,
    BitVec.toNat_ofNat, BitVec.toNat_ofInt, bitsOf]
  omega

theorem laneToReg_signed {f : Nat} (hv : t.v) (hf : f ∈ [8, 10, 12, 13]) :
    laneToReg t false f = ⟨(t.img.setWidth 32).signExtend 64, t.img.getLsbD 35⟩ := by
  have hint : ∀ f ∈ [8, 10, 12, 13], fmtIsInt f = true ∧ fmtUnsigned f = false := by decide
  rw [laneToReg_int hv (hint f hf).1, (hint f hf).2, ofNat_bitsOf_signedOf_pay]
  rfl

theorem laneToReg_unsigned {f : Nat} (hv : t.v) (hf : f ∈ [9, 11]) :
    laneToReg t false f = ⟨(t.img.setWidth 32).setWidth 64, t.img.getLsbD 35⟩ := by
  have hint : ∀ f ∈ [9, 11], fmtIsInt f = true ∧ fmtUnsigned f = true := by decide
  have hpay : BitVec.ofNat 64 t.pay = (t.img.setWidth 32).setWidth 64 := by
    rw [← BitVec.toNat_inj, BitVec.toNat_ofNat, BitVec.toNat_setWidth, BitVec.toNat_setWidth, Strand.pay]
  rw [laneToReg_int hv (hint f hf).1, (hint f hf).2, if_pos rfl, hpay]

theorem laneToReg_raw {f : Nat} (hv : t.v) (hf : f ∈ [0, 1, 2, 3, 4, 16, 17]) :
    laneToReg t false f = ⟨(t.img.setWidth 35).setWidth 64, t.img.getLsbD 35⟩ := by
  have hint : ∀ f ∈ [0, 1, 2, 3, 4, 16, 17], fmtIsInt f = false := by decide
  rw [laneToReg, hv, hint f hf]
  rfl

end

/-! ### in.mrk (R311) -/

/-- The ranks and the validity of the first strands, each as a run of digits. -/
theorem foldl_marks (r : Nat → Nat) (v : Nat → Bool) (n : Nat) :
    (List.range n).foldl (fun u i => u + r i * 2 ^ (2 * i) + (if v i then 2 ^ (32 + i) else 0)) 0 =
      Nat.ofDigits 4 ((List.range n).map r) + 2 ^ 32 * Nat.ofDigits 2 ((List.range n).map (fun i => (v i).toNat)) := by
  induction n with
  | zero => rfl
  | succ n ih =>
    have hbit : (if v n then 2 ^ (32 + n) else 0) = 2 ^ 32 * (2 ^ n * (v n).toNat) := by
      cases v n with
      | true => rw [if_pos rfl, pow_add, Bool.toNat_true, mul_one]
      | false => rfl
    have hrank : r n * 2 ^ (2 * n) = 4 ^ n * r n := by rw [pow_mul, mul_comm]; rfl
    rw [List.range_succ, List.foldl_append, ih, List.map_append, List.map_append, Nat.ofDigits_append, Nat.ofDigits_append, List.length_map,
      List.length_map, List.length_range, List.foldl_cons, List.foldl_nil, hbit, hrank, List.map_singleton, List.map_singleton,
      Nat.ofDigits_singleton, Nat.ofDigits_singleton]
    ring

/-- in.mrk as its three runs of digits: ranks, validity, kind. -/
theorem mrkImage_eq (b : Beat) : mrkImage b =
    Nat.ofDigits 4 ((List.range 16).map (fun i => (bstrand b i).mrk.toNat))
      + 2 ^ 32 * (Nat.ofDigits 2 ((List.range 16).map (fun i => (bstrand b i).v.toNat)) + 2 ^ 16 * hkind b) := by
  rw [mrkImage, foldl_marks (fun i => (bstrand b i).mrk.toNat) (fun i => (bstrand b i).v) 16]
  ring

/-- A digit of a number below its base is read off at its place. -/
theorem ofDigits_map_range_digit {n i B : Nat} {d : Nat → Nat} (hB : ∀ i, d i < B) (hi : i < n) :
    Nat.ofDigits B ((List.range n).map d) / B ^ i % B = d i := by
  have hpos : 0 < B := Nat.zero_lt_of_lt (hB 0)
  have hdigits : ∀ x ∈ (List.range n).map d, x < B := fun x hx => by
    obtain ⟨j, -, rfl⟩ := List.mem_map.1 hx
    exact hB j
  rw [Nat.ofDigits_div_pow_eq_ofDigits_drop i hpos _ hdigits, Nat.ofDigits_mod_eq_head!, List.drop_eq_getElem_cons (by simpa using hi)]
  simp [Nat.mod_eq_of_lt (hB i)]

theorem ofDigits_map_range_lt {n B : Nat} {d : Nat → Nat} (hB : ∀ i, d i < B) (h1 : 1 < B) : Nat.ofDigits B ((List.range n).map d) < B ^ n := by
  have hdigits : ∀ x ∈ (List.range n).map d, x < B := fun x hx => by
    obtain ⟨j, -, rfl⟩ := List.mem_map.1 hx
    exact hB j
  simpa using Nat.ofDigits_lt_base_pow_length h1 hdigits

section
variable {b : Beat} {i : Nat}

theorem mrkImage_rank (hi : i < 16) : mrkImage b / 2 ^ (2 * i) % 4 = (bstrand b i).mrk.toNat := by
  have h := ofDigits_map_range_digit (n := 16) (B := 4) (d := fun i => (bstrand b i).mrk.toNat) (fun i => (bstrand b i).mrk.isLt) hi
  have hplace : (2 : ℕ) ^ 32 = 4 ^ i * (4 * 4 ^ (15 - i)) := by
    rw [← pow_succ', ← pow_add, show i + (15 - i + 1) = 16 by omega]
    rfl
  have hfour : (2 : ℕ) ^ (2 * i) = 4 ^ i := pow_mul 2 2 i
  rw [mrkImage_eq, hfour, hplace, mul_assoc, Nat.add_mul_div_left _ _ (by positivity), mul_assoc, Nat.add_mul_mod_self_left]
  exact h

theorem mrkImage_valid (hi : i < 16) : (mrkImage b).testBit (32 + i) = (bstrand b i).v := by
  have h := ofDigits_map_range_digit (n := 16) (B := 2) (d := fun i => (bstrand b i).v.toNat) (fun i => (bstrand b i).v.toNat_lt) hi
  have hlow := ofDigits_map_range_lt (n := 16) (B := 4) (d := fun i => (bstrand b i).mrk.toNat) (fun i => (bstrand b i).mrk.isLt) (by decide)
  have hshift : mrkImage b / 2 ^ 32 = Nat.ofDigits 2 ((List.range 16).map (fun i => (bstrand b i).v.toNat)) + 2 ^ 16 * hkind b := by
    rw [mrkImage_eq]
    omega
  have hplace : (2 : ℕ) ^ 16 = 2 ^ i * (2 * 2 ^ (15 - i)) := by
    rw [← pow_succ', ← pow_add, show i + (15 - i + 1) = 16 by omega]
  rw [Nat.testBit_eq_decide_div_mod_eq, pow_add, ← Nat.div_div_eq_div_mul, hshift, hplace, mul_assoc, Nat.add_mul_div_left _ _ (by positivity),
    mul_assoc, Nat.add_mul_mod_self_left, h]
  cases (bstrand b i).v <;> rfl

theorem mrkImage_kind (hk : hkind b < 16) : mrkImage b / 2 ^ 48 % 16 = hkind b := by
  have hranks := ofDigits_map_range_lt (n := 16) (B := 4) (d := fun i => (bstrand b i).mrk.toNat) (fun i => (bstrand b i).mrk.isLt) (by decide)
  have hvalid := ofDigits_map_range_lt (n := 16) (B := 2) (d := fun i => (bstrand b i).v.toNat) (fun i => (bstrand b i).v.toNat_lt) (by decide)
  rw [mrkImage_eq]
  omega

end

/-! ### The obligation -/

/-- Settles O31: what an output is given and how it is placed; then the lanes of a beat, the fields of length prefixes, the register of a strand and in.mrk,
each by the lemmas above. -/
theorem beatsPlacedAndRead : Obligations.BeatsPlacedAndRead := by
  refine ⟨⟨fun _ _ => outBeat_of_lanes, fun _ _ _ ho h0 => ⟨outBeat_of_noHeader ho h0, outBeat_of_record ho h0⟩,
    fun _ _ _ _ => ⟨Firing.place_of_empty, Firing.place_of_free, Firing.place_of_taken, Firing.placePrefix_of_free, Firing.placePrefix_of_taken⟩⟩,
    ?lanes, fun g hlane hgen hrank hlen hlo hhi hcnt => ⟨hkind_mkPrefix g, prefixOf_mkPrefix hlane hgen hrank hlen hlo hhi hcnt⟩,
    fun _ f => ⟨laneToReg_header f, fun hv _ => laneToReg_signed hv, fun hv _ => laneToReg_unsigned hv, fun hv _ => laneToReg_raw hv,
      fun hv => laneToReg_empty hv f⟩,
    fun _ _ hi hk => ⟨mrkImage_rank hi, mrkImage_valid hi, mrkImage_kind hk⟩⟩
  case lanes =>
    intro b fmt
    refine ⟨by simp [lanesOf], fun i hi => ⟨lanesOf_rank b fmt hi, fun hv hdata => ?_, ?_, fun hv htag => ?_⟩⟩
    · have htag : ¬ tagsLane b i := fun ⟨h0, hkind⟩ => hkind.elim (hdata h0).1 (hdata h0).2
      rw [lanesOf_valid hi htag hv]
      exact ⟨rfl, rfl⟩
    · rintro rfl hkind
      rw [lanesOf_header hi ⟨rfl, hkind⟩]
      exact ⟨rfl, rfl⟩
    · rw [lanesOf_empty hi htag hv]

end Sys2Proof.Machine
end

section
/-! SUPPORT. Constants, integer arithmetic, logic, shifts and bit fields of C-block slots and E-block lanes, and the obligations on them
(R159 to R161, R261, R265, R272 to R279). -/
namespace Sys2Proof.Machine

/-! ### Results as patterns of n bits (R261) -/

theorem uval_eq_toNat (n : Nat) (a : Img) : uval n a = (a.at n).toNat := (a.at_toNat n).symm

theorem sval_eq_toInt (n : Nat) (a : Img) : sval n a = (a.at n).toInt := signedOf_eq_toInt n a.v

theorem signedOf_toNat {n : Nat} (x : BitVec n) : signedOf n x.toNat = x.toInt := by
  have hsign : (n ≠ 0 ∧ 2 ^ (n - 1) ≤ x.toNat) ↔ x.msb = true := by
    rw [BitVec.msb_eq_decide, decide_eq_true_iff]
    refine and_iff_right_of_imp ?_
    rintro h rfl
    rw [BitVec.of_length_zero (x := x)] at h
    exact absurd h (by decide)
  simp only [signedOf, Nat.mod_eq_of_lt x.isLt, hsign, BitVec.toInt_eq_msb_cond, Nat.cast_pow, Nat.cast_ofNat]

theorem ofInt_toNat {n : Nat} (x : BitVec n) : BitVec.ofInt n x.toNat = x := by
  rw [BitVec.ofInt_natCast, BitVec.ofNat_toNat, BitVec.setWidth_eq]

/-- Either reading of a pattern wraps to the pattern. -/
theorem Img.ofInt_int (u : Bool) (n : Nat) (a : Img) : BitVec.ofInt n (a.int u n) = a.at n := by
  cases u with
  | false => exact BitVec.ofInt_toInt
  | true => exact ofInt_toNat _

theorem Img.int_eq_zero {u : Bool} {n : Nat} {a : Img} (h : a.at n = 0) : a.int u n = 0 := by
  cases u <;> simp [Img.int, h]

theorem wrapImg_eq (n : Nat) (x : Int) (s : Bool) : wrapImg n x s = ofBits (BitVec.ofInt n x) s := by
  have hbits : BitVec.ofNat 64 (bitsOf n x) = (BitVec.ofInt n x).setWidth 64 := by
    apply BitVec.eq_of_toNat_eq
    rw [BitVec.toNat_ofNat, BitVec.toNat_setWidth, BitVec.toNat_ofInt, bitsOf, Nat.cast_pow, Nat.cast_ofNat]
  rw [wrapImg, ofBits, hbits]

/-- A wrapping result is the pattern that its exact value wraps to. -/
theorem wrapRes_of_ofInt {n : Nat} {x : Int} {y : BitVec n} (h : BitVec.ofInt n x = y) (s : Bool) : wrapRes n x s = { img := ofBits y s } := by
  rw [wrapRes, wrapImg_eq, h]

theorem wrapRes_natCast {n k : Nat} {y : BitVec n} (h : k % 2 ^ n = y.toNat) (s : Bool) : wrapRes n k s = { img := ofBits y s } := by
  refine wrapRes_of_ofInt (BitVec.eq_of_toNat_eq ?_) s
  rw [BitVec.ofInt_natCast, BitVec.toNat_ofNat, h]

/-- The low n bits of a word. -/
theorem wrapRes_toNat (n : Nat) (x : DWord) (s : Bool) : wrapRes n x.toNat s = { img := ofBits (x.setWidth n) s } :=
  wrapRes_natCast (BitVec.toNat_setWidth ..).symm s

/-! ### Constants and wrapping arithmetic (R265, R272) -/

section
variable (n : Nat) (a b : Img)

theorem aluMovi_eq (i : BitVec 13) : aluMovi n i = { img := ofBits (i.signExtend n) false } := wrapRes_of_ofInt rfl _

theorem aluMovk_eq (i : BitVec 13) : aluMovk n i a = { img := ofBits ((a.at n <<< 13) + i.setWidth n) a.s } := by
  have hcast : (uval n a : Int) * 2 ^ 13 + i.toNat = (uval n a * 2 ^ 13 + i.toNat : Nat) := by push_cast; rfl
  rw [aluMovk, hcast, uval_eq_toNat]
  refine wrapRes_natCast ?_ _
  rw [BitVec.toNat_add, BitVec.toNat_shiftLeft, BitVec.toNat_setWidth, Nat.shiftLeft_eq, ← Nat.add_mod]

theorem aluAddi_eq (i : BitVec 13) : aluAddi n i a = { img := ofBits (a.at n + i.signExtend n) a.s } := by
  rw [aluAddi, uval_eq_toNat]
  refine wrapRes_of_ofInt ?_ _
  rw [BitVec.ofInt_add, ofInt_toNat, BitVec.signExtend]

theorem aluAdd_eq : aluAdd n a b = { img := ofBits (a.at n + b.at n) (a.s || b.s) } := by
  rw [aluAdd, uval_eq_toNat, uval_eq_toNat]
  refine wrapRes_of_ofInt ?_ _
  rw [BitVec.ofInt_add, ofInt_toNat, ofInt_toNat]

theorem aluSub_eq : aluSub n a b = { img := ofBits (a.at n - b.at n) (a.s || b.s) } := by
  rw [aluSub, uval_eq_toNat, uval_eq_toNat]
  refine wrapRes_of_ofInt ?_ _
  rw [sub_eq_add_neg, BitVec.ofInt_add, BitVec.ofInt_neg, ofInt_toNat, ofInt_toNat, BitVec.sub_eq_add_neg]

theorem aluMul_eq : aluMul n a b = { img := ofBits (a.at n * b.at n) (a.s || b.s) } := by
  rw [aluMul, uval_eq_toNat, uval_eq_toNat]
  refine wrapRes_of_ofInt ?_ _
  rw [BitVec.ofInt_mul, ofInt_toNat, ofInt_toNat]

theorem aluMulh_eq (u : Bool) : aluMulh u n a b = { img := ofBits (BitVec.ofInt n (a.int u n * b.int u n / 2 ^ n)) (a.s || b.s) } := by
  rw [aluMulh, nval_eq_int, nval_eq_int]
  exact wrapRes_of_ofInt rfl _

end

/-! ### Division (R273) -/

section
variable {n : Nat} {x y : BitVec n}

theorem divRem_zero (u : Bool) (n : Nat) (x : Int) : divRem u n x 0 = (2 ^ n - 1, x) := if_pos rfl

theorem ofInt_two_pow_sub_one : BitVec.ofInt n (2 ^ n - 1) = BitVec.allOnes n := by
  have hcast : (2 : Int) ^ n - 1 = (2 ^ n - 1 : Nat) := by
    rw [Nat.cast_sub Nat.one_le_two_pow]
    norm_cast
  apply BitVec.eq_of_toNat_eq
  rw [hcast, BitVec.ofInt_natCast, BitVec.toNat_ofNat, BitVec.toNat_allOnes, Nat.mod_eq_of_lt (Nat.sub_lt Nat.one_le_two_pow one_pos)]

theorem ofInt_tdiv (x y : BitVec n) : BitVec.ofInt n (x.toInt.tdiv y.toInt) = x.sdiv y := by
  rw [← BitVec.toInt_inj, BitVec.toInt_ofInt, BitVec.toInt_sdiv]

theorem ofInt_tmod (x y : BitVec n) : BitVec.ofInt n (x.toInt.tmod y.toInt) = x.srem y := by
  rw [← BitVec.toInt_srem, BitVec.ofInt_toInt]

/-- The signed overflow: the least value divided by −1 wraps to itself. -/
theorem sdiv_of_overflow (hx : x.toInt = -2 ^ (n - 1)) (hy : y.toInt = -1) : x.sdiv y = x := by
  have hn : 0 < n := Nat.pos_of_ne_zero (by rintro rfl; simp [BitVec.of_length_zero] at hy)
  obtain rfl : x = BitVec.intMin n := BitVec.toInt_inj.1 (by rw [hx, BitVec.toInt_intMin_of_pos hn])
  rw [← ofInt_tdiv, hy, Int.tdiv_neg, Int.tdiv_one, BitVec.ofInt_neg, BitVec.ofInt_toInt, BitVec.neg_intMin]

/-- Signed division by another divisor than zero: in the overflow too, quotient and remainder are those that truncation toward zero gives. -/
theorem divRem_signed (hy : y ≠ 0) : BitVec.ofInt n (divRem false n x.toInt y.toInt).1 = x.sdiv y
    ∧ BitVec.ofInt n (divRem false n x.toInt y.toInt).2 = x.srem y := by
  have hne : y.toInt ≠ 0 := fun h => hy (BitVec.toInt_inj.1 (h.trans BitVec.toInt_zero.symm))
  rw [← ofInt_tmod, divRem, if_neg hne]
  by_cases hover : x.toInt = -(2 ^ (n - 1) : Int) ∧ y.toInt = -1
  · obtain ⟨hx, hneg⟩ := hover
    rw [if_pos (by simp [hx, hneg]), sdiv_of_overflow hx hneg, hneg, Int.tmod_neg, Int.tmod_one]
    exact ⟨BitVec.ofInt_toInt, rfl⟩
  · rw [if_neg (by simpa using hover), ofInt_tdiv, Int.tmod_def, mul_comm]
    exact ⟨rfl, rfl⟩

theorem divRem_unsigned (hy : y ≠ 0) : BitVec.ofInt n (divRem true n x.toNat y.toNat).1 = x / y
    ∧ BitVec.ofInt n (divRem true n x.toNat y.toNat).2 = x % y := by
  have hne : (y.toNat : Int) ≠ 0 := fun h => hy (BitVec.toNat_inj.1 (Int.ofNat_eq_zero.1 h))
  rw [divRem, if_neg hne, if_neg (by simp), ← mul_comm (y.toNat : Int), ← Int.tmod_def, ← Int.ofNat_tdiv, ← Int.ofNat_tmod,
    ← BitVec.toNat_udiv, ← BitVec.toNat_umod]
  exact ⟨ofInt_toNat _, ofInt_toNat _⟩

end

section
variable {n : Nat} {a b : Img} {u : Bool}

theorem aluDiv_eq {q : BitVec n} (hq : b.at n ≠ 0 → BitVec.ofInt n (divRem u n (a.int u n) (b.int u n)).1 = q) :
    aluDiv u n a b = { img := ofBits (if b.at n = 0 then BitVec.allOnes n else q) (a.s || b.s) } := by
  rw [aluDiv, nval_eq_int, nval_eq_int]
  refine wrapRes_of_ofInt ?_ _
  split
  next h => rw [Img.int_eq_zero h, divRem_zero, ofInt_two_pow_sub_one]
  next h => exact hq h

theorem aluRem_eq {r : BitVec n} (hr : b.at n ≠ 0 → BitVec.ofInt n (divRem u n (a.int u n) (b.int u n)).2 = r) :
    aluRem u n a b = { img := ofBits (if b.at n = 0 then a.at n else r) (a.s || b.s) } := by
  rw [aluRem, nval_eq_int, nval_eq_int]
  refine wrapRes_of_ofInt ?_ _
  split
  next h => rw [Img.int_eq_zero h, divRem_zero, Img.ofInt_int]
  next h => exact hr h

variable (n a b)

theorem aluDiv_signed : aluDiv false n a b =
    { img := ofBits (if b.at n = 0 then BitVec.allOnes n else (a.at n).sdiv (b.at n)) (a.s || b.s) } := aluDiv_eq fun h => (divRem_signed h).1

theorem aluDiv_unsigned : aluDiv true n a b =
    { img := ofBits (if b.at n = 0 then BitVec.allOnes n else a.at n / b.at n) (a.s || b.s) } := aluDiv_eq fun h => (divRem_unsigned h).1

theorem aluRem_signed : aluRem false n a b =
    { img := ofBits (if b.at n = 0 then a.at n else (a.at n).srem (b.at n)) (a.s || b.s) } := aluRem_eq fun h => (divRem_signed h).2

theorem aluRem_unsigned : aluRem true n a b =
    { img := ofBits (if b.at n = 0 then a.at n else a.at n % b.at n) (a.s || b.s) } := aluRem_eq fun h => (divRem_unsigned h).2

end

/-! ### Clamping and choice (R274) -/

theorem clampTo_eq_nearest (u : Bool) (n : Nat) (t : Int) : clampTo u n t = nearest u n t := by
  have hnat : (0 : Int) < 2 ^ n := by positivity
  have hint : (0 : Int) < 2 ^ (n - 1) := by positivity
  cases u with
  | false => simp only [clampTo, nearest, Bool.false_eq_true, if_false]; omega
  | true => simp only [clampTo, nearest, if_true]; omega

theorem clampRes_eq (u : Bool) (n : Nat) (t : Int) (s : Bool) : clampRes u n t s = ⟨(clamped u n t s).1, (clamped u n t s).2⟩ := by
  rw [clampRes, clampTo_eq_nearest, wrapImg_eq, clamped]

theorem ofInt_neg_toInt {n : Nat} (x : BitVec n) : BitVec.ofInt n (-x.toInt) = -x := by rw [BitVec.ofInt_neg, BitVec.ofInt_toInt]

theorem ofInt_natAbs_toInt {n : Nat} (x : BitVec n) : BitVec.ofInt n x.toInt.natAbs = if x.msb then -x else x := by
  rw [BitVec.msb_eq_toInt]
  split
  next h => rw [Int.ofNat_natAbs_of_nonpos (Int.le_of_lt (of_decide_eq_true h)), ofInt_neg_toInt]
  next h => rw [Int.natAbs_of_nonneg (not_lt.1 (of_decide_eq_false (Bool.eq_false_of_not_eq_true h))), BitVec.ofInt_toInt]

section
variable (n : Nat) (a b : Img) (u : Bool)

theorem aluAdds_eq : aluAdds u n a b =
    ⟨(clamped u n (a.int u n + b.int u n) (a.s || b.s)).1, (clamped u n (a.int u n + b.int u n) (a.s || b.s)).2⟩ := by
  rw [aluAdds, nval_eq_int, nval_eq_int, clampRes_eq]

theorem aluSubs_eq : aluSubs u n a b =
    ⟨(clamped u n (a.int u n - b.int u n) (a.s || b.s)).1, (clamped u n (a.int u n - b.int u n) (a.s || b.s)).2⟩ := by
  rw [aluSubs, nval_eq_int, nval_eq_int, clampRes_eq]

theorem aluMin_eq : aluMin u n a b = { img := ofBits (if b.int u n < a.int u n then b.at n else a.at n) (a.s || b.s) } := by
  rw [aluMin, nval_eq_int, nval_eq_int]
  refine wrapRes_of_ofInt ?_ _
  rw [min_comm, min_def_lt, apply_ite (BitVec.ofInt n), Img.ofInt_int, Img.ofInt_int]

theorem aluMax_eq : aluMax u n a b = { img := ofBits (if a.int u n < b.int u n then b.at n else a.at n) (a.s || b.s) } := by
  rw [aluMax, nval_eq_int, nval_eq_int]
  refine wrapRes_of_ofInt ?_ _
  rw [max_def_lt, apply_ite (BitVec.ofInt n), Img.ofInt_int, Img.ofInt_int]

theorem aluAbs_wraps : aluAbs false n a = { img := ofBits (if (a.at n).msb then -(a.at n) else a.at n) a.s } := by
  rw [aluAbs, sval_eq_toInt]
  exact wrapRes_of_ofInt (ofInt_natAbs_toInt _) _

theorem aluNeg_wraps : aluNeg false n a = { img := ofBits (-(a.at n)) a.s } := by
  rw [aluNeg, sval_eq_toInt]
  exact wrapRes_of_ofInt (ofInt_neg_toInt _) _

theorem aluAbs_clamps : aluAbs true n a =
    ⟨(clamped false n ((a.at n).toInt.natAbs : Int) a.s).1, (clamped false n ((a.at n).toInt.natAbs : Int) a.s).2⟩ := by
  rw [aluAbs, sval_eq_toInt]
  exact clampRes_eq ..

theorem aluNeg_clamps : aluNeg true n a = ⟨(clamped false n (-(a.at n).toInt) a.s).1, (clamped false n (-(a.at n).toInt) a.s).2⟩ := by
  rw [aluNeg, sval_eq_toInt]
  exact clampRes_eq ..

end

/-! ### Addresses and logic (R275, R276) -/

section
variable (n : Nat) (a b : Img)

theorem aluLea_eq (k : BitVec 2) : aluLea k n a b = { img := ofBits (a.at n + (b.at n <<< k.toNat)) (a.s || b.s) } := by
  have hcast : (uval n a : Int) + uval n b * 2 ^ k.toNat = (uval n a + uval n b * 2 ^ k.toNat : Nat) := by push_cast; rfl
  rw [aluLea, hcast, uval_eq_toNat, uval_eq_toNat]
  refine wrapRes_natCast ?_ _
  rw [BitVec.toNat_add, BitVec.toNat_shiftLeft, Nat.shiftLeft_eq, Nat.add_mod_mod]

theorem aluLeaBlk_eq (addr : Nat) : aluLeaBlk addr a = { img := ofBits (BitVec.ofNat 64 addr + (a.v <<< 4)) a.s } := by
  have hscaled : a.v <<< 4 = BitVec.ofInt 64 16 * a.v := by
    rw [BitVec.shiftLeft_eq_mul_twoPow, BitVec.mul_comm]
    rfl
  rw [aluLeaBlk, sval_eq_toInt, Img.at, BitVec.setWidth_eq]
  refine wrapRes_of_ofInt ?_ _
  rw [BitVec.ofInt_add, BitVec.ofInt_mul, BitVec.ofInt_natCast, BitVec.ofInt_toInt, hscaled]

theorem aluAnd_eq : aluAnd n a b = { img := ofBits (a.at n &&& b.at n) (a.s || b.s) } := by
  rw [aluAnd, wrapRes_toNat, BitVec.setWidth_and, Img.at, Img.at]

theorem aluOr_eq : aluOr n a b = { img := ofBits (a.at n ||| b.at n) (a.s || b.s) } := by
  rw [aluOr, wrapRes_toNat, BitVec.setWidth_or, Img.at, Img.at]

theorem aluXor_eq : aluXor n a b = { img := ofBits (a.at n ^^^ b.at n) (a.s || b.s) } := by
  rw [aluXor, wrapRes_toNat, BitVec.setWidth_xor, Img.at, Img.at]

variable {n}

theorem aluAndn_eq (hn : n ≤ 64) : aluAndn n a b = { img := ofBits (a.at n &&& ~~~ b.at n) (a.s || b.s) } := by
  rw [aluAndn, wrapRes_toNat, BitVec.setWidth_and, BitVec.setWidth_not hn, Img.at, Img.at]

theorem aluNot_eq (hn : n ≤ 64) : aluNot n a = { img := ofBits (~~~ a.at n) a.s } := by
  rw [aluNot, wrapRes_toNat, BitVec.setWidth_not hn, Img.at]

end

/-! ### Shifts by a whole amount (R160, R277) -/

section
variable {n : Nat} (x : BitVec n) (k : Nat)

theorem shl_toNat : shl n x.toNat k = (x <<< k).toNat := by
  rw [shl, BitVec.toNat_shiftLeft, Nat.shiftLeft_eq]
  split
  next h => rw [Nat.mod_eq_zero_of_dvd (Dvd.dvd.mul_left (pow_dvd_pow 2 h) _)]
  next => rfl

theorem shr_toNat : shr n x.toNat k = (x >>> k).toNat := by
  rw [shr, BitVec.toNat_ushiftRight, Nat.shiftRight_eq_div_pow, Nat.mod_eq_of_lt x.isLt]
  split
  next h => rw [Nat.div_eq_of_lt (x.isLt.trans_le (Nat.pow_le_pow_right two_pos h))]
  next => rfl

/-- An amount of n or more leaves the sign alone, as the quotient by 2^k does. -/
theorem shra_toNat : shra n x.toNat k = x.toInt / 2 ^ k := by
  rw [shra, signedOf_toNat]
  split
  next h =>
    have hlo := x.le_toInt
    have hhi := x.toInt_lt
    have hpow : (2 : Int) ^ (n - 1) ≤ 2 ^ k := pow_le_pow_right₀ one_le_two (by omega)
    split
    next hneg => rw [Int.ediv_eq_neg_one_of_neg_of_le hneg (by omega)]
    next hpos => rw [Int.ediv_eq_zero_of_lt (by omega) (by omega)]
  next => rfl

/-- A rotation joins two parts that share no bit, so their sum is their OR. -/
theorem rotl_toNat (hn : n ≠ 0) : rotl n x.toNat k = (x.rotateLeft k).toNat := by
  have hk : k % n < n := Nat.mod_lt k (Nat.pos_of_ne_zero hn)
  have hpow : 2 ^ n = 2 ^ (n - k % n) * 2 ^ (k % n) := by rw [← pow_add, Nat.sub_add_cancel hk.le]
  have hlow : x.toNat / 2 ^ (n - k % n) < 2 ^ (k % n) := Nat.div_lt_of_lt_mul (hpow ▸ x.isLt)
  have hhigh : x.toNat * 2 ^ (k % n) % 2 ^ n = (x.toNat % 2 ^ (n - k % n)) <<< (k % n) := by
    rw [hpow, Nat.mul_mod_mul_right, Nat.shiftLeft_eq]
  rw [BitVec.toNat_rotateLeft, Nat.shiftRight_eq_div_pow, Nat.shiftLeft_eq, hhigh, ← Nat.shiftLeft_add_eq_or_of_lt hlow, rotl, hhigh,
    Nat.mod_eq_of_lt x.isLt]

end

section
variable {n : Nat} (a b : Img)

theorem aluShl_eq : aluShl n a b = { img := ofBits (a.at n <<< b.at n) (a.s || b.s) } := by
  rw [aluShl, uval_eq_toNat, uval_eq_toNat, shl_toNat]
  exact wrapRes_of_ofInt (ofInt_toNat _) _

theorem aluShr_eq : aluShr n a b = { img := ofBits (a.at n >>> b.at n) (a.s || b.s) } := by
  rw [aluShr, uval_eq_toNat, uval_eq_toNat, shr_toNat]
  exact wrapRes_of_ofInt (ofInt_toNat _) _

theorem aluShra_eq : aluShra n a b = { img := ofBits ((a.at n).sshiftRight' (b.at n)) (a.s || b.s) } := by
  rw [aluShra, uval_eq_toNat, uval_eq_toNat, shra_toNat]
  refine wrapRes_of_ofInt ?_ _
  rw [BitVec.sshiftRight', BitVec.sshiftRight, Int.shiftRight_eq_div_pow, Nat.cast_pow, Nat.cast_ofNat]

theorem aluRot_eq (hn : n ≠ 0) : aluRot n a b = { img := ofBits ((a.at n).rotateLeft (b.at n).toNat) (a.s || b.s) } := by
  rw [aluRot, uval_eq_toNat, uval_eq_toNat, rotl_toNat _ _ hn]
  exact wrapRes_of_ofInt (ofInt_toNat _) _

end

/-! ### Counts (R278) -/

theorem popc_toNat {n : Nat} (x : BitVec n) : popc n x.toNat = (List.range n).countP (fun i => x.getLsbD i) := by
  rw [popc, List.countP_eq_length_filter]
  congr 2
  funext i
  rw [← BitVec.testBit_toNat, Nat.testBit_eq_decide_div_mod_eq]
  rfl

theorem aluClz_eq (n : Nat) (a : Img) :
    aluClz n a = { img := ofBits (BitVec.ofNat n (if a.at n = 0 then n else n - 1 - (a.at n).toNat.log2)) a.s } := by
  have hzero : (a.at n).toNat = 0 ↔ a.at n = 0 := (BitVec.toNat_eq (y := 0)).symm
  simp only [aluClz, uval_eq_toNat, hzero, ← Nat.cast_ite]
  exact wrapRes_of_ofInt (BitVec.ofInt_natCast ..) _

theorem aluPopc_eq (n : Nat) (a : Img) :
    aluPopc n a = { img := ofBits (BitVec.ofNat n ((List.range n).countP (fun i => (a.at n).getLsbD i))) a.s } := by
  rw [aluPopc, uval_eq_toNat, popc_toNat]
  exact wrapRes_of_ofInt (BitVec.ofInt_natCast ..) _

/-! ### Bit fields (R279) -/

section
variable {n : Nat} (x y : BitVec n) (pos len : Nat)

theorem toNat_field : x.toNat / 2 ^ pos % 2 ^ len = ((x >>> pos).setWidth len).toNat := by
  rw [BitVec.toNat_setWidth, BitVec.toNat_ushiftRight, Nat.shiftRight_eq_div_pow]

/-- What BFX delivers of a field, extended by its sign or by zeros; a field of no bits is 0. -/
theorem ofInt_extracted {len : Nat} (n : Nat) (signed : Bool) (f : BitVec len) :
    BitVec.ofInt n (if len = 0 then 0 else if signed then signedOf len f.toNat else f.toNat) = if signed then f.signExtend n else f.setWidth n := by
  have hnat : BitVec.ofInt n f.toNat = f.setWidth n := by rw [BitVec.ofInt_natCast, BitVec.ofNat_toNat]
  by_cases hlen : len = 0
  · subst hlen
    rw [if_pos rfl, BitVec.of_length_zero (x := f), BitVec.signExtend, BitVec.toInt_zero, BitVec.setWidth_zero, BitVec.ofInt_ofNat, ite_self]
  · rw [if_neg hlen, signedOf_toNat, apply_ite (BitVec.ofInt n), hnat, BitVec.signExtend]

/-- The bits from pos of a number, replaced by those of another. -/
theorem testBit_replace {u f pos len : Nat} (hf : f < 2 ^ len) (i : Nat) :
    (u - u / 2 ^ pos % 2 ^ len * 2 ^ pos + f * 2 ^ pos).testBit i
      = if pos ≤ i ∧ i < pos + len then f.testBit (i - pos) else u.testBit i := by
  have hsplit : u - u / 2 ^ pos % 2 ^ len * 2 ^ pos + f * 2 ^ pos = 2 ^ pos * (2 ^ len * (u / 2 ^ pos / 2 ^ len) + f) + u % 2 ^ pos := by
    have hu : u = 2 ^ pos * (2 ^ len * (u / 2 ^ pos / 2 ^ len)) + u / 2 ^ pos % 2 ^ len * 2 ^ pos + u % 2 ^ pos := by
      conv_lhs => rw [← Nat.div_add_mod u (2 ^ pos), ← Nat.div_add_mod (u / 2 ^ pos) (2 ^ len)]
      ring
    rw [mul_add, mul_comm f]
    omega
  rw [hsplit, Nat.testBit_two_pow_mul_add _ (Nat.mod_lt u (Nat.two_pow_pos pos)), Nat.testBit_two_pow_mul_add _ hf, Nat.testBit_mod_two_pow,
    Nat.testBit_div_two_pow, Nat.testBit_div_two_pow]
  by_cases hlow : i < pos
  · simp [hlow, Nat.not_le.2 hlow]
  · by_cases hmid : i < pos + len
    · rw [if_neg hlow, if_pos (by omega), if_pos ⟨by omega, hmid⟩]
    · rw [if_neg hlow, if_neg (by omega), if_neg (by omega), show i - pos - len + len + pos = i by omega]

/-- The bits of the field of len bits at pos. -/
def fieldMask (n pos len : Nat) : BitVec n := (BitVec.allOnes n <<< pos) &&& ~~~ (BitVec.allOnes n <<< (pos + len))

variable {i : Nat}

theorem getLsbD_fieldMask (hi : i < n) : (fieldMask n pos len).getLsbD i = decide (pos ≤ i ∧ i < pos + len) := by
  simp only [fieldMask, BitVec.getLsbD_and, BitVec.getLsbD_not, BitVec.getLsbD_shiftLeft, BitVec.getLsbD_allOnes, hi, decide_true, Bool.true_and,
    show i - pos < n by omega, show i - (pos + len) < n by omega, Bool.and_true, ← decide_not, ← Bool.decide_and, not_lt, not_le]

theorem getLsbD_inserted (hi : i < n) : ((x &&& ~~~ fieldMask n pos len) ||| ((y <<< pos) &&& fieldMask n pos len)).getLsbD i
    = if pos ≤ i ∧ i < pos + len then y.getLsbD (i - pos) else x.getLsbD i := by
  rw [BitVec.getLsbD_or, BitVec.getLsbD_and, BitVec.getLsbD_and, BitVec.getLsbD_not, getLsbD_fieldMask _ _ hi, BitVec.getLsbD_shiftLeft]
  split
  next h => simp [hi, h]
  next h => simp [hi, h]

end

section
variable (n : Nat) (a b c : Img)

theorem aluBfx_unsigned : aluBfx true n a b =
    { img := ofBits (((a.at n >>> fieldPos b).setWidth (fieldLen b)).setWidth n) (a.s || b.s) } := by
  simp only [aluBfx, uval_eq_toNat, toNat_field]
  exact wrapRes_of_ofInt (ofInt_extracted n false _) _

/-- A field that fills the whole width is its own value under either extension. -/
theorem aluBfx_signed : aluBfx false n a b =
    { img := ofBits (if fieldPos b + fieldLen b ≤ n then ((a.at n >>> fieldPos b).setWidth (fieldLen b)).signExtend n
        else ((a.at n >>> fieldPos b).setWidth (fieldLen b)).setWidth n) (a.s || b.s) } := by
  simp only [aluBfx, uval_eq_toNat, toNat_field]
  refine wrapRes_of_ofInt ((ofInt_extracted n (!false && decide (fieldPos b + fieldLen b ≤ n ∧ fieldLen b < n)) _).trans ?_) _
  by_cases hfits : fieldPos b + fieldLen b ≤ n
  · by_cases hlt : fieldLen b < n
    · simp [hfits, hlt]
    · simp [hfits, hlt, BitVec.signExtend_eq_setWidth_of_le _ (not_lt.1 hlt)]
  · simp [hfits]

/-- BFI bit by bit: the part of the field that lies below bit n takes the low bits of b. -/
theorem aluBfi_eq : aluBfi n a b c =
    { img := ofBits ((a.at n &&& ~~~ fieldMask n (fieldPos c) (fieldLen c)) ||| ((b.at n <<< fieldPos c) &&& fieldMask n (fieldPos c) (fieldLen c)))
        (a.s || b.s || c.s) } := by
  simp only [aluBfi, uval_eq_toNat]
  refine wrapRes_of_ofInt (BitVec.eq_of_getLsbD_eq fun i hi => ?_) _
  rw [getLsbD_inserted _ _ _ _ hi, BitVec.ofInt_natCast, BitVec.getLsbD_ofNat, decide_eq_true hi, Bool.true_and]
  split
  next hout => rw [if_neg (by omega), BitVec.testBit_toNat]
  next hin =>
    have hwhole : i < fieldPos c + min (fieldLen c) (n - fieldPos c) ↔ i < fieldPos c + fieldLen c := by omega
    simp only [testBit_replace (Nat.mod_lt _ (Nat.two_pow_pos _)), hwhole]
    split
    next h => rw [Nat.testBit_mod_two_pow, decide_eq_true (by omega), Bool.true_and, BitVec.testBit_toNat]
    next => rw [BitVec.testBit_toNat]

end

/-! ### The instructions -/

section
variable {i : Instr} {p : BitVec 2} {ts : List (BitVec 9)}

/-- An instruction that computes from its left operand, at the widths of R261. -/
theorem computes_left {f : Nat → Img → AluRes} {r : Nat → Img → Img × Flags}
    (hi : ∀ s, exec i s = execAlu s p ts [.left] fmInt (fun e a _ _ => f e.n a))
    (hr : ∀ n, n ≠ 0 → n ≤ 64 → ∀ a, f n a = ⟨(r n a).1, (r n a).2⟩) : Computes i p ts [.left] (fun n a _ _ => r n a) := by
  refine computes_of pred_left hi (fun e he a b x a' b' x' ha _ _ => ?_)
  rw [ha (by simp)]
  exact hr e.n (by omega) (by omega) a

/-- An instruction that computes from its left and right operands, at the widths of R261. -/
theorem computes_leftRight {f : Nat → Img → Img → AluRes} {r : Nat → Img → Img → Img × Flags}
    (hi : ∀ s, exec i s = execAlu s p ts [.left, .right] fmInt (fun e a b _ => f e.n a b))
    (hr : ∀ n, n ≠ 0 → n ≤ 64 → ∀ a b, f n a b = ⟨(r n a b).1, (r n a b).2⟩) :
    Computes i p ts [.left, .right] (fun n a b _ => r n a b) := by
  refine computes_of pred_leftRight hi (fun e he a b x a' b' x' ha hb _ => ?_)
  rw [ha (by simp), hb (by simp)]
  exact hr e.n (by omega) (by omega) a b

end

section
variable (p : BitVec 2) (t u : BitVec 9)

/-- MOVI (R265). -/
theorem computes_movi (i : BitVec 13) : Computes (.movi p t i) p [t] [] (fun n _ _ _ => plain (i.signExtend n) false) :=
  computes_of pred_nil (exec_movi p t i) (fun e _ _ _ _ _ _ _ _ _ _ => aluMovi_eq e.n i)

/-- The block-relative form of LEA (R275). -/
theorem computes_leaBlk : ComputesInCore (.leaBlk p t u) p [t, u] [.left]
    (fun blk a _ _ => plain (BitVec.ofNat 64 blk.addr + (a.v <<< 4)) a.s) := by
  intro s c bi slot blk ps a b x h hl ho
  have ha : (firingCtx s c bi slot blk p).a = a := by simp [firingCtx, ho.1]
  rw [exec_leaBlk, execLeaBlk, execCore_fires pred_left h hl ho, ha, aluLeaBlk_eq, CoreCtx.finish, put_eq rfl, lets_ps hl]
  rfl

/-- BFI (R279). -/
theorem computes_bfi : Computes (.bfi p t u) p [t, u] [.left, .right, .third] (fun n a b c =>
    plain ((a.at n &&& ~~~ fieldMask n (fieldPos c) (fieldLen c)) ||| ((b.at n <<< fieldPos c) &&& fieldMask n (fieldPos c) (fieldLen c)))
      (a.s || b.s || c.s)) := by
  refine computes_of pred_leftRightThird (exec_bfi p t u) (fun e _ a b c a' b' c' ha hb hc => ?_)
  rw [ha (by simp), hb (by simp), hc (by simp)]
  exact aluBfi_eq e.n a b c

end

/-! ### The obligations -/

/-- Settles O1: each result wraps to the pattern that the obligation names. -/
theorem constantsAndArithmetic : Obligations.ConstantsAndArithmetic :=
  ⟨fun p t i => ⟨computes_movi p t i,
      computes_left (f := fun n a => aluMovk n i a) (exec_movk p t i) (fun n _ _ a => aluMovk_eq n a i),
      computes_left (f := fun n a => aluAddi n i a) (exec_addi p t i) (fun n _ _ a => aluAddi_eq n a i)⟩,
    fun p t u k => ⟨computes_leftRight (exec_add p t u) (fun n _ _ a b => aluAdd_eq n a b),
      computes_leftRight (exec_sub p t u) (fun n _ _ a b => aluSub_eq n a b),
      computes_leftRight (exec_mul p t u) (fun n _ _ a b => aluMul_eq n a b),
      computes_leftRight (exec_mulh p t u k) (fun n _ _ a b => aluMulh_eq n a b (k == 1))⟩⟩

/-- Settles O2: a zero divisor is one case of `aluDiv_eq` and `aluRem_eq`, and the signed overflow is one of `divRem_signed`. -/
theorem division : Obligations.Division := fun p t u =>
  ⟨computes_leftRight (exec_div p t u 0) (fun n _ _ a b => aluDiv_signed n a b),
    computes_leftRight (exec_div p t u 1) (fun n _ _ a b => aluDiv_unsigned n a b),
    computes_leftRight (exec_rem p t u 0) (fun n _ _ a b => aluRem_signed n a b),
    computes_leftRight (exec_rem p t u 1) (fun n _ _ a b => aluRem_unsigned n a b)⟩

/-- Settles O3: what clamps is one case of `clampRes_eq`, what chooses or wraps delivers a pattern. -/
theorem saturatingArithmetic : Obligations.SaturatingArithmetic := fun p t u k =>
  ⟨computes_leftRight (exec_adds p t u k) (fun n _ _ a b => aluAdds_eq n a b (k == 1)),
    computes_leftRight (exec_subs p t u k) (fun n _ _ a b => aluSubs_eq n a b (k == 1)),
    computes_leftRight (exec_min p t u k) (fun n _ _ a b => aluMin_eq n a b (k == 1)),
    computes_leftRight (exec_max p t u k) (fun n _ _ a b => aluMax_eq n a b (k == 1)),
    computes_left (exec_abs p t u 0) (fun n _ _ a => aluAbs_wraps n a), computes_left (exec_neg p t u 0) (fun n _ _ a => aluNeg_wraps n a),
    computes_left (exec_abs p t u 1) (fun n _ _ a => aluAbs_clamps n a), computes_left (exec_neg p t u 1) (fun n _ _ a => aluNeg_clamps n a)⟩

/-- Settles O4: each instruction by the equation of its computation; the control value of BFX and BFI names its field by `fieldPos` and `fieldLen`. -/
theorem logicAndBits : Obligations.LogicAndBits :=
  ⟨fun p t u k => ⟨computes_leftRight (exec_lea p t u k) (fun n _ _ a b => aluLea_eq n a b k), computes_leaBlk p t u,
      computes_leftRight (exec_andB p t u) (fun n _ _ a b => aluAnd_eq n a b),
      computes_leftRight (exec_orB p t u) (fun n _ _ a b => aluOr_eq n a b),
      computes_leftRight (exec_xorB p t u) (fun n _ _ a b => aluXor_eq n a b),
      computes_leftRight (exec_andn p t u) (fun _ _ hn a b => aluAndn_eq a b hn),
      computes_left (exec_notB p t u) (fun _ _ hn a => aluNot_eq a hn),
      computes_leftRight (exec_shl p t u) (fun _ _ _ a b => aluShl_eq a b),
      computes_leftRight (exec_shr p t u) (fun _ _ _ a b => aluShr_eq a b),
      computes_leftRight (exec_shra p t u) (fun _ _ _ a b => aluShra_eq a b),
      computes_leftRight (exec_rot p t u) (fun _ hn _ a b => aluRot_eq a b hn)⟩,
    fun p t u => ⟨computes_left (exec_clz p t u) (fun n _ _ a => aluClz_eq n a), computes_left (exec_popc p t u) (fun n _ _ a => aluPopc_eq n a),
      computes_leftRight (exec_bfx p t u 1) (fun n _ _ a b => aluBfx_unsigned n a b),
      computes_leftRight (exec_bfx p t u 0) (fun n _ _ a b => aluBfx_signed n a b), computes_bfi p t u⟩⟩

end Sys2Proof.Machine
end

section
/-! SUPPORT. GETC of a shape register that a committed block has yet to change, and the obligation on control registers (R170, R266, R269, R358). -/
namespace Sys2Proof.Machine

/-- R269: GETC of a register that the privilege allows delivers its value once every older block has committed. -/
theorem getc_gives (p : BitVec 2) (t : BitVec 9) (n : BitVec 8) :
    GivesInCore (.getc p t n) p [] [t] (fun _ x => x.bi = 0 ∧ (supervisorReg n.toNat = true → x.pc.priv = true))
      (fun s x => ⟨readControl s x.c n.toNat, false⟩) :=
  firesInCore_of pred_nil (fun _ => rfl) (fun _ _ hpc ⟨holdest, hallowed⟩ => by
    rw [if_neg (not_not.2 holdest), if_neg (by simpa using hallowed)]
    exact give_eq hpc t _)

/-! ### A state that meets the obligation's hypotheses and not its conclusion -/

/-- A SETC of a committed block, which gives TSH0 a shape in tile issue order. -/
def queuedShape : TileItem := { seq := 0, lsid := 0, op := .setTsh 0 1 }

/-- The next block, whose first word is GETC of TSH0 to the left of slot 1. -/
def getcBlock : Block := { words := [0x06002010] }

/-- A page core whose oldest block reads TSH0 while the SETC before it is still in tile issue order. -/
def shapeOnItsWay : State :=
  { State.reset with
    cores := [(⟨1, 0, 0, 0⟩, { PageCore.reset with blocks := [getcBlock], tileQ := [queuedShape] })]
    focus := .core ⟨1, 0, 0, 0⟩ 0 0 }

/-- The firing of the GETC. -/
def getcFiring : CoreCtx := firingCtx shapeOnItsWay ⟨1, 0, 0, 0⟩ 0 0 getcBlock 0

/-- What has arrived at the left of slot 1 of the oldest block. -/
def State.arrivedLeft1 (s : State) : Option Img := (s.core ⟨1, 0, 0, 0⟩).blocks[0]?.bind (fun b => b.operand 1 .left)

theorem shapeOnItsWay_slot : CoreSlot shapeOnItsWay ⟨1, 0, 0, 0⟩ 0 0 getcBlock := ⟨rfl, rfl, rfl, rfl⟩

theorem getcBlock_insn : getcBlock.insn 0 = some (.getc 0 1 0x10) := by decide +kernel

theorem shapeOnItsWay_delivers (v : Img) :
    (shapeOnItsWay.putBlock ⟨1, 0, 0, 0⟩ 0 (getcBlock.computed 0 [1] v {})).arrivedLeft1 = some v := rfl

/-- What the GETC delivers there, by a statement that gives its image. -/
theorem shapeOnItsWay_given {ok : State → CoreCtx → Prop} {img : State → CoreCtx → Img} (h : GivesInCore (.getc 0 1 0x10) 0 [] [1] ok img)
    (hok : ok shapeOnItsWay getcFiring) :
    ∃ t, exec (.getc 0 1 0x10) shapeOnItsWay = .next t ∧ t.arrivedLeft1.map Img.v = some (img shapeOnItsWay getcFiring).v :=
  ⟨_, h _ _ _ _ _ _ shapeOnItsWay_slot (.inl ⟨rfl, rfl⟩) (fun _ hq => nomatch hq) hok, congrArg (Option.map Img.v) (shapeOnItsWay_delivers _)⟩

/-- GETC reads TSH0 as the SETC leaves it: its shape, and its FSEQ one higher. -/
theorem shapeOnItsWay_reads : readControl shapeOnItsWay ⟨1, 0, 0, 0⟩ 0x10 = 0x0001000000000001 := by decide +kernel

/-- The copy that the page core stores is still the empty one. -/
theorem shapeOnItsWay_stores : getcFiring.pc.tsh.getD 0 0 = 0 := by decide +kernel

/-- Refutes O14: its clause on TSH registers has GETC deliver the copy that the page core stores. GETC delivers the register as every committed block
leaves it (R269, R358), and where a committed SETC still waits in tile issue order (R170) the stored copy is older. -/
theorem not_controlRegisterInstructions : ¬ Obligations.ControlRegisterInstructions := by
  unfold Obligations.ControlRegisterInstructions
  intro h
  obtain ⟨-, -, -, -, -, -, -, hshape, -⟩ := h 0 1 0x10
  obtain ⟨t, ht, hread⟩ := shapeOnItsWay_given (getc_gives 0 1 0x10) ⟨rfl, fun hpriv => absurd hpriv (by decide)⟩
  obtain ⟨u, hu, hstored⟩ := shapeOnItsWay_given (hshape 0x10 (by decide) (by decide)) rfl
  have hstate : t = u := Host.Outcome.next.inj (ht.symm.trans hu)
  have hvalue := Option.some.inj (hread.symm.trans (hstate ▸ hstored))
  exact absurd (shapeOnItsWay_reads.symm.trans (hvalue.trans shapeOnItsWay_stores)) (by decide)

end Sys2Proof.Machine
end

section
/-! SUPPORT. Commit traps, checkpoints, TLBI, PERF and HALTD, and the obligation on them (R371, R373 to R376). -/
namespace Sys2Proof.Machine

/-! ### A slot that asks its block's commit -/

section
variable {i : Instr} {p : BitVec 2} {uses : List Pos} {lsid : Nat} {ok : State → CoreCtx → Prop} {a : State → CoreCtx → Act}

/-- An instruction that asks whatever its operands are. -/
theorem asks_of_ask (hu : Pos.pred ∉ uses) (hi : ∀ s, exec i s = execCore s p uses (fun x => x.ask s lsid (a s x))) :
    AsksInCore i p uses lsid always a :=
  firesInCore_of hu hi (fun _ _ hpc _ => ask_eq hpc lsid _)

/-- An instruction with one check, which asks where it passes. -/
theorem asks_of_check {f : State → CoreCtx → State} (hu : Pos.pred ∉ uses) (hi : ∀ s, exec i s = execCore s p uses (f s))
    (hf : ∀ s x, ok s x → f s x = x.ask s lsid (a s x)) : AsksInCore i p uses lsid ok a :=
  firesInCore_of hu hi (fun s x hpc hok => (hf s x hok).trans (ask_eq hpc lsid _))

/-- It faults where its check does not pass. -/
theorem fails_of_check {f : State → CoreCtx → State} {e : State → CoreCtx → Nat × DWord} (hu : Pos.pred ∉ uses)
    (hi : ∀ s, exec i s = execCore s p uses (f s)) (hf : ∀ s x, ok s x → f s x = x.fail s (e s x).1 (e s x).2 lsid) :
    FailsInCore i p uses lsid ok e :=
  firesInCore_of hu hi (fun s x hpc hok => (hf s x hok).trans (fail_eq hpc _ _ lsid))

end

/-! ### Checkpoints (R373) -/

section
variable {i : Instr} {p : BitVec 2} {lsid : Nat} {yield : Bool}
  (hi : ∀ s, exec i s = execCore s p [.left] (fun x => x.checkpoint s lsid yield))
include hi

/-- A buffer of less than 128 bytes is ILLEGAL_INSN. -/
theorem checkpoint_fails : FailsInCore i p [.left] lsid (fun _ x => x.a.v.toNat < 128) (fun _ x => (1, x.blk.word x.slot)) :=
  fails_of_check pred_left hi (fun _ _ hsmall => if_pos hsmall)

/-- Without an address in CKPTA nothing is translated. -/
theorem checkpoint_asks : AsksInCore i p [.left] lsid (fun _ x => 128 ≤ x.a.v.toNat ∧ x.pc.ckpta.getLsbD 0 = false)
    (fun _ x => .ckpt yield x.a.v.toNat none) :=
  asks_of_check pred_left hi (fun s x ⟨hsize, haddr⟩ => by
    simp only [CoreCtx.checkpoint, if_neg (Nat.not_lt.2 hsize), haddr, Bool.false_eq_true, if_false])

end

/-! ### Translations (R374) -/

section
variable (p : BitVec 2) (l : BitVec 5) (k : BitVec 2) (c : BitVec 3)

theorem pred_notMem_tlbi : Pos.pred ∉ (if k = 0 then [Pos.left] else []) := by split <;> decide

theorem tlbi_fails_of_unprivileged : FailsInCore (.tlbi p l k c) p (if k = 0 then [.left] else []) l.toNat
    (fun _ x => x.pc.sstat.getLsbD 1 = false) (fun _ x => (2, x.blk.word x.slot)) :=
  fails_of_check (pred_notMem_tlbi k) (exec_tlbi p l k c) (fun _ _ hpriv => if_pos (by rw [PageCore.priv, hpriv]; rfl))

theorem tlbi_asks : AsksInCore (.tlbi p l k c) p (if k = 0 then [.left] else []) l.toNat (fun _ x => x.pc.sstat.getLsbD 1)
    (fun _ x => .tlbi k.toNat c.toNat x.a.v.toNat) :=
  asks_of_check (pred_notMem_tlbi k) (exec_tlbi p l k c) (fun _ _ hpriv => if_neg (by simpa [PageCore.priv] using hpriv))

end

/-! ### The initiation-interval logs (R375) -/

section
variable {i : Instr} {p : BitVec 2} {t : BitVec 9} {v : List DWord → CoreCtx → DWord}

/-- PERF.rd and PERF.cnt deliver a word of the ring of their plot, or of an empty one. -/
def ReadsPlot (i : Instr) (p : BitVec 2) (t : BitVec 9) (v : List DWord → CoreCtx → DWord) : Prop :=
  ∀ s, exec i s = execCore s p [.left] (fun x => if x.bi ≠ 0 then s
    else x.give s t ⟨v (((s.plotOf x.c (x.a.v.toNat % 16)).map (fun q => q.ring)).getD []) x, false⟩)

theorem ReadsPlot.waits (hi : ReadsPlot i p t v) : WaitsInCore i p [.left] (fun _ x => x.bi ≠ 0) :=
  firesInCore_of pred_left hi (fun _ _ _ hyoung => if_pos hyoung)

theorem ReadsPlot.gives (hi : ReadsPlot i p t v) (q : Plot) :
    GivesInCore i p [.left] [t] (fun s x => x.bi = 0 ∧ s.plotOf x.c (x.a.v.toNat % 16) = some q) (fun _ x => ⟨v q.ring x, false⟩) :=
  firesInCore_of pred_left hi (fun s x hpc ⟨hold, hplot⟩ => by
    rw [if_neg (not_not.2 hold), hplot]
    exact give_eq hpc t _)

variable (p : BitVec 2) (t u : BitVec 9)

theorem readsPlot_cnt : ReadsPlot (.perfCnt p t u) p t (fun ring _ => BitVec.ofNat 64 ring.length) := exec_perfCnt p t u
theorem readsPlot_rd : ReadsPlot (.perfRd p t u) p t (fun ring x => ring.getD (x.a.v.toNat / 16 % 64) 0) := exec_perfRd p t u

end

/-! ### The obligation -/

/-- Settles O16: most of these ask at once; CKPT and TLBI ask after their one check, and PERF.rd and PERF.cnt read the ring of their plot once the block
is the oldest. -/
theorem systemInstructions : Obligations.SystemInstructions := by
  intro p t u v l k c
  refine ⟨asks_of_ask pred_nil (exec_trap p v), asks_of_ask pred_nil (exec_sysc p v), asks_of_ask pred_nil (exec_brk p v),
    asks_of_ask pred_nil (exec_haltdStop p), asks_of_ask pred_nil (exec_haltdFrz p), ?ckpt, tlbi_fails_of_unprivileged p l k c, tlbi_asks p l k c,
    asks_of_ask pred_left (exec_perfCfg p), asks_of_ask pred_left (exec_perfClr p), ?waits,
    fun q => ⟨(readsPlot_cnt p t u).gives q, (readsPlot_rd p t u).gives q⟩⟩
  case ckpt =>
    simp only [List.forall_mem_cons, List.not_mem_nil, false_imp_iff, implies_true, and_true]
    exact ⟨⟨checkpoint_fails (exec_ckptCont p l), checkpoint_asks (exec_ckptCont p l)⟩,
      checkpoint_fails (exec_ckptYield p l), checkpoint_asks (exec_ckptYield p l)⟩
  case waits =>
    simp only [List.forall_mem_cons, List.not_mem_nil, false_imp_iff, implies_true, and_true]
    exact ⟨(readsPlot_rd p t u).waits, (readsPlot_cnt p t u).waits⟩

end Sys2Proof.Machine
end

section
/-! SUPPORT. Lane commands, and the obligation on them (R327, R329 to R331). -/
namespace Sys2Proof.Machine

/-- R327: SEQ names a lane of a pipeline of the block's launch. -/
def CoreCtx.hasLane (s : State) (x : CoreCtx) : Prop :=
  x.blk.seqReg.getLsbD 31 = false ∧ (s.sprout (x.blk.seqReg.toNat % 512 / 64)).owner = some x.c.lid
    ∧ x.blk.seqReg.toNat % 64 < (s.sprout (x.blk.seqReg.toNat % 512 / 64)).nlane

theorem ownsLane_iff (s : State) (lid lane : Nat) :
    s.ownsLane lid lane = true ↔ (s.sprout (lane / 64)).owner = some lid ∧ lane % 64 < (s.sprout (lane / 64)).nlane := by
  simp [State.ownsLane]

/-- The lane check of R327 passes for the lanes that `hasLane` names. -/
theorem CoreCtx.lane_check_iff (s : State) (x : CoreCtx) :
    (seqNolane x.blk.seqReg || !s.ownsLane x.c.lid (seqLane x.blk.seqReg)) = true ↔ ¬ CoreCtx.hasLane s x := by
  have hlane : seqLane x.blk.seqReg % 64 = x.blk.seqReg.toNat % 64 := Nat.mod_mod_of_dvd _ (by decide)
  rw [CoreCtx.hasLane, ← hlane, ← seqLane, ← ownsLane_iff, seqNolane]
  cases x.blk.seqReg.getLsbD 31 <;> simp

/-- A lane command is kept for commit, or is PROTECTION with SEQ. -/
theorem laneCommand_of {i : Instr} {p : BitVec 2} {uses : List Pos} {lsid : Nat} {a : CoreCtx → Act} (hu : Pos.pred ∉ uses)
    (hi : ∀ s, exec i s = execCore s p uses (fun x => x.laneAsk s lsid (a x))) :
    AsksInCore i p uses lsid CoreCtx.hasLane (fun _ x => a x)
    ∧ FailsInCore i p uses lsid (fun s x => ¬ CoreCtx.hasLane s x) (fun _ x => (5, x.blk.seqReg)) :=
  ⟨asks_of_check hu hi (fun s x hlane => if_neg (by rwa [CoreCtx.lane_check_iff, not_not])),
    fails_of_check hu hi (fun s x hnone => if_pos ((CoreCtx.lane_check_iff s x).2 hnone))⟩

/-- Settles O25: the four commands share the check of R327 and differ in their operands and in what they keep for commit. -/
theorem laneCommands : Obligations.LaneCommands := by
  intro p l f r i uses a hmem
  simp only [List.mem_cons, Prod.mk.injEq, List.not_mem_nil, or_false] at hmem
  obtain ⟨rfl, rfl, rfl⟩ | ⟨rfl, rfl, rfl⟩ | ⟨rfl, rfl, rfl⟩ | ⟨rfl, rfl, rfl⟩ := hmem
  · exact laneCommand_of pred_leftRight (exec_launchp p l)
  · have hu : Pos.pred ∉ (if r = 1 then [Pos.left, Pos.right] else [Pos.left]) := by split <;> decide
    exact laneCommand_of hu (exec_prune p l f r)
  · exact laneCommand_of pred_leftRight (exec_seqOpen p l)
  · exact laneCommand_of pred_nil (exec_seqClose p l)

end Sys2Proof.Machine
end

section
/-! SUPPORT. Stores, presence and atomics of C-blocks, and the obligations on them (R332, R333, R337 to R343). -/
namespace Sys2Proof.Machine

/-! ### An access that is checked as it fires (R332) -/

/-- An instruction that checks one access, then does what `f` says with the span that it reaches. -/
def ChecksAccess (i : Instr) (p : BitVec 2) (uses : List Pos) (lsid align : Nat) (len : CoreCtx → Nat) (k : CoreCtx → AccKind) (gcheck : Bool)
    (f : State → CoreCtx → Span → State) : Prop :=
  ∀ s, exec i s = execCore s p uses (fun x => x.checked s lsid x.a.v.toNat (len x) align (k x) gcheck (f s x))

section
variable {i : Instr} {p : BitVec 2} {uses : List Pos} {lsid align : Nat} {len : CoreCtx → Nat} {k : CoreCtx → AccKind} {gcheck : Bool}
  {f : State → CoreCtx → Span → State} (hu : Pos.pred ∉ uses) (hi : ChecksAccess i p uses lsid align len k gcheck f)
include hu hi

theorem ChecksAccess.fails_of_error (e : XFault) : FailsInCore i p uses lsid
    (fun s x => coreSpan s x.c x.blk.seqReg x.a.v.toNat (len x) align (k x) gcheck = .error e) (fun _ _ => (e.code, BitVec.ofNat 64 e.va)) :=
  fails_of_check hu hi (fun _ _ herr => CoreCtx.checked_of_error herr lsid _)

theorem ChecksAccess.fails_of_misaligned : FailsInCore i p uses lsid (fun _ x => ¬ align ∣ x.a.v.toNat) (fun _ x => (3, x.a.v)) :=
  fails_of_check hu hi (fun s x hmis => by
    rw [CoreCtx.checked_of_error (coreSpan_of_misaligned s _ _ hmis _ _ _), BitVec.ofNat_toNat, BitVec.setWidth_eq])

/-- Where the access is allowed, what follows is `f`. -/
theorem ChecksAccess.fires {sp : Span} {ok : State → CoreCtx → Prop} {next : State → CoreCtx → State}
    (hf : ∀ s x, x.pc = s.core x.c → ok s x → f s x sp = next s x) : FiresInCore i p uses
      (fun s x => coreSpan s x.c x.blk.seqReg x.a.v.toNat (len x) align (k x) gcheck = .ok sp ∧ ok s x) next :=
  firesInCore_of hu hi (fun s x hpc ⟨hspan, hok⟩ => (CoreCtx.checked_of_ok hspan lsid _).trans (hf s x hpc hok))

theorem ChecksAccess.asks {sp : Span} {a : State → CoreCtx → Act} (hf : ∀ s x, f s x sp = x.ask s lsid (a s x)) : AsksInCore i p uses lsid
    (fun s x => coreSpan s x.c x.blk.seqReg x.a.v.toNat (len x) align (k x) gcheck = .ok sp) a :=
  firesInCore_of hu hi (fun s x hpc hspan => ((CoreCtx.checked_of_ok hspan lsid _).trans (hf s x)).trans (ask_eq hpc lsid _))

end

/-! ### Stores (R337) -/

/-- The integer types of R335 but the 64-bit one: the width of each is that of its bytes, and type 9 is the one that is unsigned. -/
theorem storeType_int {y : Nat} (hy : y ∈ [8, 9, 12, 13]) :
    fmtWidth y = 8 * typeBytes y ∧ fmtUnsigned y = (y == 9) ∧ fmtIsInt y = true := by
  revert y; decide

theorem satInt_eq_nearest (t : Int) (f : Nat) : satInt t f = nearest (fmtUnsigned f) (fmtWidth f) t := by
  rw [← clampTo_eq_nearest, satInt, clampTo, intLeast, intGreatest]
  split <;> rfl

/-- The code of a store, as R337 has it by its type. -/
def CoreCtx.stored (x : CoreCtx) (y : BitVec 4) (m : BitVec 3) : FinalRes :=
  if y.toNat ≤ 5 then finalRound x.b y.toNat (if m = 6 then x.blk.rmode.toNat % 8 else m.toNat) (x.blk.rmode.getLsbD 3)
  else if y = 14 then { code := x.b.v.toNat }
  else
    let v : ℤ := if y = 9 then x.b.v.toNat else x.b.v.toInt
    { code := bitsOf (8 * typeBytes y.toNat) (nearest (y == 9) (8 * typeBytes y.toNat) v)
      fl := { sat := decide (nearest (y == 9) (8 * typeBytes y.toNat) v ≠ v) } }

theorem storeCode_eq_stored (x : CoreCtx) (m : BitVec 3) {y : BitVec 4} (hy : y ∈ [(0 : BitVec 4), 1, 2, 3, 4, 5, 8, 9, 12, 13, 14]) :
    storeCode x.b y.toNat m.toNat x.blk.mode x.blk.satf8 = x.stored y m := by
  have hmode : m.toNat = 6 ↔ m = 6 := ⟨fun h => BitVec.eq_of_toNat_eq h, congrArg BitVec.toNat⟩
  have hword : y.toNat = 14 ↔ y = 14 := ⟨fun h => BitVec.eq_of_toNat_eq h, congrArg BitVec.toNat⟩
  simp only [storeCode, CoreCtx.stored, hmode, hword]
  split
  next => rfl
  next hfloat =>
    split
    next => rfl
    next hlong =>
      have hint : y.toNat ∈ [8, 9, 12, 13] ∧ ((y.toNat == 9) = (y == 9)) ∧ ((y == 9) = decide (y = 9)) := by
        revert y; decide
      obtain ⟨hmem, hnine, hdec⟩ := hint
      obtain ⟨hwidth, huns, -⟩ := storeType_int hmem
      simp only [satInt_eq_nearest, hwidth, huns, hnine, hdec, decide_eq_true_eq]

section
variable {i : Instr} {p : BitVec 2} {lsid : Nat} {y : BitVec 4} {m : BitVec 3} {rel : Option Nat}

/-- ST and STL store one element of their type. -/
def StoresElem (i : Instr) (p : BitVec 2) (lsid : Nat) (y : BitVec 4) (m : BitVec 3) (rel : Option Nat) : Prop :=
  ChecksAccess i p [.left, .right] lsid (typeBytes y.toNat) (fun _ => typeBytes y.toNat) CoreCtx.wr true (fun s x sp =>
    if spanAttr sp ≠ 0 ∧ y.toNat ≠ 14 then x.fail s 6 x.a.v lsid
    else
      let r := storeCode x.b y.toNat m.toNat x.blk.mode x.blk.satf8
      x.askFlags s lsid (.store sp (leBytes (typeBytes y.toNat) r.code) rel (genOf x.blk.genReg)) r.fl)

variable (hi : StoresElem i p lsid y m rel) (sp : Span)
include hi

/-- A narrow store to a WO page is WO_PARTIAL. -/
theorem StoresElem.fails_of_partial : FailsInCore i p [.left, .right] lsid
    (fun s x => coreSpan s x.c x.blk.seqReg x.a.v.toNat (typeBytes y.toNat) (typeBytes y.toNat) x.wr true = .ok sp ∧ spanAttr sp ≠ 0 ∧ y ≠ 14)
    (fun _ x => (6, x.a.v)) :=
  ChecksAccess.fires pred_leftRight hi (fun _ x hpc ⟨hattr, hy⟩ =>
    (if_pos ⟨hattr, fun h => hy (BitVec.eq_of_toNat_eq h)⟩).trans (fail_eq hpc 6 x.a.v lsid))

/-- Any other store keeps its bytes for commit and asks for its flags. -/
theorem StoresElem.stores (hy : y ∈ [(0 : BitVec 4), 1, 2, 3, 4, 5, 8, 9, 12, 13, 14]) : FiresInCore i p [.left, .right]
    (fun s x => coreSpan s x.c x.blk.seqReg x.a.v.toNat (typeBytes y.toNat) (typeBytes y.toNat) x.wr true = .ok sp ∧ (spanAttr sp = 0 ∨ y = 14))
    (fun s x => s.putBlock x.c x.bi (({ x.blk.fire x.slot with flags := x.blk.flags.or (x.stored y m).fl }).ask x.slot lsid
      (.store sp (leBytes (typeBytes y.toNat) (x.stored y m).code) rel (x.blk.genReg.toNat % 2 ^ 16)))) :=
  ChecksAccess.fires pred_leftRight hi (fun s x hpc hok => by
    have hwhole : ¬ (spanAttr sp ≠ 0 ∧ y.toNat ≠ 14) := fun ⟨hattr, hne⟩ => hok.elim hattr (fun h => hne (congrArg BitVec.toNat h))
    rw [if_neg hwhole, storeCode_eq_stored x m hy]
    exact put_eq hpc _)

end

theorem storesElem_st (p : BitVec 2) (l : BitVec 5) (y : BitVec 4) (m : BitVec 3) : StoresElem (.st p l y m) p l.toNat y m none := exec_st p l y m
theorem storesElem_stl (p : BitVec 2) (l : BitVec 5) (y : BitVec 4) (m c : BitVec 3) :
    StoresElem (.stl p l y m c) p l.toNat y m (some c.toNat) := exec_stl p l y m c

/-! ### Images (R338) -/

section
variable (p : BitVec 2) (l : BitVec 5)

/-- A register image: sixteen bytes, the sticky bit above the value. -/
theorem checks_stimgReg : ChecksAccess (.stimg p l 0) p [.left, .right] l.toNat 16 (fun _ => 16) CoreCtx.wr true (fun s x sp =>
    x.ask s l.toNat (.store sp (leBytes 16 (x.b.v.toNat + if x.b.s then 2 ^ 64 else 0)) none (genOf x.blk.genReg))) := exec_stimg p l 0

/-- A lane image: five bytes, in a page that takes them. -/
theorem checks_stimgLane : ChecksAccess (.stimg p l 1) p [.left, .right] l.toNat 8 (fun _ => 5) CoreCtx.wr true (fun s x sp =>
    if spanAttr sp ≠ 0 then x.fail s 6 x.a.v l.toNat
    else x.ask s l.toNat (.store sp (leBytes 5 (x.b.v.toNat % 2 ^ 35 + if x.b.s then 2 ^ 35 else 0)) none (genOf x.blk.genReg))) := exec_stimg p l 1

theorem stimgLane_asks (sp : Span) : AsksInCore (.stimg p l 1) p [.left, .right] l.toNat
    (fun s x => coreSpan s x.c x.blk.seqReg x.a.v.toNat 5 8 x.wr true = .ok sp ∧ spanAttr sp = 0)
    (fun _ x => .store sp (leBytes 5 (x.b.v.toNat % 2 ^ 35 + if x.b.s then 2 ^ 35 else 0)) none (x.blk.genReg.toNat % 2 ^ 16)) :=
  (checks_stimgLane p l).fires pred_leftRight (fun _ _ hpc hattr => (if_neg (not_not.2 hattr)).trans (ask_eq hpc l.toNat _))

theorem stimgLane_fails (sp : Span) : FailsInCore (.stimg p l 1) p [.left, .right] l.toNat
    (fun s x => coreSpan s x.c x.blk.seqReg x.a.v.toNat 5 8 x.wr true = .ok sp ∧ spanAttr sp ≠ 0) (fun _ x => (6, x.a.v)) :=
  (checks_stimgLane p l).fires pred_leftRight (fun _ x hpc hattr => (if_pos hattr).trans (fail_eq hpc 6 x.a.v l.toNat))

theorem stimg_fails_of_misaligned (k : BitVec 1) : FailsInCore (.stimg p l k) p [.left, .right] l.toNat
    (fun _ x => ¬ (if k = 0 then 16 else 8) ∣ x.a.v.toNat) (fun _ x => (3, x.a.v)) := by
  obtain rfl | rfl : k = 0 ∨ k = 1 := by revert k; decide
  · exact (checks_stimgReg p l).fails_of_misaligned pred_leftRight
  · exact (checks_stimgLane p l).fails_of_misaligned pred_leftRight

end

/-- Settles O20: ST and STL differ in the release alone, and the two forms of STIMG in their bytes. Each checks its address as it fires. That the S of
a predicate does not reach a store is the model's reading (log 28). -/
theorem storesAsk : Obligations.StoresAsk := by
  intro p l y m c k
  refine ⟨?elements, fun sp => ⟨(checks_stimgReg p l).asks pred_leftRight (fun _ _ => rfl), stimgLane_asks p l sp, stimgLane_fails p l sp⟩,
    stimg_fails_of_misaligned p l k⟩
  case elements =>
    intro code i rel hmem hy sp
    have hi : StoresElem i p l.toNat y m rel := by
      simp only [List.mem_cons, Prod.mk.injEq, List.not_mem_nil, or_false] at hmem
      obtain ⟨rfl, rfl⟩ | ⟨rfl, rfl⟩ := hmem
      · exact storesElem_st p l y m
      · exact storesElem_stl p l y m c
    exact ⟨ChecksAccess.fails_of_misaligned pred_leftRight hi, hi.fails_of_partial sp, hi.stores sp hy⟩

/-! ### Presence (R339, R340) -/

section
variable (p : BitVec 2) (l : BitVec 5)

/-- TILL and TILLG check every line, and that its page is one of the right kind. -/
def TillsLines (i : Instr) (p : BitVec 2) (lsid : Nat) (g : Bool) : Prop :=
  ChecksAccess i p [.left, .right] lsid 64 (fun x => 64 * (x.b.v.toNat % 2 ^ 32)) (fun x => { x.wr with least := if g then 2 else 1 }) false
    (fun s x sp => x.ask s lsid (.till sp g))

theorem tillsLines_till : TillsLines (.till p l) p l.toNat false := exec_till p l
theorem tillsLines_tillg : TillsLines (.tillg p l) p l.toNat true := exec_tillg p l

end

section
variable {x : CoreCtx} {s : State} {sp sp' : Span}

/-- R340: the byte that PRES names and the line that holds it may be read. -/
def PresReads (sp sp' : Span) (s : State) (x : CoreCtx) : Prop :=
  coreSpan s x.c x.blk.seqReg x.a.v.toNat 1 1 x.rd false = .ok sp'
    ∧ coreSpan s x.c x.blk.seqReg (x.a.v.toNat / 64 * 64) 64 64 x.rd false = .ok sp

/-- What PRES does as it fires. -/
def CoreCtx.pres (x : CoreCtx) (s : State) (lsid : Nat) : State :=
  match coreSpan s x.c x.blk.seqReg x.a.v.toNat 1 1 x.rd false with
  | .error e => x.fail s e.code (BitVec.ofNat 64 e.va) lsid
  | .ok _ => x.checked s lsid (x.a.v.toNat / 64 * 64) 64 64 x.rd false (fun sp => x.read s lsid 18 (x.a.v.toNat / 64 * 64) sp false)

theorem exec_pres_eq (p : BitVec 2) (t : BitVec 9) (l : BitVec 5) (s : State) :
    exec (.pres p t l) s = execCore s p [.left] (fun x => x.pres s l.toNat) := rfl

/-- An allowed PRES is a read of the line's side-band, to which its own stores have not gone. -/
theorem PresReads.pres_eq (h : PresReads sp sp' s x) (lsid : Nat) :
    x.pres s lsid = match x.turn s lsid false sp with
      | .wait => s
      | .hold => x.ask s lsid (.heldRead 18 (x.a.v.toNat / 64 * 64) sp false)
      | .go => performRead (x.ask s lsid (.read false)) x.c x.blk.uid x.slot 18 (genOf x.blk.genReg) (x.ownStores lsid) sp := by
  obtain ⟨hbyte, hline⟩ := h
  rw [CoreCtx.pres, hbyte]
  exact CoreCtx.checked_of_ok hline lsid _

end

section
variable (p : BitVec 2) (t : BitVec 9) (l : BitVec 5) (sp sp' : Span)

theorem pres_waits : WaitsInCore (.pres p t l) p [.left] (fun s x => PresReads sp sp' s x ∧ x.turn s l.toNat false sp = .wait) :=
  firesInCore_of pred_left (exec_pres_eq p t l) (fun s x _ ⟨hreads, hturn⟩ => by rw [hreads.pres_eq, hturn])

theorem pres_holds : AsksInCore (.pres p t l) p [.left] l.toNat (fun s x => PresReads sp sp' s x ∧ x.turn s l.toNat false sp = .hold)
    (fun _ x => .heldRead 18 (x.a.v.toNat / 64 * 64) sp false) :=
  asks_of_check pred_left (exec_pres_eq p t l) (fun s x ⟨hreads, hturn⟩ => by rw [hreads.pres_eq, hturn])

/-- PRES that may go answers at once with the side-band of its line. -/
theorem pres_answers {r : Xlat} {n : Nat} {rest : Span} : FiresInCore (.pres p t l) p [.left]
    (fun s x => PresReads ((r, n) :: rest) sp' s x ∧ x.turn s l.toNat false ((r, n) :: rest) = .go)
    (fun s x => (s.putBlock x.c x.bi (x.blk.asks x.slot l.toNat (.read false))).respond x.c x.blk.uid x.slot 18 (leBytes 8 (presValue s r))
      ((r, n) :: rest)) :=
  firesInCore_of pred_left (exec_pres_eq p t l) (fun s x hpc ⟨hreads, hturn⟩ => by
    rw [hreads.pres_eq, hturn]
    change performRead (x.ask s l.toNat (.read false)) x.c x.blk.uid x.slot 18 _ _ _ = _
    rw [ask_eq hpc]
    rfl)

end

/-- Settles O21: TILL and TILLG differ in the kind of page they need; PRES waits, is held or answers as its turn says. That PRES checks RD and not
the lane is the model's reading (log 81). -/
theorem presenceInstructions : Obligations.PresenceInstructions := by
  intro p t l sp sp' e
  refine ⟨?lines, pres_waits p t l sp sp', pres_holds p t l sp sp', ?answers⟩
  case lines =>
    intro lines i g hmem
    have hi : TillsLines i p l.toNat g := by
      simp only [List.mem_cons, Prod.mk.injEq, List.not_mem_nil, or_false] at hmem
      obtain ⟨rfl, rfl⟩ | ⟨rfl, rfl⟩ := hmem
      · exact tillsLines_till p l
      · exact tillsLines_tillg p l
    exact ⟨ChecksAccess.fails_of_misaligned pred_leftRight hi, ChecksAccess.fails_of_error pred_leftRight hi e,
      ChecksAccess.asks pred_leftRight hi (fun _ _ => rfl)⟩
  case answers =>
    rintro r n rest rfl
    exact pres_answers p t l sp'

/-! ### Atomics (R341 to R343) -/

section
variable {i : Instr} {p : BitVec 2} {uses : List Pos} {lsid n : Nat} {a : CoreCtx → AtomOp} {order scope : Nat} {result : Bool}

/-- ATOM and FATOM, on an aligned word of `n` bytes. -/
def DoesAtomic (i : Instr) (p : BitVec 2) (uses : List Pos) (lsid n : Nat) (a : CoreCtx → AtomOp) (order scope : Nat) (result : Bool) : Prop :=
  ChecksAccess i p uses lsid n (fun _ => n) CoreCtx.rmw true (fun s x sp =>
    if sp.any (fun r => r.1.attr != 0 || !inStore r.1.pa) then x.fail s 5 x.a.v lsid
    else x.ask s lsid (.atom x.a.v.toNat sp (a x) order scope result))

/-- A run of the span lies outside the MU pages of the bulk store and the scratchpads. -/
theorem anyOutside_iff {sp : Span} :
    sp.any (fun r => r.1.attr != 0 || !inStore r.1.pa) = true ↔ ∃ r ∈ sp, ¬ (r.1.attr = 0 ∧ inStore r.1.pa) := by
  simp only [List.any_eq_true, Bool.or_eq_true, bne_iff_ne, Bool.not_eq_true', not_and_or, Bool.not_eq_true, ne_eq]

variable (hu : Pos.pred ∉ uses) (hi : DoesAtomic i p uses lsid n a order scope result) (sp : Span)
include hu hi

theorem DoesAtomic.asks : AsksInCore i p uses lsid
    (fun s x => coreSpan s x.c x.blk.seqReg x.a.v.toNat n n x.rmw true = .ok sp ∧ ∀ r ∈ sp, r.1.attr = 0 ∧ inStore r.1.pa)
    (fun _ x => .atom x.a.v.toNat sp (a x) order scope result) :=
  ChecksAccess.fires hu hi (fun _ _ hpc hin =>
    (if_neg (by rw [anyOutside_iff]; rintro ⟨r, hr, hout⟩; exact hout (hin r hr))).trans (ask_eq hpc lsid _))

theorem DoesAtomic.fails : FailsInCore i p uses lsid
    (fun s x => coreSpan s x.c x.blk.seqReg x.a.v.toNat n n x.rmw true = .ok sp ∧ ∃ r ∈ sp, ¬ (r.1.attr = 0 ∧ inStore r.1.pa))
    (fun _ x => (5, x.a.v)) :=
  ChecksAccess.fires hu hi (fun _ x hpc hout => (if_pos (anyOutside_iff.2 hout)).trans (fail_eq hpc 5 x.a.v lsid))

end

theorem doesAtomic_atom (p : BitVec 2) (t : BitVec 9) (l : BitVec 5) (o : BitVec 3) (w : BitVec 1) (a sc : BitVec 2) :
    DoesAtomic (.atom p t l o w a sc) p (if o = 6 then [.left, .right, .third] else [.left, .right]) l.toNat (if w = 0 then 4 else 8)
      (fun x => { op := o.toNat, width := if w = 0 then 4 else 8, x := x.b, y := x.x }) a.toNat (sc.toNat + 2) (t != 0x1FF) :=
  exec_atom p t l o w a sc

theorem doesAtomic_fatom (p : BitVec 2) (t : BitVec 9) (l : BitVec 5) (a sc : BitVec 2) :
    DoesAtomic (.fatom p t l a sc) p [.left, .right] l.toNat 4
      (fun x => { op := 7, width := 4, x := x.b, y := {}, mode := x.blk.rmode.toNat % 8 }) a.toNat (sc.toNat + 2) (t != 0x1FF) :=
  exec_fatom p t l a sc

/-- Settles O22: ATOM and FATOM check alike; they differ in the width of their word and in their operation. -/
theorem atomicsAsk : Obligations.AtomicsAsk := by
  intro p t l o w a sc sp
  have hu : Pos.pred ∉ (if o = 6 then [Pos.left, Pos.right, Pos.third] else [Pos.left, Pos.right]) := by split <;> decide
  have hatom := doesAtomic_atom p t l o w a sc
  have hfatom := doesAtomic_fatom p t l a sc
  exact ⟨hatom.asks hu sp, hatom.fails hu sp, ChecksAccess.fails_of_misaligned hu hatom, hfatom.asks pred_leftRight sp,
    hfatom.fails pred_leftRight sp, ChecksAccess.fails_of_misaligned pred_leftRight hfatom⟩

/-! ### What an atomic operation makes of its word (R342, R343) -/

/-- The operations of ATOM on patterns of n bits. -/
def atomWord {n : Nat} (op : Nat) (b x y : BitVec n) : BitVec n :=
  match op with
  | 0 => b + x
  | 1 => if x.toInt < b.toInt then x else b
  | 2 => if b.toInt < x.toInt then x else b
  | 3 => b &&& x
  | 4 => b ||| x
  | 5 => x
  | _ => if b = y then x else b

theorem signedOf_mod (n u : Nat) : signedOf n (u % 2 ^ n) = (BitVec.ofNat n u).toInt := by
  rw [← signedOf_toNat, BitVec.toNat_ofNat]

theorem atomNew_eq_atomWord (op n old x y : Nat) :
    atomNew op n old x y = (atomWord op (BitVec.ofNat n old) (BitVec.ofNat n x) (BitVec.ofNat n y)).toNat := by
  simp only [atomNew, atomWord, signedOf_mod]
  match op with
  | 0 => simp only [BitVec.toNat_add, BitVec.toNat_ofNat]
  | 1 => simp only [apply_ite BitVec.toNat, BitVec.toNat_ofNat]
  | 2 => simp only [apply_ite BitVec.toNat, BitVec.toNat_ofNat]
  | 3 => simp only [BitVec.toNat_and, BitVec.toNat_ofNat]; rfl
  | 4 => simp only [BitVec.toNat_or, BitVec.toNat_ofNat]; rfl
  | 5 => rfl
  | _ + 6 => simp only [apply_ite BitVec.toNat, ← BitVec.toNat_inj, BitVec.toNat_ofNat]

theorem Img.at_eq_ofNat (a : Img) (n : Nat) : a.at n = BitVec.ofNat n a.v.toNat := (BitVec.ofNat_toNat ..).symm

/-- A word is delivered sign-extended. -/
theorem ofNat_bitsOf_signedOf (n u : Nat) : BitVec.ofNat 64 (bitsOf 64 (signedOf n u)) = (BitVec.ofNat n u).signExtend 64 := by
  have hmod : signedOf n u = signedOf n (u % 2 ^ n) := by rw [signedOf, signedOf, Nat.mod_mod]
  rw [hmod, signedOf_mod, BitVec.signExtend, ← BitVec.toNat_inj, BitVec.toNat_ofNat, BitVec.toNat_ofInt, bitsOf]
  omega

/-- Settles O23: ATOM works on the pattern of its word (`atomNew_eq_atomWord`) and asks for no flag; FATOM adds and rounds once. -/
theorem atomicOperations : Obligations.AtomicOperations := by
  intro n x y old mode _
  refine ⟨fun op hop => ?_, rfl⟩
  rw [AtomOp.apply, if_neg (show op ≠ 7 by omega), ofNat_bitsOf_signedOf, atomNew_eq_atomWord, ← Img.at_eq_ofNat, ← Img.at_eq_ofNat]
  rfl

end Sys2Proof.Machine
end

section
/-! SUPPORT. Engine requests, fences, barriers, tasks and groups of C-blocks, and the obligation on them (R344, R345, R347, R348, R350 to R357). -/
namespace Sys2Proof.Machine

/-! ### Engine requests (R344, R345, R347, R348) -/

section
variable {i : Instr} {p : BitVec 2} {uses : List Pos} {lsid unit op : Nat} {count scope : CoreCtx → Nat}

/-- An instruction that asks an engine for `count` entries of the list or descriptor at its left operand. -/
def AsksEngine (i : Instr) (p : BitVec 2) (uses : List Pos) (lsid unit op : Nat) (count scope : CoreCtx → Nat) : Prop :=
  ∀ s, exec i s = execCore s p uses (fun x => x.request s lsid unit op (count x) (scope x))

variable (hu : Pos.pred ∉ uses) (hi : AsksEngine i p uses lsid unit op count scope)
include hu hi

/-- No entries, or a reserved scope. -/
theorem AsksEngine.fails_of_illegal : FailsInCore i p uses lsid (fun _ x => count x = 0 ∨ 6 ≤ scope x) (fun _ x => (1, x.blk.word x.slot)) :=
  fails_of_check hu hi (fun _ _ hillegal => if_pos hillegal)

/-- A list or descriptor that is not 32-byte aligned. -/
theorem AsksEngine.fails_of_misaligned : FailsInCore i p uses lsid (fun _ x => count x ≠ 0 ∧ scope x < 6 ∧ ¬ 32 ∣ x.a.v.toNat)
    (fun _ x => (3, x.a.v)) :=
  fails_of_check hu hi (fun s x ⟨hcount, hscope, hmis⟩ => by
    rw [CoreCtx.request, if_neg (by omega), if_pos (mt Nat.dvd_of_mod_eq_zero hmis)])

/-- A request that passes its checks is kept for commit. -/
theorem AsksEngine.asks (sp : Span) : AsksInCore i p uses lsid
    (fun s x => count x ≠ 0 ∧ scope x < 6 ∧ 32 ∣ x.a.v.toNat ∧ coreSpan s x.c x.blk.seqReg x.a.v.toNat 32 1 x.rd false = .ok sp)
    (fun _ x => .engine unit op x.a.v.toNat (count x) (scope x)) :=
  asks_of_check hu hi (fun s x ⟨hcount, hscope, hal, hspan⟩ => by
    rw [CoreCtx.request, if_neg (by omega), if_neg (not_not.2 (Nat.mod_eq_zero_of_dvd hal))]
    exact CoreCtx.checked_of_ok hspan lsid _)

end

/-! ### Responses (R344, R349) -/

section
variable (p : BitVec 2) (t : BitVec 9) (l : BitVec 5) (e : BitVec 4) (k : Nat)

/-- `k` RESPs of the engine stand earlier, all decided, and a RESP may go. -/
def TakesResponse (l : BitVec 5) (e : BitVec 4) (k : Nat) (r : Option EngResp) (s : State) (x : CoreCtx) : Prop :=
  x.countBelow (isResp e.toNat) = (k, false) ∧ x.turn s l.toNat true [] = .go ∧ (x.pc.responsesOf e.toNat)[k]? = r

theorem resp_waits : WaitsInCore (.resp p t l e) p [] (TakesResponse l e k none) :=
  firesInCore_of pred_nil (exec_resp p t l e) (fun s x _ ⟨hcount, hturn, hnone⟩ => by
    simp only [hcount, hturn, hnone, Bool.false_eq_true, if_false])

theorem resp_takes (r : EngResp) : AsksGivesInCore (.resp p t l e) p [] l.toNat t (TakesResponse l e k (some r)) (fun _ _ => .resp e.toNat)
    (fun _ _ => r.image) :=
  firesInCore_of pred_nil (exec_resp p t l e) (fun s x hpc ⟨hcount, hturn, hsome⟩ => by
    simp only [hcount, hturn, hsome, Bool.false_eq_true, if_false]
    exact askGive_eq hpc l.toNat _ t _)

end

/-! ### Fences (R351) -/

section
variable (p : BitVec 2) (t : BitVec 9) (l : BitVec 5) (c : BitVec 3)

/-- XFENCE delivers the serial that it will receive while fewer than sixteen fences are open, those of earlier XFENCEs in flight counted. -/
theorem xfence_gives (n : Nat) : AsksGivesInCore (.xfence p t l c) p [] l.toNat t
    (fun s x => x.xfences l.toNat = (n, false) ∧ n + (x.pc.fences.filter (s.fenceOpen x.c)).length < 16)
    (fun _ x => .xfence c.toNat ((x.pc.serial + n) % 2 ^ 16)) (fun _ x => ⟨BitVec.ofNat 64 ((x.pc.serial + n) % 2 ^ 16), false⟩) :=
  firesInCore_of pred_nil (exec_xfence p t l c) (fun s x hpc ⟨hcount, hfew⟩ => by
    simp only [hcount, Bool.false_or, decide_eq_true_eq, if_neg (Nat.not_le.2 hfew)]
    exact askGive_eq hpc l.toNat _ t _)

theorem xfence_waits : WaitsInCore (.xfence p t l c) p []
    (fun s x => (x.xfences l.toNat).2 ∨ 16 ≤ (x.xfences l.toNat).1 + (x.pc.fences.filter (s.fenceOpen x.c)).length) :=
  firesInCore_of pred_nil (exec_xfence p t l c) (fun _ _ _ hfull => if_pos (by rwa [Bool.or_eq_true, decide_eq_true_eq]))

end

/-! ### Barriers and tasks (R353, R354) -/

section
variable (p : BitVec 2) (l : BitVec 5) (c : BitVec 3) (b : BitVec 4)

theorem barInit_asks : AsksInCore (.barInit p l c b) p [.left] l.toNat (fun _ x => x.a.v.toNat % 2 ^ 16 ≠ 0)
    (fun _ x => .barInit b.toNat c.toNat (x.a.v.toNat % 2 ^ 16)) :=
  asks_of_check pred_left (exec_barInit p l c b) (fun _ _ hsome => if_neg hsome)

/-- A barrier of no arrivals. -/
theorem barInit_fails : FailsInCore (.barInit p l c b) p [.left] l.toNat (fun _ x => x.a.v.toNat % 2 ^ 16 = 0)
    (fun _ x => (1, x.blk.word x.slot)) :=
  fails_of_check pred_left (exec_barInit p l c b) (fun _ _ hnone => if_pos hnone)

theorem spawn_asks : AsksInCore (.spawn p l) p [.left, .right, .third] l.toNat
    (fun _ x => x.b.v.toNat % 2 ^ 32 ≠ 0 ∧ x.blk.gidx ≠ 0xFFFFFFFF)
    (fun _ x => .spawn (x.a.v.toNat % 2 ^ 32) (x.b.v.toNat % 2 ^ 32) x.x.v) :=
  asks_of_check pred_leftRightThird (exec_spawn p l) (fun _ _ ⟨hsome, hgroup⟩ => if_neg (not_or.2 ⟨hsome, hgroup⟩))

/-- A task of no tiles, or a SPAWN outside a group. -/
theorem spawn_fails : FailsInCore (.spawn p l) p [.left, .right, .third] l.toNat
    (fun _ x => x.b.v.toNat % 2 ^ 32 = 0 ∨ x.blk.gidx = 0xFFFFFFFF) (fun _ x => (1, x.blk.word x.slot)) :=
  fails_of_check pred_leftRightThird (exec_spawn p l) (fun _ _ hbad => if_pos hbad)

end

section
variable (p : BitVec 2) (t : BitVec 9)

theorem gidxIdx_gives : GivesInCore (.gidxIdx p t) p [] [t] always (fun _ x => ⟨x.blk.gidx, false⟩) :=
  firesInCore_of pred_nil (exec_gidxIdx p t) (fun _ _ hpc _ => give_eq hpc t _)

theorem gidxCnt_gives : GivesInCore (.gidxCnt p t) p [] [t] always (fun _ x => ⟨x.blk.gcount, false⟩) :=
  firesInCore_of pred_nil (exec_gidxCnt p t) (fun _ _ hpc _ => give_eq hpc t _)

end

/-! ### The obligation -/

/-- Settles O24: the four engine requests share their checks, RESP takes the response behind those of earlier RESPs, and the others ask at once or after
the one check that their lemma names. -/
theorem engineAndOrderingInstructions : Obligations.EngineAndOrderingInstructions := by
  refine ⟨⟨?engines, fun p t l e k => ⟨resp_waits p t l e k, fun r => resp_takes p t l e k r⟩⟩, fun p t l c j b =>
    ⟨asks_of_ask pred_nil (exec_fence p l c), xfence_gives p t l c, xfence_waits p t l c, asks_of_ask pred_left (exec_xwait p l),
      barInit_asks p l c b, barInit_fails p l c b, asks_of_ask pred_nil (exec_barArr p l c b), asks_of_ask pred_nil (exec_barWait p l c b),
      spawn_asks p l, spawn_fails p l, asks_of_ask pred_left (exec_tdone p l j), asks_of_ask pred_left (exec_graise p t l),
      gidxIdx_gives p t, gidxCnt_gives p t⟩⟩
  case engines =>
    intro p l e g i uses unit op count scope hmem
    have hi : Pos.pred ∉ uses ∧ AsksEngine i p uses l.toNat unit op count scope := by
      simp only [List.mem_cons, Prod.mk.injEq, List.not_mem_nil, or_false] at hmem
      obtain ⟨rfl, rfl, rfl, rfl, rfl, rfl⟩ | ⟨rfl, rfl, rfl, rfl, rfl, rfl⟩ | ⟨rfl, rfl, rfl, rfl, rfl, rfl⟩ |
        ⟨rfl, rfl, rfl, rfl, rfl, rfl⟩ := hmem
      · exact ⟨pred_leftRightThird, exec_cpyl p l e⟩
      · exact ⟨pred_leftRight, exec_gath p l g⟩
      · exact ⟨pred_leftRight, exec_scat p l g⟩
      · exact ⟨pred_leftRight, exec_coll p l⟩
    obtain ⟨hu, hengine⟩ := hi
    exact ⟨hengine.fails_of_illegal hu, hengine.fails_of_misaligned hu, hengine.asks hu⟩

end Sys2Proof.Machine
end

section
/-! SUPPORT. Stream commands, the forager's registers and tile instructions as they fire, and the obligation on them (R319 to R323, R358, R361, R363 to
R370). -/
namespace Sys2Proof.Machine

/-! ### Formats and modes -/

/-- The formats of R320, of accumulator results (R368) too: every storage format but those of MX blocks. -/
theorem plainFmt_iff (f : Nat) : (decide (f ≤ 4) || decide (8 ≤ f ∧ f ≤ 13)) = true ↔ f ∈ [0, 1, 2, 3, 4, 8, 9, 10, 11, 12, 13] := by
  simp only [Bool.or_eq_true, decide_eq_true_eq, List.mem_cons, List.not_mem_nil, or_false]
  omega

/-- The checks of STRM.MEM pass (R320). -/
theorem streamCheck_iff (f m : Nat) : (!streamFmt f || m == 7) = true ↔ ¬ (f ∈ [0, 1, 2, 3, 4, 8, 9, 10, 11, 12, 13] ∧ m ≠ 7) := by
  rw [← plainFmt_iff, ← streamFmt, not_and_or, not_not, Bool.or_eq_true, Bool.not_eq_true', Bool.not_eq_true, beq_iff_eq]

/-! ### Streams between memory and a port (R320) -/

section
variable (p : BitVec 2) (l : BitVec 5) (d : BitVec 1) (n : BitVec 5)

/-- The format, the mode and the number of beats that the right operand of STRM.MEM gives. -/
def CoreCtx.memFmt (x : CoreCtx) : Nat := x.b.v.toNat / 2 ^ 32 % 16
def CoreCtx.memMode (x : CoreCtx) : Nat := x.b.v.toNat / 2 ^ 36 % 8
def CoreCtx.memBeats (x : CoreCtx) : Nat := x.b.v.toNat % 2 ^ 32

/-- The format is one of R320, and the mode no reserved one. -/
def CoreCtx.memOk (x : CoreCtx) : Prop := x.memFmt ∈ [0, 1, 2, 3, 4, 8, 9, 10, 11, 12, 13] ∧ x.memMode ≠ 7

/-- What STRM.MEM does as it fires. -/
def CoreCtx.strmMem (x : CoreCtx) (s : State) (lsid : Nat) (d : BitVec 1) (n : Nat) : State :=
  if !streamFmt x.memFmt || x.memMode == 7 then x.illegal s lsid
  else x.checked s lsid x.a.v.toNat (2 * fmtWidth x.memFmt * x.memBeats) (max 1 (fmtWidth x.memFmt / 8)) (if d = 0 then x.rd else x.wr) true
    (fun sp => x.ask s lsid (.stream { seq := 0, ld := d == 0, port := n, tile := none, span := sp, fmt := x.memFmt, mode := x.roundMode x.memMode
                                       satf8 := x.blk.satf8, beats := x.memBeats, lsid := lsid, gen := genOf x.blk.genReg }))

theorem exec_strmMem_eq (s : State) : exec (.strmMem p l d n) s = execCore s p [.left, .right] (fun x => x.strmMem s l.toNat d n.toNat) := rfl

theorem strmMem_fails : FailsInCore (.strmMem p l d n) p [.left, .right] l.toNat (fun _ x => ¬ x.memOk) (fun _ x => (1, x.blk.word x.slot)) :=
  fails_of_check pred_leftRight (exec_strmMem_eq p l d n) (fun _ _ hbad => if_pos ((streamCheck_iff _ _).2 hbad))

theorem strmMem_asks (sp : Span) : AsksInCore (.strmMem p l d n) p [.left, .right] l.toNat
    (fun s x => x.memOk ∧ coreSpan s x.c x.blk.seqReg x.a.v.toNat (2 * fmtWidth x.memFmt * x.memBeats) (max 1 (fmtWidth x.memFmt / 8))
      (if d = 0 then x.rd else x.wr) true = .ok sp)
    (fun _ x => .stream { seq := 0, ld := d == 0, port := n.toNat, tile := none, span := sp, fmt := x.memFmt, mode := x.roundMode x.memMode
                          satf8 := x.blk.satf8, beats := x.memBeats, lsid := l.toNat, gen := genOf x.blk.genReg }) :=
  asks_of_check pred_leftRight (exec_strmMem_eq p l d n) (fun s x ⟨hok, hspan⟩ =>
    (if_neg (by rw [streamCheck_iff]; exact not_not.2 hok)).trans (CoreCtx.checked_of_ok hspan l.toNat _))

end

/-! ### Streams between a tile and a port (R321) -/

section
variable (p : BitVec 2) (l : BitVec 5) (d : BitVec 1) (n : BitVec 5)

/-- A check that is made once the earlier tile instructions have fired. -/
theorem if_not_tileReady {x : CoreCtx} {α : Type} (h : x.tileReady = true) (a b : α) : (if !x.tileReady then a else b) = b := by
  rw [h]
  rfl

/-- The shape of the tile that the left operand of STRM.TILE names, as the earlier tile instructions leave it. -/
def CoreCtx.streamShape (x : CoreCtx) (s : State) : DWord := (x.shadow s).shape (x.a.v.toNat % 16)
def CoreCtx.tileMode (x : CoreCtx) : Nat := x.a.v.toNat / 16 % 8

/-- The tile is of no MX format, and the mode no reserved one. -/
def StreamsTile (s : State) (x : CoreCtx) : Prop := fmtIsMx (tshType (x.streamShape s)) = false ∧ x.tileMode ≠ 7

theorem streamsTile_check_iff (s : State) (x : CoreCtx) :
    (fmtIsMx (tshType (x.streamShape s)) || x.tileMode == 7) = true ↔ ¬ StreamsTile s x := by
  rw [StreamsTile, not_and_or, not_not, Bool.or_eq_true, Bool.not_eq_false, beq_iff_eq]

/-- The command that STRM.TILE queues. -/
def CoreCtx.tileStream (x : CoreCtx) (s : State) (lsid : Nat) (d : BitVec 1) (n : Nat) : StreamCmd :=
  { seq := 0, ld := d == 0, port := n, tile := some (x.a.v.toNat % 16), shape := x.streamShape s, fmt := tshType (x.streamShape s)
    mode := x.roundMode x.tileMode, satf8 := x.blk.satf8, beats := tileBeats (x.streamShape s), lsid := lsid, gen := genOf x.blk.genReg }

/-- What STRM.TILE does as it fires. -/
def CoreCtx.strmTile (x : CoreCtx) (s : State) (lsid : Nat) (d : BitVec 1) (n : Nat) : State :=
  if !x.tileReady then s
  else if fmtIsMx (tshType (x.streamShape s)) || x.tileMode == 7 then x.illegal s lsid
  else x.ask s lsid (.stream (x.tileStream s lsid d n))

theorem exec_strmTile_eq (s : State) : exec (.strmTile p l d n) s = execCore s p [.left] (fun x => x.strmTile s l.toNat d n.toNat) := rfl

theorem strmTile_waits : WaitsInCore (.strmTile p l d n) p [.left] (fun _ x => x.tileReady = false) :=
  firesInCore_of pred_left (exec_strmTile_eq p l d n) (fun _ _ _ hearly => if_pos (by rw [hearly]; rfl))

theorem strmTile_fails : FailsInCore (.strmTile p l d n) p [.left] l.toNat (fun s x => x.tileReady ∧ ¬ StreamsTile s x)
    (fun _ x => (1, x.blk.word x.slot)) :=
  fails_of_check pred_left (exec_strmTile_eq p l d n) (fun s x ⟨hready, hbad⟩ =>
    (if_not_tileReady hready _ _).trans (if_pos ((streamsTile_check_iff s x).2 hbad)))

theorem strmTile_asks : AsksInCore (.strmTile p l d n) p [.left] l.toNat (fun s x => x.tileReady ∧ StreamsTile s x)
    (fun s x => .stream (x.tileStream s l.toNat d n.toNat)) :=
  asks_of_check pred_left (exec_strmTile_eq p l d n) (fun s x ⟨hready, hok⟩ =>
    (if_not_tileReady hready _ _).trans (if_neg (by rw [streamsTile_check_iff]; exact not_not.2 hok)))

end

/-! ### STRM.DRAIN and FGSTAT (R319, R322) -/

section
variable (p : BitVec 2) (l : BitVec 5) (i : BitVec 7) (t u : BitVec 9) (f : BitVec 4)

theorem strmDrain_fails : FailsInCore (.strmDrain p l i) p [.left] l.toNat (fun _ x => 6 ≤ x.a.v.toNat % 8) (fun _ x => (1, x.blk.word x.slot)) :=
  fails_of_check pred_left (exec_strmDrain p l i) (fun _ _ hscope => if_pos hscope)

theorem strmDrain_asks : AsksInCore (.strmDrain p l i) p [.left] l.toNat (fun _ x => x.a.v.toNat % 8 < 6)
    (fun _ x => .drain (if i.getLsbD 6 then none else some (!i.getLsbD 5, i.toNat % 32)) (x.a.v.toNat % 8)) :=
  asks_of_check pred_left (exec_strmDrain p l i) (fun _ _ hscope => if_neg (Nat.not_le.2 hscope))

theorem fgstat_waits : WaitsInCore (.fgstat p t u f) p [.left] (fun _ x => x.bi ≠ 0) :=
  firesInCore_of pred_left (exec_fgstat p t u f) (fun _ _ _ hyoung => if_pos hyoung)

theorem fgstat_gives (g : Forager) : GivesInCore (.fgstat p t u f) p [.left] [t]
    (fun s x => x.bi = 0 ∧ s.foragerOf (pageOf x.c) = some g) (fun _ x => ⟨BitVec.ofNat 64 (g.stat f.toNat (x.a.v.toNat % 8)), false⟩) :=
  firesInCore_of pred_left (exec_fgstat p t u f) (fun s x hpc ⟨hold, hforager⟩ => by
    rw [if_neg (not_not.2 hold), hforager]
    exact give_eq hpc t _)

end

/-! ### Tile instructions (R358) -/

section
variable {i : Instr} {p : BitVec 2} {uses : List Pos} {ok : State → CoreCtx → Prop} {op : State → CoreCtx → TileOp}

/-- A tile instruction whose check says whether `ok` holds, and which then is `op`. -/
def IsTileInsn (i : Instr) (p : BitVec 2) (uses : List Pos) (ok : State → CoreCtx → Prop) (op : State → CoreCtx → TileOp) : Prop :=
  ∃ (check : State → CoreCtx → Shadow → Bool) (o : CoreCtx → Shadow → TileOp),
    (∀ s, exec i s = execCore s p uses (fun x => x.tileOp s 0 (check s x) (o x)))
    ∧ (∀ s x, check s x (x.shadow s) = true ↔ ok s x) ∧ (∀ s x, o x (x.shadow s) = op s x)

/-- A tile instruction waits for the earlier ones, is ILLEGAL_INSN where its check fails, and is else kept for commit. -/
theorem IsTileInsn.fires (hu : Pos.pred ∉ uses) (hi : IsTileInsn i p uses ok op) :
    WaitsInCore i p uses (fun _ x => x.tileReady = false)
    ∧ FailsInCore i p uses 0 (fun s x => x.tileReady ∧ ¬ ok s x) (fun _ x => (1, x.blk.word x.slot))
    ∧ AsksInCore i p uses 0 (fun s x => x.tileReady ∧ ok s x) (fun s x => .tile (op s x)) := by
  obtain ⟨check, o, hexec, hcheck, hop⟩ := hi
  refine ⟨firesInCore_of hu hexec ?waits, fails_of_check hu hexec ?fails, asks_of_check hu hexec ?asks⟩
  case waits =>
    intro s x _ hearly
    rw [CoreCtx.tileOp, hearly]
    rfl
  case fails =>
    rintro s x ⟨hready, hbad⟩
    have hno : ¬ check s x (x.shadow s) = true := by rwa [hcheck]
    rw [CoreCtx.tileOp, hready]
    exact if_neg hno
  case asks =>
    rintro s x ⟨hready, hok⟩
    rw [CoreCtx.tileOp, hready, ← hop]
    exact if_pos ((hcheck s x).2 hok)

end

section
variable (p : BitVec 2) (k : BitVec 4)

theorem isTileInsn_tzero : IsTileInsn (.tzero p k) p [] always (fun _ _ => .zero k.toNat) :=
  ⟨_, _, exec_tzero p k, fun _ _ => Iff.of_eq (eq_self _), fun _ _ => rfl⟩

theorem isTileInsn_treshape : IsTileInsn (.treshape p k) p [.left] (fun _ x => shapeOk ((x.a.v.extractLsb' 0 21).setWidth 64))
    (fun _ x => .reshape k.toNat (x.a.v.extractLsb' 0 21)) :=
  ⟨_, _, exec_treshape p k, fun _ _ => Iff.rfl, fun _ _ => rfl⟩

theorem isTileInsn_tmov : IsTileInsn (.tmov p k) p [.left]
    (fun s x => x.a.v.getLsbD 4 → transposable ((x.shadow s).shape (x.a.v.toNat % 16)))
    (fun _ x => .mov k.toNat (x.a.v.toNat % 16) (x.a.v.getLsbD 4)) :=
  ⟨_, _, exec_tmov p k, fun _ _ => by rw [Bool.or_eq_true, Bool.not_eq_true', ← Bool.not_eq_true, ← imp_iff_not_or], fun _ _ => rfl⟩

theorem isTileInsn_tfill : IsTileInsn (.tfill p k) p [.left, .right]
    (fun s x => fmtIsMx (tshType ((x.shadow s).shape k.toNat)) = false ∧ x.b.v.toNat % 8 ≠ 7)
    (fun s x => .fill k.toNat (fillCode x.a (tshType ((x.shadow s).shape k.toNat)) (x.roundMode (x.b.v.toNat % 8)) (x.blk.rmode.getLsbD 3))) :=
  ⟨_, _, exec_tfill p k, fun _ _ => by rw [Bool.and_eq_true, Bool.not_eq_true', bne_iff_ne], fun _ _ => rfl⟩

theorem isTileInsn_wloadT : IsTileInsn (.wloadT p) p [.left]
    (fun s x => x.systolic s ∧ (let v := (x.shadow s).shape (x.a.v.toNat % 16); wloadOk x.a.v (tshType v) (tshRows v) (tshCols v)))
    (fun _ x => .wloadT x.a.v) :=
  ⟨_, _, exec_wloadT p, fun _ _ => Bool.and_eq_true_iff, fun _ _ => rfl⟩

theorem isTileInsn_wswap : IsTileInsn (.wswap p) p [] (fun s x => x.systolic s) (fun _ _ => .wswap) :=
  ⟨_, _, exec_wswap p, fun _ _ => Iff.rfl, fun _ _ => rfl⟩

theorem isTileInsn_mma : IsTileInsn (.mma p k) p [.left] (fun s x => x.systolic s ∧ mmaOk (x.shadow s) k.toNat x.a.v)
    (fun _ x => .mma k.toNat x.a.v) :=
  ⟨_, _, exec_mma p k, fun _ _ => Bool.and_eq_true_iff, fun _ _ => rfl⟩

theorem isTileInsn_mmas : IsTileInsn (.mmas p k) p [.left]
    (fun s x => x.systolic s ∧ mmaOk (x.shadow s) k.toNat x.a.v ∧ mmasOk (x.shadow s) k.toNat x.a.v) (fun _ x => .mmas k.toNat x.a.v) :=
  ⟨_, _, exec_mmas p k, fun _ _ => by rw [Bool.and_eq_true, Bool.and_eq_true, and_assoc], fun _ _ => rfl⟩

theorem isTileInsn_accz : IsTileInsn (.accz p k) p [] (fun s x => x.systolic s) (fun _ _ => .accz k) :=
  ⟨_, _, exec_accz p k, fun _ _ => Iff.rfl, fun _ _ => rfl⟩

theorem isTileInsn_accd : IsTileInsn (.accd p k) p [.left]
    (fun s x => x.systolic s ∧ (let v := (x.shadow s).shape k.toNat
      tshType v ∈ [0, 1, 2, 3, 4, 8, 9, 10, 11, 12, 13] ∧ x.a.v.toNat / 16 % 8 ≠ 7 ∧ tshCols v ≤ 128 ∧ x.a.v.toNat / 256 % 128 < tshRows v))
    (fun _ x => .accd k.toNat x.a.v (x.roundMode (x.a.v.toNat / 16 % 8)) (x.blk.rmode.getLsbD 3)) :=
  ⟨_, _, exec_accd p k, fun _ _ => by
    simp only [Bool.and_eq_true, plainFmt_iff, bne_iff_ne, decide_eq_true_eq, and_assoc]; rfl, fun _ _ => rfl⟩

theorem isTileInsn_topk : IsTileInsn (.topk p k) p [.left] (fun s x => topkOk (x.shadow s) k.toNat x.a.v) (fun _ x => .topk k.toNat x.a.v) :=
  ⟨_, _, exec_topk p k, fun _ _ => Iff.rfl, fun _ _ => rfl⟩

end

/-! ### The obligation -/

/-- Settles O28: each stream command by its lemmas, and the eleven tile instructions of one form by what `IsTileInsn` gives for each. -/
theorem streamAndTileInstructions : Obligations.StreamAndTileInstructions := by
  refine ⟨fun p l d n i m z o k t u f => ⟨⟨strmMem_fails p l d n, strmMem_asks p l d n⟩,
    ⟨strmTile_waits p l d n, strmTile_fails p l d n, strmTile_asks p l d n⟩, strmDrain_fails p l i, strmDrain_asks p l i,
    asks_of_ask pred_nil (exec_strmAcc p m z o k), asks_of_ask pred_leftRight (exec_fgstage p), asks_of_ask pred_left (exec_fgseed p),
    fgstat_waits p t u f, fgstat_gives p t u f⟩, ?tiles⟩
  case tiles =>
    intro p k i uses ok op hmem
    simp only [List.mem_cons, Prod.mk.injEq, List.not_mem_nil, or_false] at hmem
    obtain ⟨rfl, rfl, rfl, rfl⟩ | ⟨rfl, rfl, rfl, rfl⟩ | ⟨rfl, rfl, rfl, rfl⟩ | ⟨rfl, rfl, rfl, rfl⟩ | ⟨rfl, rfl, rfl, rfl⟩ |
      ⟨rfl, rfl, rfl, rfl⟩ | ⟨rfl, rfl, rfl, rfl⟩ | ⟨rfl, rfl, rfl, rfl⟩ | ⟨rfl, rfl, rfl, rfl⟩ | ⟨rfl, rfl, rfl, rfl⟩ |
      ⟨rfl, rfl, rfl, rfl⟩ := hmem
    · exact (isTileInsn_tzero p k).fires pred_nil
    · exact (isTileInsn_treshape p k).fires pred_left
    · exact (isTileInsn_tmov p k).fires pred_left
    · exact (isTileInsn_tfill p k).fires pred_leftRight
    · exact (isTileInsn_wloadT p).fires pred_left
    · exact (isTileInsn_wswap p).fires pred_nil
    · exact (isTileInsn_mma p k).fires pred_left
    · exact (isTileInsn_mmas p k).fires pred_left
    · exact (isTileInsn_accz p k).fires pred_nil
    · simpa only [List.mem_cons, List.not_mem_nil, or_false] using (isTileInsn_accd p k).fires pred_left
    · exact (isTileInsn_topk p k).fires pred_left

end Sys2Proof.Machine
end

section
/-! SUPPORT. Tiles and weights that move between registers and memory, the sort network's settings, and the obligation on them (R359, R364, R369). -/
namespace Sys2Proof.Machine

/-! ### TLD and TST (R359) -/

/-- The tile in its present shape, the stride that is asked for, and the step between rows. -/
def CoreCtx.moveShape (x : CoreCtx) (s : State) (k : BitVec 4) : DWord := (x.shadow s).shape k.toNat
def CoreCtx.stride (x : CoreCtx) : Nat := x.b.v.toNat % 2 ^ 32
def CoreCtx.rowStep (x : CoreCtx) (s : State) (k : BitVec 4) : Nat := if x.stride = 0 then rowBytes (x.moveShape s k) else x.stride

/-- The address or the stride is misaligned for the tile's format, or rows would overlap. -/
def CoreCtx.rowsBad (x : CoreCtx) (s : State) (k : BitVec 4) : Prop :=
  ¬ rowAlign (tshType (x.moveShape s k)) ∣ x.a.v.toNat ∨ ¬ rowAlign (tshType (x.moveShape s k)) ∣ x.stride
    ∨ (x.stride ≠ 0 ∧ x.stride < rowBytes (x.moveShape s k))

/-- The rows in memory. -/
def CoreCtx.rowsRead (x : CoreCtx) (s : State) (k : BitVec 4) (wr : Bool) : Except XFault (List Span) :=
  rowSpans s x (if wr then x.wr else x.rd) (rowBytes (x.moveShape s k)) (x.rowStep s k) (tshRows (x.moveShape s k)) x.a.v.toNat

/-- A write of parts of words of a WO page. -/
def CoreCtx.rowsPartial (x : CoreCtx) (s : State) (k : BitVec 4) (wr : Bool) (rows : List Span) : Prop :=
  wr = true ∧ (∃ sp ∈ rows, ∃ r ∈ sp, r.1.attr ≠ 0) ∧ ¬ (8 ∣ x.a.v.toNat ∧ 8 ∣ x.stride ∧ 8 ∣ rowBytes (x.moveShape s k))

section
variable {s : State} {x : CoreCtx} {k : BitVec 4} {lsid : Nat} {wr : Bool} {op : Nat → List Span → TileOp}

theorem CoreCtx.rowsBad_iff (x : CoreCtx) (s : State) (k : BitVec 4) :
    (x.a.v.toNat % rowAlign (tshType (x.moveShape s k)) ≠ 0 ∨ x.stride % rowAlign (tshType (x.moveShape s k)) ≠ 0
      ∨ (x.stride ≠ 0 ∧ x.stride < rowBytes (x.moveShape s k))) ↔ x.rowsBad s k := by
  simp only [CoreCtx.rowsBad, Nat.dvd_iff_mod_eq_zero, ne_eq]

theorem CoreCtx.rowsPartial_iff (x : CoreCtx) (s : State) (k : BitVec 4) (wr : Bool) (rows : List Span) :
    (wr && rows.any (fun sp => sp.any (fun r => r.1.attr != 0))
      && decide (x.a.v.toNat % 8 ≠ 0 ∨ x.stride % 8 ≠ 0 ∨ rowBytes (x.moveShape s k) % 8 ≠ 0)) = true ↔ x.rowsPartial s k wr rows := by
  simp only [CoreCtx.rowsPartial, Bool.and_eq_true, List.any_eq_true, bne_iff_ne, decide_eq_true_eq, Nat.dvd_iff_mod_eq_zero, not_and_or, ne_eq,
    and_assoc]

theorem CoreCtx.moveTile_of_bad (h : x.rowsBad s k) : x.moveTile s lsid (x.moveShape s k) wr op = x.fail s 3 x.a.v lsid :=
  if_pos ((x.rowsBad_iff s k).2 h)

/-- A move whose operands are right translates its rows. -/
theorem CoreCtx.moveTile_eq (h : ¬ x.rowsBad s k) : x.moveTile s lsid (x.moveShape s k) wr op =
    match x.rowsRead s k wr with
    | .error f => x.fail s f.code (BitVec.ofNat 64 f.va) lsid
    | .ok rows =>
      if wr && rows.any (fun sp => sp.any (fun r => r.1.attr != 0))
          && decide (x.a.v.toNat % 8 ≠ 0 ∨ x.stride % 8 ≠ 0 ∨ rowBytes (x.moveShape s k) % 8 ≠ 0) then x.fail s 6 x.a.v lsid
      else x.ask s lsid (.tile (op (x.rowStep s k) rows)) :=
  if_neg (mt (x.rowsBad_iff s k).1 h)

theorem CoreCtx.moveTile_of_error {e : XFault} (h : ¬ x.rowsBad s k) (hread : x.rowsRead s k wr = .error e) :
    x.moveTile s lsid (x.moveShape s k) wr op = x.fail s e.code (BitVec.ofNat 64 e.va) lsid := by
  rw [x.moveTile_eq h, hread]

theorem CoreCtx.moveTile_of_partial {rows : List Span} (h : ¬ x.rowsBad s k) (hread : x.rowsRead s k wr = .ok rows)
    (hpart : x.rowsPartial s k wr rows) : x.moveTile s lsid (x.moveShape s k) wr op = x.fail s 6 x.a.v lsid := by
  rw [x.moveTile_eq h, hread]
  exact if_pos ((x.rowsPartial_iff s k wr rows).2 hpart)

theorem CoreCtx.moveTile_of_ok {rows : List Span} (h : ¬ x.rowsBad s k) (hread : x.rowsRead s k wr = .ok rows)
    (hwhole : ¬ x.rowsPartial s k wr rows) : x.moveTile s lsid (x.moveShape s k) wr op = x.ask s lsid (.tile (op (x.rowStep s k) rows)) := by
  rw [x.moveTile_eq h, hread]
  exact if_neg (mt (x.rowsPartial_iff s k wr rows).1 hwhole)

end

section
variable {i : Instr} {p : BitVec 2} {lsid : Nat} {k : BitVec 4} {wr : Bool} {op : Nat → List Span → TileOp}

/-- TLD and TST move a tile once every earlier tile instruction has fired. -/
def MovesTile (i : Instr) (p : BitVec 2) (lsid : Nat) (k : BitVec 4) (wr : Bool) (op : Nat → List Span → TileOp) : Prop :=
  ∀ s, exec i s = execCore s p [.left, .right] (fun x => if !x.tileReady then s else x.moveTile s lsid (x.moveShape s k) wr op)

variable (hi : MovesTile i p lsid k wr op)
include hi

theorem MovesTile.waits : WaitsInCore i p [.left, .right] (fun _ x => x.tileReady = false) :=
  firesInCore_of pred_leftRight hi (fun _ _ _ hearly => if_pos (by rw [hearly]; rfl))

theorem MovesTile.fails_of_bad : FailsInCore i p [.left, .right] lsid (fun s x => x.tileReady ∧ x.rowsBad s k) (fun _ x => (3, x.a.v)) :=
  fails_of_check pred_leftRight hi (fun _ _ ⟨hready, hbad⟩ => (if_not_tileReady hready _ _).trans (CoreCtx.moveTile_of_bad hbad))

theorem MovesTile.fails_of_error (e : XFault) : FailsInCore i p [.left, .right] lsid
    (fun s x => x.tileReady ∧ ¬ x.rowsBad s k ∧ x.rowsRead s k wr = .error e) (fun _ _ => (e.code, BitVec.ofNat 64 e.va)) :=
  fails_of_check pred_leftRight hi (fun _ _ ⟨hready, hgood, hread⟩ =>
    (if_not_tileReady hready _ _).trans (CoreCtx.moveTile_of_error hgood hread))

variable (rows : List Span)

theorem MovesTile.fails_of_partial : FailsInCore i p [.left, .right] lsid
    (fun s x => x.tileReady ∧ ¬ x.rowsBad s k ∧ x.rowsRead s k wr = .ok rows ∧ x.rowsPartial s k wr rows) (fun _ x => (6, x.a.v)) :=
  fails_of_check pred_leftRight hi (fun _ _ ⟨hready, hgood, hread, hpart⟩ =>
    (if_not_tileReady hready _ _).trans (CoreCtx.moveTile_of_partial hgood hread hpart))

theorem MovesTile.asks : AsksInCore i p [.left, .right] lsid
    (fun s x => x.tileReady ∧ ¬ x.rowsBad s k ∧ x.rowsRead s k wr = .ok rows ∧ ¬ x.rowsPartial s k wr rows)
    (fun s x => .tile (op (x.rowStep s k) rows)) :=
  asks_of_check pred_leftRight hi (fun _ _ ⟨hready, hgood, hread, hwhole⟩ =>
    (if_not_tileReady hready _ _).trans (CoreCtx.moveTile_of_ok hgood hread hwhole))

end

/-! ### Weights from the weight store (R364) -/

/-- The format and the counts of the image that the left operand of WLOAD names. -/
def CoreCtx.weightFmt (x : CoreCtx) : Nat := x.a.v.toNat % 16
def CoreCtx.weightRows (x : CoreCtx) : Nat := x.a.v.toNat / 2 ^ 24 % 128 + 1
def CoreCtx.weightCols (x : CoreCtx) : Nat := x.a.v.toNat / 2 ^ 32 % 512 + 1

/-- The array is systolic, and the image fits it and is aligned. -/
def CoreCtx.weightsOk (s : State) (x : CoreCtx) : Prop :=
  x.systolic s ∧ wloadOk x.a.v x.weightFmt x.weightRows x.weightCols ∧ rowAlign x.weightFmt ∣ x.b.v.toNat

/-- The rows of the image, which follow one another. -/
def CoreCtx.weightsRead (s : State) (x : CoreCtx) : Except XFault (List Span) :=
  rowSpans s x x.rd (imageRow x.weightFmt x.weightCols) (imageRow x.weightFmt x.weightCols) x.weightRows x.b.v.toNat

/-- Is this run outside the weight store? -/
def outsideWeights (r : Xlat × Nat) : Bool :=
  match regionOf r.1.pa with
  | .active _ => false
  | _ => true

theorem find?_outsideWeights_eq_none {rows : List Span} (h : ∀ sp ∈ rows, ∀ r ∈ sp, ∃ d, regionOf r.1.pa = .active d) :
    rows.flatten.find? outsideWeights = none := by
  rw [List.find?_eq_none]
  intro r hr
  obtain ⟨sp, hsp, hrsp⟩ := List.mem_flatten.1 hr
  obtain ⟨d, hd⟩ := h sp hsp r hrsp
  rw [outsideWeights, hd]
  exact Bool.false_ne_true

/-- What WLOAD from the weight store does as it fires. -/
def CoreCtx.wloadW (x : CoreCtx) (s : State) : State :=
  if !x.tileReady then s
  else if !(x.systolic s && wloadOk x.a.v x.weightFmt x.weightRows x.weightCols && x.b.v.toNat % rowAlign x.weightFmt == 0) then x.illegal s 0
  else match CoreCtx.weightsRead s x with
    | .error e => x.fail s e.code (BitVec.ofNat 64 e.va) 0
    | .ok rows =>
      match rows.flatten.find? outsideWeights with
      | some r => x.fail s 5 (BitVec.ofNat 64 r.1.va) 0
      | none => x.ask s 0 (.tile (.wloadW x.a.v rows))

theorem exec_wloadW_eq (p : BitVec 2) (s : State) : exec (.wloadW p) s = execCore s p [.left, .right] (fun x => x.wloadW s) := rfl

theorem weightsOk_iff (s : State) (x : CoreCtx) :
    (!(x.systolic s && wloadOk x.a.v x.weightFmt x.weightRows x.weightCols && x.b.v.toNat % rowAlign x.weightFmt == 0)) = true
      ↔ ¬ CoreCtx.weightsOk s x := by
  rw [CoreCtx.weightsOk, Bool.not_eq_true', ← Bool.not_eq_true, Bool.and_eq_true, Bool.and_eq_true, beq_iff_eq, Nat.dvd_iff_mod_eq_zero, and_assoc]

section
variable (p : BitVec 2)

theorem wloadW_waits : WaitsInCore (.wloadW p) p [.left, .right] (fun _ x => x.tileReady = false) :=
  firesInCore_of pred_leftRight (exec_wloadW_eq p) (fun _ _ _ hearly => if_pos (by rw [hearly]; rfl))

theorem wloadW_fails_of_bad : FailsInCore (.wloadW p) p [.left, .right] 0 (fun s x => x.tileReady ∧ ¬ CoreCtx.weightsOk s x)
    (fun _ x => (1, x.blk.word x.slot)) :=
  fails_of_check pred_leftRight (exec_wloadW_eq p) (fun s x ⟨hready, hbad⟩ =>
    (if_not_tileReady hready _ _).trans (if_pos ((weightsOk_iff s x).2 hbad)))

theorem wloadW_fails_of_error (e : XFault) : FailsInCore (.wloadW p) p [.left, .right] 0
    (fun s x => x.tileReady ∧ CoreCtx.weightsOk s x ∧ CoreCtx.weightsRead s x = .error e) (fun _ _ => (e.code, BitVec.ofNat 64 e.va)) :=
  fails_of_check pred_leftRight (exec_wloadW_eq p) (fun s x ⟨hready, hok, hread⟩ => by
    rw [CoreCtx.wloadW, if_not_tileReady hready, if_neg (by rw [weightsOk_iff]; exact not_not.2 hok), hread])

theorem wloadW_asks (rows : List Span) : AsksInCore (.wloadW p) p [.left, .right] 0
    (fun s x => x.tileReady ∧ CoreCtx.weightsOk s x ∧ CoreCtx.weightsRead s x = .ok rows
      ∧ ∀ sp ∈ rows, ∀ r ∈ sp, ∃ d, regionOf r.1.pa = .active d)
    (fun _ x => .tile (.wloadW x.a.v rows)) :=
  asks_of_check pred_leftRight (exec_wloadW_eq p) (fun s x ⟨hready, hok, hread, hinside⟩ => by
    rw [CoreCtx.wloadW, if_not_tileReady hready, if_neg (by rw [weightsOk_iff]; exact not_not.2 hok), hread]
    simp only [find?_outsideWeights_eq_none hinside])

end

/-! ### The sort network (R369) -/

/-- The page's active context is in sorting mode, and the left operand names a size and a count that it has. -/
def CoreCtx.sortOk (s : State) (x : CoreCtx) : Prop :=
  (∃ a, s.arrayOf (pageOf x.c) = some a ∧ a.mode = 2)
    ∧ 1 ≤ x.a.v.toNat % 16 ∧ x.a.v.toNat % 16 ≤ 9 ∧ x.a.v.toNat / 256 % 1024 ≤ 2 ^ (x.a.v.toNat % 16)

theorem sortOk_iff (s : State) (x : CoreCtx) :
    (((s.arrayOf (pageOf x.c)).map (fun a => a.mode == 2)).getD false
      && decide (1 ≤ x.a.v.toNat % 16 ∧ x.a.v.toNat % 16 ≤ 9 ∧ x.a.v.toNat / 2 ^ 8 % 2 ^ 10 ≤ 2 ^ (x.a.v.toNat % 16))) = true
      ↔ CoreCtx.sortOk s x := by
  rw [CoreCtx.sortOk, Bool.and_eq_true, decide_eq_true_eq]
  cases s.arrayOf (pageOf x.c) <;> simp

section
variable (p : BitVec 2)

theorem sortcfg_asks : AsksInCore (.sortcfg p) p [.left] 0 CoreCtx.sortOk (fun _ x => .sortcfg x.a.v) :=
  asks_of_check pred_left (exec_sortcfg p) (fun s x hok => if_pos ((sortOk_iff s x).2 hok))

theorem sortcfg_fails : FailsInCore (.sortcfg p) p [.left] 0 (fun s x => ¬ CoreCtx.sortOk s x) (fun _ x => (1, x.blk.word x.slot)) :=
  fails_of_check pred_left (exec_sortcfg p) (fun s x hbad => if_neg (mt (sortOk_iff s x).1 hbad))

end

/-! ### The obligation -/

/-- Settles O29: TLD and TST differ in the direction of the move; WLOAD and SORTCFG each by their checks. -/
theorem tilesAndMemory : Obligations.TilesAndMemory := by
  intro p l k rows e
  refine ⟨?moves, ⟨wloadW_waits p, wloadW_fails_of_bad p, wloadW_fails_of_error p e, wloadW_asks p rows⟩, sortcfg_asks p, sortcfg_fails p⟩
  case moves =>
    intro i wr op hmem
    have hi : MovesTile i p l.toNat k wr op := by
      simp only [List.mem_cons, Prod.mk.injEq, List.not_mem_nil, or_false] at hmem
      obtain ⟨rfl, rfl, rfl⟩ | ⟨rfl, rfl, rfl⟩ := hmem
      · exact exec_tld p l k
      · exact exec_tst p l k
    exact ⟨hi.waits, hi.fails_of_bad, hi.fails_of_error e, hi.fails_of_partial rows, hi.asks rows⟩

end Sys2Proof.Machine
end

section
/-! SUPPORT. The port instructions of an element, and the obligation on them (R308 to R313, R317, R318). -/
namespace Sys2Proof.Machine

/-! ### Lanes that an instruction computes from what its element holds (R256, R262, R308) -/

section
variable {used : List LaneV} {q : LaneV} {pr : Bool} {fm : Nat → Nat → Img → Nat} {r : Img → Img → Img → Img} {a b c : LaneV}

theorem laneResult_rank : (laneResult used q pr fm r a b c).rank = rankMax (if pr then q :: used else used) := by
  rw [laneResult]
  split <;> rfl

/-- A lane that the predicate lets, all of whose operands hold values. -/
theorem laneResult_of_full (hfires : q.fires = true) (hfull : ∀ l ∈ used, l.val.isSome) :
    laneResult used q pr fm r a b c =
      { val := some ((r (a.val.getD {}) (b.val.getD {}) (c.val.getD {})).orS (fm a.fmt b.fmt (c.val.getD {})) (q.val.getD {}).s)
        rank := rankMax (if pr then q :: used else used), fmt := fm a.fmt b.fmt (c.val.getD {}) } := by
  rw [laneResult, hfires, List.all_eq_true.2 hfull]
  rfl

/-- Any other lane is empty. -/
theorem laneResult_of_empty (h : q.fires = true → ∃ l ∈ used, l.val = none) : (laneResult used q pr fm r a b c).val = none := by
  have hcond : ¬ (q.fires && used.all (fun l => l.val.isSome)) = true := by
    rw [Bool.and_eq_true, List.all_eq_true]
    rintro ⟨hfires, hfull⟩
    obtain ⟨l, hl, hval⟩ := h hfires
    have := hfull l hl
    rw [hval] at this
    cases this
  rw [laneResult]
  exact congrArg LaneV.val (if_neg hcond)

end

section
variable {f : Firing} {slot : Nat} {p : BitVec 2} {uses : List Pos} {k : Nat}

/-- The rank of a result is the highest of the operands used and of the predicate. -/
theorem rankMax_used (hk : k < 16) :
    rankMax (if p != 0 then (elemCtxOf f slot p).p.getD k {} :: uses.map (fun q => f.lane slot q k) else uses.map (fun q => f.lane slot q k))
      = f.rankOf slot p uses k := by
  rw [pred_lane f slot p k hk, Firing.rankOf]
  by_cases hp : p = 0
  · rw [if_pos hp, if_neg (by simpa using hp), if_pos hp, rankMax, List.foldl_map, List.foldl_map]
  · rw [if_neg hp, if_pos (bne_iff_ne.2 hp), if_neg hp, rankMax, List.foldl_map, List.foldl_cons, List.foldl_cons, List.foldl_map]

end

/-- An instruction whose lanes depend on what its element holds. -/
theorem computesInElemOf_of {i : Instr} {p : BitVec 2} {ts : List (BitVec 9)} {uses : List Pos} {fm : Nat → Nat → Img → Nat}
    {r : Firing → Img → Img → Img → Img} (hu : Pos.pred ∉ uses)
    (hi : ∀ s f slot, ElemSlot s f slot → f.arrived slot p uses →
      exec i s = .next ((elemCtxOf f slot p).finish s ts ((elemCtxOf f slot p).lanes p uses fm (r f)))) :
    ComputesInElemOf i p ts uses r := by
  intro s f slot h ha
  refine ⟨_, hi s f slot h ha, by simp [ElemCtx.lanes], fun k hk => ?_⟩
  rw [lanes_getD hk, usedLanes_eq hu]
  refine ⟨laneResult_rank.trans (rankMax_used hk), fun ps hlets hfull => ?_, fun hempty => laneResult_of_empty fun hfires => ?_⟩
  · have hvals : ∀ l ∈ uses.map (fun q => f.lane slot q k), l.val.isSome := List.forall_mem_map.2 hfull
    rw [laneResult_of_full ((fires_iff hk).2 ⟨ps, hlets⟩) hvals, lets_s hk hlets]
    refine ⟨?_, fun hraw => ?_⟩
    · rw [Img.orS]
      split <;> rfl
    · rw [Img.orS, if_neg hraw]
      rfl
  · obtain ⟨ps, hlets⟩ := (fires_iff hk).1 hfires
    obtain hnone | ⟨q, hq, hval⟩ := hempty
    · exact absurd hlets (hnone ps)
    · exact ⟨_, List.mem_map_of_mem hq, hval⟩

/-! ### OUT and OUTM (R301, R308, R310) -/

/-- What an element's output holds after the lanes of an OUT: the beat that they make, behind the length of an SD result that begins, or BAD_BEAT. -/
def Firing.putLanes (f : Firing) (slot q : Nat) (ls : List LaneV) : Firing :=
  match outBeat (f.outp q) ls with
  | none => f.faults 0x80
  | some b => (if beatEmpty b ∧ hkind b = 0 then f else match f.sdPrefix slot q with
      | some g => f.placePrefix q g
      | none => f).place q b

theorem ElemCtx.out_eq (x : ElemCtx) (s : State) (q : Nat) (ls : List LaneV) : x.out s q ls = x.mark s (fun f => f.putLanes x.slot q ls) := by
  rw [ElemCtx.out]
  congr 1
  funext f
  rw [Firing.putLanes]
  cases outBeat (f.outp q) ls with
  | none => rfl
  | some b =>
    simp only [Bool.and_eq_true, beq_iff_eq] <;> rfl

/-- Lanes whose ranks are raised to those of a second operand, where it has one (log 110). -/
def raisedRanks (b ls : List LaneV) : List LaneV :=
  (List.range 16).map (fun i => match (b.getD i {}).val with
    | some v => { ls.getD i {} with rank := max (ls.getD i {}).rank (v.v.toNat % 4) }
    | none => ls.getD i {})

/-! ### Announced lengths (R313) -/

/-- The length that the lowest nonempty lane gives. -/
def lanesLength (ls : List LaneV) : Option Nat := (ls.findSome? LaneV.val).map (fun v => v.v.toNat % 2 ^ 32)

/-- Announces a segment of a length, if there is one. -/
def Firing.placeSegl (f : Firing) (q rank : Nat) (len : Option Nat) : Firing :=
  match len with
  | none => f
  | some n => f.placePrefix q { length := n, endrank := rank }

/-- Announces such a segment of the lane and generation of another, if there is one. -/
def Firing.placeSegn (f : Firing) (q : Nat) (len : Option Nat) (seg : Option SegId) : Firing :=
  match len, seg with
  | none, _ => f
  | some n, none => f.placePrefix q { length := n }
  | some n, some g => f.placePrefix q { length := n, lane := g.lane, gen := g.gen, nolane := g.nolane, endrank := g.endrank }

theorem placeSegl_lanesLength (f : Firing) (q rank : Nat) (ls : List LaneV) :
    (match lowestLane ls with
      | none => f
      | some v => f.placePrefix q { length := v.v.toNat % 2 ^ 32, endrank := rank }) = f.placeSegl q rank (lanesLength ls) := by
  rw [lowestLane, lanesLength]
  cases List.findSome? LaneV.val ls <;> rfl

theorem placeSegn_lanesLength (f : Firing) (q : Nat) (seg : Option SegId) (ls : List LaneV) :
    (match lowestLane ls with
      | none => f
      | some v => f.placePrefix q (segnPrefix seg (v.v.toNat % 2 ^ 32))) = f.placeSegn q (lanesLength ls) seg := by
  rw [lowestLane, lanesLength]
  cases List.findSome? LaneV.val ls with
  | none => rfl
  | some v => cases seg <;> rfl

/-! ### The instructions -/

section
variable (p : BitVec 2) (t u : BitVec 9)

theorem inPort_passes (n : BitVec 5) (k : BitVec 1) (j : BitVec 4) : PassesInElem (.inPort p t n k j) p [] (fun _ _ => True)
    (fun f _ => f.lanesIn n.toNat) (fun f _ ls => f.deliver t ls) :=
  passesInElem_both (exec_inPort p t n k j) (fun _ _ _ _ => rfl)

/-- MERGE, OMERGE and RECIRC deliver the beat that the element chose as it began to fire. -/
theorem join_passes {i : Instr} (hi : ∀ s, exec i s = execElem s p [] (fun x => x.join s p [t, u])) : PassesInElem i p [] (fun _ _ => True)
    (fun f _ => f.lanesIn (f.chosen.getD 0)) (fun f _ ls => (f.deliver t ls).deliver u ls) :=
  passesInElem_of hi (fun _ _ _ _ => rfl)

theorem genofIn_computes : ComputesInElemOf (.genofIn p t u) p [t, u] [.left] (fun f a _ _ =>
    if a.v.toNat % 2 ^ 32 < 4 then genofImage (f.inp (a.v.toNat % 2 ^ 32)).seg else genofImage none) :=
  computesInElemOf_of (fm := fmInt) pred_left (fun s f slot h ha => by
    simp only [← apply_ite genofImage]
    exact execBoth_elem h ha)

end

section
variable (p : BitVec 2) (m : BitVec 8) (k : BitVec 1) (j : BitVec 4)

theorem outPort_passes : PassesInElem (.outPort p m k j) p [.left] (fun _ _ => True) (fun f slot => f.lanesAt slot .left)
    (fun f slot ls => f.putLanes slot m.toNat ls) :=
  passesInElem_both (exec_outPort p m k j) (fun _ _ _ _ => ElemCtx.out_eq _ _ _ _)

theorem outm_passes : PassesInElem (.outm p m k j) p [.left, .right] (fun _ _ => True) (fun f slot => f.lanesAt slot .left)
    (fun f slot ls => f.putLanes slot m.toNat (raisedRanks (f.lanesAt slot .right) ls)) :=
  passesInElem_both (exec_outm p m k j) (fun _ _ _ _ => ElemCtx.out_eq _ _ _ _)

theorem mrk_passes : PassesInElem (.mrk p m k j) p [.left] (fun _ _ => True) (fun f slot => f.lanesAt slot .left)
    (fun f _ ls => f.place m.toNat (ls.map (fun l => match l.val with
      | some v => strandM (v.v.toNat % 4)
      | none => {}))) :=
  passesInElem_both (exec_mrk p m k j) (fun _ _ _ _ => rfl)

theorem segl_passes (r : BitVec 2) : PassesInElem (.segl p m r) p [.left] (fun _ _ => True) (fun f slot => f.lanesAt slot .left)
    (fun f _ ls => f.placeSegl m.toNat r.toNat (lanesLength ls)) :=
  passesInElem_both (exec_segl p m r) (fun s _ _ _ => congrArg (fun g => { s with firing := some g }) (placeSegl_lanesLength _ _ _ _))

theorem segn_passes (q : BitVec 5) : PassesInElem (.segn p m q) p [.left] (fun _ _ => True) (fun f slot => f.lanesAt slot .left)
    (fun f _ ls => f.placeSegn m.toNat (lanesLength ls) (f.inp q.toNat).seg) :=
  passesInElem_both (exec_segn p m q) (fun s _ _ _ => congrArg (fun g => { s with firing := some g }) (placeSegn_lanesLength _ _ _ _))

end

/-! ### CTXSW (R318) -/

/-- A lane that fires is one of the list: beyond its end no lane does. -/
theorem any_fires_of_getD {ls : List LaneV} {i : Nat} (h : (ls.getD i {}).fires = true) : ls.any LaneV.fires = true := by
  by_cases hi : i < ls.length
  · rw [List.getD_eq_getElem _ _ hi] at h
    exact List.any_eq_true.2 ⟨_, List.getElem_mem hi, h⟩
  · rw [List.getD_eq_default _ _ (Nat.not_lt.1 hi)] at h
    cases h

theorem not_any_fires {ls : List LaneV} (hlen : ls.length = 16) (h : ∀ i < 16, ¬ (ls.getD i {}).fires = true) : ¬ ls.any LaneV.fires = true := by
  rw [List.any_eq_true]
  rintro ⟨l, hl, hfires⟩
  obtain ⟨i, hi, rfl⟩ := List.getElem_of_mem hl
  refine h i (hlen ▸ hi) ?_
  rwa [List.getD_eq_getElem _ _ hi]

section
variable (p : BitVec 2) (m : BitVec 8) (c : BitVec 2)

/-- A condition token where a lane fires. -/
theorem ctxsw_places : FiresInElem (.ctxsw p m c) p [] (fun f slot => ∃ i < 16, ∃ ps, f.lets slot p i ps)
    (fun f _ => f.place m.toNat (mkCondBeat c.toNat)) :=
  firesInElem_both (exec_ctxsw p m c) (fun s _ _ ⟨_, hi, hlets⟩ =>
    congrArg (fun g => { s with firing := some g }) (if_pos (any_fires_of_getD ((fires_iff hi).2 hlets))))

/-- Nothing where none does. -/
theorem ctxsw_rests : FiresInElem (.ctxsw p m c) p []
    (fun f slot => (f.lanesAt slot .pred).length = 16 ∧ ∀ i < 16, ∀ ps, ¬ f.lets slot p i ps) (fun f _ => f) :=
  firesInElem_both (exec_ctxsw p m c) (fun s f slot ⟨hfull, hnone⟩ => by
    have hp : p ≠ 0 := fun h => hnone 0 (by decide) false (.inl ⟨h, rfl⟩)
    have hlen : (elemCtxOf f slot p).p.length = 16 := by
      rw [elemCtxOf, if_neg hp, List.length_map]
      exact hfull
    refine congrArg (fun g => { s with firing := some g }) (if_neg (not_any_fires hlen fun i hi hfires => ?_))
    obtain ⟨ps, hlets⟩ := (fires_iff hi).1 hfires
    exact hnone i hi ps hlets)

end

/-! ### The obligation -/

/-- Settles O30: IN, the joins, OUT, OUTM, MRK, SEGL and SEGN pass on their lanes under the predicate, CTXSW asks whether any lane fires, and GENOF.in
computes lane by lane. That OUTM places an empty lane of b as OUT does (log 110), and that a header lane takes no S from the predicate (log 12), are the
model's reading. -/
theorem elementPorts : Obligations.ElementPorts := by
  intro p t u n q m k j r c
  refine ⟨inPort_passes p t n k j, ?joins, outPort_passes p m k j, outm_passes p m k j, mrk_passes p m k j, segl_passes p m r, segn_passes p m q,
    ctxsw_places p m c, ctxsw_rests p m c, genofIn_computes p t u⟩
  case joins =>
    simp only [List.forall_mem_cons, List.not_mem_nil, false_imp_iff, implies_true, and_true]
    exact ⟨join_passes p t u (exec_merge p t u j), join_passes p t u (exec_omerge p t u), join_passes p t u (exec_recirc p t u)⟩

end Sys2Proof.Machine
end

section
/-! SUPPORT. STEER and GUESS, and the obligation on them (R316, R325). -/
namespace Sys2Proof.Machine

/-! ### STEER -/

/-- Whether a record arrives at a position depends on the code, the inputs and the chosen input alone, not on what has fired. -/
theorem recAt_fired (f : Firing) (done : List Nat) (fuel slot : Nat) (pos : Pos) :
    ({ f with fired := done } : Firing).recAt fuel slot pos = f.recAt fuel slot pos := by
  induction fuel generalizing slot pos with
  | zero => rfl
  | succ n ih =>
    rw [Firing.recAt, Firing.recAt]
    cases f.code.producer slot pos with
    | none => rfl
    | some e =>
      obtain ⟨q, i⟩ := e
      cases i
      case inPort | merge | omerge | recirc | recNew | recGet => rfl
      all_goals exact ih q .left

theorem any_isHeader (v : Option Img) : v.any isHeader = (match v with
    | some h => isHeader h
    | none => false) := by
  cases v <;> rfl

/-- What STEER does to the firing: each arm takes its lanes, and the order output, where there is one, a beat that says where each went. -/
def Firing.steered (f : Firing) (t u : BitVec 9) (o : BitVec 1) (q : Nat) (r : List (LaneV × LaneV × Option Bool)) : Firing :=
  let g := (f.deliver t (r.map (fun e => e.1))).deliver u (r.map (fun e => e.2.1))
  if o = 0 then g
  else match outBeat (g.outp q) (r.map (fun e => ({ val := e.2.2.map (fun v => ⟨if v then 1 else 0, false⟩) } : LaneV))) with
    | some b => g.place q b
    | none => g.faults 0x80

/-- The same with the order output asked about the other way round, as STEER of the model asks. -/
theorem steered_eq (f : Firing) (t u : BitVec 9) (o : BitVec 1) (q : Nat) (r : List (LaneV × LaneV × Option Bool)) :
    f.steered t u o q r =
      (let g := (f.deliver t (r.map (fun e => e.1))).deliver u (r.map (fun e => e.2.1))
       if o = 1 then match outBeat (g.outp q) (r.map (fun e => ({ val := e.2.2.map (fun v => ⟨if v then 1 else 0, false⟩) } : LaneV))) with
         | some b => g.place q b
         | none => g.bad 0x80
       else g) := by
  obtain rfl | rfl : o = 0 ∨ o = 1 := by revert o; decide
  · rfl
  · rfl

theorem steer_passes (p : BitVec 2) (t u : BitVec 9) (o : BitVec 1) (q : BitVec 2) :
    PassesInElem (.steer p t u o q) p [.left, .right] (fun _ _ => True) (fun f slot => f.lanesAt slot .left) (fun f slot ls =>
      f.steered t u o q.toNat (steerLanes (f.recAt 32 slot .left && ((ls.getD 0 {}).val.any isHeader)) ls (f.lanesAt slot .right))) :=
  passesInElem_of (exec_steer p t u o q) (fun s f slot _ => by
    simp only [recAt_fired, any_isHeader, steered_eq] <;> rfl)

/-- One lane of STEER: it goes where bit 0 of its predicate says, and nowhere when either is missing. -/
theorem steerLane_spec (l w : LaneV) (rank : Nat) :
    (let r := steerLane l w rank
     r.1.rank = rank ∧ r.2.1.rank = rank
     ∧ (l.val = none ∨ w.val = none → r.1.val = none ∧ r.2.1.val = none ∧ r.2.2 = none)
     ∧ (∀ v x, l.val = some v → w.val = some x → l.fmt ≠ 18 →
         (x.v.getLsbD 0 → r.1.val = some ⟨v.v, v.s || x.s⟩ ∧ r.2.1.val = none ∧ r.2.2 = some true)
         ∧ (x.v.getLsbD 0 = false → r.1.val = none ∧ r.2.1.val = some ⟨v.v, v.s || x.s⟩ ∧ r.2.2 = some false))) := by
  rw [steerLane]
  match hl : l.val, hw : w.val with
  | none, _ => simp
  | some v, none => simp
  | some v, some x =>
    simp only [Img.orS]
    cases hbit : x.v.getLsbD 0
    · simp +contextual [-BitVec.getLsbD_eq_getElem, hbit]
    · simp +contextual [-BitVec.getLsbD_eq_getElem, hbit]

/-- STEER of lanes steers each on its own. -/
theorem steerLanes_getD (a b : List LaneV) {i : Nat} (hi : i < 16) :
    (steerLanes false a b).getD i ({}, {}, none) = steerLane (a.getD i {}) (b.getD i {}) (max (a.getD i {}).rank (b.getD i {}).rank) :=
  range16_map_getD (fun i => steerLane (a.getD i {}) (b.getD i {}) (max (a.getD i {}).rank (b.getD i {}).rank)) _ hi

/-! ### GUESS -/

/-- What GUESS does to the firing, given the operands of the lowest lane that has them all. -/
def Firing.guessing (f : Firing) (operands : Option (Img × Img × Img)) : Firing :=
  match f.guessPt, (f.inp 0).seg, operands with
  | some k, some g, some (tok, conf, pos) =>
    if g.nolane || f.guessed then f
    else { f with guessed := true
                  guess := some { gpix := k, lane := g.lane, pos := pos.v.toNat % 2 ^ 32, gen := g.gen, tok := tok.v.toNat % 2 ^ 32, conf := conf } }
  | _, _, _ => f

section
variable {f : Firing} {operands : Option (Img × Img × Img)}

theorem guessing_of_first {k : Nat} {g : SegId} {tok conf pos : Img} (hpt : f.guessPt = some k) (hseg : (f.inp 0).seg = some g)
    (hlane : g.nolane = false) (hfirst : f.guessed = false) :
    f.guessing (some (tok, conf, pos)) =
      { f with guessed := true
               guess := some { gpix := k, lane := g.lane, pos := pos.v.toNat % 2 ^ 32, gen := g.gen, tok := tok.v.toNat % 2 ^ 32, conf := conf } } := by
  unfold Firing.guessing
  rw [hpt, hseg]
  exact if_neg (by simp [hlane, hfirst])

theorem guessing_of_nothing (h : f.guessPt = none ∨ (f.inp 0).seg = none ∨ f.guessed ∨ (f.inp 0).seg.map SegId.nolane = some true ∨ operands = none) :
    f.guessing operands = f := by
  unfold Firing.guessing
  split
  next k g tok conf pos hpt hseg =>
    rw [hpt, hseg] at h
    simp only [reduceCtorEq, Option.map_some, Option.some.injEq, false_or, or_false] at h
    exact if_pos (by rcases h with h | h <;> simp [h])
  next => rfl

end

section
variable {p : BitVec 2}

/-- The operands of a guess. -/
def Firing.guessOperands (f : Firing) (slot : Nat) (p : BitVec 2) : Option (Img × Img × Img) :=
  guessLane (f.lanesAt slot .left) (f.lanesAt slot .right) (f.lanesAt slot .third) (elemCtxOf f slot p).p

theorem guess_records (k : Nat) (g : SegId) (tok conf pos : Img) :
    FiresInElem (.guess p) p [.left, .right, .third] (fun f slot => f.guessPt = some k ∧ (f.inp 0).seg = some g ∧ g.nolane = false
        ∧ f.guessed = false ∧ f.guessOperands slot p = some (tok, conf, pos))
      (fun f _ => { f with guessed := true, guess := some { gpix := k, lane := g.lane, pos := pos.v.toNat % 2 ^ 32, gen := g.gen,
                                                            tok := tok.v.toNat % 2 ^ 32, conf := conf } }) :=
  firesInElem_of (exec_guess p) (fun s f slot ⟨hpt, hseg, hlane, hfirst, hoperands⟩ =>
    congrArg (fun g => { s with firing := some g })
      ((congrArg _ hoperands).trans (guessing_of_first (f := { f with fired := slot :: f.fired }) hpt hseg hlane hfirst)))

theorem guess_rests :
    FiresInElem (.guess p) p [.left, .right, .third] (fun f slot => f.guessPt = none ∨ (f.inp 0).seg = none ∨ f.guessed
        ∨ ((f.inp 0).seg.map SegId.nolane = some true) ∨ f.guessOperands slot p = none) (fun f _ => f) :=
  firesInElem_of (exec_guess p) (fun s f slot hrest =>
    congrArg (fun g => { s with firing := some g }) (guessing_of_nothing (f := { f with fired := slot :: f.fired }) hrest))

end

/-- Settles O34: STEER steers its masked lanes one by one; GUESS records by its three conditions. -/
theorem steerAndGuess : Obligations.SteerAndGuess := by
  refine ⟨steer_passes, fun a b i hi => ?_, fun p => ⟨guess_records, guess_rests⟩⟩
  rw [steerLanes_getD a b hi]
  exact steerLane_spec _ _ _

end Sys2Proof.Machine
end

section
/-! SUPPORT. Reductions, and the obligation on them (R314). -/
namespace Sys2Proof.Machine

/-- In a list that begins with one entry for each number below n, the first entry with a property that entry k alone has is entry k. -/
theorem find?_map_range_append {α : Type} {g : Nat → α} {P : α → Bool} {n k : Nat} {rest : List α} (hk : k < n) (hat : P (g k) = true)
    (hbelow : ∀ i < k, P (g i) = false) : (((List.range n).map g) ++ rest).find? P = some (g k) := by
  have hfirst : (List.range n).find? (P ∘ g) = some k :=
    List.find?_range_eq_some.2 ⟨hat, List.mem_range.2 hk, fun j hj => by simp [hbelow j hj]⟩
  rw [List.find?_append, List.find?_map, hfirst]
  rfl

/-! ### One fold and one emission -/

/-- An operand as a number: signed for type 1, natural for type 2. -/
theorem reduced_int (v : Bool) (a : Img) :
    (if (if v then 2 else 1) = 1 then signedOf 32 a.v.toNat else ((a.v.toNat % 2 ^ 32 : Nat) : Int)) = a.int v 32 := by
  cases v with
  | false => exact signedOf_eq_toInt 32 a.v
  | true => rfl

/-- Types 1 and 2 clamp to the signed and the natural bounds of a width. -/
theorem reduced_clamp (v : Bool) (n : Nat) (t : Int) :
    min (max t (if (if v then 2 else 1) = 1 then -(2 ^ (n - 1) : Int) else 0)) (if (if v then 2 else 1) = 1 then 2 ^ (n - 1) - 1 else 2 ^ n - 1)
      = nearest v n t := by
  rw [← clampTo_eq_nearest]
  cases v <;> rfl

section
variable (q : Partial) (a : Img) (v : Bool)

/-- A sum within its bounds takes one more element, and clamps once when it leaves them. -/
theorem fold_sum (h : q.clamped = false) :
    q.fold 0 (if v then 2 else 1) a =
      { q with any := true, sum := nearest v 48 (q.sum + a.int v 32), clamped := decide (nearest v 48 (q.sum + a.int v 32) ≠ q.sum + a.int v 32)
               s := q.s || a.s || decide (nearest v 48 (q.sum + a.int v 32) ≠ q.sum + a.int v 32) } := by
  rw [← reduced_clamp, ← reduced_int, Partial.fold, if_neg (by cases v <;> decide)]
  simp only [h]
  rfl

/-- A sum at its bound stays there. -/
theorem fold_sum_clamped (h : q.clamped = true) : q.fold 0 (if v then 2 else 1) a = { q with any := true, s := q.s || a.s } := by
  rw [Partial.fold, if_neg (by cases v <;> decide)]
  exact if_pos h

theorem fold_max : (q.fold 1 (if v then 2 else 1) a).sum = max q.sum (a.int v 32) := by
  rw [← reduced_int, Partial.fold, if_neg (by cases v <;> decide)]
  rfl

theorem fold_min : (q.fold 2 (if v then 2 else 1) a).sum = min q.sum (a.int v 32) := by
  rw [← reduced_int, Partial.fold, if_neg (by cases v <;> decide)]
  rfl

theorem emit_int : q.emit (if v then 2 else 1) =
    ⟨(BitVec.ofInt 32 (nearest v 32 q.sum)).setWidth 64, q.s || decide (nearest v 32 q.sum ≠ q.sum)⟩ := by
  have hwrap (x : Int) (s : Bool) : (⟨BitVec.ofNat 64 (bitsOf 32 x), s⟩ : Img) = ⟨(BitVec.ofInt 32 x).setWidth 64, s⟩ := wrapImg_eq 32 x s
  rw [← hwrap, ← clampTo_eq_nearest, Partial.emit, if_neg (by cases v <;> decide)]
  cases v <;> rfl

end

/-- A fold keeps the strand that the partial belongs to. -/
theorem fold_home (q : Partial) (kind type : Nat) (a : Img) : (q.fold kind type a).slot = q.slot ∧ (q.fold kind type a).lane = q.lane := by
  rw [Partial.fold]
  split
  · exact ⟨rfl, rfl⟩
  · match kind with
    | 0 =>
      simp only
      split <;> exact ⟨rfl, rfl⟩
    | 1 => exact ⟨rfl, rfl⟩
    | _ + 2 => exact ⟨rfl, rfl⟩

/-! ### The partials of an element -/

/-- The partial of a strand: a fresh one where the element holds none. -/
def Firing.partialOf (f : Firing) (slot kind type lane : Nat) : Partial :=
  (f.partials.find? (fun q => q.slot == slot && q.lane == lane)).getD (Partial.start slot lane kind (type == 2))

theorem partialOf_home (f : Firing) (slot kind type lane : Nat) :
    (f.partialOf slot kind type lane).slot = slot ∧ (f.partialOf slot kind type lane).lane = lane := by
  rw [Firing.partialOf]
  cases h : f.partials.find? (fun q => q.slot == slot && q.lane == lane) with
  | none => exact ⟨rfl, rfl⟩
  | some q => simpa using List.find?_some h

/-- The partial of a strand with the strand's element folded in, if the element is not empty. -/
def Firing.foldedOf (f : Firing) (slot kind type lane : Nat) : Partial :=
  match (f.lane slot .left lane).val with
  | some v => (f.partialOf slot kind type lane).fold kind type v
  | none => f.partialOf slot kind type lane

/-- What one lane of a reduction leaves as its partial and what it delivers. -/
def reduceLane (f : Firing) (slot : Nat) (p : BitVec 2) (kind type r lane : Nat) : Partial × LaneV :=
  let a := f.lane slot .left lane
  let q := (elemCtxOf f slot p).p.getD lane {}
  let fm := if type = 0 then 16 else 13
  if !q.fires then (f.partialOf slot kind type lane, { val := none, rank := max a.rank q.rank, fmt := fm })
  else if r ≤ a.rank then
    (Partial.start slot lane kind (type == 2),
      { val := some (((f.foldedOf slot kind type lane).emit type).orS fm (q.val.getD {}).s)
        rank := if p = 0 then a.rank else max a.rank q.rank, fmt := fm })
  else (f.foldedOf slot kind type lane, { val := none, rank := 0, fmt := fm })

section
variable (f : Firing) (slot : Nat) (p : BitVec 2) (kind type r lane : Nat)

theorem reduceLane_home : (reduceLane f slot p kind type r lane).1.slot = slot ∧ (reduceLane f slot p kind type r lane).1.lane = lane := by
  have hold := partialOf_home f slot kind type lane
  have hnew : (f.foldedOf slot kind type lane).slot = slot ∧ (f.foldedOf slot kind type lane).lane = lane := by
    rw [Firing.foldedOf]
    cases (f.lane slot .left lane).val with
    | none => exact hold
    | some v =>
      obtain ⟨hslot, hlane⟩ := fold_home (f.partialOf slot kind type lane) kind type v
      exact ⟨hslot.trans hold.1, hlane.trans hold.2⟩
  rw [reduceLane]
  split
  · exact hold
  · split
    · exact ⟨rfl, rfl⟩
    · exact hnew

variable {f slot p kind type r lane}

/-- A lane whose rank reaches r emits its partial and starts again. -/
theorem reduceLane_emits {ps : Bool} (hk : lane < 16) (hlets : f.lets slot p lane ps) (hr : r ≤ (f.lane slot .left lane).rank) :
    (reduceLane f slot p kind type r lane).1 = Partial.start slot lane kind (type == 2) ∧
    (reduceLane f slot p kind type r lane).2.val =
      some ⟨((f.foldedOf slot kind type lane).emit type).v, ((f.foldedOf slot kind type lane).emit type).s || ps⟩ := by
  have hfm : ¬ (if type = 0 then 16 else 13) = 18 := by split <;> decide
  rw [reduceLane, (fires_iff hk).2 ⟨ps, hlets⟩, lets_s hk hlets, if_pos hr]
  refine ⟨rfl, ?_⟩
  simp only [Bool.not_true, Bool.false_eq_true, if_false, Img.orS, if_neg hfm]

/-- A lane of lower rank keeps its partial and is empty. -/
theorem reduceLane_keeps {ps : Bool} (hk : lane < 16) (hlets : f.lets slot p lane ps) (hr : (f.lane slot .left lane).rank < r) :
    reduceLane f slot p kind type r lane = (f.foldedOf slot kind type lane, { val := none, rank := 0, fmt := if type = 0 then 16 else 13 }) := by
  rw [reduceLane, (fires_iff hk).2 ⟨ps, hlets⟩, if_neg (Nat.not_le.2 hr)]
  rfl

end

/-- The firing after a reduction, before its lanes are delivered. -/
def Firing.reduced (f : Firing) (slot : Nat) (p : BitVec 2) (kind type r : Nat) : Firing :=
  { f with
    fired := slot :: f.fired
    partials := (List.range 16).map (fun i => (reduceLane f slot p kind type r i).1) ++ f.partials.filter (fun q => q.slot != slot) }

/-- The partial of a strand after a reduction. -/
theorem partialOf_reduced (f : Firing) (slot : Nat) (p : BitVec 2) (kind type r : Nat) {k : Nat} (hk : k < 16) :
    (f.reduced slot p kind type r).partialOf slot kind type k = (reduceLane f slot p kind type r k).1 := by
  have hfind : (f.reduced slot p kind type r).partials.find? (fun q => q.slot == slot && q.lane == k) = some (reduceLane f slot p kind type r k).1 :=
    find?_map_range_append hk
      (by simp [reduceLane_home f slot p kind type r k])
      (fun i hi => by simp [reduceLane_home f slot p kind type r i, Nat.ne_of_lt hi])
  rw [Firing.partialOf, hfind]
  rfl

/-- A reduction of an element, lane by lane. -/
theorem reduce_eq (s : State) (f : Firing) (slot : Nat) (p : BitVec 2) (ts : List (BitVec 9)) (kind type r : Nat) :
    (elemCtxOf f slot p).reduce s p ts kind type r =
      { s with firing := some ((f.reduced slot p kind type r).deliverAll ts ((List.range 16).map (fun i => (reduceLane f slot p kind type r i).2))) } := by
  have hlanes : (elemCtxOf f slot p).reduce s p ts kind type r =
      { s with firing := some (({ f with
          fired := slot :: f.fired
          partials := ((List.range 16).map (reduceLane f slot p kind type r)).map Prod.fst
            ++ f.partials.filter (fun q => q.slot != slot) } : Firing).deliverAll ts
            (((List.range 16).map (reduceLane f slot p kind type r)).map Prod.snd)) } := rfl
  rw [hlanes, List.map_map, List.map_map]
  rfl

/-- A reduction instruction, whose three forms differ in their kind alone. -/
theorem reduction_folds {i : Instr} {p : BitVec 2} {t u : BitVec 9} {kind type r : Nat}
    (hi : ∀ s, exec i s = execElem s p [.left] (fun x => x.reduce s p [t, u] kind type r))
    {s : State} {f : Firing} {slot : Nat} (h : ElemSlot s f slot) (ha : f.arrived slot p [.left]) :
    ∃ (f' : Firing) (ls : List LaneV), exec i s = .next { s with firing := some (f'.deliverAll [t, u] ls) }
      ∧ f'.fired = slot :: f.fired ∧ f'.ops = f.ops ∧ ls.length = 16 ∧ ∀ k < 16, ∀ ps, f.lets slot p k ps →
        ((r ≤ (f.lane slot .left k).rank →
            (f'.partialOf slot kind type k).any = false ∧ (f'.partialOf slot kind type k).wf = wfStart kind
            ∧ (f'.partialOf slot kind type k).s = false
            ∧ (ls.getD k {}).val = some ⟨((f.foldedOf slot kind type k).emit type).v, ((f.foldedOf slot kind type k).emit type).s || ps⟩)
        ∧ ((f.lane slot .left k).rank < r → f'.partialOf slot kind type k = f.foldedOf slot kind type k
            ∧ ls.getD k {} = { val := none, rank := 0, fmt := if type = 0 then 16 else 13 })) := by
  refine ⟨f.reduced slot p kind type r, _, by rw [hi, execElem_fires h ha, reduce_eq], rfl, rfl, by simp, fun k hk ps hlets => ?_⟩
  rw [partialOf_reduced f slot p kind type r hk, range16_map_getD (fun i => (reduceLane f slot p kind type r i).2) _ hk]
  refine ⟨fun hr => ?_, fun hr => ?_⟩
  · obtain ⟨hpart, hval⟩ := reduceLane_emits (kind := kind) (type := type) hk hlets hr
    rw [hpart]
    exact ⟨rfl, rfl, rfl, hval⟩
  · rw [reduceLane_keeps hk hlets hr]
    exact ⟨rfl, rfl⟩

/-- Settles O33: a reduction lane by lane, and each fold and emission against the exact sums and bounds. -/
theorem reductions : Obligations.Reductions := by
  intro p t u y r
  have htype : (y = 0) = (y.toNat = 0) := propext ⟨fun h => by rw [h]; rfl, fun h => BitVec.eq_of_toNat_eq h⟩
  refine ⟨fun x hx s f slot h ha => ?_, fun q a => ⟨rfl, rfl, rfl, fun v =>
    ⟨fun h => ?_, fun h => ?_, fold_max q a v, fold_min q a v, emit_int q v⟩⟩⟩
  · simp only [List.mem_cons, List.not_mem_nil, or_false] at hx
    simp only [htype]
    obtain rfl | rfl | rfl := hx
    · exact reduction_folds (exec_rsum p t u y r) h ha
    · exact reduction_folds (exec_rmax p t u y r) h ha
    · exact reduction_folds (exec_rmin p t u y r) h ha
  · rw [fold_sum q a v h]
    exact ⟨rfl, rfl, rfl⟩
  · rw [fold_sum_clamped q a v h]
    exact ⟨rfl, rfl⟩

end Sys2Proof.Machine
end

section
/-! SUPPORT. The signed-digit instructions, and the obligation on them (R300 to R306). -/
namespace Sys2Proof.Machine

/-! ### The strand that a state belongs to -/

theorem endOf_home (st : SdState) (len : Nat) : (st.endOf len).slot = st.slot ∧ (st.endOf len).lane = st.lane := by
  rw [SdState.endOf]
  split <;> exact ⟨rfl, rfl⟩

/-- A step of the signed-digit instructions keeps the strand of its state. -/
def KeepsStrand (g : ElemCtx → Nat → SdState → Img → Img → SdLane) : Prop :=
  ∀ x i st a b, (g x i st a b).st.slot = st.slot ∧ (g x i st a b).st.lane = st.lane

theorem keepsStrand_sdOnline (e : ElemCtx → Int) (delta : Nat) (target : List Int → List Int → Int → Int → Nat → Dy) :
    KeepsStrand (fun x i st a b => sdOnline x i st a b (e x) delta target) := fun _ _ _ _ _ => endOf_home _ _

theorem keepsStrand_sdConvert : KeepsStrand (fun x _ st a _ => sdConvert x st a) := fun _ _ _ _ _ => endOf_home _ _

theorem keepsStrand_sdCutLane : KeepsStrand (fun x _ st a b => sdCutLane x st a b) := fun _ _ _ _ _ => endOf_home _ _

theorem keepsStrand_sdCompare (c : BitVec 3) : KeepsStrand (fun x _ st a b => sdCompare x c st a b) := fun _ _ _ _ _ => endOf_home _ _

theorem keepsStrand_sdToWf : KeepsStrand (fun x _ st a _ => sdToWf x st a) := fun _ _ _ _ _ => endOf_home _ _

theorem sdOf_home (f : Firing) (slot lane : Nat) : (f.sdOf slot lane).slot = slot ∧ (f.sdOf slot lane).lane = lane := by
  rw [Firing.sdOf]
  cases h : f.sd.find? (fun t => t.slot == slot && t.lane == lane) with
  | none => exact ⟨rfl, rfl⟩
  | some t => simpa using List.find?_some h

/-! ### One lane of a step -/

/-- What one lane of an SD instruction leaves as its strand's state, and what it delivers. -/
def sdLaneOf (f : Firing) (slot : Nat) (p : BitVec 2) (uses : List Pos) (fm : Nat) (g : ElemCtx → Nat → SdState → Img → Img → SdLane) (i : Nat) :
    SdLane × LaneV :=
  let x := elemCtxOf f slot p
  let a := x.a.getD i {}
  let b := x.b.getD i {}
  let pl := x.p.getD i {}
  let used := usedLanes uses a b {}
  let rank := rankMax (if p = 0 then used else pl :: used)
  if pl.fires && used.all (fun l => l.val.isSome) then
    let r := g x i (f.sdOf slot i) (a.val.getD {}) (b.val.getD {})
    (r, { val := r.out.map (fun v => v.orS fm (pl.val.getD {}).s), rank := rank, fmt := fm })
  else ({ st := f.sdOf slot i }, { val := none, rank := rank, fmt := fm })

section
variable {f : Firing} {slot : Nat} {p : BitVec 2} {uses : List Pos} {fm : Nat} {g : ElemCtx → Nat → SdState → Img → Img → SdLane} {k : Nat}

/-- The step that a strand takes when it is let. -/
def sdStepOf (f : Firing) (slot : Nat) (p : BitVec 2) (g : ElemCtx → Nat → SdState → Img → Img → SdLane) (k : Nat) : SdLane :=
  g (elemCtxOf f slot p) k (f.sdOf slot k) ((f.lane slot .left k).val.getD {}) ((f.lane slot .right k).val.getD {})

/-- An instruction of left and right operands asks that the lanes of those it uses hold values. -/
theorem used_all_iff (hu : ∀ q ∈ uses, q = .left ∨ q = .right) :
    (usedLanes uses (f.lane slot .left k) (f.lane slot .right k) {}).all (fun l => l.val.isSome) = true ↔
      ∀ q ∈ uses, (f.lane slot q k).val.isSome := by
  rw [usedLanes, List.all_map, List.all_eq_true]
  refine forall₂_congr fun q hq => ?_
  obtain rfl | rfl := hu q hq <;> rfl

theorem sdLaneOf_steps (hu : ∀ q ∈ uses, q = .left ∨ q = .right) (hfm : fm ≠ 18) (hk : k < 16) {ps : Bool} (hlets : f.lets slot p k ps)
    (hfull : ∀ q ∈ uses, (f.lane slot q k).val.isSome) :
    (sdLaneOf f slot p uses fm g k).1 = sdStepOf f slot p g k ∧
    (sdLaneOf f slot p uses fm g k).2.val = (sdStepOf f slot p g k).out.map (fun v => ⟨v.v, v.s || ps⟩) := by
  have hcond : (((elemCtxOf f slot p).p.getD k {}).fires &&
      (usedLanes uses (f.lane slot .left k) (f.lane slot .right k) {}).all (fun l => l.val.isSome)) = true := by
    rw [(fires_iff hk).2 ⟨ps, hlets⟩, (used_all_iff hu).2 hfull]
    rfl
  have hlane : sdLaneOf f slot p uses fm g k = (sdStepOf f slot p g k,
      { val := (sdStepOf f slot p g k).out.map (fun v => v.orS fm (((elemCtxOf f slot p).p.getD k {}).val.getD {}).s)
        rank := rankMax (if p = 0 then usedLanes uses (f.lane slot .left k) (f.lane slot .right k) {}
          else (elemCtxOf f slot p).p.getD k {} :: usedLanes uses (f.lane slot .left k) (f.lane slot .right k) {})
        fmt := fm }) := if_pos hcond
  rw [hlane, lets_s hk hlets]
  refine ⟨rfl, ?_⟩
  simp only [Img.orS, if_neg hfm]

theorem sdLaneOf_rests (hu : ∀ q ∈ uses, q = .left ∨ q = .right) (hk : k < 16)
    (hrest : (∀ ps, ¬ f.lets slot p k ps) ∨ ∃ q ∈ uses, (f.lane slot q k).val = none) :
    (sdLaneOf f slot p uses fm g k).1.st = f.sdOf slot k ∧ (sdLaneOf f slot p uses fm g k).2.val = none := by
  have hcond : ¬ (((elemCtxOf f slot p).p.getD k {}).fires &&
      (usedLanes uses (f.lane slot .left k) (f.lane slot .right k) {}).all (fun l => l.val.isSome)) = true := by
    rw [Bool.and_eq_true, fires_iff hk, used_all_iff hu]
    rintro ⟨⟨ps, hlets⟩, hfull⟩
    obtain hnone | ⟨q, hq, hval⟩ := hrest
    · exact hnone ps hlets
    · simpa [hval] using hfull q hq
  rw [sdLaneOf]
  exact ⟨congrArg (fun r : SdLane × LaneV => r.1.st) (if_neg hcond), congrArg (fun r : SdLane × LaneV => r.2.val) (if_neg hcond)⟩

theorem sdLaneOf_home (hg : KeepsStrand g) : (sdLaneOf f slot p uses fm g k).1.st.slot = slot ∧ (sdLaneOf f slot p uses fm g k).1.st.lane = k := by
  have hold := sdOf_home f slot k
  rw [sdLaneOf]
  split
  · exact ⟨(hg _ _ _ _ _).1.trans hold.1, (hg _ _ _ _ _).2.trans hold.2⟩
  · exact hold

end

/-! ### The firing after a step -/

/-- The firing after an SD instruction, before its lanes are delivered. -/
def Firing.stepped (f : Firing) (slot : Nat) (p : BitVec 2) (uses : List Pos) (fm : Nat)
    (g : ElemCtx → Nat → SdState → Img → Img → SdLane) : Firing :=
  { f with
    fired := slot :: f.fired
    sd := (List.range 16).map (fun i => (sdLaneOf f slot p uses fm g i).1.st) ++ f.sd.filter (fun t => t.slot != slot)
    fault := match f.fault with
      | some c => some c
      | none => ((List.range 16).map (sdLaneOf f slot p uses fm g)).findSome? (fun l => l.1.fault) }

section
variable {f : Firing} {slot : Nat} {p : BitVec 2} {uses : List Pos} {fm : Nat} {g : ElemCtx → Nat → SdState → Img → Img → SdLane} {k : Nat}

theorem sdOf_stepped (hg : KeepsStrand g) (hk : k < 16) : (f.stepped slot p uses fm g).sdOf slot k = (sdLaneOf f slot p uses fm g k).1.st := by
  have hfind : (f.stepped slot p uses fm g).sd.find? (fun t => t.slot == slot && t.lane == k) = some (sdLaneOf f slot p uses fm g k).1.st :=
    find?_map_range_append hk
      (by simp [sdLaneOf_home hg])
      (fun i hi => by simp [sdLaneOf_home hg, Nat.ne_of_lt hi])
  rw [Firing.sdOf, hfind]
  rfl

/-- A step that faults freezes the element. -/
theorem stepped_faults (hk : k < 16) (hfault : (sdLaneOf f slot p uses fm g k).1.fault.isSome) : (f.stepped slot p uses fm g).fault.isSome := by
  rw [Firing.stepped]
  cases f.fault with
  | some c => rfl
  | none => exact List.findSome?_isSome_iff.2 ⟨_, List.mem_map_of_mem (List.mem_range.2 hk), hfault⟩

/-- What each lane of a step is, once the firing after it and the lanes that it delivers are known. -/
theorem stepped_lanes {f' : Firing} (hg : KeepsStrand g) (hu : ∀ q ∈ uses, q = .left ∨ q = .right) (hfm : fm ≠ 18)
    (hsd : f'.sd = (f.stepped slot p uses fm g).sd) (hfault : f'.fault = (f.stepped slot p uses fm g).fault) (hk : k < 16) :
    (∀ ps, f.lets slot p k ps → (∀ q ∈ uses, (f.lane slot q k).val.isSome) →
      (f'.sdOf slot k = (sdStepOf f slot p g k).st
        ∧ (((List.range 16).map (fun i => (sdLaneOf f slot p uses fm g i).2)).getD k {}).val = (sdStepOf f slot p g k).out.map (fun v => ⟨v.v, v.s || ps⟩)
        ∧ ((sdStepOf f slot p g k).fault.isSome → f'.fault.isSome)))
    ∧ (((∀ ps, ¬ f.lets slot p k ps) ∨ ∃ q ∈ uses, (f.lane slot q k).val = none) →
      f'.sdOf slot k = f.sdOf slot k ∧ (((List.range 16).map (fun i => (sdLaneOf f slot p uses fm g i).2)).getD k {}).val = none) := by
  have hst : f'.sdOf slot k = (sdLaneOf f slot p uses fm g k).1.st := by
    rw [← sdOf_stepped hg hk, Firing.sdOf, Firing.sdOf, hsd]
  rw [hst, hfault, range16_map_getD (fun i => (sdLaneOf f slot p uses fm g i).2) _ hk]
  refine ⟨fun ps hlets hfull => ?_, sdLaneOf_rests hu hk⟩
  obtain ⟨hstep, hval⟩ := sdLaneOf_steps (g := g) hu hfm hk hlets hfull
  exact ⟨congrArg SdLane.st hstep, hval, fun h => stepped_faults hk (by rwa [hstep])⟩

theorem sd_eq (s : State) (ts : List (BitVec 9)) : (elemCtxOf f slot p).sd s p ts uses fm (g (elemCtxOf f slot p)) =
    { s with firing := some ((f.stepped slot p uses fm g).deliverAll ts ((List.range 16).map (fun i => (sdLaneOf f slot p uses fm g i).2))) } := by
  have hlanes : (elemCtxOf f slot p).sd s p ts uses fm (g (elemCtxOf f slot p)) =
      { s with firing := some (({ f with
          fired := slot :: f.fired
          sd := ((List.range 16).map (sdLaneOf f slot p uses fm g)).map (fun l => l.1.st) ++ f.sd.filter (fun t => t.slot != slot)
          fault := match f.fault with
            | some c => some c
            | none => ((List.range 16).map (sdLaneOf f slot p uses fm g)).findSome? (fun l => l.1.fault) } : Firing).deliverAll ts
            (((List.range 16).map (sdLaneOf f slot p uses fm g)).map (fun l => l.2))) } := rfl
  rw [hlanes, List.map_map, List.map_map]
  rfl

end

/-! ### The instructions -/

theorem stepsSd_of {i : Instr} {p : BitVec 2} {ts : List (BitVec 9)} {uses : List Pos} {fm : Nat} {g : ElemCtx → Nat → SdState → Img → Img → SdLane}
    (hg : KeepsStrand g) (hu : ∀ q ∈ uses, q = .left ∨ q = .right) (hfm : fm ≠ 18)
    (hi : ∀ s, exec i s = execElem s p uses (fun x => x.sd s p ts uses fm (g x))) : StepsSd i p ts uses g := fun s f slot h ha =>
  ⟨f.stepped slot p uses fm g, _, by rw [hi, execElem_fires h ha, sd_eq], rfl, rfl, by simp, fun _ hk => stepped_lanes hg hu hfm rfl rfl hk⟩

/-- SDCVT holds the element's inputs while one of its numbers has begun and not ended (R303). -/
def Firing.holding (f : Firing) (slot : Nat) : Firing := { f with hold := f.hold || f.midNumber slot }

theorem deliver_holding (f : Firing) (slot : Nat) (t : BitVec 9) (ls : List LaneV) :
    (f.holding slot).deliver t ls = (f.deliver t ls).holding slot := by
  have hop (n : Nat) (q : Pos) : (f.holding slot).operand n q = f.operand n q := rfl
  simp only [Firing.deliver, hop]
  split
  · rfl
  · split <;> rfl

theorem deliverAll_holding (f : Firing) (slot : Nat) (ts : List (BitVec 9)) (ls : List LaneV) :
    (f.holding slot).deliverAll ts ls = (f.deliverAll ts ls).holding slot :=
  List.foldl_hom (fun f => Firing.holding f slot) (fun f t => deliver_holding f slot t ls)

theorem sdcvt_steps (p : BitVec 2) (t u : BitVec 9) : StepsSd (.sdcvt p t u) p [t, u] [.left, .right] (fun x _ st a _ => sdConvert x st a) := by
  intro s f slot h ha
  refine ⟨(f.stepped slot p [.left, .right] 14 (fun x _ st a _ => sdConvert x st a)).holding slot, _, ?_, rfl, rfl, by simp,
    fun _ hk => stepped_lanes keepsStrand_sdConvert (by simp) (by decide) rfl rfl hk⟩
  rw [exec_sdcvt, execSdcvt, execElem_fires h ha]
  have hsd := sd_eq (f := f) (slot := slot) (p := p) (uses := [.left, .right]) (fm := 14) (g := fun x _ st a _ => sdConvert x st a) s [t, u]
  rw [hsd, deliverAll_holding]
  rfl

/-- Settles O35: one step of each strand, for all six instructions, by the strand's lane of the firing. The exponent and the digit count of a number are
those announced on the input that feeds it, traced through the code (log 34). -/
theorem signedDigitInstructions : Obligations.SignedDigitInstructions := by
  intro p t u c
  have hboth : ∀ q ∈ [Pos.left, Pos.right], q = .left ∨ q = .right := by decide
  exact ⟨stepsSd_of (keepsStrand_sdOnline _ _ _) hboth (by decide) (exec_sdadd p t u),
    stepsSd_of (keepsStrand_sdOnline _ _ _) hboth (by decide) (exec_sdmul p t u),
    sdcvt_steps p t u,
    stepsSd_of keepsStrand_sdCutLane hboth (by decide) (exec_sdcut p t u),
    stepsSd_of (keepsStrand_sdCompare c) hboth (by decide) (exec_sdcmp p t u c),
    stepsSd_of keepsStrand_sdToWf (by decide) (by decide) (exec_sdtowf p t u)⟩

end Sys2Proof.Machine
end

section
/-! SUPPORT. Conversions, and the obligation on them (R291 to R295). -/
namespace Sys2Proof.Machine

/-- An instruction that computes from its left operand alone, whatever the width. -/
theorem computes_leftOnly {i : Instr} {p : BitVec 2} {ts : List (BitVec 9)} {fm : Nat → Nat → Img → Nat} {f : Img → AluRes} {r : Img → Img × Flags}
    (hi : ∀ s, exec i s = execAlu s p ts [.left] fm (fun _ a _ _ => f a)) (hr : ∀ a, f a = ⟨(r a).1, (r a).2⟩) :
    Computes i p ts [.left] (fun _ a _ _ => r a) :=
  computes_of pred_left hi (fun _ _ a _ _ _ _ _ ha _ _ => by rw [ha (List.mem_singleton_self _), hr])

section
variable (p : BitVec 2) (t u : BitVec 9) (f : BitVec 4) (m : BitVec 3)

/-- FINAL of a C-block (R293): mode 6 is the mode of RMODE as the block began (R149). -/
theorem final_core : ComputesInCore (.final p t f m) p [t] [.left] (fun blk a _ _ =>
    let r := finalRound a f.toNat (if m = 6 then (blk.rmode.setWidth 3).toNat else m.toNat) (blk.rmode.getLsbD 3)
    (⟨BitVec.ofNat 64 r.code, r.nx⟩, r.fl)) :=
  computesInCore_of pred_left (exec_final p t f m) (fun blk a _ _ _ _ _ ha _ _ => by
    have hmode : blk.mode = (blk.rmode.setWidth 3).toNat := (BitVec.toNat_setWidth 3 blk.rmode).symm
    rw [ha (List.mem_singleton_self _), aluFinal, hmode]
    rfl)

/-- FINAL of an element, with SATF8 from the header of its code. -/
theorem final_elem (hm : m ≠ 6) : ComputesInElemOf (.final p t f m) p [t] [.left] (fun g a _ _ =>
    ⟨BitVec.ofNat 64 (finalRound a f.toNat m.toNat g.code.satf8).code, (finalRound a f.toNat m.toNat g.code.satf8).nx⟩) :=
  computesInElemOf_of (fm := fmCode f) pred_left (fun s g slot h ha => by
    have halu := execAlu_elem (ts := [t]) (fm := fmCode f) (g := fun e a _ _ => aluFinal f (if m = 6 then e.mode else m.toNat) e.satf8 a) h ha
    simp only [if_neg hm] at halu
    simp only [exec_final, execFinal, if_neg hm]
    exact halu)

/-- SCALE (R294): the amount is the whole right operand at the operation's width. -/
theorem computes_scale : Computes (.scale p t u) p [t, u] [.left, .right] (fun n a b _ =>
    ((wfScale a (b.at n).toInt (a.s || b.s)).img, (wfScale a (b.at n).toInt (a.s || b.s)).fl)) :=
  computes_of pred_leftRight (exec_scale p t u) (fun e _ a b _ a' b' _ ha hb _ => by
    rw [ha (by simp), hb (by simp), aluScale, sval_eq_toInt])

end

/-- Settles O10: each conversion is its named operation on the left operand; FINAL by kind of block, SCALE at the width of its block. -/
theorem conversions : Obligations.Conversions := fun p t u f m =>
  ⟨computes_leftOnly (exec_cvt p t u f) (fun _ => rfl), computes_leftOnly (exec_narrow p t u f) (fun _ => rfl), final_core p t f m,
    final_elem p t f m, computes_scale p t u, computes_leftOnly (exec_mxsc p t u f) (fun _ => rfl)⟩

end Sys2Proof.Machine
end

section
/-! SUPPORT. Exact working-float results, and the obligation on load types (R144, R145, R335, R338, R340). -/
namespace Sys2Proof.Machine

/-! ### Reading a packed working float -/

theorem wfPack_toNat (neg : Bool) (E F : Nat) : (wfPack neg E F).toNat = (if neg then 2 ^ 34 else 0) + E % 1024 * 2 ^ 24 + F % 2 ^ 24 := by
  rw [wfPack, BitVec.toNat_ofNat]
  split <;> omega

theorem wfPack_sign (neg : Bool) (E F : Nat) : (wfPack neg E F).getLsbD 34 = neg := by
  rw [BitVec.getLsbD, Nat.testBit_eq_decide_div_mod_eq, wfPack_toNat]
  cases neg with
  | false => exact decide_eq_false (by simp only [Bool.false_eq_true, if_false]; omega)
  | true => exact decide_eq_true (by simp only [if_true]; omega)

/-- A packed image whose exponent field is that of a finite number. -/
theorem wf_wfPack {E : Nat} (hlo : 1 ≤ E) (hhi : E ≤ 1022) (neg s : Bool) (F : Nat) :
    (⟨wfPack neg E F, s⟩ : Img).wf = .fin neg (2 ^ 24 + F % 2 ^ 24) (E - 535) := by
  have hE : (wfPack neg E F).toNat / 2 ^ 24 % 1024 = E := by
    rw [wfPack_toNat]
    split <;> omega
  have hF : (wfPack neg E F).toNat % 2 ^ 24 = F % 2 ^ 24 := by
    rw [wfPack_toNat]
    split <;> omega
  rw [Img.wf]
  simp only [hE, hF, wfPack_sign]
  rw [if_neg (by omega), if_neg (by omega)]

theorem wf_wfZero (neg s : Bool) : (wfZero neg s).wf = .zero neg := by
  have hE : (wfPack neg 0 0).toNat / 2 ^ 24 % 1024 = 0 := by
    rw [wfPack_toNat]
    split <;> omega
  rw [Img.wf, wfZero]
  simp only [hE, wfPack_sign, if_true]

/-- What a finite nonzero image holds: 25 significant bits and an exponent of the grid. -/
theorem wf_fin_bounds {a : Img} {neg : Bool} {m : Nat} {e : Int} (h : a.wf = .fin neg m e) : 2 ^ 24 ≤ m ∧ m < 2 ^ 25 ∧ -534 ≤ e ∧ e ≤ 487 := by
  rw [Img.wf] at h
  split at h
  · cases h
  · split at h
    · split at h <;> cases h
    · injection h with _ hm he
      omega

/-! ### Narrowing without a loss -/

/-- A number of at most 25 significant bits, within the grid, is narrowed to itself: nothing is lost and no flag is set (R145, R151). -/
theorem truncWf_fits {neg : Bool} {m : Nat} {e : Int} {os : Bool} (h0 : m ≠ 0) (hm : m < 2 ^ 25) (hlo : -510 ≤ e + Nat.log2 m)
    (hhi : e + Nat.log2 m ≤ 511) :
    truncWf neg m e false os = { img := ⟨wfPack neg (e + Nat.log2 m + 511).toNat (m * 2 ^ (24 - Nat.log2 m)), os⟩ } := by
  have hlog : Nat.log2 m ≤ 24 := Nat.le_of_lt_succ ((Nat.log2_lt h0).2 hm)
  have hkept (q : Nat) : decide (24 < Nat.log2 m ∧ q * 2 ^ (Nat.log2 m - 24) ≠ m) = false :=
    decide_eq_false fun h => absurd h.1 (Nat.not_lt.2 hlog)
  rw [truncWf]
  simp only [hkept, if_neg h0, if_neg (show ¬ 512 ≤ e + (Nat.log2 m : Int) by omega), if_neg (show ¬ e + (Nat.log2 m : Int) < -510 by omega),
    if_pos hlog, Bool.or_self, Bool.false_eq_true, and_false, if_false, Bool.false_or]

/-- The same number as read back. -/
theorem wf_truncWf {neg : Bool} {m : Nat} {e : Int} {os : Bool} (h0 : m ≠ 0) (hm : m < 2 ^ 25) (hlo : -510 ≤ e + Nat.log2 m)
    (hhi : e + Nat.log2 m ≤ 511) :
    (truncWf neg m e false os).img.wf = .fin neg (m * 2 ^ (24 - Nat.log2 m)) (e + Nat.log2 m - 24) := by
  have hlog : Nat.log2 m ≤ 24 := Nat.le_of_lt_succ ((Nat.log2_lt h0).2 hm)
  have hsplit : 2 ^ Nat.log2 m * 2 ^ (24 - Nat.log2 m) = 2 ^ 24 := by rw [← pow_add, Nat.add_sub_cancel' hlog]
  have hge : 2 ^ 24 ≤ m * 2 ^ (24 - Nat.log2 m) := hsplit ▸ Nat.mul_le_mul_right _ (Nat.log2_self_le h0)
  have hlt : m * 2 ^ (24 - Nat.log2 m) < 2 ^ 25 := by
    calc m * 2 ^ (24 - Nat.log2 m) < 2 ^ (Nat.log2 m + 1) * 2 ^ (24 - Nat.log2 m) := Nat.mul_lt_mul_of_pos_right Nat.lt_log2_self (by positivity)
      _ = 2 ^ 25 := by rw [pow_succ, mul_right_comm, hsplit, ← pow_succ]
  rw [truncWf_fits h0 hm hlo hhi, wf_wfPack (by omega) (by omega)]
  congr 1
  · omega
  · omega

/-- Such a number, zero included, keeps its value and the S of its operands. -/
theorem truncWf_exact (neg : Bool) {m : Nat} {e : Int} (os : Bool) (hm : m < 2 ^ 25)
    (he : m ≠ 0 → -510 ≤ e + Nat.log2 m ∧ e + Nat.log2 m ≤ 511) :
    (truncWf neg m e false os).img.wf.rat = (if neg then -1 else 1) * m * 2 ^ e ∧ (truncWf neg m e false os).img.s = os
      ∧ (truncWf neg m e false os).fl = {} := by
  by_cases h0 : m = 0
  · have hzero : truncWf neg m e false os = { img := wfZero neg os } := if_pos h0
    rw [hzero, wf_wfZero, h0]
    exact ⟨by simp [Wf.rat], rfl, rfl⟩
  · obtain ⟨hlo, hhi⟩ := he h0
    have hlog : Nat.log2 m ≤ 24 := Nat.le_of_lt_succ ((Nat.log2_lt h0).2 hm)
    refine ⟨?_, by rw [truncWf_fits h0 hm hlo hhi], by rw [truncWf_fits h0 hm hlo hhi]⟩
    have hscale : (2 : ℚ) ^ (24 - Nat.log2 m) * 2 ^ (e + Nat.log2 m - 24) = 2 ^ e := by
      rw [← zpow_natCast, ← zpow_add₀ two_ne_zero]
      congr 1
      omega
    rw [wf_truncWf h0 hm hlo hhi, Wf.rat, Nat.cast_mul, Nat.cast_pow, Nat.cast_ofNat, mul_assoc, mul_assoc, mul_assoc, hscale]

/-! ### Load types -/

/-- A code of a floating format of at most 32 bits is widened without a loss: its value is within the grid (R147). -/
theorem toWf_float_s {f : Nat} (hf : f ≤ 5) (c : Nat) : (toWf c f 0 false).s = false := by
  have hint : ¬ fmtIsInt f = true := by simp [fmtIsInt]; omega
  have hlayout : (finfo f).fbits ≤ 23 ∧ (finfo f).bias ≤ 127 ∧ (finfo f).ebits ≤ 8 := by interval_cases f <;> decide
  obtain ⟨hfbits, hbias, hebits⟩ := hlayout
  have hfinite (neg : Bool) {E F : Nat} (hE : E < 2 ^ (finfo f).ebits) (hF : F < 2 ^ (finfo f).fbits) :
      (truncWf neg (if E = 0 then F else 2 ^ (finfo f).fbits + F)
        ((if E = 0 then 1 else (E : Int)) - (finfo f).bias - (finfo f).fbits + 0) false false).img.s = false := by
    have hfpow : 2 ^ (finfo f).fbits ≤ 2 ^ 23 := Nat.pow_le_pow_right two_pos hfbits
    have hepow : 2 ^ (finfo f).ebits ≤ 2 ^ 8 := Nat.pow_le_pow_right two_pos hebits
    have hm : (if E = 0 then F else 2 ^ (finfo f).fbits + F) < 2 ^ 24 := by split <;> omega
    refine (truncWf_exact neg false (by omega) fun h0 => ?_).2.1
    have hlog : Nat.log2 (if E = 0 then F else 2 ^ (finfo f).fbits + F) < 24 := (Nat.log2_lt h0).2 hm
    have hplace : 1 ≤ (if E = 0 then 1 else (E : Int)) ∧ (if E = 0 then 1 else (E : Int)) ≤ 255 := by split <;> omega
    omega
  rw [toWf, if_neg hint]
  simp only
  split
  · rfl
  · split
    · rfl
    · split
      · rfl
      · exact hfinite _ (Nat.mod_lt _ (by positivity)) (Nat.mod_lt _ (by positivity))

/-- Settles O18: each kind of load against the library's extensions; the floating types by the exactness of their widening. -/
theorem loadTypes : Obligations.LoadTypes := by
  intro bs
  have hbit (n k : Nat) : (n / 2 ^ k % 2 == 1) = n.testBit k := by rw [Nat.testBit_eq_decide_div_mod_eq, beq_eq_decide]
  have hsigned (n : Nat) : (⟨BitVec.ofNat 64 (bitsOf 64 (signedOf n (leNat bs))), false⟩ : Img) =
      ⟨(BitVec.ofNat n (leNat bs)).signExtend 64, false⟩ := by
    rw [ofNat_bitsOf_signedOf]
  have hnat (n : Nat) (hn : n ≤ 64) : BitVec.ofNat 64 (leNat bs % 2 ^ n) = (BitVec.ofNat n (leNat bs)).setWidth 64 := by
    apply BitVec.eq_of_toNat_eq
    rw [BitVec.toNat_ofNat, BitVec.toNat_setWidth, BitVec.toNat_ofNat]
  refine ⟨hsigned 8, ?_, hsigned 16, hsigned 32, rfl, ?_, ?_, fun f hf => ?_⟩
  · exact congrArg (fun v => (⟨v, false⟩ : Img)) (hnat 8 (by decide))
  · exact congrArg (fun s => (⟨_, s⟩ : Img)) (hbit _ 64)
  · exact congr (congrArg Img.mk (hnat 35 (by decide))) (hbit _ 35)
  · have hwiden : loadImage f bs = toWf (leNat bs) f 0 false := by interval_cases f <;> rfl
    exact ⟨hwiden, by rw [hwiden, toWf_float_s hf]⟩

end Sys2Proof.Machine
end

section
/-! SUPPORT. The exact results of the approximate functions, and the obligation on them (R290). -/
namespace Sys2Proof.Machine

/-! ### The values of dyadic numbers -/

/-- The rational number that a dyadic stands for. -/
def Dy.rat (x : Dy) : ℚ := x.n * 2 ^ x.e

theorem Dy.rat_int (k : Int) : (⟨k, 0⟩ : Dy).rat = k := by simp [Dy.rat]

/-- A power of two with a natural exponent, as a rational number. -/
theorem cast_two_pow_toNat {e : Int} (he : 0 ≤ e) : ((2 ^ e.toNat : Int) : ℚ) = 2 ^ e := by
  rw [Int.cast_pow, Int.cast_ofNat, ← zpow_natCast, Int.toNat_of_nonneg he]

theorem Dy.rat_add (a b : Dy) : (a.add b).rat = a.rat + b.rat := by
  have hplace (n e f : Int) (hf : f ≤ e) : ((n * 2 ^ (e - f).toNat : Int) : ℚ) * 2 ^ f = n * 2 ^ e := by
    rw [Int.cast_mul, cast_two_pow_toNat (by omega), mul_assoc, ← zpow_add₀ two_ne_zero, sub_add_cancel]
  have ha := hplace a.n a.e (min a.e b.e) (min_le_left _ _)
  have hb := hplace b.n b.e (min a.e b.e) (min_le_right _ _)
  simp only [Dy.rat, Dy.add, Int.cast_add, add_mul, ha, hb]

theorem Dy.rat_neg (a : Dy) : a.neg.rat = -a.rat := by simp [Dy.rat, Dy.neg]

theorem Dy.cmp_sub (a b : Dy) : (a.cmp b : ℚ) * 2 ^ (a.add b.neg).e = a.rat - b.rat := by
  rw [sub_eq_add_neg, ← Dy.rat_neg, ← Dy.rat_add]
  rfl

/-- A compare of dyadics has the sign of their difference. -/
theorem Dy.cmp_neg_iff (a b : Dy) : a.cmp b < 0 ↔ a.rat < b.rat := by
  have hpos : (0 : ℚ) < 2 ^ (a.add b.neg).e := by positivity
  rw [← sub_neg (a := a.rat), ← Dy.cmp_sub, ← Int.cast_lt_zero (R := ℚ)]
  exact ⟨fun h => mul_neg_of_neg_of_pos h hpos, fun h => neg_of_mul_neg_left h hpos.le⟩

theorem Dy.cmp_nonneg_iff (a b : Dy) : 0 ≤ a.cmp b ↔ b.rat ≤ a.rat := by
  rw [← not_lt, Dy.cmp_neg_iff, not_lt]

theorem Dy.cmp_eq_zero {a b : Dy} (h : a.rat = b.rat) : a.cmp b = 0 := by
  have hpos : (2 : ℚ) ^ (a.add b.neg).e ≠ 0 := by positivity
  have hcmp := Dy.cmp_sub a b
  rw [h, sub_self] at hcmp
  exact_mod_cast (mul_eq_zero.1 hcmp).resolve_right hpos

/-- In fixed point without fraction bits a whole number is itself. -/
theorem Dy.fixed_of_whole {x : Dy} {k : Int} (h : x.rat = k) : x.fixed 0 = k := by
  have hn : (x.n : ℚ) * 2 ^ x.e = k := h
  rw [Dy.fixed]
  simp only [Nat.cast_zero, add_zero]
  split
  next he =>
    rw [← cast_two_pow_toNat he] at hn
    exact_mod_cast hn
  next he =>
    have hscaled : (x.n : ℚ) = ((k * 2 ^ (-x.e).toNat : Int) : ℚ) := by
      rw [Int.cast_mul, cast_two_pow_toNat (by omega), ← hn, mul_assoc, ← zpow_add₀ two_ne_zero, add_neg_cancel, zpow_zero, mul_one]
    rw [Int.cast_inj.1 hscaled, Int.mul_ediv_cancel _ (by positivity)]

/-! ### Powers of two -/

/-- A working float whose value is a power of two. -/
theorem wf_of_rat_zpow {a : Img} {k : Int} (h : a.wf.rat = 2 ^ k) : a.wf = .fin false (2 ^ 24) (k - 24) ∧ -510 ≤ k ∧ k ≤ 511 := by
  have hpos : (0 : ℚ) < 2 ^ k := by positivity
  match hw : a.wf with
  | .nan | .inf _ | .zero _ =>
    rw [hw] at h
    exact absurd h hpos.ne
  | .fin true m e =>
    rw [hw] at h
    have hneg : Wf.rat (.fin true m e) ≤ 0 := by
      simp [Wf.rat]
      positivity
    linarith
  | .fin false m e =>
    obtain ⟨hlo, hhi, helo, hehi⟩ := wf_fin_bounds hw
    rw [hw] at h
    have hval : (m : ℚ) * 2 ^ e = 2 ^ k := by simpa [Wf.rat] using h
    have hm : (m : ℚ) = 2 ^ (k - e) := by rw [zpow_sub₀ two_ne_zero, eq_div_iff (by positivity), hval]
    have hge : (2 : ℚ) ^ (24 : Int) ≤ 2 ^ (k - e) := by rw [← hm]; exact_mod_cast hlo
    have hlt : (2 : ℚ) ^ (k - e) < 2 ^ (25 : Int) := by rw [← hm]; exact_mod_cast hhi
    have hk : k - e = 24 := by
      have h1 := (zpow_le_zpow_iff_right₀ (one_lt_two (α := ℚ))).1 hge
      have h2 := (zpow_lt_zpow_iff_right₀ (one_lt_two (α := ℚ))).1 hlt
      omega
    have hm24 : m = 2 ^ 24 := by
      rw [hk] at hm
      exact_mod_cast hm
    refine ⟨?_, by omega, by omega⟩
    rw [hm24, show k - 24 = e by omega]

theorem log2_two_pow_24 : Nat.log2 (2 ^ 24) = 24 := Nat.log2_two_pow

/-- A power of two within the grid. -/
theorem truncWf_one (os : Bool) {k : Int} (hlo : -510 ≤ k) (hhi : k ≤ 511) :
    (truncWf false 1 k false os).img.wf.rat = 2 ^ k ∧ (truncWf false 1 k false os).img.s = os ∧ (truncWf false 1 k false os).fl = {} := by
  have h := truncWf_exact false (m := 1) (e := k) os (by decide) (fun _ => by
    have hlog : Nat.log2 1 = 0 := Nat.log2_two_pow (n := 0)
    omega)
  simpa using h

/-- A small whole number. -/
theorem sumRes_int (os : Bool) {k : Int} (hk : k.natAbs < 2 ^ 25) :
    (sumRes ⟨k, 0⟩ os).img.wf.rat = k ∧ (sumRes ⟨k, 0⟩ os).img.s = os ∧ (sumRes ⟨k, 0⟩ os).fl = {} := by
  rw [sumRes]
  split
  next h0 =>
    have hk0 : k = 0 := h0
    rw [wf_wfZero, hk0]
    exact ⟨by simp [Wf.rat], rfl, rfl⟩
  next h0 =>
    have hlog : k.natAbs ≠ 0 → Nat.log2 k.natAbs < 25 := fun h => (Nat.log2_lt h).2 hk
    obtain ⟨hrat, hs, hfl⟩ := truncWf_exact (decide (k < 0)) (e := 0) os hk (fun h => by have := hlog h; omega)
    refine ⟨hrat.trans ?_, hs, hfl⟩
    rw [zpow_zero, mul_one, Nat.cast_natAbs]
    by_cases hneg : k < 0
    · simp [hneg, abs_of_neg]
    · simp [hneg, abs_of_nonneg (not_lt.1 hneg)]

/-! ### The functions -/

section
variable {a : Img} {k : Int}

/-- 2^a of a whole number (R290). -/
theorem wfExp2_of_whole (hfin : a.wf.finite) (hval : a.wf.rat = k) (hlo : -510 ≤ k) (hhi : k ≤ 511) :
    (wfExp2 a).img.wf.rat = 2 ^ k ∧ (wfExp2 a).img.s = a.s ∧ (wfExp2 a).fl = {} := by
  match hw : a.wf with
  | .nan | .inf _ =>
    rw [hw] at hfin
    cases hfin
  | .zero z =>
    have hzero : (k : ℚ) = 0 := by
      rw [← hval, hw]
      rfl
    have hk : k = 0 := Int.cast_eq_zero.1 hzero
    have hone : wfExp2 a = { img := ⟨wfPack false 511 0, a.s⟩ } := by rw [wfExp2, hw]
    rw [hone, wf_wfPack (by decide) (by decide), hk]
    exact ⟨by norm_num [Wf.rat], rfl, rfl⟩
  | .fin neg m e =>
    have hx : (⟨if neg then -(m : Int) else m, e⟩ : Dy).rat = k := by
      rw [← hval, hw, Dy.rat, Wf.rat]
      cases neg <;> simp
    have hwhole : wfExp2 a = truncWf false 1 k false a.s := by
      rw [wfExp2, hw]
      simp only [Dy.fixed_of_whole hx]
      rw [if_neg, if_neg, if_pos (Dy.cmp_eq_zero (hx.trans (Dy.rat_int k).symm))]
      · rw [Dy.cmp_neg_iff, hx, Dy.rat_int, Int.cast_lt]
        omega
      · rw [Dy.cmp_nonneg_iff, hx, Dy.rat_int, Int.cast_le]
        omega
    rw [hwhole]
    exact truncWf_one a.s hlo hhi

/-- log2 of a power of two. -/
theorem wfLog2_of_zpow (hval : a.wf.rat = 2 ^ k) : (wfLog2 a).img.wf.rat = k ∧ (wfLog2 a).img.s = a.s ∧ (wfLog2 a).fl = {} := by
  obtain ⟨hw, hlo, hhi⟩ := wf_of_rat_zpow hval
  have hlog : wfLog2 a = sumRes ⟨k, 0⟩ a.s := by
    rw [wfLog2, hw]
    simp only [log2_two_pow_24, if_true]
    congr 2
    omega
  rw [hlog]
  exact sumRes_int a.s (by omega)

theorem wfRcp_of_zpow (hval : a.wf.rat = 2 ^ k) (hk : k ≤ 510) :
    (wfRcp a).img.wf.rat = 2 ^ (-k) ∧ (wfRcp a).img.s = a.s ∧ (wfRcp a).fl = {} := by
  obtain ⟨hw, hlo, hhi⟩ := wf_of_rat_zpow hval
  have hrcp : wfRcp a = truncWf false 1 (-k) false a.s := by
    rw [wfRcp, hw]
    simp only [log2_two_pow_24, if_true]
    congr 1
    omega
  rw [hrcp]
  exact truncWf_one a.s (by omega) (by omega)

theorem wfRsq_of_zpow (hval : a.wf.rat = 2 ^ (2 * k)) :
    (wfRsq a).img.wf.rat = 2 ^ (-k) ∧ (wfRsq a).img.s = a.s ∧ (wfRsq a).fl = {} := by
  obtain ⟨hw, hlo, hhi⟩ := wf_of_rat_zpow hval
  have hrsq : wfRsq a = truncWf false 1 (-k) false a.s := by
    rw [wfRsq, hw]
    simp only [log2_two_pow_24]
    rw [if_pos ⟨trivial, by omega⟩]
    congr 1
    omega
  rw [hrsq]
  exact truncWf_one a.s (by omega) (by omega)

end

/-- Settles O9: the five instructions compute their functions, whose exact cases are powers of two narrowed without a loss. What an inexact result is
within its bound is a free value of the model (log 5). -/
theorem approximateFunctions : Obligations.ApproximateFunctions := by
  refine ⟨fun p t u => ?_, fun a k => wfExp2_of_whole, fun a k => wfLog2_of_zpow, fun a k => wfRcp_of_zpow, fun a k => wfRsq_of_zpow⟩
  exact ⟨computes_leftOnly (exec_fexp2 p t u) (fun _ => rfl), computes_leftOnly (exec_flog2 p t u) (fun _ => rfl),
    computes_leftOnly (exec_frcp p t u) (fun _ => rfl), computes_leftOnly (exec_frsq p t u) (fun _ => rfl),
    computes_leftOnly (exec_ftanh p t u) (fun _ => rfl)⟩

end Sys2Proof.Machine
end

section
/-! SUPPORT. Packed instructions and random numbers, and the obligation on them (R161, R296 to R299, R307). -/
namespace Sys2Proof.Machine

/-! ### Sub-elements and packing (R297) -/

/-- The sub-elements of an operand. -/
theorem sub_eq_elt (a : Img) (w j : Nat) : sub w j a.v.toNat = (a.elt w j).toNat := by
  rw [sub, Img.elt, BitVec.extractLsb'_toNat, Nat.shiftRight_eq_div_pow]

/-- The sub-elements of an operand that lie within its width. -/
theorem sub_uval {n w j : Nat} (hj : j < n / w) (a : Img) : sub w j (uval n a) = (a.elt w j).toNat := by
  have hfit : w * j + w ≤ n := (Nat.mul_succ w j).symm.trans_le ((Nat.mul_le_mul_left w hj).trans (Nat.mul_div_le n w))
  rw [← sub_eq_elt, sub, sub, uval]
  refine Nat.eq_of_testBit_eq fun i => ?_
  simp only [Nat.testBit_mod_two_pow, Nat.testBit_div_two_pow]
  by_cases hi : i < w
  · simp [hi, show i + w * j < n by omega]
  · simp [hi]

theorem bitsOf_eq_toNat (k : Nat) (x : Int) : bitsOf k x = (BitVec.ofInt k x).toNat := by
  rw [BitVec.toNat_ofInt, bitsOf, Nat.cast_pow, Nat.cast_ofNat]

theorem pack_append (k : Nat) (l : List Nat) (x : Nat) : pack k (l ++ [x]) = pack k l + 2 ^ (k * l.length) * (x % 2 ^ k) := by
  induction l with
  | nil => simp [pack]
  | cons y ys ih =>
    rw [List.cons_append, pack, pack, ih, List.length_cons, Nat.mul_succ, pow_add]
    ring

theorem pack_lt (k : Nat) (l : List Nat) : pack k l < 2 ^ (k * l.length) := by
  induction l with
  | nil => simp [pack]
  | cons y ys ih =>
    have hlow : y % 2 ^ k < 2 ^ k := Nat.mod_lt _ (by positivity)
    calc pack k (y :: ys) < 2 ^ k + 2 ^ k * pack k ys := Nat.add_lt_add_right hlow _
      _ = 2 ^ k * (pack k ys + 1) := by ring
      _ ≤ 2 ^ k * 2 ^ (k * ys.length) := Nat.mul_le_mul_left _ ih
      _ = 2 ^ (k * (y :: ys).length) := by rw [← pow_add, List.length_cons, Nat.mul_succ, Nat.add_comm]

/-- The first c sub-elements of a packed value. -/
def packedTo (n k c : Nat) (f : Nat → BitVec k) : BitVec n := (List.range c).foldl (fun r j => r ||| ((f j).setWidth n <<< (k * j))) 0

theorem packedTo_toNat {n k : Nat} {v : Nat → Nat} {f : Nat → BitVec k} : ∀ c, k * c ≤ n → (∀ j < c, v j % 2 ^ k = (f j).toNat) →
    (packedTo n k c f).toNat = pack k ((List.range c).map v) := by
  intro c
  induction c with
  | zero => intros; simp [packedTo, pack]
  | succ c ih =>
    intro hfit hv
    rw [Nat.mul_succ] at hfit
    have hlow := ih (by omega) (fun j hj => hv j (by omega))
    have hpack := pack_lt k ((List.range c).map v)
    rw [List.length_map, List.length_range] at hpack
    have hshift : ((f c).setWidth n <<< (k * c)).toNat = 2 ^ (k * c) * (f c).toNat := by
      have hbound : (f c).toNat * 2 ^ (k * c) < 2 ^ n := by
        calc (f c).toNat * 2 ^ (k * c) < 2 ^ k * 2 ^ (k * c) := Nat.mul_lt_mul_of_pos_right (f c).isLt (by positivity)
          _ = 2 ^ (k * c + k) := by rw [← pow_add, Nat.add_comm]
          _ ≤ 2 ^ n := Nat.pow_le_pow_right two_pos hfit
      rw [BitVec.toNat_shiftLeft, BitVec.toNat_setWidth, Nat.shiftLeft_eq,
        Nat.mod_eq_of_lt ((f c).isLt.trans_le (Nat.pow_le_pow_right two_pos (by omega))), Nat.mod_eq_of_lt hbound, Nat.mul_comm]
    have hstep : packedTo n k (c + 1) f = packedTo n k c f ||| ((f c).setWidth n <<< (k * c)) := by
      rw [packedTo, List.range_succ, List.foldl_append]
      rfl
    rw [hstep, BitVec.toNat_or, hlow, hshift, List.range_succ, List.map_append, List.map_singleton, pack_append, List.length_map, List.length_range,
      hv c (by omega), Nat.or_comm, ← Nat.two_pow_add_eq_or_of_lt hpack, Nat.add_comm]

/-- A packed image, from the numbers of its sub-elements. -/
theorem pack_eq_packed {n k : Nat} {v : Nat → Nat} {f : Nat → BitVec k} (hv : ∀ j < n / k, v j % 2 ^ k = (f j).toNat) (s : Bool) :
    (⟨BitVec.ofNat 64 (pack k ((List.range (n / k)).map v)), s⟩ : Img) = ofBits (packed n k f) s := by
  rw [← packedTo_toNat (n / k) (Nat.mul_div_le n k) hv, BitVec.ofNat_toNat]
  rfl

/-! ### Dot products (R161, R296) -/

/-- The exact sum of a dot product, g naming the operands of natural numbers. -/
def dotSum (g : BitVec 2) (w k : Nat) (a b c : Img) : Int := (c.at 32).toInt + ∑ j ∈ Finset.range k,
  (if g.getLsbD 0 then ((a.elt w j).toNat : Int) else (a.elt w j).toInt) * (if g.getLsbD 1 then ((b.elt w j).toNat : Int) else (b.elt w j).toInt)

theorem foldl_add_eq_sum (f : Nat → Int) (x : Int) (k : Nat) : (List.range k).foldl (fun t j => t + f j) x = x + ∑ j ∈ Finset.range k, f j := by
  induction k with
  | zero => simp
  | succ k ih => rw [List.range_succ, List.foldl_append, ih, Finset.sum_range_succ, ← add_assoc]; rfl

/-- DOT4 and DOT8 narrow the exact sum once: to the nearest 32-bit number, or to its low 32 bits. -/
theorem aluDot_eq (w k : Nat) (wrap : Bool) (g : BitVec 2) (n : Nat) (a b c : Img) :
    aluDot w k wrap g n a b c =
      (let t := dotSum g w k a b c
       let r := if wrap then signedOf 32 (bitsOf 32 t) else satInt t 13
       let hit := !wrap && decide (r ≠ t)
       { img := wrapImg n r (a.s || b.s || c.s || hit), fl := { sat := hit } }) := by
  have hleft : (g = 1 ∨ g = 3) = (g.getLsbD 0 = true) := by revert g; decide
  have hright : (g = 2 ∨ g = 3) = (g.getLsbD 1 = true) := by revert g; decide
  have hsum : (List.range k).foldl (fun t j => t +
      (if g.getLsbD 0 then ((a.elt w j).toNat : Int) else (a.elt w j).toInt) * (if g.getLsbD 1 then ((b.elt w j).toNat : Int) else (b.elt w j).toInt))
      (c.at 32).toInt = dotSum g w k a b c := foldl_add_eq_sum _ _ _
  rw [aluDot]
  simp only [hleft, hright, sub_eq_elt, signedOf_toNat, signedOf_eq_toInt 32 c.v, ← hsum]
  rfl

/-- The saturating form. -/
theorem aluDot_saturates (w k : Nat) (g : BitVec 2) (n : Nat) (a b c : Img) :
    aluDot w k false g n a b c =
      { img := ofBits (BitVec.ofInt n (nearest false 32 (dotSum g w k a b c)))
          (a.s || b.s || c.s || decide (nearest false 32 (dotSum g w k a b c) ≠ dotSum g w k a b c))
        fl := { sat := decide (nearest false 32 (dotSum g w k a b c) ≠ dotSum g w k a b c) } } := by
  have hsat (t : Int) : satInt t 13 = nearest false 32 t := satInt_eq_nearest t 13
  rw [aluDot_eq]
  simp only [hsat, wrapImg_eq, Bool.false_eq_true, if_false, Bool.not_false, Bool.true_and]

/-- The wrapping form. -/
theorem aluDot_wraps (w k : Nat) (g : BitVec 2) (n : Nat) (a b c : Img) :
    aluDot w k true g n a b c = { img := ofBits ((BitVec.ofInt 32 (dotSum g w k a b c)).signExtend n) (a.s || b.s || c.s) } := by
  rw [aluDot_eq]
  simp only [if_true, wrapImg_eq, bitsOf_eq_toNat, signedOf_toNat, Bool.not_true, Bool.false_and, Bool.or_false]
  rfl

/-! ### Packed sums and shifts (R297, R298) -/

/-- One sub-element of ADDP, and whether it was clamped. -/
def addpOne (m : BitVec 2) (k n : Nat) (a b : Img) (j : Nat) : Int × Bool :=
  let x := sub k j (uval n a)
  let y := sub k j (uval n b)
  if m = 0 then ((x : Int) + y, false)
  else
    let t : Int := if m = 1 then signedOf k x + signedOf k y else (x : Int) + y
    let r := clampTo (m == 2) k t
    (r, decide (r ≠ t))

/-- The exact sum of two sub-elements, signed or natural. -/
def addpSum (signed : Bool) (k : Nat) (a b : Img) (j : Nat) : Int :=
  if signed then (a.elt k j).toInt + (b.elt k j).toInt else (a.elt k j).toNat + (b.elt k j).toNat

section
variable {m w : BitVec 2} {n k j : Nat} {a b : Img}

/-- ADDP, once its sub-elements are known to wrap to f and to be clamped where hit says. -/
theorem aluAddp_of {r : Nat → Int} {hit : Nat → Bool} (hone : ∀ j < n / packWidth w, addpOne m (packWidth w) n a b j = (r j, hit j)) :
    aluAddp m w n a b =
      { img := ofBits (packed n (packWidth w) (fun j => BitVec.ofInt (packWidth w) (r j)))
          (a.s || b.s || (List.range (n / packWidth w)).any hit)
        fl := { sat := (List.range (n / packWidth w)).any hit } } := by
  have hmap : (List.range (n / packWidth w)).map (addpOne m (packWidth w) n a b) = (List.range (n / packWidth w)).map (fun j => (r j, hit j)) :=
    List.map_congr_left fun j hj => hone j (List.mem_range.1 hj)
  have hlist : aluAddp m w n a b =
      (let rs := (List.range (n / packWidth w)).map (addpOne m (packWidth w) n a b)
       { img := ⟨BitVec.ofNat 64 (pack (packWidth w) (rs.map (fun r => bitsOf (packWidth w) r.1))), a.s || b.s || rs.any (fun r => r.2)⟩
         fl := { sat := rs.any (fun r => r.2) } }) := rfl
  rw [hlist, hmap]
  simp only [List.map_map, List.any_map]
  congr 1
  exact pack_eq_packed (fun j _ => by
    rw [Function.comp, bitsOf_eq_toNat, Nat.mod_eq_of_lt (BitVec.isLt _)]) _

theorem addpOne_wraps (hj : j < n / k) : addpOne 0 k n a b j = (((a.elt k j).toNat : Int) + (b.elt k j).toNat, false) := by
  rw [addpOne, sub_uval hj, sub_uval hj]
  rfl

theorem addpOne_clamps (signed : Bool) (hj : j < n / k) : addpOne (if signed then 1 else 2) k n a b j =
    (nearest (!signed) k (addpSum signed k a b j), nearest (!signed) k (addpSum signed k a b j) != addpSum signed k a b j) := by
  have hne (x y : Int) : (x != y) = decide (x ≠ y) := by simp [bne, beq_eq_decide]
  rw [hne, ← clampTo_eq_nearest, addpOne, sub_uval hj, sub_uval hj, signedOf_toNat, signedOf_toNat]
  cases signed <;> rfl

end

section
variable (w : BitVec 2) (n : Nat) (a b : Img)

theorem aluAddp_wraps : aluAddp 0 w n a b =
    { img := ofBits (packed n (packWidth w) (fun j => a.elt (packWidth w) j + b.elt (packWidth w) j)) (a.s || b.s) } := by
  have hwrap (j : Nat) : BitVec.ofInt (packWidth w) (((a.elt (packWidth w) j).toNat : Int) + (b.elt (packWidth w) j).toNat)
      = a.elt (packWidth w) j + b.elt (packWidth w) j := by
    rw [BitVec.ofInt_add, ofInt_toNat, ofInt_toNat]
  have hnone : (List.range (n / packWidth w)).any (fun _ => false) = false := by simp
  rw [aluAddp_of (fun j hj => addpOne_wraps hj), hnone, Bool.or_false]
  simp only [hwrap]

theorem aluAddp_clamps (signed : Bool) : aluAddp (if signed then 1 else 2) w n a b =
    (let k := packWidth w
     let hit := (List.range (n / k)).any (fun j => nearest (!signed) k (addpSum signed k a b j) != addpSum signed k a b j)
     { img := ofBits (packed n k (fun j => BitVec.ofInt k (nearest (!signed) k (addpSum signed k a b j)))) (a.s || b.s || hit)
       fl := { sat := hit } }) :=
  aluAddp_of (fun _ hj => addpOne_clamps signed hj)

/-- A packed shift, once a shift of one sub-element is known. -/
theorem aluShp_of {kind : Nat} {f : BitVec (packWidth w) → BitVec (packWidth w) → BitVec (packWidth w)} {g : Nat → Nat → Nat}
    (hkind : aluShp kind w n a b =
      { img := ⟨BitVec.ofNat 64 (pack (packWidth w) ((List.range (n / packWidth w)).map (fun j =>
          g (sub (packWidth w) j (uval n a)) (sub (packWidth w) j (uval n b))))), a.s || b.s⟩ })
    (hg : ∀ x y : BitVec (packWidth w), g x.toNat y.toNat = (f x y).toNat) :
    aluShp kind w n a b = { img := ofBits (packed n (packWidth w) (fun j => f (a.elt (packWidth w) j) (b.elt (packWidth w) j))) (a.s || b.s) } := by
  rw [hkind]
  congr 1
  exact pack_eq_packed (fun j hj => by rw [sub_uval hj, sub_uval hj, hg, Nat.mod_eq_of_lt (BitVec.isLt _)]) _

theorem aluShp_left : aluShp 0 w n a b =
    { img := ofBits (packed n (packWidth w) (fun j => a.elt (packWidth w) j <<< b.elt (packWidth w) j)) (a.s || b.s) } :=
  aluShp_of w n a b (g := shl (packWidth w)) (f := fun x y => x <<< y) rfl (fun x y => shl_toNat x y.toNat)

theorem aluShp_right : aluShp 1 w n a b =
    { img := ofBits (packed n (packWidth w) (fun j => a.elt (packWidth w) j >>> b.elt (packWidth w) j)) (a.s || b.s) } :=
  aluShp_of w n a b (g := shr (packWidth w)) (f := fun x y => x >>> y) rfl (fun x y => shr_toNat x y.toNat)

theorem aluShp_arithmetic : aluShp 2 w n a b =
    { img := ofBits (packed n (packWidth w) (fun j => (a.elt (packWidth w) j).sshiftRight' (b.elt (packWidth w) j))) (a.s || b.s) } :=
  aluShp_of w n a b (g := fun x y => bitsOf (packWidth w) (shra (packWidth w) x y)) (f := fun x y => x.sshiftRight' y) rfl (fun x y => by
    rw [shra_toNat, bitsOf_eq_toNat, BitVec.sshiftRight', BitVec.sshiftRight, Int.shiftRight_eq_div_pow, Nat.cast_pow, Nat.cast_ofNat])

end

/-! ### BPERM (R299) -/

/-- A byte of 16 to choose from: of the left operand, of the right operand behind it, or 0. -/
theorem aluBperm_eq (n : Nat) (a b c : Img) : aluBperm n a b c =
    (let h := n / 8
     let v (i : Nat) : Nat := (c.elt 4 i).toNat
     { img := ofBits (packed n 8 (fun i => if v i < h then a.elt 8 (v i) else if v i < 2 * h then b.elt 8 (v i - h) else 0))
         (c.s || (a.s && (List.range h).any (fun i => decide (v i < h)))
           || (b.s && (List.range h).any (fun i => decide (h ≤ v i ∧ v i < 2 * h)))) }) := by
  rw [aluBperm]
  simp only [sub_eq_elt]
  congr 1
  refine pack_eq_packed (fun i _ => ?_) _
  simp only [decide_eq_true_eq]
  by_cases hleft : (c.elt 4 i).toNat < n / 8
  · rw [if_pos hleft, if_pos hleft, Nat.mod_eq_of_lt (BitVec.isLt _)]
  · rw [if_neg hleft, if_neg hleft]
    by_cases hright : (c.elt 4 i).toNat < 2 * (n / 8)
    · rw [if_pos ⟨Nat.not_lt.1 hleft, hright⟩, if_pos hright, Nat.mod_eq_of_lt (BitVec.isLt _)]
    · rw [if_neg (fun h => hright h.2), if_neg hright]
      rfl

/-! ### RNG (R307) -/

/-- The draw for a seed, a position, and the lane and index of the third operand. -/
def rngOf (a b c : Img) : Word := rngDraw (a.at 32) (b.at 32) ((c.at 9).setWidth 32 <<< 16 ||| (c.v.extractLsb' 16 16).setWidth 32)

theorem rngKey_eq (v : DWord) :
    BitVec.ofNat 32 (v.toNat % 512 * 65536 + v.toNat / 2 ^ 16 % 2 ^ 16) = (v.setWidth 9).setWidth 32 <<< 16 ||| (v.extractLsb' 16 16).setWidth 32 := by
  apply BitVec.eq_of_toNat_eq
  have hindex : v.toNat / 2 ^ 16 % 2 ^ 16 < 2 ^ 16 := Nat.mod_lt _ (by decide)
  have hlane : v.toNat % 512 < 2 ^ 9 := Nat.mod_lt _ (by decide)
  have hor := Nat.two_pow_add_eq_or_of_lt hindex (v.toNat % 512)
  rw [BitVec.toNat_or, BitVec.toNat_shiftLeft, BitVec.toNat_setWidth, BitVec.toNat_setWidth, BitVec.toNat_setWidth, BitVec.extractLsb'_toNat,
    Nat.shiftLeft_eq, Nat.shiftRight_eq_div_pow, BitVec.toNat_ofNat]
  rw [show v.toNat % 2 ^ 9 % 2 ^ 32 * 2 ^ 16 % 2 ^ 32 = 2 ^ 16 * (v.toNat % 512) by omega,
    show v.toNat / 2 ^ 16 % 2 ^ 16 % 2 ^ 32 = v.toNat / 2 ^ 16 % 2 ^ 16 by omega, ← hor]
  omega

theorem aluRng_draws (a b c : Img) : aluRng false a b c = { img := ofBits (rngOf a b c) (a.s || b.s || c.s) } := by
  rw [aluRng, rngKey_eq]
  rfl

/-- The working-float form: the upper 24 bits of the draw as a fraction. -/
theorem aluRng_fraction (a b c : Img) :
    (aluRng true a b c).img.wf.rat = ((rngOf a b c).toNat / 256 : ℕ) / 2 ^ 24 ∧ (aluRng true a b c).img.s = (a.s || b.s || c.s)
      ∧ (aluRng true a b c).fl = {} := by
  have hrng : aluRng true a b c = { img := if (rngOf a b c).toNat / 256 = 0 then wfZero false (a.s || b.s || c.s)
      else (truncWf false ((rngOf a b c).toNat / 256) (-24) false (a.s || b.s || c.s)).img } := by
    rw [aluRng, rngKey_eq]
    rfl
  have hdraw : (rngOf a b c).toNat / 256 < 2 ^ 24 := Nat.div_lt_of_lt_mul (rngOf a b c).isLt
  rw [hrng]
  split
  next h0 =>
    rw [wf_wfZero, h0]
    exact ⟨by simp [Wf.rat], rfl, rfl⟩
  next h0 =>
    have hlog : Nat.log2 ((rngOf a b c).toNat / 256) < 24 := (Nat.log2_lt h0).2 hdraw
    obtain ⟨hrat, hs, -⟩ := truncWf_exact false (e := -24) (a.s || b.s || c.s) (hdraw.trans (by decide)) (fun _ => by omega)
    refine ⟨hrat.trans ?_, hs, rfl⟩
    rw [if_neg Bool.false_ne_true, one_mul, zpow_neg, div_eq_mul_inv]
    norm_cast

/-! ### The obligation -/

/-- An instruction that computes from all three operands, whatever the format of its result. -/
theorem computes_three {i : Instr} {p : BitVec 2} {ts : List (BitVec 9)} {fm : Nat → Nat → Img → Nat} {f : Nat → Img → Img → Img → AluRes}
    {r : Nat → Img → Img → Img → Img × Flags} (hi : ∀ s, exec i s = execAlu s p ts [.left, .right, .third] fm (fun e a b c => f e.n a b c))
    (hr : ∀ n a b c, f n a b c = ⟨(r n a b c).1, (r n a b c).2⟩) : Computes i p ts [.left, .right, .third] r :=
  computes_of pred_leftRightThird hi (fun e _ a b c a' b' c' ha hb hc => by
    rw [ha (by simp), hb (by simp), hc (by simp)]
    exact hr e.n a b c)

/-- RNG, whose form says whether the draw is a fraction. -/
theorem computes_rng (p : BitVec 2) (t u : BitVec 9) (w : BitVec 1) {r : Img → Img → Img → Img × Flags}
    (hr : ∀ a b c, aluRng (w == 1) a b c = ⟨(r a b c).1, (r a b c).2⟩) :
    Computes (.rng p t u w) p [t, u] [.left, .right, .third] (fun _ a b c => r a b c) :=
  computes_three (f := fun _ => aluRng (w == 1)) (exec_rng p t u w) (fun _ => hr)

/-- Settles O12: dot products narrowed once from their exact sums, sums and shifts by their sub-elements, BPERM by its bytes, RNG by its draw. -/
theorem packedInstructions : Obligations.PackedInstructions := by
  intro p t u g
  refine ⟨⟨?_, ?_, ?_, ?_⟩, fun w _ => ⟨?_, ?_, ?_, ?_, ?_, ?_⟩, ?_, ?_, aluRng_fraction, ?_⟩
  · exact computes_three (exec_dot4 p t u 0 g) (aluDot_saturates 8 4 g)
  · exact computes_three (exec_dot8 p t u 0 g) (aluDot_saturates 4 8 g)
  · exact computes_three (exec_dot4 p t u 1 g) (aluDot_wraps 8 4 g)
  · exact computes_three (exec_dot8 p t u 1 g) (aluDot_wraps 4 8 g)
  · exact computes_leftRight (exec_addp p t u 0 w) (fun n _ _ a b => aluAddp_wraps w n a b)
  · exact computes_leftRight (exec_addp p t u 1 w) (fun n _ _ a b => aluAddp_clamps w n a b true)
  · exact computes_leftRight (exec_addp p t u 2 w) (fun n _ _ a b => aluAddp_clamps w n a b false)
  · exact computes_leftRight (exec_shlp p t u w) (fun n _ _ a b => aluShp_left w n a b)
  · exact computes_leftRight (exec_shrp p t u 0 w) (fun n _ _ a b => aluShp_right w n a b)
  · exact computes_leftRight (exec_shrp p t u 1 w) (fun n _ _ a b => aluShp_arithmetic w n a b)
  · exact computes_three (exec_bperm p t u) aluBperm_eq
  · exact computes_rng p t u 0 (fun a b c => aluRng_draws a b c)
  · exact computes_rng p t u 1 (fun a b c => congrArg (AluRes.mk _) (aluRng_fraction a b c).2.2)

end Sys2Proof.Machine
end
